-- ==== Sys2Proof/Word.lean ====
section
/-!
DEFINITION. The word types of the block and their plainest arithmetic.
Bit vectors stand for what the manual treats as bits; counts and indices are Nat or Fin.
-/
namespace Sys2Proof

/-- A byte of any memory. -/
abbrev Byte := BitVec 8

/-- A 64-bit word: a scalar register, a counter, an address while it is computed. -/
abbrev Word := BitVec 64

/-- A 27-bit chip address (R4): pod [26:15], Z [14:10], Y [9:5], X [4:0]. -/
abbrev ChipAddr := BitVec 27

/-- A logical tile number, 0 to 63 (R19). -/
abbrev TileId := Fin 64

/-- A Serac cluster, 0 to 7 (R20). -/
abbrev ClusterId := Fin 8

/-- A Dalder port index, 0 to 19 (R341). -/
abbrev PortId := Fin 20

/-- An HBM stack, 0 to 7 (R16). -/
abbrev StackId := Fin 8

/-- A clock-stretcher domain (R579): 0 to 3 quadrants, 4 Serac, 5 network. -/
abbrev StretchDomain := Fin 6

/-- A byte memory in its one canonical form: addresses strictly rising, no entry
equal to what an unlisted address reads as (`Machine.State` says which that is). -/
abbrev Bytes := List Byte

end Sys2Proof
end

