-- ==== Sys2Proof/Syntax.lean ====
section
/-!
DEFINITION. The commands of the block: one constructor for each row of spec/opcode_table.json,
with the operands the row needs. What only timing, a pin, a partner or a sensor decides is an
operand of the command that reports it.
-/
namespace Sys2Proof

/-- A PCIe port of the package (R478). -/
inductive PciePort where
  | a | b
  deriving DecidableEq, Repr

/-- One of the two link dies, each with a router and a collective engine (R16, R404). -/
inductive Die where
  | west | east
  deriving DecidableEq, Repr

/-- One received frame (R345, R347): its 80 header bits, its 600 payload bytes, the logical lane
it came on, and the number of symbol errors the channel put into its codeword (R346). -/
structure Frame where
  hdr     : BitVec 80
  payload : List Byte
  lane    : Fin 8
  symErrs : Nat
  deriving DecidableEq, Repr

/-- The CTRL frame that carried a control message: what its header also says (R347, R348), the logical lane it came
on, and the number of symbol errors the channel put into its codeword (R346). -/
structure CtlHeader where
  ackseq  : BitVec 20
  cvc     : BitVec 3
  ccnt    : BitVec 5
  lane    : Fin 8
  symErrs : Nat
  deriving DecidableEq, Repr

/-- A router packet (R379) as its header fields, its masks and its payload. -/
structure Packet where
  dst     : BitVec 32
  src     : BitVec 32
  ctl     : BitVec 8
  ept     : BitVec 8
  tag     : BitVec 32
  masks   : List (BitVec 32)
  payload : List Byte
  deriving DecidableEq, Repr

/-- A message packet at the CP, and whether the host takes what is written of it (R491, R508). -/
structure MsgIn where
  pkt    : Packet
  hostOk : Bool
  deriving DecidableEq, Repr

/-- Where a packet enters a router: a port of R341, or the on-die network (R392). -/
inductive RouterInput where
  | port (p : PortId) | network
  deriving DecidableEq, Repr

/-- What a patrol-scrub read of a line finds (R275, R277). -/
inductive ScrubFinding where
  | clean | corrected | uncorrectable
  deriving DecidableEq, Repr

/-- What made a port detect partner loss (R366), a DOWN frame apart. -/
inductive LossCause where
  | lockLost | noGoodFrame
  deriving DecidableEq, Repr

/-- Why a receiver declares a lane fault (R361): CDR lock is lost, more than four frames were uncorrectable within
1 ms, or too many symbols were corrected within 1 ms. -/
inductive LaneCause where
  | lockLost | uncorrectable | errorRate
  deriving DecidableEq, Repr

/-- A lane that a receiver declares faulty, and why (R361). -/
structure LaneLoss where
  lane  : Fin 8
  cause : LaneCause
  deriving DecidableEq, Repr

/-- A fetched command by its handle, and whether the host takes what it writes (R491). -/
structure HostCmd where
  handle : Nat
  hostOk : Bool
  deriving DecidableEq, Repr

/-- What CONFIG exchanges with the partner (R354, R355): its address, port index, MAXW, rate
request (true for HALF), and the lanes its end passed through ALIGN (0-7, spares 8-11). -/
structure ConfigOffer where
  addr  : ChipAddr
  port  : BitVec 5
  maxw  : BitVec 4
  half  : Bool
  lanes : BitVec 12
  deriving DecidableEq, Repr

/-- One lock-step digest entry (R451). -/
structure LsEntry where
  unit   : BitVec 8
  tile   : BitVec 8
  count  : BitVec 32
  digest : BitVec 64
  deriving DecidableEq, Repr

/-- A kind of unit an event is attributed to (R530 UKIND). -/
inductive UnitKind where
  | chip | tile | column | engine | lane | pseudoChannel | collEngine | port
  deriving DecidableEq, Repr

/-- A unit that failed a known-answer test (R519): its kind, its physical index, and whether the
repeat failed too. -/
structure TestFailure where
  kind   : UnitKind
  index  : BitVec 16
  number : BitVec 64
  again  : Bool
  deriving DecidableEq, Repr

/-- The register blocks (R270, R480, R490, R597): map address spaces, port, group and router
blocks, and the BAR0 of a PCIe port. -/
inductive RegSpace where
  | tile (t : TileId) | cluster (c : ClusterId) | cp
  | linkPort (p : PortId) | linkGroup (g : Fin 4) | router (d : Die)
  | bar0 (p : PciePort) | config (p : PciePort)
  deriving DecidableEq, Repr

/-- Who writes a register. -/
inductive RegAgent where
  | sequencer | cp | smc | host (p : PciePort)
  deriving DecidableEq, Repr

/-- A BAR2 access (R507): a read of a length, or a write of bytes. -/
inductive Bar2Op where
  | read (len : Nat) | write (data : List Byte)
  deriving DecidableEq, Repr

/-- The envelope of a Lomtirel COMMAND as the SMC receives it (R594, R598): the manager's MAC
address and the frame's SEQ. -/
structure LomHeader where
  mac : BitVec 48
  seq : BitVec 32
  deriving DecidableEq, Repr

/-- The two PWRBRK wires (R568). -/
inductive BrakeWire where
  | a | b
  deriving DecidableEq, Repr

/-- The two variable rails (R559). -/
inductive Rail where
  | core | serac
  deriving DecidableEq, Repr

/-- The temperatures of one thermal sample (R572): sensors 0-14, then the eight stacks, in °C. -/
structure Temps where
  die    : List (BitVec 8)
  hbm : List (BitVec 8)
  deriving DecidableEq, Repr

/-- How a boot step ended, as far as the parts outside the SMC decide it (R587). `ok` says the
step's action succeeded; `detail` is its own DETAIL (in step 4 the journals that cannot be read);
`lost` the sectors of the boot journal that fail their checks (R591); `pcieA` and `pcieB` say which
PCIe ports reached L0; `failed` are the units a self-test found faulty. -/
structure StepResult where
  ok     : Bool
  detail : BitVec 16
  lost   : List Nat
  pcieA  : Bool
  pcieB  : Bool
  failed : List TestFailure
  deriving DecidableEq, Repr

/-- The commands, in the order of spec/opcode_table.json. -/
inductive Instr where
  -- the tile sequencer: scalar arithmetic
  | saluAdd (t : TileId)
  | saluSub (t : TileId)
  | saluMul (t : TileId)
  | saluAnd (t : TileId)
  | saluOr (t : TileId)
  | saluXor (t : TileId)
  | saluShl (t : TileId)
  | saluShr (t : TileId)
  | saluSra (t : TileId)
  | saluMin (t : TileId)
  | saluMax (t : TileId)
  | saluMinu (t : TileId)
  | saluMaxu (t : TileId)
  | psetEq (t : TileId)
  | psetNe (t : TileId)
  | psetLt (t : TileId)
  | psetGe (t : TileId)
  | psetLtu (t : TileId)
  | psetGeu (t : TileId)
  -- scalar memory
  | ld (t : TileId)
  | st (t : TileId) (visible : Bool)
  | pldEq0 (t : TileId)
  | pldNe0 (t : TileId)
  | pldBit (t : TileId)
  | amoAdd (t : TileId)
  | amoSwp (t : TileId)
  | amoCas (t : TileId)
  -- control flow and synchronisation
  | br (t : TileId)
  | jal (t : TileId)
  | jr (t : TileId)
  | seqEnd (t : TileId)
  | fenceSc (t : TileId)
  | fenceCo (t : TileId)
  | waitslot (t : TileId)
  | waitslotRelease (t : TileId)
  | phase (t : TileId)
  | illegalInstr (t : TileId)
  | loadReturn (t : TileId) (k : Nat)
  | tagCommit (t : TileId)
  | tagSquash (t : TileId)
  -- matrix array and epilogue
  | mpass (t : TileId)
  | passStart (t : TileId)
  | passComplete (t : TileId) (stall : Word)
  | epi (t : TileId)
  | epiStart (t : TileId)
  | epiRow (t : TileId) (stall : Word)
  -- rime unit
  | rcfg (t : TileId)
  | rbind (t : TileId)
  | rdrain (t : TileId)
  | gramRow (t : TileId)
  | rimeDrainRead (t : TileId) (slot : Fin 4)
  | rimeDrainDone (t : TileId) (slot : Fin 4)
  -- vector engine
  | vecAdd (t : TileId) (eager : Bool)
  | vecSub (t : TileId) (eager : Bool)
  | vecMul (t : TileId) (eager : Bool)
  | vecFma (t : TileId) (eager : Bool)
  | vecMax (t : TileId) (eager : Bool)
  | vecMin (t : TileId) (eager : Bool)
  | vecAbs (t : TileId) (eager : Bool)
  | vecNeg (t : TileId) (eager : Bool)
  | iadd (t : TileId) (eager : Bool)
  | isub (t : TileId) (eager : Bool)
  | iand (t : TileId) (eager : Bool)
  | ior (t : TileId) (eager : Bool)
  | ixor (t : TileId) (eager : Bool)
  | ishl (t : TileId) (eager : Bool)
  | ishr (t : TileId) (eager : Bool)
  | isra (t : TileId) (eager : Bool)
  | vcmp (t : TileId) (eager : Bool)
  | mand (t : TileId) (eager : Bool)
  | mor (t : TileId) (eager : Bool)
  | mxor (t : TileId) (eager : Bool)
  | mnot (t : TileId) (eager : Bool)
  | vtrans (t : TileId) (eager : Bool)
  | vbcr (t : TileId) (eager : Bool)
  | vbcc (t : TileId) (eager : Bool)
  | vperm (t : TileId) (eager : Bool)
  | vcvt (t : TileId) (eager : Bool)
  | rcp (t : TileId) (eager : Bool)
  | vecDiv (t : TileId) (eager : Bool)
  | vecSqrt (t : TileId) (eager : Bool)
  | rsqrt (t : TileId) (eager : Bool)
  | exp (t : TileId) (eager : Bool)
  | exp2 (t : TileId) (eager : Bool)
  | log (t : TileId) (eager : Bool)
  | log2 (t : TileId) (eager : Bool)
  | sin (t : TileId) (eager : Bool)
  | cos (t : TileId) (eager : Bool)
  | tanh (t : TileId) (eager : Bool)
  | lgst (t : TileId) (eager : Bool)
  | erf (t : TileId) (eager : Bool)
  | vrsum (t : TileId) (eager : Bool)
  | vrssq (t : TileId) (eager : Bool)
  | vtopk (t : TileId) (eager : Bool)
  | vld (t : TileId) (eager : Bool)
  | vst (t : TileId) (eager : Bool)
  | vxcvt (t : TileId) (eager : Bool)
  | vchain (t : TileId)
  | chainIteration (t : TileId)
  -- DMA and HBM
  | dmaCopy (t : TileId) (eager : Bool)
  | dmaSkew (t : TileId) (eager : Bool)
  | dmaGather (t : TileId) (eager : Bool)
  | dmaScatter (t : TileId) (eager : Bool)
  | dmaAccout (t : TileId) (eager : Bool)
  | dmaAccin (t : TileId) (eager : Bool)
  | dmaComplete (t : TileId) (err : Option (Nat × Word))
  | hbmRefresh (s : StackId) (delayed : Bool)
  | patrolScrub (s : StackId) (line : Nat) (finding : ScrubFinding)
  -- Serac clusters
  | seracFeed (c : ClusterId) (ix : Nat)
  | seracChol (c : ClusterId) (ix : Nat)
  | seracLdlt (c : ClusterId) (ix : Nat)
  | seracSolve (c : ClusterId) (ix : Nat)
  | seracInv (c : ClusterId) (ix : Nat)
  | seracRoot (c : ClusterId) (ix : Nat)
  | seracSqrt (c : ClusterId) (ix : Nat)
  | seracBatch (c : ClusterId) (ix : Nat)
  | seracDeadline (c : ClusterId) (ix : Nat)
  | exportSwitch (c : ClusterId)
  | seracEngineFault (c : ClusterId) (engine : Fin 4)
  -- Dalder links
  | frameData (p : PortId) (f : Frame)
  | frameIdle (p : PortId) (f : Frame)
  | frameTime (p : PortId) (f : Frame) (arrival : Word) (arrivalFrac : BitVec 4)
  | frameDown (p : PortId) (f : Frame)
  | replayReq (p : PortId) (h : CtlHeader) (fseq : BitVec 20)
  | laneFault (p : PortId) (h : CtlHeader) (mask : BitVec 8)
  | swap (p : PortId) (h : CtlHeader) (lane : Fin 8) (phys : BitVec 4) (resume : BitVec 20)
  | width (p : PortId) (h : CtlHeader) (w : BitVec 4) (map : BitVec 32) (resume : BitVec 20)
  | retrainReq (p : PortId) (h : CtlHeader) (maxw : BitVec 4) (half : Bool)
  | alignDone (p : PortId) (h : CtlHeader)
  | credit (p : PortId) (h : CtlHeader) (counts : List Nat)
  | laneFaultDetect (p : PortId) (lane : LaneLoss)
  | spareAlignTimeout (p : PortId) (lane : Fin 8)
  | replayTimeout (p : PortId)
  | partnerLoss (p : PortId) (cause : LossCause)
  | linkDetect (p : PortId)
  | linkPollEnd (p : PortId) (locked : BitVec 12)
  | linkEqualizeEnd (p : PortId) (converged : BitVec 12)
  | linkAlignEnd (p : PortId) (aligned : BitVec 12)
  | linkConfigEnd (p : PortId) (offer : ConfigOffer)
  | linkLostRetry (p : PortId)
  | noPartner (p : PortId)
  | linkRetrain (p : PortId)
  | linkDisable (p : PortId) (hold : Bool)
  | lanePrbsDone (p : PortId) (lane : BitVec 4) (pass : Bool)
  | timeFrameSend (p : PortId)
  -- routers
  | routerForward (d : Die) (input : RouterInput) (pkt : Packet)
  | multicastInject (d : Die) (pkt : Packet)
  | unschedInject (d : Die) (pkt : Packet)
  | throttleRelease (d : Die)
  | mgmtBudgetWindow (d : Die)
  | portArbitrate (p : PortId)
  -- collectives
  | collStart (ix : Nat)
  | collData (ix : Nat) (path : Nat) (pkt : Packet)
  | collDigest (ix : Nat) (path : Nat) (pkt : Packet)
  | collAccept (ix : Nat) (path : Nat) (stream : BitVec 20)
  | collRetxReq (ix : Nat) (path : Nat) (stream : BitVec 20)
  | collAbort (ix : Nat) (path : Nat) (pkt : Packet)
  | collStall (ix : Nat)
  -- moraine tier
  | moraineExport (m : Fin 64) (hostOk : Bool)
  | moraineImport (m : Fin 64) (hostOk : Bool)
  | moraineRecheck (m : Fin 64) (hostOk : Bool)
  | moraineTimeout (m : Fin 64)
  -- time, launch, lock-step
  | tickSyncOutPulse
  | tickSyncInEdge
  | launchBoundary
  | lockstepSend
  | lockstepReceive (slot : Word) (entries : List LsEntry)
  | lockstepSkew
  -- silent errors
  | testWindowStart
  | testWindowEnd
  | selftestInjob (failed : List TestFailure)
  | selftestFull (failed : List TestFailure)
  | probationExpire
  | wdRecord
  | wdCompare
  -- checkpoint
  | capturePoint
  | captureDrainEnd (hostOk : Bool)
  -- the Ouvzu commands: `h` is the handle of a sequenced command
  | identify (h : Nat) (hostOk : Bool)
  | createQp (h : Nat)
  | deleteQp (h : Nat)
  | deleteQpDone (h : Nat)
  | setarb (h : Nat)
  | grantHost (h : Nat)
  | revokeHost (h : Nat)
  | enableFn (h : Nat)
  | disableFn (h : Nat)
  | abortCmd (h : Nat)
  | admitImage (h : Nat) (hostOk : Bool)
  | launch (h : Nat)
  | quiesce (h : Nat)
  | quiesceDone (h : Nat)
  | abortJob (h : Nat)
  | abortJobDone (h : Nat)
  | capture (h : Nat)
  | restore (h : Nat) (hostOk : Bool)
  | jobwait (h : Nat)
  | jobEnd
  | regread (h : Nat) (hostOk : Bool)
  | pivsearch (h : Nat)
  | msgsend (h : Nat) (hostOk : Bool)
  | msgrecv (h : HostCmd)
  | msgArrive (pkt : MsgIn)
  | nop (h : Nat)
  | ouvzuInvalidOpcode (h : Nat)
  -- the host interface of the queues
  | sqTailDoorbell (p : PciePort) (q : BitVec 14) (value : BitVec 32)
  | cqHeadDoorbell (p : PciePort) (q : BitVec 14) (value : BitVec 32)
  | ouvzuEnSet (p : PciePort)
  | ouvzuEnClear (p : PciePort)
  | mboxGo (p : PciePort)
  | ingressWindowClose
  | arbiterRound
  | cqCoalesceTimeout (q : BitVec 14)
  | functionLevelReset (p : PciePort)
  | pcieLinkDown (p : PciePort) (perst : Bool)
  | perstRise (p : PciePort)
  | bar2Access (p : PciePort) (off : Nat) (op : Bar2Op)
  | regWrite (agent : RegAgent) (space : RegSpace) (off : BitVec 24) (size : BitVec 2) (value : Word)
  -- Lomtirel commands
  | ouvzuOrder (m : LomHeader) (cmd : List Byte)
  | setPlimit (m : LomHeader) (w : BitVec 16)
  | setTdisc (m : LomHeader) (us : BitVec 8)
  | clearWiring (m : LomHeader)
  | setGtcEdge (m : LomHeader) (v : Word)
  | clearDrain (m : LomHeader)
  | resetDevice (m : LomHeader) (reload : Bool)
  | norWrite (m : LomHeader) (off : BitVec 32) (data : List Byte)
  | norCommit (m : LomHeader) (seq : BitVec 32)
  | readReg (m : LomHeader) (entry : Word)
  | writeReg (m : LomHeader) (entry : Word) (value : Word)
  | journalRead (m : LomHeader) (journal : BitVec 8) (index : BitVec 32) (count : BitVec 16)
  | lomIdentify (m : LomHeader)
  | telemetrySend
  | phasesSend
  | lomLinkUp (l : Fin 2)
  | lomRelay (pkt : Packet)
  -- SPI and I3C targets
  | spiTargetWrite (addr : BitVec 16) (words : List (BitVec 32)) (extra : Nat)
  | spiTargetRead (addr : BitVec 16) (count : Nat) (extra : Nat)
  | spiPartialWord
  | i3cEntdaa (addr : BitVec 7)
  | i3cSetdasa (static : BitVec 7) (addr : BitVec 7)
  | i3cRstdaa
  | i3cGetpid
  | i3cGetbcr
  | i3cGetdcr
  | i3cGetstatus
  | i3cGetmwl
  | i3cGetmrl
  | i3cPrivateWrite (data : List Byte)
  | i3cPrivateRead (count : Nat)
  -- power, droop, thermal
  | opEval (power : BitVec 16)
  | opRaiseDone
  | powerCapRelease
  | trimRaise (r : Rail)
  | droopStretch (d : StretchDomain)
  | stretchRelease (d : StretchDomain)
  | supplyDip (millivolts : BitVec 16)
  | dipCapExpire
  | powerFault
  | pwrbrkAssert (w : BrakeWire)
  | pwrbrkDeassert (w : BrakeWire)
  | pwrbrkDiscrepancy
  | brakeRelease
  | thermalSample (temps : Temps)
  | thermalCapLower
  | thermalCapRaise
  | thermalMaxTimeout
  | thermtrip
  -- reset and boot
  | aonReset
  | resetNAssert
  | resetNRelease
  | bootStepDone (r : StepResult)
  | bootStepTimeout (detail : BitVec 16)
  | ptimeJournal
  | aonPwrgdRise
  -- the rows added after boot
  | frameAlignmentFound (p : PortId)
  | lomLinkDown (l : Fin 2)
  | seracCommandComplete (c : ClusterId) (ix : Nat)
  | vectorInstrComplete (t : TileId)
  | moraineImportComplete (m : Fin 64)
  | norOperationComplete
  | tapInstructionLoad (ir : BitVec 8)
  deriving DecidableEq, Repr

end Sys2Proof
end

