-- ==== Sys2Proof/Machine/Bits.lean ====
section
/-!
DEFINITION. Bit fields, byte strings, sign extension, small list tables, and the check codes
the manual names: CRC-64/ECMA-182 (R419), CRC-16 (R347, R588) and SHA-256 (R463).
-/
namespace Sys2Proof.Machine

/-- Bits `[lo + len - 1 : lo]` of `w`, as a number. -/
def bits {n : Nat} (w : BitVec n) (lo len : Nat) : Nat := (w.toNat >>> lo) % 2 ^ len

/-- Bit `i` of a word as a truth value. -/
def bitOf {n : Nat} (w : BitVec n) (i : Nat) : Bool := w.toNat.testBit i

/-- The word whose bit `i` alone is `b`. -/
def bitAt (n i : Nat) (b : Bool) : BitVec n := if b then BitVec.ofNat n (2 ^ i) else 0

/-- `w` with bits `[lo + len - 1 : lo]` replaced by `v`. -/
def setBits {n : Nat} (w : BitVec n) (lo len v : Nat) : BitVec n :=
  (w &&& ~~~ BitVec.ofNat n ((2 ^ len - 1) <<< lo)) ||| BitVec.ofNat n ((v % 2 ^ len) <<< lo)

/-- `w` with the bits of `mask` cleared: a write of ones to W1C bits (R10). -/
def clearBits {n : Nat} (w mask : BitVec n) : BitVec n := w &&& ~~~ mask

/-- The two's-complement value of the low `n` bits of `v`. -/
def sext (n v : Nat) : Int := (BitVec.ofNat n v).toInt

/-- The low `n` bits of an integer. -/
def lowBits (n : Nat) (i : Int) : Nat := (BitVec.ofInt n i).toNat

/-- `k` bytes of `v`, little-endian (R9). -/
def leBytes : Nat → Nat → List Byte
  | 0, _ => []
  | k + 1, v => BitVec.ofNat 8 v :: leBytes k (v / 256)

/-- The number little-endian bytes spell (R9). -/
def leNat : List Byte → Nat
  | [] => 0
  | b :: bs => b.toNat + 256 * leNat bs

/-- `k` bytes of `v`, most significant byte first. -/
def beBytes (k v : Nat) : List Byte := (leBytes k v).reverse

/-- The number big-endian bytes spell. -/
def beNat (l : List Byte) : Nat := leNat l.reverse

/-- The little-endian number in bytes `[off, off + k)`; missing bytes count 0. -/
def leAt (l : List Byte) (off k : Nat) : Nat := leNat ((l.drop off).take k)

/-- `l` with the bytes from `off` replaced by `v`, its length kept. -/
def patch (l : List Byte) (off : Nat) (v : List Byte) : List Byte :=
  (l.take off ++ v ++ l.drop (off + v.length)).take l.length

/-- The list `f 0, …, f (n - 1)`. -/
def tab {α : Type} (n : Nat) (f : Nat → α) : List α := (List.range n).map f

theorem tab_length {α : Type} (n : Nat) (f : Nat → α) : (tab n f).length = n := by simp [tab]

/-- The vector `f 0, …, f (n - 1)`, built through a list so that it computes fast. -/
def vtab {α : Type} (n : Nat) (f : Nat → α) : Vector α n := ⟨⟨tab n f⟩, by simp [tab]⟩

/-- Bytes of a list cut into pieces of `k` bytes, `n` of them. -/
def chunks {α : Type} (n k : Nat) (l : List α) : List (List α) :=
  tab n fun i => (l.drop (i * k)).take k

/-- `l` with entry `i` replaced by `f` of it. -/
def modAt {α : Type} (l : List α) (i : Nat) (f : α → α) : List α := l.modify i f

/-- The number of one bits of `w`. -/
def popCount {n : Nat} (w : BitVec n) : Nat := ((List.range n).filter (bitOf w)).length

/-- The set bits of `w`, ascending. -/
def onesOf {n : Nat} (w : BitVec n) : List Nat := (List.range n).filter (bitOf w)

/-- The word with exactly the bits of `l` set. -/
def ofOnes (n : Nat) (l : List Nat) : BitVec n := l.foldl (fun w i => w ||| BitVec.ofNat n (2 ^ i)) 0

/-- `a` plus `b`, held at the largest value of its width: a counter that saturates. -/
def satAdd {n : Nat} (a : BitVec n) (b : Nat) : BitVec n := BitVec.ofNat n (min (a.toNat + b) (2 ^ n - 1))

/-- Rounded up quotient. -/
def cdiv (a b : Nat) : Nat := (a + b - 1) / b

/-- Whether two byte ranges share a byte. -/
def meets (a n b m : Nat) : Bool := decide (0 < n ∧ 0 < m ∧ a < b + m ∧ b < a + n)

/-- One bit of a most-significant-bit-first CRC of width `n`. -/
def crcBit {n : Nat} (poly : BitVec n) (c : BitVec n) (inBit : Bool) : BitVec n :=
  if (c.msb != inBit) then (c <<< 1) ^^^ poly else c <<< 1

/-- One byte, most significant bit first. -/
def crcByte {n : Nat} (poly : BitVec n) (c : BitVec n) (b : Byte) : BitVec n :=
  [7, 6, 5, 4, 3, 2, 1, 0].foldl (fun c i => crcBit poly c (bitOf b i)) c

/-- CRC-64/ECMA-182 carried on from `c` over bytes (R419): no reflection, no final XOR. -/
def crc64From (c : Word) (l : List Byte) : Word := l.foldl (crcByte 0x42F0E1EBA9EA3693#64) c

/-- CRC-64/ECMA-182 of a byte string, initial value 0 (R419). -/
def crc64 (l : List Byte) : Word := crc64From 0 l

/-- CRC-16, polynomial 0x1021, initial value 0xFFFF, most significant bit first (R347). -/
def crc16 (l : List Byte) : BitVec 16 := l.foldl (crcByte 0x1021#16) 0xFFFF#16

/-- CRC-16 over the bits of a word, `hi` down to `lo`, then over bytes (R347's HCRC). -/
def crc16Bits {n : Nat} (w : BitVec n) (hi lo : Nat) (l : List Byte) : BitVec 16 :=
  let c := (List.range (hi + 1 - lo)).foldl (fun c i => crcBit 0x1021#16 c (bitOf w (hi - i))) 0xFFFF#16
  l.foldl (crcByte 0x1021#16) c

/-! SHA-256, the standard function the manual names in R463. -/

/-- The 64 round constants. -/
def shaK : List (BitVec 32) :=
  [0x428a2f98#32, 0x71374491#32, 0xb5c0fbcf#32, 0xe9b5dba5#32, 0x3956c25b#32, 0x59f111f1#32,
   0x923f82a4#32, 0xab1c5ed5#32, 0xd807aa98#32, 0x12835b01#32, 0x243185be#32, 0x550c7dc3#32,
   0x72be5d74#32, 0x80deb1fe#32, 0x9bdc06a7#32, 0xc19bf174#32, 0xe49b69c1#32, 0xefbe4786#32,
   0x0fc19dc6#32, 0x240ca1cc#32, 0x2de92c6f#32, 0x4a7484aa#32, 0x5cb0a9dc#32, 0x76f988da#32,
   0x983e5152#32, 0xa831c66d#32, 0xb00327c8#32, 0xbf597fc7#32, 0xc6e00bf3#32, 0xd5a79147#32,
   0x06ca6351#32, 0x14292967#32] ++
  [0x27b70a85#32, 0x2e1b2138#32, 0x4d2c6dfc#32, 0x53380d13#32, 0x650a7354#32, 0x766a0abb#32,
   0x81c2c92e#32, 0x92722c85#32, 0xa2bfe8a1#32, 0xa81a664b#32, 0xc24b8b70#32, 0xc76c51a3#32,
   0xd192e819#32, 0xd6990624#32, 0xf40e3585#32, 0x106aa070#32, 0x19a4c116#32, 0x1e376c08#32,
   0x2748774c#32, 0x34b0bcb5#32, 0x391c0cb3#32, 0x4ed8aa4a#32, 0x5b9cca4f#32, 0x682e6ff3#32,
   0x748f82ee#32, 0x78a5636f#32, 0x84c87814#32, 0x8cc70208#32, 0x90befffa#32, 0xa4506ceb#32,
   0xbef9a3f7#32, 0xc67178f2#32]

/-- The initial chaining value. -/
def shaInit : List (BitVec 32) :=
  [0x6a09e667#32, 0xbb67ae85#32, 0x3c6ef372#32, 0xa54ff53a#32, 0x510e527f#32, 0x9b05688c#32,
   0x1f83d9ab#32, 0x5be0cd19#32]

/-- The message schedule of one block, newest word first. -/
def shaSchedule (blk : List Byte) : List (BitVec 32) :=
  let w0 := (chunks 16 4 blk).map fun q => BitVec.ofNat 32 (beNat q)
  let g (w : List (BitVec 32)) : BitVec 32 :=
    let x := w.getD 14 0
    let y := w.getD 1 0
    (x.rotateRight 7 ^^^ x.rotateRight 18 ^^^ (x >>> 3)) + w.getD 15 0 + w.getD 6 0 +
      (y.rotateRight 17 ^^^ y.rotateRight 19 ^^^ (y >>> 10))
  (List.range 48).foldl (fun w _ => g w :: w) w0.reverse

/-- One round of the compression function. -/
def shaRound (h : List (BitVec 32)) (kw : BitVec 32 × BitVec 32) : List (BitVec 32) :=
  match h with
  | [a, b, c, d, e, f, g, hh] =>
    let s1 := e.rotateRight 6 ^^^ e.rotateRight 11 ^^^ e.rotateRight 25
    let t1 := hh + s1 + ((e &&& f) ^^^ (~~~ e &&& g)) + kw.1 + kw.2
    let s0 := a.rotateRight 2 ^^^ a.rotateRight 13 ^^^ a.rotateRight 22
    let t2 := s0 + ((a &&& b) ^^^ (a &&& c) ^^^ (b &&& c))
    [t1 + t2, a, b, c, d + t1, e, f, g]
  | _ => h

/-- The compression of one 64-byte block. -/
def shaBlock (h : List (BitVec 32)) (blk : List Byte) : List (BitVec 32) :=
  let r := (shaK.zip (shaSchedule blk).reverse).foldl shaRound h
  h.zipWith (· + ·) r

/-- SHA-256 of a byte string, 32 bytes. -/
def sha256 (l : List Byte) : List Byte :=
  let n := l.length
  let zeros := (119 - n % 64) % 64
  let m := l ++ [0x80#8] ++ List.replicate zeros 0#8 ++ beBytes 8 (8 * n)
  let h := (chunks (m.length / 64) 64 m).foldl shaBlock shaInit
  h.flatMap fun w => beBytes 4 w.toNat

end Sys2Proof.Machine
end

