-- ==== Sys2Proof/Machine/Digest.lean ====
section
/-!
DEFINITION. The lock-step digest of a unit (R450): its count of committed operations and the running CRC over
them.
-/
namespace Sys2Proof.Machine

/-- The running digest of a unit (R450, R452): C and D; the (C, D) of every operation since the last slot
boundary; and the committed operations still to be carried in, oldest first, while a load that committed before
them (named by its id) has not delivered the bytes it writes. -/
structure Digest where
  c    : Word
  d    : Word
  run  : List (Word × Word)
  owed : List (Option Nat × List Byte)
  deriving DecidableEq, Repr

/-- Nothing committed. -/
def Digest.zero : Digest := ⟨0, 0, [], []⟩

/-- One committed operation carried into a digest: its count, then the bytes it wrote. -/
def Digest.add (g : Digest) (bytes : List Byte) : Digest :=
  let c := g.c + 1
  let d := crc64From g.d (leBytes 8 c.toNat ++ bytes)
  { g with c := c, d := d, run := g.run ++ [(c, d)] }

/-- The leading operations whose bytes are known are carried in. -/
def Digest.flushList : List (Option Nat × List Byte) → Digest → Digest
  | (none, b) :: l, g => Digest.flushList l (g.add b)
  | l, g => { g with owed := l }

/-- An operation commits: in commit order after those still owed. -/
def Digest.put (g : Digest) (load : Option Nat) (bytes : List Byte) : Digest :=
  Digest.flushList (g.owed ++ [(load, bytes)]) g

/-- A committed load's bytes are known. -/
def Digest.fill (g : Digest) (id : Nat) (bytes : List Byte) : Digest :=
  Digest.flushList (g.owed.map fun e => if e.1 = some id then (none, bytes) else e) g

/-- A committed load has faulted, so it contributes nothing. -/
def Digest.drop (g : Digest) (id : Nat) : Digest :=
  Digest.flushList (g.owed.filter fun e => e.1 ≠ some id) g

/-- A slot boundary passes. -/
def Digest.endSlot (g : Digest) : Digest := { g with run := [] }

end Sys2Proof.Machine
end

