-- ==== Sys2Proof/Machine/FabricState.lean ====
section
/-!
DEFINITION. The state of the Dalder ports, lane groups, routers and collective engines, as plain
data, with every LINK_ and RTR_ register.
-/
namespace Sys2Proof.Machine

/-- The state codes of a port (R354). -/
inductive LinkState where
  | disabled | detect | poll | equalize | align | config | active | swap | retrain | lost
  deriving DecidableEq, Repr

/-- Frame types (R347). -/
inductive FrameType where
  | data | idle | ctrl | time | down
  deriving DecidableEq, Repr

/-- A frame as the transmitter keeps and sends it (R347, R351): its type, its FSEQ, the byte offset
of the first packet start, the credits it returns, its payload; its ACKSEQ and the logical lanes it goes out on
(R348, R349). -/
structure TxFrame where
  ty      : FrameType
  seq     : BitVec 20
  first   : BitVec 10
  cvc     : BitVec 3
  ccnt    : BitVec 5
  payload : List Byte
  ack     : BitVec 20
  lanes   : List Nat
  deriving DecidableEq, Repr

/-- The condition of one physical lane (R356, R363, R365): in service, retired with its test
running, returned to the pool, or permanently retired. -/
inductive LaneCond where
  | good | retired | returned | permanent
  deriving DecidableEq, Repr

/-- A substitution or width change in progress (R362): the faulty logical lanes, the new map and
width, the resume FSEQ, the spares taken, the ALIGN_DONEs seen, the map before the change, and the GTC value at
which this end began it. -/
structure SwapOp where
  faulty   : BitVec 8
  map      : BitVec 32
  width    : BitVec 4
  isWidth  : Bool
  resume   : BitVec 20
  spares   : List Nat
  selfDone : Bool
  peerDone : Bool
  oldMap   : BitVec 32
  since    : Word
  deriving DecidableEq, Repr

/-- A frame with symbol errors that came on a logical lane (R346, R361): when, and the symbols corrected, none for an
uncorrectable frame. -/
structure LaneErr where
  lane : Nat
  time : Word
  syms : Option Nat
  deriving DecidableEq, Repr

/-- A packet waiting at an output port: its channel bit, the input it came from (R392), the virtual
channel whose input buffer it holds, and the number its copies share (R391). -/
structure QPkt where
  pkt   : Packet
  vcb   : Bool
  input : Nat
  inVc  : Nat
  grp   : Nat
  deriving DecidableEq, Repr

/-- The time exchange of a port (R432, R433): the last exchange number, the time at which its frame left, and the
same of every exchange, this one included, that the partner has not answered. -/
structure TimeLink where
  seq      : BitVec 32
  t1       : Word
  t1Frac   : BitVec 4
  rxGtc    : Word
  rxFrac   : BitVec 4
  rxSeq    : BitVec 32
  depth    : BitVec 8
  locked   : Bool
  master   : Bool
  sent     : List (BitVec 32 × Word × BitVec 4)
  deriving DecidableEq, Repr

/-- One Dalder port (R341 to R373). `cand` holds the lanes that the training so far has passed
(0 to 7, spares 8 to 11); `retrainSent` says that a RETRAIN_REQ of this end is unanswered (R359), `retraining` that the training under way is a
retrain; `faultWait` holds
the logical lanes on which this end has declared a fault, `faultCause` the cause of each (R361); `ctlPend` holds the
CTRL frames that are repeated until they are acknowledged (R349). -/
structure LPort where
  state     : LinkState
  lossRsn   : BitVec 4
  held      : Bool
  degraded  : Bool
  initiator : Bool
  half      : Bool
  width     : BitVec 4
  lossBit   : Bool
  swapBit   : Bool
  trainErr  : Bool
  laneMap   : BitVec 32
  halfRate  : Bool
  maxw      : BitVec 4
  disable   : Bool
  retrainRq : Bool
  retrainWait : Bool
  retrainSent : Bool
  retraining : Bool
  partner   : Option (ChipAddr × BitVec 5)
  fecCorr   : Word
  fecUnc    : Word
  replays   : Word
  swaps     : Word
  wdrops    : Word
  losses    : Word
  cand      : BitVec 12
  trainFails : Nat
  lanes     : Vector LaneCond 8
  faultWait : BitVec 8
  faultCause : Vector (BitVec 8) 8
  errLog    : List LaneErr
  swapOp    : Option SwapOp
  txSeq     : BitVec 20
  replayBuf : List TxFrame
  outbox    : List TxFrame
  ctlPend   : List TxFrame
  rxSeq     : BitVec 20
  replayAsked : Bool
  rxStream  : List Byte
  txStream  : List Byte
  txFirst   : List Nat
  credits   : Vector Nat 8
  queues    : Vector (List QPkt) 8
  rrVc      : Vector Bool 4
  rrInput   : Vector Nat 4
  mgmtTurn  : Bool
  time      : TimeLink
  deriving DecidableEq, Repr

/-- The states of a spare lane (R374). -/
inductive SpareState where
  | standby | inUse | retired | testing
  deriving DecidableEq, Repr

/-- A spare lane of a group (R342, R374): its state and home, how often it was retired, whether for good, and
whether it has returned to the pool since its port last trained (R365). -/
structure Spare where
  state : SpareState
  home  : BitVec 3
  times : Nat
  permanent : Bool
  returned : Bool
  deriving DecidableEq, Repr

/-- One router with its tables, its counters (R399 to R401), the registers of its collective engine
(R426, R427), its injection queue of unscheduled packets, the packets that other units of the chip
have handed it (`netQ`), what it has delivered to the on-die network, and the unscheduled packets
among it whose input buffer is still held (R508). -/
structure Router where
  self      : ChipAddr
  topo      : BitVec 33
  epoch     : BitVec 4
  porten    : BitVec 20
  hpeerReg  : BitVec 28
  thr       : BitVec 4
  mgmtBud   : BitVec 7
  throttling : Bool
  lock      : Bool
  mcastErr  : Bool
  routeErr  : Bool
  epochErr  : Bool
  lockwr    : Bool
  throttles : Word
  contend   : Word
  drops     : Word
  pkts      : Word
  injQ      : List Packet
  netQ      : List Packet
  mgmtUsed  : Nat
  mgmtWait  : List Packet
  delivered : List Packet
  unsched   : List (Packet × PortId)
  cstat     : BitVec 5
  csegs     : Word
  cretx     : Word
  cchkf     : Word
  cdataf    : Word
  clate     : Word
  digest    : Digest
  deriving DecidableEq, Repr

/-- A collective declaration (R405). `resv` says that a reserved field is nonzero. -/
structure CollDecl where
  kind   : Nat
  axis   : Nat
  dir    : Nat
  sfmt   : Nat
  afmt   : Nat
  dfmt   : Nat
  sat    : Bool
  id     : Nat
  len    : Nat
  src    : Nat
  dst    : Nat
  dscale : Nat
  start  : Nat
  resv   : Nat
  stall  : Nat
  gate   : Nat
  recAddr : Nat
  bad    : Bool
  deriving DecidableEq, Repr

/-- A segment in a sender's buffer (R420): its stream index, its wire bytes, how often it was resent, how many
members have yet to accept it, and, for a multicast result, how often it was resent to each that asked (R416). -/
structure SendSeg where
  stream  : Nat
  bytes   : List Byte
  psel    : Bool
  attempt : Nat
  acks    : Nat
  tries   : List (ChipAddr × Nat)
  deriving DecidableEq, Repr

/-- What a member-to-member path carries (R407 to R416): a ring direction, the pod chain up or down,
a node exchange with a tensor shard, a level of the global sum (0 X, 1 Y, 2 Z, 3 pods), its result
down the pods, its result to the pod, or a neighbour's pod segments passed on (R415). -/
inductive PathRole where
  | ring (plus : Bool)
  | up
  | down
  | node (shard : Nat)
  | sum (level : Nat)
  | sumDown
  | result
  | relay (toH : Bool)
  deriving DecidableEq, Repr

/-- One direction of a member-to-member path of an instance (R418 to R420). `next` is the next stream
index to send or to accept, of `total`; `rxBuf` and `first` hold the copy now arriving and the first
bad one, `fails` the bad copies so far; `held` the accepted segments that wait for their addition. -/
structure CollPath where
  role    : PathRole
  tx      : Bool
  peer    : ChipAddr
  total   : Nat
  next    : Nat
  unacked : List SendSeg
  waiting : List SendSeg
  rxBuf   : List Byte
  first   : Option (List Byte)
  fails   : Nat
  held    : List (List Byte)
  deriving DecidableEq, Repr

/-- A collective instance of one step (R404, R406): its declaration's index, its engine, its paths,
how it ended, and the ranges of DST it has written. -/
structure CollInst where
  ix      : Nat
  step    : Word
  die     : Die
  started : Bool
  ended   : Option Nat
  flags   : Nat
  segs    : Nat
  written : List (Nat × Nat)
  paths   : List CollPath
  deriving DecidableEq, Repr

/-- The H peer that RTR_HPEER records, none when not VALID (R399). -/
def Router.hpeer (r : Router) : Option ChipAddr :=
  if r.hpeerReg.getLsbD 27 then some (r.hpeerReg.setWidth 27) else none

/-- A port after device reset (R370 to R373): DISABLED, no lane mapped, MAXW 8. -/
def LPort.reset : LPort where
  state := .disabled
  lossRsn := 0
  held := false
  degraded := false
  initiator := false
  half := false
  width := 0
  lossBit := false
  swapBit := false
  trainErr := false
  laneMap := 0xFFFFFFFF
  halfRate := false
  maxw := 8
  disable := false
  retrainRq := false
  retrainWait := false
  retrainSent := false
  retraining := false
  partner := none
  fecCorr := 0
  fecUnc := 0
  replays := 0
  swaps := 0
  wdrops := 0
  losses := 0
  cand := 0
  trainFails := 0
  lanes := Vector.replicate 8 .good
  faultWait := 0
  faultCause := Vector.replicate 8 0
  errLog := []
  swapOp := none
  txSeq := 0
  replayBuf := []
  outbox := []
  ctlPend := []
  rxSeq := 0
  replayAsked := false
  rxStream := []
  txStream := []
  txFirst := []
  credits := Vector.replicate 8 0
  queues := Vector.replicate 8 []
  rrVc := Vector.replicate 4 false
  rrInput := Vector.replicate 4 0
  mgmtTurn := false
  time := ⟨0, 0, 0, 0, 0, 0, 0xFF, false, false, []⟩

/-- A spare lane after reset: STANDBY, unwired (R374). -/
def Spare.reset : Spare := ⟨.standby, 7, 0, false, false⟩

/-- A router after reset (R399 to R401, R426, R427). -/
def Router.reset : Router where
  self := 0
  topo := 0
  epoch := 0
  porten := 0
  hpeerReg := 0
  thr := 0xC
  mgmtBud := 0x40
  throttling := false
  lock := false
  mcastErr := false
  routeErr := false
  epochErr := false
  lockwr := false
  throttles := 0
  contend := 0
  drops := 0
  pkts := 0
  injQ := []
  netQ := []
  mgmtUsed := 0
  mgmtWait := []
  delivered := []
  unsched := []
  cstat := 0
  csegs := 0
  cretx := 0
  cchkf := 0
  cdataf := 0
  clate := 0
  digest := .zero

end Sys2Proof.Machine
end

