-- ==== Sys2Proof/Machine/Fec.lean ====
section
/-!
DEFINITION. What a Dalder frame is on a lane (R345, R347): the 80-bit header with its HCRC, and the Reed-Solomon
codeword of 512 symbols.
-/
namespace Sys2Proof.Machine

/-! ### The header (R347) -/

/-- The TYPE code of a frame. -/
def FrameType.code : FrameType → Nat
  | .data => 0
  | .idle => 1
  | .ctrl => 2
  | .time => 3
  | .down => 4

/-- Bits [79:16] of a frame's header, the rest 0. -/
def TxFrame.fields (f : TxFrame) : BitVec 80 :=
  BitVec.ofNat 80 (f.seq.toNat * 2 ^ 60 + f.ack.toNat * 2 ^ 40 + f.ty.code * 2 ^ 36 + f.first.toNat * 2 ^ 26 +
    f.cvc.toNat * 2 ^ 23 + f.ccnt.toNat * 2 ^ 18)

/-- The header of a sent frame, HCRC in bits [15:0]. -/
def TxFrame.hdr (f : TxFrame) : BitVec 80 :=
  f.fields ||| (crc16Bits f.fields 79 16 f.payload).setWidth 80

/-! ### The codeword (R345): GF(2^10) with x^10 + x^3 + 1 -/

/-- A field element times α. -/
def gfTimesAlpha (a : Nat) : Nat := if 1024 ≤ 2 * a then (2 * a) ^^^ 0x409 else 2 * a

/-- A product in the field. -/
def gfMul (a b : Nat) : Nat :=
  (List.range 10).foldr (fun i r => gfTimesAlpha r ^^^ (if b.testBit i then a else 0)) 0

/-- α to a power. -/
def alphaPow : Nat → Nat
  | 0 => 1
  | n + 1 => gfTimesAlpha (alphaPow n)

/-- The generator, the product of x + α^i for i from 0 to 23: its coefficients from x^24 down. -/
def fecGenerator : List Nat :=
  (List.range 24).foldl (fun g i =>
    List.zipWith (· ^^^ ·) (g ++ [0]) (0 :: g.map (gfMul (alphaPow i)))) [1]

/-- One symbol enters the division by the generator. -/
def fecStep (rem : List Nat) (m : Nat) : List Nat :=
  let q := m ^^^ rem.headD 0
  List.zipWith (· ^^^ ·) (rem.tail ++ [0]) (fecGenerator.tail.map (gfMul q))

/-- The 24 parity symbols of data symbols. -/
def fecParity (data : List Nat) : List Nat := data.foldl fecStep (List.replicate 24 0)

/-- Bytes as 10-bit symbols, most significant bit first: five bytes make four symbols. -/
def fecSymbols : Nat → List Byte → List Nat
  | 0, _ => []
  | n + 1, b =>
    let v := (b.take 5).foldl (fun a x => a * 256 + x.toNat) 0
    [v / 2 ^ 30, v / 2 ^ 20 % 1024, v / 2 ^ 10 % 1024, v % 1024] ++ fecSymbols n (b.drop 5)

/-- A frame's 512 symbols in the order they are sent: 488 of header and payload, then the parity. -/
def TxFrame.codeword (f : TxFrame) : List Nat :=
  let bytes := (leBytes 10 f.hdr.toNat).reverse ++ f.payload
  let data := fecSymbols 122 bytes
  data ++ fecParity data

end Sys2Proof.Machine
end

