-- ==== Sys2Proof/Machine/Formats.lean ====
section
/-!
DEFINITION. The number formats of R40 to R66: exact values, decoding, correctly rounded encoding
under the four modes (R60), MX and M8 blocks (R47 to R50, R58, R59), conversions and their flags.
-/
namespace Sys2Proof.Machine

/-- A value an element stands for: NaN, an infinity, or `(-1)^neg * m * 2^e` exactly. -/
inductive FV where
  | nan
  | inf (neg : Bool)
  | fin (neg : Bool) (m : Nat) (e : Int)
  deriving DecidableEq, Repr

/-- The flags of TILE_FPSTAT, by bit (R67). -/
abbrev Flags := BitVec 7

/-- NAN_IN, R67 bit 0. -/
def fNanIn : Flags := 0x01#7
/-- NAN_GEN, R67 bit 1. -/
def fNanGen : Flags := 0x02#7
/-- SAT, R67 bit 2. -/
def fSat : Flags := 0x04#7
/-- OVF_INF, R67 bit 3. -/
def fOvf : Flags := 0x08#7
/-- UFL, R67 bit 4. -/
def fUfl : Flags := 0x10#7
/-- INT_NAN, R67 bit 5. -/
def fIntNan : Flags := 0x20#7
/-- NEG_M8U, R67 bit 6. -/
def fNegM8u : Flags := 0x40#7

/-- A flag when a condition holds. -/
def flagIf (b : Bool) (f : Flags) : Flags := if b then f else 0

/-- Rounding modes (R60). -/
inductive Rnd where
  | rne | rtz | rdn | rup
  deriving DecidableEq, Repr

/-- The 2-bit mode field of R60. -/
def Rnd.ofField (n : Nat) : Rnd := match n % 4 with | 0 => .rne | 1 => .rtz | 2 => .rdn | _ => .rup

/-- How a format spends its top codes (R41). -/
inductive TopCodes where
  | ieee | nanOnly | none
  deriving DecidableEq, Repr

/-- The parameters of R41. -/
structure FFmt where
  signed : Bool
  w      : Nat
  t      : Nat
  bias   : Nat
  top    : TopCodes
  deriving DecidableEq, Repr

def fFP64 : FFmt := ⟨true, 11, 52, 1023, .ieee⟩
def fFP32 : FFmt := ⟨true, 8, 23, 127, .ieee⟩
def fBF16 : FFmt := ⟨true, 8, 7, 127, .ieee⟩
def fFP16 : FFmt := ⟨true, 5, 10, 15, .ieee⟩
def fE4M3 : FFmt := ⟨true, 4, 3, 7, .nanOnly⟩
def fE5M2 : FFmt := ⟨true, 5, 2, 15, .ieee⟩
def fE3M2 : FFmt := ⟨true, 3, 2, 3, .none⟩
def fE2M3 : FFmt := ⟨true, 2, 3, 1, .none⟩
def fE2M1 : FFmt := ⟨true, 2, 1, 1, .none⟩
/-- The A48 entry (R53). -/
def fA48 : FFmt := ⟨true, 9, 38, 255, .ieee⟩
/-- The A96 entry, high entry above the low one (R54). -/
def fA96 : FFmt := ⟨true, 12, 83, 2047, .ieee⟩
def fM8S : FFmt := ⟨true, 4, 3, 7, .none⟩
def fM8U : FFmt := ⟨false, 5, 3, 15, .none⟩

/-- Bits of an element without its sign. -/
def FFmt.magBits (f : FFmt) : Nat := f.w + f.t

/-- Bits of an element. -/
def FFmt.width (f : FFmt) : Nat := f.magBits + (if f.signed then 1 else 0)

/-- The magnitude code of the largest finite value (R41). -/
def FFmt.maxMag (f : FFmt) : Nat :=
  match f.top with
  | .ieee => (2 ^ f.w - 1) * 2 ^ f.t - 1
  | .nanOnly => 2 ^ f.magBits - 2
  | .none => 2 ^ f.magBits - 1

/-- The canonical NaN (R43): a quiet NaN of positive sign. -/
def FFmt.nanCode (f : FFmt) : Nat :=
  match f.top with
  | .nanOnly => 2 ^ f.magBits - 1
  | _ => (2 ^ f.w - 1) * 2 ^ f.t + 2 ^ (f.t - 1)

/-- The code of infinity without its sign. -/
def FFmt.infMag (f : FFmt) : Nat := (2 ^ f.w - 1) * 2 ^ f.t

/-- The sign bit in place. -/
def FFmt.signOf (f : FFmt) (neg : Bool) : Nat := if neg && f.signed then 2 ^ f.magBits else 0

/-- The value a code stands for (R41). -/
def FFmt.decode (f : FFmt) (code : Nat) : FV :=
  let neg := f.signed && code.testBit f.magBits
  let mag := code % 2 ^ f.magBits
  let e := mag / 2 ^ f.t
  let fr := mag % 2 ^ f.t
  if mag > f.maxMag then
    if f.top = .ieee && fr == 0 then .inf neg else .nan
  else if e == 0 then .fin neg fr (1 - (f.bias : Int) - f.t)
  else .fin neg (fr + 2 ^ f.t) ((e : Int) - f.bias - f.t)

/-- Whether a value is zero. -/
def FV.isZero : FV → Bool
  | .fin _ m _ => m == 0
  | _ => false

/-- Whether a value is NaN. -/
def FV.isNan : FV → Bool
  | .nan => true
  | _ => false

/-- Whether a value is infinite. -/
def FV.isInf : FV → Bool
  | .inf _ => true
  | _ => false

/-- Whether a value is finite. -/
def FV.isFin : FV → Bool
  | .fin .. => true
  | _ => false

/-- The sign of a value; NaN counts positive. -/
def FV.neg : FV → Bool
  | .nan => false
  | .inf n => n
  | .fin n _ _ => n

/-- A value with its sign replaced. -/
def FV.withSign (v : FV) (n : Bool) : FV :=
  match v with
  | .nan => .nan
  | .inf _ => .inf n
  | .fin _ m e => .fin n m e

/-- The magnitude. -/
def FV.abs (v : FV) : FV := v.withSign false

/-- Negation. -/
def FV.negate (v : FV) : FV := v.withSign (!v.neg)

/-- `m * 2^e` times a power of two. -/
def FV.scale2 (v : FV) (k : Int) : FV :=
  match v with
  | .fin n m e => .fin n m (e + k)
  | v => v

/-- An integer as a value. -/
def FV.ofInt (i : Int) : FV := .fin (decide (i < 0)) i.natAbs 0

/-- +0. -/
def FV.zero : FV := .fin false 0 0

/-- +1. -/
def FV.one : FV := .fin false 1 0

/-- Whether rounding a magnitude up is right: `low` is the kept integer's last bit, `half` compares
the dropped part with one half, `inexact` says something was dropped (R60). -/
def roundsUp (r : Rnd) (neg low : Bool) (half : Ordering) (inexact : Bool) : Bool :=
  match r with
  | .rne => half == .gt || (half == .eq && low)
  | .rtz => false
  | .rdn => neg && inexact
  | .rup => !neg && inexact

/-- The magnitude `m`, plus something below one unit when `sticky`, divided by `2^k` and rounded to
an integer. With `sticky` set, `k` must be at least 1 for the result to be the rounded quotient. -/
def roundShift (r : Rnd) (neg : Bool) (m k : Nat) (sticky : Bool) : Nat :=
  let q := m >>> k
  let rem := m % 2 ^ k
  let half : Ordering :=
    if 2 * rem > 2 ^ k then .gt
    else if 2 * rem == 2 ^ k then (if sticky then .gt else .eq)
    else .lt
  if roundsUp r neg (q % 2 == 1) half (rem != 0 || sticky) then q + 1 else q

/-- The magnitude code that the value `m * 2^e` (plus `sticky`) rounds to with an unbounded exponent
range: R65's way to judge overflow. Codes above `maxMag` are beyond the largest finite value. -/
def FFmt.roundMag (f : FFmt) (r : Rnd) (neg : Bool) (m : Nat) (e : Int) (sticky : Bool) : Nat :=
  let m4 := 4 * m + (if sticky then 1 else 0)
  let e4 := e - 2
  let ex : Int := max (e4 + (Nat.log2 m4 : Int) - f.t) (1 - (f.bias : Int) - f.t)
  let q := if ex ≥ e4 then roundShift r neg m4 (ex - e4).toNat false else m4 <<< (e4 - ex).toNat
  let biased : Int := ex + f.t + f.bias
  if q < 2 ^ f.t then q else biased.toNat * 2 ^ f.t + (q - 2 ^ f.t)

/-- The code and the flags of a value in a float format under a mode and a SAT bit, by the rows of
R65 for a finite value and for an infinity. A NaN becomes the canonical NaN; who set it says which
flag that is. `sticky`: the value is `m * 2^e` and a little more, `m` having spare precision. -/
def FFmt.encodeS (f : FFmt) (r : Rnd) (sat : Bool) (v : FV) (sticky : Bool) : Nat × Flags :=
  match v with
  | .nan => (f.nanCode, 0)
  | .inf neg =>
    match f.top with
    | .nanOnly => if sat then (f.signOf neg + f.maxMag, fSat) else (f.nanCode, fNanGen)
    | _ =>
      if sat && f.w == 5 && f.t == 2 then (f.signOf neg + f.maxMag, fSat)
      else (f.signOf neg + f.infMag, 0)
  | .fin neg m e =>
    if m == 0 && !sticky then (f.signOf neg, 0)
    else
      let c := f.roundMag r neg m e sticky
      if c > f.maxMag then
        if sat then (f.signOf neg + f.maxMag, fSat)
        else match f.top with
          | .nanOnly => (f.nanCode, fNanGen)
          | _ =>
            let toInf := match r with
              | .rne => true
              | .rtz => false
              | .rdn => neg
              | .rup => !neg
            if toInf then (f.signOf neg + f.infMag, fOvf) else (f.signOf neg + f.maxMag, 0)
      else (f.signOf neg + c, flagIf (c == 0) fUfl)

/-- `encodeS` of an exact value. -/
def FFmt.encode (f : FFmt) (r : Rnd) (sat : Bool) (v : FV) : Nat × Flags := f.encodeS r sat v false

/-- A value rounded to a format under RNE without saturation: the rounding of R61. -/
def FFmt.rne (f : FFmt) (v : FV) : Nat × Flags := f.encode .rne false v

/-- ⌊log2⌋ of a nonzero finite magnitude. -/
def ilog2 (m : Nat) (e : Int) : Int := (Nat.log2 m : Int) + e

/-! Exact arithmetic on values. -/

/-- The product of two values; NaN for a NaN or 0 times infinity. -/
def FV.mul (a b : FV) : FV :=
  match a, b with
  | .nan, _ | _, .nan => .nan
  | .inf s, .inf t => .inf (s != t)
  | .inf s, .fin t m _ => if m == 0 then .nan else .inf (s != t)
  | .fin s m _, .inf t => if m == 0 then .nan else .inf (s != t)
  | .fin s m e, .fin t n f => .fin (s != t) (m * n) (e + f)

/-- The integer `(-1)^neg * m * 2^(e - lo)`, for `lo ≤ e`. -/
def scaledInt (neg : Bool) (m : Nat) (e lo : Int) : Int :=
  let v : Int := ((m <<< (e - lo).toNat : Nat) : Int)
  if neg then -v else v

/-- The least exponent among the finite nonzero terms. -/
def minExp : List FV → Option Int
  | [] => none
  | .fin _ m e :: l =>
    if m == 0 then minExp l
    else match minExp l with
      | none => some e
      | some f => some (min e f)
  | _ :: l => minExp l

/-- The exact sum of finite terms over the exponent `lo`. -/
def sumInts (lo : Int) (l : List FV) : Int :=
  l.foldl (fun acc v => match v with
    | .fin s m e => if m == 0 then acc else acc + scaledInt s m e lo
    | _ => acc) 0

/-- The exact sum of any number of terms, its zero's sign by R62, infinities and NaNs by IEEE 754. -/
def FV.sum (r : Rnd) (l : List FV) : FV :=
  if l.any FV.isNan then .nan
  else if l.any (fun v => v == .inf true) && l.any (fun v => v == .inf false) then .nan
  else if l.any (fun v => v == .inf true) then .inf true
  else if l.any (fun v => v == .inf false) then .inf false
  else match minExp l with
    | none =>
      if l.all (fun v => !v.neg) then .zero
      else if l.all FV.neg then .fin true 0 0
      else .fin (r == .rdn) 0 0
    | some lo =>
      let i := sumInts lo l
      if i == 0 then .fin (r == .rdn) 0 0 else .fin (decide (i < 0)) i.natAbs lo

/-- The sum of two values. -/
def FV.add (r : Rnd) (a b : FV) : FV := FV.sum r [a, b]

/-- The order of two values, none when unordered (R63). -/
def FV.cmp (a b : FV) : Option Ordering :=
  match a, b with
  | .nan, _ | _, .nan => none
  | .inf s, .inf t => some (compare (if s then (0 : Nat) else 1) (if t then 0 else 1))
  | .inf s, .fin .. => some (if s then .lt else .gt)
  | .fin .., .inf t => some (if t then .gt else .lt)
  | .fin s m e, .fin t n f =>
    let lo := min e f
    some (compare (scaledInt s m e lo) (scaledInt t n f lo))

/-- `a < b`; false when unordered. -/
def FV.lt (a b : FV) : Bool := FV.cmp a b == some .lt

/-- `a = b` numerically; false when unordered. -/
def FV.eq (a b : FV) : Bool := FV.cmp a b == some .eq

/-- An integer nearest a value under a mode; infinities and NaN answer none. -/
def FV.toInt (r : Rnd) (v : FV) : Option Int :=
  match v with
  | .fin neg m e =>
    let q := if e ≥ 0 then m <<< e.toNat else roundShift r neg m (-e).toNat false
    some (if neg then -(q : Int) else q)
  | _ => none

/-- A value's greatest integer not above it. -/
def FV.floor (v : FV) : Option Int := v.toInt .rdn

/-- The bits of a quotient below which only their being nonzero can matter to a rounding of the model:
every rounding grid of R41 and of R50 lies well above 2^-1400 or 140 bits below the leading bit. -/
def quoShift (m n : Nat) (e f : Int) : Nat :=
  max (160 + Nat.log2 n - Nat.log2 m) (e - f + 1400).toNat

/-- The quotient of two values as IEEE 754 division gives it, before any rounding: exact where it is
short, and otherwise cut with a last set bit for the rest, which every later rounding sees as that
rest. -/
def FV.quo (a b : FV) : FV :=
  match a, b with
  | .nan, _ | _, .nan | .inf _, .inf _ => .nan
  | .inf s, .fin t _ _ => .inf (s != t)
  | .fin s _ _, .inf t => .fin (s != t) 0 0
  | .fin s m e, .fin t n f =>
    if n == 0 then (if m == 0 then .nan else .inf (s != t))
    else if m == 0 then .fin (s != t) 0 0
    else
      let k := quoShift m n e f
      let q := (m <<< k) / n
      let r := (m <<< k) % n
      .fin (s != t) (2 * q + (if r == 0 then 0 else 1)) (e - f - k - 1)

/-! Format codes (R40). -/

/-- Block formats: the five MX formats and the two M8 formats. -/
def isBlockFmt (c : Nat) : Bool := (0x6 ≤ c && c ≤ 0xA) || c == 0xD || c == 0xE

/-- The five MX formats. -/
def isMxFmt (c : Nat) : Bool := 0x6 ≤ c && c ≤ 0xA

/-- The element format of a code (R40); INT8 has none of its own, and reads as FP32's row here. -/
def fmtOf (c : Nat) : FFmt :=
  match c with
  | 0x0 => fFP64
  | 0x1 => fFP32
  | 0x2 => fBF16
  | 0x3 => fFP16
  | 0x4 => fE4M3
  | 0x5 => fE5M2
  | 0x6 => fE4M3
  | 0x7 => fE5M2
  | 0x8 => fE3M2
  | 0x9 => fE2M3
  | 0xA => fE2M1
  | 0xC => fA48
  | 0xD => fM8S
  | 0xE => fM8U
  | 0xF => fA96
  | _ => fFP32

/-- Bits of one element (R40). -/
def elemBits (c : Nat) : Nat := if c == 0xB then 8 else (fmtOf c).width

/-- Bytes of `n` elements, packed as R48 and R40 lay them out. -/
def elemBytes (c n : Nat) : Nat := cdiv (elemBits c * n) 8

/-- e_max of R50 step 2. -/
def mxEmax (c : Nat) : Int :=
  match c with
  | 0x6 | 0xD => 8
  | 0x7 => 15
  | 0x8 => 4
  | 0x9 | 0xA => 2
  | _ => 16

/-- An element's value without its block scale. -/
def decodeElem (c code : Nat) : FV :=
  if c == 0xB then FV.ofInt (sext 8 code) else (fmtOf c).decode code

/-- An element's value with its E8M0 scale byte (R47); formats without blocks ignore the scale. -/
def decodeScaled (c code scale : Nat) : FV :=
  if isBlockFmt c then
    if scale == 0xFF then .nan else (decodeElem c code).scale2 ((scale : Int) - 127)
  else decodeElem c code

/-- INT8 destination of R65: rounded to an integer by the mode, clamped. -/
def encodeInt8 (r : Rnd) (v : FV) : Nat × Flags :=
  match v with
  | .nan => (0, fIntNan ||| fNanIn)
  | .inf n => (lowBits 8 (if n then -128 else 127), fSat)
  | v =>
    let i := (v.toInt r).getD 0
    if i > 127 then (lowBits 8 127, fSat)
    else if i < -128 then (lowBits 8 (-128), fSat)
    else (lowBits 8 i, 0)

/-- A conversion to a format without blocks (R64 to R66): the code and the flags. -/
def convert (c : Nat) (r : Rnd) (sat : Bool) (v : FV) : Nat × Flags :=
  if c == 0xB then encodeInt8 r v
  else match v with
    | .nan => ((fmtOf c).nanCode, fNanIn)
    | v => (fmtOf c).encode r sat v

/-- One element of a block whose exponent is `x` (R50 steps 4 and 5, R59). -/
def encodeBlockElem (c : Nat) (r : Rnd) (sat : Bool) (x : Int) (v : FV) : Nat × Flags :=
  let f := fmtOf c
  match v with
  | .nan => (0, fNanIn)
  | .inf neg =>
    if c == 0x7 && !sat then (f.signOf neg + f.infMag, 0)
    else if !sat then (0, fNanGen)
    else if neg && c == 0xE then (0, fNegM8u)
    else (f.signOf neg + f.maxMag, fSat)
  | .fin neg m e =>
    if m == 0 then (f.signOf neg, 0)
    else if neg && c == 0xE then (0, fNegM8u)
    else
      let q := f.roundMag r neg m (e - x) false
      if q > f.maxMag then (f.signOf neg + f.maxMag, 0)
      else (f.signOf neg + q, flagIf (q == 0) fUfl)

/-- The largest finite magnitude of a block, as a value (R50 step 1). -/
def blockMax (l : List FV) : FV :=
  l.foldl (fun a v => if v.isFin && FV.lt a v.abs then v.abs else a) .zero

/-- X of R50 step 2. -/
def blockExp (c : Nat) (l : List FV) : Int :=
  match blockMax l with
  | .fin _ m e => if m == 0 then 0 else max (-127) (min 127 (ilog2 m e - mxEmax c))
  | _ => 0

/-- A block encoded by R50: its scale byte, its element codes and the flags. -/
def encodeBlock (c : Nat) (r : Rnd) (sat : Bool) (l : List FV) : Nat × List Nat × Flags :=
  let x := blockExp c l
  let es := l.map (encodeBlockElem c r sat x)
  let nanIn := l.any FV.isNan
  let nanGen := !sat && c != 0x7 && l.any FV.isInf
  if nanIn || nanGen then
    (0xFF, l.map (fun _ => 0), flagIf nanIn fNanIn ||| flagIf nanGen fNanGen)
  else ((x + 127).toNat, es.map Prod.fst, es.foldl (fun a p => a ||| p.2) 0)

/-- Whether R64 gives a direct conversion between two codes: all of 0x0 to 0xE but M8S with M8U. -/
def convertible (src dst : Nat) : Bool :=
  src < 0xF && dst < 0xF && !((src == 0xD && dst == 0xE) || (src == 0xE && dst == 0xD))

/-! Packed element arrays (R48). -/

/-- The code of element `i` of a packed array of bytes. -/
def unpackElem (c : Nat) (l : List Byte) (i : Nat) : Nat :=
  let n := elemBits c
  match n with
  | 6 => (leAt l (3 * (i / 4)) 3 >>> (6 * (i % 4))) % 64
  | 4 => (leAt l (i / 2) 1 >>> (4 * (i % 2))) % 16
  | n => leAt l (i * (n / 8)) (n / 8)

/-- The codes of a packed array. -/
def unpackElems (c n : Nat) (l : List Byte) : List Nat := tab n (unpackElem c l)

/-- Codes packed into bytes (R48); a last short group is filled with zero bits. -/
def packElems (c : Nat) (codes : List Nat) : List Byte :=
  let k := elemBits c
  match k with
  | 6 =>
    (chunks (cdiv codes.length 4) 4 codes).flatMap fun q =>
      leBytes 3 ((q.zip [0, 6, 12, 18]).foldl (fun a p => a + (p.1 % 64) <<< p.2) 0)
  | 4 =>
    (chunks (cdiv codes.length 2) 2 codes).flatMap fun q =>
      leBytes 1 ((q.zip [0, 4]).foldl (fun a p => a + (p.1 % 16) <<< p.2) 0)
  | k => codes.flatMap fun v => leBytes (k / 8) v

/-- A chunk sum's flags (R70), apart from the rounding's own: NAN_IN where a NaN was an operand,
NAN_GEN for a product of 0 and infinity or for infinities of both signs. DEDUCED (log 141): a chunk with both
sets both. -/
def chunkNanFlags (a b : List FV) (products : List FV) : Flags :=
  flagIf ((a ++ b).any FV.isNan) fNanIn |||
    flagIf (((a.zip b).any fun p => !p.1.isNan && !p.2.isNan && (FV.mul p.1 p.2).isNan) ||
      (products.any (· == .inf true) && products.any (· == .inf false))) fNanGen

/-- The chunk sum of R69 step 3 and R70: exact products, an exact sum, one rounding. -/
def chunkSum (f : FFmt) (a b : List FV) : Nat × Flags :=
  let ps := (a.zip b).map fun p => FV.mul p.1 p.2
  let s := f.rne (FV.sum .rne ps)
  (s.1, s.2 ||| chunkNanFlags a b ps)

/-- Step 4 of R69: the entry replaced by the rounded sum of itself and the rounded chunk sum. -/
def accAdd (f : FFmt) (entry sum : Nat) : Nat × Flags :=
  let v := FV.add .rne (f.decode entry) (f.decode sum)
  let r := f.rne v
  let gen := v.isNan && !(f.decode entry).isNan && !(f.decode sum).isNan
  (r.1, r.2 ||| flagIf gen fNanGen)

end Sys2Proof.Machine
end

