-- ==== Sys2Proof/Machine/SeracState.lean ====
section
/-!
DEFINITION. The state of one Serac cluster, as plain data: structures, published results, the
command list's progress and the running commands, and the cluster's registers.
-/
namespace Sys2Proof.Machine

/-- An S48 slot of order `n` (R55, R169): the exponent, and rows of mantissas. Row `i` of a
symmetric or upper matrix holds columns `i` to `n - 1`; row `i` of a lower one, columns 0 to `i`. -/
structure SMat where
  n    : Nat
  e    : Int
  rows : List (List Int)
  deriving DecidableEq, Repr

/-- The quantities of the range pass (R180). -/
structure RangeQ where
  dmax  : Rat
  amax  : Rat
  rho   : Rat
  glo   : Rat
  trace : Rat
  deriving DecidableEq, Repr

/-- What a published copy holds (R168, R184 to R189). -/
inductive PubKind where
  | chol | ldlt | sym
  deriving DecidableEq, Repr

/-- The published copy of a structure (R193): the result slot; for LDLT also L, the permutation and
the 2 × 2 block starts; the floor and λ of the attempt, and the range values a SOLVE copies. -/
structure Pub where
  kind   : PubKind
  mat    : SMat
  low    : SMat
  perm   : List Nat
  two    : List Nat
  floor  : Rat
  lam    : Rat
  q      : RangeQ
  deriving DecidableEq, Repr

/-- A structure (R168, R467): order 0 means unused. -/
structure SerStruct where
  order  : Nat
  respub : Bool
  fed    : Bool
  w      : SMat
  pub    : Option Pub
  deriving DecidableEq, Repr

/-- A command descriptor (R172). `resv` says that a reserved field is nonzero. -/
structure SerDesc where
  opc      : Nat
  reg      : Bool
  exp      : Bool
  efp32    : Bool
  batch    : Bool
  pcode    : Nat
  part     : Nat
  ifmt     : Nat
  struct   : Nat
  engmask  : BitVec 4
  attempts : Nat
  kmax     : Nat
  start    : Nat
  deadline : Nat
  period   : Nat
  phase    : Nat
  tauLog   : Nat
  lamLog   : Nat
  tolLog   : Nat
  pubLog   : Nat
  beta     : Nat
  count    : Nat
  border   : Nat
  src      : Nat
  dst      : Nat
  recAddr  : Nat
  stride   : Nat
  resv     : Bool
  deriving DecidableEq, Repr

/-- A result record's fields (R175), the published slot with its LDLT parts, and how the command
ends. -/
structure SerOut where
  status  : Nat
  flags   : Nat
  attempt : Nat
  iter    : Nat
  eIn     : Int
  eOut    : Int
  pividx  : Nat
  npiv    : Nat
  q       : RangeQ
  lam     : Rat
  floor   : Rat
  resid   : Word
  lost    : Nat
  restarts : Nat
  guards  : Nat
  result  : Option (PubKind × SMat)
  low     : SMat
  perm    : List Nat
  two     : List Nat
  deriving DecidableEq, Repr

/-- A batch matrix's outcome: its record and its output bytes when written (R197). -/
structure BatchOut where
  out  : SerOut
  data : Option (List Byte)
  deriving DecidableEq, Repr

/-- A running command: its place in the list, its descriptor, and its work so far. `x`, `m` and
`input` are ROOT's slots; `iterating` says that ROOT still iterates; `feed` is FEED's new W;
`solved` is SOLVE's output; `batch` the finished matrices of a batch and `batchIn` those to come. -/
structure SerRun where
  ix        : Nat
  d         : SerDesc
  startGtc  : Word
  out       : SerOut
  input     : SMat
  x         : SMat
  m         : SMat
  iterating : Bool
  near      : Bool
  readsW    : Bool
  feed      : Option SMat
  solved    : Option (List Byte)
  batch     : List BatchOut
  batchIn   : Nat
  deriving DecidableEq, Repr

/-- An export whose control block waits for the next slot boundary (R193). -/
structure Switch where
  dst    : Nat
  cur    : Nat
  step   : BitVec 32
  iter   : Nat
  status : Nat
  after  : Word
  deriving DecidableEq, Repr

/-- One Serac cluster with its registers (R198, R199). `ended` lists the commands of step `step`
that have ended; `paused` says that a capture stopped its running commands (R536). -/
structure Cluster where
  structs   : List SerStruct
  listAddr  : Nat
  listCount : Nat
  step      : Word
  ended     : List Nat
  running   : List SerRun
  switches  : List Switch
  engFault  : BitVec 4
  spare     : Bool
  cmds      : Word
  partialN  : Word
  abandon   : Word
  restart   : Word
  guard     : Word
  digest    : Digest
  paused    : Bool
  deriving DecidableEq, Repr

/-- The zero matrix of order `n`, upper rows, exponent 0 (R171). -/
def SMat.zero (n : Nat) : SMat := ⟨n, 0, tab n fun i => List.replicate (n - i) 0⟩

/-- An unused structure. -/
def SerStruct.unused : SerStruct := ⟨0, false, false, ⟨0, 0, []⟩, none⟩

/-- A cluster after device reset: no image, so no structure and no list. -/
def Cluster.reset : Cluster where
  structs := List.replicate 16 .unused
  listAddr := 0
  listCount := 0
  step := 0
  ended := []
  running := []
  switches := []
  engFault := 0
  spare := false
  cmds := 0
  partialN := 0
  abandon := 0
  restart := 0
  guard := 0
  digest := .zero
  paused := false

end Sys2Proof.Machine
end

