-- ==== Sys2Proof/Machine/TileState.lean ====
section
/-!
DEFINITION. The state of one tile, as plain data: the sequencer and what it speculates, the queues
of its four coprocessors, the accumulator bank, the rime slots, the vector registers, the DMA
engine, and every register of the tile's register block.
-/
namespace Sys2Proof.Machine

/-! ### Decoded instructions (R238 to R242) -/

/-- The scalar arithmetic operations of R239. -/
inductive AluOp where
  | add | sub | mul | and | or | xor | shl | shr | sra | min | max | minu | maxu
  deriving DecidableEq, Repr

/-- The PSET comparisons of R239. -/
inductive CmpOp where
  | eq | ne | lt | ge | ltu | geu
  deriving DecidableEq, Repr

/-- The conditions of PLD (R249). -/
inductive PldCond where
  | eq0 | ne0 | bit (b : Nat)
  deriving DecidableEq, Repr

/-- The atomic operations of R264. -/
inductive AmoOp where
  | add | swp | cas
  deriving DecidableEq, Repr

/-- The vector operations of R239. -/
inductive VOp where
  | add | sub | mul | fma | max | min | abs | neg
  | iadd | isub | iand | ior | ixor | ishl | ishr | isra
  | cmp | mand | mor | mxor | mnot
  | trans | bcr | bcc | perm | cvt
  | rcp | div | sqrt | rsqrt | exp | exp2 | log | log2 | sin | cos | tanh | lgst | erf
  | rsum | rssq | topk | ld | st | xcvt | chain
  deriving DecidableEq, Repr

/-- A vector instruction's fields (R241). -/
structure VInstr where
  op   : VOp
  vd   : BitVec 5
  va   : BitVec 5
  vb   : BitVec 5
  vc   : BitVec 5
  ty   : BitVec 3
  men  : Bool
  msel : BitVec 3
  zm   : Bool
  rm   : BitVec 2
  sat  : Bool
  wait : BitVec 4
  xf   : BitVec 13
  deriving DecidableEq, Repr

/-- A sequencer instruction with its fields (R240). -/
inductive SInstr where
  | alu (op : AluOp) (sd sa sb : BitVec 5) (i : Bool) (imm : BitVec 32)
  | pset (op : CmpOp) (pd : BitVec 3) (sa sb : BitVec 5) (i : Bool) (imm : BitVec 32)
  | ld (sd sa : BitVec 5) (wait : BitVec 4) (size : BitVec 2) (off : BitVec 32)
  | st (sd sa : BitVec 5) (wait : BitVec 4) (size : BitVec 2) (off : BitVec 32)
  | pld (c : PldCond) (pd : BitVec 3) (sa : BitVec 5) (wait : BitVec 4) (off : BitVec 32)
  | amo (op : AmoOp) (sd sa sb sc : BitVec 5)
  | br (pb : BitVec 3) (neg hint : Bool) (off : BitVec 32)
  | jal (sd : BitVec 5) (off : BitVec 32)
  | jr (sa : BitVec 5)
  | stop
  | fenceSc
  | fenceCo (wait : BitVec 4)
  | waitslot (sa : BitVec 5) (off : BitVec 32)
  | phase (id : BitVec 6)
  | mpass (sa : BitVec 5) (wait : BitVec 4) (off : BitVec 32)
  | epi (sa : BitVec 5) (wait : BitVec 4) (off : BitVec 32)
  | rcfg (sa : BitVec 5) (wait : BitVec 4) (off : BitVec 32)
  | rbind (wait : BitVec 4) (bEn : Bool) (slotB : BitVec 2) (aEn : Bool) (slotA : BitVec 2)
  | rdrain (sa : BitVec 5) (wait : BitVec 4) (slot : BitVec 2) (off : BitVec 32)
  | vec (v : VInstr)
  | dma (sa : BitVec 5) (wait : BitVec 4) (off : BitVec 32)
  deriving DecidableEq, Repr

/-- A guarded instruction (R238): it takes effect when `p_PG xor PN` is 1. -/
structure Guarded where
  pg  : BitVec 3
  pn  : Bool
  ins : SInstr
  deriving DecidableEq, Repr

/-! ### The sequencer -/

/-- A predicate register (R235): READY exactly when it awaits no load. -/
structure Pred where
  val    : Bool
  awaits : Option Nat
  deriving DecidableEq, Repr, Inhabited

/-- What a pending load writes when it returns (R235, R236). -/
inductive LoadDst where
  | reg (sd : BitVec 5) (size : Nat)
  | pred (pd : BitVec 3) (c : PldCond)
  deriving DecidableEq, Repr

/-- A load, PLD or AMO issued and not yet returned. `value` is its word once performed. -/
structure Load where
  id    : Nat
  tag   : Option Nat
  pc    : Word
  addr  : Word
  wait  : BitVec 4
  dst   : LoadDst
  value : Option Word
  deriving DecidableEq, Repr

/-- A store not yet visible (R254 when tagged, R261 otherwise). -/
structure SbEntry where
  id   : Nat
  tag  : Option Nat
  pc   : Word
  addr : Word
  wait : BitVec 4
  data : List Byte
  deriving DecidableEq, Repr

/-- The scalar faults of R258. -/
inductive ScalarFault where
  | addrErr | alignErr | illInstr
  deriving DecidableEq, Repr

/-- The digested units of a tile (R450), by their unit code. -/
inductive TileUnit where
  | seq | mat | epi | vec | rime | dma
  deriving DecidableEq, Repr

/-- What commits together with a speculation tag, in order (R247, R252, R257, R450). -/
inductive CommitEv where
  /-- A committed operation of a unit: what it wrote, the flags it raises, vector operations done. -/
  | op (unit : TileUnit) (bytes : List Byte) (flags : Flags) (vops : Nat)
  /-- A load that has committed before its value came: the bytes it writes follow (R450). -/
  | load (id : Nat)
  /-- A coprocessor operation's committed fault: the unit's status bit, FUNIT, the operation. -/
  | copFault (unit : TileUnit) (bit : Nat) (id : Nat) (pc : Word)
  /-- A PHASE instruction with the GTC value and step at its issue, and its address. -/
  | phase (id : BitVec 6) (gtc : Word) (step : BitVec 32) (pc : Word)
  /-- A late WAITSLOT. -/
  | late
  /-- A predicted branch. -/
  | pred
  /-- A predicted branch resolved against its prediction. -/
  | mispred
  deriving DecidableEq, Repr

/-- A commit event under a speculation tag. -/
structure SpecRec where
  tag : Nat
  ev  : CommitEv
  deriving DecidableEq, Repr

/-- The most recent matrix-class instruction that took effect (R121): its id, and for an MPASS
whether it streams, its M and its first accumulator row. -/
structure LastMat where
  id     : Nat
  stream : Bool
  m      : Nat
  accRow : Nat
  deriving DecidableEq, Repr

/-- An unresolved predicted branch (R249, R250), its address, and what a misprediction restores (R252). -/
structure Branch where
  tag     : Nat
  own     : Option Nat
  loadId  : Nat
  pc      : Word
  neg     : Bool
  taken   : Bool
  other   : Word
  regs    : Vector Word 32
  regPend : Vector (Option Nat) 32
  preds   : Vector Pred 8
  phase   : BitVec 6
  lastMat : Option LastMat
  deriving DecidableEq, Repr

/-- A scalar fault held under an unresolved tag (R256), with its instruction's place in issue order. -/
structure HeldFault where
  tag   : Nat
  id    : Nat
  fault : ScalarFault
  pc    : Word
  deriving DecidableEq, Repr

/-- The tile sequencer (R234 to R237, R247 to R257) and its registers (R267 to R269, R339). `ended`
says that it has executed END since its program was loaded. -/
structure Seq where
  regs     : Vector Word 32
  regPend  : Vector (Option Nat) 32
  preds    : Vector Pred 8
  pc       : Word
  phase    : BitVec 6
  run      : Bool
  ended    : Bool
  nextId   : Nat
  loads    : List Load
  stores   : List SbEntry
  branches : List Branch
  deliver  : List (Nat × Bool)
  spec     : List SpecRec
  slotWait : Option Word
  held     : List HeldFault
  copFault : Option Nat
  stat     : BitVec 4
  funit    : BitVec 3
  faultPc  : Word
  phaseCom : BitVec 6
  pcCom    : Word
  nInstr   : Word
  nPred    : Word
  nSquash  : Word
  nLate    : Word
  nWstall  : Word
  phGtc    : Word
  phRecs   : Word
  phBase   : Word
  phLen    : BitVec 17
  stayFrom : Word
  stayLate : Word
  deriving DecidableEq, Repr

/-! ### Operations in the coprocessor queues -/

/-- What every queued operation carries: its place in issue order, its speculation tag, its
instruction's address, and its wait mask (R240, R245). -/
structure OpHdr where
  id   : Nat
  tag  : Option Nat
  pc   : Word
  wait : BitVec 4
  deriving DecidableEq, Repr

/-- A pass descriptor (R75). `resv` says that a reserved field is nonzero. -/
structure PassDesc where
  sfmt   : Nat
  wfmt   : Nat
  acc    : Nat
  rime   : Bool
  m      : Nat
  kx     : Nat
  nx     : Nat
  saddr  : Nat
  waddr  : Nat
  sscale : Nat
  wscale : Nat
  accRow : Nat
  resv   : Bool
  deriving DecidableEq, Repr

/-- The rime binding (R137, R161). -/
structure RimeBind where
  aEn   : Bool
  slotA : Fin 4
  bEn   : Bool
  slotB : Fin 4
  deriving DecidableEq, Repr, Inhabited

/-- A matrix pass: its observation as fixed at issue (phase, binding and the epoch of each bound
slot: R132, R151), its latched weights once started, its next stream row, and the flags and digest
bytes of the rows so far. -/
structure PassOp where
  hdr     : OpHdr
  d       : PassDesc
  phase   : BitVec 6
  bind    : RimeBind
  epochs  : Vector Word 4
  started : Bool
  weights : List (List Nat)
  wscales : List (List Nat)
  row     : Nat
  stall   : Word
  arrived : Bool
  flags   : Flags
  out     : List Byte
  deriving DecidableEq, Repr

/-- An epilogue descriptor (R114). -/
structure EpiDesc where
  src     : Nat
  dst     : Nat
  rm      : Nat
  sat     : Bool
  clear   : Bool
  dest    : Nat
  bind    : Bool
  op      : Nat
  shape   : Nat
  tfmt    : Nat
  nr      : Nat
  ncols   : Nat
  accRow  : Nat
  ssig    : Nat
  wsig    : Nat
  tsig    : Nat
  dsig    : Nat
  daddr   : Nat
  dstride : Nat
  dscale  : Nat
  taddr   : Nat
  tstride : Nat
  tscale  : Nat
  resv    : Bool
  deriving DecidableEq, Repr

/-- An epilogue: the pass it binds to (R121) when it found one, and its next row. -/
structure EpiOp where
  hdr     : OpHdr
  d       : EpiDesc
  bound   : Option LastMat
  started : Bool
  row     : Nat
  /-- The second chained row of an FP64 epilogue row is still to be handed on (R225). -/
  second  : Bool
  bytes   : List Byte
  flags   : Flags
  deriving DecidableEq, Repr

/-- An operation of the matrix class. -/
inductive MatOp where
  | pass (p : PassOp)
  | epi (e : EpiOp)
  deriving DecidableEq, Repr

/-- Row tags (R107). -/
inductive RowTag where
  | a48 | a96 | poisoned
  deriving DecidableEq, Repr

/-- What a row held before a tag's pending writes (R109). -/
structure RowUndo where
  stag   : Nat
  tag    : RowTag
  ents   : List (BitVec 48)
  halves : BitVec 256
  deriving DecidableEq, Repr

/-- An accumulator row (R107, R109): its tag, its 256 entries, the columns that hold half of an A96 entry (R54),
and the pending writes' undo. -/
structure AccRow where
  tag    : RowTag
  ents   : List (BitVec 48)
  halves : BitVec 256
  undo   : List RowUndo
  deriving DecidableEq, Repr

/-- A rime block descriptor (R135). -/
structure RimeDesc where
  slot   : Fin 4
  kind   : Bool
  dlog   : Nat
  seed   : BitVec 32
  kappa  : BitVec 32
  spaddr : Nat
  splen  : Nat
  statId : BitVec 32
  resv   : Bool
  deriving DecidableEq, Repr, Inhabited

/-- The counters and flags of one epoch (R133). -/
structure Epoch where
  no     : Word
  step   : BitVec 32
  n      : Word
  q      : Word
  zeroed : Bool
  full   : Bool
  deriving DecidableEq, Repr, Inhabited

/-- What a squash of `tag` returns an epoch to (R148). -/
structure EpochUndo where
  tag : Nat
  ep  : Epoch
  deriving DecidableEq, Repr

/-- A drain of a slot (R151): the ended epoch, the HBM address, and the record once it is read. -/
structure Drain where
  id     : Nat
  pc     : Word
  addr   : Word
  ep     : Epoch
  record : Option (List Byte)
  deriving DecidableEq, Repr

/-- A statistic slot (R133). -/
structure Slot where
  opened  : Bool
  ep      : Epoch
  undo    : List EpochUndo
  desc    : RimeDesc
  entries : List (BitVec 48)
  drain   : Option Drain
  deriving DecidableEq, Repr, Inhabited

/-- A sampled row waiting for the Gram array (R145, R148): its 128 BF16 values. -/
structure GramRow where
  slot  : Fin 4
  epoch : Word
  tag   : Option Nat
  vals  : List (BitVec 16)
  deriving DecidableEq, Repr

/-- A rime instruction as its queue holds it (R243 to R245): the descriptor bytes of an RCFG as read at issue, the
binding of an RBIND, the slot and address of an RDRAIN. -/
inductive RimeIns where
  | cfg (b : List Byte)
  | bind (b : RimeBind)
  | drain (slot : Fin 4) (addr : Word)
  deriving DecidableEq, Repr

/-- A rime instruction that waits in its queue. -/
structure RimeOp where
  hdr : OpHdr
  ins : RimeIns
  deriving DecidableEq, Repr

/-- A stream row as the rime unit takes it (R132, R137): its pass, what the pass fixed at issue, and the row's
values. -/
structure RimeRow where
  id     : Nat
  tag    : Option Nat
  phase  : BitVec 6
  deep   : Bool
  bind   : RimeBind
  epochs : Vector Word 4
  vals   : List FV
  deriving DecidableEq, Repr

/-- The rime unit and its registers (R160 to R163): the instructions that wait in its queue (R243), and in `late` the
rows of passes issued behind them, which are taken once those instructions have executed. -/
structure Rime where
  slots  : Vector Slot 4
  bind   : RimeBind
  queue  : List RimeOp
  late   : List RimeRow
  gramQ  : List GramRow
  stat   : BitVec 5
  rows   : Word
  drains : Word
  deriving DecidableEq, Repr

/-- A tile register: 256 lanes of 32 bits (R200). -/
abbrev VReg := Vector (BitVec 32) 256

/-- A mask register (R200). -/
abbrev VMask := BitVec 256

/-- A chained row (R225): F64 or F32 elements. -/
structure ChainRow where
  f64  : Bool
  vals : VReg
  deriving DecidableEq, Repr

/-- A chain-program descriptor (R227). -/
structure ChainDesc where
  rows  : Nat
  ninst : Nat
  paddr : Nat
  adv   : List Nat
  resv  : Bool
  deriving DecidableEq, Repr

/-- One instruction of a started chain program: its guard's truth, and its load or store's advance per
iteration (R227). -/
structure ChainIns where
  v   : VInstr
  on  : Bool
  adv : Nat
  deriving DecidableEq, Repr

/-- A vector operation with the scalar and predicate values it took at issue; for a VCHAIN its
descriptor, its program once started, and its next iteration. -/
structure VecOp where
  hdr     : OpHdr
  v       : VInstr
  sregs   : Vector Word 32
  preds   : BitVec 8
  desc    : Option ChainDesc
  started : Bool
  prog    : List ChainIns
  iter    : Nat
  done    : Bool
  deriving DecidableEq, Repr

/-- The registers and masks a squash of `tag` returns to (R229). -/
structure VecUndo where
  tag   : Nat
  regs  : Vector VReg 32
  masks : Vector VMask 8
  deriving DecidableEq, Repr

/-- The vector engine and its registers (R231 to R233). -/
structure Vec where
  regs   : Vector VReg 32
  masks  : Vector VMask 8
  undo   : List VecUndo
  chainQ : List ChainRow
  queue  : List VecOp
  stat   : BitVec 5
  fiter  : BitVec 20
  vops   : Word
  chstall : Word
  deriving DecidableEq, Repr

/-- A DMA descriptor (R284). -/
structure DmaDesc where
  kind  : Nat
  soft  : Bool
  idx64 : Bool
  crec  : Bool
  fmt   : Nat
  tag   : Nat
  len   : Nat
  cnt1  : Nat
  cnt2  : Nat
  src   : Nat
  dst   : Nat
  sstr1 : Nat
  sstr2 : Nat
  dstr1 : Nat
  dstr2 : Nat
  idx   : Nat
  start : Nat
  caddr : Nat
  resv  : Bool
  deriving DecidableEq, Repr

/-- A fault of a DMA unit (R292): the unit, the cause and the address. -/
structure DmaFault where
  unit  : Nat
  cause : Nat
  addr  : Nat
  deriving DecidableEq, Repr

/-- What a performed operation left in the speculative read buffer (R255, R289): the bytes it will
write, the units done, and the fault it met. -/
structure DmaBuf where
  writes : List (Nat × Byte)
  units  : Nat
  fault  : Option DmaFault
  deriving DecidableEq, Repr

/-- A DMA operation in the engine's queue. -/
structure DmaOp where
  hdr      : OpHdr
  d        : DmaDesc
  descAddr : Word
  buf      : Option DmaBuf
  deriving DecidableEq, Repr

/-- An entry of the DMA engine's order: an operation, or a slot's statistic record (R151). -/
inductive DmaItem where
  | op (o : DmaOp)
  | record (slot : Fin 4)
  deriving DecidableEq, Repr

/-- The DMA engine and its registers (R297 to R299). -/
structure Dma where
  queue     : List DmaItem
  stat      : BitVec 6
  faultIdx  : BitVec 32
  faultAddr : Word
  ops       : Word
  bytes     : Word
  deriving DecidableEq, Repr

/-- One enabled tile. -/
structure Tile where
  seq       : Seq
  fpstat    : Flags
  badCount  : BitVec 9
  width     : BitVec 9
  bad       : BitVec 264
  mmstat    : BitVec 5
  mmrows    : Word
  mmstall   : Word
  epistat   : BitVec 5
  epirows   : Word
  matQ      : List MatOp
  lastMat   : Option LastMat
  acc       : List AccRow
  rime      : Rime
  vec       : Vec
  dma       : Dma
  streamLo  : Nat
  streamLen : Nat
  digests   : Vector Digest 6
  deriving DecidableEq, Repr

/-- The state of a tile's units that an ABORT_JOB leaves unspecified (R503). -/
structure TileUnits where
  regs   : Vector Word 32
  preds  : Vector Pred 8
  pc     : Word
  phase  : BitVec 6
  acc    : List AccRow
  slots  : Vector Slot 4
  bind   : RimeBind
  vregs  : Vector VReg 32
  vmasks : Vector VMask 8
  deriving DecidableEq, Repr, Inhabited

/-- +0 entries of one row (R108). -/
def AccRow.zero : AccRow := ⟨.a48, List.replicate 256 0, 0, []⟩

/-- No slot bound (R159). -/
def RimeBind.none : RimeBind := ⟨false, 0, false, 0⟩

/-- An empty descriptor: the content of a slot that no RCFG has loaded. -/
def RimeDesc.empty : RimeDesc := ⟨0, false, 0, 0, 0, 0, 0, 0, false⟩

/-- An epoch as it opens, numbered `no` (R133). -/
def Epoch.fresh (no : Word) (step : BitVec 32) : Epoch := ⟨no, step, 0, 0, false, false⟩

/-- A CLOSED slot with entries +0 (R159). -/
def Slot.closed : Slot := ⟨false, .fresh 0 0, [], .empty, List.replicate 8256 0, none⟩

/-- The rime state after reset and at admission (R159); its registers are kept apart. -/
def Rime.reset : Rime := ⟨Vector.replicate 4 .closed, .none, [], [], [], 0, 0, 0⟩

/-- The sequencer after device reset (R237, R267 to R269, R339). -/
def Seq.reset : Seq where
  regs := Vector.replicate 32 0
  regPend := Vector.replicate 32 none
  preds := Vector.replicate 8 ⟨false, none⟩
  pc := 0
  phase := 0
  run := false
  ended := false
  nextId := 0
  loads := []
  stores := []
  branches := []
  deliver := []
  spec := []
  slotWait := none
  held := []
  copFault := none
  stat := 0
  funit := 0
  faultPc := 0
  phaseCom := 0
  pcCom := 0
  nInstr := 0
  nPred := 0
  nSquash := 0
  nLate := 0
  nWstall := 0
  phGtc := 0
  phRecs := 0
  phBase := 0
  phLen := 0
  stayFrom := 0
  stayLate := 0

/-- The vector engine after reset (R204, R231 to R233). -/
def Vec.reset : Vec :=
  ⟨Vector.replicate 32 (Vector.replicate 256 0), Vector.replicate 8 (BitVec.allOnes 256), [], [], [],
    0, 0, 0, 0⟩

/-- The DMA engine after reset (R297 to R299). -/
def Dma.reset : Dma := ⟨[], 0, 0, 0, 0, 0⟩

/-- A tile after device reset. -/
def Tile.reset : Tile where
  seq := .reset
  fpstat := 0
  badCount := 0
  width := 0
  bad := 0
  mmstat := 0
  mmrows := 0
  mmstall := 0
  epistat:= 0
  epirows := 0
  matQ := []
  lastMat := none
  acc := List.replicate 2048 .zero
  rime := .reset
  vec := .reset
  dma := .reset
  streamLo := 0
  streamLen := 0
  digests := Vector.replicate 6 .zero

end Sys2Proof.Machine
end

