-- ==== Sys2Proof/Machine/CpState.lean ====
section
/-!
DEFINITION. The state of the command processor, as plain data: time, the admitted image and its
job, the Ouvzu queues and commands, integrity, and checkpoints.
-/
namespace Sys2Proof.Machine

/-! ### Time, lock-step (R428 to R454) -/

/-- A kept lock-step entry of this chip (R452): unit, tile field, count, digest, and the slot in
which the count was reached. -/
structure LsHist where
  unit : BitVec 8
  tile : BitVec 8
  c    : BitVec 32
  d    : Word
  slot : Word
  deriving DecidableEq, Repr

/-- A partner's entry held until this chip reaches its count (R452). -/
structure LsHeld where
  entry : LsEntry
  since : Word
  deriving DecidableEq, Repr

/-- The global tick counter, its alignment and the time registers. `slew` is the offset still to be
slewed, in sixteenths; `sinceSlew` counts GTC counts since the last sixteenth; `ratio` is the trim of the PLL's
fractional ratio (R433); `lsHist` is the history of earlier slots and `lsFound` the slot in which the recorded
divergence was found (R452). -/
structure Gtc where
  count     : Word
  frac      : BitVec 4
  slew      : Int
  sinceSlew : Nat
  master    : Bool
  holdover  : Bool
  locked    : Bool
  parent    : BitVec 5
  depth     : BitVec 6
  offset    : BitVec 15
  lastFour  : List Int
  stepped   : Bool
  nextEdge  : Option Word
  syncSeen  : Bool
  launch    : Word
  slen      : BitVec 32
  thaw      : Word
  thawFirst : Word
  thawN     : Vector Word 11
  lsHalt    : Bool
  lsEn      : Bool
  lsPort    : BitVec 5
  lsValid   : Bool
  lsSkew    : Bool
  lsUnit    : BitVec 3
  lsTile    : BitVec 8
  lsSlot    : Word
  lsCount   : BitVec 32
  lsHist    : List LsHist
  lsHeld    : List LsHeld
  lsSent    : List LsEntry
  lsFound   : Option Word
  ratio     : Int
  deriving DecidableEq, Repr

/-! ### The image and its job (R455 to R477) -/

/-- A declared HBM region (R463). -/
structure Region where
  base  : Nat
  len   : Nat
  kind  : Nat
  write : Bool
  deriving DecidableEq, Repr

/-- The topology declaration (R461). -/
structure Topo where
  ex    : Nat
  ey    : Nat
  ez    : Nat
  opn   : BitVec 3
  dlx   : Nat
  dly   : Nat
  dlz   : Nat
  t     : Nat
  dx    : Nat
  p     : Nat
  s     : Nat
  epoch : BitVec 4
  jobId : Word
  pods  : List Nat
  deriving DecidableEq, Repr

/-- A moraine declaration (R468). -/
structure MorDecl where
  region  : Nat
  wfmt    : Nat
  lag     : Nat
  timeout : Nat
  exring  : Nat
  rtring  : Nat
  entry   : Nat
  importw : Nat
  port    : PciePort
  deriving DecidableEq, Repr

/-- What the manual says a moraine transfer uses and no section of an image gives (R324, R326, R328): the
HBM address of the chip's reduced gradient slice, the slice's OFFSET and COUNT, the slot offsets of
the export and the import, and the norm block's address (R310). -/
structure MorPlan where
  grad   : Nat
  offset : Nat
  count  : Nat
  exSlot : Nat
  imSlot : Nat
  norm   : Nat
  deriving DecidableEq, Repr, Inhabited

/-- The integrity declaration (R513). -/
structure IntegDecl where
  w         : Nat
  wdcoll    : Nat
  digids    : List Nat
  teststart : Nat
  testlen   : Nat
  wdaddr    : Nat
  testsave  : Nat
  deriving DecidableEq, Repr

/-- A tensor entry of the checkpoint declaration (R540). -/
structure TensDecl where
  tid   : Nat
  fmt   : Nat
  rank  : Nat
  src   : Nat
  stage : Nat
  cut   : List Nat
  dim   : List Nat
  base  : Nat
  scale : Nat
  raw   : List Byte
  deriving DecidableEq, Repr

/-- An admitted image: what the chip keeps of it. -/
structure Image where
  id       : Word
  seed     : Word
  slen     : Nat
  digest   : List Byte
  fixed    : Bool
  lockstep : Option (BitVec 5 × Bool)
  portmin  : List Nat
  topo     : Topo
  regions  : List Region
  phases   : List (Nat × Nat)
  moraine  : List MorDecl
  colls    : List CollDecl
  integ    : Option IntegDecl
  nosave   : BitVec 256
  tensors  : List TensDecl
  deriving DecidableEq, Repr

/-- A moraine transfer in progress or done (R324, R328): the declaration and step, whether found
late, and the GTC value of its start. -/
structure MorImport where
  decl    : Nat
  step    : Word
  start   : Word
  late    : Bool
  reread  : Bool
  ready   : Option (List Byte)
  deriving DecidableEq, Repr

/-- Where a paused or restored job resumes (R437, R549): the step and the slot offset. -/
structure Resume where
  step    : Word
  slotOff : Nat
  deriving DecidableEq, Repr

/-- Why a job ends (R504): status and detail. -/
structure JobEnd where
  status : Nat
  detail : Word
  deriving DecidableEq, Repr

/-- An accepted CAPTURE (R535): its command, its point and its window. -/
structure Armed where
  handle  : Nat
  step    : Word
  slotOff : Nat
  winOff  : Word
  winLen  : Word
  deriving DecidableEq, Repr

/-- A DMA operation stopped by a capture: its tile, its instruction, its descriptor and its count of completed
units (R536 step 4). -/
structure StoppedDma where
  tile  : TileId
  pc    : Word
  addr  : Word
  desc  : DmaDesc
  units : Nat
  deriving DecidableEq, Repr

/-- What a unit-state shard holds (R539): the saved bytes of HBM and the tile stores, the units of tiles and
clusters, the phase totals, the moraine positions and the stopped DMA operations. -/
structure UnitSnap where
  mem      : List Host.Cell
  tiles    : List Tile
  clusters : List Cluster
  phTot    : List Word
  phCnt    : List Word
  phMax    : List Word
  nextImp  : List Word
  exports  : List (Nat × Word)
  impDone  : List (Nat × Word)
  stopped  : List StoppedDma
  deriving DecidableEq, Repr, Inhabited

/-- An admission that waits for retrained ports (R469 step 3): the image read in step 2, and GTC_COUNT when the
wait began. -/
structure AdmWait where
  image : List Byte
  since : Word
  deriving DecidableEq, Repr

/-- The job of this chip. `base` is B of step `stepL`; `launched` holds from the acceptance of
LAUNCH, `running` from the launch boundary; `quiesce` is the step
at whose end a QUIESCE stops the job; `pending` is the first cause that ends it. -/
structure Job where
  image    : Option Image
  admState : BitVec 2
  reason   : BitVec 16
  admits   : Word
  rejects  : Word
  admWait  : Option AdmWait
  step     : Word
  base     : Int
  stepL    : Word
  launched : Bool
  running  : Bool
  resume   : Resume
  restored : Bool
  quiesce  : Option Word
  pending  : Option JobEnd
  last     : Option JobEnd
  colls    : List CollInst
  exports  : List (Nat × Word)
  imports  : List MorImport
  impDone  : List (Nat × Word)
  nextImp  : List Word
  stopped  : List StoppedDma
  deriving DecidableEq, Repr

/-! ### Ouvzu (R478 to R511) -/

/-- One MSI-X table entry. -/
structure MsixEntry where
  addr : Word
  data : BitVec 32
  ctrl : BitVec 32
  deriving DecidableEq, Repr

/-- What the host sets in a function's configuration space (R478, R479, R505, R506): the command register, with Bus
Master Enable in bit 2; the two base addresses; the power state, 0 for D0 and 3 for D3hot; the PCIe device control;
the ATS enable. -/
structure PciCfg where
  command : BitVec 16
  bar0    : Word
  bar2    : Word
  power   : BitVec 2
  devctl  : BitVec 16
  ats     : Bool
  deriving DecidableEq, Repr

/-- The configuration space of a port (R478), its BAR0 state (R480 to R483), its link and PERST line, the interrupts
sent, and what the last BAR2 read returned, none when it completed as an Unsupported Request (R507). -/
structure PciFn where
  cfg      : PciCfg
  en       : Bool
  disabled : Bool
  fatal    : Bool
  rdy      : Bool
  mbbusy   : Bool
  aqsq     : Word
  aqcq     : Word
  aqsize   : BitVec 32
  mboxCmd  : List Byte
  mboxCpl  : List Byte
  msix     : List MsixEntry
  pba      : BitVec 2048
  linkUp   : Bool
  perst    : Bool
  irqs     : List Nat
  bar2     : Option (List Byte)
  deriving DecidableEq, Repr

/-- A queue pair (R484). `hold` says that fetching has stopped (R499). -/
structure QPair where
  id      : Nat
  port    : PciePort
  sqBase  : Nat
  cqBase  : Nat
  sqSize  : Nat
  cqSize  : Nat
  cls     : Nat
  ien     : Bool
  vector  : Nat
  coalN   : Nat
  coalT   : Nat
  sqHead  : Nat
  sqTail  : Nat
  cqHead  : Nat
  cqTail  : Nat
  phase   : Bool
  since   : Nat
  hold    : Bool
  deriving DecidableEq, Repr

/-- Where a fetched command stands (R493 to R497). -/
inductive CmdStage where
  | fetched | sequenced | executing
  | committed (status : Nat) (r0 r1 : Word) (gtc32 : BitVec 32)
  deriving DecidableEq, Repr

/-- A fetched command (R488): its queue (0xFFFE mailbox, 0xFFFF SMC), the port it came from (none
for the SMC), its 64 bytes, the SQ head after its fetch, the tick of its fetch, whether an
ABORT_CMD or a deletion asked for its cancellation and by which commands, and for an SMC order the
manager command that carried it. -/
structure Cmd where
  handle  : Nat
  sqid    : Nat
  port    : Option PciePort
  raw     : List Byte
  sqhead  : Nat
  cycle   : Word
  stage   : CmdStage
  cancel  : Bool
  aborter : List Nat
  lom     : Option LomHeader
  deriving DecidableEq, Repr

/-- A grant of host memory (R505). -/
structure Grant where
  gid   : Nat
  port  : PciePort
  host  : Nat
  win   : Nat
  len   : Nat
  write : Bool
  deriving DecidableEq, Repr

/-- A held message (R508). -/
structure HeldMsg where
  src  : ChipAddr
  dqid : Nat
  seq  : BitVec 18
  data : List Byte
  deriving DecidableEq, Repr

/-- A deletion or disabling in progress (R499, R500): its command, the queue or the port it ends,
whether it is a clearing of EN (R482), and the count of CANCELLED records. -/
structure Closing where
  handle : Option Nat
  port   : Option PciePort
  qid    : Nat
  clear  : Bool
  count  : Nat
  deriving DecidableEq, Repr

/-- The Ouvzu contract's state. `done` holds the SQID, CID and OPC of commands
committed (R497). -/
structure Ouvzu where
  fns       : Vector PciFn 2
  queues    : List QPair
  weights   : Vector Nat 8
  lastServed : Vector Nat 8
  cmds      : List Cmd
  nextCmd   : Nat
  window    : Word
  grants    : List Grant
  store     : List HeldMsg
  msgSeq    : List (ChipAddr × BitVec 18)
  closing   : List Closing
  done      : List (Nat × Nat × Nat)
  nCmds     : Word
  nSuper    : Word
  nCancel   : Word
  nDberr    : Word
  nUndeliv  : Word
  nCqhold   : Word
  nMsgdrop  : Word
  deriving DecidableEq, Repr

/-! ### Integrity (R512 to R534) -/

/-- The event codes of R531. -/
structure Event where
  code   : BitVec 16
  ukind  : UnitKind
  uindex : BitVec 16
  seq    : BitVec 32
  d0     : Word
  d1     : Word
  deriving DecidableEq, Repr

/-- A retired or drained unit of the repair journal (R100, R278, R527, R529). -/
inductive Repair where
  | column (tile : Nat) (col : Nat)
  | tile (phys : Nat)
  | engine (phys : Nat)
  | pseudo (stack pc : Nat)
  | stackFail (stack : Nat)
  | lane (port lane : Nat)
  | drained
  deriving DecidableEq, Repr

/-- A confirmed event of the unit-history journal (R524): powered time and event code. -/
structure Confirmed where
  ptime : Word
  code  : BitVec 16
  deriving DecidableEq, Repr

/-- A lane retirement in the unit-history journal (R363): powered time, port, lane code (R371), and whether the lane
has since passed its test (R365). -/
structure LaneRec where
  ptime  : Word
  port   : Nat
  lane   : Nat
  passed : Bool
  deriving DecidableEq, Repr

/-- Integrity state (R513 to R534). `wdLog` holds the step, the
collective ID and the RDIGEST of each digested instance; `testOn` says that a
test window is in force and `testRun` that it tests. `repairs` and `confirmed` are journals in NOR,
and so are `waiting`, the events not yet classified, and `lost`, those of them whose repeat a power loss
has made impossible (R524), `histProb`, the start of the probation window, `histLanes`, and `histCopies`,
which digest copies were bad: powered time, and whether it was the shard header's (R547). -/
structure Integ where
  state     : BitVec 2
  lastv     : BitVec 2
  inttest   : BitVec 32
  probstart : Word
  wdcmp     : Word
  wdmism    : Word
  struns    : Word
  stfail    : Word
  evreps    : Word
  spares    : BitVec 32
  wdLog     : List (Word × Nat × Word)
  wdLast    : Option (Word × Word)
  testOn    : Bool
  testRun   : Bool
  evSeq     : BitVec 32
  waiting   : List Event
  lost      : List Event
  repairs   : List Repair
  confirmed : List Confirmed
  applied   : List Repair
  histProb  : Option Word
  histLanes : List LaneRec
  histCopies : List (Word × Bool)
  deriving DecidableEq, Repr

/-! ### Checkpoints (R535 to R554) -/

/-- Checkpoint state and registers (R553, R554). The manual gives a unit-state shard's payload no layout:
`shards` keeps what each payload that this chip has written stands for. -/
structure Ckpt where
  state   : BitVec 3
  reslice : Bool
  badcopy : Bool
  step    : Word
  slotOff : BitVec 32
  bytes   : Word
  badN    : Word
  armed   : Option Armed
  shards  : List (List Byte × UnitSnap)
  deriving DecidableEq, Repr

/-! ### Reset values -/

/-- GTC after AON reset (R428, R453, R454). -/
def Gtc.reset : Gtc where
  count := 0
  frac := 0
  slew := 0
  sinceSlew := 0
  master := false
  holdover := false
  locked := false
  parent := 0x1F
  depth := 0
  offset := 0
  lastFour := []
  stepped := false
  nextEdge := none
  syncSeen := false
  launch := 0
  slen := 0
  thaw := 0
  thawFirst := BitVec.allOnes 64
  thawN := Vector.replicate 11 0
  lsHalt := false
  lsEn := false
  lsPort := 0
  lsValid := false
  lsSkew := false
  lsUnit := 0
  lsTile := 0
  lsSlot := 0
  lsCount := 0
  lsHist := []
  lsHeld := []
  lsSent := []
  lsFound := none
  ratio := 0

/-- No image, no job (R476, R477). -/
def Job.reset : Job where
  image := none
  admState := 0
  admWait := none
  reason := 0
  admits := 0
  rejects := 0
  step := 0
  base := 0
  stepL := 0
  launched := false
  running := false
  resume := ⟨0, 0⟩
  restored := false
  quiesce := none
  pending := none
  last := none
  colls := []
  exports := []
  imports := []
  impDone := []
  nextImp := []
  stopped := []

/-- A configuration space after reset (PRESUMED from PCI Express, log 163): nothing enabled, in D0. -/
def PciCfg.reset : PciCfg where
  command := 0
  bar0 := 0
  bar2 := 0
  power := 0
  devctl := 0x2810
  ats := false

/-- A PCIe function after reset (R481): every register 0, its MSI-X vectors masked. -/
def PciFn.reset : PciFn where
  cfg := .reset
  en := false
  disabled := false
  fatal := false
  rdy := false
  mbbusy := false
  aqsq := 0
  aqcq := 0
  aqsize := 0
  mboxCmd := List.replicate 64 0
  mboxCpl := List.replicate 32 0
  msix := List.replicate 2048 ⟨0, 0, 1⟩
  pba := 0
  linkUp := false
  perst := true
  irqs := []
  bar2 := none

/-- Ouvzu after reset: no queue, default weights (R492), counters 0 (R511). -/
def Ouvzu.reset : Ouvzu where
  fns := Vector.replicate 2 .reset
  queues := []
  weights := #v[32, 16, 8, 4, 2, 1, 1, 1]
  lastServed := Vector.replicate 8 0
  cmds := []
  nextCmd := 0
  window := 0
  grants := []
  store := []
  msgSeq := []
  closing := []
  done := []
  nCmds := 0
  nSuper := 0
  nCancel := 0
  nDberr := 0
  nUndeliv := 0
  nCqhold := 0
  nMsgdrop := 0

/-- Integrity after reset (R532 to R534). -/
def Integ.reset : Integ where
  state := 0
  lastv := 0
  inttest := 0x2710
  probstart := 0
  wdcmp := 0
  wdmism := 0
  struns := 0
  stfail := 0
  evreps := 0
  spares := 0
  wdLog := []
  wdLast := none
  testOn := false
  testRun := false
  evSeq := 0
  waiting := []
  lost := []
  repairs := []
  confirmed := []
  applied := []
  histProb := none
  histLanes := []
  histCopies := []

/-- Checkpoint registers after reset (R553, R554). -/
def Ckpt.reset : Ckpt := ⟨0, false, false, 0, 0, 0, 0, none, []⟩

end Sys2Proof.Machine
end

