-- ==== Sys2Proof/Machine/SmcState.lean ====
section
/-!
DEFINITION. The state of the management controller, as plain data: power and thermal control, boot,
journals, identity, Lomtirel, the SPI, I3C and TAP targets and the pins.
-/
namespace Sys2Proof.Machine

/-- Power, droop and thermal state with its registers (R555 to R579). Caps are operating points, 7
when they do not limit. `dipUntil`, `brakeFree`, `disagree` and `maxSince` are GTC values. `throtN` counts
the samples taken while the thermal cap limits. `histCore` and `histSerac` are the trim offsets in the
unit-history journal, `dipLog` and `trips` its dips and trips. -/
structure Power where
  op        : BitVec 3
  target    : BitVec 3
  raising   : Option (BitVec 3)
  powerCap  : BitVec 3
  dipCap    : BitVec 3
  dipUntil  : Option Word
  thermCap  : BitVec 3
  thmax     : Bool
  maxSince  : Option Word
  plimit    : BitVec 12
  tdisc     : BitVec 6
  avg       : BitVec 16
  tj        : BitVec 8
  peak      : BitVec 8
  sensor    : BitVec 8
  coreOfs   : BitVec 8
  seracOfs  : BitVec 8
  margin    : Bool
  op6ceil   : BitVec 4
  op7ceil   : BitVec 4
  coreMv    : BitVec 16
  seracMv   : BitVec 16
  engaged   : BitVec 6
  stretch   : Vector Word 6
  dips      : Word
  brakes    : Word
  opdown    : Word
  wirings   : Word
  throtms   : Word
  wireA     : Bool
  wireB     : Bool
  brake     : Bool
  brakeFree : Option Word
  disagree  : Option Word
  wiring    : Bool
  thermtrip : Bool
  powerFlt  : Bool
  dipLog    : List (Word × BitVec 16)
  trips     : List Word
  throtN    : Nat
  histCore  : BitVec 8
  histSerac : BitVec 8
  deriving DecidableEq, Repr

/-- The fused identity (R592). -/
structure Fuses where
  lot     : Word
  serial  : BitVec 48
  wafer   : BitVec 8
  diex    : BitVec 8
  diey    : BitVec 8
  /-- Good physical tiles, engines and columns as the fuse map gives them (R100, R167, R529). -/
  badTiles   : List Nat
  badEngines : List Nat
  badColumns : List (Nat × Nat)
  deriving DecidableEq, Repr

/-- The configuration block of a NOR copy (R586). -/
structure CfgBlock where
  chip      : ChipAddr
  topo      : BitVec 33
  master    : Bool
  masterAt  : ChipAddr
  homes     : List (BitVec 3)
  cabled    : BitVec 20
  subVendor : BitVec 16
  subDevice : BitVec 16
  connA     : Bool
  connB     : Bool
  macs      : List (BitVec 48)
  managers  : List (BitVec 48)
  relay     : ChipAddr
  i3cStatic : BitVec 7
  fru       : List Byte
  deriving DecidableEq, Repr, Inhabited

/-- A boot-journal record's result (R588). -/
inductive BootRes where
  | started | done | failed | skipped | doneAlt | aborted | failedAlt
  deriving DecidableEq, Repr

/-- A boot-journal record (R588). -/
structure BootRec where
  bootno : BitVec 32
  step   : BitVec 8
  res    : BootRes
  detail : BitVec 16
  ptime  : BitVec 32
  deriving DecidableEq, Repr

/-- The SMC's boot states (R604). -/
inductive BootState where
  | rom | booting | ready | bootFail | recovery
  deriving DecidableEq, Repr

/-- Boot state and registers (R604, R605). `alt` says how the step in progress is done; `fails` counts the
failed attempts since the AON reset (R590); `reselect` says that step 2 selects a copy anew (R585).
`journal` holds the valid records of the boot journal, oldest first, the oldest in slot `first` of the ring;
`noPrev` says that it could not be read (R591). `histPtime` is the powered time in the unit-history
journal. `inReset` says that the main dies are held in reset. -/
structure Boot where
  state    : BootState
  step     : BitVec 4
  attempt  : BitVec 8
  rstcause : BitVec 3
  jlost    : Bool
  copyB    : Bool
  alt      : Bool
  bootno   : BitVec 32
  idlot    : Word
  iddie    : BitVec 32
  idserial : BitVec 48
  ptime    : Word
  journal  : List BootRec
  cfg      : Option CfgBlock
  unfit    : Bool
  inReset  : Bool
  fails    : Nat
  reselect : Bool
  first    : Nat
  noPrev   : Bool
  lostRepair : Bool
  lostHist : Bool
  telemOn  : Bool
  histPtime : Word
  deriving DecidableEq, Repr

/-- A Lomtirel frame as sent (R594). -/
structure LomFrame where
  ty      : BitVec 8
  seq     : BitVec 32
  refseq  : BitVec 32
  gtc     : Word
  payload : List Byte
  deriving DecidableEq, Repr

/-- What the SMC keeps of a manager (R598): the last SEQ executed and its stored response. -/
structure Manager where
  mac  : BitVec 48
  last : BitVec 32
  resp : Option LomFrame
  deriving DecidableEq, Repr

/-- A NOR operation in progress (R585, R598): bytes to program at an offset of the unselected copy. -/
structure NorOp where
  addr : Nat
  data : List Byte
  deriving DecidableEq, Repr

/-- Lomtirel state and counters (R593 to R598, R605). `sent` holds the frames originated, newest
first; `relayed` the frames transmitted for other chips. -/
structure Lom where
  up       : Vector Bool 2
  seq      : BitVec 32
  managers : List Manager
  norOp    : Option NorOp
  sent     : List LomFrame
  relayed  : List (List Byte)
  tx       : Word
  rx       : Word
  deny     : Word
  deriving DecidableEq, Repr

/-- The SPI and I3C targets, the TAP and the pins (R600 to R603, R612, R621, R623). Pins hold true
for a high level; `out` is what a target last drove. -/
structure Side where
  accErr   : Bool
  frameErr : Bool
  extra    : BitVec 32
  telem    : List Byte
  spiOut   : List (BitVec 32)
  i3cDyn   : Option (BitVec 7)
  i3cOff   : BitVec 12
  i3cOut   : List Byte
  tapIr    : BitVec 8
  tapEff   : BitVec 8
  tapDr    : BitVec 32
  tapLog   : List (BitVec 8)
  resetN   : Bool
  aonPwrgd : Bool
  tickOut  : Bool
  tickIgn  : List Word
  deriving DecidableEq, Repr

/-- Power control after device and AON reset (R576 to R579): OP and TARGET read 0, no cap limits. -/
def Power.reset : Power where
  op := 0
  target := 0
  raising := none
  powerCap := 7
  dipCap := 7
  dipUntil := none
  thermCap := 7
  thmax := false
  maxSince := none
  plimit := 0x7D0
  tdisc := 5
  avg := 0
  tj := 0
  peak := 0
  sensor := 0
  coreOfs := 0
  seracOfs := 0
  margin := false
  op6ceil := 0
  op7ceil := 0
  coreMv := 750
  seracMv := 750
  engaged := 0
  stretch := Vector.replicate 6 0
  dips := 0
  brakes := 0
  opdown := 0
  wirings := 0
  throtms := 0
  wireA := false
  wireB := false
  brake := false
  brakeFree := none
  disagree := none
  wiring := false
  thermtrip := false
  powerFlt := false
  dipLog := []
  trips := []
  throtN := 0
  histCore := 0
  histSerac := 0

/-- A part's fuses: no bad unit but the spares beyond the enabled set, and an identity of zeros. -/
def Fuses.blank : Fuses := ⟨0, 0, 1, 0, 0, [], [], []⟩

/-- Boot state after AON reset (R604, R605), the ROM about to start. -/
def Boot.reset : Boot where
  state := .rom
  step := 0
  attempt := 0
  rstcause := 0
  jlost := false
  copyB := false
  alt := false
  bootno := 0
  idlot := 0
  iddie := 0
  idserial := 0
  ptime := 0
  journal := []
  cfg := none
  unfit := false
  inReset := true
  fails := 0
  reselect := true
  first := 0
  noPrev := false
  lostRepair := false
  lostHist := false
  telemOn := false
  histPtime := 0

/-- Lomtirel after AON reset: SEQ starts at 1 (R594). -/
def Lom.reset : Lom := ⟨Vector.replicate 2 false, 1, [], none, [], [], 0, 0, 0⟩

/-- The sideband targets after AON reset (R602, R603, R612). -/
def Side.reset : Side where
  accErr := false
  frameErr := false
  extra := 0
  telem := List.replicate 64 0
  spiOut := []
  i3cDyn := none
  i3cOff := 0
  i3cOut := []
  tapIr := 0
  tapEff := 0
  tapDr := 0
  tapLog := []
  resetN := false
  aonPwrgd := false
  tickOut := false
  tickIgn := []

end Sys2Proof.Machine
end

