-- ==== Sys2Proof/Config.lean ====
section
/-!
DEFINITION. What the manual leaves open, as constants without a body: nothing can evaluate them, so
a statement about them holds whatever they are.
-/
namespace Sys2Proof.Config
open Sys2Proof.Machine

/-- The entries of a POISONED accumulator row (R107): unspecified. -/
opaque freeEntry : Nat → BitVec 48

/-- What a read of column `c` as A48 returns where the column holds half of an A96 entry (R54): unspecified. -/
opaque halfRead : Nat → Nat → BitVec 48

/-- A byte the manual calls unspecified: the sample buffer past a squashed row (R148), the
destination of a collective that ended other than OK (R424), the test save area (R520). -/
opaque freeByte : Nat → Nat → BitVec 8

/-- A lane of a register whose value the manual does not state (VPERM with an index beyond the
register, R627). -/
opaque freeLane : Nat → BitVec 32

/-- The state of a tile's units after ABORT_JOB (R503): unspecified until the next admission. -/
opaque freeUnits : Nat → TileUnits

/-- The structures of a cluster after ABORT_JOB (R503). -/
opaque freeStructs : Nat → List SerStruct

/-- The row that VBCR broadcasts and the column that VBCC broadcasts (R206, R627): the manual names
no selector. -/
opaque bcastLine : Fin 16

/-- The event code of the report of an unroutable packet (R384): R531 lists none. -/
opaque routeEvent : BitVec 16

/-- The event code of the report of records that a link-down left unwritten (R502): R531 lists none. -/
opaque undelivEvent : BitVec 16

/-- A value of a function beyond the working precision of the model's correct rounding (R212): the
bits of the correctly rounded result, which the model does not compute. -/
opaque hardCase : Nat → Nat → BitVec 64

/-- What a moraine declaration's transfers use beside R468's fields. -/
opaque moraine : Nat → MorPlan

/-- The payload bytes of the unit-state shard of an image, named by its digest (R535, R539): the manual
gives no layout. -/
opaque unitSize : List Byte → Nat

/-- What a unit-state payload that this chip has not written stands for. -/
opaque unitOf : List Byte → UnitSnap

/-- The configuration block a NOR copy's bytes hold (R586): the manual gives its fields and no
layout. -/
opaque cfgBlock : List Byte → CfgBlock

/-- Whether an image breaks a rule that the loader checks and for whose inputs no section of an image has a
layout: the number names the rule (R25, R28, R30, R79, R142, R228, R305, R306, R315). -/
opaque breaks : Nat → List Byte → Bool

/-- The index of the region that holds a tile's phase ring (R335, R463): no section names it. -/
opaque phaseRing : Nat → Nat

/-- A record of the repair journal, by index, as JOURNAL_READ returns it (R597): the manual gives no record
layout. -/
opaque repairBytes : List Repair → Nat → List Byte

/-- A record of the unit-history journal, by index, as JOURNAL_READ returns it (R597), from the confirmed
events, the retired lanes, the bad digest copies, the dips and the trips. -/
opaque historyBytes : Integ → List (Word × BitVec 16) → List Word → Nat → List Byte

/-- How many units a DMA operation that a capture stops has completed (R536), by draw and tile, before it is cut to what
is left of the operation: the manual fixes no speed. -/
opaque freeCount : Nat → Nat → Nat

/-- The event code of a report that R531 does not list, by the SMC's cause: 0x0021 THERMTRIP, 0x0022 a power
fault, 0x0100 MARGIN_LIMIT (R563), 0x0101 a wiring fault (R569), 0x0102 BOOT_FAIL (R590). -/
opaque smcEvent : Nat → BitVec 16

/-- By how many steps of 25 MHz an operating point's frequency is lowered when the 0.85 V cap leaves it short
of margin at a trim offset (R563). -/
opaque opCeil : Nat → BitVec 8 → BitVec 4

/-- What the I3C target answers to a GET CCC (R603), by the CCC's name: GETPID, GETBCR, GETDCR, GETMWL and
GETMRL. -/
opaque i3cReply : String → List Byte

/-- What GETSTATUS answers (R603). -/
opaque i3cStatus : Nat → List Byte

/-- The TAP instruction code of IDCODE (R623). -/
opaque tapIdcode : BitVec 8

/-- The TAP instruction code of SAMPLE (R623). -/
opaque tapSample : BitVec 8

end Sys2Proof.Config
end

