-- ==== Sys2Proof/Machine/State.lean ====
section
/-!
DEFINITION. The whole state of the block as plain data, the two reasons a step can stop, and the
state after reset.
-/
namespace Sys2Proof.Machine

/-- No command of this block faults the model: every error the manual describes (an error flag, a
fault record, a status code, the end of a job) is an effect on State. -/
inductive Fault where
  deriving DecidableEq, Repr

/-- Why a command has no meaning. -/
inductive Refusal where
  /-- Raised only by `exec`'s arms for commands without a meaning. Safe: the model stops. -/
  | notModelled (mnemonic : String)
  /-- Raised by every command whose operands fail `Instr.WellFormed`: lists of a length that no
  such event has. Safe: the model stops, and no event of the hardware is lost. -/
  | illFormed (mnemonic : String)
  deriving DecidableEq, Repr

/-- One HBM stack (R273 to R279, R300): the enabled pseudo-channels in force, the CP registers,
the marked lines (map addresses), the logged corrected errors (GTC and pseudo-channel), the
pseudo-channels of past uncorrectable lines, whether the stack is failed, and the error log. -/
structure Stack where
  enabled : BitVec 64
  failed  : Bool
  cap     : Word
  pcmap   : Word
  ce      : Word
  ue      : Word
  marked  : List Nat
  ceLog   : List (Word × Nat)
  uePcs   : List Nat
  errLog  : List Nat
  deriving DecidableEq, Repr

/-- The CP registers that belong to no other part: phase totals (R338, R340) and the moraine
counters (R340). -/
structure CpRegs where
  phTot   : Vector Word 64
  phCnt   : Vector Word 64
  phMax   : Vector Word 64
  mlate   : Word
  mdigest : Word
  deriving DecidableEq, Repr

/-- The block's state. `mem` holds the tile stores and HBM by map address (R270); `hostA` and
`hostB` the host memory behind the two PCIe ports by bus address; `nor` the SPI NOR device. `free`
numbers the free values taken so far. -/
structure State where
  tiles    : Vector Tile 64
  clusters : Vector Cluster 8
  hbm   : Vector Stack 8
  ports    : Vector LPort 20
  spares   : Vector (Vector Spare 4) 4
  routers  : Vector Router 2
  cp       : CpRegs
  gtc      : Gtc
  job      : Job
  ouvzu    : Ouvzu
  integ    : Integ
  ckpt     : Ckpt
  power    : Power
  fuses    : Fuses
  boot     : Boot
  lom      : Lom
  side     : Side
  mem      : List Host.Cell
  hostA    : List Host.Cell
  hostB    : List Host.Cell
  nor      : List Host.Cell
  free     : Nat
  pending  : List Instr
  deriving DecidableEq, Repr

/-- A stack after reset: every pseudo-channel enabled, the CP registers not yet loaded. -/
def Stack.reset : Stack := ⟨BitVec.allOnes 64, false, 0, 0, 0, 0, [], [], [], []⟩

/-- The CP registers after reset (R340). -/
def CpRegs.reset : CpRegs :=
  ⟨Vector.replicate 64 0, Vector.replicate 64 0, Vector.replicate 64 0, 0, 0⟩

/-- The machine right after an AON reset: every register at its reset value, no memory listed, the
queue of commands empty. -/
def State.reset : State where
  tiles := Vector.replicate 64 .reset
  clusters := Vector.replicate 8 .reset
  hbm := Vector.replicate 8 .reset
  ports := Vector.replicate 20 .reset
  spares := Vector.replicate 4 (Vector.replicate 4 .reset)
  routers := Vector.replicate 2 .reset
  cp := .reset
  gtc := .reset
  job := .reset
  ouvzu := .reset
  integ := .reset
  ckpt := .reset
  power := .reset
  fuses := .blank
  boot := .reset
  lom := .reset
  side := .reset
  mem := []
  hostA := []
  hostB := []
  nor := []
  free := 0
  pending := []

end Sys2Proof.Machine
end

