-- ==== Sys2Proof/Machine/Ops.lean ====
section
/-!
DEFINITION. The named operations every meaning uses: byte memories in canonical form, access to the
parts of State, the address map of R270, HBM lines (R274 to R276), reports, thaw events, and the
end of a job.
-/
namespace Sys2Proof.Machine
open Host

/-- What a command answers. -/
abbrev Res := Outcome State Fault Refusal

/-! ### Byte memories -/

/-- Addresses strictly rising, and no entry equal to what an unlisted address reads as. -/
def Memory.wf (unl : Byte) (m : List Cell) : Bool :=
  decide (m.Pairwise fun x y => x.1 < y.1) && m.all fun c => c.2 != unl

/-- The byte at `a`; `unl` where none is listed. -/
def Memory.read (unl : Byte) (m : List Cell) (a : Nat) : Byte :=
  match m.find? fun c => c.1 == a with
  | some c => c.2
  | none => unl

/-- The `n` bytes from `a`. -/
def Memory.readBytes (unl : Byte) (m : List Cell) (a n : Nat) : List Byte :=
  let w := m.filter fun c => a ≤ c.1 && c.1 < a + n
  tab n fun i => Memory.read unl w (a + i)

/-- The cells that bytes at `a` make, those equal to `unl` left out. -/
def Memory.cells (unl : Byte) (a : Nat) : List Byte → List Cell
  | [] => []
  | b :: bs => if b == unl then Memory.cells unl (a + 1) bs else (a, b) :: Memory.cells unl (a + 1) bs

/-- `m` with the bytes from `a` replaced by `bs`, its canonical form kept. -/
def Memory.writeBytes (unl : Byte) (m : List Cell) (a : Nat) (bs : List Byte) : List Cell :=
  m.filter (fun c => c.1 < a) ++ Memory.cells unl a bs ++
    m.filter (fun c => a + bs.length ≤ c.1)

/-! ### The parts of State -/

/-- Tile `t`. -/
def State.tile (s : State) (t : TileId) : Tile := s.tiles[t]

/-- `s` with tile `t` replaced. -/
def State.setTile (s : State) (t : TileId) (x : Tile) : State := { s with tiles := s.tiles.set t x }

/-- `s` with tile `t` changed by `f`. -/
def State.modTile (s : State) (t : TileId) (f : Tile → Tile) : State := s.setTile t (f (s.tile t))

/-- Cluster `c`. -/
def State.cluster (s : State) (c : ClusterId) : Cluster := s.clusters[c]

/-- `s` with cluster `c` changed by `f`. -/
def State.modCluster (s : State) (c : ClusterId) (f : Cluster → Cluster) : State :=
  { s with clusters := s.clusters.set c (f s.clusters[c]) }

/-- Port `p`. -/
def State.port (s : State) (p : PortId) : LPort := s.ports[p]

/-- `s` with port `p` changed by `f`. -/
def State.modPort (s : State) (p : PortId) (f : LPort → LPort) : State :=
  { s with ports := s.ports.set p (f s.ports[p]) }

/-- The index of a die's router. -/
def dieIx : Die → Fin 2
  | .west => 0
  | .east => 1

/-- The router of a die. -/
def State.router (s : State) (d : Die) : Router := s.routers[(dieIx d)]

/-- `s` with a die's router changed by `f`. -/
def State.modRouter (s : State) (d : Die) (f : Router → Router) : State :=
  { s with routers := s.routers.set (dieIx d) (f s.routers[(dieIx d)]) }

/-- Stack `k`. -/
def State.stack (s : State) (k : StackId) : Stack := s.hbm[k]

/-- `s` with stack `k` changed by `f`. -/
def State.modStack (s : State) (k : StackId) (f : Stack → Stack) : State :=
  { s with hbm := s.hbm.set k (f s.hbm[k]) }

/-- The index of a PCIe port. -/
def pcieIx : PciePort → Fin 2
  | .a => 0
  | .b => 1

/-- The other PCIe port. -/
def pcieOther : PciePort → PciePort
  | .a => .b
  | .b => .a

/-- The BAR0 state of a PCIe port. -/
def State.fn (s : State) (p : PciePort) : PciFn := s.ouvzu.fns[(pcieIx p)]

/-- `s` with a PCIe port's BAR0 state changed by `f`. -/
def State.modFn (s : State) (p : PciePort) (f : PciFn → PciFn) : State :=
  { s with ouvzu := { s.ouvzu with fns := s.ouvzu.fns.set (pcieIx p) (f s.ouvzu.fns[(pcieIx p)]) } }

/-- The sequencer of tile `t`, changed. -/
def State.modSeq (s : State) (t : TileId) (f : Seq → Seq) : State :=
  s.modTile t fun x => { x with seq := f x.seq }

/-- Bytes of map-addressed memory (tile stores, HBM); an unlisted byte reads 0. -/
def State.rd (s : State) (a n : Nat) : List Byte := Memory.readBytes 0 s.mem a n

/-- A little-endian number in map-addressed memory. -/
def State.rdNat (s : State) (a n : Nat) : Nat := leNat (s.rd a n)

/-- Host memory behind a PCIe port, by bus address. -/
def State.hostRd (s : State) (p : PciePort) (a n : Nat) : List Byte :=
  Memory.readBytes 0 (match p with | .a => s.hostA | .b => s.hostB) a n

/-- Write host memory behind a PCIe port. -/
def State.hostWr (s : State) (p : PciePort) (a : Nat) (bs : List Byte) : State :=
  match p with
  | .a => { s with hostA := Memory.writeBytes 0 s.hostA a bs }
  | .b => { s with hostB := Memory.writeBytes 0 s.hostB a bs }

/-- Bytes of the NOR device; an erased byte reads 0xFF. -/
def State.norRd (s : State) (a n : Nat) : List Byte := Memory.readBytes 0xFF s.nor a n

/-! ### Slots and steps -/

/-- The slot in progress (R4). -/
def State.slot (s : State) : Nat := s.gtc.count.toNat / 64

/-- Whether slot boundary `n` has been observed: the GTC has reached it. DESIGN CHOICE (log 139): R34's delay of 0 to 6
counts is 0 in every domain. -/
def State.observed (s : State) (n : Int) : Bool := decide (64 * n ≤ s.gtc.count.toNat)

/-- The low 32 bits of the step counter. -/
def State.step32 (s : State) : BitVec 32 := s.job.step.setWidth 32

/-- The base slot of a step (R438): before slot 0 where a restored slot offset is longer than the time since the
GTC began (R549). -/
def State.baseOf (s : State) (step : Nat) : Int :=
  s.job.base + ((step : Int) - s.job.stepL.toNat) * s.gtc.slen.toNat

/-- The base slot of the step in progress. -/
def State.baseSlot (s : State) : Int := s.baseOf s.job.step.toNat

/-- The kind of a phase ID in the image's phase table (R464); none without an image. -/
def State.phaseKind (s : State) (id : Nat) : Option Nat :=
  s.job.image.bind fun im => (im.phases[id]?).map Prod.fst

/-! ### The address map (R270 to R272) -/

/-- Who issues an access (R270). -/
inductive Agent where
  | seq (t : TileId) | dma (t : TileId) | serac | cp
  deriving DecidableEq, Repr

/-- What an address maps to: a byte of `mem`, a register block and offset, a byte of the host
window, or nothing. -/
inductive Target where
  | mem (key : Nat)
  | tileReg (t : TileId) (off : Nat)
  | clusterReg (c : ClusterId) (off : Nat)
  | cpReg (off : Nat)
  | host (a : Nat)
  | nothing
  deriving DecidableEq, Repr

/-- Bytes of a tile store (R270). -/
def storeSize : Nat := 0x600000

/-- The pooled address of tile `t`'s store (R270). -/
def poolBase (t : Nat) : Nat := 0x1_0000_0000 + t * 0x80_0000

/-- The base of HBM stack `k`'s window (R270). -/
def hbmBase (k : Nat) : Nat := 0x1000_0000_0000 + k * 0x10_0000_0000

/-- C_s of R274; 0 for a failed stack (R279). -/
def Stack.capacity (k : Stack) : Nat := if k.failed then 0 else popCount k.enabled * 750000000

/-- Whether a region holds an address. -/
def Region.holds (r : Region) (a : Nat) : Bool := r.base ≤ a && a < r.base + r.len

/-- The declared region that holds an HBM address. -/
def State.regionOf (s : State) (a : Nat) : Option Region :=
  s.job.image.bind fun im => im.regions.find? fun r => r.holds a

/-- Whether an HBM address is populated: within C_s, and once an image is admitted within a declared
region (R272). -/
def State.hbmMapped (s : State) (a : Nat) : Bool :=
  if h : (a - hbmBase 0) / 0x10_0000_0000 < 8 then
    let k : StackId := ⟨(a - hbmBase 0) / 0x10_0000_0000, h⟩
    decide ((a - hbmBase 0) % 0x10_0000_0000 < (s.stack k).capacity) &&
      (s.job.image.isNone || (s.regionOf a).isSome)
  else false

/-- What an address maps to for an agent (R270). -/
def State.locate (s : State) (g : Agent) (a : Nat) : Target :=
  if a < storeSize then
    match g with
    | .seq t | .dma t => .mem (poolBase t + a)
    | _ => .nothing
  else if 0x1_0000_0000 ≤ a ∧ a < 0x1_2000_0000 then
    if (a - 0x1_0000_0000) % 0x80_0000 < storeSize then .mem a else .nothing
  else if h : 0x2_0000_0000 ≤ a ∧ a < 0x2_0040_0000 then
    match g with
    | .seq _ | .cp => .tileReg ⟨(a - 0x2_0000_0000) / 0x1_0000, by omega⟩ (a % 0x1_0000)
    | _ => .nothing
  else if h : 0x2_0040_0000 ≤ a ∧ a < 0x2_0048_0000 then
    match g with
    | .seq _ | .cp => .clusterReg ⟨(a - 0x2_0040_0000) / 0x1_0000, by omega⟩ (a % 0x1_0000)
    | _ => .nothing
  else if 0x2_0080_0000 ≤ a ∧ a < 0x2_0081_0000 then
    match g with
    | .seq _ | .cp => .cpReg (a % 0x1_0000)
    | _ => .nothing
  else if 0x1000_0000_0000 ≤ a ∧ a < 0x1080_0000_0000 then
    if s.hbmMapped a then .mem a else .nothing
  else if 0x4000_0000_0000 ≤ a ∧ a < 0x8000_0000_0000 then
    match g with
    | .dma _ => .host (a - 0x4000_0000_0000)
    | _ => .nothing
  else .nothing

/-- Whether a `mem` key lies in HBM. -/
def isHbm (key : Nat) : Bool := decide (0x1000_0000_0000 ≤ key)

/-- Whether a `mem` key lies in some tile's declared stream region (R272). -/
def State.inStream (s : State) (key : Nat) : Bool :=
  if h : 0x1_0000_0000 ≤ key ∧ key < 0x1_2000_0000 then
    let t : TileId := ⟨(key - 0x1_0000_0000) / 0x80_0000, by omega⟩
    let o := (key - 0x1_0000_0000) % 0x80_0000
    let x := s.tile t
    decide (x.streamLo ≤ o ∧ o < x.streamLo + x.streamLen)
  else false

/-- Whether a key may not be written: a read-only or a stream region (R272). -/
def State.readOnly (s : State) (key : Nat) : Bool :=
  s.inStream key ||
    (isHbm key && (match s.regionOf key with | some r => !r.write | none => false))

/-- The ends of `[a, a + n)` and the starts of the 4,096-byte pages inside it: declared regions and tile stores begin
and end with a page (R270, R463). -/
def pagePoints (a n : Nat) : List Nat :=
  if n = 0 then [] else [a, a + n - 1] ++ tab ((a + n - 1) / 4096 - a / 4096) fun i => (a / 4096 + i + 1) * 4096

/-- Whether a write of `[key, key + n)` touches a read-only region or a stream region (R272). -/
def State.touchesRo (s : State) (key n : Nat) : Bool :=
  (isHbm key && (pagePoints key n).any s.readOnly) ||
    (List.finRange 64).any fun t => meets key n (poolBase t.val + (s.tile t).streamLo) (s.tile t).streamLen

/-! ### HBM lines (R274 to R276) -/

/-- The stack of an HBM key. -/
def stackOf (key : Nat) : Fin 8 := ⟨(key - 0x1000_0000_0000) / 0x10_0000_0000 % 8, Nat.mod_lt _ (by decide)⟩

/-- The line of a key: its first address. -/
def lineOf (key : Nat) : Nat := key - key % 128

/-- The pseudo-channel of a stack offset (R274). -/
def Stack.pcOf (k : Stack) (o : Nat) : Nat :=
  let l := onesOf k.enabled
  l.getD (o / 128 % l.length) 0

/-- Whether the line that holds an HBM key is marked uncorrectable (R275). -/
def State.marked (s : State) (key : Nat) : Bool :=
  isHbm key && (s.stack (stackOf key)).marked.contains (lineOf key)

/-- The first marked line that a read of `n` bytes meets (R276). -/
def State.readUe (s : State) (key n : Nat) : Option Nat :=
  if isHbm key then
    ((s.stack (stackOf key)).marked.filter fun l => l < key + n && key < l + 128).min?
  else none

/-- The first marked line that a write of `n` bytes covers only in part (R276). -/
def State.writeUe (s : State) (key n : Nat) : Option Nat :=
  if isHbm key then
    ((s.stack (stackOf key)).marked.filter fun l =>
      (l < key + n && key < l + 128) && !(key ≤ l && l + 128 ≤ key + n)).min?
  else none

/-- Write bytes at a key; a marked HBM line written whole loses its mark (R276). -/
def State.wr (s : State) (key : Nat) (bs : List Byte) : State :=
  let s := { s with mem := Memory.writeBytes 0 s.mem key bs }
  if isHbm key && !(s.stack (stackOf key)).marked.isEmpty then
    s.modStack (stackOf key) fun k =>
      { k with marked := k.marked.filter fun l => !(key ≤ l && l + 128 ≤ key + bs.length) }
  else s

/-- Bytes of tile `t`'s store at a local address. -/
def State.tsRd (s : State) (t : TileId) (a n : Nat) : List Byte := s.rd (poolBase t + a) n

/-- Write bytes of tile `t`'s store. -/
def State.tsWr (s : State) (t : TileId) (a : Nat) (bs : List Byte) : State := s.wr (poolBase t + a) bs

/-- Whether `[a, a + n)` lies in the 6 MiB tile store. -/
def inStore (a n : Nat) : Bool := decide (a + n ≤ storeSize)

/-! ### Reports and events -/

/-- This chip's address: from the configuration block, and before it is read from RTR_SELF. -/
def State.chipAddr (s : State) : ChipAddr := match s.boot.cfg with | some c => c.chip | none => s.routers[0].self

/-- A frame's envelope and payload (R594). -/
def LomFrame.bytes (f : LomFrame) (chip : ChipAddr) : List Byte :=
  [1, f.ty] ++ leBytes 2 f.payload.length ++ leBytes 4 chip.toNat ++ leBytes 4 f.seq.toNat ++
    leBytes 4 f.refseq.toNat ++ leBytes 8 f.gtc.toNat ++ f.payload

/-- With both Lomtirel links down a frame goes to the RELAY chip in management-class packets (R593, R509). -/
def State.relayOut (s : State) (f : LomFrame) : State :=
  match s.boot.cfg with
  | none => s
  | some c =>
    if s.lom.up[0] || s.lom.up[1] || s.boot.inReset then s
    else
      let b := f.bytes c.chip
      let b := b ++ List.replicate ((16 - b.length % 16) % 16) 0
      let pkt (p : List Byte) : Packet := {
        dst := c.relay.setWidth 32, src := s.routers[0].self.setWidth 32, ctl := 3
        ept := s.routers[0].epoch.setWidth 8, tag := BitVec.ofNat 32 (f.ty.toNat * 2 ^ 24 + f.seq.toNat % 2 ^ 24)
        masks := [], payload := p }
      s.modRouter .west fun r => { r with netQ := r.netQ ++ (chunks (cdiv b.length 1024) 1024 b).map pkt }

/-- Send a Lomtirel frame (R593, R594). -/
def State.sendLom (s : State) (ty : BitVec 8) (refseq : BitVec 32) (payload : List Byte) : State :=
  let f : LomFrame := ⟨ty, s.lom.seq, refseq, s.gtc.count, payload⟩
  { s with lom := { s.lom with
      sent := f :: s.lom.sent
      seq := s.lom.seq + 1
      tx := s.lom.tx + 1 } }.relayOut f

/-- The UKIND code of R530. -/
def ukindCode : UnitKind → Nat
  | .chip => 0
  | .tile => 1
  | .column => 2
  | .engine => 3
  | .lane => 4
  | .pseudoChannel => 5
  | .collEngine => 6
  | .port => 7

/-- The payload of an error-report frame (R530). -/
def State.reportBytes (s : State) (e : Event) (cls act : Nat) : List Byte :=
  leBytes 2 e.code.toNat ++ leBytes 1 cls ++ leBytes 1 act ++ leBytes 4 s.chipAddr.toNat ++
    leBytes 1 (ukindCode e.ukind) ++ leBytes 1 0 ++ leBytes 2 e.uindex.toNat ++ leBytes 4 e.seq.toNat ++
    leBytes 8 s.gtc.count.toNat ++ leBytes 8 s.job.step.toNat ++
    leBytes 8 (match s.job.image with | some im => im.topo.jobId.toNat | none => 0) ++
    leBytes 8 e.d0.toNat ++ leBytes 8 e.d1.toNat ++ leBytes 8 s.boot.ptime.toNat

/-- Send an error report for an event with a class and an action (R530). -/
def State.sendReport (s : State) (e : Event) (cls act : Nat) : State :=
  let s := s.sendLom 0x01 0 (s.reportBytes e cls act)
  { s with integ := { s.integ with evreps := s.integ.evreps + 1 } }

/-- Report a new event, unclassified, under the next event sequence number (R530). -/
def State.report (s : State) (code : BitVec 16) (ukind : UnitKind) (uindex : Nat) (d0 d1 : Word) :
    State × Event :=
  let e : Event := ⟨code, ukind, BitVec.ofNat 16 uindex, s.integ.evSeq, d0, d1⟩
  let s := { s with integ := { s.integ with evSeq := s.integ.evSeq + 1 } }
  (s.sendReport e 0 0, e)

/-- Whether fixed-frequency mode is in force (R441). -/
def State.fixedFreq (s : State) : Bool := match s.job.image with | some im => im.fixed | none => false

/-- A thaw-counter event of cause `n` (R442, R444). -/
def State.thawEvent (s : State) (n : Fin 11) : State :=
  if s.fixedFreq then
    { s with gtc := { s.gtc with
        thaw := s.gtc.thaw + 1
        thawFirst := if s.gtc.thaw == 0 then BitVec.ofNat 64 s.slot else s.gtc.thawFirst
        thawN := s.gtc.thawN.set n (s.gtc.thawN[n] + 1) } }
  else s

/-- A line found uncorrectable (R275): marked, counted and reported once. -/
def State.markUe (s : State) (key : Nat) : State :=
  if s.marked key then s
  else
    let k := stackOf key
    let o := lineOf key - hbmBase k
    let pc := (s.stack k).pcOf o
    let s := s.modStack k fun x =>
      { x with marked := x.marked ++ [lineOf key], ue := x.ue + 1, uePcs := x.uePcs ++ [pc] }
    let r := s.report 0x0002 .pseudoChannel (k * 64 + pc) (BitVec.ofNat 64 (lineOf key))
      (BitVec.ofNat 64 (k * 256 + pc))
    { r.1 with integ := { r.1.integ with waiting := r.1.integ.waiting ++ [r.2] } }

/-- A cause that ends the job (R504): the first stands. -/
def State.endJob (s : State) (status : Nat) (detail : Word) : State :=
  if s.job.image.isSome && s.job.pending.isNone then
    { s with job := { s.job with pending := some ⟨status, detail⟩ } }
  else s

/-- The cause TILE_FAULT of a tile (R259, R504). -/
def State.tileFault (s : State) (t : TileId) (funit : Nat) : State :=
  s.endJob 2 (BitVec.ofNat 64 (t.val + funit * 256))

/-- A fresh number for a free value. -/
def State.takeFree (s : State) : Nat × State := (s.free, { s with free := s.free + 1 })

/-- `n` unspecified bytes written at a key. -/
def State.wrFree (s : State) (key n : Nat) : State :=
  let r := s.takeFree
  r.2.wr key (tab n fun i => Config.freeByte r.1 i)

/-! ### Lock-step digests (R450) -/

/-- The unit code of a tile's digested unit (R450). -/
def TileUnit.ix : TileUnit → Fin 6
  | .seq => 0
  | .mat => 1
  | .epi => 2
  | .vec => 3
  | .rime => 4
  | .dma => 5

/-- A byte inserted by its address behind those of the same address. -/
def insertKey (p : Nat × Byte) : List (Nat × Byte) → List (Nat × Byte)
  | [] => [p]
  | q :: l => if p.1 < q.1 then p :: q :: l else q :: insertKey p l

/-- The bytes of ranges that an operation wrote, in address order. -/
def inOrder (l : List (Nat × List Byte)) : List Byte :=
  let b := l.flatMap fun p => (p.2.zip (List.range p.2.length)).map fun q => (p.1 + q.2, q.1)
  (b.foldl (fun a p => insertKey p a) []).map Prod.snd

/-- A change of the digest of a tile's unit while lock-step is active. -/
def State.modDigest (s : State) (t : TileId) (u : TileUnit) (f : Digest → Digest) : State :=
  if s.gtc.lsEn then s.modTile t fun x => { x with digests := x.digests.set u.ix (f x.digests[u.ix]) } else s

/-- Record a committed operation of a tile's unit. -/
def State.digestOp (s : State) (t : TileId) (u : TileUnit) (bytes : List Byte) : State :=
  s.modDigest t u fun g => g.put none bytes

end Sys2Proof.Machine
end

