-- ==== Sys2Proof/Machine/Registers.lean ====
section
/-!
DEFINITION. The register blocks: what a read of each returns and what a write does (R10 to R12,
R625, and the register tables of every chapter).
-/
namespace Sys2Proof.Machine

/-- A register as a block lays it out: its offset, its bytes, its value. -/
structure RegVal where
  off   : Nat
  bytes : Nat
  val   : Nat
  deriving DecidableEq, Repr

/-- A truth value in bit `i` of a register. -/
def flagBit (i : Nat) (b : Bool) : Nat := if b then 2 ^ i else 0

/-- A 32-bit register. -/
def reg32 (off val : Nat) : RegVal := ⟨off, 4, val⟩

/-- A 64-bit register. -/
def reg64 (off : Nat) (w : Word) : RegVal := ⟨off, 8, w.toNat⟩

/-- The byte at an offset of a block; an undefined offset reads 0 (R12). -/
def regByte (l : List RegVal) (o : Nat) : Byte :=
  match l.find? fun r => r.off ≤ o && o < r.off + r.bytes with
  | some r => BitVec.ofNat 8 (r.val >>> (8 * (o - r.off)))
  | none => 0

/-- `n` bytes of a block from an offset (R625). -/
def regBytes (l : List RegVal) (o n : Nat) : List Byte := tab n fun i => regByte l (o + i)

/-- The part of an `n`-byte write of `v` at `o` that falls on the register of `k` bytes at `r`,
shifted to that register's bit 0; bytes the write does not address count 0 (R625). -/
def laneVal (r k o n v : Nat) : Nat :=
  leNat (tab k fun i => if o ≤ r + i ∧ r + i < o + n then BitVec.ofNat 8 (v >>> (8 * (r + i - o))) else 0)

/-- The mask of the bits of the register at `r` that an `n`-byte write at `o` addresses. -/
def laneMask (r k o n : Nat) : Nat := laneVal r k o n (2 ^ (8 * n) - 1)

/-- A write of ones to the W1C bits of a register at `r` (R10). -/
def w1c {m : Nat} (reg : BitVec m) (lo r o n v : Nat) : BitVec m :=
  clearBits reg (BitVec.ofNat m (laneVal r 4 o n v >>> lo))

/-- A write to an RW field of `len` bits at bit `lo` of the register at `r`, of `k` bytes. -/
def rwField {m : Nat} (old : BitVec m) (lo r k o n v : Nat) : BitVec m :=
  let mask := BitVec.ofNat m (laneMask r k o n >>> lo)
  (old &&& ~~~ mask) ||| (BitVec.ofNat m (laneVal r k o n v >>> lo) &&& mask)

/-- A W1C flag of a register at `r`, bit `i`. -/
def w1cFlag (b : Bool) (i r o n v : Nat) : Bool := b && !(laneVal r 4 o n v).testBit i

/-! ### Tile blocks -/

/-- Whether any pass has rows in the array or sums to come (R104). -/
def Tile.mmBusy (x : Tile) : Bool :=
  x.matQ.any fun o => match o with | .pass p => p.started && !p.arrived | .epi _ => false

/-- Whether any epilogue has rows not yet written (R130): one that waits has all of them. -/
def Tile.epiBusy (x : Tile) : Bool :=
  x.matQ.any fun o => match o with | .pass _ => false | .epi _ => true

/-- A binding as RIME_BIND reports it (R161). -/
def RimeBind.byte (b : RimeBind) : Nat := b.slotA.val + flagBit 3 b.aEn + b.slotB.val * 16 + flagBit 7 b.bEn

/-- The binding in force for the next pass issued (R134, R161): the last one that waits in the queue, or the one in
force. -/
def Rime.bindNext (x : Rime) : RimeBind :=
  (x.queue.filterMap fun o => match o.ins with | .bind b => some b | _ => none).getLast?.getD x.bind

/-- Whether a drain of slot `k` is pending: from the issue of its RDRAIN until it is complete (R152). -/
def Rime.draining (x : Rime) (k : Fin 4) : Bool :=
  x.slots[k].drain.isSome || x.queue.any fun o => match o.ins with
    | .drain j _ => j == k
    | _ => false

/-- Whether the rime unit is busy (R160). -/
def Tile.rimeBusy (x : Tile) : Bool :=
  x.rime.gramQ.any (fun g => g.tag.isNone) || x.rime.late.any (fun r => r.tag.isNone) ||
    [0, 1, 2, 3].any fun k => x.rime.draining k

/-- Whether any vector work is unfinished (R231). -/
def Tile.vecBusy (x : Tile) : Bool := x.vec.queue.any fun o => !o.done

/-- Whether the rime slot's current epoch holds an infinite or NaN entry (R162): the entries belong
to the ended epoch until its drain has read them. -/
def Slot.nonfin (l : Slot) : Bool :=
  (match l.drain with | some d => d.record.isSome | none => true) &&
    l.entries.any fun e => !(fA48.decode e.toNat).isFin

/-- The epoch a slot reports: its committed state (R162), which a squash would return to. -/
def Slot.committed (l : Slot) : Epoch := match l.undo with | u :: _ => u.ep | [] => l.ep

/-- SEQ_STAT (R267). -/
def Seq.statReg (q : Seq) : Nat :=
  q.stat.toNat + flagBit 16 q.run + q.branches.length % 4 * 2 ^ 17 + q.funit.toNat * 2 ^ 20 +
    q.phaseCom.toNat * 2 ^ 24

/-- The registers of a tile's block (R67, R103 to R106, R130, R131, R160 to R163, R231 to R233,
R267 to R269, R297 to R299, R339). -/
def tileRegs (x : Tile) : List RegVal :=
  [reg32 0x40 x.fpstat.toNat,
   reg32 0x80 (x.width.toNat + x.badCount.toNat * 2 ^ 16),
   reg32 0x84 (x.mmstat.toNat + flagBit 16 x.mmBusy)] ++
  tab 9 (fun n => reg32 (0x90 + 4 * n) (bits x.bad (32 * n) 32)) ++
  [reg64 0xC0 x.mmrows, reg64 0xC8 x.mmstall,
   reg32 0x100 (x.epistat.toNat + flagBit 16 x.epiBusy), reg64 0x108 x.epirows,
   reg32 0x140 (x.rime.stat.toNat + flagBit 16 x.rimeBusy),
   reg32 0x144 x.rime.bindNext.byte] ++
  ([0, 1, 2, 3] : List (Fin 4)).map (fun k =>
    let l := x.rime.slots[k]
    reg32 (0x150 + 4 * k.val) (flagBit 0 l.committed.zeroed + flagBit 1 l.committed.full + flagBit 2 l.nonfin +
      flagBit 16 l.opened + flagBit 17 (l.committed.no.toNat % 2 == 1) + flagBit 18 (x.rime.draining k))) ++
  (x.rime.slots.toList.zip (List.range 4)).map (fun p => reg64 (0x160 + 8 * p.2) p.1.committed.n) ++
  [reg64 0x180 x.rime.rows, reg64 0x188 x.rime.drains,
   reg32 0x1C0 (x.vec.stat.toNat + flagBit 16 x.vecBusy),
   reg32 0x1C4 (x.vec.chainQ.length % 16 + x.vec.fiter.toNat * 16),
   reg64 0x1C8 x.vec.vops, reg64 0x1D0 x.vec.chstall,
   reg32 0x200 x.seq.statReg, reg64 0x208 x.seq.faultPc, reg64 0x210 x.seq.pcCom,
   reg64 0x220 x.seq.nInstr, reg64 0x228 x.seq.nPred, reg64 0x230 x.seq.nSquash,
   reg64 0x238 x.seq.nLate, reg64 0x240 x.seq.nWstall,
   reg32 0x280 (x.dma.stat.toNat + flagBit 16 (!x.dma.queue.isEmpty)),
   reg32 0x284 x.dma.faultIdx.toNat, reg64 0x288 x.dma.faultAddr,
   reg64 0x290 x.dma.ops, reg64 0x298 x.dma.bytes,
   reg64 0x300 x.seq.phGtc, reg64 0x308 x.seq.phRecs, reg64 0x310 x.seq.phBase,
   reg32 0x318 x.seq.phLen.toNat]

/-- A write to a tile's block: only its W1C flags take it. -/
def tileRegWrite (x : Tile) (o n v : Nat) : Tile :=
  { x with
    fpstat := w1c x.fpstat 0 0x40 o n v
    mmstat := w1c x.mmstat 0 0x84 o n v
    epistat := w1c x.epistat 0 0x100 o n v
    rime := { x.rime with stat := w1c x.rime.stat 0 0x140 o n v }
    vec := { x.vec with stat := w1c x.vec.stat 0 0x1C0 o n v }
    seq := { x.seq with stat := w1c x.seq.stat 0 0x200 o n v }
    dma := { x.dma with stat := w1c x.dma.stat 0 0x280 o n v } }

/-! ### Cluster blocks -/

/-- The logical engines that run a command (R198). -/
def Cluster.busy (c : Cluster) : BitVec 4 := c.running.foldl (fun b r => b ||| r.d.engmask) 0

/-- The registers of a cluster's block (R198, R199). -/
def clusterRegs (c : Cluster) : List RegVal :=
  [reg32 0 (c.busy.toNat + flagBit 4 c.spare + c.engFault.toNat * 256),
   reg64 8 c.cmds, reg64 0x10 c.partialN, reg64 0x18 c.abandon, reg64 0x20 c.restart,
   reg64 0x28 c.guard]

/-- A write to a cluster's block: ENG_FAULT is W1C (R198). -/
def clusterRegWrite (c : Cluster) (o n v : Nat) : Cluster :=
  { c with engFault := w1c c.engFault 8 0 o n v }

/-! ### The CP block -/

/-- GTC_STAT (R453). -/
def Gtc.statReg (g : Gtc) : Nat :=
  g.offset.toNat + g.depth.toNat * 2 ^ 15 + g.parent.toNat * 2 ^ 21 + flagBit 26 g.locked +
    flagBit 27 g.holdover + flagBit 28 g.master

/-- CP_ADMSTAT (R476). -/
def Job.admReg (j : Job) : Nat := j.admState.toNat + j.reason.toNat * 2 ^ 16

/-- CP_INTSTAT (R532). -/
def State.intReg (s : State) : Nat :=
  s.integ.state.toNat +
    flagBit 2 (match s.job.image with | some im => im.integ.isSome | none => false) +
    s.integ.lastv.toNat * 2 ^ 16

/-- Whether the thermal cap limits the operating point. -/
def Power.throt (p : Power) : Bool := decide (p.thermCap.toNat < 7) && p.op == p.thermCap

/-- SMC_PWRSTAT (R576). -/
def State.pwrReg (s : State) : Nat :=
  let p := s.power
  p.op.toNat + p.target.toNat * 16 + flagBit 8 s.fixedFreq +
    flagBit 9 (decide (p.powerCap.toNat < 7) && p.op == p.powerCap) + flagBit 10 p.dipUntil.isSome +
    flagBit 11 p.throt + flagBit 12 p.thmax + flagBit 16 p.wireA + flagBit 17 p.wireB +
    flagBit 18 p.brake + flagBit 19 p.wiring

/-- The code of a boot state (R604). -/
def BootState.code : BootState → Nat
  | .rom => 0
  | .booting => 1
  | .ready => 2
  | .bootFail => 3
  | .recovery => 4

/-- SMC_BOOTSTAT (R604). -/
def Boot.statReg (b : Boot) : Nat :=
  b.state.code + b.step.toNat * 256 + flagBit 19 b.copyB + flagBit 20 b.jlost +
    b.rstcause.toNat * 2 ^ 21 + b.attempt.toNat * 2 ^ 24

/-- IMAGE_ID and SEED of the admitted image, 0 when none (R477). -/
def State.imageIds (s : State) : Word × Word :=
  match s.job.image with | some im => (im.id, im.seed) | none => (0, 0)

/-- Four counters a block lays out eight bytes apart. -/
def regs64 (off : Nat) (l : List Word) : List RegVal :=
  (l.zip (List.range l.length)).map fun p => reg64 (off + 8 * p.2) p.1

/-- The registers of the CP block (R300, R340, R453, R454, R476, R477, R511, R532 to R534, R553,
R554, R576 to R579, R604, R605). -/
def cpRegs (s : State) : List RegVal :=
  let st := s.hbm.toList
  let g := s.gtc
  let p := s.power
  let b := s.boot
  regs64 0x100 (st.map (·.cap)) ++ regs64 0x140 (st.map (·.pcmap)) ++ regs64 0x180 (st.map (·.ce)) ++
  regs64 0x1C0 (st.map (·.ue)) ++
  regs64 0x400 s.cp.phTot.toList ++ regs64 0x600 s.cp.phCnt.toList ++ regs64 0x800 s.cp.phMax.toList ++
  [reg64 0xA00 s.cp.mlate, reg64 0xA08 s.cp.mdigest,
   reg64 0xC00 g.count, reg32 0xC08 g.statReg, reg64 0xC10 g.launch, reg32 0xC18 g.slen.toNat,
   reg64 0xC20 g.thaw, reg64 0xC28 g.thawFirst] ++
  regs64 0xC40 g.thawN.toList ++
  [reg32 0xCC0 (g.lsPort.toNat + flagBit 5 g.lsEn + flagBit 6 g.lsHalt),
   reg32 0xCC8 (g.lsTile.toNat * 256 + g.lsUnit.toNat * 2 ^ 16 + flagBit 30 g.lsSkew +
     flagBit 31 g.lsValid),
   reg64 0xCD0 g.lsSlot, reg32 0xCD8 g.lsCount.toNat,
   reg32 0xD00 s.job.admReg, reg64 0xD08 s.imageIds.1, reg64 0xD10 s.imageIds.2] ++
  regs64 0xD18 [s.job.admits, s.job.rejects] ++
  regs64 0xE00 [s.ouvzu.nCmds, s.ouvzu.nSuper, s.ouvzu.nCancel, s.ouvzu.nDberr, s.ouvzu.nUndeliv,
    s.ouvzu.nCqhold, s.ouvzu.nMsgdrop] ++
  [reg32 0xF00 s.intReg, reg32 0xF04 s.integ.spares.toNat, reg32 0xF08 s.integ.inttest.toNat,
   reg64 0xF10 s.integ.probstart, reg64 0xF18 s.integ.wdcmp, reg64 0xF20 s.integ.wdmism,
   reg64 0xF28 s.integ.struns, reg64 0xF30 s.integ.stfail, reg64 0xF38 s.integ.evreps,
   reg32 0x1000 (s.ckpt.state.toNat + flagBit 8 s.ckpt.reslice + flagBit 9 s.ckpt.badcopy),
   reg64 0x1008 s.ckpt.step, reg32 0x1010 s.ckpt.slotOff.toNat, reg64 0x1018 s.ckpt.bytes,
   reg64 0x1020 s.ckpt.badN,
   reg32 0x1100 s.pwrReg, reg32 0x1104 (p.tdisc.toNat + p.plimit.toNat * 2 ^ 16),
   reg32 0x1108 (p.sensor.toNat + p.tj.toNat * 256 + p.peak.toNat * 2 ^ 16),
   reg32 0x110C (p.coreOfs.toNat + p.seracOfs.toNat * 256 + p.op6ceil.toNat * 2 ^ 16 +
     p.op7ceil.toNat * 2 ^ 20 + flagBit 24 p.margin),
   reg32 0x1110 p.avg.toNat] ++
  regs64 0x1140 p.stretch.toList ++
  regs64 0x1170 [p.dips, p.brakes, p.opdown, p.wirings, p.throtms] ++
  [reg32 0x1200 b.statReg, reg32 0x1204 b.bootno.toNat, reg64 0x1210 b.idlot,
   reg32 0x1218 b.iddie.toNat, ⟨0x1220, 8, b.idserial.toNat⟩, reg64 0x1228 b.ptime,
   reg64 0x1240 s.lom.tx, reg64 0x1248 s.lom.rx, reg64 0x1250 s.lom.deny]

/-- A write to the CP block by the CP or the SMC: GTC_LSCTRL is RW and BADCOPY is W1C. -/
def cpRegWrite (s : State) (o n v : Nat) : State :=
  { s with
    gtc := { s.gtc with
      lsPort := rwField s.gtc.lsPort 0 0xCC0 4 o n v
      lsEn := (rwField (BitVec.ofBool s.gtc.lsEn) 5 0xCC0 4 o n v).toNat.testBit 0
      lsHalt := (rwField (BitVec.ofBool s.gtc.lsHalt) 6 0xCC0 4 o n v).toNat.testBit 0 }
    ckpt := { s.ckpt with badcopy := w1cFlag s.ckpt.badcopy 9 0x1000 o n v } }

/-! ### LINK_ and RTR_ blocks -/

/-- The state code of a port (R354). -/
def LinkState.code : LinkState → Nat
  | .disabled => 0
  | .detect => 1
  | .poll => 2
  | .equalize => 3
  | .align => 4
  | .config => 5
  | .active => 6
  | .swap => 7
  | .retrain => 8
  | .lost => 9

/-- The registers of a port's block (R370 to R373). -/
def linkRegs (p : LPort) : List RegVal :=
  [reg32 0 (flagBit 0 p.trainErr + flagBit 1 p.swapBit + flagBit 2 p.lossBit + p.state.code * 256 +
     p.width.toNat * 2 ^ 16 + flagBit 20 p.half + flagBit 21 p.initiator + flagBit 22 p.degraded +
     flagBit 23 p.held + p.lossRsn.toNat * 2 ^ 28),
   reg32 4 p.laneMap.toNat,
   reg32 8 (flagBit 1 p.disable + p.maxw.toNat * 4 + flagBit 6 p.halfRate),
   ⟨0x10, 8, match p.partner with
     | some q => q.1.toNat + q.2.toNat * 2 ^ 27 + 2 ^ 32
     | none => 0⟩,
   reg64 0x20 p.fecCorr, reg64 0x28 p.fecUnc, reg64 0x30 p.replays, reg64 0x38 p.swaps,
   reg64 0x40 p.wdrops, reg64 0x48 p.losses]

/-- A write to a port's block (R370, R371); the write of RETRAIN is remembered for LINK_RETRAIN. -/
def linkRegWrite (p : LPort) (o n v : Nat) : LPort :=
  { p with
    trainErr := w1cFlag p.trainErr 0 0 o n v
    swapBit := w1cFlag p.swapBit 1 0 o n v
    lossBit := w1cFlag p.lossBit 2 0 o n v
    degraded := w1cFlag p.degraded 22 0 o n v
    retrainRq := p.retrainRq || (laneVal 8 4 o n v).testBit 0
    disable := (rwField (BitVec.ofBool p.disable) 1 8 4 o n v).toNat.testBit 0
    maxw := rwField p.maxw 2 8 4 o n v
    halfRate := (rwField (BitVec.ofBool p.halfRate) 6 8 4 o n v).toNat.testBit 0 }

/-- The code of a spare's state (R374). -/
def SpareState.code : SpareState → Nat
  | .standby => 0
  | .inUse => 1
  | .retired => 2
  | .testing => 3

/-- LINK_SPAREMAP of a group (R374). -/
def groupRegs (g : Vector Spare 4) : List RegVal :=
  [reg32 0 ((g.toList.zip (List.range 4)).foldl
    (fun a p => a + (p.1.home.toNat + p.1.state.code * 8) * 2 ^ (8 * p.2)) 0)]

/-- The registers of a router's block (R399 to R401, R426, R427); `busy` is CSTAT's BUSY. -/
def routerRegs (r : Router) (busy : Bool) : List RegVal :=
  [reg32 0 r.self.toNat, ⟨8, 8, r.topo.toNat⟩, reg32 0x10 r.epoch.toNat, reg32 0x14 r.porten.toNat,
   ⟨0x18, 8, r.hpeerReg.toNat⟩,
   reg32 0x20 r.thr.toNat, reg32 0x24 r.mgmtBud.toNat,
   reg32 0x28 (flagBit 0 r.lockwr + flagBit 1 r.epochErr + flagBit 2 r.routeErr +
     flagBit 3 r.mcastErr + flagBit 16 r.lock + flagBit 17 r.throttling),
   reg64 0x40 r.throttles, reg64 0x48 r.contend, reg64 0x50 r.drops, reg64 0x58 r.pkts,
   reg32 0x60 (r.cstat.toNat + flagBit 16 busy), reg64 0x68 r.csegs, reg64 0x70 r.cretx,
   reg64 0x78 r.cchkf, reg64 0x80 r.cdataf, reg64 0x88 r.clate]

/-- Whether an `n`-byte access at `o` touches the table registers (R399): RTR_SELF, RTR_TOPO, RTR_EPOCH, RTR_PORTEN,
RTR_HPEER, RTR_UNSCHED and RTR_MGMT. Offsets 0x04 to 0x07 are none of them (R12). -/
def inTables (o n : Nat) : Bool :=
  ([(0, 4), (8, 0x20)] : List (Nat × Nat)).any fun r => decide (o < r.1 + r.2 ∧ r.1 < o + n)

/-- The table registers with a write applied (R399). -/
def tableWrite (r : Router) (o n v : Nat) : Router :=
  { r with
    self := rwField r.self 0 0 4 o n v
    topo := rwField r.topo 0 8 8 o n v
    epoch := rwField r.epoch 0 0x10 4 o n v
    porten := rwField r.porten 0 0x14 4 o n v
    hpeerReg := rwField r.hpeerReg 0 0x18 8 o n v
    thr := rwField r.thr 0 0x20 4 o n v
    mgmtBud := rwField r.mgmtBud 0 0x24 4 o n v }

/-- A write to a router's block: a table write under LOCK is ignored and sets LOCKWR (R397); LOCK is
written by the CP alone (R400). -/
def routerRegWrite (r : Router) (byCp : Bool) (o n v : Nat) : Router :=
  let r := if inTables o n then
      if r.lock then { r with lockwr := true } else tableWrite r o n v
    else r
  let touched := inTables o n && r.lock
  { r with
    lockwr := if touched then true else w1cFlag r.lockwr 0 0x28 o n v
    epochErr := w1cFlag r.epochErr 1 0x28 o n v
    routeErr := w1cFlag r.routeErr 2 0x28 o n v
    mcastErr := w1cFlag r.mcastErr 3 0x28 o n v
    lock := if byCp then (rwField (BitVec.ofBool r.lock) 16 0x28 4 o n v).toNat.testBit 0 else r.lock
    cstat := w1c r.cstat 0 0x60 o n v }

/-- Whether an instance on a die's engine has started and not ended (R426). -/
def State.collBusy (s : State) (d : Die) : Bool :=
  s.job.colls.any fun c => c.started && c.ended.isNone && c.die == d

/-! ### A PCIe function (R478 to R483, R592) -/

/-- The contract level of this part (R1, R481, R490, R592). -/
def contractLevel : Nat := 0x302

/-- The stepping of this part (R457, R592). -/
def stepping : Nat := 0xB1

/-- MSI-X vectors of a function (R478). -/
def msixVectors : Nat := 2048

/-- BAR0's registers but for the mirror (R480, R481); GO and the doorbells read 0. -/
def PciFn.bar0Regs (f : PciFn) : List RegVal :=
  [reg32 0 contractLevel, reg32 8 (flagBit 0 f.en),
   reg32 0xC (flagBit 0 f.rdy + flagBit 1 f.disabled + flagBit 2 f.fatal + flagBit 3 f.mbbusy),
   reg64 0x10 f.aqsq, reg64 0x18 f.aqcq, reg32 0x20 f.aqsize.toNat,
   ⟨0x100, 64, leNat f.mboxCmd⟩, ⟨0x140, 32, leNat f.mboxCpl⟩] ++
  (f.msix.zip (List.range f.msix.length)).flatMap (fun e =>
    [reg64 (0x8000 + 16 * e.2) e.1.addr, reg32 (0x8008 + 16 * e.2) e.1.data.toNat,
     reg32 (0x800C + 16 * e.2) e.1.ctrl.toNat]) ++
  [⟨0x1_0000, 256, f.pba.toNat⟩]

/-- The subsystem vendor and device IDs of the configuration block (R586, R592). -/
def Boot.subsystem (b : Boot) : Nat × Nat :=
  match b.cfg with
  | some c => (c.subVendor.toNat, c.subDevice.toNat)
  | none => (0, 0)

/-- The configuration space (R478, R479, R592): the Type 0 header, power management, MSI-X, PCI Express, Advanced Error
Reporting and ATS with an invalidation queue of depth 32. PRESUMED from PCI Express; where the capabilities lie is a
DESIGN CHOICE (log 163). -/
def PciFn.cfgRegs (f : PciFn) (sub : Nat × Nat) : List RegVal :=
  [⟨0, 2, 0x1F3C⟩, ⟨2, 2, 0x4160⟩, ⟨4, 2, f.cfg.command.toNat⟩, ⟨6, 2, 0x10⟩, ⟨8, 1, stepping⟩, ⟨9, 3, 0x12_0000⟩,
   ⟨0x10, 8, f.cfg.bar0.toNat + 4⟩, ⟨0x18, 8, f.cfg.bar2.toNat + 0xC⟩, ⟨0x2C, 2, sub.1⟩, ⟨0x2E, 2, sub.2⟩,
   ⟨0x34, 1, 0x40⟩,
   ⟨0x40, 2, 0x5001⟩, ⟨0x42, 2, 3⟩, ⟨0x44, 2, f.cfg.power.toNat⟩,
   ⟨0x50, 2, 0x7011⟩, ⟨0x52, 2, msixVectors - 1⟩, reg32 0x54 0x8000, reg32 0x58 0x1_0000,
   ⟨0x70, 2, 0x0010⟩, ⟨0x72, 2, 2⟩, reg32 0x74 0x1000_8002, ⟨0x78, 2, f.cfg.devctl.toNat⟩, reg32 0x7C 0x106,
   reg32 0x100 0x1502_0001, reg32 0x150 0x0001_000F, ⟨0x156, 2, flagBit 15 f.cfg.ats⟩]

/-- A host's read of `n` bytes of its port's BAR0 or configuration space (R480, R501); it changes nothing. -/
def State.hostRead (s : State) (p : PciePort) (config : Bool) (o n : Nat) : List Byte :=
  if config then regBytes ((s.fn p).cfgRegs s.boot.subsystem) o n
  else if 0x80_0000 ≤ o ∧ o < 0x81_0000 then regBytes (cpRegs s) (o - 0x80_0000) n
  else regBytes (s.fn p).bar0Regs o n

/-- Whether a function may send requests for moraine and DMA traffic (R506): it is enabled, its Bus Master Enable is
set, and it is in D0. -/
def PciFn.masters (f : PciFn) : Bool := !f.disabled && f.cfg.command.getLsbD 2 && f.cfg.power == 0

/-! ### Reads by address -/

/-- `n` bytes of whatever block a located register lies in. -/
def State.regRd (s : State) (t : Target) (n : Nat) : List Byte :=
  match t with
  | .tileReg k o => regBytes (tileRegs (s.tile k)) o n
  | .clusterReg c o => regBytes (clusterRegs (s.cluster c)) o n
  | .cpReg o => regBytes (cpRegs s) o n
  | _ => List.replicate n 0

/-- A scalar write to a register block a sequencer may write (R270). -/
def State.regWr (s : State) (t : Target) (n v : Nat) : State :=
  match t with
  | .tileReg k o => s.modTile k fun x => tileRegWrite x o n v
  | .clusterReg c o => s.modCluster c fun x => clusterRegWrite x o n v
  | _ => s

end Sys2Proof.Machine
end

