-- ==== Sys2Proof/Machine/Hbm.lean ====
section
/-!
DEFINITION. HBM refresh, patrol scrubbing and pseudo-channel retirement (R275, R277 to R279).
-/
namespace Sys2Proof.Machine

/-- Whether a repair is in the journal. -/
def State.journalled (s : State) (r : Repair) : Bool := s.integ.repairs.contains r

/-- Record a repair in the repair journal, once. -/
def State.recordRepair (s : State) (r : Repair) : State :=
  if s.journalled r then s
  else { s with integ := { s.integ with repairs := s.integ.repairs ++ [r] } }

/-- Pseudo-channels of a stack that the repair journal retires. -/
def State.retiredPcs (s : State) (k : Nat) : List Nat :=
  s.integ.repairs.filterMap fun r => match r with
    | .pseudo j pc => if j = k then some pc else none
    | _ => none

/-- Record a pseudo-channel for retirement; a third one of a stack marks the stack failed (R278,
R279). -/
def State.retirePc (s : State) (k pc : Nat) : State :=
  if s.journalled (.pseudo k pc) then s
  else if 2 ≤ (s.retiredPcs k).length then s.recordRepair (.stackFail k)
  else s.recordRepair (.pseudo k pc)

/-- 24 hours in GTC counts. -/
def dayCounts : Nat := 86400000000000

/-- Corrected errors that a stack logged on a pseudo-channel within the last 24 hours (R278). -/
def Stack.recentCe (k : Stack) (now : Word) (pc : Nat) : Nat :=
  (k.ceLog.filter fun e => e.2 == pc && decide (now.toNat < e.1.toNat + dayCounts)).length

/-- An HBM refresh interval (R277): it changes no data; in fixed-frequency mode a scheduled access it
delayed is a thaw-counter event of cause REFRESH. -/
def execHbmRefresh (_s : StackId) (delayed : Bool) (s : State) : Res :=
  .next (if delayed then s.thawEvent 2 else s)

/-- A patrol-scrub read of the line that holds stack offset 128 · `line` (R275, R277, R278): a
corrected error is written back, logged and counted, and 256 of them on one pseudo-channel within 24
hours retire it; an uncorrectable one marks the line, and a second one retires its pseudo-channel. -/
def execPatrolScrub (k : StackId) (line : Nat) (finding : ScrubFinding) (s : State) : Res :=
  let o := 128 * line
  if (s.stack k).capacity ≤ o then .next s
  else
    let a := hbmBase k + o
    let pc := (s.stack k).pcOf o
    match finding with
    | .clean => .next s
    | .corrected =>
      let s := s.modStack k fun x => { x with
        ce := x.ce + 1
        ceLog := (s.gtc.count, pc) :: x.ceLog
        errLog := a :: x.errLog }
      .next (if 256 ≤ (s.stack k).recentCe s.gtc.count pc then s.retirePc k pc else s)
    | .uncorrectable =>
      let s := s.markUe a
      .next (if 2 ≤ ((s.stack k).uePcs.filter (· == pc)).length then s.retirePc k pc else s)

end Sys2Proof.Machine
end

