-- ==== Sys2Proof/Machine/VecMath.lean ====
section
/-!
DEFINITION. Element functions of the vector engine (R207 to R213): rounded arithmetic, division, square
roots, and the correctly rounded transcendental functions, found by enclosing the exact value between
two rational bounds that round alike.
-/
namespace Sys2Proof.Machine

/-! ### Rounded arithmetic (R207, R208) -/

/-- The code and flags of an operation's exact result `v` on operands `ins`: NAN_IN for a NaN operand,
NAN_GEN for a NaN formed. -/
def roundOp (f : FFmt) (r : Rnd) (sat : Bool) (ins : List FV) (v : FV) : Nat × Flags :=
  if ins.any FV.isNan then (f.nanCode, fNanIn)
  else if v.isNan then (f.nanCode, fNanGen)
  else f.encode r sat v

/-- Lane maximum or minimum (R208); of two equal operands, zeros of either sign, +0 is the larger. -/
def laneMax (f : FFmt) (wantMax : Bool) (x y : Nat) : Nat × Flags :=
  let a := f.decode x
  let b := f.decode y
  if a.isNan || b.isNan then (f.nanCode, fNanIn)
  else if FV.eq a b then ((if wantMax == a.neg then y else x), 0)
  else ((if wantMax == FV.lt a b then y else x), 0)

/-- Absolute value and negation act on the sign bit (R208). -/
def signOp (f : FFmt) (g : Bool → Bool) (x : Nat) : Nat × Flags :=
  if (f.decode x).isNan then (f.nanCode, fNanIn)
  else (x % 2 ^ f.magBits + f.signOf (g (x.testBit f.magBits)), 0)

/-! ### Square roots -/

/-- ⌊√n⌋ below `2^k`, one bit at a time from bit `k - 1`. -/
def isqrtBits (n : Nat) : Nat → Nat → Nat
  | 0, r => r
  | k + 1, r => let c := r + 2 ^ k; isqrtBits n k (if c * c ≤ n then c else r)

/-- ⌊√n⌋. -/
def isqrt (n : Nat) : Nat := isqrtBits n (Nat.log2 n / 2 + 1) 0

/-- A magnitude with an even exponent. -/
def evenExp (m : Nat) (e : Int) : Nat × Int := if e % 2 == 0 then (m, e) else (2 * m, e - 1)

/-- √x for x ≥ 0, cut with a last set bit for the rest as `FV.quo` is. -/
def sqrtMag (m : Nat) (e : Int) : FV :=
  let p := evenExp m e
  let n := p.1 <<< 280
  let q := isqrt n
  .fin false (2 * q + (if q * q == n then 0 else 1)) (p.2 / 2 - 141)

/-- 1/√x for x > 0, cut likewise. -/
def rsqrtMag (m : Nat) (e : Int) : FV :=
  let p := evenExp m e
  let k := 160 + Nat.log2 p.1
  let q := isqrt (2 ^ (2 * k) / p.1)
  .fin false (2 * q + (if q * q * p.1 == 2 ^ (2 * k) then 0 else 1)) (-(p.2 / 2) - k - 1)

/-- Square root (R213). -/
def opSqrt (x : FV) : FV :=
  match x with
  | .nan => .nan
  | .inf n => if n then .nan else .inf false
  | .fin n m e => if m == 0 then x else if n then .nan else sqrtMag m e

/-- Reciprocal square root (R213). -/
def opRsqrt (x : FV) : FV :=
  match x with
  | .nan => .nan
  | .inf n => if n then .nan else .zero
  | .fin n m e => if m == 0 then .inf n else if n then .nan else rsqrtMag m e

/-! ### Enclosures -/

/-- Bounds of a real number, as integers over `2^p` for a precision `p` kept beside them. -/
structure Iv where
  lo : Int
  hi : Int
  deriving DecidableEq, Repr

/-- Floor of `x / 2^p`. -/
def fsh (x : Int) (p : Nat) : Int := x / (2 ^ p : Nat)

/-- Ceiling of `x / 2^p`. -/
def csh (x : Int) (p : Nat) : Int := -((-x) / (2 ^ p : Nat))

/-- An integer number. -/
def Iv.int (p : Nat) (i : Int) : Iv := ⟨i * (2 ^ p : Nat), i * (2 ^ p : Nat)⟩

/-- The number `m * 2^e`. -/
def Iv.dyadic (p : Nat) (m : Int) (e : Int) : Iv :=
  let k := e + p
  if 0 ≤ k then ⟨m * (2 ^ k.toNat : Nat), m * (2 ^ k.toNat : Nat)⟩
  else ⟨fsh m (-k).toNat, csh m (-k).toNat⟩

/-- Sum. -/
def Iv.add (a b : Iv) : Iv := ⟨a.lo + b.lo, a.hi + b.hi⟩

/-- Negation. -/
def Iv.neg (a : Iv) : Iv := ⟨-a.hi, -a.lo⟩

/-- Difference. -/
def Iv.sub (a b : Iv) : Iv := a.add b.neg

/-- A wider enclosure. -/
def Iv.widen (a : Iv) (n : Nat) : Iv := ⟨a.lo - n, a.hi + n⟩

/-- Product. -/
def Iv.mul (p : Nat) (a b : Iv) : Iv :=
  let c := [a.lo * b.lo, a.lo * b.hi, a.hi * b.lo, a.hi * b.hi]
  ⟨fsh (c.foldl min (a.lo * b.lo)) p, csh (c.foldl max (a.lo * b.lo)) p⟩

/-- Quotient by a positive integer. -/
def Iv.divNat (a : Iv) (n : Nat) : Iv := ⟨a.lo / (n : Int), -((-a.hi) / (n : Int))⟩

/-- Quotient by a positive number. -/
def Iv.div (p : Nat) (a b : Iv) : Iv :=
  let u : Int := ((2 ^ p : Nat) : Int)
  ⟨a.lo * u / (if 0 ≤ a.lo then b.hi else b.lo), -((-a.hi) * u / (if 0 ≤ a.hi then b.lo else b.hi))⟩

/-- Apply a squaring `n` times. -/
def Iv.squares (p : Nat) : Nat → Iv → Iv
  | 0, a => a
  | n + 1, a => Iv.squares p n (Iv.mul p a a)

/-- Σ of `n` terms from index `k`: each term is the last times `r` divided by `d k`. -/
def Iv.series (p : Nat) (r : Iv) (d : Nat → Nat) : Nat → Nat → Iv → Iv → Iv
  | 0, _, _, acc => acc
  | n + 1, k, term, acc =>
    let next := (Iv.mul p term r).divNat (d k)
    Iv.series p r d n (k + 1) next (acc.add next)

/-- e^x for |x| ≤ 512: the series at x/2^16, squared 16 times. -/
def expIv (p : Nat) (x : Iv) : Iv :=
  let r : Iv := ⟨fsh x.lo 16, csh x.hi 16⟩
  let s := (Iv.series p r (fun k => k) (p / 6 + 8) 1 (Iv.int p 1) (Iv.int p 1)).widen 1
  Iv.squares p 16 s

/-- Σ z^(2n+1)/(2n+1): `pow` is the next power of z. -/
def atanhSum (p : Nat) (z2 : Iv) : Nat → Nat → Iv → Iv → Iv
  | 0, _, _, acc => acc.widen 2
  | n + 1, k, pow, acc =>
    atanhSum p z2 n (k + 2) (Iv.mul p pow z2) (acc.add (pow.divNat k))

/-- atanh(a/b) for 0 ≤ a/b ≤ 1/3. -/
def atanhIv (p a b : Nat) : Iv :=
  let z := (Iv.int p a).divNat b
  atanhSum p (Iv.mul p z z) (p / 3 + 8) 1 z ⟨0, 0⟩

/-- ln 2. -/
def ln2Iv (p : Nat) : Iv := let a := atanhIv p 1 3; a.add a

/-- ln of a positive number m * 2^e. -/
def lnIv (p : Nat) (m : Nat) (e : Int) : Iv :=
  let b := 2 ^ Nat.log2 m
  let a := atanhIv p (m - b) (m + b)
  let k := e + Nat.log2 m
  let l := ln2Iv p
  let kl : Iv := if 0 ≤ k then ⟨k * l.lo, k * l.hi⟩ else ⟨k * l.hi, k * l.lo⟩
  kl.add (a.add a)

/-- Σ (-1)^n / ((2n+1) k^(2n+1)), by floors; each of the `n` terms is off by less than 3. -/
def atanInvSum (k : Nat) : Nat → Nat → Nat → Bool → Int → Int
  | 0, _, _, _, acc => acc
  | n + 1, j, pow, neg, acc =>
    let t : Int := ((pow / j : Nat) : Int)
    atanInvSum k n (j + 2) (pow / (k * k)) (!neg) (if neg then acc - t else acc + t)

/-- atan(1/k) for k ≥ 5. -/
def atanInv (p k : Nat) : Iv :=
  let n := p / 4 + 8
  let s := atanInvSum k n 1 (2 ^ p / k) false 0
  ⟨s - 3 * n, s + 3 * n⟩

/-- π by Machin's formula. -/
def piIv (p : Nat) : Iv :=
  let a := atanInv p 5
  let b := atanInv p 239
  ⟨16 * a.lo - 4 * b.hi, 16 * a.hi - 4 * b.lo⟩

/-- Σ of the alternating series of sine (first = r) or cosine (first = 1). -/
def trigIv (p : Nat) (r first : Iv) (k0 : Nat) : Iv :=
  (Iv.series p (Iv.mul p r r).neg (fun k => (k0 + 2 * k) * (k0 + 2 * k + 1)) (p / 4 + 20) 0 first
    first).widen 2

/-- x reduced by the nearest multiple of π/2 (R212: exact reduction over the whole range): the multiple
modulo 4, and the rest. -/
def reduceIv (p : Nat) (m : Int) (e : Int) : Nat × Iv :=
  let q := p + 160
  let x := (Iv.dyadic q m e)
  let h := piIv q
  let k := (2 * x.lo * 2 + h.lo) / (2 * h.lo)
  let kh : Iv := if 0 ≤ k then ⟨k * h.lo, k * h.hi⟩ else ⟨k * h.hi, k * h.lo⟩
  let r : Iv := ⟨2 * x.lo - kh.hi, 2 * x.hi - kh.lo⟩
  ((k % 4).toNat, ⟨fsh r.lo 161, csh r.hi 161⟩)

/-- sin or cos of m * 2^e. -/
def sinCosIv (p : Nat) (m : Int) (e : Int) (cosine : Bool) : Iv :=
  let r := reduceIv p m e
  let j := (r.1 + (if cosine then 1 else 0)) % 4
  let v := if j % 2 == 0 then trigIv p r.2 r.2 2 else trigIv p r.2 (Iv.int p 1) 1
  if 2 ≤ j then v.neg else v

/-- √π, from below and above. -/
def sqrtPiIv (p : Nat) : Iv :=
  let h := piIv p
  ⟨(isqrt (h.lo.toNat * 2 ^ p) : Nat), ((isqrt (h.hi.toNat * 2 ^ p) + 1 : Nat) : Int)⟩

/-- erf of x = m * 2^e with 0 < x < 10: 2/√π e^(-x²) Σ 2^n x^(2n+1) / (1·3···(2n+1)). -/
def erfIv (p : Nat) (m : Nat) (e : Int) : Iv :=
  let q := p + 320
  let x := Iv.dyadic q m e
  let x2 := Iv.mul q x x
  let s := (Iv.series q (x2.add x2) (fun k => 2 * k + 1) (q + 800) 1 x x).widen 4
  let ex := expIv q x2.neg
  let v := Iv.div q (Iv.mul q s ex) (sqrtPiIv q)
  let v := v.add v
  ⟨fsh v.lo 320, csh v.hi 320⟩

/-! ### Correct rounding -/

/-- The code that every number of an enclosure rounds to, none when its bounds round apart. -/
def roundIv (f : FFmt) (r : Rnd) (sat : Bool) (p : Nat) (v : Iv) : Option (Nat × Flags) :=
  let enc (i : Int) : Nat × Flags := f.encode r sat (.fin (decide (i < 0)) i.natAbs (-(p : Int)))
  let a := enc v.lo
  if v.lo != 0 && v.hi != 0 && decide (v.lo < 0) == decide (v.hi < 0) && a == enc v.hi then some a
  else none

/-- The precisions tried, coarse to fine. -/
def precisions : List Nat := [256, 640, 1600]

/-- The correctly rounded value of a number known by enclosures of any precision; a number that no
precision tried decides is a value the model does not compute. -/
def roundReal (f : FFmt) (r : Rnd) (sat : Bool) (fn x : Nat) (v : Nat → Iv) : Nat × Flags :=
  match precisions.findSome? fun p => roundIv f r sat p (v p) with
  | some a => a
  | none => ((Config.hardCase fn x).toNat % 2 ^ f.width, 0)

/-- A number so close above or below 1, or so close to 0, that only its side matters. -/
def nearOne (neg : Bool) : FV := .fin neg (2 ^ 200 - 1) (-200)
/-- A positive number below every positive code's half. -/
def tinyNum : FV := .fin false 1 (-400)
/-- A number beyond every finite F32. -/
def hugeNum : FV := .fin false 1 400

/-- The transcendental functions of R212. -/
inductive TruFn where
  | exp | exp2 | log | log2 | sin | cos | tanh | lgst | erf
  deriving DecidableEq, Repr

/-- A number used to name a function's undecided values. -/
def TruFn.code : TruFn → Nat
  | .exp => 0
  | .exp2 => 1
  | .log => 2
  | .log2 => 3
  | .sin => 4
  | .cos => 5
  | .tanh => 6
  | .lgst => 7
  | .erf => 8

/-- The integer a finite value is, if it is one. -/
def FV.asInt (v : FV) : Option Int :=
  match v with
  | .fin neg m e =>
    let i : Option Nat := if 0 ≤ e then some (m <<< e.toNat)
      else if m % 2 ^ (-e).toNat == 0 then some (m / 2 ^ (-e).toNat) else none
    i.map fun k => if neg then -(k : Int) else k
  | _ => none

/-- The enclosures of a function at a finite nonzero x in the range where the series are used. -/
def TruFn.enclose (fn : TruFn) (neg : Bool) (m : Nat) (e : Int) (p : Nat) : Iv :=
  let sm : Int := if neg then -(m : Int) else m
  let x := Iv.dyadic p sm e
  match fn with
  | .exp => expIv p x
  | .exp2 => expIv p (Iv.mul p x (ln2Iv p))
  | .log => lnIv p m e
  | .log2 => Iv.div p (lnIv p m e) (ln2Iv p)
  | .sin => sinCosIv p sm e false
  | .cos => sinCosIv p sm e true
  | .tanh =>
    let y := expIv p (x.add x)
    Iv.div p (y.sub (Iv.int p 1)) (y.add (Iv.int p 1))
  | .lgst =>
    let y := expIv p x.neg
    Iv.div p (Iv.int p 1) (y.add (Iv.int p 1))
  | .erf => let v := erfIv p m e; if neg then v.neg else v

/-- |x| ≥ n. -/
def FV.atLeast (x : FV) (n : Nat) : Bool := !FV.lt x.abs (FV.ofInt n)

/-- A function's value at a non-NaN operand where it needs no series: the special operands of R213,
exact values, and operands so large that only the side of the limit matters. -/
def TruFn.special (fn : TruFn) (x : FV) : Option FV :=
  match fn with
  | .exp =>
    if x == .inf true then some .zero else if x.isInf then some x
    else if x.isZero then some .one
    else if x.atLeast 200 then some (if x.neg then tinyNum else hugeNum) else none
  | .exp2 =>
    if x == .inf true then some .zero else if x.isInf then some x
    else if x.atLeast 300 then some (if x.neg then tinyNum else hugeNum)
    else x.asInt.map fun k => .fin false 1 k
  | .log =>
    if x.isZero then some (.inf true) else if x.neg then some .nan else if x.isInf then some x
    else if FV.eq x .one then some .zero else none
  | .log2 =>
    if x.isZero then some (.inf true) else if x.neg then some .nan else if x.isInf then some x
    else match x with
      | .fin _ m e => if m == 2 ^ Nat.log2 m then some (FV.ofInt (e + Nat.log2 m)) else none
      | _ => none
  | .sin => if x.isInf then some .nan else if x.isZero then some x else none
  | .cos => if x.isInf then some .nan else if x.isZero then some .one else none
  | .tanh =>
    if x.isInf then some (FV.one.withSign x.neg) else if x.isZero then some x
    else if x.atLeast 60 then some (nearOne x.neg) else none
  | .lgst =>
    if x == .inf true then some .zero else if x.isInf then some .one
    else if x.isZero then some (.fin false 1 (-1))
    else if x.atLeast 200 then some (if x.neg then tinyNum else nearOne false) else none
  | .erf =>
    if x.isInf then some (FV.one.withSign x.neg) else if x.isZero then some x
    else if x.atLeast 10 then some (nearOne x.neg) else none

/-- A transcendental function of an F32 code, correctly rounded (R212, R213). -/
def TruFn.eval (fn : TruFn) (r : Rnd) (sat : Bool) (code : Nat) : Nat × Flags :=
  let x := fFP32.decode code
  match x with
  | .nan => (fFP32.nanCode, fNanIn)
  | x =>
    match fn.special x with
    | some v => if v.isNan then (fFP32.nanCode, fNanGen) else fFP32.encode r sat v
    | none =>
      match x with
      | .fin neg m e => roundReal fFP32 r sat fn.code code (fn.enclose neg m e)
      | _ => (fFP32.nanCode, 0)

end Sys2Proof.Machine
end

