-- ==== Sys2Proof/Machine/SeracMath.lean ====
section
/-!
DEFINITION. S48 arithmetic and the Serac algorithms (R177 to R192): every element written is one RNE
rounding of an exact rational on the grid of its slot's exponent, or the exact square root of one.
-/
namespace Sys2Proof.Machine

/-! ### Exact numbers and the grid -/

/-- `2^k`. -/
def two (k : Int) : Rat := if 0 ≤ k then ((2 ^ k.toNat : Nat) : Rat) else 1 / ((2 ^ (-k).toNat : Nat) : Rat)

/-- The absolute value. -/
def ratAbs (x : Rat) : Rat := if x < 0 then -x else x

/-- The larger of two. -/
def ratMax (a b : Rat) : Rat := if a < b then b else a

/-- The largest of a list and zero. -/
def ratMaxOf (l : List Rat) : Rat := l.foldl ratMax 0

/-- The least of a list. -/
def ratMinOf : List Rat → Rat
  | [] => 0
  | [a] => a
  | a :: b :: l => let m := ratMinOf (b :: l); if a < m then a else m

/-- The nearest integer, ties to even. -/
def ratRne (x : Rat) : Int :=
  let f := x.num / x.den
  let r := 2 * (x.num % x.den)
  if r > x.den ∨ (r = x.den ∧ f % 2 = 1) then f + 1 else f

/-- A dyadic rational as a value of the formats. -/
def ratFV (x : Rat) : FV := .fin (decide (x < 0)) x.num.natAbs (-(Nat.log2 x.den : Int))

/-- The exact rational of a finite value; 0 for the others. -/
def fvRat : FV → Rat
  | .fin n m e => (if n then -1 else 1) * (m : Rat) * two e
  | _ => 0

/-- FP64 bits of a dyadic rational under RNE (R175). -/
def ratFp64 (x : Rat) : Word := BitVec.ofNat 64 (fFP64.rne (ratFV x)).1

/-- The largest mantissa magnitude (R179). -/
def s48Max : Nat := 2 ^ 47 - 1

/-- A slot's words within what S48 holds: a mantissa of at most 2^47 - 1 in magnitude, an exponent of 16 bits (R55). -/
def SMat.legal (a : SMat) : SMat :=
  { a with
    e := (BitVec.ofInt 16 a.e).toInt
    rows := a.rows.map fun r => r.map fun m => max (-(s48Max : Int)) (min s48Max m) }

/-- A structure whose slots hold S48 words (R55). -/
def SerStruct.legal (x : SerStruct) : SerStruct :=
  { x with w := x.w.legal, pub := x.pub.map fun p => { p with mat := p.mat.legal, low := p.low.legal } }

/-- A running command whose slots hold S48 words (R55). -/
def SerRun.legal (r : SerRun) : SerRun :=
  { r with input := r.input.legal, x := r.x.legal, m := r.m.legal, feed := r.feed.map SMat.legal }

/-- The range guard (R179). -/
def guarded (m : Int) : Option Int := if m.natAbs ≤ s48Max then some m else none

/-- The RNE mantissa of a value on the grid of `E`, none where the range guard trips (R178, R179). -/
def toGrid (E : Int) (v : Rat) : Option Int := guarded (ratRne (v * two (47 - E)))

/-- The RNE mantissa of a square root (R178). -/
def sqrtGrid (E : Int) (v : Rat) : Option Int :=
  let y := v * two (2 * (47 - E))
  let s := isqrt (y.num / y.den).toNat
  let h : Rat := (s * s + s : Nat) + 1 / 4
  guarded (if h < y ∨ (y = h ∧ s % 2 = 1) then s + 1 else s)

/-- 𝓔 of the bound whose `k`-th power is `v` (R177): the smallest E with b ≤ (1 − 2⁻²⁴)·2^E. A zero
bound takes 0; none where the exponent falls outside its 16 bits. -/
def expOf (k : Nat) (v : Rat) : Option Int :=
  if v = 0 then some 0
  else
    let l : Int := (Nat.log2 v.num.natAbs : Int) - Nat.log2 v.den
    let lim : Rat := 1 - two (-24)
    let cand := (List.range 8).map fun (i : Nat) => l / k - 3 + i
    match cand.find? fun E => v ≤ (lim * two E) ^ k with
    | some E => if -32768 ≤ E ∧ E ≤ 32767 then some E else none
    | none => none

/-! ### Matrices -/

/-- Mantissa (i, j) of a symmetric slot. -/
def SMat.get (a : SMat) (i j : Nat) : Int :=
  if i ≤ j then (a.rows.getD i []).getD (j - i) 0 else (a.rows.getD j []).getD (i - j) 0

/-- Mantissa (i, j) of an upper slot: zero below the diagonal. -/
def SMat.up (a : SMat) (i j : Nat) : Int := if i ≤ j then (a.rows.getD i []).getD (j - i) 0 else 0

/-- Mantissa (i, j) of a lower slot: zero above the diagonal. -/
def SMat.low (a : SMat) (i j : Nat) : Int := if j ≤ i then (a.rows.getD i []).getD j 0 else 0

/-- The unit of a slot's grid. -/
def SMat.unit (a : SMat) : Rat := two (a.e - 47)

/-- Element (i, j) of a symmetric slot. -/
def SMat.val (a : SMat) (i j : Nat) : Rat := a.get i j * a.unit

/-- The entries i ≤ j of a slot, none where some rounding trips the guard. -/
def symOf (n : Nat) (E : Int) (f : Nat → Nat → Rat) : Option SMat :=
  ((List.range n).mapM fun i => (List.range (n - i)).mapM fun d => toGrid E (f i (i + d))).map
    fun rows => ⟨n, E, rows⟩

/-- The exact dot product of two lists of integers. -/
def dotInt (a b : List Int) : Int := (a.zip b).foldl (fun s p => s + p.1 * p.2) 0

/-- A symmetric product, its entries i ≤ j rounded once. -/
def symMul (a b : SMat) (E : Int) : Option SMat :=
  let ks := List.range a.n
  symOf a.n E fun i j => dotInt (ks.map (a.get i)) (ks.map fun k => b.get k j) * (a.unit * b.unit)

/-! ### The range pass (R180) -/

/-- No quantity read. -/
def RangeQ.zero : RangeQ := ⟨0, 0, 0, 0, 0⟩

/-- Steps 1 to 3. -/
def rangePass (a : SMat) : RangeQ :=
  let ix := List.range a.n
  let off (i : Nat) : Int := (ix.map fun j => if i = j then 0 else ((a.get i j).natAbs : Int)).sum
  let diag := ix.map fun i => a.get i i
  { dmax := ratMaxOf (diag.map fun (m : Int) => ((m.natAbs : Nat) : Rat)) * a.unit
    amax := ratMaxOf (a.rows.flatMap fun r => r.map fun m => ((m.natAbs : Nat) : Rat)) * a.unit
    rho := ratMaxOf (ix.map fun i => (((a.get i i).natAbs + off i : Int) : Rat)) * a.unit
    glo := ratMinOf (ix.map fun i => ((a.get i i - off i : Int) : Rat)) * a.unit
    trace := (diag.sum : Int) * a.unit }

/-- τ of a descriptor. -/
def SerDesc.tau (d : SerDesc) : Rat := two (-((if d.tauLog = 0 then 30 else d.tauLog : Nat) : Int))

/-- λ₀ (step 4). -/
def lam0 (d : SerDesc) (opc : Nat) (q : RangeQ) : Rat :=
  let l := if d.lamLog = 0xFF then 0
    else q.dmax * two (-((if d.lamLog = 0 then 24 else d.lamLog : Nat) : Int))
  if l = 0 ∧ q.glo ≤ 0 ∧ 5 ≤ opc then d.tau * q.dmax else l

/-- λ_a (step 5). -/
def lamAt (d : SerDesc) (opc : Nat) (q : RangeQ) : Nat → Rat
  | 0 => lam0 d opc q
  | a + 1 => 16 * ratMax (lamAt d opc q a) (d.tau * q.dmax)

/-- ℓ_a (step 6). -/
def floorOf (q : RangeQ) (lam : Rat) : Rat := lam + ratMax 0 q.glo

/-! ### Attempts -/

/-- What one attempt came to: its result, or none with whether the range guard or an exponent stopped
it; and its pivots. -/
structure Attempt where
  res    : Option (PubKind × SMat)
  guard  : Bool
  range  : Bool
  npiv   : Nat
  pividx : Option Nat
  bumped : Bool
  low    : SMat
  perm   : List Nat
  blocks : List Nat
  deriving DecidableEq, Repr

/-- An attempt before its first element. -/
def Attempt.start : Attempt := ⟨none, false, false, 0, none, false, ⟨0, 0, []⟩, [], []⟩

/-- A pivot flagged at position `j` (R192). -/
def Attempt.flag (a : Attempt) (j : Nat) : Attempt :=
  { a with npiv := a.npiv + 1, pividx := match a.pividx with | some k => some k | none => some j }

/-- The rows of U from row `j` on (R184, R191), with `none` where the attempt ends. -/
def cholRows (a : SMat) (E : Int) (lam thr : Rat) (reg : Bool) :
    Nat → Nat → List (List Int) → Attempt → Option (List (List Int)) × Attempt
  | 0, _, rows, at_ => (some rows, at_)
  | n + 1, j, rows, at_ =>
    let u : SMat := ⟨a.n, E, rows⟩
    let ks := List.range j
    let col (i : Nat) : List Int := ks.map fun k => u.up k i
    let sq := u.unit * u.unit
    let d := a.val j j + lam - dotInt (col j) (col j) * sq
    let flagged : Bool := decide (d ≤ thr)
    let at_ := if flagged then at_.flag j else at_
    if flagged && !reg then (none, at_)
    else
      let at_ := if flagged then { at_ with bumped := true } else at_
      let d := if flagged then 16 * thr else d
      match sqrtGrid E d with
      | none => (none, { at_ with guard := true })
      | some ujj =>
        if ujj = 0 then (none, { at_ with guard := true })
        else
          let q := ujj * u.unit
          let rest := (List.range (a.n - 1 - j)).mapM fun t =>
            toGrid E ((a.val j (j + 1 + t) - dotInt (col j) (col (j + 1 + t)) * sq) / q)
          match rest with
          | none => (none, { at_ with guard := true })
          | some r => cholRows a E lam thr reg n (j + 1) (rows ++ [ujj :: r]) at_

/-- One attempt of CHOL (R184). -/
def cholAttempt (d : SerDesc) (a : SMat) (q : RangeQ) (lam : Rat) : Attempt :=
  match expOf 2 (4 * (q.dmax + lam)) with
  | none => { Attempt.start with range := true }
  | some E =>
    let r := cholRows a E lam (d.tau * q.dmax) d.reg a.n 0 [] .start
    match r.1 with
    | none => r.2
    | some rows => { r.2 with res := some (.chol, ⟨a.n, E, rows⟩) }

/-- V = U⁻¹ by columns (R187): column `j` holds V_0j to V_jj. -/
def invCols (u : SMat) (E : Int) : Nat → Nat → List (List Int) → Option (List (List Int))
  | 0, _, cols => some cols
  | n + 1, j, cols =>
    let ujj := u.up j j * u.unit
    let g := two (E - 47)
    let col := (List.range (j + 1)).mapM fun i =>
      if i = j then toGrid E (1 / ujj)
      else
        let s : Int := ((List.range (j - i)).map fun t =>
          (cols.getD (i + t) []).getD i 0 * u.up (i + t) j).sum
        toGrid E (-(s * (g * u.unit)) / ujj)
    match col with
    | none => none
    | some c => invCols u E n (j + 1) (cols ++ [c])

/-- One attempt of INV (R187). -/
def invAttempt (d : SerDesc) (a : SMat) (q : RangeQ) (lam : Rat) : Attempt :=
  let at_ := cholAttempt d a q lam
  match at_.res with
  | none => at_
  | some (_, u) =>
    let fl := floorOf q lam
    if fl ≤ 0 then { at_ with res := none, range := true }
    else match expOf 2 (4 / fl), expOf 1 (2 / fl) with
      | some Ev, some Ea =>
        match invCols u Ev a.n 0 [] with
        | none => { at_ with res := none, guard := true }
        | some cols =>
          let v (i k : Nat) : Int := if i ≤ k then (cols.getD k []).getD i 0 else 0
          let g := two (Ev - 47)
          match symOf a.n Ea fun i j =>
              (((List.range (a.n - j)).map fun t => v i (j + t) * v j (j + t)).sum : Int) * (g * g) with
          | none => { at_ with res := none, guard := true }
          | some m => { at_ with res := some (.sym, m) }
      | _, _ => { at_ with res := none, range := true }

/-! ### LDLT (R185, R191) -/

/-- LDLT in progress: the permutation, the rows of Y and L found so far by position, the 2 × 2 block
starts, and the attempt's pivots. -/
structure Ldlt where
  perm : List Nat
  y    : List (List Int)
  l    : List (List Int)
  blocks : List Nat
  deriving DecidableEq, Repr

/-- Positions `i` and `j` of a list exchanged. -/
def swapAt {α : Type} [Inhabited α] (l : List α) (i j : Nat) : List α :=
  (l.set i (l.getD j default)).set j (l.getD i default)

/-- Interchange positions. -/
def Ldlt.swap (x : Ldlt) (i j : Nat) : Ldlt :=
  { x with perm := swapAt x.perm i j, y := swapAt x.y i j, l := swapAt x.l i j }

/-- s_ik of A + λI (R185, R186): `k` columns are done; Y's grid unit is `yu`, L's is `lu`. -/
def Ldlt.s (x : Ldlt) (a : SMat) (lam yu lu : Rat) (k i j : Nat) : Rat :=
  a.val (x.perm.getD i 0) (x.perm.getD j 0) + (if i = j then lam else 0) -
    dotInt ((x.y.getD i []).take k) ((x.l.getD j []).take k) * (yu * lu)

/-- The largest magnitude among `s_ik`, i in `is`, with its first index. -/
def maxAt (f : Nat → Rat) (is : List Nat) : Rat × Nat :=
  is.foldl (fun b i => if b.1 < ratAbs (f i) then (ratAbs (f i), i) else b) (0, is.headD 0)

/-- A column appended to the rows of Y and L from position `k` on; rows above get nothing of it. -/
def addCol (rows : List (List Int)) (k : Nat) (f : Nat → Option Int) : Option (List (List Int)) :=
  (rows.zip (List.range rows.length)).mapM fun r =>
    if r.2 < k then some (r.1 ++ [0]) else (f r.2).map fun v => r.1 ++ [v]

/-- A 1 × 1 pivot at position `k` with value `dk`: the column of Y and L. -/
def Ldlt.one (x : Ldlt) (a : SMat) (lam : Rat) (Ey El : Int) (k : Nat) (dk : Int) : Option Ldlt :=
  let yu := two (Ey - 47)
  let lu := two (El - 47)
  let s (i : Nat) : Rat := x.s a lam yu lu k i k
  let y := addCol x.y k fun i => if i = k then some dk else toGrid Ey (s i)
  let l := addCol x.l k fun i => if i = k then some 0
    else if dk = 0 then none else toGrid El (s i / (dk * yu))
  match y, l with
  | some y, some l => some { x with y := y, l := l }
  | _, _ => none

/-- A 2 × 2 pivot at positions `k`, `k + 1` with its block entries. -/
def Ldlt.pair (x : Ldlt) (a : SMat) (lam : Rat) (Ey El : Int) (k : Nat) (d11 d21 d22 : Int) : Option Ldlt :=
  let yu := two (Ey - 47)
  let lu := two (El - 47)
  let s0 (i : Nat) : Rat := x.s a lam yu lu k i k
  let s1 (i : Nat) : Rat := x.s a lam yu lu k i (k + 1)
  let del : Rat := ((d11 * d22 - d21 * d21 : Int) : Rat) * yu
  let y0 := addCol x.y k fun i => if i = k then some d11 else if i = k + 1 then some d21 else toGrid Ey (s0 i)
  let l0 := addCol x.l k fun i => if i ≤ k + 1 then some 0 else toGrid El ((s0 i * d22 - s1 i * d21) / del)
  match y0, l0 with
  | some y0, some l0 =>
    let y1 := addCol y0 (k + 1) fun i => if i = k + 1 then some d22 else toGrid Ey (s1 i)
    let l1 := addCol l0 (k + 1) fun i =>
      if i ≤ k + 1 then some 0 else toGrid El ((s1 i * d11 - s0 i * d21) / del)
    match y1, l1 with
    | some y1, some l1 => some { x with y := y1, l := l1, blocks := x.blocks ++ [k] }
    | _, _ => none
  | _, _ => none

/-- The bumped value of a flagged pivot: ±16·τ·dmax with the sign of `s` (R191). -/
def bumpOf (Ey : Int) (thr s : Rat) : Option Int := toGrid Ey (if s < 0 then -16 * thr else 16 * thr)

/-- A 1 × 1 pivot at position `k`, checked and perhaps bumped. -/
def ldltOne (x : Ldlt) (a : SMat) (lam : Rat) (Ey El : Int) (thr : Rat) (reg force : Bool) (k : Nat) (at_ : Attempt) :
    Option Ldlt × Attempt :=
  let s := x.s a lam (two (Ey - 47)) (two (El - 47)) k k k
  match toGrid Ey s with
  | none => (none, { at_ with guard := true })
  | some dk =>
    if force || decide (ratAbs (dk * two (Ey - 47)) ≤ thr) then
      let at_ := at_.flag k
      if !reg then (none, at_)
      else
        let at_ := { at_ with bumped := true }
        match bumpOf Ey thr s with
        | none => (none, { at_ with guard := true })
        | some dk =>
          if dk = 0 then (none, { at_ with guard := true })
          else match x.one a lam Ey El k dk with
            | none => (none, { at_ with guard := true })
            | some y => (some y, at_)
    else match x.one a lam Ey El k dk with
      | none => (none, { at_ with guard := true })
      | some y => (some y, at_)

/-- The pivots from position `k` on. -/
def ldltLoop (a : SMat) (lam : Rat) (Ey El : Int) (thr : Rat) (reg : Bool) :
    Nat → Nat → Ldlt → Attempt → Option Ldlt × Attempt
  | 0, _, x, at_ => (some x, at_)
  | fuel + 1, k, x, at_ =>
    if a.n ≤ k then (some x, at_)
    else
      let yu := two (Ey - 47)
      let lu := two (El - 47)
      let s (i j : Nat) : Rat := x.s a lam yu lu k i j
      let alpha : Rat := 41 / 64
      let rest := (List.range (a.n - k - 1)).map (· + k + 1)
      let p := ratAbs (s k k)
      let w := maxAt (fun i => s i k) rest
      let single (x : Ldlt) : Option Ldlt × Attempt :=
        let r := ldltOne x a lam Ey El thr reg false k at_
        match r.1 with
        | none => r
        | some y => ldltLoop a lam Ey El thr reg fuel (k + 1) y r.2
      if ratMax p w.1 = 0 ∨ alpha * w.1 ≤ p then single x
      else
        let r := w.2
        let wr := (maxAt (fun j => s r j) (((List.range (a.n - k)).map (· + k)).filter (· != r))).1
        if alpha * (w.1 * w.1) ≤ p * wr then single x
        else if alpha * wr ≤ ratAbs (s r r) then single (x.swap k r)
        else
          let x := x.swap (k + 1) r
          let s (i j : Nat) : Rat := x.s a lam yu lu k i j
          match toGrid Ey (s k k), toGrid Ey (s (k + 1) k), toGrid Ey (s (k + 1) (k + 1)) with
          | some d11, some d21, some d22 =>
            let del : Rat := ((d11 * d22 - d21 * d21 : Int) : Rat) * (yu * yu)
            if ratAbs del ≤ thr * thr then
              if !reg then (none, at_.flag k)
              else
                let r := ldltOne x a lam Ey El thr reg true k at_
                match r.1 with
                | none => r
                | some y =>
                  let r := ldltOne y a lam Ey El thr reg true (k + 1) r.2
                  match r.1 with
                  | none => r
                  | some y => ldltLoop a lam Ey El thr reg fuel (k + 2) y r.2
            else match x.pair a lam Ey El k d11 d21 d22 with
              | none => (none, { at_ with guard := true })
              | some y => ldltLoop a lam Ey El thr reg fuel (k + 2) y at_
          | _, _, _ => (none, { at_ with guard := true })

/-- One attempt of LDLT (R185) on A + λI after `trips` guard trips. -/
def ldltAttempt (d : SerDesc) (a : SMat) (q : RangeQ) (lam : Rat) (trips : Nat) : Attempt :=
  match expOf 1 (q.amax * two (4 + 8 * trips)), expOf 1 4 with
  | some Ey, some El =>
    let x0 : Ldlt := ⟨List.range a.n, List.replicate a.n [], List.replicate a.n [], []⟩
    let r := ldltLoop a lam Ey El (d.tau * q.dmax) d.reg a.n 0 x0 .start
    match r.1 with
    | none => r.2
    | some x =>
      let lower (rows : List (List Int)) : List (List Int) :=
        (rows.zip (List.range a.n)).map fun p => p.1.take (p.2 + 1)
      { r.2 with
        res := some (.ldlt, ⟨a.n, Ey, lower x.y⟩)
        low := ⟨a.n, El, lower x.l⟩
        perm := x.perm
        blocks := x.blocks }
  | _, _ => { Attempt.start with range := true }

/-! ### Results -/

/-- A result before anything is known. -/
def SerOut.start (eIn : Int) (lost : Nat) : SerOut where
  status := 0
  flags := 0
  attempt := 0
  iter := 0
  eIn := eIn
  eOut := 0
  pividx := 0xFFFFFFFF
  npiv := 0
  q := .zero
  lam := 0
  floor := 0
  resid := 0
  lost := lost
  restarts := 0
  guards := 0
  result := none
  low := ⟨0, 0, []⟩
  perm := []
  two := []

/-- FLAGS bits of a record (R175). -/
def SerOut.orFlag (o : SerOut) (b : Bool) (bit : Nat) : SerOut :=
  if b && !o.flags.testBit bit then { o with flags := o.flags + 2 ^ bit } else o

/-- Attempts a descriptor allows. -/
def SerDesc.maxAttempts (d : SerDesc) : Nat := if d.attempts = 0 then 4 else d.attempts

/-- Run attempts until one succeeds or none is left (R179, R180, R190): `made` were made, `ix` counts
those that raised λ, `trips` the guard trips. A guard trip leaves λ as it is for LDLT (R185) and under a local
bump (R191). -/
def tryAll (d : SerDesc) (opc : Nat) (run : Rat → Nat → Attempt) :
    Nat → Nat → Nat → Nat → SerOut → SerOut
  | 0, _, _, _, o => o
  | left + 1, made, ix, trips, o =>
    let lam := lamAt d opc o.q ix
    let t := run lam trips
    let o := { o with
      attempt := made + 1
      restarts := made
      lam := lam
      floor := floorOf o.q lam
      npiv := t.npiv
      pividx := t.pividx.getD 0xFFFFFFFF
      guards := o.guards + (if t.guard then 1 else 0) }
    let o := ((o.orFlag (t.npiv != 0) 2).orFlag t.bumped 4).orFlag t.guard 5
    match t.res with
    | some r => { o with status := 0, result := some r, eOut := r.2.e, low := t.low, perm := t.perm, two := t.blocks }
    | none =>
      if t.range then { o with status := 5 }
      else
        let o := { o with status := if t.guard then 5 else 4 }
        tryAll d opc run left (made + 1) (if t.guard && (opc == 3 || d.reg) then ix else ix + 1)
          (if t.guard then trips + 1 else trips) o

/-- REGULARISED (R175). -/
def SerOut.regularised (o : SerOut) : SerOut := o.orFlag (decide (0 < o.lam)) 3

/-- CHOL, LDLT or INV of an input (R180, R184, R185, R187). -/
def factor (d : SerDesc) (a : SMat) (lost : Nat) : SerOut :=
  let q := rangePass a
  let o := { SerOut.start a.e lost with q := q }
  if q.amax = 0 then { o with status := 7 }
  else
    let run (lam : Rat) (trips : Nat) : Attempt :=
      match d.opc with
      | 2 => cholAttempt d a q lam
      | 3 => ldltAttempt d a q lam trips
      | _ => invAttempt d a q lam
    (tryAll d d.opc run d.maxAttempts 0 0 0 o).regularised

/-! ### ROOT and SQRT (R188, R189) -/

/-- p of PCODE; SQRT runs with p = 2. -/
def SerDesc.p (d : SerDesc) : Nat := if d.opc = 7 then 2 else 2 ^ d.pcode

/-- f: the smallest integer with 2^(pf) ≥ `v`. -/
def rootF (p : Nat) (v : Rat) : Int :=
  let l : Int := (Nat.log2 v.num.natAbs : Int) - Nat.log2 v.den
  let cand := (List.range 5).map fun (i : Nat) => l / p - 1 + i
  (cand.find? fun f => v ≤ two (p * f)).getD 0

/-- X₀ and M₀ of an attempt; an exponent that has no 16-bit value is none. -/
def rootSetup (p : Nat) (a : SMat) (q : RangeQ) (lam : Rat) : Option (Option (SMat × SMat)) :=
  let fl := floorOf q lam
  if fl ≤ 0 then none
  else match expOf p (1 / fl), expOf 1 1 with
    | some Ex, some Em =>
      let f := rootF p (q.rho + lam)
      some (match symOf a.n Ex (fun i j => if i = j then two (-f) else 0),
          symOf a.n Em (fun i j => (a.val i j + if i = j then lam else 0) * two (-(p * f))) with
        | some x, some m => some (x, m)
        | _, _ => none)
    | _, _ => none

/-- One iteration: the next X and M, none where the guard trips. -/
def rootIter (p : Nat) (x m : SMat) : Option (SMat × SMat) := do
  let et (j : Nat) : Int := (expOf 1 ((((p + 1 : Nat) : Rat) / (p : Rat)) ^ j)).getD 0
  let t ← symOf m.n (et 1) fun i j =>
    ((if i = j then ((p + 1 : Nat) : Rat) else 0) - m.val i j) / (p : Rat)
  let top ← match p with
    | 1 => some t
    | 2 => symMul t t (et 2)
    | 4 => do symMul (← symMul t t (et 2)) (← symMul t t (et 2)) (et 4)
    | _ => do
      let t4 ← symMul (← symMul t t (et 2)) (← symMul t t (et 2)) (et 4)
      symMul t4 t4 (et 8)
  let m' ← symMul top m m.e
  let x' ← symMul x t x.e
  return (x', m')

/-- r: the largest |(M − I)_ij| (R188). -/
def rootResid (m : SMat) : Rat :=
  ratMaxOf ((List.range m.n).flatMap fun i => (List.range (m.n - i)).map fun t =>
    ratAbs (m.val i (i + t) - if t = 0 then 1 else 0))

/-- 2^−TOL_LOG. -/
def SerDesc.tol (d : SerDesc) : Rat := two (-((if d.tolLog = 0 then 40 else d.tolLog : Nat) : Int))

/-- 2^−PUB_LOG. -/
def SerDesc.pubTol (d : SerDesc) : Rat := two (-((if d.pubLog = 0 then 20 else d.pubLog : Nat) : Int))

/-- What ROOT and SQRT publish: X itself, or Y = RNE((A + λI)·X) (R189); none where the guard trips or
an exponent has no value. -/
def rootResult (d : SerDesc) (a x : SMat) (q : RangeQ) (lam : Rat) : Option SMat :=
  if d.opc = 7 then
    match expOf 2 (4 * (q.rho + lam)) with
    | none => none
    | some E => symOf a.n E fun i j =>
        dotInt ((List.range a.n).map (a.get i)) ((List.range a.n).map fun k => x.get k j) * (a.unit * x.unit) +
          lam * x.val i j
  else some x

/-- The state of a coupled Newton iteration: its result so far, its slots, whether it goes on. -/
structure RootState where
  out  : SerOut
  x    : SMat
  m    : SMat
  more : Bool
  deriving DecidableEq, Repr

/-- Begin attempt `made` of ROOT on input `a` (R180, R188). -/
def rootStart (d : SerDesc) (a : SMat) (o : SerOut) (made : Nat) : RootState :=
  let lam := lamAt d d.opc o.q made
  let o := { o with
    attempt := made + 1
    restarts := made
    iter := 0
    resid := 0
    lam := lam
    floor := floorOf o.q lam }
  match rootSetup d.p a o.q lam with
  | none => ⟨{ o with status := 5 }.regularised, a, a, false⟩
  | some none => ⟨({ o with status := 5, guards := o.guards + 1 }.orFlag true 5).regularised, a, a, made + 1 < d.maxAttempts⟩
  | some (some (x, m)) => ⟨o.regularised, x, m, true⟩

/-- ROOT ends with a result to publish or none. -/
def rootEnd (d : SerDesc) (a : SMat) (r : RootState) (status : Nat) (publish : Bool) : RootState :=
  let o := { r.out with status := status }
  if !publish then { r with out := o, more := false }
  else match rootResult d a r.x o.q o.lam with
    | some y => { r with out := { o with result := some (.sym, y), eOut := y.e }, more := false }
    | none => { r with
      out := { o with status := 5, guards := o.guards + 1 }.orFlag true 5
      more := decide (o.attempt < d.maxAttempts) }

/-- One iteration of ROOT or SQRT, or a restart after a guard trip (R188). A setup that tripped is
retried the same way. -/
def rootStep (d : SerDesc) (a : SMat) (r : RootState) : RootState :=
  let again (r : RootState) : RootState :=
    if r.out.attempt < d.maxAttempts then
      rootStart d a { r.out with status := 0 } r.out.attempt
    else { r with out := { r.out with status := 5 }, more := false }
  if r.out.status = 5 then again r
  else match rootIter d.p r.x r.m with
    | none => again { r with out := { r.out with guards := r.out.guards + 1 }.orFlag true 5 }
    | some (x, m) =>
      let res := rootResid m
      let r := { r with x := x, m := m, out := { r.out with iter := r.out.iter + 1, resid := ratFp64 res } }
      if res ≤ d.tol then rootEnd d a r 0 true
      else if d.kmax ≤ r.out.iter then rootEnd d a r 1 (decide (res ≤ d.pubTol))
      else r

/-- ROOT or SQRT from its start. -/
def rootBegin (d : SerDesc) (a : SMat) (lost : Nat) : RootState :=
  let q := rangePass a
  let o := { SerOut.start a.e lost with q := q }
  if q.amax = 0 then ⟨{ o with status := 7 }, a, a, false⟩ else rootStart d a o 0

/-- ROOT or SQRT run to its end: at most `n` iterations and restarts. -/
def rootAll (d : SerDesc) (a : SMat) : Nat → RootState → RootState
  | 0, r => r
  | n + 1, r => if r.more then rootAll d a n (rootStep d a r) else r

end Sys2Proof.Machine
end

