-- ==== Sys2Proof/Machine/Serac.lean ====
section
/-!
DEFINITION. The Serac clusters (R164 to R199): command lists, starts, inputs from HBM, FEED, SOLVE,
batches, iterations, publication and export, deadlines, records.
-/
namespace Sys2Proof.Machine

/-! ### HBM as a cluster reads and writes it -/

/-- Whether some byte of a range maps to nothing for a Serac cluster (R270, R271). -/
def State.serHole (s : State) (a n : Nat) : Bool :=
  (pagePoints a n).any fun p => match s.locate .serac p with | .mem _ => false | _ => true

/-- Whether a cluster's read faults: a byte that maps to nothing, or an uncorrectable line (R271, R276). -/
def State.serRdFault (s : State) (a n : Nat) : Bool :=
  s.serHole a n || match s.locate .serac a with | .mem k => (s.readUe k n).isSome | _ => false

/-- Whether a cluster's write faults: a byte that maps to nothing, a read-only or a stream region, or a part of an
uncorrectable line (R271, R272, R276). -/
def State.serWrFault (s : State) (a n : Nat) : Bool :=
  s.serHole a n || match s.locate .serac a with
    | .mem k => s.touchesRo k n || (s.writeUe k n).isSome
    | _ => false

/-- Bytes a cluster reads; where the read faults, bytes the manual does not state (log 39). -/
def State.serRd (s : State) (a n : Nat) : List Byte :=
  match s.locate .serac a with
  | .mem k => if s.serRdFault a n then tab n fun i => Config.freeByte s.free i else s.rd k n
  | _ => tab n fun i => Config.freeByte s.free i

/-- Bytes a cluster writes; where the write faults, memory is unchanged (R271, R272, R276). -/
def State.serWr (s : State) (a : Nat) (bs : List Byte) : State :=
  match s.locate .serac a with
  | .mem k => if s.serWrFault a bs.length then s else s.wr k bs
  | _ => s

/-- Bytes that the CP or a collective engine writes: as a cluster's, but to read-only regions too (the manual gives R272's
write permission an effect on tiles and clusters only, log 39). -/
def State.hbmWr (s : State) (a : Nat) (bs : List Byte) : State :=
  match s.locate .serac a with
  | .mem k => if (s.writeUe k bs.length).isSome then s else s.wr k bs
  | _ => s

/-- The ranges a command writes beside its record do not all take the write. DESIGN CHOICE (log 39): a command that
meets a faulting address ends DESC_ERR (0xA) and changes nothing. -/
def SerOut.descErr (o : SerOut) : SerOut := { o with status := 0xA, eOut := 0, result := none }

/-! ### Descriptors and the command list -/

/-- The fields of a command descriptor (R172). -/
def SerDesc.ofBytes (b : List Byte) : SerDesc where
  opc := leAt b 0 1
  reg := (leAt b 1 1).testBit 0
  exp := (leAt b 1 1).testBit 1
  efp32 := (leAt b 1 1).testBit 2
  batch := (leAt b 1 1).testBit 3
  pcode := leAt b 2 1 % 4
  part := leAt b 2 1 / 4 % 4
  ifmt := leAt b 3 1 % 16
  struct := leAt b 4 1
  engmask := BitVec.ofNat 4 (leAt b 5 1)
  attempts := leAt b 6 1
  kmax := leAt b 7 1
  start := leAt b 8 4
  deadline := leAt b 12 4
  period := leAt b 16 2
  phase := leAt b 18 2
  tauLog := leAt b 20 1
  lamLog := leAt b 21 1
  tolLog := leAt b 22 1
  pubLog := leAt b 23 1
  beta := leAt b 24 4
  count := leAt b 28 2
  border := leAt b 30 2
  src := leAt b 32 8
  dst := leAt b 40 8
  recAddr := leAt b 48 8
  stride := leAt b 56 4
  resv := leAt b 1 1 / 16 != 0 || leAt b 2 1 / 16 != 0 || leAt b 3 1 / 16 != 0 || leAt b 5 1 / 16 != 0 ||
    leAt b 60 4 != 0

/-- Entry `ix` of a cluster's command list. -/
def State.serDesc (s : State) (c : ClusterId) (ix : Nat) : SerDesc :=
  .ofBytes (s.serRd ((s.cluster c).listAddr + 64 * ix) 64)

/-- A structure of a cluster. -/
def Cluster.struct (c : Cluster) (k : Nat) : SerStruct := c.structs.getD k .unused

/-- Formats HBM inputs may have (R172). -/
def serFmt (c : Nat) : Bool := c == 0 || c == 1 || c == 2 || c == 0xC

/-- Whether a descriptor has a reserved or out-of-range field (DESC_ERR, R176). -/
def SerDesc.bad (d : SerDesc) (c : Cluster) : Bool :=
  let log (v : Nat) : Bool := decide (v ≤ 46)
  let count (hi : Nat) : Bool := decide (1 ≤ d.count ∧ d.count ≤ hi)
  let n := (c.struct d.struct).order
  d.resv || decide (d.opc < 1 ∨ 7 < d.opc) || d.part == 3 || d.engmask == 0 || decide (4 < d.attempts) ||
    !log d.tauLog || !(log d.lamLog || d.lamLog == 0xFF) || !log d.tolLog || !log d.pubLog ||
    d.period == 0 || decide (d.period ≤ d.phase) || d.recAddr % 64 != 0 ||
    (d.opc ≥ 6 && decide (d.kmax < 1 ∨ 63 < d.kmax)) ||
    (if d.batch then
      !(d.opc == 2 || d.opc ≥ 5) || !serFmt d.ifmt || !count 4096 || decide (d.border < 1 ∨ 64 < d.border)
    else
      decide (15 < d.struct) || n == 0 || (d.opc == 1 && (n % 128 != 0 || !count 256)) ||
        (d.opc == 4 && (!serFmt d.ifmt || !count 2048)))

/-- Whether a command runs in step `st` (R172); a descriptor whose PERIOD and PHASE name no step is
taken up in every step, for its record of DESC_ERR. -/
def SerDesc.due (d : SerDesc) (st : Nat) : Bool :=
  d.period == 0 || decide (d.period ≤ d.phase) || st % d.period == d.phase

/-- Whether every due command of the step a cluster walks has ended. -/
def State.serWalked (s : State) (c : ClusterId) : Bool :=
  let cl := s.cluster c
  (List.range cl.listCount).all fun i => cl.ended.contains i || !(s.serDesc c i).due cl.step.toNat

/-- A cluster goes on to the next steps' lists while the step it walks is behind and finished. -/
def State.serAdvance (c : ClusterId) : Nat → State → State
  | 0, s => s
  | n + 1, s =>
    if (s.cluster c).step.toNat < s.job.step.toNat ∧ s.serWalked c = true then
      State.serAdvance c n (s.modCluster c fun x => { x with step := x.step + 1, ended := [] })
    else s

/-- Bring a cluster's step up to date. -/
def State.serSync (s : State) (c : ClusterId) : State :=
  State.serAdvance c (s.job.step.toNat - (s.cluster c).step.toNat) s

/-! ### Inputs -/

/-- Values converted to an S48 grid (R181): the exponent, the mantissas and how many nonzero ones
rounded to zero; none where one is not finite. -/
def toS48 (l : List FV) : Option (Int × List Int × Nat) :=
  if l.any fun v => !v.isFin then none
  else
    let xs := l.map fvRat
    let E := (expOf 1 (ratMaxOf (xs.map ratAbs))).getD 0
    let ms := xs.map fun x => (toGrid E x).getD 0
    some (E, ms, ((xs.zip ms).filter fun p => p.1 != 0 && p.2 == 0).length)

/-- `n` elements of a format read from HBM. -/
def State.serElems (s : State) (c a n : Nat) : List FV :=
  (unpackElems c n (s.serRd a (elemBytes c n))).map (fmtOf c).decode

/-- Matrix `i` of a batch, full and row-major (R197); its upper triangle is taken. -/
def State.batchMat (s : State) (d : SerDesc) (i : Nat) : Option (SMat × Nat) :=
  let n := d.border
  (toS48 (s.serElems d.ifmt (d.src + i * d.stride) (n * n))).map fun r =>
    (⟨n, r.1, tab n fun i => tab (n - i) fun t => r.2.1.getD (i * n + i + t) 0⟩, r.2.2)

/-! ### FEED (R182, R183) -/

/-- One source of a FEED: its type, its block row and column, and its address. -/
structure FeedSrc where
  addr : Nat
  ty   : Nat
  bi   : Nat
  bj   : Nat
  resv : Bool
  deriving DecidableEq, Repr

/-- The source list (R182). -/
def State.feedSrcs (s : State) (d : SerDesc) : List FeedSrc :=
  (chunks d.count 16 (s.serRd d.src (16 * d.count))).map fun b =>
    ⟨leAt b 0 8, leAt b 8 1, leAt b 9 1, leAt b 10 1, leAt b 11 5 != 0⟩

/-- Whether a source is placed inside the structure as R182 says. -/
def FeedSrc.ok (f : FeedSrc) (n : Nat) : Bool :=
  !f.resv && decide (f.ty ≤ 1) && (if f.ty = 0 then f.bi == f.bj else decide (f.bi < f.bj)) &&
    decide (128 * (f.bj + 1) ≤ n)

/-- The place of entry (i, j), i ≤ j, among a record's 8,256 entries (R154), and its delta block. -/
def recordIx (i j : Nat) : Nat × Nat :=
  let a := i / 32
  let b := j / 32
  let blk := 4 * a - a * (a - 1) / 2 + (b - a)
  -- diagonal blocks before `blk` hold 528 entries each, the others 1,024
  let diag := a + (if a < b then 1 else 0)
  let before := 528 * diag + 1024 * (blk - diag)
  let u := i % 32
  let v := j % 32
  (before + (if a = b then u * 32 - u * (u - 1) / 2 + (v - u) else 32 * u + v), blk)

/-- The entries a source places: of a statistic record those its MASK selects, of a cross block all. -/
def State.feedEntry (s : State) (f : FeedSrc) (i j : Nat) : FV :=
  if f.ty = 0 then
    let r := recordIx i j
    if (leNat (s.serRd (f.addr + 24) 2)).testBit r.2 then
      fA48.decode (leNat (s.serRd (f.addr + 64 + 6 * r.1) 6))
    else .zero
  else fA48.decode (leNat (s.serRd (f.addr + 768 * i + 6 * j) 6))

/-- Every entry a source gives, by block-local row and column. -/
def State.feedEntries (s : State) (f : FeedSrc) : List (List FV) :=
  tab 128 fun i => tab 128 fun j => if f.ty = 0 ∧ j < i then .zero else s.feedEntry f i j

/-- The ranges a cluster reads of a source: a record's header and the delta blocks its MASK selects, or a whole cross
block (R155, R182). -/
def State.feedReads (s : State) (f : FeedSrc) : List (Nat × Nat) :=
  if f.ty = 0 then
    let m := leNat (s.serRd (f.addr + 24) 2)
    let blocks := (List.range 4).flatMap fun i => tab (4 - i) fun t => (i, i + t)
    (f.addr, 64) :: blocks.filterMap fun b =>
      let r := recordIx (32 * b.1) (32 * b.2)
      if m.testBit r.2 then some (f.addr + 64 + 6 * r.1, 6 * (if b.1 = b.2 then 528 else 1024)) else none
  else [(f.addr, 98304)]

/-- FEED (R183): its outcome and the new W. DESIGN CHOICE (log 144): an infinite or NaN KAPPA ends it INPUT_NONFINITE,
and that is tested before N = 0. -/
def State.feed (s : State) (d : SerDesc) (w : SMat) : SerOut × Option SMat :=
  let o := SerOut.start w.e 0
  let srcs := s.feedSrcs d
  if s.serRdFault d.src (16 * d.count) || srcs.any (fun f => !f.ok w.n) ||
      srcs.any (fun f => (s.feedReads f).any fun r => s.serRdFault r.1 r.2) then ({ o with status := 0xA }, none)
  else
    let recs := (srcs.filter fun f => f.ty == 0).map fun f => s.serRd f.addr 64
    let key (b : List Byte) : Nat × Nat × Nat × Nat := (leAt b 8 8, leAt b 16 4, leAt b 4 4, leAt b 26 1)
    let data := srcs.map fun f => (f, s.feedEntries f)
    match recs with
    | [] => (o.orFlag true 6, none)
    | r :: rs =>
      let kappa := fFP32.decode (leAt r 16 4)
      if rs.any fun b => key b != key r then ({ o with status := 8 }, none)
      else if recs.any (fun b => (leAt b 28 1).testBit 2) ||
          data.any (fun p => p.2.any fun row => row.any fun v => !v.isFin) || !kappa.isFin then
        ({ o with status := 6 }, none)
      else if leAt r 8 8 = 0 then (o.orFlag true 6, none)
      else
        let rats := data.map fun p => (p.1, p.2.map fun row => row.map fvRat)
        let sig (i j : Nat) : Rat := rats.foldl (fun a p =>
          if i / 128 = p.1.bi ∧ j / 128 = p.1.bj then a + (p.2.getD (i % 128) []).getD (j % 128) 0 else a) 0
        let beta : Rat := (d.beta : Rat) * two (-32)
        let k := fvRat kappa
        let c := fvRat (fFP64.decode (fFP64.rne (FV.quo (ratFV ((1 - beta) * (k * k))) (FV.ofInt (leAt r 8 8)))).1)
        let smax := ratMaxOf ((List.range w.n).flatMap fun i => (List.range (w.n - i)).map fun t =>
          ratAbs (sig i (i + t)))
        let wmax := ratMaxOf (w.rows.flatMap fun r => r.map fun m => ((m.natAbs : Nat) : Rat)) * w.unit
        match expOf 1 (beta * wmax + c * smax) with
        | none => ({ o with status := 5 }, none)
        | some E =>
          match symOf w.n E fun i j => beta * w.val i j + c * sig i j with
          | none => ({ o.orFlag true 5 with status := 5, guards := 1 }, none)
          | some m => (o, some m)

/-! ### SOLVE (R186) -/

/-- The product sum a triangular solve subtracts. -/
def ratSum (l : List Rat) : Rat := l.foldl (· + ·) 0

/-- Forward substitution with Uᵀ or L on grid `E`, one column: `f i done` is element i's exact value
from the values done so far. -/
def forward (E : Int) (f : Nat → List Rat → Rat) : Nat → List Rat → Option (List Rat)
  | 0, done => some done
  | n + 1, done =>
    match toGrid E (f done.length done) with
    | none => none
    | some m => forward E f n (done ++ [m * two (E - 47)])

/-- Both halves of a Cholesky solve of one column (R186). -/
def solveChol (u : SMat) (part : Nat) (E1 E2 : Int) (b : List Rat) : Option (List Rat) :=
  let n := u.n
  let uv (i j : Nat) : Rat := u.up i j * u.unit
  let z := if part = 2 then some b else
    forward E1 (fun i z => (b.getD i 0 - ratSum (tab i fun k => uv k i * z.getD k 0)) / uv i i) n []
  match z with
  | none => none
  | some z =>
    if part = 1 then some z
    else
      -- x runs from the last row down: `x` holds rows n-1, n-2, … in that order
      (forward E2 (fun t x =>
        let i := n - 1 - t
        (z.getD i 0 - ratSum (tab t fun q => uv i (n - 1 - q) * x.getD q 0)) / uv i i) n []).map List.reverse

/-- Both halves of an LDLT solve of one column (R186). -/
def solveLdlt (p : Pub) (part : Nat) (E : Int) (b : List Rat) : Option (List Rat) :=
  let n := p.mat.n
  let lv (i j : Nat) : Rat := p.low.low i j * p.low.unit
  let dv (i j : Nat) : Rat := p.mat.low i j * p.mat.unit
  let z := if part = 2 then some b else
    forward E (fun i z => b.getD (p.perm.getD i 0) 0 - ratSum (tab i fun k => lv i k * z.getD k 0)) n []
  match z with
  | none => none
  | some z =>
    if part = 1 then some z
    else
      let dinv (i : Nat) : Rat :=
        if p.two.contains i then
          (z.getD i 0 * dv (i + 1) (i + 1) - z.getD (i + 1) 0 * dv (i + 1) i) /
            (dv i i * dv (i + 1) (i + 1) - dv (i + 1) i * dv (i + 1) i)
        else if 0 < i ∧ p.two.contains (i - 1) then
          (z.getD i 0 * dv (i - 1) (i - 1) - z.getD (i - 1) 0 * dv i (i - 1)) /
            (dv (i - 1) (i - 1) * dv i i - dv i (i - 1) * dv i (i - 1))
        else z.getD i 0 / dv i i
      let v := forward E (fun t x =>
        let i := n - 1 - t
        dinv i - ratSum (tab t fun q => lv (n - 1 - q) i * x.getD q 0)) n []
      v.map fun v =>
        let byPos := v.reverse
        tab n fun r => byPos.getD ((p.perm.zip byPos).findIdx fun c => c.1 == r) 0

/-- SOLVE (R186): the outcome and the bytes of each row of the solution. DESIGN CHOICE (log 143): with IFMT 0xC the
solution is rounded from its exact S48 values to A48 at once, as to the other formats. -/
def State.solve (s : State) (d : SerDesc) (st : SerStruct) : SerOut × Option (List Byte) :=
  match st.pub with
  | none => ({ SerOut.start 0 0 with status := 9 }, none)
  | some p =>
    if p.kind = .sym then ({ SerOut.start 0 0 with status := 9 }, none)
    else
      let n := st.order
      let m := d.count
      let row := elemBytes d.ifmt m
      if (List.range n).any fun i => s.serRdFault (d.src + i * d.stride) row || s.serWrFault (d.dst + i * d.stride) row then
        ({ SerOut.start 0 0 with status := 0xA }, none)
      else
      let vals := (List.range n).flatMap fun i => s.serElems d.ifmt (d.src + i * d.stride) m
      match toS48 vals with
      | none => ({ SerOut.start 0 0 with status := 6, q := p.q, lam := p.lam, floor := p.floor }, none)
      | some (E, ms, lost) =>
        let o := { SerOut.start E lost with q := p.q, lam := p.lam, floor := p.floor, attempt := 1 }
        let unit := two (E - 47)
        let cols := tab m fun j => tab n fun i => (ms.getD (i * m + j) 0 : Rat) * unit
        let bmax := ratMaxOf (cols.flatMap fun c => c.map ratAbs)
        let bytes (xs : List (List Rat)) : List Byte := (List.range n).flatMap fun i =>
          packElems d.ifmt (xs.map fun c => ((fmtOf d.ifmt).rne (ratFV (c.getD i 0))).1)
        match p.kind with
        | .chol =>
          if p.floor ≤ 0 then ({ o with status := 5 }, none)
          else match expOf 2 (4 * n * (bmax * bmax) / p.floor),
              expOf 2 (4 * n * (bmax * bmax) / (p.floor * p.floor)) with
            | some E1, some E2 =>
              match cols.mapM (solveChol p.mat d.part E1 E2) with
              | some xs => (o, some (bytes xs))
              | none => ({ o.orFlag true 5 with status := 5, guards := 1 }, none)
            | _, _ => ({ o with status := 5 }, none)
        | _ =>
          let rec go : Nat → Nat → SerOut → SerOut × Option (List Byte)
            | 0, _, o => ({ o with status := 5 }, none)
            | left + 1, trips, o =>
              let o := { o with attempt := trips + 1, restarts := trips }
              match expOf 1 (bmax * two (4 + 8 * trips)) with
              | none => ({ o with status := 5 }, none)
              | some E =>
                match cols.mapM (solveLdlt p d.part E) with
                | some xs => (o, some (bytes xs))
                | none => go left (trips + 1) ({ o with guards := o.guards + 1 }.orFlag true 5)
          go d.maxAttempts 0 o

/-! ### Starts (R173) -/

/-- Whether an earlier command of the list still holds back command `ix` on its structure (R173). -/
def State.serBlocked (s : State) (c : ClusterId) (ix : Nat) (d : SerDesc) : Bool :=
  let cl := s.cluster c
  !d.batch && (List.range ix).any fun i =>
    let e := s.serDesc c i
    e.due cl.step.toNat && !e.batch && e.struct == d.struct && !cl.ended.contains i &&
      !(d.opc == 1 && (e.opc == 4 || cl.running.any fun r => r.ix == i && !r.readsW))

/-- What a command's start computes. -/
def State.serRun (s : State) (c : ClusterId) (ix : Nat) (d : SerDesc) : SerRun :=
  let cl := s.cluster c
  let st := cl.struct d.struct
  let z : SMat := ⟨0, 0, []⟩
  let r : SerRun :=
    { ix := ix, d := d, startGtc := s.gtc.count, out := SerOut.start 0 0, input := z, x := z, m := z,
      iterating := false, near := false, readsW := true, feed := none, solved := none, batch := [], batchIn := 0 }
  if d.bad cl then { r with out := { r.out with status := 0xA }, readsW := false }
  else if d.batch then { r with batchIn := d.count, readsW := false }
  else match d.opc with
    | 1 => let f := s.feed d st.w; { r with out := f.1, feed := f.2 }
    | 4 => let f := s.solve d st; { r with out := f.1, solved := f.2, readsW := false }
    | 6 | 7 =>
      let b := rootBegin d st.w 0
      { r with out := b.out, input := st.w, x := b.x, m := b.m, iterating := b.more, readsW := d.opc == 7 }
    | _ => { r with out := factor d st.w 0 }

/-- The deadline boundary of a command, none where it has none (R172, R194). -/
def State.serDeadline (s : State) (c : ClusterId) (d : SerDesc) : Option Int :=
  if d.deadline = 0xFFFFFFFF then none else some (s.baseOf (s.cluster c).step.toNat + d.deadline)

/-- Command `ix` of a cluster's list starts if it may, and if `sel` takes it (R173). -/
def State.serStart (s : State) (c : ClusterId) (ix : Nat) (sel : SerDesc → Bool) : Res :=
  let s1 := s.serSync c
  let cl := s1.cluster c
  let d := s1.serDesc c ix
  let late := match s1.serDeadline c d with | some b => s1.observed b | none => false
  if s1.job.running && !cl.paused && decide (ix < cl.listCount) && sel d && d.due cl.step.toNat &&
      s1.observed (s1.baseOf cl.step.toNat + d.start) && !late && !cl.ended.contains ix &&
      !(cl.running.any fun r => r.ix == ix) && !s1.serBlocked c ix d && (cl.busy &&& d.engmask) == 0 then
    .next (s1.modCluster c fun x => { x with running := x.running ++ [s1.serRun c ix d] })
  else .next s

/-- SERAC FEED; an OPC without a row of its own is taken up here, for its record of DESC_ERR. -/
def execSeracFeed (c : ClusterId) (ix : Nat) (s : State) : Res :=
  s.serStart c ix fun d => !d.batch && (d.opc == 1 || d.opc == 0 || decide (7 < d.opc))
/-- SERAC CHOL. -/
def execSeracChol (c : ClusterId) (ix : Nat) (s : State) : Res := s.serStart c ix fun d => !d.batch && d.opc == 2
/-- SERAC LDLT. -/
def execSeracLdlt (c : ClusterId) (ix : Nat) (s : State) : Res := s.serStart c ix fun d => !d.batch && d.opc == 3
/-- SERAC SOLVE. -/
def execSeracSolve (c : ClusterId) (ix : Nat) (s : State) : Res := s.serStart c ix fun d => !d.batch && d.opc == 4
/-- SERAC INV. -/
def execSeracInv (c : ClusterId) (ix : Nat) (s : State) : Res := s.serStart c ix fun d => !d.batch && d.opc == 5
/-- SERAC ROOT. -/
def execSeracRoot (c : ClusterId) (ix : Nat) (s : State) : Res := s.serStart c ix fun d => !d.batch && d.opc == 6
/-- SERAC SQRT. -/
def execSeracSqrt (c : ClusterId) (ix : Nat) (s : State) : Res := s.serStart c ix fun d => !d.batch && d.opc == 7
/-- A batch (R197). -/
def execSeracBatch (c : ClusterId) (ix : Nat) (s : State) : Res := s.serStart c ix fun d => d.batch

/-! ### Records and publication -/

/-- A result record (R175). -/
def State.serRecord (s : State) (r : SerRun) (o : SerOut) (step : Word) : List Byte :=
  leBytes 2 o.status ++ leBytes 1 r.d.opc ++ leBytes 1 o.flags ++
    leBytes 1 (if r.d.batch then 0xFF else r.d.struct) ++ leBytes 1 (max 1 o.attempt) ++ leBytes 1 o.iter ++ leBytes 1 0 ++
    leBytes 2 (lowBits 16 o.eIn) ++ leBytes 2 (lowBits 16 o.eOut) ++ leBytes 4 o.pividx ++ leBytes 4 o.npiv ++
    leBytes 4 step.toNat ++ leBytes 8 (ratFp64 o.q.dmax).toNat ++ leBytes 8 (ratFp64 o.q.rho).toNat ++
    leBytes 8 (ratFp64 o.q.glo).toNat ++ leBytes 8 (ratFp64 o.q.trace).toNat ++ leBytes 8 (ratFp64 o.lam).toNat ++
    leBytes 8 o.resid.toNat ++ leBytes 8 r.startGtc.toNat ++ leBytes 8 s.gtc.count.toNat ++
    leBytes 4 o.lost ++ leBytes 4 0

/-- A record is written and counted (R199); the lock-step digest takes it with the data written. A record whose
write faults is not written and not counted. -/
def State.serPut (s : State) (c : ClusterId) (r : SerRun) (o : SerOut) (addr : Nat)
    (data : List (Nat × List Byte)) : State :=
  let b := s.serRecord r o (s.cluster c).step
  if s.serWrFault addr b.length then s
  else
  let s := s.serWr addr b
  let dig := s.gtc.lsEn
  s.modCluster c fun x =>
    { x with
      cmds := x.cmds + 1
      partialN := if o.status = 2 then x.partialN + 1 else x.partialN
      abandon := if o.status = 3 then x.abandon + 1 else x.abandon
      restart := x.restart + BitVec.ofNat 64 o.restarts
      guard := x.guard + BitVec.ofNat 64 o.guards
      digest := if dig then x.digest.put none (inOrder (data ++ [(addr, b)])) else x.digest }

/-- All n × n elements of a published matrix in an export format (R193): zeros below a factor's
diagonal. -/
def exportBytes (k : PubKind) (m : SMat) (efp32 : Bool) : List Byte :=
  let c := if efp32 then 1 else 2
  (List.range m.n).flatMap fun i => packElems c ((List.range m.n).map fun j =>
    ((fmtOf c).rne (ratFV ((if k = .sym then m.get i j else m.up i j) * m.unit))).1)

/-- The size Z of an export buffer (R193). -/
def exportSize (n : Nat) (efp32 : Bool) : Nat := cdiv (n * n * (if efp32 then 4 else 2)) 4096 * 4096

/-- The published copy that an outcome leaves (R193). -/
def SerOut.pub (o : SerOut) (r : PubKind × SMat) : Pub := ⟨r.1, r.2, o.low, o.perm, o.two, o.floor, o.lam, o.q⟩

/-- The buffer of an export that is current: the control block's CUR, or that of a switch whose boundary has been
observed. A switch that still waits for its boundary has not made its buffer current (R27, R193). -/
def State.curBuffer (s : State) (c : ClusterId) (dst : Nat) : Nat :=
  match ((s.cluster c).switches.filter fun w => w.dst == dst && s.observed (w.after.toNat / 64 + 1)).getLast? with
  | some w => w.cur
  | none => leNat (s.serRd dst 1) % 2

/-- The control block's 64 bytes that make an exported buffer current (R193). -/
def Switch.bytes (w : Switch) : List Byte :=
  leBytes 1 w.cur ++ leBytes 3 0 ++ leBytes 4 w.step.toNat ++ leBytes 1 w.iter ++ leBytes 1 0 ++ leBytes 2 w.status ++
    leBytes 52 0

/-- Publication (R193): the structure's copy and the export buffer that is not current; the bytes
exported with the control block that will switch to them, and the outcome with its flags. -/
def State.serPublish (s : State) (c : ClusterId) (d : SerDesc) (o : SerOut) :
    State × SerOut × List (Nat × List Byte) :=
  match o.result with
  | none => (s, o, [])
  | some r =>
    let exports := d.exp && r.1 != .ldlt
    let cur := s.curBuffer c d.dst
    let buf := d.dst + 4096 + (1 - cur) * exportSize r.2.n d.efp32
    let b := exportBytes r.1 r.2 d.efp32
    if exports && (s.serRdFault d.dst 64 || s.serWrFault d.dst 64 || s.serWrFault buf b.length) then (s, o.descErr, [])
    else
    let s := s.modCluster c fun x => { x with structs := modAt x.structs d.struct fun t =>
      if t.respub then { t with pub := some (o.pub r) } else t }
    let o := o.orFlag true 0
    if exports then
      let o := o.orFlag true 1
      let s := s.serWr buf b
      let w : Switch := ⟨d.dst, 1 - cur, (s.cluster c).step.setWidth 32, o.iter, o.status, s.gtc.count⟩
      (s.modCluster c fun x => { x with switches := x.switches ++ [w] }, o, [(d.dst, w.bytes), (buf, b)])
    else (s, o, [])

/-- Command `ix` has ended: its engines and its structure are released (R173). -/
def State.serEnd (s : State) (c : ClusterId) (ix : Nat) : State :=
  s.modCluster c fun x => { x with
    running := x.running.filter fun r => r.ix != ix
    ended := x.ended ++ [ix] }

/-- The solution's rows, STRIDE bytes apart (R186). -/
def SerDesc.solRows (d : SerDesc) (row : Nat) (b : List Byte) : List (Nat × List Byte) :=
  ((chunks (b.length / row) row b).zip (List.range (b.length / row))).map fun p => (d.dst + p.2 * d.stride, p.1)

/-- A command that is no batch ends with its outcome: FEED's new W, publication, SOLVE's rows, the
record. -/
def State.serFinish (s : State) (c : ClusterId) (r : SerRun) (o : SerOut) : State :=
  let s := match r.feed with
    | some w => s.modCluster c fun x => { x with structs := modAt x.structs r.d.struct fun t =>
        { t with w := w, fed := true } }
    | none => s
  let rows := match r.solved with
    | some b => r.d.solRows (elemBytes r.d.ifmt r.d.count) b
    | none => []
  let p := (rows.foldl (fun s w => s.serWr w.1 w.2) s).serPublish c r.d o
  let data := p.2.2 ++ rows
  (p.1.serPut c r p.2.1 r.d.recAddr data).serEnd c r.ix

/-- Replace a running command's state. -/
def State.setRun (s : State) (c : ClusterId) (r : SerRun) : State :=
  s.modCluster c fun x => { x with running := x.running.map fun q => if q.ix = r.ix then r else q }

/-- One matrix of a batch from its input to its outcome (R197). -/
def State.batchOne (s : State) (d : SerDesc) (i : Nat) : SerOut :=
  if s.serRdFault (d.src + i * d.stride) (elemBytes d.ifmt (d.border * d.border)) then (SerOut.start 0 0).descErr
  else match s.batchMat d i with
  | none => { SerOut.start 0 0 with status := 6 }
  | some (a, lost) =>
    if 6 ≤ d.opc then (rootAll d a (2 * (d.kmax + 2) * d.maxAttempts) (rootBegin d a lost)).out
    else factor d a lost

/-- The next matrix of a batch is finished: its record, and its output when it has one. -/
def State.batchNext (s : State) (c : ClusterId) (r : SerRun) (cut : Bool) : State × SerRun :=
  let i := r.batch.length
  let o := if cut then { SerOut.start 0 0 with status := 3 } else s.batchOne r.d i
  let data := o.result.map fun m => exportBytes m.1 m.2 r.d.efp32
  let bad := match data with | some b => s.serWrFault (r.d.dst + i * r.d.stride) b.length | none => false
  let o := if bad then o.descErr else o
  let data := if bad then none else data
  let o := match data with | some _ => o.orFlag true 0 | none => o
  let s := match data with
    | some b => s.serWr (r.d.dst + i * r.d.stride) b
    | none => s
  (s.serPut c r o (r.d.recAddr + 96 * i)
    (match data with | some b => [(r.d.dst + i * r.d.stride, b)] | none => []), { r with batch := r.batch ++ [⟨o, data⟩] })

/-- A DLNEAR event (R447): a completion in the slot before the deadline boundary or in the slot that
begins at it, once for a command. -/
def State.dlNear (s : State) (c : ClusterId) (r : SerRun) : State × SerRun :=
  match s.serDeadline c r.d with
  | none => (s, r)
  | some b =>
    if !r.near && (s.slot + 1 == b || s.slot == b) then (s.thawEvent 10, { r with near := true }) else (s, r)

/-- A Serac command, or one of its iterations or batch matrices, completes (R173, R188, R193, R197). -/
def execSeracCommandComplete (c : ClusterId) (ix : Nat) (s : State) : Res :=
  let cl := s.cluster c
  match cl.running.find? fun r => r.ix == ix with
  | none => .next s
  | some r =>
    if cl.paused then .next s
    else
      let n := s.dlNear c r
      let s := n.1
      let r := n.2
      if r.batchIn ≠ 0 then
        let b := s.batchNext c r false
        .next (if r.batchIn ≤ b.2.batch.length then b.1.serEnd c ix else b.1.setRun c b.2)
      else if r.iterating then
        let t := rootStep r.d r.input ⟨r.out, r.x, r.m, true⟩
        let r := { r with out := t.out, x := t.x, m := t.m, iterating := t.more }
        .next (if t.more then s.setRun c r else s.serFinish c r t.out)
      else .next (s.serFinish c r r.out)

/-- The rest of a batch that its deadline cuts: one record for each matrix not written (R197). -/
def State.batchCut (c : ClusterId) : Nat → State × SerRun → State × SerRun
  | 0, p => p
  | n + 1, p => State.batchCut c n (p.1.batchNext c p.2 true)

/-- A command ends with a status and publishes nothing. -/
def State.serStop (s : State) (c : ClusterId) (r : SerRun) (status : Nat) : State :=
  s.serFinish c { r with feed := none, solved := none } { r.out with status := status, result := none, eOut := 0 }

/-- A command observes its deadline boundary (R194 to R196). -/
def execSeracDeadline (c : ClusterId) (ix : Nat) (s : State) : Res :=
  let s1 := s.serSync c
  let cl := s1.cluster c
  let d := s1.serDesc c ix
  match s1.serDeadline c d with
  | none => .next s
  | some b =>
    if !(s1.job.running && decide (ix < cl.listCount) && d.due cl.step.toNat && s1.observed b &&
        !cl.ended.contains ix) then .next s
    else match cl.running.find? fun r => r.ix == ix with
      | none =>
        let z : SMat := ⟨0, 0, []⟩
        let r : SerRun := ⟨ix, d, 0, SerOut.start 0 0, z, z, z, false, false, false, none, none, [], 0⟩
        if d.batch && !d.bad cl then .next ((State.batchCut c d.count (s1, r)).1.serEnd c ix)
        else .next (s1.serStop c r 3)
      | some r =>
        if r.batchIn ≠ 0 then
          .next ((State.batchCut c (r.batchIn - r.batch.length) (s1, r)).1.serEnd c ix)
        else if r.d.opc = 6 ∧ 1 ≤ r.out.iter then
          let e := rootEnd r.d r.input ⟨r.out, r.x, r.m, true⟩ 2 (decide (rootResid r.m ≤ r.d.pubTol))
          .next (s1.serFinish c r e.out)
        else .next (s1.serStop c r 3)

/-- At the first slot boundary after an export write, the control block makes the new buffer current
(R193). -/
def execExportSwitch (c : ClusterId) (s : State) : Res :=
  match (s.cluster c).switches with
  | [] => .next s
  | w :: rest =>
    if s.observed (w.after.toNat / 64 + 1) then
      .next ((s.serWr w.dst w.bytes).modCluster c fun x => { x with switches := rest })
    else .next s

/-- The physical engine that serves a logical one (R20, R167): the enabled set in ascending order, without
the engines the repair journal retired. DESIGN CHOICE (log 138): the numbers follow the ascending order of what is
enabled, so engines behind a retired one shift. -/
def State.physEngine (s : State) (c : ClusterId) (e : Fin 4) : Nat :=
  let bad := s.fuses.badEngines ++ s.integ.applied.filterMap fun r => match r with
    | .engine k => some k
    | _ => none
  (((List.range 5).map fun k => c.val * 5 + k).filter fun k => !bad.contains k).getD e.val (c.val * 5 + e.val)

/-- The physical engine behind a logical engine fails during a command (R167): the command ends
ENGINE_FAULT and the event is reported (R531). -/
def execSeracEngineFault (c : ClusterId) (engine : Fin 4) (s : State) : Res :=
  let cl := s.cluster c
  match cl.running.find? fun r => r.d.engmask.getLsbD engine.val with
  | none => .next s
  | some r =>
    let phys := s.physEngine c engine
    let s := s.modCluster c fun x => { x with engFault := x.engFault ||| BitVec.ofNat 4 (2 ^ engine.val) }
    let s := if r.batchIn ≠ 0 then
        -- the matrices not finished get a record of their own (R197)
        let p := (List.range (r.batchIn - r.batch.length)).foldl (fun s i =>
          s.serPut c r { SerOut.start 0 0 with status := 0xB } (r.d.recAddr + 96 * (r.batch.length + i)) []) s
        p.serEnd c r.ix
      else s.serStop c r 0xB
    let e := s.report 0x0032 .engine phys (BitVec.ofNat 64 c.val) (BitVec.ofNat 64 phys)
    .next { e.1 with integ := { e.1.integ with waiting := e.1.integ.waiting ++ [e.2] } }

/-- Every running command of a cluster ends CANCELLED (R176). -/
def State.serCancel (s : State) (c : ClusterId) : State :=
  (s.cluster c).running.foldl (fun s r =>
    if r.batchIn ≠ 0 then
      ((List.range (r.batchIn - r.batch.length)).foldl (fun s i =>
        s.serPut c r { SerOut.start 0 0 with status := 0xC } (r.d.recAddr + 96 * (r.batch.length + i)) []) s).serEnd
          c r.ix
    else s.serStop c r 0xC) s

end Sys2Proof.Machine
end

