-- ==== Sys2Proof/Machine/Integrity.lean ====
section
/-!
DEFINITION. Silent errors (R512 to R534): classification, probation, drain and retirement, self-tests,
the test window, and weight digests.
-/
namespace Sys2Proof.Machine

/-! ### SMC orders -/

/-- The SMC stops the job with a cause code (R528, R599): an order ABORT_JOB enters the ingress
serialiser (R495), its cause in argument bytes 0 and 1. -/
def State.smcStop (s : State) (cause : Nat) : State :=
  if s.job.image.isNone then s
  else
    let c : Cmd := {
      handle := s.ouvzu.nextCmd, sqid := 0xFFFF, port := none
      raw := 0x13#8 :: List.replicate 7 0 ++ leBytes 2 cause ++ List.replicate 54 0
      sqhead := 0, cycle := s.gtc.count, stage := .fetched, cancel := false, aborter := []
      lom := none }
    { s with ouvzu := { s.ouvzu with cmds := s.ouvzu.cmds ++ [c], nextCmd := s.ouvzu.nextCmd + 1 } }

/-! ### Classification and its actions (R523 to R527) -/

/-- A classified event: permanent or transient, and the unit at fault (none: the chip). -/
structure Verdict where
  ev    : Event
  perm  : Bool
  blame : Option Repair
  deriving DecidableEq, Repr

/-- The repair-journal unit of a tested unit (R529); none for the chip and for units without spares. -/
def repairOf (k : UnitKind) (ix : Nat) : Option Repair :=
  match k with
  | .tile => some (.tile ix)
  | .column => some (.column (ix / 264) (ix % 264))
  | .engine => some (.engine ix)
  | .pseudoChannel => some (.pseudo (ix / 64) (ix % 64))
  | _ => none

/-- Whether a physical engine is out of use. -/
def State.engineBad (s : State) (p : Nat) : Bool := s.fuses.badEngines.contains p || s.journalled (.engine p)

/-- Whether a column of a physical tile is out of use. -/
def State.columnBad (s : State) (p c : Nat) : Bool :=
  s.fuses.badColumns.contains (p, c) || s.journalled (.column p c)

/-- Bad columns of a physical tile. -/
def State.badColumnCount (s : State) (p : Nat) : Nat := ((List.range 264).filter fun c => s.columnBad p c).length

/-- The presented width for a count of bad columns (R98). -/
def widthOf (bad : Nat) : Nat := min 256 (264 - 8 * cdiv bad 8)

/-- Whether a physical tile is out of use, by the fuse map, the journal or its width (R99). -/
def State.tileBad (s : State) (p : Nat) : Bool :=
  s.fuses.badTiles.contains p || s.journalled (.tile p) || decide (widthOf (s.badColumnCount p) < 192)

/-- Good tiles among the 17 of a quadrant. -/
def State.goodTiles (s : State) (q : Nat) : Nat :=
  ((List.range 17).filter fun i => !s.tileBad (17 * q + i)).length

/-- Good engines among the five of a cluster. -/
def State.goodEngines (s : State) (c : Nat) : Nat :=
  ((List.range 5).filter fun i => !s.engineBad (5 * c + i)).length

/-- Whether a unit has a usable spare now (R529). -/
def State.spareFor (s : State) : Repair → Bool
  | .tile p => decide (17 ≤ s.goodTiles (p / 17))
  | .engine p => decide (5 ≤ s.goodEngines (p / 5))
  | .column p _ => decide (s.badColumnCount p < 8)
  | .pseudo k _ => decide ((s.retiredPcs k).length < 2)
  | _ => false

/-- Whether powered time lies within the probation window (R525). -/
def State.inProbation (s : State) : Bool :=
  s.integ.state == 1 && decide (s.boot.ptime.toNat ≤ s.integ.probstart.toNat + 259200)

/-- The action row of R525 for a verdict: 1 probation, 2 retire, 3 drain. -/
def State.actionRow (s : State) (v : Verdict) : Nat :=
  if s.inProbation then 3
  else if v.perm then
    match v.blame with
    | some r => if s.spareFor r then 2 else 3
    | none => 3
  else 1

/-- Enter probation (R525). -/
def State.enterProbation (s : State) (seq : BitVec 32) : State :=
  let s := { s with integ := { s.integ with
    state := 1, inttest := 100, probstart := s.boot.ptime, histProb := some s.boot.ptime } }
  (s.report 0x0040 .chip 0 (seq.setWidth 64) 0).1

/-- Drain the chip (R527). -/
def State.drain (s : State) (seq : BitVec 32) : State :=
  let s := (s.smcStop 0x32).recordRepair .drained
  let s := { s with integ := { s.integ with state := 2 } }
  (s.report 0x0042 .chip 0 (seq.setWidth 64) 0).1

/-- A journal entry within the last 30 days of powered time (R524). -/
def State.recentConfirmed (s : State) : Bool :=
  s.integ.confirmed.any fun c => decide (s.boot.ptime.toNat ≤ c.ptime.toNat + 2592000)

/-- R524: a transient outcome attributed to the chip takes the journal's verdict. -/
def State.journalVerdict (s : State) (v : Verdict) : Verdict :=
  if !v.perm && v.blame.isNone && s.recentConfirmed then { v with perm := true } else v

/-- Record a verdict's unit for retirement. -/
def State.retireUnit (s : State) (v : Verdict) : State :=
  match v.perm, v.blame with
  | true, some (.pseudo k pc) => s.retirePc k pc
  | true, some r => s.recordRepair r
  | _, _ => s

/-- A column found bad is recorded in the repair journal whatever else follows (R100). -/
def State.recordColumn (s : State) (v : Verdict) : State :=
  match v.perm, v.blame with
  | true, some (.column p c) => s.recordRepair (.column p c)
  | _, _ => s

/-- Verdicts reached together count as one confirmed event and take the highest row's action (R525,
R526); on a drained chip they are journalled only. -/
def State.act (s : State) (vs : List Verdict) : State :=
  match vs.map s.journalVerdict with
  | [] => s
  | v :: rest =>
    let all := v :: rest
    let drained := s.integ.state == 2
    let row := if drained then 0 else (all.map s.actionRow).foldl max 0
    let s := { s with integ := { s.integ with
      confirmed := s.integ.confirmed ++ [⟨s.boot.ptime, v.ev.code⟩] } }
    let s := all.foldl (fun s v => s.sendReport v.ev (if v.perm then 2 else 1) row) s
    let s := all.foldl State.recordColumn s
    if row = 3 then s.drain v.ev.seq
    else if row = 2 then ((all.foldl State.retireUnit s).smcStop 0x31).enterProbation v.ev.seq
    else if row = 1 then s.enterProbation v.ev.seq
    else s

/-! ### Self-tests (R519 to R522) -/

/-- Every failed unit test is counted and reported (R519, R531), with its verdict. -/
def State.reportFailures (s : State) (l : List TestFailure) : State × List Verdict :=
  l.foldl (fun a f =>
    let n := if f.again then 2 else 1
    let s := { a.1 with integ := { a.1.integ with stfail := a.1.integ.stfail + n } }
    let r := s.report 0x0030 f.kind f.index.toNat f.number (if f.again then 1 else 0)
    (r.1, a.2 ++ [⟨r.2, f.again, repairOf f.kind f.index.toNat⟩])) (s, [])

/-- A self-test is counted. -/
def State.countTest (s : State) : State :=
  { s with integ := { s.integ with struns := s.integ.struns + 1 } }

/-- The classification of a waiting event by a full self-test or a reread between jobs (R523). -/
def State.classify (s : State) (failed : List TestFailure) (e : Event) : Verdict :=
  let twice := failed.filter (·.again)
  if e.code == 0x0002 then
    let pc := e.uindex.toNat
    let again := failed.any fun f => f.kind == .pseudoChannel && f.number == e.d0
    let second := decide (2 ≤ ((s.hbm.toList.getD (pc / 64) .reset).uePcs.filter (· == pc % 64)).length)
    ⟨e, again || second, some (.pseudo (pc / 64) (pc % 64))⟩
  else if e.code == 0x0032 then
    ⟨e, twice.any fun f => f.kind == .engine && f.index.toNat == e.d1.toNat, some (.engine e.d1.toNat)⟩
  else if e.code == 0x0031 then ⟨e, !twice.isEmpty, none⟩
  else match twice with
    | f :: _ => ⟨e, true, repairOf f.kind f.index.toNat⟩
    | [] => ⟨e, false, none⟩

/-- A line that a reread finds clean has been rewritten: its mark is gone, its bytes unspecified. -/
def State.rereadClean (s : State) (v : Verdict) : State :=
  if v.ev.code == 0x0002 && !v.perm then s.wrFree v.ev.d0.toNat 128 else s

/-- The classification of an event whose repeat cannot run: transient, unless the journal says otherwise (R524). -/
def Event.unexamined (e : Event) : Verdict := ⟨e, false, none⟩

/-- A full self-test (R522): the events that wait for it are classified with what it finds (R523), those whose repeat
cannot run by the journal (R524). -/
def State.fullTest (s : State) (failed : List TestFailure) : State :=
  let r := s.countTest.reportFailures failed
  let w := r.1.integ.waiting.map (r.1.classify failed)
  let l := r.1.integ.lost.map Event.unexamined
  let s := { r.1 with integ := { r.1.integ with waiting := [], lost := [] } }
  let s := w.foldl State.rereadClean s
  s.act (w ++ l ++ r.2)

/-- The integrity declaration in force. -/
def State.integDecl (s : State) : Option IntegDecl := s.job.image.bind (·.integ)

/-- Whether a full self-test may run (R522): no job is admitted; or, on a chip in probation, the admitted image gets no
in-job self-tests and its job waits to launch, after its admission or a quiesce. -/
def State.mayTest (s : State) : Bool :=
  s.job.image.isNone ||
    (s.integ.state == 1 && !s.job.launched && s.job.pending.isNone &&
      (match s.integDecl with | some i => i.testlen == 0 | none => true))

/-- A full self-test (R522). -/
def execSelftestFull (failed : List TestFailure) (s : State) : Res :=
  .next (if s.mayTest then s.fullTest failed else s)

/-- An in-job self-test in the test window of a step that tests (R520): state is saved to TESTSAVE,
whose bytes the manual gives no layout, and restored. -/
def execSelftestInjob (failed : List TestFailure) (s : State) : Res :=
  match s.integDecl with
  | some i =>
    if s.job.running && s.integ.testOn && !s.integ.testRun &&
        s.job.step.toNat % s.integ.inttest.toNat == 0 then
      let s := s.wrFree i.testsave 0x400_0000
      let r := s.countTest.reportFailures failed
      let s := { r.1 with integ := { r.1.integ with testRun := true } }
      .next (s.act r.2)
    else .next s
  | none => .next s

/-- Every cluster pauses its running commands, or resumes them. -/
def State.pauseClusters (s : State) (b : Bool) : State :=
  { s with clusters := s.clusters.map fun c => { c with paused := b } }

/-- The test window begins (R521): running Serac commands pause. -/
def execTestWindowStart (s : State) : Res :=
  match s.integDecl with
  | some i =>
    let from_ := s.baseSlot + i.teststart
    if s.job.running && decide (0 < i.testlen) && !s.integ.testOn && s.observed from_ &&
        !s.observed (from_ + i.testlen) then
      .next ({ s with integ := { s.integ with testOn := true } }.pauseClusters true)
    else .next s
  | none => .next s

/-- The test window ends (R521): paused Serac commands resume, unless a capture pauses them (R536). -/
def execTestWindowEnd (s : State) : Res :=
  match s.integDecl with
  | some i =>
    if s.integ.testOn && s.observed (s.baseSlot + i.teststart + i.testlen) then
      let s := { s with integ := { s.integ with testOn := false, testRun := false } }
      .next (s.pauseClusters (decide (2 ≤ s.ckpt.state.toNat)))
    else .next s
  | none => .next s

/-- The 72-hour window ends with no further confirmed event (R525). -/
def execProbationExpire (s : State) : Res :=
  if s.integ.state == 1 && !s.inProbation then
    let s := { s with integ := { s.integ with state := 0, inttest := 10000, histProb := none } }
    .next (s.report 0x0041 .chip 0 0 0).1
  else .next s

/-! ### Weight digests (R513 to R518) -/

/-- W of R513. -/
def IntegDecl.interval (i : IntegDecl) : Nat := if i.w = 0 then 4 else i.w

/-- The RDIGEST a digested instance left in a step. -/
def Integ.rdigest (g : Integ) (t id : Nat) : Option Word :=
  (g.wdLog.find? fun e => e.1.toNat == t && e.2.1 == id).map fun e => e.2.2

/-- The byte string of an interval that ends with step `t` (R515). -/
def State.wdBytes (s : State) (i : IntegDecl) (t : Nat) : List Byte :=
  let w := i.interval
  let ids := (List.range 4096).filter i.digids.contains
  (List.range w).flatMap fun k => ids.flatMap fun id =>
    match s.integ.rdigest (t + 1 + k - w) id with
    | some d => leBytes 8 d.toNat
    | none => []

/-- The interval's digest record is written once the last digested instance of its last step has
written its own (R515). -/
def execWdRecord (s : State) : Res :=
  match s.integDecl with
  | some i =>
    let w := i.interval
    let n := (s.job.step.toNat + 1) / w * w
    if n = 0 then .next s
    else
      let t := n - 1
      let fresh := match s.integ.wdLast with | some l => l.1.toNat != t | none => true
      if fresh && i.digids.all fun id => (s.integ.rdigest t id).isSome then
        let wd := crc64 (s.wdBytes i t)
        let s := s.hbmWr i.wdaddr (leBytes 8 t ++ leBytes 8 wd.toNat ++
          leBytes 4 s.routers[0].self.toNat ++ List.replicate 12 0)
        .next { s with integ := { s.integ with
          wdLast := some (BitVec.ofNat 64 t, wd)
          wdLog := s.integ.wdLog.filter fun e => t < e.1.toNat } }
      else .next s
  | none => .next s

/-- The value that more than half of a list holds, if any. -/
def majority (l : List Nat) : Option Nat := l.find? fun v => decide (l.length < 2 * l.count v)

/-- The collective whose result is the gathered array: WDCOLL, or with several pods the one after it. -/
def Image.gatherDecl (im : Image) (i : IntegDecl) : Option (Nat × CollDecl) :=
  let id := if 1 < im.topo.pods.length then i.wdcoll + 1 else i.wdcoll
  ((List.range im.colls.length).zip im.colls).find? fun d => d.2.id == id

/-- The verdict's counters and register (R516, R532, R534). -/
def State.setVerdict (s : State) (v : BitVec 2) : State :=
  { s with integ := { s.integ with
    lastv := v
    wdcmp := if v = 1 then s.integ.wdcmp + 1 else s.integ.wdcmp
    wdmism := if v = 1 then s.integ.wdmism else s.integ.wdmism + 1 } }

/-- A suspect's event waits for a full self-test (R523). -/
def State.suspect (s : State) (e : Event) : State :=
  { s with integ := { s.integ with waiting := s.integ.waiting ++ [e] } }

/-- After the digest gather completed OK, the CP compares the records and acts (R516). -/
def execWdCompare (s : State) : Res :=
  match s.job.image, s.integDecl, s.integ.wdLast with
  | some im, some i, some (t, own) =>
    match im.gatherDecl i with
    | none => .next s
    | some (ix, d) =>
      let done := s.job.colls.any fun c => c.ix == ix && c.ended == some 0 && c.step == t + 1
      if !done then .next s
      else
        let self := s.routers[0].self
        let q := im.topo.pods.length
        let nx := if im.topo.t = 8 then 2 else 1
        let wds := tab (q * im.topo.dx) fun k => leNat (s.serRd (d.dst + 32 * k + 8) 8)
        let me := bits self 0 5 / nx * q + im.topo.pods.idxOf (bits self 15 12)
        let mine := wds.getD me 0
        if wds.all fun v => v == wds.headD 0 then .next (s.setVerdict 1)
        else match majority wds with
          | some m =>
            let s := s.setVerdict 2
            let s :=
              if mine != m then
                let r := s.report 0x0020 .chip 0 t own
                r.1.suspect r.2
              else if wds.idxOf m == me then
                (s.report 0x0021 .chip 0 t (BitVec.ofNat 64
                  ((wds.length - wds.count m) * 2 ^ 32 + wds.findIdx fun v => v != m))).1
              else s
            .next (s.smcStop 0x30)
          | none =>
            let r := (s.setVerdict 3).report 0x0022 .chip 0 t own
            let s := if me == 0 || mine != wds.headD 0 then r.1.suspect r.2 else r.1
            .next (s.smcStop 0x30)
  | _, _, _ => .next s

end Sys2Proof.Machine
end

