-- ==== Sys2Proof/WellFormed.lean ====
section
/-!
DEFINITION. Which commands are well formed: the lists an operand carries have the lengths the
manual gives them. Everything else an operand's type already bounds.
-/
namespace Sys2Proof

/-- A frame's payload is 600 bytes (R345). -/
def Frame.WellFormed (f : Frame) : Bool := f.payload.length == 600

/-- A packet's payload is 0 to 1,024 bytes, a multiple of 16, and it has one mask for each bit of
AXM (R379). -/
def Packet.WellFormed (p : Packet) : Bool :=
  p.payload.length ≤ 1024 && p.payload.length % 16 == 0 &&
    p.masks.length == (if p.ctl.getLsbD 4 then 1 else 0) + (if p.ctl.getLsbD 5 then 1 else 0) +
      (if p.ctl.getLsbD 6 then 1 else 0)

/-- A thermal sample has 15 die sensors and eight stacks (R572, R577). -/
def Temps.WellFormed (t : Temps) : Bool := t.die.length == 15 && t.hbm.length == 8

/-- The checks on a command's operands. -/
def Instr.WellFormed (i : Instr) : Bool :=
  match i with
  | .frameData _ f | .frameIdle _ f | .frameTime _ f _ _ | .frameDown _ f => f.WellFormed
  | .credit _ _ counts => counts.length == 8
  | .routerForward _ _ p | .multicastInject _ p | .unschedInject _ p => p.WellFormed
  | .collData _ _ p | .collDigest _ _ p | .collAbort _ _ p => p.WellFormed
  | .msgArrive m => m.pkt.WellFormed
  | .lomRelay p => p.WellFormed
  | .ouvzuOrder _ cmd => cmd.length == 64
  | .norWrite _ _ data => data.length ≤ 1014
  | .spiTargetWrite _ words _ => words.length ≤ 64
  | .spiTargetRead _ count _ => count ≤ 64
  | .thermalSample t => t.WellFormed
  | _ => true

end Sys2Proof
end

