-- ==== Sys2Proof/Machine/Router.lean ====
section
/-!
DEFINITION. The routers (R375 to R401): packets as bytes, unicast and multicast routing, virtual
channels, injection, arbitration.
-/
namespace Sys2Proof.Machine

/-! ### Packets (R379) -/

/-- CLASS: 0 scheduled, 1 unscheduled, 2 collective, 3 management. -/
def pktClass (p : Packet) : Nat := p.ctl.toNat % 4

/-- VCB. -/
def pktVcb (p : Packet) : Bool := p.ctl.getLsbD 2

/-- PSEL. -/
def pktPsel (p : Packet) : Bool := p.ctl.getLsbD 3

/-- AXM. -/
def pktAxm (p : Packet) : Nat := bits p.ctl 4 3

/-- EPOCH. -/
def pktEpoch (p : Packet) : BitVec 4 := p.ept.setWidth 4

/-- TYPE. -/
def pktType (p : Packet) : Nat := p.ept.toNat / 16

/-- The destination chip. -/
def pktDst (p : Packet) : ChipAddr := p.dst.setWidth 27

/-- The source chip. -/
def pktSrc (p : Packet) : ChipAddr := p.src.setWidth 27

/-- `p` with its VCB replaced. -/
def pktSetVcb (p : Packet) (b : Bool) : Packet := { p with ctl := setBits p.ctl 2 1 b.toNat }

/-- `p` with its PSEL replaced. -/
def pktSetPsel (p : Packet) (b : Bool) : Packet := { p with ctl := setBits p.ctl 3 1 b.toNat }

/-- A packet's bytes in the stream. -/
def pktBytes (p : Packet) : List Byte :=
  let m := p.masks.flatMap fun w => leBytes 4 w.toNat
  leBytes 4 p.dst.toNat ++ leBytes 4 p.src.toNat ++ [p.ctl, p.ept] ++ leBytes 2 p.payload.length ++
    leBytes 4 p.tag.toNat ++ m ++ List.replicate (cdiv m.length 16 * 16 - m.length) 0 ++ p.payload

/-- Credits of 64 bytes a packet occupies; the masks count with their padding. -/
def pktCredits (p : Packet) : Nat := cdiv (pktBytes p).length 64

/-- The mask of an axis (0 X, 1 Y, 2 Z), none where AXM has none. -/
def pktMask (p : Packet) (axis : Nat) : Option (BitVec 32) :=
  if (pktAxm p).testBit axis then
    p.masks[((List.range axis).filter fun a => (pktAxm p).testBit a).length]?
  else none

/-! ### Addresses and ports (R4, R21, R341, R376) -/

/-- A torus coordinate of an address: axis 0 X, 1 Y, 2 Z. -/
def coord (a : ChipAddr) (axis : Nat) : Nat := bits a (5 * axis) 5

/-- The pod of an address. -/
def podOf (a : ChipAddr) : Nat := bits a 15 12

/-- The cube index (R4). -/
def cubeIx (a : ChipAddr) : Nat := coord a 0 % 2 + 2 * (coord a 1 % 2) + 4 * (coord a 2 % 2)

/-- The port of an axis, a direction (true for +) and a PSEL (R21, R341). -/
def torusPort (axis : Nat) (plus psel : Bool) : PortId :=
  let i := 2 * axis + psel.toNat
  if plus then (if h : 10 + i < 20 then ⟨10 + i, h⟩ else 10) else (if h : i < 20 then ⟨i, h⟩ else 0)

/-- The cube port Ck (R21). -/
def cubePort (k : Nat) : PortId :=
  match k with
  | 1 => 6
  | 2 => 7
  | 3 => 8
  | 4 => 9
  | 5 => 16
  | 6 => 17
  | _ => 18

/-- The chain port H. -/
def hPort : PortId := 19

/-- The axis and sign of a torus port; none for a cube or chain port. -/
def portAxis (p : PortId) : Option (Nat × Bool) :=
  if p.val < 6 then some (p.val / 2, false)
  else if 10 ≤ p.val ∧ p.val < 16 then some ((p.val - 10) / 2, true)
  else none

/-- The die that carries a port (R21). -/
def portDie (p : PortId) : Die := if p.val < 10 then .west else .east

/-! ### Topology as a router holds it (R399) -/

/-- E of an axis. -/
def Router.extent (r : Router) (axis : Nat) : Nat := bits r.topo (5 * axis) 5 + 1

/-- Whether an axis is OPEN. -/
def Router.isOpen (r : Router) (axis : Nat) : Bool := bitOf r.topo (15 + axis)

/-- DL of an axis. -/
def Router.dateLine (r : Router) (axis : Nat) : Nat := bits r.topo (18 + 5 * axis) 5

/-- The direction from coordinate `a` to `b` (R381): true for +. -/
def Router.plus (r : Router) (axis a b : Nat) : Bool :=
  if r.isOpen axis then decide (a < b)
  else
    let e := r.extent axis
    let d := (b + e - a) % e
    if d < e - d then true else if e - d < d then false else a % 2 == 0

/-- Whether a hop from coordinate `a` crosses the axis's date line (R387). -/
def Router.crosses (r : Router) (axis a : Nat) (plus : Bool) : Bool :=
  !r.isOpen axis && (if plus then (a + 1) % r.extent axis == r.dateLine axis else a == r.dateLine axis)

/-- The VCB of a hop on an axis: 0 as the packet enters the axis, 1 from its date line on (R386). -/
def Router.hopVcb (r : Router) (pkt : Packet) (input : RouterInput) (axis : Nat) (plus : Bool) : Bool :=
  let kept := match input with
    | .port p => (match portAxis p with | some (a, _) => a == axis && pktVcb pkt | none => false)
    | .network => false
  kept || r.crosses axis (coord r.self axis) plus

/-- Whether an address lies in the declared extents. -/
def Router.inExtents (r : Router) (a : ChipAddr) : Bool :=
  [0, 1, 2].all fun i => decide (coord a i < r.extent i)

/-! ### Unicast (R380, R383, R384) -/

/-- What a router does with a packet: deliver it, queue it at ports with a VCB each, or drop it. -/
inductive Route where
  | deliver
  | send (l : List (PortId × Bool))
  | drop
  deriving DecidableEq, Repr

/-- Whether a port is ACTIVE. -/
def LPort.active (p : LPort) : Bool := p.state == .active || p.state == .swap

/-- Whether a port has lost its partner, or has not found one since (R383's LOST): a port that retrains has not. -/
def LPort.gone (p : LPort) : Bool := !p.active && !p.retraining

/-- Whether RTR_PORTEN of the router that carries a port marks it in service. -/
def State.inService (s : State) (p : PortId) : Bool := (s.router (portDie p)).porten.getLsbD p.val

/-- The torus port that an unscheduled packet takes (R383): the selected one in service and neither LOST nor HELD,
else the other of the pair if that is in service and ACTIVE; otherwise it is held at the one in service. -/
def State.unschedPort (s : State) (p q : PortId) : Option PortId :=
  let free (k : PortId) : Bool := (s.port k).active && !(s.port k).held
  match s.inService p, s.inService q with
  | false, false => none
  | false, true => some q
  | true, false => some p
  | true, true => if ((s.port p).gone || (s.port p).held) && free q then some q else some p

/-- The torus port that a management packet takes (R383): the selected one unless it is LOST and the other of the
pair is not. -/
def State.mgmtPort (s : State) (p q : PortId) : PortId :=
  if (s.port p).gone && (s.port q).active then q else p

/-- The torus hop of R380 step 3 with R383 and R384. -/
def State.torusRoute (s : State) (r : Router) (pkt : Packet) (input : RouterInput) : Route :=
  let cls := pktClass pkt
  match [0, 1, 2].find? fun i => coord (pktDst pkt) i != coord r.self i with
  | none => .drop
  | some axis =>
    let plus := r.plus axis (coord r.self axis) (coord (pktDst pkt) axis)
    let p := torusPort axis plus (pktPsel pkt)
    let q := torusPort axis plus (!pktPsel pkt)
    let v := r.hopVcb pkt input axis plus
    if cls == 3 then .send [(s.mgmtPort p q, v)]
    else if cls == 1 then
      match s.unschedPort p q with
      | some k => .send [(k, v)]
      | none => .drop
    else if s.inService p then .send [(p, v)]
    else .drop

/-- The route of a unicast packet at a router (R380, R383, R384). -/
def State.unicast (s : State) (r : Router) (pkt : Packet) (input : RouterInput) : Route :=
  let d := pktDst pkt
  let cls := pktClass pkt
  if d == r.self then .deliver
  else if podOf d != podOf r.self then
    if r.hpeer == some d && pktSrc pkt == r.self && (cls == 3 || s.inService hPort) then .send [(hPort, false)]
    else .drop
  else if !r.inExtents d then .drop
  else if [0, 1, 2].all fun i => coord d i / 2 == coord r.self i / 2 then
    let p := cubePort (cubeIx d ^^^ cubeIx r.self)
    let lost := (s.port p).gone || (cls == 1 && ((s.port p).held || !s.inService p))
    if (cls == 1 || cls == 3) && lost then s.torusRoute r pkt input else .send [(p, false)]
  else s.torusRoute r pkt input

/-! ### Multicast (R389 to R391) -/

/-- The target coordinates of an axis: those of its mask, or the one DST gives. -/
def Router.targets (r : Router) (pkt : Packet) (axis : Nat) : List Nat :=
  match pktMask pkt axis with
  | some m => (List.range (r.extent axis)).filter (bitOf m)
  | none => [coord (pktDst pkt) axis]

/-- Hops from coordinate `a` to `b` in a direction. -/
def Router.dist (r : Router) (axis a b : Nat) (plus : Bool) : Nat :=
  let e := r.extent axis
  if plus then (b + e - a) % e else (a + e - b) % e

/-- Whether a branch that left coordinate `from_` in a direction goes on past coordinate `here`. -/
def Router.branchOn (r : Router) (pkt : Packet) (axis from_ here : Nat) (plus : Bool) : Bool :=
  (r.targets pkt axis).any fun t =>
    t != from_ && r.plus axis from_ t == plus && decide (r.dist axis from_ here plus < r.dist axis from_ t plus)

/-- One branch's hop. -/
def Router.branchHop (r : Router) (pkt : Packet) (input : RouterInput) (axis : Nat) (plus : Bool) : PortId × Bool :=
  (torusPort axis plus (pktPsel pkt), r.hopVcb pkt input axis plus)

/-- The branches and the delivery that start at this chip from an axis on: the hops, and whether a
copy is delivered here. -/
def Router.treeFrom (r : Router) (pkt : Packet) (axis : Nat) : List (PortId × Bool) × Bool :=
  ([0, 1, 2].filter (axis ≤ ·)).foldl (fun a i =>
    if !a.2 then a
    else
      let here := coord r.self i
      let hops := [true, false].filterMap fun plus =>
        if r.branchOn pkt i here here plus then some (r.branchHop pkt .network i plus) else none
      (a.1 ++ hops, (r.targets pkt i).contains here)) ([], true)

/-- The hops of a multicast packet at this chip, and whether a copy is delivered here (R390): at the
source all axes; on a branch the rest of the branch, and at a target the next axes. -/
def Router.tree (r : Router) (pkt : Packet) (input : RouterInput) : List (PortId × Bool) × Bool :=
  match input with
  | .network => r.treeFrom pkt 0
  | .port p =>
    match portAxis p with
    | none => ([], false)
    | some (axis, sign) =>
      let plus := !sign
      let here := coord r.self axis
      let on := if r.branchOn pkt axis (coord (pktSrc pkt) axis) here plus then
        [r.branchHop pkt input axis plus] else []
      if (r.targets pkt axis).contains here then
        let n := r.treeFrom pkt (axis + 1)
        (on ++ n.1, n.2)
      else (on, false)

/-- Whether a multicast packet may be injected (R389). -/
def Router.mcastOk (r : Router) (pkt : Packet) : Bool :=
  (pktClass pkt == 0 || pktClass pkt == 2) && podOf (pktDst pkt) == podOf (pktSrc pkt) &&
    [0, 1, 2].all fun i => match pktMask pkt i with
      | some m => decide (m.toNat < 2 ^ r.extent i)
      | none => !(pktAxm pkt).testBit i

/-! ### Queues -/

/-- A frame that takes the next FSEQ: it carries the FSEQ last accepted as its ACKSEQ, goes out on logical lane
FSEQ mod w, and stays in the replay buffer (R347, R348, R351). -/
def LPort.emit (x : LPort) (ty : FrameType) (first : BitVec 10) (payload : List Byte) : LPort :=
  let f : TxFrame := ⟨ty, x.txSeq, first, 0, 0, payload, x.rxSeq - 1, [x.txSeq.toNat % x.width.toNat]⟩
  { x with txSeq := x.txSeq + 1, replayBuf := x.replayBuf ++ [f], outbox := x.outbox ++ [f] }

/-- A frame outside the sequence, on every active lane, with the next FSEQ in its header (R349, R367). -/
def LPort.onAllLanes (x : LPort) (ty : FrameType) (payload : List Byte) : TxFrame :=
  ⟨ty, x.txSeq, 0x3FF, 0, 0, payload, x.rxSeq - 1, List.range x.width.toNat⟩

/-- A CTRL frame with one message is sent, and repeated until it is acknowledged (R349). -/
def LPort.emitCtl (x : LPort) (m : List Byte) : LPort :=
  let f := x.onAllLanes .ctrl (m ++ List.replicate (600 - m.length) 0)
  { x with ctlPend := x.ctlPend ++ [f], outbox := x.outbox ++ [f] }

/-- Whether a port's transmitter sends stream bytes: not while a substitution or a width change waits for the
partner's ALIGN_DONE (R362 step 4). -/
def LPort.carries (x : LPort) : Bool :=
  x.state == .active || (x.state == .swap && match x.swapOp with | some o => o.peerDone | none => false)

/-- Return credits for a packet that has left an input buffer: a CREDIT message to the partner (R349,
R388). -/
def State.returnCredits (s : State) (p : PortId) (vc n : Nat) : State :=
  s.modPort p fun x => x.emitCtl (0x07#8 :: tab 8 fun i => if i = vc then BitVec.ofNat 8 n else 0)

/-- The virtual channel a packet arrived on. -/
def arrivalVc (pkt : Packet) : Nat := 2 * pktClass pkt + (pktVcb pkt).toNat

/-- A packet is queued at each port of a list. -/
def State.enqueue (s : State) (pkt : Packet) (input : RouterInput) (l : List (PortId × Bool)) : State :=
  let n := s.takeFree
  let inIx := match input with | .port p => p.val | .network => 20
  l.foldl (fun s h => s.modPort h.1 fun x =>
    let vc : Fin 8 := ⟨2 * pktClass pkt + h.2.toNat, by
      have := Nat.mod_lt pkt.ctl.toNat (show 0 < 4 by decide)
      unfold pktClass; cases h.2 <;> simp <;> omega⟩
    { x with queues := x.queues.set vc (x.queues[vc] ++ [⟨pkt, h.2, inIx, arrivalVc pkt, n.1⟩]) }) n.2

/-- A packet is discarded: its counter and a status bit. -/
def State.dropPkt (s : State) (d : Die) (f : Router → Router) : State :=
  s.modRouter d fun r => { f r with drops := r.drops + 1 }

/-- A route error (R384): the header goes to the SMC, which reports it. -/
def State.routeError (s : State) (d : Die) (pkt : Packet) : State :=
  let s := s.dropPkt d fun r => { r with routeErr := true }
  let h := pktBytes pkt
  (s.report Config.routeEvent .chip 0 (BitVec.ofNat 64 (leAt h 0 8)) (BitVec.ofNat 64 (leAt h 8 8))).1

/-- A packet is delivered to the on-die network. -/
def State.deliverPkt (s : State) (d : Die) (pkt : Packet) : State :=
  s.modRouter d fun r => { r with delivered := r.delivered ++ [pkt], pkts := r.pkts + 1 }

/-- The buffer space of an input is freed at once when a packet goes nowhere but here. -/
def State.freeInput (s : State) (input : RouterInput) (pkt : Packet) : State :=
  match input with
  | .port p => s.returnCredits p (arrivalVc pkt) (pktCredits pkt)
  | .network => s

/-- Whether a router accepts a packet (R398). -/
def Router.accepts (r : Router) (pkt : Packet) : Bool := pktClass pkt == 3 || pktEpoch pkt == r.epoch

/-- The other link die. -/
def otherDie : Die → Die
  | .west => .east
  | .east => .west

/-- A packet at die `d` goes on to ports: to those of the other die through that die's router, which checks its
epoch too (R21, R398). -/
def State.sendOn (s : State) (d : Die) (input : RouterInput) (pkt : Packet) (l : List (PortId × Bool)) : State :=
  let far := l.any fun h => portDie h.1 != d
  if far && !(s.router (otherDie d)).accepts pkt then
    let s := s.dropPkt (otherDie d) fun r => { r with epochErr := true }
    let near := l.filter fun h => portDie h.1 == d
    if near.isEmpty then s.freeInput input pkt else s.enqueue pkt input near
  else s.enqueue pkt input l

/-- Whether a multicast packet's coordinates on the axes without a mask lie in the extents (R384, R389). -/
def Router.mcastIn (r : Router) (pkt : Packet) : Bool :=
  [0, 1, 2].all fun i => (pktAxm pkt).testBit i || decide (coord (pktDst pkt) i < r.extent i)

/-- A router has a packet: it checks the epoch, and delivers, queues or discards it (R380, R384, R390,
R398). -/
def State.routePkt (s : State) (d : Die) (input : RouterInput) (pkt : Packet) : State :=
  let r := s.router d
  if !r.accepts pkt then
    (s.dropPkt d fun r => { r with epochErr := true }).freeInput input pkt
  else if pktAxm pkt != 0 && !r.mcastIn pkt then (s.routeError d pkt).freeInput input pkt
  else if pktAxm pkt != 0 then
    let t := r.tree pkt input
    let up := t.1.filter fun h => s.inService h.1
    let s := if t.2 then s.deliverPkt d pkt else s
    let s := if up.length < t.1.length then s.routeError d pkt else s
    if up.isEmpty then s.freeInput input pkt else s.sendOn d input pkt up
  else match s.unicast r pkt input with
    | .deliver => match input, decide (pktClass pkt = 1) with
      | .port p, true => (s.deliverPkt d pkt).modRouter d fun r => { r with unsched := r.unsched ++ [(pkt, p)] }
      | _, _ => (s.deliverPkt d pkt).freeInput input pkt
    | .send l => s.sendOn d input pkt l
    | .drop => (s.routeError d pkt).freeInput input pkt

/-- Hand a packet of this chip to a die's router. -/
def State.inject (s : State) (d : Die) (pkt : Packet) : State :=
  s.modRouter d fun r => { r with netQ := r.netQ ++ [pkt] }

/-- A packet this chip made is taken from the queue where it waited. -/
def Router.takeNet (r : Router) (pkt : Packet) : Router := { r with netQ := r.netQ.erase pkt }

/-- The PSEL that the injecting router sets (R382). -/
def injectPsel (pkt : Packet) : Packet :=
  if pktClass pkt == 1 || pktClass pkt == 3 then pktSetPsel pkt (popCount (pktDst pkt) % 2 == 1) else pkt

/-- A management packet enters within the budget of its window, or waits, behind those that wait already (R385,
R395). -/
def State.mgmtInject (s : State) (d : Die) (pkt : Packet) : State :=
  let r := s.router d
  if r.mgmtWait.isEmpty && decide (r.mgmtUsed + pktCredits pkt ≤ r.mgmtBud.toNat) then
    (s.modRouter d fun r => { r with mgmtUsed := r.mgmtUsed + pktCredits pkt }).routePkt d .network pkt
  else s.modRouter d fun r => { r with mgmtWait := r.mgmtWait ++ [pkt] }

/-- Occupancy of the unscheduled injection queue, in credits (R394). -/
def Router.occupancy (r : Router) : Nat := (r.injQ.map pktCredits).sum

/-- Whether no packet of the same class, source, destination and PSEL, as injection sets it, waits ahead of `pkt`
in `l` (R385). -/
def inTurn (l : List Packet) (pkt : Packet) : Bool :=
  let p := injectPsel pkt
  match l.find? fun q => pktClass q == pktClass p && pktSrc q == pktSrc p && q.dst == p.dst && q.masks == p.masks &&
      pktAxm q == pktAxm p && pktPsel (injectPsel q) == pktPsel p with
  | some q => q == pkt
  | none => true

/-- An unscheduled packet enters the injection queue; none while the throttle is engaged or the queue
has no room (R394). -/
def State.unschedInject (s : State) (d : Die) (pkt : Packet) : Option State :=
  let r := s.router d
  if r.throttling || decide (256 < r.occupancy + pktCredits pkt) then none
  else
    let s := s.modRouter d fun r => { r.takeNet pkt with injQ := r.injQ ++ [pkt] }
    if 16 * r.thr.toNat < r.occupancy + pktCredits pkt then
      some ((s.modRouter d fun r => { r with throttling := true, throttles := r.throttles + 1 }).thawEvent 1)
    else some s

/-! ### Commands -/

/-- A router receives a packet and delivers, forwards, holds or discards it (R380). A packet from a
port is the next one of that port's stream; an unscheduled packet from the network is one of the
injection queue; in both cases the oldest of its flow (R385). -/
def execRouterForward (d : Die) (input : RouterInput) (pkt : Packet) (s : State) : Res :=
  if !pkt.WellFormed then .refused (.illFormed "ROUTER_FORWARD")
  else match input with
    | .port p =>
      let b := pktBytes pkt
      if portDie p = d ∧ b.isPrefixOf (s.port p).rxStream = true then
        .next ((s.modPort p fun x => { x with rxStream := x.rxStream.drop b.length }).routePkt d input pkt)
      else .next s
    | .network =>
      let pkt' := injectPsel pkt
      if pktAxm pkt != 0 then .next s
      else if pktClass pkt = 1 then
        if (s.router d).injQ.contains pkt && inTurn (s.router d).injQ pkt then
          .next ((s.modRouter d fun r => { r with injQ := r.injQ.erase pkt }).routePkt d .network pkt')
        else .next s
      else if !inTurn (s.router d).netQ pkt then .next s
      else
        let s := s.modRouter d fun r => r.takeNet pkt
        if pktClass pkt = 3 then .next (s.mgmtInject d pkt') else .next (s.routePkt d .network pkt')

/-- A multicast packet is injected (R389, R390): it is replicated along its tree, or discarded. -/
def execMulticastInject (d : Die) (pkt : Packet) (s : State) : Res :=
  if !pkt.WellFormed then .refused (.illFormed "MULTICAST_INJECT")
  else if pktAxm pkt = 0 || !inTurn (s.router d).netQ pkt then .next s
  else
    let s := s.modRouter d fun r => r.takeNet pkt
    if (s.router d).mcastOk pkt then .next (s.routePkt d .network pkt)
    else .next (s.dropPkt d fun r => { r with mcastErr := true })

/-- An unscheduled packet from the on-die network enters the injection queue, unless the throttle is
engaged; passing THR/16 engages it (R394). -/
def execUnschedInject (d : Die) (pkt : Packet) (s : State) : Res :=
  if !pkt.WellFormed then .refused (.illFormed "UNSCHED_INJECT")
  else if pktClass pkt ≠ 1 || !inTurn (s.router d).netQ pkt then .next s
  else if pktAxm pkt ≠ 0 then .next (s.dropPkt d fun r => { r with mcastErr := true })
  else .next ((s.unschedInject d pkt).getD s)

/-- Occupancy has fallen to (THR − 2)/16 or below (R394). -/
def execThrottleRelease (d : Die) (s : State) : Res :=
  let r := s.router d
  if r.throttling && decide (r.occupancy ≤ 16 * (r.thr.toNat - 2)) then
    .next (s.modRouter d fun r => { r with throttling := false })
  else .next s

/-- A 1 µs window ends (R395): the budget renews, and waiting management packets enter in order. -/
def execMgmtBudgetWindow (d : Die) (s : State) : Res :=
  let w := (s.router d).mgmtWait
  let s := s.modRouter d fun r => { r with mgmtUsed := 0, mgmtWait := [] }
  .next (w.foldl (fun s p => s.mgmtInject d p) s)

/-! ### Output (R392) -/

/-- The first packet of each input in a channel that the port has credits for, by input. -/
def LPort.ready (p : LPort) (vc : Fin 8) : List QPkt :=
  let heads := (List.range 21).filterMap fun i => p.queues[vc].find? fun q => q.input == i
  heads.filter fun q => pktCredits q.pkt ≤ p.credits[vc]

/-- The next input round-robin (R392). -/
def nextInput (last : Nat) (l : List QPkt) : Option QPkt :=
  match l.find? fun q => last < q.input with
  | some q => some q
  | none => l.head?

/-- The packet a class would send: its channels in alternation, inputs round-robin. -/
def LPort.pick (p : LPort) (cls : Fin 4) : Option (Fin 8 × QPkt) :=
  let vc (b : Bool) : Fin 8 := ⟨2 * cls.val + b.toNat, by cases b <;> simp <;> omega⟩
  let first := !p.rrVc[cls]
  let try_ (b : Bool) : Option (Fin 8 × QPkt) :=
    (nextInput p.rrInput[cls] (p.ready (vc b))).map fun q => (vc b, q)
  match try_ first with
  | some q => some q
  | none => try_ (!first)

/-- The packet an output port sends next (R392); a HELD port, and one out of service, carry only management (R369,
R383). -/
def LPort.choose (p : LPort) (inService : Bool) : Option (Fin 4 × Fin 8 × QPkt) :=
  let tag (c : Fin 4) : Option (Fin 4 × Fin 8 × QPkt) := (p.pick c).map fun q => (c, q.1, q.2)
  let low := if p.mgmtTurn then [tag 3, tag 1] else [tag 1, tag 3]
  if p.held || !inService then tag 3
  else match tag 0 with
    | some q => some q
    | none => match tag 2 with
      | some q => some q
      | none => (low.filterMap id).head?

/-- DATA frames are made of the stream's next 600 bytes while the replay buffer has room (R348, R351). -/
def LPort.frames : Nat → LPort → LPort
  | 0, p => p
  | n + 1, p =>
    if p.txStream.length < 600 ∨ 1024 ≤ p.replayBuf.length then p
    else
      let first := match p.txFirst.find? fun o => o < 600 with | some o => o | none => 0x3FF
      LPort.frames n { p.emit .data (BitVec.ofNat 10 first) (p.txStream.take 600) with
        txStream := p.txStream.drop 600
        txFirst := (p.txFirst.filter fun o => 600 ≤ o).map (· - 600) }

/-- Every frame that can be made now; none while a substitution holds traffic back. -/
def LPort.pump (p : LPort) : LPort :=
  if p.carries then LPort.frames (p.txStream.length / 600) p else p

/-- The packet `q` leaves port `p` on channel `vc`. -/
def LPort.sendPkt (p : LPort) (cls : Fin 4) (vc : Fin 8) (q : QPkt) : LPort :=
  let b := pktBytes (pktSetVcb q.pkt q.vcb)
  { p with
    queues := p.queues.set vc (p.queues[vc].erase q)
    credits := p.credits.set vc (p.credits[vc] - pktCredits q.pkt)
    rrVc := p.rrVc.set cls (vc.val % 2 == 1)
    rrInput := p.rrInput.set cls q.input
    mgmtTurn := if cls = 1 then true else if cls = 3 then false else p.mgmtTurn
    txFirst := p.txFirst ++ [p.txStream.length]
    txStream := p.txStream ++ b }

/-- Whether any port still queues a copy of the group. -/
def State.groupQueued (s : State) (g : Nat) : Bool :=
  s.ports.toList.any fun p => p.queues.toList.any fun l => l.any fun q => q.grp == g

/-- An IDLE frame, when the transmitter has no 600 stream bytes and the replay buffer has room (R348, R351). -/
def LPort.idle (x : LPort) : LPort :=
  if x.txStream.length < 600 && decide (x.replayBuf.length < 1024) then
    x.emit .idle 0x3FF (List.replicate 600 0)
  else x

/-- At a packet boundary an output port chooses the next packet (R392, R396) and its bytes join the
port's stream; the input buffer is freed with the last copy (R391). With none to send it sends IDLE (R348). -/
def execPortArbitrate (p : PortId) (s : State) : Res :=
  let x := s.port p
  if !x.carries then .next s
  else match x.choose (s.inService p) with
    | none => .next (s.modPort p LPort.idle)
    | some (cls, vc, q) =>
      let contend := (cls == 0 || cls == 2) && ((x.pick 1).isSome || (x.pick 3).isSome)
      let s := s.modPort p fun x => (x.sendPkt cls vc q).pump
      let s := s.modRouter (portDie p) fun r => { r with
        pkts := r.pkts + 1
        contend := if contend then r.contend + 1 else r.contend }
      let s := if contend then s.thawEvent 0 else s
      .next (if h : q.input < 20 then
        if s.groupQueued q.grp then s else s.returnCredits ⟨q.input, h⟩ q.inVc (pktCredits q.pkt)
      else s)

end Sys2Proof.Machine
end

