-- ==== Sys2Proof/Machine/Coll.lean ====
section
/-!
DEFINITION. The collective engines (R404 to R427): members and shards, paths, segments with their
digests, the five kinds, and how an instance ends.
-/
namespace Sys2Proof.Machine

/-! ### Members (R37, R38, R407, R413, R415) -/

/-- n_A of an axis (R37); 1 for the pod axis. -/
def Topo.nodeBits (t : Topo) (axis : Nat) : Nat :=
  if axis < 3 ∧ 2 ^ (3 - axis) ≤ t.t then 2 else 1

/-- The torus extent of an axis. -/
def Topo.extent (t : Topo) (axis : Nat) : Nat :=
  match axis with
  | 0 => t.ex
  | 1 => t.ey
  | _ => t.ez

/-- N of a ring axis (R407): 3 is POD. -/
def Topo.ringSize (t : Topo) (axis : Nat) : Nat :=
  if axis < 3 then t.extent axis / t.nodeBits axis else t.pods.length

/-- A chip's position on an axis. -/
def Topo.pos (t : Topo) (a : ChipAddr) (axis : Nat) : Nat :=
  if axis < 3 then coord a axis / t.nodeBits axis else t.pods.idxOf (podOf a)

/-- An address with one torus coordinate replaced. -/
def withCoord (a : ChipAddr) (axis v : Nat) : ChipAddr := setBits a (5 * axis) 5 v

/-- An address with its pod replaced. -/
def withPod (a : ChipAddr) (v : Nat) : ChipAddr := setBits a 15 12 v

/-- The ring member at a position, seen from a chip of the ring. -/
def Topo.member (t : Topo) (a : ChipAddr) (axis p : Nat) : ChipAddr :=
  if axis < 3 then withCoord a axis (p * t.nodeBits axis + coord a axis % t.nodeBits axis)
  else withPod a (t.pods.getD p 0)

/-- The tensor shard of a chip (R38). -/
def Topo.shard (t : Topo) (a : ChipAddr) : Nat :=
  match t.t with
  | 2 => coord a 2 % 2
  | 4 => coord a 1 % 2 + 2 * (coord a 2 % 2)
  | 8 => cubeIx a
  | _ => 0

/-- The node member with a tensor shard (R413). -/
def Topo.nodeMember (t : Topo) (a : ChipAddr) (j : Nat) : ChipAddr :=
  let put (a : ChipAddr) (axis b : Nat) := withCoord a axis (coord a axis / 2 * 2 + b % 2)
  match t.t with
  | 2 => put a 2 j
  | 4 => put (put a 1 j) 2 (j / 2)
  | 8 => put (put (put a 0 j) 1 (j / 2)) 2 (j / 4)
  | _ => a

/-! ### Shards and segments (R408) -/

/-- Whether a kind gathers: its buffer is bytes. -/
def CollDecl.gathers (d : CollDecl) : Bool := d.kind == 1 || d.kind == 3

/-- Members over which the buffer is cut. -/
def CollDecl.members (d : CollDecl) (t : Topo) : Nat :=
  if d.kind ≤ 1 then t.ringSize d.axis else if d.kind ≤ 3 then t.t else 1

/-- This chip's member index. -/
def CollDecl.me (d : CollDecl) (t : Topo) (self : ChipAddr) : Nat :=
  if d.kind ≤ 1 then t.pos self d.axis else if d.kind ≤ 3 then t.shard self else 0

/-- Elements of a shard. -/
def CollDecl.shardLen (d : CollDecl) (t : Topo) : Nat := d.len / d.members t

/-- Segments of a shard. -/
def CollDecl.segs (d : CollDecl) (t : Topo) : Nat := cdiv (d.shardLen t) 2048

/-- Elements of a segment. -/
def CollDecl.segLen (d : CollDecl) (t : Topo) (g : Nat) : Nat := min 2048 (d.shardLen t - 2048 * g)

/-- Segments of a shard that travel in a ring direction. -/
def CollDecl.dirSegs (d : CollDecl) (t : Topo) (plus : Bool) : Nat :=
  match d.dir with
  | 0 => if plus then d.segs t else 0
  | 1 => if plus then 0 else d.segs t
  | _ => if plus then cdiv (d.segs t) 2 else d.segs t / 2

/-- The segment index of the `j`-th segment of a direction. -/
def CollDecl.dirSeg (d : CollDecl) (plus : Bool) (j : Nat) : Nat :=
  if d.dir < 2 then j else if plus then 2 * j else 2 * j + 1

/-- PSEL of a segment (R408). -/
def CollDecl.psel (d : CollDecl) (g : Nat) : Bool := if d.dir < 2 then g.testBit 0 else g.testBit 1

/-- `a - b` modulo `n`. -/
def subMod (a b n : Nat) : Nat := (a + n - b % n) % n

/-- The shard and segment of stream index `i` on a path. -/
def CollDecl.item (d : CollDecl) (t : Topo) (me : Nat) (role : PathRole) (tx : Bool) (i : Nat) : Nat × Nat :=
  let n := d.members t
  match role with
  | .ring plus =>
    let ns := d.dirSegs t plus
    let hop := i / ns + (if d.gathers then 0 else 1)
    let back := if tx then hop else hop + 1
    (if plus then subMod me back n else (me + back) % n, d.dirSeg plus (i % ns))
  | .up =>
    let h := i / d.segs t
    (if d.gathers then me - (if tx then h else h + 1) else h, i % d.segs t)
  | .down =>
    let h := i / d.segs t
    (if d.gathers then me + (if tx then h else h + 1) else h, i % d.segs t)
  | .node j => (if tx != d.gathers then j else if d.gathers && !tx then j else me, i)
  | _ => (0, 0)

/-! ### Paths -/

/-- A path with nothing sent or received. -/
def newPath (role : PathRole) (tx : Bool) (peer : ChipAddr) (total : Nat) : CollPath where
  role := role
  tx := tx
  peer := peer
  total := total
  next := 0
  unacked := []
  waiting := []
  rxBuf := []
  first := none
  fails := 0
  held := []

/-- The ring paths of a direction (R407, R408). -/
def CollDecl.ringPaths (d : CollDecl) (t : Topo) (self : ChipAddr) (plus : Bool) : List CollPath :=
  let n := t.ringSize d.axis
  let p := t.pos self d.axis
  let total := (n - 1) * d.dirSegs t plus
  let fwd := t.member self d.axis ((p + 1) % n)
  let bwd := t.member self d.axis (subMod p 1 n)
  if total = 0 then []
  else [newPath (.ring plus) true (if plus then fwd else bwd) total,
    newPath (.ring plus) false (if plus then bwd else fwd) total]

/-- The relays of the C1 partner's segments over this chip's H port, to it and from it (R415). -/
def relayPaths (self : ChipAddr) (hpeer : Option ChipAddr) : List CollPath :=
  match hpeer with
  | some h => [newPath (.relay true) false (self ^^^ 1#27) 0, newPath (.relay false) false h 0]
  | none => []

/-- The pod-chain paths (R415), with the relays of a neighbour's segments over C1. -/
def CollDecl.podPaths (d : CollDecl) (t : Topo) (self : ChipAddr) (hpeer : Option ChipAddr) : List CollPath :=
  let n := t.pods.length
  let q := t.pos self 3
  let s := d.segs t
  let above := t.member self 3 (q + 1)
  let below := t.member self 3 (q - 1)
  let upper := if q + 1 < n then
    if d.gathers then [newPath .up true above ((q + 1) * s), newPath .down false above ((n - 1 - q) * s)]
    else [newPath .up true above (n * s), newPath .down false above ((q + 1) * s)]
  else []
  let lower := if 0 < q then
    if d.gathers then [newPath .up false below (q * s), newPath .down true below ((n - q) * s)]
    else [newPath .up false below (n * s), newPath .down true below (q * s)]
  else []
  upper ++ lower ++ (if 1 < n then relayPaths self hpeer else [])

/-- The node paths (R413). -/
def CollDecl.nodePaths (d : CollDecl) (t : Topo) (self : ChipAddr) : List CollPath :=
  (List.range t.t).flatMap fun j =>
    if j = t.shard self then []
    else
      let a := t.nodeMember self j
      [newPath (.node j) true a (d.segs t), newPath (.node j) false a (d.segs t)]

/-- Whether a chip is the last of every level before `l` of the global sum (R416). -/
def Topo.onLevel (t : Topo) (self : ChipAddr) (l : Nat) : Bool :=
  (List.range l).all fun i => i < 3 && coord self i + 1 == t.extent i

/-- A chip's coordinate and the extent at a level of the global sum. -/
def Topo.level (t : Topo) (self : ChipAddr) (l : Nat) : Nat × Nat :=
  if l < 3 then (coord self l, t.extent l) else (t.pos self 3, t.pods.length)

/-- The neighbour at coordinate `v` of a level. -/
def Topo.levelMember (t : Topo) (self : ChipAddr) (l v : Nat) : ChipAddr :=
  if l < 3 then withCoord self l v else t.member self 3 v

/-- The chip of a pod that finishes the torus levels. -/
def Topo.corner (t : Topo) (self : ChipAddr) : ChipAddr :=
  withCoord (withCoord (withCoord self 0 (t.ex - 1)) 1 (t.ey - 1)) 2 (t.ez - 1)

/-- Chips of a pod. -/
def Topo.podChips (t : Topo) : Nat := t.ex * t.ey * t.ez

/-- The paths of the global sum (R416), with the relays of the C1 partner where that finishes the torus levels. -/
def Topo.sumPaths (t : Topo) (self : ChipAddr) (hpeer : Option ChipAddr) : List CollPath :=
  let chain := (List.range 4).flatMap fun l =>
    if t.onLevel self l then
      let c := t.level self l
      (if 0 < c.1 then [newPath (.sum l) false (t.levelMember self l (c.1 - 1)) 1] else []) ++
      (if c.1 + 1 < c.2 then [newPath (.sum l) true (t.levelMember self l (c.1 + 1)) 1] else [])
    else []
  let back := if t.onLevel self 3 then
      let c := t.level self 3
      (if c.1 + 1 < c.2 then [newPath .sumDown false (t.levelMember self 3 (c.1 + 1)) 1] else []) ++
      (if 0 < c.1 then [newPath .sumDown true (t.levelMember self 3 (c.1 - 1)) 1] else []) ++
      (if 1 < t.podChips then [newPath .result true self 1] else [])
    else [newPath .result false (t.corner self) 1]
  chain ++ back ++
    (if 1 < t.pods.length && t.corner self == self ^^^ 1#27 then relayPaths self hpeer else [])

/-- The paths of an instance on this chip. -/
def CollDecl.paths (d : CollDecl) (t : Topo) (self : ChipAddr) (hpeer : Option ChipAddr) : List CollPath :=
  match d.kind with
  | 0 | 1 => if d.axis < 3 then d.ringPaths t self true ++ d.ringPaths t self false
      else d.podPaths t self hpeer
  | 2 | 3 => d.nodePaths t self
  | _ => t.sumPaths self hpeer

/-- The ports over which this chip reaches a member (R380, R415). -/
def Router.portsTo (r : Router) (peer : ChipAddr) (both : Bool) : List PortId :=
  if podOf peer != podOf r.self then [if r.hpeer == some peer then hPort else cubePort 1]
  else if [0, 1, 2].all fun i => coord peer i / 2 == coord r.self i / 2 then
    [cubePort (cubeIx peer ^^^ cubeIx r.self)]
  else match [0, 1, 2].find? fun i => coord peer i != coord r.self i with
    | none => []
    | some a =>
      let plus := r.plus a (coord r.self a) (coord peer a)
      if both then [torusPort a plus false, torusPort a plus true] else [torusPort a plus false]

/-- The ports on which this chip receives from a member (R380, R390, R404): a torus packet arrives from the side it
comes from, on the last axis its route takes. -/
def Router.portsFrom (r : Router) (p : CollPath) (both : Bool) : List PortId :=
  let node := [0, 1, 2].all fun i => coord p.peer i / 2 == coord r.self i / 2
  if podOf p.peer != podOf r.self || (node && p.role != .result) then r.portsTo p.peer both
  else match [2, 1, 0].find? fun i => coord p.peer i != coord r.self i with
    | none => []
    | some a =>
      let plus := r.plus a (coord p.peer a) (coord r.self a)
      if both then [torusPort a (!plus) false, torusPort a (!plus) true] else [torusPort a (!plus) false]

/-- The ports over which the multicast result leaves this chip, its source (R390, R416). -/
def Router.resultPorts (r : Router) : List PortId :=
  [0, 1, 2].flatMap fun a => [true, false].filterMap fun plus =>
    if (List.range (r.extent a)).any fun v => v != coord r.self a && r.plus a (coord r.self a) v == plus then
      some (torusPort a plus false) else none

/-- The ports of this chip that a path uses. -/
def Router.pathPorts (r : Router) (p : CollPath) (both : Bool) : List PortId :=
  if !p.tx then r.portsFrom p both
  else if p.role == .result then r.resultPorts
  else r.portsTo p.peer both

/-- Whether an instance's segments use both ports of a torus pair. -/
def CollDecl.bothPsel (d : CollDecl) (t : Topo) : Bool := (List.range (d.segs t)).any d.psel

/-- The die whose engine runs an instance: that of its receiving port (R404), the first where it has several, the west
one where it has none (DESIGN CHOICE, log 156). -/
def CollDecl.dieOf (r : Router) (ps : List CollPath) : Die :=
  match ps.find? fun p => !p.tx with
  | some p => (match r.portsFrom p false with | q :: _ => portDie q | [] => .west)
  | none => .west

/-- The instances of a step, none started. -/
def State.newInstances (s : State) (step : Word) : List CollInst :=
  match s.job.image with
  | none => []
  | some im =>
    let r := s.routers[0]
    ((List.range im.colls.length).zip im.colls).map fun c =>
      let ps := c.2.paths im.topo r.self r.hpeer
      ⟨c.1, step, CollDecl.dieOf r ps, false, none, 0, 0, [], ps⟩

/-! ### Elements (R409 to R412) -/

/-- This chip's contribution to a segment, exactly in the accumulation format; raw bytes for a
gather, whose SRC holds this chip's shard alone. -/
def State.contribution (s : State) (d : CollDecl) (t : Topo) (shard g : Nat) : List Byte :=
  let n := d.segLen t g
  if d.gathers then s.serRd (d.src + 2048 * g) n
  else
    let off := shard * d.shardLen t + 2048 * g
    let w := elemBytes d.sfmt 1
    let v := (unpackElems d.sfmt n (s.serRd (d.src + off * w) (n * w))).map (decodeElem d.sfmt)
    packElems d.afmt (v.map fun x => (convert d.afmt .rne false x).1)

/-- NAN and OVF of a record's FLAGS for rounded values (R421): a value that SAT clamps has overflowed too. -/
def recFlags (l : List (Nat × Flags)) (nan : Bool) : Nat :=
  flagBit 0 nan + flagBit 1 (l.any fun r => r.2 &&& (fOvf ||| fSat) != 0)

/-- NAN of a record's FLAGS for a segment of a reduction that is passed on (R421). -/
def CollDecl.passedFlags (d : CollDecl) (b : List Byte) : Nat :=
  flagBit 0 (!d.gathers && (unpackElems d.afmt (b.length / elemBytes d.afmt 1) b).any fun c => (decodeElem d.afmt c).isNan)

/-- Two segments added element by element, one rounding each (R409, R62, R43), with the flags. -/
def addSegs (f : Nat) (a b : List Byte) : List Byte × Nat :=
  let n := a.length / elemBytes f 1
  let va := (unpackElems f n a).map (decodeElem f)
  let vb := (unpackElems f n b).map (decodeElem f)
  let sums := (va.zip vb).map fun p => FV.add .rne p.1 p.2
  let r := sums.map ((fmtOf f).rne ·)
  (packElems f (r.map Prod.fst), recFlags r (sums.any FV.isNan))

/-- A finished segment as it is written to DST (R411): its bytes and flags. -/
def CollDecl.finish (d : CollDecl) (b : List Byte) : List Byte × Nat :=
  let n := b.length / elemBytes d.afmt 1
  let scale := fFP32.decode d.dscale
  let v := (unpackElems d.afmt n b).map fun c => FV.mul (decodeElem d.afmt c) scale
  let r := v.map (convert d.dfmt .rne d.sat ·)
  (packElems d.dfmt (r.map Prod.fst), recFlags r (v.any FV.isNan))

/-! ### Instances in State -/

/-- `s` with instance `k` changed. -/
def State.modInst (s : State) (k : Nat) (f : CollInst → CollInst) : State :=
  { s with job := { s.job with colls := s.job.colls.modify k f } }

/-- `s` with path `j` of instance `k` changed. -/
def State.modPath (s : State) (k j : Nat) (f : CollPath → CollPath) : State :=
  s.modInst k fun c => { c with paths := c.paths.modify j f }

/-- The first instance of a declaration that satisfies a condition, with its place. -/
def State.findInst (s : State) (ix : Nat) (p : CollInst → Bool) : Option (Nat × CollInst) :=
  ((List.range s.job.colls.length).zip s.job.colls).find? fun c => c.2.ix == ix && p c.2

/-- The instance of a declaration that runs. -/
def State.running (s : State) (ix : Nat) : Option (Nat × CollInst) :=
  s.findInst ix fun c => c.started && c.ended.isNone

/-- The declaration of an instance, with the topology. -/
def State.collDecl (s : State) (ix : Nat) : Option (CollDecl × Topo) :=
  s.job.image.bind fun im => im.colls[ix]?.map fun d => (d, im.topo)

/-- Flags raised in instance `k`. -/
def State.collFlags (s : State) (k fl : Nat) : State := s.modInst k fun c => { c with flags := c.flags ||| fl }

/-! ### Packets (R418, R419) -/

/-- A collective packet of this chip. -/
def State.collPkt (s : State) (id stream type : Nat) (dst : ChipAddr) (psel : Bool) (payload : List Byte) :
    Packet where
  dst := dst.setWidth 32
  src := s.routers[0].self.setWidth 32
  ctl := BitVec.ofNat 8 (2 + 8 * psel.toNat)
  ept := BitVec.ofNat 8 (s.routers[0].epoch.toNat + 16 * type)
  tag := BitVec.ofNat 32 (id * 2 ^ 20 + stream % 2 ^ 20)
  masks := []
  payload := payload ++ List.replicate (cdiv payload.length 16 * 16 - payload.length) 0

/-- Where packets for a member are addressed: the member, or the node partner over C1 (R415). -/
def State.hopTo (s : State) (peer : ChipAddr) : ChipAddr :=
  let r := s.routers[0]
  if podOf peer != podOf r.self && r.hpeer != some peer then r.self ^^^ 1#27 else peer

/-- The digest packet's payload. -/
def digestPayload (b : List Byte) (attempt : Nat) : List Byte :=
  leBytes 8 (crc64 b).toNat ++ leBytes 4 b.length ++ leBytes 1 attempt ++ [0, 0, 0]

/-- Send a segment over a path: its data packets, then its digest packet; a result goes to the whole
pod (R416), and again only to the chip `only` that asked (DESIGN CHOICE, log 156). -/
def State.sendSeg (s : State) (die : Die) (d : CollDecl) (t : Topo) (p : CollPath) (g : SendSeg)
    (only : Option ChipAddr) : State :=
  let mk (type : Nat) (b : List Byte) : Packet :=
    let q := s.collPkt d.id g.stream type (s.hopTo (only.getD p.peer)) g.psel b
    if p.role == .result && only.isNone then
      { q with
        ctl := q.ctl ||| 0x70
        masks := [t.ex, t.ey, t.ez].map fun e => BitVec.ofNat 32 (2 ^ e - 1) }
    else q
  let data := (chunks (cdiv g.bytes.length 1024) 1024 g.bytes).map (mk 0)
  (data ++ [mk 1 (digestPayload g.bytes g.attempt)]).foldl (fun s q => s.inject die q) s

/-- Bytes a path holds unaccepted. -/
def CollPath.unackedBytes (p : CollPath) : Nat := (p.unacked.map fun g => g.bytes.length).sum

/-- Segments that wait are sent while 256 KiB of unaccepted ones hold them (R420). -/
def State.pumpPath (die : Die) (d : CollDecl) (t : Topo) (k j : Nat) : Nat → State → State
  | 0, s => s
  | n + 1, s =>
    match (s.job.colls[k]?).bind fun c => c.paths[j]? with
    | some p =>
      match p.waiting with
      | g :: rest =>
        if p.unackedBytes + g.bytes.length ≤ 262144 then
          let s := s.modPath k j fun p => { p with waiting := rest, unacked := p.unacked ++ [g] }
          State.pumpPath die d t k j n (s.sendSeg die d t p g none)
        else s
      | [] => s
    | none => s

/-- Put the next segment of a sending path on its way. -/
def State.collSend (s : State) (k : Nat) (d : CollDecl) (t : Topo) (role : PathRole) (b : List Byte)
    (g : Nat) : State :=
  match s.job.colls[k]? with
  | none => s
  | some c =>
    let j := c.paths.findIdx fun p => p.tx && p.role == role
    let acks := if role == .result then t.podChips - 1 else 1
    let s := s.modPath k j fun p => { p with
      next := p.next + 1
      waiting := p.waiting ++ [⟨p.next, b, d.psel g, 0, acks, []⟩] }
    (s.collFlags k (d.passedFlags b)).pumpPath c.die d t k j 1

/-! ### Ends (R421 to R424) -/

/-- The bytes an instance writes to DST. -/
def CollDecl.dstLen (d : CollDecl) (t : Topo) : Nat :=
  if d.gathers then d.len else d.shardLen t * elemBytes d.dfmt 1

/-- Send ABORT to every member an instance can still reach, `except` apart (R423). -/
def State.sendAborts (s : State) (c : CollInst) (d : CollDecl) (status : Nat) (except : List ChipAddr) : State :=
  let self := s.routers[0].self
  let own := c.paths.filter fun p => match p.role with | .relay _ => false | _ => true
  let peers := (own.map (·.peer)).eraseDups.filter fun a => a != self && !except.contains a
  let body := leBytes 2 d.id ++ leBytes 2 status ++ leBytes 4 self.toNat ++ List.replicate 8 0
  peers.foldl (fun s a => s.inject c.die (s.collPkt d.id 0 4 (s.hopTo a) false body)) s

/-- The CSTAT bit of an ending (R426). -/
def endBit (status : Nat) : BitVec 5 :=
  match status with
  | 1 | 2 => 2
  | 3 => 4
  | 4 => 1
  | 5 => 16
  | _ => 0

/-- `n` unspecified bytes at an HBM address. -/
def State.serFree (s : State) (a n : Nat) : State :=
  match s.locate .serac a with
  | .mem k => s.wrFree k n
  | _ => s

/-- Instance `k` ends with a status: its record is written (R421), LATE counted (R425), and anything
but OK leaves the rest of the destination unspecified and ends the job (R424, R504). -/
def State.collEnd (s : State) (k : Nat) (c : CollInst) (d : CollDecl) (t : Topo) (status : Nat) : State :=
  let late := decide (s.baseOf c.step.toNat + d.start + d.resv < s.slot)
  let wrote := s.serRd d.dst (d.dstLen t)
  let rd : Word := if status = 0 then crc64 wrote else 0
  let flags := c.flags ||| (if late then 4 else 0)
  let rec_ := leBytes 2 status ++ leBytes 2 flags ++ leBytes 4 d.id ++ leBytes 4 c.step.toNat ++
    leBytes 4 c.segs ++ leBytes 8 s.gtc.count.toNat ++ leBytes 8 rd.toNat
  let s := s.hbmWr d.recAddr rec_
  let s := s.modInst k fun c => { c with
    ended := some status
    paths := c.paths.map fun p => { p with unacked := [], waiting := [], rxBuf := [], held := [] } }
  let s := s.modRouter c.die fun r => { r with
    cstat := r.cstat ||| endBit status ||| (if late then 8 else 0)
    clate := if late then r.clate + 1 else r.clate
    digest := if s.gtc.lsEn && status == 0 then r.digest.put none (inOrder [(d.dst, wrote), (d.recAddr, rec_)])
      else r.digest }
  if status = 0 then
    match s.integDecl with
    | some i => if i.digids.contains d.id then
        { s with integ := { s.integ with wdLog := s.integ.wdLog ++ [(c.step, d.id, rd)] } } else s
    | none => s
  else
    let kept := c.written.map fun w => (d.dst + w.1, s.serRd (d.dst + w.1) w.2)
    let s := if c.started then kept.foldl (fun s w => s.hbmWr w.1 w.2) (s.serFree d.dst (d.dstLen t)) else s
    s.endJob 3 (BitVec.ofNat 64 (status + d.id * 2 ^ 16))

/-- A path has carried everything. -/
def CollPath.done (p : CollPath) : Bool := p.next == p.total && p.unacked.isEmpty && p.waiting.isEmpty

/-- An instance whose paths have all carried everything ends OK. -/
def State.collCheck (s : State) (k : Nat) (d : CollDecl) (t : Topo) : State :=
  match s.job.colls[k]? with
  | some c => if c.started && c.ended.isNone && c.paths.all CollPath.done then s.collEnd k c d t 0 else s
  | none => s

/-! ### What an accepted segment does -/

/-- Write finished bytes at an offset of DST. -/
def State.collWrite (s : State) (k : Nat) (d : CollDecl) (off : Nat) (b : List Byte) : State :=
  (s.hbmWr (d.dst + off) b).modInst k fun c => { c with
    segs := c.segs + 1
    written := c.written ++ [(off, b.length)] }

/-- Finish a reduced segment of this chip's shard and write it (R411). -/
def State.collFinish (s : State) (k : Nat) (d : CollDecl) (g : Nat) (b : List Byte) : State :=
  let r := d.finish b
  (s.collFlags k r.2).collWrite k d (2048 * g * elemBytes d.dfmt 1) r.1

/-- Add this chip's contribution to a partial sum (R409). -/
def State.collAdd (s : State) (k : Nat) (d : CollDecl) (t : Topo) (shard g : Nat) (b : List Byte) :
    List Byte × State :=
  let r := addSegs d.afmt b (s.contribution d t shard g)
  (r.1, s.collFlags k r.2)

/-- Write a gathered segment (R412). -/
def State.collPut (s : State) (k : Nat) (d : CollDecl) (t : Topo) (shard g : Nat) (b : List Byte) : State :=
  s.collWrite k d (shard * d.shardLen t + 2048 * g) b

/-- RS_NODE: once every member's segment `g` is there, the sum in ascending shard index (R413). -/
def State.nodeSum (s : State) (k : Nat) (d : CollDecl) (t : Topo) (me g : Nat) : State :=
  match s.job.colls[k]? with
  | none => s
  | some c =>
    let part (j : Nat) : Option (List Byte) :=
      if j = me then some (s.contribution d t me g)
      else (c.paths.find? fun p => !p.tx && p.role == .node j).bind fun p => p.held.head?
    match (List.range t.t).mapM part with
    | none => s
    | some [] => s
    | some (b :: rest) =>
      let r := rest.foldl (fun a b => let x := addSegs d.afmt a.1 b; (x.1, a.2 ||| x.2)) (b, 0)
      let s := s.modInst k fun c => { c with
        paths := c.paths.map fun p => if p.tx then p else { p with held := p.held.drop 1 } }
      (s.collFlags k r.2).collFinish k d g r.1

/-- The value a level of the global sum gives this chip, and whether it goes on to the next level
(R416): the chain's partial so far plus what this chip brings. -/
def State.sumLevel (s : State) (k : Nat) (d : CollDecl) (t : Topo) (self : ChipAddr)
    (l : Nat) (b : List Byte) : Option (List Byte) × State :=
  match s.job.colls[k]? with
  | none => (none, s)
  | some c =>
    let pos := t.level self l
    let r : Option (List Byte × Nat) :=
      if pos.1 = 0 then some (b, 0)
      else (c.paths.find? fun p => !p.tx && p.role == .sum l).bind fun p =>
        p.held.head?.map fun h => addSegs 0 h b
    match r with
    | none => (none, s)
    | some v =>
      if pos.1 + 1 < pos.2 then
        let sent := c.paths.any fun p => p.tx && p.role == .sum l && p.next == 1
        (none, if sent then s else (s.collFlags k v.2).collSend k d t (.sum l) v.1 0)
      else (some v.1, s.collFlags k v.2)

/-- The final values on a pod's last chip: written, multicast in the pod and passed down (R416). -/
def State.sumResult (s : State) (k : Nat) (d : CollDecl) (t : Topo) (self : ChipAddr) (b : List Byte) : State :=
  let s := s.collFinish k d 0 b
  let s := if 1 < t.podChips then s.collSend k d t .result b 0 else s
  if 0 < t.pos self 3 then s.collSend k d t .sumDown b 0 else s

/-- SUM_GLOBAL goes on as far as what has arrived allows (R416). -/
def State.sumGo (s : State) (k : Nat) (d : CollDecl) (t : Topo) (self : ChipAddr) : State :=
  let r := (List.range 4).foldl (fun (a : Option (List Byte) × State) l =>
    match a.1 with
    | none => a
    | some b => if t.onLevel self l then a.2.sumLevel k d t self l b else (none, a.2))
    (some (s.contribution d t 0 0), s)
  match r.1 with
  | some b => if (r.2.job.colls[k]?.map (·.segs)) == some 0 then r.2.sumResult k d t self b else r.2
  | none => r.2

/-- A segment is accepted on receiving path `p` of instance `k` as stream index `i` (R409, R412, R413,
R415, R416): added, written or forwarded. -/
def State.collTake (s : State) (k j : Nat) (d : CollDecl) (t : Topo) (p : CollPath) (i : Nat)
    (b : List Byte) : State :=
  let self := s.routers[0].self
  let me := d.me t self
  let n := d.members t
  let x := d.item t me p.role false i
  let hold (s : State) := s.modPath k j fun p => { p with held := p.held ++ [b] }
  match p.role with
  | .ring plus =>
    if d.gathers then
      let s := s.collPut k d t x.1 x.2 b
      if i / d.dirSegs t plus + 2 < n then s.collSend k d t (.ring plus) b x.2 else s
    else
      let r := s.collAdd k d t x.1 x.2 b
      if x.1 = me then r.2.collFinish k d x.2 r.1 else r.2.collSend k d t (.ring plus) r.1 x.2
  | .up =>
    if d.gathers then
      let s := s.collPut k d t x.1 x.2 b
      if me + 1 < n then s.collSend k d t .up b x.2 else s
    else
      let r := s.collAdd k d t x.1 x.2 b
      if me + 1 < n then r.2.collSend k d t .up r.1 x.2
      else if x.1 = me then r.2.collFinish k d x.2 r.1
      else r.2.collSend k d t .down r.1 x.2
  | .down =>
    if d.gathers then
      let s := s.collPut k d t x.1 x.2 b
      if 0 < me then s.collSend k d t .down b x.2 else s
    else if x.1 = me then s.collFinish k d x.2 b
    else s.collSend k d t .down b x.2
  | .node _ => if d.gathers then s.collPut k d t x.1 x.2 b else (hold s).nodeSum k d t me x.2
  | .sum _ => (hold s).sumGo k d t self
  | .sumDown => s.sumResult k d t self b
  | .result => s.collFinish k d 0 b
  | .relay _ => s

/-- What an instance does as it starts (R406 to R416). -/
def State.collBegin (s : State) (k : Nat) (d : CollDecl) (t : Topo) : State :=
  let self := s.routers[0].self
  let me := d.me t self
  let n := d.members t
  let own (s : State) : State := (List.range (d.segs t)).foldl (fun s g =>
    if d.gathers then s.collPut k d t me g (s.contribution d t me g)
    else s.collFinish k d g (s.contribution d t me g)) s
  let sendAll (role : PathRole) (count : Nat) (s : State) : State := (List.range count).foldl (fun s i =>
    let x := d.item t me role true i
    s.collSend k d t role (s.contribution d t x.1 x.2) x.2) s
  match d.kind with
  | 4 => s.sumGo k d t self
  | 2 | 3 =>
    let s := if d.gathers || n = 1 then own s else s
    (List.range t.t).foldl (fun s j => if j = me then s else sendAll (.node j) (d.segs t) s) s
  | _ =>
    if n = 1 then own s
    else
      let s := if d.gathers then own s else s
      if d.axis < 3 then sendAll (.ring false) (d.dirSegs t false) (sendAll (.ring true) (d.dirSegs t true) s)
      else if d.gathers then
        let s := if me + 1 < n then sendAll .up (d.segs t) s else s
        if 0 < me then sendAll .down (d.segs t) s else s
      else if me = 0 then sendAll .up (n * d.segs t) s else s

/-! ### Starts (R406) -/

/-- A slot whose start neither a QUIESCE (R503) nor a capture (R536) holds back. -/
def State.mayStart (s : State) (slot : Int) : Bool :=
  s.job.running &&
    (match s.job.quiesce with
      | some q => decide (slot < s.baseOf (q.toNat + 1))
      | none => true) &&
    (match s.ckpt.armed with
      | some a => decide (s.ckpt.state.toNat < 2) || decide (slot < s.baseOf a.step.toNat + a.slotOff)
      | none => true)

/-- Whether an instance uses a port, to send or to receive (R423). -/
def State.instUses (s : State) (c : CollInst) (d : CollDecl) (t : Topo) (p : PortId) : Bool :=
  c.paths.any fun q => ((s.routers[0]).pathPorts q (d.bothPsel t)).contains p

/-- Instance `k` ends PARTNER_LOST (R423): its unaccepted segments go, and ABORT goes to every member
still in reach. -/
def State.collLost (s : State) (k : Nat) (p : PortId) : State :=
  match s.job.colls[k]? with
  | none => s
  | some c =>
    match s.collDecl c.ix with
    | none => s
    | some (d, t) =>
      if c.started && c.ended.isNone && s.instUses c d t p then
        let gone := (c.paths.filter fun q => ((s.routers[0]).pathPorts q (d.bothPsel t)).contains p).map (·.peer)
        (s.sendAborts c d 1 gone).collEnd k c d t 1
      else s

/-- Every instance that uses a lost port ends (R423). -/
def State.collPortLost (s : State) (p : PortId) : State :=
  (List.range s.job.colls.length).foldl (fun s k => s.collLost k p) s

/-- An instance starts once its START boundary is observed and its gate word reads 0 (R406); with a
partner already LOST it ends at once (R424). -/
def execCollStart (ix : Nat) (s : State) : Res :=
  match s.findInst ix (fun c => !c.started && c.ended.isNone), s.collDecl ix with
  | some (k, c), some (d, t) =>
    let at_ := s.baseOf c.step.toNat + d.start
    if s.mayStart at_ && s.observed at_ && (d.gate == 0 || leNat (s.serRd d.gate 8) == 0) then
      let s := s.modInst k fun c => { c with started := true }
      match (List.range 20).find? fun p =>
          if h : p < 20 then (s.port ⟨p, h⟩).state == .lost && s.instUses c d t ⟨p, h⟩ else false with
      | some p => .next (if h : p < 20 then s.collLost k ⟨p, h⟩ else s)
      | none => .next ((s.collBegin k d t).collCheck k d t)
    else .next s
  | _, _ => .next s

/-! ### Reception (R418 to R420) -/

/-- A packet the routers have delivered is taken. -/
def State.takeDelivered (s : State) (die : Die) (pkt : Packet) : State :=
  s.modRouter die fun r => { r with delivered := r.delivered.erase pkt }

/-- Whether a packet is a collective packet of a type for a collective and a stream index. -/
def isColl (pkt : Packet) (id stream type : Nat) : Bool :=
  pktClass pkt == 2 && pktType pkt == type && pkt.tag.toNat == id * 2 ^ 20 + stream % 2 ^ 20

/-- A relayed packet goes on to the other side (R415). -/
def State.relayPkt (s : State) (die : Die) (toH : Bool) (pkt : Packet) : State :=
  let r := s.routers[0]
  let dst := if toH then r.hpeer.getD 0 else r.self ^^^ 1#27
  (s.takeDelivered die pkt).inject die { pkt with dst := dst.setWidth 32, src := r.self.setWidth 32 }

/-- The relay a path stands for: it passes a neighbour's segments on whether or not this chip's own
instance still runs. -/
def State.relayAt (s : State) (ix path : Nat) : Option (Die × Bool × CollDecl) :=
  match s.findInst ix (fun _ => true), s.collDecl ix with
  | some (_, c), some (d, _) =>
    match c.paths[path]? with
    | some p => (match p.role with
      | .relay toH => some (c.die, toH, d)
      | _ => none)
    | none => none
  | _, _ => none

/-- A receiver's answer to a segment. -/
def State.answer (s : State) (die : Die) (d : CollDecl) (p : CollPath) (i type : Nat) : State :=
  s.inject die (s.collPkt d.id i type (s.hopTo p.peer) false [])

/-- A data packet of the segment now arriving joins the segment buffer (R418). -/
def execCollData (ix : Nat) (path : Nat) (pkt : Packet) (s : State) : Res :=
  if !pkt.WellFormed then .refused (.illFormed "COLL_DATA")
  else match s.relayAt ix path with
  | some r => .next (s.relayPkt r.1 r.2.1 pkt)
  | none =>
    match s.running ix, s.collDecl ix with
    | some (k, c), some (d, _) =>
      match c.paths[path]? with
      | some p =>
        if !p.tx && decide (p.next < p.total) && isColl pkt d.id p.next 0 then
          .next ((s.takeDelivered c.die pkt).modPath k path fun p => { p with rxBuf := p.rxBuf ++ pkt.payload })
        else .next s
      | none => .next s
    | _, _ => .next s

/-- Send a report and at once its classification (R523, R530). -/
def State.reportClassified (s : State) (code : BitVec 16) (die : Die) (d0 d1 : Word) (cls : Nat) : State :=
  let r := s.report code .collEngine (dieIx die).val d0 d1
  r.1.sendReport r.2 cls 0

/-- A good segment is accepted: ACCEPT goes back, and the segment is added, written or forwarded. -/
def State.collAccept (s : State) (k j : Nat) (c : CollInst) (d : CollDecl) (t : Topo) (p : CollPath)
    (b : List Byte) : State :=
  let s := s.modPath k j fun p => { p with next := p.next + 1, rxBuf := [], first := none, fails := 0 }
  let s := s.modRouter c.die fun r => { r with csegs := r.csegs + 1 }
  let s := s.answer c.die d p p.next 2
  (s.collTake k j d t p p.next b).collCheck k d t

/-- A digest packet is checked against the bytes received (R419, R420). -/
def execCollDigest (ix : Nat) (path : Nat) (pkt : Packet) (s : State) : Res :=
  if !pkt.WellFormed then .refused (.illFormed "COLL_DIGEST")
  else match s.relayAt ix path with
  | some r => .next (s.relayPkt r.1 r.2.1 pkt)
  | none =>
    match s.running ix, s.collDecl ix with
    | some (k, c), some (d, t) =>
      match c.paths[path]? with
      | none => .next s
      | some p =>
        if p.tx || decide (p.total ≤ p.next) || !isColl pkt d.id p.next 1 then .next s
        else
          let s := s.takeDelivered c.die pkt
          let n := leAt pkt.payload 8 4
          let b := p.rxBuf.take n
          let ok := b.length == n && (crc64 b).toNat == leAt pkt.payload 0 8
          let d0 := BitVec.ofNat 64 (d.id * 2 ^ 20 + p.next)
          let d1 : Word := p.peer.setWidth 64
          if ok then
            match p.first with
            | none => .next (s.collAccept k path c d t p b)
            | some f =>
              let s := if f.take n == b then
                  (s.modRouter c.die fun r => { r with cchkf := r.cchkf + 1 }).reportClassified 0x0010 c.die d0 d1 3
                else
                  (s.modRouter c.die fun r => { r with cdataf := r.cdataf + 1 }).reportClassified 0x0011 c.die d0 d1 1
              .next (s.collAccept k path c d t p b)
          else if p.fails < 2 then
            let s := s.modPath k path fun p => { p with
              fails := p.fails + 1
              rxBuf := []
              first := match p.first with | some f => some f | none => some p.rxBuf }
            let s := (s.modRouter c.die fun r => { r with cretx := r.cretx + 1 }).thawEvent 7
            .next ((s.collFlags k 8).answer c.die d p p.next 3)
          else
            let s := s.reportClassified 0x0012 c.die d0 d1 2
            .next ((s.sendAborts c d 4 []).collEnd k c d t 4)
    | _, _ => .next s

/-! ### Sender (R420) -/

/-- A delivered answer is passed on by a relay. -/
def State.relayAnswer (s : State) (die : Die) (toH : Bool) (d : CollDecl) (stream type : Nat) : State :=
  match (s.router die).delivered.find? fun q => isColl q d.id stream type with
  | some q => s.relayPkt die toH q
  | none => s

/-- ACCEPT has arrived: the segment leaves the buffer, and waiting ones are sent. -/
def execCollAccept (ix : Nat) (path : Nat) (stream : BitVec 20) (s : State) : Res :=
  match s.relayAt ix path with
  | some r => .next (s.relayAnswer r.1 r.2.1 r.2.2 stream.toNat 2)
  | none =>
    match s.running ix, s.collDecl ix with
    | some (k, c), some (d, t) =>
      match c.paths[path]? with
      | none => .next s
      | some p =>
        if p.tx && p.unacked.any fun g => g.stream % 2 ^ 20 == stream.toNat then
          let s := s.modRouter c.die fun r => { r with
            delivered := r.delivered.eraseP fun q => isColl q d.id stream.toNat 2 }
          let s := s.modPath k path fun p => { p with
            unacked := (p.unacked.map fun g =>
              if g.stream % 2 ^ 20 == stream.toNat then { g with acks := g.acks - 1 } else g).filter
                fun g => g.acks != 0 }
          .next ((s.pumpPath c.die d t k path p.waiting.length).collCheck k d t)
        else .next s
    | _, _ => .next s

/-- The sending chip of a segment whose third copy failed: the fault is permanent and its own (R523,
R525). -/
def State.senderFault (s : State) (d : CollDecl) (stream : Nat) (peer : ChipAddr) : State :=
  let e : Event := ⟨0x0012, .chip, 0, s.integ.evSeq, BitVec.ofNat 64 (d.id * 2 ^ 20 + stream), peer.setWidth 64⟩
  { s with integ := { s.integ with evSeq := s.integ.evSeq + 1 } }.act [⟨e, true, none⟩]

/-- How often a segment was resent: over a path to one member, or to a chip that the result went to. -/
def SendSeg.tried (g : SendSeg) (p : CollPath) (a : ChipAddr) : Nat :=
  if p.role == .result then ((g.tries.find? fun e => e.1 == a).map Prod.snd).getD 0 else g.attempt

/-- A segment about to be resent to a chip. -/
def SendSeg.again (g : SendSeg) (p : CollPath) (a : ChipAddr) : SendSeg :=
  let n := g.tried p a + 1
  { g with attempt := n, tries := if p.role == .result then (a, n) :: g.tries.filter (·.1 != a) else g.tries }

/-- RETX_REQ has arrived: the segment is resent with the next ATTEMPT; after the third copy the
instance ends DIGEST_FAIL at this end too. -/
def execCollRetxReq (ix : Nat) (path : Nat) (stream : BitVec 20) (s : State) : Res :=
  match s.relayAt ix path with
  | some r => .next (s.relayAnswer r.1 r.2.1 r.2.2 stream.toNat 3)
  | none =>
    match s.running ix, s.collDecl ix with
    | some (k, c), some (d, t) =>
      match c.paths[path]? with
      | none => .next s
      | some p =>
        match p.unacked.find? fun g => g.stream % 2 ^ 20 == stream.toNat with
        | none => .next s
        | some g =>
          let a := match (s.router c.die).delivered.find? fun q => isColl q d.id stream.toNat 3 with
            | some q => if p.role == .result then pktSrc q else p.peer
            | none => p.peer
          let s := s.modRouter c.die fun r => { r with
            delivered := r.delivered.eraseP fun q => isColl q d.id stream.toNat 3 }
          if p.tx && g.tried p a < 2 then
            let g' := g.again p a
            let s := s.modPath k path fun p => { p with
              unacked := p.unacked.map fun x => if x.stream == g.stream then g' else x }
            .next (s.sendSeg c.die d t p g' (some a))
          else if p.tx then
            .next (((s.sendAborts c d 4 []).collEnd k c d t 4).senderFault d g.stream a)
          else .next s
    | _, _ => .next s

/-! ### ABORT and STALL (R422, R423) -/

/-- An ABORT ends the instance ABORTED, and it is passed on once; from the receiver of a segment that
failed three times it ends DIGEST_FAIL (R420). -/
def execCollAbort (ix : Nat) (path : Nat) (pkt : Packet) (s : State) : Res :=
  if !pkt.WellFormed then .refused (.illFormed "COLL_ABORT")
  else match s.relayAt ix path with
  | some r => .next (s.relayPkt r.1 r.2.1 pkt)
  | none =>
    match s.running ix, s.collDecl ix with
    | some (k, c), some (d, t) =>
      match c.paths[path]? with
      | none => .next s
      | some p =>
        if pktClass pkt != 2 || pktType pkt != 4 || leAt pkt.payload 0 2 != d.id then .next s
        else
          let s := s.takeDelivered c.die pkt
          let from_ := leAt pkt.payload 4 4
          let at_ : ChipAddr := BitVec.ofNat 27 from_
          let failed := p.tx && leAt pkt.payload 2 2 == 4 && (p.role == .result || at_ == p.peer)
          match p.unacked.find? fun g => failed && g.tried p at_ == 2 with
          | some g => .next (((s.sendAborts c d 4 [p.peer, at_]).collEnd k c d t 4).senderFault d g.stream at_)
          | none => .next ((s.sendAborts c d (leAt pkt.payload 2 2) [p.peer, at_]).collEnd k c d t 2)
    | _, _ => .next s

/-- No segment has come for STALL µs while one was awaited (R422). -/
def execCollStall (ix : Nat) (s : State) : Res :=
  match s.running ix, s.collDecl ix with
  | some (k, c), some (d, t) =>
    if c.paths.any fun p => !p.tx && p.next < p.total then .next (s.collEnd k c d t 3) else .next s
  | _, _ => .next s

end Sys2Proof.Machine
end

