-- ==== Sys2Proof/Machine/Operands.lean ====
section
/-!
DEFINITION. The decoder of sequencer instructions: classes, operations and fields (R238 to R242).
-/
namespace Sys2Proof.Machine

/-- The bits `[hi:lo]` as a mask. -/
def span (hi lo : Nat) : Nat := 2 ^ (hi + 1) - 2 ^ lo

/-- Whether bits [47:0] are zero outside the positions `used` (R242). -/
def onlyUses (w : Word) (used : Nat) : Bool := bits w 0 48 &&& (2 ^ 48 - 1 - used) == 0

/-- A field as a bit vector. -/
def fld (w : Word) (lo n : Nat) : BitVec n := BitVec.ofNat n (w.toNat >>> lo)

/-- sd (also the data register of ST), [47:43]. -/
def fSd (w : Word) : BitVec 5 := fld w 43 5
/-- sa, [42:38]. -/
def fSa (w : Word) : BitVec 5 := fld w 38 5
/-- sb, [37:33]. -/
def fSb (w : Word) : BitVec 5 := fld w 33 5
/-- sc or vc, [32:28]. -/
def fSc (w : Word) : BitVec 5 := fld w 28 5
/-- pd, [45:43]. -/
def fPd (w : Word) : BitVec 3 := fld w 43 3
/-- WAITC of scalar and descriptor instructions, [37:34]. -/
def fWait (w : Word) : BitVec 4 := fld w 34 4
/-- IMM or OFFSET, [31:0]. -/
def fOff (w : Word) : BitVec 32 := fld w 0 32
/-- I, [32]. -/
def fI (w : Word) : Bool := bitOf w 32

/-- Positions of SALU and of LD and ST: all of [47:0] (R240). -/
def uAll : Nat := span 47 0
/-- Positions of PSET and PLD: all but [47:46]. -/
def uPred : Nat := span 45 0
/-- Positions of AMO: [47:28]. -/
def uAmo : Nat := span 47 28
/-- Positions of MPASS, EPI, RCFG and DMA. -/
def uDesc : Nat := span 42 34 + span 31 0
/-- Positions of a vector instruction apart from XF. -/
def uVec : Nat := span 47 13

/-- CLASS 0x0 (R239). -/
def decodeSalu (op : Nat) (w : Word) : Option SInstr :=
  let alu (o : AluOp) : Option SInstr := some (.alu o (fSd w) (fSa w) (fSb w) (fI w) (fOff w))
  let pset (o : CmpOp) : Option SInstr :=
    if onlyUses w uPred then some (.pset o (fPd w) (fSa w) (fSb w) (fI w) (fOff w)) else none
  match op with
  | 0x00 => alu .add
  | 0x01 => alu .sub
  | 0x02 => alu .mul
  | 0x03 => alu .and
  | 0x04 => alu .or
  | 0x05 => alu .xor
  | 0x06 => alu .shl
  | 0x07 => alu .shr
  | 0x08 => alu .sra
  | 0x09 => alu .min
  | 0x0A => alu .max
  | 0x0B => alu .minu
  | 0x0C => alu .maxu
  | 0x10 => pset .eq
  | 0x11 => pset .ne
  | 0x12 => pset .lt
  | 0x13 => pset .ge
  | 0x14 => pset .ltu
  | 0x15 => pset .geu
  | _ => none

/-- CLASS 0x1 (R239); bits [33:32] of PLD must be 3 (R242). -/
def decodeSmem (op : Nat) (w : Word) : Option SInstr :=
  let pld (c : PldCond) : Option SInstr :=
    if onlyUses w uPred && fld w 32 2 == 3#2 then some (.pld c (fPd w) (fSa w) (fWait w) (fOff w))
    else none
  let amo (o : AmoOp) : Option SInstr :=
    if onlyUses w uAmo then some (.amo o (fSd w) (fSa w) (fSb w) (fSc w)) else none
  match op with
  | 0x00 => some (.ld (fSd w) (fSa w) (fWait w) (fld w 32 2) (fOff w))
  | 0x01 => some (.st (fSd w) (fSa w) (fWait w) (fld w 32 2) (fOff w))
  | 0x02 => pld .eq0
  | 0x03 => pld .ne0
  | 0x08 => amo .add
  | 0x09 => amo .swp
  | 0x0A => amo .cas
  | _ => if 0x40 ≤ op && op ≤ 0x7F then pld (.bit (op - 0x40)) else none

/-- CLASS 0x2 (R239). -/
def decodeCtrl (op : Nat) (w : Word) : Option SInstr :=
  match op with
  | 0x00 =>
    if onlyUses w (span 47 43 + span 31 0) then
      some (.br (fld w 45 3) (bitOf w 44) (bitOf w 43) (fOff w)) else none
  | 0x01 => if onlyUses w (span 47 43 + span 31 0) then some (.jal (fSd w) (fOff w)) else none
  | 0x02 => if onlyUses w (span 42 38) then some (.jr (fSa w)) else none
  | 0x03 => if onlyUses w 0 then some .stop else none
  | _ => none

/-- CLASS 0x3 (R239). -/
def decodeSync (op : Nat) (w : Word) : Option SInstr :=
  match op with
  | 0x00 => if onlyUses w 0 then some .fenceSc else none
  | 0x01 => if onlyUses w (span 37 34) then some (.fenceCo (fWait w)) else none
  | 0x02 => if onlyUses w (span 42 38 + span 31 0) then some (.waitslot (fSa w) (fOff w)) else none
  | 0x03 => if onlyUses w (span 5 0) then some (.phase (fld w 0 6)) else none
  | _ => none

/-- CLASSES 0x4, 0x5 and 0x7 (R239). -/
def decodeCop (cls op : Nat) (w : Word) : Option SInstr :=
  let desc (f : BitVec 5 → BitVec 4 → BitVec 32 → SInstr) : Option SInstr :=
    if onlyUses w uDesc then some (f (fSa w) (fWait w) (fOff w)) else none
  match cls, op with
  | 4, 0x00 => desc .mpass
  | 4, 0x01 => desc .epi
  | 5, 0x00 => desc .rcfg
  | 5, 0x01 =>
    if onlyUses w (span 37 34 + span 6 4 + span 2 0) then
      some (.rbind (fWait w) (bitOf w 6) (fld w 4 2) (bitOf w 2) (fld w 0 2)) else none
  | 5, 0x02 =>
    if onlyUses w (span 42 32 + span 31 0) then
      some (.rdrain (fSa w) (fWait w) (fld w 32 2) (fOff w)) else none
  | 7, 0x00 => desc .dma
  | _, _ => none

/-- The operations of CLASS 0x6 by OP, with the positions of XF each uses (R239, R241). -/
def vecOps : List (Nat × VOp × Nat) :=
  [(0x00, .add, span 12 12), (0x01, .sub, span 12 12), (0x02, .mul, span 12 12),
   (0x03, .fma, span 12 12), (0x04, .max, span 12 12), (0x05, .min, span 12 12),
   (0x06, .abs, span 12 12), (0x07, .neg, span 12 12)] ++
  [(0x08, .iadd, span 12 12), (0x09, .isub, span 12 12), (0x0A, .iand, span 12 12),
   (0x0B, .ior, span 12 12), (0x0C, .ixor, span 12 12), (0x0D, .ishl, span 12 12),
   (0x0E, .ishr, span 12 12), (0x0F, .isra, span 12 12)] ++
  [(0x10, .cmp, span 12 12 + span 2 0), (0x11, .mand, 0), (0x12, .mor, 0), (0x13, .mxor, 0),
   (0x14, .mnot, 0), (0x18, .trans, 0), (0x19, .bcr, 0), (0x1A, .bcc, 0), (0x1B, .perm, 0),
   (0x1C, .cvt, span 3 0)] ++
  [(0x20, .rcp, span 12 12), (0x21, .div, span 12 12), (0x22, .sqrt, span 12 12),
   (0x23, .rsqrt, span 12 12), (0x24, .exp, span 12 12), (0x25, .exp2, span 12 12),
   (0x26, .log, span 12 12), (0x27, .log2, span 12 12), (0x28, .sin, span 12 12),
   (0x29, .cos, span 12 12), (0x2A, .tanh, span 12 12), (0x2B, .lgst, span 12 12),
   (0x2C, .erf, span 12 12)] ++
  [(0x30, .rsum, span 3 0), (0x31, .rssq, span 3 0), (0x32, .topk, span 7 0),
   (0x38, .ld, span 4 0), (0x39, .st, span 4 0), (0x3A, .xcvt, span 7 0), (0x3B, .chain, 0)]

/-- CLASS 0x6 (R241); a VXCVT with va or vb 31 is illegal (R221, R242). -/
def decodeVec (op : Nat) (w : Word) : Option VInstr :=
  match vecOps.find? fun r => r.1 == op with
  | none => none
  | some (_, o, xf) =>
    if !onlyUses w (uVec + xf) then none
    else if o = .xcvt && (fSa w == 31#5 || fSb w == 31#5) then none
    else some {
      op := o, vd := fSd w, va := fSa w, vb := fSb w, vc := fSc w, ty := fld w 25 3
      men := bitOf w 24, msel := fld w 21 3, zm := bitOf w 20, rm := fld w 18 2
      sat := bitOf w 17, wait := fld w 13 4, xf := fld w 0 13 }

/-- An instruction word without its guard (R238); none when it is illegal (R242). -/
def decodeIns (w : Word) : Option SInstr :=
  match bits w 60 4 with
  | 0 => decodeSalu (bits w 52 8) w
  | 1 => decodeSmem (bits w 52 8) w
  | 2 => decodeCtrl (bits w 52 8) w
  | 3 => decodeSync (bits w 52 8) w
  | 6 => (decodeVec (bits w 52 8) w).map .vec
  | 4 => decodeCop 4 (bits w 52 8) w
  | 5 => decodeCop 5 (bits w 52 8) w
  | 7 => decodeCop 7 (bits w 52 8) w
  | _ => none

/-- PG, [51:49]. -/
def fPg (w : Word) : BitVec 3 := fld w 49 3
/-- PN, [48]. -/
def fPn (w : Word) : Bool := bitOf w 48

/-! ### What an instruction names -/

/-- XF bit 12 of the operations that have CH: va is the head chained row (R227). -/
def VInstr.ch (v : VInstr) : Bool := v.xf.getLsbD 12

/-- The scalar registers a vector instruction reads (R241). -/
def VInstr.scalars (v : VInstr) : List (BitVec 5) :=
  match v.op with
  | .topk => [v.vb]
  | .ld | .st => [v.va, v.vb, v.vc]
  | .xcvt => [v.va, v.va + 1, v.vb, v.vb + 1, v.vc]
  | .chain => [v.va]
  | _ => []

/-- The scalar registers an instruction names as source or destination (R243). -/
def SInstr.scalars : SInstr → List (BitVec 5)
  | .alu _ sd sa sb i _ => if i then [sd, sa] else [sd, sa, sb]
  | .pset _ _ sa sb i _ => if i then [sa] else [sa, sb]
  | .ld sd sa _ _ _ => [sd, sa]
  | .st sd sa _ _ _ => [sd, sa]
  | .pld _ _ sa _ _ => [sa]
  | .amo op sd sa sb sc => if op = .cas then [sd, sa, sb, sc] else [sd, sa, sb]
  | .br .. => []
  | .jal sd _ => [sd]
  | .jr sa => [sa]
  | .stop | .fenceSc | .fenceCo _ | .phase _ | .rbind .. => []
  | .waitslot sa _ => [sa]
  | .mpass sa _ _ | .epi sa _ _ | .rcfg sa _ _ | .rdrain sa _ _ _ | .dma sa _ _ => [sa]
  | .vec v => v.scalars

/-- Whether an instruction goes to a coprocessor (R243). -/
def SInstr.isCop : SInstr → Bool
  | .mpass .. | .epi .. | .rcfg .. | .rbind .. | .rdrain .. | .vec _ | .dma .. => true
  | _ => false

end Sys2Proof.Machine
end

