-- ==== Sys2Proof/Machine/Commit.lean ====
section
/-!
DEFINITION. What commits and when: commit events (R250, R252), coprocessor faults (R259), phase
records (R335 to R338), scalar faults (R256, R258), wait masks (R245), and how stores become
visible (R254, R261).
-/
namespace Sys2Proof.Machine

/-! ### A scalar fault -/

/-- The SEQ_STAT bit of a scalar fault (R267). -/
def ScalarFault.bit : ScalarFault → Nat
  | .addrErr => 1
  | .alignErr => 2
  | .illInstr => 3

/-- A scalar fault takes effect: the sequencer stops and the CP is signalled (R258, R259). -/
def State.faultNow (s : State) (t : TileId) (f : ScalarFault) (pc : Word) : State :=
  let s := s.modSeq t fun q => { q with
    run := false
    stat := q.stat ||| BitVec.ofNat 4 (2 ^ f.bit)
    faultPc := pc }
  s.tileFault t 0

/-! ### Phase-timer records -/

/-- The bytes of a phase-timer record (R336). -/
def phaseBytes (t : TileId) (q : Seq) (id : BitVec 6) (gtc : Word) (step : BitVec 32) : List Byte :=
  leBytes 8 gtc.toNat ++ leBytes 4 step.toNat ++ leBytes 1 id.toNat ++ leBytes 1 q.phaseCom.toNat ++
    leBytes 1 t.val ++ leBytes 1 (if q.nLate != q.stayLate then 1 else 0)

/-- A PHASE instruction commits: its record is written and the totals advance (R335, R338). A record that would
write part of an uncorrectable line leaves the line, and faults as a scalar store does (R276; DEDUCED, log 153). -/
def State.phaseRecord (s : State) (t : TileId) (id : BitVec 6) (gtc : Word) (step : BitVec 32) (pc : Word) : State :=
  let q := (s.tile t).seq
  let key := q.phBase.toNat + 16 * (q.phRecs.toNat % q.phLen.toNat)
  let s1 := if q.phLen == 0 then s
    else if (s.writeUe key 16).isSome then s.faultNow t .addrErr pc
    else s.wr key (phaseBytes t q id gtc step)
  let stay := gtc - q.stayFrom
  let prev : Fin 64 := q.phaseCom.toFin
  let s2 := s1.modSeq t fun q => { q with
    phGtc := gtc, phRecs := q.phRecs + 1, phaseCom := id, stayFrom := gtc, stayLate := q.nLate }
  { s2 with cp := { s2.cp with
      phTot := s2.cp.phTot.set prev (s2.cp.phTot[prev] + stay)
      phMax := s2.cp.phMax.set prev (if s2.cp.phMax[prev] < stay then stay else s2.cp.phMax[prev])
      phCnt := s2.cp.phCnt.set id.toFin (s2.cp.phCnt[id.toFin] + 1) } }

/-! ### Coprocessor faults -/

/-- FUNIT of a unit's fault (R267). -/
def TileUnit.funit : TileUnit → Nat
  | .mat | .epi => 1
  | .vec => 2
  | .rime => 3
  | .dma => 4
  | .seq => 0

/-- Set a status bit of a unit's own status register. -/
def Tile.setStat (x : Tile) (u : TileUnit) (bit : Nat) : Tile :=
  match u with
  | .mat => { x with mmstat := x.mmstat ||| BitVec.ofNat 5 (2 ^ bit) }
  | .epi => { x with epistat := x.epistat ||| BitVec.ofNat 5 (2 ^ bit) }
  | .vec => { x with vec := { x.vec with stat := x.vec.stat ||| BitVec.ofNat 5 (2 ^ bit) } }
  | .rime => { x with rime := { x.rime with stat := x.rime.stat ||| BitVec.ofNat 5 (2 ^ bit) } }
  | .dma => { x with dma := { x.dma with stat := x.dma.stat ||| BitVec.ofNat 6 (2 ^ bit) } }
  | .seq => x

/-- The header of an operation of the matrix class. -/
def MatOp.hdr : MatOp → OpHdr
  | .pass p => p.hdr
  | .epi e => e.hdr

/-- Whether an operation of the matrix class has started. -/
def MatOp.started : MatOp → Bool
  | .pass p => p.started
  | .epi e => e.started

/-- Operations issued after `id` that have not started are discarded (R259). -/
def Tile.discardAfter (x : Tile) (id : Nat) : Tile :=
  { x with
    matQ := x.matQ.filter fun o => o.started || decide (o.hdr.id ≤ id)
    vec := { x.vec with queue := x.vec.queue.filter fun o =>
      o.started || o.done || decide (o.hdr.id ≤ id) }
    dma := { x.dma with queue := x.dma.queue.filter fun i => match i with
      | .op o => o.buf.isSome || decide (o.hdr.id ≤ id)
      | .record _ => true }
    rime := { x.rime with queue := x.rime.queue.filter fun o => decide (o.hdr.id ≤ id) } }

/-- A committed coprocessor fault (R259): the unit's bit, the sequencer's record of the first fault
in issue order, the stop, and the signal to the CP. -/
def State.copFault (s : State) (t : TileId) (u : TileUnit) (bit id : Nat) (pc : Word) : State :=
  let s := s.modTile t fun x =>
    let first := match x.seq.copFault with | some k => decide (id < k) | none => true
    let x := x.setStat u bit
    let x := { x with seq := { x.seq with
      run := false
      stat := x.seq.stat ||| 1#4
      copFault := if first then some id else x.seq.copFault
      funit := if first then BitVec.ofNat 3 u.funit else x.seq.funit
      faultPc := if first then pc else x.seq.faultPc } }
    x.discardAfter id
  s.tileFault t u.funit

/-! ### Commit events -/

/-- A commit event takes effect. -/
def State.commitEv (s : State) (t : TileId) (e : CommitEv) : State :=
  match e with
  | .op u bytes flags vops =>
    let s := s.modTile t fun x => { x with
      fpstat := x.fpstat ||| flags
      vec := if vops == 0 then x.vec else { x.vec with vops := x.vec.vops + BitVec.ofNat 64 vops }
      seq := if u = .seq then { x.seq with nInstr := x.seq.nInstr + 1 } else x.seq }
    s.digestOp t u bytes
  | .load id => s.modDigest t .seq fun g => g.put (some id) []
  | .copFault u bit id pc => s.copFault t u bit id pc
  | .phase id gtc step pc => s.phaseRecord t id gtc step pc
  | .late => s.modSeq t fun q => { q with nLate := q.nLate + 1 }
  | .pred => s.modSeq t fun q => { q with nPred := q.nPred + 1 }
  | .mispred => s.modSeq t fun q => { q with nSquash := q.nSquash + 1 }

/-- An event of work that carries `tag`: at once when it has none, with the tag otherwise. -/
def State.emit (s : State) (t : TileId) (tag : Option Nat) (e : CommitEv) : State :=
  match tag with
  | none => s.commitEv t e
  | some g => s.modSeq t fun q => { q with spec := q.spec ++ [⟨g, e⟩] }

/-- The tag an instruction issued now carries: its youngest unresolved branch's (R250). -/
def Seq.tag (q : Seq) : Option Nat := q.branches.getLast?.map (·.tag)

/-- The tag under which an instruction's own commit events wait: its tag, or with none a commit
already resolved that the coprocessors have not received yet, so that events keep their order. -/
def Seq.emitTag (q : Seq) : Option Nat :=
  match q.tag with
  | some g => some g
  | none => ((q.deliver.filter (·.2)).getLast?).map Prod.fst

/-! ### Wait masks -/

/-- Whether an operation of class `c` (R240: 0 matrix, 1 vector, 2 rime, 3 DMA) issued before `id` has
not yet completed and committed. -/
def Tile.classBusy (x : Tile) (c : Nat) (id : Nat) : Bool :=
  match c with
  | 0 => x.matQ.any fun o => o.hdr.id < id
  | 1 => x.vec.queue.any fun o => o.hdr.id < id
  | 2 => (x.rime.queue.any fun o => o.hdr.id < id) ||
      x.rime.slots.toList.any fun l => match l.drain with | some d => d.id < id | none => false
  | _ => x.dma.queue.any fun i => match i with | .op o => o.hdr.id < id | .record _ => false

/-- Whether a wait mask holds no operation back (R245). -/
def Tile.waitsDone (x : Tile) (mask : BitVec 4) (id : Nat) : Bool :=
  (onesOf mask).all fun c => !x.classBusy c id

/-- Whether an operation that waits in its queue may start: its waits are satisfied (R245), and every resolved tag has
reached the coprocessors, which undo or commit its work first (R251). -/
def Tile.mayStart (x : Tile) (mask : BitVec 4) (id : Nat) : Bool := x.seq.deliver.isEmpty && x.waitsDone mask id

/-- Operations in the run-ahead window (R248). -/
def Tile.window (x : Tile) : Nat :=
  x.matQ.length + x.vec.queue.length + x.rime.queue.length +
    (x.rime.slots.toList.filter fun l => l.drain.isSome).length +
    (x.dma.queue.filter fun i => match i with | .op _ => true | .record _ => false).length

/-! ### Held faults -/

/-- A scalar fault of the instruction `id` under a tag is held (R256); otherwise it takes effect. -/
def State.scalarFault (s : State) (t : TileId) (tag : Option Nat) (id : Nat) (f : ScalarFault) (pc : Word) : State :=
  match tag with
  | none => s.faultNow t f pc
  | some g => s.modSeq t fun q => { q with held := q.held ++ [⟨g, id, f, pc⟩] }

/-- Whether a fault of a coprocessor is held under an unresolved tag, or stands in the speculative read buffer
(R256, R289): the sequencer issues nothing further. -/
def Tile.copHeld (x : Tile) : Bool :=
  (x.seq.spec.any fun r => match r.ev with | .copFault .. => true | _ => false) ||
    x.dma.queue.any fun i => match i with
      | .op o => !o.d.soft && (match o.buf with | some b => b.fault.isSome | none => false) &&
          !x.seq.deliver.any fun d => !d.2 && o.hdr.tag == some d.1
      | .record _ => false

/-! ### Addresses of scalar accesses -/

/-- The bytes of a SIZE code (R240). -/
def sizeOf2 (c : BitVec 2) : Nat := 2 ^ c.toNat

/-- Whether a located target is a register block. -/
def Target.isReg : Target → Bool
  | .tileReg .. | .clusterReg .. | .cpReg _ => true
  | _ => false

/-- The precise fault of a scalar access at issue (R258), decided from the address alone. -/
def State.accessFault (s : State) (t : TileId) (a n : Nat) (writes : Bool) : Option ScalarFault :=
  if a % n != 0 then some .alignErr
  else match s.locate (.seq t) a with
    | .nothing | .host _ => some .addrErr
    | .mem k => if writes && s.readOnly k then some .addrErr else none
    | .cpReg _ => if writes then some .addrErr else none
    | .tileReg .. | .clusterReg .. => none

/-! ### Stores -/

/-- The memory key and length of a store that goes to memory. -/
def State.storeKey (s : State) (t : TileId) (e : SbEntry) : Option Nat :=
  match s.locate (.seq t) e.addr.toNat with
  | .mem k => some k
  | _ => none

/-- Whether a store goes to a register block. -/
def State.storeIsReg (s : State) (t : TileId) (e : SbEntry) : Bool :=
  (s.locate (.seq t) e.addr.toNat).isReg

/-- The store at the head of the queue can become visible: committed, its wait mask satisfied, and
every earlier load performed (R261 rule 4, R245). -/
def Tile.storeReady (x : Tile) (e : SbEntry) : Bool :=
  e.tag.isNone && x.waitsDone e.wait e.id &&
    x.seq.loads.all fun l => l.value.isSome || decide (e.id < l.id)

/-- One store leaves the queue and becomes visible; a partial store to an uncorrectable line faults
instead (R258, R276). -/
def State.performStore (s : State) (t : TileId) (e : SbEntry) : State :=
  let s := s.modSeq t fun q => { q with stores := q.stores.drop 1 }
  match s.locate (.seq t) e.addr.toNat with
  | .mem k =>
    if (s.writeUe k e.data.length).isSome then s.faultNow t .addrErr e.pc else s.wr k e.data
  | g => s.regWr g e.data.length (leNat e.data)

/-- Let stores at the head of the queue become visible, at most `n` of them. -/
def State.drainUpTo (t : TileId) : Nat → State → State
  | 0, s => s
  | n + 1, s =>
    match (s.tile t).seq.stores with
    | [] => s
    | e :: _ => if (s.tile t).storeReady e then State.drainUpTo t n (s.performStore t e) else s

/-- Every store that can become visible does so. -/
def State.drainStores (s : State) (t : TileId) : State :=
  State.drainUpTo t (s.tile t).seq.stores.length s

/-- A coprocessor operation `id` may start: every committed store issued before it is visible, and no
store of the queue before it writes a byte of its footprint (R263). -/
def State.storesAllow (s : State) (t : TileId) (id : Nat) (foot : List (Nat × Nat)) : Bool :=
  (s.tile t).seq.stores.all fun e =>
    decide (id < e.id) ||
      (e.tag.isSome && match s.storeKey t e with
        | some k => foot.all fun f => decide (k + e.data.length ≤ f.1 ∨ f.1 + f.2 ≤ k)
        | none => true)

/-- The bytes at `k` as the sequencer sees them: its own earlier stores in order on top of memory
(R244, R254, R261). -/
def State.seqView (s : State) (t : TileId) (id k n : Nat) : List Byte :=
  (s.tile t).seq.stores.foldl (fun bs e =>
    match s.storeKey t e with
    | some j =>
      if e.id < id then
        tab n fun i => if j ≤ k + i ∧ k + i < j + e.data.length then e.data.getD (k + i - j) 0
          else bs.getD i 0
      else bs
    | none => bs) (s.rd k n)

/-- Whether the sequencer's own earlier stores cover all of `[k, k + n)`. -/
def State.seqCovered (s : State) (t : TileId) (id k n : Nat) : Bool :=
  (List.range n).all fun i => (s.tile t).seq.stores.any fun e =>
    match s.storeKey t e with
    | some j => decide (e.id < id ∧ j ≤ k + i ∧ k + i < j + e.data.length)
    | none => false

end Sys2Proof.Machine
end

