-- ==== Sys2Proof/Machine/RimeQueue.lean ====
section
/-!
DEFINITION. The rime unit's queue and what its instructions do when they execute (R132 to R142, R148 to R152, R158):
sampling of stream rows, configuration, binding, the opening of a drain, and the rows that wait behind them.
-/
namespace Sys2Proof.Machine

/-- Change slot `k` of a tile's rime unit. -/
def State.modSlot (s : State) (t : TileId) (k : Fin 4) (f : Slot → Slot) : State :=
  s.modTile t fun x => { x with rime := { x.rime with slots := x.rime.slots.set k (f x.rime.slots[k]) } }

/-- Slot `k` of a tile. -/
def State.slot4 (s : State) (t : TileId) (k : Fin 4) : Slot := (s.tile t).rime.slots[k]

/-! ### Sampling -/

/-- Whether the row with count `q` is sampled (R138). -/
def sampled (dlog : Nat) (seed step : BitVec 32) (q : Nat) : Bool :=
  let g := BitVec.ofNat 32 (q / 2 ^ dlog)
  let x := seed ^^^ (g * 0x9E3779B9#32) ^^^ (step * 0x7F4A7C15#32)
  let x := x ^^^ (x >>> 16)
  let x := x * 0x85EBCA6B#32
  let x := x ^^^ (x >>> 13)
  let x := x * 0xC2B2AE35#32
  let x := x ^^^ (x >>> 16)
  q % 2 ^ dlog == x.toNat % 2 ^ dlog

/-- A sampled row in BF16 (R140): its codes, whether it was zeroed, and its flags. -/
def sampleRow (vals : List FV) : List (BitVec 16) × Bool × Flags :=
  let cs := vals.map fun v => convert 0x2 .rne true v
  let bad := cs.any fun c => !(fBF16.decode c.1).isFin
  let flags := cs.foldl (fun a c => a ||| c.2) 0
  if bad then (List.replicate 128 0, true, flags)
  else (cs.map (fun c => BitVec.ofNat 16 c.1), false, flags)

/-- The sample-buffer address of sample `k` of an epoch (R141), in the tile store. -/
def RimeDesc.sampleAddr (d : RimeDesc) (no : Word) (k : Nat) : Nat :=
  d.spaddr + 256 * (no.toNat % 2 * d.splen + k)

/-- An epoch's undo entry for a tag's first change (R148). -/
def EpochUndo.save (l : List EpochUndo) (g : Option Nat) (ep : Epoch) : List EpochUndo :=
  match g with
  | none => l
  | some k => if l.any fun u => u.tag == k then l else l ++ [⟨k, ep⟩]

/-- One row of 128 values observed by slot `k` for the epoch numbered `no`, by a pass with tag `g`
(R138 to R142, R148, R149). DEDUCED (log 148): q is truncated to its low 32 bits before g = q >> DLOG is formed. -/
def State.observeRow (s : State) (t : TileId) (k : Fin 4) (no : Word) (g : Option Nat)
    (vals : List FV) : State :=
  let l := s.slot4 t k
  let cur := l.ep.no == no
  let ep := if cur then l.ep else match l.drain with | some d => d.ep | none => l.ep
  let put (s : State) (e : Epoch) : State :=
    s.modSlot t k fun l =>
      if cur then { l with ep := e, undo := EpochUndo.save l.undo g l.ep }
      else { l with drain := l.drain.map fun d => { d with ep := e } }
  let next : Epoch := { ep with q := ep.q + 1 }
  if sampled l.desc.dlog l.desc.seed ep.step (ep.q.toNat % 2 ^ 32) then
    if l.desc.splen ≤ ep.n.toNat then put s { next with full := true }
    else
      let r := sampleRow vals
      let bytes := r.1.flatMap fun v => leBytes 2 v.toNat
      let s := s.tsWr t (l.desc.sampleAddr no ep.n.toNat) bytes
      let s := put s { next with n := ep.n + 1, zeroed := ep.zeroed || r.2.1 }
      let s := s.modTile t fun x => { x with rime := { x.rime with
        gramQ := x.rime.gramQ ++ [⟨k, no, g, r.1⟩] } }
      s.emit t g (.op .rime bytes r.2.2 0)
  else put s next

/-! ### Configuration and binding -/

/-- The fields of a rime block descriptor (R135). -/
def RimeDesc.ofBytes (b : List Byte) : RimeDesc where
  slot := ⟨leAt b 0 1 % 4, Nat.mod_lt _ (by decide)⟩
  kind := (leAt b 0 1).testBit 2
  dlog := leAt b 1 1
  seed := BitVec.ofNat 32 (leAt b 4 4)
  kappa := BitVec.ofNat 32 (leAt b 8 4)
  spaddr := leAt b 12 4
  splen := leAt b 16 4
  statId := BitVec.ofNat 32 (leAt b 20 4)
  resv := leAt b 0 1 / 8 != 0 || leAt b 2 2 != 0 || leAt b 24 8 != 0

/-- The rime descriptor's own faults, lowest bit first (R158). -/
def RimeDesc.check (d : RimeDesc) : Option Nat :=
  if 6 < d.dlog || d.splen == 0 || 8192 < d.splen || d.resv then some 0
  else if d.spaddr % 256 != 0 || !inStore d.spaddr (512 * d.splen) then some 1
  else none

/-- Whether the rime unit accepts RCFG for a slot (R136). -/
def Tile.cfgAllowed (x : Tile) (k : Fin 4) : Bool :=
  let l := x.rime.slots[k]
  !l.opened || (l.ep.q == 0 && l.drain.isNone && !x.rime.gramQ.any fun g => g.slot == k)

/-- Whether the 49,600 bytes at an HBM address lie in a statistic region of the image (R152). -/
def State.statRegion (s : State) (a : Nat) : Bool :=
  match s.job.image with
  | some im => im.regions.any fun r => r.kind == 2 && r.base ≤ a && a + 49600 ≤ r.base + r.len
  | none => false

/-! ### Observation -/

/-- The slots that observe a row, with the K positions each takes (R132, R137). -/
def State.observers (s : State) (t : TileId) (r : RimeRow) : List (Fin 4 × Nat) :=
  let kind := s.phaseKind r.phase.toNat
  let hit (k : Fin 4) : Bool :=
    let l := s.slot4 t k
    l.opened && (if l.desc.kind then kind == some 1 else kind == some 0)
  (if r.bind.aEn && hit r.bind.slotA then [(r.bind.slotA, 0)] else []) ++
    (if r.deep && r.bind.bEn && hit r.bind.slotB then [(r.bind.slotB, 128)] else [])

/-- The rime unit takes a stream row (R132, R137, R145): the SLOT_A half before the SLOT_B half, K
positions beyond KX as +0. -/
def State.observe (s : State) (t : TileId) (r : RimeRow) : State :=
  (s.observers t r).foldl (fun s o =>
    s.observeRow t o.1 r.epochs[o.1] r.tag (tab 128 fun k => r.vals.getD (o.2 + k) .zero)) s

/-- Whether a rime instruction issued before `id` waits in the queue. -/
def Rime.waitsBefore (x : Rime) (id : Nat) : Bool := x.queue.any fun o => decide (o.hdr.id < id)

/-- The epoch that a slot's rows of the next pass issued belong to (R151): the one open, and one more for each drain
of the slot that waits in the queue. -/
def Rime.epochNext (x : Rime) (k : Fin 4) : Word :=
  x.slots[k].ep.no + BitVec.ofNat 64 (x.queue.filter fun o => match o.ins with
    | .drain j _ => j == k
    | _ => false).length

/-- A stream row reaches the rime unit: it is taken at once, or once the instructions issued before its pass have
executed. -/
def State.rimeRow (s : State) (t : TileId) (r : RimeRow) : State :=
  if (s.tile t).rime.waitsBefore r.id then
    s.modTile t fun x => { x with rime := { x.rime with late := x.rime.late ++ [r] } }
  else s.observe t r

/-- The rows that waited for the instructions that have executed are taken, in order. -/
def State.rimeFlush (s : State) (t : TileId) : State :=
  let x := (s.tile t).rime
  let go := x.late.filter fun r => !x.waitsBefore r.id
  let s := s.modTile t fun x => { x with rime := { x.rime with
    late := x.rime.late.filter fun r => x.rime.waitsBefore r.id } }
  go.foldl (fun s r => s.observe t r) s

/-! ### Execution -/

/-- A refused rime instruction changes no slot and faults (R158). -/
def State.rimeFault (s : State) (t : TileId) (o : RimeOp) (bit : Nat) : State :=
  s.copFault t .rime bit o.hdr.id o.hdr.pc

/-- RCFG executes (R134 to R136, R158). -/
def State.rimeCfg (s : State) (t : TileId) (o : RimeOp) (b : List Byte) : State :=
  let d := RimeDesc.ofBytes b
  match d.check with
  | some bit => s.rimeFault t o bit
  | none =>
    if !(s.tile t).cfgAllowed d.slot then s.rimeFault t o 2
    else
      let step := s.step32
      (s.modSlot t d.slot fun l =>
        { l with desc := d, ep := { l.ep with step := step }, opened := true }).emit t none (.op .rime b 0 0)

/-- RBIND executes (R137, R158). -/
def State.rimeBind (s : State) (t : TileId) (o : RimeOp) (b : RimeBind) : State :=
  if (!b.aEn || (s.slot4 t b.slotA).opened) && (!b.bEn || (s.slot4 t b.slotB).opened) &&
      !(b.aEn && b.bEn && b.slotA == b.slotB) then
    (s.modTile t fun x => { x with rime := { x.rime with bind := b } }).emit t none
      (.op .rime (leBytes 1 b.byte) 0 0)
  else s.rimeFault t o 3

/-- RDRAIN executes (R151, R152): it ends the epoch and opens the next at once; the drain goes on. -/
def State.rimeDrain (s : State) (t : TileId) (o : RimeOp) (k : Fin 4) (a : Word) : State :=
  let l := s.slot4 t k
  if a.toNat % 64 != 0 || !s.statRegion a.toNat then s.rimeFault t o 1
  else if !l.opened then s.rimeFault t o 4
  else
    let step := s.step32
    let d : Drain := ⟨o.hdr.id, o.hdr.pc, a, l.ep, none⟩
    s.modSlot t k fun l => { l with drain := some d, ep := .fresh (l.ep.no + 1) step }

/-- A rime instruction executes. -/
def State.rimeExec (s : State) (t : TileId) (o : RimeOp) : State :=
  match o.ins with
  | .cfg b => s.rimeCfg t o b
  | .bind b => s.rimeBind t o b
  | .drain k a => s.rimeDrain t o k a

/-- At most `n` instructions at the head of the queue execute, in issue order, each once its waits are satisfied and
the stores before it are visible (R245, R263). -/
def State.rimeUpTo (t : TileId) : Nat → State → State
  | 0, s => s
  | n + 1, s =>
    match (s.tile t).rime.queue with
    | [] => s
    | o :: rest =>
      let s := s.drainStores t
      if (s.tile t).mayStart o.hdr.wait o.hdr.id && s.storesAllow t o.hdr.id [] then
        let s := s.modTile t fun x => { x with rime := { x.rime with queue := rest } }
        State.rimeUpTo t n ((s.rimeExec t o).rimeFlush t)
      else s

/-- Every rime instruction that can execute does so. -/
def State.rimeGo (s : State) (t : TileId) : State := State.rimeUpTo t (s.tile t).rime.queue.length s

end Sys2Proof.Machine
end

