-- ==== Sys2Proof/Machine/Seq.lean ====
section
/-!
DEFINITION. The tile sequencer: issue (R243), scalar arithmetic, predicates, scalar memory, control
flow and synchronisation (R234 to R266).
-/
namespace Sys2Proof.Machine

/-! ### Registers -/

/-- A scalar register; s0 reads as 0 (R234). -/
def Seq.sreg (q : Seq) (r : BitVec 5) : Word := if r = 0 then 0 else q.regs[r.toFin]

/-- Write a scalar register; a write to s0 is discarded (R234). -/
def Seq.setReg (q : Seq) (r : BitVec 5) (v : Word) : Seq :=
  if r = 0 then q else { q with regs := q.regs.set r.toFin v }

/-- Whether a scalar register awaits a value (R236). -/
def Seq.pending (q : Seq) (r : BitVec 5) : Bool := r != 0 && (q.regPend[r.toFin]).isSome

/-- Make a scalar register await load `id`. -/
def Seq.awaitReg (q : Seq) (r : BitVec 5) (id : Nat) : Seq :=
  if r = 0 then q else { q with regPend := q.regPend.set r.toFin (some id) }

/-- A predicate register; p0 reads as 1 and READY (R235). -/
def Seq.pred (q : Seq) (p : BitVec 3) : Pred := if p = 0 then ⟨true, none⟩ else q.preds[p.toFin]

/-- Write a predicate register; a write to p0 is discarded (R235). -/
def Seq.setPred (q : Seq) (p : BitVec 3) (v : Pred) : Seq :=
  if p = 0 then q else { q with preds := q.preds.set p.toFin v }

/-- The truth of a guard (R238), none while its predicate is PENDING (R243). -/
def Seq.guard (q : Seq) (pg : BitVec 3) (pn : Bool) : Option Bool :=
  if (q.pred pg).awaits.isSome then none else some ((q.pred pg).val != pn)

/-- OFFSET or IMM, sign-extended. -/
def ext32 (v : BitVec 32) : Word := v.signExtend 64

/-- A PC-relative target, OFFSET in instructions (R240). -/
def Seq.target (q : Seq) (off : BitVec 32) : Word := q.pc + ext32 off * 8

/-! ### Fetch and issue -/

/-- The instruction word at PC; none where the fetch is outside the stream region or not aligned
(R238, R258). -/
def State.fetch (s : State) (t : TileId) : Option Word :=
  let x := s.tile t
  let a := x.seq.pc.toNat
  if x.streamLo ≤ a ∧ a + 8 ≤ x.streamLo + x.streamLen ∧ a % 8 = 0 then
    some (BitVec.ofNat 64 (leNat (s.tsRd t a 8)))
  else none

/-- The sequencer may issue: it is fetching, awaits no slot boundary (R247) and holds no fault
(R256). -/
def Seq.ready (q : Seq) : Bool := q.run && q.slotWait.isNone && q.held.isEmpty

/-- The tile's sequencer may issue: it is ready and no fault of a coprocessor is held on its path (R256). -/
def Tile.ready (x : Tile) : Bool := x.seq.ready && !x.copHeld

/-- PC moves on to `pc`, and an instruction's place in issue order is used up. -/
def State.advance (s : State) (t : TileId) (pc : Word) : State :=
  s.modSeq t fun q => { q with
    pc := pc
    nextId := q.nextId + 1
    pcCom := if q.branches.isEmpty then pc else q.pcCom }

/-- An instruction that writes `bytes` (R450) is done and PC moves on to `pc`; it commits under the
tag it carries. -/
def State.retire (s : State) (t : TileId) (bytes : List Byte) (pc : Word) : State :=
  let g := (s.tile t).seq.emitTag
  (s.emit t g (.op .seq bytes 0 0)).advance t pc

/-- `retire` to the next instruction. -/
def State.retireNext (s : State) (t : TileId) (bytes : List Byte) : State :=
  s.retire t bytes ((s.tile t).seq.pc + 8)

/-- A precise fault of the instruction at PC (R258), held when it carries a tag (R256). -/
def State.issueFault (s : State) (t : TileId) (f : ScalarFault) : State :=
  let q := (s.tile t).seq
  let s := if q.tag.isNone then s.modSeq t fun q => { q with pcCom := q.pc } else s
  s.scalarFault t q.tag q.nextId f q.pc

/-- Issue the instruction at PC when it is one that `sel` takes (R238, R243): held (the state unchanged) while its
guard or a register it names is pending, skipped when its guard is false. `f` answers the state after
it, or none while it waits. -/
def State.issue {α : Type} (s : State) (t : TileId) (sel : SInstr → Option α)
    (f : State → α → Option State) : Res :=
  let q := (s.tile t).seq
  if !(s.tile t).ready then .next s
  else match s.fetch t with
    | none => .next s
    | some w =>
      match decodeIns w with
      | none => .next s
      | some i =>
        match sel i with
        | none => .next s
        | some a =>
          if i.scalars.any q.pending then .next s
          else match q.guard (fPg w) (fPn w) with
            | none => .next s
            | some false => .next (s.retireNext t [])
            | some true =>
              match f s a with
              | none => .next s
              | some s' => .next s'

/-! ### Scalar arithmetic and predicates -/

/-- The scalar operations (R234, R239). -/
def AluOp.eval (op : AluOp) (a b : Word) : Word :=
  match op with
  | .add => a + b
  | .sub => a - b
  | .mul => a * b
  | .and => a &&& b
  | .or => a ||| b
  | .xor => a ^^^ b
  | .shl => a <<< (b.toNat % 64)
  | .shr => a >>> (b.toNat % 64)
  | .sra => a.sshiftRight (b.toNat % 64)
  | .min => if a.slt b then a else b
  | .max => if a.slt b then b else a
  | .minu => if a.ult b then a else b
  | .maxu => if a.ult b then b else a

/-- The PSET comparisons (R239). -/
def CmpOp.holds (op : CmpOp) (a b : Word) : Bool :=
  match op with
  | .eq => a == b
  | .ne => a != b
  | .lt => a.slt b
  | .ge => !a.slt b
  | .ltu => a.ult b
  | .geu => !a.ult b

/-- The second operand: IMM when I is set (R240). -/
def Seq.operandB (q : Seq) (sb : BitVec 5) (i : Bool) (imm : BitVec 32) : Word :=
  if i then ext32 imm else q.sreg sb

/-- A SALU instruction of operation `op`. -/
def State.saluOp (s : State) (t : TileId) (op : AluOp) : Res :=
  s.issue t
    (fun i => match i with
      | .alu o sd sa sb im imm => if o = op then some (sd, sa, sb, im, imm) else none
      | _ => none)
    fun s (sd, sa, sb, im, imm) =>
      let q := (s.tile t).seq
      let v := op.eval (q.sreg sa) (q.operandB sb im imm)
      some ((s.modSeq t fun q => q.setReg sd v).retireNext t (if sd = 0 then [] else leBytes 8 v.toNat))

/-- A PSET instruction of comparison `op`: its predicate is READY at once (R235). -/
def State.psetOp (s : State) (t : TileId) (op : CmpOp) : Res :=
  s.issue t
    (fun i => match i with
      | .pset o pd sa sb im imm => if o = op then some (pd, sa, sb, im, imm) else none
      | _ => none)
    fun s (pd, sa, sb, im, imm) =>
      let q := (s.tile t).seq
      let v := op.holds (q.sreg sa) (q.operandB sb im imm)
      some ((s.modSeq t fun q => q.setPred pd ⟨v, none⟩).retireNext t
        (if pd = 0 then [] else leBytes 1 v.toNat))

/-- SALU ADD. -/
def execSaluAdd (t : TileId) (s : State) : Res := s.saluOp t .add
/-- SALU SUB. -/
def execSaluSub (t : TileId) (s : State) : Res := s.saluOp t .sub
/-- SALU MUL. -/
def execSaluMul (t : TileId) (s : State) : Res := s.saluOp t .mul
/-- SALU AND. -/
def execSaluAnd (t : TileId) (s : State) : Res := s.saluOp t .and
/-- SALU OR. -/
def execSaluOr (t : TileId) (s : State) : Res := s.saluOp t .or
/-- SALU XOR. -/
def execSaluXor (t : TileId) (s : State) : Res := s.saluOp t .xor
/-- SALU SHL. -/
def execSaluShl (t : TileId) (s : State) : Res := s.saluOp t .shl
/-- SALU SHR. -/
def execSaluShr (t : TileId) (s : State) : Res := s.saluOp t .shr
/-- SALU SRA. -/
def execSaluSra (t : TileId) (s : State) : Res := s.saluOp t .sra
/-- SALU MIN. -/
def execSaluMin (t : TileId) (s : State) : Res := s.saluOp t .min
/-- SALU MAX. -/
def execSaluMax (t : TileId) (s : State) : Res := s.saluOp t .max
/-- SALU MINU. -/
def execSaluMinu (t : TileId) (s : State) : Res := s.saluOp t .minu
/-- SALU MAXU. -/
def execSaluMaxu (t : TileId) (s : State) : Res := s.saluOp t .maxu
/-- PSET.EQ. -/
def execPsetEq (t : TileId) (s : State) : Res := s.psetOp t .eq
/-- PSET.NE. -/
def execPsetNe (t : TileId) (s : State) : Res := s.psetOp t .ne
/-- PSET.LT. -/
def execPsetLt (t : TileId) (s : State) : Res := s.psetOp t .lt
/-- PSET.GE. -/
def execPsetGe (t : TileId) (s : State) : Res := s.psetOp t .ge
/-- PSET.LTU. -/
def execPsetLtu (t : TileId) (s : State) : Res := s.psetOp t .ltu
/-- PSET.GEU. -/
def execPsetGeu (t : TileId) (s : State) : Res := s.psetOp t .geu

/-! ### Loads -/

/-- The bytes a load accesses. -/
def LoadDst.size : LoadDst → Nat
  | .reg _ n => n
  | .pred .. => 8

/-- The condition of a PLD (R249). -/
def PldCond.holds (c : PldCond) (w : Word) : Bool :=
  match c with
  | .eq0 => w == 0
  | .ne0 => w != 0
  | .bit b => bitOf w b

/-- What a load writes, as digest bytes (R450). -/
def LoadDst.bytes (d : LoadDst) (w : Word) : List Byte :=
  match d with
  | .reg sd _ => if sd = 0 then [] else leBytes 8 w.toNat
  | .pred pd c => if pd = 0 then [] else leBytes 1 (c.holds w).toNat

/-- Whether a load may be performed now: its wait mask is satisfied (R245), every earlier load has
been performed (R261 rule 4), and register accesses keep program order (R260). -/
def State.loadReady (s : State) (t : TileId) (l : Load) : Bool :=
  let x := s.tile t
  x.waitsDone l.wait l.id &&
    (x.seq.loads.all fun m => m.value.isSome || decide (l.id ≤ m.id)) &&
    (x.seq.stores.all fun e => decide (l.id < e.id) ||
      !((s.locate (.seq t) l.addr.toNat).isReg || s.storeIsReg t e))

/-- Replace the loads of a tile's sequencer. -/
def State.modLoads (s : State) (t : TileId) (f : List Load → List Load) : State :=
  s.modSeq t fun q => { q with loads := f q.loads }

/-- Whether an event is the commit of load `id`. -/
def CommitEv.isLoad (id : Nat) : CommitEv → Bool
  | .load k => k == id
  | _ => false

/-- A load's value is known (R250, R450): the load counts when it commits, and at once if it has. -/
def State.loadKnown (s : State) (t : TileId) (id : Nat) (bytes : List Byte) : State :=
  if (s.tile t).seq.spec.any fun e => e.ev.isLoad id then
    s.modSeq t fun q => { q with
      spec := q.spec.map fun e => if e.ev.isLoad id then { e with ev := .op .seq bytes 0 0 } else e }
  else
    (s.modSeq t fun q => { q with nInstr := q.nInstr + 1 }).modDigest t .seq fun g => g.fill id bytes

/-- A load has faulted, so it does not commit. -/
def State.loadFaulted (s : State) (t : TileId) (id : Nat) : State :=
  (s.modSeq t fun q => { q with spec := q.spec.filter fun e => !e.ev.isLoad id }).modDigest t .seq fun g => g.drop id

/-- Perform one load: its word is fixed, or it meets an uncorrectable line and faults (R258). -/
def State.performLoad (s : State) (t : TileId) (l : Load) : State :=
  let n := l.dst.size
  let done (w : Word) : State :=
    (s.modLoads t fun ls => ls.map fun m => if m.id = l.id then { m with value := some w } else m).loadKnown t l.id
      (l.dst.bytes w)
  match s.locate (.seq t) l.addr.toNat with
  | .mem k =>
    if (s.readUe k n).isSome && !s.seqCovered t l.id k n then
      ((s.modLoads t fun ls => ls.filter fun m => m.id != l.id).loadFaulted t l.id).scalarFault t l.tag l.id .addrErr l.pc
    else done (BitVec.ofNat 64 (leNat (s.seqView t l.id k n)))
  | g => done (BitVec.ofNat 64 (leNat (s.regRd g n)))

/-- Perform loads in program order while the next may be, at most `n` of them. A register access
first lets earlier stores become visible. -/
def State.performUpTo (t : TileId) : Nat → State → State
  | 0, s => s
  | n + 1, s =>
    match (s.tile t).seq.loads.find? fun l => l.value.isNone with
    | none => s
    | some l =>
      let s := if (s.locate (.seq t) l.addr.toNat).isReg ||
          (s.tile t).seq.stores.any (fun e => s.storeIsReg t e)
        then s.drainStores t else s
      if s.loadReady t l then State.performUpTo t n (s.performLoad t l) else s

/-- Every load that can be performed is. -/
def State.performLoads (s : State) (t : TileId) : State :=
  State.performUpTo t (s.tile t).seq.loads.length s

/-- A load enters the pending loads. -/
def State.pushLoad (s : State) (t : TileId) (addr : Word) (wait : BitVec 4) (dst : LoadDst)
    (value : Option Word) : State :=
  let q := (s.tile t).seq
  let l : Load := ⟨q.nextId, q.emitTag, q.pc, addr, wait, dst, value⟩
  let s := s.modSeq t fun q =>
    let q := { q with loads := q.loads ++ [l] }
    match dst with
    | .reg sd _ => q.awaitReg sd l.id
    | .pred pd _ => q.setPred pd ⟨(q.pred pd).val, some l.id⟩
  let s := if value.isNone then s.emit t l.tag (.load l.id) else s
  s.advance t (q.pc + 8)

/-- LD (R236, R240, R261): the destination awaits the value, and the load is performed at once when
it may be. -/
def execLd (t : TileId) (s : State) : Res :=
  s.issue t
    (fun i => match i with
      | .ld sd sa wait size off => some (sd, sa, wait, size, off)
      | _ => none)
    fun s (sd, sa, wait, size, off) =>
      let a := (s.tile t).seq.sreg sa + ext32 off
      match s.accessFault t a.toNat (sizeOf2 size) false with
      | some f => some (s.issueFault t f)
      | none => some ((s.pushLoad t a wait (.reg sd (sizeOf2 size)) none).performLoads t)

/-- A PLD whose condition `sel` takes (R249). -/
def State.pldOp (s : State) (t : TileId) (sel : PldCond → Bool) : Res :=
  s.issue t
    (fun i => match i with
      | .pld c pd sa wait off => if sel c then some (c, pd, sa, wait, off) else none
      | _ => none)
    fun s (c, pd, sa, wait, off) =>
      let a := (s.tile t).seq.sreg sa + ext32 off
      match s.accessFault t a.toNat 8 false with
      | some f => some (s.issueFault t f)
      | none => some ((s.pushLoad t a wait (.pred pd c) none).performLoads t)

/-- PLD.EQ0. -/
def execPldEq0 (t : TileId) (s : State) : Res := s.pldOp t fun c => c == .eq0
/-- PLD.NE0. -/
def execPldNe0 (t : TileId) (s : State) : Res := s.pldOp t fun c => c == .ne0
/-- PLD.BIT. -/
def execPldBit (t : TileId) (s : State) : Res :=
  s.pldOp t fun c => match c with | .bit _ => true | _ => false

/-! ### Stores and atomics -/

/-- ST (R240, R254, R261): the store joins the sequencer's store queue, tagged while a branch is
unresolved; with `visible` the queue then drains as far as it can. A tagged store that finds 16 in
the shadow queue waits. -/
def execSt (t : TileId) (visible : Bool) (s : State) : Res :=
  s.issue t
    (fun i => match i with
      | .st sd sa wait size off => some (sd, sa, wait, size, off)
      | _ => none)
    fun s (sd, sa, wait, size, off) =>
      let q := (s.tile t).seq
      let a := q.sreg sa + ext32 off
      match s.accessFault t a.toNat (sizeOf2 size) true with
      | some f => some (s.issueFault t f)
      | none =>
        if q.tag.isSome && decide (16 ≤ (q.stores.filter fun e => e.tag.isSome).length) then none
        else
          let e : SbEntry := ⟨q.nextId, q.emitTag, q.pc, a, wait, leBytes (sizeOf2 size) (q.sreg sd).toNat⟩
          let s := (s.modSeq t fun q => { q with stores := q.stores ++ [e] }).retireNext t e.data
          some (if visible then s.drainStores t else s)

/-- Everything of FENCE.SC that can happen now (R262). -/
def State.fence (s : State) (t : TileId) : State := ((s.performLoads t).drainStores t).performLoads t

/-- FENCE.SC is complete: every earlier store visible, every earlier load performed (R262). -/
def Seq.fenced (q : Seq) : Bool := q.stores.isEmpty && q.loads.all fun l => l.value.isSome

/-- What an AMO writes, if anything (R264). -/
def AmoOp.result (op : AmoOp) (old b c : Word) : Option Word :=
  match op with
  | .add => some (old + b)
  | .swp => some b
  | .cas => if old = c then some b else none

/-- An AMO of operation `op` (R264): held under a tag (R252), it waits for its fence, reads and writes
its location atomically, and its destination awaits the old value. -/
def State.amoOp (s : State) (t : TileId) (op : AmoOp) : Res :=
  s.issue t
    (fun i => match i with
      | .amo o sd sa sb sc => if o = op then some (sd, sa, sb, sc) else none
      | _ => none)
    fun s (sd, sa, sb, sc) =>
      let q := (s.tile t).seq
      let a := q.sreg sa
      if q.tag.isSome then none
      else match s.accessFault t a.toNat 8 true with
        | some f => some (s.issueFault t f)
        | none =>
          let s := s.fence t
          if !(s.tile t).seq.fenced then some s
          else
            let push (s : State) (old : Word) (w : Option Word) : State :=
              let bytes := (match w with | some v => leBytes 8 v.toNat | none => []) ++
                (LoadDst.reg sd 8).bytes old
              (s.emit t q.emitTag (.op .seq bytes 0 0)).pushLoad t a 0 (.reg sd 8) (some old)
            match s.locate (.seq t) a.toNat with
            | .mem k =>
              if (s.readUe k 8).isSome then
                some (((s.modSeq t fun q => q.awaitReg sd q.nextId).advance t (q.pc + 8)).faultNow t .addrErr q.pc)
              else
                let old : Word := BitVec.ofNat 64 (s.rdNat k 8)
                match op.result old (q.sreg sb) (q.sreg sc) with
                | some v => some (push (s.wr k (leBytes 8 v.toNat)) old (some v))
                | none => some (push s old none)
            | g =>
              let old : Word := BitVec.ofNat 64 (leNat (s.regRd g 8))
              match op.result old (q.sreg sb) (q.sreg sc) with
              | some v => some (push (s.regWr g 8 v.toNat) old (some v))
              | none => some (push s old none)

/-- AMO.ADD. -/
def execAmoAdd (t : TileId) (s : State) : Res := s.amoOp t .add
/-- AMO.SWP. -/
def execAmoSwp (t : TileId) (s : State) : Res := s.amoOp t .swp
/-- AMO.CAS. -/
def execAmoCas (t : TileId) (s : State) : Res := s.amoOp t .cas

/-! ### Control flow and synchronisation -/

/-- The committed PC (R268) once branch `b` is unresolved: it stays at the oldest unresolved branch. -/
def Seq.pcUpTo (q : Seq) (b : Branch) : Word := if q.branches.isEmpty then b.pc else q.pcCom

/-- BR (R249, R250): resolved at issue on a READY predicate; predicted from HINT on a PENDING one and
tied to the load that predicate awaits. With two branches unresolved a third waits. -/
def execBr (t : TileId) (s : State) : Res :=
  s.issue t
    (fun i => match i with | .br pb neg hint off => some (pb, neg, hint, off) | _ => none)
    fun s (pb, neg, hint, off) =>
      let q := (s.tile t).seq
      let p := q.pred pb
      let goal (taken : Bool) : Word := if taken then q.target off else q.pc + 8
      match p.awaits with
      | none => some (s.retire t [] (goal (p.val != neg)))
      | some load =>
        if 2 ≤ q.branches.length then none
        else
          let b : Branch := ⟨q.nextId, q.emitTag, load, q.pc, neg, hint, goal (!hint), q.regs, q.regPend,
            q.preds, q.phase, (s.tile t).lastMat⟩
          let s := (s.emit t q.emitTag .pred).retire t [] (goal hint)
          some (s.modSeq t fun r => { r with branches := q.branches ++ [b], pcCom := q.pcUpTo b })

/-- JAL (R240). -/
def execJal (t : TileId) (s : State) : Res :=
  s.issue t
    (fun i => match i with | .jal sd off => some (sd, off) | _ => none)
    fun s (sd, off) =>
      let q := (s.tile t).seq
      let link := q.pc + 8
      some ((s.modSeq t fun q => q.setReg sd link).retire t
        (if sd = 0 then [] else leBytes 8 link.toNat) (q.target off))

/-- JR (R240). -/
def execJr (t : TileId) (s : State) : Res :=
  s.issue t (fun i => match i with | .jr sa => some sa | _ => none)
    fun s sa => some (s.retire t [] ((s.tile t).seq.sreg sa))

/-- END (R252, R267): held under a tag; the sequencer stops fetching. -/
def execSeqEnd (t : TileId) (s : State) : Res :=
  s.issue t (fun i => match i with | .stop => some () | _ => none)
    fun s _ =>
      let q := (s.tile t).seq
      if q.tag.isSome then none
      else some ((s.retireNext t []).modSeq t fun q => { q with run := false, ended := true })

/-- FENCE.SC (R262). -/
def execFenceSc (t : TileId) (s : State) : Res :=
  s.issue t (fun i => match i with | .fenceSc => some () | _ => none)
    fun s _ =>
      let s := s.fence t
      some (if (s.tile t).seq.fenced then s.retireNext t [] else s)

/-- FENCE.CO (R263). -/
def execFenceCo (t : TileId) (s : State) : Res :=
  s.issue t (fun i => match i with | .fenceCo wait => some wait | _ => none)
    fun s wait =>
      if (s.tile t).waitsDone wait (s.tile t).seq.nextId then some (s.retireNext t []) else none

/-- WAITSLOT (R247): complete at once when its boundary has been observed, late when the next one has
too; otherwise later instructions wait. A slot number is a signed word, as a base slot can be negative. -/
def execWaitslot (t : TileId) (s : State) : Res :=
  s.issue t (fun i => match i with | .waitslot sa off => some (sa, off) | _ => none)
    fun s (sa, off) =>
      let q := (s.tile t).seq
      let n : Word := BitVec.ofInt 64 s.baseSlot + q.sreg sa + ext32 off
      if s.observed n.toInt then
        let s := if s.observed (n.toInt + 1) then s.emit t q.emitTag .late else s
        some (s.retireNext t [])
      else some (s.modSeq t fun q => { q with slotWait := some n })

/-- The awaited slot boundary is observed: the WAITSLOT completes and issue resumes (R247). -/
def execWaitslotRelease (t : TileId) (s : State) : Res :=
  let q := (s.tile t).seq
  match q.run, q.slotWait with
  | true, some n =>
    if s.observed n.toInt then .next ((s.modSeq t fun q => { q with slotWait := none }).retireNext t [])
    else .next s
  | _, _ => .next s

/-- Whether a phase ID may be named: the image's phase table does not mark it unused (R464). -/
def State.phaseUsed (s : State) (id : BitVec 6) : Bool := s.phaseKind id.toNat != some 0xFF

/-- PHASE (R252): the phase in force changes at once, and its record is written at commit. -/
def execPhase (t : TileId) (s : State) : Res :=
  s.issue t
    (fun i => match i with | .phase id => if s.phaseUsed id then some id else none | _ => none)
    fun s id =>
      let g := (s.tile t).seq.emitTag
      let s := s.modSeq t fun q => { q with phase := id }
      some ((s.emit t g (.phase id s.gtc.count s.step32 (s.tile t).seq.pc)).retireNext t (leBytes 1 id.toNat))

/-- An illegal instruction, or a fetch from outside the stream region, faults (R242, R258, R464). -/
def execIllegalInstr (t : TileId) (s : State) : Res :=
  let q := (s.tile t).seq
  if !(s.tile t).ready then .next s
  else match s.fetch t with
    | none => .next (s.issueFault t .addrErr)
    | some w =>
      let illegal := match decodeIns w with
        | none => true
        | some (.phase id) => !s.phaseUsed id
        | some _ => false
      if !illegal then .next s
      else match q.guard (fPg w) (fPn w) with
        | none => .next s
        | some false => .next (s.retireNext t [])
        | some true => .next (s.issueFault t .illInstr)

/-! ### Issue to a coprocessor -/

/-- Issue a coprocessor instruction (R243): it also waits while its queue is full, and while the run-ahead window is
full, which adds to SEQ_WSTALL (R248). -/
def State.issueCop {α : Type} (s : State) (t : TileId) (sel : SInstr → Option α)
    (full : Tile → Bool) (f : State → α → Option State) : Res :=
  s.issue t sel fun s a =>
    let x := s.tile t
    if 64 ≤ x.window then some (s.modSeq t fun q => { q with nWstall := q.nWstall + 1 })
    else if full x then none
    else f s a

/-- The header of an operation issued now. -/
def Seq.hdr (q : Seq) (wait : BitVec 4) : OpHdr := ⟨q.nextId, q.tag, q.pc, wait⟩

/-- A descriptor of `n` bytes with alignment `al` as R244 reads it at issue: the fault, or its bytes as
the sequencer sees them. -/
def State.descriptor (s : State) (t : TileId) (a : Word) (al n : Nat) : Except ScalarFault (List Byte) :=
  if a.toNat % al != 0 then .error .alignErr
  else match s.locate (.seq t) a.toNat with
    | .mem k =>
      if poolBase t ≤ k ∧ k + n ≤ poolBase t + storeSize then
        .ok (s.seqView t (s.tile t).seq.nextId k n)
      else .error .addrErr
    | _ => .error .addrErr

end Sys2Proof.Machine
end

