-- ==== Sys2Proof/Machine/Speculation.lean ====
section
/-!
DEFINITION. Speculation tags: a load returns and resolves the branches tied to it (R235, R249, R250),
and the coprocessors receive a tag's commit or squash (R251 to R257).
-/
namespace Sys2Proof.Machine

/-! ### Tags in the state -/

/-- A tag replaced by another. -/
def retagOpt (b a : Nat) (g : Option Nat) : Option Nat := if g = some b then some a else g

/-- A tag cleared. -/
def clearOpt (a : Nat) (g : Option Nat) : Option Nat := if g = some a then none else g

/-- An operation's header with its tag changed. -/
def OpHdr.mapTag (h : OpHdr) (f : Option Nat → Option Nat) : OpHdr := { h with tag := f h.tag }

/-- A matrix operation with its tag changed. -/
def MatOp.mapTag (o : MatOp) (f : Option Nat → Option Nat) : MatOp :=
  match o with
  | .pass p => .pass { p with hdr := p.hdr.mapTag f }
  | .epi e => .epi { e with hdr := e.hdr.mapTag f }

/-- A DMA queue entry with its tag changed. -/
def DmaItem.mapTag (i : DmaItem) (f : Option Nat → Option Nat) : DmaItem :=
  match i with
  | .op o => .op { o with hdr := o.hdr.mapTag f }
  | .record k => .record k

/-- The tag of a DMA queue entry; a statistic record has none. -/
def DmaItem.tag : DmaItem → Option Nat
  | .op o => o.hdr.tag
  | .record _ => none

/-- An undo list in which entries of tag `b` become entries of tag `a`; with an older entry of `a`
present, that one says what a squash returns to. -/
def retagUndo {α : Type} (tagOf : α → Nat) (setTag : α → Nat → α) (b a : Nat) (l : List α) : List α :=
  if l.any fun u => tagOf u == a then l.filter fun u => tagOf u != b
  else l.map fun u => if tagOf u == b then setTag u a else u

/-- Every tagged piece of a tile takes a new tag (R250: B resolved as predicted takes tag A). -/
def Tile.retag (x : Tile) (b a : Nat) : Tile :=
  let f := retagOpt b a
  { x with
    seq := { x.seq with
      loads := x.seq.loads.map fun l => { l with tag := f l.tag }
      stores := x.seq.stores.map fun e => { e with tag := f e.tag }
      branches := x.seq.branches.map fun c => { c with own := f c.own }
      spec := x.seq.spec.map fun r => if r.tag = b then { r with tag := a } else r
      held := x.seq.held.map fun h => if h.tag = b then { h with tag := a } else h }
    matQ := x.matQ.map fun o => o.mapTag f
    acc := x.acc.map fun r => if r.undo.isEmpty then r else
      { r with undo := retagUndo (·.stag) (fun u g => { u with stag := g }) b a r.undo }
    rime := { x.rime with
      late := x.rime.late.map fun r => { r with tag := f r.tag }
      gramQ := x.rime.gramQ.map fun g => { g with tag := f g.tag }
      slots := x.rime.slots.map fun l =>
        { l with undo := retagUndo (·.tag) (fun u g => { u with tag := g }) b a l.undo } }
    vec := { x.vec with
      queue := x.vec.queue.map fun o => { o with hdr := o.hdr.mapTag f }
      undo := retagUndo (·.tag) (fun u g => { u with tag := g }) b a x.vec.undo }
    dma := { x.dma with queue := x.dma.queue.map fun i => i.mapTag f } }

/-- Every piece tagged `a` becomes committed; what a squash would have restored is dropped. -/
def Tile.clearTag (x : Tile) (a : Nat) : Tile :=
  let f := clearOpt a
  { x with
    seq := { x.seq with
      loads := x.seq.loads.map fun l => { l with tag := f l.tag }
      stores := x.seq.stores.map fun e => { e with tag := f e.tag }
      branches := x.seq.branches.map fun c => { c with own := f c.own }
      spec := x.seq.spec.filter fun r => r.tag != a
      held := x.seq.held.filter fun h => h.tag != a }
    matQ := x.matQ.map fun o => o.mapTag f
    acc := x.acc.map fun r => if r.undo.isEmpty then r else
      { r with undo := r.undo.filter fun u => u.stag != a }
    rime := { x.rime with
      late := x.rime.late.map fun r => { r with tag := f r.tag }
      gramQ := x.rime.gramQ.map fun g => { g with tag := f g.tag }
      slots := x.rime.slots.map fun l => { l with undo := l.undo.filter fun u => u.tag != a } }
    vec := { x.vec with
      queue := x.vec.queue.map fun o => { o with hdr := o.hdr.mapTag f }
      undo := x.vec.undo.filter fun u => u.tag != a }
    dma := { x.dma with queue := x.dma.queue.map fun i => i.mapTag f } }

/-- An accumulator row after a squash of `a` (R95, R109). -/
def AccRow.squash (r : AccRow) (a : Nat) : AccRow :=
  match r.undo.find? fun u => u.stag == a with
  | some u => ⟨u.tag, u.ents, u.halves, r.undo.takeWhile fun u => u.stag != a⟩
  | none => r

/-- A rime slot after a squash of `a` (R148). -/
def Slot.squash (l : Slot) (a : Nat) : Slot :=
  match l.undo.find? fun u => u.tag == a with
  | some u => { l with ep := u.ep, undo := l.undo.takeWhile fun u => u.tag != a }
  | none => l

/-- The vector registers after a squash of `a` (R229). -/
def Vec.squash (v : Vec) (a : Nat) : Vec :=
  match v.undo.find? fun u => u.tag == a with
  | some u => { v with regs := u.regs, masks := u.masks, undo := v.undo.takeWhile fun u => u.tag != a }
  | none => v

/-- The coprocessors of a tile undo and discard everything tagged `a`. -/
def Tile.squashTag (x : Tile) (a : Nat) : Tile :=
  { x with
    seq := { x.seq with
      loads := x.seq.loads.filter fun l => l.tag != some a
      stores := x.seq.stores.filter fun e => e.tag != some a
      spec := x.seq.spec.filter fun r => r.tag != a
      held := x.seq.held.filter fun h => h.tag != a }
    matQ := x.matQ.filter fun o => o.hdr.tag != some a
    acc := x.acc.map fun r => if r.undo.isEmpty then r else r.squash a
    rime := { x.rime with
      late := x.rime.late.filter fun r => r.tag != some a
      gramQ := x.rime.gramQ.filter fun g => g.tag != some a
      slots := x.rime.slots.map fun l => l.squash a }
    vec := { x.vec.squash a with queue := x.vec.queue.filter fun o => o.hdr.tag != some a }
    dma := { x.dma with queue := x.dma.queue.filter fun i => i.tag != some a } }

/-! ### Completed and committed work leaves -/

/-- Passes that have delivered their last sum and committed are counted (R106) and leave, and so do
vector instructions that are done and committed. -/
def Tile.settle (x : Tile) : Tile :=
  let out := x.matQ.filterMap fun o => match o with
    | .pass p => if p.arrived && p.hdr.tag.isNone then some p else none
    | .epi _ => none
  { x with
    matQ := x.matQ.filter fun o => match o with
      | .pass p => !(p.arrived && p.hdr.tag.isNone)
      | .epi _ => true
    mmrows := out.foldl (fun n p => n + BitVec.ofNat 64 p.d.m) x.mmrows
    mmstall := out.foldl (fun n p => n + p.stall) x.mmstall
    vec := { x.vec with queue := x.vec.queue.filter fun o => !(o.done && o.hdr.tag.isNone) } }

/-! ### Resolution -/

/-- The scalar state a misprediction of `b` returns to (R252), with work tagged in `gone` dropped. -/
def Tile.restore (x : Tile) (b : Branch) (gone : List Nat) : Tile :=
  let bad (g : Option Nat) : Bool := match g with | some k => gone.contains k | none => false
  { x with
    lastMat := b.lastMat
    seq := { x.seq with
      pc := b.other
      regs := b.regs
      regPend := b.regPend
      preds := b.preds
      phase := b.phase
      slotWait := none
      loads := x.seq.loads.filter fun l => !bad l.tag
      stores := x.seq.stores.filter fun e => !bad e.tag
      spec := x.seq.spec.filter fun r => !gone.contains r.tag
      held := x.seq.held.filter fun h => !gone.contains h.tag } }

/-- Branch `b` resolves: as predicted or against its prediction (R250). -/
def State.resolveBranch (s : State) (t : TileId) (b : Branch) (right : Bool) : State :=
  let bs := (s.tile t).seq.branches
  match bs with
  | [] => s
  | a :: rest =>
    if a.tag = b.tag then
      if right then
        s.modSeq t fun q => { q with branches := rest, deliver := q.deliver ++ [(a.tag, true)] }
      else
        let gone := bs.map (·.tag)
        let s := s.modTile t fun x => x.restore a gone
        let s := s.modSeq t fun q => { q with
          branches := [], pcCom := a.other, deliver := q.deliver ++ gone.map fun g => (g, false) }
        s.emit t a.own .mispred
    else if right then
      s.modTile t fun x =>
        let x := x.retag b.tag a.tag
        { x with seq := { x.seq with branches := [a] } }
    else
      let s := s.modTile t fun x => x.restore b [b.tag]
      let s := s.modSeq t fun q => { q with
        branches := [a], deliver := q.deliver ++ [(b.tag, false)] }
      s.emit t b.own .mispred

/-- Resolve, oldest first, every branch tied to load `id`, whose condition is `c`. -/
def State.resolveLoad (t : TileId) (id : Nat) (c : Bool) : Nat → State → State
  | 0, s => s
  | n + 1, s =>
    match (s.tile t).seq.branches.find? fun b => b.loadId == id with
    | none => s
    | some b => State.resolveLoad t id c n (s.resolveBranch t b ((c != b.neg) == b.taken))

/-- What a returning load writes, in the registers or in a branch's saved ones: only where that load
is still the one awaited (R235). -/
def returnReg (id : Nat) (sd : BitVec 5) (w : Word) (regs : Vector Word 32)
    (pend : Vector (Option Nat) 32) : Vector Word 32 × Vector (Option Nat) 32 :=
  if sd ≠ 0 ∧ pend[sd.toFin] = some id then
    (regs.set sd.toFin w, pend.set sd.toFin none)
  else (regs, pend)

/-- The predicate counterpart of `returnReg`. -/
def returnPred (id : Nat) (pd : BitVec 3) (v : Bool) (preds : Vector Pred 8) : Vector Pred 8 :=
  if preds[pd.toFin].awaits = some id then preds.set pd.toFin ⟨v, none⟩ else preds

/-- A load's value reaches its destination, and the state every unresolved branch would restore. -/
def Seq.returnValue (q : Seq) (l : Load) (w : Word) : Seq :=
  match l.dst with
  | .reg sd _ =>
    let r := returnReg l.id sd w q.regs q.regPend
    { q with
      regs := r.1
      regPend := r.2
      branches := q.branches.map fun b =>
        let r := returnReg l.id sd w b.regs b.regPend
        { b with regs := r.1, regPend := r.2 } }
  | .pred pd c =>
    { q with
      preds := returnPred l.id pd (c.holds w) q.preds
      branches := q.branches.map fun b => { b with preds := returnPred l.id pd (c.holds w) b.preds } }

/-- Pending load `k`, in program order, returns (R236): its register or predicate is READY and every
branch tied to it resolves in that cycle (R249). Nothing happens while it cannot be performed. -/
def execLoadReturn (t : TileId) (k : Nat) (s : State) : Res :=
  let s := s.performLoads t
  match (s.tile t).seq.loads[k]? with
  | none => .next s
  | some l =>
    match l.value with
    | none => .next s
    | some w =>
      let s := s.modSeq t fun q => { q.returnValue l w with loads := q.loads.eraseIdx k }
      .next (match l.dst with
        | .pred _ c => State.resolveLoad t l.id (c.holds w) 2 s
        | .reg .. => s)

/-! ### Delivery -/

/-- The fault first in program order of those held under a tag. -/
def firstHeld (h : HeldFault) (hs : List HeldFault) : HeldFault :=
  hs.foldl (fun a b => if b.id < a.id then b else a) h

/-- The committed PC (R268): the oldest unresolved branch's address, or with none PC. -/
def Seq.committedPc (q : Seq) : Word := match q.branches with | b :: _ => b.pc | [] => q.pc

/-- The coprocessors and the shadow state receive the commit of the oldest resolved tag (R251): its
events take effect in order, its work is committed, and a fault held under it takes effect (R256). -/
def execTagCommit (t : TileId) (s : State) : Res :=
  match (s.tile t).seq.deliver with
  | (g, true) :: rest =>
    let x := s.tile t
    let evs := (x.seq.spec.filter fun r => r.tag == g).map (·.ev)
    let held := x.seq.held.filter fun h => h.tag == g
    let s := s.modTile t fun x =>
      let x := x.clearTag g
      { x with seq := { x.seq with deliver := rest, pcCom := x.seq.committedPc } }
    let s := evs.foldl (fun s e => s.commitEv t e) s
    let s := s.modTile t Tile.settle
    let s := match held with
      | h :: hs => s.faultNow t (firstHeld h hs).fault (firstHeld h hs).pc
      | [] => s
    .next (s.rimeGo t)
  | _ => .next s

/-- Sample-buffer rows past the position a squash of `g` returns slot `k` to hold unspecified bytes
(R148). -/
def State.freeSamples (s : State) (t : TileId) (g : Nat) (k : Fin 4) : State :=
  let l := (s.tile t).rime.slots[k]
  match l.undo.find? fun u => u.tag == g with
  | none => s
  | some u =>
    if u.ep.n < l.ep.n then
      s.wrFree (poolBase t + l.desc.spaddr + 256 * (l.ep.no.toNat % 2 * l.desc.splen + u.ep.n.toNat))
        (256 * (l.ep.n.toNat - u.ep.n.toNat))
    else s

/-- The coprocessors receive the squash of the oldest resolved tag (R251) and undo or discard its
work. -/
def execTagSquash (t : TileId) (s : State) : Res :=
  match (s.tile t).seq.deliver with
  | (g, false) :: rest =>
    let s := [0, 1, 2, 3].foldl (fun s k => s.freeSamples t g k) s
    .next ((s.modTile t fun x =>
      let x := x.squashTag g
      { x with seq := { x.seq with deliver := rest } }).rimeGo t)
  | _ => .next s

end Sys2Proof.Machine
end

