-- ==== Sys2Proof/Machine/Rime.lean ====
section
/-!
DEFINITION. The commands of the rime unit (R134, R144, R145, R150 to R155): issue of its instructions, the Gram array,
and the drains with their statistic records.
-/
namespace Sys2Proof.Machine

/-! ### Issue -/

/-- A rime instruction joins its queue with the operands of its issue and executes once it may (R243 to R245). -/
def State.pushRime (s : State) (t : TileId) (wait : BitVec 4) (i : RimeIns) : State :=
  let o : RimeOp := ⟨(s.tile t).seq.hdr wait, i⟩
  ((s.modTile t fun x => { x with rime := { x.rime with queue := x.rime.queue ++ [o] } }).retireNext t []).rimeGo t

/-- Issue of a rime instruction that `sel` takes: held under a tag (R150) and while its queue holds 8 (R243); `f` answers
the state after it, or none while it waits. -/
def State.issueRime {α : Type} (s : State) (t : TileId) (sel : SInstr → Option α)
    (f : State → α → Option State) : Res :=
  s.issueCop t sel (fun x => decide (8 ≤ x.rime.queue.length)) fun s a =>
    if (s.tile t).seq.tag.isSome then none else f s a

/-- RCFG (R134, R135, R244): its descriptor is read at issue. -/
def execRcfg (t : TileId) (s : State) : Res :=
  s.issueRime t (fun i => match i with | .rcfg sa wait off => some (sa, wait, off) | _ => none)
    fun s (sa, wait, off) =>
      match s.descriptor t ((s.tile t).seq.sreg sa + ext32 off) 32 32 with
      | .error f => some (s.issueFault t f)
      | .ok b => some (s.pushRime t wait (.cfg b))

/-- RBIND (R134, R137). -/
def execRbind (t : TileId) (s : State) : Res :=
  s.issueRime t
    (fun i => match i with | .rbind wait bEn sb aEn sa => some (wait, bEn, sb, aEn, sa) | _ => none)
    fun s (wait, bEn, sb, aEn, sa) => some (s.pushRime t wait (.bind ⟨aEn, sa.toFin, bEn, sb.toFin⟩))

/-- RDRAIN (R151, R152): it stalls at issue while the slot's previous drain is pending. -/
def execRdrain (t : TileId) (s : State) : Res :=
  s.issueRime t
    (fun i => match i with | .rdrain sa wait slot off => some (sa, wait, slot, off) | _ => none)
    fun s (sa, wait, slot, off) =>
      if (s.tile t).rime.draining slot.toFin then none
      else some (s.pushRime t wait (.drain slot.toFin ((s.tile t).seq.sreg sa + ext32 off)))

/-! ### The Gram array -/

/-- The index of entry (i, j), i ≤ j, in a slot's list of entries, row by row. -/
def triIx (n i j : Nat) : Nat := i * n - i * (i - 1) / 2 + (j - i)

/-- The entries after one row (R144), with the flags it sets. -/
def gramAdd (vals : List (BitVec 16)) (ents : List (BitVec 48)) : List (BitVec 48) × Flags :=
  let rec go : List FV → List (BitVec 48) → List (BitVec 48) × Flags
    | [], _ => ([], 0)
    | a :: as, es =>
      let here := ((a :: as).zip es).map fun p =>
        let old := fA48.decode p.2.toNat
        let v := FV.add .rne old (FV.mul a p.1)
        let r := fA48.rne v
        (BitVec.ofNat 48 r.1, r.2 ||| flagIf (v.isNan && !old.isNan) fNanGen)
      let rest := go as (es.drop (a :: as).length)
      (here.map Prod.fst ++ rest.1, here.foldl (fun f p => f ||| p.2) rest.2)
  go (vals.map fun c => fBF16.decode c.toNat) ents

/-- The Gram array takes the row at the head of its order (R144, R145): not while its tag is unresolved
(R148) nor while a drain of an earlier epoch of its slot has not read the entries. -/
def execGramRow (t : TileId) (s : State) : Res :=
  match (s.tile t).rime.gramQ with
  | [] => .next s
  | g :: rest =>
    let l := s.slot4 t g.slot
    let blocked := match l.drain with
      | some d => d.record.isNone && g.epoch != d.ep.no
      | none => false
    if g.tag.isSome || blocked then .next s
    else
      let r := gramAdd g.vals l.entries
      let s := s.modSlot t g.slot fun l => { l with entries := r.1 }
      let s := s.modTile t fun x => { x with rime := { x.rime with
        gramQ := rest, rows := x.rime.rows + 1 } }
      .next (s.emit t none (.op .rime (r.1.flatMap fun e => leBytes 6 e.toNat) r.2 0))

/-! ### Drains -/

/-- The ten delta blocks in order (R154). -/
def deltaBlocks : List (Nat × Nat) :=
  [(0, 0), (0, 1), (0, 2), (0, 3), (1, 1), (1, 2), (1, 3), (2, 2), (2, 3), (3, 3)]

/-- The entries of one delta block (R154). -/
def deltaEntries (ents : List (BitVec 48)) (b : Nat × Nat) : List (BitVec 48) :=
  (List.range 32).flatMap fun u =>
    let from_ := if b.1 == b.2 then u else 0
    tab (32 - from_) fun v => ents.getD (triIx 128 (32 * b.1 + u) (32 * b.2 + from_ + v)) 0

/-- Whether an entry counts as nonzero (R155). -/
def entNonzero (e : BitVec 48) : Bool := e.toNat % 2 ^ 47 != 0

/-- The statistic record of an ended epoch (R153 to R155). -/
def statRecord (t : TileId) (k : Fin 4) (l : Slot) (ep : Epoch) : List Byte :=
  let blocks := deltaBlocks.map (deltaEntries l.entries)
  let mask := (blocks.zip (List.range 10)).foldl
    (fun m p => m + flagBit p.2 (p.1.any entNonzero)) 0
  let nonfin := l.entries.any fun e => !(fA48.decode e.toNat).isFin
  leBytes 4 l.desc.statId.toNat ++ leBytes 4 ep.step.toNat ++ leBytes 8 ep.n.toNat ++
    leBytes 4 l.desc.kappa.toNat ++ leBytes 4 l.desc.seed.toNat ++ leBytes 2 mask ++
    leBytes 1 l.desc.kind.toNat ++ leBytes 1 l.desc.dlog ++
    leBytes 1 (flagBit 0 ep.zeroed + flagBit 1 ep.full + flagBit 2 nonfin) ++
    leBytes 1 t.val ++ leBytes 1 k.val ++ leBytes 1 0 ++ leBytes 8 ep.q.toNat ++
    leBytes 8 ep.no.toNat ++ leBytes 16 0 ++
    blocks.flatMap fun b => b.flatMap fun e => leBytes 6 e.toNat

/-- Whether a pass issued before the drain `id` may still give slot `k` rows of the ended epoch. -/
def Tile.passesTo (x : Tile) (id : Nat) (k : Fin 4) : Bool :=
  x.matQ.any fun o => match o with
    | .pass p => p.hdr.id < id && p.d.rime && p.row < p.d.m &&
        ((p.bind.aEn && p.bind.slotA == k) || (p.bind.bEn && p.bind.slotB == k))
    | .epi _ => false

/-- Steps 1 to 3 of R151: once every row of the ended epoch is complete, the entries are read and set
to +0, and the record is handed to the DMA engine. -/
def execRimeDrainRead (t : TileId) (slot : Fin 4) (s : State) : Res :=
  let x := s.tile t
  let l := s.slot4 t slot
  match l.drain with
  | none => .next s
  | some d =>
    if d.record.isSome || x.passesTo d.id slot ||
        x.rime.gramQ.any (fun g => g.slot == slot && g.epoch == d.ep.no) then .next s
    else
      let b := statRecord t slot l d.ep
      let s := s.modSlot t slot fun l =>
        { l with entries := List.replicate 8256 0, drain := some { d with record := some b } }
      .next (s.modTile t fun x => { x with dma := { x.dma with queue := x.dma.queue ++ [.record slot] } })

/-- A fault of the DMA engine is recorded (R291, R298). -/
def Tile.dmaRecord (x : Tile) (f : DmaFault) : Tile :=
  { x with dma := { x.dma with
      faultIdx := BitVec.ofNat 32 f.unit
      faultAddr := BitVec.ofNat 64 f.addr } }

/-- The fault recorded: the lowest code, at its first address (R292). -/
def lowestFault : List (Nat × Nat) → Option (Nat × Nat)
  | [] => none
  | f :: fs =>
    match lowestFault fs with
    | none => some f
    | some g => if f.1 < g.1 ∨ (f.1 = g.1 ∧ f.2 ≤ g.2) then some f else some g

/-- The DMA_STAT bit of a cause (R297). -/
def dmaStatBit (cause : Nat) : Nat :=
  match cause with
  | 6 => 4
  | 7 | 8 => 3
  | 9 => 5
  | 0x10 => 0
  | 0x11 => 1
  | _ => 2

/-- What the write of a statistic record meets (R151 step 5, R292): a read-only region, an uncorrectable line. -/
def State.recordFault (s : State) (a n : Nat) : Option (Nat × Nat) :=
  lowestFault ((((List.range n).find? fun i => s.readOnly (a + i)).map fun i => (5, a + i)).toList ++
    ((s.writeUe a n).map fun l => (7, l)).toList)

/-- Steps 4 and 5 of R151: the record at the head of the DMA engine's order is written, or its write faults as one
unit of index 0. -/
def execRimeDrainDone (t : TileId) (slot : Fin 4) (s : State) : Res :=
  let x := s.tile t
  let l := s.slot4 t slot
  match x.dma.queue, l.drain with
  | .record k :: rest, some d =>
    match d.record with
    | none => .next s
    | some b =>
      if k ≠ slot then .next s
      else
        let pop (s : State) : State :=
          (s.modTile t fun x => { x with dma := { x.dma with queue := rest } }).modSlot t slot
            fun l => { l with drain := none }
        match s.recordFault d.addr.toNat b.length with
        | some f =>
          let s := (pop s).modTile t fun x => x.dmaRecord ⟨0, f.1, f.2⟩
          .next ((s.copFault t .dma (dmaStatBit f.1) d.id d.pc).rimeGo t)
        | none =>
          let s := (pop s).wr d.addr.toNat b
          let s := s.modTile t fun x => { x with rime := { x.rime with drains := x.rime.drains + 1 } }
          .next ((s.emit t none (.op .rime b 0 0)).rimeGo t)
  | _, _ => .next s

end Sys2Proof.Machine
end

