-- ==== Sys2Proof/Machine/Matrix.lean ====
section
/-!
DEFINITION. Matrix passes (R72 to R97, R106, R107): descriptors and their checks, operand layouts,
chunk sums into accumulator rows, and how passes start, stream and complete.
-/
namespace Sys2Proof.Machine

/-! ### Descriptors -/

/-- The fields of a pass descriptor (R75). -/
def PassDesc.ofBytes (b : List Byte) : PassDesc where
  sfmt := leAt b 0 1 % 16
  wfmt := leAt b 0 1 / 16
  acc := leAt b 1 1 % 4
  rime := (leAt b 1 1).testBit 2
  m := leAt b 2 2 + 1
  kx := leAt b 4 2
  nx := leAt b 6 2
  saddr := leAt b 8 4
  waddr := leAt b 12 4
  sscale := leAt b 16 4
  wscale := leAt b 20 4
  accRow := leAt b 24 2
  resv := leAt b 1 1 / 8 != 0 || leAt b 26 6 != 0

/-- The formats that run in double-depth mode (R74): MXFP6 and MXFP4. -/
def isDeep (c : Nat) : Bool := c == 0x8 || c == 0x9 || c == 0xA

/-- The operand pairs of R51. -/
def pairOk (a b : Nat) : Bool :=
  (a == b && (a < 4 || a == 0xB)) ||
    ((a == 4 || a == 5) && (b == 4 || b == 5)) ||
    ((a == 6 || a == 7) && (b == 6 || b == 7)) ||
    (isDeep a && isDeep b)

/-- Whether a pass runs in double-depth mode (R74). -/
def PassDesc.deep (d : PassDesc) : Bool := isDeep d.sfmt && isDeep d.wfmt

/-- Whether a pass accumulates in A96 (R54). -/
def PassDesc.a96 (d : PassDesc) : Bool := d.sfmt == 0

/-- The accumulation format of a pass. -/
def PassDesc.accFmt (d : PassDesc) : FFmt := if d.a96 then fA96 else fA48

/-- The bytes of a stream word or a weight column (S of R85, C of R83). -/
def sliceBytes (c : Nat) : Nat := elemBytes c (if isDeep c then 256 else 128)

/-- MX blocks per stream row or weight column (R83, R86): 4 for MXFP8, 8 for MXFP6 and MXFP4. -/
def sliceBlocks (c : Nat) : Nat := if isDeep c then 8 else 4

/-- Weight columns of a tile (R83). -/
def weightCols (c : Nat) : Nat := if c == 0 then 128 else 256

/-- Whether a region lies in the tile store and its address is a multiple of `al`. -/
def regionOk (a al n : Nat) : Bool := a % al == 0 && inStore a n

/-- The first failing check of R81, as its TILE_MMSTAT bit; `w` is the presented width W. -/
def PassDesc.check (d : PassDesc) (w : Nat) : Option Nat :=
  let maxK := if d.deep then 256 else 128
  if !pairOk d.sfmt d.wfmt then some 0
  else if d.nx == 0 || (if d.a96 then w / 2 else w) < d.nx then some 1
  else if d.kx == 0 || maxK < d.kx || (isMxFmt d.sfmt && d.kx % 32 != 0) || 2047 < d.accRow ||
      (d.acc < 2 && 2048 < d.accRow + d.m) then some 2
  else if !(regionOk d.saddr 64 (sliceBytes d.sfmt * (d.m + 127)) &&
      regionOk d.waddr 64 (sliceBytes d.wfmt * weightCols d.wfmt) &&
      (!isMxFmt d.sfmt || (inStore d.sscale (d.m * sliceBlocks d.sfmt) &&
        inStore d.wscale (weightCols d.wfmt * sliceBlocks d.wfmt)))) then some 3
  else if d.acc == 3 || d.resv then some 4
  else none

/-- The tile-store regions a pass reads, and the sample buffers of its bound slots, as keys. -/
def PassOp.foot (x : Tile) (t : TileId) (p : PassOp) : List (Nat × Nat) :=
  let d := p.d
  let buf (en : Bool) (k : Fin 4) : List (Nat × Nat) :=
    if d.rime && en then
      [(poolBase t + x.rime.slots[k].desc.spaddr, 512 * x.rime.slots[k].desc.splen)] else []
  [(poolBase t + d.saddr, sliceBytes d.sfmt * (d.m + 127)),
   (poolBase t + d.waddr, sliceBytes d.wfmt * weightCols d.wfmt)] ++
  (if isMxFmt d.sfmt then
    [(poolBase t + d.sscale, d.m * sliceBlocks d.sfmt),
     (poolBase t + d.wscale, weightCols d.wfmt * sliceBlocks d.wfmt)] else []) ++
  buf p.bind.aEn p.bind.slotA ++ buf p.bind.bEn p.bind.slotB

/-! ### Operands -/

/-- Elements of a packing group, and its bytes (R48). -/
def packGroup (c : Nat) : Nat × Nat :=
  match elemBits c with
  | 6 => (4, 3)
  | 4 => (2, 1)
  | n => (1, n / 8)

/-- The code of the element at K position `k` of stream row `i` (R85). -/
def State.streamCode (s : State) (t : TileId) (d : PassDesc) (i k : Nat) : Nat :=
  let lane := if d.deep then k / 2 else k
  let g := packGroup d.sfmt
  let a := d.saddr + (i + lane) * sliceBytes d.sfmt + k / g.1 * g.2
  unpackElem d.sfmt (s.tsRd t a g.2) (k % g.1)

/-- The KX values of stream row `i`, with their MX scales (R85, R86). -/
def State.streamRow (s : State) (t : TileId) (d : PassDesc) (i : Nat) : List FV :=
  tab d.kx fun k =>
    let sc := if isMxFmt d.sfmt then
        leNat (s.tsRd t (d.sscale + i * sliceBlocks d.sfmt + k / 32) 1) else 0
    decodeScaled d.sfmt (s.streamCode t d i k) sc

/-- The NX weight columns as a load latches them: KX codes each (R83). -/
def State.latchWeights (s : State) (t : TileId) (d : PassDesc) : List (List Nat) :=
  tab d.nx fun j =>
    unpackElems d.wfmt d.kx (s.tsRd t (d.waddr + j * sliceBytes d.wfmt) (sliceBytes d.wfmt))

/-- The MX scales of the weight columns (R83). -/
def State.latchScales (s : State) (t : TileId) (d : PassDesc) : List (List Nat) :=
  if isMxFmt d.wfmt then
    tab d.nx fun j => (s.tsRd t (d.wscale + j * sliceBlocks d.wfmt) (sliceBlocks d.wfmt)).map (·.toNat)
  else tab d.nx fun _ => []

/-- A weight column as values. -/
def weightVals (c : Nat) (codes scales : List Nat) : List FV :=
  (codes.zip (List.range codes.length)).map fun p => decodeScaled c p.1 (scales.getD (p.2 / 32) 0)

/-! ### Accumulator rows -/

/-- Accumulator row `r` of a tile. -/
def Tile.accRow (x : Tile) (r : Nat) : AccRow := x.acc.getD r .zero

/-- Change accumulator row `r`. -/
def State.modRow (s : State) (t : TileId) (r : Nat) (f : AccRow → AccRow) : State :=
  s.modTile t fun x => { x with acc := x.acc.modify r f }

/-- Remember what a row held before the first write under a tag (R95, R109). -/
def AccRow.save (r : AccRow) (g : Option Nat) : AccRow :=
  match g with
  | none => r
  | some k => if r.undo.any fun u => u.stag == k then r
      else { r with undo := r.undo ++ [⟨k, r.tag, r.ents, r.halves⟩] }

/-- The 48-bit columns of `n` A96 entries or A48 entries from `vals` (R54). -/
def columnsOf (a96 : Bool) (vals : List Nat) : List (BitVec 48) :=
  if a96 then vals.flatMap fun v => [BitVec.ofNat 48 v, BitVec.ofNat 48 (v / 2 ^ 48)]
  else vals.map fun v => BitVec.ofNat 48 v

/-- Entry `j` of a row: A96 entry j lies in columns 2j and 2j + 1 (R54). -/
def AccRow.entry (r : AccRow) (a96 : Bool) (j : Nat) : Nat :=
  if a96 then (r.ents.getD (2 * j) 0).toNat + (r.ents.getD (2 * j + 1) 0).toNat * 2 ^ 48
  else (r.ents.getD j 0).toNat

/-- Entry `j` as a pass or an epilogue reads it; `n` numbers the free value that a read of half of an A96 entry as A48
returns (R54). -/
def AccRow.value (r : AccRow) (a96 : Bool) (n j : Nat) : Nat :=
  if !a96 && r.halves.getLsbD j then (Config.halfRead n j).toNat else r.entry a96 j

/-- Replace a row's leading columns and set its tag; the columns past them are not written (R76). -/
def State.putRow (s : State) (t : TileId) (r : Nat) (g : Option Nat) (tag : RowTag)
    (cols : List (BitVec 48)) : State :=
  s.modRow t r fun x =>
    let lead := BitVec.ofNat 256 (2 ^ cols.length - 1)
    { x.save g with
      tag := tag
      ents := cols ++ x.ents.drop cols.length
      halves := if tag = .a96 then x.halves ||| lead else x.halves &&& ~~~lead }

/-- A row becomes POISONED: its entries hold unspecified values (R107). -/
def State.poisonRow (s : State) (t : TileId) (r : Nat) (g : Option Nat) : State :=
  let n := s.takeFree
  n.2.modRow t r fun x =>
    { x.save g with tag := .poisoned, ents := tab 256 fun i => Config.freeEntry (256 * n.1 + i), halves := 0 }

/-! ### One stream row -/

/-- The chunk sums of one output element (R69, R78), in order. -/
def chunkSums (d : PassDesc) (row col : List FV) : List (Nat × Flags) :=
  if d.deep && 128 < d.kx then
    [chunkSum d.accFmt (row.take 128) (col.take 128), chunkSum d.accFmt (row.drop 128) (col.drop 128)]
  else [chunkSum d.accFmt row col]

/-- Chunk sums added to an entry one after another (R69 step 4), with the flags. -/
def addChunks (f : FFmt) (entry : Nat) (cs : List (Nat × Flags)) : Nat × Flags :=
  cs.foldl (fun a c =>
    let r := accAdd f a.1 c.1
    (r.1, a.2 ||| c.2 ||| r.2)) (entry, 0)

/-- The rime unit meets stream row `p.row` of a pass with CTRL.RIME set (R132). -/
def State.rimeObserve (s : State) (t : TileId) (p : PassOp) (row : List FV) : State :=
  if p.d.rime then s.rimeRow t ⟨p.hdr.id, p.hdr.tag, p.phase, p.d.deep, p.bind, p.epochs, row⟩ else s

/-- The accumulator row of stream row `i` (R76). -/
def PassDesc.rowOf (d : PassDesc) (i : Nat) : Nat := (d.accRow + i) % 2048

/-- The pass in the matrix queue with id `id`, replaced. -/
def State.setPass (s : State) (t : TileId) (p : PassOp) : State :=
  s.modTile t fun x => { x with matQ := x.matQ.map fun o => match o with
    | .pass q => if q.hdr.id = p.hdr.id then .pass p else o
    | .epi _ => o }

/-- The next stream row of a started pass: sampled by the rime unit, and its sums added into its
accumulator row (R76, R77, R107). -/
def State.passRow (s : State) (t : TileId) (p : PassOp) : State :=
  let d := p.d
  let r := d.rowOf p.row
  let vals := s.streamRow t d p.row
  let s := s.rimeObserve t p vals
  let old := (s.tile t).accRow r
  let n := if d.acc == 1 && !d.a96 && old.halves != 0 then s.takeFree else (s.free, s)
  let s := n.2
  let want : RowTag := if d.a96 then .a96 else .a48
  let sums := (p.weights.zip p.wscales).map fun w => chunkSums d vals (weightVals d.wfmt w.1 w.2)
  let poison := d.acc == 1 && old.tag != want
  let outs := (sums.zip (List.range sums.length)).map fun c =>
    if poison then (0, c.1.foldl (fun f x => f ||| x.2) 0)
    else addChunks d.accFmt (if d.acc == 1 then old.value d.a96 n.1 c.2 else 0) c.1
  let cols := columnsOf d.a96 (outs.map Prod.fst)
  let s := if poison then s.poisonRow t r p.hdr.tag else s.putRow t r p.hdr.tag want cols
  s.setPass t { p with
    row := p.row + 1
    flags := outs.foldl (fun f x => f ||| x.2) p.flags
    out := if s.gtc.lsEn then p.out ++ (cols.flatMap fun c => leBytes 6 c.toNat) else p.out }

/-- The epilogue bound to a pass, if it is in the queue (R121). -/
def Tile.boundEpi (x : Tile) (id : Nat) : Option EpiOp :=
  x.matQ.findSome? fun o => match o with
    | .epi e => match e.bound with
      | some b => if b.id = id then some e else none
      | none => none
    | .pass _ => none

/-- The pass with id `id`. -/
def Tile.passOf (x : Tile) (id : Nat) : Option PassOp :=
  x.matQ.findSome? fun o => match o with
    | .pass p => if p.hdr.id = id then some p else none
    | .epi _ => none

/-- How many stream rows of a pass may have entered (R92): with a bound epilogue, row i waits until
the row 2,048 before it has been read. -/
def Tile.rowLimit (x : Tile) (p : PassOp) : Nat :=
  match x.boundEpi p.hdr.id with
  | some e => min p.d.m (e.row + 2048)
  | none => p.d.m

/-- Let rows of pass `id` enter until `goal` of them have, at most `n`. -/
def State.streamTo (t : TileId) (id goal : Nat) : Nat → State → State
  | 0, s => s
  | n + 1, s =>
    match (s.tile t).passOf id with
    | none => s
    | some p =>
      if p.started && p.row < goal && p.row < (s.tile t).rowLimit p then
        State.streamTo t id goal n (s.passRow t p)
      else s

/-- Let every row of pass `id` enter that may. -/
def State.streamAll (s : State) (t : TileId) (id : Nat) : State :=
  match (s.tile t).passOf id with
  | none => s
  | some p => State.streamTo t id p.d.m (p.d.m - p.row) s

/-! ### Issue, start and completion -/

/-- Operations of the matrix class that wait in the queue (R243): those not started. -/
def Tile.matWaiting (x : Tile) : Nat := (x.matQ.filter fun o => !o.started).length

/-- MPASS (R75, R240, R244): the descriptor is read and the pass joins the queue with the phase, the
binding and the epochs of its issue (R132). -/
def execMpass (t : TileId) (s : State) : Res :=
  s.issueCop t (fun i => match i with | .mpass sa wait off => some (sa, wait, off) | _ => none)
    (fun x => decide (16 ≤ x.matWaiting))
    fun s (sa, wait, off) =>
      let x := s.tile t
      let q := x.seq
      match s.descriptor t (q.sreg sa + ext32 off) 32 32 with
      | .error f => some (s.issueFault t f)
      | .ok b =>
        let d := PassDesc.ofBytes b
        let p : PassOp := ⟨q.hdr wait, d, q.phase, x.rime.bindNext, Vector.ofFn x.rime.epochNext, false, [],
          [], 0, 0, false, 0, []⟩
        let s := s.modTile t fun x => { x with
          matQ := x.matQ ++ [.pass p]
          lastMat := some ⟨q.nextId, d.acc == 2, d.m, d.accRow⟩ }
        some (s.retireNext t [])

/-- The first operation of the matrix class that has not started. -/
def Tile.nextMat (x : Tile) : Option MatOp := x.matQ.find? fun o => !o.started

/-- Whether row `r` is one an epilogue has yet to read. -/
def EpiOp.unread (e : EpiOp) (r : Nat) : Bool :=
  match e.bound with
  | some b => (List.range (min 2048 (b.m - e.row))).any fun i => (b.accRow + e.row + i) % 2048 == r
  | none => decide (e.d.accRow + e.row ≤ r ∧ r < e.d.accRow + e.d.nr)

/-- Whether an earlier epilogue has yet to read a row that a pass writes, which holds the pass, unless it is a STREAM
pass with no bound epilogue (R92). -/
def Tile.rowsHeld (x : Tile) (p : PassOp) : Bool :=
  !(p.d.acc == 2 && (x.boundEpi p.hdr.id).isNone) && x.matQ.any fun o => match o with
    | .epi e => e.hdr.id < p.hdr.id &&
        (List.range (min 2048 p.d.m)).any fun i => e.unread (p.d.rowOf i)
    | .pass _ => false

/-- Remove an operation of the matrix class from the queue. -/
def State.dropMat (s : State) (t : TileId) (id : Nat) : State :=
  s.modTile t fun x => { x with matQ := x.matQ.filter fun o => o.hdr.id != id }

/-- A pass starts (R81, R91, R92): in issue order, once its waits are satisfied, the committed stores
before it are visible, every row of the pass before it has entered and no earlier epilogue has still
to read its rows. A descriptor that fails R81 faults instead. -/
def execPassStart (t : TileId) (s : State) : Res :=
  match (s.tile t).nextMat with
  | some (.pass p) =>
    let s := s.drainStores t
    let s := (s.tile t).matQ.foldl (fun s o => if o.started then s.streamAll t o.hdr.id else s) s
    let x := s.tile t
    let streaming := x.matQ.any fun o => match o with
      | .pass q => q.started && decide (q.row < q.d.m)
      | .epi _ => false
    if !x.mayStart p.hdr.wait p.hdr.id || !s.storesAllow t p.hdr.id (p.foot x t) || streaming then
      .next s
    else match p.d.check x.width.toNat with
      | some bit =>
        .next (((s.dropMat t p.hdr.id).emit t p.hdr.tag (.copFault .mat bit p.hdr.id p.hdr.pc)).rimeGo t)
      | none =>
        if x.rowsHeld p then .next s
        else .next (s.setPass t { p with
          started := true
          weights := s.latchWeights t p.d
          wscales := s.latchScales t p.d })
  | _ => .next s

/-- The oldest started pass's remaining rows enter and its last partial sum arrives (R89), `stall`
cycles later than the row interval gives (R106). With a bound epilogue still to read rows, only the
rows that R92 lets in do. -/
def execPassComplete (t : TileId) (stall : Word) (s : State) : Res :=
  let first := (s.tile t).matQ.findSome? fun o => match o with
    | .pass p => if p.started && !p.arrived then some p.hdr.id else none
    | .epi _ => none
  match first with
  | none => .next s
  | some id =>
    let s := s.streamAll t id
    match (s.tile t).passOf id with
    | none => .next s
    | some p =>
      if p.row < p.d.m then .next s
      else
        let s := s.setPass t { p with arrived := true, stall := stall }
        let s := s.emit t p.hdr.tag (.op .mat p.out p.flags 0)
        .next ((s.modTile t Tile.settle).rimeGo t)

end Sys2Proof.Machine
end

