-- ==== Sys2Proof/Machine/Dma.lean ====
section
/-!
DEFINITION. The DMA engine (R282 to R299): descriptors and their checks, units, faults and restart,
speculative transfers, completion.
-/
namespace Sys2Proof.Machine

/-! ### Descriptors -/

/-- The fields of a DMA descriptor (R284). -/
def DmaDesc.ofBytes (b : List Byte) : DmaDesc where
  kind := leAt b 0 1
  soft := (leAt b 1 1).testBit 0
  idx64 := (leAt b 1 1).testBit 1
  crec := (leAt b 1 1).testBit 2
  fmt := leAt b 2 1 % 16
  tag := leAt b 2 1 / 16 % 4
  len := leAt b 4 4
  cnt1 := leAt b 8 4
  cnt2 := leAt b 12 4
  src := leAt b 16 8
  dst := leAt b 24 8
  sstr1 := leAt b 32 4
  sstr2 := leAt b 36 4
  dstr1 := leAt b 40 4
  dstr2 := leAt b 44 4
  idx := leAt b 48 8
  start := leAt b 56 4
  caddr := leAt b 60 4
  resv := leAt b 1 1 / 8 != 0 || leAt b 2 1 / 64 != 0 || leAt b 3 1 != 0

/-- Units of an operation (R285). -/
def DmaDesc.units (d : DmaDesc) : Nat :=
  match d.kind with
  | 0 => d.cnt1 * d.cnt2
  | 1 => d.len + 127
  | _ => d.cnt1

/-- Whether CADDR can take the completion record (R290). -/
def DmaDesc.recordOk (d : DmaDesc) : Bool := d.caddr % 32 == 0 && inStore d.caddr 32

/-- Whether a kind's counts, lengths and addresses are those of R285. -/
def DmaDesc.rangesOk (d : DmaDesc) : Bool :=
  let within (v lo hi : Nat) : Bool := decide (lo ≤ v ∧ v ≤ hi)
  match d.kind with
  | 0 => within d.len 1 (2 ^ 24) && within d.cnt1 1 (2 ^ 24) && within d.cnt2 1 (2 ^ 24) &&
      decide (d.cnt1 * d.cnt2 < 2 ^ 32)
  | 1 => within d.len 1 65536 && within d.cnt1 1 128 && d.dst % 64 == 0
  | 2 | 3 => within d.len 1 (2 ^ 20) && within d.cnt1 1 (2 ^ 24)
  | 4 => decide (1 ≤ d.cnt1 ∧ d.src + d.cnt1 ≤ 2048) && d.dst % 64 == 0 && d.dstr1 % 64 == 0 &&
      decide (1536 ≤ d.dstr1)
  | 5 => decide (1 ≤ d.cnt1 ∧ d.dst + d.cnt1 ≤ 2048) && d.src % 64 == 0 && d.sstr1 % 64 == 0 &&
      decide (1536 ≤ d.sstr1)
  | _ => false

/-- The check before the first unit (R290): the code of the fault. -/
def DmaDesc.check (d : DmaDesc) : Option Nat :=
  let acc := d.kind == 4 || d.kind == 5
  if d.resv || !d.rangesOk || (d.kind != 1 && !acc && d.fmt != 0) || (!acc && d.tag != 0) ||
      d.tag == 3 || decide (d.units < d.start) || (d.crec && !d.recordOk) then some 0x10
  else if (d.kind == 1 && decide (0xB < d.fmt)) || (acc && d.fmt != 0xC) then some 0x11
  else none

/-! ### Where a DMA engine's accesses go -/

/-- A byte as a DMA engine reaches it: of memory, or of host memory through a grant (R270, R505). -/
inductive DmaLoc where
  | mem (key : Nat)
  | host (p : PciePort) (a : Nat)
  deriving DecidableEq, Repr

/-- The byte at a map address, none where nothing is mapped for the access. -/
def State.dmaLoc (s : State) (t : TileId) (writes : Bool) (a : Nat) : Option DmaLoc :=
  match s.locate (.dma t) a with
  | .mem k => some (.mem k)
  | .host o =>
    match s.ouvzu.grants.find? fun g => g.win ≤ o && o < g.win + g.len && (!writes || g.write) with
    | some g => some (.host g.port (g.host + (o - g.win)))
    | none => none
  | _ => none

/-- The first byte of a range that maps to nothing. -/
def State.dmaHole (s : State) (t : TileId) (writes : Bool) (r : Nat × Nat) : Option Nat :=
  ((List.range r.2).map fun i => (r.1 + i) % 2 ^ 64).find? fun a => (s.dmaLoc t writes a).isNone

/-- The bytes of a range that maps. -/
def State.dmaRead (s : State) (t : TileId) (r : Nat × Nat) : List Byte :=
  match s.dmaLoc t false r.1 with
  | some (.mem k) => s.rd k r.2
  | _ => tab r.2 fun i => match s.dmaLoc t false (r.1 + i) with
    | some (.host p a) => leNat (s.hostRd p a 1)
    | _ => 0

/-- A range's physical start: both views of the tile's own store are one (R270). -/
def dmaPhys (t : TileId) (a : Nat) : Nat := if a < storeSize then poolBase t + a else a

/-- The first byte of the source range that lies in the destination range, as a source address. -/
def dmaOverlap (t : TileId) (src dst : Nat × Nat) : Option Nat :=
  let ps := dmaPhys t src.1
  let pd := dmaPhys t dst.1
  let lo := if ps < pd then pd else ps
  if lo < ps + src.2 ∧ lo < pd + dst.2 then some (src.1 + (lo - ps)) else none

/-! ### Units -/

/-- A unit's ranges: what it reads, what it writes, the pairs that must not overlap, and the faults
its index met (code and address). -/
structure DmaUnit where
  srcs : List (Nat × Nat)
  dsts : List (Nat × Nat)
  pair : List ((Nat × Nat) × (Nat × Nat))
  bad  : List (Nat × Nat)
  deriving DecidableEq, Repr

/-- Bits of one lane of a stream word (R85). -/
def laneBits (c : Nat) : Nat := sliceBytes c / 16

/-- The lanes of word `j` that hold a row: the lane and the bytes its row keeps it in (R85, R286). -/
def DmaDesc.lanes (d : DmaDesc) (j : Nat) : List (Nat × (Nat × Nat)) :=
  ((List.range d.cnt1).filter fun l => l ≤ j && j - l < d.len).map fun l =>
    let b := laneBits d.fmt * l
    (l, ((d.src + (j - l) * d.sstr1 + b / 8) % 2 ^ 64, cdiv (b % 8 + laneBits d.fmt) 8))

/-- Where a PCIe request of an operation ends in error (R292): the unit it belongs to and the map address of its first
byte; none where every request completes. -/
abbrev HostErr := Option (Nat × Word)

/-- The failing request among those of unit `j` for a range that maps to the host: its first byte. -/
def HostErr.at (e : HostErr) (j : Nat) (r : Nat × Nat) : Option Nat :=
  match e with
  | some (k, a) => if k = j ∧ r.1 ≤ a.toNat ∧ a.toNat < r.1 + r.2 then some a.toNat else none
  | none => none

/-- The first byte of a range in host memory behind a port that sends no requests (R506). -/
def State.hostRefused (s : State) (t : TileId) (writes : Bool) (r : Nat × Nat) : Option Nat :=
  ((List.range r.2).map fun i => (r.1 + i) % 2 ^ 64).find? fun a => match s.dmaLoc t writes a with
    | some (.host p _) => !(s.fn p).masters
    | _ => false

/-- Index word `j` (R285): its value, or the fault it meets. -/
def State.dmaIndex (s : State) (t : TileId) (d : DmaDesc) (err : HostErr) (j : Nat) :
    Except (Nat × Nat) Nat :=
  let n := if d.idx64 then 8 else 4
  let a := (d.idx + j * n) % 2 ^ 64
  if (s.dmaHole t false (a, n)).isSome then .error (3, a)
  else
    let x := leNat (s.dmaRead t (a, n))
    match s.dmaLoc t false a with
    | some (.mem k) =>
      match s.readUe k n with
      | some l => .error (7, l)
      | none => if d.cnt2 ≠ 0 ∧ d.cnt2 ≤ x then .error (4, a) else .ok x
    | _ => if (err.at j (a, n)).isSome || (s.hostRefused t false (a, n)).isSome then .error (8, a) else if d.cnt2 ≠ 0 ∧ d.cnt2 ≤ x then .error (4, a) else .ok x

/-- The destination of COPY unit `j` (R285). -/
def DmaDesc.copyDst (d : DmaDesc) (j : Nat) : Nat × Nat :=
  ((d.dst + j % d.cnt1 * d.dstr1 + j / d.cnt1 * d.dstr2) % 2 ^ 64, d.len)

/-- Unit `j` of an operation (R285 to R287). A unit's source may be no byte that any unit of its operation writes, as
R287's last sentence says of every kind (DEDUCED, log 150). -/
def State.dmaUnit (s : State) (t : TileId) (d : DmaDesc) (err : HostErr) (j : Nat) : DmaUnit :=
  let w (a : Nat) : Nat := a % 2 ^ 64
  match d.kind with
  | 0 =>
    let r := (w (d.src + j % d.cnt1 * d.sstr1 + j / d.cnt1 * d.sstr2), d.len)
    ⟨[r], [d.copyDst j], (List.range d.units).map fun i => (r, d.copyDst i), []⟩
  | 1 =>
    let n := sliceBytes d.fmt
    let rs := (d.lanes j).map Prod.snd
    ⟨rs, [(w (d.dst + j * n), n)], rs.map fun r => (r, (d.dst, d.units * n)), []⟩
  | 2 =>
    let q := (w (d.dst + j * d.dstr1), d.len)
    match s.dmaIndex t d err j with
    | .error f => ⟨[], [q], [], [f]⟩
    | .ok x =>
      let r := (w (d.src + x * d.sstr1), d.len)
      ⟨[r], [q], [(r, (d.dst, d.cnt1 * d.dstr1))], []⟩
  | 3 =>
    let r := (w (d.src + j * d.sstr1), d.len)
    match s.dmaIndex t d err j with
    | .error f => ⟨[r], [], [], [f]⟩
    | .ok x =>
      let q := (w (d.dst + x * d.dstr1), d.len)
      ⟨[r], [q], [((d.src, d.cnt1 * d.sstr1), q)], []⟩
  | 4 => ⟨[], [(w (d.dst + j * d.dstr1), 1536)], [], []⟩
  | _ => ⟨[(w (d.src + j * d.sstr1), 1536)], [], [], []⟩

/-- The tag code of a row (R284, R288). -/
def RowTag.code : RowTag → Nat
  | .a48 => 0
  | .a96 => 1
  | .poisoned => 2

/-- The row tag of a code. -/
def RowTag.ofCode : Nat → RowTag
  | 0 => .a48
  | 1 => .a96
  | _ => .poisoned

/-- Every fault a unit meets, as code and address (R292). -/
def State.dmaFaults (s : State) (t : TileId) (d : DmaDesc) (err : HostErr) (j : Nat) (u : DmaUnit) :
    List (Nat × Nat) :=
  let onHost (r : Nat × Nat) : Bool :=
    match s.dmaLoc t false r.1 with | some (.host ..) => true | _ => false
  u.bad ++
  u.srcs.filterMap (fun r => (s.dmaHole t false r).map fun a => (1, a)) ++
  u.dsts.filterMap (fun r => (s.dmaHole t true r).map fun a => (2, a)) ++
  u.dsts.filterMap (fun r => match s.dmaLoc t true r.1 with
    | some (.mem k) => ((List.range r.2).find? fun i => s.readOnly (k + i)).map fun i => (5, r.1 + i)
    | _ => none) ++
  u.pair.filterMap (fun p => (dmaOverlap t p.1 p.2).map fun a => (6, a)) ++
  u.srcs.filterMap (fun r => match s.dmaLoc t false r.1 with
    | some (.mem k) => (s.readUe k r.2).map fun l => (7, l)
    | _ => none) ++
  u.dsts.filterMap (fun r => match s.dmaLoc t true r.1 with
    | some (.mem k) => (s.writeUe k r.2).map fun l => (7, l)
    | _ => none) ++
  u.srcs.filterMap (fun r => (s.hostRefused t false r).map fun a => (8, a)) ++
  u.dsts.filterMap (fun r => (s.hostRefused t true r).map fun a => (8, a)) ++
  (((u.srcs ++ u.dsts).filter onHost).filterMap fun r => (err.at j r).map fun a => (8, a)) ++
  (if d.kind == 4 && ((s.tile t).accRow (d.src + j)).tag.code != d.tag then [(9, d.src + j)] else [])

/-- What a unit writes. -/
inductive DmaPut where
  | mem (key : Nat) (bs : List Byte)
  | host (p : PciePort) (a : Nat) (bs : List Byte)
  | row (r : Nat) (ents : List (BitVec 48))
  deriving DecidableEq, Repr

/-- Bytes put at a map address that maps. -/
def State.dmaPuts (s : State) (t : TileId) (a : Nat) (bs : List Byte) : List DmaPut :=
  match s.dmaLoc t true a with
  | some (.mem k) => [.mem k bs]
  | _ => (bs.zip (List.range bs.length)).filterMap fun b =>
    match s.dmaLoc t true (a + b.2) with
    | some (.host p h) => some (.host p h [b.1])
    | _ => none

/-- A stream word from its lanes' bits; every other lane holds zero bits (R286). -/
def State.skewWord (s : State) (t : TileId) (d : DmaDesc) (j : Nat) : List Byte :=
  let lw := laneBits d.fmt
  leBytes (sliceBytes d.fmt) ((d.lanes j).foldl (fun v p =>
    v + (leNat (s.dmaRead t p.2) >>> (lw * p.1 % 8)) % 2 ^ lw * 2 ^ (lw * p.1)) 0)

/-- What a unit without a fault writes. -/
def State.dmaWrites (s : State) (t : TileId) (d : DmaDesc) (j : Nat) (u : DmaUnit) : List DmaPut :=
  match d.kind with
  | 1 => u.dsts.flatMap fun q => s.dmaPuts t q.1 (s.skewWord t d j)
  | 4 => u.dsts.flatMap fun q =>
      s.dmaPuts t q.1 (((s.tile t).accRow (d.src + j)).ents.flatMap fun e => leBytes 6 e.toNat)
  | 5 => u.srcs.map fun r =>
      .row (d.dst + j) ((chunks 256 6 (s.dmaRead t r)).map fun b => BitVec.ofNat 48 (leNat b))
  | _ => match u.srcs, u.dsts with
    | r :: _, q :: _ => s.dmaPuts t q.1 (s.dmaRead t r)
    | _, _ => []

/-- A write takes place; ACCIN also sets the row's tag. -/
def State.dmaPut (s : State) (t : TileId) (d : DmaDesc) : DmaPut → State
  | .mem k bs => s.wr k bs
  | .host p a bs => s.hostWr p a bs
  | .row r ents => s.putRow t r none (.ofCode d.tag) ents

/-- Bytes a write moves. -/
def DmaPut.size : DmaPut → Nat
  | .mem _ bs | .host _ _ bs => bs.length
  | .row .. => 1536

/-- What performing an operation's units came to. -/
structure DmaRun where
  s     : State
  puts  : List DmaPut
  units : Nat
  fault : Option DmaFault
  deriving DecidableEq, Repr

/-- Perform `n` units in ascending order up to the first that faults (R291). -/
def State.dmaRun (t : TileId) (d : DmaDesc) (err : HostErr) : Nat → DmaRun → DmaRun
  | 0, r => r
  | n + 1, r =>
    let j := d.start + r.units
    let u := r.s.dmaUnit t d err j
    match lowestFault (r.s.dmaFaults t d err j u) with
    | some f => { r with fault := some ⟨j, f.1, f.2⟩ }
    | none =>
      let ps := r.s.dmaWrites t d j u
      State.dmaRun t d err n
        { r with s := ps.foldl (fun s p => s.dmaPut t d p) r.s, puts := r.puts ++ ps, units := r.units + 1 }

/-- A whole operation on a state: the check, then its units. -/
def State.dmaPerform (s : State) (t : TileId) (o : DmaOp) (err : HostErr) : DmaRun :=
  match o.d.check with
  | some c => ⟨s, [], 0, some ⟨o.d.start, c, o.descAddr.toNat⟩⟩
  | none => State.dmaRun t o.d err (o.d.units - o.d.start) ⟨s, [], 0, none⟩

/-! ### Completion -/

/-- The bytes an operation wrote in address order, then accumulator entries (R450). -/
def putsBytes (l : List DmaPut) : List Byte :=
  let mem := l.flatMap fun p => match p with
    | .mem k bs => [(k, bs)]
    | _ => []
  inOrder mem ++ l.flatMap fun p => match p with
    | .row _ es => es.flatMap fun e => leBytes 6 e.toNat
    | _ => []

/-- A completion record (R295). -/
def State.dmaRecordBytes (s : State) (d : DmaDesc) (units : Nat) (f : Option DmaFault) : List Byte :=
  match f with
  | none => leBytes 2 0 ++ leBytes 1 0 ++ leBytes 1 d.kind ++ leBytes 4 0xFFFFFFFF ++ leBytes 8 0 ++
      leBytes 4 units ++ leBytes 4 0 ++ leBytes 8 s.gtc.count.toNat
  | some f => leBytes 2 1 ++ leBytes 1 f.cause ++ leBytes 1 d.kind ++ leBytes 4 f.unit ++ leBytes 8 f.addr ++
      leBytes 4 units ++ leBytes 4 0 ++ leBytes 8 s.gtc.count.toNat

/-- The first byte of an operation's completion record that lies in a stream region (R272). -/
def State.recordRo (s : State) (t : TileId) (d : DmaDesc) : Option Nat :=
  if d.crec && d.recordOk then
    ((List.range 32).find? fun i => s.readOnly (poolBase t + d.caddr + i)).map fun i => d.caddr + i
  else none

/-- The operation at the head is complete: its writes are visible in `s` (R282, R291 to R299). A completion record that
would touch a stream region is not written, and faults the operation with RO_REGION behind its last unit where no unit
faulted (DEDUCED from R272 and R293, log 151). -/
def State.dmaFinish (s : State) (t : TileId) (o : DmaOp) (puts : List DmaPut) (units : Nat)
    (f : Option DmaFault) : State :=
  let d := o.d
  let ro := s.recordRo t d
  let rec_ := if d.crec && d.recordOk && ro.isNone then
    [DmaPut.mem (poolBase t + d.caddr) (s.dmaRecordBytes d units f)] else []
  let f := match f with
    | some f => some f
    | none => ro.map fun a => ⟨d.start + units, 5, a⟩
  let s := rec_.foldl (fun s p => s.dmaPut t d p) s
  let s := s.modTile t fun x => { x with dma := { x.dma with
    queue := x.dma.queue.drop 1
    ops := x.dma.ops + 1
    bytes := x.dma.bytes + BitVec.ofNat 64 ((puts.map DmaPut.size).sum) } }
  let s := s.emit t none (.op .dma (if s.gtc.lsEn then putsBytes (puts ++ rec_) else []) 0 0)
  let s := match f with
    | none => s
    | some f =>
      let s := s.modTile t fun x => (x.dmaRecord f).setStat .dma (dmaStatBit f.cause)
      if d.soft then s else s.copFault t .dma (dmaStatBit f.cause) o.hdr.id o.hdr.pc
  s.rimeGo t

/-- What a tag's speculative transfer has read is written at its commit (R255). -/
def bufPuts (b : DmaBuf) : List DmaPut := b.writes.map fun w => .mem w.1 [w.2]

/-- The ranges an operation touches, as keys (R263). -/
def State.dmaFoot (s : State) (t : TileId) (d : DmaDesc) : List (Nat × Nat) :=
  (if d.crec && d.recordOk then [(poolBase t + d.caddr, 32)] else []) ++
  if d.check.isSome then []
  else (List.range (d.units - d.start)).flatMap fun i =>
    let u := s.dmaUnit t d none (d.start + i)
    let n := if d.idx64 then 8 else 4
    let ix := if d.kind == 2 || d.kind == 3 then [(d.idx + (d.start + i) * n, n)] else []
    (ix ++ u.srcs ++ u.dsts).map fun r => (dmaPhys t r.1, r.2)

/-- Whether a spill may read its rows: they hold only committed entries (R288), and every pass issued before it into
one of them has delivered its last sum (R93). -/
def Tile.spillMay (x : Tile) (o : DmaOp) : Bool :=
  o.d.kind != 4 || o.d.check.isSome || (List.range o.d.cnt1).all fun i =>
    (x.accRow (o.d.src + i)).undo.isEmpty && x.matQ.all fun m => match m with
      | .pass p => p.arrived || decide (o.hdr.id < p.hdr.id) ||
          !(List.range (min 2048 p.d.m)).any fun k => p.d.rowOf k == o.d.src + i
      | .epi _ => true

/-- Whether an operation may start: waits and stores allow it (R245, R263), and a spill's rows are there to read. -/
def State.dmaMay (s : State) (t : TileId) (o : DmaOp) : Bool :=
  (s.tile t).mayStart o.hdr.wait o.hdr.id && s.storesAllow t o.hdr.id (s.dmaFoot t o.d) && (s.tile t).spillMay o

/-- The writes of the operations before an entry, as that entry reads memory (R282). -/
def State.dmaView (s : State) (t : TileId) (before : List DmaItem) : State :=
  before.foldl (fun s i => match i with
    | .op o => (match o.buf with
      | some b => (bufPuts b).foldl (fun s p => s.dmaPut t o.d p) s
      | none => s)
    | .record _ => s) s

/-- The buffered form of an operation's writes; one under a tag writes its own tile store only. -/
def bufOf (r : DmaRun) : DmaBuf :=
  ⟨r.puts.flatMap fun p => match p with
    | .mem k bs => (bs.zip (List.range bs.length)).map fun b => (k + b.2, b.1)
    | _ => [], r.units, r.fault⟩

/-- Whether an entry is an operation performed into the speculative read buffer. -/
def DmaItem.buffered : DmaItem → Bool
  | .op o => o.buf.isSome
  | .record _ => false

/-- The engine goes on: the committed operation at the head of its order performs its units and
completes; otherwise the first operation that follows only buffered ones fills the buffer (R255, R282,
R289). -/
def State.dmaStep (s : State) (t : TileId) (err : HostErr) : State :=
  let s := s.drainStores t
  let q := (s.tile t).dma.queue
  let head : Option DmaOp := match q with
    | .op o :: _ => if o.hdr.tag.isNone then some o else none
    | _ => none
  match head with
  | some o =>
    match o.buf with
    | some b => ((bufPuts b).foldl (fun s p => s.dmaPut t o.d p) s).dmaFinish t o (bufPuts b) b.units b.fault
    | none =>
      if s.dmaMay t o then
        let r := s.dmaPerform t o err
        r.s.dmaFinish t o r.puts r.units r.fault
      else s
  | none =>
    let before := q.takeWhile DmaItem.buffered
    match q.drop before.length with
    | .op o :: _ =>
      if o.hdr.tag.isSome && s.dmaMay t o then
        let r := (s.dmaView t before).dmaPerform t o err
        s.modTile t fun x => { x with dma := { x.dma with queue := x.dma.queue.map fun i => match i with
          | .op p => if p.hdr.id = o.hdr.id then .op { p with buf := some (bufOf r) } else .op p
          | .record k => .record k } }
      else s
    | _ => s

/-- A DMA operation's writes become visible and it completes (R282); `err` names the PCIe request that ends in error,
if any. -/
def execDmaComplete (t : TileId) (err : HostErr) (s : State) : Res := .next (s.dmaStep t err)

/-! ### Issue -/

/-- Whether the descriptor alone shows that every write targets the tile's own store (R289). -/
def DmaDesc.ownStore (d : DmaDesc) (t : TileId) : Bool :=
  let fits (n : Nat) : Bool :=
    decide (poolBase t ≤ dmaPhys t d.dst ∧ dmaPhys t d.dst + n ≤ poolBase t + storeSize)
  match d.kind with
  | 0 => fits ((d.cnt1 - 1) * d.dstr1 + (d.cnt2 - 1) * d.dstr2 + d.len)
  | 1 => fits (d.units * sliceBytes d.fmt)
  | 2 => fits ((d.cnt1 - 1) * d.dstr1 + d.len)
  | 3 => d.cnt2 != 0 && fits ((d.cnt2 - 1) * d.dstr1 + d.len)
  | _ => false

/-- Bytes of the speculative read buffer a transfer takes: those it will write, the stream words for SKEW (DEDUCED,
log 152); none where its check refuses it. -/
def DmaDesc.bufBytes (d : DmaDesc) : Nat :=
  if d.check.isSome then 0
  else match d.kind with
    | 0 => d.len * d.cnt1 * d.cnt2
    | 1 => d.units * sliceBytes d.fmt
    | _ => d.len * d.cnt1

/-- Bytes of the buffer in use: a transfer's from its issue under a tag until its last byte is written (R255). -/
def Dma.bufUsed (x : Dma) : Nat :=
  (x.queue.map fun i => match i with
    | .op o => if o.hdr.tag.isSome || o.buf.isSome then o.d.bufBytes else 0
    | .record _ => 0).sum

/-- Whether an operation is held at issue until its tag resolves (R252, R255, R288, R289). -/
def Tile.dmaHeld (x : Tile) (t : TileId) (d : DmaDesc) : Bool :=
  x.seq.tag.isSome && (!d.ownStore t || decide (524288 < x.dma.bufUsed + d.bufBytes))

/-- Operations that wait in the DMA queue (R243). -/
def Dma.waiting (x : Dma) : Nat :=
  (x.queue.filter fun i => match i with | .op o => o.buf.isNone | .record _ => false).length

/-- A DMA instruction whose descriptor's KIND is one of `kinds` issues (R244, R284); with `eager` an
idle engine performs it in the same step. -/
def State.dmaOp (s : State) (t : TileId) (eager : Bool) (kinds : Nat → Bool) : Res :=
  s.issueCop t (fun i => match i with | .dma sa wait off => some (sa, wait, off) | _ => none)
    (fun x => decide (16 ≤ x.dma.waiting))
    fun s (sa, wait, off) =>
      let x := s.tile t
      let a := x.seq.sreg sa + ext32 off
      match s.descriptor t a 64 64 with
      | .error f => some (s.issueFault t f)
      | .ok b =>
        let d := DmaDesc.ofBytes b
        if !kinds d.kind || x.dmaHeld t d then none
        else
          let o : DmaOp := ⟨x.seq.hdr wait, d, a, none⟩
          let idle := x.dma.queue.isEmpty
          let s := (s.modTile t fun x => { x with dma := { x.dma with queue := x.dma.queue ++ [.op o] } }).retireNext
            t []
          some (if eager && idle then s.dmaStep t none else s)

/-- DMA COPY; a reserved KIND is issued here too, and refused with DESC_ERR. -/
def execDmaCopy (t : TileId) (eager : Bool) (s : State) : Res :=
  s.dmaOp t eager fun k => k == 0 || decide (5 < k)
/-- DMA SKEW. -/
def execDmaSkew (t : TileId) (eager : Bool) (s : State) : Res := s.dmaOp t eager fun k => k == 1
/-- DMA GATHER. -/
def execDmaGather (t : TileId) (eager : Bool) (s : State) : Res := s.dmaOp t eager fun k => k == 2
/-- DMA SCATTER. -/
def execDmaScatter (t : TileId) (eager : Bool) (s : State) : Res := s.dmaOp t eager fun k => k == 3
/-- DMA ACCOUT. -/
def execDmaAccout (t : TileId) (eager : Bool) (s : State) : Res := s.dmaOp t eager fun k => k == 4
/-- DMA ACCIN. -/
def execDmaAccin (t : TileId) (eager : Bool) (s : State) : Res := s.dmaOp t eager fun k => k == 5

end Sys2Proof.Machine
end

