-- ==== Sys2Proof/Machine/Time.lean ====
section
/-!
DEFINITION. Time (R428 to R454): the global tick counter and its alignment, launch, steps, paired
lock-step, and the tick that passes when no command waits.
-/
namespace Sys2Proof.Machine

/-! ### The counter (R428) -/

/-- The GTC in sixteenths of a nanosecond. -/
def Gtc.sixteenths (g : Gtc) : Nat := 16 * g.count.toNat + g.frac.toNat

/-- The GTC set to a number of sixteenths. -/
def Gtc.setSixteenths (g : Gtc) (v : Nat) : Gtc :=
  { g with count := BitVec.ofNat 64 (v / 16), frac := BitVec.ofNat 4 v }

/-- One count passes; while an offset is to be slewed, every 64th adds or withholds one sixteenth. -/
def Gtc.tick (g : Gtc) : Gtc :=
  if g.slew = 0 then { g.setSixteenths (g.sixteenths + 16) with sinceSlew := g.sinceSlew + 1 }
  else if g.sinceSlew + 1 < 64 then { g.setSixteenths (g.sixteenths + 16) with sinceSlew := g.sinceSlew + 1 }
  else if 0 < g.slew then
    { g.setSixteenths (g.sixteenths + 17) with sinceSlew := 0, slew := g.slew - 1 }
  else { g.setSixteenths (g.sixteenths + 15) with sinceSlew := 0, slew := g.slew + 1 }

/-- The GTC steps by an offset in sixteenths (R436). -/
def Gtc.step (g : Gtc) (by_ : Int) : Gtc :=
  { g.setSixteenths ((g.sixteenths : Int) + by_).toNat with stepped := true, slew := 0, sinceSlew := 0 }

/-! ### Parents (R431, R435) -/

/-- The port R380 selects for a packet to the master, with PSEL 0 (R431); none on the master. -/
def State.bootParent (s : State) : Option PortId :=
  let r := s.routers[0]
  if s.gtc.master then none
  else match s.boot.cfg with
    | some c => if c.masterAt == r.self then none else ((r.portsTo c.masterAt false).head?)
    | none => none

/-- Hops to the master (R431, R434): one cube hop within the node, else torus hops. -/
def Router.hops (r : Router) (a : ChipAddr) : Nat :=
  if a == r.self then 0
  else if [0, 1, 2].all fun i => coord a i / 2 == coord r.self i / 2 then 1
  else ([0, 1, 2].map fun i =>
    r.dist i (coord r.self i) (coord a i) (r.plus i (coord r.self i) (coord a i))).sum

/-- Whether a partner can be a new parent (R435). -/
def State.eligible (s : State) (p : PortId) : Bool :=
  (s.port p).state == .active && (s.port p).time.locked &&
    decide ((s.port p).time.depth.toNat < s.gtc.depth.toNat)

/-- The CP sets the parent at boot (R431). -/
def State.setParent (s : State) : State :=
  let d := match s.boot.cfg with | some c => (s.routers[0]).hops c.masterAt | none => 0
  { s with gtc := { s.gtc with
    parent := match s.bootParent with | some p => BitVec.ofNat 5 p.val | none => 0x1F
    depth := BitVec.ofNat 6 d } }

/-- The parent is gone (R435): the lowest-indexed eligible port takes its place, or the chip enters
HOLDOVER, which clears LOCKED and is one GTCSYNC event. -/
def State.newParent (s : State) : State :=
  match (List.range 20).find? fun i => if h : i < 20 then s.eligible ⟨i, h⟩ else false with
  | some i => { s with gtc := { s.gtc with parent := BitVec.ofNat 5 i, holdover := false } }
  | none =>
    { s with gtc := { s.gtc with parent := 0x1F, holdover := true, locked := false } }.thawEvent 9

/-- A port has left ACTIVE. -/
def State.portLeft (s : State) (p : PortId) : State :=
  if !s.gtc.master && s.gtc.parent.toNat == p.val then s.newParent else s

/-! ### TIME frames (R432, R433) -/

/-- The payload of a TIME frame sent now. -/
def State.timePayload (s : State) (x : LPort) (seq : BitVec 32) : List Byte :=
  let g := s.gtc
  let known := g.master || g.locked || g.parent != 0x1F
  leBytes 8 g.count.toNat ++ leBytes 1 g.frac.toNat ++
    leBytes 1 (if g.master then 0 else if known then g.depth.toNat else 0xFF) ++
    leBytes 1 (flagBit 0 g.locked + flagBit 1 g.master + flagBit 2 g.holdover) ++ leBytes 1 0 ++
    leBytes 4 seq.toNat ++ leBytes 8 x.time.rxGtc.toNat ++ leBytes 1 x.time.rxFrac.toNat ++ leBytes 3 0 ++
    leBytes 4 x.time.rxSeq.toNat ++
    leBytes 4 (match s.boot.cfg with | some c => c.masterAt.toNat | none => 0) ++ List.replicate 564 0

/-- A number of IDLE frames (R348). -/
def LPort.idles : Nat → LPort → LPort
  | 0, x => x
  | n + 1, x => LPort.idles n (x.emit .idle 0x3FF (List.replicate 600 0))

/-- IDLE frames until the next FSEQ falls on logical lane 0 (R348, R432). -/
def LPort.lanePad (x : LPort) : Nat :=
  ((List.range 16).find? fun n => (x.txSeq + BitVec.ofNat 20 n).toNat % x.width.toNat == 0).getD 0

/-- Every 65,536 GTC counts each end of an ACTIVE torus or cube port sends a TIME frame on logical
lane 0 (R432); IDLE frames take the FSEQs of the lanes before it. -/
def execTimeFrameSend (p : PortId) (s : State) : Res :=
  if (s.port p).state ≠ .active ∨ p = hPort ∨ 1024 ≤ (s.port p).replayBuf.length + (s.port p).lanePad then .next s
  else .next (s.modPort p fun x =>
    let n := x.time.seq + 1
    let y := (LPort.idles x.lanePad x).emit .time 0x3FF (s.timePayload x n)
    { y with time := { x.time with
      seq := n, t1 := s.gtc.count, t1Frac := s.gtc.frac
      sent := x.time.sent ++ [(n, s.gtc.count, s.gtc.frac)] } })

/-- LOCKED follows the last offsets (R435). -/
def State.lockCheck (s : State) (p : PortId) (theta : Int) : State :=
  let t := (s.port p).time
  let four := s.gtc.lastFour
  if theta.natAbs > 8 then
    if s.gtc.locked then { s with gtc := { s.gtc with locked := false } }.thawEvent 9 else s
  else if (t.locked || t.master) && four.length == 4 && four.all fun o => o.natAbs ≤ 4 then
    { s with gtc := { s.gtc with locked := true, holdover := false } }
  else s

/-- An offset to the parent has been computed (R433): the GTC steps once while no image is admitted
(R436), and slews otherwise. The change of the offset since the last exchange trims the PLL's ratio, whose unit the
manual does not give (DESIGN CHOICE, log 161). -/
def State.align (s : State) (p : PortId) (theta : Int) : State :=
  let t := (s.port p).time
  let s := { s with gtc := { s.gtc with
    offset := BitVec.ofInt 15 theta
    lastFour := (theta :: s.gtc.lastFour).take 4
    ratio := match s.gtc.lastFour with | o :: _ => s.gtc.ratio + (theta - o) | [] => s.gtc.ratio
    depth := if t.depth == 0xFF then s.gtc.depth else BitVec.ofNat 6 (t.depth.toNat + 1) } }
  let s :=
    if s.job.image.isNone && !s.gtc.stepped && (t.locked || t.master) then
      { s with gtc := s.gtc.step theta }
    else { s with gtc := { s.gtc with slew := theta } }
  s.lockCheck p theta

/-- A TIME frame has come in on a port: the partner's report is kept, and from the parent the offset
is computed for the exchange that it answers first (R433). Times are in sixteenths of a nanosecond. -/
def State.timeReceive (s : State) (p : PortId) (b : List Byte) (arrival : Word) (frac : BitVec 4) : State :=
  let x := s.port p
  let at_ (o f : Nat) : Int := 16 * leAt b o 8 + leAt b f 1 % 16
  let s := s.modPort p fun x => { x with time := { x.time with
    rxGtc := arrival, rxFrac := frac
    rxSeq := BitVec.ofNat 32 (leAt b 12 4)
    depth := BitVec.ofNat 8 (leAt b 9 1)
    locked := (leAt b 10 1).testBit 0
    master := (leAt b 10 1).testBit 1 } }
  let s := if s.gtc.holdover && s.eligible p then s.newParent else s
  match x.time.sent.find? fun e => e.1.toNat == leAt b 28 4 with
  | none => s
  | some e =>
    let s := s.modPort p fun x => { x with time := { x.time with
      sent := (x.time.sent.dropWhile fun o => o != e).drop 1 } }
    if s.gtc.master || s.gtc.parent.toNat != p.val then s
    else
      let t1 : Int := 16 * e.2.1.toNat + e.2.2.toNat
      let t4 : Int := 16 * arrival.toNat + frac.toNat
      s.align p (((at_ 16 24 - t1) - (t4 - at_ 0 8)) / 2)

/-! ### TICK_SYNC (R429, R430, R618) -/

/-- 2^20. -/
def syncPeriod : Nat := 1048576

/-- The master drives TICK_SYNC_OUT high at a multiple of 2^20, for 100 ns (R430). -/
def execTickSyncOutPulse (s : State) : Res :=
  if s.gtc.master && s.gtc.count.toNat % syncPeriod == 0 then
    .next { s with side := { s.side with tickOut := true } }
  else .next s

/-- A rising edge of TICK_SYNC_IN on the master (R430, R618): within 1 µs of the count it should mark,
it steers; any other is ignored and journalled. A value set by SET_GTC_EDGE is applied as a step while no image is
admitted; with one, the GTC only slews (R436), and the value, meant for this edge, lapses (DEDUCED, log 161). -/
def execTickSyncInEdge (s : State) : Res :=
  if !s.gtc.master then .next s
  else match s.gtc.nextEdge, s.job.image with
    | some v, none =>
        .next { s with gtc := { s.gtc with
          count := v, frac := 0, slew := 0, sinceSlew := 0, stepped := true, nextEdge := none
          syncSeen := true } }
    | _, _ =>
      let s := { s with gtc := { s.gtc with nextEdge := none } }
      let near := (s.gtc.count.toNat + syncPeriod / 2) / syncPeriod * syncPeriod
      let off : Int := 16 * near - s.gtc.sixteenths
      if off.natAbs ≤ 16000 then
        .next { s with gtc := { s.gtc with slew := off, syncSeen := true } }
      else .next { s with side := { s.side with tickIgn := s.gtc.count :: s.side.tickIgn } }

/-! ### Launch (R437 to R440, R549) -/

/-- A stopped DMA operation is issued again from its completed-unit count (R549, R294). -/
def State.reissue (s : State) (o : StoppedDma) : State :=
  s.modTile o.tile fun x =>
    let op : DmaOp := ⟨⟨x.seq.nextId, none, o.pc, 0⟩, { o.desc with start := o.units }, o.addr, none⟩
    { x with
      seq := { x.seq with nextId := x.seq.nextId + 1 }
      dma := { x.dma with queue := x.dma.queue ++ [.op op] } }

/-- The job's units begin at boundary L: sequencers fetch, phase stays begin, the step's collectives
may start (R439); phase 0 is in force (R335). After a capture or a restore the phase is the captured one (R539), stopped
DMA operations are issued again first, paused commands resume, and what had started before the capture point does not
start again (R549). -/
def execLaunchBoundary (s : State) : Res :=
  if s.job.launched && !s.job.running && s.observed (s.gtc.launch.toNat / 64) then
    let kept := s.job.restored || s.ckpt.state == 4
    let start (x : Tile) : Tile :=
      { x with seq := { x.seq with
        run := !x.seq.ended
        phase := if kept then x.seq.phase else 0
        phaseCom := if kept then x.seq.phaseCom else 0
        slotWait := x.seq.slotWait.map fun n => n + s.gtc.launch / 64
        stayFrom := s.gtc.launch, stayLate := x.seq.nLate } }
    let go (c : Cluster) : Cluster :=
      if kept then { c with paused := false } else { c with paused := false, step := s.job.step, ended := [] }
    let off := s.job.resume.slotOff
    let stopped := s.job.stopped
    let live := s.job.colls.filter fun c => c.ended.isNone && c.started
    let s := { s with
      job := { s.job with
        running := true, admState := 3, restored := false, stopped := [], resume := ⟨0, 0⟩ }
      ckpt := { s.ckpt with state := 0 }
      tiles := s.tiles.map start
      clusters := s.clusters.map go }
    let due (c : CollInst) : Bool :=
      match s.collDecl c.ix with | some (d, _) => decide (off ≤ d.start) | none => false
    let s := stopped.foldl State.reissue s
    .next { s with job := { s.job with
      colls := live ++ (s.newInstances s.job.step).filter due } }
  else .next s

/-! ### Lock-step (R449 to R452) -/

/-- Every digested unit: its unit code, its tile field, its count and its digest (R450). -/
def State.digested (s : State) : List LsEntry :=
  ((List.range 64).zip s.tiles.toList).flatMap (fun t =>
    ((List.range 6).zip t.2.digests.toList).map fun u =>
      ⟨BitVec.ofNat 8 u.1, BitVec.ofNat 8 t.1, u.2.c.setWidth 32, u.2.d⟩) ++
  ((List.range 8).zip s.clusters.toList).map (fun c =>
    ⟨6, BitVec.ofNat 8 (0x40 + c.1), c.2.digest.c.setWidth 32, c.2.digest.d⟩) ++
  ((List.range 2).zip s.routers.toList).map (fun r =>
    ⟨7, BitVec.ofNat 8 (0x48 + r.1), r.2.digest.c.setWidth 32, r.2.digest.d⟩)

/-- The (C, D) that every unit has reached since the last slot boundary (R452). -/
def State.slotHist (s : State) : List LsHist :=
  let slot := BitVec.ofNat 64 s.slot
  let of (u t : Nat) (g : Digest) : List LsHist :=
    g.run.map fun e => ⟨BitVec.ofNat 8 u, BitVec.ofNat 8 t, e.1.setWidth 32, e.2, slot⟩
  ((List.range 64).zip s.tiles.toList).flatMap (fun t =>
    ((List.range 6).zip t.2.digests.toList).flatMap fun u => of u.1 t.1 u.2) ++
  ((List.range 8).zip s.clusters.toList).flatMap (fun c => of 6 (0x40 + c.1) c.2.digest) ++
  ((List.range 2).zip s.routers.toList).flatMap fun r => of 7 (0x48 + r.1) r.2.digest

/-- A slot boundary passes for every digested unit. -/
def State.endSlot (s : State) : State :=
  { s with
    tiles := s.tiles.map fun x => { x with digests := x.digests.map Digest.endSlot }
    clusters := s.clusters.map fun x => { x with digest := x.digest.endSlot }
    routers := s.routers.map fun x => { x with digest := x.digest.endSlot } }

/-- Which of two divergences of a slot is recorded: the lowest TILE, then the lowest UNIT. -/
def lsBefore (a b : LsHeld) : Bool :=
  decide (a.entry.tile.toNat < b.entry.tile.toNat) ||
    (a.entry.tile == b.entry.tile && decide (a.entry.unit.toNat < b.entry.unit.toNat))

/-- The first divergence is recorded and reported (R452, R454); with HALT set it ends the job. One found later in the
same slot takes its place in the record if it ranks before it. -/
def State.diverge (s : State) (e : LsEntry) (slot : Word) (skew : Bool) : State :=
  let now := BitVec.ofNat 64 s.slot
  let marked := { s with gtc := { s.gtc with
      lsValid := true, lsSkew := skew, lsUnit := e.unit.setWidth 3, lsTile := e.tile
      lsSlot := slot, lsCount := e.count, lsFound := some now } }
  if s.gtc.lsValid then
    let old : LsHeld := ⟨⟨s.gtc.lsUnit.setWidth 8, s.gtc.lsTile, 0, 0⟩, 0⟩
    if s.gtc.lsFound == some now && lsBefore ⟨e, 0⟩ old then marked else s
  else
    let s := marked
    let div := e.tile.toNat * 256 + e.unit.toNat % 8 * 2 ^ 16 + flagBit 30 skew + flagBit 31 true
    let r := s.report 0x0031 .chip 0 slot (BitVec.ofNat 64 div)
    let s := r.1.suspect r.2
    if s.gtc.lsHalt then s.endJob 6 slot else s

/-- This chip's own entry of equal count for a partner's entry, of an earlier slot or of this one (R452). -/
def State.lsOwn (s : State) (e : LsEntry) : Option LsHist :=
  (s.gtc.lsHist ++ s.slotHist).find? fun k => k.unit == e.unit && k.tile == e.tile && k.c == e.count

/-- Held partner entries whose count this chip has reached are compared (R452). -/
def State.lsCompare (s : State) : State :=
  let own (h : LsHeld) : Option LsHist := s.lsOwn h.entry
  let bad := s.gtc.lsHeld.filter fun h => match own h with | some k => k.d != h.entry.digest | none => false
  let rest := s.gtc.lsHeld.filter fun h => (own h).isNone
  let s := { s with gtc := { s.gtc with lsHeld := rest } }
  let slotOf (h : LsHeld) : Word := match own h with | some k => k.slot | none => 0
  match bad with
  | [] => s
  | b :: bs =>
    let first := bs.foldl (fun a h => if lsBefore h a then h else a) b
    s.diverge first.entry (slotOf first) false

/-- The lock-step partner's address. -/
def State.lsPartner (s : State) : ChipAddr :=
  if h : s.gtc.lsPort.toNat < 20 then
    match (s.port ⟨s.gtc.lsPort.toNat, h⟩).partner with | some p => p.1 | none => 0
  else 0

/-- At a slot boundary the entries that changed during the slot go to the partner out of the lock-step port, at most 394
of them, as scheduled packets of TYPE 15; every count reached in the slot joins this chip's history of 1,024 slots
(R451, R452). -/
def execLockstepSend (s : State) : Res :=
  if !s.gtc.lsEn then .next s
  else
    let slot := BitVec.ofNat 64 (s.slot - 1)
    let changed := (s.digested.filter fun e => !s.gtc.lsSent.contains e && e.count != 0).take 394
    let sent := s.gtc.lsSent.filter fun o => !changed.any fun e => e.unit == o.unit && e.tile == o.tile
    let passed := s.slotHist.map fun k => { k with slot := slot }
    let new := changed.map fun e => LsHist.mk e.unit e.tile e.count e.digest slot
    let hist := (s.gtc.lsHist ++ passed ++ new.filter fun k => !passed.contains k).filter fun k =>
      slot.toNat < k.slot.toNat + 1024
    let body := leBytes 8 slot.toNat ++ List.replicate 8 0 ++ changed.flatMap fun e =>
      [e.unit, e.tile, 0, 0] ++ leBytes 4 e.count.toNat ++ leBytes 8 e.digest.toNat
    let r := s.routers[0]
    let pkt (b : List Byte) : Packet := {
      dst := s.lsPartner.setWidth 32, src := r.self.setWidth 32, ctl := 0
      ept := 0xF0#8 ||| r.epoch.setWidth 8, tag := 0, masks := [], payload := b }
    let s : State := { s.endSlot with gtc := { s.gtc with lsSent := sent ++ changed, lsHist := hist } }
    let s := if s.gtc.lsPort.toNat < 20 then
        if changed.isEmpty then s else
          (chunks (cdiv body.length 1024) 1024 body).foldl (fun s b =>
            s.enqueue (pkt b) .network [(⟨s.gtc.lsPort.toNat % 20, Nat.mod_lt _ (by decide)⟩, false)]) s
      else s
    .next s.lsCompare

/-- The partner's entries of a slot have come: each is compared with this chip's entry of equal
count, or held until it is reached (R452). -/
def execLockstepReceive (slot : Word) (entries : List LsEntry) (s : State) : Res :=
  if !s.gtc.lsEn then .next s
  else
    let _ := slot
    .next { s with gtc := { s.gtc with
      lsHeld := s.gtc.lsHeld ++ entries.map fun e => LsHeld.mk e (BitVec.ofNat 64 s.slot) } }.lsCompare

/-- A partner entry held for 1,024 slots is a SKEW divergence (R452). -/
def execLockstepSkew (s : State) : Res :=
  match s.gtc.lsHeld.filter fun h => h.since.toNat + 1024 ≤ s.slot with
  | [] => .next s
  | h :: hs =>
    let first := hs.foldl (fun a h => if lsBefore h a then h else a) h
    .next ({ s with gtc := { s.gtc with
      lsHeld := s.gtc.lsHeld.filter fun h => s.slot < h.since.toNat + 1024 } }.diverge first.entry
        (BitVec.ofNat 64 s.slot) true)

/-! ### The tick -/

/-- A step begins when its base slot is reached (R438): the step counter and the step's collectives,
unless a QUIESCE or a capture holds the next step back. -/
def State.stepOn (s : State) : State :=
  let next := s.baseOf (s.job.step.toNat + 1)
  if s.mayStart next && s.observed next && decide (0 < s.gtc.slen.toNat) then
    let n := s.job.step + 1
    { s with job := { s.job with
      step := n
      colls := s.job.colls.filter (fun c => c.ended.isNone || c.step == s.job.step) ++ s.newInstances n } }
  else s

/-- One GTC count passes while AON_PWRGD is high (R428): the counter, the step, and every store that can
become visible. -/
def State.tick (s : State) : State :=
  if !s.side.aonPwrgd then s
  else
  let s := { s with
    gtc := s.gtc.tick
    side := { s.side with tickOut := s.side.tickOut && decide ((s.gtc.count.toNat + 1) % syncPeriod < 100) } }
  let s := s.stepOn
  (List.range 64).foldl (fun s i => if h : i < 64 then s.drainStores ⟨i, h⟩ else s) s

end Sys2Proof.Machine
end

