-- ==== Sys2Proof/Machine/Link.lean ====
section
/-!
DEFINITION. The Dalder links (R341 to R374): frames, acknowledgement and replay, training, lane
faults, spares, and partner loss.
-/
namespace Sys2Proof.Machine

/-! ### Frame fields (R347) -/

/-- FSEQ. -/
def hdrSeq (h : BitVec 80) : BitVec 20 := BitVec.ofNat 20 (bits h 60 20)

/-- ACKSEQ. -/
def hdrAck (h : BitVec 80) : BitVec 20 := BitVec.ofNat 20 (bits h 40 20)

/-- TYPE. -/
def hdrType (h : BitVec 80) : Nat := bits h 36 4

/-- CVC. -/
def hdrCvc (h : BitVec 80) : Fin 8 := ⟨bits h 23 3, Nat.mod_lt _ (by decide)⟩

/-- CCNT. -/
def hdrCcnt (h : BitVec 80) : Nat := bits h 18 5

/-- Whether HCRC matches. -/
def hdrOk (f : Frame) : Bool := bits f.hdr 0 16 == (crc16Bits f.hdr 79 16 f.payload).toNat

/-! ### Ports and their lanes -/

/-- The first of a port's group, and the port's place in it (R341). -/
def groupOf (p : PortId) : Fin 4 := ⟨p.val / 5, by omega⟩

/-- The lane code (R371) of logical lane `n`; 15 when unused. -/
def laneAt (map : BitVec 32) (n : Nat) : Nat := bits map (4 * n) 4

/-- A lane map from its lane codes, the rest unused. -/
def mapOf (l : List Nat) : BitVec 32 :=
  BitVec.ofNat 32 (leNat (tab 4 fun i => BitVec.ofNat 8 (l.getD (2 * i) 15 + 16 * l.getD (2 * i + 1) 15)))

/-- The lane codes a map uses. -/
def LPort.laneCodes (x : LPort) : List Nat := tab x.width.toNat (laneAt x.laneMap)

/-- A group's spares, changed. -/
def State.modSpare (s : State) (g : Fin 4) (k : Nat) (f : Spare → Spare) : State :=
  if h : k < 4 then { s with spares := s.spares.set g (s.spares[g].set k (f (s.spares[g])[k])) } else s

/-- A spare of a port's group. -/
def State.spare (s : State) (p : PortId) (k : Nat) : Spare := (s.spares[(groupOf p)]).toList.getD k .reset

/-- Whether a spare is wired to a port (R342). -/
def State.spareHome (s : State) (p : PortId) (k : Nat) : Bool := (s.spare p k).home.toNat == p.val % 5

/-- The spares a port may take now, ascending (R362): one that has returned to the pool waits for the port's next
training (R365, R403). -/
def State.freeSpares (s : State) (p : PortId) : List Nat :=
  (List.range 4).filter fun k => s.spareHome p k && (s.spare p k).state == .standby && !(s.spare p k).returned

/-- The lanes that training may use (R354, R356): lanes 0 to 7 and the wired spares, none retired. -/
def State.trainable (s : State) (p : PortId) : BitVec 12 :=
  ofOnes 12 (((List.range 8).zip (s.port p).lanes.toList).filterMap (fun l =>
      if l.2 == .good || l.2 == .returned then some l.1 else none) ++
    (List.range 4).filterMap fun k =>
      if s.spareHome p k && ((s.spare p k).state == .standby || (s.spare p k).state == .inUse) then some (8 + k)
      else none)

/-- The spares a port uses return to STANDBY. -/
def State.freeUsed (s : State) (p : PortId) : State :=
  (List.range 4).foldl (fun s k =>
    if s.spareHome p k && (s.spare p k).state == .inUse then
      s.modSpare (groupOf p) k fun x => { x with state := .standby }
    else s) s

/-! ### Sending (R349) -/

/-- A CTRL frame with one message is sent. -/
def State.sendCtl (s : State) (p : PortId) (code : Nat) (args : List Byte) : State :=
  s.modPort p fun x => x.emitCtl (leBytes 1 code ++ args)

/-- A DOWN frame on every active lane (R367). -/
def State.sendDown (s : State) (p : PortId) : State :=
  if (s.port p).active then
    s.modPort p fun x => { x with outbox := x.outbox ++ (List.range x.width.toNat).map fun n =>
      { x.onAllLanes .down (List.replicate 600 0) with lanes := [n] } }
  else s

/-- The cause codes of a LANE_FAULT message, one byte for each logical lane (DESIGN CHOICE, log 160). -/
def LPort.faultCodes (x : LPort) (mask : BitVec 8) : List Byte :=
  tab 8 fun n => if mask.getLsbD n then x.faultCause.toList.getD n 0 else 0

/-- LANE_FAULT for logical lanes, with the cause of each (R349, R361). -/
def State.sendLaneFault (s : State) (p : PortId) (mask : BitVec 8) : State :=
  s.sendCtl p 2 (leBytes 1 mask.toNat ++ (s.port p).faultCodes mask)

/-! ### Loss (R366 to R369) -/

/-- A port enters LOST (R366, R368): LOSS and LOSSRSN, a count, the spares back to STANDBY, a report;
collectives that use it end (R423), and a time parent behind it is replaced (R435). -/
def State.enterLost (s : State) (p : PortId) (reason : BitVec 4) : State :=
  let s := (s.freeUsed p).modPort p fun x => { x with
    state := .lost
    lossBit := true
    lossRsn := reason
    losses := x.losses + 1
    initiator := false
    width := 0
    laneMap := 0xFFFFFFFF
    faultWait := 0
    ctlPend := []
    retrainWait := false
    retrainSent := false
    retraining := false
    swapOp := none }
  let s := (s.report 0x0004 .port p.val (BitVec.ofNat 64 p.val) (reason.setWidth 64)).1
  (s.collPortLost p).portLeft p

/-- Every active lane has lost lock, or no good frame has come for 8 µs, on a port that carries frames or retrains
(R366, R360). -/
def execPartnerLoss (p : PortId) (_cause : LossCause) (s : State) : Res :=
  .next (if (s.port p).active || (s.port p).state == .retrain then s.enterLost p 1 else s)

/-! ### Acknowledgement and replay (R351 to R353) -/

/-- Whether sequence number `a` is at or after `b` modulo 2^20. -/
def seqLe (b a : BitVec 20) : Bool := decide ((a - b).toNat < 2 ^ 19)

/-- ACKSEQ and credits that any good frame carries. -/
def LPort.header (x : LPort) (ack : BitVec 20) (cvc : Fin 8) (ccnt : Nat) : LPort :=
  ({ x with
    replayBuf := x.replayBuf.filter fun f => !seqLe f.seq ack
    ctlPend := x.ctlPend.filter fun f => !seqLe f.seq ack
    credits := x.credits.set cvc (x.credits[cvc] + ccnt) }).pump

/-- A control message's header. -/
def LPort.ctlHeader (x : LPort) (h : CtlHeader) : LPort := x.header h.ackseq h.cvc.toFin h.ccnt.toNat

/-- Frames of the replay buffer from a sequence number on are sent again; the replay is counted (R353). -/
def State.replayFrom (s : State) (p : PortId) (from_ : BitVec 20) : State :=
  let l := (s.port p).replayBuf.filter fun f => seqLe from_ f.seq
  if l.isEmpty then s
  else (s.modPort p fun x => { x with
      outbox := x.outbox ++ l.map fun f => { f with ack := x.rxSeq - 1, lanes := [f.seq.toNat % x.width.toNat] }
      replays := x.replays + 1 }).thawEvent 5

/-- Replay everything unacknowledged. -/
def State.replayAll (s : State) (p : PortId) : State :=
  match (s.port p).replayBuf with
  | [] => s
  | f :: _ => s.replayFrom p f.seq

/-- A discarded frame: REPLAY_REQ goes out once (R352). -/
def State.askReplay (s : State) (p : PortId) : State :=
  if (s.port p).replayAsked then s
  else (s.modPort p fun x => { x with replayAsked := true }).sendCtl p 1 (leBytes 3 (s.port p).rxSeq.toNat)

/-- An erroneous frame on a logical lane is noted; what is older than 1 ms is forgotten (R361). -/
def State.noteErr (s : State) (p : PortId) (lane : Nat) (syms : Option Nat) : State :=
  s.modPort p fun x => { x with
    errLog := (x.errLog.filter fun e => decide (s.gtc.count.toNat ≤ e.time.toNat + 1000000)) ++
      [⟨lane, s.gtc.count, syms⟩] }

/-- Corrected symbols are counted (R346). -/
def State.corrected (s : State) (p : PortId) (lane n : Nat) : State :=
  if n = 0 then s
  else (s.modPort p fun x => { x with fecCorr := x.fecCorr + BitVec.ofNat 64 n }).noteErr p lane (some n)

/-- An uncorrectable frame is counted and discarded, and a replay asked for (R346). -/
def State.uncorrectable (s : State) (p : PortId) (lane : Nat) : State :=
  ((s.modPort p fun x => { x with fecUnc := x.fecUnc + 1 }).noteErr p lane none).askReplay p

/-- What became of a received frame. -/
inductive Reception where
  /-- Not a frame this port takes. -/
  | ignored
  /-- Received in a codeword or with a header beyond repair, or after a gap. -/
  | discarded (s : State)
  /-- Accepted in order. -/
  | accepted (s : State)

/-- A frame of a type arrives (R346 to R352): FEC, the header check, and the sequence. -/
def State.receive (s : State) (p : PortId) (f : Frame) (ty : Nat) : Reception :=
  let x := s.port p
  if !x.active || x.width.toNat ≤ f.lane.val || x.faultWait.getLsbD f.lane.val then .ignored
  else if 12 < f.symErrs || !hdrOk f then
    .discarded (s.uncorrectable p f.lane.val)
  else if hdrType f.hdr ≠ ty then .ignored
  else
    let s := s.corrected p f.lane.val f.symErrs
    let seq := hdrSeq f.hdr
    if ty = 4 then
      .accepted (s.modPort p fun x => x.header (hdrAck f.hdr) (hdrCvc f.hdr) (hdrCcnt f.hdr))
    else if seq = x.rxSeq then
      .accepted (s.modPort p fun x =>
        ({ x with rxSeq := x.rxSeq + 1, replayAsked := false }).header (hdrAck f.hdr) (hdrCvc f.hdr) (hdrCcnt f.hdr))
    else if seqLe seq x.rxSeq then .discarded s
    else .discarded (s.askReplay p)

/-- A received frame's effect. -/
def State.onFrame (s : State) (p : PortId) (f : Frame) (ty : Nat) (name : String) (k : State → State) : Res :=
  if !f.WellFormed then .refused (.illFormed name)
  else match s.receive p f ty with
    | .ignored => .next s
    | .discarded s => .next s
    | .accepted s => .next (k s)

/-- A DATA frame: its payload joins the stream in FSEQ order (R350). -/
def execFrameData (p : PortId) (f : Frame) (s : State) : Res :=
  s.onFrame p f 0 "FRAME_DATA" fun s => s.modPort p fun x => { x with rxStream := x.rxStream ++ f.payload }

/-- An IDLE frame: ACKSEQ and credits (R348). -/
def execFrameIdle (p : PortId) (f : Frame) (s : State) : Res := s.onFrame p f 1 "FRAME_IDLE" id

/-- A TIME frame: the offset to the parent (R433); TIME frames travel on logical lane 0 (R432). -/
def execFrameTime (p : PortId) (f : Frame) (arrival : Word) (arrivalFrac : BitVec 4) (s : State) : Res :=
  s.onFrame p f 3 "FRAME_TIME" fun s =>
    if f.lane = 0 then s.timeReceive p f.payload arrival arrivalFrac else s

/-- A DOWN frame: the partner is being reset (R366). -/
def execFrameDown (p : PortId) (f : Frame) (s : State) : Res :=
  s.onFrame p f 4 "FRAME_DOWN" fun s => s.enterLost p 2

/-- A control message on a port that carries frames: in a codeword beyond correction it is lost with its frame
(R346); on a lane whose frames this end no longer takes it is ignored (R361). A message that is repeated (R349) is
presented once. -/
def State.onCtl (s : State) (p : PortId) (h : CtlHeader) (k : State → State) : Res :=
  let x := s.port p
  .next (if !x.active || x.width.toNat ≤ h.lane.val || x.faultWait.getLsbD h.lane.val then s
    else if 12 < h.symErrs then s.uncorrectable p h.lane.val
    else k ((s.corrected p h.lane.val h.symErrs).modPort p fun x => x.ctlHeader h))

/-- The transmitter resends every frame from the requested FSEQ (R352); one that waits for ALIGN_DONE does so then
(R362). -/
def execReplayReq (p : PortId) (h : CtlHeader) (fseq : BitVec 20) (s : State) : Res :=
  s.onCtl p h fun s => if (s.port p).carries then s.replayFrom p fseq else s

/-- CREDIT returns credits to the eight virtual channels (R349). -/
def execCredit (p : PortId) (h : CtlHeader) (counts : List Nat) (s : State) : Res :=
  if counts.length ≠ 8 then .refused (.illFormed "CREDIT")
  else s.onCtl p h fun s => s.modPort p fun x =>
    { x with credits := vtab 8 fun i => x.credits.toList.getD i 0 + counts.getD i 0 }

/-- No progress of ACKSEQ for 4 µs: everything unacknowledged is sent again (R352), CTRL frames with it (R349). -/
def execReplayTimeout (p : PortId) (s : State) : Res :=
  .next (if (s.port p).carries then
    (s.replayAll p).modPort p fun x => { x with outbox := x.outbox ++ x.ctlPend }
  else s)

/-! ### Training (R354 to R357) -/

/-- Credits per channel of a class (R388). -/
def initCredits (vc : Nat) : Nat :=
  match vc / 2 with
  | 0 => 128
  | 1 => 64
  | 2 => 256
  | _ => 32

/-- A training attempt failed (R354, R366). -/
def State.trainFail (s : State) (p : PortId) : State :=
  s.modPort p fun x => { x with
    state := .detect
    trainErr := true
    trainFails := x.trainFails + 1
    retrainSent := false
    retraining := false
    lossRsn := if 3 ≤ x.trainFails + 1 then 4 else x.lossRsn }

/-- A lane receives the detect pattern: the port goes to POLL, its stream and credits fresh. A port in RETRAIN goes to
POLL with the stream it has (R350, R354; DESIGN CHOICE, log 160: the table gives RETRAIN no row of its own). -/
def execLinkDetect (p : PortId) (s : State) : Res :=
  if (s.port p).state = .retrain then .next (s.modPort p fun x => { x with state := .poll })
  else if (s.port p).state ≠ .detect then .next s
  else .next (s.modPort p fun x => { x with
    state := .poll
    txSeq := 0
    rxSeq := 0
    replayBuf := []
    replayAsked := false
    rxStream := []
    txStream := []
    txFirst := []
    faultWait := 0
    errLog := []
    ctlPend := []
    credits := vtab 8 initCredits })

/-- POLL ends after 1 ms: the lanes that locked go on, or the attempt fails. -/
def execLinkPollEnd (p : PortId) (locked : BitVec 12) (s : State) : Res :=
  let x := s.port p
  if x.state ≠ .poll then .next s
  else
    let c := locked &&& s.trainable p
    if c = 0 then .next (s.trainFail p)
    else .next (s.modPort p fun x => { x with state := .equalize, cand := c })

/-- EQUALIZE ends: lanes that did not converge are excluded. -/
def execLinkEqualizeEnd (p : PortId) (converged : BitVec 12) (s : State) : Res :=
  if (s.port p).state ≠ .equalize then .next s
  else .next (s.modPort p fun x => { x with state := .align, cand := x.cand &&& converged })

/-- ALIGN ends: lanes that did not align are excluded. -/
def execLinkAlignEnd (p : PortId) (aligned : BitVec 12) (s : State) : Res :=
  if (s.port p).state ≠ .align then .next s
  else .next (s.modPort p fun x => { x with state := .config, cand := x.cand &&& aligned })

/-- The spares a port uses after a map: IN_USE when in it, STANDBY otherwise. -/
def State.setSpares (s : State) (p : PortId) (codes : List Nat) : State :=
  (List.range 4).foldl (fun s k =>
    if s.spareHome p k && ((s.spare p k).state == .standby || (s.spare p k).state == .inUse) then
      s.modSpare (groupOf p) k fun x => { x with state := if codes.contains (8 + k) then .inUse else .standby }
    else s) s

/-- The port has trained: the spares returned to its pool may be used again (R365, R403). -/
def State.takeReturned (s : State) (p : PortId) : State :=
  (List.range 4).foldl (fun s k =>
    if s.spareHome p k then s.modSpare (groupOf p) k fun x => { x with returned := false } else s) s

/-- CONFIG ends (R355, R358, R369, R372): the partner is recorded; width, lane map, rate and initiator are fixed; the
port is ACTIVE, and HELD when it trains anew while an image is admitted. -/
def execLinkConfigEnd (p : PortId) (offer : ConfigOffer) (s : State) : Res :=
  let x := s.port p
  if x.state ≠ .config then .next s
  else
    let common := onesOf (x.cand &&& offer.lanes)
    let w := min (min 8 common.length) (min x.maxw.toNat offer.maxw.toNat)
    let s := s.modPort p fun x => { x with partner := some (offer.addr, offer.port) }
    if w = 0 then .next (s.trainFail p)
    else
      let codes := common.take w
      let s := ((s.takeReturned p).setSpares p codes).modPort p fun x => { x with
        state := .active
        width := BitVec.ofNat 4 w
        laneMap := mapOf codes
        half := x.halfRate || offer.half
        initiator := decide (offer.addr.toNat < (s.routers[0]).self.toNat)
        held := s.job.image.isSome
        faultWait := 0
        retrainSent := false
        retraining := false
        trainFails := 0
        time := { x.time with seq := 0, rxSeq := 0, depth := 0xFF, locked := false, master := false, sent := [] } }
      .next (s.replayAll p)

/-- A LOST port returns to DETECT after 1 ms (R369). -/
def execLinkLostRetry (p : PortId) (s : State) : Res :=
  if (s.port p).state ≠ .lost then .next s
  else .next (s.modPort p fun x => { x with state := .detect })

/-- DETECT ran 100 ms with no pattern received (R366). -/
def execNoPartner (p : PortId) (s : State) : Res :=
  if (s.port p).state ≠ .detect then .next s
  else .next (s.modPort p fun x => { x with lossRsn := 3 })

/-- The message that asks for a retrain, or with which the initiator starts one (R349, R358; DESIGN CHOICE, log 159). -/
def State.sendRetrain (s : State) (p : PortId) : State :=
  s.sendCtl p 5 (leBytes 1 (s.port p).maxw.toNat ++ leBytes 1 (s.port p).halfRate.toNat)

/-- A port enters RETRAIN: it has left ACTIVE (R354, R358, R435). -/
def State.enterRetrain (s : State) (p : PortId) : State :=
  (s.modPort p fun x => { x with
    state := .retrain, initiator := false, retrainWait := false, retraining := true }).portLeft p

/-- The initiator starts a retrain and says so; a follower asks for one (R359); in SWAP either waits (R360). -/
def State.retrain (s : State) (p : PortId) : State :=
  let x := s.port p
  let s := s.modPort p fun x => { x with retrainRq := false }
  match x.state with
  | .active =>
    if x.initiator then (s.sendRetrain p).enterRetrain p
    else (s.modPort p fun x => { x with retrainWait := false, retrainSent := true }).sendRetrain p
  | .swap => s.modPort p fun x => { x with retrainWait := true }
  | _ => s

/-- RETRAIN of LINK_CTRL is written (R359). -/
def execLinkRetrain (p : PortId) (s : State) : Res := .next (s.retrain p)

/-- A follower's RETRAIN_REQ reaches the initiator (R359); the initiator's own message takes the follower into RETRAIN
with it (R358). -/
def execRetrainReq (p : PortId) (h : CtlHeader) (_maxw : BitVec 4) (_half : Bool) (s : State) : Res :=
  s.onCtl p h fun s => if (s.port p).initiator then s.retrain p else s.enterRetrain p

/-- DISABLE of LINK_CTRL takes effect (R354, R367): the port goes quiet, or leaves DISABLED. -/
def State.applyDisable (s : State) (p : PortId) : State :=
  let x := s.port p
  if x.disable then
    if x.state == .disabled then s
    else
      let s := ((s.sendDown p).freeUsed p).modPort p fun x => { x with
        state := .disabled, initiator := false, width := 0, laneMap := 0xFFFFFFFF, swapOp := none, faultWait := 0
        ctlPend := [], retrainWait := false, retrainSent := false, retraining := false }
      if x.active then s.portLeft p else s
  else if x.state == .disabled && !s.boot.inReset then s.modPort p fun x => { x with state := .detect }
  else s

/-- DISABLE is written. -/
def execLinkDisable (p : PortId) (hold : Bool) (s : State) : Res :=
  .next ((s.modPort p fun x => { x with disable := hold }).applyDisable p)

/-! ### Lane faults, spares, width reduction (R361 to R365) -/

/-- The logical lanes of a mask under one map, as logical lanes of another: those whose physical lane stays. -/
def relane (old new : BitVec 32) (mask : BitVec 8) : BitVec 8 :=
  ofOnes 8 ((List.range 8).filter fun n => laneAt new n != 15 &&
    (onesOf mask).any fun m => laneAt old m == laneAt new n)

/-- A lane is retired at this end (R363, R365): its test begins; a second retirement is permanent. The unit-history
journal records it. -/
def State.retireLane (s : State) (p : PortId) (code : Nat) : State :=
  let perm := if h : code < 8 then (s.port p).lanes[code] != .good else decide (0 < (s.spare p (code - 8)).times)
  let s := if h : code < 8 then
      s.modPort p fun x => { x with lanes := x.lanes.set code (if perm then .permanent else .retired) }
    else s.modSpare (groupOf p) (code - 8) fun x =>
      { x with state := if perm then .retired else .testing, times := x.times + 1, permanent := perm }
  let s := if perm then s.recordRepair (.lane p.val code) else s
  let s := { s with integ := { s.integ with
    histLanes := s.integ.histLanes ++ [LaneRec.mk s.boot.ptime p.val code false] } }
  (s.report 0x0003 .lane (p.val * 16 + code) (BitVec.ofNat 64 p.val) (BitVec.ofNat 64 code)).1

/-- A new map takes force with a substitution or a width reduction (R362, R363, R364): the lanes that
leave are retired, the port is in SWAP until both ends have aligned. Faults of lanes that stay still apply, and so
does a retrain that this end had asked for (R360). -/
def State.startSwap (s : State) (p : PortId) (codes gone spares : List Nat) (faulty : BitVec 8)
    (subs : Nat) (isWidth : Bool) : State :=
  let s := gone.foldl (fun s c => s.retireLane p c) s
  let left := (s.port p).state == .active
  let s := (s.setSpares p codes).modPort p fun x => { x with
    state := .swap
    width := BitVec.ofNat 4 codes.length
    laneMap := mapOf codes
    swapBit := true
    swaps := x.swaps + BitVec.ofNat 64 subs
    wdrops := if isWidth then x.wdrops + 1 else x.wdrops
    degraded := x.degraded || (isWidth && s.job.running)
    faultWait := relane x.laneMap (mapOf codes) x.faultWait
    retrainWait := x.retrainWait || x.retrainSent
    retrainSent := false
    swapOp := some {
      faulty := faulty, map := mapOf codes, width := BitVec.ofNat 4 codes.length, isWidth := isWidth
      resume := match x.replayBuf with | f :: _ => f.seq | [] => x.txSeq
      spares := ((match x.swapOp with | some o => o.spares | none => []) ++ spares).filter fun k =>
        codes.contains (8 + k)
      selfDone := false, peerDone := false, oldMap := x.laneMap, since := s.gtc.count } }
  let s := if left then s.portLeft p else s
  if isWidth && s.job.running then s.thawEvent 6 else s

/-- The initiator answers faulty logical lanes (R362 steps 1 and 2): SWAP when every one has a spare,
WIDTH otherwise; `noSpare` are lanes that take none, their spare having failed to align. -/
def State.answerFault (s : State) (p : PortId) (mask noSpare : BitVec 8) : State :=
  let x := s.port p
  let faulty := (onesOf (mask ||| noSpare)).filter (· < x.width.toNat)
  let codes := x.laneCodes
  let wants := faulty.filter fun n => !noSpare.getLsbD n
  let pairs := wants.zip (s.freeSpares p)
  let subst (n c : Nat) : Nat := match pairs.find? fun q => q.1 == n with | some q => 8 + q.2 | none => c
  let gone := faulty.map fun n => codes.getD n 15
  let spares := pairs.map (·.2)
  if faulty.isEmpty then s
  else if pairs.length = faulty.length then
    let codes' := ((List.range codes.length).zip codes).map fun q => subst q.1 q.2
    let s := s.startSwap p codes' gone spares (mask ||| noSpare) pairs.length false
    let resume := match (s.port p).swapOp with | some o => o.resume.toNat | none => 0
    pairs.foldl (fun s q => s.sendCtl p 3 (leBytes 1 q.1 ++ leBytes 1 (8 + q.2) ++ leBytes 3 resume)) s
  else
    let left := (((List.range codes.length).zip codes).filterMap fun q =>
      if faulty.contains q.1 then (pairs.find? fun r => r.1 == q.1).map fun r => 8 + r.2 else some q.2)
    let codes' := (List.range 12).filter left.contains
    if codes'.isEmpty then (gone.foldl (fun s c => s.retireLane p c) s).enterLost p 1
    else
      let s := s.startSwap p codes' gone spares (mask ||| noSpare) pairs.length true
      let resume := match (s.port p).swapOp with | some o => o.resume.toNat | none => 0
      s.sendCtl p 4 (leBytes 1 codes'.length ++ leBytes 4 (mapOf codes').toNat ++ leBytes 3 resume)

/-- The lanes of a mask whose spare the substitution in progress has just brought in. -/
def LPort.newSpares (x : LPort) (mask : BitVec 8) : BitVec 8 :=
  match x.swapOp with
  | some o => ofOnes 8 ((onesOf mask).filter fun n =>
      8 ≤ laneAt x.laneMap n && o.spares.contains (laneAt x.laneMap n - 8))
  | none => 0

/-- The partner reports faulty lanes to the initiator (R362), which answers for those it has found
itself as well (R360). A report that comes within 600 counts of the initiator's own SWAP or WIDTH was sent before that
arrived and names lanes of the map before it; a later one can say that a new spare has not aligned (DEDUCED, log 160). -/
def execLaneFault (p : PortId) (h : CtlHeader) (mask : BitVec 8) (s : State) : Res :=
  s.onCtl p h fun s =>
    let x := s.port p
    if !x.initiator then s
    else match x.swapOp with
      | some o =>
        if s.gtc.count.toNat < o.since.toNat + 600 then
          s.answerFault p (relane o.oldMap x.laneMap mask ||| x.faultWait) 0
        else s.answerFault p (mask ||| x.faultWait) (x.newSpares mask)
      | none => s.answerFault p (mask ||| x.faultWait) 0

/-- Corrected symbols of a lane within 1 ms that a pre-FEC bit error ratio of 10^-4 amounts to (R361): 22,400 at 224
Gb/s, half as many at 112 Gb/s (DEDUCED, log 160). -/
def LPort.errorLimit (x : LPort) : Nat := if x.half then 11200 else 22400

/-- Whether what this end has recorded of a lane within the last 1 ms bears a cause of R361 out; a loss of lock is the
receiver's own. -/
def State.causeHolds (s : State) (p : PortId) (lane : Nat) (cause : LaneCause) : Bool :=
  let x := s.port p
  let l := x.errLog.filter fun e => e.lane == lane && decide (s.gtc.count.toNat ≤ e.time.toNat + 1000000)
  match cause with
  | .lockLost => true
  | .uncorrectable => decide (4 < (l.filter fun e => e.syms.isNone).length)
  | .errorRate => decide (x.errorLimit < (l.filterMap fun e => e.syms).sum)

/-- The code of a cause in a LANE_FAULT message; 4 is a spare that has not aligned. -/
def causeCode : LaneCause → BitVec 8
  | .lockLost => 1
  | .uncorrectable => 2
  | .errorRate => 3

/-- This end declares a lane fault (R361): it stops taking frames on the lane; the follower sends
LANE_FAULT, the initiator acts. -/
def execLaneFaultDetect (p : PortId) (loss : LaneLoss) (s : State) : Res :=
  let x := s.port p
  let lane := loss.lane
  if !x.active || x.width.toNat ≤ lane.val || !s.causeHolds p lane.val loss.cause then .next s
  else
    let m := x.faultWait ||| BitVec.ofNat 8 (2 ^ lane.val)
    let s := s.modPort p fun x => { x with
      faultWait := m, faultCause := x.faultCause.set lane (causeCode loss.cause) }
    .next (if x.initiator then s.answerFault p m (x.newSpares m) else s.sendLaneFault p m)

/-- A newly used spare has not aligned within 600 ns (R362 step 3). -/
def execSpareAlignTimeout (p : PortId) (lane : Fin 8) (s : State) : Res :=
  let x := s.port p
  let m := BitVec.ofNat 8 (2 ^ lane.val)
  if x.state ≠ .swap ∨ x.newSpares m = 0 then .next s
  else
    let s := s.modPort p fun x => { x with faultCause := x.faultCause.set lane 4 }
    .next (if x.initiator then s.answerFault p 0 m else s.sendLaneFault p m)

/-- The follower receives SWAP (R362 step 3): the lane's pair is retired, and the pattern runs on the
new map. -/
def execSwap (p : PortId) (h : CtlHeader) (lane : Fin 8) (phys : BitVec 4) (_resume : BitVec 20) (s : State) : Res :=
  s.onCtl p h fun s =>
    let x := s.port p
    if x.initiator || x.width.toNat ≤ lane.val then s
    else
      let codes := x.laneCodes
      let codes' := codes.set lane.val phys.toNat
      let spares := if 8 ≤ phys.toNat then [phys.toNat - 8] else []
      s.startSwap p codes' [codes.getD lane.val 15] spares (BitVec.ofNat 8 (2 ^ lane.val)) 1 false

/-- The follower receives WIDTH (R362 step 3): the lanes that left the map are retired. -/
def execWidth (p : PortId) (h : CtlHeader) (w : BitVec 4) (map : BitVec 32) (_resume : BitVec 20) (s : State) : Res :=
  s.onCtl p h fun s =>
    let x := s.port p
    if x.initiator || w = 0 || 8 < w.toNat then s
    else
      let codes := x.laneCodes
      let codes' := tab w.toNat (laneAt map)
      let spares := (codes'.filter fun c => 8 ≤ c && !codes.contains c).map (· - 8)
      s.startSwap p codes' (codes.filter fun c => !codes'.contains c) spares 0 spares.length true

/-- A change ends when this end has aligned and the partner says it has (R362 step 4): the port is
ACTIVE; a lane that still fails is answered or reported again, and a retrain that waited proceeds (R360). -/
def State.swapCheck (s : State) (p : PortId) : State :=
  match (s.port p).swapOp with
  | some o =>
    if o.selfDone && o.peerDone then
      let s := s.modPort p fun x => ({ x with state := .active, swapOp := none }).pump
      let x := s.port p
      if x.faultWait != 0 then
        if x.initiator then s.answerFault p x.faultWait 0 else s.sendLaneFault p x.faultWait
      else if x.retrainWait then s.retrain p
      else s
    else s
  | none => s

/-- This end's receiver has aligned on every lane of the new map: it sends ALIGN_DONE with the mask of the lanes. -/
def execFrameAlignmentFound (p : PortId) (s : State) : Res :=
  if (s.port p).state ≠ .swap then .next s
  else
    let s := s.modPort p fun x => { x with swapOp := x.swapOp.map fun o => { o with selfDone := true } }
    .next ((s.sendCtl p 6 (leBytes 1 (2 ^ (s.port p).width.toNat - 1))).swapCheck p)

/-- ALIGN_DONE arrives: the transmitter replays from the partner's last ACKSEQ on, and goes on (R362 step 4). -/
def execAlignDone (p : PortId) (h : CtlHeader) (s : State) : Res :=
  s.onCtl p h fun s =>
    match (s.port p).swapOp with
    | some o =>
      if o.peerDone then s
      else
        let s := (s.modPort p fun x => { x with swapOp := some { o with peerDone := true } }).replayAll p
        (s.modPort p LPort.pump).swapCheck p
    | none => s

/-- The unit-history journal notes that a retired lane has passed its test. -/
def State.lanePassed (s : State) (p : PortId) (code : Nat) : State :=
  { s with integ := { s.integ with histLanes := s.integ.histLanes.map fun r =>
    if r.port = p.val ∧ r.lane = code then { r with passed := true } else r } }

/-- A retired lane's PRBS31 test ends (R365). -/
def execLanePrbsDone (p : PortId) (lane : BitVec 4) (pass : Bool) (s : State) : Res :=
  let c := lane.toNat
  if h : c < 8 then
    if (s.port p).lanes[c] != .retired then .next s
    else if pass then .next ((s.modPort p fun x => { x with lanes := x.lanes.set c .returned }).lanePassed p c)
    else .next ((s.modPort p fun x => { x with lanes := x.lanes.set c .permanent }).recordRepair (.lane p.val c))
  else if 12 ≤ c ∨ !s.spareHome p (c - 8) ∨ (s.spare p (c - 8)).state ≠ .testing then .next s
  else if pass then .next ((s.modSpare (groupOf p) (c - 8) fun x =>
    { x with state := .standby, returned := true }).lanePassed p c)
  else .next ((s.modSpare (groupOf p) (c - 8) fun x =>
    { x with state := .retired, permanent := true }).recordRepair (.lane p.val c))

end Sys2Proof.Machine
end

