-- ==== Sys2Proof/Machine/Epilogue.lean ====
section
/-!
DEFINITION. The epilogue (R114 to R131): descriptors and their checks, the arithmetic of one row, the
destinations, and binding to a STREAM pass.
-/
namespace Sys2Proof.Machine

/-! ### Descriptors -/

/-- The fields of an epilogue descriptor (R114). -/
def EpiDesc.ofBytes (b : List Byte) : EpiDesc :=
  let fmt := leAt b 0 1
  let mode := leAt b 1 1
  let fuse := leAt b 2 1
  { src := fmt % 16
    dst := fmt / 16
    rm := mode % 4
    sat := mode.testBit 2
    clear := mode.testBit 3
    dest := mode / 16 % 4
    bind := mode.testBit 6
    op := fuse % 4
    shape := fuse / 4 % 4
    tfmt := fuse / 16
    nr := leAt b 4 2 + 1
    ncols := leAt b 6 2
    accRow := leAt b 8 2
    ssig := leAt b 12 4
    wsig := leAt b 16 4
    tsig := leAt b 20 4
    dsig := leAt b 24 4
    daddr := leAt b 32 4
    dstride := leAt b 36 4
    dscale := leAt b 40 4
    taddr := leAt b 44 4
    tstride := leAt b 48 4
    tscale := leAt b 52 4
    resv := mode.testBit 7 || leAt b 3 1 != 0 || leAt b 10 2 != 0 || leAt b 28 4 != 0 ||
      leAt b 56 8 != 0 }

/-- Whether the epilogue reads T (R125). -/
def EpiDesc.readsT (d : EpiDesc) : Bool := d.op == 1 || d.op == 2

/-- The rows an epilogue covers: with BIND those of the pass it is bound to, NR1 + 1 otherwise. With BIND and no pass
it covers none, since R114 has NR1 ignored, and DESC_ERR refuses it (R121, R125). -/
def EpiOp.rows (e : EpiOp) : Nat := match e.bound with | some b => b.m | none => if e.d.bind then 0 else e.d.nr

/-- Elements of T along its contiguous dimension (R119). -/
def EpiOp.tLen (e : EpiOp) : Nat := if e.d.shape == 2 then e.rows else e.d.ncols

/-- Whether `rows` rows of `n` bytes at a base and a stride are well placed in the tile store. -/
def rowsOk (base stride n rows : Nat) : Bool :=
  base % 64 == 0 && stride % 64 == 0 && decide (n ≤ stride) &&
    (rows == 0 || inStore (base + (rows - 1) * stride) n)

/-- ADDR_ERR of R125 for T. DESIGN CHOICE (log 142): TSTRIDE, which R114 uses for SHAPE 0 only, is not checked for the
other shapes. -/
def EpiOp.tOk (e : EpiOp) : Bool :=
  let d := e.d
  let n := elemBytes d.tfmt e.tLen
  !d.readsT ||
    (if d.shape == 0 then
      rowsOk d.taddr d.tstride n e.rows &&
        (!isBlockFmt d.tfmt || inStore d.tscale (e.rows * (d.ncols / 32)))
    else regionOk d.taddr 64 n && (!isBlockFmt d.tfmt || inStore d.tscale (e.tLen / 32)))

/-- ADDR_ERR of R125 for the destination; a chain has no destination rows in the tile store, and its DADDR and DSTRIDE
are checked for alignment alone (DESIGN CHOICE, log 142). -/
def EpiOp.dOk (e : EpiOp) : Bool :=
  let d := e.d
  if d.dest == 1 then d.daddr % 64 == 0 && d.dstride % 64 == 0
  else rowsOk d.daddr d.dstride (elemBytes d.dst d.ncols) e.rows &&
    (!isBlockFmt d.dst || inStore d.dscale (e.rows * (d.ncols / 32)))

/-- The first failing check of R125 other than TAG_ERR, as its TILE_EPISTAT bit. -/
def EpiOp.check (e : EpiOp) (w : Nat) : Option Nat :=
  let d := e.d
  if (d.src != 0xC && d.src != 0xF) || d.dst == 0xF || (d.readsT && d.tfmt == 0xF) then some 0
  else if d.ncols == 0 || (if d.src == 0xF then w / 2 else w) < d.ncols ||
      (!d.bind && 2047 < d.accRow + (d.nr - 1)) || (isBlockFmt d.dst && d.ncols % 32 != 0) ||
      (d.readsT && isBlockFmt d.tfmt && e.tLen % 32 != 0) then some 1
  else if !(e.dOk && e.tOk) then some 2
  else if 2 ≤ d.dest || d.op == 3 || (d.readsT && d.shape == 3) || d.resv ||
      (d.bind && !(match e.bound with | some b => b.stream | none => false)) then some 3
  else none

/-! ### One entry -/

/-- A value of R115 with the flags set on the way to it. -/
abbrev FlaggedVal := FV × Flags

/-- A product or sum of steps 2 and 3, rounded once to the internal format under RNE; a NaN it is
given sets no further flag (R117, R626). -/
def epiStep (f : FFmt) (exact : FV → FV → FV) (a b : FV) : FlaggedVal :=
  let v := exact a b
  let r := f.rne v
  (f.decode r.1, clearBits r.2 fUfl ||| flagIf (v.isNan && !a.isNan && !b.isNan) fNanGen)

/-- NAN_IN for a NaN that a step reads. -/
def nanIn (v : FV) : Flags := flagIf v.isNan fNanIn

/-- The scales of a descriptor as values. -/
def sigVal (code : Nat) : FV := fFP32.decode code

/-- Steps 1 to 3 of R115 for an entry and T's element: x₂ and its flags. -/
def EpiDesc.steps123 (d : EpiDesc) (x tv : FV) : FlaggedVal :=
  let f := if d.src == 0xF then fA96 else fFP64
  let ss := sigVal d.ssig
  let sw := sigVal d.wsig
  let g := FV.mul ss sw
  let fl := nanIn x ||| nanIn ss ||| nanIn sw ||| flagIf (g.isNan && !ss.isNan && !sw.isNan) fNanGen
  let x1 := epiStep f FV.mul x g
  let fl := fl ||| x1.2
  if d.readsT then
    let st := sigVal d.tsig
    let t := epiStep f FV.mul st tv
    let x2 := epiStep f (if d.op == 1 then FV.add .rne else FV.mul) x1.1 t.1
    (x2.1, fl ||| nanIn st ||| nanIn tv ||| t.2 ||| x2.2)
  else (x1.1, fl)

/-- The quotient of step 4 before its rounding (R115, R116). -/
def EpiDesc.quotient (d : EpiDesc) (x2 : FV) : FlaggedVal :=
  let ds := sigVal d.dsig
  let q := FV.quo x2 ds
  (q, nanIn ds ||| flagIf (q.isNan && !x2.isNan && !ds.isNan) fNanGen |||
    flagIf (x2.isFin && !x2.isZero && ds.isZero) fOvf)

/-- The flags of step 4's conversion: a NaN formed or read before sets no further flag (R117). -/
def convFlags (fl : Flags) : Flags := clearBits fl (fNanIn ||| fIntNan)

/-- A row's quotients in the destination format: element codes, scale bytes, flags (R118, R119). -/
def EpiDesc.convertRow (d : EpiDesc) (qs : List FV) : List Nat × List Nat × Flags :=
  let r := Rnd.ofField d.rm
  if isBlockFmt d.dst then
    let bs := (chunks (d.ncols / 32) 32 qs).map (encodeBlock d.dst r d.sat)
    (bs.flatMap (·.2.1), bs.map (·.1), bs.foldl (fun f b => f ||| convFlags b.2.2) 0)
  else
    let cs := qs.map fun q =>
      let c := convert d.dst r d.sat q
      (c.1, if q.isNan then convFlags c.2 else c.2)
    (cs.map Prod.fst, [], cs.foldl (fun f c => f ||| c.2) 0)

/-! ### T -/

/-- Element `k` of `T`'s data at `base`, with the scale bytes at `sbase` (R119). -/
def State.tElem (s : State) (t : TileId) (c base sbase k : Nat) : FV :=
  let g := packGroup c
  let code := unpackElem c (s.tsRd t (base + k / g.1 * g.2) g.2) (k % g.1)
  decodeScaled c code (if isBlockFmt c then leNat (s.tsRd t (sbase + k / 32) 1) else 0)

/-- T's values for destination row `i` (R115 step 3, R119, R121). -/
def State.tRow (s : State) (t : TileId) (d : EpiDesc) (i : Nat) : List FV :=
  match d.shape with
  | 0 => tab d.ncols fun j =>
      s.tElem t d.tfmt (d.taddr + i * d.tstride) (d.tscale + i * (d.ncols / 32)) j
  | 1 => tab d.ncols fun j => s.tElem t d.tfmt d.taddr d.tscale j
  | _ =>
    let v := s.tElem t d.tfmt d.taddr d.tscale i
    tab d.ncols fun _ => v

/-! ### One row -/

/-- The result of a row: codes, scale bytes and flags. -/
def State.epiRow (s : State) (t : TileId) (d : EpiDesc) (r : AccRow) (i : Nat) :
    List Nat × List Nat × Flags :=
  let f := if d.src == 0xF then fA96 else fA48
  let ts := if d.readsT then s.tRow t d i else []
  let qs := tab d.ncols fun j =>
    let x2 := d.steps123 (f.decode (r.value (d.src == 0xF) s.free j)) (ts.getD j .zero)
    let q := d.quotient x2.1
    (q.1, x2.2 ||| q.2)
  let c := d.convertRow (qs.map Prod.fst)
  (c.1, c.2.1, qs.foldl (fun f q => f ||| q.2) c.2.2)

/-- One lane of a chained F32 row (R225): the result widened exactly; an MX or M8 value beyond FP32
becomes infinite and sets OVF_INF; a result that FP32 cannot hold exactly (A48) has no stated value. -/
def chainLane (c code scale free : Nat) : BitVec 32 × Flags :=
  let v := decodeScaled c code scale
  let r := fFP32.rne v
  if c == 0xC && !v.isNan && fFP32.decode r.1 != v && !FV.eq (fFP32.decode r.1) v then
    (Config.freeLane free, 0)
  else (BitVec.ofNat 32 r.1, r.2 &&& fOvf)

/-- The chained rows of an epilogue row (R225): one F32 row, or one or two F64 rows. -/
def EpiDesc.chainRows (d : EpiDesc) (codes scales : List Nat) (free : Nat) : List ChainRow × Flags :=
  if d.dst == 0 then
    let half (k : Nat) : ChainRow := ⟨true, vtab 256 fun l =>
      BitVec.ofNat 32 (codes.getD (k + l / 2) 0 >>> (32 * (l % 2)))⟩
    (if 128 < d.ncols then [half 0, half 128] else [half 0], 0)
  else
    let ls := (codes.zip (List.range codes.length)).map fun p =>
      chainLane d.dst p.1 (scales.getD (p.2 / 32) 0) (256 * free + p.2)
    ([⟨false, vtab 256 fun l => ((ls.getD l (0, 0)).1)⟩], ls.foldl (fun f l => f ||| l.2) 0)

/-! ### Issue and start -/

/-- EPI (R114, R121, R244): with BIND it is bound to the MPASS that is the last instruction of the
matrix class to take effect before it. -/
def execEpi (t : TileId) (s : State) : Res :=
  s.issueCop t (fun i => match i with | .epi sa wait off => some (sa, wait, off) | _ => none)
    (fun x => decide (16 ≤ x.matWaiting))
    fun s (sa, wait, off) =>
      let x := s.tile t
      let q := x.seq
      match s.descriptor t (q.sreg sa + ext32 off) 64 64 with
      | .error f => some (s.issueFault t f)
      | .ok b =>
        let d := EpiDesc.ofBytes b
        let e : EpiOp := ⟨q.hdr wait, d,
          if d.bind then x.lastMat.filter (·.stream) else none, false, 0, false, [], 0⟩
        let s := s.modTile t fun x => { x with matQ := x.matQ ++ [.epi e], lastMat := none }
        some (s.retireNext t [])

/-- The epilogue in the matrix queue, replaced. -/
def State.setEpi (s : State) (t : TileId) (e : EpiOp) : State :=
  s.modTile t fun x => { x with matQ := x.matQ.map fun o => match o with
    | .epi q => if q.hdr.id = e.hdr.id then .epi e else o
    | .pass _ => o }

/-- An epilogue ends at a fault: what it did commits, and the fault is reported (R125). -/
def State.epiFault (s : State) (t : TileId) (e : EpiOp) (bit : Nat) : State :=
  let s := s.dropMat t e.hdr.id
  let s := if e.row == 0 then s else s.emit t none (.op .epi e.bytes e.flags 0)
  (s.copFault t .epi bit e.hdr.id e.hdr.pc).rimeGo t

/-- Whether a pass issued before an unbound epilogue still has sums to deliver into its rows (R93). -/
def Tile.passesInto (x : Tile) (e : EpiOp) : Bool :=
  x.matQ.any fun o => match o with
    | .pass p => p.hdr.id < e.hdr.id && !p.arrived &&
        (List.range (min 2048 p.d.m)).any fun i => e.unread (p.d.rowOf i)
    | .epi _ => false

/-- The tile-store regions an epilogue reads and writes, as keys. -/
def EpiOp.foot (t : TileId) (e : EpiOp) : List (Nat × Nat) :=
  let d := e.d
  (if d.dest == 0 then
    [(poolBase t + d.daddr, e.rows * d.dstride), (poolBase t + d.dscale, e.rows * (d.ncols / 32))]
   else []) ++
  (if d.readsT then
    [(poolBase t + d.taddr, if d.shape == 0 then e.rows * d.tstride else elemBytes d.tfmt e.tLen),
     (poolBase t + d.tscale, e.rows * (d.ncols / 32 + 1))] else [])

/-- The tag a row must carry for an epilogue (R125). -/
def EpiDesc.want (d : EpiDesc) : RowTag := if d.src == 0xF then .a96 else .a48

/-- An epilogue starts (R93, R120, R125): in issue order, committed, its waits satisfied and, unbound,
the passes into its rows complete. It then checks its descriptor. -/
def execEpiStart (t : TileId) (s : State) : Res :=
  match (s.tile t).nextMat with
  | some (.epi e) =>
    let s := s.drainStores t
    let x := s.tile t
    if e.hdr.tag.isSome || !x.mayStart e.hdr.wait e.hdr.id || !s.storesAllow t e.hdr.id (e.foot t) ||
        (e.bound.isNone && x.passesInto e) then .next s
    else match e.check x.width.toNat with
      | some bit => .next (s.epiFault t e bit)
      | none =>
        if e.bound.isNone && (List.range e.d.nr).any fun i => (x.accRow (e.d.accRow + i)).tag != e.d.want
        then .next (s.epiFault t e 4)
        else .next (s.setEpi t { e with started := true })
  | _ => .next s

/-! ### Rows -/

/-- The accumulator row that the next row of an epilogue reads. -/
def EpiOp.accRow (e : EpiOp) : Nat :=
  match e.bound with
  | some b => (b.accRow + e.row) % 2048
  | none => e.d.accRow + e.row

/-- Whether an epilogue's next accumulator row is released and committed (R120, R121). -/
def Tile.released (x : Tile) (e : EpiOp) : Bool :=
  (x.accRow e.accRow).undo.isEmpty &&
    match e.bound with
    | some b => match x.passOf b.id with
      | some p => e.row < p.row
      | none => true
    | none => true

/-- CLEAR of R115 step 5: the entries read become +0 and the row's tag A48. -/
def State.clearRow (s : State) (t : TileId) (d : EpiDesc) (r : Nat) : State :=
  if d.clear then
    s.putRow t r none .a48 (List.replicate (if d.src == 0xF then 2 * d.ncols else d.ncols) 0)
  else s

/-- An epilogue's row is finished: counted, and with the last row the operation completes (R124,
R131). -/
def State.rowDone (s : State) (t : TileId) (e : EpiOp) (bytes : List Byte) (fl : Flags) : State :=
  let e := { e with
    row := e.row + 1
    second := false
    bytes := if s.gtc.lsEn then e.bytes ++ bytes else e.bytes
    flags := e.flags ||| fl }
  let s := s.modTile t fun x => { x with epirows := x.epirows + 1 }
  if e.row < e.rows then s.setEpi t e
  else ((s.dropMat t e.hdr.id).emit t none (.op .epi e.bytes e.flags 0)).rimeGo t

/-- Hand a chained row on; with the queue full nothing moves and the wait is counted (R226). -/
def State.pushChain (s : State) (t : TileId) (c : ChainRow) : State :=
  s.modTile t fun x => { x with vec := { x.vec with chainQ := x.vec.chainQ ++ [c] } }

/-- The next row of the oldest started epilogue (R115 to R121, R225, R226): it is read as soon as it
is released and committed, and written to the tile store or handed to the chain; `stall` is how long
a row waits on a full chain queue. -/
def execEpiRow (t : TileId) (stall : Word) (s : State) : Res :=
  let first := (s.tile t).matQ.findSome? fun o => match o with
    | .epi e => if e.started then some e else none
    | .pass _ => none
  match first with
  | none => .next s
  | some e =>
    let s := match e.bound with
      | some b => State.streamTo t b.id (e.row + 1) (e.row + 1) s
      | none => s
    let x := s.tile t
    if !x.released e then .next s
    else
      let d := e.d
      let r := e.accRow
      let row := x.accRow r
      if row.tag != d.want then .next (s.epiFault t e 4)
      else
        let out := s.epiRow t d row e.row
        let s := if d.src == 0xC && row.halves != 0 then s.takeFree.2 else s
        if d.dest == 1 then
          if 8 ≤ x.vec.chainQ.length then
            .next (s.modTile t fun x => { x with vec := { x.vec with chstall := x.vec.chstall + stall } })
          else
            let n := s.takeFree
            let rows := d.chainRows out.1 out.2.1 n.1
            match if e.second then rows.1.drop 1 else rows.1 with
            | [] => .next s
            | [c] => .next (((n.2.pushChain t c).clearRow t d r).rowDone t e [] (out.2.2 ||| rows.2))
            | c :: _ => .next ((n.2.pushChain t c).setEpi t { e with second := true })
        else
          let data := packElems d.dst out.1
          let s := s.tsWr t (d.daddr + e.row * d.dstride) data
          let s := if isBlockFmt d.dst then
              s.tsWr t (d.dscale + e.row * (d.ncols / 32)) (out.2.1.map fun v => BitVec.ofNat 8 v)
            else s
          .next ((s.clearRow t d r).rowDone t e data out.2.2)

end Sys2Proof.Machine
end

