-- ==== Sys2Proof/Machine/Queue.lean ====
section
/-!
DEFINITION. The Ouvzu queues (R482 to R502): fetched commands, sequencing, cancellation, commits and
records, interrupts, deletion and disabling, and the rows of the queue interface.
-/
namespace Sys2Proof.Machine

/-! ### Commands (R488 to R490) -/

/-- OPC. -/
def Cmd.opc (c : Cmd) : Nat := leAt c.raw 0 1

/-- CID. -/
def Cmd.cid (c : Cmd) : Nat := leAt c.raw 2 2

/-- An argument field. -/
def Cmd.arg (c : Cmd) (off k : Nat) : Nat := leAt c.raw off k

/-- The PCIe port a PORT argument names; none out of range. -/
def portArg (n : Nat) : Option PciePort := if n = 0 then some .a else if n = 1 then some .b else none

/-- Opcodes of kind Reduce (R490). -/
def isReduce (opc : Nat) : Bool := [0x03, 0x06, 0x08, 0x09, 0x12, 0x13].contains opc

/-- Opcodes accepted only from an admin queue, the mailbox or the SMC (R490). -/
def isAdmin (opc : Nat) : Bool := 0x02 ≤ opc && opc ≤ 0x08

/-- The opcodes of R490. -/
def knownOpc (opc : Nat) : Bool := (1 ≤ opc && opc ≤ 0x09) || (0x10 ≤ opc && opc ≤ 0x1A) || opc == 0x1F

/-- The argument bytes R490 names, as offset and size; every other one must be 0 (R488). -/
def argSpans (opc : Nat) : List (Nat × Nat) :=
  match opc with
  | 0x01 | 0x04 | 0x11 | 0x1A => [(8, 8)]
  | 0x02 => [(8, 28)]
  | 0x03 => [(8, 2)]
  | 0x05 => [(8, 26)]
  | 0x06 | 0x07 | 0x08 => [(8, 1)]
  | 0x09 => [(8, 4)]
  | 0x10 => [(8, 24)]
  | 0x14 => [(8, 12), (24, 16)]
  | 0x15 | 0x19 => [(8, 16)]
  | 0x17 | 0x18 => [(8, 18)]
  | _ => []

/-- Whether every byte that must be 0 is 0 (R488); the SMC's own stop orders carry their cause code. -/
def Cmd.reservedOk (c : Cmd) : Bool :=
  (c.sqid == 0xFFFF && c.lom.isNone) || (List.range 64).all fun i =>
    i == 0 || i == 2 || i == 3 || leAt c.raw i 1 == 0 ||
      (argSpans c.opc).any fun p => p.1 ≤ i && i < p.1 + p.2

/-- Whether a command came from an admin queue, the mailbox or the SMC. -/
def Cmd.admin (c : Cmd) : Bool := c.sqid < 2 || 0xFFFD ≤ c.sqid

/-- The order targets of R495. -/
inductive OrderTarget where
  | job
  | fn (p : Nat)
  | queue (q : Nat)
  | grant (g : Nat)
  | arbiter
  | cmd (sqid cid : Nat)
  deriving DecidableEq, Repr

/-- The target an order names (R495). -/
def Cmd.target (c : Cmd) : Option OrderTarget :=
  match c.opc with
  | 0x10 | 0x11 | 0x12 | 0x13 | 0x15 => some .job
  | 0x07 | 0x08 => some (.fn (c.arg 8 1))
  | 0x02 => some (.queue (c.arg 24 2))
  | 0x03 => some (.queue (c.arg 8 2))
  | 0x05 => some (.grant (c.arg 32 1))
  | 0x06 => some (.grant (c.arg 8 1))
  | 0x04 => some .arbiter
  | 0x09 => some (.cmd (c.arg 8 2) (c.arg 10 2))
  | _ => none

/-- Whether two commands contradict (R495). -/
def Cmd.contradicts (c d : Cmd) : Bool := c.target.isSome && c.target == d.target

/-- Whether a command waits to be started. -/
def Cmd.waiting (c : Cmd) : Bool := c.stage == .fetched || c.stage == .sequenced

/-- The status of a committed command. -/
def Cmd.status (c : Cmd) : Option Nat := match c.stage with | .committed st _ _ _ => some st | _ => none

/-- Whether two commands came through one queue or one mailbox (R494). SMC orders share none. -/
def Cmd.sameQueue (c d : Cmd) : Bool := c.sqid == d.sqid && c.port == d.port && c.sqid < 0xFFFF

/-- The command of a handle. -/
def State.cmd (s : State) (h : Nat) : Option Cmd := s.ouvzu.cmds.find? fun c => c.handle == h

/-- `s` with the command of a handle changed. -/
def State.modCmd (s : State) (h : Nat) (f : Cmd → Cmd) : State :=
  { s with ouvzu := { s.ouvzu with cmds := s.ouvzu.cmds.map fun c => if c.handle = h then f c else c } }

/-- A command enters the fetched commands (R492, R495). -/
def State.fetchCmd (s : State) (sqid : Nat) (port : Option PciePort) (raw : List Byte) (sqhead : Nat)
    (lom : Option LomHeader) : State :=
  let c : Cmd := ⟨s.ouvzu.nextCmd, sqid, port, raw, sqhead, s.gtc.count, .fetched, false, [], lom⟩
  { s with ouvzu := { s.ouvzu with cmds := s.ouvzu.cmds ++ [c], nextCmd := s.ouvzu.nextCmd + 1 } }

/-- A queue pair. -/
def State.queue (s : State) (q : Nat) : Option QPair := s.ouvzu.queues.find? fun x => x.id == q

/-- `s` with a queue pair changed. -/
def State.modQueue (s : State) (q : Nat) (f : QPair → QPair) : State :=
  { s with ouvzu := { s.ouvzu with queues := s.ouvzu.queues.map fun x => if x.id = q then f x else x } }

/-! ### Interrupts and records (R486, R487, R489) -/

/-- Send an MSI-X vector, or leave it pending while it is masked. -/
def PciFn.raise (f : PciFn) (v : Nat) : PciFn :=
  match f.msix[v]? with
  | some e =>
    if e.ctrl.getLsbD 0 then { f with pba := f.pba ||| bitAt 2048 v true }
    else { f with irqs := f.irqs ++ [v] }
  | none => f

/-- The 32 bytes of a committed command's record (R489). -/
def Cmd.record (c : Cmd) (phase : Bool) : List Byte :=
  match c.stage with
  | .committed st r0 r1 g =>
    leBytes 2 c.cid ++ leBytes 2 st ++ leBytes 2 c.sqid ++ leBytes 2 c.sqhead ++ leBytes 8 r0.toNat ++
      leBytes 8 r1.toNat ++ leBytes 4 g.toNat ++ leBytes 2 phase.toNat ++ [0, 0]
  | _ => []

/-- The SMC answers a manager's command (R595, R598): the RESPONSE is sent and stored. -/
def State.respond (s : State) (m : LomHeader) (status opc : Nat) (result : List Byte) : State :=
  let body := leBytes 2 status ++ leBytes 2 opc ++ List.replicate 4 0 ++ result
  let f : LomFrame := ⟨0x11, s.lom.seq, m.seq, s.gtc.count, body⟩
  let s := s.sendLom 0x11 m.seq body
  { s with lom := { s.lom with managers := s.lom.managers.map fun x =>
      if x.mac = m.mac then { x with resp := some f } else x } }

/-- A record into its completion queue (R486, R487). -/
def State.cqWrite (s : State) (q : QPair) (c : Cmd) : State :=
  let s := s.hostWr q.port (q.cqBase + 32 * q.cqTail) (c.record q.phase)
  let tail := (q.cqTail + 1) % q.cqSize
  let fire := q.ien && decide (max q.coalN 1 ≤ q.since + 1)
  let s := s.modQueue q.id fun q => { q with
    cqTail := tail
    phase := if tail = 0 then !q.phase else q.phase
    since := if fire then 0 else q.since + 1 }
  if fire then s.modFn q.port fun f => f.raise q.vector else s

/-- Whether a closing counts a command's CANCELLED record. -/
def Closing.covers (k : Closing) (c : Cmd) : Bool :=
  match k.port with
  | some p => c.port == some p && k.handle != some c.handle
  | none => c.sqid == k.qid

/-- A committed command leaves: its record is written to where its queue, mailbox or manager reads it
(R483, R487, R495). -/
def State.writeRecord (s : State) (c : Cmd) : State :=
  let n := if c.status == some 0x22 && c.sqid ≠ 0xFFFD then 1 else 0
  let s := { s with ouvzu := { s.ouvzu with
    cmds := s.ouvzu.cmds.filter fun d => d.handle != c.handle
    closing := s.ouvzu.closing.map fun k => if k.covers c then { k with count := k.count + n } else k } }
  if c.sqid = 0xFFFF then
    match c.lom with
    | some m => s.respond m 0 1 (c.record false)
    | none => s
  else if c.sqid = 0xFFFD then s
  else if c.sqid = 0xFFFE then
    match c.port with
    | some p => s.modFn p fun f => { f with mboxCpl := c.record false, mbbusy := false }.raise 0
    | none => s
  else match s.queue c.sqid with
    | some q => s.cqWrite q c
    | none => s

/-- A committed command with no earlier fetched command of its queue left (R494). -/
def State.recordable (s : State) (c : Cmd) : Bool :=
  c.status.isSome && !(s.ouvzu.cmds.any fun d => d.sameQueue c && d.handle < c.handle)

/-- Write the records that may be written, at most `n`. -/
def State.flushUpTo : Nat → State → State
  | 0, s => s
  | n + 1, s =>
    match s.ouvzu.cmds.find? s.recordable with
    | some c => State.flushUpTo n (s.writeRecord c)
    | none => s

/-- Every record that may be written is (R494). -/
def State.flush (s : State) : State := State.flushUpTo s.ouvzu.cmds.length s

/-! ### Commits and cancellation (R496, R497) -/

/-- A command commits, and with it the ABORT_CMDs that wait for it (R497): their own record says OK
when it was cancelled. -/
def State.setCommitted (s : State) (h status : Nat) (r0 r1 : Word) : State :=
  match s.cmd h with
  | none => s
  | some c =>
    if c.status.isSome then s
    else
      let g : BitVec 32 := s.gtc.count.setWidth 32
      let answer := if status = 0x22 then 0 else 0x21
      let mark (d : Cmd) : Cmd :=
        if d.handle = h then { d with stage := .committed status r0 r1 g }
        else if c.aborter.contains d.handle && d.status.isNone then { d with stage := .committed answer 0 0 g }
        else d
      let both := s.ouvzu.cmds.filter fun d =>
        d.sqid != 0xFFFD && (d.handle == h || (c.aborter.contains d.handle && d.status.isNone))
      let one (b : Bool) : Word := if b && c.sqid != 0xFFFD then 1 else 0
      { s with ouvzu := { s.ouvzu with
        cmds := s.ouvzu.cmds.map mark
        done := (both.map fun d => (d.sqid, d.cid, d.opc)) ++
          s.ouvzu.done.filter fun e => !both.any fun d => e.1 == d.sqid && e.2.1 == d.cid
        nCmds := s.ouvzu.nCmds + BitVec.ofNat 64 both.length
        nSuper := s.ouvzu.nSuper + one (status == 0x20)
        nCancel := s.ouvzu.nCancel + one (status == 0x22) } }

/-- A capture that has not observed its point is given up (R538). -/
def State.dropCapture (s : State) : State :=
  if s.ckpt.state.toNat < 2 then { s with ckpt := { s.ckpt with state := 0, armed := none } } else s

/-- Opcodes that an abort cancels at once although they have started (R497, R538). -/
def cancelsAtOnce (opc : Nat) : Bool := opc == 0x10 || opc == 0x14 || opc == 0x16 || opc == 0x1A

/-- What a command that has started leaves undone when it ends CANCELLED: a capture that has not
observed its point (R538), an admission before its step 7 (R470). -/
def State.undoStarted (s : State) (c : Cmd) : State :=
  if c.stage != .executing then s
  else if c.opc = 0x14 then s.dropCapture
  else if c.opc = 0x10 then { s with job := { s.job with admState := 0, admWait := none } }
  else s

/-- A command is to be cancelled (R497): at once when it has not started, or when its cancellation
point is at once; otherwise at its end, where it commits its own outcome. -/
def State.cancelCmd (s : State) (h : Nat) (aborter : List Nat) : State :=
  match s.cmd h with
  | none => s
  | some c =>
    let s := s.modCmd h fun c => { c with aborter := c.aborter ++ aborter }
    if c.waiting then s.setCommitted h 0x22 0 0
    else if c.stage == .executing && cancelsAtOnce c.opc then
      (s.undoStarted c).setCommitted h 0x22 0 0
    else if c.stage == .executing then s.modCmd h fun c => { c with cancel := true }
    else s

/-- Every command that `p` takes is to be cancelled. -/
def State.cancelAll (s : State) (p : Cmd → Bool) : State :=
  (s.ouvzu.cmds.filter p).foldl (fun s c => s.cancelCmd c.handle []) s

/-- Whether a command is an admission in progress. -/
def Cmd.admitting (c : Cmd) : Bool := c.opc == 0x10 && c.stage == .executing

/-- An abort or a quiesce reaches an admission in progress, which ends CANCELLED (R470). -/
def State.cancelAdmit (s : State) : State := (s.cancelAll Cmd.admitting).flush

/-! ### Deletion and disabling (R482, R499, R500) -/

/-- Whether the admitted image's moraine declarations name a port (R500). -/
def State.usesPort (s : State) (p : PciePort) : Bool :=
  match s.job.image with | some im => im.moraine.any fun d => d.port == p | none => false

/-- The number a port has (R490, R504). -/
def portNo (p : PciePort) : Nat := match p with | .a => 0 | .b => 1

/-- Whether a port is being disabled or its EN cleared: nothing is fetched from it. -/
def State.portStopped (s : State) (p : PciePort) : Bool := s.ouvzu.closing.any fun k => k.port == some p

/-- The CP stops fetching from a port and cancels its fetched commands (R500 steps 1 to 3). -/
def State.startClose (s : State) (p : PciePort) (h : Option Nat) (clear : Bool) : State :=
  let k : Closing := ⟨h, some p, 0, clear, 0⟩
  let s := { s with ouvzu := { s.ouvzu with closing := s.ouvzu.closing ++ [k] } }
  s.cancelAll fun c => c.port == some p && h != some c.handle &&
    !(s.ouvzu.closing.any fun k => k.handle == some c.handle)

/-- Create the admin pair from the registers when they are in range (R482). -/
def State.adminPair (s : State) (p : PciePort) : State :=
  let f := s.fn p
  let sq := bits f.aqsize 0 16
  let cq := bits f.aqsize 16 16
  if f.rdy || f.disabled || f.aqsq.toNat % 4096 != 0 || f.aqcq.toNat % 4096 != 0 ||
      sq == 0 || 4095 < sq || cq == 0 || 4095 < cq || s.portStopped p then s
  else
    let q : QPair := {
      id := portNo p, port := p, sqBase := f.aqsq.toNat, cqBase := f.aqcq.toNat, sqSize := sq + 1
      cqSize := cq + 1, cls := 0, ien := true, vector := 0, coalN := 1, coalT := 0, sqHead := 0
      sqTail := 0, cqHead := 0, cqTail := 0, phase := true, since := 0, hold := false }
    let s := s.modFn p fun f => { f with rdy := true }
    { s with ouvzu := { s.ouvzu with queues := s.ouvzu.queues.filter (fun x => x.id != q.id) ++ [q] } }

/-- The queue pairs of a port go, with any grant left (R500 steps 3 and 5). -/
def State.dropQueues (s : State) (p : PciePort) : State :=
  { s with ouvzu := { s.ouvzu with
    queues := s.ouvzu.queues.filter fun q => q.port != p
    grants := s.ouvzu.grants.filter fun g => g.port != p } }

/-- Every MSI-X vector of a function masked. -/
def PciFn.maskAll (f : PciFn) : PciFn := { f with msix := f.msix.map fun e => { e with ctrl := e.ctrl ||| 1 } }

/-- A port's closing is over: its own command commits, with the last record on the port, and the queue
pairs go; DISABLE_FN also masks the vectors and sets DISABLED (R482, R500). -/
def State.finishClose (s : State) (k : Closing) (p : PciePort) : State :=
  let s := { s with ouvzu := { s.ouvzu with
    closing := s.ouvzu.closing.filter fun j => !(j.port == some p && j.handle == k.handle) } }
  let s := match k.handle with
    | some h => (s.setCommitted h 0 (BitVec.ofNat 64 k.count) 0).flush
    | none => s
  let s := s.dropQueues p
  if k.clear then
    let s := s.modFn p fun f => { f with rdy := false }
    if (s.fn p).en then s.adminPair p else s
  else s.modFn p fun f => { f.maskAll with en := false, rdy := false, mbbusy := false, disabled := true }

/-- Whether a port's closing has nothing left to wait for but the job. -/
def State.closeQuiet (s : State) (p : PciePort) : Bool :=
  !(s.ouvzu.cmds.any fun c => c.port == some p &&
    !(s.ouvzu.closing.any fun k => k.port == some p && k.handle == some c.handle))

/-- Closings whose waits are over end, at most `n`; a job that uses the port is first ended with
HOST_LOST (R500 step 4). -/
def State.settleUpTo : Nat → State → State
  | 0, s => s
  | n + 1, s =>
    match s.ouvzu.closing.find? fun k => match k.port with
      | some p => s.closeQuiet p && !(s.usesPort p && s.job.pending.isSome)
      | none => false with
    | some k => match k.port with
      | some p =>
        if s.usesPort p then State.settleUpTo n (s.endJob 7 (BitVec.ofNat 64 (portNo p)))
        else State.settleUpTo n (s.finishClose k p)
      | none => s
    | none => s

/-- The grants made through a port that is being closed go once its commands have ended, before its job does (R500
step 3). -/
def State.revokeClosed (s : State) : State :=
  { s with ouvzu := { s.ouvzu with
    grants := s.ouvzu.grants.filter fun g => !(s.portStopped g.port && s.closeQuiet g.port) } }

/-- Everything that a commit lets go on. -/
def State.settle (s : State) : State := State.settleUpTo (2 * s.ouvzu.closing.length) s.revokeClosed

/-- A command commits, and its record and those behind it are written (R494, R496). -/
def State.commitCmd (s : State) (h status : Nat) (r0 r1 : Word) : State :=
  ((s.setCommitted h status r0 r1).flush).settle

/-! ### Starting a command (R494, R495) -/

/-- Whether an order acts at its sequencing point (R497, R499, R500). -/
def actsAtOnce (opc : Nat) : Bool := opc == 0x03 || opc == 0x08 || opc == 0x09

/-- Whether a deletion or disabling names the queue or port of a command. -/
def Cmd.endsQueueOf (d c : Cmd) : Bool :=
  (d.opc == 0x03 && d.arg 8 2 == c.sqid) ||
    (d.opc == 0x08 && (portArg (d.arg 8 1)).isSome && portArg (d.arg 8 1) == c.port)

/-- A sequenced command may start: those of its queue start in fetch order (R494), orders that name
its target and were sequenced before it have started (R495), no abort waits for its sequencing
point, and no deletion or disabling sequenced before it waits to end its queue. -/
def State.mayRun (s : State) (c : Cmd) : Bool :=
  let before := s.ouvzu.cmds.takeWhile fun d => d.handle != c.handle
  c.stage == .sequenced &&
    (actsAtOnce c.opc || !(s.ouvzu.cmds.any fun d => d.sameQueue c && d.handle < c.handle && d.waiting)) &&
    !(before.any fun d => d.stage == .sequenced && (d.contradicts c || d.endsQueueOf c)) &&
    (actsAtOnce c.opc || !(s.ouvzu.cmds.any fun d => d.stage == .sequenced && d.opc == 0x09))

/-- Run the command of a handle when it has the opcode and may start: ACCESS for an admin command from
another queue, INVALID_FIELD for a nonzero reserved byte or an argument that `ok` does not take, and
otherwise what `f` does. -/
def State.runCmd (s : State) (h opc : Nat) (ok : Cmd → Bool) (f : State → Cmd → State) : Res :=
  match s.cmd h with
  | none => .next s
  | some c =>
    if c.opc != opc || !s.mayRun c then .next s
    else if isAdmin opc && !c.admin then .next (s.commitCmd h 0x12 0 0)
    else if !c.reservedOk || !ok c then .next (s.commitCmd h 0x11 0 0)
    else .next (f s c)

/-- A command goes on executing. -/
def State.executing (s : State) (h : Nat) : State := s.modCmd h fun c => { c with stage := .executing }

/-! ### Doorbells (R485) -/

/-- Entries from `a` to `b` round a ring of `n`. -/
def ringDist (a b n : Nat) : Nat := (b + n - a % n) % n

/-- A doorbell write is ignored and counted (R485). -/
def State.doorbellError (s : State) : State :=
  { s with ouvzu := { s.ouvzu with nDberr := s.ouvzu.nDberr + 1 } }

/-- A doorbell write of port `p` for queue `q` (R485, R482, R500, R501): ignored while the function is
disabled or being disabled; otherwise applied, or ignored and counted. -/
def State.doorbell (s : State) (p : PciePort) (q : Nat) (f : QPair → Option QPair) : State :=
  let fn := s.fn p
  if fn.disabled || s.ouvzu.closing.any (fun k => k.port == some p && !k.clear) then s
  else if !fn.en then s.doorbellError
  else match s.queue q with
    | none => s.doorbellError
    | some x =>
      if x.port != p then s.doorbellError
      else match f x with
        | some y => s.modQueue q fun _ => y
        | none => s.doorbellError

/-- The SQ tail written (R485). -/
def QPair.setTail (q : QPair) (v : Nat) : Option QPair :=
  if v < q.sqSize ∧ ringDist q.sqHead q.sqTail q.sqSize ≤ ringDist q.sqHead v q.sqSize then
    some { q with sqTail := v } else none

/-- The CQ head written (R485). -/
def QPair.setHead (q : QPair) (v : Nat) : Option QPair :=
  if v < q.cqSize ∧ ringDist q.cqHead v q.cqSize ≤ ringDist q.cqHead q.cqTail q.cqSize then
    some { q with cqHead := v } else none

/-- SQ tail doorbell. -/
def execSqTailDoorbell (p : PciePort) (q : BitVec 14) (value : BitVec 32) (s : State) : Res :=
  .next (s.doorbell p q.toNat fun x => x.setTail value.toNat)

/-- CQ head doorbell. -/
def execCqHeadDoorbell (p : PciePort) (q : BitVec 14) (value : BitVec 32) (s : State) : Res :=
  .next (s.doorbell p q.toNat fun x => x.setHead value.toNat)

/-! ### EN and the mailbox (R482, R483) -/

/-- Setting EN. -/
def State.enSet (s : State) (p : PciePort) : State :=
  (s.modFn p fun f => { f with en := true }).adminPair p

/-- Setting EN creates the admin pair and sets RDY (R482). -/
def execOuvzuEnSet (p : PciePort) (s : State) : Res := .next (s.enSet p)

/-- Clearing EN: RDY is 0 at once, and the order enters the serialiser (R482, R495). -/
def State.enClear (s : State) (p : PciePort) : State :=
  if (s.fn p).en then
    let s := s.modFn p fun f => { f with en := false, rdy := false }
    s.fetchCmd 0xFFFD (some p) (0x08#8 :: List.replicate 7 0 ++ [BitVec.ofNat 8 (portNo p)] ++
      List.replicate 55 0) 0 none
  else s

/-- Clearing EN (R482). -/
def execOuvzuEnClear (p : PciePort) (s : State) : Res := .next (s.enClear p)

/-- Writing GO (R483, R501). -/
def State.mboxGo (s : State) (p : PciePort) : State :=
  let f := s.fn p
  if f.disabled || s.ouvzu.closing.any (fun k => k.port == some p && !k.clear) then s
  else if f.mbbusy then s.doorbellError
  else s.modFn p fun f => { f with mbbusy := true }

/-- Writing GO submits MBOX_CMD (R483). -/
def execMboxGo (p : PciePort) (s : State) : Res := .next (s.mboxGo p)

/-! ### The arbiter (R492, R493) -/

/-- Commands of a queue fetched and not yet recorded. -/
def State.outstanding (s : State) (q : Nat) : Nat := (s.ouvzu.cmds.filter fun c => c.sqid == q).length

/-- Commands fetched from queues and not yet recorded. -/
def State.outstandingAll (s : State) : Nat := (s.ouvzu.cmds.filter fun c => c.sqid < 16384).length

/-- A queue has an entry to fetch. -/
def State.nonEmpty (s : State) (q : QPair) : Bool := q.sqHead != q.sqTail && !q.hold && !s.portStopped q.port

/-- R493 allows a fetch. -/
def State.roomFor (s : State) (q : QPair) : Bool :=
  decide (s.outstanding q.id < q.cqSize - 1 - ringDist q.cqHead q.cqTail q.cqSize) &&
    decide (s.outstanding q.id < 256) && decide (s.outstandingAll < 4096)

/-- Fetch one command of a queue (R492). -/
def State.fetchFrom (s : State) (q : QPair) : State :=
  let head := (q.sqHead + 1) % q.sqSize
  let raw := s.hostRd q.port (q.sqBase + 64 * q.sqHead) 64
  (s.modQueue q.id fun q => { q with sqHead := head }).fetchCmd q.id (some q.port) raw head none

/-- Fetch a pending mailbox command (R483). -/
def State.fetchMbox (s : State) (p : PciePort) : State :=
  let f := s.fn p
  if f.mbbusy && !f.disabled && !s.portStopped p &&
      !(s.ouvzu.cmds.any fun c => c.sqid == 0xFFFE && c.port == some p) then
    s.fetchCmd 0xFFFE (some p) f.mboxCmd 0 none
  else s

/-- Fetch every pending entry of an admin queue, at most `n`. -/
def State.fetchAdmin (id : Nat) : Nat → State → State
  | 0, s => s
  | n + 1, s =>
    match s.queue id with
    | some q => if s.nonEmpty q && s.roomFor q then State.fetchAdmin id n (s.fetchFrom q) else s
    | none => s

/-- The queue of class `c` to serve next: ascending from the one after the last served. -/
def State.nextOf (s : State) (c : Fin 8) : Option QPair :=
  let l := s.ouvzu.queues.filter fun q => 2 ≤ q.id && q.cls == c.val && s.nonEmpty q && s.roomFor q
  let last := s.ouvzu.lastServed[c]
  let low (l : List QPair) : Option QPair :=
    l.foldl (fun b q => match b with | some x => if q.id < x.id then some q else b | none => some q) none
  match low (l.filter fun q => last < q.id) with
  | some q => some q
  | none => low l

/-- Serve a class, at most `n` fetches. -/
def State.serveClass (c : Fin 8) : Nat → State → State
  | 0, s => s
  | n + 1, s =>
    match s.nextOf c with
    | some q =>
      let s := s.fetchFrom q
      State.serveClass c n { s with ouvzu := { s.ouvzu with lastServed := s.ouvzu.lastServed.set c q.id } }
    | none => s

/-- One round of the arbiter (R492): mailboxes, admin queues, then the classes by their weights; a
round in which R493 held a non-empty queue back is counted. -/
def execArbiterRound (s : State) : Res :=
  let s := (s.fetchMbox .a).fetchMbox .b
  let s := State.fetchAdmin 1 4096 (State.fetchAdmin 0 4096 s)
  let s := [0, 1, 2, 3, 4, 5, 6, 7].foldl (fun (s : State) (c : Fin 8) =>
    State.serveClass c s.ouvzu.weights[c] s) s
  if s.ouvzu.queues.any fun q => s.nonEmpty q && !s.roomFor q then
    .next { s with ouvzu := { s.ouvzu with nCqhold := s.ouvzu.nCqhold + 1 } }
  else .next s

/-! ### The serialiser (R495) -/

/-- The place of a command in its window: SMC orders, Reduce orders, others; then fetch order, with the
window's parity deciding between the ports. -/
def Cmd.rank (c : Cmd) (odd : Bool) : Nat × Nat × Nat :=
  if c.sqid = 0xFFFF then (0, c.handle, 0)
  else (if isReduce c.opc then 1 else 2, c.cycle.toNat, if (c.port == some .b) != odd then 1 else 0)

/-- Whether rank `a` comes strictly before rank `b`. -/
def rankLt (a b : Nat × Nat × Nat) : Bool :=
  a.1 < b.1 || (a.1 == b.1 && (a.2.1 < b.2.1 || (a.2.1 == b.2.1 && a.2.2 < b.2.2)))

/-- Insert after every command that does not come later. -/
def insertCmd (odd : Bool) (c : Cmd) : List Cmd → List Cmd
  | [] => [c]
  | d :: l => if rankLt (c.rank odd) (d.rank odd) then c :: d :: l else d :: insertCmd odd c l

/-- A contradictory order has no effect (R495); a clearing of EN is undone. -/
def State.supersede (s : State) (c : Cmd) : State :=
  let s := match c.sqid == 0xFFFD, c.port with
    | true, some p => s.modFn p fun f => { f with en := true, rdy := (s.queue (portNo p)).isSome }
    | _, _ => s
  s.commitCmd c.handle 0x20 0 0

/-- The window closes: its commands join the order sequence, and of contradictory orders all but the
first complete SUPERSEDED (R495). -/
def execIngressWindowClose (s : State) : Res :=
  let new := s.ouvzu.cmds.filter fun c => c.stage == .fetched
  let old := s.ouvzu.cmds.filter fun c => c.stage != .fetched
  let order := new.foldl (fun l c => insertCmd (s.ouvzu.window.getLsbD 0) c l) []
  let s := { s with ouvzu := { s.ouvzu with
    cmds := old ++ order.map fun c => { c with stage := .sequenced }
    window := s.ouvzu.window + 1 } }
  let r := order.foldl (fun (r : State × List Cmd) c =>
    if r.2.any fun d => d.contradicts c then (r.1.supersede c, r.2)
    else if c.sqid = 0xFFFD then
      match c.port with
      | some p => (((r.1.executing c.handle).startClose p (some c.handle) true).flush.settle, c :: r.2)
      | none => (r.1, r.2)
    else (r.1, c :: r.2)) (s, [])
  .next r.1

/-- COAL_T µs after the first unsignalled record the interrupt is sent (R487). -/
def execCqCoalesceTimeout (q : BitVec 14) (s : State) : Res :=
  match s.queue q.toNat with
  | some x =>
    if x.ien && 0 < x.since && x.coalT != 0 then
      .next ((s.modQueue x.id fun x => { x with since := 0 }).modFn x.port fun f => f.raise x.vector)
    else .next s
  | none => .next s

/-! ### Function Level Reset and link-down (R502, R622) -/

/-- Every command of a port ends at once, its record written or only counted (R502). -/
def State.endCommands (s : State) (p : PciePort) (written : Bool) : State :=
  let mine := s.ouvzu.cmds.filter fun c => c.port == some p
  let s := mine.foldl (fun s c =>
    let s := s.undoStarted c
    let s := if c.opc = 0x12 && c.stage == .executing then { s with job := { s.job with quiesce := none } } else s
    s.setCommitted c.handle 0x22 0 0) s
  if written then s.flush
  else
    let n := (mine.filter fun c => c.sqid != 0xFFFD).length
    let s := { s with ouvzu := { s.ouvzu with
      cmds := s.ouvzu.cmds.filter fun c => c.port != some p
      nUndeliv := s.ouvzu.nUndeliv + BitVec.ofNat 64 n } }
    if 0 < n then
      (s.report Config.undelivEvent .chip 0 (BitVec.ofNat 64 (portNo p)) (BitVec.ofNat 64 n)).1
    else s

/-- The steps of DISABLE_FN, all at once (R502): commands, grants, the job, queue pairs. -/
def State.dropFn (s : State) (p : PciePort) (written : Bool) : State :=
  let s := s.endCommands p written
  let live (k : Closing) : Closing :=
    { k with handle := if k.handle.any (fun h => (s.cmd h).isSome) then k.handle else none }
  let others := s.ouvzu.closing.filter fun k => k.port != some p &&
    (k.port.isSome || (s.queue k.qid).any fun q => q.port != p)
  let s := { s with ouvzu := { s.ouvzu with closing := others.map live } }
  let s := if s.usesPort p then s.endJob 7 (BitVec.ofNat 64 (portNo p)) else s
  ((s.dropQueues p).modFn p fun f => { f.maskAll with
    en := false, rdy := false, mbbusy := false, disabled := true }).flush.settle

/-- A Function Level Reset (R502): afterwards every register of the function holds its reset value. -/
def execFunctionLevelReset (p : PciePort) (s : State) : Res :=
  .next ((s.dropFn p true).modFn p fun f => { PciFn.reset with
    linkUp := f.linkUp, perst := f.perst, irqs := f.irqs })

/-- The link goes down, or PERST asserts while the port is in use (R502, R622). -/
def execPcieLinkDown (p : PciePort) (perst : Bool) (s : State) : Res :=
  let s := if perst then s.modFn p fun f => { f with perst := false } else s
  if (s.fn p).linkUp then .next ((s.dropFn p false).modFn p fun f => { f with linkUp := false })
  else .next s

end Sys2Proof.Machine
end

