-- ==== Sys2Proof/Machine/VecExec.lean ====
section
/-!
DEFINITION. What one vector instruction does to the vector registers, the masks and the tile store
(R200 to R223, R627 to R629), without when it does it.
-/
namespace Sys2Proof.Machine

/-! ### Element types (R201) -/

/-- The format code (R40) of a floating TYPE. -/
def tyFmt (ty : Nat) : FFmt :=
  match ty with
  | 0 => fFP64
  | 1 => fFP32
  | 2 => fBF16
  | _ => fFP16

/-- Elements per register. -/
def tyCount (ty : Nat) : Nat :=
  match ty with
  | 0 => 128
  | 1 | 4 => 256
  | _ => 512

/-- The lane that holds an element's low-order bits. -/
def tyLane (ty e : Nat) : Nat :=
  match ty with
  | 0 => 2 * e
  | 1 | 4 => e
  | _ => e / 2

/-- Pairs of lanes joined, low lane first. -/
def joinLanes : List Nat → List Nat
  | a :: b :: l => (a + b * 2 ^ 32) :: joinLanes l
  | _ => []

/-- Lanes split into halves, low half first. -/
def splitLanes : List Nat → List Nat
  | [] => []
  | a :: l => (a % 2 ^ 16) :: (a / 2 ^ 16) :: splitLanes l

/-- The element codes of a register under a TYPE. -/
def VReg.elems (v : VReg) (ty : Nat) : List Nat :=
  let l := v.toList.map (·.toNat)
  match ty with
  | 0 => joinLanes l
  | 1 | 4 => l
  | _ => splitLanes l

/-- Halves joined into lanes. -/
def joinHalves : List Nat → List Nat
  | a :: b :: l => (a % 2 ^ 16 + b % 2 ^ 16 * 2 ^ 16) :: joinHalves l
  | _ => []

/-- Doubles split into lanes. -/
def splitDoubles : List Nat → List Nat
  | [] => []
  | a :: l => (a % 2 ^ 32) :: (a / 2 ^ 32) :: splitDoubles l

/-- The register that holds the given element codes under a TYPE. -/
def VReg.ofElems (ty : Nat) (l : List Nat) : VReg :=
  let lanes := match ty with
    | 0 => splitDoubles l
    | 1 | 4 => l
    | _ => joinHalves l
  vtab 256 fun i => BitVec.ofNat 32 (lanes.getD i 0)

/-! ### Conversions between codes -/

/-- A memory or register format: a code of R40, or 0x10 for I32 (R628). -/
def i32Code : Nat := 0x10

/-- The code of a TYPE as a format. -/
def tyCode (ty : Nat) : Nat := if ty == 4 then i32Code else ty

/-- The value a code stands for, with a block scale where the format has one. -/
def codeVal (c code scale : Nat) : FV :=
  if c == i32Code then FV.ofInt (sext 32 code) else decodeScaled c code scale

/-- Into I32 (R628): rounded to an integer and clamped. -/
def toI32 (r : Rnd) (v : FV) : Nat × Flags :=
  match v with
  | .nan => (0, fIntNan ||| fNanIn)
  | .inf n => (if n then 0x80000000 else 0x7FFFFFFF, fSat)
  | v =>
    let i := (v.toInt r).getD 0
    if i > 0x7FFFFFFF then (0x7FFFFFFF, fSat)
    else if i < -0x80000000 then (0x80000000, fSat)
    else (lowBits 32 i, 0)

/-- One element converted between formats without blocks on the destination side (R64 to R66, R628):
between a format and itself the bits move unchanged, a NaN's included, which DEDUCED from R64's `identity` stands
before R43's canonical NaN (log 140). -/
def convertCode (src dst : Nat) (r : Rnd) (sat : Bool) (code scale : Nat) : Nat × Flags :=
  let v := codeVal src code scale
  if src == dst && !isBlockFmt src then (code, flagIf v.isNan fNanIn)
  else if dst == i32Code then toI32 r v
  else convert dst r sat v

/-! ### One instruction -/

/-- What an instruction works on: the registers and masks before it, the scalar values it took at
issue, the head chained row where it may read one, and the byte advance of its address (R227). -/
structure VecIn where
  v     : VInstr
  sregs : Vector Word 32
  regs  : Vector VReg 32
  masks : Vector VMask 8
  ch    : Option VReg
  adv   : Nat
  free  : Nat

/-- What an instruction leaves: registers, masks, the flags it raises, what it wrote to registers and
masks as digest bytes, and its tile-store writes. -/
structure VecOut where
  regs   : Vector VReg 32
  masks  : Vector VMask 8
  flags  : Flags
  bytes  : List Byte
  writes : List (Nat × List Byte)

/-- A scalar operand. -/
def VecIn.sreg (x : VecIn) (r : BitVec 5) : Nat := if r = 0 then 0 else (x.sregs[r.toFin]).toNat

/-- The register named by va: the head chained row with CH set (R227). CH outside a chain program reads
a row that the manual does not name: a free value. -/
def VecIn.regA (x : VecIn) : VReg :=
  let hasCh := match x.v.op with
    | .mand | .mor | .mxor | .mnot | .trans | .bcr | .bcc | .perm | .cvt | .rsum | .rssq | .topk
    | .ld | .st | .xcvt | .chain => false
    | _ => x.v.ch
  if hasCh then (match x.ch with
    | some r => r
    | none => vtab 256 fun i => Config.freeLane (256 * x.free + i))
  else x.regs[x.v.va.toFin]

/-- The register named by vb. -/
def VecIn.regB (x : VecIn) : VReg := x.regs[x.v.vb.toFin]
/-- The register named by vc. -/
def VecIn.regC (x : VecIn) : VReg := x.regs[x.v.vc.toFin]
/-- The destination register's value before the instruction. -/
def VecIn.regD (x : VecIn) : VReg := x.regs[x.v.vd.toFin]

/-- Whether lane `i` is active (R202). -/
def VecIn.lane (x : VecIn) (i : Nat) : Bool := !x.v.men || (x.masks[x.v.msel.toFin]).getLsbD i

/-- Which elements are active under a TYPE (R202). -/
def VecIn.active (x : VecIn) (ty : Nat) : List Bool := tab (tyCount ty) fun e => x.lane (tyLane ty e)

/-- The rounding mode. -/
def VecIn.rnd (x : VecIn) : Rnd := Rnd.ofField x.v.rm.toNat

/-- The lanes of a register as bytes. -/
def VReg.bytes (v : VReg) : List Byte := v.toList.flatMap fun l => leBytes 4 l.toNat

/-- A result that writes registers. -/
def VecIn.outRegs (x : VecIn) (l : List (Fin 32 × VReg)) (fl : Flags) : VecOut :=
  ⟨l.foldl (fun r p => r.set p.1 p.2) x.regs, x.masks, fl, l.flatMap fun p => p.2.bytes, []⟩

/-- A result that writes the destination register's active elements: each new code with its flags;
inactive elements keep their bits or become zero (R202, R203). -/
def VecIn.outElems (x : VecIn) (ty : Nat) (new : List (Nat × Flags)) : VecOut :=
  let act := x.active ty
  let old := x.regD.elems ty
  let es := (act.zip (old.zip new)).map fun p =>
    if p.1 then p.2.2.1 else if x.v.zm then 0 else p.2.1
  let fl := (act.zip new).foldl (fun f p => if p.1 then f ||| p.2.2 else f) 0
  x.outRegs [(x.v.vd.toFin, VReg.ofElems ty es)] fl

/-- A result that writes a mask register: `bit` for active lanes (R202, R209). -/
def VecIn.outMask (x : VecIn) (act : Nat → Bool) (bit : Nat → Bool) : VecOut :=
  let k : Fin 8 := (BitVec.ofNat 3 x.v.vd.toNat).toFin
  let old := x.masks[k]
  let m := ofOnes 256 ((List.range 256).filter fun i =>
    if act i then bit i else !x.v.zm && old.getLsbD i)
  ⟨x.regs, x.masks.set k m, 0, leBytes 32 m.toNat, []⟩

/-- The element types an instruction accepts (R627). -/
def VOp.tyOk (op : VOp) (ty : Nat) : Bool :=
  match op with
  | .add | .sub | .mul | .fma | .max | .min | .abs | .neg | .rsum | .rssq | .topk => ty < 4
  | .iadd | .isub | .iand | .ior | .ixor | .ishl | .ishr | .isra => ty == 4
  | .div | .sqrt => ty < 2
  | .rcp | .rsqrt | .exp | .exp2 | .log | .log2 | .sin | .cos | .tanh | .lgst | .erf => ty == 1
  | .mand | .mor | .mxor | .mnot | .xcvt | .chain => true
  | .cmp | .trans | .bcr | .bcc | .perm | .cvt | .ld | .st => ty < 5

/-! #### Element-wise operations -/

/-- I32 arithmetic (R210). -/
def intOp (op : VOp) (a b : BitVec 32) : BitVec 32 :=
  match op with
  | .iadd => a + b
  | .isub => a - b
  | .iand => a &&& b
  | .ior => a ||| b
  | .ixor => a ^^^ b
  | .ishl => a <<< (b.toNat % 32)
  | .ishr => a >>> (b.toNat % 32)
  | .isra => a.sshiftRight (b.toNat % 32)
  | _ => a

/-- The transcendental function of an operation. -/
def VOp.tru : VOp → Option TruFn
  | .exp => some .exp
  | .exp2 => some .exp2
  | .log => some .log
  | .log2 => some .log2
  | .sin => some .sin
  | .cos => some .cos
  | .tanh => some .tanh
  | .lgst => some .lgst
  | .erf => some .erf
  | _ => none

/-- An element-wise operation on codes (R207 to R213). -/
def elemOp (op : VOp) (ty : Nat) (r : Rnd) (sat : Bool) (a b c : Nat) : Nat × Flags :=
  let f := tyFmt ty
  let x := f.decode a
  let y := f.decode b
  match op with
  | .add => roundOp f r sat [x, y] (FV.add r x y)
  | .sub => roundOp f r sat [x, y] (FV.add r x y.negate)
  | .mul => roundOp f r sat [x, y] (FV.mul x y)
  | .fma => let z := f.decode c; roundOp f r sat [x, y, z] (FV.add r (FV.mul x y) z)
  | .max => laneMax f true a b
  | .min => laneMax f false a b
  | .abs => signOp f (fun _ => false) a
  | .neg => signOp f (!·) a
  | .rcp => roundOp f r sat [x] (FV.quo .one x)
  | .div => roundOp f r sat [x, y] (FV.quo x y)
  | .sqrt => roundOp f r sat [x] (opSqrt x)
  | .rsqrt => roundOp f r sat [x] (opRsqrt x)
  | op =>
    match op.tru with
    | some fn => fn.eval r sat a
    | none => ((intOp op (BitVec.ofNat 32 a) (BitVec.ofNat 32 b)).toNat, 0)

/-- An element-wise instruction. -/
def VecIn.elemwise (x : VecIn) : VecOut :=
  let ty := x.v.ty.toNat
  let act := x.active ty
  let a := x.regA.elems ty
  let b := x.regB.elems ty
  let c := x.regC.elems ty
  x.outElems ty (((act.zip a).zip (b.zip c)).map fun p =>
    if p.1.1 then elemOp x.v.op ty x.rnd x.v.sat p.1.2 p.2.1 p.2.2 else (0, 0))

/-! #### Compares and masks -/

/-- A predicate of R209 on an order; none is unordered. -/
def cmpHolds (p : Nat) (o : Option Ordering) : Bool :=
  match p, o with
  | 0, o => o == some .eq
  | 1, o => o != some .eq
  | 2, o => o == some .lt
  | 3, o => o == some .lt || o == some .eq
  | 4, o => o == some .gt
  | 5, o => o == some .gt || o == some .eq
  | _, o => o.isNone

/-- VCMP (R209). -/
def VecIn.compare (x : VecIn) : VecOut :=
  let ty := x.v.ty.toNat
  let p := x.v.xf.toNat % 8
  let ord (a b : Nat) : Option Ordering :=
    if ty == 4 then some (Ord.compare (sext 32 a) (sext 32 b))
    else FV.cmp ((tyFmt ty).decode a) ((tyFmt ty).decode b)
  let res := ((x.regA.elems ty).zip (x.regB.elems ty)).map fun q => cmpHolds p (ord q.1 q.2)
  let at_ (e : Nat) : Bool := res.getD e false
  match ty with
  | 0 => x.outMask (fun i => x.lane (i - i % 2)) fun i => at_ (i / 2)
  | 1 | 4 => x.outMask x.lane at_
  | _ => x.outMask x.lane fun i => at_ (2 * i) && at_ (2 * i + 1)

/-- MAND, MOR, MXOR and MNOT (R239, R241). -/
def VecIn.maskLogic (x : VecIn) : VecOut :=
  let a := x.masks[(BitVec.ofNat 3 x.v.va.toNat).toFin]
  let b := x.masks[(BitVec.ofNat 3 x.v.vb.toNat).toFin]
  let m := match x.v.op with
    | .mand => a &&& b
    | .mor => a ||| b
    | .mxor => a ^^^ b
    | _ => ~~~ a
  x.outMask x.lane m.getLsbD

/-! #### Permutations (R627: the bits move unchanged) -/

/-- VTRANS, VBCR, VBCC and VPERM: the bits move unchanged (R627), and a NaN among the active elements moved sets
NAN_IN (R626). -/
def VecIn.permute (x : VecIn) : VecOut :=
  let a := x.regA.toList
  let b := x.regB.toList
  let src (i : Nat) : BitVec 32 :=
    match x.v.op with
    | .trans => a.getD (i % 16 * 16 + i / 16) 0
    | .bcr => a.getD (Config.bcastLine.val * 16 + i % 16) 0
    | .bcc => a.getD (i / 16 * 16 + Config.bcastLine.val) 0
    | _ =>
      let k := (b.getD i 0).toNat
      if k < 256 then a.getD k 0 else Config.freeLane (256 * x.free + i)
  let ty := x.v.ty.toNat
  x.outElems ty ((VReg.elems (vtab 256 src) ty).map fun e => (e, flagIf (codeVal (tyCode ty) e 0).isNan fNanIn))

/-! #### Register-type conversion (R629) -/

/-- The source element paired with a destination element, if any. -/
def cvtPair (ns nd half d : Nat) : Option Nat :=
  if ns ≤ nd then
    let k := nd / ns
    if d % k == half * (k / 2) then some (d / k) else none
  else
    let k := ns / nd
    some (d * k + half * (k / 2))

/-- VCVT. -/
def VecIn.vcvt (x : VecIn) : VecOut :=
  let ty := x.v.ty.toNat
  let st := x.v.xf.toNat / 2 % 8
  let half := x.v.xf.toNat % 2
  let src := x.regA.elems st
  let old := x.regD.elems ty
  let act := x.active ty
  let new := tab (tyCount ty) fun d =>
    match cvtPair (tyCount st) (tyCount ty) half d with
    | none => (old.getD d 0, (0 : Flags))
    | some e =>
      if act.getD d false then
        convertCode (tyCode st) (tyCode ty) x.rnd x.v.sat (src.getD e 0) 0
      else (if x.v.zm then 0 else old.getD d 0, 0)
  x.outRegs [(x.v.vd.toFin, VReg.ofElems ty (new.map Prod.fst))] (new.foldl (fun f p => f ||| p.2) 0)

/-! #### Reductions (R214, R215) -/

/-- One exact sum rounded once, with the flags of R70. -/
def sumRound (f : FFmt) (r : Rnd) (sat : Bool) (terms : List FV) : Nat × Flags :=
  let fl := flagIf (terms.any FV.isNan) fNanIn |||
    flagIf (terms.any (· == .inf true) && terms.any (· == .inf false)) fNanGen
  let v := FV.sum r terms
  if v.isNan then (f.nanCode, fl) else
    let c := f.encode r sat v
    (c.1, fl ||| c.2)

/-- VRSUM and VRSSQ. -/
def VecIn.reduce (x : VecIn) : VecOut :=
  let ty := x.v.ty.toNat
  let xf := x.v.xf.toNat
  let shape := xf % 4
  let acc := xf.testBit 2
  let rty := if xf.testBit 3 then 0 else 1
  let f := tyFmt ty
  let group (e : Nat) : Nat :=
    let l := tyLane ty e
    match shape with
    | 0 => 0
    | 1 => l / 16
    | _ => l % 16
  let elems := ((x.active ty).zip ((x.regA.elems ty).zip (List.range (tyCount ty)))).filterMap fun p =>
    if p.1 then
      let v := f.decode p.2.1
      some (group p.2.2, if x.v.op = .rssq then FV.mul v v else v)
    else none
  let old := x.regD.elems rty
  let outs := tab (if shape == 0 then 1 else 16) fun g =>
    let terms := (elems.filter fun p => p.1 == g).map Prod.snd
    let terms := if acc then (tyFmt rty).decode (old.getD g 0) :: terms else terms
    sumRound (tyFmt rty) x.rnd x.v.sat terms
  x.outRegs [(x.v.vd.toFin, VReg.ofElems rty (tab (tyCount rty) fun e => (outs.getD e (0, 0)).1))]
    (outs.foldl (fun fl p => fl ||| p.2) 0)

/-! #### Top-k (R126 to R128, R216, R217) -/

/-- A ranked candidate: its value, its own bits and its position. -/
structure Cand where
  v    : FV
  code : Nat
  pos  : Nat

/-- Whether `a` ranks before `b` (R126). -/
def ranksBefore (minSel abs : Bool) (a b : Cand) : Bool :=
  if a.v.isNan && !b.v.isNan then true
  else if b.v.isNan && !a.v.isNan then false
  else
    let x := if abs then a.v.abs else a.v
    let y := if abs then b.v.abs else b.v
    match FV.cmp x y with
    | some .gt => !minSel
    | some .lt => minSel
    | _ => a.pos < b.pos

/-- Insert into a ranked list. -/
def rankInsert (minSel abs : Bool) (c : Cand) : List Cand → List Cand
  | [] => [c]
  | d :: l => if ranksBefore minSel abs c d then c :: d :: l else d :: rankInsert minSel abs c l

/-- The first `k` ranked candidates in rank order (R126, R127). -/
def topRanked (minSel abs nanmode : Bool) (k : Nat) (l : List Cand) : List Cand :=
  (l.filter fun c => !(nanmode && c.v.isNan)).foldl
    (fun best c => (rankInsert minSel abs c best).take k) []

/-- The position that marks an empty result slot (R127, R217). -/
def emptyPos : Nat := 0xFFFFFFFF

/-- VTOPK. -/
def VecIn.topk (x : VecIn) : VecOut :=
  let ty := x.v.ty.toNat
  let xf := x.v.xf.toNat
  let k := xf % 16 + 1
  let f := tyFmt ty
  let base := x.sreg x.v.vb % 2 ^ 32
  let new := ((x.active ty).zip ((x.regA.elems ty).zip (List.range (tyCount ty)))).filterMap fun p =>
    if p.1 then some (⟨f.decode p.2.1, p.2.1, base + p.2.2⟩ : Cand) else none
  let d2 : Fin 32 := (x.v.vd + 1).toFin
  let oldPos := (x.regs[d2]).elems 4
  let old := if xf.testBit 7 then
      (((x.regD.elems ty).zip oldPos).take k).filterMap fun p =>
        if p.2 == emptyPos then none else some (⟨f.decode p.1, p.1, p.2⟩ : Cand)
    else []
  let best := topRanked (xf.testBit 4) (xf.testBit 5) (xf.testBit 6) k (old ++ new)
  let vals := tab (tyCount ty) fun e =>
    if e < k then (match best[e]? with | some c => c.code | none => f.nanCode) else 0
  let pos := tab 256 fun e =>
    if e < k then (match best[e]? with | some c => c.pos | none => emptyPos) else 0
  x.outRegs [(x.v.vd.toFin, VReg.ofElems ty vals), (d2, VReg.ofElems 4 pos)]
    (flagIf ((old ++ new).any fun c => c.v.isNan) fNanIn)

/-! #### Loads and stores (R218 to R220, R223) -/

/-- Bytes of a block's element data: 32 elements. -/
def blockBytes (c : Nat) : Nat := elemBytes c 32

/-- Whether some byte of `[a, a + n)` lies in the tile's stream region. -/
def hitsStream (lo len a n : Nat) : Bool := decide (a < lo + len ∧ lo < a + n)

/-- Row width of the TILE layout (R219). -/
def tileRowWidth (ty : Nat) : Nat := if ty == 0 then 8 else if ty == 2 || ty == 3 then 32 else 16

/-- The memory format of a VLD or VST. -/
def VecIn.memFmt (x : VecIn) : Nat := x.v.xf.toNat % 16

/-- Whether the layout is TILE. -/
def VecIn.tiled (x : VecIn) : Bool := x.v.xf.toNat.testBit 4

/-- The base address, advanced in a chain program (R227). -/
def VecIn.base (x : VecIn) : Nat := (x.sreg x.v.va + x.adv) % 2 ^ 64

/-- Where element `e` lies: the address and length of its bytes, or of its whole block. -/
def VecIn.elemAt (x : VecIn) (e : Nat) : Nat × Nat :=
  let c := x.memFmt
  if isBlockFmt c then (x.base + e / 32 * blockBytes c, blockBytes c)
  else
    let b := elemBits c / 8
    let w := tileRowWidth x.v.ty.toNat
    if x.tiled then (x.base + e / w * x.sreg x.v.vb + e % w * b, b) else (x.base + e * b, b)

/-- The address faults of a VLD or VST (R219, R220, R223); an inactive element causes none (R203). -/
def VecIn.lsFault (x : VecIn) (lo len : Nat) (store : Bool) : Option Nat :=
  let c := x.memFmt
  let ty := x.v.ty.toNat
  let al := if isBlockFmt c then blockBytes c else elemBits c / 8
  let badBase := x.base % al != 0 || (isBlockFmt c && x.tiled) ||
    (x.tiled && x.sreg x.v.vb % al != 0)
  let es := ((x.active ty).zip (List.range (tyCount ty))).filterMap fun p => if p.1 then some p.2 else none
  let bad (a n : Nat) : Bool := !inStore a n || (store && hitsStream lo len a n)
  let badElem := es.any fun e =>
    bad (x.elemAt e).1 (x.elemAt e).2 || (isBlockFmt c && bad (x.sreg x.v.vc + e / 32) 1)
  let mixed := store && isBlockFmt c && (List.range (tyCount ty / 32)).any fun k =>
    let a := (es.filter fun e => e / 32 == k).length
    a != 0 && a != 32
  if badBase || badElem then some 2 else if mixed then some 3 else none

/-- VLD. -/
def VecIn.load (x : VecIn) (rd : Nat → Nat → List Byte) : VecOut :=
  let c := x.memFmt
  let ty := x.v.ty.toNat
  x.outElems ty (((x.active ty).zip (List.range (tyCount ty))).map fun p =>
    if p.1 then
      let a := x.elemAt p.2
      let bytes := rd a.1 a.2
      if isBlockFmt c then
        let sc := leNat (rd (x.sreg x.v.vc + p.2 / 32) 1)
        convertCode c (tyCode ty) x.rnd x.v.sat (unpackElem c bytes (p.2 % 32)) sc
      else convertCode c (tyCode ty) x.rnd x.v.sat (leNat bytes) 0
    else (0, 0))

/-- VST. -/
def VecIn.store (x : VecIn) : VecOut :=
  let c := x.memFmt
  let ty := x.v.ty.toNat
  let es := (x.active ty).zip ((x.regD.elems ty).zip (List.range (tyCount ty)))
  if isBlockFmt c then
    let blocks := (chunks (tyCount ty / 32) 32 es).zip (List.range (tyCount ty / 32))
    let outs := blocks.filterMap fun b =>
      if b.1.all (·.1) then
        let r := encodeBlock c x.rnd x.v.sat (b.1.map fun p => codeVal (tyCode ty) p.2.1 0)
        some ([(x.base + b.2 * blockBytes c, packElems c r.2.1),
          (x.sreg x.v.vc + b.2, leBytes 1 r.1)], r.2.2)
      else none
    ⟨x.regs, x.masks, outs.foldl (fun f o => f ||| o.2) 0, [], outs.flatMap Prod.fst⟩
  else
    let outs := es.filterMap fun p =>
      if p.1 then
        let r := convertCode (tyCode ty) c x.rnd x.v.sat p.2.1 0
        some ((x.elemAt p.2.2).1, leBytes (elemBits c / 8) r.1, r.2)
      else none
    ⟨x.regs, x.masks, outs.foldl (fun f o => f ||| o.2.2) 0, [], outs.map fun o => (o.1, o.2.1)⟩

/-! #### VXCVT (R221, R223) -/

/-- The operands of VXCVT. -/
structure Xcvt where
  sf  : Nat
  df  : Nat
  n   : Nat
  src : Nat
  ssc : Nat
  dst : Nat
  dsc : Nat

/-- Decode VXCVT's scalars. -/
def VecIn.xcvtArgs (x : VecIn) : Xcvt :=
  ⟨x.v.xf.toNat % 16, x.v.xf.toNat / 16 % 16, x.sreg x.v.vc, x.sreg x.v.va, x.sreg (x.v.va + 1),
    x.sreg x.v.vb, x.sreg (x.v.vb + 1)⟩

/-- Byte ranges of a linear array of `n` elements with its scales. -/
def linearRanges (c a sc n : Nat) : List (Nat × Nat) :=
  (a, elemBytes c n) :: (if isBlockFmt c then [(sc, n / 32)] else [])

/-- Whether two lists of byte ranges share a byte. -/
def rangesMeet (l m : List (Nat × Nat)) : Bool :=
  l.any fun p => m.any fun q => decide (p.1 < q.1 + q.2 ∧ q.1 < p.1 + p.2 ∧ 0 < p.2 ∧ 0 < q.2)

/-- The faults of VXCVT, lowest bit first (R221, R223, R230). -/
def Xcvt.fault (a : Xcvt) (lo len : Nat) : Option Nat :=
  let al (c : Nat) : Nat := if isBlockFmt c then blockBytes c else elemBits c / 8
  let rs := linearRanges a.sf a.src a.ssc a.n
  let rd := linearRanges a.df a.dst a.dsc a.n
  if a.n == 0 || 2 ^ 20 < a.n || ((isBlockFmt a.sf || isBlockFmt a.df) && a.n % 32 != 0) then some 0
  else if a.sf == 0xF || a.df == 0xF || !convertible a.sf a.df then some 1
  else if a.src % al a.sf != 0 || a.dst % al a.df != 0 || (rs ++ rd).any (fun p => !inStore p.1 p.2) ||
      rangesMeet rs rd || rd.any (fun p => hitsStream lo len p.1 p.2) then some 2
  else none

/-- VXCVT's effect. -/
def VecIn.xcvt (x : VecIn) (rd : Nat → Nat → List Byte) : VecOut :=
  let a := x.xcvtArgs
  let data := rd a.src (elemBytes a.sf a.n)
  let codes := unpackElems a.sf a.n data
  let scales := if isBlockFmt a.sf then (rd a.ssc (a.n / 32)).map (·.toNat) else []
  let vals := (codes.zip (List.range a.n)).map fun p => codeVal a.sf p.1 (scales.getD (p.2 / 32) 0)
  if a.sf == a.df && !isMxFmt a.sf then
    ⟨x.regs, x.masks, flagIf (vals.any FV.isNan) fNanIn, [],
      (a.dst, data) :: (if isBlockFmt a.sf then [(a.dsc, scales.map fun v => BitVec.ofNat 8 v)] else [])⟩
  else if isBlockFmt a.df then
    let bs := (chunks (a.n / 32) 32 vals).map (encodeBlock a.df x.rnd x.v.sat)
    ⟨x.regs, x.masks, bs.foldl (fun f b => f ||| b.2.2) 0, [],
      [(a.dst, packElems a.df (bs.flatMap (·.2.1))), (a.dsc, bs.map fun b => BitVec.ofNat 8 b.1)]⟩
  else
    let outs := vals.map (convert a.df x.rnd x.v.sat)
    ⟨x.regs, x.masks, outs.foldl (fun f o => f ||| o.2) 0, [],
      [(a.dst, packElems a.df (outs.map Prod.fst))]⟩

/-! ### Faults and dispatch -/

/-- The flag a vector instruction is refused with, lowest TILE_VSTAT bit first (R230, R231); `lo` and
`len` give the tile's stream region. -/
def VecIn.fault (x : VecIn) (lo len : Nat) : Option Nat :=
  let ty := x.v.ty.toNat
  let xf := x.v.xf.toNat
  let desc := match x.v.op with
    | .cmp => xf % 8 == 7
    | .rsum | .rssq => xf % 4 == 3
    | .topk => x.v.vd.toNat % 2 == 1 || (ty < 4 && emptyPos - 1 < x.sreg x.v.vb % 2 ^ 32 + (tyCount ty - 1))
    | _ => false
  if desc then some 0
  else if !x.v.op.tyOk ty || (x.v.op = .cvt && 4 < xf / 2 % 8) then some 1
  else match x.v.op with
    | .ld => if x.memFmt == 0xF then some 1 else x.lsFault lo len false
    | .st => if x.memFmt == 0xF then some 1 else x.lsFault lo len true
    | .xcvt => x.xcvtArgs.fault lo len
    | _ => none

/-- What an instruction that is not refused does; `rd` reads the tile store. -/
def VecIn.run (x : VecIn) (rd : Nat → Nat → List Byte) : VecOut :=
  match x.v.op with
  | .cmp => x.compare
  | .mand | .mor | .mxor | .mnot => x.maskLogic
  | .trans | .bcr | .bcc | .perm => x.permute
  | .cvt => x.vcvt
  | .rsum | .rssq => x.reduce
  | .topk => x.topk
  | .ld => x.load rd
  | .st => x.store
  | .xcvt => x.xcvt rd
  | .chain => ⟨x.regs, x.masks, 0, [], []⟩
  | _ => x.elemwise

end Sys2Proof.Machine
end

