-- ==== Sys2Proof/Machine/Commands.lean ====
section
/-!
DEFINITION. The Ouvzu commands that no job is needed for (R484 to R510): identity, queue pairs,
arbitration, grants, functions, aborts, register reads, pivot search, messages; and BAR2.
-/
namespace Sys2Proof.Machine

/-- A field within bounds. -/
def within (lo hi v : Nat) : Bool := decide (lo ≤ v ∧ v ≤ hi)

/-- A command that needs its issuing port: an SMC order has none and completes HOST_ERR. -/
def State.onPort (s : State) (c : Cmd) (f : PciePort → State) : State :=
  match c.port with
  | some p => f p
  | none => s.commitCmd c.handle 0x17 0 0

/-! ### Identity and queue pairs -/

/-- The identify block (R490). -/
def State.identifyBlock (s : State) (p : PciePort) : List Byte :=
  let cap := ((s.hbm.toList.map Stack.capacity)).sum
  leBytes 2 contractLevel ++ leBytes 1 stepping ++ leBytes 1 (portNo p) ++ leBytes 4 s.routers[0].self.toNat ++
    leBytes 2 16384 ++ leBytes 4 65536 ++ leBytes 2 msixVectors ++ leBytes 8 cap ++ List.replicate 4072 0

/-- IDENTIFY (R490). -/
def execIdentify (h : Nat) (hostOk : Bool) (s : State) : Res :=
  s.runCmd h 0x01 (fun _ => true) fun s c => s.onPort c fun p =>
    if hostOk then (s.hostWr p (c.arg 8 8) (s.identifyBlock p)).commitCmd h 0 0 0
    else s.commitCmd h 0x17 0 0

/-- The argument ranges of CREATE_QP (R484, R490). -/
def createOk (c : Cmd) : Bool :=
  c.arg 8 8 % 4096 == 0 && c.arg 16 8 % 4096 == 0 && within 2 16383 (c.arg 24 2) &&
    within 1 65535 (c.arg 26 2) && within 1 65535 (c.arg 28 2) && within 0 7 (c.arg 30 1) &&
    within 0 1 (c.arg 31 1) && within 1 2047 (c.arg 32 2)

/-- The pair that a CREATE_QP describes. -/
def newPair (c : Cmd) (p : PciePort) : QPair where
  id := c.arg 24 2
  port := p
  sqBase := c.arg 8 8
  cqBase := c.arg 16 8
  sqSize := c.arg 26 2 + 1
  cqSize := c.arg 28 2 + 1
  cls := c.arg 30 1
  ien := c.arg 31 1 == 1
  vector := c.arg 32 2
  coalN := c.arg 34 1
  coalT := c.arg 35 1
  sqHead := 0
  sqTail := 0
  cqHead := 0
  cqTail := 0
  phase := true
  since := 0
  hold := false

/-- CREATE_QP (R484, R486). -/
def execCreateQp (h : Nat) (s : State) : Res :=
  s.runCmd h 0x02 createOk fun s c => s.onPort c fun p =>
    if (s.queue (c.arg 24 2)).isSome then s.commitCmd h 0x14 0 0
    else
      { s with ouvzu := { s.ouvzu with
        queues := s.ouvzu.queues ++ [newPair c p]
        done := s.ouvzu.done.filter fun e => e.1 != c.arg 24 2 } }.commitCmd h 0 0 0

/-- DELETE_QP at its sequencing point (R499). -/
def execDeleteQp (h : Nat) (s : State) : Res :=
  s.runCmd h 0x03 (fun _ => true) fun s c =>
    let q := c.arg 8 2
    match s.queue q with
    | none => s.commitCmd h 0x13 0 0
    | some x =>
      if (c.port.isSome && c.port != some x.port) || q == c.sqid || q < 2 then s.commitCmd h 0x13 0 0
      else
        let s := (s.executing h).modQueue q fun x => { x with hold := true }
        let k : Closing := ⟨some h, none, q, false, 0⟩
        ({ s with ouvzu := { s.ouvzu with closing := s.ouvzu.closing ++ [k] } }.cancelAll
          fun d => d.sqid == q).flush.settle

/-- The last record of the queue is written: the pair goes and DELETE_QP commits (R499). -/
def execDeleteQpDone (h : Nat) (s : State) : Res :=
  match s.ouvzu.closing.find? fun k => k.handle == some h && k.port.isNone with
  | none => .next s
  | some k =>
    if s.ouvzu.cmds.any fun c => c.sqid == k.qid then .next s
    else
      .next ({ s with ouvzu := { s.ouvzu with
        closing := s.ouvzu.closing.filter fun j => j.handle != some h
        queues := s.ouvzu.queues.filter fun q => q.id != k.qid } }.commitCmd h 0 (BitVec.ofNat 64 k.count) 0)

/-- SETARB (R492). -/
def execSetarb (h : Nat) (s : State) : Res :=
  s.runCmd h 0x04 (fun c => (List.range 8).all fun i => within 1 64 (c.arg (8 + i) 1)) fun s c =>
    { s with ouvzu := { s.ouvzu with weights := vtab 8 fun i => c.arg (8 + i) 1 } }.commitCmd h 0 0 0

/-! ### Grants and functions -/

/-- The argument ranges of GRANT_HOST (R270, R505). -/
def grantOk (c : Cmd) : Bool :=
  c.arg 8 8 % 4096 == 0 && c.arg 16 8 % 4096 == 0 && c.arg 24 8 % 4096 == 0 && 0 < c.arg 24 8 &&
    decide (c.arg 16 8 + c.arg 24 8 ≤ 0x4000_0000_0000) && within 0 1 (c.arg 33 1)

/-- GRANT_HOST (R505). -/
def execGrantHost (h : Nat) (s : State) : Res :=
  s.runCmd h 0x05 grantOk fun s c => s.onPort c fun p =>
    let g : Grant := ⟨c.arg 32 1, p, c.arg 8 8, c.arg 16 8, c.arg 24 8, c.arg 33 1 == 1⟩
    if s.ouvzu.grants.any fun o => o.gid == g.gid || (o.win < g.win + g.len && g.win < o.win + o.len) then
      s.commitCmd h 0x15 0 0
    else { s with ouvzu := { s.ouvzu with grants := s.ouvzu.grants ++ [g] } }.commitCmd h 0 0 0

/-- Whether the admitted image's moraine rings lie in a grant (R505). -/
def State.ringsUse (s : State) (g : Grant) : Bool :=
  let meets (a n : Nat) : Bool :=
    decide (a < 0x4000_0000_0000 + g.win + g.len ∧ 0x4000_0000_0000 + g.win < a + n)
  match s.job.image with
  | some im => im.moraine.any fun d =>
    meets d.exring ((d.lag + 1) * d.entry) || meets d.rtring ((d.lag + 1) * d.entry)
  | none => false

/-- REVOKE_HOST (R505). -/
def execRevokeHost (h : Nat) (s : State) : Res :=
  s.runCmd h 0x06 (fun _ => true) fun s c =>
    match s.ouvzu.grants.find? fun g => g.gid == c.arg 8 1 with
    | none => s.commitCmd h 0x11 0 0
    | some g =>
      if s.ringsUse g then s.commitCmd h 0x16 0 0
      else { s with ouvzu := { s.ouvzu with
        grants := s.ouvzu.grants.filter fun o => o.gid != g.gid } }.commitCmd h 0 0 0

/-- ENABLE_FN (R501). -/
def execEnableFn (h : Nat) (s : State) : Res :=
  s.runCmd h 0x07 (fun c => (portArg (c.arg 8 1)).isSome) fun s c =>
    match portArg (c.arg 8 1) with
    | some p => (s.modFn p fun f => { f with disabled := false }).commitCmd h 0 0 0
    | none => s

/-- DISABLE_FN at its sequencing point (R500); it commits once the port's commands have ended. -/
def execDisableFn (h : Nat) (s : State) : Res :=
  s.runCmd h 0x08 (fun c => (portArg (c.arg 8 1)).isSome) fun s c =>
    match portArg (c.arg 8 1) with
    | some p => ((s.executing h).startClose p (some h) false).flush.settle
    | none => s

/-! ### ABORT_CMD (R497, R498) -/

/-- Whether a fetched command is the one an ABORT_CMD names; a mailbox's SQID names the issuer's own. -/
def Cmd.names (c d : Cmd) : Bool :=
  d.sqid == c.arg 8 2 && d.cid == c.arg 10 2 && (d.sqid != 0xFFFE || c.port.isNone || d.port == c.port)

/-- ABORT_CMD at its sequencing point. -/
def execAbortCmd (h : Nat) (s : State) : Res :=
  s.runCmd h 0x09 (fun _ => true) fun s c =>
    let live := s.ouvzu.cmds.find? fun d => c.names d && d.status.isNone
    let gone := s.ouvzu.done.find? fun e => e.1 == c.arg 8 2 && e.2.1 == c.arg 10 2
    match live, gone with
    | some d, _ =>
      if d.opc = 0x09 then s.commitCmd h 0x11 0 0
      else ((s.executing h).cancelCmd d.handle [h]).flush.settle
    | none, some e => s.commitCmd h (if e.2.2 = 0x09 then 0x11 else 0x21) 0 0
    | none, none => s.commitCmd h 0x23 0 0

/-! ### Register reads (R490) -/

/-- Whether `[a, a + n)` is HBM under the map. -/
def State.inHbm (s : State) (a n : Nat) : Bool :=
  let one (a : Nat) : Bool := match s.locate .serac a with | .mem k => isHbm k | _ => false
  one a && one (a + n - 1)

/-- The value of the register at an offset of a block, zero-extended; an undefined offset reads 0. -/
def blockValue (l : List RegVal) (o : Nat) : Nat :=
  match l.find? fun r => r.off ≤ o && o < r.off + r.bytes with
  | some r => r.val % 2 ^ (8 * r.bytes) >>> (8 * (o - r.off))
  | none => 0

/-- The block and offset a list entry names (R490): space, selector, offset. The blocks of the map lie beyond 32 bits of
address, so that an entry of space 0 holds its map address in [59:0] (DEDUCED, log 70). -/
def State.entrySpace (s : State) (w : Word) : Option (RegSpace × Nat) :=
  let off := bits w 0 32
  match bits w 60 4 with
  | 0 => match s.locate .cp (bits w 0 60) with
    | .tileReg t o => some (.tile t, o)
    | .clusterReg c o => some (.cluster c, o)
    | .cpReg o => some (.cp, o)
    | _ => none
  | 1 => if h : bits w 55 5 < 20 then some (.linkPort ⟨bits w 55 5, h⟩, off) else none
  | 2 => some (.linkGroup ⟨bits w 55 2, Nat.mod_lt _ (by decide)⟩, off)
  | 3 => some (.router (if bits w 55 1 = 0 then .west else .east), off)
  | _ => none

/-- The registers of a block. -/
def State.spaceRegs (s : State) (sp : RegSpace) : List RegVal :=
  match sp with
  | .tile t => tileRegs (s.tile t)
  | .cluster c => clusterRegs (s.cluster c)
  | .cp => cpRegs s
  | .linkPort p => linkRegs (s.port p)
  | .linkGroup g => groupRegs s.spares[g]
  | .router d => routerRegs (s.router d) (s.collBusy d)
  | .bar0 p => (s.fn p).bar0Regs
  | .config p => (s.fn p).cfgRegs s.boot.subsystem

/-- The value a list entry names: a register's, or 8 bytes of HBM where space 0 names an HBM address that the CP
reaches (R270, R490; DEDUCED, log 70). -/
def State.readEntry (s : State) (w : Word) : Option Nat :=
  let a := bits w 0 60
  match s.entrySpace w with
  | some (sp, o) => some (blockValue (s.spaceRegs sp) o)
  | none =>
    if bits w 60 4 == 0 && s.inHbm a 8 then some (leNat (s.serRd a 8)) else none

/-- REGREAD (R490, R491). -/
def execRegread (h : Nat) (hostOk : Bool) (s : State) : Res :=
  s.runCmd h 0x17 (fun c => within 1 512 (c.arg 24 2)) fun s c => s.onPort c fun p =>
    if !hostOk then s.commitCmd h 0x17 0 0
    else
      let n := c.arg 24 2
      let list := s.hostRd p (c.arg 8 8) (8 * n)
      let vals := tab n fun i => s.readEntry (BitVec.ofNat 64 (leAt list (8 * i) 8))
      if vals.any Option.isNone then s.commitCmd h 0x12 0 0
      else (s.hostWr p (c.arg 16 8) (vals.flatMap fun v => leBytes 8 (v.getD 0))).commitCmd h 0 0 0

/-! ### Pivot search (R126 to R129, R490) -/

/-- The argument ranges of PIVSEARCH. -/
def pivOk (c : Cmd) : Bool := 1 ≤ c.arg 16 4 && c.arg 24 1 ≤ 1 && c.arg 25 1 ≤ 3

/-- PIVSEARCH: the winner of the elements ranked by R126 with k = 1 and NANMODE = 0. -/
def execPivsearch (h : Nat) (s : State) : Res :=
  s.runCmd h 0x18 pivOk fun s c =>
    let f := c.arg 24 1
    let w := elemBytes f 1
    let at_ (i : Nat) : Nat := c.arg 8 8 + i * c.arg 20 4
    let ixs := List.range (c.arg 16 4)
    if ixs.any fun i => !s.inHbm (at_ i) w then s.commitCmd h 0x12 0 0
    else
      let cand (i : Nat) : Cand :=
        let code := leNat (s.serRd (at_ i) w)
        ⟨(fmtOf f).decode code, code, i⟩
      let mode := c.arg 25 1
      match topRanked (mode.testBit 0) (mode.testBit 1) false 1 (ixs.map cand) with
      | [] => s
      | b :: _ => s.commitCmd h (if b.v.isNan then 1 else 0) (BitVec.ofNat 64 b.code) (BitVec.ofNat 64 b.pos)

/-! ### Messages (R508, R509) -/

/-- The argument ranges of MSGSEND. -/
def msgOk (c : Cmd) : Bool :=
  c.arg 16 4 < 2 ^ 27 && c.arg 20 2 < 16384 && within 16 960 (c.arg 22 2) && c.arg 22 2 % 16 == 0

/-- The message sequence to a chip. -/
def State.msgSeqTo (s : State) (a : ChipAddr) : BitVec 18 :=
  match s.ouvzu.msgSeq.find? fun e => e.1 == a with | some e => e.2 | none => 0

/-- MSGSEND: one unscheduled packet, committed when it has entered the injection queue (R394). -/
def execMsgsend (h : Nat) (hostOk : Bool) (s : State) : Res :=
  s.runCmd h 0x19 msgOk fun s c => s.onPort c fun p =>
    if !hostOk then s.commitCmd h 0x17 0 0
    else
      let r := s.routers[0]
      let dst : ChipAddr := BitVec.ofNat 27 (c.arg 16 4)
      let seq := s.msgSeqTo dst
      let pkt : Packet := {
        dst := dst.setWidth 32, src := r.self.setWidth 32, ctl := 1, ept := r.epoch.setWidth 8
        tag := BitVec.ofNat 32 (c.arg 20 2 * 2 ^ 18 + seq.toNat), masks := []
        payload := s.hostRd p (c.arg 8 8) (c.arg 22 2) }
      let die := match (r.portsTo dst false).head? with
        | some q => if q.val < 10 then Die.west else .east
        | none => .west
      match s.unschedInject die pkt with
      | none => s
      | some s => { s with ouvzu := { s.ouvzu with
          msgSeq := (dst, seq + 1) :: s.ouvzu.msgSeq.filter fun e => e.1 != dst } }.commitCmd h 0 0 0

/-- The queue whose messages a MSGRECV takes: its own, or for a mailbox command the port's admin queue (R483). -/
def Cmd.msgQueue (c : Cmd) : Nat :=
  if c.sqid = 0xFFFE then (match c.port with | some p => portNo p | none => c.sqid) else c.sqid

/-- A message is written to a MSGRECV's buffer, and the command commits; a write that fails ends it with HOST_ERR
(R491), and the message is gone (DESIGN CHOICE, log 164). -/
def State.deliverMsg (s : State) (c : Cmd) (m : HeldMsg) (hostOk : Bool) : State :=
  match c.port with
  | none => s
  | some p =>
    if hostOk then
      (s.hostWr p (c.arg 8 8) m.data).commitCmd c.handle 0
        (BitVec.ofNat 64 (m.src.toNat + m.data.length * 2 ^ 32)) (m.seq.setWidth 64)
    else s.commitCmd c.handle 0x17 0 0

/-- MSGRECV: the oldest held message for its queue, or a wait for one. -/
def execMsgrecv (h : HostCmd) (s : State) : Res :=
  s.runCmd h.handle 0x1A (fun _ => true) fun s c => s.onPort c fun _ =>
    match s.ouvzu.store.find? fun m => m.dqid == c.msgQueue with
    | some m => { s with ouvzu := { s.ouvzu with store := s.ouvzu.store.erase m } }.deliverMsg c m h.hostOk
    | none => s.executing h.handle

/-- The CP takes an unscheduled packet from a router, whose input buffer is then free. -/
def State.takeMsg (s : State) (pkt : Packet) : State :=
  let d := if (s.router .west).delivered.contains pkt then Die.west else .east
  let e := (s.router d).unsched.find? fun e => e.1 == pkt
  let s := s.modRouter d fun r => { r with
    delivered := r.delivered.erase pkt
    unsched := match e with | some e => r.unsched.erase e | none => r.unsched }
  match e with
  | some e => s.returnCredits e.2 (arrivalVc pkt) (pktCredits pkt)
  | none => s

/-- A message packet reaches the CP: it goes to the oldest waiting MSGRECV of its queue, or to the
store while that has room, and is discarded when the queue does not exist (R508). -/
def execMsgArrive (msg : MsgIn) (s : State) : Res :=
  let pkt := msg.pkt
  if !pkt.WellFormed then .refused (.illFormed "MSG_ARRIVE")
  else if pktClass pkt ≠ 1 ∨ pktDst pkt ≠ s.routers[0].self then .next s
  else
    let m : HeldMsg := ⟨pktSrc pkt, bits pkt.tag 18 14, pkt.tag.setWidth 18, pkt.payload⟩
    if (s.queue m.dqid).isNone then
      .next { s.takeMsg pkt with ouvzu := { s.ouvzu with nMsgdrop := s.ouvzu.nMsgdrop + 1 } }
    else
      match s.ouvzu.cmds.find? fun c => c.msgQueue == m.dqid && c.opc == 0x1A && c.stage == .executing with
      | some c => .next ((s.takeMsg pkt).deliverMsg c m msg.hostOk)
      | none =>
        if (s.ouvzu.store.map fun x => x.data.length).sum + m.data.length ≤ 262144 then
          .next { s.takeMsg pkt with ouvzu := { s.ouvzu with store := s.ouvzu.store ++ [m] } }
        else .next s

/-! ### NOP and unknown opcodes -/

/-- NOP. -/
def execNop (h : Nat) (s : State) : Res := s.runCmd h 0x1F (fun _ => true) fun s _ => s.commitCmd h 0 0 0

/-- An opcode that R490 does not list (R510). -/
def execOuvzuInvalidOpcode (h : Nat) (s : State) : Res :=
  match s.cmd h with
  | none => .next s
  | some c => if knownOpc c.opc || !s.mayRun c then .next s else .next (s.commitCmd h 0x10 0 0)

/-! ### BAR2 (R501, R507) -/

/-- The pieces of HBM behind `n` bytes from a BAR2 offset, each with its length and whether its region is
writable; none beyond the last region (R507). -/
def bar2Pieces : List Region → Nat → Nat → Option (List (Nat × Nat × Bool))
  | _, _, 0 => some []
  | [], _, _ + 1 => none
  | r :: rest, off, n + 1 =>
    if off < r.len then
      let k := min (n + 1) (r.len - off)
      (bar2Pieces rest 0 (n + 1 - k)).map fun l => (r.base + off, k, r.write) :: l
    else bar2Pieces rest (off - r.len) (n + 1)

/-- The host-visible regions of the admitted image (R463, R507). -/
def State.hostVisible (s : State) : List Region :=
  match s.job.image with | some im => im.regions.filter fun r => r.kind == 6 | none => []

/-- A BAR2 access: all ones and no effect while the function is disabled; an Unsupported Request beyond
the last region; otherwise HBM. A write to a read-only region is discarded (R272). -/
def execBar2Access (p : PciePort) (off : Nat) (op : Bar2Op) (s : State) : Res :=
  let answer (b : Option (List Byte)) : Res := .next (s.modFn p fun f => { f with bar2 := b })
  match op with
  | .read n =>
    if (s.fn p).disabled then answer (some (List.replicate n 0xFF))
    else match bar2Pieces s.hostVisible off n with
      | none => answer none
      | some l => answer (some (l.flatMap fun x => s.serRd x.1 x.2.1))
  | .write b =>
    if (s.fn p).disabled then .next s
    else match bar2Pieces s.hostVisible off b.length with
      | none => answer none
      | some l =>
        let put (r : State × List Byte) (x : Nat × Nat × Bool) : State × List Byte :=
          (if x.2.2 then r.1.hbmWr x.1 (r.2.take x.2.1) else r.1, r.2.drop x.2.1)
        .next (l.foldl put (s, b)).1

end Sys2Proof.Machine
end

