-- ==== Sys2Proof/Machine/Moraine.lean ====
section
/-!
DEFINITION. The moraine engine (R323 to R329): exports of gradient slices to host memory and imports
of the returned parameters.
-/
namespace Sys2Proof.Machine

/-- The declaration of an index. -/
def State.morDecl (s : State) (m : Nat) : Option MorDecl := s.job.image.bind fun im => im.moraine[m]?

/-- The bus address and port behind a host-window address (R270, R505). -/
def State.windowAt (s : State) (a n : Nat) (writes : Bool) : Option (PciePort × Nat) :=
  let o := a - 0x4000_0000_0000
  (s.ouvzu.grants.find? fun g => g.win ≤ o && o + n ≤ g.win + g.len && (!writes || g.write)).map
    fun g => (g.port, g.host + (o - g.win))

/-- The header of a moraine record (R325). -/
def morHeader (kind m seq offset count fmt : Nat) (skip : Bool) (digest : Word) (chip : ChipAddr) : List Byte :=
  leBytes 2 kind ++ leBytes 2 skip.toNat ++ leBytes 4 m ++ leBytes 8 seq ++ leBytes 8 offset ++
    leBytes 4 count ++ leBytes 1 fmt ++ leBytes 3 0 ++ leBytes 8 digest.toNat ++ leBytes 8 chip.toNat ++
    List.replicate 16 0

/-- Whether the step is skipped: bit 0 of the norm block's STATUS (R310, R312). -/
def State.skipped (s : State) (plan : MorPlan) : Bool := (leNat (s.serRd (plan.norm + 24) 8)).testBit 0

/-- Whether every reduce-scatter of this step that writes the gradient slice of a moraine parameter has completed
(R324). -/
def State.scattered (s : State) (plan : MorPlan) : Bool :=
  s.job.colls.all fun c => match s.collDecl c.ix with
    | some (d, t) => d.gathers || c.step != s.job.step || c.ended == some 0 ||
        !meets d.dst (d.dstLen t) plan.grad (4 * plan.count)
    | none => true

/-- Once the reduce-scatter is complete, from the export's slot on, the engine writes ring entry s mod (L + 1): the
header and the slice, or a header with SKIP alone (R324, R325, R327); traffic flows only while the port sends requests
(R506). -/
def execMoraineExport (m : Fin 64) (hostOk : Bool) (s : State) : Res :=
  match s.morDecl m.val with
  | none => .next s
  | some d =>
    let plan := Config.moraine m.val
    let slot := s.baseSlot + plan.exSlot
    if !hostOk || !s.scattered plan || !s.mayStart slot || !s.observed slot ||
        s.job.exports.contains (m.val, s.job.step) then .next s
    else
      let skip := s.skipped plan
      let payload := if skip then [] else s.serRd plan.grad (4 * plan.count)
      let rec_ := morHeader 1 m.val (s.job.step.toNat + 1) plan.offset (if skip then 0 else plan.count) 1 skip
        (crc64 payload) (s.routers[0]).self ++ payload
      match s.windowAt (d.exring + s.job.step.toNat % (d.lag + 1) * d.entry) rec_.length true with
      | none => .next s
      | some (p, a) =>
        if !(s.fn p).masters then .next s
        else .next { s.hostWr p a rec_ with job := { s.job with
          exports := (m.val, s.job.step) :: s.job.exports.filter fun e => e.1 != m.val } }

/-- What a read of a return record finds (R328). -/
inductive Return where
  | late
  | bad
  | good (payload : List Byte)
  deriving DecidableEq, Repr

/-- Read the return record of a step; a read that the host does not answer, or that the port refuses (R506), finds
nothing. -/
def State.readReturn (s : State) (d : MorDecl) (step : Nat) (hostOk : Bool) : Return :=
  let at_ := d.rtring + step % (d.lag + 1) * d.entry
  match s.windowAt at_ d.entry false with
  | none => .late
  | some (p, a) =>
    let h := s.hostRd p a 64
    if !hostOk || !(s.fn p).masters || leAt h 8 8 ≠ step + 1 then .late
    else if (leAt h 2 2).testBit 0 then .good []
    else
      let b := s.hostRd p (a + 64) (min (leAt h 24 4 * elemBytes d.wfmt 1) (d.entry - 64))
      if (crc64 b).toNat = leAt h 32 8 then .good b else .bad

/-- `s` with the import of a declaration replaced. -/
def State.setImport (s : State) (m : Nat) (i : Option MorImport) : State :=
  { s with job := { s.job with
    imports := s.job.imports.filter (fun x => x.decl != m) ++ i.toList } }

/-- The import of a declaration in progress. -/
def State.importOf (s : State) (m : Nat) : Option MorImport := s.job.imports.find? fun i => i.decl == m

/-- At its start slot the engine sets the import word and reads the return header; a header that is
not there yet makes the import late (R328, R329). -/
def execMoraineImport (m : Fin 64) (hostOk : Bool) (s : State) : Res :=
  match s.morDecl m.val with
  | none => .next s
  | some d =>
    let plan := Config.moraine m.val
    let slot := s.baseSlot + plan.imSlot
    let step := (s.job.nextImp.getD m.val 0).toNat
    if !s.mayStart slot || !s.observed slot || (s.importOf m.val).isSome ||
        decide (s.job.step.toNat + 1 < step + d.lag) then .next s
    else
      let s := s.hbmWr d.importw (leBytes 8 1)
      let i : MorImport := ⟨m.val, BitVec.ofNat 64 step, BitVec.ofInt 64 (64 * slot), false, false, none⟩
      match s.readReturn d step hostOk with
      | .good b => .next (s.setImport m.val (some { i with ready := some b }))
      | .bad => .next (s.setImport m.val (some { i with reread := true }))
      | .late =>
        let s := { s with cp := { s.cp with mlate := s.cp.mlate + 1 } }.thawEvent 8
        .next (s.setImport m.val (some { i with late := true }))

/-- A late import reads the header again, and a record whose digest did not match is read once more; unless that copy
matches, the job ends MORAINE_DIGEST (R328). -/
def execMoraineRecheck (m : Fin 64) (hostOk : Bool) (s : State) : Res :=
  match s.morDecl m.val, s.importOf m.val with
  | some d, some i =>
    if i.ready.isSome then .next s
    else match s.readReturn d i.step.toNat hostOk with
      | .good b =>
        let s := s.setImport m.val (some { i with ready := some b })
        if i.reread then
          let s := { s with cp := { s.cp with mdigest := s.cp.mdigest + 1 } }
          let r := s.report 0x0033 .chip 0 (BitVec.ofNat 64 m.val) i.step
          .next (r.1.sendReport r.2 3 0)
        else .next s
      | .bad =>
        if i.reread then .next (s.endJob 4 (BitVec.ofNat 64 m.val))
        else .next (s.setImport m.val (some { i with reread := true }))
      | .late => if i.reread then .next (s.endJob 4 (BitVec.ofNat 64 m.val)) else .next s
  | _, _ => .next s

/-- An import still late when TIMEOUT has elapsed since its start slot boundary ends the job (R328). -/
def execMoraineTimeout (m : Fin 64) (s : State) : Res :=
  match s.morDecl m.val, s.importOf m.val with
  | some d, some i =>
    if i.ready.isNone && !i.reread && decide (i.start.toNat + d.timeout * 1000000 ≤ s.gtc.count.toNat) then
      .next (s.endJob 5 (BitVec.ofNat 64 m.val))
    else .next s
  | _, _ => .next s

/-- The import ends: its payload is in the parameter region, and the import word is cleared (R328,
R329). -/
def execMoraineImportComplete (m : Fin 64) (s : State) : Res :=
  match s.morDecl m.val, s.importOf m.val, s.job.image with
  | some d, some i, some im =>
    match i.ready, im.regions[d.region]? with
    | some b, some r =>
      let s := if b.isEmpty then s else s.hbmWr r.base b
      let s := (s.hbmWr d.importw (leBytes 8 0)).setImport m.val none
      .next { s with job := { s.job with
        impDone := (m.val, i.step) :: s.job.impDone.filter (fun e => e.1 != m.val)
        nextImp := s.job.nextImp.set m.val (i.step + 1) } }
    | _, _ => .next s
  | _, _, _ => .next s

end Sys2Proof.Machine
end

