-- ==== Sys2Proof/Machine/Jobs.lean ====
section
/-!
DEFINITION. The job (R437 to R440, R503, R504): launch, quiesce, abort, waits, and the end of a job.
-/
namespace Sys2Proof.Machine

/-! ### Stopping -/

/-- The CP sets or clears LOCK of both routers (R397). -/
def State.setLock (s : State) (b : Bool) : State :=
  { s with routers := s.routers.map fun r => { r with lock := b } }

/-- A sequencer stopped at once: nothing of it is in flight. -/
def Seq.halt (q : Seq) : Seq :=
  { q with
    run := false
    regPend := Vector.replicate 32 none
    preds := q.preds.map fun p => { p with awaits := none }
    loads := []
    stores := []
    branches := []
    deliver := []
    spec := []
    slotWait := none
    held := [] }

/-- A tile stopped at once. -/
def Tile.halt (x : Tile) : Tile :=
  { x with
    seq := x.seq.halt
    matQ := []
    lastMat := none
    acc := x.acc.map fun r => { r with undo := [] }
    rime := { x.rime with
      queue := []
      late := []
      gramQ := []
      slots := x.rime.slots.map fun l => { l with drain := none, undo := [] } }
    vec := { x.vec with undo := [], chainQ := [], queue := [] }
    dma := { x.dma with queue := [] } }

/-- Every collective instance that has started and not ended ends CANCELLED (R422). -/
def State.cancelColls (s : State) : State :=
  (List.range s.job.colls.length).foldl (fun s k =>
    match s.job.colls[k]? with
    | none => s
    | some c => match s.collDecl c.ix with
      | some (d, t) => if c.started && c.ended.isNone then s.collEnd k c d t 5 else s
      | none => s) s

/-- Every unit of the job stops at once (R503): Serac commands end CANCELLED (R176), collectives end
CANCELLED (R422). -/
def State.stopUnits (s : State) : State :=
  let s := [0, 1, 2, 3, 4, 5, 6, 7].foldl (fun (s : State) (c : ClusterId) => s.serCancel c) s
  let s := s.cancelColls
  { s with
    tiles := s.tiles.map Tile.halt
    clusters := s.clusters.map fun c => { c with running := [], switches := [], paused := false }
    integ := { s.integ with testOn := false, testRun := false }
    job := { s.job with running := false, launched := false, imports := [] } }

/-- A tile's unit state becomes unspecified (R503). -/
def Tile.forget (x : Tile) (n : Nat) : Tile :=
  let u := Config.freeUnits n
  { x with
    seq := { x.seq with regs := u.regs, preds := u.preds, pc := u.pc, phase := u.phase }
    acc := u.acc
    rime := { x.rime with slots := u.slots, bind := u.bind }
    vec := { x.vec with regs := u.vregs, masks := u.vmasks }
    streamLo := 0
    streamLen := 0 }

/-- No image is admitted any more, and unit state is unspecified (R503); LOCK is cleared (R397). -/
def State.clearJob (s : State) : State :=
  let n := s.takeFree
  let s := n.2.setLock false
  { s with
    tiles := s.tiles.mapIdx fun i x => x.forget (64 * n.1 + i)
    clusters := s.clusters.mapIdx fun i c => { c with
      structs := Config.freeStructs (8 * n.1 + i), listAddr := 0, listCount := 0, ended := [] }
    ckpt := { s.ckpt with state := 0, armed := none }
    gtc := { s.gtc with launch := 0 }
    job := { s.job with
      image := none, admState := 0, admWait := none, launched := false, running := false, resume := ⟨0, 0⟩, restored := false
      quiesce := none, pending := none, colls := [], exports := [], imports := [], impDone := []
      nextImp := [], stopped := [] } }

/-- Every outstanding JOBWAIT completes with the job's status (R504). -/
def State.completeWaits (s : State) (e : JobEnd) : State :=
  let waits := s.ouvzu.cmds.filter fun c => c.opc == 0x16 && c.stage == .executing
  let r0 : Word := BitVec.ofNat 64 (e.status % 65536 + s.step32.toNat * 2 ^ 32)
  (waits.foldl (fun s c => s.setCommitted c.handle 0x40 r0 e.detail) s).flush.settle

/-- The commands that the end of a job cancels (R491, R538): QUIESCE and CAPTURE. -/
def State.cancelJobCmds (s : State) : State :=
  (s.ouvzu.cmds.filter fun c => (c.opc == 0x12 || c.opc == 0x14) && c.stage == .executing).foldl
    (fun s c => s.setCommitted c.handle 0x22 0 0) s

/-- The job ends for good: units stop, the image goes, and JOBWAITs complete. -/
def State.endNow (s : State) (e : JobEnd) : State :=
  let s := (s.stopUnits.cancelJobCmds).clearJob
  { s with job := { s.job with last := some e } }.completeWaits e

/-! ### LAUNCH (R437, R438, R503) -/

/-- The width admission sees: ⌊w / 2⌋ at HALF (R589). -/
def LPort.seenWidth (x : LPort) : Nat := if x.half then x.width.toNat / 2 else x.width.toNat

/-- The first port whose state breaks PORTMIN (R469 step 6, R471): PORT_MISSING before PORT_WIDTH. -/
def State.portFault (s : State) (portmin : List Nat) : Option (Nat × Nat) :=
  let all := (portmin.zip s.ports.toList).zip (List.range 20)
  match all.find? fun x => 0 < x.1.1 && (x.1.2.state != .active || x.1.2.held) with
  | some x => some (0x306, x.2)
  | none => (all.find? fun x => 0 < x.1.1 && x.1.2.seenWidth < x.1.1).map fun x => (0x307, x.2)

/-- An admitted image waits to launch. -/
def State.waitsToLaunch (s : State) : Bool :=
  s.job.image.isSome && !s.job.launched && s.job.pending.isNone

/-- LAUNCH: its conditions in the order of their codes (R491); the launch that resumes a quiesced job,
whose LOCK is clear, repeats step 6 of R469 and sets LOCK (R503). -/
def execLaunch (h : Nat) (s : State) : Res :=
  s.runCmd h 0x11 (fun _ => true) fun s c =>
    let l := c.arg 8 8
    if l % 64 ≠ 0 then s.commitCmd h 0x31 0 0
    else if l < s.gtc.count.toNat + 200000 then s.commitCmd h 0x32 0 0
    else if !(s.gtc.locked || s.gtc.master) then s.commitCmd h 0x33 0 0
    else if !s.waitsToLaunch then s.commitCmd h 0x34 0 0
    else
      let fault := match s.job.image with
        | some im => if s.routers[0].lock then none else s.portFault im.portmin
        | none => none
      match fault with
      | some f => { s with job := { s.job with reason := BitVec.ofNat 16 f.1 } }.commitCmd h 0x30 0 0
      | none =>
        let s := s.setLock true
        { s with
          gtc := { s.gtc with launch := BitVec.ofNat 64 l }
          job := { s.job with
            launched := true, stepL := s.job.step
            base := ((l / 64 : Nat) : Int) - s.job.resume.slotOff } }.commitCmd h 0 s.job.step 0

/-! ### QUIESCE (R503) -/

/-- QUIESCE: the job is to stop at the end of the step in progress. With no job running it completes with STATE, and
ends an admission in progress (R470). -/
def execQuiesce (h : Nat) (s : State) : Res :=
  s.runCmd h 0x12 (fun _ => true) fun s _ =>
    if s.job.running && s.job.pending.isNone then
      { s with job := { s.job with quiesce := some (s.job.quiesce.getD s.job.step) } }.executing h
    else s.cancelAdmit.commitCmd h 0x16 0 0

/-- A tile is idle at a boundary: its sequencer has stopped or holds at a WAITSLOT at or after it, and
no operation is unfinished. -/
def Tile.idleAt (x : Tile) (slot : Int) : Bool :=
  (!x.seq.run || (match x.seq.slotWait with | some n => decide (slot ≤ n.toInt) | none => false)) &&
    x.seq.loads.isEmpty && x.seq.stores.isEmpty && x.seq.branches.isEmpty && x.seq.deliver.isEmpty &&
    x.matQ.isEmpty && x.vec.queue.isEmpty && x.dma.queue.isEmpty && !x.rimeBusy

/-- Every Serac command of a step has ended. -/
def State.seracDone (s : State) (c : ClusterId) (step : Nat) : Bool :=
  let x := s.cluster c
  x.running.isEmpty && x.switches.isEmpty &&
    (List.range x.listCount).all fun ix => !(s.serDesc c ix).due step || x.ended.contains ix

/-- Every moraine transfer of a step has ended. -/
def State.moraineDone (s : State) (step : Word) : Bool :=
  s.job.imports.isEmpty && match s.job.image with
    | none => true
    | some im => (im.moraine.zip (List.range im.moraine.length)).all fun d =>
      s.job.exports.contains (d.2, step) &&
        decide (step.toNat + 1 < (s.job.nextImp.getD d.2 0).toNat + d.1.lag)

/-- Every unit of the job is idle at the end of the step (R503): QUIESCE commits, the image stays
admitted and waits to launch at the next step, and the job's status is QUIESCED. -/
def execQuiesceDone (h : Nat) (s : State) : Res :=
  match s.cmd h, s.job.quiesce with
  | some c, some q =>
    let slot := s.baseOf (q.toNat + 1)
    if c.opc == 0x12 && c.stage == .executing && s.job.running && s.observed slot &&
        s.tiles.toList.all (fun x => x.idleAt slot) &&
        [0, 1, 2, 3, 4, 5, 6, 7].all (fun c => s.seracDone c q.toNat) &&
        s.job.colls.all (fun c => c.ended.isSome) && s.moraineDone q then
      let wait (x : Tile) : Tile := { x with seq := { x.seq with
        run := false
        slotWait := x.seq.slotWait.map fun n => n - BitVec.ofInt 64 slot } }
      let s := s.setLock false
      let s := { s with
        tiles := s.tiles.map wait
        gtc := { s.gtc with launch := 0 }
        job := { s.job with
          running := false, launched := false, quiesce := none, admState := 2, step := q + 1
          resume := ⟨q + 1, 0⟩, colls := [], pending := some ⟨0, 0⟩ } }
      let s := (s.ouvzu.cmds.filter fun c => c.opc == 0x14 && c.stage == .executing).foldl
        (fun s c => s.dropCapture.setCommitted c.handle 0x22 0 0) s
      let s := (s.ouvzu.cmds.filter fun c => c.opc == 0x12 && c.stage == .executing).foldl
        (fun s c => s.setCommitted c.handle 0 q 0) s
      .next s.flush.settle
    else .next s
  | _, _ => .next s

/-! ### ABORT_JOB and the end (R503, R504) -/

/-- The cause that an ABORT_JOB gives the job's end (R504, R599): ABORTED from a host port; from the
SMC, SMC_STOP with its cause, OPERATOR when a manager sent it. -/
def abortCause (c : Cmd) : JobEnd :=
  if c.sqid ≠ 0xFFFF then ⟨1, 0⟩
  else if c.lom.isSome then ⟨8, 1⟩
  else ⟨8, BitVec.ofNat 64 (c.arg 8 2)⟩

/-- ABORT_JOB stops every unit at once (R503). It ends an admission in progress (R470), which is then all that it
acts on (DEDUCED, log 162: it completes OK); with neither it completes with STATE. -/
def execAbortJob (h : Nat) (s : State) : Res :=
  s.runCmd h 0x13 (fun _ => true) fun s c =>
    if s.ouvzu.cmds.any Cmd.admitting then s.cancelAdmit.commitCmd h 0 0 0
    else if s.job.image.isNone then s.commitCmd h 0x16 0 0
    else
      let e := abortCause c
      ((s.endJob e.status e.detail).stopUnits).executing h

/-- Every unit has stopped: the image goes, JOBWAITs complete, and ABORT_JOB commits (R503, R504). -/
def execAbortJobDone (h : Nat) (s : State) : Res :=
  match s.cmd h with
  | none => .next s
  | some c =>
    if c.opc == 0x13 && c.stage == .executing then
      let e := s.job.pending.getD (abortCause c)
      .next ((if s.job.image.isSome then s.endNow e else s).commitCmd h 0 0 0)
    else .next s

/-- JOBWAIT (R504). -/
def execJobwait (h : Nat) (s : State) : Res :=
  s.runCmd h 0x16 (fun _ => true) fun s _ =>
    if s.job.image.isNone then s.commitCmd h 0x16 0 0 else s.executing h

/-- The job ends by its first cause (R504). After a QUIESCE the image stays admitted; after any other
cause nothing of the job remains. An ABORT_JOB in progress ends it instead. -/
def execJobEnd (s : State) : Res :=
  match s.job.pending with
  | none => .next s
  | some e =>
    if s.ouvzu.cmds.any fun c => c.opc == 0x13 && c.stage == .executing then .next s
    else if e.status = 0 then
      .next ({ s with job := { s.job with pending := none, last := some e } }.completeWaits e)
    else .next (s.endNow e)

end Sys2Proof.Machine
end

