-- ==== Sys2Proof/Machine/Image.lean ====
section
/-!
DEFINITION. A Prefold image (R457 to R468): its header and sections, its declarations, and the loader's
checks of the container, the chip, the topology, the ports, the regions and the declarations (R471).
-/
namespace Sys2Proof.Machine

/-! ### The container (R457 to R459) -/

/-- One section: its index in the table, its fields, its bytes. -/
structure Sect where
  ix    : Nat
  ty    : Nat
  index : Nat
  req   : Bool
  off   : Nat
  len   : Nat
  dest  : Nat
  data  : List Byte
  deriving DecidableEq, Repr

/-- An image as the CP reads it: its bytes and the entries of its section table. -/
structure Img where
  data  : List Byte
  sects : List Sect
  deriving DecidableEq, Repr

/-- A header field. -/
def Img.hdr (g : Img) (off k : Nat) : Nat := leAt g.data off k

/-- The entries of the section table. -/
def Img.read (data : List Byte) : Img :=
  let off := leAt data 16 8
  let sect (i : Nat) : Sect :=
    let e := (data.drop (off + 32 * i)).take 32
    { ix := i, ty := leAt e 0 2, index := leAt e 2 2, req := (leAt e 4 4).testBit 0, off := leAt e 8 8
      len := leAt e 16 8, dest := leAt e 24 8, data := (data.drop (leAt e 8 8)).take (leAt e 16 8) }
  ⟨data, tab (leAt data 14 2) sect⟩

/-- The sections of a type. -/
def Img.all (g : Img) (ty : Nat) : List Sect := g.sects.filter fun x => x.ty == ty

/-- The one section of a type. -/
def Img.one (g : Img) (ty : Nat) : Option Sect := g.sects.find? fun x => x.ty == ty

/-- The bytes of the one section of a type. -/
def Img.bytes (g : Img) (ty : Nat) : List Byte := match g.one ty with | some x => x.data | none => []

/-- A failed check as the report gives it (R474). -/
structure Fail where
  code    : Nat
  sect    : Nat := 0xFFFF
  entry   : Nat := 0xFFFFFFFF
  tile    : Nat := 0xFF
  port    : Nat := 0xFF
  stack   : Nat := 0xFF
  cluster : Nat := 0xFF
  value   : Nat := 0
  limit   : Nat := 0
  deriving DecidableEq, Repr

/-- The table index of the one section of a type. -/
def Img.ixOf (g : Img) (ty : Nat) : Nat := match g.one ty with | some x => x.ix | none => 0xFFFF

/-- All bytes of `[off, off + k)` are 0. -/
def zeroAt (l : List Byte) (off k : Nat) : Bool := ((l.drop off).take k).all fun b => b == 0

/-- The first failure of a check over entries. -/
def firstFail {α : Type} (l : List α) (f : Nat → α → Option Fail) : Option Fail :=
  ((List.range l.length).zip l).findSome? fun x => f x.1 x.2

/-- A failure when a condition is broken. -/
def failIf (b : Bool) (f : Fail) : Option Fail := if b then some f else none

/-- BAD_MAGIC. -/
def Img.magic (g : Img) : Option Fail :=
  failIf (g.data.take 8 != [0x50, 0x52, 0x45, 0x46, 0x4F, 0x4C, 0x44, 0x01]) { code := 0x101 }

/-- FORMAT: FMTVER, and the header fields of R457. -/
def Img.format (g : Img) : Option Fail :=
  failIf (decide (g.data.length < 128) || g.hdr 9 1 != 1 || decide (3 < g.hdr 13 1) ||
      !within 4 1024 (g.hdr 14 2) || g.hdr 16 8 % 32 != 0 || g.hdr 24 8 != g.data.length || g.hdr 40 4 == 0 ||
      !zeroAt g.data 44 4 || !zeroAt g.data 56 8 || !zeroAt g.data 96 32)
    { code := 0x102, value := g.hdr 8 2 }

/-- The SHA-256 of an image (R457). -/
def Img.digest (g : Img) : List Byte := sha256 (g.data.take 64 ++ g.data.drop 96)

/-- DIGEST. -/
def Img.digestCheck (g : Img) : Option Fail :=
  failIf ((g.data.drop 64).take 32 != g.digest) { code := 0x103 }

/-- The known section types with their greatest count and greatest INDEX (R459); a count of 0 stands for
any. -/
def sectTypes : List (Nat × Nat × Nat) :=
  [(0x01, 1, 0), (0x02, 1, 0), (0x03, 1, 0), (0x04, 1, 0), (0x10, 64, 63), (0x11, 0, 63), (0x12, 64, 63),
   (0x20, 0, 0)] ++
  [(0x30, 1, 0), (0x31, 1, 0), (0x40, 8, 7), (0x50, 1, 0), (0x51, 1, 0), (0x60, 1, 0), (0x61, 1, 0)]

/-- Whether the content of a section has the form R459 to R461 and R466 give it, for the types whose form
no later code checks. -/
def Sect.formOk (x : Sect) : Bool :=
  match x.ty with
  | 0x01 => x.len == 64 && zeroAt x.data 2 2 && zeroAt x.data 24 40
  | 0x02 => x.len == 64 + 2 * leAt x.data 12 2 && within 1 4096 (leAt x.data 12 2) && zeroAt x.data 15 1 &&
      zeroAt x.data 24 40 && decide (leAt x.data 3 1 < 8) && decide (leAt x.data 14 1 < 16)
  | 0x10 => decide (16 ≤ x.len) && zeroAt x.data 12 4
  | 0x30 => x.len % 8 == 0 && (List.range (x.len / 8)).all fun i => zeroAt x.data (8 * i + 5) 1
  | 0x61 => x.len == 8 && zeroAt x.data 2 6
  | _ => true

/-- SECTIONS: R458 and R459. -/
def Img.sectCheck (g : Img) : Option Fail :=
  let tabLen := 32 * g.sects.length
  let one (x : Sect) : Option Fail :=
    let before := g.sects.take x.ix
    let same := before.filter fun y => y.ty == x.ty
    let bad (v : Nat) : Fail := { code := 0x104, sect := x.ix, value := v }
    if decide (g.data.length < x.off + x.len) || meets x.off x.len 0 128 || meets x.off x.len (g.hdr 16 8) tabLen ||
        before.any (fun y => meets x.off x.len y.off y.len) then some (bad x.off)
    else match sectTypes.find? fun t => t.1 == x.ty with
      | none => failIf x.req (bad x.ty)
      | some (_, n, top) =>
        failIf (decide (top < x.index) || (n != 0 && decide (n ≤ same.length)) ||
          ([0x10, 0x12, 0x40].contains x.ty && same.any fun y => y.index == x.index) || !x.formOk ||
          (x.ty == 0x61 && !(g.hdr 13 1).testBit 1)) (bad x.index)
  if decide (g.data.length < g.hdr 16 8 + tabLen) || decide (g.hdr 16 8 < 128) then some { code := 0x104 }
  else match g.sects.findSome? one with
    | some f => some f
    | none => failIf ([0x01, 0x02, 0x03, 0x04].any (fun t => (g.one t).isNone) ||
        ((g.hdr 13 1).testBit 1 && (g.one 0x61).isNone)) { code := 0x104 }

/-- CONTRACT_LEVEL and STEPPING. -/
def Img.level (g : Img) : Option Fail :=
  if contractLevel < g.hdr 10 2 then some { code := 0x105, value := g.hdr 10 2, limit := contractLevel }
  else failIf (decide (stepping < g.hdr 12 1)) { code := 0x106, value := g.hdr 12 1, limit := stepping }

/-! ### Declarations (R460 to R468, R405, R513, R540) -/

/-- MIN_WIDTH. -/
def Img.minWidth (g : Img) : Nat := leAt (g.bytes 0x01) 0 2

/-- PORTMIN. -/
def Img.portmin (g : Img) : List Nat := tab 20 fun i => leAt (g.bytes 0x01) (4 + i) 1

/-- The topology declaration (R461). -/
def Img.topo (g : Img) : Topo :=
  let b := g.bytes 0x02
  { ex := leAt b 0 1, ey := leAt b 1 1, ez := leAt b 2 1, opn := BitVec.ofNat 3 (leAt b 3 1)
    dlx := leAt b 4 1, dly := leAt b 5 1, dlz := leAt b 6 1, t := leAt b 7 1, dx := leAt b 8 2
    p := leAt b 10 1, s := leAt b 11 1, epoch := BitVec.ofNat 4 (leAt b 14 1)
    jobId := BitVec.ofNat 64 (leAt b 16 8), pods := tab (leAt b 12 2) fun i => leAt b (64 + 2 * i) 2 }

/-- The entries of `n` bytes of a section's content. -/
def entries (l : List Byte) (n : Nat) : List (List Byte) := chunks (l.length / n) n l

/-- The region table (R463). -/
def Img.regions (g : Img) : List Region :=
  (entries (g.bytes 0x03) 32).map fun e => ⟨leAt e 0 8, leAt e 8 8, leAt e 16 1, leAt e 17 1 == 1⟩

/-- The phase table: KIND and OP (R464). -/
def Img.phases (g : Img) : List (Nat × Nat) :=
  (entries (g.bytes 0x04) 4).map fun e => (leAt e 0 1, leAt e 1 1)

/-- A collective declaration (R405). -/
def CollDecl.ofBytes (b : List Byte) : CollDecl where
  kind := leAt b 0 1
  axis := leAt b 1 1
  dir := leAt b 2 1
  sfmt := leAt b 3 1 % 16
  afmt := leAt b 3 1 / 16
  dfmt := leAt b 4 1 % 16
  sat := (leAt b 4 1).testBit 4
  id := leAt b 6 2
  len := leAt b 8 8
  src := leAt b 16 8
  dst := leAt b 24 8
  dscale := leAt b 32 4
  start := leAt b 36 4
  resv := leAt b 40 4
  stall := leAt b 44 4
  gate := leAt b 48 8
  recAddr := leAt b 56 8
  bad := leAt b 5 1 != 0 || decide (32 ≤ leAt b 4 1)

/-- The collective declarations. -/
def Img.colls (g : Img) : List CollDecl := (entries (g.bytes 0x31) 64).map CollDecl.ofBytes

/-- A moraine declaration (R468). -/
def MorDecl.ofBytes (b : List Byte) : MorDecl where
  region := leAt b 0 2
  wfmt := leAt b 2 1
  lag := leAt b 3 1
  timeout := leAt b 4 4
  exring := leAt b 8 8
  rtring := leAt b 16 8
  entry := leAt b 24 8
  importw := leAt b 32 8
  port := if leAt b 40 1 = 0 then .a else .b

/-- The moraine declarations. -/
def Img.moraine (g : Img) : List MorDecl := (entries (g.bytes 0x51) 64).map MorDecl.ofBytes

/-- The integrity declaration (R513); 64 bytes of 0 declare none. -/
def Img.integ (g : Img) : Option IntegDecl :=
  let b := g.bytes 0x60
  if zeroAt b 0 64 then none
  else some {
    w := leAt b 0 2, wdcoll := leAt b 2 2, digids := tab (leAt b 4 1) fun i => leAt b (32 + 2 * i) 2
    teststart := leAt b 8 4, testlen := leAt b 12 4, wdaddr := leAt b 16 8, testsave := leAt b 24 8 }

/-- NOSAVE (R540). -/
def Img.nosave (g : Img) : BitVec 256 := BitVec.ofNat 256 (leAt (g.bytes 0x60) 96 32)

/-- A tensor entry (R540). -/
def TensDecl.ofBytes (b : List Byte) : TensDecl where
  tid := leAt b 0 4
  fmt := leAt b 4 1
  rank := leAt b 5 1
  src := leAt b 6 1
  stage := leAt b 7 1
  cut := tab 4 fun i => leAt b (8 + i) 1
  dim := tab 4 fun i => leAt b (16 + 8 * i) 8
  base := leAt b 48 8
  scale := leAt b 56 8
  raw := b

/-- The tensor entries of the checkpoint declaration. -/
def Img.tensors (g : Img) : List TensDecl := (entries ((g.bytes 0x60).drop 128) 64).map TensDecl.ofBytes

/-- The ORDER and FLAGS of a SERAC section's structures (R467). -/
def Sect.structs (x : Sect) : List (Nat × Nat) := tab 16 fun k => (leAt x.data (16 + 16 * k) 2, leAt x.data (18 + 16 * k) 1)

/-- The structures as an admission leaves them: W zero with E = 0, P empty (R171). -/
def Sect.freshStructs (x : Sect) : List SerStruct :=
  x.structs.map fun o => ⟨o.1, o.2.testBit 0, o.2.testBit 1, .zero o.1, none⟩

/-- COUNT of a SERAC section. -/
def Sect.serCount (x : Sect) : Nat := leAt x.data 0 4

/-- LISTREG of a SERAC section. -/
def Sect.listReg (x : Sect) : Nat := leAt x.data 4 2

/-- The command list's bytes. -/
def Sect.serList (x : Sect) : List Byte := x.data.drop 272

/-- The declared region that holds `[a, a + n)`. -/
def Img.inRegion (g : Img) (a n : Nat) : Option Region :=
  g.regions.find? fun r => r.base ≤ a && decide (a + n ≤ r.base + r.len)

/-- Whether `[a, a + n)` lies in a staging region. -/
def Img.inStaging (g : Img) (a n : Nat) : Bool := match g.inRegion a n with | some r => r.kind == 5 | none => false

/-! ### The chip and the topology (0x0201 to 0x0307) -/

/-- CHIP_UNFIT (R99, R279, R527, R591). -/
def State.unfit (s : State) : Option Fail :=
  let f : Fail := { code := 0x201 }
  if s.boot.unfit || s.journalled .drained || (List.range 4).any (fun q => s.goodTiles q < 16) then some f
  else match s.hbm.toList.findIdx? (fun k => k.failed) with
    | some k => some { f with stack := k }
    | none => (((List.range 8).find? fun c => s.goodEngines c < 4).map fun c => { f with cluster := c })

/-- ARRAY_WIDTH (R101). -/
def Img.widthCheck (g : Img) (s : State) : Option Fail :=
  let w := g.minWidth
  let f : Fail := { code := 0x202, sect := g.ixOf 0x01 }
  if w % 8 != 0 || !within 192 256 w then some { f with value := w, limit := 256 }
  else (s.tiles.toList.findIdx? fun x => decide (x.width.toNat < w)).map fun t =>
    { f with tile := t, value := ((s.tiles.toList.map fun x => x.width.toNat).getD t 0), limit := w }

/-- NOT_MEMBER to TENSOR_DEGREE (R39, R462). A cut never crosses a pod, since DX, P and S are those that the
extents of one pod give, so CUT_CROSSES_POD is never reported. -/
def Img.topoCheck (g : Img) (s : State) : Option Fail :=
  let t := g.topo
  let r := s.routers[0]
  let f (c : Nat) : Fail := { code := c, sect := g.ixOf 0x02 }
  let axes := [0, 1, 2]
  if !t.pods.contains (podOf r.self) || axes.any (fun a => t.extent a ≤ coord r.self a) then some (f 0x301)
  else match axes.find? fun a => !within 1 (r.extent a) (t.extent a) with
    | some a => some { f 0x302 with value := t.extent a, limit := r.extent a }
    | none =>
      let degree := [1, 2, 4, 8].contains t.t
      match axes.find? fun a => degree && t.nodeBits a == 2 && t.extent a % 2 == 1 with
      | some a => some { f 0x303 with value := t.extent a }
      | none => failIf (!degree || t.dx != t.ringSize 0 || t.p != t.ringSize 1 || t.s != t.ringSize 2)
          { f 0x304 with value := t.t }

/-- PORT_MISSING and PORT_WIDTH. -/
def Img.portCheck (g : Img) (s : State) : Option Fail :=
  let f : Fail := { code := 0x307, sect := g.ixOf 0x01 }
  let limit (p : Nat) : Nat := g.portmin.getD p 0
  let seen (p : Nat) : Nat := (s.ports.toList.map LPort.seenWidth).getD p 0
  match s.portFault g.portmin with
  | some (c, p) => some { f with code := c, port := p, value := seen p, limit := limit p }
  | none => ((List.range 20).find? fun p => 8 < limit p).map fun p =>
    { f with port := p, value := seen p, limit := limit p }

/-! ### Regions and the tile store (0x0401 to 0x0403) -/

/-- REGIONS (R463). -/
def Img.regionCheck (g : Img) : Option Fail :=
  let raw := entries (g.bytes 0x03) 32
  let ok (k : Nat) (r : Region) (e : List Byte) : Bool :=
    r.base % 4096 == 0 && r.len % 4096 == 0 && decide (0 < r.len) && decide (r.kind ≤ 6) &&
      decide (leAt e 17 1 ≤ 1) && zeroAt e 18 14 && decide (hbmBase 0 ≤ r.base ∧ r.base + r.len ≤ hbmBase 8) &&
      (r.base - hbmBase 0) / 0x10_0000_0000 == (r.base + r.len - 1 - hbmBase 0) / 0x10_0000_0000 &&
      !(g.regions.take k).any fun q => meets q.base q.len r.base r.len
  let f : Fail := { code := 0x401, sect := g.ixOf 0x03 }
  if (g.bytes 0x03).length % 32 != 0 || !within 1 256 raw.length then some f
  else firstFail (g.regions.zip raw) fun k e =>
    failIf (!ok k e.1 e.2) { f with entry := k, value := e.1.base }

/-- HBM_CAPACITY (R272); the retained operands of R305, which no section lays out, are Config's. -/
def Img.capacityCheck (g : Img) (s : State) : Option Fail :=
  let f : Fail := { code := 0x402, sect := g.ixOf 0x03 }
  match firstFail g.regions fun k r =>
    let st := stackOf r.base
    let top := r.base + r.len - hbmBase st
    let cap := (s.stack st).capacity
    failIf (decide (cap < top)) { f with entry := k, stack := st, value := top, limit := cap } with
  | some f => some f
  | none => failIf (g.phases.any (fun p => p.1 == 2) && Config.breaks 305 g.data) { code := 0x402 }

/-- A tile's stream region: that of its TILE_CODE, or the 8 bytes of R459. -/
def Img.stream (g : Img) (t : Nat) : Nat × Nat :=
  match (g.all 0x10).find? fun x => x.index == t with
  | some x => (leAt x.data 4 4, leAt x.data 8 4)
  | none => (0, 8)

/-- TILE_STORE. -/
def Img.storeCheck (g : Img) : Option Fail :=
  g.sects.findSome? fun x =>
    let st := g.stream x.index
    let f (top : Nat) : Fail := { code := 0x403, sect := x.ix, tile := x.index, value := top, limit := storeSize }
    if x.ty = 0x10 then
      let top := max (st.1 + st.2) (x.dest + (x.len - 16))
      failIf (decide (storeSize < top)) (f top)
    else if x.ty = 0x11 then
      failIf (decide (storeSize < x.dest + x.len) || meets x.dest x.len st.1 st.2) (f (x.dest + x.len))
    else none

/-! ### Declarations (0x0601 to 0x0607) -/

/-- PHASE_TABLE (R464). -/
def Img.phaseCheck (g : Img) : Option Fail :=
  let f : Fail := { code := 0x601, sect := g.ixOf 0x04 }
  let raw := entries (g.bytes 0x04) 4
  if (g.bytes 0x04).length != 256 then some f
  else firstFail raw fun k e =>
    failIf (!zeroAt e 2 2 || (if leAt e 0 1 = 0xFF then k == 0 else
      decide (6 < leAt e 0 1) || !within 1 7 (leAt e 1 1))) { f with entry := k, value := leAt e 0 1 }

/-- SERAC_DECL (R467, R168, R172, R193). -/
def Img.seracCheck (g : Img) : Option Fail :=
  (g.all 0x40).findSome? fun x =>
    let f : Fail := { code := 0x602, sect := x.ix, cluster := x.index }
    let cl : Cluster := { Cluster.reset with structs := x.freshStructs }
    let fits := match g.regions[x.listReg]? with | some r => decide (64 * x.serCount ≤ r.len) | none => false
    if x.len != 272 + 64 * x.serCount || !zeroAt x.data 6 10 || !fits then some f
    else match firstFail x.structs fun k o =>
        failIf (o.1 % 32 != 0 || decide (2048 < o.1) || decide (3 < o.2) || !zeroAt x.data (19 + 16 * k) 13 ||
          (o.2.testBit 1 && o.1 % 128 != 0)) { f with entry := k, value := o.1 } with
      | some f => some f
      | none => firstFail (entries x.serList 64) fun k e =>
        let d := SerDesc.ofBytes e
        failIf (d.bad cl || (d.opc == 3 && d.exp)) { f with entry := 16 + k, value := d.opc }

/-- The formats of R410: whether a source format takes an accumulation format. -/
def sumFmtOk (src acc : Nat) : Bool :=
  acc == 0 || (acc == 0xC && src != 0) || (acc == 1 && (src == 1 || src == 2 || src == 3)) || (acc == 2 && src == 2)

/-- R405, R408, R410, R413 and R416 for one declaration; `n` is its member count. -/
def CollDecl.ok (d : CollDecl) (n : Nat) : Bool :=
  let ring := decide (d.kind ≤ 1)
  !d.bad && decide (d.kind ≤ 4) && decide (d.id ≤ 4095) && decide (d.stall ≤ 65535) && d.recAddr % 32 == 0 &&
    (if ring then decide (d.axis ≤ 3 ∧ d.dir ≤ 2) else d.axis == 0 && d.dir == 0) &&
    (if d.kind = 4 then within 1 16 d.len && d.sfmt == 0 && d.afmt == 0 && d.dscale == 0x3F800000 && serOrFp16 d.dfmt
     else d.len % (16 * n) == 0 && (d.gathers || (serOrFp16 d.sfmt && sumFmtOk d.sfmt d.afmt && serOrFp16 d.dfmt)))
where
  /-- FP64, FP32, BF16, FP16 and A48. -/
  serOrFp16 (c : Nat) : Bool := decide (c ≤ 3) || c == 0xC

/-- Bytes of a declaration's source and destination on this chip. -/
def CollDecl.spans (d : CollDecl) (n : Nat) : Nat × Nat :=
  if d.gathers then (d.len / n, d.len)
  else if d.kind = 4 then (8 * d.len, elemBytes d.dfmt d.len)
  else (elemBytes d.sfmt d.len, elemBytes d.dfmt (d.len / n))

/-- The level of a declaration in the order of R414, none outside it. -/
def CollDecl.level (d : CollDecl) : Option Nat :=
  let up := match d.kind, d.axis with
    | 2, _ | 3, _ => some 0
    | 0, 2 | 1, 2 => some 1
    | 0, 0 | 1, 0 => some 2
    | 0, 3 | 1, 3 => some 3
    | _, _ => none
  if d.gathers then up.map fun l => 3 - l else up

/-- Whether `d` follows `e` in a chain of one direction in another order than R414's. -/
def CollDecl.outOfOrder (e d : CollDecl) : Bool :=
  e.dst == d.src && e.gathers == d.gathers && decide (e.kind ≤ 3 ∧ d.kind ≤ 3) &&
    !(match e.level, d.level with | some a, some b => decide (a < b) | _, _ => false)

/-- Whether the pod chain reaches both neighbours of this chip's pod (R415), as far as this chip sees: by
its own H peer, or over C1. -/
def Img.podPath (g : Img) (s : State) : Bool :=
  let t := g.topo
  let q := t.pods.idxOf (podOf s.routers[0].self)
  let via (r : Nat) : Bool :=
    (match (s.port hPort).partner with
      | some a => podOf a.1 == t.pods.getD r 0 && decide (0 < g.portmin.getD 19 0)
      | none => false) || decide (0 < g.portmin.getD 6 0)
  (q + 1 == t.pods.length || via (q + 1)) && (q == 0 || via (q - 1))

/-- COLLECTIVE_DECL (R405 to R416). -/
def Img.collCheck (g : Img) (s : State) : Option Fail :=
  let l := g.colls
  let f : Fail := { code := 0x603, sect := g.ixOf 0x31 }
  if (g.bytes 0x31).length % 64 != 0 then some f
  else firstFail l fun k d =>
    let n := d.members g.topo
    let sp := d.spans n
    failIf (!d.ok n || (l.take k).any (fun e => e.id == d.id) || l.any (fun e => e.outOfOrder d) ||
      (d.kind ≤ 1 && d.axis == 3 && !g.podPath s) || (g.inRegion d.src sp.1).isNone ||
      (g.inRegion d.dst sp.2).isNone || (d.gate != 0 && (g.inRegion d.gate 8).isNone) ||
      (g.inRegion d.recAddr 32).isNone) { f with entry := k, value := d.id }

/-- The byte that the HBM_DATA sections load at an address, the last one's where several do. -/
def Img.hbmByte (g : Img) (a : Nat) : Option Byte :=
  (((g.all 0x20).filter fun x => x.dest ≤ a && decide (a < x.dest + x.len)).getLast?).bind fun x => x.data[a - x.dest]?

/-- Whether an entry of the step table ends in a loaded byte that is not 0 (R314). -/
def Img.stepTableBad (g : Img) (a n : Nat) : Bool :=
  (List.range n).any fun t => (List.range 4).any fun k => match g.hbmByte (a + 16 * t + 12 + k) with
    | some b => b != 0
    | none => false

/-- OPTIMIZER_DECL (R313, R314); R306 and R315, for which no section lays out what they check, are Config's. -/
def Img.optCheck (g : Img) : Option Fail :=
  match g.one 0x50 with
  | none => none
  | some x =>
    let a := leAt x.data 40 8
    let n := leAt x.data 48 4
    let fits := match g.inRegion a (16 * n) with | some r => !r.write | none => false
    failIf (x.len != 64 || !zeroAt x.data 52 12 || !within 1 (2 ^ 24) n || !fits || Config.breaks 306 g.data ||
      g.stepTableBad a n || Config.breaks 315 g.data) { code := 0x604, sect := x.ix, value := a }

/-- MORAINE_DECL (R468, R323). -/
def Img.moraineCheck (g : Img) (s : State) : Option Fail :=
  match g.one 0x51 with
  | none => none
  | some x =>
    let f : Fail := { code := 0x605, sect := x.ix }
    let raw := entries x.data 64
    let granted (a n : Nat) (writes : Bool) (p : PciePort) : Bool :=
      decide (0x4000_0000_0000 ≤ a) && (match s.windowAt a n writes with | some q => q.1 == p | none => false)
    let ok (d : MorDecl) (e : List Byte) : Bool :=
      (match g.regions[d.region]? with | some r => r.kind == 0 | none => false) && within 1 2 d.wfmt &&
        within 1 16 d.lag && within 1 60000 d.timeout && d.entry % 64 == 0 && decide (0 < d.entry) &&
        g.inStaging d.importw 8 && decide (leAt e 40 1 ≤ 1) && zeroAt e 41 23 &&
        granted d.exring ((d.lag + 1) * d.entry) true d.port &&
        granted d.rtring ((d.lag + 1) * d.entry) false d.port
    if x.len % 64 != 0 || !within 1 64 raw.length then some f
    else firstFail (g.moraine.zip raw) fun k d => failIf (!ok d.1 d.2) { f with entry := k }

/-- Whether an integrity declaration keeps R513 and R514. -/
def Img.integOk (g : Img) (i : IntegDecl) : Bool :=
  let b := g.bytes 0x60
  let coll (id : Nat) : Option CollDecl := g.colls.find? fun d => d.id == id
  let ring (id axis : Nat) : Bool := match coll id with | some d => d.kind == 1 && d.axis == axis | none => false
  let first := match coll i.wdcoll with
    | some d => d.src == i.wdaddr && d.len == 32 * d.members g.topo
    | none => false
  decide (i.w ≤ 1024) && within 1 16 (leAt b 4 1) && zeroAt b 5 3 && (i.testlen == 0 || 1600 ≤ i.testlen) &&
    g.inStaging i.wdaddr 32 && (i.testlen == 0 || g.inStaging i.testsave 0x400_0000) &&
    (List.range (16 - leAt b 4 1)).all (fun k => leAt b (32 + 2 * (leAt b 4 1 + k)) 2 == 0xFFFF) &&
    i.digids.all (fun id => match coll id with | some d => d.gathers | none => false) && first &&
    (if g.topo.pods.length = 1 then ring i.wdcoll 0 else ring i.wdcoll 3 && ring (i.wdcoll + 1) 0)

/-- The degree of a cut (R541): 1 X, 2 S, 3 T. -/
def Topo.cutDegree (t : Topo) (cut : Nat) : Nat :=
  match cut with
  | 1 => t.pods.length * t.dx
  | 2 => t.s
  | 3 => t.t
  | _ => 1

/-- A chip's index along a cut (R541). -/
def Topo.cutIndex (t : Topo) (a : ChipAddr) (cut : Nat) : Nat :=
  match cut with
  | 1 => t.pods.idxOf (podOf a) * t.dx + t.pos a 0
  | 2 => t.pos a 2
  | 3 => t.shard a
  | _ => 0

/-- A chip's range of a tensor's dimension: its first index and its length. -/
def TensDecl.range (d : TensDecl) (t : Topo) (a : ChipAddr) (k : Nat) : Nat × Nat :=
  let cut := d.cut.getD k 0
  let n := d.dim.getD k 0 / t.cutDegree cut
  (t.cutIndex a cut * n, n)

/-- Elements of a chip's slice. -/
def TensDecl.count (d : TensDecl) (t : Topo) : Nat :=
  ((List.range d.rank).map fun k => d.dim.getD k 0 / t.cutDegree (d.cut.getD k 0)).foldl (· * ·) 1

/-- Whether a tensor entry keeps R540 and R541. -/
def Img.tensorOk (g : Img) (d : TensDecl) : Bool :=
  let t := g.topo
  let used := (List.range 4).map fun k => d.cut.getD k 0
  let last := d.dim.getD (d.rank - 1) 0 / t.cutDegree (d.cut.getD (d.rank - 1) 0)
  let order := match (g.all 0x40).find? fun x => x.index == d.base % 256 with
    | some x => (x.structs.getD (d.base / 256 % 256) (0, 0)).1
    | none => 0
  decide (1 ≤ d.tid) && decide (d.fmt ≤ 0xE) && within 1 4 d.rank && decide (d.src ≤ 1) && zeroAt d.raw 12 4 &&
    decide (d.stage < t.p) && used.all (fun c => c ≤ 3 && (c == 0 || used.count c == 1)) &&
    (List.range 4).all (fun k =>
      if k < d.rank then decide (0 < d.dim.getD k 0) && d.dim.getD k 0 % t.cutDegree (d.cut.getD k 0) == 0
      else d.dim.getD k 0 == 0 && d.cut.getD k 0 == 0) &&
    (if d.src = 1 then
      d.rank == 2 && d.fmt == 0 && decide (0 < order) && d.dim.getD 0 0 == order && d.dim.getD 1 0 == order &&
        d.base < 65536
     else
      (if isBlockFmt d.fmt then last % 32 == 0 && (g.inRegion d.scale (d.count t / 32)).isSome else d.scale == 0) &&
        (g.inRegion d.base (elemBytes d.fmt (d.count t))).isSome)

/-- CHECKPOINT_DECL (R513, R514, R540, R541). -/
def Img.ckptCheck (g : Img) : Option Fail :=
  match g.one 0x60 with
  | none => none
  | some x =>
    let f : Fail := { code := 0x606, sect := x.ix }
    let noReg := (onesOf g.nosave).any fun r => g.regions.length ≤ r
    if x.len < 128 || x.len != 128 + 64 * leAt x.data 64 4 || !zeroAt x.data 68 28 || noReg ||
        !(match g.integ with | some i => g.integOk i | none => true) then some f
    else firstFail g.tensors fun k d =>
      failIf (!g.tensorOk d || (g.tensors.take k).any fun e => e.tid == d.tid) { f with entry := k, value := d.tid }

/-- LOCKSTEP_DECL (R449). -/
def Img.lockstepCheck (g : Img) : Option Fail :=
  match g.one 0x61 with
  | none => none
  | some x =>
    let t := g.topo
    let p := leAt x.data 0 1
    failIf (t.ex * t.ey * t.ez * t.pods.length != 1 || decide (18 < p) || decide (1 < leAt x.data 1 1) ||
      g.portmin.getD p 0 < 5) { code := 0x607, sect := x.ix, port := if p < 20 then p else 0xFF }

end Sys2Proof.Machine
end

