-- ==== Sys2Proof/Machine/Vector.lean ====
section
/-!
DEFINITION. The vector engine's queue: issue, execution in issue order, chain programs, faults
(R205, R225 to R233).
-/
namespace Sys2Proof.Machine

/-- What a queued operation works on now. -/
def State.vecIn (s : State) (t : TileId) (o : VecOp) (v : VInstr) (ch : Option VReg) (adv : Nat) :
    VecIn :=
  let x := s.tile t
  ⟨v, o.sregs, x.vec.regs, x.vec.masks, ch, adv, s.free⟩

/-- Remember the registers before the first write under a tag (R229). -/
def Vec.save (v : Vec) (g : Option Nat) : Vec :=
  match g with
  | none => v
  | some k => if v.undo.any fun u => u.tag == k then v
      else { v with undo := v.undo ++ [⟨k, v.regs, v.masks⟩] }

/-- An instruction's results are written. -/
def State.vecWrite (s : State) (t : TileId) (g : Option Nat) (o : VecOut) : State :=
  let s := s.modTile t fun x =>
    { x with vec := { x.vec.save g with regs := o.regs, masks := o.masks } }
  let s := o.writes.foldl (fun s w => s.tsWr t w.1 w.2) s
  { s with free := s.free + 1 }

/-- The bytes an instruction wrote, for the digest (R450). -/
def VecOut.written (o : VecOut) : List Byte := o.bytes ++ o.writes.flatMap Prod.snd

/-- One vector instruction runs: the flag it is refused with, or the state after it and what it did. -/
def State.vecRun (s : State) (t : TileId) (o : VecOp) (v : VInstr) (ch : Option VReg) (adv : Nat) :
    Except Nat (State × VecOut) :=
  let x := s.vecIn t o v ch adv
  let tl := s.tile t
  match x.fault tl.streamLo tl.streamLen with
  | some bit => .error bit
  | none =>
    let out := x.run fun a n => s.tsRd t a n
    .ok (s.vecWrite t o.hdr.tag out, out)

/-- The tile-store ranges a load, store or conversion touches, as keys. -/
def VecIn.foot (t : TileId) (x : VecIn) : List (Nat × Nat) :=
  match x.v.op with
  | .ld | .st =>
    let n := tyCount x.v.ty.toNat
    (tab n fun e => (poolBase t + (x.elemAt e).1, (x.elemAt e).2)) ++
      (if isBlockFmt x.memFmt then [(poolBase t + x.sreg x.v.vc, n / 32)] else [])
  | .xcvt =>
    let a := x.xcvtArgs
    (linearRanges a.sf a.src a.ssc a.n ++ linearRanges a.df a.dst a.dsc a.n).map
      fun p => (poolBase t + p.1, p.2)
  | _ => []

/-- Replace a queued vector operation. -/
def State.setVec (s : State) (t : TileId) (o : VecOp) : State :=
  s.modTile t fun x => { x with vec := { x.vec with
    queue := x.vec.queue.map fun p => if p.hdr.id = o.hdr.id then o else p } }

/-- Remove a queued vector operation. -/
def State.dropVec (s : State) (t : TileId) (id : Nat) : State :=
  s.modTile t fun x => { x with vec := { x.vec with
    queue := x.vec.queue.filter fun p => p.hdr.id != id } }

/-- A refused operation leaves the queue and its fault is reported when it commits (R230). -/
def State.vecFault (s : State) (t : TileId) (o : VecOp) (bit : Nat) : State :=
  ((s.dropVec t o.hdr.id).emit t o.hdr.tag (.copFault .vec bit o.hdr.id o.hdr.pc)).rimeGo t

/-- The first operation that has not finished. -/
def Vec.next (v : Vec) : Option VecOp := v.queue.find? fun o => !o.done

/-- Whether an operation may start: its waits are satisfied and the stores before it allow it. -/
def State.vecMay (s : State) (t : TileId) (o : VecOp) : Bool :=
  (s.tile t).mayStart o.hdr.wait o.hdr.id &&
    s.storesAllow t o.hdr.id ((s.vecIn t o o.v none 0).foot t)

/-- The first unfinished operation runs, if it is no chain program and may start. -/
def State.vecStep (s : State) (t : TileId) : State :=
  match (s.tile t).vec.next with
  | none => s
  | some o =>
    if o.v.op = .chain then s
    else
      let s := s.drainStores t
      if !s.vecMay t o then s
      else match s.vecRun t o o.v none 0 with
        | .error bit => s.vecFault t o bit
        | .ok (s, out) =>
          let s := s.setVec t { o with done := true }
          let s := s.emit t o.hdr.tag (.op .vec out.written out.flags 1)
          (s.modTile t Tile.settle).rimeGo t

/-- The values of all predicates. -/
def Seq.predBits (q : Seq) : BitVec 8 :=
  ofOnes 8 ((List.range 8).filter fun i => (q.pred (BitVec.ofNat 3 i)).val)

/-- Operations that wait in the vector queue (R243). -/
def Vec.waiting (v : Vec) : Nat := (v.queue.filter fun o => !o.started && !o.done).length

/-- A vector instruction joins the queue with the scalar values of its issue. -/
def State.pushVec (s : State) (t : TileId) (v : VInstr) (desc : Option ChainDesc) : State :=
  let q := (s.tile t).seq
  let o : VecOp := ⟨q.hdr v.wait, v, q.regs, q.predBits, desc, false, [], 0, false⟩
  (s.modTile t fun x => { x with vec := { x.vec with queue := x.vec.queue ++ [o] } }).retireNext t []

/-- A vector instruction of operation `op` issues (R205, R229, R241): with `eager` the engine runs it
in the same step when nothing earlier is unfinished and it may start. VST and VXCVT are held under a
tag. -/
def State.vecOp (s : State) (t : TileId) (eager : Bool) (op : VOp) : Res :=
  s.issueCop t (fun i => match i with | .vec v => if v.op = op then some v else none | _ => none)
    (fun x => decide (32 ≤ x.vec.waiting))
    fun s v =>
      let x := s.tile t
      if (op = .st || op = .xcvt) && x.seq.tag.isSome then none
      else
        let idle := x.vec.next.isNone
        let s := s.pushVec t v none
        some (if eager && idle then s.vecStep t else s)

/-- Issue of the vector operation `add`. -/
def execVecAdd (t : TileId) (eager : Bool) (s : State) : Res := s.vecOp t eager .add
/-- Issue of the vector operation `sub`. -/
def execVecSub (t : TileId) (eager : Bool) (s : State) : Res := s.vecOp t eager .sub
/-- Issue of the vector operation `mul`. -/
def execVecMul (t : TileId) (eager : Bool) (s : State) : Res := s.vecOp t eager .mul
/-- Issue of the vector operation `fma`. -/
def execVecFma (t : TileId) (eager : Bool) (s : State) : Res := s.vecOp t eager .fma
/-- Issue of the vector operation `max`. -/
def execVecMax (t : TileId) (eager : Bool) (s : State) : Res := s.vecOp t eager .max
/-- Issue of the vector operation `min`. -/
def execVecMin (t : TileId) (eager : Bool) (s : State) : Res := s.vecOp t eager .min
/-- Issue of the vector operation `abs`. -/
def execVecAbs (t : TileId) (eager : Bool) (s : State) : Res := s.vecOp t eager .abs
/-- Issue of the vector operation `neg`. -/
def execVecNeg (t : TileId) (eager : Bool) (s : State) : Res := s.vecOp t eager .neg
/-- Issue of the vector operation `iadd`. -/
def execIadd (t : TileId) (eager : Bool) (s : State) : Res := s.vecOp t eager .iadd
/-- Issue of the vector operation `isub`. -/
def execIsub (t : TileId) (eager : Bool) (s : State) : Res := s.vecOp t eager .isub
/-- Issue of the vector operation `iand`. -/
def execIand (t : TileId) (eager : Bool) (s : State) : Res := s.vecOp t eager .iand
/-- Issue of the vector operation `ior`. -/
def execIor (t : TileId) (eager : Bool) (s : State) : Res := s.vecOp t eager .ior
/-- Issue of the vector operation `ixor`. -/
def execIxor (t : TileId) (eager : Bool) (s : State) : Res := s.vecOp t eager .ixor
/-- Issue of the vector operation `ishl`. -/
def execIshl (t : TileId) (eager : Bool) (s : State) : Res := s.vecOp t eager .ishl
/-- Issue of the vector operation `ishr`. -/
def execIshr (t : TileId) (eager : Bool) (s : State) : Res := s.vecOp t eager .ishr
/-- Issue of the vector operation `isra`. -/
def execIsra (t : TileId) (eager : Bool) (s : State) : Res := s.vecOp t eager .isra
/-- Issue of the vector operation `cmp`. -/
def execVcmp (t : TileId) (eager : Bool) (s : State) : Res := s.vecOp t eager .cmp
/-- Issue of the vector operation `mand`. -/
def execMand (t : TileId) (eager : Bool) (s : State) : Res := s.vecOp t eager .mand
/-- Issue of the vector operation `mor`. -/
def execMor (t : TileId) (eager : Bool) (s : State) : Res := s.vecOp t eager .mor
/-- Issue of the vector operation `mxor`. -/
def execMxor (t : TileId) (eager : Bool) (s : State) : Res := s.vecOp t eager .mxor
/-- Issue of the vector operation `mnot`. -/
def execMnot (t : TileId) (eager : Bool) (s : State) : Res := s.vecOp t eager .mnot
/-- Issue of the vector operation `trans`. -/
def execVtrans (t : TileId) (eager : Bool) (s : State) : Res := s.vecOp t eager .trans
/-- Issue of the vector operation `bcr`. -/
def execVbcr (t : TileId) (eager : Bool) (s : State) : Res := s.vecOp t eager .bcr
/-- Issue of the vector operation `bcc`. -/
def execVbcc (t : TileId) (eager : Bool) (s : State) : Res := s.vecOp t eager .bcc
/-- Issue of the vector operation `perm`. -/
def execVperm (t : TileId) (eager : Bool) (s : State) : Res := s.vecOp t eager .perm
/-- Issue of the vector operation `cvt`. -/
def execVcvt (t : TileId) (eager : Bool) (s : State) : Res := s.vecOp t eager .cvt
/-- Issue of the vector operation `rcp`. -/
def execRcp (t : TileId) (eager : Bool) (s : State) : Res := s.vecOp t eager .rcp
/-- Issue of the vector operation `div`. -/
def execVecDiv (t : TileId) (eager : Bool) (s : State) : Res := s.vecOp t eager .div
/-- Issue of the vector operation `sqrt`. -/
def execVecSqrt (t : TileId) (eager : Bool) (s : State) : Res := s.vecOp t eager .sqrt
/-- Issue of the vector operation `rsqrt`. -/
def execRsqrt (t : TileId) (eager : Bool) (s : State) : Res := s.vecOp t eager .rsqrt
/-- Issue of the vector operation `exp`. -/
def execExp (t : TileId) (eager : Bool) (s : State) : Res := s.vecOp t eager .exp
/-- Issue of the vector operation `exp2`. -/
def execExp2 (t : TileId) (eager : Bool) (s : State) : Res := s.vecOp t eager .exp2
/-- Issue of the vector operation `log`. -/
def execLog (t : TileId) (eager : Bool) (s : State) : Res := s.vecOp t eager .log
/-- Issue of the vector operation `log2`. -/
def execLog2 (t : TileId) (eager : Bool) (s : State) : Res := s.vecOp t eager .log2
/-- Issue of the vector operation `sin`. -/
def execSin (t : TileId) (eager : Bool) (s : State) : Res := s.vecOp t eager .sin
/-- Issue of the vector operation `cos`. -/
def execCos (t : TileId) (eager : Bool) (s : State) : Res := s.vecOp t eager .cos
/-- Issue of the vector operation `tanh`. -/
def execTanh (t : TileId) (eager : Bool) (s : State) : Res := s.vecOp t eager .tanh
/-- Issue of the vector operation `lgst`. -/
def execLgst (t : TileId) (eager : Bool) (s : State) : Res := s.vecOp t eager .lgst
/-- Issue of the vector operation `erf`. -/
def execErf (t : TileId) (eager : Bool) (s : State) : Res := s.vecOp t eager .erf
/-- Issue of the vector operation `rsum`. -/
def execVrsum (t : TileId) (eager : Bool) (s : State) : Res := s.vecOp t eager .rsum
/-- Issue of the vector operation `rssq`. -/
def execVrssq (t : TileId) (eager : Bool) (s : State) : Res := s.vecOp t eager .rssq
/-- Issue of the vector operation `topk`. -/
def execVtopk (t : TileId) (eager : Bool) (s : State) : Res := s.vecOp t eager .topk
/-- Issue of the vector operation `ld`. -/
def execVld (t : TileId) (eager : Bool) (s : State) : Res := s.vecOp t eager .ld
/-- Issue of the vector operation `st`. -/
def execVst (t : TileId) (eager : Bool) (s : State) : Res := s.vecOp t eager .st
/-- Issue of the vector operation `xcvt`. -/
def execVxcvt (t : TileId) (eager : Bool) (s : State) : Res := s.vecOp t eager .xcvt

/-- A queued vector instruction starts and completes (R205, R245). -/
def execVectorInstrComplete (t : TileId) (s : State) : Res := .next (s.vecStep t)

/-! ### Chain programs -/

/-- The fields of a chain-program descriptor (R227). -/
def ChainDesc.ofBytes (b : List Byte) : ChainDesc where
  rows := leAt b 0 4
  ninst := leAt b 4 1
  paddr := leAt b 8 4
  adv := tab 12 fun i => leAt b (16 + 4 * i) 4
  resv := leAt b 5 3 != 0 || leAt b 12 4 != 0

/-- VCHAIN (R227, R229, R244): its descriptor is read, and it joins the queue; held under a tag. -/
def execVchain (t : TileId) (s : State) : Res :=
  s.issueCop t
    (fun i => match i with | .vec v => if v.op = .chain then some v else none | _ => none)
    (fun x => decide (32 ≤ x.vec.waiting))
    fun s v =>
      let q := (s.tile t).seq
      if q.tag.isSome then none
      else match s.descriptor t (q.sreg v.va) 64 64 with
        | .error f => some (s.issueFault t f)
        | .ok b => some (s.pushVec t v (some (ChainDesc.ofBytes b)))

/-- The program as it is read when the VCHAIN starts (R244): none where a word is no vector
instruction a program may hold. -/
def chainProgram (preds : BitVec 8) (adv : List Nat) : List Word → Nat → Option (List ChainIns)
  | [], _ => some []
  | w :: ws, k =>
    match decodeIns w with
    | some (.vec v) =>
      if v.op = .chain || v.op = .xcvt then none
      else
        let mem := v.op = .ld || v.op = .st
        match chainProgram preds adv ws (if mem then k + 1 else k) with
        | some l => some (⟨v, preds.getLsbD (fPg w).toNat != fPn w, if mem then adv.getD k 0 else 0⟩ :: l)
        | none => none
    | _ => none

/-- Whether an instruction names the source CH (R227). -/
def VInstr.usesCh (v : VInstr) : Bool :=
  v.ch && match v.op with
    | .mand | .mor | .mxor | .mnot | .trans | .bcr | .bcc | .perm | .cvt | .rsum | .rssq | .topk
    | .ld | .st | .xcvt | .chain => false
    | _ => true

/-- A VCHAIN starts: its descriptor and program are checked, the lowest flag first (R227, R230). -/
def State.chainStart (s : State) (t : TileId) (o : VecOp) (d : ChainDesc) : Except Nat VecOp :=
  if d.resv then .error 0
  else if !inStore d.paddr (8 * d.ninst) then .error 2
  else if d.rows == 0 || 2 ^ 20 < d.rows || d.ninst == 0 || 16 < d.ninst || d.paddr % 8 != 0 then .error 4
  else
    let words := tab d.ninst fun i => BitVec.ofNat 64 (leNat (s.tsRd t (d.paddr + 8 * i) 8))
    match chainProgram o.preds d.adv words 0 with
    | none => .error 4
    | some p =>
      if (p.filter fun i => i.v.usesCh).length != 1 then .error 4
      else .ok { o with started := true, prog := p }

/-- The instructions of one iteration in order. -/
def State.chainRun (t : TileId) (o : VecOp) (ch : VReg) : List ChainIns → State → Flags → List Byte →
    Except Nat (State × Flags × List Byte)
  | [], s, fl, bs => .ok (s, fl, bs)
  | i :: l, s, fl, bs =>
    if i.on then
      match s.vecRun t o i.v (some ch) (o.iter * i.adv) with
      | .error bit => .error bit
      | .ok (s, out) => State.chainRun t o ch l s (fl ||| out.flags) (bs ++ out.written)
    else State.chainRun t o ch l s fl bs

/-- One iteration of the chain program at the head of the queue (R227, R228, R230), once the head
chained row is available. -/
def execChainIteration (t : TileId) (s : State) : Res :=
  match (s.tile t).vec.next with
  | none => .next s
  | some o =>
    match o.desc with
    | none => .next s
    | some d =>
      let s := s.drainStores t
      if !s.vecMay t o then .next s
      else match if o.started then .ok o else s.chainStart t o d with
        | .error bit => .next (s.vecFault t o bit)
        | .ok o =>
          let s := s.setVec t o
          match (s.tile t).vec.chainQ with
          | [] => .next s
          | c :: rest =>
            match State.chainRun t o c.vals o.prog s 0 [] with
            | .error bit =>
              let s := s.modTile t fun x =>
                { x with vec := { x.vec with fiter := BitVec.ofNat 20 o.iter } }
              .next (s.vecFault t o bit)
            | .ok (s, fl, bs) =>
              let s := s.modTile t fun x => { x with vec := { x.vec with chainQ := rest } }
              let o := { o with iter := o.iter + 1, done := decide (d.rows ≤ o.iter + 1) }
              let s := (s.setVec t o).emit t none (.op .vec bs fl d.ninst)
              .next ((s.modTile t Tile.settle).rimeGo t)

end Sys2Proof.Machine
end

