-- ==== Sys2Proof/Machine/Program.lean ====
section
/-!
DEFINITION. The loader's checks of programs and schedules (R471 codes 0x0404 to 0x0505): rime sample
space, Serac store, illegal instructions, static descriptors, operand shapes, schedules, link load.
-/
namespace Sys2Proof.Machine

/-! ### Streams -/

/-- One instruction of a stream: its word, whether a guard may skip it, and what it decodes to. -/
structure PIns where
  word    : Word
  guarded : Bool
  ins     : Option SInstr
  deriving DecidableEq, Repr

/-- A tile's program as its TILE_CODE section gives it. -/
structure Prog where
  sect  : Nat
  tile  : Nat
  base  : Nat
  entry : Nat
  ins   : List PIns
  deriving DecidableEq, Repr

/-- The program of a TILE_CODE section. -/
def Sect.prog (x : Sect) : Prog :=
  let one (b : List Byte) : PIns :=
    let w : Word := BitVec.ofNat 64 (leNat b)
    ⟨w, fPg w != 0 || fPn w, decodeIns w⟩
  ⟨x.ix, x.index, x.dest, leAt x.data 0 4, (entries (x.data.drop 16) 8).map one⟩

/-- The programs of an image, in section order. -/
def Img.progs (g : Img) : List Prog := (g.all 0x10).map Sect.prog

/-- The coprocessor class of an instruction (R465). -/
def SInstr.cls : SInstr → Option Nat
  | .mpass .. | .epi .. => some 0
  | .vec _ => some 1
  | .rcfg .. | .rbind .. | .rdrain .. => some 2
  | .dma .. => some 3
  | _ => none

/-- Whether a guard that skips an instruction changes what the loader's walks follow: a coprocessor operation, a phase
change, or where the stream goes on. -/
def SInstr.steers : SInstr → Bool
  | .br .. | .jal .. | .jr _ | .stop | .phase _ => true
  | i => i.cls.isSome

/-- The instruction index that an offset in instructions from index `i` names. -/
def jumpTo (i : Nat) (off : BitVec 32) : Option Nat :=
  let j := (i : Int) + off.toInt
  if 0 ≤ j then some j.toNat else none

/-- What every run of a stream executes from index `i` on, up to the first branch, indirect jump or guarded
instruction that decides something; and whether that is the whole run. -/
def Prog.runFrom (p : Prog) : Nat → Nat → List (Nat × SInstr) × Bool
  | 0, _ => ([], false)
  | n + 1, i =>
    match p.ins[i]? with
    | none => ([], false)
    | some x => match x.ins with
      | none => ([], true)
      | some ins =>
        if fPg x.word == 0 && fPn x.word then p.runFrom n (i + 1)
        else if x.guarded then (if ins.steers then ([], false) else p.runFrom n (i + 1))
        else match ins with
          | .br .. | .jr _ => ([], false)
          | .stop => ([], true)
          | .jal _ off => match jumpTo i off with | some j => p.runFrom n j | none => ([], false)
          | _ => let r := p.runFrom n (i + 1); ((i, ins) :: r.1, r.2)

/-- What every run of a program executes, and whether that is the whole run. -/
def Prog.run (p : Prog) : List (Nat × SInstr) × Bool :=
  if p.base ≤ p.entry && (p.entry - p.base) % 8 == 0 then p.runFrom (2 * p.ins.length + 1) ((p.entry - p.base) / 8)
  else ([], false)

/-- Whether some instruction of a program satisfies a test. -/
def Prog.has (p : Prog) (f : SInstr → Bool) : Bool :=
  p.ins.any fun i => match i.ins with | some x => f x | none => false

/-- WAITC of a coprocessor instruction or a FENCE.CO. -/
def SInstr.waits : SInstr → BitVec 4
  | .mpass _ w _ | .epi _ w _ | .rcfg _ w _ | .rdrain _ w _ _ | .dma _ w _ => w
  | .rbind w .. => w
  | .vec v => v.wait
  | .fenceCo w => w
  | _ => 0

/-! ### Static descriptors -/

/-- The byte that the TILE_DATA sections load at a local address of a tile. -/
def Img.tileByte (g : Img) (t a : Nat) : Option Byte :=
  (((g.all 0x11).filter fun x => x.index == t && x.dest ≤ a && a < x.dest + x.len).getLast?).bind fun x =>
    x.data[a - x.dest]?

/-- The bytes at `[a, a + n)` when one TILE_DATA section covers them all. DESIGN CHOICE (log 146): a descriptor is static
when an instruction names it through s0, which reads 0, and it lies whole in one TILE_DATA section. -/
def Img.tileBytes (g : Img) (t a n : Nat) : Option (List Byte) :=
  if (g.all 0x11).any fun x => x.index == t && x.dest ≤ a && decide (a + n ≤ x.dest + x.len) then
    some (tab n fun i => (g.tileByte t (a + i)).getD 0)
  else none

/-- The address and size of the descriptor that an instruction names through s0 (log 146). -/
def SInstr.descAt : SInstr → Option (Nat × Nat)
  | .mpass sa _ off | .rcfg sa _ off => if sa = 0 then some ((ext32 off).toNat, 32) else none
  | .epi sa _ off | .dma sa _ off => if sa = 0 then some ((ext32 off).toNat, 64) else none
  | .vec v => if v.op = .chain && v.va == 0 then some (0, 64) else none
  | _ => none

/-- The bytes of an instruction's static descriptor. -/
def Img.static (g : Img) (t : Nat) (i : SInstr) : Option (List Byte) :=
  i.descAt.bind fun a => g.tileBytes t a.1 a.2

/-- The static pass descriptor of an instruction. -/
def Img.staticPass (g : Img) (t : Nat) (i : SInstr) : Option PassDesc :=
  match i with
  | .mpass .. => (g.static t i).map PassDesc.ofBytes
  | _ => none

/-- An MX pass that fails R81 only by a KX that is no multiple of 32, which R49 gives a code of its own. -/
def PassDesc.onlyMxK (d : PassDesc) (w : Nat) : Bool :=
  isMxFmt d.sfmt && d.kx % 32 != 0 && ({ d with kx := cdiv d.kx 32 * 32 } : PassDesc).check w == none

/-- The pass that a bound EPI at index `k` binds to (R121); where the text does not decide it, one that
suits it. -/
def Img.boundAt (g : Img) (p : Prog) (k : Nat) : Option LastMat :=
  let free : LastMat := ⟨0, true, 1, 0⟩
  let run := p.run.1
  let before : List SInstr := (run.takeWhile fun i => i.1 != k).map Prod.snd
  if !run.any (fun i => i.1 == k) then some free
  else match before.reverse.find? fun i => i.cls == some 0 with
    | some (.mpass sa w off) => match g.staticPass p.tile (.mpass sa w off) with
      | some d => some ⟨0, d.acc == 2, d.m, d.accRow⟩
      | none => some free
    | _ => none

/-- Whether a static chain program breaks R227. -/
def Img.chainBad (g : Img) (t : Nat) (d : ChainDesc) : Bool :=
  d.resv || d.rows == 0 || 2 ^ 20 < d.rows || d.ninst == 0 || 16 < d.ninst || d.paddr % 8 != 0 ||
    match g.tileBytes t d.paddr (8 * d.ninst) with
    | some b => match chainProgram 0xFF d.adv ((entries b 8).map fun e => BitVec.ofNat 64 (leNat e)) 0 with
      | some l => (l.filter fun i => i.v.usesCh).length != 1
      | none => true
    | none => false

/-- Whether the 49,600 bytes at an address lie in a statistic region of the image (R152). -/
def Img.inStat (g : Img) (a : Nat) : Bool :=
  match g.inRegion a 49600 with | some r => r.kind == 2 | none => false

/-- DESCRIPTOR for the instruction at index `k`; `w` is the tile's presented width. Of R158 it takes what the text alone
decides: the descriptor and its address, and an RBIND of one slot to both halves. -/
def Img.descBad (g : Img) (p : Prog) (w k : Nat) (i : SInstr) : Bool :=
  match i with
  | .rbind _ bEn slotB aEn slotA => aEn && bEn && slotA.toFin == slotB.toFin
  | .rdrain sa _ _ off => sa == 0 && ((ext32 off).toNat % 64 != 0 || !g.inStat (ext32 off).toNat)
  | .rcfg sa _ off => (sa == 0 && (ext32 off).toNat % 32 != 0) || match g.static p.tile i with
    | none => false
    | some b => (RimeDesc.ofBytes b).check != none
  | _ => match g.static p.tile i with
    | none => false
    | some b => match i with
      | .mpass .. => (PassDesc.ofBytes b).check w != none && !(PassDesc.ofBytes b).onlyMxK w
      | .epi .. =>
        let d := EpiDesc.ofBytes b
        let e : EpiOp := ⟨⟨0, none, 0, 0⟩, d, if d.bind then g.boundAt p k else none, false, 0, false, [], 0⟩
        e.check w != none
      | .dma .. => (DmaDesc.ofBytes b).check != none
      | _ => g.chainBad p.tile (ChainDesc.ofBytes b)

/-! ### RIME_SAMPLE_SPACE (R142) -/

/-- What a walk of a straight stream knows: the phase kind, the binding, and each configured slot's
descriptor with the rows of its open epoch. -/
structure RimeWalk where
  kind  : Nat
  bind  : RimeBind
  slots : List (RimeDesc × Nat)
  deriving DecidableEq, Repr

/-- Rows observed by one slot; the samples needed when they are more than SPLEN (R138, R142). -/
def RimeWalk.observe (r : RimeWalk) (k : Fin 4) (m : Nat) : RimeWalk :=
  { r with slots := r.slots.map fun e =>
      if e.1.slot = k && e.1.kind == (r.kind == 1) then (e.1, e.2 + m) else e }

/-- A slot of a walk whose rows need more samples than it holds. -/
def RimeWalk.excess (r : RimeWalk) : Option (Nat × Nat) :=
  (r.slots.find? fun e => decide (e.1.splen < cdiv e.2 (2 ^ e.1.dlog))).map fun e =>
    (cdiv e.2 (2 ^ e.1.dlog), e.1.splen)

/-- One instruction of a run; none where its static descriptor is not known. -/
def Img.rimeStep (g : Img) (t : Nat) (r : RimeWalk) (i : SInstr) : Option RimeWalk :=
  match i with
  | .phase id => some { r with kind := (g.phases.getD id.toNat (0xFF, 0)).1 }
  | .rbind _ bEn slotB aEn slotA => some { r with bind := ⟨aEn, slotA.toFin, bEn, slotB.toFin⟩ }
  | .rdrain _ _ slot _ => some { r with slots := r.slots.map fun e => if e.1.slot = slot.toFin then (e.1, 0) else e }
  | .rcfg .. => (g.static t i).map fun b =>
      let d := RimeDesc.ofBytes b
      { r with slots := (d, 0) :: r.slots.filter fun e => e.1.slot != d.slot }
  | .mpass .. => match g.staticPass t i with
    | some d =>
      if d.rime && r.kind ≤ 1 then
        let r := if r.bind.aEn then r.observe r.bind.slotA d.m else r
        some (if d.deep && r.bind.bEn then r.observe r.bind.slotB d.m else r)
      else some r
    | none => if r.kind ≤ 1 && (r.bind.aEn || r.bind.bEn) then none else some r
  | _ => some r

/-- Walk a run: its failure, and whether every instruction of it was known. -/
def Img.rimeWalk (g : Img) (p : Prog) : RimeWalk → List (Nat × SInstr) → Option Fail × Bool
  | _, [] => (none, true)
  | r, (k, i) :: l =>
    match g.rimeStep p.tile r i with
    | none => (none, false)
    | some r => match r.excess with
      | some (v, m) => (some { code := 0x404, sect := p.sect, entry := k, tile := p.tile, value := v, limit := m }, true)
      | none => g.rimeWalk p r l

/-- RIME_SAMPLE_SPACE: exact on what every run executes; the row counts of what a branch or a register decides are
Config's, asked only of a stream that configures a slot. -/
def Img.rimeCheck (g : Img) : Option Fail :=
  let walk (p : Prog) : Option Fail × Bool := g.rimeWalk p ⟨(g.phases.getD 0 (0xFF, 0)).1, .none, []⟩ p.run.1
  let rcfg (i : SInstr) : Bool := match i with | .rcfg .. => true | _ => false
  match g.progs.findSome? fun p => (walk p).1 with
  | some f => some f
  | none => failIf (g.progs.any (fun p => !(p.run.2 && (walk p).2) && p.has rcfg) && Config.breaks 142 g.data)
      { code := 0x404 }

/-! ### SERAC_STORE (R170) -/

/-- Store words and diagonal words of `k` slots of order `n`. -/
def slotWords (n k : Nat) : Nat × Nat := (k * (n * (n - 1) / 2), k * n)

/-- The words a command takes beside its structure's own slots (R170): for LDLT one slot more on a structure with
RESPUB set. -/
def SerDesc.words (d : SerDesc) (n : Nat) (respub : Bool) : Nat × Nat :=
  if d.batch then (32768, 0)
  else match d.opc with
    | 2 => slotWords n 1
    | 3 => slotWords n (if respub then 3 else 2)
    | 5 => slotWords n 2
    | 4 => (n * d.count, 0)
    | 6 | 7 => slotWords n 5
    | _ => (0, 0)

/-- Whether two commands of one list may run at once (R172, R173): no engine in common, some step in which both run,
and no structure in common, except that a FEED may run beside a command that has read W. -/
def SerDesc.together (a b : SerDesc) : Bool :=
  a.engmask &&& b.engmask == 0 && a.phase % Nat.gcd a.period b.period == b.phase % Nat.gcd a.period b.period &&
    (a.batch || b.batch || a.struct != b.struct || (a.opc == 1) != (b.opc == 1))

/-- The sets of commands that may run at once, each with its words. -/
def busySets : List (SerDesc × (Nat × Nat)) → List (SerDesc × (Nat × Nat)) → List (List (SerDesc × (Nat × Nat)))
  | [], l => [l]
  | c :: cs, l => busySets cs l ++ (if l.all fun e => c.1.together e.1 then busySets cs (c :: l) else [])

/-- The greatest words that commands running at once take. -/
def busyWords (cmds : List (SerDesc × (Nat × Nat))) : Nat × Nat :=
  let sums := (busySets cmds []).map fun l => ((l.map fun e => e.2.1).sum, (l.map fun e => e.2.2).sum)
  ((sums.map Prod.fst).foldl max 0, (sums.map Prod.snd).foldl max 0)

/-- SERAC_STORE: the slots of the structures and of every set of commands that may run at once. -/
def Img.serStoreCheck (g : Img) : Option Fail :=
  (g.all 0x40).findSome? fun x =>
    let sum (l : List (Nat × Nat)) : Nat × Nat := ((l.map Prod.fst).sum, (l.map Prod.snd).sum)
    let base := sum (x.structs.map fun o => slotWords o.1 (if o.2.testBit 0 then 2 else 1))
    let cmds := (entries x.serList 64).map fun e =>
      let d := SerDesc.ofBytes e
      let o := x.structs.getD d.struct (0, 0)
      (d, d.words o.1 (o.2.testBit 0))
    let w := busyWords cmds
    let fail (v m : Nat) : Fail := { code := 0x405, sect := x.ix, cluster := x.index, value := v, limit := m }
    if 4194304 < base.1 + w.1 then some (fail (base.1 + w.1) 4194304)
    else if 8192 < base.2 + w.2 then some (fail (base.2 + w.2) 8192) else none

/-! ### ILLEGAL_INSTR, DESCRIPTOR, OPERAND_SHAPE -/

/-- The first instruction of the programs that fails a check. -/
def Img.perIns (g : Img) (code : Nat) (bad : Prog → Nat → PIns → Bool) : Option Fail :=
  g.progs.findSome? fun p => firstFail p.ins fun k i =>
    failIf (bad p k i) { code := code, sect := p.sect, entry := k, tile := p.tile, value := i.word.toNat }

/-- ILLEGAL_INSTR (R242, R464). -/
def Img.illegalCheck (g : Img) : Option Fail :=
  g.perIns 0x501 fun _ _ i => match i.ins with
    | none => true
    | some (.phase id) => (g.phases.getD id.toNat (0xFF, 0)).1 == 0xFF
    | some _ => false

/-- DESCRIPTOR. -/
def Img.descCheck (g : Img) (s : State) : Option Fail :=
  let widths := s.tiles.toList.map fun x => x.width.toNat
  g.perIns 0x502 fun p k i => match i.ins with
    | some ins => g.descBad p (widths.getD p.tile 0) k ins
    | none => false

/-- What is left of a row range outside `[lo, hi)`. -/
def cutRows (lo hi : Nat) (c : Nat × Nat × Bool) : List (Nat × Nat × Bool) :=
  [(c.1, min c.2.1 lo, c.2.2), (max c.1 hi, c.2.1, c.2.2)].filter fun r => decide (r.1 < r.2.1)

/-- A pass joins the open accumulations (rows from, rows to, whether the last pass into them has the full KX), and
whether it adds to one whose last pass has not (R79). -/
def PassDesc.join (d : PassDesc) (live : List (Nat × Nat × Bool)) : Bool × List (Nat × Nat × Bool) :=
  let lo := d.accRow
  let hi := d.accRow + d.m
  let full := d.kx == (if d.deep then 256 else 128)
  (d.acc == 1 && live.any (fun c => decide (c.1 < hi ∧ lo < c.2.1) && !c.2.2),
   if d.acc ≤ 1 then (lo, hi, full) :: live.flatMap (cutRows lo hi) else live)

/-- The first pass of a run that breaks R79's full KX, and whether every operation that writes accumulator rows was
known. A restore of spilled rows brings back another accumulation, of which nothing is known (R111). -/
def Img.shortPass (g : Img) (t : Nat) : List (Nat × Nat × Bool) → List (Nat × SInstr) → Option Nat × Bool
  | _, [] => (none, true)
  | live, (k, i) :: l =>
    match i with
    | .mpass .. => match g.staticPass t i with
      | some d => if (d.join live).1 then (some k, true) else g.shortPass t (d.join live).2 l
      | none => ((g.shortPass t [] l).1, false)
    | .dma .. => match (g.static t i).map DmaDesc.ofBytes with
      | some d =>
        if d.kind = 5 then
          ((g.shortPass t (live.flatMap (cutRows d.dst (d.dst + d.cnt1))) l).1, false)
        else g.shortPass t live l
      | none => ((g.shortPass t [] l).1, false)
    | _ => g.shortPass t live l

/-- Whether an instruction may be an ADD pass: a static one that is, or one whose descriptor is not known. -/
def Img.mayAdd (g : Img) (t : Nat) (i : SInstr) : Bool :=
  match i with
  | .mpass .. => match g.staticPass t i with | some d => d.acc == 1 | none => true
  | _ => false

/-- OPERAND_SHAPE: R49 and R101 for every static pass; R79's full KX on what every run executes. R79's K order, which
no descriptor states, and what a branch or a register decides are Config's, asked only where some pass may add. -/
def Img.shapeCheck (g : Img) : Option Fail :=
  let limit (d : PassDesc) : Nat := if d.a96 then g.minWidth / 2 else g.minWidth
  match g.perIns 0x503 fun p k i =>
    (match i.ins.bind (g.staticPass p.tile) with
      | some d => decide (limit d < d.nx) || (isMxFmt d.sfmt && d.kx % 32 != 0)
      | none => false) || (g.shortPass p.tile [] p.run.1).1 == some k with
  | some f => some f
  | none => failIf (g.progs.any (fun p => p.has (g.mayAdd p.tile)) && Config.breaks 79 g.data) { code := 0x503 }

/-! ### SCHEDULE_DEPENDENCY (R246, R465, R472, R521) -/

/-- An entry of a TILE_SCHED section (R465). -/
structure SchedEnt where
  pc    : Nat
  first : Nat
  last  : Nat
  cls   : Nat
  desc  : Nat
  rd    : Nat × Nat
  wr    : Nat × Nat
  zero  : Bool
  deriving DecidableEq, Repr

/-- The fields of an entry. -/
def SchedEnt.ofBytes (b : List Byte) : SchedEnt where
  pc := leAt b 0 4
  first := leAt b 4 4
  last := leAt b 8 4
  cls := leAt b 12 1
  desc := leAt b 13 1
  rd := (leAt b 16 4, leAt b 20 4)
  wr := (leAt b 24 4, leAt b 28 4)
  zero := zeroAt b 14 2

/-- Whether two entries touch common bytes with at least one of them writing (R472). -/
def SchedEnt.conflicts (a b : SchedEnt) : Bool :=
  let m (x y : Nat × Nat) : Bool := meets x.1 x.2 y.1 y.2
  m a.wr b.wr || m a.wr b.rd || m a.rd b.wr

/-- The instructions that may follow the one at index `i`. -/
def Prog.succ (p : Prog) (i : Nat) : List Nat :=
  let n := p.ins.length
  let dest (off : BitVec 32) : List Nat := (jumpTo i off).toList
  let next : List Nat := match p.ins[i]? with
    | some x =>
      let skip := if x.guarded then [i + 1] else []
      if fPg x.word == 0 && fPn x.word then [i + 1]
      else match x.ins with
        | some (.br _ _ _ off) => (i + 1) :: dest off
        | some (.jal _ off) => dest off ++ skip
        | some (.jr _) => List.range n
        | some .stop => skip
        | _ => [i + 1]
    | none => []
  next.filter (· < n)

/-- The indices reached from a frontier, at most `fuel` of them expanded. -/
def reachFrom (succ : Nat → List Nat) : Nat → List Nat → List Nat → List Nat
  | 0, seen, _ => seen
  | _, seen, [] => seen
  | n + 1, seen, i :: fr =>
    let new := ((succ i).filter fun j => !seen.contains j).eraseDups
    reachFrom succ n (new ++ seen) (new ++ fr)

/-- Whether the instruction at index `j` names class `ce` in its WAITC or is a FENCE.CO that names it (R472). -/
def Prog.names (p : Prog) (ce j : Nat) : Bool :=
  match p.ins[j]? with
  | some ⟨_, _, some i⟩ => i.waits.toNat.testBit ce
  | _ => false

/-- Whether some path leads from the operation at `e` to the one at `l` with nothing that orders them (R472): no WAITC
and no FENCE.CO that names the earlier class `ce`, on the later operation itself or between on a path that no guard
skips. -/
def Prog.unordered (p : Prog) (ce e l : Nat) : Bool :=
  let sure (j : Nat) : Bool := match p.ins[j]? with | some x => !x.guarded | none => false
  let succ (j : Nat) : List Nat := if sure j && p.names ce j then [] else p.succ j
  !p.names ce l && (reachFrom succ (p.ins.length + 1) (p.succ e) (p.succ e)).contains l

/-- The index of the instruction at an address. -/
def Prog.at (p : Prog) (pc : Nat) : Option Nat :=
  if p.base ≤ pc && (pc - p.base) % 8 == 0 && decide ((pc - p.base) / 8 < p.ins.length) then
    some ((pc - p.base) / 8) else none

/-- Whether slots `[a, b]` meet the test window (R521). -/
def Img.inWindow (g : Img) (a b : Nat) : Bool :=
  match g.integ with
  | some i => decide (0 < i.testlen ∧ a < i.teststart + i.testlen ∧ i.teststart ≤ b)
  | none => false

/-- A TILE_SCHED section: the form of R465, the test window, and the pairs of R246 and R472. -/
def Img.schedSect (g : Img) (x : Sect) : Option Fail :=
  let p : Prog := match g.progs.find? fun p => p.tile == x.index with
    | some p => p
    | none => ⟨0xFFFF, x.index, 0, 0, []⟩
  let l := (entries x.data 32).map SchedEnt.ofBytes
  let f : Fail := { code := 0x504, sect := x.ix, tile := x.index }
  let insOf (e : SchedEnt) : Option SInstr := ((p.at e.pc).bind fun i => p.ins[i]?).bind fun i => i.ins
  let form (k : Nat) (e : SchedEnt) : Bool := match insOf e with
    | some i => i.cls == some e.cls && e.zero && e.desc == (g.static x.index i).isSome.toNat &&
        decide (e.first ≤ e.last) && !(l.take k).any fun o => o.pc == e.pc
    | none => false
  let cops := (List.range p.ins.length).filter fun i =>
    match p.ins[i]?.bind fun i => i.ins with | some i => i.isCop | none => false
  let clash (e o : SchedEnt) : Bool := match p.at e.pc, p.at o.pc with
    | some i, some j => e.cls != o.cls && e.conflicts o && !decide (e.last < o.first ∨ o.last < e.first) &&
        p.unordered e.cls i j
    | _, _ => false
  if x.len % 32 != 0 then some f
  else match firstFail l fun k e => failIf (!form k e || g.inWindow e.first e.last || l.any fun o => clash o e)
      { f with entry := k, value := e.pc } with
    | some f => some f
    | none => (cops.find? fun i => !l.any fun e => e.pc == p.base + 8 * i).map fun i => { f with value := p.base + 8 * i }

/-- The entry of an image's schedule for an instruction of a tile. -/
def Img.schedOf (g : Img) (p : Prog) (k : Nat) : Option SchedEnt :=
  ((g.all 0x12).find? fun x => x.index == p.tile).bind fun x =>
    ((entries x.data 32).map SchedEnt.ofBytes).find? fun e => e.pc == p.base + 8 * k

/-- Whether a static COPY writes a byte of `[a, a + n)`. -/
def DmaDesc.copyMeets (d : DmaDesc) (a n : Nat) : Bool :=
  (List.range d.units).any fun j => meets (d.copyDst j).1 (d.copyDst j).2 a n

/-- Whether a DMA operation at index `k` of a program contributes to `[a, a + n)`: in no slot before `start`, or not
known (R25). -/
def Img.contributes (g : Img) (p : Prog) (a n start k : Nat) (i : SInstr) : Bool × Bool :=
  match i with
  | .dma .. => match (g.static p.tile i).map DmaDesc.ofBytes with
    | some d =>
      if d.kind = 0 then
        if d.copyMeets a n then
          match g.schedOf p k with | some e => (decide (start ≤ e.last), false) | none => (false, true)
        else (false, false)
      else (false, decide (d.kind < 5))
    | none => (false, true)
  | _ => (false, false)

/-- R25 for one reduce-scatter of a firn buffer: broken by a static COPY into it that may still run in its START slot;
and whether some contribution is not known. -/
def Img.scatterEarly (g : Img) (d : CollDecl) : Bool × Bool :=
  let n := (d.spans (d.members g.topo)).1
  let firn := (d.kind == 0 || d.kind == 2) && match g.inRegion d.src n with | some r => r.kind == 1 | none => false
  let l := if firn then g.progs.flatMap fun p => ((List.range p.ins.length).zip p.ins).filterMap fun i =>
    i.2.ins.map (g.contributes p d.src n d.start i.1) else []
  (l.any Prod.fst, l.any Prod.snd)

/-- Chained rows that an instruction of a run hands on, less those it consumes (R225, R228); none where its descriptor
is not known. -/
def Img.chainFlow (g : Img) (p : Prog) (k : Nat) (i : SInstr) : Option Int :=
  match i with
  | .epi .. => (g.static p.tile i).map fun b =>
      let d := EpiDesc.ofBytes b
      let e : EpiOp := ⟨⟨0, none, 0, 0⟩, d, if d.bind then g.boundAt p k else none, false, 0, false, [], 0⟩
      if d.dest = 1 then (e.rows : Int) * (if d.dst = 0 ∧ 128 < d.ncols then 2 else 1) else 0
  | .vec v => if v.op = .chain then (g.static p.tile i).map fun b => -((ChainDesc.ofBytes b).rows : Int) else some 0
  | _ => some 0

/-- Whether an instruction may hand chained rows on or consume them. -/
def Img.mayChain (g : Img) (t : Nat) (i : SInstr) : Bool :=
  match i with
  | .epi .. => match g.static t i with | some b => (EpiDesc.ofBytes b).dest == 1 | none => true
  | .vec v => v.op == .chain
  | _ => false

/-- R228 for one program: broken where a run, known to its end, hands on another number of chained rows than it
consumes; and whether that is not known. -/
def Img.chainUneven (g : Img) (p : Prog) : Bool × Bool :=
  if !p.has (g.mayChain p.tile) then (false, false)
  else match p.run.2, p.run.1.mapM (fun i => g.chainFlow p i.1 i.2) with
    | true, some l => (l.sum != 0, false)
    | _, _ => (false, true)

/-- What the text leaves open of R25, R28, R30 and R228 (log 84): contributions whose descriptors are not known; the
step whose statistics a feed takes, in an image that drains and feeds; the micro-batch of a contribution, in one with
a firn region; chained rows that a branch or a register decides. -/
def Img.schedOpen (g : Img) : List Nat :=
  let drains := g.progs.any fun p => p.has fun i => match i with | .rdrain .. => true | _ => false
  let feeds := (g.all 0x40).any fun x => (entries x.serList 64).any fun e => (SerDesc.ofBytes e).opc == 1
  let firn := g.regions.any (fun r => r.kind == 1) && g.progs.any fun p => p.has fun i => i.cls.isSome
  (if g.colls.any fun d => (g.scatterEarly d).2 then [25] else []) ++ (if drains && feeds then [28] else []) ++
    (if firn then [30] else []) ++ (if g.progs.any fun p => (g.chainUneven p).2 then [228] else [])

/-- Whether a collective is the digest gather and starts in or before the last reservation slot of a digested instance of
the step before (R515). -/
def Img.gatherEarly (g : Img) (d : CollDecl) : Bool :=
  match g.integ with
  | some i => d.id == i.wdcoll &&
      g.colls.any fun e => i.digids.contains e.id && decide (g.hdr 40 4 + d.start < e.start + e.resv)
  | none => false

/-- SCHEDULE_DEPENDENCY: sections in ascending index, and what the text leaves open is Config's. -/
def Img.schedCheck (g : Img) : Option Fail :=
  let one (x : Sect) : Option Fail :=
    if x.ty = 0x12 then g.schedSect x
    else if x.ty = 0x31 then firstFail g.colls fun k d =>
      failIf (g.inWindow d.start (d.start + d.resv - 1) || (g.scatterEarly d).1 || g.gatherEarly d)
        { code := 0x504, sect := x.ix, entry := k, value := d.start }
    else if x.ty = 0x10 then (g.progs.find? fun p => p.sect == x.ix).bind fun p =>
      failIf (g.chainUneven p).1 { code := 0x504, sect := x.ix, tile := p.tile }
    else none
  match g.sects.findSome? one with
  | some f => some f
  | none => failIf (g.schedOpen.any fun r => Config.breaks r g.data) { code := 0x504 }

/-! ### LINK_OVERLOAD (R393, R466) -/

/-- LINK_OVERLOAD. -/
def Img.linkCheck (g : Img) : Option Fail :=
  let slen := g.hdr 40 4
  let l := (entries (g.bytes 0x30) 8).map fun e => (leAt e 0 4 % slen, leAt e 4 1, leAt e 6 2)
  let total (e : Nat × Nat × Nat) : Nat := ((l.filter fun o => o.1 == e.1 && o.2.1 == e.2.1).map fun o => o.2.2).sum
  l.findSome? fun e =>
    let limit := 11760 * g.portmin.getD e.2.1 0 / 8
    failIf (decide (limit < total e)) {
      code := 0x505, sect := g.ixOf 0x30, entry := e.1, port := e.2.1, value := total e, limit := limit }

end Sys2Proof.Machine
end

