-- ==== Sys2Proof/Machine/Admit.lean ====
section
/-!
DEFINITION. Admission (R455, R456, R469 to R477): the repair journal applied, the checks in order, the load,
the report.
-/
namespace Sys2Proof.Machine

/-! ### The repair journal (R100, R278, R469 step 3) -/

/-- The physical tile of a logical tile (R19). DESIGN CHOICE (log 137): of 17 good tiles the highest-numbered one is the
unused spare. -/
def State.physTile (s : State) (l : Nat) : Option Nat :=
  let good := (List.range 17).filter fun i => !s.tileBad (17 * (l / 16) + i)
  good[l % 16]?.map fun i => 17 * (l / 16) + i

/-- A tile with the column map and width of its physical tile (R98, R103, R105). DESIGN CHOICE (log 147): a logical tile
without a good physical tile reports every column bad, beside the WIDTH 0 of R103. -/
def State.mapTile (s : State) (l : Nat) (x : Tile) : Tile :=
  match s.physTile l with
  | none => { x with bad := BitVec.allOnes 264, badCount := 264, width := 0 }
  | some p =>
    let b := s.badColumnCount p
    { x with
      bad := ofOnes 264 ((List.range 264).filter fun c => s.columnBad p c)
      badCount := BitVec.ofNat 9 b
      width := BitVec.ofNat 9 (widthOf b) }

/-- A stack with the pseudo-channels the journal leaves enabled (R274, R278, R279, R300). -/
def State.mapStack (s : State) (k : Nat) (x : Stack) : Stack :=
  let on : BitVec 64 := ofOnes 64 ((List.range 64).filter fun n => !s.journalled (.pseudo k n))
  let y := { x with enabled := on, failed := s.journalled (.stackFail k), pcmap := on }
  { y with
    cap := BitVec.ofNat 64 y.capacity
    marked := if on = x.enabled then x.marked else [] }

/-- CP_SPARES (R533). -/
def State.spareWord (s : State) : BitVec 32 :=
  let tiles := (List.range 4).map fun q => flagBit q (s.goodTiles q == 17)
  let engines := (List.range 8).map fun c => flagBit (4 + c) (s.goodEngines c == 5)
  let lanes := ((List.range 4).zip s.spares.toList).map fun g =>
    (g.2.toList.filter fun l => l.state == .standby).length * 2 ^ (12 + 3 * g.1)
  BitVec.ofNat 32 (tiles.sum + engines.sum + lanes.sum)

/-- The CP applies the fuse map and the repair journal. A stack whose mapping changes holds nothing that was
written before (R278). -/
def State.applyRepairs (s : State) : State :=
  let moved (a : Nat) : Bool := isHbm a &&
    (s.mapStack (stackOf a).val (s.stack (stackOf a))).enabled != (s.stack (stackOf a)).enabled
  { s with
    tiles := s.tiles.mapIdx fun l x => s.mapTile l x
    hbm := s.hbm.mapIdx fun k x => s.mapStack k x
    clusters := s.clusters.mapIdx fun c x => { x with
      spare := (List.range 4).any fun i => s.engineBad (5 * c + i) }
    mem := s.mem.filter fun c => !moved c.1
    integ := { s.integ with applied := s.integ.repairs, spares := s.spareWord } }

/-- Whether a port is retrained at an admission (R359): its width is below 8 and a lane or a spare is free. -/
def State.wantsRetrain (s : State) (p : PortId) : Bool :=
  let x := s.port p
  x.state == .active && decide (x.width.toNat < 8) && (!(s.freeSpares p).isEmpty ||
    ((List.range 8).zip x.lanes.toList).any fun l =>
      (l.2 == .good || l.2 == .returned) && !x.laneCodes.contains l.1)

/-- All ports. -/
def allPorts : List PortId := [0, 1, 2, 3, 4, 5, 6, 7, 8, 9, 10, 11, 12, 13, 14, 15, 16, 17, 18, 19]

/-- Step 3 of R469. -/
def State.admitPrepare (s : State) : State :=
  (allPorts.filter s.wantsRetrain).foldl (fun s p => s.retrain p) s.applyRepairs

/-! ### The checks (R471) -/

/-- The first failing check, in ascending reason code. -/
def Img.check (g : Img) (s : State) : Option Fail :=
  let container := [fun _ => g.magic, fun _ => g.format, fun _ => g.digestCheck, fun _ => g.sectCheck, fun _ => g.level]
  let chip := [fun _ => s.unfit, fun _ => g.widthCheck s, fun _ => g.topoCheck s, fun _ => g.portCheck s]
  let store := [fun _ => g.regionCheck, fun _ => g.capacityCheck s, fun _ => g.storeCheck, fun _ => g.rimeCheck,
    fun _ => g.serStoreCheck]
  let prog := [fun _ => g.illegalCheck, fun _ => g.descCheck s, fun _ => g.shapeCheck, fun _ => g.schedCheck,
    fun _ => g.linkCheck]
  let decl := [fun _ => g.phaseCheck, fun _ => g.seracCheck, fun _ => g.collCheck s, fun _ => g.optCheck,
    fun _ => g.moraineCheck s, fun _ => g.ckptCheck, fun _ => g.lockstepCheck]
  (container ++ chip ++ store ++ prog ++ decl).findSome? fun (f : Unit → Option Fail) => f ()

/-! ### The load (R469 step 5) -/

/-- What the chip keeps of an image. -/
def Img.image (g : Img) : Image where
  id := BitVec.ofNat 64 (g.hdr 48 8)
  seed := BitVec.ofNat 64 (g.hdr 32 8)
  slen := g.hdr 40 4
  digest := g.digest
  fixed := (g.hdr 13 1).testBit 0
  lockstep := (g.one 0x61).map fun x => (BitVec.ofNat 5 (leAt x.data 0 1), leAt x.data 1 1 == 1)
  portmin := g.portmin
  topo := g.topo
  regions := g.regions
  phases := g.phases
  moraine := g.moraine
  colls := g.colls
  integ := g.integ
  nosave := g.nosave
  tensors := g.tensors

/-- A tile as an admission leaves it (R108, R159, R204, R237): its entry address, its stream region, its phase
ring. -/
def Tile.admitted (x : Tile) (entry lo len : Nat) (ring : Option Region) : Tile :=
  let x := x.halt
  { x with
    seq := { x.seq with
      regs := Vector.replicate 32 0
      preds := Vector.replicate 8 ⟨false, none⟩
      pc := BitVec.ofNat 64 entry
      pcCom := BitVec.ofNat 64 entry
      phase := 0
      phaseCom := 0
      ended := false
      copFault := none
      phRecs := 0
      phBase := match ring with | some r => BitVec.ofNat 64 r.base | none => 0
      phLen := match ring with | some r => BitVec.ofNat 17 (min 65536 (r.len / 16)) | none => 0 }
    acc := List.replicate 2048 .zero
    rime := { x.rime with slots := Vector.replicate 4 .closed, bind := .none }
    vec := { x.vec with
      regs := Vector.replicate 32 (Vector.replicate 256 0)
      masks := Vector.replicate 8 (BitVec.allOnes 256) }
    streamLo := lo
    streamLen := len
    digests := Vector.replicate 6 .zero }

/-- Tile `l` under the image's TILE_CODE. -/
def Img.tile (g : Img) (l : Nat) (x : Tile) : Tile :=
  let entry := match (g.all 0x10).find? fun y => y.index == l with | some y => leAt y.data 0 4 | none => 0
  let st := g.stream l
  x.admitted entry st.1 st.2 (g.regions[Config.phaseRing l]?)

/-- Cluster `c` under the image's SERAC section (R171). -/
def Img.cluster (g : Img) (c : Nat) (x : Cluster) : Cluster :=
  match (g.all 0x40).find? fun y => y.index == c with
  | some y => { x with
      structs := y.freshStructs
      listAddr := match g.regions[y.listReg]? with | some r => r.base | none => 0
      listCount := y.serCount, step := 0, ended := [], running := [], switches := [], digest := .zero }
  | none => { x with
      structs := List.replicate 16 .unused
      listAddr := 0, listCount := 0, step := 0, ended := [], running := [], switches := [], digest := .zero }

/-- RTR_TOPO as a topology declaration gives it (R399). -/
def Topo.word (t : Topo) : BitVec 33 :=
  BitVec.ofNat 33 ((t.ex - 1) + (t.ey - 1) * 2 ^ 5 + (t.ez - 1) * 2 ^ 10 + t.opn.toNat * 2 ^ 15 +
    t.dlx % 32 * 2 ^ 18 + t.dly % 32 * 2 ^ 23 + t.dlz % 32 * 2 ^ 28)

/-- The tables of a router under an image (R377, R397, R398). -/
def Img.router (g : Img) (hpeer : Option ChipAddr) (r : Router) : Router :=
  { r with
    topo := g.topo.word
    epoch := g.topo.epoch
    porten := ofOnes 20 ((List.range 20).filter fun p => 0 < g.portmin.getD p 0)
    hpeerReg := match hpeer with | some a => a.setWidth 28 ||| 0x8000000#28 | none => 0
    lock := true
    digest := .zero }

/-- The END instruction of a tile without TILE_CODE (R459). -/
def endWord : Nat := 0x2030_0000_0000_0000

/-- A write of the load: its section, whether it goes to HBM, its address, its bytes. -/
structure LoadWrite where
  sect  : Nat
  hbm   : Bool
  addr  : Nat
  bytes : List Byte
  deriving DecidableEq, Repr

/-- The writes of the load, in ascending section index; first the END of every tile without TILE_CODE. -/
def Img.writes (g : Img) : List LoadWrite :=
  let ends := (List.range 64).filterMap fun t =>
    if (g.all 0x10).any fun x => x.index == t then none
    else some (LoadWrite.mk 0xFFFF false (poolBase t) (leBytes 8 endWord))
  let one (x : Sect) : Option LoadWrite :=
    match x.ty with
    | 0x10 => some ⟨x.ix, false, poolBase x.index + x.dest, x.data.drop 16⟩
    | 0x11 => some ⟨x.ix, false, poolBase x.index + x.dest, x.data⟩
    | 0x20 => some ⟨x.ix, true, x.dest, x.data⟩
    | 0x40 => some ⟨x.ix, true, (match g.regions[x.listReg]? with | some r => r.base | none => 0), x.serList⟩
    | _ => none
  ends ++ g.sects.filterMap one

/-- Whether declared regions cover `[a, a + n)`. -/
def Img.covers (g : Img) (a n : Nat) : Bool :=
  (g.regions.map fun r => min (a + n) (r.base + r.len) - max a r.base).sum == n

/-- Whether a write of the load faults: HBM outside every region, or part of a marked line (R272, R276). -/
def Img.loadFaults (g : Img) (s : State) (w : LoadWrite) : Bool :=
  w.hbm && !w.bytes.isEmpty && (!g.covers w.addr w.bytes.length || (s.writeUe w.addr w.bytes.length).isSome)

/-- The first write of the load that faults, each against what the earlier ones left. -/
def Img.firstFault (g : Img) : List LoadWrite → State → Option LoadWrite
  | [], _ => none
  | w :: l, s => if g.loadFaults s w then some w else Img.firstFault g l (s.wr w.addr w.bytes)

/-- The time and lock-step registers at an admission (R442, R444, R454). -/
def Gtc.admitted (t : Gtc) (slen : Nat) (ls : Option (BitVec 5 × Bool)) : Gtc :=
  { t with
    launch := 0
    slen := BitVec.ofNat 32 slen
    thaw := 0
    thawFirst := BitVec.allOnes 64
    thawN := Vector.replicate 11 0
    lsHalt := match ls with | some x => x.2 | none => false
    lsEn := ls.isSome
    lsPort := match ls with | some x => x.1 | none => 0
    lsValid := false
    lsSkew := false
    lsUnit := 0
    lsTile := 0
    lsSlot := 0
    lsCount := 0
    lsHist := []
    lsHeld := []
    lsSent := []
    lsFound := none }

/-- Steps 5 and 7: the state with the image loaded and admitted. -/
def Img.load (g : Img) (s : State) : State :=
  let hpeer := (s.port hPort).partner.map Prod.fst
  let s := g.writes.foldl (fun (s : State) w => s.wr w.addr w.bytes) s
  { s with
    tiles := s.tiles.mapIdx fun l x => g.tile l x
    clusters := s.clusters.mapIdx fun c x => g.cluster c x
    routers := s.routers.map fun r => g.router hpeer r
    ports := s.ports.map fun x => { x with held := false }
    cp := { s.cp with
      phTot := Vector.replicate 64 0, phCnt := Vector.replicate 64 0, phMax := Vector.replicate 64 0 }
    gtc := s.gtc.admitted (g.hdr 40 4) g.image.lockstep
    integ := { s.integ with wdLog := [], wdLast := none, testOn := false, testRun := false }
    ckpt := { s.ckpt with state := 0, armed := none }
    job := { s.job with
      image := some g.image, admWait := none, step := 0, base := 0, stepL := 0, launched := false, running := false, resume := ⟨0, 0⟩
      restored := false, quiesce := none, pending := none, colls := [], exports := [], imports := [], impDone := []
      nextImp := List.replicate 64 0, stopped := [] } }

/-! ### ADMIT -/

/-- The admission report (R474). -/
def Fail.report (f : Fail) (digest : List Byte) : List Byte :=
  leBytes 2 f.code ++ leBytes 2 f.sect ++ leBytes 4 f.entry ++ leBytes 1 f.tile ++ leBytes 1 f.port ++
    leBytes 1 f.stack ++ leBytes 1 f.cluster ++ leBytes 4 0 ++ leBytes 8 f.value ++ leBytes 8 f.limit ++ digest

/-- The admission ends: the report, CP_ADMSTAT, the counters, and the command's own outcome. -/
def State.admitEnd (s : State) (c : Cmd) (p : PciePort) (f : Fail) (digest : List Byte) (st : BitVec 2) : State :=
  let ok := f.code == 0
  let s := { s with job := { s.job with
    admState := st
    reason := BitVec.ofNat 16 f.code
    admits := if ok then s.job.admits + 1 else s.job.admits
    rejects := if ok then s.job.rejects else s.job.rejects + 1 } }
  (s.hostWr p (c.arg 24 8) (f.report digest)).commitCmd c.handle (if ok then 0 else 0x30) (BitVec.ofNat 64 f.code) 0

/-- Steps 4 to 7, with the image that step 2 read. The ports that step 6 compares are those that step 4 saw, since
nothing comes between. -/
def State.admitRest (s : State) (c : Cmd) (p : PciePort) (hostOk : Bool) (image : List Byte) : State :=
  let s := { s with job := { s.job with admWait := none } }
  if !hostOk then { s with job := { s.job with admState := 0 } }.commitCmd c.handle 0x17 0 0
  else
    let g := Img.read image
    let digest := g.digest
    match g.check s with
    | some f => s.admitEnd c p f digest 0
    | none => match g.firstFault g.writes s with
      | some w => s.admitEnd c p { code := 0x701, sect := w.sect, value := w.addr } digest 0
      | none => (g.load s).admitEnd c p { code := 0 } digest 2

/-- The counts that step 3 of R469 waits at most: 20 ms. -/
def admitWait : Nat := 20000000

/-- Whether a port is still being retrained, or has asked its partner to be (R359). -/
def LPort.retrains (x : LPort) : Bool := x.state == .retrain || x.retraining || x.retrainSent

/-- ADMIT (R455, R469): step 1 refuses, step 2 reads the image; step 3 may leave ports to be retrained, and the
admission then goes on when the row is taken again, once they are back or 20 ms are over. -/
def execAdmitImage (h : Nat) (hostOk : Bool) (s : State) : Res :=
  match s.cmd h with
  | none => .next s
  | some c =>
    if c.admitting then
      match c.port, s.job.admWait with
      | some p, some w =>
        if s.ports.toList.any LPort.retrains && decide (s.gtc.count.toNat < w.since.toNat + admitWait) then .next s
        else .next (s.admitRest c p hostOk w.image)
      | _, _ => .next s
    else
      s.runCmd h 0x10 (fun _ => true) fun s c => s.onPort c fun p =>
        if !hostOk then s.commitCmd h 0x17 0 0
        else if s.job.image.isSome || s.job.admState == 1 then
          let n := s.takeFree
          n.2.admitEnd c p { code := 1 } (tab 32 fun i => Config.freeByte n.1 i) s.job.admState
        else
          let image := s.hostRd p (c.arg 8 8) (c.arg 16 8)
          let s := s.admitPrepare
          if s.ports.toList.any LPort.retrains then
            { s with job := { s.job with admState := 1, admWait := some ⟨image, s.gtc.count⟩ } }.executing h
          else s.admitRest c p true image

end Sys2Proof.Machine
end

