-- ==== Sys2Proof/Machine/Power.lean ====
section
/-!
DEFINITION. Power, droop and thermal control (R555 to R579): operating points and their caps, trims,
stretchers, supply dips, the power brake, thermal limits.
-/
namespace Sys2Proof.Machine

/-! ### Setpoints (R555, R558, R563) -/

/-- The VDD_CORE setpoint of an operating point, in millivolts (R555). -/
def opMv (op : BitVec 3) : Nat := [620, 650, 680, 700, 730, 750, 800, 850].getD op.toNat 0

/-- A setpoint with its trim offset, capped at 0.85 V (R563). -/
def trimmed (mv : Nat) (ofs : BitVec 8) : BitVec 16 := BitVec.ofNat 16 (min 850 (mv + ofs.toNat))

/-- The lower of two operating points. -/
def lowOp (a b : BitVec 3) : BitVec 3 := if a.toNat ≤ b.toNat then a else b

/-- One level below an operating point, never below OP1 (R565, R572). -/
def belowOp (op : BitVec 3) : BitVec 3 := BitVec.ofNat 3 (max 1 (op.toNat - 1))

/-- Set a lower or a higher operating point as a change's goal (R560): down at once, up once the voltage
is there; a change overtaken by a lower target reverses. -/
def Power.goto (p : Power) (n : BitVec 3) : Power :=
  { p with
    op := lowOp p.op n
    raising := if p.op.toNat < n.toNat then some n else none
    coreMv := trimmed (opMv n) p.coreOfs
    seracMv := trimmed 750 p.seracOfs }

/-! ### Choosing the operating point (R562) -/

/-- The target: OP5 in fixed-frequency mode and when no image runs, else the highest preferred operating
point among the phases in force. -/
def State.opTarget (s : State) : BitVec 3 :=
  match s.job.image with
  | none => 5
  | some im =>
    if im.fixed || !s.job.running then 5
    else
      let ops := s.tiles.toList.filterMap fun x => (im.phases[x.seq.phaseCom.toNat]?).map Prod.snd
      BitVec.ofNat 3 (ops.foldl max 0)

/-- The boost cap. MARGIN_LIMIT disables OP6 and OP7 (R563). -/
def State.boostCap (s : State) : BitVec 3 :=
  let p := s.power
  if !s.fixedFreq && decide (p.tj.toNat < 95) && decide (p.avg.toNat + 100 ≤ p.plimit.toNat) && !p.margin then 7
  else 5

/-- The target under the boost cap: what no power, dip or thermal cap has lowered. -/
def State.opWanted (s : State) : BitVec 3 := lowOp s.opTarget s.boostCap

/-- Whether OP0 is forced: a brake or a wiring fault in force, or Tj at or above the maximum. -/
def Power.braked (p : Power) : Bool := p.brake || p.wiring || p.thmax

/-- The operating point that R562 gives. -/
def State.opGoverned (s : State) : BitVec 3 :=
  let p := s.power
  if p.braked then 0 else lowOp (lowOp s.opWanted p.powerCap) (lowOp p.dipCap p.thermCap)

/-- The SMC re-evaluates the operating point (R562). A lowering below OP5 by brake, dip, thermal or power
cap is counted, and is one OPDOWN thaw event (R442, R579). -/
def State.evalOp (s : State) : State :=
  let n := s.opGoverned
  let down := decide (n.toNat < s.power.op.toNat) && decide (n.toNat < 5) &&
    decide (n.toNat < s.opWanted.toNat)
  let p : Power := { s.power.goto n with
    target := s.opTarget, opdown := if down then s.power.opdown + 1 else s.power.opdown }
  let s := { s with power := p }
  if down then s.thawEvent 4 else s

/-- Every 10 µs (R562). `power` is the 100 µs average: above PLIMIT it sets the power cap one level below the
operating point in force. -/
def execOpEval (power : BitVec 16) (s : State) : Res :=
  let cap : BitVec 3 := if s.power.plimit.toNat < power.toNat then
      BitVec.ofNat 3 (s.power.op.toNat - 1) else s.power.powerCap
  .next { s with power := { s.power with avg := power, powerCap := cap } }.evalOp

/-- The voltage is within 5 mV and the PLLs have retargeted (R560). -/
def execOpRaiseDone (s : State) : Res :=
  match s.power.raising with
  | none => .next s
  | some n => .next { s with power := { s.power with op := n, raising := none } }

/-- Every 1 ms while the average power stays below PLIMIT − 100 W, one level (R562). -/
def execPowerCapRelease (s : State) : Res :=
  let p := s.power
  if p.avg.toNat + 100 < p.plimit.toNat ∧ p.powerCap.toNat < 7 then
    .next { s with power := { p with powerCap := p.powerCap + 1 } }
  else .next s

/-! ### Trim (R563) -/

/-- The highest trim offset, in millivolts. -/
def trimMax : Nat := 50

/-- Setpoints and ceilings that follow the trim offsets; the offsets go to the unit-history journal. -/
def Power.retrim (p : Power) : Power :=
  let goal := p.raising.getD p.op
  let short (k : Nat) (op : BitVec 3) : BitVec 4 :=
    if 850 < opMv op + p.coreOfs.toNat then Config.opCeil k p.coreOfs else 0
  { p with
    coreMv := trimmed (opMv goal) p.coreOfs
    seracMv := trimmed 750 p.seracOfs
    op6ceil := short 6 6
    op7ceil := short 7 7
    histCore := p.coreOfs
    histSerac := p.seracOfs }

/-- Report an event of the SMC that R531 lists no code for. -/
def State.smcReport (s : State) (cause : Nat) (d0 d1 : Word) : State :=
  (s.report (Config.smcEvent cause) .chip 0 d0 d1).1

/-- Slack below the guard band raises a rail's offset by one step of 5 mV; one beyond +50 mV sets MARGIN_LIMIT
instead, which is reported and disables OP6 and OP7. -/
def execTrimRaise (r : Rail) (s : State) : Res :=
  let p := s.power
  let ofs := match r with | .core => p.coreOfs | .serac => p.seracOfs
  if trimMax < ofs.toNat + 5 then
    .next ({ s with power := { p with margin := true } }.smcReport 0x100 (ofs.setWidth 64) 0).evalOp
  else
    let q : Power := match r with
      | .core => { p with coreOfs := ofs + 5 }
      | .serac => { p with seracOfs := ofs + 5 }
    .next { s with power := q.retrim }

/-! ### Droop and supply dips (R564 to R566) -/

/-- A stretcher engages: counted, and one STRETCH thaw event; one already engaged stays so. -/
def State.engage (s : State) (d : StretchDomain) : State :=
  let p := s.power
  if p.engaged.getLsbD d.val then s
  else { s with power := { p with
      engaged := p.engaged ||| BitVec.ofNat 6 (2 ^ d.val)
      stretch := p.stretch.set d (p.stretch[d] + 1) } }.thawEvent 3

/-- A detector sees its rail below VS (R564). -/
def execDroopStretch (d : StretchDomain) (s : State) : Res := .next (s.engage d)

/-- The rail has been above VS + 10 mV for 20 ns (R564). -/
def execStretchRelease (d : StretchDomain) (s : State) : Res :=
  .next { s with power := { s.power with engaged := s.power.engaged &&& ~~~ BitVec.ofNat 6 (2 ^ d.val) } }

/-- The warning threshold VW, in millivolts: 60 mV below the VDD_CORE setpoint in force (R565). -/
def Power.warnMv (p : Power) : Nat := p.coreMv.toNat - 60

/-- VDD_CORE crosses VW (R565, R566), `millivolts` its lowest sample: the stretchers of its domains engage, the dip is
logged and counted, and the dip cap is set for 10 ms, one level lower when it was set already. -/
def execSupplyDip (millivolts : BitVec 16) (s : State) : Res :=
  if s.power.warnMv ≤ millivolts.toNat then .next s
  else
  let s := [0, 1, 2, 3, 5].foldl (fun (s : State) (d : StretchDomain) => s.engage d) s
  let p := s.power
  let cap := if p.dipUntil.isSome then belowOp p.dipCap else belowOp p.op
  .next { s with power := { p with
    dips := p.dips + 1
    dipLog := (s.gtc.count, millivolts) :: p.dipLog
    dipCap := cap
    dipUntil := some (s.gtc.count + 10000000) } }.evalOp

/-- The 10 ms have ended without a further dip: the cap lifts in one step (R565, R566). -/
def execDipCapExpire (s : State) : Res :=
  match s.power.dipUntil with
  | none => .next s
  | some t =>
    if s.gtc.count.toNat < t.toNat then .next s
    else .next { s with power := { s.power with dipCap := 7, dipUntil := none } }.evalOp

/-! ### Resets of the main dies (R567, R573, R581) -/

/-- A port held in reset: what it still has to send is a DOWN frame or nothing (R367); its lanes' conditions are
the SMC's. -/
def LPort.held_ (x : LPort) (down : Bool) : LPort :=
  { LPort.reset with
    lanes := x.lanes
    outbox := if down then x.outbox.filter fun f => f.ty == .down else [] }

/-- A spare held in reset: its condition is the SMC's; its home port is loaded at boot (R342). -/
def Spare.held_ (x : Spare) : Spare :=
  { x with home := 7, state := if x.state == .inUse then .standby else x.state }

/-- A PCIe function held in reset: only its PERST pin and what it has sent are left. -/
def PciFn.held_ (f : PciFn) : PciFn := { PciFn.reset with perst := f.perst, irqs := f.irqs }

/-- The compute die and both link dies are held in reset (R581): the SMC's state (its record of memory errors, R278, among it), journals, the GTC and trim
offsets stay, and every register cleared by device reset is. -/
def State.holdDies (s : State) (down : Bool) : State :=
  let gone := State.reset
  { s with
    tiles := gone.tiles
    clusters := gone.clusters
    hbm := s.hbm.map fun x => { Stack.reset with ceLog := x.ceLog, uePcs := x.uePcs }
    ports := s.ports.map fun x => x.held_ down
    spares := s.spares.map fun g => g.map Spare.held_
    routers := gone.routers
    cp := gone.cp
    gtc := { gone.gtc with count := s.gtc.count, frac := s.gtc.frac, nextEdge := s.gtc.nextEdge, ratio := s.gtc.ratio }
    job := { gone.job with last := s.job.last }
    ouvzu := { gone.ouvzu with fns := s.ouvzu.fns.map PciFn.held_ }
    integ := { s.integ with
      lastv := 0, wdcmp := 0, wdmism := 0, struns := 0, stfail := 0, evreps := 0, spares := 0
      wdLog := [], wdLast := none, testOn := false, testRun := false, applied := [] }
    ckpt := gone.ckpt
    power := { s.power with
      peak := 0, stretch := gone.power.stretch, dips := 0, brakes := 0, opdown := 0, wirings := 0, throtms := 0
      throtN := 0 }
    boot := { s.boot with inReset := true, telemOn := false }
    mem := [] }

/-- The SMC ends a job at once with a cause code, and the device reset that follows sends DOWN frames first
(R367, R582). -/
def State.smcReset (s : State) (cause : Nat) : State :=
  let s := if s.job.image.isSome then
      let e := (s.endJob 8 (BitVec.ofNat 64 cause)).job.pending.getD ⟨8, BitVec.ofNat 64 cause⟩
      s.endNow e
    else s
  (([0, 1, 2, 3, 4, 5, 6, 7, 8, 9, 10, 11, 12, 13, 14, 15, 16, 17, 18, 19].foldl
    (fun (s : State) (p : PortId) => s.sendDown p) s)).holdDies true

/-! ### The power brake (R568 to R571) -/

/-- The wires have changed: exactly one asserted starts a discrepancy interval, both deasserted the hold-off. -/
def State.wiresMoved (s : State) : State :=
  let p := s.power
  { s with power := { p with
    disagree := if p.wireA != p.wireB then some s.gtc.count else none
    brakeFree := if p.wireA || p.wireB then none else some s.gtc.count } }

/-- A wire has been low for 20 ns (R568): the first assertion is a brake. -/
def execPwrbrkAssert (w : BrakeWire) (s : State) : Res :=
  let p := s.power
  let was := match w with | .a => p.wireA | .b => p.wireB
  if was then .next s
  else
    let q : Power := match w with | .a => { p with wireA := true } | .b => { p with wireB := true }
    let q : Power := { q with brake := true, brakes := if p.brake then p.brakes else p.brakes + 1 }
    .next ({ s with power := q }.wiresMoved).evalOp

/-- A wire deasserts (R569). -/
def execPwrbrkDeassert (w : BrakeWire) (s : State) : Res :=
  let p := s.power
  let was := match w with | .a => p.wireA | .b => p.wireB
  if !was then .next s
  else
    let q : Power := match w with | .a => { p with wireA := false } | .b => { p with wireB := false }
    .next { s with power := q }.wiresMoved

/-- A disagreement has lasted longer than TDISC (R569): a wiring fault, which holds OP0. -/
def execPwrbrkDiscrepancy (s : State) : Res :=
  let p := s.power
  match p.disagree with
  | none => .next s
  | some t =>
    if s.gtc.count.toNat ≤ t.toNat + 1000 * p.tdisc.toNat then .next s
    else
      let s := { s with power := { p with wiring := true, wirings := p.wirings + 1, disagree := none } }
      .next (s.smcReport 0x101 0 0).evalOp

/-- Both wires have been deasserted for 10 µs and no wiring fault is held (R570). -/
def execBrakeRelease (s : State) : Res :=
  let p := s.power
  match p.brakeFree with
  | none => .next s
  | some t =>
    if !p.brake || p.wireA || p.wireB || p.wiring || decide (s.gtc.count.toNat < t.toNat + 10000) then .next s
    else .next { s with power := { p with brake := false, brakeFree := none } }.evalOp

/-! ### Thermal control (R572, R573) -/

/-- Tj and the sensor that gives it: the highest die reading, and a stack at 95 °C or above as 100 °C. -/
def tempsTj (t : Temps) : Nat × Nat :=
  let dies := (t.die.map BitVec.toNat).zip (List.range 15)
  let hot := ((t.hbm.map BitVec.toNat).zip (List.range 8)).filterMap fun x =>
    if 95 ≤ x.1 then some (100, 16 + x.2) else none
  (dies ++ hot).foldl (fun b x => if b.1 < x.1 then x else b) (0, 0)

/-- Every 100 µs (R572): the sample, the thermal cap on reaching 100 °C, OP0 at 105 °C. Ten samples with the
thermal cap limiting are a millisecond. -/
def execThermalSample (temps : Temps) (s : State) : Res :=
  if !temps.WellFormed then .refused (.illFormed "THERMAL_SAMPLE")
  else
    let p := s.power
    let j := tempsTj temps
    let tj : BitVec 8 := BitVec.ofNat 8 j.1
    let hot := decide (p.tj.toNat < 100) && decide (100 ≤ j.1)
    let maxed := decide (105 ≤ j.1)
    let p1 : Power := { p with
      tj := tj
      sensor := BitVec.ofNat 8 j.2
      peak := BitVec.ofNat 8 (max p.peak.toNat j.1)
      thermCap := if hot then lowOp p.thermCap (belowOp p.op) else p.thermCap
      thmax := maxed
      maxSince := if !maxed then none else if p.thmax then p.maxSince else some s.gtc.count }
    let s := { s with power := p1 }.evalOp
    let n := s.power.throtN + 1
    .next (if !s.power.throt then s
      else { s with power := { s.power with
        throtN := n % 10, throtms := if n % 10 = 0 then s.power.throtms + 1 else s.power.throtms } })

/-- Each further 1 ms at or above 100 °C (R572). -/
def execThermalCapLower (s : State) : Res :=
  let p := s.power
  if p.tj.toNat < 100 then .next s
  else .next { s with power := { p with thermCap := belowOp p.thermCap } }.evalOp

/-- Each 10 ms at or below 97 °C, one level until the cap no longer limits (R572). -/
def execThermalCapRaise (s : State) : Res :=
  let p := s.power
  if 97 < p.tj.toNat ∨ p.thermCap = 7 then .next s
  else
    let cap := p.thermCap + 1
    .next { s with power := { p with thermCap := if s.opWanted.toNat ≤ cap.toNat then 7 else cap } }.evalOp

/-- Tj has not fallen below 105 °C after 100 ms: the SMC stops the job (R572). -/
def execThermalMaxTimeout (s : State) : Res :=
  let p := s.power
  match p.maxSince with
  | none => .next s
  | some t =>
    if !p.thmax || decide (s.gtc.count.toNat < t.toNat + 100000000) then .next s
    else .next ({ s with power := { p with maxSince := none } }.smcStop 0x20)

/-- A sensor reaches 115 °C (R573): THERMTRIP_N asserts, every clock outside the always-on island stops, and
the SMC journals and reports the trip. The job ends, with no record to its host. -/
def execThermtrip (s : State) : Res :=
  if s.power.thermtrip then .next s
  else
    let s := { s with power := { s.power with thermtrip := true, trips := s.gtc.count :: s.power.trips } }
    let s := s.smcReport 0x21 0x21 0
    let last := if s.job.image.isSome then some ⟨8, 0x21⟩ else s.job.last
    .next ({ s with job := { s.job with last := last } }.holdDies false)

end Sys2Proof.Machine
end

