-- ==== Sys2Proof/Machine/Boot.lean ====
section
/-!
DEFINITION. Reset and boot (R580 to R592, R604, R605, R621, R622): the copies in NOR, the boot journal, the
boot steps, and what each reset leaves.
-/
namespace Sys2Proof.Machine

/-! ### The copies in NOR (R583, R584) -/

/-- Where a copy begins. -/
def copyBase (b : Bool) : Nat := if b then 0x100_0000 else 0

/-- MAGIC of a copy's header. -/
def copyMagic : List Byte := [0x47, 0x52, 0x43, 0x46, 0x47, 0x43, 0x50, 0x01]

/-- The header of a copy. -/
def State.copyHeader (s : State) (b : Bool) : List Byte := s.norRd (copyBase b) 64

/-- SEQ of a copy. -/
def State.copySeq (s : State) (b : Bool) : Nat := leAt (s.copyHeader b) 8 4

/-- CHECK of a header with the bytes that follow it. -/
def State.copyCheck (s : State) (b : Bool) (header : List Byte) : Word :=
  crc64 (header.take 56 ++ s.norRd (copyBase b + 64) (leAt header 12 4))

/-- Whether a copy is valid (R584). -/
def State.copyValid (s : State) (b : Bool) : Bool :=
  let h := s.copyHeader b
  h.take 8 == copyMagic && leAt h 8 4 != 0xFFFFFFFF && decide (leAt h 12 4 ≤ 0x100_0000 - 64) &&
    leAt h 56 8 == (s.copyCheck b h).toNat

/-- The copy to select: none when neither is valid (R584). -/
def State.selectCopy (s : State) : Option Bool :=
  match s.copyValid false, s.copyValid true with
  | true, true => some (decide (s.copySeq false < s.copySeq true))
  | true, false => some false
  | false, true => some true
  | false, false => none

/-- The configuration block of a copy (R584, R586). -/
def State.copyCfg (s : State) (b : Bool) : CfgBlock :=
  let h := s.copyHeader b
  Config.cfgBlock (s.norRd (copyBase b + leAt h 32 4) (leAt h 36 4))

/-! ### The boot journal (R583, R588, R589) -/

/-- The code of a result. -/
def BootRes.code : BootRes → Nat
  | .started => 0
  | .done => 1
  | .failed => 2
  | .skipped => 3
  | .doneAlt => 4
  | .aborted => 5
  | .failedAlt => 6

/-- The 16 bytes of a record (R588). -/
def BootRec.bytes (r : BootRec) : List Byte :=
  let b := leBytes 4 r.bootno.toNat ++ leBytes 1 r.step.toNat ++ leBytes 1 r.res.code ++
    leBytes 2 r.detail.toNat ++ leBytes 4 r.ptime.toNat ++ [0, 0]
  b ++ leBytes 2 (crc16 b).toNat

/-- A record is written, its sector erased first when it is the sector's first, and sent in a BOOT_RECORD
frame (R583, R588, R595). -/
def State.bootRec (s : State) (step : Nat) (res : BootRes) (detail : BitVec 16) : State :=
  let b := s.boot
  let r : BootRec := ⟨b.bootno, BitVec.ofNat 8 step, res, detail, b.ptime.setWidth 32⟩
  let full := decide (4096 ≤ b.journal.length)
  { s with boot := { b with
    journal := (if full then b.journal.drop 256 else b.journal) ++ [r]
    first := if full then (b.first + 256) % 4096 else b.first } }.sendLom 0x05 0 r.bytes

/-- How the previous boot left a step (R588, R589): its last record for it. -/
def Boot.previous (b : Boot) (step : Nat) : Option BootRec :=
  if b.noPrev then none
  else
    let before := b.journal.filter fun r => decide (r.bootno.toNat < b.bootno.toNat)
    let no := before.foldl (fun m r => max m r.bootno.toNat) 0
    (before.filter fun r => r.bootno.toNat == no && r.step.toNat == step).getLast?

/-- Whether the previous boot failed a step done the normal way (R589). -/
def Boot.failedNormal (b : Boot) (step : Nat) : Bool :=
  match b.previous step with
  | some r => r.res == .failed || (r.res == .started && r.detail == 0)
  | none => false

/-- Steps with an alternate way. -/
def hasAlternate (step : Nat) : Bool := step == 3 || step == 8 || step == 9 || step == 10

/-- Optional steps. -/
def isOptional (step : Nat) : Bool := step == 11 || step == 12 || step == 13

/-! ### Identity (R592) -/

/-- The identity record. -/
def State.identity (s : State) : List Byte :=
  let f := s.fuses
  leBytes 8 f.lot.toNat ++ leBytes 6 f.serial.toNat ++ [f.wafer, f.diex, f.diey, BitVec.ofNat 8 stepping] ++ leBytes 2 contractLevel ++
    leBytes 4 s.chipAddr.toNat ++ List.replicate 8 0

/-- An IDENTITY frame (R595). -/
def State.sendIdentity (s : State) : State := s.sendLom 0x04 0 s.identity

/-- The SMC loads the identity registers (R605). -/
def State.loadIdentity (s : State) : State :=
  let f := s.fuses
  let die := f.wafer.toNat % 32 + f.diex.toNat * 2 ^ 8 + f.diey.toNat * 2 ^ 16 + stepping * 2 ^ 24
  { s with boot := { s.boot with idlot := f.lot, iddie := BitVec.ofNat 32 die, idserial := f.serial } }

/-! ### Beginning a step (R587) -/

/-- A lane that the unit-history journal has as retired once is under test, or returned to the pool where it passed
(R356, R363, R365). -/
def State.journalLane (s : State) (r : LaneRec) : State :=
  if h : r.port < 20 then
    if k : r.lane < 8 then s.modPort ⟨r.port, h⟩ fun x =>
      { x with lanes := x.lanes.set r.lane (if r.passed then .returned else .retired) }
    else s.modSpare (groupOf ⟨r.port, h⟩) (r.lane - 8) fun x =>
      { x with state := if r.passed then .standby else .testing, times := max 1 x.times, returned := r.passed }
  else s

/-- The lanes that the journals have as retired (R356, R365): once in the unit-history journal, for good in the repair
journal. -/
def State.journalLanes (s : State) : State :=
  let s := s.integ.histLanes.foldl State.journalLane s
  s.integ.repairs.foldl (fun (s : State) r => match r with
    | .lane p c =>
      if h : p < 20 then
        if k : c < 8 then s.modPort ⟨p, h⟩ fun x => { x with lanes := x.lanes.set c .permanent }
        else s.modSpare (groupOf ⟨p, h⟩) (c - 8) fun x => { x with state := .retired, permanent := true }
      else s
    | _ => s) s

/-- Step 9 begins: the configuration block goes to the routers and LINK_SPAREMAP, and every port trains, at
HALF when the step is done the alternate way (R342, R357, R397, R429). -/
def State.startLinks (s : State) (alt : Bool) : State :=
  match s.boot.cfg with
  | none => s
  | some c =>
    let s := s.journalLanes
    let home (g k : Nat) : BitVec 3 := c.homes.getD (4 * g + k) 7
    let train (x : LPort) : LPort := { x with
      halfRate := alt, state := if x.disable then .disabled else .detect }
    let load (r : Router) : Router := { r with self := c.chip, topo := c.topo }
    { s with
      routers := s.routers.map load
      spares := s.spares.mapIdx fun g v => v.mapIdx fun k (x : Spare) => { x with home := home g k }
      ports := s.ports.map train
      gtc := { s.gtc with master := c.master } }

/-- LOCKED is first sought: the CP sets the parent from RTR_SELF and RTR_TOPO, and the GTC may step once (R431, R436);
a boot that skips step 11 seeks it in the background (R587, R589). -/
def State.seekLock (s : State) : State := { s with gtc := { s.gtc with stepped := false } }.setParent

/-- What the SMC does as a step begins. -/
def State.onStart (s : State) (step : Nat) (alt : Bool) : State :=
  if step = 9 then s.startLinks alt
  else if step = 11 then s.seekLock
  else if step = 14 then if s.boot.lostHist then s.enterProbation 0 else s
  else s

/-- Begin a step, or skip it and begin the next, for at most `n` skips: an optional step that failed the normal
way on the previous boot is skipped, one with an alternate is done that way (R589); a skipped self-test means
probation (R525), and a boot that lost the repair journal skips none (R591). -/
def State.startStep (n step : Nat) (s : State) : State :=
  let failed := s.boot.failedNormal step
  match n, isOptional step && failed && !(step == 12 && s.boot.lostRepair) with
  | k + 1, true =>
    let s := s.bootRec step .skipped 0
    let s := if step = 12 then s.enterProbation 0 else if step = 11 then s.seekLock else s
    State.startStep k (step + 1) s
  | _, _ =>
    let alt := hasAlternate step && failed
    let s := { s with boot := { s.boot with
      step := BitVec.ofNat 4 step, alt := alt, state := if step ≤ 3 then .rom else .booting } }
    (s.bootRec step .started (if alt then 1 else 0)).onStart step alt

/-- Go on with a step. -/
def State.nextStep (s : State) (step : Nat) : State := State.startStep 3 step s

/-- The highest BOOTNO of a list of records. -/
def highestBoot (l : List BootRec) : Nat := l.foldl (fun m r => max m r.bootno.toNat) 0

/-- A boot begins at step 1: BOOTNO and ATTEMPT grow (R588, R604). -/
def State.beginBoot (s : State) : State :=
  let b := s.boot
  { s with boot := { b with
    bootno := BitVec.ofNat 32 (highestBoot b.journal + 1)
    attempt := BitVec.ofNat 8 (min 4 (b.attempt.toNat + 1))
    jlost := false, noPrev := false, lostHist := false, telemOn := false } }.nextStep 1

/-- A device reset with its cause code (R581, R604), and the boot that follows. -/
def State.deviceReset (s : State) (cause : BitVec 3) : State :=
  { s with boot := { s.boot with rstcause := cause } }.beginBoot

/-! ### A step fails (R587, R590, R591) -/

/-- Recovery mode (R585). -/
def State.recovery (s : State) : State := { s with boot := { s.boot with state := .recovery } }

/-- Step 4 with journals that cannot be read (R591): bit 0 the boot journal, of which `lost` names the sectors
that fail their checks, bit 1 the repair journal, bit 2 the unit-history journal. -/
def State.loseJournals (s : State) (detail : BitVec 16) (lost : List Nat) : State :=
  let b := s.boot
  let kept := ((List.range b.journal.length).zip b.journal).filterMap fun e =>
    if lost.contains ((b.first + e.1) % 4096 / 256) then none else some e.2
  let s := if detail.getLsbD 0 then
      { s with boot := { b with
        journal := kept, noPrev := true
        bootno := BitVec.ofNat 32 (highestBoot (kept.filter fun r => r.bootno != b.bootno) + 1) } }
    else s
  let s := if detail.getLsbD 1 then
      { s with
        integ := { s.integ with repairs := [] }
        boot := { s.boot with jlost := true, lostRepair := true, unfit := true } }
    else s
  if detail.getLsbD 2 then
    let seen := s.boot.journal.foldl (fun m r => max m r.ptime.toNat) 0
    { s with
      integ := { s.integ with confirmed := [], histProb := none, histLanes := [], histCopies := [] }
      power := { s.power with histCore := 50, histSerac := 50, dipLog := [], trips := [] }
      boot := { s.boot with jlost := true, lostHist := true, histPtime := BitVec.ofNat 64 seen } }
  else s

/-- Step 4 has read what the journals hold: powered time, trim offsets, probation and drain (R525, R527). -/
def State.readJournals (s : State) : State :=
  let g := s.integ
  let st : BitVec 2 := if s.journalled .drained then 2 else if g.histProb.isSome then 1 else 0
  let p : Power := { s.power with coreOfs := s.power.histCore, seracOfs := s.power.histSerac }
  { s with
    boot := { s.boot with ptime := s.boot.histPtime }
    power := p.retrim
    integ := { g with
      state := st
      probstart := g.histProb.getD 0
      inttest := if g.histProb.isSome then 100 else 10000 } }

/-- An attempt fails: after the fourth the SMC holds the dies and waits; otherwise it resets the device and
begins anew (R590). -/
def State.attemptFailed (s : State) : State :=
  let s := { s with boot := { s.boot with fails := s.boot.fails + 1 } }.smcReset 2
  if 4 ≤ s.boot.fails then
    { s with boot := { s.boot with state := .bootFail } }.smcReport 0x102 0 0
  else s.deviceReset 4

/-- The DETAIL of a failed step: for step 9 the lowest CABLED port that is not ACTIVE. -/
def State.failDetail (s : State) (step : Nat) (detail : BitVec 16) : BitVec 16 :=
  let cabled := match s.boot.cfg with | some c => c.cabled | none => 0
  match step == 9, allPorts.find? fun p => cabled.getLsbD p.val && (s.port p).state != .active with
  | true, some p => BitVec.ofNat 16 p.val
  | _, _ => detail

/-- A step has failed. -/
def State.stepFailed (s : State) (detail : BitVec 16) (lost : List Nat) : State :=
  let b := s.boot
  let n := b.step.toNat
  let d := s.failDetail n detail
  let rec_ (s : State) : State := s.bootRec n (if b.alt then .failedAlt else .failed) d
  if n ≤ 2 then (rec_ s).recovery
  else if n = 3 then
    if b.alt then (rec_ s).recovery
    else if s.copyValid (!b.copyB) then
      let s := rec_ s
      { s with boot := { s.boot with alt := true } }
    else ((rec_ s).bootRec 3 .failedAlt d).recovery
  else if n = 4 then (((s.loseJournals d lost).readJournals).bootRec 4 .failed d).nextStep 5
  else if n = 5 then s
  else if n ≤ 10 then (rec_ s).attemptFailed
  else if n ≤ 13 then (rec_ s).nextStep (n + 1)
  else s

/-! ### A step ends (R587) -/

/-- The PCIe ports that step 10 must bring to L0: those CONNECTED whose PERST line is high (R622). -/
def State.wantsPcie (s : State) (p : PciePort) : Bool :=
  let conn := match s.boot.cfg, p with
    | some c, .a => c.connA
    | some c, .b => c.connB
    | none, _ => false
  conn && (s.fn p).perst

/-- A port's link is in L0. -/
def State.pcieUp (s : State) (p : PciePort) (b : Bool) : State :=
  if b then s.modFn p fun f => { f with linkUp := true } else s

/-- What a step that ends well needs. -/
def State.stepOk (s : State) (r : StepResult) : Bool :=
  let b := s.boot
  let cabled := match b.cfg with | some c => c.cabled | none => 0
  r.ok && match b.step.toNat with
    | 2 => !b.reselect || (s.selectCopy).isSome
    | 3 => !b.alt || s.copyValid (!b.copyB)
    | 6 => !s.power.thermtrip
    | 9 => allPorts.all fun p => !cabled.getLsbD p.val || (s.port p).state == .active
    | 10 => (!s.wantsPcie .a || r.pcieA || (s.fn .a).linkUp) && (!s.wantsPcie .b || r.pcieB || (s.fn .b).linkUp)
    | 11 => s.gtc.locked || s.gtc.master
    | _ => true

/-- Every unit that the first self-test after a lost repair journal finds faulty is permanently retired (R591). -/
def State.retireFound (s : State) (failed : List TestFailure) : State :=
  failed.foldl (fun s f => match repairOf f.kind f.index.toNat with
    | some (.pseudo k pc) => s.retirePc k pc
    | some r => s.recordRepair r
    | none => s) s

/-- A step's effect as it ends well. -/
def State.onDone (s : State) (r : StepResult) : State :=
  let b := s.boot
  match b.step.toNat with
  | 2 =>
    let sel := if b.reselect then (s.selectCopy).getD b.copyB else b.copyB
    { s with boot := { b with copyB := sel, reselect := false, cfg := some (s.copyCfg sel) } }
  | 4 => s.readJournals
  | 5 => { s with power := { s.power with powerFlt := false } }
  | 6 => { s with boot := { b with inReset := false } }.loadIdentity
  | 7 =>
    let x := s.applyRepairs
    { x with integ := { x.integ with spares := s.integ.spares } }
  | 10 => (s.pcieUp .a (r.pcieA && s.wantsPcie .a)).pcieUp .b (r.pcieB && s.wantsPcie .b)
  | 12 =>
    let x := s.fullTest r.failed
    if b.lostRepair then
      let y := x.retireFound r.failed
      { y with boot := { y.boot with lostRepair := false, unfit := false } }
    else x
  | 13 => { s with boot := { b with telemOn := true } }
  | 14 => { s with boot := { b with state := .ready } }.sendIdentity
  | _ => s

/-- Whether a boot step is in progress. -/
def State.booting (s : State) : Bool :=
  (s.boot.state == .rom || s.boot.state == .booting) && s.boot.step != 0 && s.side.aonPwrgd

/-- Whether the step in progress can end now: step 5 waits for RESET_N high. -/
def State.stepCanEnd (s : State) : Bool := s.booting && (s.boot.step != 5 || s.side.resetN)

/-- The step in progress ends well: its record, and the next step. -/
def State.stepDone (s : State) (r : StepResult) : State :=
  let n := s.boot.step.toNat
  let x := (s.onDone r).bootRec n (if s.boot.alt then .doneAlt else .done) r.detail
  if n = 14 then x else x.nextStep (n + 1)

/-- A boot step ends (R587). -/
def execBootStepDone (r : StepResult) (s : State) : Res :=
  if !s.stepCanEnd then .next s
  else if s.stepOk r then .next (s.stepDone r)
  else .next (s.stepFailed r.detail r.lost)

/-- A boot step exceeds its limit and fails (R587, R590). Steps 5 and 14 have no limit. -/
def execBootStepTimeout (detail : BitVec 16) (s : State) : Res :=
  .next (if s.booting then s.stepFailed detail [] else s)

/-! ### Resets (R567, R580 to R582, R621) -/

/-- RESET_N has been low for 100 ns (R582, R621): during a boot step from step 6 on that step is ABORTED and
the boot resumes at step 5; before it the boot goes on to wait in step 5; otherwise the device is reset. -/
def execResetNAssert (s : State) : Res :=
  let s := { s with side := { s.side with resetN := false } }
  let s0 := s.holdDies false
  if s.booting then
    if s.boot.step.toNat ≤ 5 then .next s
    else .next (({ s0 with boot := { s0.boot with rstcause := 1 } }.bootRec s.boot.step.toNat .aborted 0).nextStep 5)
  else if s.boot.state == .ready && s.side.aonPwrgd then .next (s0.deviceReset 1)
  else .next s

/-- RESET_N rises: a boot that waits in step 5 goes on (R587). -/
def execResetNRelease (s : State) : Res :=
  let s := { s with side := { s.side with resetN := true } }
  .next (if s.booting && s.boot.step == 5 then s.stepDone ⟨true, 0, [], false, false, []⟩ else s)

/-- A power fault (R567): the job stops with POWER_FAULT, the dies are reset, and the boot follows. -/
def execPowerFault (s : State) : Res :=
  if !s.side.aonPwrgd then .next s
  else
    let s := (s.smcReport 0x22 0x22 0).smcReset 0x22
    let s := { s with power := { s.power with powerFlt := true } }
    if s.boot.state == .recovery || s.boot.state == .bootFail then .next s else .next (s.deviceReset 3)

/-- What an AON reset leaves of a NOR operation in progress: unspecified bytes where it wrote. -/
def State.cutNorOp (s : State) : State :=
  match s.lom.norOp with
  | none => s
  | some o =>
    let n := s.takeFree
    { n.2 with nor := Memory.writeBytes 0xFF s.nor o.addr (tab o.data.length fun i => Config.freeByte n.1 i) }

/-- AON_PWRGD falls (R581): everything is reset but what NOR holds; the reread that classifies an uncorrectable line
cannot run any more (R524). -/
def execAonReset (s : State) : Res :=
  let s := s.cutNorOp
  let z := State.reset
  let fn (f : PciFn) : PciFn := { PciFn.reset with perst := f.perst, irqs := f.irqs }
  .next { z with
    ouvzu := { z.ouvzu with fns := s.ouvzu.fns.map fn }
    integ := { z.integ with
      waiting := s.integ.waiting.filter fun e => e.code != 0x0002
      lost := s.integ.lost ++ s.integ.waiting.filter fun e => e.code == 0x0002
      repairs := s.integ.repairs, confirmed := s.integ.confirmed, histProb := s.integ.histProb
      histLanes := s.integ.histLanes, histCopies := s.integ.histCopies }
    power := { z.power with
      dipLog := s.power.dipLog, trips := s.power.trips, histCore := s.power.histCore, histSerac := s.power.histSerac }
    boot := { z.boot with journal := s.boot.journal, first := s.boot.first, histPtime := s.boot.histPtime }
    side := { z.side with resetN := s.side.resetN, tapLog := s.side.tapLog, tickIgn := s.side.tickIgn }
    fuses := s.fuses, hostA := s.hostA, hostB := s.hostB, nor := s.nor, free := s.free, pending := s.pending }

/-- AON_PWRGD rises: the GTC starts from 0, and the SMC begins boot step 1 (R428, R587). -/
def execAonPwrgdRise (s : State) : Res :=
  if s.side.aonPwrgd then .next s
  else
    let s := { s with
      side := { s.side with aonPwrgd := true }
      gtc := { s.gtc with count := 0, frac := 0 } }
    .next (s.deviceReset 0)

/-- Every 60 s the SMC writes powered time to the unit-history journal (R605). -/
def execPtimeJournal (s : State) : Res :=
  let t := s.boot.ptime + 60
  .next (if s.side.aonPwrgd then { s with boot := { s.boot with ptime := t, histPtime := t } } else s)

/-- A PERST line rises: a CONNECTED port that boot step 10 has passed over, or whose link went down, is
trained (R622). -/
def execPerstRise (p : PciePort) (s : State) : Res :=
  let s := s.modFn p fun f => { f with perst := true }
  let past := s.boot.state == .ready || (s.booting && decide (10 ≤ s.boot.step.toNat))
  .next (s.pcieUp p (past && !s.boot.inReset && s.wantsPcie p))

end Sys2Proof.Machine
end

