-- ==== Sys2Proof/Machine/Checkpoint.lean ====
section
/-!
DEFINITION. Checkpoints (R535 to R554): the capture point, shards and part manifests, restore in both modes.
-/
namespace Sys2Proof.Machine

/-! ### What a chip saves (R539 to R542) -/

/-- A chip's role: global replica index, stage, sequence block, tensor shard (R541). -/
def Topo.role (t : Topo) (a : ChipAddr) : List Nat :=
  [t.cutIndex a 1, t.pos a 1, t.pos a 2, t.shard a]

/-- The eight bytes of a role (R543). -/
def roleBytes (r : List Nat) : List Byte :=
  leBytes 4 (r.getD 0 0) ++ leBytes 1 (r.getD 1 0) ++ leBytes 1 (r.getD 2 0) ++ leBytes 1 (r.getD 3 0) ++ [0]

/-- The degrees of X, S and T under a shape, and a role's index along a cut. -/
def cutDegreeOf (deg : List Nat) (cut : Nat) : Nat := if cut = 0 then 1 else deg.getD (cut - 1) 1

/-- A role's index along a cut. -/
def cutIndexOf (role : List Nat) (cut : Nat) : Nat :=
  match cut with
  | 1 => role.getD 0 0
  | 2 => role.getD 2 0
  | 3 => role.getD 3 0
  | _ => 0

/-- The degrees of the cuts in a job. -/
def Topo.degrees (t : Topo) : List Nat := [t.cutDegree 1, t.cutDegree 2, t.cutDegree 3]

/-- The box of a tensor that a role holds: first indices and lengths of its dimensions (R541). -/
def TensDecl.box (d : TensDecl) (deg role : List Nat) : List (Nat × Nat) :=
  tab d.rank fun k =>
    let cut := d.cut.getD k 0
    let n := d.dim.getD k 0 / cutDegreeOf deg cut
    (cutIndexOf role cut * n, n)

/-- Whether a role saves a tensor (R541). -/
def TensDecl.savedBy (d : TensDecl) (role : List Nat) : Bool :=
  role.getD 1 0 == d.stage && [1, 2, 3].all fun c => d.cut.contains c || cutIndexOf role c == 0

/-- Elements of a box. -/
def boxCount (b : List (Nat × Nat)) : Nat := (b.map Prod.snd).foldl (· * ·) 1

/-- The indices of element `i` of a box, dimension 0 slowest. -/
def boxIndex : List (Nat × Nat) → Nat → List Nat
  | [], _ => []
  | d :: l, i => (d.1 + i / boxCount l % d.2) :: boxIndex l i

/-- The place of an element in a box, when it is inside. -/
def boxPlace : List (Nat × Nat) → List Nat → Option Nat
  | d :: l, i :: is =>
    if d.1 ≤ i ∧ i < d.1 + d.2 then (boxPlace l is).map fun r => (i - d.1) * boxCount l + r else none
  | _, _ => some 0

/-- The structure that a SRC 1 entry names. -/
def State.structOf (s : State) (d : TensDecl) : SerStruct :=
  if h : d.base % 256 < 8 then (s.cluster ⟨d.base % 256, h⟩).struct (d.base / 256) else .unused

/-- Whether a structure's exponent lets its slice be written as FP64 (R542). -/
def fp64Range (e : Int) : Bool := decide (-975 ≤ e ∧ e ≤ 1023)

/-- The payload of a tensor's shard and its SKIND (R542). A structure out of the FP64 range has a payload that
the manual gives no layout. -/
def State.tensorPayload (s : State) (d : TensDecl) (box : List (Nat × Nat)) (free : Nat) : List Byte × Nat :=
  let n := boxCount box
  if d.src = 0 then
    (s.serRd d.base (elemBytes d.fmt n) ++ (if isBlockFmt d.fmt then s.serRd d.scale (n / 32) else []), 0)
  else
    let w := (s.structOf d).w
    if fp64Range w.e then
      let code (i : Nat) : Nat :=
        let ix := boxIndex box i
        let m := w.get (ix.getD 0 0) (ix.getD 1 0)
        (fFP64.rne (.fin (decide (m < 0)) m.natAbs (w.e - 47))).1
      (packElems 0 (tab n code), 0)
    else (tab (8 * n) fun i => Config.freeByte free i, 1)

/-- Payload bytes of a tensor's shard (R542). -/
def TensDecl.payloadLen (d : TensDecl) (n : Nat) : Nat :=
  elemBytes d.fmt n + (if isBlockFmt d.fmt then n / 32 else 0)

/-- SHAPE of a shard header (R542). -/
def Topo.shape (t : Topo) : List Byte :=
  leBytes 2 t.dx ++ leBytes 1 t.p ++ leBytes 1 t.s ++ leBytes 1 t.t ++ leBytes 2 t.pods.length ++ [0]

/-- A shard: its header and its payload (R542). -/
def shard (t : Topo) (step slotOff : Nat) (kind fmt tid rank : Nat) (lo hi : List Nat) (payload : List Byte) :
    List Byte :=
  let dims (l : List Nat) : List Byte := (tab 4 fun k => l.getD k 0).flatMap fun v => leBytes 4 v
  let head := [0x50#8, 0x46#8, 0x53#8, 0x48#8, 0x41#8, 0x52#8, 0x44#8, 0x01#8] ++ leBytes 2 0x100 ++
    leBytes 1 kind ++ leBytes 1 fmt ++ leBytes 4 tid ++ leBytes 8 step ++ leBytes 4 slotOff ++ leBytes 1 rank ++
    leBytes 3 0 ++ dims lo ++ dims hi ++ leBytes 8 payload.length ++ t.shape ++ List.replicate 16 0
  head ++ sha256 (head ++ payload) ++ payload

/-- Whether R539 saves the byte at a key: a tile store, or a declared region without NOSAVE. -/
def Image.saves (im : Image) (key : Nat) : Bool :=
  if isHbm key then
    ((List.range im.regions.length).zip im.regions).any fun r => !bitOf im.nosave r.1 && r.2.holds key
  else true

/-- The unit state that a capture records (R539). -/
def State.snapshot (s : State) (im : Image) : UnitSnap where
  mem := s.mem.filter fun c => im.saves c.1
  tiles := s.tiles.toList
  clusters := s.clusters.toList
  phTot := s.cp.phTot.toList
  phCnt := s.cp.phCnt.toList
  phMax := s.cp.phMax.toList
  nextImp := s.job.nextImp
  exports := s.job.exports
  impDone := s.job.impDone
  stopped := s.job.stopped

/-- The tensors that this chip saves. -/
def Image.saved (im : Image) (a : ChipAddr) : List TensDecl :=
  im.tensors.filter fun d => d.savedBy (im.topo.role a)

/-- The bytes that a capture writes: shards and part manifest (R535). -/
def Image.captureSize (im : Image) (a : ChipAddr) : Nat :=
  let l := im.saved a
  let role := im.topo.role a
  (l.map fun d => 128 + d.payloadLen (boxCount (d.box im.topo.degrees role))).sum + 128 + Config.unitSize im.digest +
    64 + 64 * (l.length + 1)

/-! ### CAPTURE (R535) -/

/-- The slot of a capture point. -/
def State.capturePoint (s : State) (step slotOff : Nat) : Int :=
  s.baseOf step + slotOff

/-- CAPTURE: its conditions in the order of R535's table. -/
def execCapture (h : Nat) (s : State) : Res :=
  s.runCmd h 0x14 (fun c => decide (c.arg 16 4 < s.gtc.slen.toNat ∨ s.job.image.isNone) && c.arg 24 8 % 4096 == 0)
    fun s c =>
      match s.job.image with
      | none => s.commitCmd h 0x16 0 0
      | some im =>
        let off := 0x4000_0000_0000 + c.arg 24 8
        if !s.job.running || s.job.pending.isSome then s.commitCmd h 0x16 0 0
        else if 64 * s.capturePoint (c.arg 8 8) (c.arg 16 4) < s.gtc.count.toNat + 200000 then s.commitCmd h 0x16 0 0
        else if s.ckpt.armed.isSome then s.commitCmd h 0x16 0 0
        else if (s.windowAt off (c.arg 32 8) true).isNone then s.commitCmd h 0x12 0 0
        else if c.arg 32 8 < im.captureSize s.routers[0].self then s.commitCmd h 0x15 0 0
        else
          let a : Armed := ⟨h, BitVec.ofNat 64 (c.arg 8 8), c.arg 16 4, BitVec.ofNat 64 (c.arg 24 8),
            BitVec.ofNat 64 (c.arg 32 8)⟩
          { s with ckpt := { s.ckpt with state := 1, armed := some a } }.executing h

/-! ### The capture point and the drain (R536, R537) -/

/-- The boundary 64 · C is observed: sequencers stop issuing and running Serac commands pause (R536); what is
in flight goes on by its own rows. A WAITSLOT that waits has not completed, and its address is the
captured PC. -/
def execCapturePoint (s : State) : Res :=
  match s.ckpt.armed with
  | some a =>
    let c := s.capturePoint a.step.toNat a.slotOff
    if s.ckpt.state == 1 && s.job.running && s.observed c then
      let stop (x : Tile) : Tile := { x with seq := { x.seq with run := false, slotWait := none } }
      .next { s with
        tiles := s.tiles.map stop
        clusters := s.clusters.map fun c => { c with paused := true }
        ckpt := { s.ckpt with state := 2 } }
    else .next s
  | none => .next s

/-- Whether a tile has drained: nothing speculative or issued is left but DMA operations between units. -/
def Tile.drained (x : Tile) : Bool :=
  x.seq.loads.isEmpty && x.seq.stores.isEmpty && x.seq.branches.isEmpty && x.seq.deliver.isEmpty &&
    x.seq.spec.isEmpty && x.matQ.isEmpty && x.vec.queue.isEmpty && !x.rimeBusy && x.rime.queue.isEmpty &&
    x.dma.queue.all fun i => match i with | .op o => o.buf.isNone && o.hdr.tag.isNone | .record _ => false

/-- A DMA operation under way stops at its next unit boundary (R536 step 4): how many of its units it has completed by
then is free (log 95), and their writes stand. -/
def State.stopDma (n : Nat) (s : State) (t : TileId) : State :=
  match (s.tile t).dma.queue with
  | .op o :: rest =>
    if s.dmaMay t o && o.d.check.isNone then
      let r := State.dmaRun t o.d none (Config.freeCount n t.val % (o.d.units - o.d.start + 1)) ⟨s, [], 0, none⟩
      r.s.modTile t fun x => { x with dma := { x.dma with
        queue := .op { o with d := { o.d with start := o.d.start + r.units } } :: rest
        bytes := x.dma.bytes + BitVec.ofNat 64 ((r.puts.map DmaPut.size).sum) } }
    else s
  | _ => s

/-- The tiles in order. -/
def allTiles : List TileId := (List.range 64).filterMap fun i => if h : i < 64 then some ⟨i, h⟩ else none

/-- The DMA operations of a tile that the capture stops, in order. -/
def Tile.stoppedDma (t : TileId) (x : Tile) : List StoppedDma :=
  x.dma.queue.filterMap fun i => match i with
    | .op o => some ⟨t, o.hdr.pc, o.descAddr, o.d, o.d.start⟩
    | .record _ => none

/-- Whether every collective and moraine transfer that starts before the capture point has ended (R536 step 6). -/
def State.transfersDone (s : State) (a : Armed) : Bool :=
  let off := if a.slotOff = 0 && s.job.step.toNat < a.step.toNat then s.gtc.slen.toNat else a.slotOff
  let collDone (c : CollInst) : Bool := c.ended.isSome || (!c.started &&
    match s.collDecl c.ix with | some (d, _) => decide (off ≤ d.start) | none => true)
  let lag (m : Nat) : Nat := match s.morDecl m with | some d => d.lag | none => 0
  let n := match s.job.image with | some im => im.moraine.length | none => 0
  s.job.colls.all collDone && s.job.imports.isEmpty && (List.range n).all fun m =>
    (off ≤ (Config.moraine m).exSlot || s.job.exports.contains (m, s.job.step)) &&
      (off ≤ (Config.moraine m).imSlot ||
        decide (s.job.step.toNat + 1 < (s.job.nextImp.getD m 0).toNat + lag m))

/-- A shard of a capture: TID, SKIND and its bytes. -/
structure ShardOut where
  tid   : Nat
  kind  : Nat
  bytes : List Byte
  deriving DecidableEq, Repr

/-- The part manifest over shards that lie one behind another from a window offset (R543). -/
def partManifest (role : List Nat) (off : Nat) (l : List ShardOut) : List Byte :=
  let offs := (l.foldl (fun (r : List Nat × Nat) x => (r.1 ++ [r.2], r.2 + x.bytes.length)) ([], off)).1
  let ents := (offs.zip l).flatMap fun x =>
    leBytes 8 x.1 ++ leBytes 8 x.2.bytes.length ++ leBytes 4 x.2.tid ++ leBytes 1 x.2.kind ++ List.replicate 11 0 ++
      (x.2.bytes.drop 96).take 32
  let head := roleBytes role ++ leBytes 4 l.length ++ List.replicate 20 0
  head ++ sha256 (head ++ ents) ++ ents

/-- The shards of a capture, and what the unit-state payload stands for. -/
def State.shards (s : State) (im : Image) (a : Armed) (free : Nat) : List ShardOut × (List Byte × UnitSnap) :=
  let self := s.routers[0].self
  let role := im.topo.role self
  let tensor (d : TensDecl) : ShardOut :=
    let box := d.box im.topo.degrees role
    let p := s.tensorPayload d box (2 * free + 1)
    ⟨d.tid, p.2, shard im.topo a.step.toNat a.slotOff p.2 d.fmt d.tid d.rank (box.map Prod.fst)
      (box.map fun b => b.1 + b.2) p.1⟩
  let unit := tab (Config.unitSize im.digest) fun i => Config.freeByte (2 * free) i
  ((im.saved self).map tensor ++
    [⟨0, 1, shard im.topo a.step.toNat a.slotOff 1 0 0 0 role [] unit⟩], (unit, s.snapshot im))

/-- The job is paused at the capture point: it stays admitted and waits to launch there (R537); a QUIESCE
meanwhile completes with STATE (R538). -/
def State.pauseJob (s : State) (a : Armed) : State :=
  let s := (s.ouvzu.cmds.filter fun c => c.opc == 0x12 && c.stage == .executing).foldl
    (fun s c => s.setCommitted c.handle 0x16 0 0) s
  let quiet (x : Tile) : Tile := { x with dma := { x.dma with queue := [] } }
  { s with
    tiles := s.tiles.map quiet
    gtc := { s.gtc with launch := 0 }
    job := { s.job with
      running := false, launched := false, admState := 2, quiesce := none, step := a.step
      resume := ⟨a.step, a.slotOff⟩, stopped := (allTiles.map fun t => (s.tile t).stoppedDma t).flatten }
    ckpt := { s.ckpt with state := 4, armed := none, step := a.step, slotOff := BitVec.ofNat 32 a.slotOff } }

/-- The drain ends (R537): the shards and then the part manifest are written, one behind another from WINOFF,
and CAPTURE commits. A CAPTURE cancelled after C writes nothing more, and a failed host write ends it with
HOST_ERR; the job is paused all the same (R538). -/
def execCaptureDrainEnd (hostOk : Bool) (s : State) : Res :=
  match s.ckpt.armed, s.job.image with
  | some a, some im =>
    if s.ckpt.state != 2 || s.job.pending.isSome || !s.tiles.toList.all Tile.drained || !s.transfersDone a then .next s
    else
      let live := match s.cmd a.handle with | some c => c.stage == .executing | none => false
      let n := s.takeFree
      let s := (allTiles.foldl (State.stopDma n.1) n.2).pauseJob a
      if !live then .next s.flush.settle
      else if !hostOk then .next (s.commitCmd a.handle 0x17 0 0)
      else
        let n := s.takeFree
        let out := n.2.shards im a n.1
        let bytes := out.1.flatMap fun x => x.bytes
        let man := partManifest (im.topo.role s.routers[0].self) a.winOff.toNat out.1
        let s := n.2
        let s := match s.windowAt (0x4000_0000_0000 + a.winOff.toNat) a.winLen.toNat true with
          | some (p, b) => (s.hostWr p b bytes).hostWr p (b + bytes.length) man
          | none => s
        let total := BitVec.ofNat 64 (bytes.length + man.length)
        let s := { s with ckpt := { s.ckpt with
          bytes := s.ckpt.bytes + total, shards := out.2 :: s.ckpt.shards } }
        .next (s.commitCmd a.handle 0 total (a.winOff + BitVec.ofNat 64 bytes.length))
  | _, _ => .next s

/-! ### Restore (R545 to R548) -/

/-- What a restore reads from: a grant's port, the bus address of its window offset 0 as an offset pair, and its
range. -/
def State.grantAt (s : State) (off : Nat) : Option Grant :=
  s.ouvzu.grants.find? fun g => g.win ≤ off && off < g.win + g.len

/-- Bytes at a window offset of a grant; none outside it. -/
def State.winRd (s : State) (g : Grant) (off n : Nat) : Option (List Byte) :=
  if g.win ≤ off ∧ off + n ≤ g.win + g.len then some (s.hostRd g.port (g.host + (off - g.win)) n) else none

/-- A manifest (R544): its header, its tensor entries, its index. -/
structure Manifest where
  head  : List Byte
  tens  : List TensDecl
  index : List (List Byte)
  deriving DecidableEq, Repr

/-- MANIFEST_FORMAT, MANIFEST_DIGEST and the other failures of a restore (R548). -/
def restoreFail (code entry value limit : Nat) : Fail := { code := code, entry := entry, value := value, limit := limit }

/-- Read and verify the manifest (R545 step 1); with it the SHA-256 computed. -/
def State.readManifest (s : State) (g : Grant) (off : Nat) : Except (Fail × Option (List Byte)) (Manifest × List Byte) :=
  let none8 : Nat := 0xFFFFFFFF
  match s.winRd g off 128 with
  | none => .error (restoreFail 0x802 none8 0 0, none)
  | some h =>
    let nt := leAt h 60 4
    let np := leAt h 72 4
    match s.winRd g (off + 128) (64 * nt + 64 * np) with
    | none => .error (restoreFail 0x802 none8 0 0, none)
    | some b =>
      let d := sha256 (h.take 96 ++ b)
      if d != h.drop 96 then .error (restoreFail 0x801 none8 0 0, some d)
      else if h.take 8 != [0x50, 0x46, 0x4D, 0x41, 0x4E, 0x49, 0x46, 0x01] || np == 0 then
        .error (restoreFail 0x802 none8 0 0, some d)
      else .ok (⟨h, (chunks nt 64 b).map TensDecl.ofBytes, chunks np 64 (b.drop (64 * nt))⟩, d)

/-- The degrees of X, S and T that a SHAPE gives. -/
def shapeDegrees (b : List Byte) : List Nat := [leAt b 0 2 * leAt b 5 2, leAt b 3 1, leAt b 4 1]

/-- The role of an index entry. -/
def entryRole (e : List Byte) : List Nat := [leAt e 0 4, leAt e 4 1, leAt e 5 1, leAt e 6 1]

/-- Read and verify the part manifest of index entry `k` (R545 step 3): its shard entries. -/
def State.readPart (s : State) (g : Grant) (k : Nat) (e : List Byte) : Except Fail (List (List Byte)) :=
  match s.winRd g (leAt e 8 8) (leAt e 16 8) with
  | none => .error (restoreFail 0x802 0xFFFFFFFF 0 0)
  | some b =>
    if sha256 (b.take 32 ++ b.drop 64) != (e.drop 32).take 32 then .error (restoreFail 0x804 k 0 0)
    else .ok (chunks (leAt b 8 4) 64 (b.drop 64))

/-- Read and verify the shard of a part-manifest entry (R547): the shard, and where one copy of its digest is bad,
whether it is the shard header's. -/
def State.readShard (s : State) (g : Grant) (e : List Byte) : Except Fail (List Byte × Option Bool) :=
  match s.winRd g (leAt e 0 8) (leAt e 8 8) with
  | none => .error (restoreFail 0x802 0xFFFFFFFF 0 0)
  | some b =>
    let d := sha256 (b.take 96 ++ b.drop 128)
    let own := d == (b.drop 96).take 32
    let copy := d == (e.drop 32).take 32
    if own || copy then .ok (b, if own && copy then none else some copy) else .error (restoreFail 0x805 (leAt e 16 4) 0 0)

/-- A shard accepted with one bad digest copy is counted, and the SMC journals which copy it was (R547). -/
def State.countCopy (s : State) (bad : Option Bool) : State :=
  match bad with
  | some header => { s with
      ckpt := { s.ckpt with badcopy := true, badN := s.ckpt.badN + 1 }
      integ := { s.integ with histCopies := s.integ.histCopies ++ [(s.boot.ptime, header)] } }
  | none => s

/-- A working copy from n × n FP64 codes in row-major order (R181, R546). DESIGN CHOICE (log 145): with a non-finite code
the copy becomes zero, with E = 0. -/
def structOfCodes (n : Nat) (codes : List Nat) : SMat :=
  match toS48 (codes.map fun c => fFP64.decode c) with
  | some (e, ms, _) => ⟨n, e, tab n fun i => tab (n - i) fun t => ms.getD (i * n + i + t) 0⟩
  | none => .zero n

/-- Fill a tensor's slice from codes and block scales. -/
def State.putTensor (s : State) (d : TensDecl) (codes scales : List Nat) : State :=
  if d.src = 0 then
    let s := s.wr d.base (packElems d.fmt codes)
    if isBlockFmt d.fmt then s.wr d.scale (scales.map fun v => BitVec.ofNat 8 v) else s
  else if h : d.base % 256 < 8 then
    s.modCluster ⟨d.base % 256, h⟩ fun c => { c with
      structs := modAt c.structs (d.base / 256) fun x => { x with w := structOfCodes x.order codes } }
  else s

/-- The element codes and scale bytes of a tensor shard's payload. -/
def payloadCodes (fmt n : Nat) (p : List Byte) : List Nat × List Nat :=
  (unpackElems fmt n p, if isBlockFmt fmt then tab (n / 32) fun i => leAt p (elemBytes fmt n + i) 1 else [])

/-- A unit-state payload as what it stands for. -/
def State.unitOf (s : State) (p : List Byte) : UnitSnap :=
  match s.ckpt.shards.find? fun e => e.1 == p with
  | some e => e.2
  | none => Config.unitOf p

/-- A tile's restored state (R539): what R133, R234, R235, R237, R108 and R204 hold, and TILE_FPSTAT. -/
def Tile.putBack (x y : Tile) : Tile :=
  { x with
    seq := { x.seq with
      regs := y.seq.regs, preds := y.seq.preds, pc := y.seq.pc, pcCom := y.seq.pc, phase := y.seq.phase
      phaseCom := y.seq.phase, ended := y.seq.ended, slotWait := none, phRecs := y.seq.phRecs }
    fpstat := y.fpstat
    acc := y.acc
    rime := { x.rime with slots := y.rime.slots, bind := y.rime.bind }
    vec := { x.vec with regs := y.vec.regs, masks := y.vec.masks } }

/-- A cluster's restored state (R539). No restore writes a mantissa outside S48 (R55): a record this chip did not
write stands for slots of that format only. -/
def Cluster.restore (x y : Cluster) : Cluster :=
  { x with
    structs := y.structs.map SerStruct.legal, step := y.step, ended := y.ended
    running := y.running.map SerRun.legal, switches := y.switches
    paused := true }

/-- Write back the unit state (R546 FULL). -/
def State.restoreUnits (s : State) (im : Image) (u : UnitSnap) : State :=
  let kept := s.mem.filter fun c => !im.saves c.1
  let unmark (k : Stack) : Stack := { k with marked := k.marked.filter fun l => !im.saves l }
  { s with
    mem := (u.mem.filter fun c => im.saves c.1).foldl (fun m c => Memory.writeBytes 0 m c.1 [c.2]) kept
    hbm := s.hbm.map unmark
    tiles := s.tiles.mapIdx fun i x => match u.tiles[i]? with | some y => x.putBack y | none => x
    clusters := s.clusters.mapIdx fun i x => match u.clusters[i]? with | some y => x.restore y | none => x
    cp := { s.cp with
      phTot := vtab 64 fun i => u.phTot.getD i 0, phCnt := vtab 64 fun i => u.phCnt.getD i 0
      phMax := vtab 64 fun i => u.phMax.getD i 0 }
    job := { s.job with
      nextImp := u.nextImp, exports := u.exports, impDone := u.impDone, stopped := u.stopped } }

/-- One shard of a FULL restore: the unit state, or a tensor's slice. -/
def State.putShard (s : State) (im : Image) (tid : Nat) (b : List Byte) : State :=
  let p := b.drop 128
  if tid = 0 then s.restoreUnits im (s.unitOf p)
  else match im.tensors.find? fun d => d.tid == tid with
    | some d =>
      if leAt b 10 1 = 0 then
        let c := payloadCodes d.fmt (boxCount (d.box im.topo.degrees (im.topo.role s.routers[0].self))) p
        s.putTensor d c.1 c.2
      else s
    | none => s

/-- FULL: every shard of the chip's own role, the unit state first. -/
def State.restoreFull (s : State) (im : Image) (g : Grant) (m : Manifest) : Except Fail State :=
  let role := im.topo.role s.routers[0].self
  match ((List.range m.index.length).zip m.index).find? fun e => entryRole e.2 == role with
  | none => .error (restoreFail 0x802 0xFFFFFFFF 0 0)
  | some (k, e) => do
    let ents ← s.readPart g k e
    let order := (ents.filter fun e => leAt e 16 4 == 0) ++ ents.filter fun e => leAt e 16 4 != 0
    let got ← order.mapM fun e => (s.readShard g e).map fun r => (leAt e 16 4, r)
    return got.foldl (fun s r => (s.putShard im r.1 r.2.1).countCopy r.2.2) s

/-- A captured slice: the box it covers, its codes and scales; none for a structure that was out of the FP64
range. -/
abbrev Piece := List (Nat × Nat) × Option (List Nat × List Nat)

/-- Whether two boxes share an element. -/
def boxMeets (a b : List (Nat × Nat)) : Bool := (a.zip b).all fun p => meets p.1.1 p.1.2 p.2.1 p.2.2

/-- The captured slices of one tensor that meet a box, and the bad digest copies they were accepted with. -/
def State.pieces (s : State) (g : Grant) (m : Manifest) (old : TensDecl) (box : List (Nat × Nat)) :
    Except Fail (List Piece × List (Option Bool)) :=
  let deg := shapeDegrees ((m.head.drop 64).take 8)
  let need := ((List.range m.index.length).zip m.index).filter fun e =>
    old.savedBy (entryRole e.2) && boxMeets (old.box deg (entryRole e.2)) box
  need.foldlM (fun (acc : List Piece × List (Option Bool)) e => do
    let ents ← s.readPart g e.1 e.2
    match ents.find? fun x => leAt x 16 4 == old.tid with
    | none => return acc
    | some x =>
      let r ← s.readShard g x
      let b := old.box deg (entryRole e.2)
      let c := if leAt r.1 10 1 = 0 then some (payloadCodes old.fmt (boxCount b) (r.1.drop 128)) else none
      return (acc.1 ++ [(b, c)], acc.2 ++ [r.2])) ([], [])

/-- The code and scale of an element from the pieces. -/
def pieceAt (l : List Piece) (ix : List Nat) : Nat × Nat :=
  match l.findSome? fun p => (boxPlace p.1 ix).map fun k => (p.2, k) with
  | some (some c, k) => (c.1.getD k 0, c.2.getD (k / 32) 0)
  | _ => (0, 0)

/-- One admitted tensor entry of a RESLICE (R546). -/
def State.resliceTensor (s : State) (im : Image) (g : Grant) (m : Manifest) (d : TensDecl) : Except Fail State :=
  let box := d.box im.topo.degrees (im.topo.role s.routers[0].self)
  match m.tens.find? fun o => o.tid == d.tid with
  | none => .error (restoreFail 0x806 d.tid 0 d.tid)
  | some o =>
    if o.fmt != d.fmt then .error (restoreFail 0x806 d.tid o.fmt d.fmt)
    else if o.dim != d.dim then
      let k := ((List.range 4).find? fun k => o.dim.getD k 0 != d.dim.getD k 0).getD 0
      .error (restoreFail 0x806 d.tid (o.dim.getD k 0) (d.dim.getD k 0))
    else if d.stage != im.topo.pos s.routers[0].self 1 then .ok s
    else do
      let r ← s.pieces g m o box
      let all := tab (boxCount box) fun i => pieceAt r.1 (boxIndex box i)
      let s := r.2.foldl State.countCopy s
      return s.putTensor d (all.map Prod.fst)
        (tab (boxCount box / 32) fun b => (all.getD (32 * b) (0, 0)).2)

/-- RESLICE: every tensor entry of the admitted image; unit state keeps its admission values, the clusters walk
from the restored step, and the next import of each moraine declaration is the one that step reads. -/
def State.restoreReslice (s : State) (im : Image) (g : Grant) (m : Manifest) (step : Word) : Except Fail State := do
  let s ← im.tensors.foldlM (fun s d => s.resliceTensor im g m d) s
  return { s with
    clusters := s.clusters.map fun c => { c with step := step }
    job := { s.job with
      nextImp := tab 64 fun i => match im.moraine[i]? with
        | some d => BitVec.ofNat 64 (step.toNat + 1 - d.lag)
        | none => 0 } }

/-- Steps 2 to 5 of R545. -/
def State.restoreFrom (s : State) (im : Image) (g : Grant) (m : Manifest) : Except Fail State :=
  let step : Word := BitVec.ofNat 64 (leAt m.head 48 8)
  let off := leAt m.head 56 4
  let full := (m.head.drop 16).take 32 == im.digest && (m.head.drop 64).take 8 == im.topo.shape
  let r := if full then s.restoreFull im g m
    else if off ≠ 0 then .error (restoreFail 0x803 0xFFFFFFFF off 0)
    else s.restoreReslice im g m step
  r.map fun s => { s with
    job := { s.job with step := step, resume := ⟨step, off⟩, restored := true }
    ckpt := { s.ckpt with reslice := !full, step := step, slotOff := BitVec.ofNat 32 off, state := 0 } }

/-- Whether the admitted image has not been launched or restored since its admission. -/
def State.restorable (s : State) : Bool :=
  s.waitsToLaunch && !s.job.restored && s.job.resume.step == 0 && s.ckpt.state != 4

/-- RESTORE (R545): on a failure the chip is as admission left it, and the report names the failure. -/
def execRestore (h : Nat) (hostOk : Bool) (s : State) : Res :=
  s.runCmd h 0x15 (fun _ => true) fun s c => s.onPort c fun p =>
    match s.job.image with
    | none => s.commitCmd h 0x16 0 0
    | some im =>
      if !s.restorable then s.commitCmd h 0x16 0 0
      else
        let n := s.takeFree
        let s := n.2
        let fail (f : Fail) (d : Option (List Byte)) : State :=
          let digest := d.getD (tab 32 fun i => Config.freeByte n.1 i)
          (s.hostWr p (c.arg 16 8) (f.report digest)).commitCmd h 0x30 0 0
        if !hostOk then fail (restoreFail 0x807 0xFFFFFFFF (c.arg 8 8) 0) none
        else match s.grantAt (c.arg 8 8) with
          | none => fail (restoreFail 0x802 0xFFFFFFFF 0 0) none
          | some g => match s.readManifest g (c.arg 8 8) with
            | .error e => fail e.1 e.2
            | .ok (m, d) => match s.restoreFrom im g m with
              | .error f => fail f (some d)
              | .ok s => s.commitCmd h 0 s.job.step (BitVec.ofNat 64 s.job.resume.slotOff)

end Sys2Proof.Machine
end

