-- ==== Sys2Proof/Machine/RegWrite.lean ====
section
/-!
DEFINITION. Register writes by address (R10, R12, R270, R370, R397, R399, R480 to R483, R625).
-/
namespace Sys2Proof.Machine

/-! ### BAR0 (R480 to R483) -/

/-- MBOX_CMD with the bytes of a write at `o`. -/
def mboxWrite (m : List Byte) (o n v : Nat) : List Byte :=
  if 0x100 ≤ o ∧ o < 0x140 then patch m (o - 0x100) (leBytes n v) else m

/-- One entry of the MSI-X table at offset `r` with a write applied. -/
def MsixEntry.write (e : MsixEntry) (r o n v : Nat) : MsixEntry where
  addr := rwField e.addr 0 r 8 o n v
  data := rwField e.data 0 (r + 8) 4 o n v
  ctrl := rwField e.ctrl 0 (r + 12) 4 o n v

/-- A vector that is unmasked while it is pending is sent, and its pending bit clears (R478). -/
def PciFn.unmask (f : PciFn) (v : Nat) : PciFn :=
  match f.msix[v]? with
  | some e =>
    if !e.ctrl.getLsbD 0 && f.pba.getLsbD v then
      { f with pba := clearBits f.pba (bitAt 2048 v true), irqs := f.irqs ++ [v] }
    else f
  | none => f

/-- A write to the MSI-X table. -/
def PciFn.msixWrite (f : PciFn) (o n v : Nat) : PciFn :=
  let k := (o - 0x8000) / 16
  { f with msix := modAt f.msix k fun e => e.write (0x8000 + 16 * k) o n v }.unmask k

/-- The plain control registers with a write applied (R481). -/
def PciFn.ctrlWrite (f : PciFn) (o n v : Nat) : PciFn :=
  { f with
    aqsq := rwField f.aqsq 0 0x10 8 o n v
    aqcq := rwField f.aqcq 0 0x18 8 o n v
    aqsize := rwField f.aqsize 0 0x20 4 o n v
    mboxCmd := mboxWrite f.mboxCmd o n v }

/-- Whether a write addresses byte `r`. -/
def touches (r o n : Nat) : Bool := decide (o ≤ r ∧ r < o + n)

/-- A write to EN (R482): setting and clearing act when the bit changes. -/
def State.enWrite (s : State) (p : PciePort) (o n v : Nat) : State :=
  if !touches 8 o n then s
  else if (laneVal 8 4 o n v).testBit 0 then (if (s.fn p).en then s else s.enSet p)
  else s.enClear p

/-- A doorbell write of 32 bits (R480, R485): SQ tail at +0, CQ head at +4. -/
def State.bellWrite (s : State) (p : PciePort) (o n v : Nat) : State :=
  let q := (o - 0x10_0000) / 8
  let r := 0x10_0000 + 8 * q
  if n ≠ 4 then s
  else if o = r then s.doorbell p q fun x => x.setTail v else s.doorbell p q fun x => x.setHead v

/-- A write to BAR0; the mirror of the CP block and offsets not listed take none (R480). -/
def State.bar0Write (s : State) (p : PciePort) (o n v : Nat) : State :=
  if o < 0x140 then
    let s := (s.modFn p fun f => f.ctrlWrite o n v).enWrite p o n v
    if touches 0x28 o n && (laneVal 0x28 4 o n v).testBit 0 then s.mboxGo p else s
  else if 0x8000 ≤ o ∧ o < 0x1_0000 then s.modFn p fun f => f.msixWrite o n v
  else if 0x10_0000 ≤ o ∧ o < 0x12_0000 then s.bellWrite p o n v
  else s

/-! ### The configuration space (R478, R479) -/

/-- A configuration space with a write applied: the RW bits of the command register, the address bits of BAR0 (16 MiB)
and of BAR2 (512 GiB), the power state where it is D0 or D3hot, the device control but for the reset bit, and the ATS
enable (PRESUMED, log 163). -/
def PciCfg.write (c : PciCfg) (o n v : Nat) : PciCfg :=
  let power := rwField c.power 0 0x44 2 o n v
  { command := rwField c.command 0 4 2 o n v &&& 0x0146
    bar0 := rwField c.bar0 0 0x10 8 o n v &&& ~~~0xFF_FFFF
    bar2 := rwField c.bar2 0 0x18 8 o n v &&& ~~~0x7F_FFFF_FFFF
    power := if power = 0 ∨ power = 3 then power else c.power
    devctl := rwField c.devctl 0 0x78 2 o n v &&& 0x7FFF
    ats := (rwField (BitVec.ofBool c.ats) 15 0x156 2 o n v).toNat.testBit 0 }

/-! ### The other blocks -/

/-- A write to a port's block (R370, R371): RETRAIN and DISABLE act (R354, R359). -/
def State.linkWrite (s : State) (p : PortId) (o n v : Nat) : State :=
  let s := (s.modPort p fun x => linkRegWrite x o n v).applyDisable p
  if (s.port p).retrainRq then s.retrain p else s

/-- Whether an agent reaches a block (R270, R480): the tile, cluster and CP blocks from sequencers and the CP,
the link and router blocks from the CP, every block from the SMC (R597), BAR0 and the configuration space from the
port's own host. -/
def agentReaches (g : RegAgent) (sp : RegSpace) : Bool :=
  match g, sp with
  | .sequencer, .tile _ | .sequencer, .cluster _ => true
  | .cp, .bar0 _ | .smc, .bar0 _ | .cp, .config _ | .smc, .config _ => false
  | .cp, _ | .smc, _ => true
  | .host p, .bar0 q | .host p, .config q => p == q
  | _, _ => false

/-- A write of `n` bytes of `v` at an offset of a block. -/
def State.blockWrite (s : State) (g : RegAgent) (sp : RegSpace) (o n v : Nat) : State :=
  match sp with
  | .tile t => s.modTile t fun x => tileRegWrite x o n v
  | .cluster c => s.modCluster c fun x => clusterRegWrite x o n v
  | .cp => cpRegWrite s o n v
  | .linkPort p => s.linkWrite p o n v
  | .linkGroup _ => s
  | .router d => s.modRouter d fun r => routerRegWrite r (g == .cp) o n v
  | .bar0 p => s.bar0Write p o n v
  | .config p => s.modFn p fun f => { f with cfg := f.cfg.write o n v }

/-- A register write (R10, R625): aligned, and only in a block that the agent reaches; any other is ignored. -/
def execRegWrite (agent : RegAgent) (space : RegSpace) (off : BitVec 24) (size : BitVec 2) (value : Word)
    (s : State) : Res :=
  let n := 2 ^ size.toNat
  if off.toNat % n ≠ 0 || !agentReaches agent space then .next s
  else .next (s.blockWrite agent space off.toNat n (value.toNat % 2 ^ (8 * n)))

end Sys2Proof.Machine
end

