-- ==== Sys2Proof/Machine/Lomtirel.lean ====
section
/-!
DEFINITION. Lomtirel (R585, R593 to R599): the commands of managers, the frames the SMC sends by itself, the
links and the relay.
-/
namespace Sys2Proof.Machine

/-! ### Executing a command (R598) -/

/-- Whether the SMC takes commands from a sender: a manager of the configuration block; in recovery mode with no
block, any. -/
def State.isManager (s : State) (mac : BitVec 48) : Bool :=
  match s.boot.cfg with
  | some c => c.managers.contains mac
  | none => s.boot.state == .recovery

/-- What the SMC keeps of a sender. -/
def State.manager (s : State) (mac : BitVec 48) : Manager :=
  (s.lom.managers.find? fun x => x.mac == mac).getD ⟨mac, 0, none⟩

/-- Commands that recovery mode answers (R585). -/
def inRecovery (opc : Nat) : Bool := opc == 0x08 || opc == 0x09 || opc == 0x0D

/-- Whether an Ouvzu order of a manager is still being executed. -/
def State.orderOpen (s : State) (mac : BitVec 48) : Bool :=
  s.ouvzu.cmds.any fun c => match c.lom with | some m => m.mac == mac | none => false

/-- A manager's command begins: its SEQ is the last one executed. -/
def State.beginLom (s : State) (m : LomHeader) : State :=
  { s with lom := { s.lom with
    managers := ⟨m.mac, m.seq, none⟩ :: s.lom.managers.filter fun x => x.mac != m.mac
    rx := s.lom.rx + 1 } }

/-- The stored RESPONSE of a manager is sent again. -/
def State.resend (s : State) (mac : BitVec 48) : State :=
  match (s.manager mac).resp with
  | some f => { s with lom := { s.lom with sent := f :: s.lom.sent } }.relayOut f
  | none => s

/-- A COMMAND frame (R598): discarded and counted when it comes from no manager; answered with the stored
RESPONSE when it repeats the last one, discarded when it is older; otherwise executed, one at a time. -/
def State.lomRun (s : State) (m : LomHeader) (opc : Nat) (f : State → State) : Res :=
  let last := (s.manager m.mac).last
  if !s.isManager m.mac then .next { s with lom := { s.lom with deny := s.lom.deny + 1 } }
  else if m.seq = last then .next (s.resend m.mac)
  else if m.seq.toNat < last.toNat then .next s
  else if s.orderOpen m.mac || (s.boot.state == .recovery && !inRecovery opc) then .next s
  else .next (f (s.beginLom m))

/-- STATUS codes of a RESPONSE (R598). -/
inductive LomStatus where
  | ok | invalid | state | busy
  deriving DecidableEq, Repr

/-- The code of a status. -/
def LomStatus.code : LomStatus → Nat
  | .ok => 0
  | .invalid => 1
  | .state => 2
  | .busy => 3

/-- Answer with a status and no result. -/
def State.lomAnswer (s : State) (m : LomHeader) (opc : Nat) (st : LomStatus) : State := s.respond m st.code opc []

/-- OUVZU_ORDER: an SMC order (R495); the response carries its record. -/
def execOuvzuOrder (m : LomHeader) (cmd : List Byte) (s : State) : Res :=
  if cmd.length ≠ 64 then .refused (.illFormed "OUVZU_ORDER")
  else s.lomRun m 0x01 fun s =>
    if s.boot.inReset then s.lomAnswer m 0x01 .state else s.fetchCmd 0xFFFF none cmd 0 (some m)

/-- SET_PLIMIT: 1,000 to 2,000 W. -/
def execSetPlimit (m : LomHeader) (w : BitVec 16) (s : State) : Res :=
  s.lomRun m 0x02 fun s =>
    if within 1000 2000 w.toNat then
      { s with power := { s.power with plimit := w.setWidth 12 } }.lomAnswer m 0x02 .ok
    else s.lomAnswer m 0x02 .invalid

/-- SET_TDISC: 1 to 50 µs. -/
def execSetTdisc (m : LomHeader) (us : BitVec 8) (s : State) : Res :=
  s.lomRun m 0x03 fun s =>
    if within 1 50 us.toNat then { s with power := { s.power with tdisc := us.setWidth 6 } }.lomAnswer m 0x03 .ok
    else s.lomAnswer m 0x03 .invalid

/-- CLEAR_WIRING: while both wires are deasserted (R569). -/
def execClearWiring (m : LomHeader) (s : State) : Res :=
  s.lomRun m 0x04 fun s =>
    if s.power.wireA || s.power.wireB then s.lomAnswer m 0x04 .state
    else ({ s with power := { s.power with wiring := false } }.evalOp).lomAnswer m 0x04 .ok

/-- SET_GTC_EDGE: on the time master, with no image (R430). -/
def execSetGtcEdge (m : LomHeader) (v : Word) (s : State) : Res :=
  s.lomRun m 0x05 fun s =>
    if v.toNat % syncPeriod ≠ 0 then s.lomAnswer m 0x05 .invalid
    else if !s.gtc.master || s.job.image.isSome then s.lomAnswer m 0x05 .state
    else { s with gtc := { s.gtc with nextEdge := some v } }.lomAnswer m 0x05 .ok

/-- CLEAR_DRAIN: with no image (R527). A probation window that the journal holds is in force again. -/
def execClearDrain (m : LomHeader) (s : State) : Res :=
  s.lomRun m 0x06 fun s =>
    if s.job.image.isSome then s.lomAnswer m 0x06 .state
    else
      let st : BitVec 2 := if s.integ.histProb.isSome then 1 else 0
      { s with integ := { s.integ with
        repairs := s.integ.repairs.filter fun r => r != Repair.drained
        state := if s.integ.state = 2 then st else s.integ.state } }.lomAnswer m 0x06 .ok

/-- RESET_DEVICE: the job ends with DEVICE_RESET, and the device resets and boots; with RELOAD step 2 selects the
copy anew (R581, R582, R585). -/
def execResetDevice (m : LomHeader) (reload : Bool) (s : State) : Res :=
  s.lomRun m 0x07 fun s =>
    let s := (s.lomAnswer m 0x07 .ok).smcReset 2
    { s with boot := { s.boot with reselect := s.boot.reselect || reload } }.deviceReset 2

/-! ### NOR (R585) -/

/-- The base of the copy that was not selected at boot. -/
def State.updateBase (s : State) : Nat := copyBase (!s.boot.copyB)

/-- What keeps an update command from running: BUSY, or STATE with an image (R585, R598). -/
def State.norBar (s : State) : Option LomStatus :=
  if s.lom.norOp.isSome then some .busy else if s.job.image.isSome then some .state else none

/-- A program of the NOR begins. -/
def State.norStart (s : State) (addr : Nat) (data : List Byte) : State :=
  { s with lom := { s.lom with norOp := some ⟨addr, data⟩ } }

/-- NOR_WRITE: data into the unselected copy. -/
def execNorWrite (m : LomHeader) (off : BitVec 32) (data : List Byte) (s : State) : Res :=
  if 1014 < data.length then .refused (.illFormed "NOR_WRITE")
  else s.lomRun m 0x08 fun s =>
    match s.norBar with
    | some st => s.lomAnswer m 0x08 st
    | none =>
      if 0x100_0000 < off.toNat + data.length then s.lomAnswer m 0x08 .invalid
      else (s.norStart (s.updateBase + off.toNat) data).lomAnswer m 0x08 .ok

/-- The header that NOR_COMMIT writes: the fields NOR_WRITE left there, MAGIC, SEQ and CHECK. -/
def State.newHeader (s : State) (seq : BitVec 32) : List Byte :=
  let h := s.copyHeader (!s.boot.copyB)
  let h := copyMagic ++ leBytes 4 seq.toNat ++ (h.drop 12).take 28 ++ List.replicate 16 0
  h ++ leBytes 8 (s.copyCheck (!s.boot.copyB) h).toNat

/-- Whether NOR_COMMIT takes a SEQ: the selected copy's plus 1. -/
def State.seqOk (s : State) (seq : BitVec 32) : Bool :=
  match s.boot.cfg with
  | some _ => seq.toNat == s.copySeq s.boot.copyB + 1
  | none => true

/-- NOR_COMMIT: the unselected copy's header, with CHECK. -/
def execNorCommit (m : LomHeader) (seq : BitVec 32) (s : State) : Res :=
  s.lomRun m 0x09 fun s =>
    match s.norBar with
    | some st => s.lomAnswer m 0x09 st
    | none =>
      if !s.seqOk seq then s.lomAnswer m 0x09 .invalid
      else (s.norStart s.updateBase (s.newHeader seq)).lomAnswer m 0x09 .ok

/-- A program or an erase of the NOR finishes (R598). -/
def execNorOperationComplete (s : State) : Res :=
  match s.lom.norOp with
  | none => .next s
  | some o => .next { s with
      nor := Memory.writeBytes 0xFF s.nor o.addr o.data
      lom := { s.lom with norOp := none } }

/-! ### Registers and journals (R597) -/

/-- READ_REG: the value as 8 bytes. -/
def execReadReg (m : LomHeader) (entry : Word) (s : State) : Res :=
  s.lomRun m 0x0A fun s =>
    if s.boot.inReset then s.lomAnswer m 0x0A .state
    else match s.readEntry entry with
      | some v => s.respond m 0 0x0A (leBytes 8 v)
      | none => s.lomAnswer m 0x0A .invalid

/-- Whether a write would change a table register under LOCK (R397). -/
def State.tableLocked (s : State) (sp : RegSpace) (o n : Nat) : Bool :=
  match sp with
  | .router d => inTables o n && (s.router d).lock
  | _ => false

/-- WRITE_REG: a write of the register's own size; a table write under LOCK answers STATE. -/
def execWriteReg (m : LomHeader) (entry value : Word) (s : State) : Res :=
  s.lomRun m 0x0B fun s =>
    if s.boot.inReset then s.lomAnswer m 0x0B .state
    else match s.entrySpace entry with
      | some (sp, o) =>
        let n := match (s.spaceRegs sp).find? fun r => r.off == o with | some r => r.bytes | none => 4
        let st : LomStatus := if s.tableLocked sp o n then .state else .ok
        (s.blockWrite .smc sp o n (value.toNat % 2 ^ (8 * n))).lomAnswer m 0x0B st
      | none => s.lomAnswer m 0x0B .invalid

/-- A record of a journal by index: the boot journal's by its place in the ring. -/
def State.journalRecord (s : State) (journal i : Nat) : List Byte :=
  if journal = 0 then
    match s.boot.journal[(i + 4096 - s.boot.first) % 4096]? with
    | some r => r.bytes
    | none => List.replicate 16 0xFF
  else if journal = 1 then Config.repairBytes s.integ.repairs i
  else Config.historyBytes s.integ s.power.dipLog s.power.trips i

/-- JOURNAL_READ: journals 0 boot, 1 repair, 2 unit history. -/
def execJournalRead (m : LomHeader) (journal : BitVec 8) (index : BitVec 32) (count : BitVec 16) (s : State) : Res :=
  s.lomRun m 0x0C fun s =>
    if s.lom.norOp.isSome then s.lomAnswer m 0x0C .busy
    else if 2 < journal.toNat ∨ 64 < count.toNat then s.lomAnswer m 0x0C .invalid
    else s.respond m 0 0x0C
      ((List.range count.toNat).flatMap fun i => s.journalRecord journal.toNat (index.toNat + i))

/-- IDENTIFY: answered with an IDENTITY frame. -/
def execLomIdentify (m : LomHeader) (s : State) : Res := s.lomRun m 0x0D State.sendIdentity

/-! ### Frames the SMC sends by itself (R595, R596) -/

/-- A TELEMETRY payload. -/
def State.telemetry (s : State) : List Byte :=
  let p := s.power
  leBytes 1 p.op.toNat ++ leBytes 1 p.target.toNat ++ [p.tj, p.peak] ++ leBytes 2 p.avg.toNat ++
    leBytes 2 p.coreMv.toNat ++ leBytes 2 p.seracMv.toNat ++ leBytes 2 p.plimit.toNat ++ leBytes 4 s.pwrReg ++
    leBytes 4 s.job.admReg ++ leBytes 4 s.intReg ++ leBytes 8 s.job.step.toNat ++ leBytes 8 s.gtc.thaw.toNat ++
    leBytes 8 s.boot.ptime.toNat ++ leBytes 4 s.gtc.statReg ++ List.replicate 12 0

/-- Every 100 ms after step 13. -/
def execTelemetrySend (s : State) : Res :=
  if s.boot.telemOn then
    let t := s.telemetry
    .next ({ s with side := { s.side with telem := t } }.sendLom 0x02 0 t)
  else .next s

/-- A PHASES payload for 32 phases from `first` on. -/
def State.phasesBytes (s : State) (first : Nat) : List Byte :=
  let at_ (l : List Word) (i : Nat) : List Byte := leBytes 8 (l.getD i 0).toNat
  leBytes 1 first ++ leBytes 1 32 ++ List.replicate 6 0 ++ (List.range 32).flatMap fun i =>
    at_ s.cp.phTot.toList (first + i) ++ at_ s.cp.phCnt.toList (first + i) ++ at_ s.cp.phMax.toList (first + i)

/-- Every 1 s, two frames, while the CP runs. -/
def execPhasesSend (s : State) : Res :=
  if s.boot.inReset then .next s
  else .next ((s.sendLom 0x03 0 (s.phasesBytes 0)).sendLom 0x03 0 (s.phasesBytes 32))

/-! ### The links and the relay (R593, R595) -/

/-- A link comes up: an IDENTITY frame. -/
def execLomLinkUp (l : Fin 2) (s : State) : Res :=
  .next { s with lom := { s.lom with up := s.lom.up.set l true } }.sendIdentity

/-- A link goes down. -/
def execLomLinkDown (l : Fin 2) (s : State) : Res :=
  .next { s with lom := { s.lom with up := s.lom.up.set l false } }

/-- A management packet for this chip: its SMC transmits what it carries unchanged. -/
def execLomRelay (pkt : Packet) (s : State) : Res :=
  if !pkt.WellFormed then .refused (.illFormed "LOM_RELAY")
  else if pktClass pkt ≠ 3 ∨ pktDst pkt ≠ s.routers[0].self then .next s
  else
    let take (r : Router) : Router := { r with delivered := r.delivered.erase pkt }
    let d := if (s.router .west).delivered.contains pkt then Die.west else .east
    .next { s.modRouter d take with lom := { s.lom with relayed := pkt.payload :: s.lom.relayed } }

end Sys2Proof.Machine
end

