-- ==== Sys2Proof/Machine/Sideband.lean ====
section
/-!
DEFINITION. The SPI target, the I3C target and the TAP (R600 to R603, R623).
-/
namespace Sys2Proof.Machine

/-! ### The SPI target (R600 to R602) -/

/-- SPI_STAT. -/
def State.spiStat (s : State) : BitVec 32 :=
  BitVec.ofNat 32 (flagBit 0 (s.boot.state == .ready) + flagBit 1 s.side.frameErr + flagBit 2 s.side.accErr)

/-- The word at an address (R602). -/
def State.spiWord (s : State) (a : Nat) : BitVec 32 :=
  let word (l : List Byte) (i : Nat) : BitVec 32 := BitVec.ofNat 32 (leAt l (4 * i) 4)
  if a = 0 then s.spiStat
  else if a = 1 then s.side.extra
  else if a = 2 then BitVec.ofNat 32 s.boot.statReg
  else if 4 ≤ a ∧ a < 0xC then word s.identity (a - 4)
  else if 0x10 ≤ a ∧ a < 0x20 then word s.side.telem (a - 0x10)
  else 0

/-- Edges after the last permitted word are counted (R601). -/
def Side.edges (d : Side) (n : Nat) : Side := { d with extra := satAdd d.extra n }

/-- A written word takes effect: SPI_STAT's W1C bits, or ACC_ERR (R601, R602). -/
def Side.spiPut (d : Side) (a : Nat) (v : BitVec 32) : Side :=
  if a = 0 then { d with accErr := d.accErr && !v.getLsbD 2, frameErr := d.frameErr && !v.getLsbD 1 }
  else { d with accErr := true }

/-- Words from an address on. -/
def Side.spiPutAll (d : Side) : Nat → List (BitVec 32) → Side
  | _, [] => d
  | a, v :: l => (d.spiPut a v).spiPutAll ((a + 1) % 65536) l

/-- A write transaction. -/
def execSpiTargetWrite (addr : BitVec 16) (words : List (BitVec 32)) (extra : Nat) (s : State) : Res :=
  if 64 < words.length then .refused (.illFormed "SPI_TARGET_WRITE")
  else .next { s with side := (s.side.spiPutAll addr.toNat words).edges extra }

/-- A read transaction: the words it returns. -/
def execSpiTargetRead (addr : BitVec 16) (count : Nat) (extra : Nat) (s : State) : Res :=
  if 64 < count then .refused (.illFormed "SPI_TARGET_READ")
  else
    let out := tab count fun i => s.spiWord ((addr.toNat + i) % 65536)
    .next { s with side := { s.side with spiOut := out }.edges extra }

/-- SPI_T_CS_N rises before a word's 32nd edge (R601). -/
def execSpiPartialWord (s : State) : Res := .next { s with side := { s.side with frameErr := true } }

/-! ### The I3C target (R603) -/

/-- A dynamic address is assigned to a target that has none. -/
def State.i3cAssign (s : State) (addr : BitVec 7) : State :=
  if s.side.i3cDyn.isSome then s else { s with side := { s.side with i3cDyn := some addr } }

/-- ENTDAA. -/
def execI3cEntdaa (addr : BitVec 7) (s : State) : Res := .next (s.i3cAssign addr)

/-- SETDASA, by the static address of the configuration block. -/
def execI3cSetdasa (static addr : BitVec 7) (s : State) : Res :=
  match s.boot.cfg with
  | some c => .next (if c.i3cStatic = static then s.i3cAssign addr else s)
  | none => .next s

/-- RSTDAA. -/
def execI3cRstdaa (s : State) : Res := .next { s with side := { s.side with i3cDyn := none } }

/-- The target, addressed by its dynamic address, answers a GET CCC. -/
def State.i3cGet (s : State) (b : List Byte) : State :=
  if s.side.i3cDyn.isSome then { s with side := { s.side with i3cOut := b } } else s

/-- GETPID. -/
def execI3cGetpid (s : State) : Res := .next (s.i3cGet (Config.i3cReply "GETPID"))

/-- GETBCR. -/
def execI3cGetbcr (s : State) : Res := .next (s.i3cGet (Config.i3cReply "GETBCR"))

/-- GETDCR. -/
def execI3cGetdcr (s : State) : Res := .next (s.i3cGet (Config.i3cReply "GETDCR"))

/-- GETSTATUS. -/
def execI3cGetstatus (s : State) : Res :=
  let n := s.takeFree
  .next (n.2.i3cGet (Config.i3cStatus n.1))

/-- GETMWL. -/
def execI3cGetmwl (s : State) : Res := .next (s.i3cGet (Config.i3cReply "GETMWL"))

/-- GETMRL. -/
def execI3cGetmrl (s : State) : Res := .next (s.i3cGet (Config.i3cReply "GETMRL"))

/-- A private write: the first two bytes are the offset; fewer set none, further ones are ignored. -/
def execI3cPrivateWrite (data : List Byte) (s : State) : Res :=
  match data with
  | a :: b :: _ => .next { s with side := { s.side with i3cOff := BitVec.ofNat 12 (leNat [a, b]) } }
  | _ => .next s

/-- The 4 KiB area: the identity record, the telemetry payload, the board FRU area. -/
def State.i3cByte (s : State) (o : Nat) : Byte :=
  if o < 0x20 then s.identity.getD o 0
  else if o < 0x60 then s.side.telem.getD (o - 0x20) 0
  else match s.boot.cfg with
    | some c => c.fru.getD (o - 0x60) 0
    | none => 0

/-- A private read: bytes from the offset on, wrapping at 4 KiB. -/
def execI3cPrivateRead (count : Nat) (s : State) : Res :=
  .next { s with side := { s.side with
    i3cOut := tab count fun i => s.i3cByte ((s.side.i3cOff.toNat + i) % 4096) } }

/-! ### The TAP (R623) -/

/-- BYPASS: all ones, as IEEE 1149.1 gives. -/
def tapBypass : BitVec 8 := 0xFF

/-- IDCODE: version 0xB, part number 0x4160, manufacturer 0x1E3. -/
def tapIdcodeValue : BitVec 32 := 0xB41603C7

/-- An instruction is loaded: while an image is admitted any but BYPASS, IDCODE and SAMPLE acts as BYPASS and is
journalled. -/
def execTapInstructionLoad (ir : BitVec 8) (s : State) : Res :=
  let known := ir == tapBypass || ir == Config.tapIdcode || ir == Config.tapSample
  let stopped := s.job.image.isSome && !known
  let eff := if stopped then tapBypass else ir
  .next { s with side := { s.side with
    tapIr := ir
    tapEff := eff
    tapDr := if eff = tapBypass then 0 else if eff = Config.tapIdcode then tapIdcodeValue else s.side.tapDr
    tapLog := if stopped then ir :: s.side.tapLog else s.side.tapLog } }

end Sys2Proof.Machine
end

