-- ==== Sys2Proof/Machine/Dispatch.lean ====
section
/-!
DEFINITION. One arm per command: its meaning, called directly.
-/
namespace Sys2Proof.Machine

/-- The meaning of a command on everything but the queue. -/
def exec (i : Instr) (s : State) : Host.Outcome State Fault Refusal :=
  match i with
  | .saluAdd t => Sys2Proof.Machine.execSaluAdd t s
  | .saluSub t => Sys2Proof.Machine.execSaluSub t s
  | .saluMul t => Sys2Proof.Machine.execSaluMul t s
  | .saluAnd t => Sys2Proof.Machine.execSaluAnd t s
  | .saluOr t => Sys2Proof.Machine.execSaluOr t s
  | .saluXor t => Sys2Proof.Machine.execSaluXor t s
  | .saluShl t => Sys2Proof.Machine.execSaluShl t s
  | .saluShr t => Sys2Proof.Machine.execSaluShr t s
  | .saluSra t => Sys2Proof.Machine.execSaluSra t s
  | .saluMin t => Sys2Proof.Machine.execSaluMin t s
  | .saluMax t => Sys2Proof.Machine.execSaluMax t s
  | .saluMinu t => Sys2Proof.Machine.execSaluMinu t s
  | .saluMaxu t => Sys2Proof.Machine.execSaluMaxu t s
  | .psetEq t => Sys2Proof.Machine.execPsetEq t s
  | .psetNe t => Sys2Proof.Machine.execPsetNe t s
  | .psetLt t => Sys2Proof.Machine.execPsetLt t s
  | .psetGe t => Sys2Proof.Machine.execPsetGe t s
  | .psetLtu t => Sys2Proof.Machine.execPsetLtu t s
  | .psetGeu t => Sys2Proof.Machine.execPsetGeu t s
  | .ld t => Sys2Proof.Machine.execLd t s
  | .st t visible => Sys2Proof.Machine.execSt t visible s
  | .pldEq0 t => Sys2Proof.Machine.execPldEq0 t s
  | .pldNe0 t => Sys2Proof.Machine.execPldNe0 t s
  | .pldBit t => Sys2Proof.Machine.execPldBit t s
  | .amoAdd t => Sys2Proof.Machine.execAmoAdd t s
  | .amoSwp t => Sys2Proof.Machine.execAmoSwp t s
  | .amoCas t => Sys2Proof.Machine.execAmoCas t s
  | .br t => Sys2Proof.Machine.execBr t s
  | .jal t => Sys2Proof.Machine.execJal t s
  | .jr t => Sys2Proof.Machine.execJr t s
  | .seqEnd t => Sys2Proof.Machine.execSeqEnd t s
  | .fenceSc t => Sys2Proof.Machine.execFenceSc t s
  | .fenceCo t => Sys2Proof.Machine.execFenceCo t s
  | .waitslot t => Sys2Proof.Machine.execWaitslot t s
  | .waitslotRelease t => Sys2Proof.Machine.execWaitslotRelease t s
  | .phase t => Sys2Proof.Machine.execPhase t s
  | .illegalInstr t => Sys2Proof.Machine.execIllegalInstr t s
  | .loadReturn t k => Sys2Proof.Machine.execLoadReturn t k s
  | .tagCommit t => Sys2Proof.Machine.execTagCommit t s
  | .tagSquash t => Sys2Proof.Machine.execTagSquash t s
  | .mpass t => Sys2Proof.Machine.execMpass t s
  | .passStart t => Sys2Proof.Machine.execPassStart t s
  | .passComplete t stall => Sys2Proof.Machine.execPassComplete t stall s
  | .epi t => Sys2Proof.Machine.execEpi t s
  | .epiStart t => Sys2Proof.Machine.execEpiStart t s
  | .epiRow t stall => Sys2Proof.Machine.execEpiRow t stall s
  | .rcfg t => Sys2Proof.Machine.execRcfg t s
  | .rbind t => Sys2Proof.Machine.execRbind t s
  | .rdrain t => Sys2Proof.Machine.execRdrain t s
  | .gramRow t => Sys2Proof.Machine.execGramRow t s
  | .rimeDrainRead t slot => Sys2Proof.Machine.execRimeDrainRead t slot s
  | .rimeDrainDone t slot => Sys2Proof.Machine.execRimeDrainDone t slot s
  | .vecAdd t eager => Sys2Proof.Machine.execVecAdd t eager s
  | .vecSub t eager => Sys2Proof.Machine.execVecSub t eager s
  | .vecMul t eager => Sys2Proof.Machine.execVecMul t eager s
  | .vecFma t eager => Sys2Proof.Machine.execVecFma t eager s
  | .vecMax t eager => Sys2Proof.Machine.execVecMax t eager s
  | .vecMin t eager => Sys2Proof.Machine.execVecMin t eager s
  | .vecAbs t eager => Sys2Proof.Machine.execVecAbs t eager s
  | .vecNeg t eager => Sys2Proof.Machine.execVecNeg t eager s
  | .iadd t eager => Sys2Proof.Machine.execIadd t eager s
  | .isub t eager => Sys2Proof.Machine.execIsub t eager s
  | .iand t eager => Sys2Proof.Machine.execIand t eager s
  | .ior t eager => Sys2Proof.Machine.execIor t eager s
  | .ixor t eager => Sys2Proof.Machine.execIxor t eager s
  | .ishl t eager => Sys2Proof.Machine.execIshl t eager s
  | .ishr t eager => Sys2Proof.Machine.execIshr t eager s
  | .isra t eager => Sys2Proof.Machine.execIsra t eager s
  | .vcmp t eager => Sys2Proof.Machine.execVcmp t eager s
  | .mand t eager => Sys2Proof.Machine.execMand t eager s
  | .mor t eager => Sys2Proof.Machine.execMor t eager s
  | .mxor t eager => Sys2Proof.Machine.execMxor t eager s
  | .mnot t eager => Sys2Proof.Machine.execMnot t eager s
  | .vtrans t eager => Sys2Proof.Machine.execVtrans t eager s
  | .vbcr t eager => Sys2Proof.Machine.execVbcr t eager s
  | .vbcc t eager => Sys2Proof.Machine.execVbcc t eager s
  | .vperm t eager => Sys2Proof.Machine.execVperm t eager s
  | .vcvt t eager => Sys2Proof.Machine.execVcvt t eager s
  | .rcp t eager => Sys2Proof.Machine.execRcp t eager s
  | .vecDiv t eager => Sys2Proof.Machine.execVecDiv t eager s
  | .vecSqrt t eager => Sys2Proof.Machine.execVecSqrt t eager s
  | .rsqrt t eager => Sys2Proof.Machine.execRsqrt t eager s
  | .exp t eager => Sys2Proof.Machine.execExp t eager s
  | .exp2 t eager => Sys2Proof.Machine.execExp2 t eager s
  | .log t eager => Sys2Proof.Machine.execLog t eager s
  | .log2 t eager => Sys2Proof.Machine.execLog2 t eager s
  | .sin t eager => Sys2Proof.Machine.execSin t eager s
  | .cos t eager => Sys2Proof.Machine.execCos t eager s
  | .tanh t eager => Sys2Proof.Machine.execTanh t eager s
  | .lgst t eager => Sys2Proof.Machine.execLgst t eager s
  | .erf t eager => Sys2Proof.Machine.execErf t eager s
  | .vrsum t eager => Sys2Proof.Machine.execVrsum t eager s
  | .vrssq t eager => Sys2Proof.Machine.execVrssq t eager s
  | .vtopk t eager => Sys2Proof.Machine.execVtopk t eager s
  | .vld t eager => Sys2Proof.Machine.execVld t eager s
  | .vst t eager => Sys2Proof.Machine.execVst t eager s
  | .vxcvt t eager => Sys2Proof.Machine.execVxcvt t eager s
  | .vchain t => Sys2Proof.Machine.execVchain t s
  | .chainIteration t => Sys2Proof.Machine.execChainIteration t s
  | .dmaCopy t eager => Sys2Proof.Machine.execDmaCopy t eager s
  | .dmaSkew t eager => Sys2Proof.Machine.execDmaSkew t eager s
  | .dmaGather t eager => Sys2Proof.Machine.execDmaGather t eager s
  | .dmaScatter t eager => Sys2Proof.Machine.execDmaScatter t eager s
  | .dmaAccout t eager => Sys2Proof.Machine.execDmaAccout t eager s
  | .dmaAccin t eager => Sys2Proof.Machine.execDmaAccin t eager s
  | .dmaComplete t err => Sys2Proof.Machine.execDmaComplete t err s
  | .hbmRefresh k delayed => Sys2Proof.Machine.execHbmRefresh k delayed s
  | .patrolScrub k line finding => Sys2Proof.Machine.execPatrolScrub k line finding s
  | .seracFeed c ix => Sys2Proof.Machine.execSeracFeed c ix s
  | .seracChol c ix => Sys2Proof.Machine.execSeracChol c ix s
  | .seracLdlt c ix => Sys2Proof.Machine.execSeracLdlt c ix s
  | .seracSolve c ix => Sys2Proof.Machine.execSeracSolve c ix s
  | .seracInv c ix => Sys2Proof.Machine.execSeracInv c ix s
  | .seracRoot c ix => Sys2Proof.Machine.execSeracRoot c ix s
  | .seracSqrt c ix => Sys2Proof.Machine.execSeracSqrt c ix s
  | .seracBatch c ix => Sys2Proof.Machine.execSeracBatch c ix s
  | .seracDeadline c ix => Sys2Proof.Machine.execSeracDeadline c ix s
  | .exportSwitch c => Sys2Proof.Machine.execExportSwitch c s
  | .seracEngineFault c engine => Sys2Proof.Machine.execSeracEngineFault c engine s
  | .frameData p f => Sys2Proof.Machine.execFrameData p f s
  | .frameIdle p f => Sys2Proof.Machine.execFrameIdle p f s
  | .frameTime p f arrival arrivalFrac => Sys2Proof.Machine.execFrameTime p f arrival arrivalFrac s
  | .frameDown p f => Sys2Proof.Machine.execFrameDown p f s
  | .replayReq p h fseq => Sys2Proof.Machine.execReplayReq p h fseq s
  | .laneFault p h mask => Sys2Proof.Machine.execLaneFault p h mask s
  | .swap p h lane phys resume => Sys2Proof.Machine.execSwap p h lane phys resume s
  | .width p h w map resume => Sys2Proof.Machine.execWidth p h w map resume s
  | .retrainReq p h maxw half => Sys2Proof.Machine.execRetrainReq p h maxw half s
  | .alignDone p h => Sys2Proof.Machine.execAlignDone p h s
  | .credit p h counts => Sys2Proof.Machine.execCredit p h counts s
  | .laneFaultDetect p lane => Sys2Proof.Machine.execLaneFaultDetect p lane s
  | .spareAlignTimeout p lane => Sys2Proof.Machine.execSpareAlignTimeout p lane s
  | .replayTimeout p => Sys2Proof.Machine.execReplayTimeout p s
  | .partnerLoss p cause => Sys2Proof.Machine.execPartnerLoss p cause s
  | .linkDetect p => Sys2Proof.Machine.execLinkDetect p s
  | .linkPollEnd p locked => Sys2Proof.Machine.execLinkPollEnd p locked s
  | .linkEqualizeEnd p converged => Sys2Proof.Machine.execLinkEqualizeEnd p converged s
  | .linkAlignEnd p aligned => Sys2Proof.Machine.execLinkAlignEnd p aligned s
  | .linkConfigEnd p offer => Sys2Proof.Machine.execLinkConfigEnd p offer s
  | .linkLostRetry p => Sys2Proof.Machine.execLinkLostRetry p s
  | .noPartner p => Sys2Proof.Machine.execNoPartner p s
  | .linkRetrain p => Sys2Proof.Machine.execLinkRetrain p s
  | .linkDisable p hold => Sys2Proof.Machine.execLinkDisable p hold s
  | .lanePrbsDone p lane pass => Sys2Proof.Machine.execLanePrbsDone p lane pass s
  | .timeFrameSend p => Sys2Proof.Machine.execTimeFrameSend p s
  | .routerForward d input pkt => Sys2Proof.Machine.execRouterForward d input pkt s
  | .multicastInject d pkt => Sys2Proof.Machine.execMulticastInject d pkt s
  | .unschedInject d pkt => Sys2Proof.Machine.execUnschedInject d pkt s
  | .throttleRelease d => Sys2Proof.Machine.execThrottleRelease d s
  | .mgmtBudgetWindow d => Sys2Proof.Machine.execMgmtBudgetWindow d s
  | .portArbitrate p => Sys2Proof.Machine.execPortArbitrate p s
  | .collStart ix => Sys2Proof.Machine.execCollStart ix s
  | .collData ix path pkt => Sys2Proof.Machine.execCollData ix path pkt s
  | .collDigest ix path pkt => Sys2Proof.Machine.execCollDigest ix path pkt s
  | .collAccept ix path stream => Sys2Proof.Machine.execCollAccept ix path stream s
  | .collRetxReq ix path stream => Sys2Proof.Machine.execCollRetxReq ix path stream s
  | .collAbort ix path pkt => Sys2Proof.Machine.execCollAbort ix path pkt s
  | .collStall ix => Sys2Proof.Machine.execCollStall ix s
  | .moraineExport m hostOk => Sys2Proof.Machine.execMoraineExport m hostOk s
  | .moraineImport m hostOk => Sys2Proof.Machine.execMoraineImport m hostOk s
  | .moraineRecheck m hostOk => Sys2Proof.Machine.execMoraineRecheck m hostOk s
  | .moraineTimeout m => Sys2Proof.Machine.execMoraineTimeout m s
  | .tickSyncOutPulse => Sys2Proof.Machine.execTickSyncOutPulse s
  | .tickSyncInEdge => Sys2Proof.Machine.execTickSyncInEdge s
  | .launchBoundary => Sys2Proof.Machine.execLaunchBoundary s
  | .lockstepSend => Sys2Proof.Machine.execLockstepSend s
  | .lockstepReceive slot entries => Sys2Proof.Machine.execLockstepReceive slot entries s
  | .lockstepSkew => Sys2Proof.Machine.execLockstepSkew s
  | .testWindowStart => Sys2Proof.Machine.execTestWindowStart s
  | .testWindowEnd => Sys2Proof.Machine.execTestWindowEnd s
  | .selftestInjob failed => Sys2Proof.Machine.execSelftestInjob failed s
  | .selftestFull failed => Sys2Proof.Machine.execSelftestFull failed s
  | .probationExpire => Sys2Proof.Machine.execProbationExpire s
  | .wdRecord => Sys2Proof.Machine.execWdRecord s
  | .wdCompare => Sys2Proof.Machine.execWdCompare s
  | .capturePoint => Sys2Proof.Machine.execCapturePoint s
  | .captureDrainEnd hostOk => Sys2Proof.Machine.execCaptureDrainEnd hostOk s
  | .identify h hostOk => Sys2Proof.Machine.execIdentify h hostOk s
  | .createQp h => Sys2Proof.Machine.execCreateQp h s
  | .deleteQp h => Sys2Proof.Machine.execDeleteQp h s
  | .deleteQpDone h => Sys2Proof.Machine.execDeleteQpDone h s
  | .setarb h => Sys2Proof.Machine.execSetarb h s
  | .grantHost h => Sys2Proof.Machine.execGrantHost h s
  | .revokeHost h => Sys2Proof.Machine.execRevokeHost h s
  | .enableFn h => Sys2Proof.Machine.execEnableFn h s
  | .disableFn h => Sys2Proof.Machine.execDisableFn h s
  | .abortCmd h => Sys2Proof.Machine.execAbortCmd h s
  | .admitImage h hostOk => Sys2Proof.Machine.execAdmitImage h hostOk s
  | .launch h => Sys2Proof.Machine.execLaunch h s
  | .quiesce h => Sys2Proof.Machine.execQuiesce h s
  | .quiesceDone h => Sys2Proof.Machine.execQuiesceDone h s
  | .abortJob h => Sys2Proof.Machine.execAbortJob h s
  | .abortJobDone h => Sys2Proof.Machine.execAbortJobDone h s
  | .capture h => Sys2Proof.Machine.execCapture h s
  | .restore h hostOk => Sys2Proof.Machine.execRestore h hostOk s
  | .jobwait h => Sys2Proof.Machine.execJobwait h s
  | .jobEnd => Sys2Proof.Machine.execJobEnd s
  | .regread h hostOk => Sys2Proof.Machine.execRegread h hostOk s
  | .pivsearch h => Sys2Proof.Machine.execPivsearch h s
  | .msgsend h hostOk => Sys2Proof.Machine.execMsgsend h hostOk s
  | .msgrecv h => Sys2Proof.Machine.execMsgrecv h s
  | .msgArrive pkt => Sys2Proof.Machine.execMsgArrive pkt s
  | .nop h => Sys2Proof.Machine.execNop h s
  | .ouvzuInvalidOpcode h => Sys2Proof.Machine.execOuvzuInvalidOpcode h s
  | .sqTailDoorbell p q value => Sys2Proof.Machine.execSqTailDoorbell p q value s
  | .cqHeadDoorbell p q value => Sys2Proof.Machine.execCqHeadDoorbell p q value s
  | .ouvzuEnSet p => Sys2Proof.Machine.execOuvzuEnSet p s
  | .ouvzuEnClear p => Sys2Proof.Machine.execOuvzuEnClear p s
  | .mboxGo p => Sys2Proof.Machine.execMboxGo p s
  | .ingressWindowClose => Sys2Proof.Machine.execIngressWindowClose s
  | .arbiterRound => Sys2Proof.Machine.execArbiterRound s
  | .cqCoalesceTimeout q => Sys2Proof.Machine.execCqCoalesceTimeout q s
  | .functionLevelReset p => Sys2Proof.Machine.execFunctionLevelReset p s
  | .pcieLinkDown p perst => Sys2Proof.Machine.execPcieLinkDown p perst s
  | .perstRise p => Sys2Proof.Machine.execPerstRise p s
  | .bar2Access p off op => Sys2Proof.Machine.execBar2Access p off op s
  | .regWrite agent space off size value => Sys2Proof.Machine.execRegWrite agent space off size value s
  | .ouvzuOrder m cmd => Sys2Proof.Machine.execOuvzuOrder m cmd s
  | .setPlimit m w => Sys2Proof.Machine.execSetPlimit m w s
  | .setTdisc m us => Sys2Proof.Machine.execSetTdisc m us s
  | .clearWiring m => Sys2Proof.Machine.execClearWiring m s
  | .setGtcEdge m v => Sys2Proof.Machine.execSetGtcEdge m v s
  | .clearDrain m => Sys2Proof.Machine.execClearDrain m s
  | .resetDevice m reload => Sys2Proof.Machine.execResetDevice m reload s
  | .norWrite m off data => Sys2Proof.Machine.execNorWrite m off data s
  | .norCommit m seq => Sys2Proof.Machine.execNorCommit m seq s
  | .readReg m entry => Sys2Proof.Machine.execReadReg m entry s
  | .writeReg m entry value => Sys2Proof.Machine.execWriteReg m entry value s
  | .journalRead m journal index count => Sys2Proof.Machine.execJournalRead m journal index count s
  | .lomIdentify m => Sys2Proof.Machine.execLomIdentify m s
  | .telemetrySend => Sys2Proof.Machine.execTelemetrySend s
  | .phasesSend => Sys2Proof.Machine.execPhasesSend s
  | .lomLinkUp l => Sys2Proof.Machine.execLomLinkUp l s
  | .lomRelay pkt => Sys2Proof.Machine.execLomRelay pkt s
  | .spiTargetWrite addr words extra => Sys2Proof.Machine.execSpiTargetWrite addr words extra s
  | .spiTargetRead addr count extra => Sys2Proof.Machine.execSpiTargetRead addr count extra s
  | .spiPartialWord => Sys2Proof.Machine.execSpiPartialWord s
  | .i3cEntdaa addr => Sys2Proof.Machine.execI3cEntdaa addr s
  | .i3cSetdasa static addr => Sys2Proof.Machine.execI3cSetdasa static addr s
  | .i3cRstdaa => Sys2Proof.Machine.execI3cRstdaa s
  | .i3cGetpid => Sys2Proof.Machine.execI3cGetpid s
  | .i3cGetbcr => Sys2Proof.Machine.execI3cGetbcr s
  | .i3cGetdcr => Sys2Proof.Machine.execI3cGetdcr s
  | .i3cGetstatus => Sys2Proof.Machine.execI3cGetstatus s
  | .i3cGetmwl => Sys2Proof.Machine.execI3cGetmwl s
  | .i3cGetmrl => Sys2Proof.Machine.execI3cGetmrl s
  | .i3cPrivateWrite data => Sys2Proof.Machine.execI3cPrivateWrite data s
  | .i3cPrivateRead count => Sys2Proof.Machine.execI3cPrivateRead count s
  | .opEval power => Sys2Proof.Machine.execOpEval power s
  | .opRaiseDone => Sys2Proof.Machine.execOpRaiseDone s
  | .powerCapRelease => Sys2Proof.Machine.execPowerCapRelease s
  | .trimRaise r => Sys2Proof.Machine.execTrimRaise r s
  | .droopStretch d => Sys2Proof.Machine.execDroopStretch d s
  | .stretchRelease d => Sys2Proof.Machine.execStretchRelease d s
  | .supplyDip millivolts => Sys2Proof.Machine.execSupplyDip millivolts s
  | .dipCapExpire => Sys2Proof.Machine.execDipCapExpire s
  | .powerFault => Sys2Proof.Machine.execPowerFault s
  | .pwrbrkAssert w => Sys2Proof.Machine.execPwrbrkAssert w s
  | .pwrbrkDeassert w => Sys2Proof.Machine.execPwrbrkDeassert w s
  | .pwrbrkDiscrepancy => Sys2Proof.Machine.execPwrbrkDiscrepancy s
  | .brakeRelease => Sys2Proof.Machine.execBrakeRelease s
  | .thermalSample temps => Sys2Proof.Machine.execThermalSample temps s
  | .thermalCapLower => Sys2Proof.Machine.execThermalCapLower s
  | .thermalCapRaise => Sys2Proof.Machine.execThermalCapRaise s
  | .thermalMaxTimeout => Sys2Proof.Machine.execThermalMaxTimeout s
  | .thermtrip => Sys2Proof.Machine.execThermtrip s
  | .aonReset => Sys2Proof.Machine.execAonReset s
  | .resetNAssert => Sys2Proof.Machine.execResetNAssert s
  | .resetNRelease => Sys2Proof.Machine.execResetNRelease s
  | .bootStepDone r => Sys2Proof.Machine.execBootStepDone r s
  | .bootStepTimeout detail => Sys2Proof.Machine.execBootStepTimeout detail s
  | .ptimeJournal => Sys2Proof.Machine.execPtimeJournal s
  | .aonPwrgdRise => Sys2Proof.Machine.execAonPwrgdRise s
  | .frameAlignmentFound p => Sys2Proof.Machine.execFrameAlignmentFound p s
  | .lomLinkDown l => Sys2Proof.Machine.execLomLinkDown l s
  | .seracCommandComplete c ix => Sys2Proof.Machine.execSeracCommandComplete c ix s
  | .vectorInstrComplete t => Sys2Proof.Machine.execVectorInstrComplete t s
  | .moraineImportComplete m => Sys2Proof.Machine.execMoraineImportComplete m s
  | .norOperationComplete => Sys2Proof.Machine.execNorOperationComplete s
  | .tapInstructionLoad ir => Sys2Proof.Machine.execTapInstructionLoad ir s

end Sys2Proof.Machine
end

