-- ==== Sys2Proof/Safety.lean ====
section
/-!
DEFINITION. What statements call a good state and a good run (memories in canonical form, well-formed commands
waiting, steps that do not stop), and the words they use for the conditions under which a command has its
effect: when a sequencer issues an instruction, what its loads see, which parts of the state stay.
-/
namespace Sys2Proof.Machine

/-- Every byte memory is in its canonical form: map-addressed memory and host memory, whose unlisted bytes read 0,
and NOR, whose unlisted bytes read 0xFF. -/
def State.memWf (s : State) : Prop :=
  Memory.wf 0 s.mem = true ∧ Memory.wf 0 s.hostA = true ∧ Memory.wf 0 s.hostB = true ∧ Memory.wf 0xFF s.nor = true

/-- Every waiting command is well formed. -/
def State.queueWf (s : State) : Prop := ∀ c ∈ s.pending, c.WellFormed = true

/-- A step goes on: it neither faults nor refuses. -/
def State.goesOn (s : State) : Prop := ∃ t, step s = .next t

/-! ### The sequencer -/

/-- The sequencer of tile `t` issues `i`, encoded by `w`, now (R238, R243): it fetches, awaits no slot boundary and
holds no fault of its own or of a coprocessor (R256); `i` stands at PC; its guard is READY and true; no scalar register
it names is pending. -/
abbrev State.issues (s : State) (t : TileId) (w : Word) (i : SInstr) : Prop :=
  let q := (s.tile t).seq
  q.run = true ∧ q.slotWait = none ∧ q.held = [] ∧ (s.tile t).copHeld = false ∧ s.fetch t = some w ∧
    decodeIns w = some i ∧
    (q.pred (fPg w)).awaits = none ∧ (q.pred (fPg w)).val ≠ fPn w ∧ ∀ r ∈ i.scalars, q.pending r = false

/-- The sequencer of tile `t` passes over `i`, encoded by `w`, now: all that `issues` says, but the guard is READY and
false (R238). -/
abbrev State.skips (s : State) (t : TileId) (w : Word) (i : SInstr) : Prop :=
  let q := (s.tile t).seq
  q.run = true ∧ q.slotWait = none ∧ q.held = [] ∧ (s.tile t).copHeld = false ∧ s.fetch t = some w ∧
    decodeIns w = some i ∧
    (q.pred (fPg w)).awaits = none ∧ (q.pred (fPg w)).val = fPn w ∧ ∀ r ∈ i.scalars, q.pending r = false

/-- `s` issues `i` as above and the run-ahead window has room (R243, R248). -/
abbrev State.issuesCop (s : State) (t : TileId) (w : Word) (i : SInstr) : Prop :=
  s.issues t w i ∧ (s.tile t).window < 64

/-- Nothing but the sequencer of tile `t`, and with lock-step the tile's digests, differs between `s` and `u`. -/
abbrev State.onlySeq (s u : State) (t : TileId) : Prop :=
  u = s.setTile t { s.tile t with seq := (u.tile t).seq, digests := (u.tile t).digests } ∧
    (s.gtc.lsEn = false → (u.tile t).digests = (s.tile t).digests)

/-- `r` is `q` after the instruction at PC has been done and PC has become `pc`, apart from the registers, the
predicates and what else the instruction itself says: with no tag it is committed at once and counted
(R250, R269). -/
abbrev Seq.passed (q r : Seq) (pc : Word) : Prop :=
  r.pc = pc ∧ r.nextId = q.nextId + 1 ∧
    (q.emitTag = none → r.nInstr = q.nInstr + 1 ∧ r.spec = q.spec) ∧
    (q.emitTag.isSome → r.nInstr = q.nInstr ∧ r.spec.length = q.spec.length + 1)

/-- `a` and `b` agree but for registers, predicates, PC and the bookkeeping of issue. -/
abbrev Seq.likeBut (q r : Seq) : Prop :=
  r = { q with
    regs := r.regs, preds := r.preds, pc := r.pc, nextId := r.nextId, pcCom := r.pcCom, nInstr := r.nInstr
    spec := r.spec }

/-- What R239 and R234 give a SALU operation, in integers: sums, differences and products modulo 2^64, shifts by the
count modulo 64, minima and maxima as signed or unsigned numbers. -/
def AluOp.spec (op : AluOp) (a b : Word) : Word :=
  match op with
  | .add => BitVec.ofNat 64 (a.toNat + b.toNat)
  | .sub => BitVec.ofInt 64 (a.toInt - b.toInt)
  | .mul => BitVec.ofInt 64 (a.toInt * b.toInt)
  | .and => a &&& b
  | .or => a ||| b
  | .xor => a ^^^ b
  | .shl => BitVec.ofNat 64 (a.toNat * 2 ^ (b.toNat % 64))
  | .shr => BitVec.ofNat 64 (a.toNat / 2 ^ (b.toNat % 64))
  | .sra => BitVec.ofInt 64 (a.toInt / 2 ^ (b.toNat % 64))
  | .min => BitVec.ofInt 64 (Min.min a.toInt b.toInt)
  | .max => BitVec.ofInt 64 (Max.max a.toInt b.toInt)
  | .minu => BitVec.ofNat 64 (Min.min a.toNat b.toNat)
  | .maxu => BitVec.ofNat 64 (Max.max a.toNat b.toNat)

/-- What R239 gives a PSET comparison. -/
def CmpOp.spec (op : CmpOp) (a b : Word) : Prop :=
  match op with
  | .eq => a.toNat = b.toNat
  | .ne => a.toNat ≠ b.toNat
  | .lt => a.toInt < b.toInt
  | .ge => b.toInt ≤ a.toInt
  | .ltu => a.toNat < b.toNat
  | .geu => b.toNat ≤ a.toNat

/-- The byte at key `k` as a load of tile `t` issued now reads it (R254, R261 rule 5): from the latest of the
sequencer's own waiting stores that covers it, and otherwise from memory. -/
def State.loadByte (s : State) (t : TileId) (k : Nat) : Byte :=
  let q := (s.tile t).seq
  let mine := q.stores.filterMap fun e => match s.storeKey t e with
    | some j => if e.id < q.nextId ∧ j ≤ k ∧ k < j + e.data.length then some (e.data.getD (k - j) 0) else none
    | none => none
  mine.getLast?.getD (Memory.read 0 s.mem k)

/-- A load issued now by tile `t` is performed at once: its wait mask is satisfied, every earlier load has been
performed, and no earlier store that waits goes to a register block. -/
abbrev State.loadsNow (s : State) (t : TileId) (wait : BitVec 4) : Prop :=
  let q := (s.tile t).seq
  (s.tile t).waitsDone wait q.nextId = true ∧ (∀ l ∈ q.loads, l.value.isSome = true ∧ l.id < q.nextId) ∧
    ∀ e ∈ q.stores, s.storeIsReg t e = false

/-! ### The vector engine -/

/-- What R210 gives the I32 operations, in integers. -/
def VOp.ispec (op : VOp) (a b : BitVec 32) : BitVec 32 :=
  match op with
  | .iadd => BitVec.ofInt 32 (a.toInt + b.toInt)
  | .isub => BitVec.ofInt 32 (a.toInt - b.toInt)
  | .iand => a &&& b
  | .ior => a ||| b
  | .ixor => a ^^^ b
  | .ishl => BitVec.ofNat 32 (a.toNat * 2 ^ (b.toNat % 32))
  | .ishr => BitVec.ofNat 32 (a.toNat / 2 ^ (b.toNat % 32))
  | _ => BitVec.ofInt 32 (a.toInt / 2 ^ (b.toNat % 32))

/-- The I32 operations of R210. -/
def VOp.isInt (op : VOp) : Bool :=
  match op with
  | .iadd | .isub | .iand | .ior | .ixor | .ishl | .ishr | .isra => true
  | _ => false

/-- Lane `i` of the instruction is active (R202). -/
abbrev VInstr.active (v : VInstr) (m : Vector VMask 8) (i : Nat) : Prop :=
  v.men = false ∨ (m[v.msel.toFin]).getLsbD i = true

/-- The one operation of the vector queue of tile `t` may run now: it is `o`, not yet run and with no tag, its waits
are satisfied, every resolved tag has been delivered, and no store of its sequencer and no rime operation waits. -/
abbrev State.vecAlone (s : State) (t : TileId) (o : VecOp) : Prop :=
  (s.tile t).vec.queue = [o] ∧ o.done = false ∧ o.hdr.tag = none ∧ (s.tile t).seq.stores = [] ∧
    (s.tile t).seq.deliver = [] ∧ (s.tile t).rime.queue = [] ∧ (s.tile t).waitsDone o.hdr.wait o.hdr.id = true

/-! ### The DMA engine -/

/-- The one operation of the DMA queue of tile `t` may be performed now: it is `o`, not performed, with no tag, its waits
are satisfied, every resolved tag has been delivered, and no store of its sequencer and no rime operation waits. -/
abbrev State.dmaAlone (s : State) (t : TileId) (o : DmaOp) : Prop :=
  (s.tile t).dma.queue = [.op o] ∧ o.buf = none ∧ o.hdr.tag = none ∧ (s.tile t).seq.stores = [] ∧
    (s.tile t).seq.deliver = [] ∧ (s.tile t).rime.queue = [] ∧ (s.tile t).waitsDone o.hdr.wait o.hdr.id = true

/-! ### The Serac clusters -/

/-- Entry `ix` of cluster `c` is of the step in progress, and has not been taken up in it (R172). -/
abbrev State.serCurrent (s : State) (c : ClusterId) (ix : Nat) : Prop :=
  s.job.running = true ∧ (s.cluster c).step = s.job.step ∧ ix < (s.cluster c).listCount ∧
    (s.serDesc c ix).due (s.cluster c).step.toNat = true ∧ ix ∉ (s.cluster c).ended

/-- The result record lies in memory that a cluster may write, as 96 bytes from key `k`. -/
abbrev State.recordAt (s : State) (a k : Nat) : Prop :=
  s.locate .serac a = .mem k ∧ s.serWrFault a 96 = false

/-! ### The links -/

/-- The port takes frames of a logical lane: it is in service, and no fault of it has been declared here (R361). -/
def LPort.hears (x : LPort) (lane : Nat) : Bool := decide (lane < x.width.toNat) && !x.faultWait.getLsbD lane

/-! ### The Ouvzu queues -/

/-- Command `c`, sequenced, of opcode `opc`, is the one fetched command, and it came from queue pair `q`. -/
abbrev State.holds (s : State) (c : Cmd) (q : QPair) (opc : Nat) : Prop :=
  s.ouvzu.cmds = [c] ∧ c.stage = .sequenced ∧ c.aborter = [] ∧ c.sqid = q.id ∧ q.id < 16384 ∧ s.queue q.id = some q ∧
    c.port = some q.port ∧ s.ouvzu.closing = [] ∧ c.opc = opc

/-- Command `c`, executing, of opcode `opc`, is the one fetched command, and it came from queue pair `q`. -/
abbrev State.executes (s : State) (c : Cmd) (q : QPair) (opc : Nat) : Prop :=
  s.ouvzu.cmds = [c] ∧ c.stage = .executing ∧ c.aborter = [] ∧ c.sqid = q.id ∧ q.id < 16384 ∧ s.queue q.id = some q ∧
    c.port = some q.port ∧ s.ouvzu.closing = [] ∧ c.opc = opc

/-- `c` waits as `holds` says, `q` may send it, and every byte of it that must be 0 is (R488, R490). -/
abbrev State.takes (s : State) (c : Cmd) (q : QPair) (opc : Nat) : Prop :=
  s.holds c q opc ∧ c.reservedOk = true ∧ (isAdmin opc = true → q.id < 2)

/-- Since `s`, the one command `c` of queue pair `q` has committed with a status and its results: its record (R489) stands
in the pair's completion queue with the pass's PHASE, and it is counted. -/
abbrev State.records (s u : State) (c : Cmd) (q : QPair) (status : Nat) (r0 r1 : Word) : Prop :=
  let k := q.cqBase + 32 * q.cqTail
  u.ouvzu.cmds = [] ∧ u.ouvzu.nCmds = s.ouvzu.nCmds + 1 ∧ leNat (u.hostRd q.port k 2) = c.cid ∧
    leNat (u.hostRd q.port (k + 2) 2) = status ∧ leNat (u.hostRd q.port (k + 4) 2) = q.id ∧
    leNat (u.hostRd q.port (k + 8) 8) = r0.toNat ∧ leNat (u.hostRd q.port (k + 16) 8) = r1.toNat ∧
    leNat (u.hostRd q.port (k + 24) 4) = s.gtc.count.toNat % 2 ^ 32 ∧
    leNat (u.hostRd q.port (k + 28) 2) = q.phase.toNat ∧ u.ouvzu.queues.length = s.ouvzu.queues.length

/-- Between `s` and `u`, host memory differs only in the 32 bytes of `q`'s next record. -/
abbrev State.onlyRecord (s u : State) (q : QPair) : Prop :=
  ∀ p a, p ≠ q.port ∨ a < q.cqBase + 32 * q.cqTail ∨ q.cqBase + 32 * q.cqTail + 32 ≤ a →
    Memory.read 0 (match p with | .a => u.hostA | .b => u.hostB) a =
      Memory.read 0 (match p with | PciePort.a => s.hostA | .b => s.hostB) a

/-! ### Reports -/

/-- No router register differs between `s` and `u`; only packets that leave by the west router may have been handed to
it (a report's, while both Lomtirel links are down, R593). -/
abbrev State.onlyNet (s u : State) : Prop :=
  u.routers = (s.modRouter .west fun r => { r with netQ := (u.router .west).netQ }).routers

/-! ### Numbers -/

/-- The formats of R41, R53 and R54. -/
def floatFormats : List FFmt := [fFP64, fFP32, fBF16, fFP16, fE4M3, fE5M2, fE3M2, fE2M3, fE2M1, fA48, fA96, fM8S, fM8U]

/-- The rational number that a finite value is; 0 for the others. -/
def FV.rat (v : FV) : Rat :=
  match v with
  | .fin neg m e => (if neg then -1 else 1) * (m : Rat) * (2 : Rat) ^ e
  | _ => 0

/-- A code of the format that stands for a finite value. -/
abbrev FFmt.finite (f : FFmt) (code : Nat) : Prop := code < 2 ^ f.width ∧ code % 2 ^ f.magBits ≤ f.maxMag

/-! ### Lomtirel -/

/-- The SMC executes a command frame of header `m` that arrives now (R598): from a manager, its SEQ above the last one executed, with no
Ouvzu order of that manager still being executed, and not in recovery mode. -/
abbrev State.accepts (s : State) (m : LomHeader) : Prop :=
  s.isManager m.mac = true ∧ (s.manager m.mac).last.toNat < m.seq.toNat ∧ s.orderOpen m.mac = false ∧ s.boot.state ≠ .recovery

/-- Since `s`, the SMC has executed the command of header `m` and opcode `opc`, counted it, and originated one frame, the RESPONSE with
a status and a result (R595, R598), which it keeps. -/
abbrev State.responds (s u : State) (m : LomHeader) (opc status : Nat) (result : List Byte) : Prop :=
  let f : LomFrame := ⟨0x11, s.lom.seq, m.seq, s.gtc.count,
    leBytes 2 status ++ leBytes 2 opc ++ List.replicate 4 0 ++ result⟩
  u.lom.sent = f :: s.lom.sent ∧ u.lom.seq = s.lom.seq + 1 ∧ u.lom.tx = s.lom.tx + 1 ∧ u.lom.rx = s.lom.rx + 1 ∧
    u.lom.deny = s.lom.deny ∧ u.lom.up = s.lom.up ∧ u.lom.relayed = s.lom.relayed ∧
    u.manager m.mac = ⟨m.mac, m.seq, some f⟩ ∧ (∀ x, x ≠ m.mac → u.manager x = s.manager x)

/-- The same, with no router register changed. -/
abbrev State.answers (s u : State) (m : LomHeader) (opc status : Nat) (result : List Byte) : Prop :=
  s.responds u m opc status result ∧ s.onlyNet u

/-! ### Power -/

/-- The lowest of R562's terms but the caps: the target, and 5 unless fixed-frequency mode is off, Tj is below 95 °C, the average power
is at least 100 W below PLIMIT and MARGIN_LIMIT is clear. -/
def State.uncapped (s : State) : Nat :=
  let p := s.power
  if s.fixedFreq = false ∧ p.tj.toNat < 95 ∧ p.avg.toNat + 100 ≤ p.plimit.toNat ∧ p.margin = false then s.opTarget.toNat
  else Min.min s.opTarget.toNat 5

/-- `u` has the operating point that R562 gives for its own caps, brake and temperature, from the one in force in `s` (R560): a
lower one at once, a higher one when the voltage is there; the setpoints are the goal's with the trim offsets (R563); a lowering below OP5 by
a brake or a cap is counted, and is one OPDOWN thaw event in fixed-frequency mode. -/
abbrev State.settles (s u : State) : Prop :=
  let p := u.power
  let goal := p.raising.getD p.op
  let lowered : Prop := goal.toNat < s.power.op.toNat ∧ goal.toNat < 5 ∧ goal.toNat < u.uncapped
  (p.brake = true ∨ p.wiring = true ∨ p.thmax = true → goal = 0) ∧
    (p.brake = false → p.wiring = false → p.thmax = false →
      goal.toNat = Min.min u.uncapped (Min.min p.powerCap.toNat (Min.min p.dipCap.toNat p.thermCap.toNat))) ∧
    p.op.toNat = Min.min s.power.op.toNat goal.toNat ∧
    (s.power.op.toNat < goal.toNat → p.raising = some goal) ∧ (goal.toNat ≤ s.power.op.toNat → p.raising = none) ∧
    p.target = s.opTarget ∧
    p.coreMv.toNat = Min.min 850 ([620, 650, 680, 700, 730, 750, 800, 850].getD goal.toNat 0 + p.coreOfs.toNat) ∧
    p.seracMv.toNat = Min.min 850 (750 + p.seracOfs.toNat) ∧
    (lowered → p.opdown = s.power.opdown + 1) ∧ (¬ lowered → p.opdown = s.power.opdown) ∧
    (lowered → s.fixedFreq = true → u.gtc.thawN[4] = s.gtc.thawN[4] + 1) ∧
    (¬ lowered ∨ s.fixedFreq = false → u.gtc.thawN[4] = s.gtc.thawN[4])

/-- Bits `[lo + len - 1 : lo]` of a number. -/
def fieldAt (n lo len : Nat) : Nat := n / 2 ^ lo % 2 ^ len

end Sys2Proof.Machine
end

