-- ==== Sys2Proof/Certificates/Slice0/Obligations.lean ====
section
/-!
DEFINITION. The statements for the provers, one for each part of the block: what its commands do, where they complete,
and what every step keeps.
-/
open Sys2Proof Sys2Proof.Machine

/-- R234, R239: a SALU instruction that issues writes its result to sd and nothing else; s0 takes no write.

R235, R239: a PSET that issues makes its predicate READY with the comparison's truth at once; p0 takes no write.

R238: an instruction whose guard is false only moves PC on and is counted: here for every scalar arithmetic and
predicate instruction, whose registers and predicates stay.

Each row of the table is named beside its operation, and completes wherever it issues or is passed over. -/
def Obligations.ScalarInstructionsWriteTheirResults : Prop :=
  (∀ r ∈ [(AluOp.add, Instr.saluAdd), (.sub, .saluSub), (.mul, .saluMul), (.and, .saluAnd), (.or, .saluOr),
      (.xor, .saluXor), (.shl, .saluShl), (.shr, .saluShr), (.sra, .saluSra), (.min, .saluMin), (.max, .saluMax),
      (.minu, .saluMinu), (.maxu, .saluMaxu)],
    ∀ (s : State) (t : TileId) (w : Word) (sd sa sb : BitVec 5) (i : Bool) (imm : BitVec 32),
    let q := (s.tile t).seq
    let b : Word := if i then imm.signExtend 64 else q.sreg sb
    (s.issues t w (.alu r.1 sd sa sb i imm) →
      ∃ u, exec (r.2 t) s = .next u ∧ s.onlySeq u t ∧
        (∀ x, (u.tile t).seq.sreg x = if x = sd ∧ x ≠ 0 then r.1.spec (q.sreg sa) b else q.sreg x) ∧
        q.sreg 0 = 0 ∧ (u.tile t).seq.preds = q.preds ∧ q.passed (u.tile t).seq (q.pc + 8) ∧
        q.likeBut (u.tile t).seq) ∧
    (s.skips t w (.alu r.1 sd sa sb i imm) →
      ∃ u, exec (r.2 t) s = .next u ∧ s.onlySeq u t ∧ (u.tile t).seq.regs = q.regs ∧
        (u.tile t).seq.preds = q.preds ∧ q.passed (u.tile t).seq (q.pc + 8) ∧ q.likeBut (u.tile t).seq)) ∧
  (∀ r ∈ [(CmpOp.eq, Instr.psetEq), (.ne, .psetNe), (.lt, .psetLt), (.ge, .psetGe), (.ltu, .psetLtu),
      (.geu, .psetGeu)],
    ∀ (s : State) (t : TileId) (w : Word) (pd : BitVec 3) (sa sb : BitVec 5) (i : Bool) (imm : BitVec 32),
    let q := (s.tile t).seq
    let b : Word := if i then imm.signExtend 64 else q.sreg sb
    (s.issues t w (.pset r.1 pd sa sb i imm) →
      ∃ u, exec (r.2 t) s = .next u ∧ s.onlySeq u t ∧
        (pd ≠ 0 → (((u.tile t).seq.pred pd).val = true ↔ r.1.spec (q.sreg sa) b) ∧
          ((u.tile t).seq.pred pd).awaits = none) ∧
        (∀ x, x ≠ pd ∨ x = 0 → (u.tile t).seq.pred x = q.pred x) ∧ q.pred 0 = ⟨true, none⟩ ∧
        (u.tile t).seq.regs = q.regs ∧ q.passed (u.tile t).seq (q.pc + 8) ∧ q.likeBut (u.tile t).seq) ∧
    (s.skips t w (.pset r.1 pd sa sb i imm) →
      ∃ u, exec (r.2 t) s = .next u ∧ s.onlySeq u t ∧ (u.tile t).seq.regs = q.regs ∧
        (u.tile t).seq.preds = q.preds ∧ q.passed (u.tile t).seq (q.pc + 8) ∧ q.likeBut (u.tile t).seq))

/-- R236, R240, R261: an LD of memory that may be performed now takes the bytes it sees, zero-extended, and its
destination is pending until the load returns; PC moves on.

R235, R249: a PLD performs an 8-byte load, and its predicate is PENDING from then on, awaiting that load.

R235, R236: a performed load that returns writes its register or predicate only where that load is still the one
awaited. With no branch tied to it nothing else changes. -/
def Obligations.LoadsReadMemoryAndReturn : Prop :=
  (∀ (s : State) (t : TileId) (w : Word) (sd sa : BitVec 5) (wait : BitVec 4) (size : BitVec 2) (off : BitVec 32)
    (k : Nat),
    s.issues t w (.ld sd sa wait size off) → s.loadsNow t wait →
    let q := (s.tile t).seq
    let a := q.sreg sa + off.signExtend 64
    let n := 2 ^ size.toNat
    a.toNat % n = 0 → s.locate (.seq t) a.toNat = .mem k → s.readUe k n = none →
    ∃ u v, exec (.ld t) s = .next u ∧ s.onlySeq u t ∧
      let r := (u.tile t).seq
      r.loads = q.loads ++ [⟨q.nextId, q.emitTag, q.pc, a, wait, .reg sd n, some v⟩] ∧
        v = BitVec.ofNat 64 (leNat (tab n fun j => s.loadByte t (k + j))) ∧
        (sd ≠ 0 → r.pending sd = true) ∧ r.regs = q.regs ∧ r.pc = q.pc + 8 ∧
        { q with regPend := r.regPend, loads := r.loads, spec := r.spec, pc := r.pc, nextId := r.nextId,
                 pcCom := r.pcCom, nInstr := r.nInstr } = r) ∧
  (∀ c : PldCond, ∀ r ∈ [(c = .eq0, Instr.pldEq0), (c = .ne0, .pldNe0), ((∃ n, c = .bit n), .pldBit)], r.1 →
    ∀ (s : State) (t : TileId) (w : Word) (pd : BitVec 3) (sa : BitVec 5) (wait : BitVec 4)
    (off : BitVec 32) (k : Nat),
    s.issues t w (.pld c pd sa wait off) → s.loadsNow t wait →
    let q := (s.tile t).seq
    let a := q.sreg sa + off.signExtend 64
    a.toNat % 8 = 0 → s.locate (.seq t) a.toNat = .mem k → s.readUe k 8 = none →
    ∃ u v, exec (r.2 t) s = .next u ∧ s.onlySeq u t ∧
      let r := (u.tile t).seq
      r.loads = q.loads ++ [⟨q.nextId, q.emitTag, q.pc, a, wait, .pred pd c, some v⟩] ∧
        v = BitVec.ofNat 64 (leNat (tab 8 fun j => s.loadByte t (k + j))) ∧
        (pd ≠ 0 → (r.pred pd).awaits = some q.nextId) ∧ (∀ x, x ≠ pd → r.pred x = q.pred x) ∧
        r.pc = q.pc + 8 ∧
        { q with preds := r.preds, loads := r.loads, spec := r.spec, pc := r.pc, nextId := r.nextId,
                 pcCom := r.pcCom, nInstr := r.nInstr } = r) ∧
  (∀ (s : State) (t : TileId) (k : Nat) (l : Load) (v : Word),
    let q := (s.tile t).seq
    (∀ m ∈ q.loads, m.value.isSome = true) → q.branches = [] → q.loads[k]? = some l → l.value = some v →
    ∃ u, exec (.loadReturn t k) s = .next u ∧
      let r := (u.tile t).seq
      u = s.setTile t { s.tile t with seq := r } ∧
        (match l.dst with
         | .reg sd _ => (∀ x, r.sreg x = if x = sd ∧ x ≠ 0 ∧ q.regPend[x.toFin] = some l.id then v else q.sreg x) ∧
             r.preds = q.preds
         | .pred pd c => r.regs = q.regs ∧
             ∀ x, r.pred x = if x = pd ∧ x ≠ 0 ∧ (q.pred x).awaits = some l.id then ⟨c.holds v, none⟩ else q.pred x) ∧
        r.loads = q.loads.eraseIdx k ∧
        { q with regs := r.regs, regPend := r.regPend, preds := r.preds, loads := r.loads } = r)

/-- R252, R254, R261: a store joins the sequencer's waiting stores with its address and its low bytes, and writes memory
only when it becomes visible.

R261, R276: a store that may become visible at once, of a sequencer with no earlier store waiting and no branch
unresolved, writes its bytes at its address and no other byte of memory.

R264: an AMO on memory, with nothing of its sequencer waiting, writes its location as its operation says, CAS only
when the old value equals sc, and returns the old value to sd, which is pending until then. -/
def Obligations.StoresAndAtomicsWriteTheirBytes : Prop :=
  (∀ (s : State) (t : TileId) (w : Word) (sd sa : BitVec 5) (wait : BitVec 4) (size : BitVec 2) (off : BitVec 32),
    s.issues t w (.st sd sa wait size off) →
    let q := (s.tile t).seq
    let a := q.sreg sa + off.signExtend 64
    s.accessFault t a.toNat (2 ^ size.toNat) true = none →
    (q.branches ≠ [] → (q.stores.filter fun e => e.tag.isSome).length < 16) →
    ∃ u, exec (.st t false) s = .next u ∧ s.onlySeq u t ∧
      let r := (u.tile t).seq
      r.stores = q.stores ++ [⟨q.nextId, q.emitTag, q.pc, a, wait, leBytes (2 ^ size.toNat) (q.sreg sd).toNat⟩] ∧
        q.passed r (q.pc + 8) ∧ { q with stores := r.stores, spec := r.spec, pc := r.pc, nextId := r.nextId,
                                         pcCom := r.pcCom, nInstr := r.nInstr } = r) ∧
  (∀ (s : State) (t : TileId) (w : Word) (sd sa : BitVec 5) (wait : BitVec 4) (size : BitVec 2) (off : BitVec 32)
    (k : Nat),
    s.issues t w (.st sd sa wait size off) →
    let q := (s.tile t).seq
    let a := q.sreg sa + off.signExtend 64
    let n := 2 ^ size.toNat
    s.accessFault t a.toNat n true = none → s.locate (.seq t) a.toNat = .mem k → s.writeUe k n = none →
    q.branches = [] → q.deliver = [] → q.stores = [] → (s.tile t).waitsDone wait q.nextId = true →
    (∀ l ∈ q.loads, l.value.isSome = true) →
    ∃ u, exec (.st t true) s = .next u ∧
      (∀ j < n, Memory.read 0 u.mem (k + j) = BitVec.ofNat 8 ((q.sreg sd).toNat / 2 ^ (8 * j))) ∧
      (∀ b, b < k ∨ k + n ≤ b → Memory.read 0 u.mem b = Memory.read 0 s.mem b) ∧
      (u.tile t).seq.stores = [] ∧ (u.tile t).seq.regs = q.regs ∧ (u.tile t).seq.preds = q.preds ∧
      (u.tile t).seq.pc = q.pc + 8 ∧
      u = { s with tiles := u.tiles, mem := u.mem, hbm := u.hbm } ∧ ∀ t' ≠ t, u.tile t' = s.tile t') ∧
  (∀ r ∈ [(AmoOp.add, Instr.amoAdd), (.swp, .amoSwp), (.cas, .amoCas)],
    ∀ (s : State) (t : TileId) (w : Word) (sd sa sb sc : BitVec 5) (k : Nat),
    s.issues t w (.amo r.1 sd sa sb sc) →
    let q := (s.tile t).seq
    let a := q.sreg sa
    q.branches = [] → q.deliver = [] → q.stores = [] → (∀ l ∈ q.loads, l.value.isSome = true) →
    s.accessFault t a.toNat 8 true = none → s.locate (.seq t) a.toNat = .mem k → s.readUe k 8 = none →
    ∃ u, exec (r.2 t) s = .next u ∧
      let old : Word := BitVec.ofNat 64 (leNat (s.rd k 8))
      let new : Word := match r.1 with
        | .add => old + q.sreg sb
        | .swp => q.sreg sb
        | .cas => if old = q.sreg sc then q.sreg sb else old
      BitVec.ofNat 64 (leNat (u.rd k 8)) = new ∧
        (∀ b, b < k ∨ k + 8 ≤ b → Memory.read 0 u.mem b = Memory.read 0 s.mem b) ∧
        (u.tile t).seq.loads = q.loads ++ [⟨q.nextId, none, q.pc, a, 0, .reg sd 8, some old⟩] ∧
        (sd ≠ 0 → (u.tile t).seq.pending sd = true) ∧ (u.tile t).seq.regs = q.regs ∧
        (u.tile t).seq.preds = q.preds ∧ (u.tile t).seq.pc = q.pc + 8 ∧ (u.tile t).seq.nInstr = q.nInstr + 1 ∧
        u = { s with tiles := u.tiles, mem := u.mem, hbm := u.hbm } ∧ ∀ t' ≠ t, u.tile t' = s.tile t')

/-- R258: an access that is not a multiple of its size faults with ALIGN_ERR; one that maps to nothing, a store into a
stream region or to the CP block, with ADDR_ERR: with no tag the sequencer stops, its flag and its PC are recorded,
and nothing else of the tile or of memory changes.

R242, R258: a word that is no instruction, under a true guard and no tag, stops the sequencer with ILL_INSTR and its
address, before anything of it takes effect; a fetch outside the stream region stops it with ADDR_ERR. -/
def Obligations.BadInstructionsFaultPrecisely : Prop :=
  (∀ (s : State) (t : TileId) (w : Word) (sd sa : BitVec 5) (wait : BitVec 4) (size : BitVec 2) (off : BitVec 32)
    (store visible : Bool),
    s.issues t w (if store then .st sd sa wait size off else .ld sd sa wait size off) →
    let q := (s.tile t).seq
    let a := q.sreg sa + off.signExtend 64
    q.branches = [] →
    (a.toNat % 2 ^ size.toNat ≠ 0 ∨ s.locate (.seq t) a.toNat = .nothing ∨
      (store = true ∧ ((∃ o, s.locate (.seq t) a.toNat = .cpReg o) ∨
        ∃ k, s.locate (.seq t) a.toNat = .mem k ∧ s.inStream k = true))) →
    ∃ u, exec (if store then .st t visible else .ld t) s = .next u ∧
      u = { s with tiles := u.tiles, job := u.job } ∧
      (s.job.image.isSome = true → s.job.pending = none → u.job.pending = some ⟨2, BitVec.ofNat 64 t.val⟩) ∧
      u.tiles = (s.setTile t { s.tile t with seq := { q with
        run := false, faultPc := q.pc, pcCom := q.pc
        stat := q.stat ||| (if a.toNat % 2 ^ size.toNat ≠ 0 then 4 else 2) } }).tiles) ∧
  (∀ (s : State) (t : TileId),
    let q := (s.tile t).seq
    q.run = true → q.slotWait = none → q.held = [] → (s.tile t).copHeld = false → q.branches = [] →
    ((∃ w, s.fetch t = some w ∧ decodeIns w = none ∧ (q.pred (fPg w)).awaits = none ∧ (q.pred (fPg w)).val ≠ fPn w) ∨
      s.fetch t = none) →
    ∃ u, exec (.illegalInstr t) s = .next u ∧ u = { s with tiles := u.tiles, job := u.job } ∧
      u.tiles = (s.setTile t { s.tile t with seq := { q with
        run := false, faultPc := q.pc, pcCom := q.pc
        stat := q.stat ||| (if (s.fetch t).isSome then 8 else 2) } }).tiles ∧
      (s.job.image.isSome = true → s.job.pending = none → u.job.pending = some ⟨2, BitVec.ofNat 64 t.val⟩))

/-- R240, R249, R252: BR on a READY predicate goes to its target when pb xor NEG is 1 and on to the next instruction
otherwise; JAL writes PC + 8 to sd and goes to its target; JR goes to sa; END, with no tag, stops the fetch. Nothing
else of the state changes.

R249, R250: BR on a PENDING predicate is predicted from HINT alone and tied to the load the predicate awaits; while
two predicted branches are unresolved a third waits. -/
def Obligations.BranchesFollowConditionAndHint : Prop :=
  (∀ (s : State) (t : TileId) (w : Word),
    let q := (s.tile t).seq
    (∀ (pb : BitVec 3) (neg hint : Bool) (off : BitVec 32), s.issues t w (.br pb neg hint off) →
      (q.pred pb).awaits = none →
      ∃ u, exec (.br t) s = .next u ∧ s.onlySeq u t ∧ (u.tile t).seq.regs = q.regs ∧ (u.tile t).seq.preds = q.preds ∧
        q.passed (u.tile t).seq
          (if ((q.pred pb).val ^^ neg) = true then q.pc + BitVec.ofInt 64 (8 * off.toInt) else q.pc + 8) ∧
        q.likeBut (u.tile t).seq) ∧
    (∀ (sd : BitVec 5) (off : BitVec 32), s.issues t w (.jal sd off) →
      ∃ u, exec (.jal t) s = .next u ∧ s.onlySeq u t ∧
        (∀ x, (u.tile t).seq.sreg x = if x = sd ∧ x ≠ 0 then q.pc + 8 else q.sreg x) ∧
        (u.tile t).seq.preds = q.preds ∧
        q.passed (u.tile t).seq (q.pc + BitVec.ofInt 64 (8 * off.toInt)) ∧ q.likeBut (u.tile t).seq) ∧
    (∀ sa : BitVec 5, s.issues t w (.jr sa) →
      ∃ u, exec (.jr t) s = .next u ∧ s.onlySeq u t ∧ (u.tile t).seq.regs = q.regs ∧ (u.tile t).seq.preds = q.preds ∧
        q.passed (u.tile t).seq (q.sreg sa) ∧ q.likeBut (u.tile t).seq) ∧
    (s.issues t w .stop → q.branches = [] → q.deliver = [] →
      ∃ u, exec (.seqEnd t) s = .next u ∧ s.onlySeq u t ∧ (u.tile t).seq.run = false ∧
        (u.tile t).seq = { q with run := false, ended := true, pc := q.pc + 8, pcCom := q.pc + 8
                                  nextId := q.nextId + 1, nInstr := q.nInstr + 1 })) ∧
  (∀ (s : State) (t : TileId) (w : Word) (pb : BitVec 3) (neg hint : Bool) (off : BitVec 32) (load : Nat),
    let q := (s.tile t).seq
    s.issues t w (.br pb neg hint off) → (q.pred pb).awaits = some load →
    (q.branches.length < 2 →
      ∃ u, exec (.br t) s = .next u ∧ s.onlySeq u t ∧
        let r := (u.tile t).seq
        let target := q.pc + BitVec.ofInt 64 (8 * off.toInt)
        r.pc = (if hint then target else q.pc + 8) ∧ r.regs = q.regs ∧ r.preds = q.preds ∧
          ∃ b, r.branches = q.branches ++ [b] ∧ b.loadId = load ∧ b.neg = neg ∧ b.taken = hint ∧
            b.tag = q.nextId ∧ r.tag = some b.tag ∧ b.regs = q.regs ∧ b.preds = q.preds ∧ b.phase = q.phase ∧
            b.other = (if hint then q.pc + 8 else target)) ∧
    (2 ≤ q.branches.length → exec (.br t) s = .next s))

/-- R250, R257: the return of the load to which the one unresolved branch is tied resolves it. As predicted: its tag's
commit is on its way and fetch goes on. Against the prediction: fetch resumes at the other target with the
registers, predicates and phase the branch found, and its tag's squash is on its way.

R250 to R252, R257: with the commit of its tag delivered, an instruction held under the tag counts; with the squash
delivered, waiting stores, loads and events of the tag are gone and the accumulator rows, rime epochs and vector
registers are what they were before the tag's first write. -/
def Obligations.ResolutionCommitsOrUndoes : Prop :=
  (∀ (s : State) (t : TileId) (l : Load) (v : Word) (pd : BitVec 3) (c : PldCond) (b : Branch),
    let q := (s.tile t).seq
    q.loads = [l] → l.value = some v → l.dst = .pred pd c → q.branches = [b] → b.loadId = l.id → b.own = none →
    ∃ u, exec (.loadReturn t 0) s = .next u ∧
      let r := (u.tile t).seq
      r.branches = [] ∧
        (((c.holds v ^^ b.neg) = b.taken) → r.pc = q.pc ∧ r.regs = q.regs ∧ r.deliver = q.deliver ++ [(b.tag, true)] ∧
          r.nSquash = q.nSquash) ∧
        (((c.holds v ^^ b.neg) ≠ b.taken) → r.pc = b.other ∧ r.regs = b.regs ∧ r.phase = b.phase ∧
          r.deliver = q.deliver ++ [(b.tag, false)] ∧ r.nSquash = q.nSquash + 1 ∧
          ∀ x, r.pred x = if x = 0 then ⟨true, none⟩
            else if x = pd ∧ b.preds[x.toFin].awaits = some l.id then ⟨c.holds v, none⟩ else b.preds[x.toFin])) ∧
  (∀ (s : State) (t : TileId) (g : Nat) (rest : List (Nat × Bool)),
    let q := (s.tile t).seq
    let x := s.tile t
    (q.deliver = (g, true) :: rest → q.held = [] → x.rime.queue = [] → (∀ r ∈ q.spec, ∃ b, r = ⟨g, .op .seq b 0 0⟩) →
      ∃ u, exec (.tagCommit t) s = .next u ∧ (u.tile t).seq.deliver = rest ∧ (u.tile t).seq.spec = [] ∧
        (u.tile t).seq.nInstr = q.nInstr + BitVec.ofNat 64 q.spec.length ∧
        (∀ e ∈ (u.tile t).seq.stores, e.tag ≠ some g) ∧ (u.tile t).seq.stores.length = q.stores.length ∧
        (u.tile t).seq.regs = q.regs ∧ (u.tile t).seq.preds = q.preds ∧ (u.tile t).vec.regs = x.vec.regs ∧ u.mem = s.mem ∧
        u = { s with tiles := u.tiles } ∧ ∀ t' ≠ t, u.tile t' = s.tile t') ∧
    (q.deliver = (g, false) :: rest → x.rime.queue = [] → (∀ k : Fin 4, x.rime.slots[k].undo = []) →
      ∃ u, exec (.tagSquash t) s = .next u ∧ (u.tile t).seq.deliver = rest ∧
        (u.tile t).seq.stores = q.stores.filter (fun e => e.tag ≠ some g) ∧
        (u.tile t).seq.loads = q.loads.filter (fun e => e.tag ≠ some g) ∧
        (u.tile t).seq.spec = q.spec.filter (fun r => r.tag ≠ g) ∧
        (u.tile t).seq.nInstr = q.nInstr ∧ (u.tile t).seq.regs = q.regs ∧ u.mem = s.mem ∧
        (∀ e, x.vec.undo.find? (fun e => e.tag == g) = some e →
          (u.tile t).vec.regs = e.regs ∧ (u.tile t).vec.masks = e.masks) ∧
        (x.vec.undo.find? (fun e => e.tag == g) = none →
          (u.tile t).vec.regs = x.vec.regs ∧ (u.tile t).vec.masks = x.vec.masks) ∧
        (∀ i : Nat, (u.tile t).acc[i]? = (x.acc[i]?).map fun (r : AccRow) =>
          match r.undo.find? (fun v => v.stag == g) with
          | some v => (⟨v.tag, v.ents, v.halves, r.undo.takeWhile fun v => v.stag != g⟩ : AccRow)
          | none => r) ∧
        u = { s with tiles := u.tiles } ∧ ∀ t' ≠ t, u.tile t' = s.tile t'))

/-- R247, R262, R263: FENCE.SC with nothing of its sequencer waiting and FENCE.CO with no earlier operation of its
classes unfinished are done at once; FENCE.CO waits otherwise. A WAITSLOT whose boundary 64 (B + sa + OFFSET) has
been observed is done at once, and with no tag counts as late exactly when the next boundary has been observed too;
otherwise issue waits for that boundary, and WAITSLOT_RELEASE completes it once the boundary is observed.

R132, R252, R335, R338: a PHASE with no tag sets the phase in force and commits at once: the tile's GTC mark and
record count move on, the phase left gains the cycles since the last record in its total, and the one entered 1 in
its count. -/
def Obligations.SynchronisingInstructionsComplete : Prop :=
  (∀ (s : State) (t : TileId) (w : Word),
    let q := (s.tile t).seq
    (s.issues t w .fenceSc → q.stores = [] → (∀ l ∈ q.loads, l.value.isSome = true) →
      ∃ u, exec (.fenceSc t) s = .next u ∧ s.onlySeq u t ∧ q.passed (u.tile t).seq (q.pc + 8) ∧
        q.likeBut (u.tile t).seq ∧ (u.tile t).seq.regs = q.regs ∧ (u.tile t).seq.preds = q.preds) ∧
    (∀ wait : BitVec 4, s.issues t w (.fenceCo wait) →
      (((∀ c < 4, wait.getLsbD c = true → (s.tile t).classBusy c q.nextId = false) →
        ∃ u, exec (.fenceCo t) s = .next u ∧ s.onlySeq u t ∧ q.passed (u.tile t).seq (q.pc + 8) ∧
          q.likeBut (u.tile t).seq ∧ (u.tile t).seq.regs = q.regs ∧ (u.tile t).seq.preds = q.preds) ∧
      ((∃ c < 4, wait.getLsbD c = true ∧ (s.tile t).classBusy c q.nextId = true) →
        exec (.fenceCo t) s = .next s))) ∧
    (∀ (sa : BitVec 5) (off : BitVec 32), s.issues t w (.waitslot sa off) →
      let n : Word := BitVec.ofInt 64 s.baseSlot + q.sreg sa + off.signExtend 64
      let now : Int := s.gtc.count.toNat
      ∃ u, exec (.waitslot t) s = .next u ∧ s.onlySeq u t ∧
        (64 * n.toInt ≤ now → (u.tile t).seq.pc = q.pc + 8 ∧ (u.tile t).seq.slotWait = none ∧
          (q.emitTag = none → (u.tile t).seq.nInstr = q.nInstr + 1 ∧ (u.tile t).seq.nLate =
            if 64 * (n.toInt + 1) ≤ now then q.nLate + 1 else q.nLate)) ∧
        (now < 64 * n.toInt → (u.tile t).seq = { q with slotWait := some n })) ∧
    (∀ n : Word, q.run = true → q.slotWait = some n → 64 * n.toInt ≤ (s.gtc.count.toNat : Int) →
      ∃ u, exec (.waitslotRelease t) s = .next u ∧ s.onlySeq u t ∧ (u.tile t).seq.slotWait = none ∧
        q.passed (u.tile t).seq (q.pc + 8) ∧ (u.tile t).seq.nLate = q.nLate)) ∧
  (∀ (s : State) (t : TileId) (w : Word) (id : BitVec 6),
    let q := (s.tile t).seq
    s.issues t w (.phase id) → s.phaseKind id.toNat ≠ some 0xFF → q.branches = [] → q.deliver = [] → q.phLen = 0 →
    ∃ u, exec (.phase t) s = .next u ∧
      let r := (u.tile t).seq
      r.phase = id ∧ r.phaseCom = id ∧ r.pc = q.pc + 8 ∧ r.phGtc = s.gtc.count ∧ r.phRecs = q.phRecs + 1 ∧
        r.stayFrom = s.gtc.count ∧ r.nInstr = q.nInstr + 1 ∧ r.regs = q.regs ∧ r.preds = q.preds ∧
        u.cp.phCnt[id.toFin] = s.cp.phCnt[id.toFin] + 1 ∧
        u.cp.phTot[q.phaseCom.toFin] = s.cp.phTot[q.phaseCom.toFin] + (s.gtc.count - q.stayFrom) ∧
        s.cp.phMax[q.phaseCom.toFin].toNat ≤ u.cp.phMax[q.phaseCom.toFin].toNat ∧
        (s.gtc.count - q.stayFrom).toNat ≤ u.cp.phMax[q.phaseCom.toFin].toNat ∧
        u = { s with tiles := u.tiles, cp := u.cp } ∧ ∀ t' ≠ t, u.tile t' = s.tile t')

/-- R75, R114, R121, R132, R243, R244: MPASS and EPI read their descriptor as the sequencer sees it and join the matrix
queue with the tag, phase, binding and epochs of their issue; an EPI with BIND takes the STREAM pass that is the
last matrix instruction before it. Nothing else of the tile's units or of memory changes.

R81, R91, R107, R125: the one waiting operation of the matrix class, with its waits satisfied and no store, resolved
tag or rime instruction of its tile waiting, starts when its descriptor passes its checks: a pass latches its weights and their scales, an
unbound epilogue finds the tags it wants. A pass that fails sets only its lowest flag, writes nothing and faults. -/
def Obligations.MatrixInstructionsJoinAndStart : Prop :=
  (∀ (s : State) (t : TileId) (w : Word) (sa : BitVec 5) (wait : BitVec 4) (off : BitVec 32) (k : Nat),
    let x := s.tile t
    let q := x.seq
    let a := q.sreg sa + off.signExtend 64
    s.locate (.seq t) a.toNat = .mem k → poolBase t ≤ k → x.matWaiting < 16 →
    (s.issuesCop t w (.mpass sa wait off) → a.toNat % 32 = 0 → k + 32 ≤ poolBase t + storeSize →
      let N := leNat (tab 32 fun j => s.loadByte t (k + j))
      ∃ u p, exec (.mpass t) s = .next u ∧ (u.tile t).matQ = x.matQ ++ [.pass p] ∧
        p.hdr = ⟨q.nextId, q.tag, q.pc, wait⟩ ∧ p.started = false ∧ p.phase = q.phase ∧
        (x.rime.queue = [] → p.bind = x.rime.bind ∧ ∀ i : Fin 4, p.epochs[i] = x.rime.slots[i].ep.no) ∧
        p.d = ⟨fieldAt N 0 4, fieldAt N 4 4, fieldAt N 8 2, N.testBit 10, fieldAt N 16 16 + 1, fieldAt N 32 16,
          fieldAt N 48 16, fieldAt N 64 32, fieldAt N 96 32, fieldAt N 128 32, fieldAt N 160 32,
          fieldAt N 192 16, fieldAt N 11 5 != 0 || fieldAt N 208 48 != 0⟩ ∧
        (u.tile t).lastMat = some ⟨q.nextId, p.d.acc == 2, p.d.m, p.d.accRow⟩ ∧
        q.passed (u.tile t).seq (q.pc + 8) ∧ q.likeBut (u.tile t).seq ∧
        u = s.setTile t { x with matQ := (u.tile t).matQ, lastMat := (u.tile t).lastMat
                                 seq := (u.tile t).seq, digests := (u.tile t).digests }) ∧
    (s.issuesCop t w (.epi sa wait off) → a.toNat % 64 = 0 → k + 64 ≤ poolBase t + storeSize →
      let N := leNat (tab 64 fun j => s.loadByte t (k + j))
      ∃ u e, exec (.epi t) s = .next u ∧ (u.tile t).matQ = x.matQ ++ [.epi e] ∧
        e.hdr = ⟨q.nextId, q.tag, q.pc, wait⟩ ∧ e.started = false ∧ e.row = 0 ∧
        e.d = { src := fieldAt N 0 4, dst := fieldAt N 4 4, rm := fieldAt N 8 2, sat := N.testBit 10
                clear := N.testBit 11, dest := fieldAt N 12 2, bind := N.testBit 14, op := fieldAt N 16 2
                shape := fieldAt N 18 2, tfmt := fieldAt N 20 4, nr := fieldAt N 32 16 + 1
                ncols := fieldAt N 48 16, accRow := fieldAt N 64 16, ssig := fieldAt N 96 32
                wsig := fieldAt N 128 32, tsig := fieldAt N 160 32, dsig := fieldAt N 192 32
                daddr := fieldAt N 256 32, dstride := fieldAt N 288 32, dscale := fieldAt N 320 32
                taddr := fieldAt N 352 32, tstride := fieldAt N 384 32, tscale := fieldAt N 416 32
                resv := N.testBit 15 || fieldAt N 24 8 != 0 || fieldAt N 80 16 != 0 || fieldAt N 224 32 != 0 ||
                  fieldAt N 448 64 != 0 } ∧
        (e.bound = if e.d.bind then x.lastMat.filter (·.stream) else none) ∧ (u.tile t).lastMat = none ∧
        q.passed (u.tile t).seq (q.pc + 8) ∧ q.likeBut (u.tile t).seq ∧
        u = s.setTile t { x with matQ := (u.tile t).matQ, lastMat := none
                                 seq := (u.tile t).seq, digests := (u.tile t).digests })) ∧
  (∀ (s : State) (t : TileId),
    let x := s.tile t
    x.seq.stores = [] → x.seq.deliver = [] → x.rime.queue = [] →
    (∀ p : PassOp, x.matQ = [.pass p] → p.started = false → x.waitsDone p.hdr.wait p.hdr.id = true →
      (p.d.check x.width.toNat = none → ∃ u p', exec (.passStart t) s = .next u ∧ (u.tile t).matQ = [.pass p'] ∧
        p'.started = true ∧ p'.weights.length = p.d.nx ∧
        (∀ j < p.d.nx, p'.weights[j]? = some (unpackElems p.d.wfmt p.d.kx
          (s.tsRd t (p.d.waddr + j * sliceBytes p.d.wfmt) (sliceBytes p.d.wfmt)))) ∧
        { p with started := true, weights := p'.weights, wscales := p'.wscales } = p' ∧
        u = s.setTile t { x with matQ := [.pass p'] }) ∧
      (∀ bit, p.d.check x.width.toNat = some bit → p.hdr.tag = none →
        ∃ u, exec (.passStart t) s = .next u ∧ (u.tile t).matQ = [] ∧ (u.tile t).acc = x.acc ∧ u.mem = s.mem ∧
          (u.tile t).mmstat = x.mmstat ||| BitVec.ofNat 5 (2 ^ bit) ∧ (u.tile t).seq.run = false ∧
          (u.tile t).seq.stat = x.seq.stat ||| 1 ∧ (u.tile t).fpstat = x.fpstat ∧
          (x.seq.copFault = none → (u.tile t).seq.faultPc = p.hdr.pc ∧ (u.tile t).seq.funit = 1))) ∧
    (∀ e : EpiOp, x.matQ = [.epi e] → e.started = false → e.hdr.tag = none → e.bound = none →
      x.waitsDone e.hdr.wait e.hdr.id = true → e.check x.width.toNat = none →
      (∀ i < e.d.nr, (x.accRow (e.d.accRow + i)).tag = if e.d.src = 15 then .a96 else .a48) →
      ∃ u, exec (.epiStart t) s = .next u ∧ u = s.setTile t { x with matQ := [.epi { e with started := true }] }))

/-- R69, R76, R77, R97, R106, R107: a committed ZERO pass alone in the array, sampled by no slot, adds for each of its M
rows and NX columns the chunk sums of its operands to +0, sets the tags of those rows, leaves every other row, every
column past those it writes, and all of memory, and is counted. -/
def Obligations.ZeroPassWritesItsProduct : Prop :=
  ∀ (s : State) (t : TileId) (stall : Word) (p : PassOp),
    let x := s.tile t
    let d := p.d
    x.matQ = [.pass p] → p.started = true → p.arrived = false → p.row = 0 → p.hdr.tag = none → d.rime = false →
    d.acc = 0 → 0 < d.m → d.accRow + d.m ≤ 2048 → p.weights.length = d.nx → p.wscales.length = d.nx → x.acc.length = 2048 →
    (∀ r ∈ x.acc, r.ents.length = 256) → x.rime.queue = [] → d.nx ≤ (if d.sfmt = 0 then 128 else 256) →
    ∃ u, exec (.passComplete t stall) s = .next u ∧ (u.tile t).matQ = [] ∧
      (∀ i < d.m, ∃ r, (u.tile t).acc[d.accRow + i]? = some r ∧ r.tag = (if d.sfmt = 0 then .a96 else .a48) ∧
        (∀ j < d.nx, r.entry (d.sfmt == 0) j =
          (addChunks (if d.sfmt = 0 then fA96 else fA48) 0
            (chunkSums d (s.streamRow t d i) (weightVals d.wfmt (p.weights.getD j []) (p.wscales.getD j [])))).1 %
            2 ^ (if d.sfmt = 0 then 96 else 48)) ∧
        ∀ c, (if d.sfmt = 0 then 2 * d.nx else d.nx) ≤ c → c < 256 →
          r.ents[c]? = (x.accRow (d.accRow + i)).ents[c]?) ∧
      (∀ r, r < d.accRow ∨ d.accRow + d.m ≤ r → (u.tile t).acc[r]? = x.acc[r]?) ∧
      (u.tile t).mmrows = x.mmrows + BitVec.ofNat 64 d.m ∧ (u.tile t).mmstall = x.mmstall + stall ∧
      u.mem = s.mem ∧ (u.tile t).seq = x.seq ∧ (u.tile t).vec.regs = x.vec.regs ∧ (u.tile t).rime = x.rime ∧
      u = { s with tiles := u.tiles } ∧ ∀ t' ≠ t, u.tile t' = s.tile t'

/-- R115, R119, R120, R124, R131: the next row of a started unbound epilogue to the tile store, in a format without
blocks, reads its accumulator row and writes the row's elements at DADDR + i * DSTRIDE and no other byte; CLEAR
makes the entries read +0; the row is counted, and the last one ends the epilogue. -/
def Obligations.EpilogueRowIsWritten : Prop :=
  ∀ (s : State) (t : TileId) (stall : Word) (e : EpiOp),
    let x := s.tile t
    let d := e.d
    x.matQ = [.epi e] → e.started = true → e.bound = none → e.row < d.nr → d.dest = 0 → isBlockFmt d.dst = false →
    d.src = 0xC → (x.accRow (d.accRow + e.row)).tag = .a48 → (x.accRow (d.accRow + e.row)).undo = [] →
    d.accRow + e.row < x.acc.length → x.rime.queue = [] →
    ∃ u data, exec (.epiRow t stall) s = .next u ∧
      data = packElems d.dst (s.epiRow t d (x.accRow (d.accRow + e.row)) e.row).1 ∧
      (∀ j < data.length, Memory.read 0 u.mem (poolBase t + d.daddr + e.row * d.dstride + j) = data.getD j 0) ∧
      (∀ b, b < poolBase t + d.daddr + e.row * d.dstride ∨
          poolBase t + d.daddr + e.row * d.dstride + data.length ≤ b →
        Memory.read 0 u.mem b = Memory.read 0 s.mem b) ∧
      (u.tile t).epirows = x.epirows + 1 ∧ ((u.tile t).matQ = [] ↔ d.nr ≤ e.row + 1) ∧
      (∀ c < 256, ((u.tile t).accRow (d.accRow + e.row)).ents[c]? =
        if d.clear = true ∧ c < d.ncols then some 0 else (x.accRow (d.accRow + e.row)).ents[c]?) ∧
      (∀ r, r ≠ d.accRow + e.row → (u.tile t).accRow r = x.accRow r) ∧ (u.tile t).seq = x.seq ∧
      (u.tile t).rime = x.rime ∧ (u.tile t).vec = x.vec ∧ ∀ t' ≠ t, u.tile t' = s.tile t'

/-- R134 to R137, R150 to R152: with no tag, their wait masks satisfied and nothing waiting before them, an RCFG whose descriptor passes R158's
checks and whose slot R136 allows loads it and opens the slot; an RBIND of OPEN, differing slots sets the binding;
an RDRAIN of an OPEN slot with no drain pending, to a 64-byte-aligned place in a statistic region, ends the epoch
and opens the next. No other slot changes.

R144, R151, R153, R155: GRAM_ROW replaces every entry e(i, j), i at most j, of its slot by the A48 rounding of e(i,
j) + a_i a_j; RIME_DRAIN_READ, once the ended epoch's rows are complete, hands over a record of 49,600 bytes with
R153's header and leaves every entry +0; RIME_DRAIN_DONE writes the record at the RDRAIN's address, nowhere else,
and counts it. -/
def Obligations.RimeUnitCapturesAndDrains : Prop :=
  (∀ (s : State) (t : TileId) (w : Word) (wait : BitVec 4),
    let x := s.tile t
    let q := x.seq
    q.branches = [] → q.deliver = [] → q.stores = [] → x.rime.queue = [] → x.rime.late = [] →
    x.waitsDone wait q.nextId = true →
    (∀ (sa : BitVec 5) (off : BitVec 32) (k : Nat), s.issuesCop t w (.rcfg sa wait off) →
      let a := q.sreg sa + off.signExtend 64
      let N := leNat (tab 32 fun j => s.loadByte t (k + j))
      let d : RimeDesc := ⟨⟨fieldAt N 0 2 % 4, by omega⟩, N.testBit 2, fieldAt N 8 8, BitVec.ofNat 32 (fieldAt N 32 32),
        BitVec.ofNat 32 (fieldAt N 64 32), fieldAt N 96 32, fieldAt N 128 32, BitVec.ofNat 32 (fieldAt N 160 32), false⟩
      a.toNat % 32 = 0 → s.locate (.seq t) a.toNat = .mem k → poolBase t ≤ k → k + 32 ≤ poolBase t + storeSize →
      fieldAt N 3 5 = 0 → fieldAt N 16 16 = 0 → fieldAt N 192 64 = 0 → d.dlog ≤ 6 → 1 ≤ d.splen → d.splen ≤ 8192 →
      d.spaddr % 256 = 0 → d.spaddr + 512 * d.splen ≤ storeSize →
      ((x.rime.slots[d.slot]).opened = true → (x.rime.slots[d.slot]).ep.q = 0 ∧ (x.rime.slots[d.slot]).drain = none ∧
        ∀ g ∈ x.rime.gramQ, g.slot ≠ d.slot) →
      ∃ u, exec (.rcfg t) s = .next u ∧
        (u.tile t).rime.slots[d.slot] = { x.rime.slots[d.slot] with
          desc := d, opened := true, ep := { (x.rime.slots[d.slot]).ep with step := s.job.step.setWidth 32 } } ∧
        (∀ i : Fin 4, i ≠ d.slot → (u.tile t).rime.slots[i] = x.rime.slots[i]) ∧
        (u.tile t).rime.bind = x.rime.bind ∧ (u.tile t).seq.pc = q.pc + 8 ∧ u = { s with tiles := u.tiles }) ∧
    (∀ (bEn aEn : Bool) (sb sa : BitVec 2), s.issuesCop t w (.rbind wait bEn sb aEn sa) →
      (aEn = true → (x.rime.slots[sa.toFin]).opened = true) → (bEn = true → (x.rime.slots[sb.toFin]).opened = true) →
      (aEn = true → bEn = true → sa ≠ sb) →
      ∃ u, exec (.rbind t) s = .next u ∧ (u.tile t).rime.bind = ⟨aEn, sa.toFin, bEn, sb.toFin⟩ ∧
        (u.tile t).rime.slots = x.rime.slots ∧ (u.tile t).seq.pc = q.pc + 8 ∧ u = { s with tiles := u.tiles }) ∧
    (∀ (sa : BitVec 5) (slot : BitVec 2) (off : BitVec 32), s.issuesCop t w (.rdrain sa wait slot off) →
      let a := q.sreg sa + off.signExtend 64
      let l := x.rime.slots[slot.toFin]
      l.opened = true → l.drain = none → a.toNat % 64 = 0 →
      (∃ im r, s.job.image = some im ∧ r ∈ im.regions ∧ r.kind = 2 ∧ r.base ≤ a.toNat ∧ a.toNat + 49600 ≤ r.base + r.len) →
      ∃ u, exec (.rdrain t) s = .next u ∧
        (u.tile t).rime.slots[slot.toFin] = { l with
          drain := some ⟨q.nextId, q.pc, a, l.ep, none⟩
          ep := ⟨l.ep.no + 1, s.job.step.setWidth 32, 0, 0, false, false⟩ } ∧
        (∀ i : Fin 4, i ≠ slot.toFin → (u.tile t).rime.slots[i] = x.rime.slots[i]) ∧
        q.passed (u.tile t).seq (q.pc + 8) ∧ q.likeBut (u.tile t).seq ∧ u = { s with tiles := u.tiles })) ∧
  (∀ (s : State) (t : TileId),
    let x := s.tile t
    (∀ (g : GramRow) (rest : List GramRow), x.rime.gramQ = g :: rest → g.tag = none → g.vals.length = 128 →
      (x.rime.slots[g.slot]).entries.length = 8256 → (x.rime.slots[g.slot]).drain = none →
      ∃ u, exec (.gramRow t) s = .next u ∧ (u.tile t).rime.gramQ = rest ∧ (u.tile t).rime.rows = x.rime.rows + 1 ∧
        (∀ i j, i ≤ j → j < 128 → ((u.tile t).rime.slots[g.slot]).entries[128 * i - i * (i - 1) / 2 + (j - i)]? =
          ((x.rime.slots[g.slot]).entries[128 * i - i * (i - 1) / 2 + (j - i)]?).map fun (e : BitVec 48) =>
            BitVec.ofNat 48 (fA48.rne (FV.add .rne (fA48.decode e.toNat)
              (FV.mul (fBF16.decode (g.vals.getD i 0).toNat) (fBF16.decode (g.vals.getD j 0).toNat)))).1) ∧
        (∀ k : Fin 4, k ≠ g.slot → (u.tile t).rime.slots[k] = x.rime.slots[k]) ∧ (u.tile t).seq = x.seq ∧
        u = { s with tiles := u.tiles }) ∧
    (∀ (k : Fin 4) (d : Drain), (x.rime.slots[k]).drain = some d → d.record = none → (x.rime.slots[k]).entries.length = 8256 →
      (∀ g ∈ x.rime.gramQ, g.slot = k → g.epoch ≠ d.ep.no) → x.passesTo d.id k = false →
      ∃ u b, exec (.rimeDrainRead t k) s = .next u ∧ b.length = 49600 ∧
        (u.tile t).rime.slots[k] = { x.rime.slots[k] with
          entries := List.replicate 8256 0, drain := some { d with record := some b } } ∧
        leAt b 0 4 = (x.rime.slots[k]).desc.statId.toNat ∧ leAt b 4 4 = d.ep.step.toNat ∧ leAt b 8 8 = d.ep.n.toNat ∧
        leAt b 16 4 = (x.rime.slots[k]).desc.kappa.toNat ∧ leAt b 20 4 = (x.rime.slots[k]).desc.seed.toNat ∧
        leAt b 29 1 = t.val ∧ leAt b 30 1 = k.val ∧ leAt b 32 8 = d.ep.q.toNat ∧ leAt b 40 8 = d.ep.no.toNat ∧
        leAt b 48 16 = 0 ∧ ((leAt b 24 2).testBit 0 = true ↔ ∃ i < 32, ∃ j < 32, i ≤ j ∧
          ((x.rime.slots[k]).entries.getD (128 * i - i * (i - 1) / 2 + (j - i)) 0).toNat % 2 ^ 47 ≠ 0) ∧
        (u.tile t).dma.queue = x.dma.queue ++ [.record k] ∧ (u.tile t).seq = x.seq ∧ u = { s with tiles := u.tiles }) ∧
    (∀ (k : Fin 4) (d : Drain) (b : List Byte) (rest : List DmaItem), (x.rime.slots[k]).drain = some d →
      d.record = some b → x.dma.queue = .record k :: rest → s.writeUe d.addr.toNat b.length = none →
      (∀ j < b.length, s.readOnly (d.addr.toNat + j) = false) → x.rime.queue = [] →
      ∃ u, exec (.rimeDrainDone t k) s = .next u ∧ (u.tile t).dma.queue = rest ∧ (u.tile t).dma.ops = x.dma.ops ∧
        (u.tile t).dma.bytes = x.dma.bytes ∧ (u.tile t).rime.slots[k] = { x.rime.slots[k] with drain := none } ∧
        (u.tile t).rime.drains = x.rime.drains + 1 ∧
        (∀ j < b.length, Memory.read 0 u.mem (d.addr.toNat + j) = b.getD j 0) ∧
        (∀ a, a < d.addr.toNat ∨ d.addr.toNat + b.length ≤ a → Memory.read 0 u.mem a = Memory.read 0 s.mem a) ∧
        (u.tile t).seq = x.seq ∧ u = { s with tiles := u.tiles, mem := u.mem, hbm := u.hbm }))

/-- R205, R227, R229, R241, R243, R244: every vector instruction that issues joins the vector queue with the scalar
registers and the predicates of its issue, VST and VXCVT only with no tag; a VCHAIN, with no tag, with its
descriptor.

R205: running a vector instruction in the step that issues it, on an engine with nothing unfinished, is issuing it
and then completing it.

Each row of the table is named beside its operation. -/
def Obligations.VectorInstructionsIssue : Prop :=
  (∀ r ∈ [(VOp.add, Instr.vecAdd), (.sub, .vecSub), (.mul, .vecMul), (.fma, .vecFma), (.max, .vecMax),
      (.min, .vecMin), (.abs, .vecAbs), (.neg, .vecNeg), (.iadd, .iadd), (.isub, .isub), (.iand, .iand),
      (.ior, .ior), (.ixor, .ixor), (.ishl, .ishl), (.ishr, .ishr), (.isra, .isra), (.cmp, .vcmp),
      (.mand, .mand), (.mor, .mor), (.mxor, .mxor), (.mnot, .mnot), (.trans, .vtrans), (.bcr, .vbcr),
      (.bcc, .vbcc), (.perm, .vperm), (.cvt, .vcvt), (.rcp, .rcp), (.div, .vecDiv), (.sqrt, .vecSqrt),
      (.rsqrt, .rsqrt), (.exp, .exp), (.exp2, .exp2), (.log, .log), (.log2, .log2), (.sin, .sin), (.cos, .cos),
      (.tanh, .tanh), (.lgst, .lgst), (.erf, .erf), (.rsum, .vrsum), (.rssq, .vrssq), (.topk, .vtopk),
      (.ld, .vld), (.st, .vst), (.xcvt, .vxcvt)],
    ∀ (v : VInstr) (s : State) (t : TileId) (w : Word),
    let x := s.tile t
    let q := x.seq
    v.op = r.1 → s.issuesCop t w (.vec v) → x.vec.waiting < 32 → ((v.op = .st ∨ v.op = .xcvt) → q.branches = []) →
    (∃ u o, exec (r.2 t false) s = .next u ∧ (u.tile t).vec = { x.vec with queue := x.vec.queue ++ [o] } ∧
        o.hdr = ⟨q.nextId, q.tag, q.pc, v.wait⟩ ∧ o.v = v ∧ o.sregs = q.regs ∧ o.desc = none ∧ o.done = false ∧
        (∀ p : BitVec 3, o.preds.getLsbD p.toNat = (q.pred p).val) ∧
        q.passed (u.tile t).seq (q.pc + 8) ∧ q.likeBut (u.tile t).seq ∧
        u = s.setTile t { x with vec := (u.tile t).vec, seq := (u.tile t).seq, digests := (u.tile t).digests }) ∧
    (x.vec.next = none →
      ∃ u u', exec (r.2 t false) s = .next u ∧ exec (.vectorInstrComplete t) u = .next u' ∧
        exec (r.2 t true) s = .next u')) ∧
  (∀ (v : VInstr) (s : State) (t : TileId) (w : Word),
    let x := s.tile t
    let q := x.seq
    s.issuesCop t w (.vec v) → x.vec.waiting < 32 → v.op = .chain → q.branches = [] →
    (∀ k, (q.sreg v.va).toNat % 64 = 0 → s.locate (.seq t) (q.sreg v.va).toNat = .mem k →
      poolBase t ≤ k → k + 64 ≤ poolBase t + storeSize →
      let N := leNat (tab 64 fun j => s.loadByte t (k + j))
      ∃ u o, exec (.vchain t) s = .next u ∧ (u.tile t).vec = { x.vec with queue := x.vec.queue ++ [o] } ∧
        o.desc = some ⟨fieldAt N 0 32, fieldAt N 32 8, fieldAt N 64 32, tab 12 fun i => fieldAt N (128 + 32 * i) 32,
          fieldAt N 40 24 != 0 || fieldAt N 96 32 != 0⟩ ∧ o.v = v ∧ o.started = false ∧ o.iter = 0 ∧
        q.passed (u.tile t).seq (q.pc + 8) ∧ q.likeBut (u.tile t).seq))

/-- R200 to R203, R208 to R210, R218, R219, R230, R233: the one waiting vector instruction completes. An I32 operation
writes its result to every active lane and keeps or zeroes the inactive ones; mask logic does the same to its mask;
ABS and NEG of a non-NaN F32 act on the sign bit; VTRANS moves lane 16r + c to lane 16c + r; VST of F32 as FP32
writes every active element at base + 4e and no other byte; nothing else of the vector state changes, and the
instruction is counted. A reserved TYPE is refused with FMT_ERR, and nothing is written. -/
def Obligations.VectorInstructionsComplete : Prop :=
  ∀ (s : State) (t : TileId) (o : VecOp),
    let x := s.tile t
    let v := o.v
    s.vecAlone t o →
    (v.op.isInt = true → v.ty = 4 → v.ch = false →
      ∃ u, exec (.vectorInstrComplete t) s = .next u ∧
        (∀ i : Fin 256, ((u.tile t).vec.regs[v.vd.toFin])[i] =
          if v.active x.vec.masks i then v.op.ispec (x.vec.regs[v.va.toFin])[i] (x.vec.regs[v.vb.toFin])[i]
          else if v.zm then 0 else (x.vec.regs[v.vd.toFin])[i]) ∧
        (∀ r : Fin 32, r ≠ v.vd.toFin → (u.tile t).vec.regs[r] = x.vec.regs[r]) ∧ (u.tile t).vec.masks = x.vec.masks ∧
        (u.tile t).fpstat = x.fpstat ∧ (u.tile t).vec.vops = x.vec.vops + 1 ∧ (u.tile t).vec.queue = [] ∧
        (u.tile t).seq = x.seq ∧ u.mem = s.mem) ∧
    (v.op = .mand ∨ v.op = .mor ∨ v.op = .mxor ∨ v.op = .mnot →
      ∃ u, exec (.vectorInstrComplete t) s = .next u ∧
        (∀ i < 256, ((u.tile t).vec.masks[(v.vd.setWidth 3).toFin]).getLsbD i =
          let a := (x.vec.masks[(v.va.setWidth 3).toFin]).getLsbD i
          let b := (x.vec.masks[(v.vb.setWidth 3).toFin]).getLsbD i
          if v.active x.vec.masks i then
            (match v.op with | .mand => a && b | .mor => a || b | .mxor => a ^^ b | _ => !a)
          else !v.zm && (x.vec.masks[(v.vd.setWidth 3).toFin]).getLsbD i) ∧
        (∀ k : Fin 8, k ≠ (v.vd.setWidth 3).toFin → (u.tile t).vec.masks[k] = x.vec.masks[k]) ∧
        (u.tile t).vec.regs = x.vec.regs ∧ (u.tile t).vec.vops = x.vec.vops + 1 ∧ (u.tile t).vec.queue = [] ∧
        (u.tile t).fpstat = x.fpstat ∧ u.mem = s.mem) ∧
    (v.op = .abs ∨ v.op = .neg → v.ty = 1 → v.ch = false → v.men = false →
      (∀ i : Fin 256, ((x.vec.regs[v.va.toFin])[i]).toNat % 2 ^ 31 ≤ 0x7F800000) →
      ∃ u, exec (.vectorInstrComplete t) s = .next u ∧
        (∀ i : Fin 256, ((u.tile t).vec.regs[v.vd.toFin])[i] =
          if v.op = .abs then (x.vec.regs[v.va.toFin])[i] &&& 0x7FFFFFFF
          else (x.vec.regs[v.va.toFin])[i] ^^^ 0x80000000) ∧
        (∀ r : Fin 32, r ≠ v.vd.toFin → (u.tile t).vec.regs[r] = x.vec.regs[r]) ∧ (u.tile t).fpstat = x.fpstat) ∧
    (v.op = .trans → v.ty = 1 → v.men = false →
      ∃ u, exec (.vectorInstrComplete t) s = .next u ∧
        (∀ r c : Fin 16, ((u.tile t).vec.regs[v.vd.toFin])[16 * c.val + r.val] =
          (x.vec.regs[v.va.toFin])[16 * r.val + c.val]) ∧
        (∀ r : Fin 32, r ≠ v.vd.toFin → (u.tile t).vec.regs[r] = x.vec.regs[r])) ∧
    (v.op = .st → v.ty = 1 → v.xf = 1 →
      let base := if v.va = 0 then 0 else (o.sregs[v.va.toFin]).toNat
      base % 4 = 0 → base + 1024 ≤ storeSize → (x.streamLo + x.streamLen ≤ base ∨ base + 1024 ≤ x.streamLo) →
      ∃ u, exec (.vectorInstrComplete t) s = .next u ∧
        (∀ i : Fin 256, leNat (u.rd (poolBase t + base + 4 * i) 4) =
          if v.active x.vec.masks i then ((x.vec.regs[v.vd.toFin])[i]).toNat
          else leNat (s.rd (poolBase t + base + 4 * i) 4)) ∧
        (∀ a, a < poolBase t + base ∨ poolBase t + base + 1024 ≤ a → Memory.read 0 u.mem a = Memory.read 0 s.mem a) ∧
        (u.tile t).vec.regs = x.vec.regs ∧ (u.tile t).vec.masks = x.vec.masks ∧ (u.tile t).vec.vops = x.vec.vops + 1) ∧
    (v.op.isInt = true → 5 ≤ v.ty.toNat →
      ∃ u, exec (.vectorInstrComplete t) s = .next u ∧ (u.tile t).vec.stat = x.vec.stat ||| 2 ∧
        (u.tile t).vec.regs = x.vec.regs ∧ (u.tile t).vec.masks = x.vec.masks ∧ u.mem = s.mem ∧
        (u.tile t).vec.vops = x.vec.vops ∧ (u.tile t).fpstat = x.fpstat ∧ (u.tile t).seq.run = false)

/-- R227, R228, R233: an iteration of a started chain program takes the head chained row as CH, runs the program on it,
advances the iteration count and counts NINST; after the last one the VCHAIN is done. Here for a program of one I32
operation. -/
def Obligations.ChainIterationConsumesARow : Prop :=
  ∀ (s : State) (t : TileId) (o : VecOp) (d : ChainDesc) (v : VInstr) (c : ChainRow) (rest : List ChainRow),
    let x := s.tile t
    s.vecAlone t o → o.v.op = .chain → o.desc = some d → o.started = true → o.prog = [⟨v, true, 0⟩] →
    v.op.isInt = true → v.ty = 4 → v.ch = true → v.men = false → x.vec.chainQ = c :: rest →
    ∃ u, exec (.chainIteration t) s = .next u ∧ (u.tile t).vec.chainQ = rest ∧
      (∀ i : Fin 256, ((u.tile t).vec.regs[v.vd.toFin])[i] =
        v.op.ispec c.vals[i] (x.vec.regs[v.vb.toFin])[i]) ∧
      (∀ r : Fin 32, r ≠ v.vd.toFin → (u.tile t).vec.regs[r] = x.vec.regs[r]) ∧
      (u.tile t).vec.masks = x.vec.masks ∧ (u.tile t).vec.vops = x.vec.vops + BitVec.ofNat 64 d.ninst ∧
      (o.iter + 1 < d.rows → (u.tile t).vec.queue = [{ o with iter := o.iter + 1 }]) ∧
      (d.rows ≤ o.iter + 1 → (u.tile t).vec.queue = []) ∧ u.mem = s.mem ∧ (u.tile t).seq = x.seq

/-- R243, R244, R252, R284: a DMA instruction that issues joins the DMA queue with its descriptor's fields, under a tag
only where R255 and R289 do not hold it; with an idle engine, performing it in the same step is issuing it and then
completing it.

R285, R288, R291 to R293, R297 to R299: the one waiting DMA operation completes. A COPY of one unit between places
of its own tile's store that share no byte moves its bytes and writes no other; an ACCOUT of one row with the
expected tag writes the row's 256 entries, 6 bytes each; a COPY whose destination begins in the stream region writes
nothing and, with SOFT, only records RO_REGION at unit 0. The operation is counted in each case. -/
def Obligations.DmaInstructionsIssueAndComplete : Prop :=
  (∀ (s : State) (t : TileId) (w : Word) (sa : BitVec 5) (wait : BitVec 4) (off : BitVec 32) (k : Nat),
    let x := s.tile t
    let q := x.seq
    let a := q.sreg sa + off.signExtend 64
    let N := leNat (tab 64 fun j => s.loadByte t (k + j))
    let d : DmaDesc := {
      kind := fieldAt N 0 8, soft := N.testBit 8, idx64 := N.testBit 9, crec := N.testBit 10, fmt := fieldAt N 16 4
      tag := fieldAt N 20 2, len := fieldAt N 32 32, cnt1 := fieldAt N 64 32, cnt2 := fieldAt N 96 32
      src := fieldAt N 128 64, dst := fieldAt N 192 64, sstr1 := fieldAt N 256 32, sstr2 := fieldAt N 288 32
      dstr1 := fieldAt N 320 32, dstr2 := fieldAt N 352 32, idx := fieldAt N 384 64, start := fieldAt N 448 32
      caddr := fieldAt N 480 32, resv := fieldAt N 11 5 != 0 || fieldAt N 22 2 != 0 || fieldAt N 24 8 != 0 }
    s.issuesCop t w (.dma sa wait off) → x.dma.waiting < 16 → a.toNat % 64 = 0 → s.locate (.seq t) a.toNat = .mem k →
    poolBase t ≤ k → k + 64 ≤ poolBase t + storeSize → x.dmaHeld t d = false →
    ∀ r ∈ [(d.kind = 0 ∨ 5 < d.kind, Instr.dmaCopy), (d.kind = 1, .dmaSkew), (d.kind = 2, .dmaGather),
      (d.kind = 3, .dmaScatter), (d.kind = 4, .dmaAccout), (d.kind = 5, .dmaAccin)], r.1 →
    ∃ u, exec (r.2 t false) s = .next u ∧
      (u.tile t).dma = { x.dma with queue := x.dma.queue ++ [.op ⟨⟨q.nextId, q.tag, q.pc, wait⟩, d, a, none⟩] } ∧
      q.passed (u.tile t).seq (q.pc + 8) ∧ q.likeBut (u.tile t).seq ∧
      u = s.setTile t { x with dma := (u.tile t).dma, seq := (u.tile t).seq, digests := (u.tile t).digests } ∧
      (x.dma.queue = [] → ∃ u', exec (.dmaComplete t none) u = .next u' ∧ exec (r.2 t true) s = .next u')) ∧
  (∀ (s : State) (t : TileId) (o : DmaOp),
    let x := s.tile t
    let d := o.d
    s.dmaAlone t o → d.resv = false → d.crec = false → d.start = 0 →
    (d.kind = 0 → d.fmt = 0 → d.tag = 0 → d.cnt1 = 1 → d.cnt2 = 1 → 1 ≤ d.len → d.len ≤ 2 ^ 24 →
      d.src + d.len ≤ storeSize → d.dst + d.len ≤ storeSize → (d.src + d.len ≤ d.dst ∨ d.dst + d.len ≤ d.src) →
      ((d.dst + d.len ≤ x.streamLo ∨ x.streamLo + x.streamLen ≤ d.dst) →
        ∃ u, exec (.dmaComplete t none) s = .next u ∧ (u.tile t).dma.queue = [] ∧
          (∀ i < d.len, Memory.read 0 u.mem (poolBase t + d.dst + i) = Memory.read 0 s.mem (poolBase t + d.src + i)) ∧
          (∀ a, a < poolBase t + d.dst ∨ poolBase t + d.dst + d.len ≤ a → Memory.read 0 u.mem a = Memory.read 0 s.mem a) ∧
          (u.tile t).dma.ops = x.dma.ops + 1 ∧ (u.tile t).dma.bytes = x.dma.bytes + BitVec.ofNat 64 d.len ∧
          (u.tile t).dma.stat = x.dma.stat ∧ (u.tile t).acc = x.acc ∧ (u.tile t).seq = x.seq ∧
          u = { s with tiles := u.tiles, mem := u.mem }) ∧
      (x.streamLo ≤ d.dst → d.dst < x.streamLo + x.streamLen → d.soft = true →
        ∃ u, exec (.dmaComplete t none) s = .next u ∧ (u.tile t).dma.queue = [] ∧ u.mem = s.mem ∧
          (u.tile t).dma.stat = x.dma.stat ||| 4 ∧ (u.tile t).dma.faultIdx = 0 ∧
          (u.tile t).dma.faultAddr = BitVec.ofNat 64 d.dst ∧ (u.tile t).dma.ops = x.dma.ops + 1 ∧
          (u.tile t).dma.bytes = x.dma.bytes ∧ (u.tile t).seq = x.seq)) ∧
    (d.kind = 4 → d.fmt = 12 → d.cnt1 = 1 → d.src < 2048 → d.dst % 64 = 0 → d.dstr1 % 64 = 0 → 1536 ≤ d.dstr1 →
      d.dst + 1536 ≤ storeSize → (d.dst + 1536 ≤ x.streamLo ∨ x.streamLo + x.streamLen ≤ d.dst) →
      (x.accRow d.src).undo = [] → (x.accRow d.src).ents.length = 256 →
      d.tag = (match (x.accRow d.src).tag with | .a48 => 0 | .a96 => 1 | .poisoned => 2) →
      (∀ p, MatOp.pass p ∈ x.matQ → p.arrived = true) →
      ∃ u, exec (.dmaComplete t none) s = .next u ∧ (u.tile t).dma.queue = [] ∧ (u.tile t).acc = x.acc ∧
        (∀ j < 256, leNat (u.rd (poolBase t + d.dst + 6 * j) 6) = ((x.accRow d.src).ents.getD j 0).toNat) ∧
        (∀ a, a < poolBase t + d.dst ∨ poolBase t + d.dst + 1536 ≤ a → Memory.read 0 u.mem a = Memory.read 0 s.mem a) ∧
        (u.tile t).dma.ops = x.dma.ops + 1 ∧ (u.tile t).dma.bytes = x.dma.bytes + 1536))

/-- R275, R277, R278, R300, R442: a refresh changes nothing but, delayed in fixed-frequency mode, the thaw counters; a
scrub read of a clean line changes nothing; a corrected one is counted and logged; an uncorrectable one of a line
not marked marks and counts it and reports it once; an already marked one neither counts nor reports, and the second
uncorrectable line of a pseudo-channel records the pseudo-channel for retirement. -/
def Obligations.HbmScrubMarksCountsAndRetires : Prop :=
  ∀ (s : State) (k : StackId) (line : Nat),
    let x := s.hbm[k]
    let a := hbmBase k + 128 * line
    let pc := x.pcOf (128 * line)
    exec (.hbmRefresh k false) s = .next s ∧
    (s.fixedFreq = true → ∃ u, exec (.hbmRefresh k true) s = .next u ∧ u.gtc.thaw = s.gtc.thaw + 1 ∧
      u.gtc.thawN = s.gtc.thawN.set 2 (s.gtc.thawN[2] + 1) ∧ u = { s with gtc := u.gtc }) ∧
    (128 * line < x.capacity →
      exec (.patrolScrub k line .clean) s = .next s ∧
      (∃ u, exec (.patrolScrub k line .corrected) s = .next u ∧ u.hbm[k].ce = x.ce + 1 ∧ u.hbm[k].marked = x.marked ∧
        u.hbm[k].errLog = a :: x.errLog ∧ u.mem = s.mem ∧ u = { s with hbm := u.hbm, integ := u.integ } ∧
        (x.recentCe s.gtc.count pc < 255 → u.integ = s.integ)) ∧
      (a ∉ x.marked → ∃ u, exec (.patrolScrub k line .uncorrectable) s = .next u ∧ u.hbm[k].marked = x.marked ++ [a] ∧
        u.hbm[k].ue = x.ue + 1 ∧ u.integ.evreps = s.integ.evreps + 1 ∧ u.lom.tx = s.lom.tx + 1 ∧ u.mem = s.mem ∧
        (pc ∈ x.uePcs → (s.retiredPcs k).length < 2 → Repair.pseudo k.val pc ∈ u.integ.repairs)) ∧
      (a ∈ x.marked → ∃ u, exec (.patrolScrub k line .uncorrectable) s = .next u ∧ u.hbm = s.hbm ∧ u.lom = s.lom ∧
        u.integ.evreps = s.integ.evreps))

/-- R172, R173: a command of the step's list starts when it is due and its START slot has been observed, its deadline
has not, no earlier command of its structure holds it and its engines are free: it runs from then on with its
descriptor and start time, and its engines are busy. Nothing but its cluster changes. Each row of the table is named
beside the OPC and BATCH that it takes; FEED also takes up an OPC with no row, for its record.

R193: at the first slot boundary observed after an export was written, the 64-byte control block names the buffer
written as current, with the step, the iterations and the status; before it nothing changes. -/
def Obligations.SeracCommandsStartAndExport : Prop :=
  (∀ (s : State) (c : ClusterId) (ix : Nat),
    let cl := s.cluster c
    let d := s.serDesc c ix
    let b : Int := s.job.base + ((cl.step.toNat : Int) - s.job.stepL.toNat) * s.gtc.slen.toNat
    let now : Int := s.gtc.count.toNat
    s.serCurrent c ix → cl.paused = false → 64 * (b + d.start) ≤ now →
    (d.deadline = 0xFFFFFFFF ∨ now < 64 * (b + d.deadline)) →
    (∀ r ∈ cl.running, r.ix ≠ ix ∧ r.d.engmask &&& d.engmask = 0) → s.serBlocked c ix d = false →
    ∀ i ∈ [(d.batch = true, Instr.seracBatch),
      (d.batch = false ∧ (d.opc = 0 ∨ d.opc = 1 ∨ 7 < d.opc), .seracFeed), (d.batch = false ∧ d.opc = 2, .seracChol),
      (d.batch = false ∧ d.opc = 3, .seracLdlt), (d.batch = false ∧ d.opc = 4, .seracSolve),
      (d.batch = false ∧ d.opc = 5, .seracInv), (d.batch = false ∧ d.opc = 6, .seracRoot),
      (d.batch = false ∧ d.opc = 7, .seracSqrt)], i.1 →
    ∃ u r, exec (i.2 c ix) s = .next u ∧ (u.cluster c).running = cl.running ++ [r] ∧ r.ix = ix ∧ r.d = d ∧
      r.startGtc = s.gtc.count ∧ (u.cluster c) = { cl with running := (u.cluster c).running } ∧
      u = { s with clusters := u.clusters } ∧ ∀ c' ≠ c, u.cluster c' = s.cluster c') ∧
  (∀ (s : State) (c : ClusterId) (w : Switch) (rest : List Switch) (k : Nat),
    (s.cluster c).switches = w :: rest → s.locate .serac w.dst = .mem k → s.serWrFault w.dst 64 = false → w.cur < 2 →
    w.iter < 256 → w.status < 2 ^ 16 →
    (s.gtc.count.toNat < 64 * (w.after.toNat / 64 + 1) → exec (.exportSwitch c) s = .next s) ∧
    (64 * (w.after.toNat / 64 + 1) ≤ s.gtc.count.toNat →
      ∃ u, exec (.exportSwitch c) s = .next u ∧ (u.cluster c).switches = rest ∧ leNat (u.rd k 1) = w.cur ∧
        leNat (u.rd (k + 4) 4) = w.step.toNat ∧ leNat (u.rd (k + 8) 1) = w.iter ∧ leNat (u.rd (k + 10) 2) = w.status ∧
        leNat (u.rd (k + 12) 52) = 0 ∧
        (∀ a, a < k ∨ k + 64 ≤ a → Memory.read 0 u.mem a = Memory.read 0 s.mem a) ∧
        (u.cluster c).structs = (s.cluster c).structs ∧ (u.cluster c).running = (s.cluster c).running))

/-- R175, R183, R193, R194, R199: a running command that is no batch and iterates no more completes: its 96-byte record
is written with its status, operation and times and counted, a FEED's new W replaces the old, a result is published
in a structure with RESPUB, and its engines are released. When its deadline is observed first, or one of its engines
fails, it is recorded as abandoned or failed, and neither W nor the published copies change. -/
def Obligations.SeracCommandsRecordTheirEnd : Prop :=
  ∀ (s : State) (c : ClusterId) (r : SerRun) (k : Nat),
    let cl := s.cluster c
    cl.running = [r] → s.recordAt r.d.recAddr k → r.batchIn = 0 → r.iterating = false → r.d.exp = false →
    r.solved = none →
    (cl.paused = false → r.d.deadline = 0xFFFFFFFF → r.out.status < 2 ^ 16 → r.d.opc < 2 ^ 8 →
      (∀ w, r.feed = some w → r.out.result = none) →
      ∃ u, exec (.seracCommandComplete c r.ix) s = .next u ∧ (u.cluster c).running = [] ∧
        (u.cluster c).ended = cl.ended ++ [r.ix] ∧ (u.cluster c).cmds = cl.cmds + 1 ∧
        leNat (u.rd k 2) = r.out.status ∧ leNat (u.rd (k + 2) 1) = r.d.opc ∧
        leNat (u.rd (k + 72) 8) = r.startGtc.toNat ∧ leNat (u.rd (k + 80) 8) = s.gtc.count.toNat ∧
        (∀ a, a < k ∨ k + 96 ≤ a → Memory.read 0 u.mem a = Memory.read 0 s.mem a) ∧
        (∀ w t, r.feed = some w → cl.structs[r.d.struct]? = some t →
          (u.cluster c).structs[r.d.struct]? = some { t with w := w, fed := true }) ∧
        (∀ p t, r.feed = none → r.out.result = some p → cl.structs[r.d.struct]? = some t → t.respub = true →
          (u.cluster c).structs[r.d.struct]? = some { t with pub := some (r.out.pub p) }) ∧
        (∀ i : Nat, i ≠ r.d.struct → (u.cluster c).structs[i]? = cl.structs[i]?) ∧
        ∀ c' ≠ c, u.cluster c' = s.cluster c') ∧
    (s.serCurrent c r.ix → s.serDesc c r.ix = r.d → r.d.opc ≠ 6 → r.d.deadline ≠ 0xFFFFFFFF →
      64 * (s.baseOf cl.step.toNat + r.d.deadline) ≤ (s.gtc.count.toNat : Int) →
      ∃ u, exec (.seracDeadline c r.ix) s = .next u ∧ (u.cluster c).running = [] ∧ leNat (u.rd k 2) = 3 ∧
        (u.cluster c).abandon = cl.abandon + 1 ∧ (u.cluster c).cmds = cl.cmds + 1 ∧ (u.cluster c).structs = cl.structs ∧
        (∀ a, a < k ∨ k + 96 ≤ a → Memory.read 0 u.mem a = Memory.read 0 s.mem a)) ∧
    (∀ e : Fin 4, r.d.engmask.getLsbD e.val = true →
      ∃ u, exec (.seracEngineFault c e) s = .next u ∧ (u.cluster c).running = [] ∧ leNat (u.rd k 2) = 11 ∧
        (u.cluster c).engFault.getLsbD e.val = true ∧ (u.cluster c).structs = cl.structs ∧
        u.integ.evreps = s.integ.evreps + 1 ∧ (u.cluster c).cmds = cl.cmds + 1 ∧
        (∀ a, a < k ∨ k + 96 ≤ a → Memory.read 0 u.mem a = Memory.read 0 s.mem a))

/-- R178, R184: whenever CHOL under global restart gives a factor U of A + λI on the grid of exponent E, every element
of U is what R184's recurrence gives from the stored ones: U_jj the rounded square root of d_j = A_jj + λ - Σ U_kj²,
which exceeds τ dmax, and U_ji for i > j the rounded quotient of A_ji - Σ U_kj U_ki by U_jj. -/
def Obligations.CholeskyFactorObeysItsRecurrence : Prop :=
  ∀ (d : SerDesc) (a u : SMat) (lost : Nat),
    d.opc = 2 → d.reg = false → (factor d a lost).result = some (.chol, u) →
    u.n = a.n ∧ (factor d a lost).status = 0 ∧ (factor d a lost).eOut = u.e ∧
      ∀ j < a.n,
        let dj : Rat := a.val j j + (factor d a lost).lam -
          ((List.range j).map fun k => ((u.up k j : Rat) * u.unit) * ((u.up k j : Rat) * u.unit)).sum
        d.tau * (rangePass a).dmax < dj ∧ sqrtGrid u.e dj = some (u.up j j) ∧
          ∀ i, j < i → i < a.n →
            toGrid u.e ((a.val j i -
              ((List.range j).map fun k => ((u.up k j : Rat) * u.unit) * ((u.up k i : Rat) * u.unit)).sum) /
              ((u.up j j : Rat) * u.unit)) = some (u.up j i)

/-- R346, R347, R350, R352: on a lane in service of a port that carries frames, a good frame with the FSEQ expected next
is accepted: a DATA frame's payload joins the stream, an IDLE frame's does not, and its ACKSEQ and credits take
effect. A frame beyond correction, or one ahead of the FSEQ expected, changes neither stream nor FSEQ, and
REPLAY_REQ goes out once.

R346, R348, R349, R352, R353, R442: REPLAY_REQ resends the unacknowledged frames from its FSEQ on, and 4 µs without
progress all of them and the unacknowledged CTRL frames, in FSEQ order, each on its logical lane and with the FSEQ
last accepted as its ACKSEQ, counted once in LINK_REPLAYS and as a thaw event; CREDIT returns credits to the eight
channels. Corrected symbols of the message's frame are counted. (No new DATA frame can be made meanwhile.) -/
def Obligations.FramesArriveAndReplay : Prop :=
  (∀ (s : State) (p : PortId) (f : Frame) (data : Bool),
    let x := s.port p
    let c : Instr := if data then .frameData p f else .frameIdle p f
    f.payload.length = 600 → x.active = true → x.hears f.lane.val = true →
    (f.symErrs ≤ 12 → hdrOk f = true → hdrType f.hdr = (if data then 0 else 1) → hdrSeq f.hdr = x.rxSeq →
      ∃ u, exec c s = .next u ∧ u = s.modPort p (fun _ => u.port p) ∧
        let y := u.port p
        y.rxStream = (if data then x.rxStream ++ f.payload else x.rxStream) ∧ y.rxSeq = x.rxSeq + 1 ∧
          y.fecCorr = x.fecCorr + BitVec.ofNat 64 f.symErrs ∧ y.fecUnc = x.fecUnc ∧
          y.credits[hdrCvc f.hdr] = x.credits[hdrCvc f.hdr] + hdrCcnt f.hdr ∧
          (∀ i : Fin 8, i ≠ hdrCvc f.hdr → y.credits[i] = x.credits[i]) ∧
          (x.replayBuf.filter fun g => !seqLe g.seq (hdrAck f.hdr)) <+: y.replayBuf ∧ y.replayBuf.length ≤
            max 1024 x.replayBuf.length ∧ y.state = x.state ∧ y.laneMap = x.laneMap) ∧
    ((12 < f.symErrs ∨ hdrOk f = false) ∨
        (hdrType f.hdr = (if data then 0 else 1) ∧ 2 ^ 19 ≤ (x.rxSeq - hdrSeq f.hdr).toNat) →
      ∃ u, exec c s = .next u ∧ u = s.modPort p (fun _ => u.port p) ∧
        let y := u.port p
        y.rxStream = x.rxStream ∧ y.rxSeq = x.rxSeq ∧ y.replayBuf = x.replayBuf ∧ y.credits = x.credits ∧
          y.fecUnc = (if 12 < f.symErrs ∨ hdrOk f = false then x.fecUnc + 1 else x.fecUnc) ∧ y.replayAsked = true ∧
          (x.replayAsked = true → y.outbox = x.outbox) ∧
          (x.replayAsked = false → ∃ g, y.outbox = x.outbox ++ [g] ∧ g.ty = .ctrl ∧
            g.payload.take 4 = 1 :: leBytes 3 x.rxSeq.toNat))) ∧
  (∀ (s : State) (p : PortId) (h : CtlHeader),
    let x := s.port p
    let waits (l : List TxFrame) : List TxFrame := l.filter fun g => !seqLe g.seq h.ackseq
    let kept := waits x.replayBuf
    let back (n : Nat) (i : Fin 8) : Nat := if i = h.cvc.toFin then n + h.ccnt.toNat else n
    let resent (l kept ctl more : List TxFrame) (c : Vector Nat 8) (fixed : Nat) (u : State) : Prop :=
      u = { s with ports := u.ports, gtc := u.gtc } ∧
        u.ports = (s.modPort p fun x => { x with
          replayBuf := kept, credits := c, ctlPend := ctl, errLog := (u.port p).errLog
          fecCorr := x.fecCorr + BitVec.ofNat 64 fixed
          outbox := x.outbox ++ (l.map fun f => { f with
            ack := x.rxSeq - 1, lanes := [f.seq.toNat % x.width.toNat] }) ++ more
          replays := if l = [] then x.replays else x.replays + 1 }).ports ∧
        (l ≠ [] → s.fixedFreq = true → u.gtc.thaw = s.gtc.thaw + 1 ∧ u.gtc.thawN[5] = s.gtc.thawN[5] + 1) ∧
        (l = [] ∨ s.fixedFreq = false → u.gtc = s.gtc)
    x.active = true → x.txStream.length < 600 →
    ((∀ g ∈ x.replayBuf, (g.seq - (x.replayBuf.headD g).seq).toNat < 2 ^ 19) → x.carries = true →
      ∃ u, exec (.replayTimeout p) s = .next u ∧ resent x.replayBuf x.replayBuf x.ctlPend x.ctlPend x.credits 0 u) ∧
    (x.carries = false → exec (.replayTimeout p) s = .next s) ∧
    (x.hears h.lane.val = true → h.symErrs ≤ 12 →
      (∀ fseq, ∃ u, exec (.replayReq p h fseq) s = .next u ∧
        resent (if x.carries then kept.filter fun g => seqLe fseq g.seq else []) kept (waits x.ctlPend) []
          (vtab 8 fun i => back (x.credits.toList.getD i 0) (Fin.ofNat 8 i)) h.symErrs u) ∧
      (∀ counts : List Nat, counts.length = 8 → ∃ u, exec (.credit p h counts) s = .next u ∧
        resent [] kept (waits x.ctlPend) []
          (vtab 8 fun i => back (x.credits.toList.getD i 0) (Fin.ofNat 8 i) + counts.getD i 0) h.symErrs u)))

/-- R354, R355, R356, R358, R366, R369, R372: the training of a port: DETECT to POLL with a fresh stream, RETRAIN to POLL
with the stream it has (the model's choice, log 160), POLL to EQUALIZE with the lanes that locked and may be used, EQUALIZE and ALIGN excluding lanes, and CONFIG to ACTIVE with the width,
lane map, rate and initiator it fixes; with no lane left, to DETECT with TRAIN_ERR, the third time as TRAIN_FAIL. -/
def Obligations.TrainingFollowsItsStates : Prop :=
  ∀ (s : State) (p : PortId),
    let x := s.port p
    let goes (c : Instr) (y : LPort) : Prop := exec c s = .next (s.modPort p fun _ => y)
    let failed : LPort := { x with
      state := .detect, trainErr := true, trainFails := x.trainFails + 1, retrainSent := false, retraining := false
      lossRsn := if 3 ≤ x.trainFails + 1 then 4 else x.lossRsn }
    (x.state = .detect → ∃ y, goes (.linkDetect p) y ∧ y.state = .poll ∧ y.txSeq = 0 ∧ y.rxSeq = 0 ∧
      y.replayBuf = [] ∧ y.rxStream = [] ∧ y.txStream = [] ∧ y.outbox = x.outbox ∧
      ∀ i : Fin 8, y.credits[i] = [128, 64, 256, 32].getD (i.val / 2) 0) ∧
    (x.state = .retrain → goes (.linkDetect p) { x with state := .poll }) ∧
    (x.state = .poll → ∀ locked : BitVec 12,
      goes (.linkPollEnd p locked) (if locked &&& s.trainable p = 0 then failed
        else { x with state := .equalize, cand := locked &&& s.trainable p })) ∧
    (x.state = .equalize → ∀ l : BitVec 12, goes (.linkEqualizeEnd p l) { x with state := .align, cand := x.cand &&& l }) ∧
    (x.state = .align → ∀ l : BitVec 12, goes (.linkAlignEnd p l) { x with state := .config, cand := x.cand &&& l }) ∧
    (x.state = .config → ∀ o : ConfigOffer,
      let common := (List.range 12).filter fun i => x.cand.getLsbD i && o.lanes.getLsbD i
      let w := min (min 8 common.length) (min x.maxw.toNat o.maxw.toNat)
      (w = 0 → goes (.linkConfigEnd p o) { failed with partner := some (o.addr, o.port) }) ∧
      (w ≠ 0 → x.replayBuf = [] → ∃ u, exec (.linkConfigEnd p o) s = .next u ∧
        u = { s with ports := u.ports, spares := u.spares } ∧ (∀ p' ≠ p, u.port p' = s.port p') ∧
        let y := u.port p
        y.state = .active ∧ y.width.toNat = w ∧ (∀ n < w, some (laneAt y.laneMap n) = common[n]?) ∧
          (∀ n < 8, w ≤ n → laneAt y.laneMap n = 15) ∧ y.half = (x.halfRate || o.half) ∧
          (y.initiator = true ↔ o.addr.toNat < (s.routers[0]).self.toNat) ∧ y.partner = some (o.addr, o.port) ∧
          (y.held = true ↔ s.job.image.isSome = true) ∧
          ∀ k < 4, s.spareHome p k = true → (s.spare p k).state = .standby ∨ (s.spare p k).state = .inUse →
            (u.spare p k).state = if 8 + k ∈ common.take w then .inUse else .standby))

/-- R354, R358, R359, R360, R366, R367, R369: a LOST port returns to DETECT; a DETECT with no partner says so; RETRAIN
at the initiator says so and starts a retrain, at the follower sends RETRAIN_REQ, which the initiator answers with one,
and in SWAP waits; the initiator's message takes the follower into RETRAIN too; DISABLE sends DOWN frames and quiets the port, and its end leads to DETECT. (The port is not the time
parent.)

R366, R368, R360: partner loss, or a DOWN frame, takes a port that carries frames to LOST, partner loss one in RETRAIN
too, with LOSS, its reason and one more loss, its spares back in STANDBY and a report on its way. (No collective uses the port and it is not the
time parent.) -/
def Obligations.PortsLoseRetrainAndDisable : Prop :=
  (∀ (s : State) (p : PortId),
    let x := s.port p
    let goes (c : Instr) (y : LPort) : Prop := exec c s = .next (s.modPort p fun _ => y)
    (x.state = .lost → goes (.linkLostRetry p) { x with state := .detect }) ∧
    (x.state = .detect → goes (.noPartner p) { x with lossRsn := 3 }) ∧
    (x.state = .swap → goes (.linkRetrain p) { x with retrainRq := false, retrainWait := true }) ∧
    (x.state = .active → x.initiator = false →
      ∃ g, goes (.linkRetrain p) { x with
          retrainRq := false, retrainWait := false, retrainSent := true, ctlPend := x.ctlPend ++ [g]
          outbox := x.outbox ++ [g] } ∧
        g.ty = .ctrl ∧ g.payload.take 3 = 5 :: (leBytes 1 x.maxw.toNat ++ leBytes 1 x.halfRate.toNat)) ∧
    (s.gtc.parent.toNat ≠ p.val ∨ s.gtc.master = true →
      (x.state = .active → x.initiator = true →
        ∃ g, goes (.linkRetrain p) { x with
            state := .retrain, initiator := false, retrainRq := false, retrainWait := false, retraining := true
            ctlPend := x.ctlPend ++ [g], outbox := x.outbox ++ [g] } ∧
          g.ty = .ctrl ∧ g.payload.take 1 = [5]) ∧
      (x.state = .active → ∀ (h : CtlHeader) (m : BitVec 4) (half : Bool),
        x.hears h.lane.val = true → h.symErrs ≤ 12 → ∃ u, exec (.retrainReq p h m half) s = .next u ∧
          u = s.modPort p (fun _ => u.port p) ∧ (u.port p).state = .retrain ∧ (u.port p).initiator = false ∧
          (u.port p).retraining = true ∧ (u.port p).fecCorr = x.fecCorr + BitVec.ofNat 64 h.symErrs) ∧
      (x.state ≠ .disabled → ∃ u, exec (.linkDisable p true) s = .next u ∧
        u = { s with ports := u.ports, spares := u.spares } ∧ (∀ p' ≠ p, u.port p' = s.port p') ∧
        (u.port p).state = .disabled ∧ (u.port p).width = 0 ∧ (u.port p).disable = true ∧
        ∃ l, (u.port p).outbox = x.outbox ++ l ∧ (∀ g ∈ l, g.ty = .down) ∧
          l.length = if x.active then x.width.toNat else 0)) ∧
    (x.state = .disabled → s.boot.inReset = false → goes (.linkDisable p false) { x with disable := false, state := .detect })) ∧
  (∀ (s : State) (p : PortId) (f : Frame) (cause : LossCause) (down : Bool),
    let x := s.port p
    (x.active = true ∨ down = false ∧ x.state = .retrain) → s.job.colls = [] → (s.gtc.parent.toNat ≠ p.val ∨ s.gtc.master = true) →
    (down = true → f.payload.length = 600 ∧ x.hears f.lane.val = true ∧
      f.symErrs ≤ 12 ∧ hdrOk f = true ∧ hdrType f.hdr = 4) →
    ∃ u, exec (if down then .frameDown p f else .partnerLoss p cause) s = .next u ∧
      let y := u.port p
      y.state = .lost ∧ y.lossBit = true ∧ y.lossRsn = (if down then 2 else 1) ∧ y.losses = x.losses + 1 ∧
        y.width = 0 ∧ y.initiator = false ∧ y.swapOp = none ∧ y.queues = x.queues ∧ y.rxStream = x.rxStream ∧
        (if down then x.replayBuf.filter fun g => !seqLe g.seq (hdrAck f.hdr) else x.replayBuf) <+: y.replayBuf ∧
        (down = false → y.replayBuf = x.replayBuf ∧ y.txStream = x.txStream) ∧ (∀ p' ≠ p, u.port p' = s.port p') ∧
        (∀ k < 4, s.spareHome p k = true → (s.spare p k).state = .inUse → (u.spare p k).state = .standby) ∧
        u.integ.evSeq = s.integ.evSeq + 1 ∧ u.integ.evreps = s.integ.evreps + 1 ∧
        u = { s with ports := u.ports, spares := u.spares, integ := u.integ, lom := u.lom, routers := u.routers } ∧
        s.onlyNet u)

/-- R361 to R365: the initiator answers a lane fault of its own or of its partner with the lowest free spare of the
port, in the lane's place: the port is in SWAP, the lane retired, a SWAP message on its way; with no spare the lane
leaves the map, the port is one lane narrower and WIDTH goes out; the follower sends LANE_FAULT.

R362 steps 3 and 4, R365: the follower takes the map the initiator sends; each end that has aligned sends
ALIGN_DONE, and with both aligned the port is ACTIVE again; a retired lane that passes its test returns to the pool,
one that fails is retired for good and journalled. -/
def Obligations.LaneFaultsTakeASpareOrNarrow : Prop :=
  (∀ (s : State) (p : PortId) (lane : Fin 8) (cause : LaneCause),
    let x := s.port p
    let code := laneAt x.laneMap lane.val
    x.active = true → x.state = .active → lane.val < x.width.toNat → x.width.toNat ≤ 8 → x.faultWait = 0 →
    x.swapOp = none →
    (x.initiator = false → s.causeHolds p lane.val cause = true →
      ∃ u, exec (.laneFaultDetect p ⟨lane, cause⟩) s = .next u ∧ u = s.modPort p (fun _ => u.port p) ∧
      (u.port p).state = .active ∧ (u.port p).laneMap = x.laneMap ∧
      (u.port p).faultWait = BitVec.ofNat 8 (2 ^ lane.val) ∧
      ∃ g, (u.port p).outbox = x.outbox ++ [g] ∧ g.ty = .ctrl ∧ g.payload.take 2 = [2, BitVec.ofNat 8 (2 ^ lane.val)]) ∧
    (x.initiator = true → code < 8 → (s.port p).lanes[code]? = some .good → s.job.running = false →
      (s.gtc.parent.toNat ≠ p.val ∨ s.gtc.master = true) →
      ∀ (h : CtlHeader) (own : Bool), (own = true → s.causeHolds p lane.val cause = true) →
      (own = false → x.txStream.length < 600 ∧ x.hears h.lane.val = true ∧ h.symErrs ≤ 12) →
      ∃ u, exec (if own then .laneFaultDetect p ⟨lane, cause⟩ else .laneFault p h (BitVec.ofNat 8 (2 ^ lane.val))) s = .next u ∧
        let y := u.port p
        (∀ k rest, s.freeSpares p = k :: rest →
          y.state = .swap ∧ y.width = x.width ∧ laneAt y.laneMap lane.val = 8 + k ∧
            (∀ n < x.width.toNat, n ≠ lane.val → laneAt y.laneMap n = laneAt x.laneMap n) ∧
            y.swaps = x.swaps + 1 ∧ y.wdrops = x.wdrops ∧ y.lanes[code]? = some .retired ∧ (u.spare p k).state = .inUse ∧
            ∃ g l, y.outbox = l ++ [g] ∧ g.payload.take 3 = [3, BitVec.ofNat 8 lane.val, BitVec.ofNat 8 (8 + k)]) ∧
        (s.freeSpares p = [] → 1 < x.width.toNat → (∀ i j, i < j → j < x.width.toNat → laneAt x.laneMap i < laneAt x.laneMap j) →
          (∀ n < x.width.toNat, laneAt x.laneMap n < 12) →
          y.state = .swap ∧ y.lanes[code]? = some .retired ∧ y.width.toNat + 1 = x.width.toNat ∧ y.wdrops = x.wdrops + 1 ∧ y.swaps = x.swaps ∧
            (∀ n, n + 1 < x.width.toNat →
              laneAt y.laneMap n = laneAt x.laneMap (if n < lane.val then n else n + 1)) ∧
            ∃ g l, y.outbox = l ++ [g] ∧ g.payload.take 2 = [4, BitVec.ofNat 8 y.width.toNat]) ∧
        ∀ p' ≠ p, u.port p' = s.port p')) ∧
  (∀ (s : State) (p : PortId) (h : CtlHeader),
    let x := s.port p
    x.txStream.length < 600 → x.retrainWait = false → x.faultWait = 0 →
    (∀ o, x.state = .swap → x.swapOp = some o → o.selfDone = false →
      ∃ u, exec (.frameAlignmentFound p) s = .next u ∧ u = s.modPort p (fun _ => u.port p) ∧
        (u.port p).state = (if o.peerDone then .active else .swap) ∧
        ∃ g, (u.port p).outbox = x.outbox ++ [g] ∧ g.payload.take 2 = [6, BitVec.ofNat 8 (2 ^ x.width.toNat - 1)]) ∧
    (∀ o, x.state = .swap → x.swapOp = some o → o.peerDone = false → x.hears h.lane.val = true → h.symErrs ≤ 12 →
      let kept := x.replayBuf.filter fun g => !seqLe g.seq h.ackseq
      (∀ g ∈ kept, (g.seq - (kept.headD g).seq).toNat < 2 ^ 19) →
      ∃ u, exec (.alignDone p h) s = .next u ∧ u = { s with ports := u.ports, gtc := u.gtc } ∧
        (u.port p).state = (if o.selfDone then .active else .swap) ∧
        (u.port p).outbox = x.outbox ++ (kept.map fun f => { f with
          ack := x.rxSeq - 1, lanes := [f.seq.toNat % x.width.toNat] }) ∧
        (u.port p).replays = (if kept = [] then x.replays else x.replays + 1)) ∧
    (∀ (lane : Fin 8) (phys : BitVec 4) (resume : BitVec 20), x.active = true → x.initiator = false →
      x.hears h.lane.val = true → h.symErrs ≤ 12 → lane.val < x.width.toNat → x.width.toNat ≤ 8 →
      ∃ u, exec (.swap p h lane phys resume) s = .next u ∧ (u.port p).state = .swap ∧ (u.port p).width = x.width ∧
        laneAt (u.port p).laneMap lane.val = phys.toNat ∧ (u.port p).swaps = x.swaps + 1 ∧
        ∀ n < x.width.toNat, n ≠ lane.val → laneAt (u.port p).laneMap n = laneAt x.laneMap n) ∧
    (∀ (w : BitVec 4) (map : BitVec 32) (resume : BitVec 20), x.active = true → x.initiator = false →
      x.hears h.lane.val = true → h.symErrs ≤ 12 → w ≠ 0 → w.toNat ≤ 8 →
      ∃ u, exec (.width p h w map resume) s = .next u ∧ (u.port p).state = .swap ∧ (u.port p).width = w ∧
        (u.port p).wdrops = x.wdrops + 1 ∧ ∀ n < w.toNat, laneAt (u.port p).laneMap n = laneAt map n) ∧
    (∀ (lane : Fin 8) (o : SwapOp), x.state = .swap → x.swapOp = some o → x.initiator = false →
      8 ≤ laneAt x.laneMap lane.val → laneAt x.laneMap lane.val - 8 ∈ o.spares →
      ∃ u, exec (.spareAlignTimeout p lane) s = .next u ∧ u = s.modPort p (fun _ => u.port p) ∧
        ∃ g, (u.port p).outbox = x.outbox ++ [g] ∧ g.payload.take 2 = [2, BitVec.ofNat 8 (2 ^ lane.val)]) ∧
    (∀ (lane : BitVec 4) (i : Fin 8), lane.toNat = i.val → x.lanes[i] = .retired →
      (∃ u, exec (.lanePrbsDone p lane true) s = .next u ∧
        u.ports = (s.modPort p fun x => { x with lanes := x.lanes.set i .returned }).ports ∧
        u.integ.repairs = s.integ.repairs ∧ u = { s with ports := u.ports, integ := u.integ }) ∧
      ∃ u, exec (.lanePrbsDone p lane false) s = .next u ∧ (u.port p).lanes[i] = .permanent ∧
        u = { s with ports := u.ports, integ := u.integ }))

/-- R380, R381, R384, R386, R387, R398: the next packet of a port's stream, one packet with no multicast mask: of
another epoch and not management, it is discarded with EPOCH_ERR; addressed to this chip, it is delivered; to a chip
of its pod and extents outside its node, a scheduled or collective packet joins the queue of the port of the first
axis on which the addresses differ, in R381's direction and on R386's channel; one that cannot be routed is
discarded with ROUTE_ERR, counted and reported. Its bytes leave the input in every case. (A port of the other die is
reached through that die's router, which checks its own epoch.)

R389, R390: a multicast packet of the scheduled or collective class whose masks stay in the extents and whose pod is
its source's is replicated at the source, along each axis whose earlier axes this chip's coordinates satisfy, by one
branch in each direction that R381 gives a target other than this chip, and delivered here exactly when this chip is
in the destination set; any other one is discarded with MCAST_ERR. (Every port is in service and the epoch matches in
both routers.) -/
def Obligations.PacketsFollowTheirRoute : Prop :=
  (∀ (s : State) (d : Die) (p : PortId) (pkt : Packet),
    let r := s.router d
    let a (i : Nat) : Nat := coord r.self i
    let b (i : Nat) : Nat := coord (pktDst pkt) i
    let e (i : Nat) : Nat := r.extent i
    let ahead (i : Nat) : Nat := (b i + e i - a i) % e i
    let plus (i : Nat) : Prop :=
      if r.isOpen i then a i < b i else 2 * ahead i < e i ∨ (2 * ahead i = e i ∧ a i % 2 = 0)
    let crosses (i : Nat) : Prop := r.isOpen i = false ∧
      (plus i ∧ (a i + 1) % e i = r.dateLine i ∨ ¬ plus i ∧ a i = r.dateLine i)
    let inExt : Prop := ∀ i < 3, b i < e i
    pkt.WellFormed = true → portDie p = d → (pktBytes pkt).isPrefixOf (s.port p).rxStream = true → pktAxm pkt = 0 →
    ∃ u, exec (.routerForward d (.port p) pkt) s = .next u ∧
      (u.port p).rxStream = (s.port p).rxStream.drop (pktBytes pkt).length ∧
      (pktClass pkt ≠ 3 → pktEpoch pkt ≠ r.epoch →
        (u.router d).drops = r.drops + 1 ∧ (u.router d).epochErr = true ∧ (u.router d).delivered = r.delivered ∧
          u = { s with ports := u.ports, routers := u.routers } ∧ ∀ k, (u.port k).queues = (s.port k).queues) ∧
      (pktClass pkt = 3 ∨ pktEpoch pkt = r.epoch →
        (pktDst pkt = r.self → (u.router d).delivered = r.delivered ++ [pkt] ∧ (u.router d).pkts = r.pkts + 1 ∧
          (u.router d).drops = r.drops ∧ u = { s with ports := u.ports, routers := u.routers } ∧
          ∀ k, (u.port k).queues = (s.port k).queues) ∧
        (podOf (pktDst pkt) = podOf r.self → inExt → (∃ i < 3, b i / 2 ≠ a i / 2) →
          pktClass pkt = 0 ∨ pktClass pkt = 2 →
          ∀ i < 3, b i ≠ a i → (∀ j < i, b j = a j) →
          ∀ sign : Bool, (sign = true ↔ plus i) → s.inService (torusPort i sign (pktPsel pkt)) = true →
          (portDie (torusPort i sign (pktPsel pkt)) ≠ d → pktEpoch pkt = (s.router (otherDie d)).epoch) →
          ∃ q : QPkt, ∃ vc : Fin 8, vc.val = 2 * pktClass pkt + q.vcb.toNat ∧ q.pkt = pkt ∧ q.input = p.val ∧
            (q.vcb = true ↔ crosses i ∨ ((∃ g, portAxis p = some (i, g)) ∧ pktVcb pkt = true)) ∧
            (u.port (torusPort i sign (pktPsel pkt))).queues = (s.port (torusPort i sign (pktPsel pkt))).queues.set vc
              ((s.port (torusPort i sign (pktPsel pkt))).queues[vc] ++ [q]) ∧
            (∀ k ≠ torusPort i sign (pktPsel pkt), (u.port k).queues = (s.port k).queues) ∧
            u.routers = s.routers ∧ u = { s with ports := u.ports, free := u.free }) ∧
        (pktDst pkt ≠ r.self → (podOf (pktDst pkt) = podOf r.self ∧ ¬ inExt ∨
            podOf (pktDst pkt) ≠ podOf r.self ∧ r.hpeer ≠ some (pktDst pkt)) →
          (u.router d).drops = r.drops + 1 ∧ (u.router d).routeErr = true ∧ (u.router d).delivered = r.delivered ∧
            u.integ.evreps = s.integ.evreps + 1 ∧ (∀ k, (u.port k).queues = (s.port k).queues) ∧
            u = { s with ports := u.ports, routers := u.routers, integ := u.integ, lom := u.lom }))) ∧
  (∀ (s : State) (d : Die) (pkt : Packet),
    let r := s.router d
    let here (i : Nat) : Nat := coord r.self i
    let targets (i t : Nat) : Prop := match pktMask pkt i with
      | some m => t < r.extent i ∧ m.getLsbD t = true
      | none => t = coord (pktDst pkt) i
    let ok : Prop := (pktClass pkt = 0 ∨ pktClass pkt = 2) ∧ podOf (pktDst pkt) = podOf (pktSrc pkt) ∧
      ∀ i < 3, ∀ m, pktMask pkt i = some m → ∀ k, m.getLsbD k = true → k < r.extent i
    pkt.WellFormed = true → pktAxm pkt ≠ 0 → r.netQ = [] → (∀ d', pktEpoch pkt = (s.router d').epoch) → (∀ k, s.inService k = true) →
    (∀ i < 3, pktMask pkt i = none → coord (pktDst pkt) i < r.extent i) → (∀ i < 3, here i < r.extent i) →
    ∃ u, exec (.multicastInject d pkt) s = .next u ∧
      (¬ ok → (u.router d).mcastErr = true ∧ (u.router d).drops = r.drops + 1 ∧ u = { s with routers := u.routers }) ∧
      (ok →
        ((∀ i < 3, targets i (here i)) → (u.router d).delivered = r.delivered ++ [pkt]) ∧
        ((∃ i < 3, ¬ targets i (here i)) → (u.router d).delivered = r.delivered) ∧
        (u.router d).drops = r.drops ∧ u = { s with ports := u.ports, routers := u.routers, free := u.free } ∧
        ∀ i < 3, ∀ sign : Bool,
          let o := torusPort i sign (pktPsel pkt)
          ((∀ j < i, targets j (here j)) ∧ (∃ t, targets i t ∧ t ≠ here i ∧ r.plus i (here i) t = sign) →
            ∃ (vc : Fin 8) (q : QPkt), q.pkt = pkt ∧ q.input = 20 ∧ vc.val = 2 * pktClass pkt + q.vcb.toNat ∧
              q.vcb = r.crosses i (here i) sign ∧
              (u.port o).queues = (s.port o).queues.set vc ((s.port o).queues[vc] ++ [q])) ∧
          (¬ ((∀ j < i, targets j (here j)) ∧ ∃ t, targets i t ∧ t ≠ here i ∧ r.plus i (here i) t = sign) →
            (u.port o).queues = (s.port o).queues)))

/-- R392, R394 to R396: an unscheduled packet enters the injection queue unless the throttle is engaged; passing THR /
16 engages it, counted, and it is released once the occupancy has fallen to (THR - 2) / 16; a new 1 µs window renews
the management budget; an output port sends its scheduled packet before any other when it has credits for all of it,
and one with nothing to send sends an IDLE frame of the next FSEQ (R348). -/
def Obligations.QueuesThrottlesAndArbitration : Prop :=
  ∀ (s : State) (d : Die),
    let r := s.router d
    (∀ pkt : Packet, pkt.WellFormed = true → pktClass pkt = 1 → pktAxm pkt = 0 → r.netQ = [] →
      r.throttling = false → (r.injQ.map pktCredits).sum + pktCredits pkt ≤ 256 →
      ∃ u, exec (.unschedInject d pkt) s = .next u ∧ (u.router d).injQ = r.injQ ++ [pkt] ∧
        u = { s with routers := u.routers, gtc := u.gtc } ∧
        ((r.injQ.map pktCredits).sum + pktCredits pkt ≤ 16 * r.thr.toNat →
          (u.router d).throttling = false ∧ (u.router d).throttles = r.throttles ∧ u.gtc = s.gtc) ∧
        (16 * r.thr.toNat < (r.injQ.map pktCredits).sum + pktCredits pkt →
          (u.router d).throttling = true ∧ (u.router d).throttles = r.throttles + 1)) ∧
    (∀ pkt : Packet, pkt.WellFormed = true → pktClass pkt = 1 → pktAxm pkt = 0 → r.throttling = true →
      exec (.unschedInject d pkt) s = .next s) ∧
    (r.throttling = true → 2 ≤ r.thr.toNat →
      ((r.injQ.map pktCredits).sum ≤ 16 * (r.thr.toNat - 2) →
        exec (.throttleRelease d) s = .next (s.modRouter d fun r => { r with throttling := false })) ∧
      (16 * (r.thr.toNat - 2) < (r.injQ.map pktCredits).sum → exec (.throttleRelease d) s = .next s)) ∧
    (r.mgmtWait = [] → exec (.mgmtBudgetWindow d) s = .next (s.modRouter d fun r => { r with mgmtUsed := 0 })) ∧
    (∀ p : PortId, (s.port p).state = .active → (∀ w : Fin 8, (s.port p).queues[w] = []) →
      (s.port p).txStream.length < 600 → (s.port p).replayBuf.length < 1024 →
      ∃ f, exec (.portArbitrate p) s = .next (s.modPort p fun x => { x with
          txSeq := x.txSeq + 1, replayBuf := x.replayBuf ++ [f], outbox := x.outbox ++ [f] }) ∧
        f.ty = .idle ∧ f.seq = (s.port p).txSeq ∧ f.payload = List.replicate 600 0 ∧
        f.lanes = [(s.port p).txSeq.toNat % (s.port p).width.toNat]) ∧
    (∀ (p : PortId) (q : QPkt) (vc : Fin 8), portDie p = d → s.inService p = true → (s.port p).state = .active → (s.port p).held = false →
      (vc.val = 0 ∨ vc.val = 1) → (s.port p).queues[vc] = [q] → q.input = 20 → q.vcb.toNat = vc.val →
      (∀ w : Fin 8, w ≠ vc → w.val < 2 → (s.port p).queues[w] = []) → pktCredits q.pkt ≤ (s.port p).credits[vc] →
      (s.port p).txStream.length + (pktBytes (pktSetVcb q.pkt q.vcb)).length < 600 →
      ∃ u, exec (.portArbitrate p) s = .next u ∧ (u.port p).queues[vc] = [] ∧
        (u.port p).txStream = (s.port p).txStream ++ pktBytes (pktSetVcb q.pkt q.vcb) ∧
        (u.port p).credits[vc] + pktCredits q.pkt = (s.port p).credits[vc] ∧
        (∀ w : Fin 8, w ≠ vc → (u.port p).credits[w] = (s.port p).credits[w] ∧
          (u.port p).queues[w] = (s.port p).queues[w]) ∧ (u.router d).pkts = r.pkts + 1 ∧
        ((∀ w : Fin 8, w.val / 2 % 2 = 1 → (s.port p).queues[w] = []) → (u.router d).contend = r.contend ∧ u.gtc = s.gtc) ∧
        u = { s with ports := u.ports, routers := u.routers, gtc := u.gtc } ∧
        ∀ p' ≠ p, u.port p' = s.port p')

/-- R408, R409, R411, R412, R418 to R420: a data packet of the segment now arriving joins its buffer. A digest packet
that does not match, up to twice, is answered with RETX_REQ, counted and a thaw event, and the copy is kept. One
that matches a first copy is answered with ACCEPT, counted, and only then used: on a ring, an all-gather writes the
bytes unchanged at their shard's place, and the owner of a reduced shard adds its own contribution last and writes
the scaled, rounded sums. (More segments are to come, so the instance goes on.) -/
def Obligations.CollectiveSegmentsAreCheckedBeforeUse : Prop :=
  ∀ (s : State) (ix path k : Nat) (pkt : Packet) (c : CollInst) (d : CollDecl) (t : Topo) (p : CollPath),
    let r := s.router c.die
    let n := leAt pkt.payload 8 4
    let b := p.rxBuf.take n
    let put (q : CollPath) : List CollInst := s.job.colls.set k { c with paths := c.paths.set path q }
    let answered (type : Nat) (u : State) : Prop := ∃ q : Packet,
      (u.router c.die).netQ = r.netQ ++ [q] ∧ pktClass q = 2 ∧ pktType q = type ∧
        q.tag.toNat = (d.id * 2 ^ 20 + p.next % 2 ^ 20) % 2 ^ 32 ∧ pktDst q = s.hopTo p.peer
    pkt.WellFormed = true → s.relayAt ix path = none → s.running ix = some (k, c) → s.collDecl ix = some (d, t) →
    c.paths[path]? = some p → p.tx = false → p.next < p.total →
    (isColl pkt d.id p.next 0 = true →
      ∃ u, exec (.collData ix path pkt) s = .next u ∧ u = { s with routers := u.routers, job := u.job } ∧
        u.job = { s.job with colls := put { p with rxBuf := p.rxBuf ++ pkt.payload } } ∧
        u.routers = (s.modRouter c.die fun r => { r with delivered := r.delivered.erase pkt }).routers) ∧
    (isColl pkt d.id p.next 1 = true → ¬ (b.length = n ∧ (crc64 b).toNat = leAt pkt.payload 0 8) → p.fails < 2 →
      ∃ u, exec (.collDigest ix path pkt) s = .next u ∧ u = { s with routers := u.routers, job := u.job, gtc := u.gtc } ∧
        (u.router c.die).cretx = r.cretx + 1 ∧ (u.router c.die).csegs = r.csegs ∧ answered 3 u ∧
        (u.job.colls[k]?.bind fun c => c.paths[path]?) = some { p with
          fails := p.fails + 1, rxBuf := [], first := some (p.first.getD p.rxBuf) } ∧
        (u.job.colls[k]?.map fun c => c.flags.testBit 3) = some true ∧
        (s.fixedFreq = true → u.gtc.thaw = s.gtc.thaw + 1) ∧ (s.fixedFreq = false → u.gtc = s.gtc)) ∧
    (isColl pkt d.id p.next 1 = true → b.length = n → (crc64 b).toNat = leAt pkt.payload 0 8 → p.first = none →
      p.next + 1 < p.total → d.kind ≤ 1 → ∀ sign : Bool, p.role = .ring sign →
      let me := t.pos s.routers[0].self d.axis
      let x := d.item t me p.role false p.next
      let bytes := if d.kind = 1 then b else (d.finish (addSegs d.afmt b (s.contribution d t x.1 x.2)).1).1
      let off := if d.kind = 1 then x.1 * d.shardLen t + 2048 * x.2 else 2048 * x.2 * elemBytes d.dfmt 1
      (d.kind = 0 → x.1 = me) →
      ∀ m, s.locate .serac (d.dst + off) = .mem m → s.writeUe m bytes.length = none →
      ∃ u, exec (.collDigest ix path pkt) s = .next u ∧ (u.router c.die).csegs = r.csegs + 1 ∧
        u.rd m bytes.length = bytes ∧
        (∀ a, a < m ∨ m + bytes.length ≤ a → Memory.read 0 u.mem a = Memory.read 0 s.mem a) ∧
        (u.job.colls[k]?.map fun c => (c.segs, c.ended)) = some (c.segs + 1, none) ∧
        (u.job.colls[k]?.bind fun c => c.paths[path]?).map (fun q => (q.next, q.rxBuf, q.fails)) =
          some (p.next + 1, [], 0) ∧
        u = { s with mem := u.mem, hbm := u.hbm, routers := u.routers, job := u.job })

/-- R406, R420 to R424: ACCEPT releases its segment; RETX_REQ sends it again with the next ATTEMPT, of a multicast result
only to the chip that asked (the model's choice, log 156); an ABORT or a stall
ends the instance as ABORTED or STALL: STATUS and ID stand in its record, the job's end is its collective's, and no
segment waits. A ring reduction starts at its START slot, when its gate allows: its first shard's segments are on
their way, and no byte of memory changes. -/
def Obligations.CollectivesStartResendAndEnd : Prop :=
  ∀ (s : State) (ix path k : Nat) (c : CollInst) (d : CollDecl) (t : Topo),
    let r := s.router c.die
    s.collDecl ix = some (d, t) →
    (∀ (p : CollPath) (stream : BitVec 20) (g : SendSeg), s.running ix = some (k, c) → c.paths[path]? = some p →
      s.relayAt ix path = none → p.tx = true → p.unacked.find? (fun g => g.stream % 2 ^ 20 == stream.toNat) = some g →
      (p.waiting = [] → p.next < p.total →
        ∃ u, exec (.collAccept ix path stream) s = .next u ∧ u = { s with routers := u.routers, job := u.job } ∧
          (u.router c.die).netQ = r.netQ ∧
          (u.job.colls[k]?.bind fun c => c.paths[path]?) = some { p with
            unacked := (p.unacked.map fun h => if h.stream % 2 ^ 20 = stream.toNat then { h with acks := h.acks - 1 } else h).filter
              fun h => h.acks ≠ 0 }) ∧
      (p.role ≠ .result → g.attempt < 2 →
        ∃ u l q, exec (.collRetxReq ix path stream) s = .next u ∧ u = { s with routers := u.routers, job := u.job } ∧
          (u.router c.die).netQ = r.netQ ++ l ++ [q] ∧ pktType q = 1 ∧
          q.payload = digestPayload g.bytes (g.attempt + 1) ∧ (∀ x ∈ l, pktType x = 0) ∧
          (u.job.colls[k]?.bind fun c => c.paths[path]?) = some { p with
            unacked := p.unacked.map fun h => if h.stream = g.stream then { g with attempt := g.attempt + 1 } else h }) ∧
      (∀ req, p.role = .result → r.delivered.find? (fun q => isColl q d.id stream.toNat 3) = some req →
        (∀ e ∈ g.tries, e.1 = pktSrc req → e.2 < 2) →
        ∃ u l q, exec (.collRetxReq ix path stream) s = .next u ∧ u = { s with routers := u.routers, job := u.job } ∧
          (u.router c.die).netQ = r.netQ ++ l ++ [q] ∧ pktType q = 1 ∧ ∀ x ∈ q :: l, pktDst x = s.hopTo (pktSrc req) ∧
            pktAxm x = 0)) ∧
    (∀ (stall : Bool) (pkt : Packet) (p : CollPath) (m x : Nat), s.running ix = some (k, c) → c.paths[path]? = some p →
      s.relayAt ix path = none → s.locate .serac d.recAddr = .mem m → s.writeUe m 32 = none →
      s.locate .serac d.dst = .mem x → (m + 32 ≤ x ∨ x + d.dstLen t ≤ m) → c.written = [] → d.id < 4096 →
      (stall = true → p.tx = false ∧ p.next < p.total) →
      (stall = false → pkt.WellFormed = true ∧ pktClass pkt = 2 ∧ pktType pkt = 4 ∧ leAt pkt.payload 0 2 = d.id ∧
        p.unacked = []) →
      ∃ u, exec (if stall then .collStall ix else .collAbort ix path pkt) s = .next u ∧
        leNat (u.rd m 2) = (if stall then 3 else 2) ∧ leNat (u.rd (m + 4) 4) = d.id ∧
        (∀ a, a < m ∨ m + 32 ≤ a → a < x ∨ x + d.dstLen t ≤ a → Memory.read 0 u.mem a = Memory.read 0 s.mem a) ∧
        (u.job.colls[k]?.map fun c => c.ended) = some (some (if stall then 3 else 2)) ∧
        (∀ c', u.job.colls[k]? = some c' → ∀ q ∈ c'.paths, q.unacked = [] ∧ q.waiting = []) ∧
        (s.job.pending = none →
          u.job.pending = some ⟨3, BitVec.ofNat 64 ((if stall then 3 else 2) + d.id * 2 ^ 16)⟩)) ∧
    (s.findInst ix (fun c => !c.started && c.ended.isNone) = some (k, c) →
      let slot : Int := s.job.base + ((c.step.toNat : Int) - s.job.stepL.toNat) * s.gtc.slen.toNat + d.start
      let now : Int := s.gtc.count.toNat
      s.mayStart slot = true →
      (64 * slot ≤ now → d.gate ≠ 0 → leNat (s.serRd d.gate 8) ≠ 0 → exec (.collStart ix) s = .next s) ∧
      (now < 64 * slot → exec (.collStart ix) s = .next s) ∧
      (64 * slot ≤ now → d.gate = 0 ∨ leNat (s.serRd d.gate 8) = 0 → d.kind = 0 → d.axis < 3 →
        1 < t.ringSize d.axis → 1 ≤ d.segs t →
        c.paths = d.ringPaths t s.routers[0].self true ++ d.ringPaths t s.routers[0].self false →
        (∀ p : PortId, (s.port p).state ≠ .lost) →
        ∃ u, exec (.collStart ix) s = .next u ∧ u.mem = s.mem ∧
          (u.job.colls[k]?.map fun c => (c.started, c.ended)) = some (true, none) ∧
          ∀ c', u.job.colls[k]? = some c' → ∀ q ∈ c'.paths, ∀ sign, q.tx = true → q.role = .ring sign →
            q.next = d.dirSegs t sign ∧ q.unacked.length + q.waiting.length = d.dirSegs t sign))

/-- R324, R325, R327 to R329, R506: the export of a step, once the reduce-scatters of its slice are complete, writes its
header and its gradient slice to its ring entry in host memory; at the import's start slot the import word is set to 1 and a return not there yet counts as late; a re-read
that matches after a bad digest counts, one that does not ends the job, and so does a late one at its TIMEOUT; a
completed import has its payload in the region and the import word cleared. -/
def Obligations.MoraineExportsAndImports : Prop :=
  ∀ (s : State) (m : Fin 64) (d : MorDecl),
    let plan := Config.moraine m.val
    s.morDecl m.val = some d →
    (∀ (p : PciePort) (a : Nat),
      let skip := s.skipped plan
      let payload := if skip then [] else s.serRd plan.grad (4 * plan.count)
      s.mayStart (s.baseSlot + plan.exSlot) = true → 64 * (s.baseSlot + plan.exSlot) ≤ (s.gtc.count.toNat : Int) →
      s.scattered plan = true → (s.fn p).masters = true →
      (m.val, s.job.step) ∉ s.job.exports → plan.count < 2 ^ 32 →
      s.windowAt (d.exring + s.job.step.toNat % (d.lag + 1) * d.entry) (64 + payload.length) true = some (p, a) →
      ∃ u, exec (.moraineExport m true) s = .next u ∧
        leNat (u.hostRd p a 2) = 1 ∧ leNat (u.hostRd p (a + 2) 2) = skip.toNat ∧ leNat (u.hostRd p (a + 4) 4) = m.val ∧
        leNat (u.hostRd p (a + 8) 8) = (s.job.step.toNat + 1) % 2 ^ 64 ∧
        leNat (u.hostRd p (a + 24) 4) = (if skip then 0 else plan.count) ∧
        leNat (u.hostRd p (a + 32) 8) = (crc64 payload).toNat ∧ u.hostRd p (a + 64) payload.length = payload ∧
        (m.val, s.job.step) ∈ u.job.exports ∧ u = { s with job := u.job, hostA := u.hostA, hostB := u.hostB }) ∧
    (∀ ok, s.scattered plan = false → exec (.moraineExport m ok) s = .next s) ∧
    (∀ k : Nat,
      let step := (s.job.nextImp.getD m.val 0).toNat
      s.mayStart (s.baseSlot + plan.imSlot) = true → 64 * (s.baseSlot + plan.imSlot) ≤ (s.gtc.count.toNat : Int) →
      s.importOf m.val = none → step + d.lag ≤ s.job.step.toNat + 1 →
      s.locate .serac d.importw = .mem k → s.writeUe k 8 = none →
      ∃ u, exec (.moraineImport m false) s = .next u ∧ leNat (u.rd k 8) = 1 ∧ u.cp.mlate = s.cp.mlate + 1 ∧
        (∀ a, a < k ∨ k + 8 ≤ a → Memory.read 0 u.mem a = Memory.read 0 s.mem a) ∧
        (∃ i, u.importOf m.val = some i ∧ i.late = true ∧ i.ready = none ∧ i.step.toNat = step % 2 ^ 64) ∧
        (s.fixedFreq = true → u.gtc.thawN[8] = s.gtc.thawN[8] + 1) ∧ (s.fixedFreq = false → u.gtc = s.gtc)) ∧
    (∀ (i : MorImport) (b : List Byte), s.importOf m.val = some i → i.ready = none →
      (s.readReturn d i.step.toNat true = .good b →
        ∃ u, exec (.moraineRecheck m true) s = .next u ∧ u.importOf m.val = some { i with ready := some b } ∧
          u.mem = s.mem ∧ u.cp.mdigest = if i.reread then s.cp.mdigest + 1 else s.cp.mdigest) ∧
      (∀ ok, s.readReturn d i.step.toNat ok = .bad ∨ s.readReturn d i.step.toNat ok = .late →
        i.reread = true → s.job.pending = none →
        ∃ u, exec (.moraineRecheck m ok) s = .next u ∧ u.job.pending = some ⟨4, BitVec.ofNat 64 m.val⟩ ∧
          u = { s with job := u.job }) ∧
      (i.reread = false → i.start.toNat + d.timeout * 1000000 ≤ s.gtc.count.toNat → s.job.pending = none →
        ∃ u, exec (.moraineTimeout m) s = .next u ∧ u.job.pending = some ⟨5, BitVec.ofNat 64 m.val⟩ ∧
          u = { s with job := u.job }) ∧
      (i.reread = false → s.gtc.count.toNat < i.start.toNat + d.timeout * 1000000 →
        exec (.moraineTimeout m) s = .next s)) ∧
    (∀ (i : MorImport) (im : Image) (b : List Byte) (r : Region) (j k : Nat), s.importOf m.val = some i →
      s.job.image = some im → i.ready = some b → im.regions[d.region]? = some r →
      s.locate .serac r.base = .mem j → s.writeUe j b.length = none → s.locate .serac d.importw = .mem k →
      s.writeUe k 8 = none → (k + 8 ≤ j ∨ j + b.length ≤ k) →
      ∃ u, exec (.moraineImportComplete m) s = .next u ∧ u.rd j b.length = b ∧ leNat (u.rd k 8) = 0 ∧
        (∀ a, a < j ∨ j + b.length ≤ a → a < k ∨ k + 8 ≤ a → Memory.read 0 u.mem a = Memory.read 0 s.mem a) ∧
        u.importOf m.val = none ∧ (m.val, i.step) ∈ u.job.impDone ∧
        u = { s with mem := u.mem, hbm := u.hbm, job := u.job })

/-- R429, R430, R432, R433, R435, R436, R618: a TIME frame carries the sender's GTC, its exchange number and what it
last received, and goes out on logical lane 0, IDLE frames taking the FSEQs before it; one from the parent that
answers a frame this chip has sent gives θ = ((t2 - t1) - (t4 - t3)) / 2, in
sixteenths: the GTC steps by it once while no image is admitted, and slews by it otherwise, and LOCKED follows it.
The master pulses TICK_SYNC_OUT at multiples of 2^20, and steers to an edge of TICK_SYNC_IN within 1 µs of one, or
steps to the value set for it; other chips and other edges change nothing but the journal. -/
def Obligations.TimeFramesAndPulsesAlignTheClock : Prop :=
  ∀ (s : State) (p : PortId),
    let x := s.port p
    let g := s.gtc
    (∀ n < 16, x.state = .active → p ≠ hPort → x.replayBuf.length + n < 1024 → 0 < x.width.toNat →
      (x.txSeq + BitVec.ofNat 20 n).toNat % x.width.toNat = 0 →
      (∀ m < n, (x.txSeq + BitVec.ofNat 20 m).toNat % x.width.toNat ≠ 0) →
      ∃ u f l, exec (.timeFrameSend p) s = .next u ∧ u = s.modPort p (fun _ => u.port p) ∧
        l.length = n ∧ (∀ g ∈ l, g.ty = .idle) ∧ (u.port p).outbox = x.outbox ++ l ++ [f] ∧
        (u.port p).replayBuf = x.replayBuf ++ l ++ [f] ∧ f.ty = .time ∧ f.lanes = [0] ∧
        f.seq = x.txSeq + BitVec.ofNat 20 n ∧ (u.port p).txSeq = x.txSeq + BitVec.ofNat 20 n + 1 ∧ leAt f.payload 0 8 = g.count.toNat ∧ leAt f.payload 8 1 = g.frac.toNat ∧
        leAt f.payload 12 4 = (x.time.seq + 1).toNat ∧ leAt f.payload 16 8 = x.time.rxGtc.toNat ∧
        leAt f.payload 28 4 = x.time.rxSeq.toNat ∧ (u.port p).time = { x.time with
          seq := x.time.seq + 1, t1 := g.count, t1Frac := g.frac
          sent := x.time.sent ++ [(x.time.seq + 1, g.count, g.frac)] }) ∧
    (∀ (f : Frame) (arrival : Word) (frac : BitVec 4) (e : BitVec 32 × Word × BitVec 4),
      let b := f.payload
      let theta : Int := ((16 * (leAt b 16 8 : Int) + leAt b 24 1 % 16 - (16 * e.2.1.toNat + e.2.2.toNat)) -
        (16 * (arrival.toNat : Int) + frac.toNat - (16 * leAt b 0 8 + leAt b 8 1 % 16))) / 2
      let sure := (leAt b 10 1).testBit 0 || (leAt b 10 1).testBit 1
      f.payload.length = 600 → x.active = true → f.lane = 0 → x.hears 0 = true →
      f.symErrs ≤ 12 → hdrOk f = true → hdrType f.hdr = 3 → hdrSeq f.hdr = x.rxSeq → g.master = false →
      g.holdover = false → g.parent.toNat = p.val →
      x.time.sent.find? (fun e => e.1.toNat == leAt b 28 4) = some e →
      ∃ u, exec (.frameTime p f arrival frac) s = .next u ∧ u = { s with ports := u.ports, gtc := u.gtc } ∧
        u.gtc.offset = BitVec.ofInt 15 theta ∧ (u.port p).rxSeq = x.rxSeq + 1 ∧ (u.port p).rxStream = x.rxStream ∧
        (s.job.image = none → g.stepped = false → sure = true → 0 ≤ (g.sixteenths : Int) + theta →
          (g.sixteenths : Int) + theta < 2 ^ 68 → (u.gtc.sixteenths : Int) = g.sixteenths + theta ∧ u.gtc.stepped = true) ∧
        (s.job.image.isSome = true ∨ g.stepped = true → u.gtc.slew = theta ∧ u.gtc.sixteenths = g.sixteenths) ∧
        (8 < theta.natAbs → u.gtc.locked = false) ∧
        (theta.natAbs ≤ 4 → sure = true → 3 ≤ g.lastFour.length → (∀ o ∈ g.lastFour.take 3, o.natAbs ≤ 4) →
          u.gtc.locked = true)) ∧
    (g.master = true → g.count.toNat % 2 ^ 20 = 0 →
      exec .tickSyncOutPulse s = .next { s with side := { s.side with tickOut := true } }) ∧
    (g.master = false → exec .tickSyncOutPulse s = .next s ∧ exec .tickSyncInEdge s = .next s) ∧
    (g.master = true → g.nextEdge = none ∨ s.job.image.isSome = true →
      (∀ n : Nat, (16 * (n * 2 ^ 20 : Int) - g.sixteenths).natAbs ≤ 16000 →
        exec .tickSyncInEdge s = .next { s with gtc := { g with
          nextEdge := none, slew := 16 * (n * 2 ^ 20 : Int) - g.sixteenths, syncSeen := true } }) ∧
      ((∀ n : Nat, 16000 < (16 * (n * 2 ^ 20 : Int) - g.sixteenths).natAbs) →
        exec .tickSyncInEdge s = .next { s with
          gtc := { g with nextEdge := none }, side := { s.side with tickIgn := g.count :: s.side.tickIgn } })) ∧
    (∀ v, g.master = true → g.nextEdge = some v → s.job.image = none →
      ∃ u, exec .tickSyncInEdge s = .next u ∧ u.gtc.count = v ∧ u.gtc.nextEdge = none ∧ u.gtc.stepped = true ∧
        u = { s with gtc := u.gtc })

/-- R437 to R440, R491, R503: LAUNCH is refused for an L that is no multiple of 64, too near, without LOCKED or MASTER,
or with no image waiting, in that order; otherwise it is accepted: L, the step's base slot and the launch's first
step are set, with LOCK. QUIESCE is accepted while the job runs, and commits with its step once every unit is idle
at that step's end: the image waits to launch at the next step with LOCK clear.

R335, R438, R439: at the observation of boundary L every sequencer that has not ended fetches in phase 0, its stay
begins at L, the clusters take up the step's list and the step's collectives may start; nothing of the job runs
before. (Nothing is restored.) -/
def Obligations.LaunchStartsAndQuiesceEnds : Prop :=
  (∀ (s : State) (c : Cmd) (q : QPair),
    let h := c.handle
    let l := c.arg 8 8
    (s.takes c q 0x11 →
      let ends (st : Nat) : Prop := ∃ u, exec (.launch h) s = .next u ∧ s.records u c q st 0 0 ∧ s.onlyRecord u q ∧
        u = { s with ouvzu := u.ouvzu, hostA := u.hostA, hostB := u.hostB }
      (l % 64 ≠ 0 → ends 0x31) ∧
      (l % 64 = 0 → l < s.gtc.count.toNat + 200000 → ends 0x32) ∧
      (l % 64 = 0 → s.gtc.count.toNat + 200000 ≤ l →
        (s.gtc.locked = false → s.gtc.master = false → ends 0x33) ∧
        (s.gtc.locked = true ∨ s.gtc.master = true →
          (s.job.image = none ∨ s.job.launched = true → ends 0x34) ∧
          (∀ im, s.job.image = some im → s.job.launched = false → s.job.pending = none →
            ((s.routers[0]).lock = true ∨ s.portFault im.portmin = none) →
            ∃ u, exec (.launch h) s = .next u ∧ s.records u c q 0 s.job.step 0 ∧ s.onlyRecord u q ∧
              u.gtc = { s.gtc with launch := BitVec.ofNat 64 l } ∧
              u.job = { s.job with
                launched := true, stepL := s.job.step, base := (l : Int) / 64 - s.job.resume.slotOff } ∧
              (∀ d, u.router d = { s.router d with lock := true }) ∧
              u = { s with ouvzu := u.ouvzu, hostA := u.hostA, hostB := u.hostB, gtc := u.gtc, job := u.job
                           routers := u.routers })))) ∧
    (s.takes c q 0x12 →
      (s.job.running = false → ∃ u, exec (.quiesce h) s = .next u ∧ s.records u c q 0x16 0 0) ∧
      (s.job.running = true → s.job.pending = none → s.job.quiesce = none →
        exec (.quiesce h) s = .next { s with
          job := { s.job with quiesce := some s.job.step }
          ouvzu := { s.ouvzu with cmds := [{ c with stage := .executing }] } })) ∧
    (∀ v : Word,
      let slot : Int := s.job.base + ((v.toNat : Int) + 1 - s.job.stepL.toNat) * s.gtc.slen.toNat
      s.executes c q 0x12 → s.job.quiesce = some v → s.job.running = true → 64 * slot ≤ (s.gtc.count.toNat : Int) →
      (∀ t : TileId, (s.tile t).idleAt slot = true) → (∀ k : ClusterId, s.seracDone k v.toNat = true) →
      (∀ i ∈ s.job.colls, i.ended.isSome = true) → s.moraineDone v = true →
      ∃ u, exec (.quiesceDone h) s = .next u ∧ s.records u c q 0 v 0 ∧ s.onlyRecord u q ∧ u.job.image = s.job.image ∧
        u.job.running = false ∧ u.job.launched = false ∧ u.job.admState = 2 ∧ u.job.step = v + 1 ∧ u.gtc = { s.gtc with launch := 0 } ∧
        (∀ d, u.router d = { s.router d with lock := false }) ∧ (∀ t : TileId, (u.tile t).seq.run = false ∧
          (u.tile t).seq.regs = (s.tile t).seq.regs ∧ (u.tile t).acc = (s.tile t).acc) ∧ u.mem = s.mem)) ∧
  (∀ s : State, s.job.launched = true → s.job.running = false →
    (s.gtc.count.toNat < 64 * (s.gtc.launch.toNat / 64) → exec .launchBoundary s = .next s) ∧
    (64 * (s.gtc.launch.toNat / 64) ≤ s.gtc.count.toNat → s.job.restored = false → s.ckpt.state ≠ 4 →
      s.job.stopped = [] → s.job.resume.slotOff = 0 → s.job.colls = [] →
      ∃ u, exec .launchBoundary s = .next u ∧ u.job.running = true ∧ u.job.admState = 3 ∧ u.job.step = s.job.step ∧
        (∀ t : TileId, u.tile t = { s.tile t with seq := { (s.tile t).seq with
          run := !(s.tile t).seq.ended, slotWait := (u.tile t).seq.slotWait, phase := 0, phaseCom := 0
          stayFrom := s.gtc.launch, stayLate := (s.tile t).seq.nLate } }) ∧
        (∀ c : ClusterId, u.cluster c = { s.cluster c with paused := false, step := s.job.step, ended := [] }) ∧
        (∀ im, s.job.image = some im → u.job.colls.map (·.ix) = List.range im.colls.length ∧
          ∀ c ∈ u.job.colls, c.step = s.job.step ∧ c.started = false ∧ c.ended = none) ∧
        u = { s with job := u.job, ckpt := u.ckpt, tiles := u.tiles, clusters := u.clusters }))

/-- R451, R452, R454: at a slot boundary the entries that changed go to the partner out of the lock-step port as
scheduled packets of TYPE 15 and join the history; a partner's entry whose count this chip has reached with another digest is the divergence
recorded, and with HALT it ends the job; one it has reached with the same digest is no divergence, one it has not
reached is held, and one held for 1,024 slots is a SKEW. Without EN nothing happens. -/
def Obligations.LockstepComparesDigests : Prop :=
  ∀ (s : State),
    let g := s.gtc
    (g.lsEn = false → exec .lockstepSend s = .next s ∧ ∀ slot l, exec (.lockstepReceive slot l) s = .next s) ∧
    (g.lsEn = true → g.lsHeld = [] →
      (∀ p : PortId, p.val = g.lsPort.toNat →
       let new := (s.digested.filter fun e => !g.lsSent.contains e && e.count != 0).take 394
       ∃ u l, exec .lockstepSend s = .next u ∧
        u = { s with tiles := u.tiles, clusters := u.clusters, routers := u.routers, ports := u.ports, gtc := u.gtc
                     free := u.free } ∧
        (∀ t : TileId, u.tile t = { s.tile t with digests := (u.tile t).digests }) ∧
        (∀ c : ClusterId, u.cluster c = { s.cluster c with digest := (u.cluster c).digest }) ∧
        (∀ d, u.router d = { s.router d with digest := (u.router d).digest }) ∧
        (∀ p' ≠ p, u.port p' = s.port p') ∧ (u.port p).queues = (s.port p).queues.set 0 ((s.port p).queues[0] ++ l) ∧
        (l = [] ↔ new = []) ∧ (∀ q ∈ l, pktClass q.pkt = 0 ∧ pktType q.pkt = 15 ∧ q.vcb = false) ∧
        (l.flatMap (·.pkt.payload)).drop 16 = (new.flatMap fun e =>
          [e.unit, e.tile, 0, 0] ++ leBytes 4 e.count.toNat ++ leBytes 8 e.digest.toNat) ∧
        ∀ e ∈ new, e ∈ u.gtc.lsSent ∧ ∃ k ∈ u.gtc.lsHist, k.unit = e.unit ∧ k.tile = e.tile ∧ k.c = e.count ∧ k.d = e.digest) ∧
      (∀ (slot : Word) (e : LsEntry),
        let own := (g.lsHist ++ s.slotHist).find? fun k => k.unit == e.unit && k.tile == e.tile && k.c == e.count
        (own = none → exec (.lockstepReceive slot [e]) s = .next { s with gtc := { g with
          lsHeld := [⟨e, BitVec.ofNat 64 s.slot⟩] } }) ∧
        (∀ k, own = some k → k.d = e.digest → exec (.lockstepReceive slot [e]) s = .next s) ∧
        (∀ k, own = some k → k.d ≠ e.digest → g.lsValid = false →
          ∃ u, exec (.lockstepReceive slot [e]) s = .next u ∧ u.gtc = { g with
              lsValid := true, lsSkew := false, lsUnit := e.unit.setWidth 3, lsTile := e.tile, lsSlot := k.slot
              lsCount := e.count, lsFound := some (BitVec.ofNat 64 s.slot) } ∧ u.integ.evreps = s.integ.evreps + 1 ∧
            (s.job.image.isSome = true → s.job.pending = none →
              u.job.pending = if g.lsHalt then some ⟨6, k.slot⟩ else none) ∧ u.tiles = s.tiles ∧ u.mem = s.mem))) ∧
    (∀ h : LsHeld, g.lsHeld = [h] → g.lsValid = false →
      (h.since.toNat + 1024 ≤ s.slot → ∃ u, exec .lockstepSkew s = .next u ∧ u.gtc.lsValid = true ∧ u.gtc.lsSkew = true ∧
        u.gtc.lsTile = h.entry.tile ∧ u.gtc.lsHeld = [] ∧ u.integ.evreps = s.integ.evreps + 1) ∧
      (s.slot < h.since.toNat + 1024 → exec .lockstepSkew s = .next s))

/-- R520 to R525, R527: in the test window of a job's step, the running Serac commands pause, and at its end they
resume; an in-job self-test is counted and its save area written; a full self-test runs only with no job admitted, or
on a chip in probation before the launch of a job that gets no in-job tests, and with nothing failed and nothing waiting it is only counted; one that fails twice on a chip with no spare drains
it; probation ends after its 72 hours of powered time. -/
def Obligations.SelfTestsWindowsAndProbation : Prop :=
  ∀ (s : State) (i : IntegDecl),
    let first : Int := s.baseSlot + i.teststart
    let now : Int := s.gtc.count.toNat
    (s.integDecl = some i →
      (s.job.running = true → 0 < i.testlen → s.integ.testOn = false → 64 * first ≤ now →
        now < 64 * (first + i.testlen) →
        ∃ u, exec .testWindowStart s = .next u ∧ u = { s with integ := { s.integ with testOn := true }, clusters := u.clusters } ∧
          ∀ c : ClusterId, u.cluster c = { s.cluster c with paused := true }) ∧
      (s.integ.testOn = true → 64 * (first + i.testlen) ≤ now → s.ckpt.state.toNat < 2 →
        ∃ u, exec .testWindowEnd s = .next u ∧
          u = { s with integ := { s.integ with testOn := false, testRun := false }, clusters := u.clusters } ∧
          ∀ c : ClusterId, u.cluster c = { s.cluster c with paused := false }) ∧
      (s.job.running = true → s.integ.testOn = true → s.integ.testRun = false →
        s.job.step.toNat % s.integ.inttest.toNat = 0 →
        ∃ u, exec (.selftestInjob []) s = .next u ∧ u.integ = { s.integ with struns := s.integ.struns + 1, testRun := true } ∧
          (∀ a, a < i.testsave ∨ i.testsave + 0x400_0000 ≤ a → Memory.read 0 u.mem a = Memory.read 0 s.mem a) ∧
          u.tiles = s.tiles ∧ u.clusters = s.clusters)) ∧
    (s.job.image.isSome = true → s.integ.state ≠ 1 ∨ s.job.launched = true ∨ s.job.pending.isSome = true ∨
        (∃ i, s.integDecl = some i ∧ i.testlen ≠ 0) →
      ∀ l, exec (.selftestFull l) s = .next s) ∧
    (s.integ.state = 1 → s.job.launched = false → s.job.pending = none → (∀ i, s.integDecl = some i → i.testlen = 0) →
      s.integ.waiting = [] → s.integ.lost = [] →
      exec (.selftestFull []) s = .next { s with integ := { s.integ with struns := s.integ.struns + 1 } }) ∧
    (s.job.image = none → s.integ.waiting = [] → s.integ.lost = [] →
      exec (.selftestFull []) s = .next { s with integ := { s.integ with struns := s.integ.struns + 1 } } ∧
      ∀ f : TestFailure, f.again = true → repairOf f.kind f.index.toNat = none → s.integ.state = 0 →
        ∃ u, exec (.selftestFull [f]) s = .next u ∧ u.integ.struns = s.integ.struns + 1 ∧
          u.integ.stfail = s.integ.stfail + 2 ∧ u.integ.state = 2 ∧ .drained ∈ u.integ.repairs ∧ u.mem = s.mem) ∧
    (s.integ.state = 1 →
      (s.integ.probstart.toNat + 259200 < s.boot.ptime.toNat →
        ∃ u, exec .probationExpire s = .next u ∧ u.integ.state = 0 ∧ u.integ.inttest = 10000 ∧
          u.integ.evreps = s.integ.evreps + 1 ∧ u = { s with integ := u.integ, lom := u.lom, routers := u.routers }) ∧
      (s.boot.ptime.toNat ≤ s.integ.probstart.toNat + 259200 → exec .probationExpire s = .next s))

/-- R513, R515, R516, R532: when every digested instance of an interval's last step has left its digest, the record
holds that step, the digest of them all and the chip; when all gathered digests agree, the verdict is MATCH and is
counted; when they do not, the mismatch is counted and the SMC stops the job. -/
def Obligations.WeightDigestsAreRecordedAndCompared : Prop :=
  ∀ (s : State) (i : IntegDecl), s.integDecl = some i →
    (∀ k : Nat,
      let w := if i.w = 0 then 4 else i.w
      let t := (s.job.step.toNat + 1) / w * w - 1
      w ≤ s.job.step.toNat + 1 → (∀ l, s.integ.wdLast = some l → l.1.toNat ≠ t) →
      (∀ id ∈ i.digids, (s.integ.rdigest t id).isSome = true) → t < 2 ^ 64 →
      s.locate .serac i.wdaddr = .mem k → s.writeUe k 32 = none →
      ∃ u, exec .wdRecord s = .next u ∧ leNat (u.rd k 8) = t ∧ leNat (u.rd (k + 8) 8) = (crc64 (s.wdBytes i t)).toNat ∧
        leNat (u.rd (k + 16) 4) = (s.routers[0]).self.toNat ∧
        (∀ a, a < k ∨ k + 32 ≤ a → Memory.read 0 u.mem a = Memory.read 0 s.mem a) ∧
        u.integ.wdLast = some (BitVec.ofNat 64 t, crc64 (s.wdBytes i t)) ∧
        u = { s with mem := u.mem, hbm := u.hbm, integ := u.integ }) ∧
    (∀ (im : Image) (t own : Word) (ix : Nat) (d : CollDecl) (c : CollInst),
      let wds := tab (im.topo.pods.length * im.topo.dx) fun k => leNat (s.serRd (d.dst + 32 * k + 8) 8)
      s.job.image = some im → s.integ.wdLast = some (t, own) → im.gatherDecl i = some (ix, d) →
      c ∈ s.job.colls → c.ix = ix → c.ended = some 0 → c.step = t + 1 →
      ((∀ v ∈ wds, v = wds.headD 0) → exec .wdCompare s = .next { s with integ := { s.integ with
        lastv := 1, wdcmp := s.integ.wdcmp + 1 } }) ∧
      ((∃ v ∈ wds, v ≠ wds.headD 0) →
        ∃ u, exec .wdCompare s = .next u ∧ u.integ.wdmism = s.integ.wdmism + 1 ∧ u.integ.wdcmp = s.integ.wdcmp ∧
          (u.integ.lastv = 2 ∨ u.integ.lastv = 3) ∧ u.mem = s.mem ∧
          (u.integ.lastv = 2 ↔ ∃ v ∈ wds, wds.length < 2 * wds.count v) ∧
          ∃ q, u.ouvzu.cmds = s.ouvzu.cmds ++ [q] ∧ q.raw.take 1 = [0x13] ∧ leAt q.raw 8 2 = 0x30))

/-- R488 to R491, R510: a NOP completes OK, with its record, and changes nothing else; an unknown opcode completes with
INVALID_OPCODE, a nonzero byte that must be 0 with INVALID_FIELD, an admin command from another queue with ACCESS,
and none of these has any other effect. -/
def Obligations.CommandsCompleteWithTheirRecords : Prop :=
  ∀ (s : State) (c : Cmd) (q : QPair),
    let only (i : Instr) (status : Nat) : Prop :=
      ∃ u, exec i s = .next u ∧ s.records u c q status 0 0 ∧ s.onlyRecord u q ∧
        u = { s with ouvzu := u.ouvzu, hostA := u.hostA, hostB := u.hostB }
    let h := c.handle
    (s.takes c q 0x1F → only (.nop h) 0) ∧
    (∀ opc, knownOpc opc = false → s.takes c q opc → only (.ouvzuInvalidOpcode h) 0x10) ∧
    (∀ row ∈ [(0x1F, Instr.nop h), (0x16, .jobwait h), (0x12, .quiesce h), (0x13, .abortJob h), (0x11, .launch h),
        (0x01, .identify h true), (0x17, .regread h true), (0x18, .pivsearch h), (0x19, .msgsend h true), (0x1A, .msgrecv ⟨h, true⟩),
        (0x09, .abortCmd h), (0x14, .capture h), (0x15, .restore h true), (0x10, .admitImage h true)],
      s.holds c q row.1 → c.reservedOk = false → only row.2 0x11) ∧
    (∀ row ∈ [(0x02, Instr.createQp h), (0x03, .deleteQp h), (0x04, .setarb h), (0x05, .grantHost h), (0x06, .revokeHost h),
        (0x07, .enableFn h), (0x08, .disableFn h)],
      s.holds c q row.1 → (2 ≤ q.id → only row.2 0x12) ∧ (q.id < 2 → c.reservedOk = false → only row.2 0x11))

/-- R482, R484, R492, R499 to R501, R505: CREATE_QP adds the pair it describes, with PHASE 1, or finds it live;
DELETE_QP of another pair with nothing fetched removes it once that is so; SETARB sets the weights; GRANT_HOST adds
a grant whose GID and window are free, REVOKE_HOST takes one away that no moraine ring uses; ENABLE_FN clears
DISABLED; DISABLE_FN of the other port takes its queues, grants, vectors, EN and RDY. Each writes its record. -/
def Obligations.AdminCommandsSetUpTheQueues : Prop :=
  ∀ (s : State) (c : Cmd) (q : QPair),
    let h := c.handle
    (s.takes c q 0x02 → c.arg 8 8 % 4096 = 0 → c.arg 16 8 % 4096 = 0 → 2 ≤ c.arg 24 2 → c.arg 24 2 < 16384 →
      1 ≤ c.arg 26 2 → 1 ≤ c.arg 28 2 → c.arg 30 1 ≤ 7 → c.arg 31 1 ≤ 1 → 1 ≤ c.arg 32 2 → c.arg 32 2 ≤ 2047 →
      (s.queue (c.arg 24 2) = none →
        ∃ u k, exec (.createQp h) s = .next u ∧ u.ouvzu.cmds = [] ∧ s.onlyRecord u q ∧ u.queue (c.arg 24 2) = some k ∧
          k.port = q.port ∧ k.sqBase = c.arg 8 8 ∧ k.cqBase = c.arg 16 8 ∧ k.sqSize = c.arg 26 2 + 1 ∧
          k.cqSize = c.arg 28 2 + 1 ∧ k.cls = c.arg 30 1 ∧ (k.ien = true ↔ c.arg 31 1 = 1) ∧ k.vector = c.arg 32 2 ∧
          k.coalN = c.arg 34 1 ∧ k.coalT = c.arg 35 1 ∧ k.phase = true ∧ k.sqHead = 0 ∧ k.sqTail = 0 ∧ k.cqHead = 0 ∧
          k.cqTail = 0 ∧ u = { s with ouvzu := u.ouvzu, hostA := u.hostA, hostB := u.hostB }) ∧
      ((s.queue (c.arg 24 2)).isSome = true → ∃ u, exec (.createQp h) s = .next u ∧ s.records u c q 0x14 0 0)) ∧
    (∀ x, s.takes c q 0x03 → s.queue (c.arg 8 2) = some x → x.id = c.arg 8 2 → x.port = q.port → c.arg 8 2 ≠ q.id →
      2 ≤ c.arg 8 2 →
      ∃ v u, exec (.deleteQp h) s = .next v ∧ (v.queue (c.arg 8 2)).map (·.hold) = some true ∧ v.mem = s.mem ∧
        exec (.deleteQpDone h) v = .next u ∧ u.queue (c.arg 8 2) = none ∧ u.ouvzu.cmds = [] ∧ s.onlyRecord u q ∧
        leNat (u.hostRd q.port (q.cqBase + 32 * q.cqTail + 8) 8) = 0 ∧
        u = { s with ouvzu := u.ouvzu, hostA := u.hostA, hostB := u.hostB }) ∧
    (s.takes c q 0x04 → (∀ i < 8, 1 ≤ c.arg (8 + i) 1 ∧ c.arg (8 + i) 1 ≤ 64) →
      ∃ u, exec (.setarb h) s = .next u ∧ s.records u c q 0 0 0 ∧ s.onlyRecord u q ∧
        (∀ i : Fin 8, u.ouvzu.weights[i] = c.arg (8 + i.val) 1) ∧
        u = { s with ouvzu := u.ouvzu, hostA := u.hostA, hostB := u.hostB }) ∧
    (s.takes c q 0x05 → c.arg 8 8 % 4096 = 0 → c.arg 16 8 % 4096 = 0 → c.arg 24 8 % 4096 = 0 → 0 < c.arg 24 8 →
      c.arg 16 8 + c.arg 24 8 ≤ 2 ^ 46 → c.arg 33 1 ≤ 1 →
      (∀ g ∈ s.ouvzu.grants, g.gid ≠ c.arg 32 1 ∧ (c.arg 16 8 + c.arg 24 8 ≤ g.win ∨ g.win + g.len ≤ c.arg 16 8)) →
      ∃ u, exec (.grantHost h) s = .next u ∧ s.records u c q 0 0 0 ∧ s.onlyRecord u q ∧
        u.ouvzu.grants = s.ouvzu.grants ++ [⟨c.arg 32 1, q.port, c.arg 8 8, c.arg 16 8, c.arg 24 8, c.arg 33 1 == 1⟩] ∧
        u = { s with ouvzu := u.ouvzu, hostA := u.hostA, hostB := u.hostB }) ∧
    (∀ g ∈ s.ouvzu.grants, s.takes c q 0x06 → g.gid = c.arg 8 1 → (∀ o ∈ s.ouvzu.grants, s.ringsUse o = false) →
      ∃ u, exec (.revokeHost h) s = .next u ∧ s.records u c q 0 0 0 ∧ s.onlyRecord u q ∧
        u.ouvzu.grants = s.ouvzu.grants.filter (fun o => o.gid ≠ c.arg 8 1) ∧
        u = { s with ouvzu := u.ouvzu, hostA := u.hostA, hostB := u.hostB }) ∧
    (∀ p, portArg (c.arg 8 1) = some p →
      (s.takes c q 0x07 → p ≠ q.port →
        ∃ u, exec (.enableFn h) s = .next u ∧ s.records u c q 0 0 0 ∧ s.onlyRecord u q ∧
          u.fn p = { s.fn p with disabled := false }) ∧
      (s.takes c q 0x08 → p ≠ q.port → s.usesPort p = false →
        ∃ u, exec (.disableFn h) s = .next u ∧ u.ouvzu.cmds = [] ∧ s.onlyRecord u q ∧
          (u.fn p).disabled = true ∧ (u.fn p).en = false ∧ (u.fn p).rdy = false ∧
          (∀ e ∈ (u.fn p).msix, e.ctrl.getLsbD 0 = true) ∧
          u.ouvzu.grants = s.ouvzu.grants.filter (fun g => g.port ≠ p) ∧ (∀ k ∈ u.ouvzu.queues, k.port ≠ p) ∧
          u.mem = s.mem ∧ u.job = s.job))

/-- R126 to R129, R490, R508, R509: IDENTIFY writes its block; REGREAD writes each register's value in order; PIVSEARCH
answers the first-ranked element and its position, NAN_WINNER for a NaN; MSGSEND puts one unscheduled packet of the
bytes it reads into an injection queue; a message that arrives goes to the waiting MSGRECV of its queue with its
source, length and sequence, else to the store while there is room, else, with no such queue, is dropped and
counted; MSGRECV takes the oldest held one, and ends HOST_ERR where the host refuses its write. -/
def Obligations.InformationAndMessageCommands : Prop :=
  ∀ (s : State) (c : Cmd) (q : QPair),
    let h := c.handle
    let k := q.cqBase + 32 * q.cqTail
    (s.takes c q 0x01 → c.arg 8 8 + 4096 ≤ k ∨ k + 32 ≤ c.arg 8 8 →
      ∃ u, exec (.identify h true) s = .next u ∧ s.records u c q 0 0 0 ∧
        leNat (u.hostRd q.port (c.arg 8 8) 2) = 0x302 ∧ leNat (u.hostRd q.port (c.arg 8 8 + 2) 1) = 0xB1 ∧
        leNat (u.hostRd q.port (c.arg 8 8 + 3) 1) = portNo q.port ∧
        leNat (u.hostRd q.port (c.arg 8 8 + 4) 4) = (s.routers[0]).self.toNat ∧
        leNat (u.hostRd q.port (c.arg 8 8 + 8) 2) = 16384 ∧ leNat (u.hostRd q.port (c.arg 8 8 + 10) 4) = 65536 ∧
        leNat (u.hostRd q.port (c.arg 8 8 + 14) 2) = 2048 ∧ leNat (u.hostRd q.port (c.arg 8 8 + 24) 4072) = 0 ∧
        u = { s with ouvzu := u.ouvzu, hostA := u.hostA, hostB := u.hostB }) ∧
    (s.takes c q 0x17 → 1 ≤ c.arg 24 2 → c.arg 24 2 ≤ 512 → c.arg 16 8 + 8 * c.arg 24 2 ≤ k ∨ k + 32 ≤ c.arg 16 8 →
      let entry (i : Nat) : Word := BitVec.ofNat 64 (leNat (s.hostRd q.port (c.arg 8 8 + 8 * i) 8))
      ((∀ i < c.arg 24 2, (s.readEntry (entry i)).isSome = true) →
        ∃ u, exec (.regread h true) s = .next u ∧ s.records u c q 0 0 0 ∧
          (∀ i < c.arg 24 2, ∀ v, s.readEntry (entry i) = some v →
            leNat (u.hostRd q.port (c.arg 16 8 + 8 * i) 8) = v % 2 ^ 64) ∧
          u = { s with ouvzu := u.ouvzu, hostA := u.hostA, hostB := u.hostB }) ∧
      ((∃ i < c.arg 24 2, s.readEntry (entry i) = none) →
        ∃ u, exec (.regread h true) s = .next u ∧ s.records u c q 0x12 0 0 ∧ s.onlyRecord u q)) ∧
    (s.takes c q 0x18 → 1 ≤ c.arg 16 4 → c.arg 24 1 ≤ 1 → c.arg 25 1 ≤ 3 →
      let w := elemBytes (c.arg 24 1) 1
      let at_ (i : Nat) : Nat := c.arg 8 8 + i * c.arg 20 4
      let code (i : Nat) : Nat := leNat (s.serRd (at_ i) w)
      (∀ i < c.arg 16 4, s.inHbm (at_ i) w = true) →
      ∀ b rest, topRanked ((c.arg 25 1).testBit 0) ((c.arg 25 1).testBit 1) false 1 ((List.range (c.arg 16 4)).map fun i =>
        (⟨(fmtOf (c.arg 24 1)).decode (code i), code i, i⟩ : Cand)) = b :: rest →
      ∃ u, exec (.pivsearch h) s = .next u ∧
        s.records u c q (if b.v.isNan then 1 else 0) (BitVec.ofNat 64 b.code) (BitVec.ofNat 64 b.pos) ∧
        s.onlyRecord u q ∧ u = { s with ouvzu := u.ouvzu, hostA := u.hostA, hostB := u.hostB }) ∧
    (s.takes c q 0x19 → c.arg 16 4 < 2 ^ 27 → c.arg 20 2 < 16384 → 16 ≤ c.arg 22 2 → c.arg 22 2 ≤ 960 → c.arg 22 2 % 16 = 0 →
      (∀ d, (s.router d).throttling = false ∧ (s.router d).injQ = [] ∧ 16 ≤ 16 * (s.router d).thr.toNat) →
      ∃ u d pkt, exec (.msgsend h true) s = .next u ∧ s.records u c q 0 0 0 ∧ (u.router d).injQ = [pkt] ∧
        pktClass pkt = 1 ∧ (pktDst pkt).toNat = c.arg 16 4 ∧ pktSrc pkt = (s.routers[0]).self ∧
        pkt.payload = s.hostRd q.port (c.arg 8 8) (c.arg 22 2) ∧ pkt.tag.toNat / 2 ^ 18 = c.arg 20 2 ∧
        u.mem = s.mem ∧ u.tiles = s.tiles) ∧
    (∀ (m : HeldMsg) (rest : List HeldMsg), s.takes c q 0x1A → s.ouvzu.store = m :: rest → m.dqid = q.id →
      c.arg 8 8 + m.data.length ≤ k ∨ k + 32 ≤ c.arg 8 8 → m.data.length < 2 ^ 16 →
      ∃ u, exec (.msgrecv ⟨h, true⟩) s = .next u ∧
        s.records u c q 0 (BitVec.ofNat 64 (m.src.toNat + m.data.length * 2 ^ 32)) (m.seq.setWidth 64) ∧
        u.hostRd q.port (c.arg 8 8) m.data.length = m.data ∧ u.ouvzu.store = rest) ∧
    (∀ (m : HeldMsg) (rest : List HeldMsg), s.takes c q 0x1A → s.ouvzu.store = m :: rest → m.dqid = q.id →
      ∃ u, exec (.msgrecv ⟨h, false⟩) s = .next u ∧ s.records u c q 0x17 0 0 ∧ s.onlyRecord u q) ∧
    (∀ ok, s.takes c q 0x1A → s.ouvzu.store = [] →
      ∃ u, exec (.msgrecv ⟨h, ok⟩) s = .next u ∧ u = { s with ouvzu := { s.ouvzu with cmds := [{ c with stage := .executing }] } }) ∧
    (∀ pkt : Packet, pkt.WellFormed = true → pktClass pkt = 1 → pktDst pkt = (s.routers[0]).self →
      (∀ d, (s.router d).unsched = [] ∧ (s.router d).delivered = []) →
      let n := fieldAt pkt.tag.toNat 18 14
      (∀ ok, s.queue n = none → ∃ u, exec (.msgArrive ⟨pkt, ok⟩) s = .next u ∧ u.ouvzu.nMsgdrop = s.ouvzu.nMsgdrop + 1 ∧
        u = { s with ouvzu := { s.ouvzu with nMsgdrop := u.ouvzu.nMsgdrop } }) ∧
      (∀ ok, s.queue n = some q → s.ouvzu.cmds = [] → (s.ouvzu.store.map (·.data.length)).sum + pkt.payload.length ≤ 262144 →
        ∃ u, exec (.msgArrive ⟨pkt, ok⟩) s = .next u ∧
          u = { s with ouvzu := { s.ouvzu with
            store := s.ouvzu.store ++ [⟨pktSrc pkt, n, BitVec.ofNat 18 pkt.tag.toNat, pkt.payload⟩] } }) ∧
      (s.executes c q 0x1A → q.id = n →
        c.arg 8 8 + pkt.payload.length ≤ k ∨ k + 32 ≤ c.arg 8 8 →
        ∃ u, exec (.msgArrive ⟨pkt, true⟩) s = .next u ∧
          s.records u c q 0 (BitVec.ofNat 64 ((pktSrc pkt).toNat + pkt.payload.length * 2 ^ 32))
            (BitVec.ofNat 64 (pkt.tag.toNat % 2 ^ 18)) ∧
          u.hostRd q.port (c.arg 8 8) pkt.payload.length = pkt.payload))

/-- R126, R128: over elements at distinct positions, the ranking's top k is the same in whatever order the elements are
fed and however the input is split, and nothing ranks before the first of them. -/
def Obligations.TopKDoesNotDependOnSplitOrOrder : Prop :=
  ∀ (minSel abs nanmode : Bool) (k : Nat) (a b : List Cand),
    let top := topRanked minSel abs nanmode k
    1 ≤ k → (a ++ b).Pairwise (fun x y => x.pos ≠ y.pos) →
    top (top a ++ b) = top (a ++ b) ∧ top (top a ++ top b) = top (a ++ b) ∧ (∀ l, l.Perm (a ++ b) → top l = top (a ++ b)) ∧
      (top (a ++ b)).length = min k ((a ++ b).filter fun c => !(nanmode && c.v.isNan)).length ∧
      ∀ x ∈ (top (a ++ b)).head?, x ∈ a ++ b ∧ ∀ y ∈ a ++ b, (nanmode && y.v.isNan) = false → y.pos ≠ x.pos →
        ranksBefore minSel abs x y = true

/-- R482, R483, R485, R487, R501: a doorbell of a live queue of the port whose value is below the ring size and passes
nothing sets its index; any other is ignored and counted; setting EN with ring bases at multiples of 4,096 creates
the admin pair and sets RDY; clearing it drops RDY at once; GO makes the mailbox busy, and is counted when it is; a
coalesced interrupt still unsent at its time limit is raised. -/
def Obligations.DoorbellsEnableAndMailbox : Prop :=
  ∀ (s : State) (p : PciePort),
    let f := s.fn p
    let counted : State := { s with ouvzu := { s.ouvzu with nDberr := s.ouvzu.nDberr + 1 } }
    (f.disabled = false → s.ouvzu.closing = [] →
      (∀ (n : BitVec 14) (v : BitVec 32),
        (f.en = false ∨ s.queue n.toNat = none ∨ (∃ x, s.queue n.toNat = some x ∧ x.port ≠ p) →
          exec (.sqTailDoorbell p n v) s = .next counted ∧ exec (.cqHeadDoorbell p n v) s = .next counted) ∧
        (∀ x, f.en = true → s.queue n.toNat = some x → x.port = p → x.sqHead < x.sqSize → x.sqTail < x.sqSize →
          x.cqHead < x.cqSize → x.cqTail < x.cqSize →
          let ahead (a b size : Nat) : Nat := if a ≤ b then b - a else b + size - a
          (v.toNat < x.sqSize → ahead x.sqHead x.sqTail x.sqSize ≤ ahead x.sqHead v.toNat x.sqSize →
            exec (.sqTailDoorbell p n v) s = .next (s.modQueue n.toNat fun _ => { x with sqTail := v.toNat })) ∧
          (x.sqSize ≤ v.toNat ∨ ahead x.sqHead v.toNat x.sqSize < ahead x.sqHead x.sqTail x.sqSize →
            exec (.sqTailDoorbell p n v) s = .next counted) ∧
          (v.toNat < x.cqSize → ahead x.cqHead v.toNat x.cqSize ≤ ahead x.cqHead x.cqTail x.cqSize →
            exec (.cqHeadDoorbell p n v) s = .next (s.modQueue n.toNat fun _ => { x with cqHead := v.toNat })) ∧
          (x.cqSize ≤ v.toNat ∨ ahead x.cqHead x.cqTail x.cqSize < ahead x.cqHead v.toNat x.cqSize →
            exec (.cqHeadDoorbell p n v) s = .next counted))) ∧
      (f.mbbusy = false → exec (.mboxGo p) s = .next (s.modFn p fun f => { f with mbbusy := true })) ∧
      (f.mbbusy = true → exec (.mboxGo p) s = .next counted) ∧
      (f.en = false → f.rdy = false → f.aqsq.toNat % 4096 = 0 → f.aqcq.toNat % 4096 = 0 →
        1 ≤ fieldAt f.aqsize.toNat 0 16 → fieldAt f.aqsize.toNat 0 16 < 4096 → 1 ≤ fieldAt f.aqsize.toNat 16 16 →
        fieldAt f.aqsize.toNat 16 16 < 4096 → (∀ x ∈ s.ouvzu.queues, x.id ≠ portNo p) →
        ∃ u k, exec (.ouvzuEnSet p) s = .next u ∧ u.fn p = { f with en := true, rdy := true } ∧
          u.ouvzu.queues = s.ouvzu.queues ++ [k] ∧ k.id = portNo p ∧ k.port = p ∧ k.sqBase = f.aqsq.toNat ∧
          k.cqBase = f.aqcq.toNat ∧ k.sqSize = fieldAt f.aqsize.toNat 0 16 + 1 ∧
          k.cqSize = fieldAt f.aqsize.toNat 16 16 + 1 ∧ k.cls = 0 ∧ k.vector = 0 ∧ k.phase = true ∧
          u = { s with ouvzu := u.ouvzu }) ∧
      (f.en = false → f.aqsq.toNat % 4096 ≠ 0 ∨ f.aqcq.toNat % 4096 ≠ 0 →
        exec (.ouvzuEnSet p) s = .next (s.modFn p fun f => { f with en := true })) ∧
      (f.en = true → ∃ u, exec (.ouvzuEnClear p) s = .next u ∧ (u.fn p).en = false ∧ (u.fn p).rdy = false ∧
        (u.fn p).disabled = false ∧ u.ouvzu.queues = s.ouvzu.queues ∧ u.ouvzu.cmds.length = s.ouvzu.cmds.length + 1 ∧
        u = { s with ouvzu := u.ouvzu }) ∧
      (f.en = false → exec (.ouvzuEnClear p) s = .next s)) ∧
    (f.disabled = true → ∀ n v, exec (.sqTailDoorbell p n v) s = .next s ∧ exec (.cqHeadDoorbell p n v) s = .next s ∧
      exec (.mboxGo p) s = .next s) ∧
    (∀ (n : BitVec 14) (x : QPair), s.queue n.toNat = some x →
      (x.ien = true → 0 < x.since → x.coalT ≠ 0 →
        ∃ u, exec (.cqCoalesceTimeout n) s = .next u ∧ (u.queue n.toNat).map (·.since) = some 0 ∧
          u.fn x.port = (s.fn x.port).raise x.vector ∧ u = { s with ouvzu := u.ouvzu }) ∧
      (x.ien = false ∨ x.since = 0 ∨ x.coalT = 0 → exec (.cqCoalesceTimeout n) s = .next s))

/-- R492 to R497: a round of the arbiter fetches the next entry of the one non-empty queue, as that entry's command; a
queue without CQ space is held back and counted; at the close of a window its commands are sequenced, of two orders
that contradict only the first stands, Reduce before others, and the other is SUPERSEDED; ABORT_CMD cancels a
command that has not started, whose record is CANCELLED, and is ALREADY_COMPLETE or NOT_FOUND when there is none. -/
def Obligations.CommandsAreFetchedSequencedAndAborted : Prop :=
  ∀ (s : State) (q : QPair),
    (∀ m : Nat, s.ouvzu.queues = [q] → 2 ≤ q.id → q.id < 16384 → q.cls < 8 → s.ouvzu.cmds = [] → s.ouvzu.closing = [] → q.hold = false →
      (∀ p, (s.fn p).mbbusy = false) → (∀ i : Fin 8, s.ouvzu.weights[i] = 1) → q.sqHead < q.sqSize → q.sqTail < q.sqSize →
      q.sqHead ≠ q.sqTail → q.cqHead = q.cqTail → q.cqSize = m + 1 →
      (1 ≤ m → (q.sqHead + 1) % q.sqSize = q.sqTail ∨ 2 ≤ m →
        ∃ u c, exec .arbiterRound s = .next u ∧ u.ouvzu.cmds = [c] ∧ c.raw = s.hostRd q.port (q.sqBase + 64 * q.sqHead) 64 ∧
          c.sqid = q.id ∧ c.port = some q.port ∧ c.sqhead = (q.sqHead + 1) % q.sqSize ∧ c.stage = .fetched ∧
          u.ouvzu.queues = [{ q with sqHead := (q.sqHead + 1) % q.sqSize }] ∧ u.ouvzu.nCqhold = s.ouvzu.nCqhold ∧
          u = { s with ouvzu := u.ouvzu }) ∧
      (m = 0 → exec .arbiterRound s = .next { s with ouvzu := { s.ouvzu with nCqhold := s.ouvzu.nCqhold + 1 } })) ∧
    (∀ c : Cmd, s.ouvzu.cmds = [c] → c.stage = .fetched → c.sqid < 16384 →
      exec .ingressWindowClose s = .next { s with ouvzu := { s.ouvzu with
        cmds := [{ c with stage := .sequenced }], window := s.ouvzu.window + 1 } }) ∧
    (∀ (c d : Cmd) (r : QPair), s.ouvzu.cmds = [c, d] → c.stage = .fetched → d.stage = .fetched → c.handle ≠ d.handle →
      c.sqid = q.id → d.sqid = r.id → q.id ≠ r.id → q.id < 16384 → r.id < 16384 → s.queue q.id = some q → s.queue r.id = some r →
      c.port = some q.port → d.port = some r.port → c.aborter = [] → d.aborter = [] → s.ouvzu.closing = [] →
      c.contradicts d = true → isReduce c.opc = false → isReduce d.opc = true →
      ∃ u, exec .ingressWindowClose s = .next u ∧ u.ouvzu.cmds = [{ d with stage := .sequenced }] ∧
        leNat (u.hostRd q.port (q.cqBase + 32 * q.cqTail + 2) 2) = 0x20 ∧ u.ouvzu.nSuper = s.ouvzu.nSuper + 1 ∧
        s.onlyRecord u q) ∧
    (∀ c : Cmd, s.takes c q 0x09 → (c.arg 8 2, c.arg 10 2) ≠ (c.sqid, c.cid) →
      ((∀ e ∈ s.ouvzu.done, ¬ (e.1 = c.arg 8 2 ∧ e.2.1 = c.arg 10 2)) →
        ∃ u, exec (.abortCmd c.handle) s = .next u ∧ s.records u c q 0x23 0 0 ∧ s.onlyRecord u q) ∧
      (∀ e, s.ouvzu.done = [e] → e.1 = c.arg 8 2 → e.2.1 = c.arg 10 2 → e.2.2 ≠ 0x09 →
        ∃ u, exec (.abortCmd c.handle) s = .next u ∧ s.records u c q 0x21 0 0 ∧ s.onlyRecord u q)) ∧
    (∀ (c d : Cmd) (r : QPair), s.ouvzu.cmds = [d, c] → c.stage = .sequenced → d.stage = .sequenced → c.handle ≠ d.handle →
      c.sqid = q.id → d.sqid = r.id → q.id ≠ r.id → q.id < 16384 → r.id < 16384 → s.queue q.id = some q → s.queue r.id = some r →
      c.port = some q.port → d.port = some q.port → r.port = q.port → c.aborter = [] → d.aborter = [] → s.ouvzu.closing = [] →
      c.opc = 0x09 → c.reservedOk = true → d.opc = 0x1F → c.arg 8 2 = d.sqid → c.arg 10 2 = d.cid →
      (q.cqBase + 32 * q.cqTail + 32 ≤ r.cqBase + 32 * r.cqTail ∨ r.cqBase + 32 * r.cqTail + 32 ≤ q.cqBase + 32 * q.cqTail) →
      ∃ u, exec (.abortCmd c.handle) s = .next u ∧ u.ouvzu.cmds = [] ∧
        leNat (u.hostRd q.port (r.cqBase + 32 * r.cqTail + 2) 2) = 0x22 ∧
        leNat (u.hostRd q.port (q.cqBase + 32 * q.cqTail + 2) 2) = 0 ∧ u.ouvzu.nCancel = s.ouvzu.nCancel + 1 ∧
        u.ouvzu.nCmds = s.ouvzu.nCmds + 2)

/-- R270, R272, R501, R502, R507, R622: a Function Level Reset leaves every register of the port at its reset value and
its queues and grants gone; a link that goes down leaves the function disabled, its link down and each unwritten
record counted; a BAR2 read inside one region gives its bytes, one beyond the regions none, and on a disabled
function all ones; a BAR2 write changes exactly its bytes. -/
def Obligations.PortsResetAndBar2Accesses : Prop :=
  ∀ (s : State) (p : PciePort),
    let f := s.fn p
    (s.ouvzu.cmds = [] → s.ouvzu.closing = [] → s.usesPort p = false →
      (∃ u, exec (.functionLevelReset p) s = .next u ∧
        u.fn p = { PciFn.reset with linkUp := f.linkUp, perst := f.perst, irqs := f.irqs } ∧
        u.ouvzu.queues = s.ouvzu.queues.filter (fun q => q.port ≠ p) ∧
        u.ouvzu.grants = s.ouvzu.grants.filter (fun g => g.port ≠ p) ∧ u = { s with ouvzu := u.ouvzu }) ∧
      (f.linkUp = true → ∃ u, exec (.pcieLinkDown p false) s = .next u ∧ (u.fn p).linkUp = false ∧
        (u.fn p).disabled = true ∧ (u.fn p).en = false ∧ u.ouvzu.queues = s.ouvzu.queues.filter (fun q => q.port ≠ p) ∧
        u.ouvzu.nUndeliv = s.ouvzu.nUndeliv ∧ u = { s with ouvzu := u.ouvzu }) ∧
      (f.linkUp = false → exec (.pcieLinkDown p false) s = .next s)) ∧
    (∀ c : Cmd, s.ouvzu.cmds = [c] → c.port = some p → c.sqid < 16384 → c.stage = .sequenced → c.aborter = [] → s.ouvzu.closing = [] →
      s.usesPort p = false → f.linkUp = true →
      ∃ u, exec (.pcieLinkDown p false) s = .next u ∧ u.ouvzu.cmds = [] ∧ u.ouvzu.nUndeliv = s.ouvzu.nUndeliv + 1 ∧
        u.hostA = s.hostA ∧ u.hostB = s.hostB ∧ u.integ.evreps = s.integ.evreps + 1) ∧
    (f.disabled = true → (∀ off n, exec (.bar2Access p off (.read n)) s =
        .next (s.modFn p fun f => { f with bar2 := some (List.replicate n 0xFF) })) ∧
      ∀ off b, exec (.bar2Access p off (.write b)) s = .next s) ∧
    (∀ (r : Region) (off n k : Nat), f.disabled = false → s.hostVisible = [r] → 1 ≤ n →
      (r.len < off + n → exec (.bar2Access p off (.read n)) s = .next (s.modFn p fun f => { f with bar2 := none })) ∧
      (off + n ≤ r.len → exec (.bar2Access p off (.read n)) s =
        .next (s.modFn p fun f => { f with bar2 := some (s.serRd (r.base + off) n) })) ∧
      (∀ b : List Byte, b.length = n → off + n ≤ r.len → r.write = true → s.locate .serac (r.base + off) = .mem k →
        s.writeUe k n = none →
        ∃ u, exec (.bar2Access p off (.write b)) s = .next u ∧ u.rd k n = b ∧
          (∀ a, a < k ∨ k + n ≤ a → Memory.read 0 u.mem a = Memory.read 0 s.mem a) ∧
          u = { s with mem := u.mem, hbm := u.hbm }) ∧
      (∀ b : List Byte, b.length = n → off + n ≤ r.len → r.write = false →
        exec (.bar2Access p off (.write b)) s = .next s))

/-- R503, R504: ABORT_JOB with an image stops every unit at once, and then, done, leaves no image, ABORTED as the job's
status and its own record; without one it completes with STATE. JOBWAIT waits while an image is admitted; the end of
the job completes it with JOB_ENDED, the job's status, the step and the detail, and leaves the image only after
QUIESCE. -/
def Obligations.AbortsAndJobEnds : Prop :=
  ∀ (s : State) (c : Cmd) (q : QPair),
    let h := c.handle
    (s.takes c q 0x13 →
      (s.job.image = none → ∃ u, exec (.abortJob h) s = .next u ∧ s.records u c q 0x16 0 0 ∧ s.onlyRecord u q) ∧
      (s.job.image.isSome = true → s.job.pending = none → s.job.colls = [] → (∀ k : ClusterId, (s.cluster k).running = []) →
        ∃ v u, exec (.abortJob h) s = .next v ∧ v.job.pending = some ⟨1, 0⟩ ∧ v.job.running = false ∧
          (∀ t : TileId, v.tile t = (s.tile t).halt) ∧ v.mem = s.mem ∧ v.job.image = s.job.image ∧
          exec (.abortJobDone h) v = .next u ∧ s.records u c q 0 0 0 ∧ s.onlyRecord u q ∧ u.job.image = none ∧
          u.job.last = some ⟨1, 0⟩ ∧ u.job.pending = none ∧ u.job.admState = 0 ∧ u.mem = s.mem ∧
          (∀ d, (u.router d).lock = false) ∧ ∀ t : TileId, (u.tile t).seq.run = false)) ∧
    (s.takes c q 0x16 →
      (s.job.image = none → ∃ u, exec (.jobwait h) s = .next u ∧ s.records u c q 0x16 0 0 ∧ s.onlyRecord u q) ∧
      (s.job.image.isSome = true →
        exec (.jobwait h) s = .next { s with ouvzu := { s.ouvzu with cmds := [{ c with stage := .executing }] } })) ∧
    (∀ e : JobEnd, s.job.pending = some e → e.status < 2 ^ 16 → s.executes c q 0x16 →
      s.job.colls = [] → (∀ k : ClusterId, (s.cluster k).running = []) →
      ∃ u, exec .jobEnd s = .next u ∧
        s.records u c q 0x40 (BitVec.ofNat 64 (e.status + s.job.step.toNat % 2 ^ 32 * 2 ^ 32)) e.detail ∧ s.onlyRecord u q ∧
        u.job.pending = none ∧ u.job.last = some e ∧ u.mem = s.mem ∧
        (e.status = 0 → u.job.image = s.job.image ∧ u.tiles = s.tiles) ∧
        (e.status ≠ 0 → u.job.image = none ∧ u.job.running = false)) ∧
    (s.job.pending = none → exec .jobEnd s = .next s)

/-- R469, R471, R473, R474, R476: ADMIT with no image admitted and no port retraining checks the image it reads: the
first failing check rejects it, with its reason in the record, the report and CP_ADMSTAT, and nothing is admitted;
a load write that faults rejects it with LOAD_FAULT; ports still being retrained keep the command executing, with the
image it read; with every check passed the image is admitted, its step counter 0, LOCK set, the thaw counters clear, and registers
and accumulators of every tile 0. With an image admitted it is refused with reason STATE. -/
def Obligations.AdmissionChecksThenLoads : Prop :=
  ∀ (s : State) (c : Cmd) (q : QPair),
    let p := q.port
    let s0 := s.admitPrepare
    let s1 : State := { s0 with job := { s0.job with admWait := none } }
    let g := Img.read (s.hostRd p (c.arg 8 8) (c.arg 16 8))
    let rpt := c.arg 24 8
    s.takes c q 0x10 → (rpt + 64 ≤ q.cqBase + 32 * q.cqTail ∨ q.cqBase + 32 * q.cqTail + 32 ≤ rpt) →
    (s.job.image = none → s.job.admState ≠ 1 → (∃ k : PortId, (s0.port k).retrains = true) →
      exec (.admitImage c.handle true) s = .next { s0 with
        job := { s0.job with admState := 1, admWait := some ⟨s.hostRd p (c.arg 8 8) (c.arg 16 8), s.gtc.count⟩ }
        ouvzu := { s0.ouvzu with cmds := [{ c with stage := .executing }] } }) ∧
    (s.job.image = none → s.job.admState ≠ 1 → (∀ k : PortId, (s0.port k).retrains = false) →
      (∀ f, g.check s1 = some f → f.code < 2 ^ 16 → f.code ≠ 0 →
        ∃ u, exec (.admitImage c.handle true) s = .next u ∧ s.records u c q 0x30 (BitVec.ofNat 64 f.code) 0 ∧
          leNat (u.hostRd p rpt 2) = f.code ∧ u.hostRd p (rpt + 32) 32 = g.digest ∧ u.job.image = none ∧
          u.job.admState = 0 ∧ u.job.reason.toNat = f.code ∧ u.job.rejects = s.job.rejects + 1 ∧
          u.job.admits = s.job.admits ∧ u.tiles = s1.tiles ∧ u.mem = s1.mem) ∧
      (∀ w, g.check s1 = none → g.firstFault g.writes s1 = some w →
        ∃ u, exec (.admitImage c.handle true) s = .next u ∧ s.records u c q 0x30 0x701 0 ∧
          leNat (u.hostRd p rpt 2) = 0x701 ∧ u.job.image = none ∧ u.job.admState = 0 ∧ u.job.reason = 0x701 ∧
          u.job.rejects = s.job.rejects + 1 ∧ u.tiles = s1.tiles ∧ u.mem = s1.mem) ∧
      (g.check s1 = none → g.firstFault g.writes s1 = none →
        ∃ u, exec (.admitImage c.handle true) s = .next u ∧ s.records u c q 0 0 0 ∧ leNat (u.hostRd p rpt 2) = 0 ∧
          u.job.image = some g.image ∧ u.job.admState = 2 ∧ u.job.reason = 0 ∧ u.job.admits = s.job.admits + 1 ∧
          u.job.step = 0 ∧ u.job.launched = false ∧ (∀ d, (u.router d).lock = true) ∧ u.gtc.thaw = 0 ∧
          (∀ n : Fin 11, u.gtc.thawN[n] = 0) ∧ u.gtc.slen = BitVec.ofNat 32 g.image.slen ∧
          (∀ t : TileId, (∀ x, (u.tile t).seq.sreg x = 0) ∧ (u.tile t).acc = List.replicate 2048 .zero ∧
            (u.tile t).seq.run = false) ∧
          ∀ k : PortId, (u.port k).held = false)) ∧
    (s.job.image.isSome = true →
      ∃ u, exec (.admitImage c.handle true) s = .next u ∧ s.records u c q 0x30 1 0 ∧ leNat (u.hostRd p rpt 2) = 1 ∧
        u.job.image = s.job.image ∧ u.job.rejects = s.job.rejects + 1 ∧ u.tiles = s.tiles ∧ u.mem = s.mem ∧
        u.routers = s.routers)

/-- R535 to R538, R545 to R548: CAPTURE of a running job whose point is far enough ahead and whose window and size do is
accepted and waits for its point; at the point every sequencer stops and every cluster pauses, with nothing lost;
when the drain ends a DMA operation under way stops at a unit boundary (which one is free, log 95) and CAPTURE commits with the bytes written and where its part manifest lies, and the job waits to
launch at the point. RESTORE on an image never launched takes step and slot offset from the manifest and commits
with them; one whose manifest cannot be read or does not match is ADMIT_REJECTED and leaves the chip as it was. -/
def Obligations.CaptureAndRestore : Prop :=
  ∀ (s : State) (c : Cmd) (q : QPair) (im : Image),
    let h := c.handle
    s.job.image = some im →
    (s.takes c q 0x14 → c.arg 16 4 < s.gtc.slen.toNat → c.arg 24 8 % 4096 = 0 → s.job.running = true → s.job.pending = none →
      s.ckpt.armed = none → (s.gtc.count.toNat : Int) + 200000 ≤ 64 * s.capturePoint (c.arg 8 8) (c.arg 16 4) →
      (s.windowAt (0x4000_0000_0000 + c.arg 24 8) (c.arg 32 8) true).isSome = true →
      im.captureSize (s.routers[0]).self ≤ c.arg 32 8 →
      exec (.capture h) s = .next { s with
        ckpt := { s.ckpt with
          state := 1
          armed := some ⟨h, BitVec.ofNat 64 (c.arg 8 8), c.arg 16 4, BitVec.ofNat 64 (c.arg 24 8), BitVec.ofNat 64 (c.arg 32 8)⟩ }
        ouvzu := { s.ouvzu with cmds := [{ c with stage := .executing }] } }) ∧
    (s.takes c q 0x14 → c.arg 16 4 < s.gtc.slen.toNat → c.arg 24 8 % 4096 = 0 → s.job.running = false →
      ∃ u, exec (.capture h) s = .next u ∧ s.records u c q 0x16 0 0 ∧ s.onlyRecord u q) ∧
    (∀ a : Armed, s.ckpt.armed = some a → s.ckpt.state = 1 → s.job.running = true →
      let k := s.capturePoint a.step.toNat a.slotOff
      (64 * k ≤ (s.gtc.count.toNat : Int) → ∃ u, exec .capturePoint s = .next u ∧ u.ckpt = { s.ckpt with state := 2 } ∧
        (∀ t : TileId, u.tile t = { s.tile t with seq := { (s.tile t).seq with run := false, slotWait := none } }) ∧
        (∀ d : ClusterId, u.cluster d = { s.cluster d with paused := true }) ∧
        u = { s with ckpt := u.ckpt, tiles := u.tiles, clusters := u.clusters }) ∧
      ((s.gtc.count.toNat : Int) < 64 * k → exec .capturePoint s = .next s)) ∧
    (∀ a : Armed, s.ckpt.armed = some a → s.ckpt.state = 2 → s.job.pending = none → (∀ t : TileId, (s.tile t).drained = true) →
      s.transfersDone a = true → a.handle = h → s.executes c q 0x14 →
      let s1 := (allTiles.foldl (State.stopDma s.takeFree.1) s.takeFree.2).pauseJob a
      let r := s1.takeFree
      let out := (r.2.shards im a r.1).1
      let bytes := out.flatMap (·.bytes)
      let man := partManifest (im.topo.role (s.routers[0]).self) a.winOff.toNat out
      ∀ p b, s.windowAt (0x4000_0000_0000 + a.winOff.toNat) a.winLen.toNat true = some (p, b) →
      ∃ u, exec (.captureDrainEnd true) s = .next u ∧
        s.records u c q 0 (BitVec.ofNat 64 (bytes.length + man.length)) (a.winOff + BitVec.ofNat 64 bytes.length) ∧
        (p ≠ q.port ∨ b + bytes.length + man.length ≤ q.cqBase + 32 * q.cqTail ∨ q.cqBase + 32 * q.cqTail + 32 ≤ b →
          u.hostRd p b bytes.length = bytes ∧ u.hostRd p (b + bytes.length) man.length = man) ∧
        u.job.running = false ∧ u.job.launched = false ∧ u.job.admState = 2 ∧ u.job.image = some im ∧
        u.job.resume = ⟨a.step, a.slotOff⟩ ∧ u.ckpt.state = 4 ∧ u.ckpt.armed = none ∧
        u.ckpt.bytes = s.ckpt.bytes + BitVec.ofNat 64 (bytes.length + man.length) ∧ u.gtc.launch = 0 ∧
        u.mem = s1.mem) ∧
    (s.takes c q 0x15 → s.restorable = true →
      let n := s.takeFree
      (∀ g m d s', n.2.grantAt (c.arg 8 8) = some g → n.2.readManifest g (c.arg 8 8) = .ok (m, d) →
        n.2.restoreFrom im g m = .ok s' →
        ∃ u, exec (.restore h true) s = .next u ∧
          s.records u c q 0 (BitVec.ofNat 64 (leAt m.head 48 8)) (BitVec.ofNat 64 (leAt m.head 56 4)) ∧
          u.job.restored = true ∧ u.job.step = BitVec.ofNat 64 (leAt m.head 48 8) ∧ u.job.image = some im ∧
          u.tiles = s'.tiles ∧ u.mem = s'.mem) ∧
      (n.2.grantAt (c.arg 8 8) = none →
        ∃ u, exec (.restore h true) s = .next u ∧ u.ouvzu.cmds = [] ∧
          leNat (u.hostRd q.port (q.cqBase + 32 * q.cqTail + 2) 2) = 0x30 ∧ u.job = s.job ∧ u.tiles = s.tiles ∧
          u.clusters = s.clusters ∧ u.mem = s.mem))

/-- R430, R569, R597, R598: from a manager, SET_PLIMIT and SET_TDISC set values in range; CLEAR_WIRING clears the fault
while both wires are deasserted; SET_GTC_EDGE sets the next edge on a time master with no image; CLEAR_DRAIN ends a
drain with no image; READ_REG answers the register's 8 bytes; WRITE_REG writes one, and answers STATE for a table
under LOCK; JOURNAL_READ answers records; OUVZU_ORDER gives its command to the ingress serialiser. Each answers one
RESPONSE, and INVALID or STATE where it may not run. -/
def Obligations.ManagersCommandsAct : Prop :=
  ∀ (s : State) (m : LomHeader), s.accepts m →
    let ends (i : Instr) (opc status : Nat) (p : Power) (g : Gtc) (x : Integ) : Prop :=
      ∃ u, exec i s = .next u ∧ s.answers u m opc status [] ∧ u.lom.norOp = s.lom.norOp ∧
        u = { s with lom := u.lom, routers := u.routers, power := p, gtc := g, integ := x }
    let same (i : Instr) (opc status : Nat) : Prop := ends i opc status s.power s.gtc s.integ
    (∀ w : BitVec 16,
      (1000 ≤ w.toNat → w.toNat ≤ 2000 →
        ends (.setPlimit m w) 2 0 { s.power with plimit := BitVec.ofNat 12 w.toNat } s.gtc s.integ) ∧
      (w.toNat < 1000 ∨ 2000 < w.toNat → same (.setPlimit m w) 2 1)) ∧
    (∀ w : BitVec 8,
      (1 ≤ w.toNat → w.toNat ≤ 50 → ends (.setTdisc m w) 3 0 { s.power with tdisc := BitVec.ofNat 6 w.toNat } s.gtc s.integ) ∧
      (w = 0 ∨ 50 < w.toNat → same (.setTdisc m w) 3 1)) ∧
    (s.power.wireA = false → s.power.wireB = false →
      ∃ u, exec (.clearWiring m) s = .next u ∧ s.answers u m 4 0 [] ∧ u.power.wiring = false ∧ u.power.brake = s.power.brake ∧
        u = { s with lom := u.lom, routers := u.routers, power := u.power, gtc := u.gtc }) ∧
    (s.power.wireA = true ∨ s.power.wireB = true → same (.clearWiring m) 4 2) ∧
    (∀ v : Word,
      (v.toNat % 2 ^ 20 = 0 → s.gtc.master = true → s.job.image = none →
        ends (.setGtcEdge m v) 5 0 s.power { s.gtc with nextEdge := some v } s.integ) ∧
      (v.toNat % 2 ^ 20 ≠ 0 → same (.setGtcEdge m v) 5 1) ∧
      (v.toNat % 2 ^ 20 = 0 → s.gtc.master = false ∨ s.job.image.isSome = true → same (.setGtcEdge m v) 5 2)) ∧
    (s.job.image = none →
      ∃ u, exec (.clearDrain m) s = .next u ∧ s.answers u m 6 0 [] ∧ u.integ.state ≠ 2 ∧ Repair.drained ∉ u.integ.repairs ∧
        (∀ r, r ≠ .drained → (r ∈ u.integ.repairs ↔ r ∈ s.integ.repairs)) ∧ (s.integ.state ≠ 2 → u.integ.state = s.integ.state) ∧
        u = { s with lom := u.lom, routers := u.routers, integ := u.integ }) ∧
    (s.job.image.isSome = true → same (.clearDrain m) 6 2) ∧
    (∀ entry : Word,
      (∀ v, s.boot.inReset = false → (s.beginLom m).readEntry entry = some v →
        ∃ u, exec (.readReg m entry) s = .next u ∧ s.answers u m 0xA 0 (leBytes 8 v) ∧ u = { s with lom := u.lom, routers := u.routers }) ∧
      (s.boot.inReset = false → (s.beginLom m).readEntry entry = none → same (.readReg m entry) 0xA 1) ∧
      (s.boot.inReset = true → same (.readReg m entry) 0xA 2)) ∧
    (∀ (entry value : Word) (sp : RegSpace) (o : Nat), s.boot.inReset = false → s.entrySpace entry = some (sp, o) →
      ((∀ p, sp ≠ .linkPort p) → ∃ u n x, exec (.writeReg m entry value) s = .next u ∧
        x = s.blockWrite .smc sp o n (value.toNat % 2 ^ (8 * n)) ∧
        s.responds u m 0xB (if s.tableLocked sp o n then 2 else 0) [] ∧ u.tiles = x.tiles ∧ u.clusters = x.clusters ∧
        u.gtc = x.gtc ∧ u.ckpt = x.ckpt ∧ x.onlyNet u ∧
        u = { s with lom := u.lom, routers := u.routers, tiles := u.tiles, clusters := u.clusters, gtc := u.gtc, ckpt := u.ckpt }) ∧
      (∀ p, sp = .linkPort p → ∃ u, exec (.writeReg m entry value) s = .next u ∧ u.lom.rx = s.lom.rx + 1)) ∧
    (∀ (j : BitVec 8) (ix : BitVec 32) (n : BitVec 16),
      (s.lom.norOp = none → j.toNat ≤ 2 → n.toNat ≤ 64 →
        ∃ u r, exec (.journalRead m j ix n) s = .next u ∧ s.answers u m 0xC 0 r ∧ u = { s with lom := u.lom, routers := u.routers } ∧
          (j = 0 → s.boot.first = 0 → ∀ k b, k < n.toNat → s.boot.journal[ix.toNat + k]? = some b → ix.toNat + k < 4096 →
            (r.drop (16 * k)).take 16 = b.bytes)) ∧
      (s.lom.norOp = none → 2 < j.toNat ∨ 64 < n.toNat → same (.journalRead m j ix n) 0xC 1) ∧
      (s.lom.norOp.isSome = true → same (.journalRead m j ix n) 0xC 3)) ∧
    (∀ cmd : List Byte, cmd.length = 64 →
      (s.boot.inReset = false →
        ∃ u c, exec (.ouvzuOrder m cmd) s = .next u ∧ u.ouvzu.cmds = s.ouvzu.cmds ++ [c] ∧ c.raw = cmd ∧ c.sqid = 0xFFFF ∧
          c.port = none ∧ c.stage = .fetched ∧ c.lom = some m ∧ u.lom.sent = s.lom.sent ∧ u.lom.rx = s.lom.rx + 1 ∧
          u = { s with lom := u.lom, ouvzu := u.ouvzu }) ∧
      (s.boot.inReset = true → same (.ouvzuOrder m cmd) 1 2))

/-- R585, R597: NOR_WRITE and NOR_COMMIT start a program of the copy that was not selected, the header with MAGIC, SEQ
and CHECK, with no image and no NOR operation in progress, and answer INVALID, STATE or BUSY otherwise; the bytes
stand in NOR at the operation's end, and no other byte of NOR changes. -/
def Obligations.NorUpdatesWriteTheOtherCopy : Prop :=
  ∀ (s : State) (m : LomHeader),
    let base := if s.boot.copyB then 0 else 0x100_0000
    let same (i : Instr) (opc status : Nat) : Prop :=
      ∃ u, exec i s = .next u ∧ s.answers u m opc status [] ∧ u.lom.norOp = s.lom.norOp ∧
        u = { s with lom := u.lom, routers := u.routers }
    (s.accepts m →
      (∀ (off : BitVec 32) (d : List Byte), d.length ≤ 1014 →
        (s.lom.norOp.isSome = true → same (.norWrite m off d) 8 3) ∧
        (s.lom.norOp = none → s.job.image.isSome = true → same (.norWrite m off d) 8 2) ∧
        (s.lom.norOp = none → s.job.image = none → 0x100_0000 < off.toNat + d.length → same (.norWrite m off d) 8 1) ∧
        (s.lom.norOp = none → s.job.image = none → off.toNat + d.length ≤ 0x100_0000 →
          ∃ u, exec (.norWrite m off d) s = .next u ∧ s.answers u m 8 0 [] ∧ u.lom.norOp = some ⟨base + off.toNat, d⟩ ∧
            u = { s with lom := u.lom, routers := u.routers })) ∧
      (∀ (seq : BitVec 32),
        (s.lom.norOp.isSome = true → same (.norCommit m seq) 9 3) ∧
        (s.lom.norOp = none → s.job.image.isSome = true → same (.norCommit m seq) 9 2) ∧
        (s.lom.norOp = none → s.job.image = none → s.boot.cfg.isSome = true →
          (seq.toNat ≠ s.copySeq s.boot.copyB + 1 → same (.norCommit m seq) 9 1) ∧
          (seq.toNat = s.copySeq s.boot.copyB + 1 →
            ∃ u h, exec (.norCommit m seq) s = .next u ∧ s.answers u m 9 0 [] ∧ u.lom.norOp = some ⟨base, h⟩ ∧ h.length = 64 ∧
              h.take 8 = copyMagic ∧ leAt h 8 4 = seq.toNat ∧
              leAt h 56 8 = (crc64 (h.take 56 ++ s.norRd (base + 64) (leAt h 12 4))).toNat ∧
              u = { s with lom := u.lom, routers := u.routers })))) ∧
    (∀ o, s.lom.norOp = some o →
      ∃ u, exec .norOperationComplete s = .next u ∧ u.lom = { s.lom with norOp := none } ∧ u.norRd o.addr o.data.length = o.data ∧
        (∀ a, a < o.addr ∨ o.addr + o.data.length ≤ a → Memory.read 0xFF u.nor a = Memory.read 0xFF s.nor a) ∧
        u = { s with lom := u.lom, nor := u.nor }) ∧
    (s.lom.norOp = none → exec .norOperationComplete s = .next s)

/-- R582, R593, R595, R596, R598: a command from no manager is counted and discarded; one that repeats the last SEQ is
answered with the stored RESPONSE and not executed; one with a lower SEQ has no effect; IDENTIFY, a link that comes
up, the telemetry and phase intervals each originate their frames; a relayed packet's payload is transmitted
unchanged; RESET_DEVICE sends DOWN frames, resets the dies and boots from step 1. -/
def Obligations.LomtirelFramesAreExchanged : Prop :=
  ∀ (s : State) (m : LomHeader),
    (∀ (w : BitVec 16) (us : BitVec 8) (v e : Word) (b : Bool) (off q ix : BitVec 32) (d cmd : List Byte) (j : BitVec 8) (n : BitVec 16),
      d.length ≤ 1014 → cmd.length = 64 →
      ∀ i ∈ [Instr.ouvzuOrder m cmd, .setPlimit m w, .setTdisc m us, .clearWiring m, .setGtcEdge m v, .clearDrain m, .resetDevice m b,
          .norWrite m off d, .norCommit m q, .readReg m e, .writeReg m e v, .journalRead m j ix n, .lomIdentify m],
        (s.isManager m.mac = false → exec i s = .next { s with lom := { s.lom with deny := s.lom.deny + 1 } }) ∧
        (s.isManager m.mac = true → m.seq.toNat < (s.manager m.mac).last.toNat → exec i s = .next s) ∧
        (s.isManager m.mac = true → m.seq = (s.manager m.mac).last →
          ((s.manager m.mac).resp = none → exec i s = .next s) ∧
          ∀ f, (s.manager m.mac).resp = some f →
            ∃ u, exec i s = .next u ∧ u.lom = { s.lom with sent := f :: s.lom.sent } ∧ s.onlyNet u ∧
              u = { s with lom := u.lom, routers := u.routers })) ∧
    (s.accepts m →
      (∃ u, exec (.lomIdentify m) s = .next u ∧
        u.lom.sent = ⟨0x04, s.lom.seq, 0, s.gtc.count, s.identity⟩ :: s.lom.sent ∧ u.lom.seq = s.lom.seq + 1 ∧
        u.lom.rx = s.lom.rx + 1 ∧ (u.manager m.mac).last = m.seq ∧ s.onlyNet u ∧ u = { s with lom := u.lom, routers := u.routers }) ∧
      ∀ reload : Bool, ∃ u, exec (.resetDevice m reload) s = .next u ∧ u.boot.rstcause = 2 ∧ u.boot.step = 1 ∧ u.boot.state = .rom ∧
        u.boot.inReset = true ∧ (reload = true → u.boot.reselect = true) ∧ u.lom.rx = s.lom.rx + 1 ∧ u.job.image = none ∧
        u.gtc.count = s.gtc.count ∧ u.nor = s.nor ∧ u.fuses = s.fuses ∧ u.power.coreOfs = s.power.coreOfs ∧
        (∀ t, u.tile t = State.reset.tile t) ∧
        (∀ p, s.job.image = none → (s.port p).active = true → 0 < (s.port p).width.toNat → ∃ f ∈ (u.port p).outbox, f.ty = .down) ∧
        (s.job.image.isSome = true → s.job.pending = none → u.job.last = some ⟨8, 2⟩)) ∧
    (∀ l : Fin 2,
      (∃ u, exec (.lomLinkUp l) s = .next u ∧ u.lom = { s.lom with
          up := s.lom.up.set l true, seq := s.lom.seq + 1, tx := s.lom.tx + 1
          sent := ⟨0x04, s.lom.seq, 0, s.gtc.count, s.identity⟩ :: s.lom.sent } ∧ u = { s with lom := u.lom }) ∧
      exec (.lomLinkDown l) s = .next { s with lom := { s.lom with up := s.lom.up.set l false } }) ∧
    (s.boot.telemOn = true →
      ∃ u t, exec .telemetrySend s = .next u ∧ u.side = { s.side with telem := t } ∧ t.length = 64 ∧
        u.lom = { s.lom with sent := ⟨0x02, s.lom.seq, 0, s.gtc.count, t⟩ :: s.lom.sent, seq := s.lom.seq + 1, tx := s.lom.tx + 1 } ∧
        leAt t 0 1 = s.power.op.toNat ∧ leAt t 1 1 = s.power.target.toNat ∧ leAt t 2 1 = s.power.tj.toNat ∧
        leAt t 3 1 = s.power.peak.toNat ∧ leAt t 4 2 = s.power.avg.toNat ∧ leAt t 6 2 = s.power.coreMv.toNat ∧
        leAt t 8 2 = s.power.seracMv.toNat ∧ leAt t 10 2 = s.power.plimit.toNat ∧ leAt t 24 8 = s.job.step.toNat ∧
        leAt t 32 8 = s.gtc.thaw.toNat ∧ leAt t 40 8 = s.boot.ptime.toNat ∧ leAt t 52 12 = 0 ∧
        s.onlyNet u ∧ u = { s with lom := u.lom, routers := u.routers, side := u.side }) ∧
    (s.boot.telemOn = false → exec .telemetrySend s = .next s) ∧
    (s.boot.inReset = false →
      ∃ u f g, exec .phasesSend s = .next u ∧ u.lom.sent = g :: f :: s.lom.sent ∧ f.ty = 3 ∧ g.ty = 3 ∧ f.seq = s.lom.seq ∧
        g.seq = s.lom.seq + 1 ∧ u.lom.tx = s.lom.tx + 2 ∧ leAt f.payload 0 1 = 0 ∧ leAt g.payload 0 1 = 32 ∧
        leAt f.payload 1 1 = 32 ∧ leAt g.payload 1 1 = 32 ∧ f.payload.length = 776 ∧ g.payload.length = 776 ∧
        (∀ (i : Nat) (h : i < 32),
          leAt f.payload (8 + 24 * i) 8 = s.cp.phTot[i].toNat ∧ leAt f.payload (16 + 24 * i) 8 = s.cp.phCnt[i].toNat ∧
          leAt f.payload (24 + 24 * i) 8 = s.cp.phMax[i].toNat ∧ leAt g.payload (8 + 24 * i) 8 = s.cp.phTot[32 + i].toNat ∧
          leAt g.payload (16 + 24 * i) 8 = s.cp.phCnt[32 + i].toNat ∧
          leAt g.payload (24 + 24 * i) 8 = s.cp.phMax[32 + i].toNat) ∧
        s.onlyNet u ∧ u = { s with lom := u.lom, routers := u.routers }) ∧
    (∀ pkt : Packet, pkt.WellFormed = true →
      (pktClass pkt = 3 → pktDst pkt = (s.routers[0]).self →
        ∃ u, exec (.lomRelay pkt) s = .next u ∧ u.lom = { s.lom with relayed := pkt.payload :: s.lom.relayed } ∧
          u = { s with lom := u.lom, routers := u.routers }) ∧
      (pktClass pkt ≠ 3 ∨ pktDst pkt ≠ (s.routers[0]).self → exec (.lomRelay pkt) s = .next s))

/-- R600 to R603, R623: an SPI write clears SPI_STAT's bits or sets ACC_ERR, a read returns the words of the word space,
edges beyond the last word are counted, a partial word sets FRAME_ERR; the I3C target takes an address while it has
none, answers only with one, keeps a 2-byte offset and reads its 4 KiB area from there, wrapping; while an image is
admitted a TAP instruction but BYPASS, IDCODE and SAMPLE acts as BYPASS and is journalled. -/
def Obligations.SidebandTargetsAnswer : Prop :=
  ∀ (s : State),
    let d := s.side
    let put (i : Instr) (x : Side) : Prop := exec i s = .next { s with side := x }
    (∀ (addr : BitVec 16) (n : Nat),
      let e : BitVec 32 := BitVec.ofNat 32 (min (d.extra.toNat + n) (2 ^ 32 - 1))
      put (.spiTargetWrite addr [] n) { d with extra := e } ∧
      (∀ w : BitVec 32, (addr = 0 → put (.spiTargetWrite addr [w] n) { d with
          extra := e, accErr := d.accErr && !w.getLsbD 2, frameErr := d.frameErr && !w.getLsbD 1 }) ∧
        (addr ≠ 0 → put (.spiTargetWrite addr [w] n) { d with extra := e, accErr := true })) ∧
      (∀ (w : BitVec 32) (ws : List (BitVec 32)) (t : State), ws.length < 64 →
        exec (.spiTargetWrite addr [w] 0) s = .next t → exec (.spiTargetWrite addr (w :: ws) n) s = exec (.spiTargetWrite (addr + 1) ws n) t) ∧
      (∀ k ≤ 64, ∃ out : List (BitVec 32), put (.spiTargetRead addr k n) { d with spiOut := out, extra := e } ∧ out.length = k ∧
        ∀ j < k, let a := (addr.toNat + j) % 65536
          let w := (out.getD j 0).toNat
          (a = 0 → (w.testBit 0 = true ↔ s.boot.state = .ready) ∧ w.testBit 1 = d.frameErr ∧ w.testBit 2 = d.accErr ∧ w < 8) ∧
          (a = 1 → w = d.extra.toNat) ∧
          (4 ≤ a → a < 0xC → w = leAt s.identity (4 * (a - 4)) 4) ∧ (0x10 ≤ a → a < 0x20 → w = leAt d.telem (4 * (a - 0x10)) 4))) ∧
    put .spiPartialWord { d with frameErr := true } ∧
    (∀ a st : BitVec 7,
      (d.i3cDyn = none → put (.i3cEntdaa a) { d with i3cDyn := some a } ∧
        ∀ c, s.boot.cfg = some c → c.i3cStatic = st → put (.i3cSetdasa st a) { d with i3cDyn := some a }) ∧
      (d.i3cDyn.isSome = true → exec (.i3cEntdaa a) s = .next s ∧ exec (.i3cSetdasa st a) s = .next s) ∧
      (∀ c, s.boot.cfg = some c → c.i3cStatic ≠ st → exec (.i3cSetdasa st a) s = .next s)) ∧
    put .i3cRstdaa { d with i3cDyn := none } ∧
    (d.i3cDyn.isSome = true → (∀ i ∈ [Instr.i3cGetpid, .i3cGetbcr, .i3cGetdcr, .i3cGetmwl, .i3cGetmrl], ∃ b, put i { d with i3cOut := b }) ∧
      ∃ b, exec .i3cGetstatus s = .next { s with side := { d with i3cOut := b }, free := s.free + 1 }) ∧
    (d.i3cDyn = none → (∀ i ∈ [Instr.i3cGetpid, .i3cGetbcr, .i3cGetdcr, .i3cGetmwl, .i3cGetmrl], exec i s = .next s) ∧
      exec .i3cGetstatus s = .next { s with free := s.free + 1 }) ∧
    (∀ (a b : Byte) (l : List Byte), put (.i3cPrivateWrite (a :: b :: l)) { d with
        i3cOff := BitVec.ofNat 12 (a.toNat + 256 * b.toNat) } ∧ exec (.i3cPrivateWrite [a]) s = .next s ∧
        exec (.i3cPrivateWrite []) s = .next s) ∧
    (∀ n : Nat, ∃ out, put (.i3cPrivateRead n) { d with i3cOut := out } ∧ out.length = n ∧
      ∀ j < n, let o := (d.i3cOff.toNat + j) % 4096
        (o < 0x20 → out[j]? = some (s.identity.getD o 0)) ∧ (0x20 ≤ o → o < 0x60 → out[j]? = some (d.telem.getD (o - 0x20) 0)) ∧
        (∀ c, 0x60 ≤ o → s.boot.cfg = some c → out[j]? = some (c.fru.getD (o - 0x60) 0))) ∧
    (∀ ir : BitVec 8, ∃ u, exec (.tapInstructionLoad ir) s = .next u ∧ u.side.tapIr = ir ∧ u = { s with side := u.side } ∧
      (s.job.image = none ∨ ir = Config.tapIdcode ∨ ir = Config.tapSample → u.side.tapEff = ir ∧ u.side.tapLog = d.tapLog) ∧
      (s.job.image.isSome = true → ir ≠ 0xFF → ir ≠ Config.tapIdcode → ir ≠ Config.tapSample →
        u.side.tapEff = 0xFF ∧ u.side.tapLog = ir :: d.tapLog))

/-- R10, R11, R12, R359, R360, R370, R371, R397, R400, R480 to R483, R625: a write that is not aligned, or that its
agent cannot make, is ignored; a 1 clears a W1C bit and a 0 leaves it; a table write under LOCK is ignored and sets
LOCKWR; LINK_CTRL, OUVZU_CTRL, the mailbox and the doorbells act as their commands do; RW fields take the value; a
read-only block or offset changes nothing; BAR0 reads the level and the CP mirror. (Where PCI configuration bits lie is
presumed, log 163.) -/
def Obligations.RegisterWritesFollowTheirAccess : Prop :=
  ∀ (s : State) (v : Word),
    let v32 : BitVec 32 := v.setWidth 32
    let wr (g : RegAgent) (sp : RegSpace) (off : BitVec 24) (size : BitVec 2) : Host.Outcome State Fault Refusal :=
      exec (.regWrite g sp off size v) s
    (∀ g sp off (size : BitVec 2), off.toNat % 2 ^ size.toNat ≠ 0 ∨ agentReaches g sp = false → wr g sp off size = .next s) ∧
    (∀ g t off (size : BitVec 2), g ∈ [RegAgent.sequencer, .cp, .smc] → off.toNat % 2 ^ size.toNat = 0 →
      let stats (x : Tile) : List (Nat × BitVec 32) := [(0x40, x.fpstat.setWidth 32), (0x84, x.mmstat.setWidth 32), (0x100, x.epistat.setWidth 32),
        (0x140, x.rime.stat.setWidth 32), (0x1C0, x.vec.stat.setWidth 32), (0x200, x.seq.stat.setWidth 32), (0x280, x.dma.stat.setWidth 32)]
      ∃ u, wr g (.tile t) off size = .next u ∧ u = { s with tiles := u.tiles } ∧ (∀ x, x ≠ t → u.tile x = s.tile x) ∧
        (u.tile t).seq.regs = (s.tile t).seq.regs ∧ (u.tile t).acc = (s.tile t).acc ∧ (u.tile t).matQ = (s.tile t).matQ ∧
        ∀ k < 7, ∀ o x y, (stats (s.tile t))[k]? = some (o, x) → (stats (u.tile t))[k]? = some (o, y) →
          (off.toNat = o → size = 2 → y = x &&& ~~~ v32) ∧ (off.toNat + 2 ^ size.toNat ≤ o ∨ o + 4 ≤ off.toNat → y = x)) ∧
    (∀ g c, g ∈ [RegAgent.sequencer, .cp, .smc] → ∃ u, wr g (.cluster c) 0 2 = .next u ∧
      (∀ i < 4, (u.cluster c).engFault.getLsbD i = ((s.cluster c).engFault.getLsbD i && !v32.getLsbD (8 + i))) ∧
      u = { s with clusters := s.clusters.set c { s.cluster c with engFault := (u.cluster c).engFault } }) ∧
    (∀ g, g ∈ [RegAgent.cp, .smc] →
      wr g .cp 0xCC0 2 = .next { s with gtc := { s.gtc with
        lsPort := v.setWidth _, lsEn := v.getLsbD 5, lsHalt := v.getLsbD 6 } } ∧
      (∀ off : BitVec 24, off.toNat % 4 = 0 → 0x1004 ≤ off.toNat → wr g .cp off 2 = .next s) ∧
      (∀ k off (size : BitVec 2), wr g (.linkGroup k) off size = .next s) ∧
      (∀ p, (s.port p).disable = false → (s.port p).state ≠ .disabled → (s.port p).retrainRq = false →
        wr g (.linkPort p) 0 2 = .next (s.modPort p fun x => { x with
          trainErr := x.trainErr && !v.getLsbD 0, swapBit := x.swapBit && !v.getLsbD 1, lossBit := x.lossBit && !v.getLsbD 2,
          degraded := x.degraded && !v.getLsbD 22 }) ∧
        let cfg (x : LPort) : LPort := { x with maxw := BitVec.ofNat _ (fieldAt v.toNat 2 4), halfRate := v.getLsbD 6 }
        (v.getLsbD 0 = false → v.getLsbD 1 = false → wr g (.linkPort p) 8 2 = .next (s.modPort p cfg)) ∧
        (v.getLsbD 0 = true → v.getLsbD 1 = false → wr g (.linkPort p) 8 2 = exec (.linkRetrain p) (s.modPort p cfg)) ∧
        (v.getLsbD 0 = false → v.getLsbD 1 = true → wr g (.linkPort p) 8 2 = exec (.linkDisable p true) (s.modPort p cfg))) ∧
      (∀ d, wr g (.router d) 4 2 = .next s) ∧
      (∀ d off, off.toNat % 4 = 0 → off.toNat < 0x28 → off.toNat ≠ 4 → (s.router d).lock = true →
        wr g (.router d) off 2 = .next (s.modRouter d fun r => { r with lockwr := true })) ∧
      (∀ d, (s.router d).lock = false → wr g (.router d) 0 2 = .next (s.modRouter d fun r => { r with self := v.setWidth _ }))) ∧
    (∀ d, wr .cp (.router d) 0x28 2 = .next (s.modRouter d fun r => { r with
        lock := v.getLsbD 16, lockwr := r.lockwr && !v.getLsbD 0, epochErr := r.epochErr && !v.getLsbD 1,
        routeErr := r.routeErr && !v.getLsbD 2, mcastErr := r.mcastErr && !v.getLsbD 3 })) ∧
    (∀ p : PciePort,
      let host (off : BitVec 24) (size : BitVec 2) : Host.Outcome State Fault Refusal := wr (.host p) (.bar0 p) off size
      (∀ off : BitVec 24, off.toNat % 8 = 0 → 0x80_0000 ≤ off.toNat → host off 3 = .next s) ∧
      host 0x10 3 = .next (s.modFn p fun f => { f with aqsq := v }) ∧ host 0x18 3 = .next (s.modFn p fun f => { f with aqcq := v }) ∧
      host 0x20 2 = .next (s.modFn p fun f => { f with aqsize := v32 }) ∧
      ((s.fn p).en = false → v.getLsbD 0 = true → host 8 2 = exec (.ouvzuEnSet p) s) ∧
      ((s.fn p).en = true → v.getLsbD 0 = true → host 8 2 = .next s) ∧
      (v.getLsbD 0 = false → host 8 2 = exec (.ouvzuEnClear p) s) ∧
      (v.getLsbD 0 = true → host 0x28 2 = exec (.mboxGo p) s) ∧ (v.getLsbD 0 = false → host 0x28 2 = .next s) ∧
      ∀ q : BitVec 14, host (BitVec.ofNat 24 (0x10_0000 + 8 * q.toNat)) 2 = exec (.sqTailDoorbell p q v32) s ∧
        host (BitVec.ofNat 24 (0x10_0004 + 8 * q.toNat)) 2 = exec (.cqHeadDoorbell p q v32) s) ∧
    (∀ p : PciePort, ∃ u, wr (.host p) (.config p) 4 1 = .next u ∧ u = s.modFn p (fun f => { f with cfg := (u.fn p).cfg }) ∧
      (u.fn p).cfg.command = v.setWidth 16 &&& 0x146 ∧
      ((u.fn p).cfg.power = 0 → (s.fn p).disabled = false → (u.fn p).masters = v.getLsbD 2)) ∧
    (∀ p : PciePort, leNat (s.hostRead p false 0 4) = 0x302 ∧
      (∀ o n : Nat, o < 0x1_0000 → s.hostRead p false (0x80_0000 + o) n = regBytes (cpRegs s) o n) ∧
      leNat (s.hostRead p false 0x10 8) = (s.fn p).aqsq.toNat ∧ leNat (s.hostRead p true 8 1) = 0xB1)

/-- R560, R562, R563: an evaluation records the average power, sets the power cap one level below the operating point in
force when it exceeds PLIMIT, and puts the operating point where R562 says; the target is OP5 with no image running
or in fixed-frequency mode, otherwise the highest preferred one of the phases in force; a raise ends at its goal;
the power cap is released a level at a time; a rail's trim offset rises by 5 mV up to 50, beyond which MARGIN_LIMIT
is set. -/
def Obligations.OperatingPointFollowsItsTerms : Prop :=
  ∀ (s : State),
    let q := s.power
    (∀ w : BitVec 16, ∃ u, exec (.opEval w) s = .next u ∧ s.settles u ∧ u.power.avg = w ∧
      u.power.powerCap.toNat = (if q.plimit.toNat < w.toNat then q.op.toNat - 1 else q.powerCap.toNat) ∧
      u.power.dipCap = q.dipCap ∧ u.power.thermCap = q.thermCap ∧ u.power.brake = q.brake ∧ u.power.tj = q.tj ∧
      u.power.coreOfs = q.coreOfs ∧ u.power.plimit = q.plimit ∧ u = { s with power := u.power, gtc := u.gtc }) ∧
    (s.job.image = none ∨ s.fixedFreq = true ∨ s.job.running = false → s.opTarget = 5) ∧
    (∀ im, s.job.image = some im → im.fixed = false → s.job.running = true → (∀ x ∈ im.phases, x.2 ≤ 7) →
      (∀ t x, im.phases[(s.tile t).seq.phaseCom.toNat]? = some x → x.2 ≤ s.opTarget.toNat) ∧
      (s.opTarget = 0 ∨ ∃ t x, im.phases[(s.tile t).seq.phaseCom.toNat]? = some x ∧ x.2 = s.opTarget.toNat)) ∧
    (∀ n, q.raising = some n → exec .opRaiseDone s = .next { s with power := { q with op := n, raising := none } }) ∧
    (q.raising = none → exec .opRaiseDone s = .next s) ∧
    (q.avg.toNat + 100 < q.plimit.toNat → q.powerCap ≠ 7 →
      exec .powerCapRelease s = .next { s with power := { q with powerCap := q.powerCap + 1 } }) ∧
    (q.plimit.toNat ≤ q.avg.toNat + 100 ∨ q.powerCap = 7 → exec .powerCapRelease s = .next s) ∧
    (∀ r : Rail,
      let ofs (p : Power) : BitVec 8 := match r with | .core => p.coreOfs | .serac => p.seracOfs
      let other (p : Power) : BitVec 8 := match r with | .core => p.seracOfs | .serac => p.coreOfs
      ((ofs q).toNat ≤ 45 → ∃ u, exec (.trimRaise r) s = .next u ∧ ofs u.power = ofs q + 5 ∧ other u.power = other q ∧
        u.power.histCore = u.power.coreOfs ∧ u.power.histSerac = u.power.seracOfs ∧ u.power.op = q.op ∧
        u.power.raising = q.raising ∧ u.power.margin = q.margin ∧
        u.power.coreMv.toNat = min 850 ([620, 650, 680, 700, 730, 750, 800, 850].getD (q.raising.getD q.op).toNat 0 +
          u.power.coreOfs.toNat) ∧ u.power.seracMv.toNat = min 850 (750 + u.power.seracOfs.toNat) ∧
        u = { s with power := u.power }) ∧
      (45 < (ofs q).toNat → ∃ u, exec (.trimRaise r) s = .next u ∧ u.power.margin = true ∧ ofs u.power = ofs q ∧
        other u.power = other q ∧ s.settles u ∧ u.integ.evreps = s.integ.evreps + 1 ∧ s.onlyNet u ∧
        u = { s with power := u.power, gtc := u.gtc, integ := u.integ, lom := u.lom, routers := u.routers }))

/-- R564 to R566, R568 to R571: a stretcher that engages is counted once until it releases; a dip below VW, 60 mV under the
setpoint in force, engages the stretchers
of VDD_CORE's domains, is logged and counted, and holds its cap for 10 ms, one level lower for a further one; the
first assertion of a wire is a brake, counted, at OP0; it releases after 10 µs of both wires deasserted; a
disagreement longer than TDISC is a wiring fault, which holds OP0. None of these touches the job. -/
def Obligations.DipsStretchesAndBrakes : Prop :=
  ∀ (s : State),
    let q := s.power
    let only (u : State) : Prop := u = { s with power := u.power, gtc := u.gtc }
    let after (t : Word) (ns : Nat) : Prop := t.toNat + ns ≤ s.gtc.count.toNat
    (∀ d : StretchDomain,
      (q.engaged.getLsbD d.val = false → ∃ u, exec (.droopStretch d) s = .next u ∧ only u ∧ u.power.engaged.getLsbD d.val = true ∧
        (∀ e : StretchDomain, u.power.stretch[e] = q.stretch[e] + (if e = d then 1 else 0)) ∧ u.power.op = q.op ∧
        (∀ e : StretchDomain, e ≠ d → u.power.engaged.getLsbD e.val = q.engaged.getLsbD e.val) ∧
        u.gtc.thaw = s.gtc.thaw + (if s.fixedFreq then 1 else 0)) ∧
      (q.engaged.getLsbD d.val = true → exec (.droopStretch d) s = .next s) ∧
      ∃ u, exec (.stretchRelease d) s = .next u ∧ u = { s with power := { q with engaged := u.power.engaged } } ∧
        ∀ e : StretchDomain, u.power.engaged.getLsbD e.val = (q.engaged.getLsbD e.val && !decide (e = d))) ∧
    (∀ mv : BitVec 16, q.coreMv.toNat - 60 ≤ mv.toNat → exec (.supplyDip mv) s = .next s) ∧
    (∀ mv : BitVec 16, mv.toNat < q.coreMv.toNat - 60 → ∃ u, exec (.supplyDip mv) s = .next u ∧ only u ∧ s.settles u ∧ u.power.dips = q.dips + 1 ∧
      u.power.dipLog = (s.gtc.count, mv) :: q.dipLog ∧ u.power.dipUntil = some (s.gtc.count + 10000000) ∧
      u.power.dipCap.toNat = max 1 ((if q.dipUntil.isSome then q.dipCap else q.op).toNat - 1) ∧
      u.power.engaged.toNat = q.engaged.toNat ||| 0b101111 ∧ u.power.powerCap = q.powerCap ∧ u.power.thermCap = q.thermCap ∧
      (∀ d : StretchDomain, u.power.stretch[d] = q.stretch[d] + (if d ≠ 4 ∧ q.engaged.getLsbD d.val = false then 1 else 0))) ∧
    (∀ t, q.dipUntil = some t →
      (after t 0 → ∃ u, exec .dipCapExpire s = .next u ∧ only u ∧ s.settles u ∧ u.power.dipCap = 7 ∧ u.power.dipUntil = none) ∧
      (s.gtc.count.toNat < t.toNat → exec .dipCapExpire s = .next s)) ∧
    (q.dipUntil = none → exec .dipCapExpire s = .next s) ∧
    (∀ w : BrakeWire,
      let low (p : Power) : Bool := match w with | .a => p.wireA | .b => p.wireB
      let far (p : Power) : Bool := match w with | .a => p.wireB | .b => p.wireA
      (low q = false → ∃ u, exec (.pwrbrkAssert w) s = .next u ∧ only u ∧ s.settles u ∧ low u.power = true ∧ far u.power = far q ∧
        u.power.brake = true ∧ u.power.brakes = (if q.brake then q.brakes else q.brakes + 1) ∧ u.power.op = 0 ∧
        u.power.disagree = (if far q then none else some s.gtc.count) ∧ u.power.brakeFree = none) ∧
      (low q = true → exec (.pwrbrkAssert w) s = .next s) ∧
      (low q = true → ∃ u, exec (.pwrbrkDeassert w) s = .next u ∧ low u.power = false ∧ far u.power = far q ∧
        u.power.disagree = (if far q then some s.gtc.count else none) ∧
        u.power.brakeFree = (if far q then none else some s.gtc.count) ∧
        u = { s with power := { q with wireA := u.power.wireA, wireB := u.power.wireB, disagree := u.power.disagree, brakeFree := u.power.brakeFree } }) ∧
      (low q = false → exec (.pwrbrkDeassert w) s = .next s)) ∧
    (∀ t, q.disagree = some t →
      (t.toNat + 1000 * q.tdisc.toNat < s.gtc.count.toNat →
        ∃ u, exec .pwrbrkDiscrepancy s = .next u ∧ s.settles u ∧ u.power.wiring = true ∧ u.power.wirings = q.wirings + 1 ∧
          u.power.op = 0 ∧ u.integ.evreps = s.integ.evreps + 1 ∧ u.job = s.job ∧ u.tiles = s.tiles ∧ u.mem = s.mem) ∧
      (s.gtc.count.toNat ≤ t.toNat + 1000 * q.tdisc.toNat → exec .pwrbrkDiscrepancy s = .next s)) ∧
    (q.disagree = none → exec .pwrbrkDiscrepancy s = .next s) ∧
    (∀ t, q.brakeFree = some t → q.brake = true → q.wireA = false → q.wireB = false →
      (after t 10000 → q.wiring = false →
        ∃ u, exec .brakeRelease s = .next u ∧ only u ∧ s.settles u ∧ u.power.brake = false ∧ u.power.dipCap = q.dipCap ∧
          u.power.thermCap = q.thermCap) ∧
      (s.gtc.count.toNat < t.toNat + 10000 ∨ q.wiring = true → exec .brakeRelease s = .next s)) ∧
    (q.wireA = true ∨ q.wireB = true → exec .brakeRelease s = .next s)

/-- R572, R573: a sample gives Tj, the highest die reading or 100 °C for a stack at 95 °C or above, its sensor and the
peak; reaching 100 °C sets the thermal cap one level below the operating point, each further millisecond lowers it,
each 10 ms at or below 97 °C raises it until it no longer limits; at 105 °C OP0 is forced, and after 100 ms the job
is stopped with cause THERMAL_MAX; a trip stops every die and ends a running job with SMC_STOP. -/
def Obligations.ThermalLimitsHold : Prop :=
  ∀ (s : State),
    let q := s.power
    let only (u : State) : Prop := u = { s with power := u.power, gtc := u.gtc }
    (∀ t : Temps, t.WellFormed = true →
      let dieMax := t.die.foldl (fun m x => max m x.toNat) 0
      let tj := if ∃ x ∈ t.hbm, 95 ≤ x.toNat then max dieMax 100 else dieMax
      ∃ u, exec (.thermalSample t) s = .next u ∧ only u ∧ s.settles u ∧ u.power.tj.toNat = tj ∧ u.power.peak.toNat = max q.peak.toNat tj ∧
        (∀ (i : Nat) (h : i < t.die.length), u.power.sensor.toNat = i → tj = t.die[i].toNat) ∧
        (∀ k, u.power.sensor.toNat = 16 + k → tj = 100) ∧ (u.power.thmax = true ↔ 105 ≤ tj) ∧
        (q.tj.toNat < 100 → 100 ≤ tj → u.power.thermCap.toNat = min q.thermCap.toNat (max 1 (q.op.toNat - 1))) ∧
        (100 ≤ q.tj.toNat ∨ tj < 100 → u.power.thermCap = q.thermCap) ∧
        u.power.maxSince = (if tj < 105 then none else if q.thmax then q.maxSince else some s.gtc.count) ∧
        u.power.dipCap = q.dipCap ∧ u.power.powerCap = q.powerCap ∧ u.power.brake = q.brake) ∧
    (100 ≤ q.tj.toNat → ∃ u, exec .thermalCapLower s = .next u ∧ only u ∧ s.settles u ∧
      u.power.thermCap.toNat = max 1 (q.thermCap.toNat - 1)) ∧
    (q.tj.toNat < 100 → exec .thermalCapLower s = .next s) ∧
    (q.tj.toNat ≤ 97 → q.thermCap ≠ 7 → ∃ u, exec .thermalCapRaise s = .next u ∧ only u ∧ s.settles u ∧
      u.power.thermCap.toNat = (if s.uncapped ≤ q.thermCap.toNat + 1 then 7 else q.thermCap.toNat + 1)) ∧
    (97 < q.tj.toNat ∨ q.thermCap = 7 → exec .thermalCapRaise s = .next s) ∧
    (∀ t, q.maxSince = some t → q.thmax = true →
      (t.toNat + 100000000 ≤ s.gtc.count.toNat → s.job.image.isSome = true →
        ∃ u c, exec .thermalMaxTimeout s = .next u ∧ u.ouvzu.cmds = s.ouvzu.cmds ++ [c] ∧ c.opc = 0x13 ∧ c.sqid = 0xFFFF ∧
          c.arg 0 1 = 0x13 ∧ c.arg 8 2 = 0x20 ∧ u = { s with power := { q with maxSince := none }, ouvzu := u.ouvzu }) ∧
      (s.gtc.count.toNat < t.toNat + 100000000 → exec .thermalMaxTimeout s = .next s)) ∧
    (q.maxSince = none → exec .thermalMaxTimeout s = .next s) ∧
    (q.thermtrip = false → ∃ u, exec .thermtrip s = .next u ∧ u.power.thermtrip = true ∧ u.power.trips = s.gtc.count :: q.trips ∧
      u.integ.evSeq = s.integ.evSeq + 1 ∧ u.boot.inReset = true ∧ u.job.image = none ∧ u.ouvzu.cmds = [] ∧ u.hostA = s.hostA ∧
      u.hostB = s.hostB ∧ u.gtc.count = s.gtc.count ∧ u.nor = s.nor ∧ u.fuses = s.fuses ∧ (∀ t, u.tile t = State.reset.tile t) ∧
      (s.job.image.isSome = true → u.job.last = some ⟨8, 0x21⟩)) ∧
    (q.thermtrip = true → exec .thermtrip s = .next s)

/-- R584, R587 to R589, R591, R604, R605: a step that ends well leaves its DONE or DONE_ALT record and begins the next,
whose STARTED record says how it is done; one that failed the normal way on the previous boot is skipped when it is
optional and done the alternate way when it has one; step 2 selects the valid copy with the higher SEQ, A when they
are equal; step 6 releases the dies and loads the identity registers; step 14 sets READY and sends IDENTITY. -/
def Obligations.BootStepsRunInOrder : Prop :=
  ∀ (s : State) (r : StepResult),
    let b := s.boot
    let n := b.step.toNat
    s.booting = true → (n = 5 → s.side.resetN = true) → s.stepOk r = true → b.journal.length + 5 ≤ 4096 → n ≤ 14 →
    ∃ u, exec (.bootStepDone r) s = .next u ∧ u.fuses = s.fuses ∧ u.boot.bootno = b.bootno ∧ u.boot.fails = b.fails ∧
      (∃ l e, u.boot.journal = b.journal ++ e :: l ∧ e.bootno = b.bootno ∧ e.step.toNat = n ∧ e.detail = r.detail ∧
        e.res = (if b.alt then BootRes.doneAlt else .done) ∧
        (n = 14 → l = [] ∧ u.boot.step = b.step) ∧
        (n ≠ 14 → b.failedNormal (n + 1) = false → ∃ f, l = [f] ∧ f.bootno = b.bootno ∧ f.step.toNat = n + 1 ∧ f.res = .started ∧
          f.detail = 0 ∧ u.boot.step.toNat = n + 1 ∧ u.boot.alt = false) ∧
        (n + 1 ∈ [3, 8, 9, 10] → b.failedNormal (n + 1) = true → ∃ f, l = [f] ∧ f.step.toNat = n + 1 ∧ f.res = .started ∧
          f.detail = 1 ∧ u.boot.step.toNat = n + 1 ∧ u.boot.alt = true) ∧
        (n + 1 ∈ [11, 12, 13] → b.failedNormal (n + 1) = true → b.failedNormal (n + 2) = false → b.lostRepair = false →
          ∃ f g, l = [f, g] ∧ f.step.toNat = n + 1 ∧ f.res = .skipped ∧ g.step.toNat = n + 2 ∧ g.res = .started ∧ g.detail = 0 ∧
            u.boot.step.toNat = n + 2) ∧
        (n + 1 ∈ [1, 2, 4, 5, 6, 7, 14] → u.boot.step.toNat = n + 1)) ∧
      (n = 2 → b.reselect = true → (∃ cfg, u.boot.cfg = some cfg) ∧ s.copyValid u.boot.copyB = true ∧
        (u.boot.copyB = true → s.copyValid false = true → s.copySeq false < s.copySeq true) ∧
        (u.boot.copyB = false → s.copyValid true = true → s.copySeq true ≤ s.copySeq false)) ∧
      (n = 2 → b.reselect = false → u.boot.copyB = b.copyB) ∧
      (n = 6 → u.boot.inReset = false ∧ u.boot.idlot = s.fuses.lot ∧ u.boot.idserial = s.fuses.serial ∧
        fieldAt u.boot.iddie.toNat 0 5 = s.fuses.wafer.toNat % 32 ∧ fieldAt u.boot.iddie.toNat 5 3 = 0 ∧
        fieldAt u.boot.iddie.toNat 8 8 = s.fuses.diex.toNat ∧ fieldAt u.boot.iddie.toNat 16 8 = s.fuses.diey.toNat ∧
        fieldAt u.boot.iddie.toNat 24 8 = 0xB1) ∧
      (n = 4 → u.boot.ptime = b.histPtime ∧ u.power.coreOfs = s.power.histCore ∧ u.power.seracOfs = s.power.histSerac) ∧
      (n = 13 → u.boot.telemOn = true) ∧
      (n = 14 → u.boot.state = .ready ∧ ∃ f ∈ u.lom.sent, f.ty = 0x04 ∧ f.payload = s.identity)

/-- R585, R587, R590, R591: a failure of step 1 or 2, or of step 3 done the alternate way or with no other valid copy,
ends in recovery mode; step 3 tries the other copy once; a step from 6 to 10 records the failure and resets the
device to step 1 for a new attempt, and the fourth ends in BOOT_FAIL; one from 11 to 13 goes on; step 4 rebuilds the
lost journals and goes on; a time limit fails the step as its own failure does, and steps 5 and 14 have none. -/
def Obligations.BootFailuresAreHandled : Prop :=
  ∀ (s : State) (d : BitVec 16),
    let b := s.boot
    let n := b.step.toNat
    let fail : StepResult := ⟨false, d, [], false, false, []⟩
    let res : BootRes := if b.alt then .failedAlt else .failed
    let recorded (u : State) (res : BootRes) : Prop := ∃ e ∈ u.boot.journal, e.bootno = b.bootno ∧ e.step.toNat = n ∧ e.res = res
    (s.booting = false → exec (.bootStepTimeout d) s = .next s ∧ ∀ r, exec (.bootStepDone r) s = .next s) ∧
    (s.booting = true → n = 5 ∨ n = 14 → exec (.bootStepTimeout d) s = .next s) ∧
    (n = 5 → s.side.resetN = false → ∀ r, exec (.bootStepDone r) s = .next s) ∧
    (s.booting = true → n ≠ 5 → exec (.bootStepTimeout d) s = exec (.bootStepDone fail) s ∧
      ∃ u, exec (.bootStepTimeout d) s = .next u ∧ u.fuses = s.fuses ∧ u.nor = s.nor ∧
        (n ≤ 2 → u.boot.state = .recovery ∧ recorded u res) ∧
        (n = 3 → b.alt = true → u.boot.state = .recovery ∧ recorded u .failedAlt) ∧
        (n = 3 → b.alt = false → s.copyValid (!b.copyB) = true → u.boot.step = 3 ∧ u.boot.alt = true ∧ u.boot.state = b.state ∧
          recorded u .failed) ∧
        (n = 3 → b.alt = false → s.copyValid (!b.copyB) = false → u.boot.state = .recovery ∧ recorded u .failed ∧ recorded u .failedAlt) ∧
        (n = 4 → u.boot.step = 5 ∧ (d.getLsbD 0 = false → recorded u .failed) ∧ u.boot.fails = b.fails ∧
          (d.getLsbD 0 = false → d.getLsbD 1 = false → d.getLsbD 2 = false → u.boot.jlost = b.jlost ∧ u.integ.repairs = s.integ.repairs) ∧
          (d.getLsbD 1 = true → u.boot.jlost = true ∧ u.integ.repairs = [] ∧ u.boot.lostRepair = true ∧ u.boot.unfit = true) ∧
          (d.getLsbD 2 = true → u.boot.jlost = true ∧ u.power.coreOfs = 50 ∧ u.power.seracOfs = 50 ∧ u.integ.confirmed = [] ∧
            u.boot.lostHist = true)) ∧
        (6 ≤ n → n ≤ 10 → u.boot.inReset = true ∧ u.boot.fails = b.fails + 1 ∧ u.gtc.count = s.gtc.count ∧
          (∀ t, u.tile t = State.reset.tile t) ∧
          (b.fails + 1 < 4 → u.boot.step = 1 ∧ u.boot.state = .rom ∧ u.boot.rstcause = 4 ∧
            u.boot.attempt.toNat = min 4 (b.attempt.toNat + 1) ∧
            (b.journal.length + 2 ≤ 4096 → recorded u res) ∧
            ((∀ e ∈ b.journal, e.bootno.toNat ≤ b.bootno.toNat) → u.boot.bootno = b.bootno + 1)) ∧
          (4 ≤ b.fails + 1 → u.boot.state = .bootFail ∧ (s.job.image = none → u.integ.evSeq = s.integ.evSeq + 1))) ∧
        (11 ≤ n → n ≤ 13 → b.failedNormal (n + 1) = false → u.boot.step.toNat = n + 1 ∧ recorded u res ∧ u.boot.fails = b.fails))

/-- R428, R567, R581, R582, R605, R621, R622: RESET_N low during a step from 6 on records it ABORTED and resumes at step
5, on a READY device starts a boot with no DOWN frame, and leaves NOR, fuses, journals, the GTC and trim offsets;
its rise ends the wait of step 5; a power fault ends the job with POWER_FAULT and resets the device; an AON reset
leaves only what NOR, the fuses and the hosts hold; AON_PWRGD's rise starts the GTC at 0 and step 1; powered time is
written each 60 s; a PERST rise trains a port that is CONNECTED. -/
def Obligations.ResetsLeaveWhatTheyMust : Prop :=
  ∀ (s : State),
    let pin (x : Bool) : State := { s with side := { s.side with resetN := x } }
    let kept (u : State) : Prop := u.boot.inReset = true ∧ u.gtc.count = s.gtc.count ∧ u.nor = s.nor ∧ u.fuses = s.fuses ∧
      u.power.coreOfs = s.power.coreOfs ∧ u.integ.repairs = s.integ.repairs ∧ u.integ.confirmed = s.integ.confirmed ∧
      u.mem = [] ∧ u.job.image = none ∧ (∀ t, u.tile t = State.reset.tile t) ∧ (∀ c, u.cluster c = State.reset.cluster c)
    (s.booting = true → s.boot.step.toNat ≤ 5 → exec .resetNAssert s = .next (pin false)) ∧
    (s.booting = true → 6 ≤ s.boot.step.toNat → s.boot.journal.length + 2 ≤ 4096 →
      ∃ u e f, exec .resetNAssert s = .next u ∧ kept u ∧ u.hostA = s.hostA ∧ u.hostB = s.hostB ∧ u.side.resetN = false ∧ u.boot.step = 5 ∧ u.boot.rstcause = 1 ∧
        u.boot.bootno = s.boot.bootno ∧ u.boot.journal = s.boot.journal ++ [e, f] ∧ e.res = .aborted ∧
        e.step.toNat = s.boot.step.toNat ∧ f.res = .started ∧ f.step = 5 ∧ ∀ p, (u.port p).outbox = []) ∧
    (s.boot.state = .ready → s.side.aonPwrgd = true →
      ∃ u, exec .resetNAssert s = .next u ∧ kept u ∧ u.side.resetN = false ∧ u.boot.step = 1 ∧ u.boot.state = .rom ∧
        u.boot.rstcause = 1 ∧ ∀ p, (u.port p).outbox = []) ∧
    (s.boot.state = .bootFail ∨ s.boot.state = .recovery ∨ s.side.aonPwrgd = false → exec .resetNAssert s = .next (pin false)) ∧
    (s.booting = true → s.boot.step = 5 → ∃ u, exec .resetNRelease s = .next u ∧ u.side.resetN = true ∧ u.boot.step = 6 ∧
      u.power.powerFlt = false ∧ u.boot.bootno = s.boot.bootno) ∧
    (s.booting = false ∨ s.boot.step ≠ 5 → exec .resetNRelease s = .next (pin true)) ∧
    (s.side.aonPwrgd = true → ∃ u, exec .powerFault s = .next u ∧ kept u ∧ u.power.powerFlt = true ∧
      (s.job.image = none → u.integ.evSeq = s.integ.evSeq + 1) ∧
      (s.job.image.isSome = true → s.job.pending = none → u.job.last = some ⟨8, 0x22⟩) ∧
      (s.boot.state ≠ .recovery → s.boot.state ≠ .bootFail → u.boot.step = 1 ∧ u.boot.rstcause = 3)) ∧
    (s.side.aonPwrgd = false → exec .powerFault s = .next s) ∧
    (∃ u, exec .aonReset s = .next u ∧ u.tiles = State.reset.tiles ∧ u.clusters = State.reset.clusters ∧ u.gtc = State.reset.gtc ∧
      u.job = State.reset.job ∧ u.routers = State.reset.routers ∧ u.ports = State.reset.ports ∧ u.cp = State.reset.cp ∧
      u.lom = State.reset.lom ∧ u.mem = [] ∧ u.power.thermtrip = false ∧ u.power.stretch = State.reset.power.stretch ∧
      u.power.op = 0 ∧ u.side.aonPwrgd = false ∧ u.boot.state = .rom ∧ u.boot.journal = s.boot.journal ∧ u.integ.repairs = s.integ.repairs ∧
      u.integ.confirmed = s.integ.confirmed ∧ u.power.histCore = s.power.histCore ∧ u.fuses = s.fuses ∧ u.hostA = s.hostA ∧
      u.hostB = s.hostB ∧ (s.lom.norOp = none → u.nor = s.nor) ∧
      ∀ o, s.lom.norOp = some o → ∀ a, a < o.addr ∨ o.addr + o.data.length ≤ a → Memory.read 0xFF u.nor a = Memory.read 0xFF s.nor a) ∧
    (s.side.aonPwrgd = false → ∃ u, exec .aonPwrgdRise s = .next u ∧ u.side.aonPwrgd = true ∧ u.gtc.count = 0 ∧ u.boot.step = 1 ∧
      u.boot.rstcause = 0 ∧ u.boot.state = .rom ∧ u.nor = s.nor) ∧
    (s.side.aonPwrgd = true → exec .aonPwrgdRise s = .next s) ∧
    (s.side.aonPwrgd = true → exec .ptimeJournal s = .next { s with boot := { s.boot with
        ptime := s.boot.ptime + 60, histPtime := s.boot.ptime + 60 } }) ∧
    (∀ p : PciePort, ∃ u, exec (.perstRise p) s = .next u ∧ (u.fn p).perst = true ∧ u = { s with ouvzu := u.ouvzu } ∧
      u.fn (pcieOther p) = s.fn (pcieOther p) ∧
      (∀ c, s.boot.cfg = some c → (match p with | .a => c.connA | .b => c.connB) = true → s.boot.state = .ready → s.boot.inReset = false →
        u.fn p = { s.fn p with perst := true, linkUp := true }) ∧
      (s.boot.cfg = none ∨ s.boot.inReset = true → u.fn p = { s.fn p with perst := true }))

/-- R41, R60, R65: in every format a code stands for the value that R41 gives its sign, exponent and fraction, its top
codes for what the table says, and the largest finite value is the table's; a finite code encodes to itself without
a flag, and a value within the format's range to a finite code: by RNE (field 0) a nearest one, the even one of two
equally near, by RTZ (1) the largest magnitude not above its own, by RDN (2) the greatest value not above it, by RUP
(3) the least not below it. -/
def Obligations.FormatsDecodeAndRoundAsGiven : Prop :=
  [Rnd.ofField 0, Rnd.ofField 1, Rnd.ofField 2, Rnd.ofField 3] = [.rne, .rtz, .rdn, .rup] ∧
  (∀ x ∈ [(fFP64, TopCodes.ieee, 11, 52, 1023, (2 - (2 : Rat) ^ (-52 : Int)) * 2 ^ 1023), (fFP32, .ieee, 8, 23, 127, (2 - (2 : Rat) ^ (-23 : Int)) * 2 ^ 127),
      (fBF16, .ieee, 8, 7, 127, (2 - (2 : Rat) ^ (-7 : Int)) * 2 ^ 127), (fFP16, .ieee, 5, 10, 15, 65504), (fE4M3, .nanOnly, 4, 3, 7, 448),
      (fE5M2, .ieee, 5, 2, 15, 57344), (fE3M2, .none, 3, 2, 3, 28), (fE2M3, .none, 2, 3, 1, 15 / 2), (fE2M1, .none, 2, 1, 1, 6),
      (fM8S, .none, 4, 3, 7, 480), (fM8U, .none, 5, 3, 15, 122880)],
    (x.1.top, x.1.w, x.1.t, x.1.bias, (x.1.decode x.1.maxMag).rat) = x.2 ∧ x.1.signed = !decide (x.1 = fM8U)) ∧
  ∀ f ∈ floatFormats,
    let sat := decide (f.top = .none)
    let val (c : Nat) : Rat := (f.decode c).rat
    (∀ c < 2 ^ f.width,
      let neg := f.signed && c.testBit (f.w + f.t)
      let e := c / 2 ^ f.t % 2 ^ f.w
      let fr := c % 2 ^ f.t
      (f.finite c ↔ match f.top with
        | .ieee => e ≠ 2 ^ f.w - 1
        | .nanOnly => ¬ (e = 2 ^ f.w - 1 ∧ fr = 2 ^ f.t - 1)
        | .none => True) ∧
      (f.finite c → val c = (if neg then -1 else 1) * (if e = 0 then (2 : Rat) ^ (1 - (f.bias : Int)) * (fr / 2 ^ f.t)
        else (2 : Rat) ^ ((e : Int) - f.bias) * (1 + fr / 2 ^ f.t))) ∧
      (¬ f.finite c → f.decode c = if f.top = .ieee ∧ fr = 0 then .inf neg else .nan)) ∧
    (∀ r c, f.finite c → f.encode r sat (f.decode c) = (c, 0)) ∧
    (∀ (r : Rnd) (neg : Bool) (m : Nat) (e : Int), f.signed = true ∨ neg = false →
      let v : Rat := (FV.fin neg m e).rat
      |v| ≤ val f.maxMag →
      let c := (f.encode r sat (.fin neg m e)).1
      f.finite c ∧ ∀ d, f.finite d →
        (r = .rne → |val c - v| ≤ |val d - v| ∧ (|val c - v| = |val d - v| → val c ≠ val d → c % 2 = 0)) ∧
        (r = .rtz → |val c| ≤ |v| ∧ (|val d| ≤ |v| → |val d| ≤ |val c|)) ∧
        (r = .rdn → val c ≤ v ∧ (val d ≤ v → val d ≤ val c)) ∧
        (r = .rup → v ≤ val c ∧ (v ≤ val d → val c ≤ val d)))

/-- A step runs the command at the front of the queue, and nothing else of the queue changes (the block's queue is the
model's own). With an empty queue a GTC count passes, the model's choice (log entry 4): R428's counter grows by one
when AON_PWRGD is high and nothing slews. -/
def Obligations.StepRunsTheFrontCommand : Prop :=
  (∀ (s : State) (c : Instr) (rest : List Instr), step { s with pending := c :: rest } = exec c { s with pending := rest }) ∧
  ∀ s : State, s.pending = [] →
    ∃ u, step s = .next u ∧ (s.side.aonPwrgd = false → u = s) ∧
      (s.side.aonPwrgd = true → s.gtc.slew = 0 → s.gtc.count ≠ BitVec.allOnes 64 → u.gtc.count = s.gtc.count + 1) ∧
      u.pending = [] ∧ u.fuses = s.fuses ∧ u.nor = s.nor ∧ u.hostA = s.hostA ∧ u.hostB = s.hostB

/-- A command whose operands have the lengths the manual gives them (R345, R379, R488, R490, R577, R597, R600) always
ends in a next state; any other is refused by name. -/
def Obligations.EveryWellFormedCommandCompletes : Prop :=
  ∀ (s : State) (c : Instr), (c.WellFormed = true → ∃ u, exec c s = .next u) ∧
    (c.WellFormed = false → ∃ name, exec c s = .refused (.illFormed name))

/-- The memories keep their canonical form through every step: strictly rising addresses, and no byte listed that equals
what an unlisted one reads as (the form is the model's, log entry 2).

R592: the fused identity never changes: no step changes a fuse, and the identity record's fused fields stay what
they were. -/
def Obligations.StepsKeepMemoriesAndIdentity : Prop :=
  (∀ s t : State, s.memWf → step s = .next t → t.memWf) ∧
  (∀ s t : State, step s = .next t → t.fuses = s.fuses ∧ t.identity.take 20 = s.identity.take 20)

/-- R12, R198, R354, R428, R442, R469, R481, R485, R594, R602, R604, R605: the state after reset: memories canonical and
empty, no command waiting or fetched, every counter 0, the GTC at 0, no image, no port in service, EN and RDY clear,
no queue, the SMC in its ROM with SEQ 1. -/
def Obligations.ResetStateIsAsDescribed : Prop :=
  let s := State.reset
  s.memWf ∧ s.queueWf ∧ s.pending = [] ∧ s.mem = [] ∧ s.gtc.count = 0 ∧ s.gtc.thaw = 0 ∧ s.job.image = none ∧ s.job.step = 0 ∧
    s.job.running = false ∧ s.ouvzu.cmds = [] ∧ s.ouvzu.queues = [] ∧ s.ouvzu.grants = [] ∧ s.ouvzu.nCmds = 0 ∧
    (∀ p, (s.fn p).en = false ∧ (s.fn p).rdy = false) ∧ (∀ p, (s.port p).active = false) ∧
    (∀ c, (s.cluster c).engFault = 0) ∧ (∀ t, (s.tile t).fpstat = 0 ∧ (s.tile t).matQ = []) ∧
    s.boot.state = .rom ∧ s.boot.step = 0 ∧ s.boot.rstcause = 0 ∧ s.lom.seq = 1 ∧ s.lom.tx = 0 ∧ s.lom.deny = 0 ∧
    s.side.accErr = false ∧ s.side.frameErr = false ∧ s.side.extra = 0 ∧ s.power.plimit = 2000 ∧ s.power.tdisc = 5 ∧
    (∀ d, (s.router d).lock = false)
end

