-- ==== Sys2Proof/Laws/Parts.lean ====
section
/-!
SUPPORT. Reading a part of the state after a part has been replaced: tiles, clusters, ports, routers, stacks and
PCIe ports, each by its own index.
-/
namespace Sys2Proof.Machine

@[simp] theorem State.tile_setTile (s : State) (t : TileId) (x : Tile) : (s.setTile t x).tile t = x := by
  simp [State.tile, State.setTile]

theorem State.tile_setTile_ne (s : State) {t t' : TileId} (x : Tile) (h : t' ≠ t) :
    (s.setTile t x).tile t' = s.tile t' := by
  have h' : t.val ≠ t'.val := fun e => h (Fin.ext e.symm)
  simp [State.tile, State.setTile, h']

@[simp] theorem State.setTile_setTile (s : State) (t : TileId) (x y : Tile) :
    (s.setTile t x).setTile t y = s.setTile t y := by
  simp [State.setTile]

@[simp] theorem State.setTile_tile (s : State) (t : TileId) : s.setTile t (s.tile t) = s := by
  simp [State.setTile, State.tile]

@[simp] theorem State.tile_modTile (s : State) (t : TileId) (f : Tile → Tile) :
    (s.modTile t f).tile t = f (s.tile t) := by simp [State.modTile]

theorem State.tile_modTile_ne (s : State) {t t' : TileId} (f : Tile → Tile) (h : t' ≠ t) :
    (s.modTile t f).tile t' = s.tile t' := by simp [State.modTile, State.tile_setTile_ne s _ h]

@[simp] theorem State.modTile_modTile (s : State) (t : TileId) (f g : Tile → Tile) :
    (s.modTile t f).modTile t g = s.modTile t fun x => g (f x) := by simp [State.modTile]

@[simp] theorem State.modSeq_eq (s : State) (t : TileId) (f : Seq → Seq) :
    s.modSeq t f = s.modTile t fun x => { x with seq := f x.seq } := rfl

@[simp] theorem State.cluster_modCluster (s : State) (c : ClusterId) (f : Cluster → Cluster) :
    (s.modCluster c f).cluster c = f (s.cluster c) := by simp [State.cluster, State.modCluster]

@[simp] theorem State.port_modPort (s : State) (p : PortId) (f : LPort → LPort) :
    (s.modPort p f).port p = f (s.port p) := by simp [State.port, State.modPort]

theorem State.port_modPort_ne (s : State) {p p' : PortId} (f : LPort → LPort) (h : p' ≠ p) :
    (s.modPort p f).port p' = s.port p' := by
  have h' : p.val ≠ p'.val := fun e => h (Fin.ext e.symm)
  simp [State.port, State.modPort, h']

@[simp] theorem State.router_modRouter (s : State) (d : Die) (f : Router → Router) :
    (s.modRouter d f).router d = f (s.router d) := by simp [State.router, State.modRouter]

@[simp] theorem State.stack_modStack (s : State) (k : StackId) (f : Stack → Stack) :
    (s.modStack k f).stack k = f (s.stack k) := by simp [State.stack, State.modStack]

@[simp] theorem State.fn_modFn (s : State) (p : PciePort) (f : PciFn → PciFn) :
    (s.modFn p f).fn p = f (s.fn p) := by simp [State.fn, State.modFn]

end Sys2Proof.Machine
end

