-- ==== Sys2Proof/Laws/State.lean ====
section
/-!
SUPPORT. What each replacement of a part leaves of the state's other fields, true by definition.
-/
namespace Sys2Proof.Machine

@[simp] theorem State.setTile_clusters (s : State) (t : TileId) (x : Tile) : (s.setTile t x).clusters = s.clusters := rfl
@[simp] theorem State.setTile_hbm (s : State) (t : TileId) (x : Tile) : (s.setTile t x).hbm = s.hbm := rfl
@[simp] theorem State.setTile_ports (s : State) (t : TileId) (x : Tile) : (s.setTile t x).ports = s.ports := rfl
@[simp] theorem State.setTile_spares (s : State) (t : TileId) (x : Tile) : (s.setTile t x).spares = s.spares := rfl
@[simp] theorem State.setTile_routers (s : State) (t : TileId) (x : Tile) : (s.setTile t x).routers = s.routers := rfl
@[simp] theorem State.setTile_cp (s : State) (t : TileId) (x : Tile) : (s.setTile t x).cp = s.cp := rfl
@[simp] theorem State.setTile_gtc (s : State) (t : TileId) (x : Tile) : (s.setTile t x).gtc = s.gtc := rfl
@[simp] theorem State.setTile_job (s : State) (t : TileId) (x : Tile) : (s.setTile t x).job = s.job := rfl
@[simp] theorem State.setTile_ouvzu (s : State) (t : TileId) (x : Tile) : (s.setTile t x).ouvzu = s.ouvzu := rfl
@[simp] theorem State.setTile_integ (s : State) (t : TileId) (x : Tile) : (s.setTile t x).integ = s.integ := rfl
@[simp] theorem State.setTile_ckpt (s : State) (t : TileId) (x : Tile) : (s.setTile t x).ckpt = s.ckpt := rfl
@[simp] theorem State.setTile_power (s : State) (t : TileId) (x : Tile) : (s.setTile t x).power = s.power := rfl
@[simp] theorem State.setTile_fuses (s : State) (t : TileId) (x : Tile) : (s.setTile t x).fuses = s.fuses := rfl
@[simp] theorem State.setTile_boot (s : State) (t : TileId) (x : Tile) : (s.setTile t x).boot = s.boot := rfl
@[simp] theorem State.setTile_lom (s : State) (t : TileId) (x : Tile) : (s.setTile t x).lom = s.lom := rfl
@[simp] theorem State.setTile_side (s : State) (t : TileId) (x : Tile) : (s.setTile t x).side = s.side := rfl
@[simp] theorem State.setTile_mem (s : State) (t : TileId) (x : Tile) : (s.setTile t x).mem = s.mem := rfl
@[simp] theorem State.setTile_hostA (s : State) (t : TileId) (x : Tile) : (s.setTile t x).hostA = s.hostA := rfl
@[simp] theorem State.setTile_hostB (s : State) (t : TileId) (x : Tile) : (s.setTile t x).hostB = s.hostB := rfl
@[simp] theorem State.setTile_nor (s : State) (t : TileId) (x : Tile) : (s.setTile t x).nor = s.nor := rfl
@[simp] theorem State.setTile_free (s : State) (t : TileId) (x : Tile) : (s.setTile t x).free = s.free := rfl
@[simp] theorem State.setTile_pending (s : State) (t : TileId) (x : Tile) : (s.setTile t x).pending = s.pending := rfl

@[simp] theorem State.modTile_clusters (s : State) (t : TileId) (f : Tile → Tile) : (s.modTile t f).clusters = s.clusters := rfl
@[simp] theorem State.modTile_hbm (s : State) (t : TileId) (f : Tile → Tile) : (s.modTile t f).hbm = s.hbm := rfl
@[simp] theorem State.modTile_ports (s : State) (t : TileId) (f : Tile → Tile) : (s.modTile t f).ports = s.ports := rfl
@[simp] theorem State.modTile_spares (s : State) (t : TileId) (f : Tile → Tile) : (s.modTile t f).spares = s.spares := rfl
@[simp] theorem State.modTile_routers (s : State) (t : TileId) (f : Tile → Tile) : (s.modTile t f).routers = s.routers := rfl
@[simp] theorem State.modTile_cp (s : State) (t : TileId) (f : Tile → Tile) : (s.modTile t f).cp = s.cp := rfl
@[simp] theorem State.modTile_gtc (s : State) (t : TileId) (f : Tile → Tile) : (s.modTile t f).gtc = s.gtc := rfl
@[simp] theorem State.modTile_job (s : State) (t : TileId) (f : Tile → Tile) : (s.modTile t f).job = s.job := rfl
@[simp] theorem State.modTile_ouvzu (s : State) (t : TileId) (f : Tile → Tile) : (s.modTile t f).ouvzu = s.ouvzu := rfl
@[simp] theorem State.modTile_integ (s : State) (t : TileId) (f : Tile → Tile) : (s.modTile t f).integ = s.integ := rfl
@[simp] theorem State.modTile_ckpt (s : State) (t : TileId) (f : Tile → Tile) : (s.modTile t f).ckpt = s.ckpt := rfl
@[simp] theorem State.modTile_power (s : State) (t : TileId) (f : Tile → Tile) : (s.modTile t f).power = s.power := rfl
@[simp] theorem State.modTile_fuses (s : State) (t : TileId) (f : Tile → Tile) : (s.modTile t f).fuses = s.fuses := rfl
@[simp] theorem State.modTile_boot (s : State) (t : TileId) (f : Tile → Tile) : (s.modTile t f).boot = s.boot := rfl
@[simp] theorem State.modTile_lom (s : State) (t : TileId) (f : Tile → Tile) : (s.modTile t f).lom = s.lom := rfl
@[simp] theorem State.modTile_side (s : State) (t : TileId) (f : Tile → Tile) : (s.modTile t f).side = s.side := rfl
@[simp] theorem State.modTile_mem (s : State) (t : TileId) (f : Tile → Tile) : (s.modTile t f).mem = s.mem := rfl
@[simp] theorem State.modTile_hostA (s : State) (t : TileId) (f : Tile → Tile) : (s.modTile t f).hostA = s.hostA := rfl
@[simp] theorem State.modTile_hostB (s : State) (t : TileId) (f : Tile → Tile) : (s.modTile t f).hostB = s.hostB := rfl
@[simp] theorem State.modTile_nor (s : State) (t : TileId) (f : Tile → Tile) : (s.modTile t f).nor = s.nor := rfl
@[simp] theorem State.modTile_free (s : State) (t : TileId) (f : Tile → Tile) : (s.modTile t f).free = s.free := rfl
@[simp] theorem State.modTile_pending (s : State) (t : TileId) (f : Tile → Tile) : (s.modTile t f).pending = s.pending := rfl

@[simp] theorem State.modCluster_tiles (s : State) (c : ClusterId) (f : Cluster → Cluster) : (s.modCluster c f).tiles = s.tiles := rfl
@[simp] theorem State.modCluster_hbm (s : State) (c : ClusterId) (f : Cluster → Cluster) : (s.modCluster c f).hbm = s.hbm := rfl
@[simp] theorem State.modCluster_ports (s : State) (c : ClusterId) (f : Cluster → Cluster) : (s.modCluster c f).ports = s.ports := rfl
@[simp] theorem State.modCluster_spares (s : State) (c : ClusterId) (f : Cluster → Cluster) : (s.modCluster c f).spares = s.spares := rfl
@[simp] theorem State.modCluster_routers (s : State) (c : ClusterId) (f : Cluster → Cluster) : (s.modCluster c f).routers = s.routers := rfl
@[simp] theorem State.modCluster_cp (s : State) (c : ClusterId) (f : Cluster → Cluster) : (s.modCluster c f).cp = s.cp := rfl
@[simp] theorem State.modCluster_gtc (s : State) (c : ClusterId) (f : Cluster → Cluster) : (s.modCluster c f).gtc = s.gtc := rfl
@[simp] theorem State.modCluster_job (s : State) (c : ClusterId) (f : Cluster → Cluster) : (s.modCluster c f).job = s.job := rfl
@[simp] theorem State.modCluster_ouvzu (s : State) (c : ClusterId) (f : Cluster → Cluster) : (s.modCluster c f).ouvzu = s.ouvzu := rfl
@[simp] theorem State.modCluster_integ (s : State) (c : ClusterId) (f : Cluster → Cluster) : (s.modCluster c f).integ = s.integ := rfl
@[simp] theorem State.modCluster_ckpt (s : State) (c : ClusterId) (f : Cluster → Cluster) : (s.modCluster c f).ckpt = s.ckpt := rfl
@[simp] theorem State.modCluster_power (s : State) (c : ClusterId) (f : Cluster → Cluster) : (s.modCluster c f).power = s.power := rfl
@[simp] theorem State.modCluster_fuses (s : State) (c : ClusterId) (f : Cluster → Cluster) : (s.modCluster c f).fuses = s.fuses := rfl
@[simp] theorem State.modCluster_boot (s : State) (c : ClusterId) (f : Cluster → Cluster) : (s.modCluster c f).boot = s.boot := rfl
@[simp] theorem State.modCluster_lom (s : State) (c : ClusterId) (f : Cluster → Cluster) : (s.modCluster c f).lom = s.lom := rfl
@[simp] theorem State.modCluster_side (s : State) (c : ClusterId) (f : Cluster → Cluster) : (s.modCluster c f).side = s.side := rfl
@[simp] theorem State.modCluster_mem (s : State) (c : ClusterId) (f : Cluster → Cluster) : (s.modCluster c f).mem = s.mem := rfl
@[simp] theorem State.modCluster_hostA (s : State) (c : ClusterId) (f : Cluster → Cluster) : (s.modCluster c f).hostA = s.hostA := rfl
@[simp] theorem State.modCluster_hostB (s : State) (c : ClusterId) (f : Cluster → Cluster) : (s.modCluster c f).hostB = s.hostB := rfl
@[simp] theorem State.modCluster_nor (s : State) (c : ClusterId) (f : Cluster → Cluster) : (s.modCluster c f).nor = s.nor := rfl
@[simp] theorem State.modCluster_free (s : State) (c : ClusterId) (f : Cluster → Cluster) : (s.modCluster c f).free = s.free := rfl
@[simp] theorem State.modCluster_pending (s : State) (c : ClusterId) (f : Cluster → Cluster) : (s.modCluster c f).pending = s.pending := rfl

@[simp] theorem State.modPort_tiles (s : State) (p : PortId) (f : LPort → LPort) : (s.modPort p f).tiles = s.tiles := rfl
@[simp] theorem State.modPort_clusters (s : State) (p : PortId) (f : LPort → LPort) : (s.modPort p f).clusters = s.clusters := rfl
@[simp] theorem State.modPort_hbm (s : State) (p : PortId) (f : LPort → LPort) : (s.modPort p f).hbm = s.hbm := rfl
@[simp] theorem State.modPort_spares (s : State) (p : PortId) (f : LPort → LPort) : (s.modPort p f).spares = s.spares := rfl
@[simp] theorem State.modPort_routers (s : State) (p : PortId) (f : LPort → LPort) : (s.modPort p f).routers = s.routers := rfl
@[simp] theorem State.modPort_cp (s : State) (p : PortId) (f : LPort → LPort) : (s.modPort p f).cp = s.cp := rfl
@[simp] theorem State.modPort_gtc (s : State) (p : PortId) (f : LPort → LPort) : (s.modPort p f).gtc = s.gtc := rfl
@[simp] theorem State.modPort_job (s : State) (p : PortId) (f : LPort → LPort) : (s.modPort p f).job = s.job := rfl
@[simp] theorem State.modPort_ouvzu (s : State) (p : PortId) (f : LPort → LPort) : (s.modPort p f).ouvzu = s.ouvzu := rfl
@[simp] theorem State.modPort_integ (s : State) (p : PortId) (f : LPort → LPort) : (s.modPort p f).integ = s.integ := rfl
@[simp] theorem State.modPort_ckpt (s : State) (p : PortId) (f : LPort → LPort) : (s.modPort p f).ckpt = s.ckpt := rfl
@[simp] theorem State.modPort_power (s : State) (p : PortId) (f : LPort → LPort) : (s.modPort p f).power = s.power := rfl
@[simp] theorem State.modPort_fuses (s : State) (p : PortId) (f : LPort → LPort) : (s.modPort p f).fuses = s.fuses := rfl
@[simp] theorem State.modPort_boot (s : State) (p : PortId) (f : LPort → LPort) : (s.modPort p f).boot = s.boot := rfl
@[simp] theorem State.modPort_lom (s : State) (p : PortId) (f : LPort → LPort) : (s.modPort p f).lom = s.lom := rfl
@[simp] theorem State.modPort_side (s : State) (p : PortId) (f : LPort → LPort) : (s.modPort p f).side = s.side := rfl
@[simp] theorem State.modPort_mem (s : State) (p : PortId) (f : LPort → LPort) : (s.modPort p f).mem = s.mem := rfl
@[simp] theorem State.modPort_hostA (s : State) (p : PortId) (f : LPort → LPort) : (s.modPort p f).hostA = s.hostA := rfl
@[simp] theorem State.modPort_hostB (s : State) (p : PortId) (f : LPort → LPort) : (s.modPort p f).hostB = s.hostB := rfl
@[simp] theorem State.modPort_nor (s : State) (p : PortId) (f : LPort → LPort) : (s.modPort p f).nor = s.nor := rfl
@[simp] theorem State.modPort_free (s : State) (p : PortId) (f : LPort → LPort) : (s.modPort p f).free = s.free := rfl
@[simp] theorem State.modPort_pending (s : State) (p : PortId) (f : LPort → LPort) : (s.modPort p f).pending = s.pending := rfl

@[simp] theorem State.modRouter_tiles (s : State) (d : Die) (f : Router → Router) : (s.modRouter d f).tiles = s.tiles := rfl
@[simp] theorem State.modRouter_clusters (s : State) (d : Die) (f : Router → Router) : (s.modRouter d f).clusters = s.clusters := rfl
@[simp] theorem State.modRouter_hbm (s : State) (d : Die) (f : Router → Router) : (s.modRouter d f).hbm = s.hbm := rfl
@[simp] theorem State.modRouter_ports (s : State) (d : Die) (f : Router → Router) : (s.modRouter d f).ports = s.ports := rfl
@[simp] theorem State.modRouter_spares (s : State) (d : Die) (f : Router → Router) : (s.modRouter d f).spares = s.spares := rfl
@[simp] theorem State.modRouter_cp (s : State) (d : Die) (f : Router → Router) : (s.modRouter d f).cp = s.cp := rfl
@[simp] theorem State.modRouter_gtc (s : State) (d : Die) (f : Router → Router) : (s.modRouter d f).gtc = s.gtc := rfl
@[simp] theorem State.modRouter_job (s : State) (d : Die) (f : Router → Router) : (s.modRouter d f).job = s.job := rfl
@[simp] theorem State.modRouter_ouvzu (s : State) (d : Die) (f : Router → Router) : (s.modRouter d f).ouvzu = s.ouvzu := rfl
@[simp] theorem State.modRouter_integ (s : State) (d : Die) (f : Router → Router) : (s.modRouter d f).integ = s.integ := rfl
@[simp] theorem State.modRouter_ckpt (s : State) (d : Die) (f : Router → Router) : (s.modRouter d f).ckpt = s.ckpt := rfl
@[simp] theorem State.modRouter_power (s : State) (d : Die) (f : Router → Router) : (s.modRouter d f).power = s.power := rfl
@[simp] theorem State.modRouter_fuses (s : State) (d : Die) (f : Router → Router) : (s.modRouter d f).fuses = s.fuses := rfl
@[simp] theorem State.modRouter_boot (s : State) (d : Die) (f : Router → Router) : (s.modRouter d f).boot = s.boot := rfl
@[simp] theorem State.modRouter_lom (s : State) (d : Die) (f : Router → Router) : (s.modRouter d f).lom = s.lom := rfl
@[simp] theorem State.modRouter_side (s : State) (d : Die) (f : Router → Router) : (s.modRouter d f).side = s.side := rfl
@[simp] theorem State.modRouter_mem (s : State) (d : Die) (f : Router → Router) : (s.modRouter d f).mem = s.mem := rfl
@[simp] theorem State.modRouter_hostA (s : State) (d : Die) (f : Router → Router) : (s.modRouter d f).hostA = s.hostA := rfl
@[simp] theorem State.modRouter_hostB (s : State) (d : Die) (f : Router → Router) : (s.modRouter d f).hostB = s.hostB := rfl
@[simp] theorem State.modRouter_nor (s : State) (d : Die) (f : Router → Router) : (s.modRouter d f).nor = s.nor := rfl
@[simp] theorem State.modRouter_free (s : State) (d : Die) (f : Router → Router) : (s.modRouter d f).free = s.free := rfl
@[simp] theorem State.modRouter_pending (s : State) (d : Die) (f : Router → Router) : (s.modRouter d f).pending = s.pending := rfl

@[simp] theorem State.modStack_tiles (s : State) (k : StackId) (f : Stack → Stack) : (s.modStack k f).tiles = s.tiles := rfl
@[simp] theorem State.modStack_clusters (s : State) (k : StackId) (f : Stack → Stack) : (s.modStack k f).clusters = s.clusters := rfl
@[simp] theorem State.modStack_ports (s : State) (k : StackId) (f : Stack → Stack) : (s.modStack k f).ports = s.ports := rfl
@[simp] theorem State.modStack_spares (s : State) (k : StackId) (f : Stack → Stack) : (s.modStack k f).spares = s.spares := rfl
@[simp] theorem State.modStack_routers (s : State) (k : StackId) (f : Stack → Stack) : (s.modStack k f).routers = s.routers := rfl
@[simp] theorem State.modStack_cp (s : State) (k : StackId) (f : Stack → Stack) : (s.modStack k f).cp = s.cp := rfl
@[simp] theorem State.modStack_gtc (s : State) (k : StackId) (f : Stack → Stack) : (s.modStack k f).gtc = s.gtc := rfl
@[simp] theorem State.modStack_job (s : State) (k : StackId) (f : Stack → Stack) : (s.modStack k f).job = s.job := rfl
@[simp] theorem State.modStack_ouvzu (s : State) (k : StackId) (f : Stack → Stack) : (s.modStack k f).ouvzu = s.ouvzu := rfl
@[simp] theorem State.modStack_integ (s : State) (k : StackId) (f : Stack → Stack) : (s.modStack k f).integ = s.integ := rfl
@[simp] theorem State.modStack_ckpt (s : State) (k : StackId) (f : Stack → Stack) : (s.modStack k f).ckpt = s.ckpt := rfl
@[simp] theorem State.modStack_power (s : State) (k : StackId) (f : Stack → Stack) : (s.modStack k f).power = s.power := rfl
@[simp] theorem State.modStack_fuses (s : State) (k : StackId) (f : Stack → Stack) : (s.modStack k f).fuses = s.fuses := rfl
@[simp] theorem State.modStack_boot (s : State) (k : StackId) (f : Stack → Stack) : (s.modStack k f).boot = s.boot := rfl
@[simp] theorem State.modStack_lom (s : State) (k : StackId) (f : Stack → Stack) : (s.modStack k f).lom = s.lom := rfl
@[simp] theorem State.modStack_side (s : State) (k : StackId) (f : Stack → Stack) : (s.modStack k f).side = s.side := rfl
@[simp] theorem State.modStack_mem (s : State) (k : StackId) (f : Stack → Stack) : (s.modStack k f).mem = s.mem := rfl
@[simp] theorem State.modStack_hostA (s : State) (k : StackId) (f : Stack → Stack) : (s.modStack k f).hostA = s.hostA := rfl
@[simp] theorem State.modStack_hostB (s : State) (k : StackId) (f : Stack → Stack) : (s.modStack k f).hostB = s.hostB := rfl
@[simp] theorem State.modStack_nor (s : State) (k : StackId) (f : Stack → Stack) : (s.modStack k f).nor = s.nor := rfl
@[simp] theorem State.modStack_free (s : State) (k : StackId) (f : Stack → Stack) : (s.modStack k f).free = s.free := rfl
@[simp] theorem State.modStack_pending (s : State) (k : StackId) (f : Stack → Stack) : (s.modStack k f).pending = s.pending := rfl

@[simp] theorem State.modFn_tiles (s : State) (p : PciePort) (f : PciFn → PciFn) : (s.modFn p f).tiles = s.tiles := rfl
@[simp] theorem State.modFn_clusters (s : State) (p : PciePort) (f : PciFn → PciFn) : (s.modFn p f).clusters = s.clusters := rfl
@[simp] theorem State.modFn_hbm (s : State) (p : PciePort) (f : PciFn → PciFn) : (s.modFn p f).hbm = s.hbm := rfl
@[simp] theorem State.modFn_ports (s : State) (p : PciePort) (f : PciFn → PciFn) : (s.modFn p f).ports = s.ports := rfl
@[simp] theorem State.modFn_spares (s : State) (p : PciePort) (f : PciFn → PciFn) : (s.modFn p f).spares = s.spares := rfl
@[simp] theorem State.modFn_routers (s : State) (p : PciePort) (f : PciFn → PciFn) : (s.modFn p f).routers = s.routers := rfl
@[simp] theorem State.modFn_cp (s : State) (p : PciePort) (f : PciFn → PciFn) : (s.modFn p f).cp = s.cp := rfl
@[simp] theorem State.modFn_gtc (s : State) (p : PciePort) (f : PciFn → PciFn) : (s.modFn p f).gtc = s.gtc := rfl
@[simp] theorem State.modFn_job (s : State) (p : PciePort) (f : PciFn → PciFn) : (s.modFn p f).job = s.job := rfl
@[simp] theorem State.modFn_integ (s : State) (p : PciePort) (f : PciFn → PciFn) : (s.modFn p f).integ = s.integ := rfl
@[simp] theorem State.modFn_ckpt (s : State) (p : PciePort) (f : PciFn → PciFn) : (s.modFn p f).ckpt = s.ckpt := rfl
@[simp] theorem State.modFn_power (s : State) (p : PciePort) (f : PciFn → PciFn) : (s.modFn p f).power = s.power := rfl
@[simp] theorem State.modFn_fuses (s : State) (p : PciePort) (f : PciFn → PciFn) : (s.modFn p f).fuses = s.fuses := rfl
@[simp] theorem State.modFn_boot (s : State) (p : PciePort) (f : PciFn → PciFn) : (s.modFn p f).boot = s.boot := rfl
@[simp] theorem State.modFn_lom (s : State) (p : PciePort) (f : PciFn → PciFn) : (s.modFn p f).lom = s.lom := rfl
@[simp] theorem State.modFn_side (s : State) (p : PciePort) (f : PciFn → PciFn) : (s.modFn p f).side = s.side := rfl
@[simp] theorem State.modFn_mem (s : State) (p : PciePort) (f : PciFn → PciFn) : (s.modFn p f).mem = s.mem := rfl
@[simp] theorem State.modFn_hostA (s : State) (p : PciePort) (f : PciFn → PciFn) : (s.modFn p f).hostA = s.hostA := rfl
@[simp] theorem State.modFn_hostB (s : State) (p : PciePort) (f : PciFn → PciFn) : (s.modFn p f).hostB = s.hostB := rfl
@[simp] theorem State.modFn_nor (s : State) (p : PciePort) (f : PciFn → PciFn) : (s.modFn p f).nor = s.nor := rfl
@[simp] theorem State.modFn_free (s : State) (p : PciePort) (f : PciFn → PciFn) : (s.modFn p f).free = s.free := rfl
@[simp] theorem State.modFn_pending (s : State) (p : PciePort) (f : PciFn → PciFn) : (s.modFn p f).pending = s.pending := rfl

end Sys2Proof.Machine
end

