-- ==== Sys2Proof/Laws/Issue.lean ====
section
/-!
SUPPORT. What issue, retirement and a commit event of the sequencer do, each said once.
-/
namespace Sys2Proof.Machine
open Host

/-- An instruction that issues and that the command takes does what `f` says. -/
theorem State.issue_of_issues {α : Type} {s : State} {t : TileId} {w : Word} {i : SInstr}
    (h : s.issues t w i) (sel : SInstr → Option α) (f : State → α → Option State) (a : α) (hs : sel i = some a) :
    s.issue t sel f = match f s a with | none => .next s | some u => .next u := by
  obtain ⟨h1, h2, h3, hc, h4, h5, h6, h7, h8⟩ := h
  have hr : (s.tile t).ready = true := by simp [Tile.ready, Seq.ready, h1, h2, h3, hc]
  have hg : (s.tile t).seq.guard (fPg w) (fPn w) = some true := by
    simp [Seq.guard, h6, h7]
  have hp : (i.scalars.any (s.tile t).seq.pending) = false := by
    simpa using h8
  unfold State.issue
  simp only [hr, h4, h5, hs, hg, hp]
  cases f s a <;> simp

/-- The digest bookkeeping of lock-step changes nothing but one tile's digests. -/
theorem State.digestOp_eq (s : State) (t : TileId) (u : TileUnit) (b : List Byte) :
    s.digestOp t u b = s.modTile t fun x =>
      { x with digests := if s.gtc.lsEn then x.digests.set u.ix (x.digests[u.ix].put none b) else x.digests } := by
  unfold State.digestOp State.modDigest
  split
  · rfl
  · exact (State.setTile_tile s t).symm

/-- A committed scalar instruction counts, and is carried into the tile's digest. -/
theorem State.emit_seq_none (s : State) (t : TileId) (b : List Byte) :
    s.emit t none (.op .seq b 0 0) = s.modTile t fun x =>
      { x with
        seq := { x.seq with nInstr := x.seq.nInstr + 1 }
        digests := if s.gtc.lsEn then x.digests.set 0 (x.digests[0].put none b) else x.digests } := by
  simp [State.emit, State.commitEv, State.digestOp_eq, TileUnit.ix, State.modTile]

/-- Under a tag an event waits with it. -/
theorem State.emit_some (s : State) (t : TileId) (g : Nat) (e : CommitEv) :
    s.emit t (some g) e = s.modTile t fun x => { x with seq := { x.seq with spec := x.seq.spec ++ [⟨g, e⟩] } } := rfl

/-- Retirement changes only the tile's sequencer and digests: PC moves, the instruction's place in issue order is
used up, and the commit is counted or waits with the tag. -/
theorem State.retire_eq (s : State) (t : TileId) (b : List Byte) (pc : Word) :
    s.retire t b pc = s.setTile t
      { s.tile t with
        seq := { (s.tile t).seq with
          pc := pc
          nextId := (s.tile t).seq.nextId + 1
          pcCom := if (s.tile t).seq.branches.isEmpty then pc else (s.tile t).seq.pcCom
          nInstr := match (s.tile t).seq.emitTag with
            | none => (s.tile t).seq.nInstr + 1 | some _ => (s.tile t).seq.nInstr
          spec := match (s.tile t).seq.emitTag with
            | none => (s.tile t).seq.spec
            | some g => (s.tile t).seq.spec ++ [⟨g, .op .seq b 0 0⟩] }
        digests := match (s.tile t).seq.emitTag with
          | none => if s.gtc.lsEn then (s.tile t).digests.set 0 ((s.tile t).digests[0].put none b) else (s.tile t).digests
          | some _ => (s.tile t).digests } := by
  unfold State.retire State.advance
  cases h : (s.tile t).seq.emitTag with
  | none => dsimp only; rw [State.emit_seq_none]; simp [State.modTile]
  | some g => dsimp only; rw [State.emit_some]; simp [State.modTile]

end Sys2Proof.Machine
end

