-- ==== Sys2Proof/Laws/Memory.lean ====
section
/-!
SUPPORT. The byte memories: every operation keeps their canonical form; what a read gives after a write.
-/
namespace Sys2Proof.Machine
open Host

/-! ### The canonical form -/

theorem Memory.wf_iff (unl : Byte) (m : List Cell) :
    Memory.wf unl m = true ↔ m.Pairwise (fun x y => x.1 < y.1) ∧ ∀ c ∈ m, c.2 ≠ unl := by
  simp [Memory.wf]

@[simp] theorem Memory.wf_nil (unl : Byte) : Memory.wf unl [] = true := by simp [Memory.wf]

theorem Memory.cells_bounds (unl : Byte) (bs : List Byte) (a : Nat) :
    ∀ c ∈ Memory.cells unl a bs, a ≤ c.1 ∧ c.1 < a + bs.length := by
  induction bs generalizing a with
  | nil => simp [Memory.cells]
  | cons b bs ih =>
    intro c hc
    have hl : (b :: bs).length = bs.length + 1 := rfl
    unfold Memory.cells at hc
    split at hc
    · have := ih (a + 1) c hc
      omega
    · rcases List.mem_cons.1 hc with rfl | hc
      · exact ⟨Nat.le_refl a, by omega⟩
      · have := ih (a + 1) c hc
        omega

theorem Memory.cells_ne (unl : Byte) (bs : List Byte) (a : Nat) : ∀ c ∈ Memory.cells unl a bs, c.2 ≠ unl := by
  induction bs generalizing a with
  | nil => simp [Memory.cells]
  | cons b bs ih =>
    intro c hc
    unfold Memory.cells at hc
    split at hc
    · exact ih (a + 1) c hc
    · rename_i hb
      rcases List.mem_cons.1 hc with rfl | hc
      · simpa using hb
      · exact ih (a + 1) c hc

theorem Memory.cells_rising (unl : Byte) (bs : List Byte) (a : Nat) :
    (Memory.cells unl a bs).Pairwise fun x y => x.1 < y.1 := by
  induction bs generalizing a with
  | nil => simp [Memory.cells]
  | cons b bs ih =>
    unfold Memory.cells
    split
    · exact ih (a + 1)
    · refine List.pairwise_cons.2 ⟨fun c hc => ?_, ih (a + 1)⟩
      have := Memory.cells_bounds unl bs (a + 1) c hc
      omega

/-- A write keeps the canonical form. -/
theorem Memory.writeBytes_wf {unl : Byte} {m : List Cell} (h : Memory.wf unl m = true) (a : Nat) (bs : List Byte) :
    Memory.wf unl (Memory.writeBytes unl m a bs) = true := by
  obtain ⟨hp, hn⟩ := (Memory.wf_iff unl m).1 h
  have hb := Memory.cells_bounds unl bs a
  refine (Memory.wf_iff unl _).2 ⟨?_, fun c hc => ?_⟩
  · unfold Memory.writeBytes
    refine List.pairwise_append.2 ⟨List.pairwise_append.2 ⟨hp.filter _, Memory.cells_rising unl bs a, ?_⟩, hp.filter _, ?_⟩
    · intro x hx y hy
      have h1 : x.1 < a := by simpa using (List.mem_filter.1 hx).2
      have := hb y hy
      omega
    · intro x hx y hy
      have h2 : a + bs.length ≤ y.1 := by simpa using (List.mem_filter.1 hy).2
      rcases List.mem_append.1 hx with hx | hx
      · have h1 : x.1 < a := by simpa using (List.mem_filter.1 hx).2
        omega
      · have := hb x hx
        omega
  · rcases List.mem_append.1 hc with hc | hc
    · rcases List.mem_append.1 hc with hc | hc
      · exact hn c (List.mem_filter.1 hc).1
      · exact Memory.cells_ne unl bs a c hc
    · exact hn c (List.mem_filter.1 hc).1

/-- Leaving out cells keeps the canonical form. -/
theorem Memory.filter_wf {unl : Byte} {m : List Cell} (h : Memory.wf unl m = true) (p : Cell → Bool) :
    Memory.wf unl (m.filter p) = true := by
  obtain ⟨hp, hn⟩ := (Memory.wf_iff unl m).1 h
  exact (Memory.wf_iff unl _).2 ⟨hp.filter p, fun c hc => hn c (List.mem_filter.1 hc).1⟩

/-- So does writing one cell after another. -/
theorem Memory.foldl_write_wf {unl : Byte} (l : List Cell) {m : List Cell} (h : Memory.wf unl m = true) :
    Memory.wf unl (l.foldl (fun m c => Memory.writeBytes unl m c.1 [c.2]) m) = true := by
  induction l generalizing m with
  | nil => exact h
  | cons c l ih => exact ih (Memory.writeBytes_wf h c.1 [c.2])

/-! ### What a read gives -/

theorem Memory.read_cells (unl : Byte) (bs : List Byte) (a k : Nat) :
    Memory.read unl (Memory.cells unl a bs) k = if a ≤ k ∧ k < a + bs.length then bs.getD (k - a) unl else unl := by
  induction bs generalizing a with
  | nil => simp [Memory.cells, Memory.read]
  | cons b bs ih =>
    have hl : (b :: bs).length = bs.length + 1 := rfl
    by_cases hk : k = a
    · subst hk
      have h1 : k ≤ k ∧ k < k + (b :: bs).length := by omega
      rw [if_pos h1]
      unfold Memory.cells
      split
      · rename_i hb
        rw [ih, if_neg (by omega)]
        simpa using (by simpa using hb : b = unl).symm
      · simp [Memory.read]
    · have hrest : Memory.read unl (Memory.cells unl a (b :: bs)) k = Memory.read unl (Memory.cells unl (a + 1) bs) k := by
        conv_lhs => unfold Memory.cells
        split
        · rfl
        · have : (a == k) = false := by simpa using fun h : a = k => hk h.symm
          simp [Memory.read, this]
      rw [hrest, ih]
      by_cases hin : a ≤ k ∧ k < a + (b :: bs).length
      · rw [if_pos hin, if_pos (by omega)]
        obtain ⟨j, hj⟩ : ∃ j, k - a = j + 1 := ⟨k - a - 1, by omega⟩
        have : k - (a + 1) = j := by omega
        simp [hj, this]
      · rw [if_neg hin, if_neg (by omega)]

theorem Memory.find?_of_lt {m : List Cell} {a : Nat} (h : ∀ c ∈ m, c.1 ≠ a) : (m.find? fun c => c.1 == a) = none := by
  simpa [List.find?_eq_none] using h

/-- A byte the write covers reads as what was written, every other as before. -/
theorem Memory.read_writeBytes (unl : Byte) (m : List Cell) (a : Nat) (bs : List Byte) (k : Nat) :
    Memory.read unl (Memory.writeBytes unl m a bs) k =
      if a ≤ k ∧ k < a + bs.length then bs.getD (k - a) unl else Memory.read unl m k := by
  have hc := Memory.read_cells unl bs a k
  have hb := Memory.cells_bounds unl bs a
  unfold Memory.writeBytes
  by_cases hin : a ≤ k ∧ k < a + bs.length
  · rw [if_pos hin] at hc ⊢
    have h1 : ((m.filter fun c => c.1 < a).find? fun c => c.1 == k) = none :=
      Memory.find?_of_lt fun c hc => by have : c.1 < a := by simpa using (List.mem_filter.1 hc).2
                                        omega
    have h2 : ((m.filter fun c => a + bs.length ≤ c.1).find? fun c => c.1 == k) = none :=
      Memory.find?_of_lt fun c hc => by have : a + bs.length ≤ c.1 := by simpa using (List.mem_filter.1 hc).2
                                        omega
    rw [← hc]
    simp only [Memory.read, List.find?_append, h1, h2, Option.none_or, Option.or_none]
  · rw [if_neg hin]
    have h2 : ((Memory.cells unl a bs).find? fun c => c.1 == k) = none :=
      Memory.find?_of_lt fun c hc => by have := hb c hc
                                        omega
    have h3 : ∀ p : Cell → Bool, (∀ c : Cell, c.1 = k → p c = true) →
        ((m.filter p).find? fun c => c.1 == k) = m.find? fun c => c.1 == k := by
      intro p hp
      rw [List.find?_filter]
      congr 1
      funext c
      by_cases hk : c.1 = k
      · simp [hp c hk, hk]
      · simp [hk]
    by_cases hlt : k < a
    · have h1 : ((m.filter fun c => a + bs.length ≤ c.1).find? fun c => c.1 == k) = none :=
        Memory.find?_of_lt fun c hc => by have : a + bs.length ≤ c.1 := by simpa using (List.mem_filter.1 hc).2
                                          omega
      simp only [Memory.read, List.find?_append, h1, h2, Option.or_none]
      rw [h3 _ fun c hk => by simpa [hk] using hlt]
    · have h1 : ((m.filter fun c => c.1 < a).find? fun c => c.1 == k) = none :=
        Memory.find?_of_lt fun c hc => by have : c.1 < a := by simpa using (List.mem_filter.1 hc).2
                                          omega
      simp only [Memory.read, List.find?_append, h1, h2, Option.none_or]
      rw [h3 _ fun c hk => by have : a + bs.length ≤ k := by omega
                              simpa [hk] using this]

theorem Memory.read_window (unl : Byte) (m : List Cell) (a n k : Nat) (h : a ≤ k ∧ k < a + n) :
    Memory.read unl (m.filter fun c => a ≤ c.1 && c.1 < a + n) k = Memory.read unl m k := by
  unfold Memory.read
  rw [List.find?_filter]
  congr 2
  funext c
  by_cases hk : c.1 = k
  · simp [hk, h.1, h.2]
  · simp [hk]

/-- A read of several bytes is the bytes one by one. -/
theorem Memory.readBytes_getElem? (unl : Byte) (m : List Cell) (a n i : Nat) (h : i < n) :
    (Memory.readBytes unl m a n)[i]? = some (Memory.read unl m (a + i)) := by
  unfold Memory.readBytes
  simp only [tab]
  simp [h, Memory.read_window unl m a n (a + i) ⟨by omega, by omega⟩]

@[simp] theorem Memory.readBytes_length (unl : Byte) (m : List Cell) (a n : Nat) :
    (Memory.readBytes unl m a n).length = n := by
  simp [Memory.readBytes, tab]

/-- What was written is read back. -/
theorem Memory.readBytes_writeBytes (unl : Byte) (m : List Cell) (a : Nat) (bs : List Byte) :
    Memory.readBytes unl (Memory.writeBytes unl m a bs) a bs.length = bs := by
  apply List.ext_getElem?
  intro i
  by_cases h : i < bs.length
  · rw [Memory.readBytes_getElem? unl _ a bs.length i h, Memory.read_writeBytes, if_pos ⟨by omega, by omega⟩]
    simp [h]
  · rw [List.getElem?_eq_none (by simpa using h), List.getElem?_eq_none (by omega)]

/-! ### The State's memories -/

/-- A write of map-addressed memory keeps every canonical form. -/
theorem State.wr_memWf {s : State} (h : s.memWf) (key : Nat) (bs : List Byte) : (s.wr key bs).memWf := by
  obtain ⟨h1, h2, h3, h4⟩ := h
  unfold State.wr
  dsimp only
  split
  · exact ⟨Memory.writeBytes_wf h1 key bs, h2, h3, h4⟩
  · exact ⟨Memory.writeBytes_wf h1 key bs, h2, h3, h4⟩

/-- So does one of host memory. -/
theorem State.hostWr_memWf {s : State} (h : s.memWf) (p : PciePort) (a : Nat) (bs : List Byte) : (s.hostWr p a bs).memWf := by
  obtain ⟨h1, h2, h3, h4⟩ := h
  cases p with
  | a => exact ⟨h1, Memory.writeBytes_wf h2 a bs, h3, h4⟩
  | b => exact ⟨h1, h2, Memory.writeBytes_wf h3 a bs, h4⟩

/-- A write of map-addressed memory changes only memory and the lines it clears (R276). -/
theorem State.wr_mem (s : State) (key : Nat) (bs : List Byte) : (s.wr key bs).mem = Memory.writeBytes 0 s.mem key bs := by
  unfold State.wr
  dsimp only
  split <;> rfl

end Sys2Proof.Machine
end

