-- ==== Sys2Proof/Tests/Slice0.lean ====
section
/-!
SUPPORT. Small tests: the ill-formed operands that each check refuses, a witness for the premises of every statement,
and a few results computed by hand from the manual. Expected values come from the manual's rules.
-/
namespace Sys2Proof.Tests
open Sys2Proof.Machine

set_option maxRecDepth 20000
set_option synthInstance.maxSize 4000
set_option synthInstance.maxHeartbeats 400000

/-! ### States -/

/-- A tile with no accumulator row and no statistic entry listed, to keep the tests small. -/
def tiny : Tile := { Tile.reset with
  acc := []
  rime := { Tile.reset.rime with slots := Vector.replicate 4 { Slot.closed with entries := [] } } }

/-- The reset state with such tiles. -/
def s0 : State := { State.reset with tiles := Vector.replicate 64 tiny }

/-- A word with the fields of R238 to R240: class, op, and bits [51:0]. -/
def insn (cls op rest : Nat) : Word := BitVec.ofNat 64 (cls * 2 ^ 60 + op * 2 ^ 52 + rest)

def modT (f : Tile → Tile) (s : State) : State := s.modTile 0 f
def modQ (f : Seq → Seq) (s : State) : State := s.modSeq 0 f
def memB (a : Nat) (l : List Byte) (s : State) : State := { s with mem := Memory.writeBytes 0 s.mem a l }

/-- Tile 0 runs at `pc` with `w` there, s1 = 3 and s2 = 5. -/
def atPc (pc : Nat) (w : Word) : State :=
  memB (poolBase 0 + pc) (leBytes 8 w.toNat)
    (modT (fun x => { x with
      streamLen := 4096
      seq := { x.seq with
        run := true, pc := BitVec.ofNat 64 pc, pcCom := BitVec.ofNat 64 pc, regs := (x.seq.regs.set 1 3).set 2 5 } }) s0)
def withIns (w : Word) : State := atPc 0 w

/-- A small image: topology 1 × 1 × 1, one region, no declaration. -/
def topo1 : Topo := ⟨1, 1, 1, 0, 0, 0, 0, 1, 1, 1, 1, 1, 77, [0]⟩
def im0 : Image := ⟨1, 2, 10, List.replicate 32 0, false, none, List.replicate 20 0, topo1, [], List.replicate 64 (0, 5), [], [],
  none, 0, []⟩
def jobI (f : Image → Image) (s : State) : State := { s with job := { s.job with image := some (f im0), running := true, launched := true } }
def job (f : Job → Job) (s : State) : State := { s with job := f s.job }
def gtc (f : Gtc → Gtc) (s : State) : State := { s with gtc := f s.gtc }
def ouv (f : Ouvzu → Ouvzu) (s : State) : State := { s with ouvzu := f s.ouvzu }
def fns (f : PciFn → PciFn) : State → State := ouv fun o => { o with fns := o.fns.map f }
def r1 (n : Nat) : State → State := modQ fun q => { q with regs := q.regs.set 1 (BitVec.ofNat 64 n) }
/-! ### Sequencers -/

def aluOps : List (AluOp × Nat) := [.add, .sub, .mul, .and, .or, .xor, .shl, .shr, .sra, .min, .max, .minu, .maxu].zip (List.range 13)
def cmpOps : List (CmpOp × Nat) := [.eq, .ne, .lt, .ge, .ltu, .geu].zip (List.range 6)
def wAlu (k rest : Nat) : Word := insn 0 k (3 * 2 ^ 43 + 1 * 2 ^ 38 + 2 * 2 ^ 33 + rest)
def wPset (k : Nat) : Word := insn 0 (16 + k) (2 * 2 ^ 43 + 1 * 2 ^ 38 + 2 * 2 ^ 33)

theorem witness_ScalarInstructionsWriteTheirResults :
    (∀ o ∈ aluOps, (withIns (wAlu o.2 0)).issues 0 (wAlu o.2 0) (.alu o.1 3 1 2 false 0)) ∧
    (∀ o ∈ aluOps, (withIns (wAlu o.2 (2 ^ 32 + 9))).issues 0 (wAlu o.2 (2 ^ 32 + 9)) (.alu o.1 3 1 2 true 9)) ∧
    (∀ o ∈ cmpOps, (withIns (wPset o.2)).issues 0 (wPset o.2) (.pset o.1 2 1 2 false 0)) ∧
    (∀ o ∈ aluOps, let w := wAlu o.2 (2 ^ 48); (withIns w).skips 0 w (.alu o.1 3 1 2 false 0)) ∧
    (∀ o ∈ cmpOps, let w := wPset o.2 + 2 ^ 48; (withIns w).skips 0 w (.pset o.1 2 1 2 false 0)) := by decide +kernel

def wLd (size : Nat) : Word := insn 1 0 (3 * 2 ^ 43 + 1 * 2 ^ 38 + size * 2 ^ 32 + 16)
def wPld (op : Nat) : Word := insn 1 op (2 * 2 ^ 43 + 1 * 2 ^ 38 + 3 * 2 ^ 32 + 16)
def sLd (w : Word) : State := r1 0 (withIns w)
def sRet (d : LoadDst) : State := modQ (fun q => { q with loads := [⟨7, none, 0, 0, 0, d, some 55⟩] }) (withIns 0)

theorem witness_LoadsReadMemoryAndReturn :
    (∀ z ∈ [0, 1, 2, 3], let w := wLd z; let s := sLd w; let a := (s.tile 0).seq.sreg 1 + (16 : BitVec 32).signExtend 64
      s.issues 0 w (.ld 3 1 0 (BitVec.ofNat 2 z) 16) ∧ s.loadsNow 0 0 ∧ a.toNat % 2 ^ z = 0 ∧
        s.locate (.seq 0) a.toNat = .mem (poolBase 0 + 16) ∧ s.readUe (poolBase 0 + 16) (2 ^ z) = none) ∧
    (∀ c ∈ [(PldCond.eq0, 2), (.ne0, 3), (.bit 0, 0x40)], let s := sLd (wPld c.2)
      s.issues 0 (wPld c.2) (.pld c.1 2 1 0 16) ∧ s.loadsNow 0 0 ∧
        s.locate (.seq 0) 16 = .mem (poolBase 0 + 16) ∧ s.readUe (poolBase 0 + 16) 8 = none) ∧
    (∀ d ∈ [LoadDst.reg 3 8, .pred 2 .eq0], let q := ((sRet d).tile 0).seq
      (∀ m ∈ q.loads, m.value.isSome = true) ∧ q.branches = [] ∧ q.loads[0]? = some ⟨7, none, 0, 0, 0, d, some 55⟩) := by
  decide +kernel

def wSt (size : Nat) : Word := insn 1 1 (2 * 2 ^ 43 + 1 * 2 ^ 38 + size * 2 ^ 32 + 4096)
def wAmo (k : Nat) : Word := insn 1 k (3 * 2 ^ 43 + 1 * 2 ^ 38 + 2 * 2 ^ 33 + 4 * 2 ^ 28)
/-- Tile 0 has issued a branch that is not resolved, as tag 4. -/
def tagged (s : State) : State :=
  modQ (fun q => { q with nextId := 9, branches := [⟨4, none, 3, 0, false, true, 0, q.regs, q.regPend, q.preds, 0, none⟩] }) s

theorem witness_StoresAndAtomicsWriteTheirBytes :
    (∀ z ∈ [0, 1, 2, 3], let w := wSt z; let s := sLd w; let q := (s.tile 0).seq
      s.issues 0 w (.st 2 1 0 (BitVec.ofNat 2 z) 4096) ∧ s.accessFault 0 4096 (2 ^ z) true = none ∧
        s.locate (.seq 0) 4096 = .mem (poolBase 0 + 4096) ∧ s.writeUe (poolBase 0 + 4096) (2 ^ z) = none ∧ q.branches = [] ∧
        q.deliver = [] ∧ q.stores = [] ∧ (s.tile 0).waitsDone 0 q.nextId = true ∧ ∀ l ∈ q.loads, l.value.isSome = true) ∧
    (let s := tagged (sLd (wSt 3)); let q := (s.tile 0).seq
      s.issues 0 (wSt 3) (.st 2 1 0 3 4096) ∧ s.accessFault 0 4096 8 true = none ∧ q.branches ≠ [] ∧
        (q.stores.filter fun e => e.tag.isSome).length < 16) ∧
    (∀ o ∈ [(AmoOp.add, 8), (.swp, 9), (.cas, 10)], let s := r1 4096 (withIns (wAmo o.2)); let q := (s.tile 0).seq
      s.issues 0 (wAmo o.2) (.amo o.1 3 1 2 (if o.1 = .cas then 4 else 4)) ∧ q.branches = [] ∧ q.deliver = [] ∧ q.stores = [] ∧
        (∀ l ∈ q.loads, l.value.isSome = true) ∧ s.accessFault 0 4096 8 true = none ∧
        s.locate (.seq 0) 4096 = .mem (poolBase 0 + 4096) ∧ s.readUe (poolBase 0 + 4096) 8 = none) := by decide +kernel

def wBad (st z : Nat) : Word := insn 1 st (2 * 2 ^ 43 + 1 * 2 ^ 38 + z * 2 ^ 32)
def sBad (st z a : Nat) : State := jobI id (r1 a (withIns (wBad st z)))

theorem witness_BadInstructionsFaultPrecisely :
    (sBad 0 3 4).issues 0 (wBad 0 3) (.ld 2 1 0 3 0) ∧ ((sBad 0 3 4).tile 0).seq.sreg 1 = 4 ∧ ((sBad 0 3 4).tile 0).seq.branches = [] ∧
    (sBad 1 3 4).issues 0 (wBad 1 3) (.st 2 1 0 3 0) ∧
    (sBad 0 3 0x700000).issues 0 (wBad 0 3) (.ld 2 1 0 3 0) ∧ (sBad 0 3 0x700000).locate (.seq 0) 0x700000 = .nothing ∧
    (sBad 1 0 0).issues 0 (wBad 1 0) (.st 2 1 0 0 0) ∧ (sBad 1 0 0).locate (.seq 0) 0 = .mem (poolBase 0) ∧
      (sBad 1 0 0).inStream (poolBase 0) = true ∧
    (sBad 1 2 0x200800000).issues 0 (wBad 1 2) (.st 2 1 0 2 0) ∧ (sBad 1 2 0x200800000).locate (.seq 0) 0x200800000 = .cpReg 0 ∧
    (let w := insn 15 0 0; let s := jobI id (withIns w); let q := (s.tile 0).seq
      q.run = true ∧ q.slotWait = none ∧ q.held = [] ∧ (s.tile 0).copHeld = false ∧ q.branches = [] ∧ s.fetch 0 = some w ∧ decodeIns w = none ∧
        (q.pred (fPg w)).awaits = none ∧ (q.pred (fPg w)).val ≠ fPn w ∧ s.job.image.isSome = true ∧ s.job.pending = none) ∧
    (jobI id (modQ (fun q => { q with pc := 4096 }) (withIns 0))).fetch 0 = none := by decide +kernel

def wBr (pb neg hint off : Nat) : Word := insn 2 0 (pb * 2 ^ 45 + neg * 2 ^ 44 + hint * 2 ^ 43 + off)
def br0 : Branch := ⟨4, none, 5, 0, false, true, 0, Seq.reset.regs, Seq.reset.regPend, Seq.reset.preds, 0, none⟩
/-- p2 awaits load 5, and `l` are the unresolved branches. -/
def sPend (w : Word) (l : List Branch) : State :=
  modQ (fun q => { q with
    nextId := 12, preds := q.preds.set 2 ⟨true, some 5⟩, loads := [⟨5, none, 0, 0, 0, .pred 2 .eq0, some 0⟩], branches := l }) (atPc 64 w)

theorem witness_BranchesFollowConditionAndHint :
    (∀ b ∈ [(0, false, false, 16), (2, true, false, 0xFFFFFFFC)],
      let w := wBr b.1 b.2.1.toNat b.2.2.1.toNat b.2.2.2; let s := atPc 64 w
      s.issues 0 w (.br (BitVec.ofNat 3 b.1) b.2.1 b.2.2.1 (BitVec.ofNat 32 b.2.2.2)) ∧
        ((s.tile 0).seq.pred (BitVec.ofNat 3 b.1)).awaits = none) ∧
    (∀ d ∈ [0, 3], let w := insn 2 1 (d * 2 ^ 43 + 16); (atPc 64 w).issues 0 w (.jal (BitVec.ofNat 5 d) 16)) ∧
    (let w := insn 2 2 (2 * 2 ^ 38); (atPc 64 w).issues 0 w (.jr 2)) ∧
    (let w := insn 2 3 0; let s := atPc 64 w
      s.issues 0 w .stop ∧ (s.tile 0).seq.branches = [] ∧ (s.tile 0).seq.deliver = []) ∧
    (∀ l ∈ [[], [br0], [br0, { br0 with tag := 7 }]], ∀ hint ∈ [false, true],
      let w := wBr 2 0 hint.toNat 16; let s := sPend w l
      s.issues 0 w (.br 2 false hint 16) ∧ ((s.tile 0).seq.pred 2).awaits = some 5) := by decide +kernel

def sDel (b : Bool) : State := modT (fun x => { x with acc := [⟨.a48, [1, 2], 0, [⟨7, .a48, [3, 4], 0⟩, ⟨4, .a48, [5, 6], 0⟩]⟩] })
  (modQ (fun q => { q with
    nextId := 12, deliver := [(4, b)], stores := [⟨5, some 4, 0, 4096, 0, [1]⟩, ⟨3, none, 0, 4096, 0, [1]⟩]
    spec := [⟨4, .op .seq [] 0 0⟩] }) (withIns 0))

theorem witness_ResolutionCommitsOrUndoes :
    (∀ n ∈ [false, true], let s := sPend 0 [{ br0 with neg := n }]; let q := (s.tile 0).seq
      q.loads = [⟨5, none, 0, 0, 0, .pred 2 .eq0, some 0⟩] ∧ q.branches = [{ br0 with neg := n }] ∧
        br0.loadId = 5 ∧ br0.own = none) ∧
    (((sDel true).tile 0).seq.deliver = [(4, true)] ∧ ((sDel true).tile 0).seq.held = [] ∧ ((sDel true).tile 0).rime.queue = [] ∧
      ∀ r ∈ ((sDel true).tile 0).seq.spec, r = ⟨4, .op .seq [] 0 0⟩) ∧
    ((sDel false).tile 0).seq.deliver = [(4, false)] ∧ ((sDel false).tile 0).rime.queue = [] ∧ ∀ k : Fin 4, ((sDel false).tile 0).rime.slots[k].undo = [] := by
  decide +kernel

def noAdd : VInstr := ⟨.add, 0, 0, 0, 0, 0, false, 0, false, 0, false, 0, 0⟩
/-- Tile 0's vector queue holds an unfinished operation. -/
def busyV (s : State) : State := modT (fun x => { x with vec := { x.vec with queue := [⟨⟨0, none, 0, 0⟩, noAdd, .replicate 32 0, 1, none, false, [], 0, false⟩] } })
  (modQ (fun q => { q with nextId := 3 }) s)
def at0 (n : Nat) : State → State := gtc fun g => { g with count := BitVec.ofNat 64 n }
def wPhase (id : Nat) : Word := insn 3 3 id

theorem witness_SynchronisingInstructionsComplete :
    (let w := insn 3 0 0; let s := withIns w
      s.issues 0 w .fenceSc ∧ (s.tile 0).seq.stores = [] ∧ ∀ l ∈ (s.tile 0).seq.loads, l.value.isSome = true) ∧
    (let w := insn 3 1 (2 * 2 ^ 34);
      ((withIns w).issues 0 w (.fenceCo 2) ∧ ∀ c < 4, (2 : BitVec 4).getLsbD c = true → ((withIns w).tile 0).classBusy c 0 = false) ∧
      (busyV (withIns w)).issues 0 w (.fenceCo 2) ∧ (2 : BitVec 4).getLsbD 1 = true ∧
        ((busyV (withIns w)).tile 0).classBusy 1 ((busyV (withIns w)).tile 0).seq.nextId = true) ∧
    (let w := insn 3 2 (2 * 2 ^ 38 + 16);
      ∀ n ∈ [64 * 21 - 1, 64 * 21, 64 * 22], (at0 n (withIns w)).issues 0 w (.waitslot 2 16) ∧ ((withIns w).tile 0).seq.sreg 2 = 5 ∧
        (withIns w).baseSlot = 0) ∧
    (let s := at0 (64 * 21) (modQ (fun q => { q with slotWait := some 21 }) (withIns 0));
      (s.tile 0).seq.run = true ∧ (s.tile 0).seq.slotWait = some 21 ∧ 64 * (21 : Word).toInt ≤ (s.gtc.count.toNat : Int)) ∧
    (let s := jobI id (withIns (wPhase 5)); let q := (s.tile 0).seq
      s.issues 0 (wPhase 5) (.phase 5) ∧ s.phaseKind 5 ≠ some 0xFF ∧ q.branches = [] ∧ q.deliver = [] ∧ q.phLen = 0) := by
  decide +kernel

/-! ### Matrix array, epilogue, rime unit -/

/-- A word in tile 0 with a descriptor at 4096, and s1. -/
def sDesc (w : Word) (d : List Byte) (r : Nat) : State := r1 r (memB (poolBase 0 + 4096) d (withIns w))
def wMat (op : Nat) : Word := insn 4 op (1 * 2 ^ 38 + 4096)
def dPass : List Byte := [0x22, 4, 1, 0, 3, 0, 2, 0, 0, 0x10, 0, 0, 0, 0x20, 0, 0, 0, 0x30, 0, 0, 0, 0x40, 0, 0, 5, 0, 0, 0, 0, 0, 0, 0]
/-- BF16, two rows of three columns, ZERO at accumulator row 5. -/
def pass (sfmt : Nat) (on : Bool) : PassOp :=
  ⟨⟨3, none, 0, 0⟩, ⟨sfmt, sfmt, 0, false, 2, 3, 2, 4096, 0x80000, 0, 0, 5, false⟩, 0, .none, Vector.replicate 4 0, on,
    if on then [[0x3f80, 0x3f80, 0x3f80], [0x4000, 0x4000, 0]] else [], if on then [[], []] else [], 0, 0, false, 0, []⟩
def sMat (l : List MatOp) (rows : Nat) : State :=
  modT (fun x => { x with width := 256, matQ := l, acc := List.replicate rows ⟨.a48, List.replicate 256 7, 0, []⟩ })
    (modQ (fun q => { q with nextId := 4 }) (withIns 0))
/-- Two rows of two columns from accumulator row 5 to BF16 at 0x5000. -/
def epi (on : Bool) (row : Nat) : EpiOp :=
  ⟨⟨3, none, 0, 0⟩, ⟨0xC, 2, 0, false, on, 0, false, 0, 0, 0, 2, 2, 5, 0x3f800000, 0x3f800000, 0, 0x3f800000, 0x5000, 0x40, 0, 0, 0, 0,
    false⟩, none, on, row, false, [], 0⟩

theorem witness_MatrixInstructionsJoinAndStart :
    (let s := sDesc (wMat 0) dPass 0; let x := s.tile 0
      s.locate (.seq 0) 4096 = .mem (poolBase 0 + 4096) ∧ x.rime.queue = [] ∧ x.matWaiting < 16 ∧ s.issuesCop 0 (wMat 0) (.mpass 1 0 4096) ∧
        poolBase 0 + 4096 + 64 ≤ poolBase 0 + storeSize) ∧
    (sDesc (wMat 1) dPass 0).issuesCop 0 (wMat 1) (.epi 1 0 4096) ∧
    (∀ f ∈ [2, 14], let s := sMat [.pass (pass f false)] 0; let x := s.tile 0; let p := pass f false
      x.seq.stores = [] ∧ x.seq.deliver = [] ∧ x.rime.queue = [] ∧ x.matQ = [.pass p] ∧ p.started = false ∧ p.hdr.tag = none ∧ x.seq.copFault = none ∧
        x.waitsDone p.hdr.wait p.hdr.id = true ∧ ((p.d.check x.width.toNat).isNone ↔ f = 2)) ∧
    (let s := sMat [.epi (epi false 0)] 8; let x := s.tile 0; let e := epi false 0
      x.matQ = [.epi e] ∧ e.bound = none ∧ x.waitsDone e.hdr.wait e.hdr.id = true ∧ e.check x.width.toNat = none ∧
        ∀ i < e.d.nr, (x.accRow (e.d.accRow + i)).tag = .a48) := by decide +kernel

theorem witness_ZeroPassWritesItsProduct :
    ∀ f ∈ [0, 2], let s := sMat [.pass (pass f true)] 2048; let x := s.tile 0; let p := pass f true; let d := p.d
      x.matQ = [.pass p] ∧ p.started = true ∧ p.arrived = false ∧ p.row = 0 ∧ p.hdr.tag = none ∧ d.rime = false ∧ d.acc = 0 ∧
        0 < d.m ∧ d.accRow + d.m ≤ 2048 ∧ p.weights.length = d.nx ∧ p.wscales.length = d.nx ∧ x.acc.length = 2048 ∧
        (∀ r ∈ x.acc, r.ents.length = 256) ∧ x.rime.queue = [] ∧ d.nx ≤ (if d.sfmt = 0 then 128 else 256) := by decide +kernel

theorem witness_EpilogueRowIsWritten :
    ∀ k ∈ [0, 1], let s := sMat [.epi (epi true k)] 8; let x := s.tile 0; let e := epi true k; let d := e.d
      x.matQ = [.epi e] ∧ e.started = true ∧ e.bound = none ∧ e.row < d.nr ∧ d.dest = 0 ∧ isBlockFmt d.dst = false ∧ d.src = 0xC ∧
        (x.accRow (d.accRow + e.row)).tag = .a48 ∧ (x.accRow (d.accRow + e.row)).undo = [] ∧ d.accRow + e.row < x.acc.length ∧
        x.rime.queue = [] := by
  decide +kernel

def dRime (slot : Nat) : List Byte :=
  [BitVec.ofNat 8 (slot + 4), 6, 0, 0, 1, 2, 3, 4, 5, 6, 7, 8, 0, 0x10, 0, 0, 3, 0, 0, 0, 9, 0, 0, 0] ++ List.replicate 8 0
def drain (b : Option (List Byte)) : Drain := ⟨50, 8, 0x1000_0000_0000, ⟨3, 7, 11, 5, true, false⟩, b⟩
def slot (d : Option Drain) (n : Nat) : Slot :=
  ⟨true, ⟨4, 7, 0, 0, false, false⟩, [], ⟨1, true, 3, 4, 5, 4096, 3, 77, false⟩, List.replicate n 1, d⟩
/-- Slot `k` of tile 0 is `l`, and the image declares a statistic region. -/
def withSlot (k : Fin 4) (l : Slot) (s : State) : State :=
  jobI (fun i => { i with regions := [⟨0x1000_0000_0000, 0x10_0000, 2, true⟩] })
    (modT (fun x => { x with rime := { x.rime with slots := x.rime.slots.set k l } }) s)
/-- Nothing of tile 0 stands before a rime instruction. -/
def rimeFree (s : State) : Prop :=
  let x := s.tile 0
  x.seq.branches = [] ∧ x.seq.deliver = [] ∧ x.seq.stores = [] ∧ x.rime.queue = [] ∧ x.rime.late = [] ∧ x.waitsDone 0 x.seq.nextId = true
def gram : GramRow := ⟨1, 4, none, List.replicate 128 0x3f80⟩

theorem witness_RimeUnitCapturesAndDrains :
    (let w := insn 5 0 (1 * 2 ^ 38 + 4096); let s := sDesc w (dRime 1) 0
      let N := leNat (tab 32 fun j => s.loadByte 0 (poolBase 0 + 4096 + j))
      s.issuesCop 0 w (.rcfg 1 0 4096) ∧ rimeFree s ∧
        s.locate (.seq 0) 4096 = .mem (poolBase 0 + 4096) ∧ fieldAt N 0 2 = 1 ∧ fieldAt N 3 5 = 0 ∧ fieldAt N 16 16 = 0 ∧
        fieldAt N 192 64 = 0 ∧ fieldAt N 8 8 = 6 ∧ fieldAt N 96 32 = 4096 ∧ fieldAt N 128 32 = 3 ∧ 4096 + 512 * 3 ≤ storeSize) ∧
    (let s := withSlot 1 (slot none 0) s0; (s.tile 0).rime.slots[1].ep.q = 0 ∧ (s.tile 0).rime.slots[1].drain = none ∧
      (s.tile 0).rime.gramQ = []) ∧
    (let w := insn 5 1 0x64; let s := withSlot 2 (slot none 0) (withSlot 0 (slot none 0) (withIns w))
      s.issuesCop 0 w (.rbind 0 true 2 true 0) ∧ rimeFree s ∧ ∀ k ∈ [(0 : Fin 4), 2], ((s.tile 0).rime.slots[k]).opened = true) ∧
    (let w := insn 5 2 (1 * 2 ^ 38 + 1 * 2 ^ 32); let s := r1 0x1000_0000_0000 (withSlot 1 (slot none 0) (withIns w))
      s.issuesCop 0 w (.rdrain 1 0 1 0) ∧ rimeFree s ∧ (s.tile 0).rime.slots[1].opened = true ∧ (s.tile 0).rime.slots[1].drain = none ∧
        49600 ≤ 0x10_0000) ∧
    (let s := modT (fun x => { x with rime := { x.rime with gramQ := [gram] } }) (withSlot 1 (slot none 8256) s0); let x := s.tile 0
      x.rime.gramQ = [gram] ∧ gram.vals.length = 128 ∧ x.rime.slots[gram.slot].entries.length = 8256 ∧
        x.rime.slots[gram.slot].drain = none) ∧
    (let s := withSlot 1 (slot (some (drain none)) 8256) s0; let x := s.tile 0
      x.rime.slots[1].drain = some (drain none) ∧ x.rime.slots[1].entries.length = 8256 ∧ x.rime.gramQ = [] ∧
        x.passesTo (drain none).id 1 = false) ∧
    (let b := List.replicate 64 (7 : Byte)
     let s := modT (fun x => { x with dma := { x.dma with queue := [.record 1] } }) (withSlot 1 (slot (some (drain (some b))) 0) s0);
      (s.tile 0).rime.slots[1].drain = some (drain (some b)) ∧ (s.tile 0).dma.queue = [.record 1] ∧
        s.writeUe 0x1000_0000_0000 b.length = none ∧ (s.tile 0).rime.queue = [] ∧
        ∀ j < b.length, s.readOnly (0x1000_0000_0000 + j) = false) := by unfold rimeFree; decide +kernel

/-! ### Vector engine, DMA, HBM -/

def wVec (op n : Nat) : Word := insn 6 op (3 * 2 ^ 43 + 1 * 2 ^ 38 + 2 * 2 ^ 33 + 4 * 2 ^ 28 + n)
def vIns (w : Word) : VInstr := match decodeIns w with | some (.vec v) => v | _ => noAdd
def wChain : Word := insn 6 0x3b (1 * 2 ^ 38)
/-- A vector operation waiting alone in tile 0's queue, whose s1 held 8192 at its issue. -/
def vOp (w : Word) : VecOp := ⟨⟨3, none, 0, 0⟩, vIns w, (Vector.replicate 32 0).set 1 8192, 1, none, false, [], 0, false⟩
def sVec (o : VecOp) (c : List ChainRow) : State := modT (fun x => { x with vec := { x.vec with queue := [o], chainQ := c } }) (withIns 0)
def ty (n : Nat) : Nat := n * 2 ^ 25

theorem witness_VectorInstructionsIssue :
    (∀ n ∈ [(0, 0), (3, 0), (0x10, 3), (0x39, 1)], let w := wVec n.1 (ty 1 + n.2); let s := withIns w; let x := s.tile 0
      s.issuesCop 0 w (.vec (vIns w)) ∧ x.vec.waiting < 32 ∧ (vIns w).op ≠ .chain ∧ x.seq.branches = [] ∧ x.vec.next = none) ∧
    (let s := sDesc wChain [3, 0, 0, 0, 2] 4096;
      s.issuesCop 0 wChain (.vec (vIns wChain)) ∧ (vIns wChain).op = .chain ∧ (s.tile 0).seq.sreg (vIns wChain).va = 4096 ∧
        s.locate (.seq 0) 4096 = .mem (poolBase 0 + 4096)) := by decide +kernel

theorem witness_VectorInstructionsComplete :
    (∀ k ∈ [8, 9, 10, 11, 12, 13, 14, 15], ∀ m ∈ [0, 2 ^ 24 + 2 ^ 21, 2 ^ 24 + 2 ^ 21 + 2 ^ 20],
      let o := vOp (wVec k (ty 4 + m)); (sVec o []).vecAlone 0 o ∧ o.v.op.isInt = true ∧ o.v.ty = 4 ∧ o.v.ch = false) ∧
    (∀ k ∈ [(0x11, VOp.mand), (0x12, .mor), (0x13, .mxor), (0x14, .mnot)],
      let o := vOp (wVec k.1 (ty 1)); (sVec o []).vecAlone 0 o ∧ o.v.op = k.2) ∧
    (∀ k ∈ [(6, VOp.abs), (7, .neg), (0x18, .trans)], let o := vOp (wVec k.1 (ty 1))
      (sVec o []).vecAlone 0 o ∧ o.v.op = k.2 ∧ o.v.ty = 1 ∧ o.v.ch = false ∧ o.v.men = false) ∧
    (let s := sVec (vOp 0) []; ∀ i : Fin 256, (((s.tile 0).vec.regs[(1 : Fin 32)])[i]).toNat % 2 ^ 31 ≤ 0x7F800000) ∧
    (let o := vOp (wVec 0x39 (ty 1 + 1)); let x := (sVec o []).tile 0
      (sVec o []).vecAlone 0 o ∧ o.v.op = .st ∧ o.v.ty = 1 ∧ o.v.xf = 1 ∧ (o.sregs[o.v.va.toFin]).toNat = 8192 ∧
        x.streamLo + x.streamLen ≤ 8192) ∧
    (let o := vOp (wVec 8 (ty 5)); (sVec o []).vecAlone 0 o ∧ o.v.op.isInt = true ∧ 5 ≤ o.v.ty.toNat) := by decide +kernel

theorem witness_ChainIterationConsumesARow :
    ∀ n ∈ [0, 2], let v := vIns (wVec 8 (ty 4 + 4096)); let d : ChainDesc := ⟨3, 1, 0, [], false⟩; let c : ChainRow := ⟨false, .replicate 256 5⟩
      let o : VecOp := { vOp wChain with desc := some d, started := true, prog := [⟨v, true, 0⟩], iter := n }
      (sVec o [c]).vecAlone 0 o ∧ o.v.op = .chain ∧ v.op.isInt = true ∧ v.ty = 4 ∧ v.ch = true ∧ v.men = false ∧
        ((sVec o [c]).tile 0).vec.chainQ = [c] := by decide +kernel

def wDma : Word := insn 7 0 (1 * 2 ^ 38 + 4096)
/-- A DMA descriptor of a KIND: 16 bytes from 8192 to 0x3000. -/
def bDma (k : Nat) : List Byte :=
  [BitVec.ofNat 8 k, 0, 0, 0, 16, 0, 0, 0, 1, 0, 0, 0, 1, 0, 0, 0, 0, 0x20, 0, 0, 0, 0, 0, 0, 0, 0x30, 0, 0, 0, 0, 0, 0] ++ List.replicate 32 0
def dDma (k fmt src dst dstr tag : Nat) (soft : Bool) : DmaDesc :=
  ⟨k, soft, false, false, fmt, tag, 16, 1, 1, src, dst, 0, 0, dstr, 0, 0, 0, 0, false⟩
def dmaOp (d : DmaDesc) : DmaOp := ⟨⟨3, none, 0, 0⟩, d, 4096, none⟩
def sDma (d : DmaDesc) : State :=
  modT (fun x => { x with acc := [⟨.a96, List.replicate 256 7, 0, []⟩], dma := { x.dma with queue := [.op (dmaOp d)] } })
    (modQ (fun q => { q with nextId := 4 }) (withIns 0))

theorem witness_DmaInstructionsIssueAndComplete :
    (∀ k ∈ [0, 1, 2, 3, 4, 5, 255], let s := sDesc wDma (bDma k) 0; let x := s.tile 0
      s.issuesCop 0 wDma (.dma 1 0 4096) ∧ x.dma.waiting < 16 ∧ s.locate (.seq 0) 4096 = .mem (poolBase 0 + 4096) ∧
        x.seq.branches = [] ∧ x.dma.queue = [] ∧ x.dmaHeld 0 (DmaDesc.ofBytes (bDma k)) = false) ∧
    (∀ d ∈ [dDma 0 0 8192 0x3000 0 0 false, dDma 0 0 8192 (8192 + 16) 0 0 false, dDma 0 0 8192 4095 0 0 true, dDma 4 12 0 0x4000 1536 1 false],
      (sDma d).dmaAlone 0 (dmaOp d)) ∧
    (let x := (sDma (dDma 4 12 0 0x4000 1536 1 false)).tile 0;
      x.streamLo + x.streamLen = 4096 ∧ (x.accRow 0).undo = [] ∧ (x.accRow 0).ents.length = 256 ∧ (x.accRow 0).tag = .a96) := by
  decide +kernel

def hbmOn (f : Stack → Stack) (s : State) : State :=
  { s with hbm := s.hbm.set 0 (let x := s.hbm[0]; f { x with cap := 0x1_0000_0000, pcmap := 64, enabled := BitVec.allOnes 64 }) }

theorem witness_HbmScrubMarksCountsAndRetires :
    (jobI (fun i => { i with fixed := true }) s0).fixedFreq = true ∧
    (let s := hbmOn id s0; 128 * 2 < (s.hbm[0]).capacity ∧ hbmBase 0 + 256 ∉ (s.hbm[0]).marked ∧
      (s.hbm[0]).recentCe s.gtc.count ((s.hbm[0]).pcOf 256) < 255 ∧ (s.retiredPcs 0).length < 2) ∧
    hbmBase 0 + 256 ∈ ((hbmOn (fun x => { x with marked := [hbmBase 0 + 256] }) s0).hbm[0]).marked ∧
    (let s := hbmOn (fun x => { x with uePcs := [2] }) s0; (s.hbm[0]).pcOf 256 ∈ (s.hbm[0]).uePcs) := by decide +kernel

/-! ### Serac clusters -/

def listAt : Nat := 0x1000_0000_1000
def serB (opc fl start dl : Nat) : List Byte :=
  [BitVec.ofNat 8 opc, BitVec.ofNat 8 fl, 0, 0, 1, 3, 0, 5] ++ leBytes 4 start ++ leBytes 4 dl ++ leBytes 2 1 ++ leBytes 2 0 ++
    List.replicate 8 0 ++ leBytes 4 0x10001 ++ leBytes 8 0x1000_0010_0000 ++ leBytes 8 0x1000_0020_0000 ++ leBytes 8 0x1000_0030_0000
def mat2 : SMat := ⟨2, 1, [[2 ^ 46, 2 ^ 43], [2 ^ 45]]⟩
/-- Cluster 0 walks a list in step 7, whose base slot is 150. -/
def sSer (l : List (List Byte)) (now : Nat) (run : List SerRun) : State :=
  let s := job (fun j => { j with running := true, step := 7, base := 50, stepL := 6 })
    (gtc (fun g => { g with count := BitVec.ofNat 64 now, slen := 100 }) (memB listAt l.flatten (hbmOn id s0)))
  { s with clusters := s.clusters.set 0 { s.clusters[0] with
    structs := [.unused, ⟨2, true, true, mat2, none⟩], listAddr := listAt, listCount := l.length, step := 7, running := run } }
def sw (cur : Nat) : Switch := ⟨0x1000_0030_0000, cur, 7, 5, 2, 64 * 3 + 9⟩

theorem witness_SeracCommandsStartAndExport :
    (∀ o ∈ [1, 2, 3, 4, 5, 6, 7], ∀ fl ∈ [0, 8], ∀ dl ∈ [0xFFFFFFFF, 11], let s := sSer [serB o fl 10 dl] (64 * 160) []
      s.serCurrent 0 0 ∧ (s.cluster 0).paused = false ∧ (s.serDesc 0 0).start = 10 ∧ (s.serDesc 0 0).deadline = dl ∧
        64 * (s.job.base + (((s.cluster 0).step.toNat : Int) - s.job.stepL.toNat) * s.gtc.slen.toNat + 10) = s.gtc.count.toNat ∧ s.serBlocked 0 0 (s.serDesc 0 0) = false ∧ (s.cluster 0).running = []) ∧
    (∀ now ∈ [255, 256], let s := { sSer [] now [] with clusters := State.reset.clusters.set 0 { Cluster.reset with switches := [sw 1] } }
      (s.cluster 0).switches = [sw 1] ∧ s.locate .serac (sw 1).dst = .mem (sw 1).dst ∧ s.serWrFault (sw 1).dst 64 = false ∧
        64 * ((sw 1).after.toNat / 64 + 1) = 256 ∧ s.gtc.count.toNat = now) := by decide +kernel

def serRun (opc dl : Nat) (res : Option (PubKind × SMat)) (w : Option SMat) : SerRun :=
  ⟨0, SerDesc.ofBytes (serB opc 0 0 dl), 3, { SerOut.start 0 0 with result := res }, mat2, mat2, mat2, false, false, false, w, none, [], 0⟩

theorem witness_SeracCommandsRecordTheirEnd :
    (∀ r ∈ [serRun 1 0xFFFFFFFF none (some (SMat.zero 2)), serRun 2 0xFFFFFFFF (some (.chol, mat2)) none], let s := sSer [] 0 [r]
      (s.cluster 0).running = [r] ∧ s.recordAt r.d.recAddr 0x1000_0030_0000 ∧ r.batchIn = 0 ∧ r.iterating = false ∧ r.d.exp = false ∧
        r.solved = none ∧ (s.cluster 0).paused = false ∧ r.d.deadline = 0xFFFFFFFF ∧ r.out.status < 2 ^ 16 ∧ r.d.opc < 2 ^ 8 ∧
        r.d.struct = 1 ∧ ((s.cluster 0).structs[1]?).isSome = true ∧ r.d.engmask.getLsbD 0 = true) ∧
    (let r := serRun 2 100 none none; let s := sSer [serB 2 0 0 100] (64 * 250) [r]
      (s.cluster 0).running = [r] ∧ s.serCurrent 0 0 ∧ s.serDesc 0 0 = r.d ∧ r.d.deadline = 100 ∧
        64 * (s.baseOf 7 + 100) = (s.gtc.count.toNat : Int)) := by decide +kernel

theorem witness_CholeskyFactorObeysItsRecurrence :
    let d := SerDesc.ofBytes (serB 2 0 0 0xFFFFFFFF)
    d.opc = 2 ∧ d.reg = false ∧ ∃ u, (factor d mat2 0).result = some (.chol, u) :=
  ⟨by decide +kernel, by decide +kernel, ((factor (SerDesc.ofBytes (serB 2 0 0 0xFFFFFFFF)) mat2 0).result.getD (.chol, mat2)).2,
    by decide +kernel⟩

/-! ### Links -/

def txF (n : Nat) : TxFrame := ⟨.data, BitVec.ofNat 20 n, 0, 0, 0, List.replicate 600 1, 0, []⟩
/-- Port 2 in a state, as initiator or follower, four lanes wide. -/
def lp (st : LinkState) (ini : Bool) (f : LPort → LPort) : State :=
  let x := f { s0.ports[2] with
    state := st, initiator := ini, width := 4, laneMap := 0xFFFF7420, rxSeq := 0xFFFFF, txSeq := 9, replayBuf := [txF 5, txF 6]
    maxw := 8, lanes := Vector.replicate 8 .good }
  { s0 with
    ports := s0.ports.set 2 x, gtc := { s0.gtc with parent := 7 }
    spares := s0.spares.set 0 (vtab 4 fun i => ⟨if i = 1 then .inUse else .standby, 2, 0, false, false⟩) }
/-- A frame of a TYPE and FSEQ on lane 3, of 600 zero bytes. -/
def fr (ty seq errs crc : Nat) : Frame :=
  ⟨BitVec.ofNat 80 (seq * 2 ^ 60 + 6 * 2 ^ 40 + ty * 2 ^ 36 + 3 * 2 ^ 23 + 4 * 2 ^ 18 + crc), List.replicate 600 0, 3, errs⟩

/-- A CTRL frame of lane 3, with 12 corrected symbols. -/
def ctlH : CtlHeader := ⟨5, 1, 3, 3, 12⟩

theorem witness_FramesArriveAndReplay :
    (∀ ty ∈ [(0, 19694), (1, 34419)], let x := (lp .active true id).port 2; let f := fr ty.1 0xFFFFF 12 ty.2;
      f.payload.length = 600 ∧ x.active = true ∧ x.hears f.lane.val = true ∧
        f.symErrs ≤ 12 ∧ hdrOk f = true ∧ hdrType f.hdr = ty.1 ∧ hdrSeq f.hdr = x.rxSeq) ∧
    12 < (fr 0 0xFFFFF 13 0).symErrs ∧ hdrOk (fr 0 0xFFFFF 0 19693) = false ∧
    (let x := (lp .swap true fun x => { x with replayAsked := true }).port 2;
      x.active = true ∧ 2 ^ 19 ≤ (x.rxSeq - hdrSeq (fr 0 0 0 0).hdr).toNat) ∧
    (lp .swap true id).port 2 ≠ (lp .active true id).port 2 ∧ ((lp .swap true id).port 2).carries = false ∧
    (let x := (lp .active true id).port 2;
      x.active = true ∧ x.carries = true ∧ x.hears ctlH.lane.val = true ∧ ctlH.symErrs ≤ 12 ∧ x.txStream.length < 600 ∧ ∀ g ∈ x.replayBuf, (g.seq - (x.replayBuf.headD g).seq).toNat < 2 ^ 19) := by decide +kernel

theorem witness_TrainingFollowsItsStates :
    (∀ st ∈ [LinkState.detect, .poll, .retrain, .equalize, .align, .config], ((lp st true id).port 2).state = st) ∧
    (let s := lp .config true fun x => { x with cand := 0x7F5, replayBuf := [] }; let x := s.port 2; let o : ConfigOffer := ⟨5, 3, 8, true, 0x3F5⟩;
      let common := (List.range 12).filter fun i => x.cand.getLsbD i && o.lanes.getLsbD i;
      x.state = .config ∧ min (min 8 common.length) (min x.maxw.toNat o.maxw.toNat) = 8 ∧ x.replayBuf = [] ∧ s.spareHome 2 1 = true) ∧
    (let s := lp .config true id; let x := s.port 2; x.state = .config ∧ x.cand = 0) := by decide +kernel

theorem witness_PortsLoseRetrainAndDisable :
    (∀ st ∈ [LinkState.lost, .detect, .swap, .disabled], ((lp st true id).port 2).state = st) ∧
    { lp .disabled true id with boot := { Boot.reset with inReset := false } }.boot.inReset = false ∧
    (∀ ini ∈ [true, false], let s := lp .active ini fun x => { x with replayBuf := [] }; let x := s.port 2;
      x.state = .active ∧ x.initiator = ini ∧ s.gtc.parent.toNat ≠ 2 ∧ x.replayBuf = [] ∧ x.txStream.length < 600 ∧
        x.active = true ∧ x.hears ctlH.lane.val = true ∧ s.job.colls = [] ∧ s.spareHome 2 1 = true ∧ (s.spare 2 1).state = .inUse) ∧
    ((lp .retrain true id).port 2).state = .retrain ∧
    (let f := fr 4 0xFFFFF 0 22265;
      f.payload.length = 600 ∧ ((lp .active true id).port 2).hears f.lane.val = true ∧ f.symErrs ≤ 12 ∧ hdrOk f = true ∧ hdrType f.hdr = 4) := by decide +kernel

def op (self peer : Bool) : SwapOp := ⟨1, 0, 4, false, 5, [1], self, peer, 0xFFFF7420, 0⟩
def swapping (self peer : Bool) : State := lp .swap false fun x => { x with swapOp := some (op self peer), laneMap := 0xFFFF9420 }
def noSpares (s : State) : State := { s with spares := Vector.replicate 4 (Vector.replicate 4 ⟨.retired, 0, 0, false, false⟩) }

theorem witness_LaneFaultsTakeASpareOrNarrow :
    (∀ ini ∈ [true, false], let s := lp .active ini id; let x := s.port 2;
      x.active = true ∧ x.state = .active ∧ 3 < x.width.toNat ∧ x.width.toNat ≤ 8 ∧ x.faultWait = 0 ∧ x.swapOp = none ∧
        x.initiator = ini ∧ laneAt x.laneMap 3 = 7 ∧ x.lanes[7]? = some .good ∧ s.job.running = false ∧ x.txStream.length < 600 ∧
        x.hears ctlH.lane.val = true ∧ s.gtc.parent.toNat ≠ 2 ∧ s.causeHolds 2 3 .lockLost = true ∧ s.freeSpares 2 ≠ []) ∧
    (let s := noSpares (lp .active true fun x => { x with laneMap := 0xFFFF7542 }); let x := s.port 2;
      s.freeSpares 2 = [] ∧ 1 < x.width.toNat ∧ (∀ j < x.width.toNat, ∀ i < j, laneAt x.laneMap i < laneAt x.laneMap j) ∧
        ∀ n < x.width.toNat, laneAt x.laneMap n < 12) ∧
    (∀ a ∈ [true, false], let x := (swapping a (!a)).port 2;
      x.txStream.length < 600 ∧ x.retrainWait = false ∧ x.faultWait = 0 ∧ x.hears ctlH.lane.val = true ∧
        (∀ g ∈ x.replayBuf, (g.seq - (x.replayBuf.headD g).seq).toNat < 2 ^ 19) ∧ x.state = .swap ∧ x.swapOp = some (op a (!a)) ∧ x.active = true ∧ x.initiator = false ∧
        3 < x.width.toNat ∧ x.width.toNat ≤ 8 ∧ 8 ≤ laneAt x.laneMap 3 ∧ laneAt x.laneMap 3 - 8 ∈ (op a (!a)).spares) ∧
    ((lp .active true fun x => { x with lanes := Vector.replicate 8 .retired }).port 2).lanes[(3 : Fin 8)] = .retired := by decide +kernel

/-! ### Routers and collectives -/

def adr (x y z pod : Nat) : ChipAddr := BitVec.ofNat 27 (x + 32 * y + 1024 * z + 32768 * pod)
def hdrPkt (dst src : ChipAddr) (cls ep more : Nat) (masks : List (BitVec 32)) (n : Nat) : Packet :=
  ⟨dst.setWidth 32, src.setWidth 32, BitVec.ofNat 8 (cls + more), BitVec.ofNat 8 (ep + 0x10), 5, masks, List.replicate n 3⟩
/-- Chip (1, 2, 3) of pod 1, in a pod of 4 × 6 × 8 with Y open, epoch 3. -/
def rtr (f : Router → Router) : State :=
  let r := { s0.routers[0] with
    self := adr 1 2 3 1, topo := BitVec.ofNat 33 (3 + 32 * 5 + 1024 * 7 + 2 ^ 16 + 2 ^ 18 * 2), epoch := 3, porten := BitVec.allOnes 20, thr := 8 }
  { s0 with routers := Vector.replicate 2 (f r) }
def arrived (pkt : Packet) : State := let s := rtr id; { s with ports := s.ports.set 3 { s.ports[3] with rxStream := pktBytes pkt ++ [1, 2] } }
def qPkt (v : Bool) : QPkt := ⟨hdrPkt (adr 1 5 3 1) 0 0 3 8 [] 80, v, 20, 0, 4⟩

theorem witness_PacketsFollowTheirRoute :
    (∀ n ∈ [(1, 2, 3, 1, 0, 3), (1, 2, 3, 1, 1, 4), (3, 2, 3, 1, 0, 3), (0, 5, 3, 1, 2, 3), (1, 5, 3, 1, 2, 3), (1, 2, 7, 1, 0, 3), (9, 2, 0, 1, 0, 3), (1, 2, 3, 2, 0, 3)],
      let pkt := hdrPkt (adr n.1 n.2.1 n.2.2.1 n.2.2.2.1) 0 n.2.2.2.2.1 n.2.2.2.2.2 0 [] 16;
      pkt.WellFormed = true ∧ portDie 3 = .west ∧ (pktBytes pkt).isPrefixOf ((arrived pkt).port 3).rxStream = true ∧ pktAxm pkt = 0) ∧
    (let r := (rtr id).router .west;
      r.extent 0 = 4 ∧ r.extent 1 = 6 ∧ r.extent 2 = 8 ∧ r.porten = BitVec.allOnes 20 ∧ r.hpeer ≠ some (adr 1 2 3 2) ∧ r.netQ = []) ∧
    (∀ m ∈ [0b1011, 0b11011], let pkt := hdrPkt (adr 1 2 3 1) (adr 1 2 3 1) 0 3 16 [BitVec.ofNat 32 m] 16; let r := (rtr id).router .west;
      pkt.WellFormed = true ∧ pktAxm pkt = 1 ∧ pktEpoch pkt = r.epoch ∧ (∀ i < 3, coord (pktDst pkt) i < r.extent i) ∧
        (∀ i < 3, coord r.self i < r.extent i) ∧ podOf (pktDst pkt) = podOf (pktSrc pkt)) := by decide +kernel

theorem witness_QueuesThrottlesAndArbitration :
    (let u := hdrPkt (adr 9 2 0 1) 0 1 3 0 [] 48; u.WellFormed = true ∧ pktClass u = 1 ∧ pktAxm u = 0 ∧
      ∀ n ∈ [127, 128], let r := (rtr fun r => { r with injQ := List.replicate n u }).router .west;
        r.throttling = false ∧ (r.injQ.map pktCredits).sum + pktCredits u ≤ 256) ∧
    (∀ n ∈ [96, 97], let r := (rtr fun r => { r with throttling := true, injQ := List.replicate n (hdrPkt 0 0 1 3 0 [] 48) }).router .west;
      r.throttling = true ∧ 2 ≤ r.thr.toNat ∧ r.mgmtWait = [] ∧ ((r.injQ.map pktCredits).sum ≤ 16 * (r.thr.toNat - 2) ↔ n = 96)) ∧
    (∀ v ∈ [true, false], let s := rtr id;
      let x := { s.ports[3] with state := .active, credits := Vector.replicate 8 9, queues := vtab 8 fun i => if i = v.toNat then [qPkt v] else [] };
      portDie 3 = .west ∧ x.held = false ∧ x.queues[(if v then (1 : Fin 8) else 0)] = [qPkt v] ∧
        x.queues[(if v then (0 : Fin 8) else 1)] = [] ∧ pktCredits (qPkt v).pkt ≤ 9 ∧
        x.txStream.length + (pktBytes (pktSetVcb (qPkt v).pkt v)).length < 600) ∧
    (let x := (lp .active true id).port 2;
      x.state = .active ∧ (∀ w : Fin 8, x.queues[w] = []) ∧ x.txStream.length < 600 ∧ x.replayBuf.length < 1024) := by decide +kernel

def H : Nat := 0x1000_0000_0000
def decl (kind dir len : Nat) : CollDecl :=
  { kind := kind, axis := 1, dir := dir, sfmt := 1, afmt := 1, dfmt := 2, sat := false, id := 9, len := len, src := H + 0x10000
    dst := H + 0x40000, dscale := 0x3f800000, start := 3, resv := 100, stall := 5, gate := H + 0x2000, recAddr := H + 0x3000, bad := false }
def topo4 : Topo := ⟨4, 4, 4, 0, 0, 0, 0, 1, 1, 1, 1, 1, 77, [1]⟩
def inst (d : CollDecl) (on : Bool) (f : CollPath → CollPath) : CollInst :=
  ⟨0, 7, .west, on, none, 0, 0, [], (d.ringPaths topo4 (adr 1 2 3 1) true ++ d.ringPaths topo4 (adr 1 2 3 1) false).map f⟩
/-- The instance runs in step 7, whose base slot is 150. -/
def sColl (d : CollDecl) (c : CollInst) (now gate : Nat) : State :=
  let s := rtr fun r => { r with topo := BitVec.ofNat 33 (3 + 32 * 3 + 1024 * 3) };
  { memB (H + 0x2000) (leBytes 8 gate) (hbmOn id s) with
    gtc := { s0.gtc with count := BitVec.ofNat 64 now, slen := 100 }
    job := { s0.job with
      running := true, step := 7, base := 50, stepL := 6, colls := [c]
      image := some { im0 with topo := topo4, regions := [⟨H, 0x100000, 0, true⟩], colls := [d] } } }
def dataB : List Byte := List.replicate 256 0x3f
def collPkt (ty : Nat) (pl : List Byte) : Packet := ⟨0, 0, 2, BitVec.ofNat 8 (1 + 16 * ty), BitVec.ofNat 32 (9 * 2 ^ 20), [], pl⟩
def rxOf (l : List Byte) : CollPath → CollPath := fun p => if p.tx then p else { p with rxBuf := l }

theorem witness_CollectiveSegmentsAreCheckedBeforeUse :
    ∀ d ∈ [decl 0 0 16384, decl 1 0 16384], let c := inst d true (rxOf dataB); let s := sColl d c 0 0;
      ∃ path ∈ [0, 1, 2, 3], ∃ p, c.paths[path]? = some p ∧ p.tx = false ∧ p.next < p.total ∧ p.next + 1 < p.total ∧ p.fails < 2 ∧ p.first = none ∧
        s.relayAt 0 path = none ∧ s.running 0 = some (0, c) ∧ s.collDecl 0 = some (d, topo4) ∧ d.kind ≤ 1 := by
  have h : ∀ d ∈ [decl 0 0 16384, decl 1 0 16384], let c := inst d true (rxOf dataB); let s := sColl d c 0 0;
      ∃ path ∈ [0, 1, 2, 3], ∃ p ∈ c.paths[path]?, p.tx = false ∧ p.next < p.total ∧ p.next + 1 < p.total ∧ p.fails < 2 ∧ p.first = none ∧
        s.relayAt 0 path = none ∧ s.running 0 = some (0, c) ∧ s.collDecl 0 = some (d, topo4) ∧ d.kind ≤ 1 := by decide +kernel
  exact h

theorem witness_digest_packets :
    (collPkt 0 dataB).WellFormed = true ∧ isColl (collPkt 0 dataB) 9 0 0 = true ∧
    (let q := collPkt 1 (digestPayload dataB 0); isColl q 9 0 1 = true ∧ leAt q.payload 8 4 = dataB.length ∧
      (crc64 dataB).toNat = leAt q.payload 0 8) ∧
    (let q := collPkt 1 (digestPayload (dataB.drop 1) 0); isColl q 9 0 1 = true ∧ leAt q.payload 8 4 ≠ dataB.length) := by decide +kernel

def seg (i a : Nat) : SendSeg := ⟨i, List.replicate 64 7, false, a, 1, []⟩
def sendOf (w : List SendSeg) (nx : Nat) : CollPath → CollPath := fun p => if p.tx then { p with unacked := w, next := nx } else p

theorem witness_CollectivesStartResendAndEnd :
    (let d := decl 0 0 16384;
     let c := inst d true (sendOf [seg 0 0, seg 1 1] 1);
     let s := sColl d c 0 0;
      s.collDecl 0 = some (d, topo4) ∧ s.running 0 = some (0, c) ∧
        (∃ p ∈ c.paths[0]?, p.tx = true ∧ s.relayAt 0 0 = none ∧
          p.unacked.find? (fun g => g.stream % 2 ^ 20 == (1 : BitVec 20).toNat) = some (seg 1 1) ∧ p.waiting = [] ∧ p.next < p.total) ∧
        (∃ k ∈ [0, 1, 2, 3], ∃ p ∈ c.paths[k]?, p.tx = false ∧ p.next < p.total ∧ s.relayAt 0 k = none) ∧
        s.locate .serac d.recAddr = .mem d.recAddr ∧ s.writeUe d.recAddr 32 = none ∧ s.locate .serac d.dst = .mem d.dst ∧
        d.recAddr + 32 ≤ d.dst ∧ c.written = [] ∧ d.id < 4096) ∧
    (let d := decl 0 0 16384;
     let c := { inst d true id with paths := [⟨.result, true, adr 1 2 3 1, 3, 2, [seg 0 0, { seg 1 0 with tries := [(adr 2 2 3 1, 1)] }], [], [], none, 0, []⟩] };
     let req := { collPkt 3 (List.replicate 16 0) with tag := BitVec.ofNat 32 (9 * 2 ^ 20 + 1), src := (adr 2 2 3 1).setWidth 32 };
     let s := (sColl d c 0 0).modRouter .west fun r => { r with delivered := [req] };
      s.collDecl 0 = some (d, topo4) ∧ s.running 0 = some (0, c) ∧ s.relayAt 0 0 = none ∧
        ((s.router c.die).delivered.find? fun q => isColl q d.id (1 : BitVec 20).toNat 3) = some req ∧
        (∃ p ∈ c.paths[0]?, p.role = .result ∧ p.tx = true ∧ ∃ g ∈ p.unacked.find? (fun g => g.stream % 2 ^ 20 == (1 : BitVec 20).toNat),
          ∀ e ∈ g.tries, e.1 = pktSrc req → e.2 < 2)) ∧
    (let d := decl 0 0 16384;
     let c := inst d true id;
     let a := collPkt 4 (leBytes 2 9 ++ leBytes 2 2 ++ List.replicate 12 0);
      a.WellFormed = true ∧ pktClass a = 2 ∧ pktType a = 4 ∧ leAt a.payload 0 2 = d.id ∧ ∃ p ∈ c.paths[0]?, p.unacked = []) ∧
    (∀ n ∈ [(64 * 153, 0), (64 * 153, 1), (64 * 153 - 1, 0)], let d := decl 0 2 20000;
      let c := inst d false id;
      let s := sColl d c n.1 n.2;
      s.findInst 0 (fun c => !c.started && c.ended.isNone) = some (0, c) ∧ s.mayStart 153 = true ∧
        s.job.base + ((c.step.toNat : Int) - s.job.stepL.toNat) * s.gtc.slen.toNat + d.start = 153 ∧ leNat (s.serRd d.gate 8) = n.2 ∧
        1 < topo4.ringSize d.axis ∧ 1 ≤ d.segs topo4 ∧
        c.paths = d.ringPaths topo4 s.routers[0].self true ++ d.ringPaths topo4 s.routers[0].self false ∧
        ∀ p : PortId, (s.port p).state ≠ .lost) := by decide +kernel

/-! ### Moraine, time, the job's start, lock-step -/

def morD : MorDecl := ⟨0, 1, 1, 5, 0x4000_0000_1000, 0x4000_0000_8000, 0x800, H + 0x2000, .a⟩
def retB : List Byte := (List.range 64).map (BitVec.ofNat 8)
/-- Step 7 of a job with one moraine declaration, a return of `step` in its ring. -/
def sMor (imp : List MorImport) (step : Nat) (good : Bool) (now : Nat) : State :=
  let b := morHeader 2 0 step 0 16 1 false (crc64 (if good then retB else retB.drop 2)) 0 ++ retB;
  let s := jobI (fun i => { i with regions := [⟨H, 0x100000, 0, true⟩], moraine := [morD] }) (at0 now (hbmOn id (fns (fun f => { f with cfg := { f.cfg with command := 4 } }) s0)));
  { job (fun j => { j with step := 7, base := 50, stepL := 6, imports := imp, nextImp := List.replicate 64 7 }) s with
    hostA := Memory.writeBytes 0 [] 0x107800 b, ouvzu := { s.ouvzu with grants := [⟨0, .a, 0x100000, 0x1000, 0x10000, true⟩] } }

/-- The plan of a transfer is the Config's: the slots 0 to 100 and the lengths 0 and 64 stand for it. -/
theorem witness_MoraineExportsAndImports :
    (let s := sMor [] 8 true 20000;
      s.morDecl 0 = some morD ∧ s.mayStart (s.baseSlot + 100) = true ∧ 64 * (s.baseSlot + 100) ≤ (s.gtc.count.toNat : Int) ∧ (s.fn .a).masters = true ∧
        ((0 : Fin 64).val, s.job.step) ∉ s.job.exports ∧
        (∀ n ∈ [0, 64], s.windowAt (morD.exring + 7 % (morD.lag + 1) * morD.entry) (64 + n) true = some (.a, 0x100800)) ∧
        s.importOf 0 = none ∧ 7 + morD.lag ≤ s.job.step.toNat + 1 ∧ s.locate .serac morD.importw = .mem (H + 0x2000) ∧
        s.writeUe (H + 0x2000) 8 = none) ∧
    (∀ r ∈ [true, false], let i : MorImport := ⟨0, 7, 100, true, r, none⟩;
      (sMor [i] 8 true 0).importOf 0 = some i ∧ (sMor [i] 8 true 0).readReturn morD 7 true = .good retB ∧
        (sMor [i] 8 false 0).readReturn morD 7 true = .bad ∧ (sMor [i] 9 true 0).readReturn morD 7 true = .late ∧ (sMor [i] 8 false 0).job.pending = none ∧
        i.start.toNat + morD.timeout * 1000000 = 5000100) ∧
    (let i : MorImport := ⟨0, 7, 100, true, false, some retB⟩;
     let s := sMor [i] 8 true 0;
      s.importOf 0 = some i ∧ (∃ im ∈ s.job.image, im.regions[morD.region]? = some ⟨H, 0x100000, 0, true⟩) ∧ s.locate .serac H = .mem H ∧
        s.writeUe H retB.length = none ∧ H + retB.length ≤ H + 0x2000) := by decide +kernel

/-- Whatever gradient slice the plan names, with no collective under way its reduce-scatters are complete (R324). -/
theorem witness_scattered (plan : MorPlan) : (sMor [] 8 true 20000).scattered plan = true := by
  unfold State.scattered
  have h : (sMor [] 8 true 20000).job.colls = [] := by decide +kernel
  simp [h]

theorem witness_scattered_not :
    let plan : MorPlan := { (default : MorPlan) with grad := H + 0x40000, count := 4 };
    (sColl (decl 0 0 16384) (inst (decl 0 0 16384) true id) 0 0).scattered plan = false := by decide +kernel

/-- A TIME frame from the parent: its GTC, and what it received of this chip's last frame. -/
def timeF (gtc rx crc : Nat) : Frame :=
  let pl := leBytes 8 gtc ++ [0, 2, 1, 0] ++ leBytes 4 44 ++ leBytes 8 rx ++ [0, 0, 0, 0] ++ leBytes 4 12 ++ List.replicate 568 0;
  let h : BitVec 80 := BitVec.ofNat 80 (7 * 2 ^ 60 + 3 * 2 ^ 36 + crc);
  ⟨h, pl, 0, 3⟩
def sTime (f : Gtc → Gtc) : State :=
  { lp .active true fun x => { x with rxSeq := 7, replayBuf := [], time := { x.time with seq := 13, sent := [(12, 100000, 0), (13, 100650, 0)] } } with
    gtc := f { Gtc.reset with parent := 2, count := 100700, lastFour := [1, 2, 3] } }
def timed (rx crc : Nat) : Prop :=
  let g := (sTime id).gtc;
  let x := (sTime id).port 2;
  let f := timeF 100500 rx crc;
  f.payload.length = 600 ∧ x.active = true ∧ f.lane = 0 ∧ x.hears 0 = true ∧ f.symErrs ≤ 12 ∧
    hdrOk f = true ∧ hdrType f.hdr = 3 ∧ hdrSeq f.hdr = x.rxSeq ∧ g.master = false ∧ g.holdover = false ∧ g.parent.toNat = 2 ∧
    (x.time.sent.find? fun e => e.1.toNat == leAt f.payload 28 4) = some (12, 100000, 0) ∧ leAt f.payload 16 8 = rx ∧ g.stepped = false

theorem witness_TimeFramesAndPulsesAlignTheClock :
    (let x := (sTime id).port 2;
      x.state = .active ∧ (2 : PortId) ≠ hPort ∧ x.replayBuf.length + 3 < 1024 ∧ 0 < x.width.toNat ∧
        (x.txSeq + BitVec.ofNat 20 3).toNat % x.width.toNat = 0 ∧ ∀ m < 3, (x.txSeq + BitVec.ofNat 20 m).toNat % x.width.toNat ≠ 0) ∧ timed 100200 52942 ∧
    timed 100300 54211 ∧ 3 ≤ (sTime id).gtc.lastFour.length ∧ (∀ o ∈ (sTime id).gtc.lastFour.take 3, o.natAbs ≤ 4) ∧
    (∀ n ∈ [0, 1000, -1000], let g := (sTime fun g => { g with master := true, count := BitVec.ofInt 64 (3 * 2 ^ 20 + n) }).gtc;
      g.master = true ∧ g.nextEdge = none ∧ (16 * (3 * 2 ^ 20 : Int) - g.sixteenths).natAbs ≤ 16000 ∧ (n = 0 → g.count.toNat % 2 ^ 20 = 0)) ∧
    (let g := (sTime fun g => { g with master := true, count := 2 ^ 19, nextEdge := some 77 }).gtc; g.master = true ∧ g.nextEdge = some 77) := by
  unfold timed; decide +kernel

theorem witness_LockstepComparesDigests :
    (sTime id).gtc.lsEn = false ∧
    (∀ d ∈ [0xabc, 0xabd], let e : LsEntry := ⟨2, 3, 9, BitVec.ofNat 64 d⟩; let s := sTime fun g => { g with lsEn := true, lsHist := [⟨2, 3, 9, 0xabc, 17⟩] };
      s.gtc.lsEn = true ∧ s.gtc.lsHeld = [] ∧ s.gtc.lsValid = false ∧ (0 : PortId).val = s.gtc.lsPort.toNat ∧
        ((s.gtc.lsHist ++ s.slotHist).find? fun k => k.unit == e.unit && k.tile == e.tile && k.c == e.count) = some ⟨2, 3, 9, 0xabc, 17⟩) ∧
    (∀ n ∈ [64 * 1031 - 1, 64 * 1031], let s := sTime fun g => { g with lsEn := true, lsHeld := [⟨⟨2, 3, 8, 5⟩, 7⟩], count := BitVec.ofNat 64 n };
      s.gtc.lsHeld = [⟨⟨2, 3, 8, 5⟩, 7⟩] ∧ s.gtc.lsValid = false ∧ s.slot = n / 64) := by decide +kernel

/-! ### Self-test and weight digests -/

def integD : IntegDecl := ⟨4, 9, [9, 10], 5, 10, H + 0x2000, H + 0x1_0000⟩
/-- Step 20 of a job, whose base slot is 2200, with an integrity declaration. -/
def sInt (now : Nat) (f : Integ → Integ) : State :=
  let s := job (fun j => { j with step := 20, base := 2000, stepL := 18 })
    (jobI (fun i => { i with integ := some integD, topo := { topo1 with dx := 2 }, colls := [decl 1 0 64], regions := [⟨H, 0x100000, 0, true⟩] })
      (gtc (fun g => { g with slen := 100 }) (at0 now (hbmOn id s0))))
  { s with integ := f s.integ }

theorem witness_SelfTestsWindowsAndProbation :
    (∀ n ∈ [64 * 2205, 64 * 2215 - 1], let s := sInt n id;
      s.integDecl = some integD ∧ s.job.running = true ∧ s.integ.testOn = false ∧ s.baseSlot + (integD.teststart : Int) = 2205 ∧ integD.testlen = 10 ∧
        s.gtc.count.toNat = n) ∧
    (let s := sInt (64 * 2215) fun i => { i with testOn := true, inttest := 20 };
      s.integ.testOn = true ∧ s.integ.testRun = false ∧ s.job.running = true ∧ s.ckpt.state.toNat < 2 ∧ s.job.step.toNat % s.integ.inttest.toNat = 0) ∧
    ((sInt 0 id).job.image.isSome = true ∧ (sInt 0 id).integ.state ≠ 1) ∧
    (let s := jobI (fun i => { i with integ := some { integD with testlen := 0 } }) { s0 with integ := { s0.integ with state := 1 } };
     let t := job (fun j => { j with launched := false }) s;
      t.job.image.isSome = true ∧ t.integ.state = 1 ∧ t.job.launched = false ∧ t.job.pending = none ∧
        (∀ i ∈ t.integDecl, i.testlen = 0) ∧ t.integ.waiting = [] ∧ t.integ.lost = []) ∧
    (s0.job.image = none ∧ s0.integ.waiting = [] ∧ s0.integ.lost = [] ∧ s0.integ.state = 0 ∧ repairOf .chip 0 = none) ∧
    (∀ t ∈ [260200, 260201], let s := { s0 with integ := { s0.integ with state := 1, probstart := 1000 }, boot := { s0.boot with ptime := BitVec.ofNat 64 t } };
      s.integ.state = 1 ∧ s.integ.probstart.toNat + 259200 = 260200 ∧ s.boot.ptime.toNat = t) := by decide +kernel

def wdOf (s : State) : List Nat := tab 2 fun k => leNat (s.serRd ((decl 1 0 64).dst + 32 * k + 8) 8)

theorem witness_WeightDigestsAreRecordedAndCompared :
    (let s := sInt 0 fun i => { i with wdLog := [(19, 9, 5), (19, 10, 6)] };
      s.integDecl = some integD ∧ (s.job.step.toNat + 1) / integD.w * integD.w - 1 = 19 ∧ s.integ.wdLast = none ∧
        (∀ id ∈ integD.digids, (s.integ.rdigest 19 id).isSome = true) ∧ s.locate .serac integD.wdaddr = .mem integD.wdaddr ∧
        s.writeUe integD.wdaddr 32 = none) ∧
    (∀ v ∈ [0, 7], let c : CollInst := { inst (decl 1 0 64) true id with ended := some 0, step := 20 };
      let s := job (fun j => { j with colls := [c] }) (memB (H + 0x40028) [BitVec.ofNat 8 v] (sInt 0 fun i => { i with wdLast := some (19, 5) }));
      (∃ im ∈ s.job.image, im.topo.pods.length * im.topo.dx = 2 ∧ im.gatherDecl integD = some (0, decl 1 0 64)) ∧
        s.integ.wdLast = some (19, 5) ∧ c ∈ s.job.colls ∧ c.ix = 0 ∧ c.ended = some 0 ∧ c.step = 19 + 1 ∧ wdOf s = [0, v]) := by
  decide +kernel

/-! ### Ouvzu commands -/

def raw (opc : Nat) (args : List (Nat × Nat × Nat)) : List Byte :=
  args.foldl (fun l a => l.take a.1 ++ leBytes a.2.1 a.2.2 ++ l.drop (a.1 + a.2.1)) ([BitVec.ofNat 8 opc, 0] ++ leBytes 2 0x1234 ++ List.replicate 60 0)
def qp (id : Nat) (p : PciePort) : QPair := ⟨id, p, 0x10000, 0x20000, 16, 8, 0, true, 3, 1, 0, 2, 2, 0, 7, true, 0, false⟩
def cmd (id : Nat) (st : CmdStage) (r : List Byte) : Cmd := ⟨5, id, some .a, r, 2, 0, st, false, [], none⟩
/-- One command in a stage, of queue pair `id` of port A; MSI-X tables of 8 entries. -/
def sub (id : Nat) (st : CmdStage) (r : List Byte) (f : State → State) : State :=
  let s := f { hbmOn (fun x => x) s0 with
    routers := Vector.replicate 2 { s0.routers[0] with self := 0x12345, thr := 8, epoch := 3 }
    gtc := { s0.gtc with count := 0x1234567890 }
    boot := { s0.boot with state := .ready } };
  { s with ouvzu := { s.ouvzu with
    queues := s.ouvzu.queues ++ [qp id .a], cmds := [cmd id st r], fns := s.ouvzu.fns.map fun x => { x with msix := List.replicate 8 ⟨0, 0, 0⟩ } } }
def S : CmdStage := .sequenced
def grant (g : Nat) (p : PciePort) (w : Nat) : State → State := ouv fun o => { o with grants := o.grants ++ [⟨g, p, 0x100000, w, 0x10000, true⟩] }
def hostB (a : Nat) (l : List Byte) (s : State) : State := { s with hostA := Memory.writeBytes 0 s.hostA a l }

def rows : List Nat := [0x1F, 0x16, 0x12, 0x13, 0x11, 0x01, 0x17, 0x18, 0x19, 0x1A, 0x09, 0x14, 0x15, 0x10]
def adminRows : List Nat := [0x02, 0x03, 0x04, 0x05, 0x06, 0x07, 0x08]

theorem witness_CommandsCompleteWithTheirRecords :
    (sub 9 S (raw 0x1F []) id).takes (cmd 9 S (raw 0x1F [])) (qp 9 .a) 0x1F ∧
    (knownOpc 0x77 = false ∧ (sub 9 S (raw 0x77 []) id).takes (cmd 9 S (raw 0x77 [])) (qp 9 .a) 0x77) ∧
    (∀ o ∈ rows, let c := cmd 9 S (raw o [(1, 1, 1)]); (sub 9 S (raw o [(1, 1, 1)]) id).holds c (qp 9 .a) o ∧ c.reservedOk = false) ∧
    (∀ o ∈ adminRows, (sub 2 S (raw o []) id).holds (cmd 2 S (raw o [])) (qp 2 .a) o) ∧
    (∀ o ∈ adminRows, let c := cmd 0 S (raw o [(1, 1, 1)]); (sub 0 S (raw o [(1, 1, 1)]) id).holds c (qp 0 .a) o ∧ c.reservedOk = false) := by
  decide +kernel

def bCreate : List Byte :=
  raw 2 [(8, 8, 0x5000), (16, 8, 0x6000), (24, 2, 9), (26, 2, 15), (28, 2, 7), (30, 1, 7), (31, 1, 1), (32, 2, 2047), (34, 1, 4), (35, 1, 5)]
def takes0 (b : List Byte) (f : State → State) (opc : Nat) : Prop := (sub 0 S b f).takes (cmd 0 S b) (qp 0 .a) opc
def withQ (k : QPair) : State → State := ouv fun o => { o with queues := [k] }

theorem witness_AdminCommandsSetUpTheQueues :
    (takes0 bCreate id 2 ∧ (let c := cmd 0 S bCreate;
      c.arg 8 8 = 0x5000 ∧ c.arg 16 8 = 0x6000 ∧ c.arg 24 2 = 9 ∧ c.arg 26 2 = 15 ∧ c.arg 28 2 = 7 ∧ c.arg 30 1 = 7 ∧ c.arg 31 1 = 1 ∧
        c.arg 32 2 = 2047) ∧ (sub 0 S bCreate id).queue 9 = none) ∧
    (takes0 bCreate (withQ (qp 9 .a)) 2 ∧ (sub 0 S bCreate (withQ (qp 9 .a))).queue 9 = some (qp 9 .a)) ∧
    (takes0 (raw 3 [(8, 2, 9)]) (withQ (qp 9 .a)) 3 ∧ (cmd 0 S (raw 3 [(8, 2, 9)])).arg 8 2 = 9) ∧
    (let b := raw 4 ((List.range 8).map fun i => (8 + i, 1, 64 - 9 * i));
      takes0 b id 4 ∧ ∀ i < 8, 1 ≤ (cmd 0 S b).arg (8 + i) 1 ∧ (cmd 0 S b).arg (8 + i) 1 ≤ 64) ∧
    (let b := raw 5 [(8, 8, 0x200000), (16, 8, 0x10000), (24, 8, 0x1000), (32, 1, 5), (33, 1, 1)];
     let c := cmd 0 S b;
      takes0 b (grant 3 .a 0) 5 ∧ c.arg 16 8 = 0x10000 ∧ c.arg 24 8 = 0x1000 ∧ c.arg 33 1 = 1 ∧
        ∀ g ∈ (sub 0 S b (grant 3 .a 0)).ouvzu.grants, g.gid ≠ c.arg 32 1 ∧ g.win + g.len ≤ c.arg 16 8) ∧
    (let b := raw 6 [(8, 1, 3)];
     let s := sub 0 S b (grant 3 .a 0);
      takes0 b (grant 3 .a 0) 6 ∧ (cmd 0 S b).arg 8 1 = 3 ∧ ∀ o ∈ s.ouvzu.grants, o.gid = 3 ∧ s.ringsUse o = false) ∧
    (takes0 (raw 7 [(8, 1, 1)]) (fns fun f => { f with disabled := true }) 7 ∧ portArg 1 = some .b) ∧
    (takes0 (raw 8 [(8, 1, 1)]) (withQ (qp 9 .b)) 8 ∧ (sub 0 S (raw 8 [(8, 1, 1)]) (withQ (qp 9 .b))).usesPort .b = false) := by
  unfold takes0; decide +kernel

def takes7 (b : List Byte) (f : State → State) (opc : Nat) : Prop := (sub 7 S b f).takes (cmd 7 S b) (qp 7 .a) opc
def msg (dq n : Nat) : Packet := ⟨0x12345, 0x777, 1, 3, BitVec.ofNat 32 (dq * 2 ^ 18 + 5), [], List.replicate n 9⟩
def bReg : List Byte := raw 0x17 [(8, 8, 0x40000), (16, 8, 0x50000), (24, 2, 1)]
def regList (e : Nat) : State → State := hostB 0x40000 (leBytes 8 e)
def bPiv : List Byte := raw 0x18 [(8, 8, H), (16, 4, 2), (20, 4, 16), (24, 1, 1), (25, 1, 3)]

theorem witness_InformationAndMessageCommands :
    (takes7 (raw 1 [(8, 8, 0x30000)]) id 1 ∧ (qp 7 .a).cqBase + 32 * (qp 7 .a).cqTail + 32 ≤ 0x30000) ∧
    (∀ e ∈ [0x3000_0000_0000_0000, 0x9000_0000_0000_0000], let s := sub 7 S bReg (regList e);
      takes7 bReg (regList e) 0x17 ∧ (cmd 7 S bReg).arg 24 2 = 1 ∧ leNat (s.hostRd .a 0x40000 8) = e ∧
        ((s.readEntry (BitVec.ofNat 64 e)).isSome ↔ e = 0x3000_0000_0000_0000)) ∧
    (∀ v ∈ [0x3F800000, 0x7FC00000], let f := memB (H + 16) (leBytes 4 v); let s := sub 7 S bPiv f; let c := cmd 7 S bPiv;
      takes7 bPiv f 0x18 ∧ c.arg 16 4 = 2 ∧ c.arg 24 1 = 1 ∧ c.arg 25 1 = 3 ∧ (∀ i < 2, s.inHbm (H + 16 * i) 4 = true) ∧
        leNat (s.serRd (H + 16) 4) = v) ∧
    (let b := raw 0x19 [(8, 8, 0x40000), (16, 4, 0x555), (20, 2, 16383), (22, 2, 960)];
     let s := sub 7 S b id;
      takes7 b id 0x19 ∧ (cmd 7 S b).arg 22 2 = 960 ∧ (cmd 7 S b).arg 20 2 = 16383 ∧
        ∀ d ∈ [Die.west, .east], (s.router d).throttling = false ∧ (s.router d).injQ = [] ∧ 16 ≤ 16 * (s.router d).thr.toNat) ∧
    (let m : HeldMsg := ⟨0x99, 7, 5, List.replicate 32 7⟩;
      takes7 (raw 0x1A [(8, 8, 0x60000)]) (ouv fun o => { o with store := [m] }) 0x1A ∧
        (qp 7 .a).cqBase + 32 * (qp 7 .a).cqTail + 32 ≤ 0x60000 ∧ m.dqid = 7 ∧ m.data.length < 2 ^ 16) ∧
    (takes7 (raw 0x1A [(8, 8, 0x60000)]) id 0x1A ∧ (sub 7 S (raw 0x1A [(8, 8, 0x60000)]) id).ouvzu.store = []) ∧
    (∀ n ∈ [7, 8], let p := msg n 48; let b := raw 0x1A [(8, 8, 0x60000)]; let s := sub 7 .executing b id;
      p.WellFormed = true ∧ pktClass p = 1 ∧ pktDst p = (s.routers[0]).self ∧ fieldAt p.tag.toNat 18 14 = n ∧
        (∀ d ∈ [Die.west, .east], (s.router d).unsched = [] ∧ (s.router d).delivered = []) ∧
        s.executes (cmd 7 .executing b) (qp 7 .a) 0x1A ∧ s.queue 7 = some (qp 7 .a) ∧ s.queue 8 = none) := by
  unfold takes7; decide +kernel

theorem witness_TopKDoesNotDependOnSplitOrOrder :
    let a : List Cand := [⟨.fin false 3 0, 1, 5⟩, ⟨.nan, 2, 6⟩];
    let b : List Cand := [⟨.fin true 6 0, 6, 10⟩, ⟨.inf true, 5, 9⟩];
    1 ≤ 2 ∧ (a ++ b).Pairwise (fun x y => x.pos ≠ y.pos) := by decide +kernel

/-! ### Queues, ports, job ends -/

def noCmd (s : State) : State := { s with ouvzu := { s.ouvzu with cmds := [] } }
/-- Port A enabled with queue pair 9 only. -/
def sQ (f : QPair → QPair) : State :=
  let s := fns (fun x => { x with en := true, aqsq := 0x1000, aqcq := 0x2000, aqsize := 0x00030007 }) (noCmd (sub 9 S (raw 1 []) id));
  withQ (f (qp 9 .a)) s
def off (s : State) : State := fns (fun x => { x with en := false, rdy := false }) s
def aheadOf (a b size : Nat) : Nat := if a ≤ b then b - a else b + size - a

theorem witness_DoorbellsEnableAndMailbox :
    (let s := sQ fun q => { q with sqHead := 14, sqTail := 1, cqHead := 6, cqTail := 2 };
      (s.fn .a).disabled = false ∧ s.ouvzu.closing = [] ∧ (s.fn .a).en = true ∧ s.queue 8 = none ∧ s.queue 9 ≠ none ∧
        (∀ x ∈ s.queue 9, x.port = .a ∧ x.sqHead < x.sqSize ∧ x.sqTail < x.sqSize ∧ x.cqHead < x.cqSize ∧ x.cqTail < x.cqSize ∧
          (2 < x.sqSize ∧ aheadOf x.sqHead x.sqTail x.sqSize ≤ aheadOf x.sqHead 2 x.sqSize) ∧
          (x.sqSize ≤ 16 ∧ aheadOf x.sqHead 15 x.sqSize < aheadOf x.sqHead x.sqTail x.sqSize) ∧
          (1 < x.cqSize ∧ aheadOf x.cqHead 1 x.cqSize ≤ aheadOf x.cqHead x.cqTail x.cqSize) ∧
          (x.cqSize ≤ 8 ∧ aheadOf x.cqHead x.cqTail x.cqSize < aheadOf x.cqHead 3 x.cqSize))) ∧
    ((off (sQ id)).fn .a).en = false ∧
    (sQ id).fn .a ≠ { (sQ id).fn .a with mbbusy := true } ∧
    ((fns (fun x => { x with mbbusy := true }) (sQ id)).fn .a).mbbusy = true ∧
    (let f := (off (sQ id)).fn .a;
      f.en = false ∧ f.rdy = false ∧ f.aqsq.toNat % 4096 = 0 ∧ f.aqcq.toNat % 4096 = 0 ∧ fieldAt f.aqsize.toNat 0 16 = 7 ∧
        fieldAt f.aqsize.toNat 16 16 = 3 ∧ ∀ x ∈ (off (sQ id)).ouvzu.queues, x.id ≠ portNo .a) ∧
    (let f := (fns (fun x => { x with aqsq := 0x1001 }) (off (sQ id))).fn .a; f.en = false ∧ f.aqsq.toNat % 4096 ≠ 0) ∧
    ((fns (fun x => { x with disabled := true }) (sQ id)).fn .a).disabled = true ∧
    (let q := { qp 9 .a with since := 2, coalT := 4 }; (sQ fun _ => q).queue 9 = some q ∧ q.ien = true ∧ 0 < q.since ∧ q.coalT ≠ 0) ∧
    ((sQ id).queue 9 = some (qp 9 .a) ∧ (qp 9 .a).since = 0) := by decide +kernel

def qR (f : QPair → QPair) : QPair := f { qp 9 .a with sqHead := 3, sqTail := 5, cqHead := 7 }
def sR (f : QPair → QPair) : State :=
  ouv (fun o => { o with weights := Vector.replicate 8 1 }) (withQ (qR f) (noCmd (sub 9 S (raw 0 []) id)))
/-- Two commands, in a stage, of two queue pairs. -/
def cmds2 (a b : Cmd) (q r : QPair) : State := ouv (fun o => { o with queues := [q, r], cmds := [a, b] }) (sub 9 S (raw 0 []) id)
def cX (h id : Nat) (p : PciePort) (st : CmdStage) (r : List Byte) : Cmd := ⟨h, id, some p, r, 2, 0, st, false, [], none⟩
def bAbort : List Byte := raw 9 [(8, 2, 8), (10, 2, 5)]

theorem witness_CommandsAreFetchedSequencedAndAborted :
    (∀ m ∈ [0, 1, 7], let q := qR fun q => if m = 7 then q else { q with sqHead := 15, sqTail := 0, cqSize := m + 1, cqHead := m, cqTail := m };
     let s := sR fun _ => q;
      s.ouvzu.queues = [q] ∧ 2 ≤ q.id ∧ q.id < 16384 ∧ q.cls < 8 ∧ s.ouvzu.cmds = [] ∧ s.ouvzu.closing = [] ∧ q.hold = false ∧
        (∀ p ∈ [PciePort.a, .b], (s.fn p).mbbusy = false) ∧ (∀ i : Fin 8, s.ouvzu.weights[i] = 1) ∧ q.sqHead < q.sqSize ∧
        q.sqTail < q.sqSize ∧ q.sqHead ≠ q.sqTail ∧ q.cqHead = q.cqTail ∧ q.cqSize = m + 1 ∧
        ((q.sqHead + 1) % q.sqSize = q.sqTail ∨ m = 7)) ∧
    (let s := sub 9 .fetched (raw 0x11 []) id; s.ouvzu.cmds = [cmd 9 .fetched (raw 0x11 [])]) ∧
    (let c := cX 5 9 .a .fetched (raw 0x11 []); let d := cX 6 8 .b .fetched (raw 0x13 []); let q := qp 9 .a; let r := qp 8 .b;
     let s := cmds2 c d q r;
      s.ouvzu.cmds = [c, d] ∧ s.queue q.id = some q ∧ s.queue r.id = some r ∧ s.ouvzu.closing = [] ∧ c.contradicts d = true ∧
        isReduce c.opc = false ∧ isReduce d.opc = true ∧ c.handle ≠ d.handle ∧ c.sqid = q.id ∧ d.sqid = r.id) ∧
    (let c := cmd 9 S bAbort; (sub 9 S bAbort id).takes c (qp 9 .a) 9 ∧ (c.arg 8 2, c.arg 10 2) ≠ (c.sqid, c.cid) ∧
      (sub 9 S bAbort id).ouvzu.done = [] ∧ (sub 9 S bAbort (ouv fun o => { o with done := [(8, 5, 0x11)] })).ouvzu.done = [(8, 5, 0x11)] ∧
      c.arg 8 2 = 8 ∧ c.arg 10 2 = 5) ∧
    (let d := cX 5 8 .a S (raw 0x1f []); let c := cX 6 9 .a S (raw 9 [(8, 2, 8), (10, 2, 0x1234)]); let q := { qp 9 .a with cqBase := 0x90000 };
     let r := qp 8 .a; let s := cmds2 d c q r;
      s.ouvzu.cmds = [d, c] ∧ c.handle ≠ d.handle ∧ s.queue q.id = some q ∧ s.queue r.id = some r ∧ r.port = q.port ∧ c.opc = 9 ∧
        c.reservedOk = true ∧ d.opc = 0x1F ∧ c.arg 8 2 = d.sqid ∧ c.arg 10 2 = d.cid ∧
        r.cqBase + 32 * r.cqTail + 32 ≤ q.cqBase + 32 * q.cqTail) := by decide +kernel

def seen (w : Bool) : State := jobI (fun i => { i with regions := [⟨H + 0x1000, 0x2000, 6, w⟩] }) (hbmOn id (sR id))

theorem witness_PortsResetAndBar2Accesses :
    (∀ l ∈ [true, false], let s := fns (fun x => { x with linkUp := l, irqs := [2] }) (grant 3 .a 0 (sR id));
      s.ouvzu.cmds = [] ∧ s.ouvzu.closing = [] ∧ s.usesPort .a = false ∧ (s.fn .a).linkUp = l) ∧
    (let c := cmd 9 S bAbort; let s := sub 9 S bAbort (fns fun x => { x with linkUp := true });
      s.ouvzu.cmds = [c] ∧ c.port = some .a ∧ c.sqid < 16384 ∧ c.aborter = [] ∧ s.ouvzu.closing = [] ∧ s.usesPort .a = false ∧
        (s.fn .a).linkUp = true) ∧
    ((fns (fun x => { x with disabled := true }) s0).fn .a).disabled = true ∧
    (∀ w ∈ [true, false], let s := seen w; let r : Region := ⟨H + 0x1000, 0x2000, 6, w⟩;
      (s.fn .a).disabled = false ∧ s.hostVisible = [r] ∧ 0x1ff0 + 16 ≤ r.len ∧ r.len < 0x1ff1 + 16 ∧
        (∀ o ∈ [0, 0x1ff0], s.locate .serac (r.base + o) = .mem (r.base + o) ∧ s.writeUe (r.base + o) 16 = none)) := by decide +kernel

def img (s : State) : State := jobI id (job (fun j => { j with step := 7, admState := 2 }) s)
/-- The image admitted, and stopped or running. -/
def admitted (run : Bool) (f : Job → Job) (s : State) : State :=
  job (fun j => f { j with running := run, launched := run })
    (gtc (fun g => { g with locked := true, slen := 10 })
      { img s with routers := s.routers.map fun r => { r with lock := true } })

theorem witness_AbortsAndJobEnds :
    (∀ o ∈ [0x13, 0x16], (sub 9 S (raw o []) id).takes (cmd 9 S (raw o [])) (qp 9 .a) o ∧ (sub 9 S (raw o []) id).job.image = none) ∧
    (∀ o ∈ [0x13, 0x16], let s := sub 9 S (raw o []) (admitted true id);
      s.takes (cmd 9 S (raw o [])) (qp 9 .a) o ∧ s.job.image.isSome = true ∧ s.job.pending = none ∧ s.job.colls = [] ∧
        ∀ k : ClusterId, (s.cluster k).running = []) ∧
    (∀ n ∈ [0, 0x10], let e : JobEnd := ⟨n, 0x33⟩; let s := sub 9 .executing (raw 0x16 []) (admitted true fun j => { j with pending := some e });
      s.job.pending = some e ∧ e.status < 2 ^ 16 ∧ s.executes (cmd 9 .executing (raw 0x16 [])) (qp 9 .a) 0x16 ∧ s.job.colls = [] ∧
        ∀ k : ClusterId, (s.cluster k).running = []) := by decide +kernel

def bLaunch (l : Nat) : List Byte := raw 0x11 [(8, 8, l)]
def tL : Nat := 0x1234567890 + 200000
def sL (l : Nat) (f : State → State) : State := sub 9 S (bLaunch l) f
def lockG (s : State) : State := gtc (fun g => { g with locked := true, master := false }) s
def launched (n : Nat) : State :=
  admitted false (fun j => { j with launched := true }) (gtc (fun g => { g with launch := 0x20005, count := BitVec.ofNat 64 n }) s0)

theorem witness_LaunchStartsAndQuiesceEnds :
    (∀ l ∈ [tL / 64 * 64 + 1, tL / 64 * 64, tL / 64 * 64 + 64], (sL l id).takes (cmd 9 S (bLaunch l)) (qp 9 .a) 0x11 ∧
      (cmd 9 S (bLaunch l)).arg 8 8 = l ∧ (sL l id).gtc.count.toNat + 200000 = tL ∧ (sL l id).gtc.locked = false ∧
      (sL l id).gtc.master = false ∧ (sL l lockG).gtc.locked = true ∧ (sL l lockG).job.image = none ∧
      (let s := sL l (admitted false id);
        s.job.image = some im0 ∧ s.job.launched = false ∧ s.job.pending = none ∧ (s.routers[0]).lock = true)) ∧
    (∀ r ∈ [true, false], let s := sub 9 S (raw 0x12 []) (admitted r id);
      s.takes (cmd 9 S (raw 0x12 [])) (qp 9 .a) 0x12 ∧ s.job.running = r ∧ s.job.pending = none ∧ s.job.quiesce = none) ∧
    (let s := sub 9 .executing (raw 0x12 []) (admitted true fun j => { j with quiesce := some 7, stepL := 7 });
      s.executes (cmd 9 .executing (raw 0x12 [])) (qp 9 .a) 0x12 ∧ s.job.quiesce = some 7 ∧ s.job.running = true ∧
        64 * (s.job.base + ((7 : Int) + 1 - s.job.stepL.toNat) * s.gtc.slen.toNat) ≤ (s.gtc.count.toNat : Int) ∧
        (∀ t : TileId, (s.tile t).idleAt (s.job.base + ((7 : Int) + 1 - s.job.stepL.toNat) * s.gtc.slen.toNat) = true) ∧
        (∀ k : ClusterId, s.seracDone k 7 = true) ∧ (∀ i ∈ s.job.colls, i.ended.isSome = true) ∧ s.moraineDone 7 = true) ∧
    (∀ n ∈ [0x1FFFF, 0x20000], let s := launched n;
      s.job.launched = true ∧ s.job.running = false ∧ 64 * (s.gtc.launch.toNat / 64) = 0x20000 ∧ s.gtc.count.toNat = n ∧
        s.job.restored = false ∧ s.ckpt.state ≠ 4 ∧ s.job.stopped = [] ∧ s.job.resume.slotOff = 0 ∧ s.job.colls = []) := by decide +kernel

/-! ### Admission, checkpoint -/

def podNo : Nat := 2
/-- An image of 674 bytes for chip 0x10000, its SHA-256 `dg`. -/
def imgBytes (dg : List Byte) : List Byte :=
  let sec (ty o len : Nat) : List Byte := leBytes 2 ty ++ leBytes 2 0 ++ leBytes 4 1 ++ leBytes 8 o ++ leBytes 8 len ++ leBytes 8 0;
  [0x50, 0x52, 0x45, 0x46, 0x4F, 0x4C, 0x44, 0x01] ++ leBytes 2 0x0100 ++ leBytes 2 0x302 ++ [0xB1, 0] ++ leBytes 2 4 ++ leBytes 8 128 ++
    leBytes 8 674 ++ leBytes 8 77 ++ leBytes 4 1000 ++ leBytes 4 0 ++ leBytes 8 5 ++ leBytes 8 0 ++ dg ++ List.replicate 32 0 ++
    sec 1 256 64 ++ sec 2 320 66 ++ sec 3 386 32 ++ sec 4 418 256 ++ (leBytes 2 256 ++ List.replicate 62 0) ++
    ([1, 1, 1, 0, 0, 0, 0, 1] ++ leBytes 2 1 ++ [1, 1] ++ leBytes 2 1 ++ [0, 0] ++ leBytes 8 9 ++ List.replicate 40 0 ++ leBytes 2 (podOf 0x10000)) ++
    (leBytes 8 H ++ leBytes 8 0x10000 ++ [0, 1] ++ List.replicate 14 0) ++
    ((List.range 64).flatMap fun k => if k = 0 then [0, 1, 0, 0] else [0xFF, 0, 0, 0])
def goodImg : List Byte := imgBytes (leBytes 32 73753019023503218828161236991007644270385449066188998845427176208673063702097).reverse
def admB (n : Nat) : List Byte := raw 0x10 [(8, 8, 0x40000), (16, 8, n), (24, 8, 0x50000)]
def fit (s : State) : State :=
  { s with
    hbm := s.hbm.map fun h => { h with cap := 0x100000000, pcmap := 64, enabled := BitVec.allOnes 64 }
    routers := s.routers.map fun r => { r with topo := 0, self := 0x10000 } }
def sAdm (b : List Byte) (f : State → State) : State := sub 9 S (admB b.length) fun s => fit (hostB 0x40000 b (f s))


def gI : Img := Img.read goodImg
def sP : State := (sAdm goodImg id).admitPrepare
/-- The state that the checks see. -/
def sI : State := { sP with job := { sP.job with admWait := none } }

/-- What the image shows by itself passes. -/
theorem image_checks_without_breaks :
    (gI.magic = none ∧ gI.format = none ∧ gI.digestCheck = none ∧ gI.sectCheck = none ∧ gI.level = none) ∧
    (sI.unfit = none ∧ gI.topoCheck sI = none ∧ gI.portCheck sI = none) ∧
    (gI.regionCheck = none ∧ gI.storeCheck = none ∧ gI.rimeCheck = none ∧ gI.serStoreCheck = none) ∧
    (gI.illegalCheck = none ∧ gI.descCheck sI = none ∧ gI.linkCheck = none) ∧
    (gI.phaseCheck = none ∧ gI.seracCheck = none ∧ gI.collCheck sI = none ∧ gI.optCheck = none ∧ gI.moraineCheck sI = none ∧
      gI.ckptCheck = none ∧ gI.lockstepCheck = none) := by decide +kernel

/-- The image asks no width below 256, its load faults nowhere, no port retrains, and no journal holds a repair. -/
theorem image_needs_nothing :
    gI.minWidth = 256 ∧ gI.firstFault gI.writes sI = none ∧ (∀ k : PortId, (sP.port k).retrains = false) ∧
    (sAdm goodImg id).takes (cmd 9 S (admB 674)) (qp 9 .a) 0x10 ∧ (sAdm goodImg id).hostRd .a 0x40000 674 = goodImg ∧ (cmd 9 S (admB 674)).arg 24 8 = 0x50000 ∧
    (allPorts.filter (sAdm goodImg id).wantsRetrain) = [] ∧ (sAdm goodImg id).fuses.badTiles = [] ∧
    (sAdm goodImg id).fuses.badColumns = [] ∧ (sAdm goodImg id).integ.repairs = [] := by decide +kernel

theorem image_checks_of_breaks (hb : ∀ n l, Config.breaks n l = false) :
    gI.capacityCheck sI = none ∧ gI.shapeCheck = none ∧ gI.schedCheck = none := by
  unfold Img.capacityCheck Img.shapeCheck Img.schedCheck
  simp only [hb]
  clear hb
  decide +kernel

/-- With no bad column every tile has its full width (R98). -/
theorem mapTile_width (s : State) (l : Nat) (x : Tile) (h1 : s.fuses.badTiles = []) (h2 : s.fuses.badColumns = [])
    (h3 : s.integ.repairs = []) : (s.mapTile l x).width = 256 := by
  have hc : ∀ p c, s.columnBad p c = false := by intro p c; simp [State.columnBad, State.journalled, h2, h3]
  have hn : ∀ p, s.badColumnCount p = 0 := by intro p; simp [State.badColumnCount, hc]
  have ht : ∀ p, s.tileBad p = false := by intro p; simp [State.tileBad, State.journalled, h1, h3, hn, widthOf, cdiv]
  have hp : s.physTile l = some (17 * (l / 16) + l % 16) := by
    have : l % 16 < 17 := by omega
    simp [State.physTile, ht, this]
  simp [State.mapTile, hp, hn, widthOf, cdiv]

theorem image_passes_every_check (hb : ∀ n l, Config.breaks n l = false) : gI.check sI = none := by
  obtain ⟨hw, -, -, -, -, -, hr, u⟩ := image_needs_nothing
  have hs : sP = (sAdm goodImg id).applyRepairs := by unfold sP State.admitPrepare; rw [hr]; rfl
  have g1 : gI.widthCheck sI = none := by
    unfold Img.widthCheck
    rw [hw]
    have hn : sI.tiles.toList.findIdx? (fun x => decide (x.width.toNat < 256)) = none := by
      rw [List.findIdx?_eq_none_iff]
      intro x hx
      obtain ⟨i, h, rfl⟩ := Vector.mem_iff_getElem.1 (Vector.mem_toList_iff.1 hx)
      simp [sI, hs, State.applyRepairs, mapTile_width, u]
    dsimp only
    rw [hn]
    rfl
  simp [Img.check, image_checks_without_breaks, image_checks_of_breaks hb, g1]

theorem witness_AdmissionChecksThenLoads (hb : ∀ n l, Config.breaks n l = false) :
    let s := sAdm goodImg id
    s.takes (cmd 9 S (admB 674)) (qp 9 .a) 0x10 ∧ (qp 9 .a).cqBase + 32 * (qp 9 .a).cqTail + 32 ≤ 0x50000 ∧ s.job.image = none ∧
      s.job.admState ≠ 1 ∧ (∀ k : PortId, (s.admitPrepare.port k).retrains = false) ∧ gI.check sI = none ∧
      gI.firstFault gI.writes sI = none := by
  obtain ⟨-, h1, h2, h3, -⟩ := image_needs_nothing
  have h4 : (qp 9 .a).cqBase + 32 * (qp 9 .a).cqTail + 32 ≤ 0x50000 ∧ (sAdm goodImg id).job.image = none ∧
      (sAdm goodImg id).job.admState ≠ 1 := by decide +kernel
  exact ⟨h3, h4.1, h4.2.1, h4.2.2, h2, image_passes_every_check hb, h1⟩

/-- A port that an earlier admission left retraining keeps ADMIT waiting (R469). -/
theorem witness_AdmissionChecksThenLoads_waits :
    let s := sAdm goodImg fun s => { s with ports := s.ports.map fun x => { x with retraining := true } };
    s.takes (cmd 9 S (admB 674)) (qp 9 .a) 0x10 ∧ s.job.image = none ∧ s.job.admState ≠ 1 ∧ (s.admitPrepare.port 0).retrains = true := by
  decide +kernel

/-- A line of the target that is marked makes the load fault. -/
theorem witness_AdmissionChecksThenLoads_load :
    let w : LoadWrite := ⟨0, true, H + 16, [1]⟩;
    gI.firstFault [w] { sI with hbm := sI.hbm.set 0 { sI.hbm[0] with marked := [H] } } = some w := by decide +kernel

/-- Bytes of no image fail MAGIC (R471); with an image admitted ADMIT has its own answer. -/
theorem witness_AdmissionChecksThenLoads_refused :
    (let s := sAdm (List.replicate 674 0) id;
      s.takes (cmd 9 S (admB 674)) (qp 9 .a) 0x10 ∧ s.job.image = none ∧
        ((Img.read (s.hostRd .a 0x40000 674)).check s.admitPrepare).map (·.code) = some 0x101) ∧
    (sAdm [] img).job.image.isSome = true := by decide +kernel

def bCap : List Byte := raw 0x14 [(8, 8, 12), (16, 4, 3), (24, 8, 0x1000), (32, 8, 0x8000)]
def ten1 : TensDecl :=
  ⟨4, 1, 2, 0, 0, [0, 0, 0, 0], [2, 4, 0, 0], H + 0x100, 0,
    leBytes 4 4 ++ [1, 2, 0, 0] ++ List.replicate 8 0 ++ leBytes 8 2 ++ leBytes 8 4 ++ leBytes 16 0 ++ leBytes 8 (H + 0x100) ++ leBytes 8 0⟩
def im1 : Image :=
  { im0 with topo := { topo1 with pods := [2] }, regions := [⟨H, 0x1000, 0, true⟩], tensors := [ten1], digest := List.replicate 32 5, nosave := 1 }
def arm0 : Armed := ⟨5, 12, 3, 0x1000, 0x8000⟩
/-- A job in step 7 whose capture point is slot 3 of step 12, at slot 5003 from its base. -/
def sCap (st : CmdStage) (f : State → State) : State :=
  sub 9 st bCap fun s => f (grant 3 .a 0
    { s with
      job := { s.job with image := some im1, admState := 2, launched := true, running := true, step := 7, stepL := 7, base := 0x1234567890 / 64 }
      gtc := { s.gtc with slen := 1000 }
      routers := s.routers.map fun r => { r with self := 0x10000 } })
def armed (st : BitVec 3) (s : State) : State := { s with ckpt := { s.ckpt with state := st, armed := some arm0 } }
def late (n : Nat) (s : State) : State := { s with gtc := { s.gtc with count := BitVec.ofNat 64 (64 * (0x1234567890 / 64 + 5003) + n) } }

/-- That the window fits what the units need, which is Config's, is the one premise taken on trust. -/
theorem witness_CaptureAndRestore_capture (hf : im1.captureSize (sCap S id).routers[0].self ≤ 0x8000) :
    (let c := cmd 9 S bCap; let s := sCap S id;
      s.job.image = some im1 ∧ s.takes c (qp 9 .a) 0x14 ∧ c.arg 16 4 < s.gtc.slen.toNat ∧ c.arg 24 8 % 4096 = 0 ∧
        s.job.running = true ∧ s.job.pending = none ∧ s.ckpt.armed = none ∧
        (s.gtc.count.toNat : Int) + 200000 ≤ 64 * s.capturePoint (c.arg 8 8) (c.arg 16 4) ∧
        (s.windowAt (0x4000_0000_0000 + c.arg 24 8) (c.arg 32 8) true).isSome = true ∧
        im1.captureSize s.routers[0].self ≤ c.arg 32 8) ∧
    (sCap S (job fun j => { j with running := false })).job.running = false ∧
    (let s := sCap .executing (armed 1);
      s.ckpt.armed = some arm0 ∧ s.ckpt.state = 1 ∧ s.job.running = true ∧
        (s.gtc.count.toNat : Int) < 64 * s.capturePoint arm0.step.toNat arm0.slotOff) ∧
    (let s := sCap .executing (armed 1 ∘ late 0);
      s.ckpt.armed = some arm0 ∧ s.ckpt.state = 1 ∧ s.job.running = true ∧
        64 * s.capturePoint arm0.step.toNat arm0.slotOff = s.gtc.count.toNat) ∧
    (let s := sCap .executing (armed 2 ∘ late 9);
      s.ckpt.armed = some arm0 ∧ s.ckpt.state = 2 ∧ s.job.pending = none ∧ (∀ t : TileId, (s.tile t).drained = true) ∧
        s.transfersDone arm0 = true ∧ s.executes (cmd 9 .executing bCap) (qp 9 .a) 0x14 ∧
        s.windowAt (0x4000_0000_0000 + arm0.winOff.toNat) arm0.winLen.toNat true = some (.a, 0x101000)) := by
  have hw : 0x8000 = (cmd 9 S bCap).arg 32 8 := by decide +kernel
  rw [hw] at hf
  simp only [hf, and_true]
  clear hf hw
  decide +kernel

/-! A manifest of one part that holds no shard, and a tensor table of no entry. -/

def partB : List Byte := [0x50, 0x50] ++ List.replicate 62 0
def manB (dg : List Byte) (o : Nat) : List Byte :=
  let h := [0x50, 0x46, 0x4D, 0x41, 0x4E, 0x49, 0x46, 0x01] ++ leBytes 8 77 ++ dg ++ leBytes 8 12 ++ leBytes 4 o ++ leBytes 4 0 ++ im1.topo.shape ++
    leBytes 4 1 ++ List.replicate 20 0;
  let t := List.replicate 8 0 ++ leBytes 8 0x5000 ++ leBytes 8 64 ++ leBytes 8 0 ++ sha256 (partB.take 32 ++ partB.drop 64);
  h ++ sha256 (h ++ t) ++ t
def bRest : List Byte := raw 0x15 [(8, 8, 0x4000)]
def sRest (dg : List Byte) (o : Nat) (f : State → State) : State :=
  sub 9 S bRest fun s => f (grant 3 .a 0
    { s with
      hostA := Memory.writeBytes 0 (Memory.writeBytes 0 [] 0x104000 (manB dg o)) 0x105000 partB
      job := { s.job with image := some { im1 with tensors := [] }, admState := 2 }
      routers := s.routers.map fun r => { r with self := 0x10000 } })
/-- What RESTORE of a state comes to: the step and offset, or the code of its failure. -/
def restores (s : State) : Nat × Nat :=
  let n := s.takeFree;
  match n.2.grantAt 0x4000 with
  | none => (0, 0)
  | some g => match n.2.readManifest g 0x4000 with
    | .error e => (1, e.1.code)
    | .ok (m, _) => match n.2.restoreFrom { im1 with tensors := [] } g m with
      | .error e => (2, e.code)
      | .ok t => (t.job.resume.slotOff, leAt m.head 48 8)

theorem witness_CaptureAndRestore_restore :
    (let s := sRest (List.replicate 32 5) 3 id; s.takes (cmd 9 S bRest) (qp 9 .a) 0x15 ∧ s.restorable = true ∧ restores s = (3, 12)) ∧
    restores (sRest (List.replicate 32 6) 3 id) = (2, 0x803) ∧
    (let s := sRest [] 0 (ouv fun o => { o with grants := [] }); s.takes (cmd 9 S bRest) (qp 9 .a) 0x15 ∧ s.restorable = true ∧ restores s = (0, 0)) := by
  decide +kernel

/-! ### Lomtirel, sideband, registers -/

def cfg1 : CfgBlock :=
  { (default : CfgBlock) with managers := [0x11, 0x22], i3cStatic := 0x42, fru := (List.range 40).map (BitVec.ofNat 8), connA := true, cabled := 3 }
def copyOf (b : Bool) (seq : Nat) (s : State) : State :=
  let s := { s with nor := Memory.writeBytes 0xFF s.nor (copyBase b + 64) (List.replicate 16 7) };
  let h := copyMagic ++ leBytes 4 seq ++ leBytes 4 16 ++ List.replicate 40 0;
  { s with nor := Memory.writeBytes 0xFF s.nor (copyBase b) (h ++ leBytes 8 (crc64 (h.take 56 ++ s.norRd (copyBase b + 64) 16)).toNat) }
/-- A ready chip with two managers; copy A is the selected one. -/
def sLom (f : State → State) : State :=
  f (copyOf true 6 (copyOf false 7
    { s0 with
      boot := { s0.boot with state := .ready, inReset := false, cfg := some cfg1, bootno := 6, telemOn := true }
      side := { s0.side with aonPwrgd := true, resetN := true }
      lom := { s0.lom with managers := [⟨0x11, 5, some ⟨0x11, 3, 5, 77, [1, 2, 3]⟩⟩, ⟨0x22, 9, none⟩] } }))
def m6 : LomHeader := ⟨0x11, 6⟩
def pow (f : Power → Power) (s : State) : State := { s with power := f s.power }
def boo (f : Boot → Boot) (s : State) : State := { s with boot := f s.boot }
def sid (f : Side → Side) (s : State) : State := { s with side := f s.side }
def nor3 : NorOp := ⟨0x20, [1, 2, 3]⟩
def norBusy (s : State) : State := { s with lom := { s.lom with norOp := some nor3 } }

theorem witness_ManagersCommandsAct :
    (∀ f ∈ [0, 1, 2, 3, 4, 5, 6], (sLom (match f with
      | 0 => id | 1 => pow fun p => { p with wireA := true } | 2 => gtc fun g => { g with master := true } | 3 => jobI id
      | 4 => boo fun b => { b with inReset := true, journal := [⟨6, 1, .started, 0, 9⟩] } | 5 => norBusy
      | _ => fun s => { s with integ := { s.integ with state := 2 } })).accepts m6) ∧
    ((sLom id).power.wireA = false ∧ (sLom id).power.wireB = false ∧ (sLom id).gtc.master = false ∧ (sLom id).boot.inReset = false ∧
      (sLom id).lom.norOp = none ∧ (sLom id).boot.first = 0) ∧
    (let s := sLom id;
      (s.beginLom m6).readEntry 0x3000_0000_0000_0000 ≠ none ∧ (s.beginLom m6).readEntry 0x9000_0000_0000_0000 = none ∧
        s.entrySpace 0x3000_0000_0000_0000 = some (.router .west, 0) ∧ s.entrySpace 0x1000_0000_0000_0000 = some (.linkPort 0, 0)) := by
  decide +kernel

theorem witness_NorUpdatesWriteTheOtherCopy :
    ((sLom id).lom.norOp = none ∧ (sLom id).job.image = none ∧ (sLom id).boot.cfg.isSome = true ∧ (sLom id).copySeq (sLom id).boot.copyB + 1 = 8) ∧
    (sLom norBusy).lom.norOp = some nor3 ∧ ((sLom (jobI id)).job.image.isSome = true ∧ (sLom (jobI id)).lom.norOp = none) := by decide +kernel

theorem witness_LomtirelFramesAreExchanged :
    (let s := sLom id;
      s.isManager 0x33 = false ∧ (s.isManager 0x11 = true ∧ (s.manager 0x11).last = 5 ∧ (s.manager 0x11).resp ≠ none) ∧
        (s.isManager 0x22 = true ∧ (s.manager 0x22).last = 9 ∧ (s.manager 0x22).resp = none) ∧ s.accepts m6 ∧ s.boot.telemOn = true ∧
        s.boot.inReset = false ∧ s.job.image = none) ∧
    (let s := sLom (jobI id); s.accepts m6 ∧ s.job.image.isSome = true ∧ s.job.pending = none) ∧
    (let s := { sLom id with ports := (lp .active true id).ports };
      s.accepts m6 ∧ s.job.image = none ∧ (s.port 2).active = true ∧ 0 < (s.port 2).width.toNat) ∧
    (sLom (boo fun b => { b with telemOn := false })).boot.telemOn = false ∧
    (∀ d ∈ [s0.routers[0].self.toNat, s0.routers[0].self.toNat + 1], let p := hdrPkt (BitVec.ofNat 27 d) 0 3 0 0 [] 48;
      p.WellFormed = true ∧ pktClass p = 3 ∧ (pktDst p).toNat = d) := by decide +kernel

theorem witness_SidebandTargetsAnswer :
    (let s := sLom id;
      s.side.i3cDyn = none ∧ s.boot.cfg = some cfg1 ∧ cfg1.i3cStatic = 0x42 ∧ cfg1.i3cStatic ≠ 0x43 ∧ s.job.image = none) ∧
    (sLom (sid fun d => { d with i3cDyn := some 9, i3cOff := 0xFE })).side.i3cDyn.isSome = true ∧
    (sLom (jobI id)).job.image.isSome = true := by decide +kernel

theorem witness_RegisterWritesFollowTheirAccess :
    ((3 : BitVec 24).toNat % 2 ^ (2 : BitVec 2).toNat ≠ 0 ∧ agentReaches (.host .a) (.bar0 .b) = false) ∧
    (let x := (lp .active true id).port 2; x.disable = false ∧ x.state ≠ .disabled ∧ x.retrainRq = false) ∧
    ((s0.router .west).lock = false ∧
      (State.router { s0 with routers := s0.routers.map fun r => { r with lock := true } } .west).lock = true) ∧
    ((s0.fn .a).en = false ∧ ((fns (fun f => { f with en := true }) s0).fn .a).en = true) := by decide +kernel

/-! ### Power and boot -/

theorem witness_OperatingPointFollowsItsTerms :
    (s0.job.image = none ∧ s0.power.raising = none ∧ s0.power.powerCap = 7 ∧ s0.power.coreOfs.toNat ≤ 45) ∧
    (let s := jobI id s0; s.job.image = some im0 ∧ im0.fixed = false ∧ s.job.running = true ∧ ∀ x ∈ im0.phases, x.2 ≤ 7) ∧
    (let s := pow (fun p => { p with raising := some 5, powerCap := 3, avg := 900, plimit := 1001, coreOfs := 46 }) s0;
      s.power.raising = some 5 ∧ s.power.avg.toNat + 100 < s.power.plimit.toNat ∧ s.power.powerCap ≠ 7 ∧ 45 < s.power.coreOfs.toNat) ∧
    (let s := pow (fun p => { p with avg := 900, plimit := 1000 }) s0; s.power.plimit.toNat ≤ s.power.avg.toNat + 100) := by decide +kernel

theorem witness_DipsStretchesAndBrakes :
    (let s := pow (fun p => { p with coreMv := 700 }) s0; 639 < s.power.coreMv.toNat - 60 ∧ s.power.coreMv.toNat - 60 ≤ 640) ∧
    (s0.power.engaged.getLsbD 3 = false ∧ (pow (fun p => { p with engaged := 8 }) s0).power.engaged.getLsbD 3 = true) ∧
    (∀ n ∈ [5, 6], let s := at0 n (pow (fun p => { p with dipUntil := some 6 }) s0);
      s.power.dipUntil = some 6 ∧ ((6 : Word).toNat ≤ s.gtc.count.toNat ↔ n = 6)) ∧
    (s0.power.dipUntil = none ∧ s0.power.wireA = false ∧ s0.power.disagree = none) ∧
    (∀ n ∈ [5 + 1000 * 4, 5 + 1000 * 4 + 1], let s := at0 n (pow (fun p => { p with disagree := some 5, tdisc := 4, wireA := true }) s0);
      s.power.disagree = some 5 ∧ s.power.wireA = true ∧ (5 + 1000 * s.power.tdisc.toNat < s.gtc.count.toNat ↔ n = 5 + 1000 * 4 + 1)) ∧
    (∀ n ∈ [10004, 10005], let s := at0 n (pow (fun p => { p with brakeFree := some 5, brake := true }) s0);
      s.power.brakeFree = some 5 ∧ s.power.brake = true ∧ s.power.wireA = false ∧ s.power.wireB = false ∧ s.power.wiring = false ∧
        (5 + 10000 ≤ s.gtc.count.toNat ↔ n = 10005)) := by decide +kernel

def temps (a b : Nat) : Temps := ⟨List.replicate 15 (BitVec.ofNat 8 a), List.replicate 8 (BitVec.ofNat 8 b)⟩

theorem witness_ThermalLimitsHold :
    ((temps 99 94).WellFormed = true ∧ (temps 99 95).WellFormed = true ∧ (temps 105 0).WellFormed = true) ∧
    (s0.power.tj.toNat ≤ 97 ∧ s0.power.thermCap = 7 ∧ s0.power.maxSince = none ∧ s0.power.thermtrip = false) ∧
    (let s := pow (fun p => { p with tj := 100, thermCap := 3, thermtrip := true }) s0;
      100 ≤ s.power.tj.toNat ∧ s.power.thermCap ≠ 7 ∧ s.power.thermtrip = true) ∧
    (let s := pow (fun p => { p with tj := 97, thermCap := 3 }) s0; s.power.tj.toNat ≤ 97 ∧ s.power.thermCap ≠ 7) ∧
    (∀ n ∈ [100000004, 100000005], let s := at0 n (jobI id (pow (fun p => { p with maxSince := some 5, thmax := true }) s0));
      s.power.maxSince = some 5 ∧ s.power.thmax = true ∧ s.job.image.isSome = true ∧ (5 + 100000000 ≤ s.gtc.count.toNat ↔ n = 100000005)) := by
  decide +kernel

/-- Boot step `n` under way, on the normal or the alternate way. -/
def sBoot (n : Nat) (alt : Bool) (f : Boot → Boot) : State :=
  sLom (boo fun b => f { b with
    state := if n < 4 then .rom else .booting, step := BitVec.ofNat 4 n, alt := alt, telemOn := false, inReset := decide (n < 6)
    journal := [⟨5, 3, .failed, 0, 1⟩, ⟨6, 1, .started, 0, 2⟩], ptime := 3, histPtime := 100 })
def rGood : StepResult := ⟨true, 3, [], true, true, []⟩
def failedAt (k : Nat) (b : Boot) : Boot :=
  { b with journal := [⟨5, BitVec.ofNat 8 k, .started, 0, 1⟩, ⟨5, BitVec.ofNat 8 k, .failed, 0, 1⟩, ⟨6, 1, .started, 0, 2⟩] }

theorem witness_BootStepsRunInOrder :
    (∀ n ∈ [1, 4, 5, 6, 13, 14], let s := sBoot n false id;
      s.booting = true ∧ s.boot.step.toNat = n ∧ s.side.resetN = true ∧ s.stepOk rGood = true ∧ s.boot.journal.length + 5 ≤ 4096 ∧
        s.boot.failedNormal (n + 1) = false) ∧
    (∀ r ∈ [true, false], let s := sBoot 2 false fun b => { b with reselect := r };
      s.booting = true ∧ s.boot.step.toNat = 2 ∧ s.stepOk rGood = true ∧ s.boot.failedNormal 3 = true) ∧
    (let s := sBoot 10 false (failedAt 11);
      s.booting = true ∧ s.stepOk rGood = true ∧ s.boot.failedNormal 11 = true ∧ s.boot.failedNormal 12 = false ∧ s.boot.lostRepair = false) := by
  decide +kernel

theorem witness_BootFailuresAreHandled :
    (sLom id).booting = false ∧
    (∀ n ∈ [1, 2, 4, 5, 6, 10, 11, 13, 14], (sBoot n false id).booting = true ∧ (sBoot n false id).boot.step.toNat = n) ∧
    (sid (fun d => { d with resetN := false }) (sBoot 5 false id)).side.resetN = false ∧
    ((sBoot 3 true id).boot.alt = true ∧ (sBoot 3 true id).booting = true) ∧
    (let s := sBoot 3 false id; s.boot.alt = false ∧ s.boot.copyB = false ∧ s.copyValid true = true ∧ (boo (fun b => { b with copyB := true }) { s with nor := [] }).copyValid false = false) ∧
    (∀ n ∈ [2, 3], let s := sBoot 6 false fun b => { b with fails := n };
      s.boot.fails = n ∧ s.boot.journal.length + 2 ≤ 4096 ∧ ∀ e ∈ s.boot.journal, e.bootno.toNat ≤ s.boot.bootno.toNat) ∧
    (sBoot 11 false id).boot.failedNormal 12 = false := by decide +kernel

theorem witness_ResetsLeaveWhatTheyMust :
    ((sBoot 5 false id).booting = true ∧ (sBoot 5 false id).boot.step = 5 ∧ (sBoot 6 false id).booting = true ∧
      (sBoot 6 false id).boot.journal.length + 2 ≤ 4096) ∧
    ((sLom id).boot.state = .ready ∧ (sLom id).side.aonPwrgd = true ∧ (sLom id).booting = false ∧ (sLom id).job.image = none ∧ (sLom id).lom.norOp = none) ∧
    (sLom (boo fun b => { b with state := .bootFail })).boot.state = .bootFail ∧ s0.side.aonPwrgd = false ∧
    ((sLom (jobI id)).job.image.isSome = true ∧ (sLom (jobI id)).job.pending = none) ∧ (sLom norBusy).lom.norOp = some nor3 ∧
    ((sLom id).boot.cfg = some cfg1 ∧ cfg1.connA = true ∧ (sLom id).boot.inReset = false ∧ s0.boot.cfg = none) := by decide +kernel

/-! ### Formats, steps -/

theorem witness_FormatsDecodeAndRoundAsGiven :
    fBF16 ∈ floatFormats ∧ fBF16.finite 0x3f81 ∧ ¬ fBF16.finite 0x7f80 ∧ fBF16.signed = true ∧
      |(FV.fin false 3 (-1)).rat| ≤ (fBF16.decode fBF16.maxMag).rat := by decide +kernel

/-- An outcome is a next state with a property. -/
def goes (o : Host.Outcome State Fault Refusal) (p : State → Bool) : Bool := match o with | .next t => p t | _ => false

theorem witness_StepRunsTheFrontCommand :
    (goes (step { s0 with pending := [.aonPwrgdRise, .perstRise .a] }) fun t => t.side.aonPwrgd && t.pending == [.perstRise .a]) ∧
    (s0.pending = [] ∧ s0.side.aonPwrgd = false) ∧
    (let s := sLom id; s.pending = [] ∧ s.side.aonPwrgd = true ∧ s.gtc.slew = 0 ∧ s.gtc.count ≠ BitVec.allOnes 64) := by decide +kernel

theorem witness_StepsKeepMemoriesAndIdentity :
    (memB 4096 [1, 0, 2] s0).memWf ∧ (goes (step (memB 4096 [1, 0, 2] s0)) fun t => t.mem == [⟨4096, 1⟩, ⟨4098, 2⟩]) := by
  unfold State.memWf; decide +kernel

/-! ### Operands of the wrong length: refused -/

def illFormed (i : Instr) : Bool := !i.WellFormed && (match exec i s0 with | .refused (.illFormed _) => true | _ => false)
def frame1 (n : Nat) : Frame := ⟨0, List.replicate n 0, 0, 0⟩
def zeros (n : Nat) : List Byte := List.replicate n 0

theorem test_ill_formed_frame : ∀ n ∈ [599, 601],
    illFormed (.frameData 2 (frame1 n)) ∧ illFormed (.frameIdle 2 (frame1 n)) ∧ illFormed (.frameTime 2 (frame1 n) 0 0) ∧
      illFormed (.frameDown 2 (frame1 n)) := by decide +kernel
theorem test_ill_formed_packet : ∀ p ∈ [hdrPkt 0 0 0 0 0 [] 8, hdrPkt 0 0 0 0 0 [] 1040, hdrPkt 0 0 0 0 0 [1] 16, hdrPkt 0 0 0 0 0x10 [] 16],
    (p : Packet).WellFormed = false ∧ illFormed (.lomRelay p) ∧ illFormed (.msgArrive ⟨p, true⟩) := by decide +kernel
theorem test_ill_formed_credit : illFormed (.credit 2 ctlH []) := by decide +kernel
theorem test_ill_formed_order : ∀ n ∈ [63, 65], illFormed (.ouvzuOrder m6 (zeros n)) := by decide +kernel
theorem test_ill_formed_nor_write : illFormed (.norWrite m6 0 (zeros 1015)) := by decide +kernel
theorem test_ill_formed_spi : illFormed (.spiTargetWrite 0 (List.replicate 65 0) 0) ∧ illFormed (.spiTargetRead 0 65 0) := by decide +kernel
theorem test_ill_formed_temps : illFormed (.thermalSample ⟨List.replicate 14 0, List.replicate 8 0⟩) := by decide +kernel
theorem test_well_formed : (Instr.frameData 2 (frame1 600)).WellFormed ∧ (Instr.lomRelay (hdrPkt 0 0 0 0 0 [] 1024)).WellFormed ∧
    (Instr.norWrite m6 0 (zeros 1014)).WellFormed := by decide +kernel

/-! ### The manual's worked examples -/

def num (i : Int) : FV := .ofInt i

/-- "Chunk boundaries decide the bits": in one chunk 1.0, over two chunks +0. -/
theorem test_chunk_boundaries :
    let b : FV := num (2 ^ 20);
    (chunkSum fA48 [b, num 1, num (-(2 ^ 20))] [b, num 1, b]).1 = 0x3FC000000000 ∧
    fA48.decode (chunkSum fA48 [num 1, num (-(2 ^ 20))] [num 1, b]).1 = fA48.decode (fA48.rne (num (-(2 ^ 40)))).1 ∧
    (accAdd fA48 (chunkSum fA48 [b] [b]).1 (chunkSum fA48 [num 1, num (-(2 ^ 20))] [num 1, b]).1).1 = 0 := by decide +kernel

/-- "Worked encodings" of 1/3. -/
theorem test_one_third :
    [fFP32, fBF16, fFP16, fE4M3, fE5M2, fA48].map (fun f => (f.rne (FV.quo (num 1) (num 3))).1) =
      [0x3EAAAAAB, 0x3EAB, 0x3555, 0x2B, 0x35, 0x3F5555555555] := by decide +kernel

/-- The worked MXFP4 block, its 5.2 and −0.7 replaced by the nearest quarter and eighth. -/
theorem test_mxfp4_block :
    encodeBlock 0xA .rne true [.fin false 7 0, .fin false 21 (-2), .fin true 11 (-4)] = (0x7F, [7, 7, 9], 0) := by decide +kernel

/-- "One entry through the epilogue": 1,234.5 to E4M3 0x52; a quotient of 500 saturates to 0x7E, and is a NaN without SAT. -/
theorem test_epilogue_entry :
    let d : EpiDesc := { (epi true 0).d with dst := 4, sat := true, op := 1, ncols := 1, ssig := 0x3D800000, wsig := 0x3F000000, tsig := 0x3F800000, dsig := 0x40800000 };
    let x2 := (d.steps123 (.fin false 2469 (-1)) (num 1)).1;
    FV.eq (FV.mul x2 (num 64)) (num 2533) ∧ d.convertRow [(d.quotient x2).1] = ([0x52], [], 0) ∧
      d.convertRow [(d.quotient (num 2000)).1] = ([0x7E], [], fSat) ∧
      { d with sat := false }.convertRow [(d.quotient (num 2000)).1] = ([0x7F], [], fNanGen) := by decide +kernel

/-- "Ranking with ties, signed zeros and a NaN". -/
def ranked : List Cand :=
  [⟨num 3, 0, 0⟩, ⟨.nan, 0, 1⟩, ⟨num 5, 0, 2⟩, ⟨.fin true 0 0, 0, 3⟩, ⟨num 5, 0, 4⟩, ⟨.inf false, 0, 5⟩, ⟨num 0, 0, 6⟩, ⟨num (-1), 0, 7⟩]

theorem test_ranking :
    (topRanked false false false 4 ranked).map (·.pos) = [1, 5, 2, 4] ∧ (topRanked false false true 8 ranked).map (·.pos) = [5, 2, 4, 0, 3, 6, 7] ∧
      (topRanked true false true 3 ranked).map (·.pos) = [7, 3, 6] ∧
      (topRanked false false false 4 (ranked.drop 4 ++ ranked.take 4)).map (·.pos) = [1, 5, 2, 4] := by decide +kernel

/-- "Placing one offset": with pseudo-channels 5 and 40 retired, stack offset 1,001,000 is in 9, else in 12. -/
theorem test_offset_placement :
    let k : Stack := s0.hbm[0];
    { k with enabled := BitVec.allOnes 64 }.pcOf 1001000 = 12 ∧
      { k with enabled := BitVec.allOnes 64 ^^^ BitVec.ofNat 64 (2 ^ 5 + 2 ^ 40) }.pcOf 1001000 = 9 := by decide +kernel

/-- "One unscheduled packet across the pod": PSEL 1, −X and then +Z; from x = 0 the hop crosses the date line. -/
theorem test_packet_across_the_pod :
    let r : Router := { s0.routers[0] with topo := BitVec.ofNat 33 (31 + 32 * 31 + 1024 * 31) };
    let p := injectPsel (hdrPkt 0x188DE 0 1 0 0 [] 16);
    pktPsel p = true ∧ adr 30 6 2 3 = 0x188DE ∧ r.plus 0 13 30 = false ∧ r.plus 2 21 2 = true ∧ r.crosses 0 0 false = true ∧
      r.crosses 0 13 false = false := by decide +kernel

/-! ### Known values of the checks (FIPS 180-4's "abc"; the catalogue's check values of CRC-64/ECMA-182 and CRC-16) -/

def digits : List Byte := (List.range 9).map fun i => BitVec.ofNat 8 (0x31 + i)

theorem test_crc : crc64 digits = 0x6C40DF5F0B497347 ∧ crc16 digits = 0x29B1 := by decide +kernel

theorem test_sha256 : beNat ((sha256 [0x61, 0x62, 0x63]).take 16) = 0xBA7816BF8F01CFEA414140DE5DAE2223 := by decide +kernel

/-! ### A few steps -/

/-- ADD of −1 and 5 wraps; SRA keeps the sign; a write to s0 is discarded (R234, R239). -/
theorem test_add_wraps :
    (goes (exec (.saluAdd 0) (r1 (2 ^ 64 - 1) (withIns (wAlu 0 0)))) fun t => (t.tile 0).seq.sreg 3 == 4) ∧
    (goes (exec (.saluSra 0) (r1 (2 ^ 64 - 64) (withIns (wAlu 8 0)))) fun t => (t.tile 0).seq.sreg 3 == -2) ∧
    (goes (exec (.saluAdd 0) (withIns (wAlu 0 0 - 3 * 2 ^ 43))) fun t => (t.tile 0).seq.sreg 0 == 0) := by decide +kernel

/-- A load of a byte zero-extends what is in memory (R240). -/
theorem test_load_byte :
    goes (exec (.ld 0) (memB (poolBase 0 + 16) [0xFE, 7] (r1 0 (withIns (wLd 0))))) fun t =>
      (t.tile 0).seq.loads.map (·.value) == [some 0xFE] := by decide +kernel

/-- A doorbell value beyond the size is counted, and one within it moves the tail (R484, R486). -/
theorem test_doorbell :
    (goes (exec (.sqTailDoorbell .a 9 16) (sQ id)) fun t => t.ouvzu.nDberr == 1 && (t.queue 9).map (·.sqTail) == some 2) ∧
    (goes (exec (.sqTailDoorbell .a 9 15) (sQ id)) fun t => t.ouvzu.nDberr == 0 && (t.queue 9).map (·.sqTail) == some 15) := by decide +kernel

end Sys2Proof.Tests
end

section
/-!
SUPPORT. Registers by address: what a write of a register's own bytes and one beside it leave of its fields, and what a
read of it gives.
-/
namespace Sys2Proof.Machine

/-! ### What a write leaves of a register (R10, R625) -/

theorem tab_congr {α : Type} {n : Nat} {f g : Nat → α} (h : ∀ i < n, f i = g i) : tab n f = tab n g :=
  List.map_congr_left fun i hi => h i (List.mem_range.1 hi)

theorem tab_succ {α : Type} (n : Nat) (f : Nat → α) : tab (n + 1) f = f 0 :: tab n fun i => f (i + 1) := by
  simp [tab, List.range_succ_eq_map, Function.comp_def]

/-- The bytes of a number, counted up again, are the number within their width (R9). -/
theorem leNat_tab_shiftRight (k v : Nat) : leNat (tab k fun i => BitVec.ofNat 8 (v >>> (8 * i))) = v % 2 ^ (8 * k) := by
  induction k generalizing v with
  | zero => simp [tab, leNat, Nat.mod_one]
  | succ k ih =>
    have hrest : ∀ i, v >>> (8 * (i + 1)) = (v / 2 ^ 8) >>> (8 * i) := fun i => by
      rw [Nat.mul_succ, Nat.add_comm, Nat.shiftRight_add, Nat.shiftRight_eq_div_pow v]
    have hsplit : 2 ^ (8 * (k + 1)) = 2 ^ 8 * 2 ^ (8 * k) := by rw [← Nat.pow_add]; congr 1; omega
    rw [tab_succ, leNat]
    rw [tab_congr fun i _ => congrArg (BitVec.ofNat 8) (hrest i), ih, hsplit, Nat.mod_mul]
    simp

theorem leNat_tab_zero (k : Nat) : leNat (tab k fun _ => 0) = 0 := by
  simpa using leNat_tab_shiftRight k 0

/-- A write of the register's own bytes carries its whole value to it. -/
theorem laneVal_self (r k v : Nat) : laneVal r k r k v = v % 2 ^ (8 * k) := by
  rw [← leNat_tab_shiftRight, laneVal]
  congr 1
  refine tab_congr fun i hi => ?_
  have hin : r ≤ r + i ∧ r + i < r + k := by omega
  rw [if_pos hin, Nat.add_sub_cancel_left]

/-- A write beside the register carries nothing to it. -/
theorem laneVal_apart {r k o n : Nat} (v : Nat) (h : o + n ≤ r ∨ r + k ≤ o) : laneVal r k o n v = 0 := by
  rw [← leNat_tab_zero k, laneVal]
  congr 1
  refine tab_congr fun i hi => ?_
  have hout : ¬ (o ≤ r + i ∧ r + i < o + n) := by omega
  rw [if_neg hout]

theorem laneMask_apart {r k o n : Nat} (h : o + n ≤ r ∨ r + k ≤ o) : laneMask r k o n = 0 := laneVal_apart _ h

theorem laneMask_self (r k : Nat) : laneMask r k r k = 2 ^ (8 * k) - 1 := by
  rw [laneMask, laneVal_self]
  exact Nat.mod_eq_of_lt (Nat.sub_lt (Nat.two_pow_pos _) Nat.one_pos)

/-- A bit of the value that a write of the register's own bytes carries. -/
theorem testBit_laneVal_self (r k v i : Nat) (h : i < 8 * k) : (laneVal r k r k v).testBit i = v.testBit i := by
  simp [laneVal_self, Nat.testBit_mod_two_pow, h]

/-- A 1 clears a W1C bit and a 0 leaves it (R10). -/
theorem w1c_self {m : Nat} (reg : BitVec m) (lo r v : Nat) (h : lo + m ≤ 32) :
    w1c reg lo r r 4 v = reg &&& ~~~ BitVec.ofNat m (v >>> lo) := by
  refine BitVec.eq_of_getLsbD_eq fun i hi => ?_
  have hb : lo + i < 8 * 4 := by omega
  simp [w1c, clearBits, -BitVec.getLsbD_eq_getElem, BitVec.getLsbD_ofNat, Nat.testBit_shiftRight,
    testBit_laneVal_self r 4 v _ hb]

theorem w1c_apart {m : Nat} (reg : BitVec m) (lo r : Nat) {o n : Nat} (v : Nat) (h : o + n ≤ r ∨ r + 4 ≤ o) :
    w1c reg lo r o n v = reg := by
  simp [w1c, clearBits, laneVal_apart v h]

/-- W1C bits read as a 32-bit register take a write as that register would. -/
theorem setWidth_w1c {m : Nat} (reg : BitVec m) (r o n v : Nat) :
    (w1c reg 0 r o n v).setWidth 32 = w1c (reg.setWidth 32) 0 r o n v := by
  refine BitVec.eq_of_getLsbD_eq fun i hi => ?_
  by_cases hm : i < m
  · simp [w1c, clearBits, -BitVec.getLsbD_eq_getElem, BitVec.getLsbD_ofNat, hi, hm]
  · simp [w1c, clearBits, hm, BitVec.getLsbD_of_ge reg i (by omega)]

theorem w1cFlag_apart (b : Bool) (i r : Nat) {o n : Nat} (v : Nat) (h : o + n ≤ r ∨ r + 4 ≤ o) :
    w1cFlag b i r o n v = b := by
  simp [w1cFlag, laneVal_apart v h]

/-- An RW field takes the value's bits. -/
theorem rwField_self {m : Nat} (old : BitVec m) (lo r k v : Nat) (h : lo + m ≤ 8 * k) :
    rwField old lo r k r k v = BitVec.ofNat m (v >>> lo) := by
  refine BitVec.eq_of_getLsbD_eq fun i hi => ?_
  have hb : lo + i < 8 * k := by omega
  simp [rwField, -BitVec.getLsbD_eq_getElem, BitVec.getLsbD_ofNat, hi, hb, laneMask_self, Nat.testBit_shiftRight,
    testBit_laneVal_self r k v _ hb, Nat.testBit_two_pow_sub_one]

theorem rwField_apart {m : Nat} (old : BitVec m) (lo r k : Nat) {o n : Nat} (v : Nat) (h : o + n ≤ r ∨ r + k ≤ o) :
    rwField old lo r k o n v = old := by
  simp [rwField, laneMask_apart h]

/-! A write of 32 bits of a value to a register of 32 bits. -/

theorem testBit_laneVal_word (r : Nat) (v : Word) (i : Nat) (h : i < 32) :
    (laneVal r 4 r 4 (v.setWidth 32).toNat).testBit i = v.getLsbD i := by
  rw [testBit_laneVal_self r 4 _ i h, BitVec.testBit_toNat, BitVec.getLsbD_setWidth, decide_eq_true h, Bool.true_and]

theorem w1c_word (reg : BitVec 32) (r : Nat) (v : Word) :
    w1c reg 0 r r 4 (v.setWidth 32).toNat = reg &&& ~~~ v.setWidth 32 := by
  rw [w1c_self reg 0 r _ (by omega), Nat.shiftRight_zero, BitVec.ofNat_toNat, BitVec.setWidth_eq]

theorem w1cFlag_word (b : Bool) (i r : Nat) (v : Word) (h : i < 32) :
    w1cFlag b i r r 4 (v.setWidth 32).toNat = (b && !v.getLsbD i) := by
  rw [w1cFlag, testBit_laneVal_word r v i h]

theorem rwField_word_low {m : Nat} (old : BitVec m) (r : Nat) (v : Word) (h : m ≤ 32) :
    rwField old 0 r 4 r 4 (v.setWidth 32).toNat = v.setWidth m := by
  rw [rwField_self old 0 r 4 _ (by omega), Nat.shiftRight_zero, BitVec.ofNat_toNat, BitVec.setWidth_setWidth_of_le v h]

theorem rwFlag_word (b : Bool) (i r : Nat) (v : Word) (h : i < 32) :
    (rwField (BitVec.ofBool b) i r 4 r 4 (v.setWidth 32).toNat).toNat.testBit 0 = v.getLsbD i := by
  rw [rwField_self _ i r 4 _ (by omega), BitVec.testBit_toNat, BitVec.getLsbD_ofNat, Nat.testBit_shiftRight,
    BitVec.testBit_toNat, BitVec.getLsbD_setWidth, Nat.add_zero, decide_eq_true h, Bool.true_and]
  rfl

theorem rwFlag_apart (b : Bool) (i r : Nat) {o n : Nat} (v : Nat) (h : o + n ≤ r ∨ r + 4 ≤ o) :
    (rwField (BitVec.ofBool b) i r 4 o n v).toNat.testBit 0 = b := by
  rw [rwField_apart _ i r 4 v h]
  cases b <;> rfl

/-- A read of a register's own bytes gives its value within its width, when no register laid out before it reaches
its offset. -/
theorem leNat_regBytes_own {l pre post : List RegVal} {r : RegVal} (hl : l = pre ++ r :: post)
    (h : ∀ x ∈ pre, x.off + x.bytes ≤ r.off) : leNat (regBytes l r.off r.bytes) = r.val % 2 ^ (8 * r.bytes) := by
  rw [← leNat_tab_shiftRight, regBytes]
  congr 1
  refine tab_congr fun i hi => ?_
  have hpre : (pre.find? fun x => decide (x.off ≤ r.off + i) && decide (r.off + i < x.off + x.bytes)) = none := by
    rw [List.find?_eq_none]
    intro x hx
    have := h x hx
    simp; omega
  have hr : ((r :: post).find? fun x => decide (x.off ≤ r.off + i) && decide (r.off + i < x.off + x.bytes)) = some r :=
    List.find?_cons_of_pos (by simp; omega)
  rw [regByte, hl, List.find?_append, hpre, Option.none_or, hr]
  simp

end Sys2Proof.Machine
end

section
/-!
SUPPORT. Register writes on the state: a part changed by the identity and twice, and which write reaches its block.
-/
namespace Sys2Proof.Machine

/-! ### A part changed by the identity, and twice -/

@[simp] theorem State.modPort_modPort (s : State) (p : PortId) (f g : LPort → LPort) :
    (s.modPort p f).modPort p g = s.modPort p fun x => g (f x) := by simp [State.modPort]

theorem State.modRouter_id (s : State) (d : Die) : (s.modRouter d fun r => r) = s := by simp [State.modRouter]

theorem State.modFn_id (s : State) (p : PciePort) : (s.modFn p fun f => f) = s := by simp [State.modFn]

/-- What a router is changed to depends only on what it was. -/
theorem State.modRouter_congr {s : State} {d : Die} {f g : Router → Router} (h : f (s.router d) = g (s.router d)) :
    s.modRouter d f = s.modRouter d g := by
  unfold State.modRouter
  rw [show f s.routers[dieIx d] = g s.routers[dieIx d] from h]

/-- So of a port. -/
theorem State.modPort_congr {s : State} {p : PortId} {f g : LPort → LPort} (h : f (s.port p) = g (s.port p)) :
    s.modPort p f = s.modPort p g := by
  unfold State.modPort
  rw [show f s.ports[p] = g s.ports[p] from h]

/-! ### A register write reaches its block, or is ignored (R10, R625) -/

/-- A write that is not aligned, or that its agent cannot make, is ignored. -/
theorem exec_regWrite_ignored {g : RegAgent} {sp : RegSpace} {off : BitVec 24} {size : BitVec 2} (v : Word) (s : State)
    (h : off.toNat % 2 ^ size.toNat ≠ 0 ∨ agentReaches g sp = false) : exec (.regWrite g sp off size v) s = .next s := by
  refine if_pos (Bool.or_eq_true_iff.2 (h.imp (fun h => ?_) fun h => ?_))
  · exact decide_eq_true h
  · simp [h]

theorem exec_regWrite_next {g : RegAgent} {sp : RegSpace} {off : BitVec 24} {size : BitVec 2} (v : Word) (s : State)
    (ha : agentReaches g sp = true) (h : off.toNat % 2 ^ size.toNat = 0) :
    exec (.regWrite g sp off size v) s =
      .next (s.blockWrite g sp off.toNat (2 ^ size.toNat) (v.toNat % 2 ^ (8 * 2 ^ size.toNat))) := by
  refine if_neg ?_
  simp [ha, h]

/-- A write of 32 bits carries the low word of its value. -/
theorem exec_regWrite_word {g : RegAgent} {sp : RegSpace} {off : BitVec 24} (v : Word) (s : State)
    (ha : agentReaches g sp = true) (h : off.toNat % 4 = 0) :
    exec (.regWrite g sp off 2 v) s = .next (s.blockWrite g sp off.toNat 4 (v.setWidth 32).toNat) := by
  rw [exec_regWrite_next v s ha h, BitVec.toNat_setWidth]
  rfl

/-- A write of 16 bits carries the low half word. -/
theorem exec_regWrite_half {g : RegAgent} {sp : RegSpace} {off : BitVec 24} (v : Word) (s : State)
    (ha : agentReaches g sp = true) (h : off.toNat % 2 = 0) :
    exec (.regWrite g sp off 1 v) s = .next (s.blockWrite g sp off.toNat 2 (v.setWidth 16).toNat) := by
  rw [exec_regWrite_next v s ha h, BitVec.toNat_setWidth]
  rfl

/-- A write of 64 bits carries its value. -/
theorem exec_regWrite_dword {g : RegAgent} {sp : RegSpace} {off : BitVec 24} (v : Word) (s : State)
    (ha : agentReaches g sp = true) (h : off.toNat % 8 = 0) :
    exec (.regWrite g sp off 3 v) s = .next (s.blockWrite g sp off.toNat 8 v.toNat) := by
  rw [exec_regWrite_next v s ha h]
  congr 2
  exact Nat.mod_eq_of_lt v.isLt

/-- The CP and the SMC reach every block but the PCIe ports'. -/
theorem agentReaches_of_cp_or_smc {g : RegAgent} (hg : g ∈ [RegAgent.cp, .smc]) {sp : RegSpace}
    (hsp : ∀ p, sp ≠ .bar0 p ∧ sp ≠ .config p) : agentReaches g sp = true := by
  have hcases : g = .cp ∨ g = .smc := by simpa using hg
  cases sp with
  | bar0 p => exact absurd rfl (hsp p).1
  | config p => exact absurd rfl (hsp p).2
  | _ => rcases hcases with rfl | rfl <;> rfl

/-- Sequencers, the CP and the SMC reach the tile blocks and the cluster blocks. -/
theorem agentReaches_tile_cluster {g : RegAgent} (hg : g ∈ [RegAgent.sequencer, .cp, .smc]) (t : TileId) (c : ClusterId) :
    agentReaches g (.tile t) = true ∧ agentReaches g (.cluster c) = true := by
  have hcases : g = .sequencer ∨ g = .cp ∨ g = .smc := by simpa using hg
  rcases hcases with rfl | rfl | rfl <;> exact ⟨rfl, rfl⟩

end Sys2Proof.Machine
end

section
/-!
SUPPORT. What a write at an offset of a block does to the block.
-/
namespace Sys2Proof.Machine

/-! ### Tile and cluster blocks -/

/-- The status registers of a tile's block: offset and flags. -/
def tileStats (x : Tile) : List (Nat × BitVec 32) :=
  [(0x40, x.fpstat.setWidth 32), (0x84, x.mmstat.setWidth 32), (0x100, x.epistat.setWidth 32),
    (0x140, x.rime.stat.setWidth 32), (0x1C0, x.vec.stat.setWidth 32), (0x200, x.seq.stat.setWidth 32),
    (0x280, x.dma.stat.setWidth 32)]

/-- A write to a tile's block acts on each status register as on a register of W1C bits. -/
theorem tileStats_tileRegWrite (x : Tile) (o n v : Nat) :
    tileStats (tileRegWrite x o n v) = (tileStats x).map fun p => (p.1, w1c p.2 0 p.1 o n v) := by
  simp [tileStats, tileRegWrite, setWidth_w1c]

/-- So each status register by its place in the list. -/
theorem tileStats_tileRegWrite_get {x : Tile} {k o n v a : Nat} {y z : BitVec 32} (hy : (tileStats x)[k]? = some (a, y))
    (hz : (tileStats (tileRegWrite x o n v))[k]? = some (a, z)) : z = w1c y 0 a o n v := by
  rw [tileStats_tileRegWrite, List.getElem?_map, hy] at hz
  simpa using hz.symm

/-- ENG_FAULT loses the bits written as ones at 8 to 11 (R198). -/
theorem engFault_clusterRegWrite (c : Cluster) (w : BitVec 32) (i : Nat) (h : i < 4) :
    (clusterRegWrite c 0 4 w.toNat).engFault.getLsbD i = (c.engFault.getLsbD i && !w.getLsbD (8 + i)) := by
  simp [clusterRegWrite, w1c_self, -BitVec.getLsbD_eq_getElem, BitVec.getLsbD_ofNat, h, Nat.testBit_shiftRight,
    BitVec.testBit_toNat]

/-! ### The CP block -/

/-- GTC_LSCTRL takes the value. -/
theorem cpRegWrite_lsctrl (s : State) (v : Word) :
    cpRegWrite s 0xCC0 4 (v.setWidth 32).toNat = { s with gtc := { s.gtc with
      lsPort := v.setWidth _, lsEn := v.getLsbD 5, lsHalt := v.getLsbD 6 } } := by
  simp (disch := omega) only [cpRegWrite, ↓rwFlag_word, rwField_word_low, w1cFlag_apart]

/-- No register from 0x1004 on takes a write. -/
theorem cpRegWrite_readOnly (s : State) {o : Nat} (v : Nat) (h : 0x1004 ≤ o) : cpRegWrite s o 4 v = s := by
  simp (disch := omega) only [cpRegWrite, ↓rwFlag_apart, rwField_apart, w1cFlag_apart]

/-! ### Port blocks -/

/-- LINK_STAT takes a write of ones to its W1C bits. -/
theorem linkRegWrite_stat (x : LPort) (v : Word) :
    linkRegWrite x 0 4 (v.setWidth 32).toNat = { x with
      trainErr := x.trainErr && !v.getLsbD 0, swapBit := x.swapBit && !v.getLsbD 1, lossBit := x.lossBit && !v.getLsbD 2,
      degraded := x.degraded && !v.getLsbD 22 } := by
  simp (disch := omega) only [linkRegWrite, w1cFlag_word, ↓rwFlag_apart, rwField_apart, laneVal_apart, Nat.zero_testBit,
    Bool.or_false]

/-- What a write of LINK_CTRL sets of a port beside RETRAIN and DISABLE. -/
def LPort.withCtrl (v : Word) (x : LPort) : LPort :=
  { x with maxw := BitVec.ofNat _ (fieldAt v.toNat 2 4), halfRate := v.getLsbD 6 }

/-- LINK_CTRL takes MAXW, the rate and DISABLE from the value, and RETRAIN is remembered. -/
theorem linkRegWrite_ctrl (x : LPort) (v : Word) :
    linkRegWrite x 8 4 (v.setWidth 32).toNat =
      { x.withCtrl v with retrainRq := x.retrainRq || v.getLsbD 0, disable := v.getLsbD 1 } := by
  have hmaxw : BitVec.ofNat 4 ((v.setWidth 32).toNat >>> 2) = BitVec.ofNat 4 (fieldAt v.toNat 2 4) := by
    refine BitVec.eq_of_toNat_eq ?_
    simp only [BitVec.toNat_ofNat, BitVec.toNat_setWidth, Nat.shiftRight_eq_div_pow, fieldAt]
    omega
  simp (disch := omega) only [linkRegWrite, w1cFlag_apart, ↓rwFlag_word, rwField_self, testBit_laneVal_word, hmaxw,
    LPort.withCtrl]

theorem State.sendDown_retrainRq (s : State) (p : PortId) :
    ((s.sendDown p).port p).retrainRq = (s.port p).retrainRq := by
  unfold State.sendDown
  split
  · rw [State.port_modPort]
  · rfl

theorem State.modSpare_ports (s : State) (g : Fin 4) (k : Nat) (f : Spare → Spare) : (s.modSpare g k f).ports = s.ports := by
  unfold State.modSpare
  split <;> rfl

theorem State.freeUsed_ports (s : State) (p : PortId) : (s.freeUsed p).ports = s.ports := by
  unfold State.freeUsed
  refine List.foldlRecOn (motive := fun u : State => u.ports = s.ports) _ _ rfl fun u hu k _ => ?_
  split
  · rw [State.modSpare_ports, hu]
  · exact hu

theorem State.newParent_ports (s : State) : s.newParent.ports = s.ports := by
  unfold State.newParent State.thawEvent
  split
  · rfl
  · split <;> rfl

theorem State.portLeft_ports (s : State) (p : PortId) : (s.portLeft p).ports = s.ports := by
  unfold State.portLeft
  split
  · exact s.newParent_ports
  · rfl

/-- What DISABLE does leaves a remembered RETRAIN as it was. -/
theorem State.applyDisable_retrainRq (s : State) (p : PortId) :
    ((s.applyDisable p).port p).retrainRq = (s.port p).retrainRq := by
  have hport : ∀ {u v : State}, u.ports = v.ports → u.port p = v.port p := fun h => by rw [State.port, State.port, h]
  have hdown : (((s.sendDown p).freeUsed p).port p).retrainRq = (s.port p).retrainRq := by
    rw [hport (State.freeUsed_ports _ p), s.sendDown_retrainRq p]
  unfold State.applyDisable
  dsimp only
  split
  · split
    · rfl
    · split
      · rw [hport (State.portLeft_ports _ p), State.port_modPort]; dsimp only; exact hdown
      · rw [State.port_modPort]; dsimp only; exact hdown
  · split
    · rw [State.port_modPort]
    · rfl

/-- A port neither disabled nor in DISABLED is left alone. -/
theorem State.applyDisable_of_enabled {s : State} {p : PortId} (hd : (s.port p).disable = false)
    (hs : (s.port p).state ≠ .disabled) : s.applyDisable p = s := by
  simp [State.applyDisable, hd, hs]

/-- A write to a port's block: its fields, then DISABLE, then a RETRAIN that is remembered. -/
theorem State.linkWrite_of_apply {s u : State} {p : PortId} {o n v : Nat}
    (h : (s.modPort p fun x => linkRegWrite x o n v).applyDisable p = u) :
    s.linkWrite p o n v = if (u.port p).retrainRq then u.retrain p else u := by
  subst h
  rfl

/-- A write that leaves a port enabled and asks for no retrain only sets its fields. -/
theorem State.linkWrite_plain {s : State} {p : PortId} {f : LPort → LPort} {o n v : Nat}
    (hw : linkRegWrite (s.port p) o n v = f (s.port p)) (hd : (f (s.port p)).disable = false)
    (hs : (f (s.port p)).state ≠ .disabled) (hr : (f (s.port p)).retrainRq = false) :
    s.linkWrite p o n v = s.modPort p f := by
  have happly : (s.modPort p f).applyDisable p = s.modPort p f :=
    State.applyDisable_of_enabled (by rwa [State.port_modPort]) (by rwa [State.port_modPort])
  rw [State.linkWrite_of_apply ((congrArg (·.applyDisable p) (State.modPort_congr hw)).trans happly), State.port_modPort,
    hr]
  rfl

/-- RETRAIN forgets that it was written before it acts. -/
theorem State.retrain_modPort_retrainRq (s : State) (p : PortId) (b : Bool) :
    (s.modPort p fun x => { x with retrainRq := b }).retrain p = s.retrain p := by
  simp [State.retrain]

/-- A write of LINK_CTRL with DISABLE 0 to a port in service sets its fields, and RETRAIN acts as its command. -/
theorem State.linkWrite_ctrl_enabled {s : State} {p : PortId} {v : Word} (hd : (s.port p).disable = false)
    (hs : (s.port p).state ≠ .disabled) (hr : (s.port p).retrainRq = false) (h1 : v.getLsbD 1 = false) :
    s.linkWrite p 8 4 (v.setWidth 32).toNat =
      if v.getLsbD 0 then (s.modPort p (.withCtrl v)).retrain p else s.modPort p (.withCtrl v) := by
  have hw : linkRegWrite (s.port p) 8 4 (v.setWidth 32).toNat =
      { (s.port p).withCtrl v with retrainRq := v.getLsbD 0 } := by
    rw [linkRegWrite_ctrl, h1, hr, Bool.false_or]
    simp only [LPort.withCtrl, hd]
  have hset : (s.modPort p fun x => linkRegWrite x 8 4 (v.setWidth 32).toNat) =
      (s.modPort p (.withCtrl v)).modPort p fun x => { x with retrainRq := v.getLsbD 0 } := by
    rw [State.modPort_modPort]
    exact State.modPort_congr hw
  cases h0 : v.getLsbD 0 with
  | false =>
    refine State.linkWrite_plain (hw.trans ?_) hd hs hr
    simp only [LPort.withCtrl, h0, hr]
  | true =>
    have henabled := State.applyDisable_of_enabled
      (s := (s.modPort p (.withCtrl v)).modPort p fun x => { x with retrainRq := v.getLsbD 0 }) (p := p)
      (by simpa only [State.port_modPort, LPort.withCtrl] using hd)
      (by simpa only [State.port_modPort, LPort.withCtrl] using hs)
    rw [State.linkWrite_of_apply ((congrArg (·.applyDisable p) hset).trans henabled), State.retrain_modPort_retrainRq,
      State.port_modPort, h0]
    rfl

/-- A write of LINK_CTRL with DISABLE 1 and RETRAIN 0 sets the fields and acts as the command does. -/
theorem State.linkWrite_ctrl_disable {s : State} {p : PortId} {v : Word} (hr : (s.port p).retrainRq = false)
    (h0 : v.getLsbD 0 = false) (h1 : v.getLsbD 1 = true) :
    .next (s.linkWrite p 8 4 (v.setWidth 32).toNat) = execLinkDisable p true (s.modPort p (.withCtrl v)) := by
  have hw : linkRegWrite (s.port p) 8 4 (v.setWidth 32).toNat = { (s.port p).withCtrl v with disable := true } := by
    rw [linkRegWrite_ctrl, h0, h1, Bool.or_false]
    rfl
  have hset : (s.modPort p fun x => linkRegWrite x 8 4 (v.setWidth 32).toNat) =
      (s.modPort p (.withCtrl v)).modPort p fun x => { x with disable := true } := by
    rw [State.modPort_modPort]
    exact State.modPort_congr hw
  have hkeep := ((s.modPort p (.withCtrl v)).modPort p fun x => { x with disable := true }).applyDisable_retrainRq p
  rw [State.port_modPort, State.port_modPort] at hkeep
  rw [State.linkWrite_of_apply (congrArg (·.applyDisable p) hset), hkeep.trans hr]
  rfl

/-! ### Router blocks -/

/-- Offsets 4 to 7 are no register. -/
theorem routerRegWrite_reserved (r : Router) (byCp : Bool) (v : Nat) : routerRegWrite r byCp 4 4 v = r := by
  have ht : inTables 4 4 = false := rfl
  simp (disch := omega) only [routerRegWrite, ht, w1cFlag_apart, w1c_apart, ↓rwFlag_apart, Bool.false_and, ite_self,
    Bool.false_eq_true, if_false]

/-- Under LOCK a table write only sets LOCKWR (R397). -/
theorem routerRegWrite_locked {r : Router} (byCp : Bool) {o : Nat} (v : Nat) (hl : r.lock = true) (ht : inTables o 4 = true)
    (ho : o + 4 ≤ 0x28) : routerRegWrite r byCp o 4 v = { r with lockwr := true } := by
  simp (disch := omega) only [routerRegWrite, ht, hl, w1cFlag_apart, w1c_apart, ↓rwFlag_apart, Bool.true_and, ite_self,
    if_true]

/-- Without LOCK a write of RTR_SELF sets the chip address. -/
theorem routerRegWrite_self {r : Router} (byCp : Bool) (v : Word) (hl : r.lock = false) :
    routerRegWrite r byCp 0 4 (v.setWidth 32).toNat = { r with self := v.setWidth _ } := by
  have ht : inTables 0 4 = true := rfl
  simp (disch := omega) only [routerRegWrite, tableWrite, ht, hl, w1cFlag_apart, w1c_apart, rwField_word_low, rwField_apart,
    ↓rwFlag_apart, Bool.and_false, ite_self, Bool.false_eq_true, if_false, if_true]

/-- The CP's write of RTR_STAT sets LOCK and clears flags (R400). -/
theorem routerRegWrite_stat (r : Router) (v : Word) :
    routerRegWrite r true 0x28 4 (v.setWidth 32).toNat = { r with
      lock := v.getLsbD 16, lockwr := r.lockwr && !v.getLsbD 0, epochErr := r.epochErr && !v.getLsbD 1,
      routeErr := r.routeErr && !v.getLsbD 2, mcastErr := r.mcastErr && !v.getLsbD 3 } := by
  have ht : inTables 0x28 4 = false := rfl
  simp (disch := omega) only [routerRegWrite, ht, w1cFlag_word, w1c_apart, ↓rwFlag_word, Bool.false_and,
    Bool.false_eq_true, if_false, if_true]

/-- The 32-bit words below 0x28 but for offset 4 are the table registers (R399). -/
theorem inTables_word {o : Nat} (h4 : o % 4 = 0) (h : o < 0x28) (hne : o ≠ 4) : inTables o 4 = true := by
  simp [inTables]
  omega

/-! ### BAR0 and the configuration space (R478 to R483) -/

/-- A write beside the admin queue's registers and below the mailbox sets none of them. -/
theorem PciFn.ctrlWrite_apart (f : PciFn) {o n : Nat} (v : Nat) (h : o + n ≤ 0x10 ∨ 0x24 ≤ o) (hm : o < 0x100) :
    f.ctrlWrite o n v = f := by
  have hmbox : ¬ (0x100 ≤ o ∧ o < 0x140) := by omega
  simp (disch := omega) only [PciFn.ctrlWrite, rwField_apart, mboxWrite, if_neg hmbox]

/-- Such a write leaves the function as it was. -/
theorem State.modFn_ctrlWrite_apart (s : State) (p : PciePort) {o n : Nat} (v : Nat) (h : o + n ≤ 0x10 ∨ 0x24 ≤ o)
    (hm : o < 0x100) : (s.modFn p fun f => f.ctrlWrite o n v) = s :=
  (congrArg (s.modFn p) (funext fun f => f.ctrlWrite_apart v h hm)).trans (s.modFn_id p)

theorem PciFn.ctrlWrite_aqsq (f : PciFn) (v : Word) : f.ctrlWrite 0x10 8 v.toNat = { f with aqsq := v } := by
  simp (disch := omega) [PciFn.ctrlWrite, rwField_self, rwField_apart, mboxWrite]

theorem PciFn.ctrlWrite_aqcq (f : PciFn) (v : Word) : f.ctrlWrite 0x18 8 v.toNat = { f with aqcq := v } := by
  simp (disch := omega) [PciFn.ctrlWrite, rwField_self, rwField_apart, mboxWrite]

theorem PciFn.ctrlWrite_aqsize (f : PciFn) (v : Word) :
    f.ctrlWrite 0x20 4 (v.setWidth 32).toNat = { f with aqsize := v.setWidth 32 } := by
  have hmbox : ¬ (0x100 ≤ 0x20 ∧ 0x20 < 0x140) := by omega
  simp (disch := omega) only [PciFn.ctrlWrite, rwField_word_low, rwField_apart, mboxWrite, if_neg hmbox]

/-- A write below the MSI-X table that meets neither EN nor GO only sets the function's fields. -/
theorem State.bar0Write_fields (s : State) (p : PciePort) {o n : Nat} (v : Nat) (h : o < 0x140)
    (hen : touches 8 o n = false) (hgo : touches 0x28 o n = false) :
    s.bar0Write p o n v = s.modFn p fun f => f.ctrlWrite o n v := by
  simp [State.bar0Write, State.enWrite, h, hen, hgo]

/-- A write of OUVZU_CTRL sets or clears EN, where it changes. -/
theorem State.bar0Write_ctrl (s : State) (p : PciePort) (v : Word) :
    s.bar0Write p 8 4 (v.setWidth 32).toNat =
      if v.getLsbD 0 then (if (s.fn p).en then s else s.enSet p) else s.enClear p := by
  have hfields := s.modFn_ctrlWrite_apart p (o := 8) (n := 4) (v.setWidth 32).toNat (by omega) (by omega)
  have hen : touches 8 8 4 = true := rfl
  have hgo : touches 0x28 8 4 = false := rfl
  simp only [State.bar0Write, State.enWrite, hfields, hen, hgo, testBit_laneVal_word 8 v 0 (by omega), Bool.false_and,
    Bool.not_true, Bool.false_eq_true, if_false]
  rfl

/-- A write of OUVZU_MBGO submits the mailbox when GO is 1. -/
theorem State.bar0Write_go (s : State) (p : PciePort) (v : Word) :
    s.bar0Write p 0x28 4 (v.setWidth 32).toNat = if v.getLsbD 0 then s.mboxGo p else s := by
  have hfields := s.modFn_ctrlWrite_apart p (o := 0x28) (n := 4) (v.setWidth 32).toNat (by omega) (by omega)
  have hen : touches 8 0x28 4 = false := rfl
  have hgo : touches 0x28 0x28 4 = true := rfl
  simp only [State.bar0Write, State.enWrite, hfields, hen, hgo, testBit_laneVal_word 0x28 v 0 (by omega), Bool.true_and,
    Bool.not_false, if_true]
  rfl

/-- The doorbells of queue `q` (R480). -/
theorem State.bar0Write_doorbells (s : State) (p : PciePort) {q : Nat} (v : Nat) (h : q < 2 ^ 14) :
    s.bar0Write p (0x10_0000 + 8 * q) 4 v = s.doorbell p q (fun x => x.setTail v) ∧
      s.bar0Write p (0x10_0004 + 8 * q) 4 v = s.doorbell p q fun x => x.setHead v := by
  have hrange {o : Nat} (h1 : 0x10_0000 ≤ o) (h2 : o < 0x12_0000) : s.bar0Write p o 4 v = s.bellWrite p o 4 v := by
    rw [State.bar0Write, if_neg (by omega), if_neg (by omega), if_pos ⟨h1, h2⟩]
  have hsplit : 0x10_0004 + 8 * q = 0x10_0000 + (8 * q + 4) := by omega
  have hq : (8 * q + 4) / 8 = q := by omega
  constructor
  · rw [hrange (by omega) (by omega)]
    simp [State.bellWrite]
  · rw [hrange (by omega) (by omega), hsplit]
    simp [State.bellWrite, hq]

/-- The mirror of the CP block takes no write (R480). -/
theorem State.bar0Write_mirror (s : State) (p : PciePort) {o : Nat} (n v : Nat) (h : 0x80_0000 ≤ o) :
    s.bar0Write p o n v = s := by
  rw [State.bar0Write, if_neg (by omega), if_neg (by omega), if_neg (by omega)]

/-- A write of the command register sets its RW bits, and leaves the power state. -/
theorem PciCfg.write_command (c : PciCfg) (v : Word) :
    (c.write 4 2 (v.setWidth 16).toNat).command = v.setWidth 16 &&& 0x146 ∧
      (c.write 4 2 (v.setWidth 16).toNat).power = c.power := by
  constructor
  · simp only [PciCfg.write]
    rw [rwField_self _ 0 4 2 _ (by omega), Nat.shiftRight_zero, BitVec.ofNat_toNat, BitVec.setWidth_eq]
  · simp only [PciCfg.write]
    rw [rwField_apart _ 0 0x44 2 _ (by omega), ite_self]

/-! ### What a host reads -/

theorem hostRead_level (s : State) (p : PciePort) : leNat (s.hostRead p false 0 4) = contractLevel :=
  leNat_regBytes_own (pre := []) (r := reg32 0 contractLevel) rfl (by simp)

theorem hostRead_mirror (s : State) (p : PciePort) {o : Nat} (n : Nat) (h : o < 0x1_0000) :
    s.hostRead p false (0x80_0000 + o) n = regBytes (cpRegs s) o n := by
  have hin : 0x80_0000 ≤ 0x80_0000 + o ∧ 0x80_0000 + o < 0x81_0000 := by omega
  simp [State.hostRead, hin]

theorem hostRead_aqsq (s : State) (p : PciePort) : leNat (s.hostRead p false 0x10 8) = (s.fn p).aqsq.toNat :=
  let f := s.fn p
  (leNat_regBytes_own (l := f.bar0Regs) (r := reg64 0x10 f.aqsq)
    (pre := [reg32 0 contractLevel, reg32 8 (flagBit 0 f.en),
      reg32 0xC (flagBit 0 f.rdy + flagBit 1 f.disabled + flagBit 2 f.fatal + flagBit 3 f.mbbusy)]) rfl
    (by simp [reg32, reg64])).trans (Nat.mod_eq_of_lt f.aqsq.isLt)

theorem hostRead_stepping (s : State) (p : PciePort) : leNat (s.hostRead p true 8 1) = stepping :=
  leNat_regBytes_own (l := (s.fn p).cfgRegs s.boot.subsystem) (r := ⟨8, 1, stepping⟩)
    (pre := [⟨0, 2, 0x1F3C⟩, ⟨2, 2, 0x4160⟩, ⟨4, 2, (s.fn p).cfg.command.toNat⟩, ⟨6, 2, 0x10⟩]) rfl (by simp)

end Sys2Proof.Machine
end

section
/-!
SUPPORT. Register writes as commands, and the obligation they settle.
-/
namespace Sys2Proof.Machine

/-! ### What a register write does, block by block -/

section
variable (s : State) (v : Word)

/-- A write to a tile's block acts on its status registers alone, as W1C. -/
theorem regWrite_tile {g : RegAgent} (t : TileId) {off : BitVec 24} {size : BitVec 2}
    (hg : g ∈ [RegAgent.sequencer, .cp, .smc]) (ha : off.toNat % 2 ^ size.toNat = 0) :
    ∃ u, exec (.regWrite g (.tile t) off size v) s = .next u ∧ u = { s with tiles := u.tiles } ∧
      (∀ x, x ≠ t → u.tile x = s.tile x) ∧ (u.tile t).seq.regs = (s.tile t).seq.regs ∧
      (u.tile t).acc = (s.tile t).acc ∧ (u.tile t).matQ = (s.tile t).matQ ∧
      ∀ k < 7, ∀ o x y, (tileStats (s.tile t))[k]? = some (o, x) → (tileStats (u.tile t))[k]? = some (o, y) →
        (off.toNat = o → size = 2 → y = x &&& ~~~ v.setWidth 32) ∧
          (off.toNat + 2 ^ size.toNat ≤ o ∨ o + 4 ≤ off.toNat → y = x) := by
  refine ⟨_, exec_regWrite_next v s (agentReaches_tile_cluster hg t 0).1 ha, rfl,
    fun x hx => State.tile_modTile_ne s _ hx, ?_⟩
  simp only [State.blockWrite, State.tile_modTile]
  refine ⟨rfl, rfl, rfl, fun k _ o x y hx hy => ?_⟩
  rw [tileStats_tileRegWrite_get hx hy]
  refine ⟨?_, w1c_apart x 0 o _⟩
  rintro rfl rfl
  rw [← w1c_word x off.toNat v, BitVec.toNat_setWidth]
  rfl

/-- A write of a cluster's status clears ENG_FAULT's bits alone. -/
theorem regWrite_cluster {g : RegAgent} (c : ClusterId) (hg : g ∈ [RegAgent.sequencer, .cp, .smc]) :
    ∃ u, exec (.regWrite g (.cluster c) 0 2 v) s = .next u ∧
      (∀ i < 4, (u.cluster c).engFault.getLsbD i =
        ((s.cluster c).engFault.getLsbD i && !(v.setWidth 32).getLsbD (8 + i))) ∧
      u = { s with clusters := s.clusters.set c { s.cluster c with engFault := (u.cluster c).engFault } } := by
  refine ⟨_, exec_regWrite_word v s (agentReaches_tile_cluster hg 0 c).2 rfl, ?_⟩
  simp only [State.blockWrite, State.cluster_modCluster]
  exact ⟨fun i hi => engFault_clusterRegWrite _ _ i hi, rfl⟩

section
variable {g : RegAgent} (hg : g ∈ [RegAgent.cp, .smc])
include hg

theorem regWrite_lsctrl : exec (.regWrite g .cp 0xCC0 2 v) s = .next { s with gtc := { s.gtc with
    lsPort := v.setWidth _, lsEn := v.getLsbD 5, lsHalt := v.getLsbD 6 } } := by
  rw [exec_regWrite_word v s (agentReaches_of_cp_or_smc hg fun p => by simp) rfl]
  exact congrArg _ (cpRegWrite_lsctrl s v)

theorem regWrite_cp_readOnly {off : BitVec 24} (ha : off.toNat % 4 = 0) (ho : 0x1004 ≤ off.toNat) :
    exec (.regWrite g .cp off 2 v) s = .next s := by
  rw [exec_regWrite_word v s (agentReaches_of_cp_or_smc hg fun p => by simp) ha]
  exact congrArg _ (cpRegWrite_readOnly s _ ho)

theorem regWrite_linkGroup (k : Fin 4) (off : BitVec 24) (size : BitVec 2) :
    exec (.regWrite g (.linkGroup k) off size v) s = .next s := by
  by_cases ha : off.toNat % 2 ^ size.toNat = 0
  · exact exec_regWrite_next v s (agentReaches_of_cp_or_smc hg fun p => by simp) ha
  · exact exec_regWrite_ignored v s (.inl ha)

/-- A 32-bit write to a port's block. -/
theorem regWrite_linkPort (p : PortId) {off : BitVec 24} (ha : off.toNat % 4 = 0) :
    exec (.regWrite g (.linkPort p) off 2 v) s = .next (s.linkWrite p off.toNat 4 (v.setWidth 32).toNat) :=
  exec_regWrite_word v s (agentReaches_of_cp_or_smc hg fun p => by simp) ha

/-- A 32-bit write to a router's block. -/
theorem regWrite_router (d : Die) {off : BitVec 24} (ha : off.toNat % 4 = 0) :
    exec (.regWrite g (.router d) off 2 v) s =
      .next (s.modRouter d fun r => routerRegWrite r (g == .cp) off.toNat 4 (v.setWidth 32).toNat) :=
  exec_regWrite_word v s (agentReaches_of_cp_or_smc hg fun p => by simp) ha

theorem regWrite_router_reserved (d : Die) : exec (.regWrite g (.router d) 4 2 v) s = .next s := by
  rw [regWrite_router s v hg d rfl]
  exact congrArg _ ((State.modRouter_congr (routerRegWrite_reserved _ _ _)).trans (s.modRouter_id d))

theorem regWrite_router_locked {d : Die} {off : BitVec 24} (ha : off.toNat % 4 = 0) (ho : off.toNat < 0x28)
    (hne : off.toNat ≠ 4) (hl : (s.router d).lock = true) :
    exec (.regWrite g (.router d) off 2 v) s = .next (s.modRouter d fun r => { r with lockwr := true }) := by
  rw [regWrite_router s v hg d ha]
  exact congrArg _ (State.modRouter_congr (routerRegWrite_locked _ _ hl (inTables_word ha ho hne) (by omega)))

theorem regWrite_router_self {d : Die} (hl : (s.router d).lock = false) :
    exec (.regWrite g (.router d) 0 2 v) s = .next (s.modRouter d fun r => { r with self := v.setWidth _ }) := by
  rw [regWrite_router s v hg d rfl]
  exact congrArg _ (State.modRouter_congr (routerRegWrite_self _ v hl))

/-- LINK_STAT of a port in service: only its W1C bits. -/
theorem regWrite_linkStat {p : PortId} (hd : (s.port p).disable = false) (hs : (s.port p).state ≠ .disabled)
    (hr : (s.port p).retrainRq = false) :
    exec (.regWrite g (.linkPort p) 0 2 v) s = .next (s.modPort p fun x => { x with
      trainErr := x.trainErr && !v.getLsbD 0, swapBit := x.swapBit && !v.getLsbD 1, lossBit := x.lossBit && !v.getLsbD 2,
      degraded := x.degraded && !v.getLsbD 22 }) := by
  rw [regWrite_linkPort s v hg p rfl]
  exact congrArg _ (State.linkWrite_plain (linkRegWrite_stat _ v) hd hs hr)

/-- LINK_CTRL of a port in service: its fields, and RETRAIN or DISABLE as their commands. -/
theorem regWrite_linkCtrl {p : PortId} (hd : (s.port p).disable = false) (hs : (s.port p).state ≠ .disabled)
    (hr : (s.port p).retrainRq = false) :
    (v.getLsbD 0 = false → v.getLsbD 1 = false →
      exec (.regWrite g (.linkPort p) 8 2 v) s = .next (s.modPort p (.withCtrl v))) ∧
    (v.getLsbD 0 = true → v.getLsbD 1 = false →
      exec (.regWrite g (.linkPort p) 8 2 v) s = exec (.linkRetrain p) (s.modPort p (.withCtrl v))) ∧
    (v.getLsbD 0 = false → v.getLsbD 1 = true →
      exec (.regWrite g (.linkPort p) 8 2 v) s = exec (.linkDisable p true) (s.modPort p (.withCtrl v))) := by
  rw [regWrite_linkPort s v hg p rfl]
  refine ⟨fun h0 h1 => ?_, fun h0 h1 => ?_, fun h0 h1 => State.linkWrite_ctrl_disable hr h0 h1⟩
  · exact congrArg _ ((State.linkWrite_ctrl_enabled hd hs hr h1).trans (by rw [h0]; rfl))
  · exact congrArg _ ((State.linkWrite_ctrl_enabled hd hs hr h1).trans (by rw [h0]; rfl))

end

theorem regWrite_router_stat (d : Die) : exec (.regWrite .cp (.router d) 0x28 2 v) s =
    .next (s.modRouter d fun r => { r with
      lock := v.getLsbD 16, lockwr := r.lockwr && !v.getLsbD 0, epochErr := r.epochErr && !v.getLsbD 1,
      routeErr := r.routeErr && !v.getLsbD 2, mcastErr := r.mcastErr && !v.getLsbD 3 }) := by
  rw [regWrite_router s v (by simp) d rfl]
  exact congrArg _ (State.modRouter_congr (routerRegWrite_stat _ v))

/-! A host's writes to its own port -/

/-- A host's write of 32 bits to BAR0. -/
theorem regWrite_bar0_word (p : PciePort) {off : BitVec 24} (ha : off.toNat % 4 = 0) :
    exec (.regWrite (.host p) (.bar0 p) off 2 v) s = .next (s.bar0Write p off.toNat 4 (v.setWidth 32).toNat) :=
  exec_regWrite_word v s (by simp [agentReaches]) ha

/-- A host's write of 64 bits to BAR0. -/
theorem regWrite_bar0_dword (p : PciePort) {off : BitVec 24} (ha : off.toNat % 8 = 0) :
    exec (.regWrite (.host p) (.bar0 p) off 3 v) s = .next (s.bar0Write p off.toNat 8 v.toNat) :=
  exec_regWrite_dword v s (by simp [agentReaches]) ha

/-- The admin queue's bases and size take the value. -/
theorem regWrite_adminQueue (p : PciePort) :
    exec (.regWrite (.host p) (.bar0 p) 0x10 3 v) s = .next (s.modFn p fun f => { f with aqsq := v }) ∧
    exec (.regWrite (.host p) (.bar0 p) 0x18 3 v) s = .next (s.modFn p fun f => { f with aqcq := v }) ∧
    exec (.regWrite (.host p) (.bar0 p) 0x20 2 v) s = .next (s.modFn p fun f => { f with aqsize := v.setWidth 32 }) := by
  rw [regWrite_bar0_dword s v p rfl, regWrite_bar0_dword s v p rfl, regWrite_bar0_word s v p rfl]
  refine ⟨congrArg _ ?_, congrArg _ ?_, congrArg _ ?_⟩
  · exact (s.bar0Write_fields p _ (by decide) rfl rfl).trans (congrArg (s.modFn p) (funext fun f => f.ctrlWrite_aqsq v))
  · exact (s.bar0Write_fields p _ (by decide) rfl rfl).trans (congrArg (s.modFn p) (funext fun f => f.ctrlWrite_aqcq v))
  · exact (s.bar0Write_fields p _ (by decide) rfl rfl).trans (congrArg (s.modFn p) (funext fun f => f.ctrlWrite_aqsize v))

/-- OUVZU_CTRL acts as setting or clearing EN does, where EN changes. -/
theorem regWrite_en (p : PciePort) :
    ((s.fn p).en = false → v.getLsbD 0 = true → exec (.regWrite (.host p) (.bar0 p) 8 2 v) s = exec (.ouvzuEnSet p) s) ∧
    ((s.fn p).en = true → v.getLsbD 0 = true → exec (.regWrite (.host p) (.bar0 p) 8 2 v) s = .next s) ∧
    (v.getLsbD 0 = false → exec (.regWrite (.host p) (.bar0 p) 8 2 v) s = exec (.ouvzuEnClear p) s) := by
  rw [regWrite_bar0_word s v p rfl]
  have hctrl := s.bar0Write_ctrl p v
  refine ⟨fun hen h0 => ?_, fun hen h0 => ?_, fun h0 => ?_⟩
  · exact congrArg _ (hctrl.trans (by rw [h0, hen]; rfl))
  · exact congrArg _ (hctrl.trans (by rw [h0, hen]; rfl))
  · exact congrArg _ (hctrl.trans (by rw [h0]; rfl))

/-- GO acts as its command, and a 0 does nothing. -/
theorem regWrite_go (p : PciePort) :
    (v.getLsbD 0 = true → exec (.regWrite (.host p) (.bar0 p) 0x28 2 v) s = exec (.mboxGo p) s) ∧
    (v.getLsbD 0 = false → exec (.regWrite (.host p) (.bar0 p) 0x28 2 v) s = .next s) := by
  rw [regWrite_bar0_word s v p rfl]
  have hgo := s.bar0Write_go p v
  refine ⟨fun h0 => ?_, fun h0 => ?_⟩
  · exact congrArg _ (hgo.trans (by rw [h0]; rfl))
  · exact congrArg _ (hgo.trans (by rw [h0]; rfl))

/-- The doorbells act as their commands. -/
theorem regWrite_doorbells (p : PciePort) (q : BitVec 14) :
    exec (.regWrite (.host p) (.bar0 p) (BitVec.ofNat 24 (0x10_0000 + 8 * q.toNat)) 2 v) s =
      exec (.sqTailDoorbell p q (v.setWidth 32)) s ∧
    exec (.regWrite (.host p) (.bar0 p) (BitVec.ofNat 24 (0x10_0004 + 8 * q.toNat)) 2 v) s =
      exec (.cqHeadDoorbell p q (v.setWidth 32)) s := by
  have hq := q.isLt
  have htail : (BitVec.ofNat 24 (0x10_0000 + 8 * q.toNat)).toNat = 0x10_0000 + 8 * q.toNat := by
    rw [BitVec.toNat_ofNat]; omega
  have hhead : (BitVec.ofNat 24 (0x10_0004 + 8 * q.toNat)).toNat = 0x10_0004 + 8 * q.toNat := by
    rw [BitVec.toNat_ofNat]; omega
  obtain ⟨hsq, hcq⟩ := s.bar0Write_doorbells p (v.setWidth 32).toNat hq
  rw [regWrite_bar0_word s v p (by rw [htail]; omega), regWrite_bar0_word s v p (by rw [hhead]; omega), htail, hhead,
    hsq, hcq]
  exact ⟨rfl, rfl⟩

/-- The command register takes its RW bits, and with them Bus Master Enable. -/
theorem regWrite_command (p : PciePort) :
    ∃ u, exec (.regWrite (.host p) (.config p) 4 1 v) s = .next u ∧
      u = s.modFn p (fun f => { f with cfg := (u.fn p).cfg }) ∧ (u.fn p).cfg.command = v.setWidth 16 &&& 0x146 ∧
      ((u.fn p).cfg.power = 0 → (s.fn p).disabled = false → (u.fn p).masters = v.getLsbD 2) := by
  have hoff : (4 : BitVec 24).toNat = 4 := rfl
  have hbit : (v.setWidth 16 &&& 0x146).getLsbD 2 = v.getLsbD 2 := by simp
  refine ⟨_, exec_regWrite_half v s (by simp [agentReaches]) rfl, ?_⟩
  simp only [State.blockWrite, State.fn_modFn, hoff, PciFn.masters, PciCfg.write_command, true_and]
  refine ⟨rfl, fun hpower hdisabled => ?_⟩
  rw [hpower, hdisabled, hbit]
  simp

end

/-- Settles O48, block by block: each clause is the lemma of its register. -/
theorem registerWritesFollowTheirAccess : Obligations.RegisterWritesFollowTheirAccess := by
  intro s v
  refine ⟨fun g sp off size h => exec_regWrite_ignored v s h, fun g t off size hg ha => regWrite_tile s v t hg ha,
    fun g c hg => regWrite_cluster s v c hg, fun g hg => ?_, fun d => regWrite_router_stat s v d, fun p => ?_,
    fun p => regWrite_command s v p, fun p => ⟨hostRead_level s p, fun o n ho => hostRead_mirror s p n ho, hostRead_aqsq s p,
      hostRead_stepping s p⟩⟩
  · exact ⟨regWrite_lsctrl s v hg, fun off ha ho => regWrite_cp_readOnly s v hg ha ho,
      fun k off size => regWrite_linkGroup s v hg k off size,
      fun p hd hs hr => ⟨regWrite_linkStat s v hg hd hs hr, regWrite_linkCtrl s v hg hd hs hr⟩,
      fun d => regWrite_router_reserved s v hg d, fun d off ha ho hne hl => regWrite_router_locked s v hg ha ho hne hl,
      fun d hl => regWrite_router_self s v hg hl⟩
  · obtain ⟨hsq, hcq, hsize⟩ := regWrite_adminQueue s v p
    obtain ⟨hset, hkept, hclear⟩ := regWrite_en s v p
    obtain ⟨hgo, hnot⟩ := regWrite_go s v p
    exact ⟨fun off ha ho => (regWrite_bar0_dword s v p ha).trans (congrArg _ (s.bar0Write_mirror p 8 _ ho)), hsq, hcq, hsize,
      hset, hkept, hclear, hgo, hnot, fun q => regWrite_doorbells s v p q⟩

end Sys2Proof.Machine
end

section
/-!
SUPPORT. The state after reset, part by part, and the obligation it settles.
-/
namespace Sys2Proof.Machine

@[simp] theorem State.tile_reset (t : TileId) : State.reset.tile t = .reset := by
  simp [State.tile, State.reset]

@[simp] theorem State.cluster_reset (c : ClusterId) : State.reset.cluster c = .reset := by
  simp [State.cluster, State.reset]

@[simp] theorem State.port_reset (p : PortId) : State.reset.port p = .reset := by
  simp [State.port, State.reset]

@[simp] theorem State.router_reset (d : Die) : State.reset.router d = .reset := by
  simp [State.router, State.reset]

@[simp] theorem State.fn_reset (p : PciePort) : State.reset.fn p = .reset := by
  simp [State.fn, State.reset, Ouvzu.reset]

/-- No memory lists a byte after reset, so each has its canonical form. -/
theorem State.memWf_reset : State.reset.memWf :=
  ⟨Memory.wf_nil 0, Memory.wf_nil 0, Memory.wf_nil 0, Memory.wf_nil 0xFF⟩

/-- No command waits after reset. -/
theorem State.queueWf_reset : State.reset.queueWf := by
  simp [State.queueWf, State.reset]

/-- Settles O59: the two well-formedness facts, the parts by their reset values, and the remaining registers read off
the reset records. -/
theorem resetStateIsAsDescribed : Obligations.ResetStateIsAsDescribed := by
  unfold Obligations.ResetStateIsAsDescribed
  have hfn (p) : (State.reset.fn p).en = false ∧ (State.reset.fn p).rdy = false := by
    rw [State.fn_reset]; exact ⟨rfl, rfl⟩
  have hport (p) : (State.reset.port p).active = false := by rw [State.port_reset]; rfl
  have hcluster (c) : (State.reset.cluster c).engFault = 0 := by rw [State.cluster_reset]; rfl
  have htile (t) : (State.reset.tile t).fpstat = 0 ∧ (State.reset.tile t).matQ = [] := by
    rw [State.tile_reset]; exact ⟨rfl, rfl⟩
  have hrouter (d) : (State.reset.router d).lock = false := by rw [State.router_reset]; rfl
  exact ⟨State.memWf_reset, State.queueWf_reset, rfl, rfl, rfl, rfl, rfl, rfl, rfl, rfl, rfl, rfl, rfl, hfn, hport,
    hcluster, htile, rfl, rfl, rfl, rfl, rfl, rfl, rfl, rfl, rfl, rfl, rfl, hrouter⟩

end Sys2Proof.Machine
end

section
/-!
SUPPORT. The magnitude codes of a float format with the exponent field unbounded (R65 judges overflow so): their values
rise strictly, and decoding gives a finite code the value of its magnitude code with its sign (R41).
-/
namespace Sys2Proof.Machine

/-- R41's value of a magnitude code, whatever its exponent field. -/
def FFmt.magVal (f : FFmt) (c : Nat) : Rat :=
  if c / 2 ^ f.t = 0 then (2 : Rat) ^ (1 - (f.bias : Int)) * ((c % 2 ^ f.t : Nat) / 2 ^ f.t)
  else (2 : Rat) ^ ((c / 2 ^ f.t : Nat) - (f.bias : Int)) * (1 + (c % 2 ^ f.t : Nat) / 2 ^ f.t)

/-- The unit in the last place of the codes whose exponent field is `k + 1`, and for `k = 0` of the subnormal ones. -/
def FFmt.ulp (f : FFmt) (k : Nat) : Rat := (2 : Rat) ^ ((k : Int) + 1 - f.bias - f.t)

theorem FFmt.ulp_pos (f : FFmt) (k : Nat) : 0 < f.ulp k := zpow_pos two_pos _

theorem FFmt.ulp_succ (f : FFmt) (k : Nat) : f.ulp (k + 1) = 2 * f.ulp k := by
  rw [FFmt.ulp, FFmt.ulp, ← zpow_one_add₀ two_ne_zero]
  congr 1
  push_cast
  ring

theorem FFmt.two_zpow_eq_ulp (f : FFmt) (k : Nat) : (2 : Rat) ^ ((k : Int) + 1 - f.bias) = f.ulp k * 2 ^ f.t := by
  rw [FFmt.ulp, ← zpow_natCast, ← zpow_add₀ two_ne_zero, sub_add_cancel]

theorem FFmt.magVal_subnormal (f : FFmt) {q : Nat} (h : q < 2 ^ f.t) : f.magVal q = q * f.ulp 0 := by
  have hu := f.two_zpow_eq_ulp 0
  rw [Nat.cast_zero, zero_add] at hu
  rw [FFmt.magVal, if_pos (Nat.div_eq_of_lt h), Nat.mod_eq_of_lt h, hu]
  field_simp

theorem FFmt.magVal_normal (f : FFmt) (k : Nat) {fr : Nat} (h : fr < 2 ^ f.t) :
    f.magVal ((k + 1) * 2 ^ f.t + fr) = (2 ^ f.t + fr) * f.ulp k := by
  have hdiv : ((k + 1) * 2 ^ f.t + fr) / 2 ^ f.t = k + 1 := by
    rw [Nat.mul_comm, Nat.mul_add_div (Nat.two_pow_pos _), Nat.div_eq_of_lt h, Nat.add_zero]
  have hmod : ((k + 1) * 2 ^ f.t + fr) % 2 ^ f.t = fr := by rw [Nat.mul_add_mod', Nat.mod_eq_of_lt h]
  rw [FFmt.magVal, hdiv, if_neg k.succ_ne_zero, hmod, Nat.cast_succ, f.two_zpow_eq_ulp]
  field_simp

/-- Every count `q` of units of a binade, up to the first of the next, has its code. -/
theorem FFmt.magVal_binade (f : FFmt) {k q : Nat} (hlo : k = 0 ∨ 2 ^ f.t ≤ q) (hhi : q ≤ 2 * 2 ^ f.t) :
    f.magVal (k * 2 ^ f.t + q) = q * f.ulp k := by
  rcases lt_or_ge q (2 ^ f.t) with hsub | hnorm
  · obtain rfl : k = 0 := hlo.resolve_right hsub.not_ge
    rw [Nat.zero_mul, Nat.zero_add, f.magVal_subnormal hsub]
  rcases hhi.lt_or_eq with hlt | rfl
  · have hcode : k * 2 ^ f.t + q = (k + 1) * 2 ^ f.t + (q - 2 ^ f.t) := by rw [Nat.succ_mul]; omega
    rw [hcode, f.magVal_normal k (by omega), Nat.cast_sub hnorm]
    push_cast
    ring
  · have hcode : k * 2 ^ f.t + 2 * 2 ^ f.t = (k + 1 + 1) * 2 ^ f.t + 0 := by ring
    rw [hcode, f.magVal_normal (k + 1) (Nat.two_pow_pos _), f.ulp_succ]
    push_cast
    ring

/-- Every code lies in a binade, below its last unit. -/
theorem FFmt.exists_binade (f : FFmt) (c : Nat) :
    ∃ k q, c = k * 2 ^ f.t + q ∧ (k = 0 ∨ 2 ^ f.t ≤ q) ∧ q < 2 * 2 ^ f.t := by
  have hmod := Nat.mod_lt c (Nat.two_pow_pos f.t)
  have hc := Nat.div_add_mod' c (2 ^ f.t)
  cases hk : c / 2 ^ f.t with
  | zero => exact ⟨0, c % 2 ^ f.t, by rw [← hk, hc], .inl rfl, by omega⟩
  | succ k =>
    refine ⟨k, 2 ^ f.t + c % 2 ^ f.t, ?_, .inr (by omega), by omega⟩
    rw [← Nat.add_assoc, ← Nat.succ_mul, Nat.succ_eq_add_one, ← hk, hc]

theorem FFmt.magVal_strictMono (f : FFmt) : StrictMono f.magVal := by
  refine strictMono_nat_of_lt_succ fun c => ?_
  obtain ⟨k, q, rfl, hlo, hhi⟩ := f.exists_binade c
  rw [Nat.add_assoc, f.magVal_binade hlo hhi.le, f.magVal_binade (hlo.imp_right (by omega)) hhi]
  exact mul_lt_mul_of_pos_right (by simp) (f.ulp_pos k)

@[simp] theorem FFmt.magVal_zero (f : FFmt) : f.magVal 0 = 0 := by
  rw [f.magVal_subnormal (Nat.two_pow_pos _), Nat.cast_zero, zero_mul]

theorem FFmt.magVal_nonneg (f : FFmt) (c : Nat) : 0 ≤ f.magVal c :=
  f.magVal_zero ▸ f.magVal_strictMono.monotone c.zero_le

/-! ### Codes and their magnitudes -/

theorem FFmt.maxMag_lt (f : FFmt) : f.maxMag < 2 ^ f.magBits := by
  have hpos := Nat.two_pow_pos f.magBits
  have hieee : (2 ^ f.w - 1) * 2 ^ f.t ≤ 2 ^ f.magBits := by
    rw [FFmt.magBits, Nat.pow_add]
    exact Nat.mul_le_mul_right _ (Nat.sub_le _ _)
  unfold FFmt.maxMag
  split <;> omega

/-- A code is its sign bit above its magnitude code. -/
theorem FFmt.signOf_add_mod (f : FFmt) {c : Nat} (h : c < 2 ^ f.width) :
    f.signOf (f.signed && c.testBit f.magBits) + c % 2 ^ f.magBits = c := by
  have hc := Nat.div_add_mod' c (2 ^ f.magBits)
  unfold FFmt.signOf
  cases hs : f.signed with
  | false =>
    rw [FFmt.width, hs] at h
    simpa using Nat.mod_eq_of_lt h
  | true =>
    rw [FFmt.width, hs, if_pos rfl, Nat.pow_succ] at h
    have hbit : c / 2 ^ f.magBits < 2 := Nat.div_lt_of_lt_mul h
    rw [Nat.testBit_eq_decide_div_mod_eq, Nat.mod_eq_of_lt hbit]
    generalize c / 2 ^ f.magBits = b at hc hbit ⊢
    interval_cases b <;> simpa using hc

theorem FFmt.signOf_lt (f : FFmt) (neg : Bool) {k : Nat} (h : k < 2 ^ f.magBits) : f.signOf neg + k < 2 ^ f.width := by
  unfold FFmt.signOf FFmt.width
  cases f.signed <;> cases neg <;> simp [Nat.pow_succ] <;> omega

/-- A sign that the format holds is read back from the code, and so is the magnitude code. -/
theorem FFmt.signOf_add_fields (f : FFmt) {neg : Bool} (hs : f.signed = true ∨ neg = false) {k : Nat}
    (h : k < 2 ^ f.magBits) :
    (f.signed && (f.signOf neg + k).testBit f.magBits) = neg ∧ (f.signOf neg + k) % 2 ^ f.magBits = k := by
  unfold FFmt.signOf
  cases neg with
  | false => simp [Nat.mod_eq_of_lt h, Nat.testBit_lt_two_pow h]
  | true =>
    have hsigned : f.signed = true := by simpa using hs
    simp [hsigned, Nat.mod_eq_of_lt h, Nat.testBit_two_pow_add_eq, Nat.testBit_lt_two_pow h]

/-- A finite code stands for its magnitude code's value with its sign (R41). -/
theorem FFmt.decode_finite (f : FFmt) {c : Nat} (h : c % 2 ^ f.magBits ≤ f.maxMag) :
    ∃ m e, f.decode c = .fin (f.signed && c.testBit f.magBits) m e ∧
      (m : Rat) * (2 : Rat) ^ e = f.magVal (c % 2 ^ f.magBits) := by
  unfold FFmt.decode
  generalize c % 2 ^ f.magBits = mag at h ⊢
  have hmod := Nat.mod_lt mag (Nat.two_pow_pos f.t)
  have hmag := Nat.div_add_mod' mag (2 ^ f.t)
  rw [if_neg h.not_gt]
  by_cases h0 : mag / 2 ^ f.t = 0
  · refine ⟨mag % 2 ^ f.t, _, if_pos (by simpa using h0), ?_⟩
    have hsub : mag < 2 ^ f.t := by rw [h0] at hmag; omega
    rw [f.magVal_subnormal hsub, Nat.mod_eq_of_lt hsub, FFmt.ulp, Nat.cast_zero, zero_add]
  · obtain ⟨k, hk⟩ := Nat.exists_eq_succ_of_ne_zero h0
    refine ⟨mag % 2 ^ f.t + 2 ^ f.t, _, if_neg (by simpa using h0), ?_⟩
    conv_rhs => rw [← hmag, hk]
    rw [f.magVal_normal k hmod, FFmt.ulp, hk]
    push_cast
    ring

/-! ### Signs -/

/-- A magnitude with a sign. -/
def signRat (neg : Bool) (z : Rat) : Rat := (if neg then -1 else 1) * z

@[simp] theorem signRat_false (z : Rat) : signRat false z = z := one_mul z

@[simp] theorem signRat_true (z : Rat) : signRat true z = -z := neg_one_mul z

theorem signRat_not (neg : Bool) (z : Rat) : signRat (!neg) z = -signRat neg z := by cases neg <;> simp

theorem signRat_sub (neg : Bool) (x y : Rat) : signRat neg (x - y) = signRat neg x - signRat neg y := mul_sub ..

@[simp] theorem abs_signRat (neg : Bool) (z : Rat) : |signRat neg z| = |z| := by cases neg <;> simp

theorem FV.rat_fin (neg : Bool) (m : Nat) (e : Int) : (FV.fin neg m e).rat = signRat neg (m * (2 : Rat) ^ e) :=
  mul_assoc ..

/-- The value of a finite code. -/
theorem FFmt.rat_decode (f : FFmt) {c : Nat} (h : c % 2 ^ f.magBits ≤ f.maxMag) :
    (f.decode c).rat = signRat (f.signed && c.testBit f.magBits) (f.magVal (c % 2 ^ f.magBits)) := by
  obtain ⟨m, e, hd, hv⟩ := f.decode_finite h
  rw [hd, FV.rat_fin, hv]

end Sys2Proof.Machine
end

section
/-!
SUPPORT. Rounding a magnitude (R60, R65): `roundMag` takes the code below a value or the next one, as the mode says,
and so the code that the mode asks for among all codes.
-/
namespace Sys2Proof.Machine

/-- The code to which a mode takes a magnitude `v` that lies from `a`, the value of code `lo`, up to `b`, the value of
the next code (R60). -/
def roundBetween (r : Rnd) (neg : Bool) (lo : Nat) (a v b : Rat) : Nat :=
  if roundsUp r neg (lo % 2 == 1) (compare (v - a) (b - v)) (decide (v ≠ a)) then lo + 1 else lo

theorem roundBetween_exact (r : Rnd) (neg : Bool) (lo : Nat) {a b : Rat} (h : a < b) :
    roundBetween r neg lo a a b = lo := by
  have hlt : compare (a - a) (b - a) = .lt := compare_lt_iff_lt.2 (by linarith)
  rw [roundBetween, hlt]
  cases r <;> simp [roundsUp]

theorem roundBetween_le (r : Rnd) (neg : Bool) (lo : Nat) (a v b : Rat) : roundBetween r neg lo a v b ≤ lo + 1 := by
  unfold roundBetween
  split <;> omega

/-- Which of the two codes is taken depends on `lo` by its parity alone. -/
theorem roundBetween_add_even (r : Rnd) (neg : Bool) {n : Nat} (hn : n % 2 = 0) (lo : Nat) (a v b : Rat) :
    roundBetween r neg (n + lo) a v b = n + roundBetween r neg lo a v b := by
  have hpar : (n + lo) % 2 = lo % 2 := by omega
  unfold roundBetween
  rw [hpar]
  split <;> rfl

/-- `roundShift` rounds the multiple `m / 2 ^ k` of a unit between its two neighbours. -/
theorem roundShift_eq_roundBetween (r : Rnd) (neg : Bool) (m k : Nat) {u : Rat} (hu : 0 < u) :
    roundShift r neg m k false = roundBetween r neg (m / 2 ^ k)
      ((m / 2 ^ k : Nat) * (2 ^ k * u)) (m * u) ((m / 2 ^ k + 1 : Nat) * (2 ^ k * u)) := by
  have hm : (m : Rat) = (m / 2 ^ k : Nat) * 2 ^ k + (m % 2 ^ k : Nat) := by
    exact_mod_cast (Nat.div_add_mod' m (2 ^ k)).symm
  generalize hrem : m % 2 ^ k = rem at hm
  generalize hq : m / 2 ^ k = q at hm
  have hbelow : (m : Rat) * u - q * (2 ^ k * u) = rem * u := by rw [hm]; ring
  have habove : ((q + 1 : Nat) : Rat) * (2 ^ k * u) - m * u = (2 ^ k - rem) * u := by rw [hm]; push_cast; ring
  have hinexact : decide ((m : Rat) * u ≠ q * (2 ^ k * u)) = (rem != 0) := by
    have hne : (m : Rat) * u ≠ q * (2 ^ k * u) ↔ rem ≠ 0 := by
      rw [← sub_ne_zero, hbelow]
      simp [hu.ne']
    rw [Bool.eq_iff_iff, decide_eq_true_iff, hne, bne_iff_ne]
  have hhalf : compare ((m : Rat) * u - q * (2 ^ k * u)) ((q + 1 : Nat) * (2 ^ k * u) - m * u) =
      if 2 * rem > 2 ^ k then .gt else if 2 * rem = 2 ^ k then .eq else .lt := by
    rw [hbelow, habove]
    rcases lt_trichotomy (2 * rem) (2 ^ k) with h | h | h
    · have hr : (2 : Rat) * rem < 2 ^ k := by exact_mod_cast h
      rw [if_neg h.not_gt, if_neg h.ne, compare_lt_iff_lt]
      exact mul_lt_mul_of_pos_right (by linarith) hu
    · have hr : (2 : Rat) * rem = 2 ^ k := by exact_mod_cast h
      rw [if_neg h.not_gt, if_pos h, compare_eq_iff_eq, ← hr]
      ring
    · have hr : (2 : Rat) ^ k < 2 * rem := by exact_mod_cast h
      rw [if_pos h, compare_gt_iff_gt]
      exact mul_lt_mul_of_pos_right (by linarith) hu
  rw [roundBetween, hhalf, roundShift, Nat.shiftRight_eq_div_pow, hq, hrem]
  simp [hinexact]

/-- The code that a mode asks for among codes of rising values (R60): a nearest one and the even one of two equally
near; the greatest not above; the least not below. -/
def IsRounding (g : Nat → Rat) (r : Rnd) (neg : Bool) (v : Rat) (c : Nat) : Prop :=
  match r, neg with
  | .rne, _ => ∀ d, |g c - v| ≤ |g d - v| ∧ (|g c - v| = |g d - v| → g c ≠ g d → c % 2 = 0)
  | .rtz, _ | .rdn, false | .rup, true => g c ≤ v ∧ ∀ d, g d ≤ v → g d ≤ g c
  | .rdn, true | .rup, false => v ≤ g c ∧ ∀ d, v ≤ g d → g c ≤ g d

section
variable {g : Nat → Rat} (hg : StrictMono g) {lo : Nat} {v : Rat} (h1 : g lo ≤ v) (h2 : v < g (lo + 1))
include hg h1 h2

theorem below_isGreatest : g lo ≤ v ∧ ∀ d, g d ≤ v → g d ≤ g lo :=
  ⟨h1, fun _ hd => hg.monotone (Nat.lt_succ_iff.1 (hg.lt_iff_lt.1 (hd.trans_lt h2)))⟩

theorem above_isLeast :
    v ≤ g (if v = g lo then lo else lo + 1) ∧ ∀ d, v ≤ g d → g (if v = g lo then lo else lo + 1) ≤ g d := by
  by_cases hv : v = g lo
  · simp [hv]
  · have hlt : g lo < v := lt_of_le_of_ne h1 (Ne.symm hv)
    simp only [hv, if_false]
    exact ⟨h2.le, fun d hd => hg.monotone (hg.lt_iff_lt.1 (hlt.trans_le hd))⟩

/-- Every code is at least as far from `v` as the neighbour on its side, and further when it is another code. -/
theorem neighbour_nearest (d : Nat) :
    (v - g lo ≤ |g d - v| ∧ (v - g lo = |g d - v| → d = lo)) ∨
      (g (lo + 1) - v ≤ |g d - v| ∧ (g (lo + 1) - v = |g d - v| → d = lo + 1)) := by
  rcases Nat.lt_or_ge lo d with hd | hd
  · have hle := hg.monotone (Nat.succ_le_of_lt hd)
    rw [abs_of_nonneg (by linarith)]
    exact .inr ⟨by linarith, fun he => (hg.injective (by linarith)).symm⟩
  · have hle := hg.monotone hd
    rw [abs_of_nonpos (by linarith)]
    exact .inl ⟨by linarith, fun he => hg.injective (by linarith)⟩

theorem roundBetween_nearest (d : Nat) :
    let c := roundBetween .rne false lo (g lo) v (g (lo + 1))
    |g c - v| ≤ |g d - v| ∧ (|g c - v| = |g d - v| → g c ≠ g d → c % 2 = 0) := by
  have hlo : |g lo - v| = v - g lo := by rw [abs_of_nonpos (by linarith), neg_sub]
  have hhi : |g (lo + 1) - v| = g (lo + 1) - v := abs_of_nonneg (by linarith)
  have hd := neighbour_nearest hg h1 h2 d
  intro c
  rcases lt_trichotomy (v - g lo) (g (lo + 1) - v) with h | h | h
  · have hc : c = lo := by simp [c, roundBetween, roundsUp, compare_lt_iff_lt.2 h]
    rw [hc, hlo]
    grind
  · have hc : c = if lo % 2 = 1 then lo + 1 else lo := by simp [c, roundBetween, roundsUp, compare_eq_iff_eq.2 h]
    have heven : c % 2 = 0 := by rw [hc]; split <;> omega
    have hdist : |g c - v| = v - g lo := by rw [hc]; split <;> simp [hlo, hhi, h]
    rw [hdist]
    exact ⟨hd.elim (·.1) fun hd => h.le.trans hd.1, fun _ _ => heven⟩
  · have hc : c = lo + 1 := by simp [c, roundBetween, roundsUp, compare_gt_iff_gt.2 h]
    rw [hc, hhi]
    grind

/-- `roundBetween` takes the code that the mode asks for. -/
theorem isRounding_roundBetween (r : Rnd) (neg : Bool) :
    IsRounding g r neg v (roundBetween r neg lo (g lo) v (g (lo + 1))) := by
  have hbelow := below_isGreatest hg h1 h2
  have habove := above_isLeast hg h1 h2
  unfold roundBetween
  cases r with
  | rne => exact roundBetween_nearest hg h1 h2
  | rtz => simpa [IsRounding, roundsUp] using hbelow
  | rdn =>
    cases neg with
    | false => simpa [IsRounding, roundsUp] using hbelow
    | true => simpa [IsRounding, roundsUp] using habove
  | rup =>
    cases neg with
    | false => simpa [IsRounding, roundsUp] using habove
    | true => simpa [IsRounding, roundsUp] using hbelow

/-- A value not above code `M`'s rounds to no code above `M`. -/
theorem roundBetween_le_of_le (r : Rnd) (neg : Bool) {M : Nat} (h : v ≤ g M) :
    roundBetween r neg lo (g lo) v (g (lo + 1)) ≤ M := by
  rcases h1.eq_or_lt with rfl | hlt
  · rw [roundBetween_exact r neg lo h2]
    exact hg.le_iff_le.1 h
  · exact (roundBetween_le ..).trans (hg.lt_iff_lt.1 (hlt.trans_le h))
end

/-! ### The code of a rounded magnitude -/

/-- The code of a count of units of a binade. -/
theorem codeOf_binade {T k q : Nat} (h : k = 0 ∨ T ≤ q) :
    (if q < T then q else (k + 1) * T + (q - T)) = k * T + q := by
  split
  · obtain rfl : k = 0 := by omega
    rw [Nat.zero_mul, Nat.zero_add]
  · rw [Nat.succ_mul]
    omega

/-- `roundShift`, or a shift to the left where nothing is dropped, rounds a value between two counts of the unit
`2 ^ x`. -/
theorem rounded_units (r : Rnd) (neg : Bool) (n : Nat) (e x : Int) :
    ∃ q : Nat, q * (2 : Rat) ^ x ≤ n * (2 : Rat) ^ e ∧ n * (2 : Rat) ^ e < (q + 1 : Nat) * (2 : Rat) ^ x ∧
      (if x ≥ e then roundShift r neg n (x - e).toNat false else n <<< (e - x).toNat) =
        roundBetween r neg q (q * (2 : Rat) ^ x) (n * (2 : Rat) ^ e) ((q + 1 : Nat) * (2 : Rat) ^ x) := by
  rcases le_or_gt e x with h | h
  · obtain ⟨j, rfl⟩ := Int.exists_add_of_le h
    have hunit : (2 : Rat) ^ (e + j) = 2 ^ j * 2 ^ e := by rw [zpow_add₀ two_ne_zero, zpow_natCast, mul_comm]
    have he : (0 : Rat) < 2 ^ e := zpow_pos two_pos e
    have hlo : ((n / 2 ^ j : Nat) : Rat) * 2 ^ j ≤ n := by exact_mod_cast Nat.div_mul_le_self n (2 ^ j)
    have hhi : (n : Rat) < (n / 2 ^ j + 1 : Nat) * 2 ^ j := by
      exact_mod_cast Nat.lt_mul_of_div_lt (Nat.lt_succ_self _) (Nat.two_pow_pos j)
    refine ⟨n / 2 ^ j, ?_, ?_, ?_⟩
    · rw [hunit, ← mul_assoc]
      exact mul_le_mul_of_nonneg_right hlo he.le
    · rw [hunit, ← mul_assoc]
      exact mul_lt_mul_of_pos_right hhi he
    · rw [if_pos h, hunit, add_sub_cancel_left, Int.toNat_natCast]
      exact roundShift_eq_roundBetween r neg n j he
  · obtain ⟨j, rfl⟩ := Int.exists_add_of_le h.le
    have hx : (0 : Rat) < 2 ^ x := zpow_pos two_pos x
    have hval : (n : Rat) * 2 ^ (x + j) = (n * 2 ^ j : Nat) * 2 ^ x := by
      rw [zpow_add₀ two_ne_zero, zpow_natCast]
      push_cast
      ring
    have hlt : ((n * 2 ^ j : Nat) : Rat) * 2 ^ x < (n * 2 ^ j + 1 : Nat) * 2 ^ x :=
      mul_lt_mul_of_pos_right (by exact_mod_cast Nat.lt_succ_self _) hx
    refine ⟨n * 2 ^ j, hval.ge, hval ▸ hlt, ?_⟩
    rw [if_neg h.not_ge, hval, roundBetween_exact r neg _ hlt, add_sub_cancel_left, Int.toNat_natCast,
      Nat.shiftLeft_eq]

/-- The unit that `roundMag` rounds a magnitude to is that of the binade the magnitude lies in. -/
theorem FFmt.exists_ulp (f : FFmt) {n : Nat} (hn : n ≠ 0) (e : Int) :
    ∃ k : Nat, max (e + (Nat.log2 n : Int) - f.t) (1 - (f.bias : Int) - f.t) = (k : Int) + 1 - f.bias - f.t ∧
      (k = 0 ∨ 2 ^ f.t * f.ulp k ≤ n * (2 : Rat) ^ e) ∧ n * (2 : Rat) ^ e < 2 * 2 ^ f.t * f.ulp k := by
  obtain ⟨k, hk⟩ := Int.exists_add_of_le (le_max_right (e + (Nat.log2 n : Int) - f.t) (1 - (f.bias : Int) - f.t))
  have hlog : (2 : Rat) ^ Nat.log2 n ≤ n := by exact_mod_cast Nat.log2_self_le hn
  have hlog' : (n : Rat) < 2 ^ (Nat.log2 n + 1) := by exact_mod_cast Nat.lt_log2_self
  have he : (0 : Rat) < 2 ^ e := zpow_pos two_pos e
  have hscale (i : Nat) : (2 : Rat) ^ i * 2 ^ e = 2 ^ (i + e) := by rw [zpow_add₀ two_ne_zero, zpow_natCast]
  have hunit : 2 ^ f.t * f.ulp k = (2 : Rat) ^ ((k : Int) + 1 - f.bias) := by rw [f.two_zpow_eq_ulp, mul_comm]
  refine ⟨k, by rw [hk]; ring, ?_, ?_⟩
  · refine k.eq_zero_or_pos.imp_right fun hpos => ?_
    rw [hunit]
    refine le_trans ?_ (mul_le_mul_of_nonneg_right hlog he.le)
    rw [hscale]
    exact zpow_le_zpow_right₀ one_le_two (by omega)
  · rw [mul_assoc, hunit, ← zpow_one_add₀ two_ne_zero]
    refine (mul_lt_mul_of_pos_right hlog' he).trans_le ?_
    rw [hscale]
    exact zpow_le_zpow_right₀ one_le_two (by push_cast; omega)

/-- `roundMag` rounds a magnitude between the code below it and the next one. -/
theorem FFmt.roundMag_eq_roundBetween (f : FFmt) (ht : 1 ≤ f.t) (r : Rnd) (neg : Bool) {m : Nat} (hm : m ≠ 0)
    (e : Int) : ∃ lo, f.magVal lo ≤ m * (2 : Rat) ^ e ∧ m * (2 : Rat) ^ e < f.magVal (lo + 1) ∧
      f.roundMag r neg m e false = roundBetween r neg lo (f.magVal lo) (m * (2 : Rat) ^ e) (f.magVal (lo + 1)) := by
  have hv : (m : Rat) * 2 ^ e = (4 * m : Nat) * 2 ^ (e - 2) := by
    rw [zpow_sub₀ two_ne_zero]
    push_cast
    ring
  rw [hv]
  obtain ⟨k, hex, hlow, hhigh⟩ := f.exists_ulp (n := 4 * m) (by omega) (e - 2)
  obtain ⟨q, hq, hq', hround⟩ := rounded_units r neg (4 * m) (e - 2) ((k : Int) + 1 - f.bias - f.t)
  change _ = roundBetween r neg q (q * f.ulp k) _ ((q + 1 : Nat) * f.ulp k) at hround
  change q * f.ulp k ≤ _ at hq
  change _ < (q + 1 : Nat) * f.ulp k at hq'
  have hbinade : k = 0 ∨ 2 ^ f.t ≤ q := hlow.imp_right fun h =>
    Nat.lt_succ_iff.1 (by exact_mod_cast lt_of_mul_lt_mul_right (h.trans_lt hq') (f.ulp_pos k).le)
  have hlast : q < 2 * 2 ^ f.t := by
    exact_mod_cast lt_of_mul_lt_mul_right (hq.trans_lt hhigh) (f.ulp_pos k).le
  have hlo := f.magVal_binade hbinade hlast.le
  have hnext : f.magVal (k * 2 ^ f.t + q + 1) = (q + 1 : Nat) * f.ulp k :=
    f.magVal_binade (q := q + 1) (hbinade.imp_right (by omega)) hlast
  have heven : k * 2 ^ f.t % 2 = 0 := by
    obtain ⟨j, hj⟩ := Nat.exists_eq_add_of_le ht
    rw [hj, Nat.add_comm, Nat.pow_succ, ← Nat.mul_assoc, Nat.mul_mod_left]
  refine ⟨k * 2 ^ f.t + q, hlo ▸ hq, hnext ▸ hq', ?_⟩
  have hbiased : ((k : Int) + 1 - f.bias - f.t + f.t + f.bias).toNat = k + 1 := by omega
  rw [roundBetween_add_even r neg heven, hlo, hnext, ← hround, ← codeOf_binade, FFmt.roundMag]
  · simp only [Bool.false_eq_true, if_false, Nat.add_zero, hex, hbiased]
  · rw [hround, roundBetween]
    split <;> omega

end Sys2Proof.Machine
end

section
/-!
SUPPORT. Encoding in a float format (R60, R65): a value within its range becomes its sign above the rounded magnitude
code, and a finite code comes back; the statement about the formats.
-/
namespace Sys2Proof.Machine

/-! ### Decoding, field by field (R41) -/

theorem FFmt.fields_of_mod (f : FFmt) (c : Nat) :
    c % 2 ^ f.magBits / 2 ^ f.t = c / 2 ^ f.t % 2 ^ f.w ∧ c % 2 ^ f.magBits % 2 ^ f.t = c % 2 ^ f.t := by
  rw [FFmt.magBits, Nat.add_comm, Nat.pow_add]
  exact ⟨Nat.mod_mul_right_div_self .., Nat.mod_mul_right_mod ..⟩

/-- Which codes a format's top codes leave finite. -/
theorem FFmt.mod_le_maxMag_iff (f : FFmt) (hw : 1 ≤ f.w) (c : Nat) :
    c % 2 ^ f.magBits ≤ f.maxMag ↔ match f.top with
      | .ieee => c / 2 ^ f.t % 2 ^ f.w ≠ 2 ^ f.w - 1
      | .nanOnly => ¬ (c / 2 ^ f.t % 2 ^ f.w = 2 ^ f.w - 1 ∧ c % 2 ^ f.t = 2 ^ f.t - 1)
      | .none => True := by
  obtain ⟨hdiv, hmod⟩ := f.fields_of_mod c
  have hcode := Nat.div_add_mod' (c % 2 ^ f.magBits) (2 ^ f.t)
  rw [hdiv, hmod] at hcode
  have hfr := Nat.mod_lt c (Nat.two_pow_pos f.t)
  have he := Nat.mod_lt (c / 2 ^ f.t) (Nat.two_pow_pos f.w)
  have hbits : 2 ^ f.magBits = 2 ^ f.w * 2 ^ f.t := Nat.pow_add ..
  unfold FFmt.maxMag
  rw [← hcode, hbits]
  generalize c / 2 ^ f.t % 2 ^ f.w = e at he
  generalize c % 2 ^ f.t = fr at hfr
  have hE : 2 ≤ 2 ^ f.w := Nat.pow_le_pow_right two_pos hw
  generalize 2 ^ f.w = E at he hE
  generalize 2 ^ f.t = T at hfr
  obtain ⟨n, rfl⟩ : ∃ n, E = n + 1 := ⟨E - 1, by omega⟩
  have hnT : 0 < n * T := Nat.mul_pos (by omega) (by omega)
  rw [Nat.add_sub_cancel, Nat.succ_mul]
  have hcases : e * T + T ≤ n * T ∧ e < n ∨ e * T = n * T ∧ e = n := by
    rcases Nat.lt_succ_iff_lt_or_eq.1 he with hlt | rfl
    · exact .inl ⟨Nat.succ_mul e T ▸ Nat.mul_le_mul_right _ hlt, hlt⟩
    · exact .inr ⟨rfl, rfl⟩
  cases f.top with
  | ieee => dsimp only; omega
  | nanOnly => dsimp only; omega
  | none => simp only [iff_true]; omega

/-- What the top codes of a format stand for. -/
theorem FFmt.decode_not_finite (f : FFmt) {c : Nat} (h : ¬ c % 2 ^ f.magBits ≤ f.maxMag) :
    f.decode c = if f.top = .ieee ∧ c % 2 ^ f.t = 0 then .inf (f.signed && c.testBit (f.w + f.t)) else .nan := by
  rw [FFmt.decode, if_pos (not_le.1 h), (f.fields_of_mod c).2]
  simp [FFmt.magBits]

/-! ### Encoding -/

theorem isRounding_zero {g : Nat → Rat} (h0 : g 0 = 0) (hg : ∀ d, 0 ≤ g d) (r : Rnd) (neg : Bool) :
    IsRounding g r neg 0 0 := by
  cases r <;> cases neg <;> simp [IsRounding, h0, hg]

/-- A value within the format's range is encoded as its sign above the rounding of its magnitude, which is the
magnitude's own code where it has one. -/
theorem FFmt.exists_encode (f : FFmt) (ht : 1 ≤ f.t) (r : Rnd) (sat neg : Bool) (m : Nat) (e : Int)
    (h : m * (2 : Rat) ^ e ≤ f.magVal f.maxMag) :
    ∃ k ≤ f.maxMag, f.encode r sat (.fin neg m e) = (f.signOf neg + k, flagIf (m != 0 && k == 0) fUfl) ∧
      IsRounding f.magVal r neg (m * (2 : Rat) ^ e) k ∧ ∀ c, m * (2 : Rat) ^ e = f.magVal c → k = c := by
  have hmono := f.magVal_strictMono
  rcases eq_or_ne m 0 with rfl | hm
  · refine ⟨0, Nat.zero_le _, by simp [FFmt.encode, FFmt.encodeS, flagIf], ?_, fun c hc => ?_⟩
    · rw [Nat.cast_zero, zero_mul]
      exact isRounding_zero f.magVal_zero f.magVal_nonneg r neg
    · rw [Nat.cast_zero, zero_mul, ← f.magVal_zero] at hc
      exact hmono.injective hc
  · obtain ⟨lo, hlo, hhi, hround⟩ := f.roundMag_eq_roundBetween ht r neg hm e
    have hle := roundBetween_le_of_le hmono hlo hhi r neg h
    rw [← hround] at hle
    refine ⟨_, hle, ?_, hround ▸ isRounding_roundBetween hmono hlo hhi r neg, fun c hc => ?_⟩
    · have hm' : (m == 0) = false := by simpa using hm
      simp [FFmt.encode, FFmt.encodeS, hm', hle.not_gt, bne]
    · rw [hc, hmono.le_iff_le] at hlo
      rw [hc, hmono.lt_iff_lt] at hhi
      obtain rfl : c = lo := by omega
      rw [hround, hc, roundBetween_exact r neg c (hmono c.lt_succ_self)]

theorem FFmt.encode_decode (f : FFmt) (ht : 1 ≤ f.t) (r : Rnd) (sat : Bool) {c : Nat} (h : f.finite c) :
    f.encode r sat (f.decode c) = (c, 0) := by
  obtain ⟨hc, hfin⟩ := h
  obtain ⟨m, e, hd, hv⟩ := f.decode_finite hfin
  obtain ⟨k, -, henc, -, hexact⟩ := f.exists_encode ht r sat (f.signed && c.testBit f.magBits) m e
    (hv.trans_le (f.magVal_strictMono.monotone hfin))
  have hflag : (m != 0 && k == 0) = false := by
    refine Bool.and_eq_false_imp.2 fun hm => beq_eq_false_iff_ne.2 fun hk => ?_
    have hpos : 0 < (m : Rat) * 2 ^ e :=
      mul_pos (Nat.cast_pos.2 (Nat.pos_of_ne_zero (bne_iff_ne.1 hm))) (zpow_pos two_pos e)
    rw [hv, ← hexact _ hv, hk, f.magVal_zero] at hpos
    exact hpos.false
  rw [hd, henc, hflag, hexact _ hv, f.signOf_add_mod hc]
  rfl

/-! ### Both signs -/

section
variable {g : Nat → Rat} (h0 : g 0 = 0) (hg : ∀ d, 0 ≤ g d) {V : Rat} (hV : 0 ≤ V) {k : Nat}
include h0 hg hV

/-- A magnitude's nearest code is, with the sign, nearest among the codes of either sign. -/
theorem nearest_signed {neg : Bool} (h : IsRounding g .rne neg V k) (neg' : Bool) (d : Nat) :
    let v := signRat neg V
    let x := signRat neg (g k)
    let y := signRat neg' (g d)
    |x - v| ≤ |y - v| ∧ (|x - v| = |y - v| → x ≠ y → k % 2 = 0) := by
  intro v x y
  have hsame (i : Nat) : |signRat neg (g i) - v| = |g i - V| := by rw [← signRat_sub, abs_signRat]
  have hx : |x - v| = |g k - V| := hsame k
  rcases eq_or_ne neg' neg with rfl | hne
  · have hy : |y - v| = |g d - V| := hsame d
    rw [hx, hy]
    exact ⟨(h d).1, fun he hxy => (h d).2 he fun hgd => hxy (congrArg (signRat neg') hgd)⟩
  · obtain rfl : neg' = !neg := Bool.eq_not.2 hne
    have hd := hg d
    have hy : |y - v| = g d + V := by
      have hsum : y - v = signRat (!neg) (g d + V) := by simp only [y, v, signRat_not]; unfold signRat; ring
      rw [hsum, abs_signRat, abs_of_nonneg (add_nonneg hd hV)]
    obtain ⟨hle, heven⟩ := h 0
    rw [h0, zero_sub, abs_neg, abs_of_nonneg hV] at hle heven
    rw [hx, hy]
    refine ⟨by linarith, fun he hxy => heven (by linarith) fun hk => hxy ?_⟩
    have hgd : g d = 0 := by linarith
    simp [x, y, hk, hgd, signRat]

/-- The greatest signed code not above a signed value is below a positive magnitude and above a negative one's. -/
theorem greatest_signed {neg : Bool} (h : IsRounding g .rdn neg V k) (neg' : Bool) (d : Nat) :
    let v := signRat neg V
    let x := signRat neg (g k)
    let y := signRat neg' (g d)
    x ≤ v ∧ (y ≤ v → y ≤ x) := by
  intro v x y
  have hd := hg d
  have hk := hg k
  cases neg with
  | false =>
    obtain ⟨hle, hmax⟩ : g k ≤ V ∧ ∀ d, g d ≤ V → g d ≤ g k := h
    cases neg' with
    | false => simpa [v, x, y] using ⟨hle, hmax d⟩
    | true => exact ⟨by simpa [v, x] using hle, fun _ => by simp only [x, y, signRat_false, signRat_true]; linarith⟩
  | true =>
    obtain ⟨hle, hmin⟩ : V ≤ g k ∧ ∀ d, V ≤ g d → g k ≤ g d := h
    cases neg' with
    | false =>
      simp only [v, x, y, signRat_false, signRat_true]
      refine ⟨by linarith, fun hy => ?_⟩
      have hzero : g k ≤ g 0 := hmin 0 (by linarith)
      linarith
    | true => simpa [v, x, y] using ⟨hle, hmin d⟩

/-- The least signed code not below a signed value: the greatest not above, with every sign turned. -/
theorem least_signed {neg : Bool} (h : IsRounding g .rup neg V k) (neg' : Bool) (d : Nat) :
    let v := signRat neg V
    let x := signRat neg (g k)
    let y := signRat neg' (g d)
    v ≤ x ∧ (v ≤ y → x ≤ y) := by
  have hdown : IsRounding g .rdn (!neg) V k := by cases neg <;> exact h
  have hturned := greatest_signed h0 hg hV hdown (!neg') d
  simp only [signRat_not, neg_le_neg_iff] at hturned
  exact hturned

/-- What each mode asks for among the codes of either sign (R60). -/
theorem IsRounding.signed {r : Rnd} {neg : Bool} (h : IsRounding g r neg V k) (neg' : Bool) (d : Nat) :
    let v := signRat neg V
    let x := signRat neg (g k)
    let y := signRat neg' (g d)
    (r = .rne → |x - v| ≤ |y - v| ∧ (|x - v| = |y - v| → x ≠ y → k % 2 = 0)) ∧
      (r = .rtz → |x| ≤ |v| ∧ (|y| ≤ |v| → |y| ≤ |x|)) ∧
      (r = .rdn → x ≤ v ∧ (y ≤ v → y ≤ x)) ∧ (r = .rup → v ≤ x ∧ (v ≤ y → x ≤ y)) := by
  refine ⟨?_, ?_, ?_, ?_⟩ <;> rintro rfl
  · exact nearest_signed h0 hg hV h neg' d
  · rw [abs_signRat, abs_signRat, abs_signRat, abs_of_nonneg hV, abs_of_nonneg (hg k), abs_of_nonneg (hg d)]
    exact ⟨h.1, h.2 d⟩
  · exact greatest_signed h0 hg hV h neg' d
  · exact least_signed h0 hg hV h neg' d

end

/-- A value within the format's range is encoded to a finite code, which stands for a rounding of the magnitude with the
sign and is even when that rounding is. -/
theorem FFmt.encode_isRounding (f : FFmt) (ht : 1 ≤ f.t) (r : Rnd) (sat : Bool) {neg : Bool}
    (hsign : f.signed = true ∨ neg = false) (m : Nat) (e : Int)
    (h : |(FV.fin neg m e).rat| ≤ (f.decode f.maxMag).rat) :
    let c := (f.encode r sat (.fin neg m e)).1
    f.finite c ∧ ∃ k, (f.decode c).rat = signRat neg (f.magVal k) ∧ c % 2 = k % 2 ∧
      IsRounding f.magVal r neg (m * (2 : Rat) ^ e) k := by
  have hmax : (f.decode f.maxMag).rat = f.magVal f.maxMag := by
    rw [f.rat_decode (Nat.mod_le _ _), Nat.mod_eq_of_lt f.maxMag_lt, Nat.testBit_lt_two_pow f.maxMag_lt,
      Bool.and_false, signRat_false]
  rw [FV.rat_fin, abs_signRat, abs_of_nonneg (by positivity), hmax] at h
  obtain ⟨k, hk, henc, hround, -⟩ := f.exists_encode ht r sat neg m e h
  have hlt := hk.trans_lt f.maxMag_lt
  obtain ⟨hbit, hmod⟩ := f.signOf_add_fields hsign hlt
  have heven : f.signOf neg % 2 = 0 := by
    obtain ⟨j, hj⟩ := Nat.exists_eq_add_of_le (ht.trans (Nat.le_add_left f.t f.w))
    unfold FFmt.signOf
    rw [FFmt.magBits, hj, Nat.add_comm, Nat.pow_succ]
    split <;> omega
  intro c
  have hc : c = f.signOf neg + k := congrArg Prod.fst henc
  rw [hc]
  refine ⟨⟨f.signOf_lt neg hlt, hmod.trans_le hk⟩, k, ?_, by omega, hround⟩
  rw [f.rat_decode (hmod.trans_le hk), hbit, hmod]

theorem floatFormats_fields : ∀ f ∈ floatFormats, 1 ≤ f.w ∧ 1 ≤ f.t := by decide

/-- Settles O55: codes are read field by field; a rounding among all magnitude codes is one among the finite codes of
either sign. -/
theorem formatsDecodeAndRoundAsGiven : Obligations.FormatsDecodeAndRoundAsGiven := by
  unfold Obligations.FormatsDecodeAndRoundAsGiven
  refine ⟨rfl, by decide +kernel, fun f hf => ?_⟩
  obtain ⟨hw, ht⟩ := floatFormats_fields f hf
  refine ⟨fun c hc => ⟨?_, fun hfin => ?_, fun hfin => ?_⟩, fun r c => f.encode_decode ht r _, ?_⟩
  · exact (and_iff_right hc).trans (f.mod_le_maxMag_iff hw c)
  · obtain ⟨hdiv, hmod⟩ := f.fields_of_mod c
    have hval := f.rat_decode hfin.2
    rwa [signRat, FFmt.magVal, hdiv, hmod] at hval
  · exact f.decode_not_finite fun hle => hfin ⟨hc, hle⟩
  · intro r neg m e hsign v hv c
    obtain ⟨hc, k, hval, hpar, hround⟩ := f.encode_isRounding ht r _ hsign m e hv
    refine ⟨hc, fun d hd => ?_⟩
    have hsigned := hround.signed f.magVal_zero f.magVal_nonneg (by positivity)
      (f.signed && d.testBit f.magBits) (d % 2 ^ f.magBits)
    rw [← hpar] at hsigned
    simp only [← hval, ← f.rat_decode hd.2, ← FV.rat_fin] at hsigned
    exact hsigned

end Sys2Proof.Machine
end

section
/-!
SUPPORT. A ZERO pass without observation, row by row (R69, R76, R77): what one stream row does to the state, what all of
them do, and the completion of the pass.
-/
namespace Sys2Proof.Machine

/-! ### One row -/

/-- The entries that a ZERO pass puts into the accumulator row of stream row `i`: the chunk sums added to +0. -/
def State.zeroEntries (s : State) (t : TileId) (p : PassOp) (i : Nat) : List Nat :=
  (p.weights.zip p.wscales).map fun w =>
    (addChunks p.d.accFmt 0 (chunkSums p.d (s.streamRow t p.d i) (weightVals p.d.wfmt w.1 w.2))).1

/-- The tag of the rows a pass writes. -/
def PassDesc.tag (d : PassDesc) : RowTag := if d.a96 then .a96 else .a48

/-- An accumulator row after a committed write of its leading columns. -/
def AccRow.overwrite (r : AccRow) (tag : RowTag) (cols : List (BitVec 48)) : AccRow :=
  { r with
    tag := tag
    ents := cols ++ r.ents.drop cols.length
    halves := if tag = .a96 then r.halves ||| BitVec.ofNat 256 (2 ^ cols.length - 1)
      else r.halves &&& ~~~ BitVec.ofNat 256 (2 ^ cols.length - 1) }

/-- The accumulator once the first `k` rows of a ZERO pass have entered. -/
def State.zeroAcc (s : State) (t : TileId) (p : PassOp) (k : Nat) : List AccRow :=
  (s.tile t).acc.mapIdx fun r x =>
    if p.d.accRow ≤ r ∧ r < p.d.accRow + k then
      x.overwrite p.d.tag (columnsOf p.d.a96 (s.zeroEntries t p (r - p.d.accRow)))
    else x

/-- Tile `t` with accumulator `acc` and the one matrix operation `p`. -/
def State.passing (s : State) (t : TileId) (acc : List AccRow) (p : PassOp) : State :=
  s.setTile t { s.tile t with acc := acc, matQ := [.pass p] }

@[simp] theorem State.passing_tile (s : State) (t : TileId) (acc : List AccRow) (p : PassOp) :
    (s.passing t acc p).tile t = { s.tile t with acc := acc, matQ := [.pass p] } := by
  simp [State.passing]

theorem State.putRow_passing (s : State) (t : TileId) (acc : List AccRow) (p : PassOp) (r : Nat) (tag : RowTag)
    (cols : List (BitVec 48)) :
    (s.passing t acc p).putRow t r none tag cols = s.passing t (acc.modify r fun a => a.overwrite tag cols) p := by
  simp [State.putRow, State.modRow, State.passing, State.modTile, AccRow.overwrite, AccRow.save]

theorem State.setPass_passing (s : State) (t : TileId) (acc : List AccRow) {p q : PassOp} (h : q.hdr = p.hdr) :
    (s.passing t acc p).setPass t q = s.passing t acc q := by
  simp [State.passing, State.setPass, State.modTile, h]

theorem map_zip_fst {α β γ : Type} (f : α → γ) {l : List α} {k : List β} (h : l.length ≤ k.length) :
    ((l.zip k).map fun c => f c.1) = l.map f := by
  rw [← Function.comp_def, ← List.map_map, List.map_fst_zip h]

/-- One stream row of a ZERO pass with no tag that no slot samples: its entries are put into its row, and the pass goes
on to the next. -/
theorem State.passRow_zero (s : State) (t : TileId) (acc : List AccRow) {p : PassOp} (hacc : p.d.acc = 0)
    (hrime : p.d.rime = false) (htag : p.hdr.tag = none) :
    ∃ flags out, (s.passing t acc p).passRow t p =
      s.passing t
        (acc.modify (p.d.rowOf p.row) fun a => a.overwrite p.d.tag (columnsOf p.d.a96 (s.zeroEntries t p p.row)))
        { p with row := p.row + 1, flags := flags, out := out } := by
  have hrow : (s.passing t acc p).streamRow t p.d p.row = s.streamRow t p.d p.row := rfl
  have hzero : (0 == 1) = false := rfl
  have hentries (l : List (List (Nat × Flags))) :
      ((l.zip (List.range l.length)).map fun c => addChunks p.d.accFmt 0 c.1) = l.map (addChunks p.d.accFmt 0) :=
    map_zip_fst _ (by simp)
  unfold State.passRow State.rimeObserve
  simp only [hacc, hrow, hrime, hzero, htag, Bool.false_and, Bool.false_eq_true, if_false, State.putRow_passing,
    hentries, List.map_map]
  exact ⟨_, _, State.setPass_passing s t _ rfl⟩

/-! ### Commit and departure -/

/-- A committed matrix pass sets its flags, and is carried into the tile's digest. -/
theorem State.emit_mat_none (s : State) (t : TileId) (b : List Byte) (flags : Flags) :
    s.emit t none (.op .mat b flags 0) = s.modTile t fun x =>
      { x with
        fpstat := x.fpstat ||| flags
        digests := if s.gtc.lsEn then x.digests.set TileUnit.mat.ix (x.digests[TileUnit.mat.ix].put none b)
          else x.digests } := by
  simp only [State.emit, State.commitEv, State.digestOp_eq, State.modTile_modTile]
  rfl

/-- A delivered pass with no tag that is alone in the matrix queue is counted and leaves (R106). -/
theorem Tile.settle_pass {x : Tile} {p : PassOp} (hq : x.matQ = [.pass p]) (ha : p.arrived = true)
    (ht : p.hdr.tag = none) :
    x.settle = { x with
      matQ := []
      mmrows := x.mmrows + BitVec.ofNat 64 p.d.m
      mmstall := x.mmstall + p.stall
      vec := { x.vec with queue := x.vec.queue.filter fun o => !(o.done && o.hdr.tag.isNone) } } := by
  simp [Tile.settle, hq, ha, ht]

theorem State.rimeGo_of_queue_nil {s : State} {t : TileId} (h : (s.tile t).rime.queue = []) : s.rimeGo t = s := by
  rw [State.rimeGo, h]
  rfl

/-! ### All rows -/

theorem State.zeroAcc_zero (s : State) (t : TileId) (p : PassOp) : s.zeroAcc t p 0 = (s.tile t).acc := by
  refine List.ext_getElem? fun r => ?_
  have hnone : ¬ (p.d.accRow ≤ r ∧ r < p.d.accRow + 0) := by omega
  rw [State.zeroAcc, List.getElem?_mapIdx]
  simp only [hnone, if_false, Option.map_id']

theorem State.zeroAcc_succ (s : State) (t : TileId) (p : PassOp) (k : Nat) :
    s.zeroAcc t p (k + 1) = (s.zeroAcc t p k).modify (p.d.accRow + k) fun a =>
      a.overwrite p.d.tag (columnsOf p.d.a96 (s.zeroEntries t p k)) := by
  refine List.ext_getElem? fun r => ?_
  rw [List.getElem?_modify, State.zeroAcc, State.zeroAcc, List.getElem?_mapIdx, List.getElem?_mapIdx, Option.map_eq_map,
    Option.map_map]
  congr 1
  funext x
  rcases eq_or_ne (p.d.accRow + k) r with rfl | hne
  · simp
  · have hiff : (p.d.accRow ≤ r ∧ r < p.d.accRow + (k + 1)) ↔
        (p.d.accRow ≤ r ∧ r < p.d.accRow + k) := by omega
    simp [hne, hiff]

/-- The one pass of the queue has no bound epilogue, so every row may enter (R92). -/
theorem State.streamTo_succ (s : State) (t : TileId) (acc : List AccRow) (p : PassOp) (n : Nat)
    (hs : p.started = true) (h : p.row < p.d.m) :
    State.streamTo t p.hdr.id p.d.m (n + 1) (s.passing t acc p) =
      State.streamTo t p.hdr.id p.d.m n ((s.passing t acc p).passRow t p) := by
  simp [State.streamTo, Tile.passOf, Tile.rowLimit, Tile.boundEpi, hs, h]

section
variable {s : State} {t : TileId} {p : PassOp} (hacc : p.d.acc = 0) (hrime : p.d.rime = false) (htag : p.hdr.tag = none)
  (hstarted : p.started = true) (hrows : p.d.accRow + p.d.m ≤ 2048)
include hacc hrime htag hstarted hrows

/-- The remaining rows of a ZERO pass enter, one after another. -/
theorem State.streamTo_zero (n k : Nat) (flags : Flags) (out : List Byte) (h : k + n = p.d.m) :
    ∃ flags' out', State.streamTo t p.hdr.id p.d.m n
        (s.passing t (s.zeroAcc t p k) { p with row := k, flags := flags, out := out }) =
      s.passing t (s.zeroAcc t p p.d.m) { p with row := p.d.m, flags := flags', out := out' } := by
  induction n generalizing k flags out with
  | zero => exact ⟨flags, out, by rw [← h]; rfl⟩
  | succ n ih =>
    obtain ⟨flags₁, out₁, hrow⟩ := s.passRow_zero t (s.zeroAcc t p k)
      (p := { p with row := k, flags := flags, out := out }) hacc hrime htag
    obtain ⟨flags₂, out₂, hrest⟩ := ih (k + 1) flags₁ out₁ (by omega)
    refine ⟨flags₂, out₂, ?_⟩
    have hix : p.d.rowOf k = p.d.accRow + k := Nat.mod_eq_of_lt (by omega)
    have hmore : k < p.d.m := by omega
    refine (s.streamTo_succ t _ { p with row := k, flags := flags, out := out } n hstarted hmore).trans ?_
    rw [hrow, ← hrest, s.zeroAcc_succ, ← hix]
    rfl

/-! ### Completion -/

/-- The whole effect of PASS_COMPLETE on a ZERO pass that is alone in the matrix queue. -/
theorem execPassComplete_zero (stall : Word) (hq : (s.tile t).matQ = [.pass p]) (harrived : p.arrived = false)
    (hrow : p.row = 0) (hrimeQ : (s.tile t).rime.queue = []) :
    ∃ fpstat digests queue, execPassComplete t stall s = .next (s.setTile t { s.tile t with
      acc := s.zeroAcc t p p.d.m
      matQ := []
      mmrows := (s.tile t).mmrows + BitVec.ofNat 64 p.d.m
      mmstall := (s.tile t).mmstall + stall
      fpstat := fpstat
      digests := digests
      vec := { (s.tile t).vec with queue := queue } }) := by
  have hstart : s = s.passing t (s.zeroAcc t p 0) { p with row := 0, flags := p.flags, out := p.out } := by
    rw [s.zeroAcc_zero, State.passing, ← hrow, ← hq, State.setTile_tile]
  obtain ⟨flags, out, hstream⟩ := State.streamTo_zero (s := s) (t := t) hacc hrime htag hstarted hrows p.d.m 0
    p.flags p.out (Nat.zero_add _)
  have hall : s.streamAll t p.hdr.id =
      s.passing t (s.zeroAcc t p p.d.m) { p with row := p.d.m, flags := flags, out := out } := by
    rw [← hstream, ← hstart]
    simp [State.streamAll, Tile.passOf, hq, hrow]
  unfold execPassComplete
  simp only [hq, List.findSome?_cons, hstarted, harrived, Bool.not_false, Bool.and_true, if_true]
  simp only [hall, State.passing_tile, Tile.passOf, List.findSome?_cons, if_true, Nat.lt_irrefl, if_false, htag,
    State.setPass_passing, State.emit_mat_none]
  rw [State.rimeGo_of_queue_nil]
  · rw [State.modTile_modTile, State.modTile, State.passing_tile,
      Tile.settle_pass (p := { p with row := p.d.m, stall := stall, arrived := true, flags := flags, out := out })
        rfl rfl htag, State.passing, State.setTile_setTile]
    exact ⟨_, _, _, rfl⟩
  · simpa [Tile.settle] using hrimeQ

end

/-! ### What the rows hold -/

/-- The columns of the entries: as many as the entries take, each entry in its own (R54). -/
theorem columnsOf_length (a96 : Bool) (vals : List Nat) :
    (columnsOf a96 vals).length = if a96 then 2 * vals.length else vals.length := by
  cases a96 <;> simp [columnsOf, Nat.mul_comm]

theorem columnsOf_true_getElem? (vals : List Nat) (j : Nat) :
    (columnsOf true vals)[2 * j]? = vals[j]?.map (BitVec.ofNat 48) ∧
      (columnsOf true vals)[2 * j + 1]? = vals[j]?.map fun v => BitVec.ofNat 48 (v / 2 ^ 48) := by
  induction vals generalizing j with
  | nil => simp [columnsOf]
  | cons v vals ih =>
    cases j with
    | zero => simp [columnsOf]
    | succ j => simpa [columnsOf, Nat.mul_add] using ih j

theorem AccRow.overwrite_ents_lead (r : AccRow) (tag : RowTag) {cols : List (BitVec 48)} {c : Nat}
    (h : c < cols.length) :
    (r.overwrite tag cols).ents[c]? = cols[c]? := List.getElem?_append_left h

theorem AccRow.overwrite_ents_rest (r : AccRow) (tag : RowTag) {cols : List (BitVec 48)} {c : Nat}
    (h : cols.length ≤ c) :
    (r.overwrite tag cols).ents[c]? = r.ents[c]? := by
  rw [AccRow.overwrite, List.getElem?_append_right h, List.getElem?_drop, Nat.add_sub_cancel' h]

/-- An entry that has been put reads as its low 96 or 48 bits. -/
theorem AccRow.entry_overwrite (r : AccRow) (tag : RowTag) (a96 : Bool) {vals : List Nat} {j : Nat}
    (h : j < vals.length) :
    (r.overwrite tag (columnsOf a96 vals)).entry a96 j = vals[j] % 2 ^ (if a96 then 96 else 48) := by
  have hlen := columnsOf_length a96 vals
  unfold AccRow.entry
  cases a96 with
  | false =>
    have hcol : (columnsOf false vals)[j]? = some (BitVec.ofNat 48 vals[j]) := by simp [columnsOf, h]
    rw [if_neg Bool.false_ne_true] at hlen ⊢
    rw [List.getD_eq_getElem?_getD, r.overwrite_ents_lead tag (by omega), hcol]
    simp
  | true =>
    obtain ⟨hlow, hhigh⟩ := columnsOf_true_getElem? vals j
    rw [if_pos rfl] at hlen ⊢
    rw [List.getD_eq_getElem?_getD, List.getD_eq_getElem?_getD, r.overwrite_ents_lead tag (by omega),
      r.overwrite_ents_lead tag (by omega), hlow, hhigh, List.getElem?_eq_getElem h]
    simp only [Option.map_some, Option.getD_some, BitVec.toNat_ofNat, if_true]
    rw [show 2 ^ 96 = 2 ^ 48 * 2 ^ 48 from rfl, Nat.mod_mul, Nat.mul_comm (_ % _)]

theorem State.zeroEntries_length (s : State) (t : TileId) (p : PassOp) (i : Nat) (h : p.weights.length = p.d.nx)
    (h' : p.wscales.length = p.d.nx) : (s.zeroEntries t p i).length = p.d.nx := by
  simp [State.zeroEntries, h, h']

theorem State.zeroEntries_getElem (s : State) (t : TileId) (p : PassOp) (i : Nat) {j : Nat}
    (h : j < (s.zeroEntries t p i).length) :
    (s.zeroEntries t p i)[j] = (addChunks p.d.accFmt 0 (chunkSums p.d (s.streamRow t p.d i)
      (weightVals p.d.wfmt (p.weights.getD j []) (p.wscales.getD j [])))).1 := by
  have hj : j < p.weights.length ∧ j < p.wscales.length := by simpa [State.zeroEntries] using h
  simp [State.zeroEntries, hj]

theorem State.zeroAcc_written (s : State) (t : TileId) (p : PassOp) {k i : Nat} (h : i < k)
    (hlen : p.d.accRow + i < (s.tile t).acc.length) :
    (s.zeroAcc t p k)[p.d.accRow + i]? = some (((s.tile t).accRow (p.d.accRow + i)).overwrite p.d.tag
      (columnsOf p.d.a96 (s.zeroEntries t p i))) := by
  simp [State.zeroAcc, Tile.accRow, hlen, h]

theorem State.zeroAcc_kept (s : State) (t : TileId) (p : PassOp) {k r : Nat}
    (h : r < p.d.accRow ∨ p.d.accRow + k ≤ r) : (s.zeroAcc t p k)[r]? = (s.tile t).acc[r]? := by
  have hout : ¬ (p.d.accRow ≤ r ∧ r < p.d.accRow + k) := by omega
  simp [State.zeroAcc, hout]

/-- Settles O9, from the whole effect of PASS_COMPLETE and what the rows it writes hold. -/
theorem zeroPassWritesItsProduct : Obligations.ZeroPassWritesItsProduct := by
  unfold Obligations.ZeroPassWritesItsProduct
  intro s t stall p x d hq hstarted harrived hrow htag hrime hacc hm hrows hw hws hlen hents hrimeQ hnx
  obtain ⟨fpstat, digests, queue, hexec⟩ :=
    execPassComplete_zero hacc hrime htag hstarted hrows stall hq harrived hrow hrimeQ
  refine ⟨_, hexec, ?_⟩
  simp only [State.tile_setTile]
  have hif {α : Type} (a b : α) : (if d.sfmt = 0 then a else b) = if d.a96 then a else b :=
    if_congr beq_iff_eq.symm rfl rfl
  have hin (i : Nat) (hi : i < d.m) : p.d.accRow + i < (s.tile t).acc.length :=
    ((Nat.add_lt_add_left hi _).trans_le hrows).trans_eq hlen.symm
  have hn (i : Nat) : (s.zeroEntries t p i).length = d.nx := s.zeroEntries_length t p i hw hws
  simp only [hif]
  refine ⟨trivial, fun i hi => ⟨_, s.zeroAcc_written t p hi (hin i hi), rfl, fun j hj => ?_, fun c hc _ => ?_⟩,
    fun r hr => s.zeroAcc_kept t p hr, rfl, rfl, rfl, rfl, rfl, rfl, rfl, fun t' ht => s.tile_setTile_ne _ ht⟩
  · have hj' := (hn i).symm ▸ hj
    exact (AccRow.entry_overwrite _ _ d.a96 hj').trans (congrArg (· % _) (s.zeroEntries_getElem t p i hj'))
  · refine AccRow.overwrite_ents_rest _ _ (le_of_eq_of_le ?_ hc)
    rw [columnsOf_length, hn]

end Sys2Proof.Machine
end

section
/-!
SUPPORT. Bit fields of a descriptor (R75, R114): what its bytes spell, read as fields of the one number they all spell.
-/
namespace Sys2Proof.Machine

/-! ### A field of a field -/

theorem fieldAt_mod (n lo : Nat) {len k : Nat} (h : k ≤ len) : fieldAt n lo len % 2 ^ k = fieldAt n lo k :=
  Nat.mod_mod_of_dvd _ (Nat.pow_dvd_pow 2 h)

theorem fieldAt_div (n lo k rest : Nat) : fieldAt n lo (k + rest) / 2 ^ k = fieldAt n (lo + k) rest := by
  rw [fieldAt, fieldAt, Nat.pow_add 2 k, Nat.mod_mul_right_div_self, Nat.div_div_eq_div_mul, ← Nat.pow_add]

theorem testBit_fieldAt (n lo : Nat) {len i : Nat} (h : i < len) :
    (fieldAt n lo len).testBit i = n.testBit (lo + i) := by
  simp [fieldAt, Nat.testBit_mod_two_pow, Nat.testBit_div_two_pow, h, Nat.add_comm]

/-! ### Bytes as fields of the number they spell -/

theorem leNat_drop (l : List Byte) (k : Nat) : leNat (l.drop k) = leNat l / 2 ^ (8 * k) := by
  induction k generalizing l with
  | zero => simp
  | succ k ih =>
    cases l with
    | nil => simp [leNat]
    | cons b l =>
      have hb : (b.toNat + 256 * leNat l) / 2 ^ 8 = leNat l := by omega
      rw [List.drop_succ_cons, ih, leNat, Nat.mul_succ, Nat.add_comm (8 * k), Nat.pow_add, ← Nat.div_div_eq_div_mul, hb]

theorem leNat_take (l : List Byte) (k : Nat) : leNat (l.take k) = leNat l % 2 ^ (8 * k) := by
  induction k generalizing l with
  | zero => simp [leNat, Nat.mod_one]
  | succ k ih =>
    cases l with
    | nil => simp [leNat]
    | cons b l =>
      have hlow : (b.toNat + 256 * leNat l) % 2 ^ 8 = b.toNat := by omega
      have hhigh : (b.toNat + 256 * leNat l) / 2 ^ 8 = leNat l := by omega
      rw [List.take_succ_cons, leNat, leNat, ih, Nat.mul_succ, Nat.add_comm (8 * k), Nat.pow_add, Nat.mod_mul, hlow, hhigh]

/-- Bytes of a list spell a field of the number that the whole list spells. -/
theorem leAt_eq_fieldAt (l : List Byte) (off k : Nat) : leAt l off k = fieldAt (leNat l) (8 * off) (8 * k) := by
  rw [leAt, leNat_take, leNat_drop, fieldAt]

/-! ### Descriptors -/

/-- The fields of a pass descriptor as bit fields of its 32 bytes (R75). -/
theorem PassDesc.ofBytes_eq (b : List Byte) :
    let n := leNat b
    PassDesc.ofBytes b = ⟨fieldAt n 0 4, fieldAt n 4 4, fieldAt n 8 2, n.testBit 10, fieldAt n 16 16 + 1, fieldAt n 32 16,
      fieldAt n 48 16, fieldAt n 64 32, fieldAt n 96 32, fieldAt n 128 32, fieldAt n 160 32,
      fieldAt n 192 16, fieldAt n 11 5 != 0 || fieldAt n 208 48 != 0⟩ := by
  intro n
  have hsfmt : fieldAt n 0 8 % 16 = fieldAt n 0 4 := fieldAt_mod n 0 (k := 4) (by omega)
  have hwfmt : fieldAt n 0 8 / 16 = fieldAt n 4 4 := fieldAt_div n 0 4 4
  have hacc : fieldAt n 8 8 % 4 = fieldAt n 8 2 := fieldAt_mod n 8 (k := 2) (by omega)
  have hrime : (fieldAt n 8 8).testBit 2 = n.testBit 10 := testBit_fieldAt n 8 (by omega)
  have hresv : fieldAt n 8 8 / 8 = fieldAt n 11 5 := fieldAt_div n 8 3 5
  simp [PassDesc.ofBytes, leAt_eq_fieldAt, n, ← hsfmt, ← hwfmt, ← hacc, ← hrime, ← hresv]

/-- The fields of an epilogue descriptor as bit fields of its 64 bytes (R114). -/
theorem EpiDesc.ofBytes_eq (b : List Byte) :
    let n := leNat b
    EpiDesc.ofBytes b =
      { src := fieldAt n 0 4, dst := fieldAt n 4 4, rm := fieldAt n 8 2, sat := n.testBit 10
        clear := n.testBit 11, dest := fieldAt n 12 2, bind := n.testBit 14, op := fieldAt n 16 2
        shape := fieldAt n 18 2, tfmt := fieldAt n 20 4, nr := fieldAt n 32 16 + 1
        ncols := fieldAt n 48 16, accRow := fieldAt n 64 16, ssig := fieldAt n 96 32
        wsig := fieldAt n 128 32, tsig := fieldAt n 160 32, dsig := fieldAt n 192 32
        daddr := fieldAt n 256 32, dstride := fieldAt n 288 32, dscale := fieldAt n 320 32
        taddr := fieldAt n 352 32, tstride := fieldAt n 384 32, tscale := fieldAt n 416 32
        resv := n.testBit 15 || fieldAt n 24 8 != 0 || fieldAt n 80 16 != 0 || fieldAt n 224 32 != 0 ||
          fieldAt n 448 64 != 0 } := by
  intro n
  have hsrc : fieldAt n 0 8 % 16 = fieldAt n 0 4 := fieldAt_mod n 0 (k := 4) (by omega)
  have hdst : fieldAt n 0 8 / 16 = fieldAt n 4 4 := fieldAt_div n 0 4 4
  have hrm : fieldAt n 8 8 % 4 = fieldAt n 8 2 := fieldAt_mod n 8 (k := 2) (by omega)
  have hmode (i : Nat) (h : i < 8) : (fieldAt n 8 8).testBit i = n.testBit (8 + i) := testBit_fieldAt n 8 h
  have hdest : fieldAt n 8 8 / 16 % 4 = fieldAt n 12 2 :=
    (congrArg (· % 4) (fieldAt_div n 8 4 4)).trans (fieldAt_mod n 12 (k := 2) (by omega))
  have hop : fieldAt n 16 8 % 4 = fieldAt n 16 2 := fieldAt_mod n 16 (k := 2) (by omega)
  have hshape : fieldAt n 16 8 / 4 % 4 = fieldAt n 18 2 :=
    (congrArg (· % 4) (fieldAt_div n 16 2 6)).trans (fieldAt_mod n 18 (k := 2) (by omega))
  have htfmt : fieldAt n 16 8 / 16 = fieldAt n 20 4 := fieldAt_div n 16 4 4
  simp [EpiDesc.ofBytes, leAt_eq_fieldAt, n, ← hsrc, ← hdst, ← hrm, hmode, ← hdest, ← hop, ← hshape, ← htfmt]

/-! ### The bytes as the sequencer sees them -/

/-- The byte at key `k` that the waiting store `e` gives to an instruction issued now, where it covers it (R254). -/
def State.storeByte (s : State) (t : TileId) (e : SbEntry) (k : Nat) : Option Byte :=
  match s.storeKey t e with
  | some j => if e.id < (s.tile t).seq.nextId ∧ j ≤ k ∧ k < j + e.data.length then some (e.data.getD (k - j) 0) else none
  | none => none

/-- The bytes `bs` from key `k` under the waiting store `e`. -/
def State.underStore (s : State) (t : TileId) (k n : Nat) (bs : List Byte) (e : SbEntry) : List Byte :=
  match s.storeKey t e with
  | some j =>
    if e.id < (s.tile t).seq.nextId then
      tab n fun i => if j ≤ k + i ∧ k + i < j + e.data.length then e.data.getD (k + i - j) 0 else bs.getD i 0
    else bs
  | none => bs

theorem State.loadByte_eq (s : State) (t : TileId) (k : Nat) :
    s.loadByte t k = ((s.tile t).seq.stores.filterMap fun e => s.storeByte t e k).getLast?.getD
      (Memory.read 0 s.mem k) := rfl

theorem State.seqView_eq_foldl (s : State) (t : TileId) (k n : Nat) :
    s.seqView t (s.tile t).seq.nextId k n = (s.tile t).seq.stores.foldl (s.underStore t k n) (s.rd k n) := rfl

theorem tab_getD {α : Type} {n i : Nat} (f : Nat → α) (d : α) (h : i < n) : (tab n f).getD i d = f i := by
  simp [tab, h]

/-- One store shows where it covers a byte, and what was there shows elsewhere. -/
theorem State.underStore_tab (s : State) (t : TileId) (k n : Nat) (f : Nat → Byte) (e : SbEntry) :
    s.underStore t k n (tab n f) e = tab n fun i => (s.storeByte t e (k + i)).getD (f i) := by
  unfold State.underStore State.storeByte
  cases s.storeKey t e with
  | none => rfl
  | some j =>
    by_cases hid : e.id < (s.tile t).seq.nextId
    · simp only [hid, if_true, true_and]
      refine tab_congr fun i hi => ?_
      rw [tab_getD f 0 hi]
      split <;> rfl
    · simp [hid]

/-- Of several stores the last that covers a byte shows. -/
theorem State.foldl_underStore_tab (s : State) (t : TileId) (k n : Nat) (l : List SbEntry) (f : Nat → Byte) :
    l.foldl (s.underStore t k n) (tab n f) =
      tab n fun i => (l.filterMap fun e => s.storeByte t e (k + i)).getLast?.getD (f i) := by
  induction l generalizing f with
  | nil => rfl
  | cons e l ih =>
    rw [List.foldl_cons, s.underStore_tab, ih]
    refine tab_congr fun i _ => ?_
    cases h : s.storeByte t e (k + i) with
    | none => simp [h]
    | some b => simp [h, List.getLast?_cons]

theorem State.rd_eq_tab (s : State) (k n : Nat) : s.rd k n = tab n fun j => Memory.read 0 s.mem (k + j) :=
  tab_congr fun i hi => Memory.read_window 0 s.mem k n (k + i) ⟨by omega, by omega⟩

/-- What R244's read of a descriptor gives is what loads of its bytes would give (R254, R261). -/
theorem State.seqView_eq (s : State) (t : TileId) (k n : Nat) :
    s.seqView t (s.tile t).seq.nextId k n = tab n fun j => s.loadByte t (k + j) := by
  rw [s.seqView_eq_foldl, s.rd_eq_tab, s.foldl_underStore_tab]
  exact tab_congr fun i _ => (s.loadByte_eq t (k + i)).symm

/-- A descriptor that is aligned and lies in the tile's own store is read without a fault (R244). -/
theorem State.descriptor_ok {s : State} {t : TileId} {a : Word} {al n k : Nat} (hal : a.toNat % al = 0)
    (hk : s.locate (.seq t) a.toNat = .mem k) (hlo : poolBase t ≤ k) (hhi : k + n ≤ poolBase t + storeSize) :
    s.descriptor t a al n = .ok (tab n fun j => s.loadByte t (k + j)) := by
  simp [State.descriptor, hal, hk, hlo, hhi, s.seqView_eq]

end Sys2Proof.Machine
end

section
/-!
SUPPORT. The matrix queue (R243, R259): how MPASS and EPI join it, and what a fault of its one operation does.
-/
namespace Sys2Proof.Machine

/-! ### Joining the queue -/

/-- A coprocessor instruction that issues, finds room and is taken up does what `f` says. -/
theorem State.issueCop_of_issuesCop {α : Type} {s u : State} {t : TileId} {w : Word} {i : SInstr}
    {sel : SInstr → Option α} {full : Tile → Bool} {f : State → α → Option State} {a : α}
    (h : s.issuesCop t w i) (hsel : sel i = some a) (hroom : full (s.tile t) = false) (hf : f s a = some u) :
    s.issueCop t sel full f = .next u := by
  obtain ⟨hissues, hwindow⟩ := h
  rw [State.issueCop, State.issue_of_issues hissues sel _ a hsel]
  simp [Nat.not_le.2 hwindow, hroom, hf]

/-- Retirement to the next instruction passes it, and touches nothing but the sequencer and the tile's digests. -/
theorem State.retireNext_passed (s : State) (t : TileId) (b : List Byte) :
    let q := (s.tile t).seq
    ∃ r g, s.retireNext t b = s.setTile t { s.tile t with seq := r, digests := g } ∧ q.passed r (q.pc + 8) ∧
      q.likeBut r := by
  refine ⟨_, _, s.retire_eq t b _, ⟨rfl, rfl, fun h => ?_, fun h => ?_⟩, rfl⟩
  · simp [h]
  · obtain ⟨g, hg⟩ := Option.isSome_iff_exists.1 h
    simp [hg]

/-- A matrix instruction that has joined the queue as `o` and been retired. -/
theorem State.joinMat_passed (s : State) (t : TileId) (o : MatOp) (last : Option LastMat) :
    let x := s.tile t
    ∃ r g, (s.modTile t fun x => { x with matQ := x.matQ ++ [o], lastMat := last }).retireNext t [] =
        s.setTile t { x with matQ := x.matQ ++ [o], lastMat := last, seq := r, digests := g } ∧
      x.seq.passed r (x.seq.pc + 8) ∧ x.seq.likeBut r := by
  obtain ⟨r, g, heq, hpassed, hlike⟩ :=
    (s.modTile t fun x => { x with matQ := x.matQ ++ [o], lastMat := last }).retireNext_passed t []
  rw [State.tile_modTile] at heq hpassed hlike
  exact ⟨r, g, heq.trans (by rw [State.modTile, State.setTile_setTile]), hpassed, hlike⟩

/-- The pass that an MPASS issued now makes of its descriptor (R75, R132). -/
def State.issuedPass (s : State) (t : TileId) (wait : BitVec 4) (d : PassDesc) : PassOp :=
  let x := s.tile t
  ⟨x.seq.hdr wait, d, x.seq.phase, x.rime.bindNext, Vector.ofFn x.rime.epochNext, false, [], [], 0, 0, false, 0, []⟩

/-- The epilogue that an EPI issued now makes of its descriptor (R114, R121). -/
def State.issuedEpi (s : State) (t : TileId) (wait : BitVec 4) (d : EpiDesc) : EpiOp :=
  let x := s.tile t
  ⟨x.seq.hdr wait, d, if d.bind then x.lastMat.filter (·.stream) else none, false, 0, false, [], 0⟩

theorem Rime.bindNext_of_queue_nil {x : Rime} (h : x.queue = []) : x.bindNext = x.bind := by
  simp [Rime.bindNext, h]

theorem Rime.epochNext_of_queue_nil {x : Rime} (h : x.queue = []) (k : Fin 4) : x.epochNext k = x.slots[k].ep.no := by
  simp [Rime.epochNext, h]

section
variable {s : State} {t : TileId} {w : Word} {sa : BitVec 5} {wait : BitVec 4} {off : BitVec 32} {b : List Byte}
  (hroom : (s.tile t).matWaiting < 16)
include hroom

/-- An MPASS that issues, finds room and reads its descriptor joins the queue. -/
theorem execMpass_joins (h : s.issuesCop t w (.mpass sa wait off))
    (hb : s.descriptor t ((s.tile t).seq.sreg sa + off.signExtend 64) 32 32 = .ok b) :
    let x := s.tile t
    let d := PassDesc.ofBytes b
    ∃ r g, execMpass t s = .next (s.setTile t { x with
        matQ := x.matQ ++ [.pass (s.issuedPass t wait d)]
        lastMat := some ⟨x.seq.nextId, d.acc == 2, d.m, d.accRow⟩
        seq := r
        digests := g }) ∧
      x.seq.passed r (x.seq.pc + 8) ∧ x.seq.likeBut r := by
  intro x d
  obtain ⟨r, g, hjoin, hpassed⟩ := s.joinMat_passed t (.pass (s.issuedPass t wait d))
    (some ⟨x.seq.nextId, d.acc == 2, d.m, d.accRow⟩)
  refine ⟨r, g, State.issueCop_of_issuesCop h rfl (decide_eq_false (Nat.not_le.2 hroom)) ?_, hpassed⟩
  simp only [ext32, hb]
  exact congrArg some hjoin

/-- So does an EPI, after which no pass is the last matrix instruction (R121). -/
theorem execEpi_joins (h : s.issuesCop t w (.epi sa wait off))
    (hb : s.descriptor t ((s.tile t).seq.sreg sa + off.signExtend 64) 64 64 = .ok b) :
    let x := s.tile t
    ∃ r g, execEpi t s = .next (s.setTile t { x with
        matQ := x.matQ ++ [.epi (s.issuedEpi t wait (EpiDesc.ofBytes b))]
        lastMat := none
        seq := r
        digests := g }) ∧
      x.seq.passed r (x.seq.pc + 8) ∧ x.seq.likeBut r := by
  intro x
  obtain ⟨r, g, hjoin, hpassed⟩ := s.joinMat_passed t (.epi (s.issuedEpi t wait (EpiDesc.ofBytes b))) none
  refine ⟨r, g, State.issueCop_of_issuesCop h rfl (decide_eq_false (Nat.not_le.2 hroom)) ?_, hpassed⟩
  simp only [ext32, hb]
  exact congrArg some hjoin

end

/-! ### A committed fault -/

@[simp] theorem State.endJob_tiles (s : State) (status : Nat) (detail : Word) : (s.endJob status detail).tiles = s.tiles := by
  unfold State.endJob
  split <;> rfl

@[simp] theorem State.endJob_mem (s : State) (status : Nat) (detail : Word) : (s.endJob status detail).mem = s.mem := by
  unfold State.endJob
  split <;> rfl

/-- A tile as a committed fault of one of its units leaves it (R259). -/
def Tile.faulted (x : Tile) (u : TileUnit) (bit id : Nat) (pc : Word) : Tile :=
  let first := match x.seq.copFault with | some k => decide (id < k) | none => true
  let x := x.setStat u bit
  { x with seq := { x.seq with
      run := false
      stat := x.seq.stat ||| 1#4
      copFault := if first then some id else x.seq.copFault
      funit := if first then BitVec.ofNat 3 u.funit else x.seq.funit
      faultPc := if first then pc else x.seq.faultPc } }.discardAfter id

/-- A committed fault is the tile's, and may end the job; memory stays. -/
theorem State.copFault_tile (s : State) (t : TileId) (u : TileUnit) (bit id : Nat) (pc : Word) :
    (s.copFault t u bit id pc).tile t = (s.tile t).faulted u bit id pc ∧ (s.copFault t u bit id pc).mem = s.mem := by
  have htiles : (s.copFault t u bit id pc).tiles = (s.modTile t fun x => x.faulted u bit id pc).tiles :=
    State.endJob_tiles _ _ _
  refine ⟨?_, State.endJob_mem _ _ _⟩
  rw [State.tile, htiles]
  exact s.tile_modTile t _

theorem Tile.faulted_rimeQueue {x : Tile} (h : x.rime.queue = []) (u : TileUnit) (bit id : Nat) (pc : Word) :
    (x.faulted u bit id pc).rime.queue = [] := by
  cases u <;> simp [Tile.faulted, Tile.setStat, Tile.discardAfter, h]

/-- The first fault of a tile is the one its sequencer records (R259). -/
theorem Tile.faulted_recorded {x : Tile} (h : x.seq.copFault = none) (u : TileUnit) (bit id : Nat) (pc : Word) :
    (x.faulted u bit id pc).seq.faultPc = pc ∧ (x.faulted u bit id pc).seq.funit = BitVec.ofNat 3 u.funit := by
  cases u <;> simp [Tile.faulted, Tile.setStat, Tile.discardAfter, h]

end Sys2Proof.Machine
end

section
/-!
SUPPORT. Starts of the one waiting operation of the matrix class (R81, R91, R107, R125), and the obligation they settle.
-/
namespace Sys2Proof.Machine

theorem State.drainStores_of_stores_nil {s : State} {t : TileId} (h : (s.tile t).seq.stores = []) :
    s.drainStores t = s := by
  rw [State.drainStores, h]
  rfl

theorem State.storesAllow_of_stores_nil {s : State} {t : TileId} (h : (s.tile t).seq.stores = []) (id : Nat)
    (foot : List (Nat × Nat)) : s.storesAllow t id foot = true := by
  rw [State.storesAllow, h]
  rfl

theorem Tile.mayStart_of_deliver_nil {x : Tile} {mask : BitVec 4} {id : Nat} (hd : x.seq.deliver = [])
    (hw : x.waitsDone mask id = true) : x.mayStart mask id = true := by
  simp [Tile.mayStart, hd, hw]

/-- A pass as its start leaves it: with its weights and their scales latched (R91). -/
def State.startedPass (s : State) (t : TileId) (p : PassOp) : PassOp :=
  { p with started := true, weights := s.latchWeights t p.d, wscales := s.latchScales t p.d }

section
variable {s : State} {t : TileId} (hstores : (s.tile t).seq.stores = []) (hdeliver : (s.tile t).seq.deliver = [])
include hstores hdeliver

section
variable {p : PassOp} (hq : (s.tile t).matQ = [.pass p]) (hs : p.started = false)
  (hw : (s.tile t).waitsDone p.hdr.wait p.hdr.id = true)
include hq hs hw

/-- A pass that waits alone and passes R81's checks latches its operands and starts. -/
theorem execPassStart_starts (hc : p.d.check (s.tile t).width.toNat = none) :
    execPassStart t s = .next (s.setTile t { s.tile t with matQ := [.pass (s.startedPass t p)] }) := by
  simp [State.startedPass, execPassStart, Tile.nextMat, hq, MatOp.started, hs, State.drainStores_of_stores_nil hstores,
    Tile.mayStart_of_deliver_nil hdeliver hw, State.storesAllow_of_stores_nil hstores, hc, Tile.rowsHeld,
    State.setPass, State.modTile]

/-- One that fails a check leaves the queue and faults. -/
theorem execPassStart_faults (hrimeQ : (s.tile t).rime.queue = []) {bit : Nat}
    (hc : p.d.check (s.tile t).width.toNat = some bit) (htag : p.hdr.tag = none) :
    execPassStart t s =
      .next ((s.setTile t { s.tile t with matQ := [] }).copFault t .mat bit p.hdr.id p.hdr.pc) := by
  have hgo : ((s.setTile t { s.tile t with matQ := [] }).copFault t .mat bit p.hdr.id p.hdr.pc).rimeGo t =
      (s.setTile t { s.tile t with matQ := [] }).copFault t .mat bit p.hdr.id p.hdr.pc := by
    refine State.rimeGo_of_queue_nil ?_
    rw [(State.copFault_tile ..).1, State.tile_setTile]
    exact Tile.faulted_rimeQueue (x := { s.tile t with matQ := [] }) hrimeQ ..
  simp [execPassStart, Tile.nextMat, hq, MatOp.started, hs, State.drainStores_of_stores_nil hstores,
    Tile.mayStart_of_deliver_nil hdeliver hw, State.storesAllow_of_stores_nil hstores, hc, State.dropMat, State.modTile,
    MatOp.hdr, htag, State.emit, State.commitEv, hgo]

end

/-- An unbound epilogue that waits alone, passes R125's checks and finds its tags starts. -/
theorem execEpiStart_starts {e : EpiOp} (hq : (s.tile t).matQ = [.epi e]) (hs : e.started = false)
    (htag : e.hdr.tag = none) (hbound : e.bound = none) (hw : (s.tile t).waitsDone e.hdr.wait e.hdr.id = true)
    (hc : e.check (s.tile t).width.toNat = none)
    (hrows : ∀ i < e.d.nr, ((s.tile t).accRow (e.d.accRow + i)).tag = e.d.want) :
    execEpiStart t s = .next (s.setTile t { s.tile t with matQ := [.epi { e with started := true }] }) := by
  have htags : ((List.range e.d.nr).any fun i => ((s.tile t).accRow (e.d.accRow + i)).tag != e.d.want) = false := by
    simpa using hrows
  simp [execEpiStart, Tile.nextMat, hq, MatOp.started, hs, htag, hbound, State.drainStores_of_stores_nil hstores,
    Tile.mayStart_of_deliver_nil hdeliver hw, State.storesAllow_of_stores_nil hstores, hc, Tile.passesInto, htags,
    State.setEpi, State.modTile]

end

theorem State.latchWeights_getElem? (s : State) (t : TileId) (d : PassDesc) {j : Nat} (h : j < d.nx) :
    (s.latchWeights t d)[j]? = some (unpackElems d.wfmt d.kx
      (s.tsRd t (d.waddr + j * sliceBytes d.wfmt) (sliceBytes d.wfmt))) := by
  simp [State.latchWeights, tab, h]

theorem EpiDesc.want_eq (d : EpiDesc) : d.want = if d.src = 15 then .a96 else .a48 := by
  simp [EpiDesc.want]

/-- Settles O8: each instruction's descriptor is the bytes the sequencer sees, field by field, and it joins the queue;
each start is that of the one waiting operation, and a pass refused is a fault of the matrix unit. -/
theorem matrixInstructionsJoinAndStart : Obligations.MatrixInstructionsJoinAndStart := by
  unfold Obligations.MatrixInstructionsJoinAndStart
  constructor
  · intro s t w sa wait off k x q a hk hlo hroom
    refine ⟨fun h hal hhi => ?mpass, fun h hal hhi => ?epi⟩
    case mpass =>
      obtain ⟨r, g, hexec, hpassed, hlike⟩ := execMpass_joins hroom h (State.descriptor_ok hal hk hlo hhi)
      refine ⟨_, s.issuedPass t wait (.ofBytes (tab 32 fun j => s.loadByte t (k + j))), hexec, ?_⟩
      rw [State.tile_setTile]
      refine ⟨rfl, rfl, rfl, rfl, fun hempty => ⟨Rime.bindNext_of_queue_nil hempty, fun i => ?_⟩,
        PassDesc.ofBytes_eq _, rfl, hpassed, hlike, rfl⟩
      simpa [State.issuedPass] using Rime.epochNext_of_queue_nil hempty i
    case epi =>
      obtain ⟨r, g, hexec, hpassed, hlike⟩ := execEpi_joins hroom h (State.descriptor_ok hal hk hlo hhi)
      refine ⟨_, s.issuedEpi t wait (.ofBytes (tab 64 fun j => s.loadByte t (k + j))), hexec, ?_⟩
      rw [State.tile_setTile]
      exact ⟨rfl, rfl, rfl, rfl, EpiDesc.ofBytes_eq _, rfl, rfl, hpassed, hlike, rfl⟩
  · intro s t x hstores hdeliver hrimeQ
    refine ⟨fun p hq hs hw => ⟨fun hc => ?starts, fun bit hc htag => ?refused⟩,
      fun e hq hs htag hbound hw hc hrows => ?epilogue⟩
    case starts =>
      refine ⟨_, s.startedPass t p, execPassStart_starts hstores hdeliver hq hs hw hc, ?_⟩
      rw [State.tile_setTile]
      exact ⟨rfl, rfl, tab_length _ _, fun j hj => s.latchWeights_getElem? t p.d hj, rfl, rfl⟩
    case refused =>
      obtain ⟨htile, hmem⟩ := (s.setTile t { s.tile t with matQ := [] }).copFault_tile t .mat bit p.hdr.id p.hdr.pc
      refine ⟨_, execPassStart_faults hstores hdeliver hq hs hw hrimeQ hc htag, ?_⟩
      rw [htile, hmem, State.tile_setTile]
      exact ⟨rfl, rfl, rfl, rfl, rfl, rfl, rfl, fun hfirst =>
        Tile.faulted_recorded (x := { s.tile t with matQ := [] }) hfirst ..⟩
    case epilogue =>
      refine ⟨_, execEpiStart_starts hstores hdeliver hq hs htag hbound hw hc fun i hi => ?_, rfl⟩
      rw [hrows i hi, EpiDesc.want_eq]

end Sys2Proof.Machine
end

section
/-!
SUPPORT. The ranking of R126 as a strict order on elements at distinct positions, and the ranked list that top-k takes
its first `k` elements of (R127, R128).
-/
namespace Sys2Proof.Machine

/-! ### The order of values (R63) -/

/-- Where a value lies against the finite ones: below them, among them, above them. NaN has no place of its own here. -/
def FV.tier : FV → Int
  | .inf true => -1
  | .inf false => 1
  | _ => 0

/-- The place of a value in R63's order, −0 and +0 in one. -/
def FV.place (v : FV) : Int ×ₗ Rat := toLex (v.tier, v.rat)

theorem FV.place_lt_iff {a b : FV} : a.place < b.place ↔ a.tier < b.tier ∨ a.tier = b.tier ∧ a.rat < b.rat :=
  Prod.Lex.toLex_lt_toLex

/-- Over an exponent no larger than its own, a finite value is an integer number of units. -/
theorem FV.rat_fin_eq_scaledInt (neg : Bool) (m : Nat) {e lo : Int} (h : lo ≤ e) :
    (FV.fin neg m e).rat = scaledInt neg m e lo * (2 : Rat) ^ lo := by
  have hunits : (m : Rat) * 2 ^ e = (m <<< (e - lo).toNat : Nat) * (2 : Rat) ^ lo := by
    rw [Nat.shiftLeft_eq, Nat.cast_mul, Nat.cast_pow, Nat.cast_ofNat, ← zpow_natCast, Int.toNat_of_nonneg (by omega),
      mul_assoc, ← zpow_add₀ two_ne_zero, sub_add_cancel]
  rw [FV.rat_fin, hunits]
  cases neg <;> simp [scaledInt, -Int.natCast_shiftLeft]

theorem FV.place_fin (neg : Bool) (m : Nat) {e lo : Int} (h : lo ≤ e) :
    (FV.fin neg m e).place = toLex (0, (scaledInt neg m e lo : Rat) * (2 : Rat) ^ lo) := by
  rw [FV.place, FV.rat_fin_eq_scaledInt neg m h]
  rfl

/-- Numbers compare as their places do. -/
theorem FV.cmp_eq_compare_place {a b : FV} (ha : a.isNan = false) (hb : b.isNan = false) :
    FV.cmp a b = some (compare a.place b.place) := by
  have hlt {x y : FV} (h : x.tier < y.tier) : compare x.place y.place = .lt :=
    compare_lt_iff_lt.2 (FV.place_lt_iff.2 (.inl h))
  have hgt {x y : FV} (h : y.tier < x.tier) : compare x.place y.place = .gt :=
    compare_gt_iff_gt.2 (FV.place_lt_iff.2 (.inl h))
  match a, b with
  | .nan, _ => cases ha
  | _, .nan => cases hb
  | .inf true, .inf true | .inf false, .inf false => simp [FV.cmp]
  | .inf true, .inf false => rw [hlt (by simp [FV.tier])]; rfl
  | .inf false, .inf true => rw [hgt (by simp [FV.tier])]; rfl
  | .inf true, .fin .. => rw [hlt (by simp [FV.tier])]; rfl
  | .inf false, .fin .. => rw [hgt (by simp [FV.tier])]; rfl
  | .fin .., .inf true => rw [hgt (by simp [FV.tier])]; rfl
  | .fin .., .inf false => rw [hlt (by simp [FV.tier])]; rfl
  | .fin s m e, .fin t n f =>
    have hmono : StrictMono fun i : Int => (toLex (0, (i : Rat) * (2 : Rat) ^ min e f) : Int ×ₗ Rat) := fun i j h =>
      Prod.Lex.toLex_lt_toLex.2 (.inr ⟨rfl, mul_lt_mul_of_pos_right (by exact_mod_cast h) (by positivity)⟩)
    rw [FV.place_fin s m (min_le_left e f), FV.place_fin t n (min_le_right e f), ← cmp_eq_compare, hmono.cmp_map_eq, cmp_eq_compare]
    rfl

/-! ### The ranking (R126) -/

/-- The place of a value in a selection: its own for a min selection, mirrored for a max selection. -/
def FV.placeIn (minSel : Bool) (v : FV) : Int ×ₗ Rat := if minSel then v.place else toLex (-v.tier, -v.rat)

theorem FV.placeIn_lt_iff {minSel : Bool} {a b : FV} :
    a.placeIn minSel < b.placeIn minSel ↔ if minSel then a.place < b.place else b.place < a.place := by
  cases minSel <;> simp [FV.placeIn, FV.place, Prod.Lex.toLex_lt_toLex, eq_comm]

theorem FV.placeIn_inj {minSel : Bool} {a b : FV} : a.placeIn minSel = b.placeIn minSel ↔ a.place = b.place := by
  cases minSel <;> simp [FV.placeIn, FV.place]

/-- The value an element is ranked by. -/
def Cand.ranked (abs : Bool) (c : Cand) : FV := if abs then c.v.abs else c.v

@[simp] theorem Cand.isNan_ranked (abs : Bool) (c : Cand) : (c.ranked abs).isNan = c.v.isNan := by
  cases abs <;> rcases c with ⟨_ | _ | _, _, _⟩ <;> rfl

/-- The key of an element: NaNs first, then the place of its value, then its position. -/
def Cand.rankKey (minSel abs : Bool) (c : Cand) : Nat ×ₗ (Int ×ₗ Rat) ×ₗ Nat :=
  toLex (if c.v.isNan then 0 else 1, toLex ((c.ranked abs).placeIn minSel, c.pos))

theorem FV.eq_nan_of_isNan {v : FV} (h : v.isNan = true) : v = .nan := by
  cases v with
  | nan => rfl
  | inf | fin => cases h

/-- R126's tests, one after the other, compare the keys. -/
theorem ranksBefore_iff (minSel abs : Bool) (a b : Cand) :
    ranksBefore minSel abs a b = true ↔ a.rankKey minSel abs < b.rankKey minSel abs := by
  have hdef : ranksBefore minSel abs a b = if a.v.isNan && !b.v.isNan then true else if b.v.isNan && !a.v.isNan then false
      else match FV.cmp (a.ranked abs) (b.ranked abs) with
        | some .gt => !minSel
        | some .lt => minSel
        | _ => decide (a.pos < b.pos) := rfl
  rw [hdef, Cand.rankKey, Cand.rankKey, Prod.Lex.toLex_lt_toLex]
  cases ha : a.v.isNan <;> cases hb : b.v.isNan
  case false.true => simp
  case true.false => simp
  case true.true =>
    have hplace {c : Cand} (h : c.v.isNan = true) : c.ranked abs = .nan := FV.eq_nan_of_isNan (by simpa using h)
    simp [hplace ha, hplace hb, FV.cmp, Prod.Lex.toLex_lt_toLex]
  case false.false =>
    rw [FV.cmp_eq_compare_place (by simpa using ha) (by simpa using hb)]
    simp only [Bool.false_and, Bool.false_eq_true, if_false, lt_irrefl, false_or, true_and, Prod.Lex.toLex_lt_toLex,
      FV.placeIn_lt_iff, FV.placeIn_inj]
    rcases lt_trichotomy (a.ranked abs).place (b.ranked abs).place with h | h | h
    · rw [compare_lt_iff_lt.2 h]
      cases minSel <;> simp [h, h.ne, h.not_gt]
    · rw [compare_eq_iff_eq.2 h]
      cases minSel <;> simp [h]
    · rw [compare_gt_iff_gt.2 h]
      cases minSel <;> simp [h, h.ne', h.not_gt]

section
variable {minSel abs : Bool} {a b c : Cand}

theorem ranksBefore_trans (hab : ranksBefore minSel abs a b = true) (hbc : ranksBefore minSel abs b c = true) :
    ranksBefore minSel abs a c = true :=
  (ranksBefore_iff ..).2 (((ranksBefore_iff ..).1 hab).trans ((ranksBefore_iff ..).1 hbc))

theorem ranksBefore_asymm (hab : ranksBefore minSel abs a b = true) : ¬ ranksBefore minSel abs b a = true :=
  fun hba => ((ranksBefore_iff ..).1 hab).asymm ((ranksBefore_iff ..).1 hba)

/-- Of two elements at distinct positions one ranks before the other. -/
theorem ranksBefore_of_not (hpos : a.pos ≠ b.pos) (h : ¬ ranksBefore minSel abs a b = true) :
    ranksBefore minSel abs b a = true := by
  have hne : b.rankKey minSel abs ≠ a.rankKey minSel abs := fun e =>
    hpos (congrArg (fun k => (ofLex (ofLex k).2).2) e.symm)
  exact (ranksBefore_iff ..).2 ((not_lt.1 fun hlt => h ((ranksBefore_iff ..).2 hlt)).lt_of_ne hne)

end

/-! ### Ranked lists -/

/-- Whether elements stand at distinct positions. -/
def Distinct (l : List Cand) : Prop := l.Pairwise fun x y => x.pos ≠ y.pos

theorem Distinct.subperm {l m : List Cand} (hl : Distinct l) (h : m.Subperm l) : Distinct m := by
  obtain ⟨l', hperm, hsub⟩ := h
  exact hperm.pairwise (hl.sublist hsub) Ne.symm

theorem Distinct.perm {l m : List Cand} (hl : Distinct l) (h : l.Perm m) : Distinct m := hl.subperm h.symm.subperm

/-- Whether a list stands in rank order. -/
def RankOrder (minSel abs : Bool) (l : List Cand) : Prop := l.Pairwise fun x y => ranksBefore minSel abs x y = true

section
variable {minSel abs : Bool}

theorem rankInsert_eq_orderedInsert (c : Cand) (l : List Cand) :
    rankInsert minSel abs c l = l.orderedInsert (fun x y => ranksBefore minSel abs x y = true) c := by
  induction l with
  | nil => rfl
  | cons d l ih => rw [rankInsert, List.orderedInsert_cons, ih]

theorem rankInsert_perm (c : Cand) (l : List Cand) : (rankInsert minSel abs c l).Perm (c :: l) := by
  rw [rankInsert_eq_orderedInsert]
  exact List.perm_orderedInsert _ c l

/-- An element at a position of its own is inserted in rank order. -/
theorem rankInsert_rankOrder {c : Cand} {l : List Cand} (hl : RankOrder minSel abs l) (hc : ∀ d ∈ l, c.pos ≠ d.pos) :
    RankOrder minSel abs (rankInsert minSel abs c l) := by
  induction l with
  | nil => exact List.pairwise_singleton _ c
  | cons d l ih =>
    obtain ⟨hd, hrest⟩ := List.pairwise_cons.1 hl
    rw [rankInsert]
    split
    case isTrue hcd =>
      exact List.pairwise_cons.2 ⟨List.forall_mem_cons.2 ⟨hcd, fun e he => ranksBefore_trans hcd (hd e he)⟩, hl⟩
    case isFalse hcd =>
      refine List.pairwise_cons.2 ⟨fun e he => ?_, ih hrest fun e he => hc e (List.mem_cons_of_mem d he)⟩
      rcases List.mem_cons.1 ((rankInsert_perm c l).mem_iff.1 he) with rfl | he
      · exact ranksBefore_of_not (hc d List.mem_cons_self) hcd
      · exact hd e he

/-- The elements of `l` inserted one after another into a ranked list. -/
def rankAll (minSel abs : Bool) (init l : List Cand) : List Cand :=
  l.foldl (fun best c => rankInsert minSel abs c best) init

theorem rankAll_perm (init l : List Cand) : (rankAll minSel abs init l).Perm (init ++ l) := by
  induction l generalizing init with
  | nil => simp [rankAll]
  | cons c l ih =>
    calc rankAll minSel abs (rankInsert minSel abs c init) l
      _ |>.Perm (rankInsert minSel abs c init ++ l) := ih _
      _ |>.Perm (c :: init ++ l) := (rankInsert_perm c init).append_right l
      _ |>.Perm (init ++ c :: l) := List.perm_middle.symm

theorem rankAll_rankOrder {init l : List Cand} (hinit : RankOrder minSel abs init) (h : Distinct (init ++ l)) :
    RankOrder minSel abs (rankAll minSel abs init l) := by
  induction l generalizing init with
  | nil => exact hinit
  | cons c l ih =>
    have hmid : Distinct (c :: init ++ l) := h.perm List.perm_middle
    have hc : ∀ d ∈ init, c.pos ≠ d.pos := fun d hd =>
      (List.pairwise_cons.1 hmid).1 d (List.mem_append_left l hd)
    exact ih (rankInsert_rankOrder hinit hc) (hmid.perm ((rankInsert_perm c init).symm.append_right l))

/-- Only one list of the same elements stands in rank order. -/
theorem RankOrder.eq_of_perm {l m : List Cand} (hl : RankOrder minSel abs l) (hm : RankOrder minSel abs m)
    (h : l.Perm m) : l = m :=
  h.eq_of_pairwise (fun _ _ _ _ hab hba => absurd hba (ranksBefore_asymm hab)) hl hm

/-- The first `k` after an insertion depend on the first `k` before it only. -/
theorem take_rankInsert_take (k : Nat) (c : Cand) (l : List Cand) :
    (rankInsert minSel abs c (l.take k)).take k = (rankInsert minSel abs c l).take k := by
  induction l generalizing k with
  | nil => rw [List.take_nil]
  | cons d l ih =>
    cases k with
    | zero => rw [List.take_zero, List.take_zero]
    | succ k =>
      rw [List.take_succ_cons, rankInsert, rankInsert]
      split
      · have hcut : d :: l.take k = (d :: l).take (k + 1) := rfl
        rw [hcut, List.take_succ_cons, List.take_take, min_eq_left k.le_succ, ← List.take_succ_cons]
      · rw [List.take_succ_cons, List.take_succ_cons, ih]

/-- Cutting to `k` elements after each insertion is cutting once at the end. -/
theorem foldl_take_rankInsert (k : Nat) (init l : List Cand) :
    l.foldl (fun best c => (rankInsert minSel abs c best).take k) (init.take k) =
      (rankAll minSel abs init l).take k := by
  induction l generalizing init with
  | nil => rfl
  | cons c l ih => rw [List.foldl_cons, take_rankInsert_take, ih]; rfl

theorem rankAll_nil_perm (l : List Cand) : (rankAll minSel abs [] l).Perm l := rankAll_perm [] l

theorem rankAll_nil_rankOrder {l : List Cand} (h : Distinct l) : RankOrder minSel abs (rankAll minSel abs [] l) :=
  rankAll_rankOrder .nil h

theorem take_rankAll_take (k : Nat) (init l : List Cand) :
    (rankAll minSel abs (init.take k) l).take k = (rankAll minSel abs init l).take k := by
  rw [← foldl_take_rankInsert, ← foldl_take_rankInsert, List.take_take, min_self]

theorem rankAll_append (init l m : List Cand) :
    rankAll minSel abs init (l ++ m) = rankAll minSel abs (rankAll minSel abs init l) m := List.foldl_append ..

/-- Inserting a list in rank order rebuilds it. -/
theorem rankAll_of_rankOrder {l : List Cand} (h : RankOrder minSel abs l) (hl : Distinct l) :
    rankAll minSel abs [] l = l :=
  (rankAll_nil_rankOrder hl).eq_of_perm h (rankAll_nil_perm l)

end

/-! ### Top-k (R127, R128) -/

/-- The elements a selection ranks: with NANMODE the NaNs are left out. -/
def rankable (nanmode : Bool) (l : List Cand) : List Cand := l.filter fun c => !(nanmode && c.v.isNan)

theorem mem_rankable {nanmode : Bool} {l : List Cand} {c : Cand} :
    c ∈ rankable nanmode l ↔ c ∈ l ∧ (nanmode && c.v.isNan) = false := by
  rw [rankable, List.mem_filter, Bool.not_eq_true']

theorem rankable_append (nanmode : Bool) (l m : List Cand) :
    rankable nanmode (l ++ m) = rankable nanmode l ++ rankable nanmode m := List.filter_append ..

/-- Top-k is the first `k` of the ranked elements in rank order. -/
theorem topRanked_eq_take (minSel abs nanmode : Bool) (k : Nat) (l : List Cand) :
    topRanked minSel abs nanmode k l = (rankAll minSel abs [] (rankable nanmode l)).take k := by
  rw [← foldl_take_rankInsert, List.take_nil]
  rfl

section
variable {minSel abs nanmode : Bool} {k : Nat} {l m a b : List Cand}

theorem rankable_subperm : (rankable nanmode l).Subperm l := List.filter_sublist.subperm

theorem Distinct.rankable (h : Distinct l) : Distinct (rankable nanmode l) := h.subperm rankable_subperm

theorem topRanked_subperm : (topRanked minSel abs nanmode k l).Subperm (rankable nanmode l) := by
  rw [topRanked_eq_take]
  exact (List.take_sublist k _).subperm.trans (rankAll_nil_perm _).subperm

theorem topRanked_rankOrder (h : Distinct l) : RankOrder minSel abs (topRanked minSel abs nanmode k l) := by
  rw [topRanked_eq_take]
  exact (rankAll_nil_rankOrder h.rankable).sublist (List.take_sublist ..)

theorem rankable_topRanked : rankable nanmode (topRanked minSel abs nanmode k l) = topRanked minSel abs nanmode k l :=
  List.filter_eq_self.2 fun _ hc => by
    rw [(mem_rankable.1 (topRanked_subperm.subset hc)).2, Bool.not_false]

theorem topRanked_length :
    (topRanked minSel abs nanmode k l).length = min k (rankable nanmode l).length := by
  rw [topRanked_eq_take, List.length_take, (rankAll_nil_perm _).length_eq]

/-- The order of the input does not matter (R128). -/
theorem topRanked_perm (hl : Distinct l) (h : l.Perm m) :
    topRanked minSel abs nanmode k l = topRanked minSel abs nanmode k m := by
  have hperm : (rankAll minSel abs [] (rankable nanmode l)).Perm (rankAll minSel abs [] (rankable nanmode m)) :=
    (rankAll_nil_perm _).trans ((h.filter _).trans (rankAll_nil_perm (rankable nanmode m)).symm)
  rw [topRanked_eq_take, topRanked_eq_take,
    (rankAll_nil_rankOrder hl.rankable).eq_of_perm (rankAll_nil_rankOrder (hl.perm h).rankable) hperm]

/-- The first elements of a part may stand for the whole part (R128). -/
theorem topRanked_topRanked_append (h : Distinct a) :
    topRanked minSel abs nanmode k (topRanked minSel abs nanmode k a ++ b) = topRanked minSel abs nanmode k (a ++ b) := by
  rw [topRanked_eq_take, rankable_append, rankable_topRanked, rankAll_append,
    rankAll_of_rankOrder (topRanked_rankOrder h) (h.rankable.subperm topRanked_subperm), topRanked_eq_take,
    take_rankAll_take, ← rankAll_append, ← rankable_append, ← topRanked_eq_take]

/-- Nothing that is ranked comes before the first (R127). -/
theorem topRanked_head_first (h : Distinct l) {x y : Cand} (hx : x ∈ (topRanked minSel abs nanmode k l).head?)
    (hy : y ∈ rankable nanmode l) (hpos : y.pos ≠ x.pos) : ranksBefore minSel abs x y = true := by
  have horder := rankAll_nil_rankOrder (minSel := minSel) (abs := abs) (h.rankable (nanmode := nanmode))
  have hmem : y ∈ rankAll minSel abs [] (rankable nanmode l) := (rankAll_nil_perm _).mem_iff.2 hy
  rw [topRanked_eq_take] at hx
  cases hall : rankAll minSel abs [] (rankable nanmode l) with
  | nil => rw [hall] at hmem; cases hmem
  | cons z rest =>
    rw [hall] at hx hmem horder
    obtain rfl : z = x := by
      cases k with
      | zero => cases hx
      | succ k => simpa using hx
    rcases List.mem_cons.1 hmem with rfl | hmem
    · exact absurd rfl hpos
    · exact (List.pairwise_cons.1 horder).1 y hmem

end

/-- Settles O37: top-k cuts the ranked list, which is determined by its elements; a part's own first elements keep all
that the cut can need. -/
theorem topKDoesNotDependOnSplitOrOrder : Obligations.TopKDoesNotDependOnSplitOrOrder := by
  unfold Obligations.TopKDoesNotDependOnSplitOrOrder
  intro minSel abs nanmode k a b top _ hdist
  have hab : Distinct (a ++ b) := hdist
  have hsub (l : List Cand) : (top l).Subperm l := topRanked_subperm.trans rankable_subperm
  have hleft : top (top a ++ b) = top (a ++ b) :=
    topRanked_topRanked_append (hab.subperm (List.sublist_append_left a b).subperm)
  refine ⟨hleft, ?_, fun l hl => (topRanked_perm hab hl.symm).symm, topRanked_length, fun x hx => ⟨?_, ?_⟩⟩
  · calc top (top a ++ top b)
      _ = top (top b ++ top a) := topRanked_perm (hab.subperm ((hsub a).append (hsub b))) List.perm_append_comm
      _ = top (b ++ top a) := topRanked_topRanked_append (hab.subperm (List.sublist_append_right a b).subperm)
      _ = top (top a ++ b) := (topRanked_perm (hab.subperm ((hsub a).append (List.Subperm.refl b))) List.perm_append_comm).symm
      _ = top (a ++ b) := hleft
  · exact (mem_rankable.1 (topRanked_subperm.subset (List.mem_of_mem_head? hx))).1
  · exact fun y hy hnan hpos => topRanked_head_first hab hx (mem_rankable.2 ⟨hy, hnan⟩) hpos

end Sys2Proof.Machine
end

section
/-!
SUPPORT. One row of a started unbound epilogue to the tile store (R115, R119, R120, R124, R131): what it writes and
leaves, and when it is the last; and the obligation that BIND without a bound pass refutes.
-/
namespace Sys2Proof.Machine
open Host

section
variable {s : State} {t : TileId} {e : EpiOp}

/-! ### The parts of the step -/

theorem State.tile_wr (s : State) (key : Nat) (bs : List Byte) (t : TileId) : (s.wr key bs).tile t = s.tile t := by
  unfold State.wr
  dsimp only
  split <;> rfl

@[simp] theorem State.tile_tsWr (s : State) (t t' : TileId) (a : Nat) (bs : List Byte) :
    (s.tsWr t a bs).tile t' = s.tile t' := s.tile_wr (poolBase t + a) bs t'

theorem State.mem_tsWr (s : State) (t : TileId) (a : Nat) (bs : List Byte) :
    (s.tsWr t a bs).mem = Memory.writeBytes 0 s.mem (poolBase t + a) bs := s.wr_mem (poolBase t + a) bs

/-- The state in which a row's elements are written: half-read entries take a free value (R54). -/
def State.rowRead (s : State) (row : AccRow) : State := if row.halves != 0 then s.takeFree.2 else s

theorem State.tile_rowRead (s : State) (row : AccRow) (t : TileId) : (s.rowRead row).tile t = s.tile t := by
  unfold State.rowRead
  split <;> rfl

theorem State.mem_rowRead (s : State) (row : AccRow) : (s.rowRead row).mem = s.mem := by
  unfold State.rowRead
  split <;> rfl

/-- CLEAR replaces the accumulator of the tile only, and there the one row's leading entries. -/
theorem State.clearRow_eq (s : State) (t : TileId) {d : EpiDesc} (hsrc : d.src = 0xC) {r : Nat}
    (hr : r < (s.tile t).acc.length) :
    ∃ acc : List AccRow, s.clearRow t d r = s.setTile t { s.tile t with acc := acc } ∧
      (∀ k, k ≠ r → acc.getD k .zero = (s.tile t).accRow k) ∧
      ∀ c, (acc.getD r .zero).ents[c]? =
        if d.clear = true ∧ c < d.ncols then some 0 else ((s.tile t).accRow r).ents[c]? := by
  cases hclear : d.clear
  case false =>
    refine ⟨(s.tile t).acc, ?_, fun _ _ => rfl, fun c => by simp [Tile.accRow]⟩
    rw [State.clearRow, if_neg (hclear ▸ Bool.false_ne_true), State.setTile_tile]
  case true =>
    refine ⟨_, by rw [State.clearRow, if_pos hclear]; rfl, fun k hk => ?_, fun c => ?_⟩
    · simp [Tile.accRow, List.getD_eq_getElem?_getD, hk.symm]
    · simp [Tile.accRow, List.getD_eq_getElem?_getD, hr, hsrc, AccRow.save, List.getElem?_append, List.getElem?_replicate]
      split
      case isTrue => rfl
      case isFalse hc => rw [Nat.add_sub_cancel' (not_lt.1 hc)]

theorem State.emit_epi_none (s : State) (t : TileId) (b : List Byte) (flags : Flags) :
    s.emit t none (.op .epi b flags 0) = s.modTile t fun x =>
      { x with
        fpstat := x.fpstat ||| flags
        digests := if s.gtc.lsEn then x.digests.set TileUnit.epi.ix (x.digests[TileUnit.epi.ix].put none b)
          else x.digests } := by
  simp only [State.emit, State.commitEv, State.digestOp_eq, State.modTile_modTile]
  rfl

/-- An epilogue with one more row finished. -/
def EpiOp.afterRow (e : EpiOp) (lsEn : Bool) (b : List Byte) (fl : Flags) : EpiOp :=
  { e with row := e.row + 1, second := false, bytes := if lsEn then e.bytes ++ b else e.bytes, flags := e.flags ||| fl }

/-- The end of a row of the one operation in the queue is counted; the operation leaves with its last row, which
sets its flags. -/
theorem State.rowDone_eq (hq : (s.tile t).matQ = [.epi e]) (hrime : (s.tile t).rime.queue = []) (b : List Byte)
    (fl : Flags) :
    ∃ l f g, s.rowDone t e b fl = s.setTile t { s.tile t with
        matQ := l, epirows := (s.tile t).epirows + 1, fpstat := f, digests := g } ∧
      (l = [] ↔ e.rows ≤ e.row + 1) := by
  have hdef : s.rowDone t e b fl =
      let e' := e.afterRow s.gtc.lsEn b fl
      let v := s.modTile t fun x => { x with epirows := x.epirows + 1 }
      if e.row + 1 < e.rows then v.setEpi t e'
      else ((v.dropMat t e.hdr.id).emit t none (.op .epi e'.bytes e'.flags 0)).rimeGo t := rfl
  by_cases hmore : e.row + 1 < e.rows
  case pos =>
    rw [hdef, if_pos hmore, State.setEpi, State.modTile_modTile]
    exact ⟨_, (s.tile t).fpstat, (s.tile t).digests, rfl, by simp [hq, hmore]⟩
  case neg =>
    rw [hdef, if_neg hmore, State.emit_epi_none, State.dropMat, State.modTile_modTile, State.modTile_modTile,
      State.rimeGo_of_queue_nil (by rw [State.tile_modTile]; exact hrime)]
    exact ⟨_, _, _, rfl, by simp [hq, not_lt.1 hmore, MatOp.hdr]⟩

/-! ### The step -/

section
variable (hq : (s.tile t).matQ = [.epi e]) (hstarted : e.started = true) (hbound : e.bound = none) (hdest : e.d.dest = 0)
  (hfmt : isBlockFmt e.d.dst = false) (hsrc : e.d.src = 0xC) (htag : ((s.tile t).accRow (e.d.accRow + e.row)).tag = .a48)
  (hundo : ((s.tile t).accRow (e.d.accRow + e.row)).undo = [])
include hq hstarted hbound hdest hfmt hsrc htag hundo

theorem execEpiRow_store (stall : Word) :
    let d := e.d
    let r := d.accRow + e.row
    let row := (s.tile t).accRow r
    let data := packElems d.dst (s.epiRow t d row e.row).1
    exec (.epiRow t stall) s = .next
      ((((s.rowRead row).tsWr t (d.daddr + e.row * d.dstride) data).clearRow t d r).rowDone t e data (s.epiRow t d row e.row).2.2) := by
  have hrow : e.accRow = e.d.accRow + e.row := by simp [EpiOp.accRow, hbound]
  have hrel : (s.tile t).released e = true := by simp [Tile.released, hrow, hbound, hundo]
  have hwant : e.d.want = .a48 := by rw [EpiDesc.want_eq, hsrc]; rfl
  change execEpiRow t stall s = _
  unfold execEpiRow
  simp [hq, hstarted, hbound, hrel, hrow, htag, hwant, hdest, hfmt, hsrc, State.rowRead]

/-- The row's elements are written, CLEAR is done, the row is counted, and the last of the model's rows ends the
epilogue. -/
theorem execEpiRow_effect (stall : Word) (hlen : e.d.accRow + e.row < (s.tile t).acc.length)
    (hrime : (s.tile t).rime.queue = []) :
    let x := s.tile t
    let d := e.d
    let r := d.accRow + e.row
    let data := packElems d.dst (s.epiRow t d (x.accRow r) e.row).1
    let a := poolBase t + d.daddr + e.row * d.dstride
    ∃ (u : State) (acc : List AccRow) (l : List MatOp) (f : Flags) (g : Vector Digest 6),
      exec (.epiRow t stall) s = .next u ∧
      u.mem = Memory.writeBytes 0 s.mem a data ∧
      u.tile t = { x with acc := acc, matQ := l, epirows := x.epirows + 1, fpstat := f, digests := g } ∧
      (∀ t' ≠ t, u.tile t' = s.tile t') ∧ (l = [] ↔ e.rows ≤ e.row + 1) ∧
      (∀ k, k ≠ r → acc.getD k .zero = x.accRow k) ∧
      ∀ c, (acc.getD r .zero).ents[c]? = if d.clear = true ∧ c < d.ncols then some 0 else (x.accRow r).ents[c]? := by
  intro x d r data a
  obtain ⟨w, hw⟩ : ∃ w, w = (s.rowRead (x.accRow r)).tsWr t (d.daddr + e.row * d.dstride) data := ⟨_, rfl⟩
  have hwtile (t' : TileId) : w.tile t' = s.tile t' := by rw [hw, State.tile_tsWr, State.tile_rowRead]
  have hwmem : w.mem = Memory.writeBytes 0 s.mem a data := by
    rw [hw, State.mem_tsWr, State.mem_rowRead, ← Nat.add_assoc]
  obtain ⟨acc, hclear, hother, hread⟩ := w.clearRow_eq t hsrc (r := r) (by rw [hwtile]; exact hlen)
  rw [hwtile] at hclear hother hread
  obtain ⟨l, f, g, hdone, hl⟩ := State.rowDone_eq (s := w.setTile t { x with acc := acc }) (t := t) (e := e)
    (by rw [State.tile_setTile]; exact hq) (by rw [State.tile_setTile]; exact hrime) data
    (s.epiRow t d (x.accRow r) e.row).2.2
  refine ⟨_, acc, l, f, g, execEpiRow_store hq hstarted hbound hdest hfmt hsrc htag hundo stall, ?_⟩
  rw [← hw, hclear, hdone, State.tile_setTile, State.setTile_setTile, State.tile_setTile]
  exact ⟨hwmem, rfl, fun t' h => (w.tile_setTile_ne _ h).trans (hwtile t'), hl, hother, hread⟩

end
end

/-! ### The refutation -/

/-- Two rows of one column from accumulator row 0 to BF16 at 0x5000, started with BIND set and bound to no pass, whose
first row is the next. -/
def bindUnbound : EpiOp :=
  ⟨⟨3, none, 0, 0⟩, ⟨0xC, 2, 0, false, false, 0, true, 0, 0, 0, 2, 1, 0, 0x3F800000, 0x3F800000, 0, 0x3F800000, 0x5000, 0x40,
    0, 0, 0, 0, false⟩, none, true, 0, false, [], 0⟩

/-- The reset state with that epilogue alone in tile 0's matrix queue. -/
def bindUnboundState : State := State.reset.modTile 0 fun x => { x with matQ := [.epi bindUnbound] }

theorem tile_bindUnboundState : bindUnboundState.tile 0 = { Tile.reset with matQ := [.epi bindUnbound] } := by
  rw [bindUnboundState, State.tile_modTile, State.tile_reset]

theorem accRow_bindUnboundState : (bindUnboundState.tile 0).accRow 0 = .zero := by
  rw [tile_bindUnboundState]
  rfl

theorem acc_bindUnboundState_length : (bindUnboundState.tile 0).acc.length = 2048 := by
  rw [tile_bindUnboundState]
  exact List.length_replicate

/-- Refutes O10: the statement does not ask that BIND be clear. With BIND set and no pass bound the model ignores NR1
(R114, R121) and gives the epilogue no rows, so the first row it is made to do ends it, while two rows are stated. R125
refuses such an epilogue when it starts, so only the state is at fault; `execEpiRow_effect` is the rule with the model's
number of rows. -/
theorem not_epilogueRowIsWritten : ¬ Obligations.EpilogueRowIsWritten := by
  unfold Obligations.EpilogueRowIsWritten
  intro h
  have hq : (bindUnboundState.tile 0).matQ = [.epi bindUnbound] := by rw [tile_bindUnboundState]
  have hrime : (bindUnboundState.tile 0).rime.queue = [] := by rw [tile_bindUnboundState]; rfl
  have htag : ((bindUnboundState.tile 0).accRow 0).tag = .a48 := by rw [accRow_bindUnboundState]; rfl
  have hundo : ((bindUnboundState.tile 0).accRow 0).undo = [] := by rw [accRow_bindUnboundState]; rfl
  have hlen : 0 < (bindUnboundState.tile 0).acc.length := by rw [acc_bindUnboundState_length]; norm_num
  obtain ⟨u, -, hexec, -, -, -, -, hends, -⟩ := h bindUnboundState 0 0 bindUnbound hq rfl rfl (by decide) rfl rfl rfl
    htag hundo hlen hrime
  obtain ⟨u', acc, l, f, g, hexec', -, htile, -, hl, -⟩ :=
    execEpiRow_effect (e := bindUnbound) hq rfl rfl rfl rfl rfl htag hundo 0 hlen hrime
  obtain rfl : u = u' := Outcome.next.inj (hexec.symm.trans hexec')
  have hended : (u.tile 0).matQ = [] := by rw [htile]; exact hl.2 (by decide)
  exact absurd (hends.1 hended) (by decide)

end Sys2Proof.Machine
end

section
/-!
SUPPORT. Host memory behind the PCIe ports: what a read gives after a write, and numbers written as bytes (R9).
-/
namespace Sys2Proof.Machine
open Host

/-! ### Numbers as bytes (R9) -/

@[simp] theorem leBytes_length (k v : Nat) : (leBytes k v).length = k := by
  induction k generalizing v with
  | zero => rfl
  | succ k ih => rw [leBytes, List.length_cons, ih]

theorem two_pow_bytes_succ (k : Nat) : 2 ^ (8 * (k + 1)) = 256 * 2 ^ (8 * k) := by
  rw [Nat.mul_succ, Nat.pow_add, Nat.mul_comm]

theorem leNat_leBytes (k v : Nat) : leNat (leBytes k v) = v % 2 ^ (8 * k) := by
  induction k generalizing v with
  | zero => rw [Nat.mul_zero, Nat.pow_zero, Nat.mod_one]; rfl
  | succ k ih =>
    rw [leBytes, leNat, ih, two_pow_bytes_succ, Nat.mod_mul, BitVec.toNat_ofNat]

theorem leNat_leBytes_of_lt {k v : Nat} (h : v < 2 ^ (8 * k)) : leNat (leBytes k v) = v := by
  rw [leNat_leBytes, Nat.mod_eq_of_lt h]

/-- A stretch of bytes that are a number's reads as that number. -/
theorem leNat_of_eq_leBytes {l : List Byte} {k v : Nat} (h : l = leBytes k v) (hv : v < 2 ^ (8 * k)) : leNat l = v := by
  rw [h, leNat_leBytes_of_lt hv]

theorem leNat_lt (l : List Byte) : leNat l < 2 ^ (8 * l.length) := by
  induction l with
  | nil => exact Nat.one_pos
  | cons b l ih =>
    have hb := b.isLt
    rw [leNat, List.length_cons, two_pow_bytes_succ]
    omega

theorem leAt_lt (l : List Byte) (off k : Nat) : leAt l off k < 2 ^ (8 * k) :=
  (leNat_lt _).trans_le (Nat.pow_le_pow_right two_pos (Nat.mul_le_mul_left 8 (List.length_take_le ..)))

theorem leNat_replicate_zero (n : Nat) : leNat (List.replicate n 0) = 0 := by
  induction n with
  | zero => rfl
  | succ n ih => rw [List.replicate_succ, leNat, ih]; rfl

/-- Piece `i` of pieces of one length. -/
theorem take_drop_flatMap {α β : Type} {f : α → List β} {k : Nat} (hf : ∀ a, (f a).length = k) {l : List α} {i : Nat}
    (h : i < l.length) : ((l.flatMap f).drop (k * i)).take k = f l[i] := by
  induction l generalizing i with
  | nil => cases h
  | cons a l ih =>
    rw [List.flatMap_cons]
    cases i with
    | zero => simp [hf]
    | succ i =>
      have hdrop : k * (i + 1) = (f a).length + k * i := by rw [hf, Nat.mul_succ, Nat.add_comm]
      rw [hdrop, List.drop_length_add_append, ih (Nat.lt_of_succ_lt_succ h)]
      rfl

/-! ### Reading after a write -/

/-- The memory behind a port. -/
def State.hostMem (s : State) (p : PciePort) : List Cell := match p with | .a => s.hostA | .b => s.hostB

theorem State.hostRd_eq (s : State) (p : PciePort) (a n : Nat) :
    s.hostRd p a n = Memory.readBytes 0 (s.hostMem p) a n := rfl

theorem State.hostRd_eq_tab (s : State) (p : PciePort) (a n : Nat) :
    s.hostRd p a n = tab n fun i => Memory.read 0 (s.hostMem p) (a + i) := by
  rw [s.hostRd_eq, Memory.readBytes]
  exact tab_congr fun i hi => Memory.read_window 0 _ a n (a + i) ⟨by omega, by omega⟩

@[simp] theorem State.hostRd_length (s : State) (p : PciePort) (a n : Nat) : (s.hostRd p a n).length = n :=
  Memory.readBytes_length ..

theorem State.hostWr_hostMem (s : State) (p p' : PciePort) (a : Nat) (bs : List Byte) :
    (s.hostWr p a bs).hostMem p' =
      if p' = p then Memory.writeBytes 0 (s.hostMem p) a bs else s.hostMem p' := by
  cases p <;> cases p' <;> rfl

/-- A write of host memory changes that memory only. -/
theorem State.eq_of_eq_hostWr {s u : State} {p : PciePort} {a : Nat} {bs : List Byte}
    (h : u = { s.hostWr p a bs with ouvzu := u.ouvzu, hostA := u.hostA, hostB := u.hostB }) :
    u = { s with ouvzu := u.ouvzu, hostA := u.hostA, hostB := u.hostB } := h.trans (by cases p <;> rfl)

@[simp] theorem State.hostWr_ouvzu (s : State) (p : PciePort) (a : Nat) (bs : List Byte) :
    (s.hostWr p a bs).ouvzu = s.ouvzu := by cases p <;> rfl

@[simp] theorem State.hostWr_gtc (s : State) (p : PciePort) (a : Nat) (bs : List Byte) :
    (s.hostWr p a bs).gtc = s.gtc := by cases p <;> rfl

/-- A stretch of a table. -/
theorem tab_drop_take {α : Type} (f : Nat → α) {m o n : Nat} (h : o + n ≤ m) :
    ((tab m f).drop o).take n = tab n fun i => f (o + i) := by
  apply List.ext_getElem
  · simp [tab]; omega
  · intro i h1 h2; simp [tab]

theorem State.hostRd_part (s : State) (p : PciePort) (a : Nat) {m o n : Nat} (h : o + n ≤ m) :
    ((s.hostRd p a m).drop o).take n = s.hostRd p (a + o) n := by
  rw [s.hostRd_eq_tab, s.hostRd_eq_tab, tab_drop_take _ h]
  simp only [Nat.add_assoc]

/-- Bytes are read back from within what was written. -/
theorem State.hostRd_hostWr_part (s : State) (p : PciePort) (a : Nat) {bs : List Byte} {o n : Nat}
    (h : o + n ≤ bs.length) : (s.hostWr p a bs).hostRd p (a + o) n = (bs.drop o).take n := by
  rw [← State.hostRd_part _ _ _ h]
  congr 2
  rw [State.hostRd_eq, s.hostWr_hostMem, if_pos rfl, Memory.readBytes_writeBytes]

end Sys2Proof.Machine
end

section
/-!
SUPPORT. A command that is the only one fetched: that it runs (R494, R495), and what its commit does to the queues, the
counters and host memory (R486, R489, R494, R496).
-/
namespace Sys2Proof.Machine

/-- `c` is the one fetched command, not yet committed, and came from queue pair `q`; nothing waits for its end. -/
structure State.Sole (s : State) (c : Cmd) (q : QPair) : Prop where
  cmds : s.ouvzu.cmds = [c]
  status : c.status = none
  aborter : c.aborter = []
  sqid : c.sqid = q.id
  lt : q.id < 16384
  queue : s.queue q.id = some q
  port : c.port = some q.port
  closing : s.ouvzu.closing = []

section
variable {s : State} {c : Cmd} {q : QPair}

theorem State.takes.sole {opc : Nat} (h : s.takes c q opc) : s.Sole c q := by
  obtain ⟨⟨hcmds, hstage, hab, hsqid, hlt, hq, hport, hclosing, -⟩, -, -⟩ := h
  exact ⟨hcmds, by simp [Cmd.status, hstage], hab, hsqid, hlt, hq, hport, hclosing⟩

theorem State.executes.sole {opc : Nat} (h : s.executes c q opc) : s.Sole c q := by
  obtain ⟨hcmds, hstage, hab, hsqid, hlt, hq, hport, hclosing, -⟩ := h
  exact ⟨hcmds, by simp [Cmd.status, hstage], hab, hsqid, hlt, hq, hport, hclosing⟩

/-- `Sole` speaks of the Ouvzu's lists only. -/
theorem State.Sole.congr {v : State} (h : s.Sole c q) (hcmds : v.ouvzu.cmds = s.ouvzu.cmds)
    (hqueues : v.ouvzu.queues = s.ouvzu.queues) (hclosing : v.ouvzu.closing = s.ouvzu.closing) : v.Sole c q where
  cmds := hcmds.trans h.cmds
  status := h.status
  aborter := h.aborter
  sqid := h.sqid
  lt := h.lt
  queue := by rw [State.queue, hqueues]; exact h.queue
  port := h.port
  closing := hclosing.trans h.closing

/-! ### Running -/

theorem State.cmd_handle (h : s.ouvzu.cmds = [c]) : s.cmd c.handle = some c := by
  simp [State.cmd, h]

/-- The one fetched command may start. -/
theorem State.mayRun_of_sequenced (h : s.ouvzu.cmds = [c]) (hstage : c.stage = .sequenced) (hopc : c.opc ≠ 0x09) :
    s.mayRun c = true := by
  simp [State.mayRun, h, hstage, hopc]

/-- A command that a queue pair may send, with its arguments in range, does what `f` says. -/
theorem State.runCmd_takes {opc : Nat} (h : s.takes c q opc) (hopc : opc ≠ 0x09) {ok : Cmd → Bool} (hok : ok c = true)
    (f : State → Cmd → State) : s.runCmd c.handle opc ok f = .next (f s c) := by
  obtain ⟨⟨hcmds, hstage, -, hsqid, -, -, -, -, rfl⟩, hres, hadmin⟩ := h
  have hadm : (isAdmin c.opc && !c.admin) = false := by
    cases hi : isAdmin c.opc
    · rfl
    · have := hadmin hi
      simp [Cmd.admin, hsqid, this]
  unfold State.runCmd
  simp [State.cmd_handle hcmds, State.mayRun_of_sequenced hcmds hstage hopc, hadm, hres, hok]

theorem State.onPort_some {p : PciePort} (h : c.port = some p) (f : PciePort → State) : s.onPort c f = f p := by
  rw [State.onPort, h]

/-! ### Committing -/

/-- The command as it stands committed. -/
def Cmd.done (c : Cmd) (status : Nat) (r0 r1 : Word) (now : Word) : Cmd :=
  { c with stage := .committed status r0 r1 (now.setWidth 32) }

/-- Marking the one fetched command committed changes only the Ouvzu's own lists and counts. -/
theorem State.setCommitted_sole (h : s.Sole c q) (status : Nat) (r0 r1 : Word) :
    ∃ o : Ouvzu, s.setCommitted c.handle status r0 r1 = { s with ouvzu := o } ∧
      o.cmds = [c.done status r0 r1 s.gtc.count] ∧ o.nCmds = s.ouvzu.nCmds + 1 ∧ o.queues = s.ouvzu.queues ∧
      o.closing = [] ∧ o.store = s.ouvzu.store := by
  have hfffd : c.sqid ≠ 0xFFFD := by have := h.lt; rw [h.sqid]; omega
  unfold State.setCommitted
  simp only [State.cmd_handle h.cmds, h.status, h.cmds, h.aborter]
  exact ⟨_, rfl, by simp [Cmd.done], by simp [hfffd], rfl, h.closing, rfl⟩

/-- A record of a queue pair goes to its completion queue. -/
theorem State.flush_sole {d : Cmd} (hcmds : s.ouvzu.cmds = [d]) (hdone : d.status.isSome = true) (hsqid : d.sqid = q.id)
    (hlt : q.id < 16384) (hq : s.queue q.id = some q) (hclosing : s.ouvzu.closing = []) :
    s.flush = ({ s with ouvzu := { s.ouvzu with cmds := [], closing := [] } }).cqWrite q d := by
  have hrec : s.recordable d = true := by simp [State.recordable, hdone, hcmds]
  have hids : d.sqid ≠ 0xFFFF ∧ d.sqid ≠ 0xFFFD ∧ d.sqid ≠ 0xFFFE := by rw [hsqid]; omega
  obtain ⟨h1, h2, h3⟩ := hids
  have hq' : (({ s with ouvzu := { s.ouvzu with cmds := [], closing := [] } } : State).queue d.sqid) = some q := by
    rw [hsqid]; exact hq
  rw [State.flush, hcmds, List.length_singleton, State.flushUpTo, hcmds, List.find?_cons_of_pos hrec]
  simp only [State.flushUpTo, State.writeRecord, hcmds, hclosing, List.map_nil, if_neg h1, if_neg h2, if_neg h3]
  simp [hq']

/-- Writing a record changes host memory, and of the Ouvzu the pair's place in its ring and the interrupts. -/
theorem State.cqWrite_eq (s : State) (q : QPair) (d : Cmd) :
    ∃ o : Ouvzu, s.cqWrite q d = { s.hostWr q.port (q.cqBase + 32 * q.cqTail) (d.record q.phase) with ouvzu := o } ∧
      o.cmds = s.ouvzu.cmds ∧ o.nCmds = s.ouvzu.nCmds ∧ o.queues.length = s.ouvzu.queues.length ∧
      o.closing = s.ouvzu.closing ∧ o.store = s.ouvzu.store := by
  unfold State.cqWrite
  dsimp only
  split
  · exact ⟨_, rfl, by simp [State.modQueue]⟩
  · exact ⟨_, rfl, by simp⟩

theorem State.settle_of_closing_nil (h : s.ouvzu.closing = []) : s.settle = s := by
  have hgrants : (s.ouvzu.grants.filter fun g => !(s.portStopped g.port && s.closeQuiet g.port)) = s.ouvzu.grants :=
    List.filter_eq_self.2 fun g _ => by simp [State.portStopped, h]
  rw [State.settle, h, State.revokeClosed, hgrants]
  rfl

/-- The commit of the one fetched command: its record is written, and it is gone and counted. -/
theorem State.commitCmd_sole (h : s.Sole c q) (status : Nat) (r0 r1 : Word) :
    ∃ o : Ouvzu, s.commitCmd c.handle status r0 r1 =
        { s.hostWr q.port (q.cqBase + 32 * q.cqTail) ((c.done status r0 r1 s.gtc.count).record q.phase) with ouvzu := o } ∧
      o.cmds = [] ∧ o.nCmds = s.ouvzu.nCmds + 1 ∧ o.queues.length = s.ouvzu.queues.length ∧ o.store = s.ouvzu.store := by
  obtain ⟨o₁, he₁, hcmds₁, hn₁, hqs₁, hcl₁, hst₁⟩ := State.setCommitted_sole h status r0 r1
  have hq₁ : ({ s with ouvzu := o₁ } : State).queue q.id = some q := by
    rw [State.queue, hqs₁]; exact h.queue
  have hflush := State.flush_sole (s := { s with ouvzu := o₁ }) (q := q) hcmds₁ rfl h.sqid h.lt hq₁ hcl₁
  obtain ⟨o₂, he₂, hcmds₂, hn₂, hqs₂, hcl₂, hst₂⟩ :=
    State.cqWrite_eq { s with ouvzu := { o₁ with cmds := [], closing := [] } } q (c.done status r0 r1 s.gtc.count)
  refine ⟨o₂, ?_, hcmds₂, hn₂.trans hn₁, hqs₂.trans (congrArg _ hqs₁), hst₂.trans hst₁⟩
  rw [State.commitCmd, he₁, hflush, he₂, State.settle_of_closing_nil hcl₂]
  cases q.port <;> rfl

theorem Cmd.record_done_length (c : Cmd) (status : Nat) (r0 r1 now : Word) (phase : Bool) :
    ((c.done status r0 r1 now).record phase).length = 32 := by
  simp [Cmd.record, Cmd.done]

/-- Host memory after the commit is host memory after its record is written. -/
theorem State.commitCmd_hostMem (h : s.Sole c q) (status : Nat) (r0 r1 : Word) (p : PciePort) :
    (s.commitCmd c.handle status r0 r1).hostMem p = (s.hostWr q.port (q.cqBase + 32 * q.cqTail)
      ((c.done status r0 r1 s.gtc.count).record q.phase)).hostMem p := by
  obtain ⟨o, he, -⟩ := State.commitCmd_sole h status r0 r1
  rw [he]
  rfl

/-- The commit leaves the record that R489 describes. -/
theorem State.commitCmd_records (h : s.Sole c q) {status : Nat} (hstatus : status < 2 ^ 16) (r0 r1 : Word) :
    s.records (s.commitCmd c.handle status r0 r1) c q status r0 r1 := by
  have hfield {off n v : Nat} (hoff : off + n ≤ 32) (hv : v < 2 ^ (8 * n))
      (hpart : (((c.done status r0 r1 s.gtc.count).record q.phase).drop off).take n = leBytes n v) :
      leNat ((s.commitCmd c.handle status r0 r1).hostRd q.port (q.cqBase + 32 * q.cqTail + off) n) = v := by
    refine leNat_of_eq_leBytes (Eq.trans ?_ hpart) hv
    rw [← State.hostRd_hostWr_part s q.port (q.cqBase + 32 * q.cqTail)
      (hoff.trans_eq (c.record_done_length status r0 r1 s.gtc.count q.phase).symm), State.hostRd_eq_tab,
      State.commitCmd_hostMem h, ← State.hostRd_eq_tab]
  obtain ⟨o, he, hcmds, hn, hqs, -⟩ := State.commitCmd_sole h status r0 r1
  have hid : q.id < 2 ^ (8 * 2) := h.lt.trans (by norm_num)
  have hsqid : leBytes 2 c.sqid = leBytes 2 q.id := by rw [h.sqid]
  have hgtc : s.gtc.count.toNat % 2 ^ 32 < 2 ^ (8 * 4) := Nat.mod_lt _ (by norm_num)
  exact ⟨he ▸ hcmds, he ▸ hn, hfield (off := 0) (by omega) (leAt_lt ..) rfl, hfield (by omega) hstatus rfl,
    hfield (by omega) hid hsqid, hfield (by omega) r0.isLt rfl, hfield (by omega) r1.isLt rfl,
    hfield (by omega) hgtc rfl, hfield (by omega) (by cases q.phase <;> decide) rfl, he ▸ hqs⟩

/-- The commit changes no byte of host memory but the record's. -/
theorem State.commitCmd_onlyRecord (h : s.Sole c q) (status : Nat) (r0 r1 : Word) :
    s.onlyRecord (s.commitCmd c.handle status r0 r1) q := by
  intro p a hpa
  change Memory.read 0 ((s.commitCmd c.handle status r0 r1).hostMem p) a = Memory.read 0 (s.hostMem p) a
  rw [State.commitCmd_hostMem h, State.hostWr_hostMem]
  split
  case isTrue hp =>
    have hapart := hpa.resolve_left (not_not.2 hp)
    rw [Memory.read_writeBytes, Cmd.record_done_length, if_neg (by omega), hp]
  case isFalse => rfl

/-- The commit changes nothing but the Ouvzu and host memory, and no held message. -/
theorem State.commitCmd_frame (h : s.Sole c q) (status : Nat) (r0 r1 : Word) :
    let u := s.commitCmd c.handle status r0 r1
    u = { s with ouvzu := u.ouvzu, hostA := u.hostA, hostB := u.hostB } ∧ u.ouvzu.store = s.ouvzu.store := by
  obtain ⟨o, he, -, -, -, hstore⟩ := State.commitCmd_sole h status r0 r1
  intro u
  rw [show u = _ from he]
  exact ⟨by cases q.port <;> rfl, hstore⟩

theorem State.hostRd_of_onlyRecord {u : State} (h : s.onlyRecord u q) {a n : Nat}
    (hapart : a + n ≤ q.cqBase + 32 * q.cqTail ∨ q.cqBase + 32 * q.cqTail + 32 ≤ a) (p : PciePort) :
    u.hostRd p a n = s.hostRd p a n := by
  rw [u.hostRd_eq_tab, s.hostRd_eq_tab]
  exact tab_congr fun i hi => h p (a + i) (by omega)

end
end Sys2Proof.Machine
end

section
/-!
SUPPORT. IDENTIFY, REGREAD and PIVSEARCH (R490), MSGSEND and MSGRECV (R508, R509) and the arrival of a message, each by
what it does where its command is the only one fetched; and the obligation they settle.
-/
namespace Sys2Proof.Machine

/-! ### A commit after a write of host memory -/

section
variable {s : State} {c : Cmd} {q : QPair}

/-- A result is written to host memory, apart from the record, and its command commits. -/
theorem State.commitCmd_hostWr (h : s.Sole c q) {status : Nat} (hstatus : status < 2 ^ 16) (r0 r1 : Word) {a : Nat}
    {bs : List Byte} (hapart : a + bs.length ≤ q.cqBase + 32 * q.cqTail ∨ q.cqBase + 32 * q.cqTail + 32 ≤ a) :
    let u := (s.hostWr q.port a bs).commitCmd c.handle status r0 r1
    s.records u c q status r0 r1 ∧
      (∀ o n, o + n ≤ bs.length → u.hostRd q.port (a + o) n = (bs.drop o).take n) ∧
      u = { s with ouvzu := u.ouvzu, hostA := u.hostA, hostB := u.hostB } ∧ u.ouvzu.store = s.ouvzu.store := by
  have hsole : (s.hostWr q.port a bs).Sole c q := h.congr (by simp) (by simp) (by simp)
  obtain ⟨hu, hstore⟩ := State.commitCmd_frame hsole status r0 r1
  have hrec := State.commitCmd_records hsole hstatus r0 r1
  simp only [State.records, State.hostWr_ouvzu, State.hostWr_gtc] at hrec
  refine ⟨hrec, fun o n hon => ?_, State.eq_of_eq_hostWr hu, by simpa using hstore⟩
  rw [State.hostRd_of_onlyRecord (State.commitCmd_onlyRecord hsole status r0 r1) (by omega),
    s.hostRd_hostWr_part q.port a hon]

end

/-! ### IDENTIFY, REGREAD, PIVSEARCH -/

section
variable {s : State} {c : Cmd} {q : QPair}

theorem State.identifyBlock_length (s : State) (p : PciePort) : (s.identifyBlock p).length = 4096 := by
  simp only [State.identifyBlock, List.length_append, leBytes_length, List.length_replicate]

theorem execIdentify_takes (h : s.takes c q 0x01) : exec (.identify c.handle true) s =
    .next ((s.hostWr q.port (c.arg 8 8) (s.identifyBlock q.port)).commitCmd c.handle 0 0 0) := by
  change execIdentify c.handle true s = _
  rw [execIdentify, State.runCmd_takes h (by decide) rfl, State.onPort_some h.sole.port, if_pos rfl]

/-- The list entry that REGREAD finds at place `i` (R490). -/
def State.listEntry (s : State) (c : Cmd) (p : PciePort) (i : Nat) : Word :=
  BitVec.ofNat 64 (leNat (s.hostRd p (c.arg 8 8 + 8 * i) 8))

/-- The values of a REGREAD's list. -/
def State.listValues (s : State) (c : Cmd) (p : PciePort) : List (Option Nat) :=
  tab (c.arg 24 2) fun i => s.readEntry (s.listEntry c p i)

theorem State.listValues_any_isNone (s : State) (c : Cmd) (p : PciePort) :
    (s.listValues c p).any Option.isNone = true ↔ ∃ i < c.arg 24 2, s.readEntry (s.listEntry c p i) = none := by
  simp [State.listValues, tab]

/-- The bytes REGREAD writes. -/
def State.listBytes (s : State) (c : Cmd) (p : PciePort) : List Byte :=
  (s.listValues c p).flatMap fun v => leBytes 8 (v.getD 0)

theorem State.listBytes_length (s : State) (c : Cmd) (p : PciePort) : (s.listBytes c p).length = 8 * c.arg 24 2 := by
  simp [State.listBytes, List.length_flatMap, State.listValues, tab_length, Nat.mul_comm]

theorem State.listBytes_part {s : State} {c : Cmd} {p : PciePort} {i v : Nat} (hi : i < c.arg 24 2)
    (hv : s.readEntry (s.listEntry c p i) = some v) : ((s.listBytes c p).drop (8 * i)).take 8 = leBytes 8 v := by
  rw [State.listBytes, take_drop_flatMap (fun _ => leBytes_length ..) (by rwa [State.listValues, tab_length])]
  simp [State.listValues, tab, hv]

theorem State.listValues_eq (s : State) (c : Cmd) (p : PciePort) : (tab (c.arg 24 2) fun i => s.readEntry (BitVec.ofNat 64
    (leAt (s.hostRd p (c.arg 8 8) (8 * c.arg 24 2)) (8 * i) 8))) = s.listValues c p :=
  tab_congr fun i hi => by rw [leAt, s.hostRd_part p _ (by omega)]; rfl

theorem execRegread_takes (h : s.takes c q 0x17) (hlo : 1 ≤ c.arg 24 2) (hhi : c.arg 24 2 ≤ 512) :
    exec (.regread c.handle true) s = .next (
      if (s.listValues c q.port).any Option.isNone then s.commitCmd c.handle 0x12 0 0
      else (s.hostWr q.port (c.arg 16 8) (s.listBytes c q.port)).commitCmd c.handle 0 0 0) := by
  change execRegread c.handle true s = _
  rw [execRegread, State.runCmd_takes h (by decide) (by simp [within, hlo, hhi]), State.onPort_some h.sole.port]
  simp only [State.listValues_eq, Bool.not_true, Bool.false_eq_true, if_false, State.listBytes]

/-- The elements of a PIVSEARCH, in their order. -/
def State.pivCands (s : State) (c : Cmd) : List Cand :=
  let at_ (i : Nat) : Nat := c.arg 8 8 + i * c.arg 20 4
  let code (i : Nat) : Nat := leNat (s.serRd (at_ i) (elemBytes (c.arg 24 1) 1))
  (List.range (c.arg 16 4)).map fun i => ⟨(fmtOf (c.arg 24 1)).decode (code i), code i, i⟩

theorem execPivsearch_takes (h : s.takes c q 0x18) (hn : 1 ≤ c.arg 16 4) (hfmt : c.arg 24 1 ≤ 1) (hmode : c.arg 25 1 ≤ 3)
    (hhbm : ∀ i < c.arg 16 4, s.inHbm (c.arg 8 8 + i * c.arg 20 4) (elemBytes (c.arg 24 1) 1) = true)
    {b : Cand} {rest : List Cand}
    (hbest : topRanked ((c.arg 25 1).testBit 0) ((c.arg 25 1).testBit 1) false 1 (s.pivCands c) = b :: rest) :
    exec (.pivsearch c.handle) s = .next (s.commitCmd c.handle (if b.v.isNan then 1 else 0) (BitVec.ofNat 64 b.code)
      (BitVec.ofNat 64 b.pos)) := by
  have hin : ((List.range (c.arg 16 4)).any fun i =>
      !s.inHbm (c.arg 8 8 + i * c.arg 20 4) (elemBytes (c.arg 24 1) 1)) = false := by
    simpa using hhbm
  change execPivsearch c.handle s = _
  rw [execPivsearch, State.runCmd_takes h (by decide) (by simp [pivOk, hn, hfmt, hmode])]
  rw [State.pivCands] at hbest
  simp only [hin, hbest, Bool.false_eq_true, if_false]

/-! ### Messages -/

theorem pktCredits_of_no_masks {p : Packet} (h : p.masks = []) : pktCredits p = cdiv (16 + p.payload.length) 64 := by
  simp only [pktCredits, pktBytes, h, List.flatMap_nil, List.length_append, leBytes_length, List.length_cons,
    List.length_nil, List.length_replicate]
  congr 1

/-- A packet enters an injection queue that is empty, not throttled and not filled by it. -/
theorem State.unschedInject_of_empty {d : Die} {p : Packet} (hthr : (s.router d).throttling = false)
    (hempty : (s.router d).injQ = []) (hroom : pktCredits p ≤ 256) (hfill : pktCredits p ≤ 16 * (s.router d).thr.toNat) :
    s.unschedInject d p = some (s.modRouter d fun r => { r.takeNet p with injQ := [p] }) := by
  have hocc : (s.router d).occupancy = 0 := by simp [Router.occupancy, hempty]
  rw [State.unschedInject]
  simp only [hthr, hocc, Nat.zero_add, Nat.not_lt.2 hroom, Nat.not_lt.2 hfill, decide_false, Bool.or_self,
    Bool.false_eq_true, if_false, Option.some.injEq]
  exact State.modRouter_congr (by rw [Router.takeNet, hempty]; rfl)

/-- The packet of a MSGSEND (R508). -/
def State.msgPacket (s : State) (c : Cmd) (p : PciePort) : Packet where
  dst := (BitVec.ofNat 27 (c.arg 16 4)).setWidth 32
  src := s.routers[0].self.setWidth 32
  ctl := 1
  ept := s.routers[0].epoch.setWidth 8
  tag := BitVec.ofNat 32 (c.arg 20 2 * 2 ^ 18 + (s.msgSeqTo (BitVec.ofNat 27 (c.arg 16 4))).toNat)
  masks := []
  payload := s.hostRd p (c.arg 8 8) (c.arg 22 2)

theorem State.msgPacket_dst {s : State} {c : Cmd} (h : c.arg 16 4 < 2 ^ 27) (p : PciePort) :
    (pktDst (s.msgPacket c p)).toNat = c.arg 16 4 := by
  simp only [State.msgPacket, pktDst, BitVec.toNat_setWidth, BitVec.toNat_ofNat]
  omega

theorem State.msgPacket_src (s : State) (c : Cmd) (p : PciePort) : pktSrc (s.msgPacket c p) = s.routers[0].self := by
  simp [State.msgPacket, pktSrc]

/-- The tag names the queue above the message's sequence. -/
theorem State.msgPacket_tag {s : State} {c : Cmd} (h : c.arg 20 2 < 16384) (p : PciePort) :
    (s.msgPacket c p).tag.toNat / 2 ^ 18 = c.arg 20 2 := by
  have hseq := (s.msgSeqTo (BitVec.ofNat 27 (c.arg 16 4))).isLt
  simp only [State.msgPacket, BitVec.toNat_ofNat]
  omega

/-- `s` with a packet alone in an injection queue, and the message sequences `l`. -/
def State.injecting (s : State) (d : Die) (p : Packet) (l : List (ChipAddr × BitVec 18)) : State :=
  { s.modRouter d fun r => { r.takeNet p with injQ := [p] } with ouvzu := { s.ouvzu with msgSeq := l } }

theorem State.injQ_injecting (s : State) (d : Die) (p : Packet) (l : List (ChipAddr × BitVec 18)) :
    ((s.injecting d p l).router d).injQ = [p] :=
  congrArg Router.injQ (s.router_modRouter d fun r => { r.takeNet p with injQ := [p] })

/-- The packet of a MSGSEND joins an injection queue with room for it, and the command commits. -/
theorem execMsgsend_takes (h : s.takes c q 0x19) (hdst : c.arg 16 4 < 2 ^ 27) (hdq : c.arg 20 2 < 16384)
    (hlo : 16 ≤ c.arg 22 2) (hhi : c.arg 22 2 ≤ 960) (hmult : c.arg 22 2 % 16 = 0)
    (hfree : ∀ d, (s.router d).throttling = false ∧ (s.router d).injQ = [] ∧ 16 ≤ 16 * (s.router d).thr.toNat) :
    ∃ d l, exec (.msgsend c.handle true) s =
      .next ((s.injecting d (s.msgPacket c q.port) l).commitCmd c.handle 0 0 0) := by
  have hcredits : pktCredits (s.msgPacket c q.port) ≤ 16 := by
    rw [pktCredits_of_no_masks rfl, State.msgPacket, State.hostRd_length, cdiv]
    omega
  have hinj (d : Die) : s.unschedInject d (s.msgPacket c q.port) = _ :=
    State.unschedInject_of_empty (hfree d).1 (hfree d).2.1 (hcredits.trans (by omega)) (hcredits.trans (hfree d).2.2)
  have hok : msgOk c = true := by
    simp only [msgOk, within, Bool.and_eq_true, decide_eq_true_eq, beq_iff_eq]
    omega
  change ∃ d l, execMsgsend c.handle true s = _
  rw [execMsgsend, State.runCmd_takes h (by decide) hok, State.onPort_some h.sole.port]
  simp only [Bool.not_true, Bool.false_eq_true, if_false]
  rw [State.msgPacket] at hinj
  simp only [hinj]
  exact ⟨_, _, rfl⟩

/-- A packet that no router holds is taken from none. -/
theorem State.takeMsg_of_not_held (h : ∀ d, (s.router d).unsched = [] ∧ (s.router d).delivered = []) (p : Packet) :
    s.takeMsg p = s := by
  have hsame (d : Die) : (s.modRouter d fun r => { r with delivered := r.delivered.erase p, unsched := r.unsched }) = s :=
    (State.modRouter_congr (g := fun r => r) (by rw [(h d).2, List.erase_nil, ← (h d).2])).trans (s.modRouter_id d)
  simp [State.takeMsg, (h _).1, hsame]

theorem State.Sole.msgQueue (h : s.Sole c q) : c.msgQueue = q.id := by
  have hlt := h.lt
  rw [Cmd.msgQueue, if_neg (by rw [h.sqid]; omega), h.sqid]

/-- A message that the host takes stands in the buffer, and the record names its source, length and sequence. -/
theorem State.deliverMsg_records (h : s.Sole c q) (m : HeldMsg)
    (hapart : c.arg 8 8 + m.data.length ≤ q.cqBase + 32 * q.cqTail ∨ q.cqBase + 32 * q.cqTail + 32 ≤ c.arg 8 8) :
    let u := s.deliverMsg c m true
    s.records u c q 0 (BitVec.ofNat 64 (m.src.toNat + m.data.length * 2 ^ 32)) (m.seq.setWidth 64) ∧
      u.hostRd q.port (c.arg 8 8) m.data.length = m.data ∧ u.ouvzu.store = s.ouvzu.store := by
  obtain ⟨hrec, hread, -, hstore⟩ := State.commitCmd_hostWr h (status := 0) (by norm_num)
    (BitVec.ofNat 64 (m.src.toNat + m.data.length * 2 ^ 32)) (m.seq.setWidth 64) hapart
  rw [State.deliverMsg, h.port]
  exact ⟨hrec, (hread 0 m.data.length (by omega)).trans List.take_length, hstore⟩

theorem State.deliverMsg_refused (h : s.Sole c q) (m : HeldMsg) :
    s.deliverMsg c m false = s.commitCmd c.handle 0x17 0 0 := by
  rw [State.deliverMsg, h.port]
  rfl

theorem execMsgrecv_held (h : s.takes c q 0x1A) {m : HeldMsg} {rest : List HeldMsg} (hstore : s.ouvzu.store = m :: rest)
    (hdq : m.dqid = q.id) (ok : Bool) :
    exec (.msgrecv ⟨c.handle, ok⟩) s = .next ({ s with ouvzu := { s.ouvzu with store := rest } }.deliverMsg c m ok) := by
  have hfind : (s.ouvzu.store.find? fun m => m.dqid == c.msgQueue) = some m := by
    rw [hstore, List.find?_cons_of_pos (by simp [h.sole.msgQueue, hdq])]
  change execMsgrecv ⟨c.handle, ok⟩ s = _
  rw [execMsgrecv, State.runCmd_takes h (by decide) rfl, State.onPort_some h.sole.port, hfind]
  simp only [hstore, List.erase_cons_head]

theorem execMsgrecv_waits (h : s.takes c q 0x1A) (hstore : s.ouvzu.store = []) (ok : Bool) :
    exec (.msgrecv ⟨c.handle, ok⟩) s =
      .next { s with ouvzu := { s.ouvzu with cmds := [{ c with stage := .executing }] } } := by
  change execMsgrecv ⟨c.handle, ok⟩ s = _
  rw [execMsgrecv, State.runCmd_takes h (by decide) rfl, State.onPort_some h.sole.port, hstore, List.find?_nil]
  simp [State.executing, State.modCmd, h.sole.cmds]

theorem bits_eq_fieldAt {n : Nat} (w : BitVec n) (lo len : Nat) : bits w lo len = fieldAt w.toNat lo len := by
  rw [bits, fieldAt, Nat.shiftRight_eq_div_pow]

/-- A message as the CP keeps it. -/
def heldOf (p : Packet) : HeldMsg := ⟨pktSrc p, bits p.tag 18 14, p.tag.setWidth 18, p.payload⟩

theorem heldOf_seq (p : Packet) : (heldOf p).seq.setWidth 64 = BitVec.ofNat 64 (p.tag.toNat % 2 ^ 18) := by
  apply BitVec.eq_of_toNat_eq
  simp [heldOf]

section
variable {p : Packet} (hwf : p.WellFormed = true) (hclass : pktClass p = 1) (hdst : pktDst p = s.routers[0].self)
  (hheld : ∀ d, (s.router d).unsched = [] ∧ (s.router d).delivered = [])
include hwf hclass hdst hheld

theorem execMsgArrive_no_queue (hq : s.queue (bits p.tag 18 14) = none) (ok : Bool) :
    exec (.msgArrive ⟨p, ok⟩) s = .next { s with ouvzu := { s.ouvzu with nMsgdrop := s.ouvzu.nMsgdrop + 1 } } := by
  change execMsgArrive ⟨p, ok⟩ s = _
  simp [execMsgArrive, hwf, hclass, hdst, State.takeMsg_of_not_held hheld, hq]

theorem execMsgArrive_stored (hq : s.queue (bits p.tag 18 14) = some q) (hcmds : s.ouvzu.cmds = [])
    (hroom : (s.ouvzu.store.map (·.data.length)).sum + p.payload.length ≤ 262144) (ok : Bool) :
    exec (.msgArrive ⟨p, ok⟩) s = .next { s with ouvzu := { s.ouvzu with store := s.ouvzu.store ++ [heldOf p] } } := by
  change execMsgArrive ⟨p, ok⟩ s = _
  simp [execMsgArrive, hwf, hclass, hdst, State.takeMsg_of_not_held hheld, hq, hcmds, hroom, heldOf]

theorem execMsgArrive_awaited (h : s.executes c q 0x1A) (hid : q.id = bits p.tag 18 14) (ok : Bool) :
    exec (.msgArrive ⟨p, ok⟩) s = .next (s.deliverMsg c (heldOf p) ok) := by
  obtain ⟨hcmds, hstage, -, -, -, hq, -, -, hopc⟩ := id h
  have hmine : c.msgQueue = bits p.tag 18 14 := h.sole.msgQueue.trans hid
  rw [hid] at hq
  change execMsgArrive ⟨p, ok⟩ s = _
  simp [execMsgArrive, hwf, hclass, hdst, State.takeMsg_of_not_held hheld, hq, hcmds, hmine, hstage, hopc, heldOf]

end

end

/-- Settles O36: each command's effect on the state where it is the only one fetched, then its commit, whose record and
the bytes written before it lie apart. -/
theorem informationAndMessageCommands : Obligations.InformationAndMessageCommands := by
  unfold Obligations.InformationAndMessageCommands
  intro s c q handle k
  refine ⟨fun h hapart => ?identify, fun h hlo hhi hapart => ⟨fun hall => ?values, fun hnone => ?noValue⟩,
    fun h hn hfmt hmode hhbm b rest hbest => ?pivsearch, fun h hdst hdq hlo hhi hmult hfree => ?msgsend,
    fun m rest h hstore hdq hapart hlen => ?held, fun m rest h hstore hdq => ?refused, fun ok h hstore => ?waits,
    fun pkt hwf hclass hdst hheld => ⟨fun ok hq => ?dropped, fun ok hq hcmds hroom => ?stored,
      fun h hid hapart => ?awaited⟩⟩
  case identify =>
    obtain ⟨hrec, hread, hu, -⟩ := State.commitCmd_hostWr h.sole (status := 0) (by norm_num) 0 0
      (bs := s.identifyBlock q.port) (by rw [s.identifyBlock_length]; exact hapart)
    rw [s.identifyBlock_length] at hread
    have hfield {o n v : Nat} (hon : o + n ≤ 4096) (hv : v < 2 ^ (8 * n))
        (hpart : ((s.identifyBlock q.port).drop o).take n = leBytes n v) :=
      leNat_of_eq_leBytes ((hread o n hon).trans hpart) hv
    have hzeros : ((s.identifyBlock q.port).drop 24).take 4072 = List.replicate 4072 0 :=
      List.take_of_length_le (by rw [List.length_drop, s.identifyBlock_length])
    exact ⟨_, execIdentify_takes h, hrec, hfield (o := 0) (by norm_num) (by norm_num) rfl,
      hfield (by norm_num) (by norm_num) rfl, hfield (by norm_num) (by cases q.port <;> decide) rfl,
      hfield (by norm_num) (s.routers[0].self.isLt.trans (by norm_num)) rfl, hfield (by norm_num) (by norm_num) rfl,
      hfield (by norm_num) (by norm_num) rfl, hfield (by norm_num) (by norm_num) rfl,
      (congrArg leNat ((hread 24 4072 (by norm_num)).trans hzeros)).trans (leNat_replicate_zero 4072), hu⟩
  case values =>
    obtain ⟨hrec, hread, hu, -⟩ := State.commitCmd_hostWr h.sole (status := 0) (by norm_num) 0 0
      (bs := s.listBytes c q.port) (by rw [s.listBytes_length]; exact hapart)
    rw [s.listBytes_length] at hread
    have hexec := execRegread_takes h hlo hhi
    rw [if_neg fun hnone => ?_] at hexec
    · refine ⟨_, hexec, hrec, fun i hi v hv => ?_, hu⟩
      rw [hread (8 * i) 8 (by omega), State.listBytes_part hi hv, leNat_leBytes]
    · obtain ⟨i, hi, hnone⟩ := (s.listValues_any_isNone c q.port).1 hnone
      exact Option.isSome_iff_ne_none.1 (hall i hi) hnone
  case noValue =>
    have hexec := execRegread_takes h hlo hhi
    rw [if_pos ((s.listValues_any_isNone c q.port).2 hnone)] at hexec
    exact ⟨_, hexec, State.commitCmd_records h.sole (by norm_num) 0 0, State.commitCmd_onlyRecord h.sole 0x12 0 0⟩
  case pivsearch =>
    exact ⟨_, execPivsearch_takes h hn hfmt hmode hhbm hbest, State.commitCmd_records h.sole (by split <;> norm_num) _ _,
      State.commitCmd_onlyRecord h.sole _ _ _, (State.commitCmd_frame h.sole _ _ _).1⟩
  case msgsend =>
    obtain ⟨d, l, hexec⟩ := execMsgsend_takes h hdst hdq hlo hhi hmult hfree
    have hsole : (s.injecting d (s.msgPacket c q.port) l).Sole c q := h.sole.congr rfl rfl rfl
    obtain ⟨hu, -⟩ := State.commitCmd_frame hsole 0 0 0
    have hinj := (congrArg (fun v => (State.router v d).injQ) hu).trans (s.injQ_injecting d _ l)
    exact ⟨_, d, s.msgPacket c q.port, hexec, State.commitCmd_records hsole (by norm_num) 0 0, hinj, rfl,
      State.msgPacket_dst hdst q.port, s.msgPacket_src c q.port, rfl, State.msgPacket_tag hdq q.port,
      (congrArg State.mem hu).trans rfl, (congrArg State.tiles hu).trans rfl⟩
  case held =>
    have hsole : State.Sole { s with ouvzu := { s.ouvzu with store := rest } } c q := h.sole.congr rfl rfl rfl
    exact ⟨_, execMsgrecv_held h hstore hdq true, State.deliverMsg_records hsole m hapart⟩
  case refused =>
    have hsole : State.Sole { s with ouvzu := { s.ouvzu with store := rest } } c q := h.sole.congr rfl rfl rfl
    refine ⟨_, execMsgrecv_held h hstore hdq false, ?_⟩
    rw [State.deliverMsg_refused hsole]
    exact ⟨State.commitCmd_records hsole (by norm_num) 0 0, State.commitCmd_onlyRecord hsole 0x17 0 0⟩
  case waits => exact ⟨_, execMsgrecv_waits h hstore ok, rfl⟩
  case dropped => exact ⟨_, execMsgArrive_no_queue hwf hclass hdst hheld (by rwa [bits_eq_fieldAt]) ok, rfl, rfl⟩
  case stored =>
    exact ⟨_, execMsgArrive_stored hwf hclass hdst hheld (by rwa [bits_eq_fieldAt]) hcmds hroom ok,
      by rw [heldOf, bits_eq_fieldAt]; rfl⟩
  case awaited =>
    have hexec := execMsgArrive_awaited hwf hclass hdst hheld h (hid.trans (bits_eq_fieldAt ..).symm) true
    obtain ⟨hrec, hread, -⟩ := State.deliverMsg_records h.sole (heldOf pkt) hapart
    exact ⟨_, hexec, heldOf_seq pkt ▸ hrec, hread⟩

end Sys2Proof.Machine
end

section
/-!
SUPPORT. The rime unit's instructions (R134 to R137, R150 to R152, R158): a slot of a tile, an instruction that joins an
empty queue and may run, and what RCFG, RBIND and RDRAIN then do.
-/
namespace Sys2Proof.Machine

/-! ### A slot of a tile -/

/-- A tile with slot `k` of its rime unit replaced. -/
def Tile.setSlot (x : Tile) (k : Fin 4) (l : Slot) : Tile :=
  { x with rime := { x.rime with slots := x.rime.slots.set k l } }

theorem Tile.setSlot_same (x : Tile) (k : Fin 4) (l : Slot) : (x.setSlot k l).rime.slots[k] = l := by
  simp [Tile.setSlot]

theorem Tile.setSlot_other (x : Tile) {k i : Fin 4} (l : Slot) (h : i ≠ k) :
    (x.setSlot k l).rime.slots[i] = x.rime.slots[i] := by
  have h' : k.val ≠ i.val := fun e => h (Fin.ext e.symm)
  simp [Tile.setSlot, h']

theorem State.modSlot_eq (s : State) (t : TileId) (k : Fin 4) (f : Slot → Slot) :
    s.modSlot t k f = s.modTile t fun x => x.setSlot k (f x.rime.slots[k]) := rfl

/-- A committed rime operation sets its flags, and is carried into the tile's digest. -/
theorem State.emit_rime_setTile (s : State) (t : TileId) (x : Tile) (b : List Byte) (flags : Flags) :
    ∃ f g, (s.setTile t x).emit t none (.op .rime b flags 0) = s.setTile t { x with fpstat := f, digests := g } := by
  simp only [State.emit, State.commitEv, State.digestOp_eq, State.modTile_modTile]
  rw [State.modTile, State.tile_setTile, State.setTile_setTile]
  exact ⟨_, _, rfl⟩

/-! ### The queue -/

/-- With no stream row waiting behind the queue, none is taken. -/
theorem State.rimeFlush_of_late_nil {s : State} {t : TileId} (h : (s.tile t).rime.late = []) : s.rimeFlush t = s := by
  have hkeep : { s.tile t with rime := { (s.tile t).rime with late := [] } } = s.tile t := by rw [← h]
  simp [State.rimeFlush, State.modTile, h, hkeep]

/-- A tile whose rime queue holds `l`. -/
def Tile.queueing (x : Tile) (l : List RimeOp) : Tile := { x with rime := { x.rime with queue := l } }

theorem Tile.queueing_nil {x : Tile} (h : x.rime.queue = []) : x.queueing [] = x := by rw [← h]; rfl

/-- The one instruction of the queue executes when its waits are satisfied (R245). -/
theorem State.rimeGo_of_queue_single {s : State} {t : TileId} {o : RimeOp} (hq : (s.tile t).rime.queue = [o])
    (hstores : (s.tile t).seq.stores = []) (hdeliver : (s.tile t).seq.deliver = [])
    (hw : (s.tile t).waitsDone o.hdr.wait o.hdr.id = true) :
    s.rimeGo t = ((s.setTile t ((s.tile t).queueing [])).rimeExec t o).rimeFlush t := by
  simp [State.rimeGo, State.rimeUpTo, hq, State.drainStores_of_stores_nil hstores, Tile.mayStart_of_deliver_nil hdeliver hw,
    State.storesAllow_of_stores_nil hstores, Tile.queueing, State.modTile]

/-- An operation that waits in the rime queue does not wait for itself. -/
theorem Tile.waitsDone_queueing {x : Tile} (hq : x.rime.queue = []) (mask : BitVec 4) (o : RimeOp) (r : Seq)
    (g : Vector Digest 6) :
    Tile.waitsDone { x.queueing [o] with seq := r, digests := g } mask o.hdr.id = x.waitsDone mask o.hdr.id := by
  have hbusy (c : Nat) :
      Tile.classBusy { x.queueing [o] with seq := r, digests := g } c o.hdr.id = x.classBusy c o.hdr.id := by
    match c with
    | 0 | 1 | _ + 3 => rfl
    | 2 => simp [Tile.classBusy, Tile.queueing, hq]
  simp [Tile.waitsDone, hbusy]

section
variable {s : State} {t : TileId} {wait : BitVec 4} (hstores : (s.tile t).seq.stores = [])
  (hdeliver : (s.tile t).seq.deliver = []) (hqueue : (s.tile t).rime.queue = [])
  (hw : (s.tile t).waitsDone wait (s.tile t).seq.nextId = true)
include hstores hdeliver hqueue hw

/-- An instruction that finds the queue empty and nothing to wait for executes in the step of its issue. The spec does not
fix this moment; it is the model's choice (log 27). -/
theorem State.pushRime_executes (i : RimeIns) :
    let x := s.tile t
    ∃ r g, s.pushRime t wait i =
        ((s.setTile t { x with seq := r, digests := g }).rimeExec t ⟨x.seq.hdr wait, i⟩).rimeFlush t ∧
      x.seq.passed r (x.seq.pc + 8) ∧ x.seq.likeBut r := by
  intro x
  let o : RimeOp := ⟨x.seq.hdr wait, i⟩
  obtain ⟨r, g, hretire, hpassed, hlike⟩ := (s.setTile t (x.queueing [o])).retireNext_passed t []
  rw [State.tile_setTile] at hretire hpassed hlike
  rw [State.setTile_setTile] at hretire
  refine ⟨r, g, ?_, hpassed, hlike⟩
  have hpush : s.pushRime t wait i = ((s.setTile t (x.queueing (x.rime.queue ++ [o]))).retireNext t []).rimeGo t := rfl
  rw [hpush, hqueue, List.nil_append, hretire, State.rimeGo_of_queue_single (o := o)]
  · rw [State.tile_setTile, State.setTile_setTile]
    exact congrArg (fun y => ((s.setTile t y).rimeExec t o).rimeFlush t)
      (Tile.queueing_nil (x := { x with seq := r, digests := g }) hqueue)
  · rw [State.tile_setTile]; rfl
  · rw [State.tile_setTile, hlike]; exact hstores
  · rw [State.tile_setTile, hlike]; exact hdeliver
  · rw [State.tile_setTile]
    exact (Tile.waitsDone_queueing hqueue wait o r g).trans hw

/-- If its execution turns the tile into `y` whatever the sequencer is, its issue does so and passes it. -/
theorem State.pushRime_next {i : RimeIns} {y : Tile} (hlate : y.rime.late = [])
    (hexec : ∀ r g, ∃ f g', (s.setTile t { s.tile t with seq := r, digests := g }).rimeExec t ⟨(s.tile t).seq.hdr wait, i⟩ =
      s.setTile t { y with seq := r, fpstat := f, digests := g' }) :
    let q := (s.tile t).seq
    ∃ r f g, s.pushRime t wait i = s.setTile t { y with seq := r, fpstat := f, digests := g } ∧
      q.passed r (q.pc + 8) ∧ q.likeBut r := by
  intro q
  obtain ⟨r, g, hpush, hpassed⟩ := State.pushRime_executes hstores hdeliver hqueue hw i
  obtain ⟨f, g', hdone⟩ := hexec r g
  rw [hdone, State.rimeFlush_of_late_nil (by rw [State.tile_setTile]; exact hlate)] at hpush
  exact ⟨r, f, g', hpush, hpassed⟩

end

/-- A rime instruction that issues under no tag, finds room and is taken up does what `f` says. -/
theorem State.issueRime_of_issuesCop {α : Type} {s u : State} {t : TileId} {w : Word} {i : SInstr}
    {sel : SInstr → Option α} {f : State → α → Option State} {a : α} (h : s.issuesCop t w i) (hsel : sel i = some a)
    (hbranches : (s.tile t).seq.branches = []) (hqueue : (s.tile t).rime.queue = []) (hf : f s a = some u) :
    s.issueRime t sel f = .next u :=
  State.issueCop_of_issuesCop h hsel (by simp [hqueue]) (by simp [Seq.tag, hbranches, hf])

/-! ### Execution -/

/-- The slot that an accepted RCFG leaves (R134 to R136). -/
def Slot.configured (l : Slot) (d : RimeDesc) (step : BitVec 32) : Slot :=
  { l with desc := d, opened := true, ep := { l.ep with step := step } }

/-- The slot that an accepted RDRAIN leaves (R151). -/
def Slot.ended (l : Slot) (id : Nat) (pc a : Word) (step : BitVec 32) : Slot :=
  { l with drain := some ⟨id, pc, a, l.ep, none⟩, ep := .fresh (l.ep.no + 1) step }

section
variable (s : State) (t : TileId) (x : Tile) (o : RimeOp)

/-- RCFG of a good descriptor and an allowed slot loads the descriptor and opens the slot. -/
theorem State.rimeCfg_opens {b : List Byte} (hcheck : (RimeDesc.ofBytes b).check = none)
    (hallowed : x.cfgAllowed (RimeDesc.ofBytes b).slot = true) :
    let d := RimeDesc.ofBytes b
    ∃ f g, (s.setTile t x).rimeCfg t o b =
      s.setTile t { x.setSlot d.slot (x.rime.slots[d.slot].configured d s.step32) with fpstat := f, digests := g } := by
  intro d
  have hdef : (s.setTile t x).rimeCfg t o b =
      (s.setTile t (x.setSlot d.slot (x.rime.slots[d.slot].configured d s.step32))).emit t none (.op .rime b 0 0) := by
    simp [State.rimeCfg, hcheck, hallowed, State.modSlot_eq, State.modTile, Slot.configured, d, State.step32]
  obtain ⟨f, g, hemit⟩ := s.emit_rime_setTile t (x.setSlot d.slot (x.rime.slots[d.slot].configured d s.step32)) b 0
  exact ⟨f, g, hdef.trans hemit⟩

/-- RBIND of open and differing slots sets the binding. -/
theorem State.rimeBind_sets {b : RimeBind} (ha : b.aEn = true → x.rime.slots[b.slotA].opened = true)
    (hb : b.bEn = true → x.rime.slots[b.slotB].opened = true) (hne : b.aEn = true → b.bEn = true → b.slotA ≠ b.slotB) :
    ∃ f g, (s.setTile t x).rimeBind t o b =
      s.setTile t { x with rime := { x.rime with bind := b }, fpstat := f, digests := g } := by
  have hok : ((!b.aEn || ((s.setTile t x).slot4 t b.slotA).opened) && (!b.bEn || ((s.setTile t x).slot4 t b.slotB).opened) &&
      !(b.aEn && b.bEn && b.slotA == b.slotB)) = true := by
    rw [State.slot4, State.slot4, State.tile_setTile]
    revert ha hb hne
    cases b.aEn <;> cases b.bEn <;> simp +contextual
  obtain ⟨f, g, hemit⟩ := s.emit_rime_setTile t { x with rime := { x.rime with bind := b } } (leBytes 1 b.byte) 0
  refine ⟨f, g, Eq.trans ?_ hemit⟩
  rw [State.rimeBind, if_pos hok, State.modTile, State.tile_setTile, State.setTile_setTile]

/-- RDRAIN of an open slot to a place in a statistic region ends the epoch. -/
theorem State.rimeDrain_ends {k : Fin 4} {a : Word} (hal : a.toNat % 64 = 0) (hreg : s.statRegion a.toNat = true)
    (hopen : x.rime.slots[k].opened = true) :
    (s.setTile t x).rimeDrain t o k a =
      s.setTile t (x.setSlot k (x.rime.slots[k].ended o.hdr.id o.hdr.pc a s.step32)) := by
  have hreg' : (s.setTile t x).statRegion a.toNat = true := hreg
  simp [State.rimeDrain, State.slot4, hal, hreg', hopen, State.modSlot_eq, State.modTile, Slot.ended, State.step32,
    -Fin.getElem_fin]

end

/-! ### The checks (R136, R152, R158) -/

/-- The fields of a rime block descriptor as bit fields of its 32 bytes (R135). -/
theorem RimeDesc.ofBytes_eq (b : List Byte) :
    let n := leNat b
    RimeDesc.ofBytes b = ⟨⟨fieldAt n 0 2 % 4, Nat.mod_lt _ (by decide)⟩, n.testBit 2, fieldAt n 8 8,
      BitVec.ofNat 32 (fieldAt n 32 32), BitVec.ofNat 32 (fieldAt n 64 32), fieldAt n 96 32, fieldAt n 128 32,
      BitVec.ofNat 32 (fieldAt n 160 32),
      fieldAt n 3 5 != 0 || fieldAt n 16 16 != 0 || fieldAt n 192 64 != 0⟩ := by
  intro n
  have hslot : fieldAt n 0 2 = fieldAt n 0 8 % 4 := (fieldAt_mod n 0 (k := 2) (by omega)).symm
  have hkind : (fieldAt n 0 8).testBit 2 = n.testBit 2 := testBit_fieldAt n 0 (by omega)
  have hresv : fieldAt n 0 8 / 8 = fieldAt n 3 5 := fieldAt_div n 0 3 5
  simp [RimeDesc.ofBytes, leAt_eq_fieldAt, n, hslot, ← hkind, ← hresv]

theorem RimeDesc.check_eq_none {d : RimeDesc} (hdlog : d.dlog ≤ 6) (hlo : 1 ≤ d.splen) (hhi : d.splen ≤ 8192)
    (hal : d.spaddr % 256 = 0) (hin : d.spaddr + 512 * d.splen ≤ storeSize) (hresv : d.resv = false) : d.check = none := by
  have hne : d.splen ≠ 0 := by omega
  simp [RimeDesc.check, inStore, hdlog, hne, hhi, hal, hin, hresv]

theorem Tile.cfgAllowed_of {x : Tile} {k : Fin 4} (h : x.rime.slots[k].opened = true → x.rime.slots[k].ep.q = 0 ∧
    x.rime.slots[k].drain = none ∧ ∀ g ∈ x.rime.gramQ, g.slot ≠ k) : x.cfgAllowed k = true := by
  cases hopen : x.rime.slots[k].opened with
  | false => simp [Tile.cfgAllowed, hopen, -Fin.getElem_fin]
  | true =>
    obtain ⟨hq, hdrain, hgram⟩ := h hopen
    simpa [Tile.cfgAllowed, hopen, hq, hdrain, -Fin.getElem_fin] using hgram

theorem State.statRegion_of {s : State} {a : Nat} (h : ∃ im r, s.job.image = some im ∧ r ∈ im.regions ∧ r.kind = 2 ∧
    r.base ≤ a ∧ a + 49600 ≤ r.base + r.len) : s.statRegion a = true := by
  obtain ⟨im, r, him, hr, hkind, hlo, hhi⟩ := h
  simp only [State.statRegion, him, List.any_eq_true]
  exact ⟨r, hr, by simp [hkind, hlo, hhi]⟩

/-! ### Issue and execution together -/

section
variable {s : State} {t : TileId} {w : Word} {wait : BitVec 4} (hbranches : (s.tile t).seq.branches = [])
  (hdeliver : (s.tile t).seq.deliver = []) (hstores : (s.tile t).seq.stores = []) (hqueue : (s.tile t).rime.queue = [])
  (hlate : (s.tile t).rime.late = []) (hw : (s.tile t).waitsDone wait (s.tile t).seq.nextId = true)
include hbranches hdeliver hstores hqueue hlate hw

/-- RCFG reads its descriptor at issue (R244), and loads it. -/
theorem execRcfg_opens {sa : BitVec 5} {off : BitVec 32} {b : List Byte} {d : RimeDesc}
    (h : s.issuesCop t w (.rcfg sa wait off))
    (hb : s.descriptor t ((s.tile t).seq.sreg sa + off.signExtend 64) 32 32 = .ok b)
    (hd : RimeDesc.ofBytes b = d) (hcheck : d.check = none) (hallowed : (s.tile t).cfgAllowed d.slot = true) :
    let x := s.tile t
    ∃ r f g, execRcfg t s = .next (s.setTile t
        { x.setSlot d.slot (x.rime.slots[d.slot].configured d s.step32) with seq := r, fpstat := f, digests := g }) ∧
      x.seq.passed r (x.seq.pc + 8) ∧ x.seq.likeBut r := by
  intro x
  subst hd
  obtain ⟨r, f, g, hpush, hpassed⟩ := State.pushRime_next hstores hdeliver hqueue hw (i := .cfg b)
    (y := x.setSlot _ (x.rime.slots[(RimeDesc.ofBytes b).slot].configured _ s.step32)) hlate fun r g =>
      s.rimeCfg_opens t { x with seq := r, digests := g } ⟨x.seq.hdr wait, .cfg b⟩ hcheck hallowed
  refine ⟨r, f, g, State.issueRime_of_issuesCop h rfl hbranches hqueue ?_, hpassed⟩
  simp only [ext32, hb]
  exact congrArg some hpush

theorem execRbind_sets {bEn aEn : Bool} {sb sa : BitVec 2} (h : s.issuesCop t w (.rbind wait bEn sb aEn sa))
    (ha : aEn = true → (s.tile t).rime.slots[sa.toFin].opened = true)
    (hb : bEn = true → (s.tile t).rime.slots[sb.toFin].opened = true) (hne : aEn = true → bEn = true → sa ≠ sb) :
    let x := s.tile t
    ∃ r f g, execRbind t s = .next (s.setTile t
        { x with rime := { x.rime with bind := ⟨aEn, sa.toFin, bEn, sb.toFin⟩ }, seq := r, fpstat := f, digests := g }) ∧
      x.seq.passed r (x.seq.pc + 8) ∧ x.seq.likeBut r := by
  intro x
  let b : RimeBind := ⟨aEn, sa.toFin, bEn, sb.toFin⟩
  obtain ⟨r, f, g, hpush, hpassed⟩ := State.pushRime_next hstores hdeliver hqueue hw (i := .bind b)
    (y := { x with rime := { x.rime with bind := b } }) hlate fun r g =>
      s.rimeBind_sets t { x with seq := r, digests := g } ⟨x.seq.hdr wait, .bind b⟩ ha hb
        fun h₁ h₂ heq => hne h₁ h₂ (BitVec.eq_of_toFin_eq heq)
  exact ⟨r, f, g, State.issueRime_of_issuesCop h rfl hbranches hqueue (congrArg some hpush), hpassed⟩

/-- RDRAIN does not stall while no drain of its slot is pending (R152). -/
theorem execRdrain_ends {sa : BitVec 5} {slot : BitVec 2} {off : BitVec 32} {a : Word}
    (h : s.issuesCop t w (.rdrain sa wait slot off)) (ha : (s.tile t).seq.sreg sa + off.signExtend 64 = a)
    (hopen : (s.tile t).rime.slots[slot.toFin].opened = true) (hdrain : (s.tile t).rime.slots[slot.toFin].drain = none)
    (hal : a.toNat % 64 = 0) (hreg : s.statRegion a.toNat = true) :
    let x := s.tile t
    let k := slot.toFin
    ∃ r f g, execRdrain t s = .next (s.setTile t
        { x.setSlot k (x.rime.slots[k].ended x.seq.nextId x.seq.pc a s.step32) with
          seq := r, fpstat := f, digests := g }) ∧
      x.seq.passed r (x.seq.pc + 8) ∧ x.seq.likeBut r := by
  intro x k
  obtain ⟨r, f, g, hpush, hpassed⟩ := State.pushRime_next hstores hdeliver hqueue hw (i := .drain k a)
    (y := x.setSlot k (x.rime.slots[k].ended x.seq.nextId x.seq.pc a s.step32)) hlate fun r g =>
      ⟨x.fpstat, g, s.rimeDrain_ends t { x with seq := r, digests := g } ⟨x.seq.hdr wait, .drain k a⟩ hal hreg hopen⟩
  refine ⟨r, f, g, State.issueRime_of_issuesCop h rfl hbranches hqueue ?_, hpassed⟩
  have hfree : (s.tile t).rime.draining slot.toFin = false := by simp [Rime.draining, hdrain, hqueue, -Fin.getElem_fin]
  simp only [hfree, ext32, ha]
  exact congrArg some hpush

end

end Sys2Proof.Machine
end

section
/-!
SUPPORT. One row of the Gram array (R144): where the entries of a triangle stand, and what a row does to each.
-/
namespace Sys2Proof.Machine


/-- Entry `e` after a row of which `a` and `b` are the values of its two columns. -/
def gramEntry (a b : FV) (e : BitVec 48) : BitVec 48 :=
  BitVec.ofNat 48 (fA48.rne (FV.add .rne (fA48.decode e.toNat) (FV.mul a b))).1

/-- The first row of the triangle, then the others. -/
theorem gramAdd_go_cons (a : FV) (as : List FV) (es : List (BitVec 48)) :
    (gramAdd.go (a :: as) es).1 = ((a :: as).zip es).map (fun p => gramEntry a p.1 p.2) ++
      (gramAdd.go as (es.drop (a :: as).length)).1 := by
  simp [gramAdd.go, gramEntry, Function.comp_def]

theorem triIx_zero (n j : Nat) : triIx n 0 j = j := by simp [triIx]

/-- Without its first row, a triangle is a triangle of one row and column less. -/
theorem triIx_succ {n i : Nat} (h : i ≤ n) (j : Nat) : triIx (n + 1) (i + 1) (j + 1) = (n + 1) + triIx n i j := by
  have hhalf : i * (i - 1) / 2 ≤ i * n := (Nat.div_le_self ..).trans (Nat.mul_le_mul_left i (by omega))
  have hmul : (i + 1) * (n + 1) = i * n + i + n + 1 := by ring
  have htri := Nat.triangle_succ i
  simp only [triIx, hmul, htri]
  omega

/-- Every entry of a triangle after a row: by induction on the triangle's rows, each of which leaves a smaller one. -/
theorem gramAdd_go_getElem? {ws : List FV} {es : List (BitVec 48)} {n : Nat} (hn : ws.length = n)
    (hlen : triIx n n n ≤ es.length) {i j : Nat} {a b : FV} (hij : i ≤ j) (ha : ws[i]? = some a) (hb : ws[j]? = some b) :
    (gramAdd.go ws es).1[triIx n i j]? = es[triIx n i j]?.map (gramEntry a b) := by
  induction ws generalizing n es i j with
  | nil => cases hb
  | cons c ws ih =>
    subst hn
    have hj := (List.getElem?_eq_some_iff.1 hb).1
    rw [gramAdd_go_cons]
    rw [List.length_cons, triIx_succ le_rfl] at hlen
    have hrow : (((c :: ws).zip es).map fun p => gramEntry c p.1 p.2).length = ws.length + 1 := by
      simp; omega
    cases i with
    | zero =>
      obtain rfl : c = a := Option.some.inj ha
      have hje : j < es.length := by rw [List.length_cons] at hj; omega
      have he := List.getElem?_eq_getElem hje
      rw [triIx_zero, List.getElem?_append_left (hrow ▸ hj), List.getElem?_map, he,
        List.getElem?_zip_eq_some (z := (b, es[j])) |>.2 ⟨hb, he⟩]
      rfl
    | succ i =>
      obtain ⟨j, rfl⟩ : ∃ k, j = k + 1 := ⟨j - 1, by omega⟩
      rw [List.length_cons] at hj ⊢
      rw [triIx_succ (by omega), List.getElem?_append_right (by omega), hrow, Nat.add_sub_cancel_left,
        ih rfl (by rw [List.length_drop]; omega) (Nat.le_of_succ_le_succ hij) ha hb, List.getElem?_drop]

/-- The entries of a slot after a row of 128 codes. -/
theorem gramAdd_getElem? {vals : List (BitVec 16)} {es : List (BitVec 48)} (hvals : vals.length = 128)
    (hes : es.length = 8256) {i j : Nat} (hij : i ≤ j) (hj : j < 128) :
    (gramAdd vals es).1[triIx 128 i j]? = es[triIx 128 i j]?.map
      (gramEntry (fBF16.decode (vals.getD i 0).toNat) (fBF16.decode (vals.getD j 0).toNat)) := by
  have hval {k : Nat} (hk : k < 128) :
      (vals.map fun c => fBF16.decode c.toNat)[k]? = some (fBF16.decode (vals.getD k 0).toNat) := by
    have hk' : k < vals.length := hvals ▸ hk
    simp [hk']
  exact gramAdd_go_getElem? (by rw [List.length_map, hvals]) (hes ▸ le_rfl) hij (hval (hij.trans_lt hj)) (hval hj)

/-- The Gram array takes a row with no tag whose slot has no drain pending, and counts it. -/
theorem execGramRow_adds {s : State} {t : TileId} {g : GramRow} {rest : List GramRow}
    (hq : (s.tile t).rime.gramQ = g :: rest) (htag : g.tag = none) (hdrain : (s.tile t).rime.slots[g.slot].drain = none) :
    let x := s.tile t
    let l := x.rime.slots[g.slot]
    let y := x.setSlot g.slot { l with entries := (gramAdd g.vals l.entries).1 }
    ∃ f d, execGramRow t s = .next (s.setTile t
      { y with rime := { y.rime with gramQ := rest, rows := x.rime.rows + 1 }, fpstat := f, digests := d }) := by
  intro x l y
  obtain ⟨f, d, hemit⟩ := s.emit_rime_setTile t { y with rime := { y.rime with gramQ := rest, rows := x.rime.rows + 1 } }
    ((gramAdd g.vals l.entries).1.flatMap fun e => leBytes 6 e.toNat) (gramAdd g.vals l.entries).2
  refine ⟨f, d, Eq.trans ?_ (congrArg _ hemit)⟩
  have hdrain' : (s.slot4 t g.slot).drain = none := hdrain
  simp only [execGramRow, hq, htag, hdrain', State.modSlot_eq, State.modTile_modTile]
  rfl

end Sys2Proof.Machine
end

section
/-!
SUPPORT. The statistic record and its drain (R151, R153 to R155), and the obligation of the rime unit.
-/
namespace Sys2Proof.Machine

/-! ### Numbers in a record -/

theorem leAt_leBytes_append (k v : Nat) (l : List Byte) : leAt (leBytes k v ++ l) 0 k = v % 2 ^ (8 * k) := by
  rw [leAt, List.drop_zero, List.take_left' (leBytes_length k v), leNat_leBytes]

theorem leAt_leBytes_append_of_lt {k v : Nat} (h : v < 2 ^ (8 * k)) (l : List Byte) : leAt (leBytes k v ++ l) 0 k = v := by
  rw [leAt_leBytes_append, Nat.mod_eq_of_lt h]

theorem leAt_leBytes_append_of_le {k off : Nat} (h : k ≤ off) (v n : Nat) (l : List Byte) :
    leAt (leBytes k v ++ l) off n = leAt l (off - k) n := by
  rw [leAt, List.drop_append, List.drop_eq_nil_of_le (by rwa [leBytes_length]), leBytes_length, List.nil_append, leAt]

/-! ### The statistic record (R153 to R155) -/

/-- The mask of the blocks that hold a nonzero entry (R155). -/
def nonzeroBlocks (blocks : List (List (BitVec 48))) : Nat :=
  (blocks.zip (List.range 10)).foldl (fun m p => m + flagBit p.2 (p.1.any entNonzero)) 0

/-- Blocks other than the first leave bit 0 of the mask. -/
theorem foldl_flagBit_mod_two (l : List (List (BitVec 48) × Nat)) (h : ∀ p ∈ l, p.2 ≠ 0) (m : Nat) :
    l.foldl (fun m p => m + flagBit p.2 (p.1.any entNonzero)) m % 2 = m % 2 := by
  induction l generalizing m with
  | nil => rfl
  | cons p l ih =>
    rw [List.forall_mem_cons] at h
    have heven : flagBit p.2 (p.1.any entNonzero) % 2 = 0 := by
      obtain ⟨i, hi⟩ := Nat.exists_eq_succ_of_ne_zero h.1
      rw [flagBit, hi, Nat.pow_succ]
      split <;> omega
    rw [List.foldl_cons, ih h.2, Nat.add_mod, heven, Nat.add_zero, Nat.mod_mod]

/-- Bit 0 is the first block's. -/
theorem nonzeroBlocks_testBit_zero (b : List (BitVec 48)) (bs : List (List (BitVec 48))) :
    (nonzeroBlocks (b :: bs)).testBit 0 = b.any entNonzero := by
  have hrange : List.range 10 = 0 :: List.range' 1 9 := rfl
  have hrest : ∀ p ∈ bs.zip (List.range' 1 9), p.2 ≠ 0 := fun p hp =>
    Nat.one_le_iff_ne_zero.1 (List.mem_range'_1.1 (List.of_mem_zip hp).2).1
  rw [Nat.testBit_zero, nonzeroBlocks, hrange, List.zip_cons_cons, List.foldl_cons, foldl_flagBit_mod_two _ hrest]
  cases b.any entNonzero <;> rfl

theorem deltaEntries_length (ents : List (BitVec 48)) (b : Nat × Nat) : (deltaEntries ents b).length =
    ((List.range 32).map fun u => 32 - if b.1 == b.2 then u else 0).sum := by
  simp only [deltaEntries, List.length_flatMap, tab_length]

/-- The ten blocks hold every entry once. -/
theorem deltaBlocks_length (ents : List (BitVec 48)) :
    ((deltaBlocks.map (deltaEntries ents)).map List.length).sum = 8256 := by
  rw [List.map_map, Function.comp_def]
  simp only [deltaEntries_length]
  rfl

/-- The first block holds the entries of the first 32 rows and columns (R154). -/
theorem deltaEntries_zero_any_nonzero (ents : List (BitVec 48)) : (deltaEntries ents (0, 0)).any entNonzero = true ↔
    ∃ i < 32, ∃ j < 32, i ≤ j ∧ (ents.getD (triIx 128 i j) 0).toNat % 2 ^ 47 ≠ 0 := by
  simp only [deltaEntries, tab, List.any_flatMap, List.any_map, List.any_eq_true, List.mem_range, Function.comp_apply,
    entNonzero, bne_iff_ne, BEq.rfl, if_true, Nat.mul_zero, Nat.zero_add]
  refine exists_congr fun i => and_congr_right fun hi => ⟨?_, ?_⟩
  · rintro ⟨v, hv, hne⟩
    exact ⟨i + v, by omega, by omega, hne⟩
  · rintro ⟨j, hj, hij, hne⟩
    exact ⟨j - i, by omega, by rwa [Nat.add_sub_cancel' hij]⟩

theorem length_flatMap_leBytes (k : Nat) (l : List (BitVec 48)) :
    (l.flatMap fun e => leBytes k e.toNat).length = k * l.length := by
  simp [List.length_flatMap, Nat.mul_comm]

/-- The record behind its header: six bytes for every entry (R154). -/
def recordBody (ents : List (BitVec 48)) : List Byte :=
  (deltaBlocks.map (deltaEntries ents)).flatMap fun b => b.flatMap fun e => leBytes 6 e.toNat

theorem recordBody_length (ents : List (BitVec 48)) : (recordBody ents).length = 49536 := by
  rw [recordBody, List.length_flatMap]
  simp only [length_flatMap_leBytes]
  rw [List.sum_map_mul_left, deltaBlocks_length]
  rfl

/-- The flags of a record (R153). -/
def Slot.recordFlags (l : Slot) (ep : Epoch) : Nat :=
  flagBit 0 ep.zeroed + flagBit 1 ep.full + flagBit 2 (l.entries.any fun e => !(fA48.decode e.toNat).isFin)

/-- The fields of a record in their order (R153). -/
theorem statRecord_eq (t : TileId) (k : Fin 4) (l : Slot) (ep : Epoch) : statRecord t k l ep =
    leBytes 4 l.desc.statId.toNat ++ (leBytes 4 ep.step.toNat ++ (leBytes 8 ep.n.toNat ++ (leBytes 4 l.desc.kappa.toNat ++
      (leBytes 4 l.desc.seed.toNat ++ (leBytes 2 (nonzeroBlocks (deltaBlocks.map (deltaEntries l.entries))) ++
      (leBytes 1 l.desc.kind.toNat ++ (leBytes 1 l.desc.dlog ++ (leBytes 1 (l.recordFlags ep) ++ (leBytes 1 t.val ++
      (leBytes 1 k.val ++ (leBytes 1 0 ++ (leBytes 8 ep.q.toNat ++ (leBytes 8 ep.no.toNat ++ (leBytes 16 0 ++
      recordBody l.entries)))))))))))))) := by
  simp only [statRecord, List.append_assoc]
  rfl

theorem statRecord_length (t : TileId) (k : Fin 4) (l : Slot) (ep : Epoch) : (statRecord t k l ep).length = 49600 := by
  simp only [statRecord_eq, List.length_append, leBytes_length, recordBody_length]

/-- The numbers of a record's header (R153). -/
theorem statRecord_header (t : TileId) (k : Fin 4) (l : Slot) (ep : Epoch) :
    let b := statRecord t k l ep
    leAt b 0 4 = l.desc.statId.toNat ∧ leAt b 4 4 = ep.step.toNat ∧ leAt b 8 8 = ep.n.toNat ∧
      leAt b 16 4 = l.desc.kappa.toNat ∧ leAt b 20 4 = l.desc.seed.toNat ∧ leAt b 29 1 = t.val ∧ leAt b 30 1 = k.val ∧
      leAt b 32 8 = ep.q.toNat ∧ leAt b 40 8 = ep.no.toNat ∧ leAt b 48 16 = 0 := by
  intro b
  have ht : t.val < 2 ^ (8 * 1) := by omega
  simp (disch := omega) only [b, statRecord_eq, leAt_leBytes_append_of_le, leAt_leBytes_append_of_lt, Nat.reduceSub,
    and_self]

/-- Bit 0 of the mask says whether the first block holds a nonzero entry (R155). -/
theorem statRecord_mask_testBit_zero (t : TileId) (k : Fin 4) (l : Slot) (ep : Epoch) :
    (leAt (statRecord t k l ep) 24 2).testBit 0 = true ↔
      ∃ i < 32, ∃ j < 32, i ≤ j ∧ (l.entries.getD (triIx 128 i j) 0).toNat % 2 ^ 47 ≠ 0 := by
  have hmask : leAt (statRecord t k l ep) 24 2 =
      nonzeroBlocks (deltaBlocks.map (deltaEntries l.entries)) % 2 ^ (8 * 2) := by
    simp (disch := omega) only [statRecord_eq, leAt_leBytes_append_of_le, leAt_leBytes_append, Nat.reduceSub]
  rw [hmask, Nat.testBit_mod_two_pow, deltaBlocks, List.map_cons, nonzeroBlocks_testBit_zero, ← deltaEntries_zero_any_nonzero]
  simp

/-! ### Drains (R151) -/

/-- With every row of the ended epoch complete, the record is handed to the DMA engine and the entries become +0. -/
theorem execRimeDrainRead_hands {s : State} {t : TileId} {k : Fin 4} {d : Drain}
    (hdrain : (s.tile t).rime.slots[k].drain = some d) (hrecord : d.record = none)
    (hrows : ∀ g ∈ (s.tile t).rime.gramQ, g.slot = k → g.epoch ≠ d.ep.no) (hpasses : (s.tile t).passesTo d.id k = false) :
    let x := s.tile t
    let l := x.rime.slots[k]
    execRimeDrainRead t k s = .next (s.setTile t
      { x.setSlot k { l with
          entries := List.replicate 8256 0, drain := some { d with record := some (statRecord t k l d.ep) } } with
        dma := { x.dma with queue := x.dma.queue ++ [.record k] } }) := by
  intro x l
  have hdrain' : (s.slot4 t k).drain = some d := hdrain
  have hgram : ((s.tile t).rime.gramQ.any fun g => g.slot == k && g.epoch == d.ep.no) = false := by simpa using hrows
  simp only [execRimeDrainRead, hdrain', hrecord, hpasses, hgram, Option.isSome_none, Bool.or_self, Bool.false_eq_true,
    if_false, State.modSlot_eq, State.modTile_modTile]
  rfl

theorem State.recordFault_eq_none {s : State} {a n : Nat} (hue : s.writeUe a n = none)
    (hro : ∀ j < n, s.readOnly (a + j) = false) : s.recordFault a n = none := by
  have hfind : ((List.range n).find? fun i => s.readOnly (a + i)) = none := by simpa using hro
  simp [State.recordFault, hue, hfind, lowestFault]

theorem State.wr_setTile (s : State) (t : TileId) (x : Tile) (a : Nat) (b : List Byte) :
    (s.setTile t x).wr a b = (s.wr a b).setTile t x := by
  unfold State.wr
  dsimp only
  rw [apply_ite fun u : State => u.setTile t x]
  rfl

/-- A write of memory changes memory and the marks of lines (R276) beside the tile. -/
theorem State.setTile_wr_frame (s : State) (t : TileId) (x : Tile) (a : Nat) (b : List Byte) :
    let u := (s.wr a b).setTile t x
    u = { s with tiles := u.tiles, mem := u.mem, hbm := u.hbm } := by
  unfold State.wr
  dsimp only
  split <;> rfl

/-- The record at the head of the DMA engine's order is written where no fault meets it, and the drain is counted. -/
theorem execRimeDrainDone_writes {s : State} {t : TileId} {k : Fin 4} {d : Drain} {b : List Byte} {rest : List DmaItem}
    (hdrain : (s.tile t).rime.slots[k].drain = some d) (hrecord : d.record = some b)
    (hq : (s.tile t).dma.queue = .record k :: rest) (hfault : s.recordFault d.addr.toNat b.length = none)
    (hrimeQ : (s.tile t).rime.queue = []) :
    let x := s.tile t
    let y := x.setSlot k { x.rime.slots[k] with drain := none }
    ∃ f g, execRimeDrainDone t k s = .next ((s.wr d.addr.toNat b).setTile t { y with
      dma := { x.dma with queue := rest }, rime := { y.rime with drains := x.rime.drains + 1 }, fpstat := f, digests := g }) := by
  intro x y
  obtain ⟨f, g, hemit⟩ := (s.wr d.addr.toNat b).emit_rime_setTile t { y with
    dma := { x.dma with queue := rest }, rime := { y.rime with drains := x.rime.drains + 1 } } b 0
  refine ⟨f, g, ?_⟩
  have hdrain' : (s.slot4 t k).drain = some d := hdrain
  simp only [execRimeDrainDone, hq, hdrain', hrecord, ne_eq, not_true_eq_false, if_false, hfault, State.modSlot_eq,
    State.modTile, State.wr_setTile, State.tile_setTile, State.setTile_setTile]
  refine congrArg _ ((State.rimeGo_of_queue_nil ?_).trans hemit)
  exact (congrArg (fun u : State => (u.tile t).rime.queue) hemit).trans (by rw [State.tile_setTile]; exact hrimeQ)

/-! ### The obligation -/

/-- Settles O11: each instruction by its issue and execution together, each command of the Gram array and the drains by
its whole effect on the tile. -/
theorem rimeUnitCapturesAndDrains : Obligations.RimeUnitCapturesAndDrains := by
  unfold Obligations.RimeUnitCapturesAndDrains
  constructor
  · intro s t w wait x q hbranches hdeliver hstores hqueue hlate hw
    refine ⟨?rcfg, ?rbind, ?rdrain⟩
    case rcfg =>
      intro sa off k h a N d hal hk hlo hhi hresv3 hresv16 hresv192 hdlog hlen hlen' hsp hin hallowed
      have hd : RimeDesc.ofBytes (tab 32 fun j => s.loadByte t (k + j)) = d := by
        rw [RimeDesc.ofBytes_eq, hresv3, hresv16, hresv192]
        rfl
      obtain ⟨r, f, g, hexec, ⟨hpc, -⟩, -⟩ := execRcfg_opens hbranches hdeliver hstores hqueue hlate hw h
        (State.descriptor_ok hal hk hlo hhi) hd (RimeDesc.check_eq_none hdlog hlen hlen' hsp hin rfl)
        (Tile.cfgAllowed_of hallowed)
      refine ⟨_, hexec, ?_⟩
      rw [State.tile_setTile]
      exact ⟨Tile.setSlot_same .., fun i hi => x.setSlot_other _ hi, rfl, hpc, rfl⟩
    case rbind =>
      intro bEn aEn sb sa h ha hb hne
      obtain ⟨r, f, g, hexec, ⟨hpc, -⟩, -⟩ := execRbind_sets hbranches hdeliver hstores hqueue hlate hw h ha hb hne
      refine ⟨_, hexec, ?_⟩
      rw [State.tile_setTile]
      exact ⟨rfl, rfl, hpc, rfl⟩
    case rdrain =>
      intro sa slot off h a l hopen hdrain hal hreg
      obtain ⟨r, f, g, hexec, hpassed, hlike⟩ := execRdrain_ends hbranches hdeliver hstores hqueue hlate hw h rfl
        hopen hdrain hal (State.statRegion_of hreg)
      refine ⟨_, hexec, ?_⟩
      rw [State.tile_setTile]
      exact ⟨Tile.setSlot_same .., fun i hi => x.setSlot_other _ hi, hpassed, hlike, rfl⟩
  · intro s t x
    refine ⟨?row, ?read, ?done⟩
    case row =>
      intro g rest hq htag hvals hlen hdrain
      obtain ⟨f, d, hexec⟩ := execGramRow_adds hq htag hdrain
      refine ⟨_, hexec, ?_⟩
      rw [State.tile_setTile]
      refine ⟨rfl, rfl, fun i j hij hj => ?_, fun k hk => x.setSlot_other _ hk, rfl, rfl⟩
      rw [Nat.mul_comm 128 i, ← triIx]
      refine (congrArg (fun l : Slot => l.entries[triIx 128 i j]?) (Tile.setSlot_same ..)).trans ?_
      exact gramAdd_getElem? hvals hlen hij hj
    case read =>
      intro k d hdrain hrecord hlen hrows hpasses
      refine ⟨_, statRecord t k x.rime.slots[k] d.ep, execRimeDrainRead_hands hdrain hrecord hrows hpasses,
        statRecord_length .., ?_⟩
      rw [State.tile_setTile]
      obtain ⟨hstat, hstep, hn, hkappa, hseed, ht, hk, hq, hno, hzero⟩ := statRecord_header t k x.rime.slots[k] d.ep
      refine ⟨Tile.setSlot_same .., hstat, hstep, hn, hkappa, hseed, ht, hk, hq, hno, hzero, ?_, rfl, rfl, rfl⟩
      rw [statRecord_mask_testBit_zero]
      simp only [triIx, Nat.mul_comm]
    case done =>
      intro k d b rest hdrain hrecord hq hue hro hqueue
      obtain ⟨f, g, hexec⟩ := execRimeDrainDone_writes hdrain hrecord hq (State.recordFault_eq_none hue hro) hqueue
      refine ⟨_, hexec, ?_⟩
      rw [State.tile_setTile]
      refine ⟨rfl, rfl, rfl, Tile.setSlot_same .., rfl, fun j hj => ?_, fun a ha => ?_, rfl, s.setTile_wr_frame ..⟩
      · rw [State.setTile_mem, State.wr_mem, Memory.read_writeBytes, if_pos (by omega), Nat.add_sub_cancel_left]
      · rw [State.setTile_mem, State.wr_mem, Memory.read_writeBytes, if_neg (by omega)]

end Sys2Proof.Machine
end

section
/-!
SUPPORT. The rows of the Cholesky factor (R178, R184): the row that the recurrence makes of the rows above it, that the
rows found keep to it, and that the attempt which succeeds is the one whose λ is recorded.
-/
namespace Sys2Proof.Machine

/-! ### Dot products and rounded rows -/

theorem dotInt_map {α : Type} (l : List α) (f g : α → Int) :
    dotInt (l.map f) (l.map g) = (l.map fun k => f k * g k).sum := by
  rw [dotInt, List.zip_map', List.foldl_map, List.sum_eq_foldl, List.foldl_map]

/-- The values from a list of elements, when each has one. -/
theorem map_some_of_mapM {α β : Type} {f : α → Option β} {l : List α} {r : List β} (h : l.mapM f = some r) :
    l.map f = r.map some := by
  induction l generalizing r with
  | nil => obtain rfl : [] = r := by simpa using h
           rfl
  | cons x l ih =>
    obtain ⟨y, hy, ys, hys, rfl⟩ : ∃ y, f x = some y ∧ ∃ ys, l.mapM f = some ys ∧ y :: ys = r := by
      simpa [List.mapM_cons, Option.bind_eq_some_iff] using h
    rw [List.map_cons, List.map_cons, hy, ih hys]

theorem getD_of_mapM_range {β : Type} {f : Nat → Option β} {m t : Nat} {r : List β} (h : (List.range m).mapM f = some r)
    (ht : t < m) (d : β) : f t = some (r.getD t d) := by
  have hget : ((List.range m).map f)[t]? = (r.map some)[t]? := by rw [map_some_of_mapM h]
  rw [List.getElem?_map, List.getElem?_map, List.getElem?_range ht, Option.map_some] at hget
  obtain ⟨v, hv, hvt⟩ := Option.map_eq_some_iff.1 hget.symm
  rw [← hvt, List.getD_eq_getElem?_getD, hv, Option.getD_some]

/-! ### One row of the recurrence (R184) -/

/-- Σ U_kj U_ki over the rows above row `j`. -/
def SMat.cholSum (u : SMat) (j i : Nat) : Rat :=
  ((List.range j).map fun k => ((u.up k j : Rat) * u.unit) * ((u.up k i : Rat) * u.unit)).sum

/-- Row `j` of U is what the recurrence gives from the rows above it, and its pivot exceeds `thr`. -/
def CholRow (a : SMat) (lam thr : Rat) (u : SMat) (j : Nat) : Prop :=
  thr < a.val j j + lam - u.cholSum j j ∧ sqrtGrid u.e (a.val j j + lam - u.cholSum j j) = some (u.up j j) ∧
    ∀ i, j < i → i < a.n → toGrid u.e ((a.val j i - u.cholSum j i) / ((u.up j j : Rat) * u.unit)) = some (u.up j i)

/-- The row `ujj :: r` is what the recurrence gives behind `rows`, on the grid of exponent `E`. -/
structure CholNext (a : SMat) (E : Int) (lam thr : Rat) (rows : List (List Int)) (ujj : Int) (r : List Int) : Prop where
  pivot : thr < a.val rows.length rows.length + lam - (⟨a.n, E, rows⟩ : SMat).cholSum rows.length rows.length
  root : sqrtGrid E (a.val rows.length rows.length + lam - (⟨a.n, E, rows⟩ : SMat).cholSum rows.length rows.length) =
    some ujj
  rest : ((List.range (a.n - 1 - rows.length)).mapM fun t => toGrid E ((a.val rows.length (rows.length + 1 + t) -
    (⟨a.n, E, rows⟩ : SMat).cholSum rows.length (rows.length + 1 + t)) / (ujj * (⟨a.n, E, rows⟩ : SMat).unit))) = some r

/-- The exact dot product of mantissas, on the grid, is the sum of the products of the elements. -/
theorem dotInt_mul_unit (u : SMat) (j i : Nat) :
    ((dotInt ((List.range j).map fun k => u.up k j) ((List.range j).map fun k => u.up k i) : Int) : Rat) *
      (u.unit * u.unit) = u.cholSum j i := by
  rw [dotInt_map, Int.cast_list_sum, List.map_map, ← List.sum_map_mul_right, SMat.cholSum]
  congr 1
  refine List.map_congr_left fun k _ => ?_
  rw [Function.comp_apply, Int.cast_mul]
  ring

/-- Rows put behind those that are there leave their elements. -/
theorem SMat.up_append {n : Nat} {E : Int} {rows : List (List Int)} (more : List (List Int)) {k : Nat}
    (h : k < rows.length) (i : Nat) : (⟨n, E, rows ++ more⟩ : SMat).up k i = (⟨n, E, rows⟩ : SMat).up k i := by
  simp only [SMat.up, List.getD_eq_getElem?_getD, List.getElem?_append_left h]

theorem SMat.cholSum_append {n : Nat} {E : Int} {rows : List (List Int)} (more : List (List Int)) (i : Nat) :
    (⟨n, E, rows ++ more⟩ : SMat).cholSum rows.length i = (⟨n, E, rows⟩ : SMat).cholSum rows.length i := by
  refine congrArg List.sum (List.map_congr_left fun k hk => ?_)
  rw [SMat.up_append more (List.mem_range.1 hk), SMat.up_append more (List.mem_range.1 hk)]
  rfl

/-- The row put behind those that are there, from its diagonal on. -/
theorem SMat.up_append_row {n : Nat} {E : Int} (rows more : List (List Int)) (row : List Int) (t : Nat) :
    (⟨n, E, rows ++ row :: more⟩ : SMat).up rows.length (rows.length + t) = row.getD t 0 := by
  simp only [SMat.up, Nat.le_add_right, if_true, List.getD_eq_getElem?_getD, List.getElem?_append_right (Nat.le_refl _),
    Nat.sub_self, List.getElem?_cons_zero, Option.getD_some, Nat.add_sub_cancel_left]

section
variable {a : SMat} {E : Int} {lam thr : Rat}

/-- Under global restart the rows go on with the row of the recurrence. -/
theorem cholRows_succ {n : Nat} {rows out : List (List Int)} {at_ : Attempt}
    (h : (cholRows a E lam thr false (n + 1) rows.length rows at_).1 = some out) :
    ∃ ujj r, CholNext a E lam thr rows ujj r ∧
      (cholRows a E lam thr false n (rows.length + 1) (rows ++ [ujj :: r]) at_).1 = some out := by
  simp only [cholRows, dotInt_mul_unit] at h
  by_cases hpiv : a.val rows.length rows.length + lam -
      (⟨a.n, E, rows⟩ : SMat).cholSum rows.length rows.length ≤ thr
  · simp [hpiv] at h
  · simp only [hpiv, decide_false, Bool.false_and, Bool.false_eq_true, if_false] at h
    split at h
    · cases h
    next ujj hujj =>
      split at h
      · cases h
      · split at h
        · cases h
        next r hr => exact ⟨ujj, r, ⟨not_le.1 hpiv, hujj, hr⟩, h⟩

/-- A row of the recurrence obeys it, whatever rows follow. -/
theorem CholNext.cholRow {rows : List (List Int)} {ujj : Int} {r : List Int} (h : CholNext a E lam thr rows ujj r)
    (more : List (List Int)) : CholRow a lam thr ⟨a.n, E, rows ++ (ujj :: r) :: more⟩ rows.length := by
  have hdiag : (⟨a.n, E, rows ++ (ujj :: r) :: more⟩ : SMat).up rows.length rows.length = ujj :=
    SMat.up_append_row rows more (ujj :: r) 0
  refine ⟨?_, ?_, fun i hji hi => ?_⟩
  · rw [SMat.cholSum_append]
    exact h.pivot
  · rw [SMat.cholSum_append, hdiag]
    exact h.root
  · obtain ⟨t, rfl⟩ : ∃ t, i = rows.length + 1 + t := ⟨i - (rows.length + 1), by omega⟩
    have hlater : (⟨a.n, E, rows ++ (ujj :: r) :: more⟩ : SMat).up rows.length (rows.length + 1 + t) = r.getD t 0 := by
      rw [Nat.add_assoc, Nat.add_comm 1 t]
      exact SMat.up_append_row rows more (ujj :: r) (t + 1)
    rw [SMat.cholSum_append, hdiag, hlater]
    exact getD_of_mapM_range h.rest (by omega) 0

/-- The rows given are kept, and every row added obeys the recurrence. -/
theorem cholRows_obey {n : Nat} {rows out : List (List Int)} {at_ : Attempt}
    (h : (cholRows a E lam thr false n rows.length rows at_).1 = some out) :
    rows <+: out ∧ ∀ j, rows.length ≤ j → j < rows.length + n → CholRow a lam thr ⟨a.n, E, out⟩ j := by
  induction n generalizing rows with
  | zero =>
    obtain rfl : rows = out := by simpa [cholRows] using h
    exact ⟨List.prefix_rfl, fun j hlo hhi => by omega⟩
  | succ n ih =>
    obtain ⟨ujj, r, hnext, hgo⟩ := cholRows_succ h
    have hlen : (rows ++ [ujj :: r]).length = rows.length + 1 := by simp
    obtain ⟨⟨more, hmore⟩, hlater⟩ := ih (rows := rows ++ [ujj :: r]) (by rwa [hlen])
    rw [List.append_assoc, List.singleton_append] at hmore
    refine ⟨⟨_, hmore⟩, fun j hlo hhi => ?_⟩
    rcases hlo.eq_or_lt with rfl | hlt
    · rw [← hmore]
      exact hnext.cholRow more
    · exact hlater j (by omega) (by omega)

/-- The rows leave open what an attempt comes to. -/
theorem cholRows_res (reg : Bool) (n j : Nat) (rows : List (List Int)) (at_ : Attempt) :
    (cholRows a E lam thr reg n j rows at_).2.res = at_.res := by
  induction n generalizing j rows at_ with
  | zero => rfl
  | succ n ih =>
    have hflag : ∀ b : Bool, (if b then at_.flag j else at_).res = at_.res := fun b => by cases b <;> rfl
    have hbump : ∀ b : Bool, (if b then { (if b then at_.flag j else at_) with bumped := true } else
        if b then at_.flag j else at_).res = at_.res := fun b => by cases b <;> rfl
    simp only [cholRows]
    split
    · exact hflag _
    · split
      · exact hbump _
      · split
        · exact hbump _
        · split
          · exact hbump _
          · exact (ih ..).trans (hbump _)

/-- A factor of an attempt under global restart obeys the recurrence in every row. -/
theorem cholAttempt_obeys {d : SerDesc} {q : RangeQ} {u : SMat} (hreg : d.reg = false)
    (h : (cholAttempt d a q lam).res = some (.chol, u)) :
    u.n = a.n ∧ ∀ j < a.n, CholRow a lam (d.tau * q.dmax) u j := by
  rw [cholAttempt, hreg] at h
  split at h
  · cases h
  next E _ =>
    dsimp only at h
    split at h
    next => rw [cholRows_res] at h; cases h
    next rows hrows =>
      cases h
      exact ⟨rfl, fun j hj => (cholRows_obey (rows := []) hrows).2 j (Nat.zero_le j) (by simpa using hj)⟩
end

/-! ### The attempt that succeeds (R180, R190) -/

@[simp] theorem SerOut.orFlag_status (o : SerOut) (b : Bool) (k : Nat) : (o.orFlag b k).status = o.status := by
  unfold SerOut.orFlag; split <;> rfl
@[simp] theorem SerOut.orFlag_q (o : SerOut) (b : Bool) (k : Nat) : (o.orFlag b k).q = o.q := by
  unfold SerOut.orFlag; split <;> rfl
@[simp] theorem SerOut.orFlag_lam (o : SerOut) (b : Bool) (k : Nat) : (o.orFlag b k).lam = o.lam := by
  unfold SerOut.orFlag; split <;> rfl
@[simp] theorem SerOut.orFlag_eOut (o : SerOut) (b : Bool) (k : Nat) : (o.orFlag b k).eOut = o.eOut := by
  unfold SerOut.orFlag; split <;> rfl
@[simp] theorem SerOut.orFlag_result (o : SerOut) (b : Bool) (k : Nat) : (o.orFlag b k).result = o.result := by
  unfold SerOut.orFlag; split <;> rfl

/-- One attempt ends the command with its result, ends it without one, or leads to the next attempt. -/
theorem tryAll_succ {d : SerDesc} {opc : Nat} {run : Rat → Nat → Attempt} {left made ix trips : Nat} {o : SerOut}
    (hstart : o.result = none) :
    let out := tryAll d opc run (left + 1) made ix trips o
    (∃ r, out.result = some r ∧ out.status = 0 ∧ out.eOut = r.2.e ∧ (run out.lam trips).res = some r) ∨
      out.result = none ∨
      ∃ ix' trips' o', o'.result = none ∧ out = tryAll d opc run left (made + 1) ix' trips' o' := by
  intro out
  cases hres : (run (lamAt d opc o.q ix) trips).res with
  | some r => exact .inl ⟨r, by simp [out, tryAll, hres]⟩
  | none =>
    cases hrange : (run (lamAt d opc o.q ix) trips).range with
    | true => exact .inr (.inl (by simp [out, tryAll, hres, hrange, hstart]))
    | false =>
      refine .inr (.inr ⟨_, _, _, ?_, by simp only [out, tryAll, hres, hrange, Bool.false_eq_true, if_false]; rfl⟩)
      simpa using hstart

/-- A result found is that of an attempt at the λ recorded, and the command ends with it. -/
theorem tryAll_result {d : SerDesc} {opc : Nat} {run : Rat → Nat → Attempt} {left made ix trips : Nat} {o : SerOut}
    {r : PubKind × SMat} (hstart : o.result = none) (h : (tryAll d opc run left made ix trips o).result = some r) :
    let out := tryAll d opc run left made ix trips o
    out.status = 0 ∧ out.eOut = r.2.e ∧ ∃ trips', (run out.lam trips').res = some r := by
  induction left generalizing made ix trips o with
  | zero => rw [tryAll, hstart] at h; cases h
  | succ left ih =>
    obtain ⟨r', hr', hstatus, heOut, hres⟩ | hnone | ⟨ix', trips', o', ho', hnext⟩ :=
      tryAll_succ (d := d) (opc := opc) (run := run) (left := left) (made := made) (ix := ix) (trips := trips) hstart
    · obtain rfl : r' = r := Option.some.inj (hr'.symm.trans h)
      exact ⟨hstatus, heOut, _, hres⟩
    · rw [hnone] at h; cases h
    · rw [hnext] at h ⊢
      exact ih ho' h

/-- A factor that CHOL gives is an attempt's, at the λ recorded. -/
theorem factor_chol_result {d : SerDesc} {a : SMat} {lost : Nat} {r : PubKind × SMat} (hopc : d.opc = 2)
    (h : (factor d a lost).result = some r) :
    (factor d a lost).status = 0 ∧ (factor d a lost).eOut = r.2.e ∧
      (cholAttempt d a (rangePass a) (factor d a lost).lam).res = some r := by
  by_cases hzero : (rangePass a).amax = 0
  · simp [factor, hzero, SerOut.start] at h
  · simp only [factor, hzero, if_false, hopc, SerOut.regularised, SerOut.orFlag_result, SerOut.orFlag_status,
      SerOut.orFlag_eOut, SerOut.orFlag_lam] at h ⊢
    obtain ⟨hstatus, heOut, -, hres⟩ := tryAll_result rfl h
    exact ⟨hstatus, heOut, hres⟩

/-! ### The obligation -/

/-- Settles O19: the factor is that of the attempt at the λ recorded, whose rows obey the recurrence one by one. -/
theorem choleskyFactorObeysItsRecurrence : Obligations.CholeskyFactorObeysItsRecurrence := by
  unfold Obligations.CholeskyFactorObeysItsRecurrence
  intro d a u lost hopc hreg h
  obtain ⟨hstatus, heOut, hres⟩ := factor_chol_result hopc h
  obtain ⟨hn, hrows⟩ := cholAttempt_obeys hreg hres
  exact ⟨hn, hstatus, heOut, hrows⟩

end Sys2Proof.Machine
end

section
/-!
SUPPORT. Map-addressed memory and the Serac clusters: what a write gives back and leaves, the clusters beside the one
changed, and where a cluster's write reaches memory (R270 to R272, R276).
-/
namespace Sys2Proof.Machine
open Host

/-! ### Memory after a write -/

theorem State.wr_clusters (s : State) (k : Nat) (bs : List Byte) : (s.wr k bs).clusters = s.clusters := by
  unfold State.wr
  dsimp only
  split <;> rfl

theorem State.wr_integ (s : State) (k : Nat) (bs : List Byte) : (s.wr k bs).integ = s.integ := by
  unfold State.wr
  dsimp only
  split <;> rfl

/-- A number within the bytes written is read back. -/
theorem State.leNat_rd_wr (s : State) (k : Nat) {bs : List Byte} {o n : Nat} (h : o + n ≤ bs.length) :
    leNat ((s.wr k bs).rd (k + o) n) = leAt bs o n := by
  have hback : (s.wr k bs).rd k bs.length = bs := by rw [State.rd, s.wr_mem, Memory.readBytes_writeBytes]
  rw [leAt]
  conv_rhs => rw [← hback, State.rd_eq_tab, tab_drop_take _ h]
  rw [State.rd_eq_tab]
  simp only [Nat.add_assoc]

/-- Bytes beside those written stay. -/
theorem State.read_wr_apart (s : State) {k a : Nat} {bs : List Byte} (h : a < k ∨ k + bs.length ≤ a) :
    Memory.read 0 (s.wr k bs).mem a = Memory.read 0 s.mem a := by
  rw [s.wr_mem, Memory.read_writeBytes, if_neg (by omega)]

/-! ### The clusters of a state -/

theorem State.cluster_modCluster_ne (s : State) {c c' : ClusterId} (f : Cluster → Cluster) (h : c' ≠ c) :
    (s.modCluster c f).cluster c' = s.cluster c' := by
  have h' : c.val ≠ c'.val := fun e => h (Fin.ext e.symm)
  simp [State.cluster, State.modCluster, h']

@[simp] theorem State.modCluster_modCluster (s : State) (c : ClusterId) (f g : Cluster → Cluster) :
    (s.modCluster c f).modCluster c g = s.modCluster c fun x => g (f x) := by simp [State.modCluster]

theorem State.wr_modCluster (s : State) (c : ClusterId) (f : Cluster → Cluster) (k : Nat) (bs : List Byte) :
    (s.modCluster c f).wr k bs = (s.wr k bs).modCluster c f := by
  unfold State.wr
  dsimp only
  rw [apply_ite fun u : State => u.modCluster c f]
  rfl

@[simp] theorem State.cluster_wr (s : State) (k : Nat) (bs : List Byte) (c : ClusterId) :
    (s.wr k bs).cluster c = s.cluster c := congrArg (fun l => l[c]) (s.wr_clusters k bs)

/-- A cluster's write that meets no fault is made. -/
theorem State.serWr_eq_wr {s : State} {a k : Nat} {bs : List Byte} (hloc : s.locate .serac a = .mem k)
    (hfault : s.serWrFault a bs.length = false) : s.serWr a bs = s.wr k bs := by
  simp [State.serWr, hloc, hfault]

end Sys2Proof.Machine
end

section
/-!
SUPPORT. Starts of Serac commands and switches of exported buffers (R172, R173, R193), and the obligation they settle.
-/
namespace Sys2Proof.Machine
open Host

section
variable {s : State} {c : ClusterId} {ix : Nat}

/-! ### Starts (R172, R173) -/

/-- A cluster that walks the step in progress stays at it. -/
theorem State.serSync_of_step (h : (s.cluster c).step = s.job.step) : s.serSync c = s := by
  rw [State.serSync, h, Nat.sub_self, State.serAdvance]

/-- Engines that no running command holds are not busy. -/
theorem Cluster.busy_and_eq_zero {x : Cluster} {m : BitVec 4} (h : ∀ r ∈ x.running, r.d.engmask &&& m = 0) :
    x.busy &&& m = 0 := by
  have hfold : ∀ (l : List SerRun) (b : BitVec 4), b &&& m = 0 → (∀ r ∈ l, r.d.engmask &&& m = 0) →
      l.foldl (fun b r => b ||| r.d.engmask) b &&& m = 0 := by
    intro l
    induction l with
    | nil => exact fun b hb _ => hb
    | cons r l ih =>
      intro b hb hl
      rw [List.forall_mem_cons] at hl
      refine ih _ ?_ hl.2
      rw [BitVec.and_comm, BitVec.and_or_distrib_left, BitVec.and_comm m b, BitVec.and_comm m, hb, hl.1]
      rfl
  exact hfold x.running 0 BitVec.zero_and h

theorem State.serRun_start (s : State) (c : ClusterId) (ix : Nat) (d : SerDesc) :
    (s.serRun c ix d).ix = ix ∧ (s.serRun c ix d).d = d ∧ (s.serRun c ix d).startGtc = s.gtc.count := by
  unfold State.serRun
  dsimp only
  split
  · exact ⟨rfl, rfl, rfl⟩
  · split
    · exact ⟨rfl, rfl, rfl⟩
    · split <;> exact ⟨rfl, rfl, rfl⟩

/-- A command starts where its step, its times, its structure and its engines allow it. -/
theorem State.serStart_starts {sel : SerDesc → Bool} (hcur : s.serCurrent c ix) (hsel : sel (s.serDesc c ix) = true)
    (hpaused : (s.cluster c).paused = false)
    (hstart : s.observed (s.baseOf (s.cluster c).step.toNat + (s.serDesc c ix).start) = true)
    (hlate : (s.serDesc c ix).deadline = 0xFFFFFFFF ∨
      s.observed (s.baseOf (s.cluster c).step.toNat + (s.serDesc c ix).deadline) = false)
    (hrun : ∀ r ∈ (s.cluster c).running, r.ix ≠ ix) (hbusy : (s.cluster c).busy &&& (s.serDesc c ix).engmask = 0)
    (hblocked : s.serBlocked c ix (s.serDesc c ix) = false) :
    s.serStart c ix sel =
      .next (s.modCluster c fun x => { x with running := x.running ++ [s.serRun c ix (s.serDesc c ix)] }) := by
  obtain ⟨hjob, hstep, hix, hdue, hended⟩ := hcur
  have hlate' : ∀ b, s.serDeadline c (s.serDesc c ix) = some b → s.observed b = false := by
    intro b hb
    by_cases hdl : (s.serDesc c ix).deadline = 0xFFFFFFFF
    · rw [State.serDeadline, if_pos hdl] at hb
      cases hb
    · rw [State.serDeadline, if_neg hdl] at hb
      cases hb
      exact hlate.resolve_left hdl
  have hnot : ((s.cluster c).running.any fun r => r.ix == ix) = false := by simpa using hrun
  unfold State.serStart
  simp only [State.serSync_of_step hstep]
  rw [if_pos]
  simp only [hjob, hpaused, hix, hsel, hdue, hstart, hended, hnot, hblocked, hbusy, List.contains_eq_mem, decide_true,
    decide_false, Bool.not_false, Bool.true_and, Bool.and_true, beq_self_eq_true]
  split
  next b hb => rw [hlate' b hb]; rfl
  next => rfl

/-- The rows of the table that start a command, each with the OPC and BATCH it takes. -/
def seracRows (d : SerDesc) : List (Prop × (ClusterId → Nat → Instr)) :=
  [(d.batch = true, Instr.seracBatch),
    (d.batch = false ∧ (d.opc = 0 ∨ d.opc = 1 ∨ 7 < d.opc), .seracFeed), (d.batch = false ∧ d.opc = 2, .seracChol),
    (d.batch = false ∧ d.opc = 3, .seracLdlt), (d.batch = false ∧ d.opc = 4, .seracSolve),
    (d.batch = false ∧ d.opc = 5, .seracInv), (d.batch = false ∧ d.opc = 6, .seracRoot),
    (d.batch = false ∧ d.opc = 7, .seracSqrt)]

/-- Each row starts the commands it takes. -/
theorem exec_seracRow {d : SerDesc} {i : Prop × (ClusterId → Nat → Instr)} (hi : i ∈ seracRows d) (h : i.1) :
    ∃ sel : SerDesc → Bool, sel d = true ∧ exec (i.2 c ix) s = s.serStart c ix sel := by
  simp only [seracRows, List.mem_cons, List.not_mem_nil, or_false] at hi
  obtain rfl | rfl | rfl | rfl | rfl | rfl | rfl | rfl := hi
  case inl => exact ⟨fun d => d.batch, h, rfl⟩
  all_goals obtain ⟨hbatch, hopc⟩ := h
  · exact ⟨fun d => !d.batch && (d.opc == 1 || d.opc == 0 || decide (7 < d.opc)), by
      rcases hopc with h | h | h <;> simp [hbatch, h], rfl⟩
  · exact ⟨fun d => !d.batch && d.opc == 2, by simp [hbatch, hopc], rfl⟩
  · exact ⟨fun d => !d.batch && d.opc == 3, by simp [hbatch, hopc], rfl⟩
  · exact ⟨fun d => !d.batch && d.opc == 4, by simp [hbatch, hopc], rfl⟩
  · exact ⟨fun d => !d.batch && d.opc == 5, by simp [hbatch, hopc], rfl⟩
  · exact ⟨fun d => !d.batch && d.opc == 6, by simp [hbatch, hopc], rfl⟩
  · exact ⟨fun d => !d.batch && d.opc == 7, by simp [hbatch, hopc], rfl⟩

/-! ### Exports (R193) -/

theorem Switch.bytes_length (w : Switch) : w.bytes.length = 64 := by
  simp only [Switch.bytes, List.length_append, leBytes_length]

/-- The numbers of the control block. -/
theorem Switch.bytes_fields {w : Switch} (hcur : w.cur < 2) (hiter : w.iter < 256) (hstatus : w.status < 2 ^ 16) :
    leAt w.bytes 0 1 = w.cur ∧ leAt w.bytes 4 4 = w.step.toNat ∧ leAt w.bytes 8 1 = w.iter ∧
      leAt w.bytes 10 2 = w.status ∧ leAt w.bytes 12 52 = 0 := by
  have hstep := w.step.isLt
  have hzero : leAt (leBytes 52 0) 0 52 = 0 := by
    rw [← List.append_nil (leBytes 52 0)]
    exact leAt_leBytes_append_of_lt (Nat.two_pow_pos _) []
  simp (disch := omega) only [Switch.bytes, List.append_assoc, leAt_leBytes_append_of_le, leAt_leBytes_append_of_lt,
    Nat.reduceSub, hzero, and_self]

/-- Before the boundary nothing changes. -/
theorem execExportSwitch_waits {w : Switch} {rest : List Switch} (hsw : (s.cluster c).switches = w :: rest)
    (h : s.observed (w.after.toNat / 64 + 1) = false) : execExportSwitch c s = .next s := by
  simp [execExportSwitch, hsw, h]

/-- At the boundary the control block is written and the switch is done. -/
theorem execExportSwitch_writes {w : Switch} {rest : List Switch} {k : Nat}
    (hsw : (s.cluster c).switches = w :: rest) (h : s.observed (w.after.toNat / 64 + 1) = true)
    (hloc : s.locate .serac w.dst = .mem k) (hfault : s.serWrFault w.dst 64 = false) :
    execExportSwitch c s = .next ((s.wr k w.bytes).modCluster c fun x => { x with switches := rest }) := by
  have hwr : s.serWr w.dst w.bytes = s.wr k w.bytes := State.serWr_eq_wr hloc (by rwa [w.bytes_length])
  simp [execExportSwitch, hsw, h, hwr]

end

/-! ### The obligation -/

/-- Settles O17: a row's start by what allows it, the switch by its two cases, and the control block by its numbers. -/
theorem seracCommandsStartAndExport : Obligations.SeracCommandsStartAndExport := by
  unfold Obligations.SeracCommandsStartAndExport
  constructor
  · intro s c ix cl d b now hcur hpaused hstart hlate hrun hblocked i hi h
    obtain ⟨sel, hsel, hexec⟩ := exec_seracRow (s := s) (c := c) (ix := ix) (d := d) hi h
    have hbusy := Cluster.busy_and_eq_zero fun r hr => (hrun r hr).2
    rw [State.serStart_starts hcur hsel hpaused (decide_eq_true hstart)
      (hlate.imp_right fun hl => decide_eq_false (not_le.2 hl)) (fun r hr => (hrun r hr).1) hbusy hblocked] at hexec
    obtain ⟨hix, hd, hgtc⟩ := s.serRun_start c ix d
    refine ⟨_, s.serRun c ix d, hexec, ?_, hix, hd, hgtc, ?_, rfl, fun c' hc' => s.cluster_modCluster_ne _ hc'⟩
    · rw [State.cluster_modCluster]
    · rw [State.cluster_modCluster]
  · intro s c w rest k hsw hloc hfault hcur hiter hstatus
    refine ⟨fun hbefore => execExportSwitch_waits hsw (decide_eq_false (by omega)), fun hafter => ?_⟩
    refine ⟨_, execExportSwitch_writes hsw (decide_eq_true (by omega)) hloc hfault, ?_⟩
    obtain ⟨h0, h4, h8, h10, h12⟩ := Switch.bytes_fields hcur hiter hstatus
    have hlen := w.bytes_length
    have hrd {o n : Nat} (h : o + n ≤ 64) : leNat ((s.wr k w.bytes).rd (k + o) n) = leAt w.bytes o n :=
      s.leNat_rd_wr k (by rwa [hlen])
    rw [State.cluster_modCluster, State.cluster_wr]
    exact ⟨rfl, (hrd (o := 0) (by omega)).trans h0, (hrd (by omega)).trans h4, (hrd (by omega)).trans h8,
      (hrd (by omega)).trans h10, (hrd (by omega)).trans h12, fun a ha => s.read_wr_apart (by rwa [hlen]), rfl, rfl⟩

end Sys2Proof.Machine
end

section
/-!
SUPPORT. How a Serac command ends (R175, R183, R193, R194, R199): its record, what its end leaves in its cluster, the
three ways it comes about, and the obligation they settle.
-/
namespace Sys2Proof.Machine
open Host

/-! ### The record (R175) -/

theorem State.serRecord_length (s : State) (r : SerRun) (o : SerOut) (step : Word) :
    (s.serRecord r o step).length = 96 := by
  unfold State.serRecord
  simp only [List.length_append, leBytes_length]

/-- The status, the operation and the two times of a record. -/
theorem State.serRecord_fields (s : State) (r : SerRun) (o : SerOut) (step : Word) :
    let b := s.serRecord r o step
    leAt b 0 2 = o.status % 2 ^ 16 ∧ leAt b 2 1 = r.d.opc % 2 ^ 8 ∧ leAt b 72 8 = r.startGtc.toNat ∧
      leAt b 80 8 = s.gtc.count.toNat := by
  intro b
  have hstart := r.startGtc.isLt
  have hnow := s.gtc.count.isLt
  unfold b State.serRecord
  simp (disch := omega) only [List.append_assoc, leAt_leBytes_append_of_le, leAt_leBytes_append, Nat.reduceSub]
  exact ⟨trivial, trivial, Nat.mod_eq_of_lt hstart, Nat.mod_eq_of_lt hnow⟩

/-! ### What an end leaves -/

/-- A structure with the new W of a FEED (R183). -/
def SerRun.feeding (r : SerRun) (t : SerStruct) : SerStruct :=
  match r.feed with
  | some w => { t with w := w, fed := true }
  | none => t

/-- A structure with the published copy of an outcome (R193). -/
def SerOut.publishing (o : SerOut) (t : SerStruct) : SerStruct :=
  match o.result with
  | some p => if t.respub then { t with pub := some (o.pub p) } else t
  | none => t

/-- A cluster with one structure changed. -/
def Cluster.modStruct (x : Cluster) (k : Nat) (f : SerStruct → SerStruct) : Cluster :=
  { x with structs := modAt x.structs k f }

theorem Cluster.modStruct_id (x : Cluster) (k : Nat) : (x.modStruct k fun t => t) = x := by
  rw [Cluster.modStruct, modAt, show (fun t : SerStruct => t) = id from rfl, List.modify_id]

theorem Cluster.modStruct_modStruct (x : Cluster) (k : Nat) (f g : SerStruct → SerStruct) :
    (x.modStruct k f).modStruct k g = x.modStruct k fun t => g (f t) := by
  simp only [Cluster.modStruct, modAt, List.modify_modify_eq]
  rfl

theorem State.modCluster_id (s : State) (c : ClusterId) : (s.modCluster c fun x => x) = s := by
  simp [State.modCluster]

/-- A cluster that has counted a record (R199), and its digest. -/
def Cluster.counting (x : Cluster) (o : SerOut) (g : Digest) : Cluster :=
  { x with
    cmds := x.cmds + 1
    partialN := if o.status = 2 then x.partialN + 1 else x.partialN
    abandon := if o.status = 3 then x.abandon + 1 else x.abandon
    restart := x.restart + BitVec.ofNat 64 o.restarts
    guard := x.guard + BitVec.ofNat 64 o.guards
    digest := g }

theorem Cluster.counting_orFlag (x : Cluster) (o : SerOut) (b : Bool) (k : Nat) (g : Digest) :
    x.counting (o.orFlag b k) g = x.counting o g := by
  unfold SerOut.orFlag
  split <;> rfl

/-- A cluster after a command's end: its structure, its counters, and its engines released (R173). -/
def Cluster.ending (x : Cluster) (r : SerRun) (o : SerOut) (g : Digest) : Cluster :=
  let y := (x.modStruct r.d.struct fun t => o.publishing (r.feeding t)).counting o g
  { y with running := x.running.filter fun q => q.ix != r.ix, ended := x.ended ++ [r.ix] }

section
variable {s : State} {c : ClusterId} {r : SerRun} {o : SerOut} {k : Nat}

/-- A command of no solution ends by its new W, its publication, its record and its release (R183, R193). -/
theorem State.serFinish_of_unsolved (hsolved : r.solved = none) :
    let p := (s.modCluster c fun x => x.modStruct r.d.struct r.feeding).serPublish c r.d o
    s.serFinish c r o = (p.1.serPut c r p.2.1 r.d.recAddr p.2.2).serEnd c r.ix := by
  unfold State.serFinish SerRun.feeding
  simp only [hsolved, List.foldl_nil, List.append_nil]
  cases r.feed with
  | some w => rfl
  | none => simp only [Cluster.modStruct_id, State.modCluster_id]

/-- A publication that exports nothing changes the structure's copy only, and its data is empty (R193). -/
theorem State.serPublish_of_not_exp {d : SerDesc} (hexp : d.exp = false) : ∃ b, s.serPublish c d o =
    (s.modCluster c fun x => x.modStruct d.struct o.publishing, o.orFlag b 0, []) := by
  unfold State.serPublish SerOut.publishing
  cases o.result with
  | none => exact ⟨false, by simp only [Cluster.modStruct_id, State.modCluster_id]; rfl⟩
  | some p => exact ⟨true, by simp only [hexp, Bool.false_and, Bool.false_eq_true, if_false]; rfl⟩

/-- A record where no fault meets it is written and counted (R199). -/
theorem State.serPut_writes {addr : Nat} {data : List (Nat × List Byte)} (hrec : s.recordAt addr k) :
    ∃ g, s.serPut c r o addr data =
      (s.wr k (s.serRecord r o (s.cluster c).step)).modCluster c fun x => x.counting o g := by
  obtain ⟨hloc, hfault⟩ := hrec
  have hlen := s.serRecord_length r o (s.cluster c).step
  unfold State.serPut
  generalize s.serRecord r o (s.cluster c).step = b at hlen
  have hwr : s.serWr addr b = s.wr k b := State.serWr_eq_wr hloc (by rwa [hlen])
  dsimp only
  rw [hlen, hfault, if_neg Bool.false_ne_true, hwr]
  generalize s.wr k b = u
  exact ⟨_, rfl⟩

/-- A command that exports nothing and has no solution changes memory by its record only, and its cluster by its end. -/
theorem State.serFinish_eq (hrec : s.recordAt r.d.recAddr k) (hexp : r.d.exp = false) (hsolved : r.solved = none) :
    ∃ b g, s.serFinish c r o = (s.wr k (s.serRecord r (o.orFlag b 0) (s.cluster c).step)).modCluster c fun x =>
      x.ending r o g := by
  obtain ⟨b, hpub⟩ := State.serPublish_of_not_exp (s := s.modCluster c fun x => x.modStruct r.d.struct r.feeding) (c := c)
    (o := o) hexp
  rw [State.modCluster_modCluster] at hpub
  simp only [Cluster.modStruct_modStruct] at hpub
  obtain ⟨g, hput⟩ := State.serPut_writes (c := c) (r := r) (o := o.orFlag b 0) (data := [])
    (s := s.modCluster c fun x => x.modStruct r.d.struct fun t => o.publishing (r.feeding t)) hrec
  refine ⟨b, g, ?_⟩
  rw [State.serFinish_of_unsolved hsolved, hpub]
  simp only [hput, State.serEnd, State.wr_modCluster, State.modCluster_modCluster, State.cluster_modCluster,
    Cluster.counting_orFlag]
  rfl

/-- What the end of a cluster's one running command does: its record is written, and the rest of memory, the other
clusters and the integrity block stay. -/
theorem State.serFinish_effect (hrec : s.recordAt r.d.recAddr k) (hexp : r.d.exp = false) (hsolved : r.solved = none) :
    let u := s.serFinish c r o
    (∃ g, u.cluster c = (s.cluster c).ending r o g) ∧ leNat (u.rd k 2) = o.status % 2 ^ 16 ∧
      leNat (u.rd (k + 2) 1) = r.d.opc % 2 ^ 8 ∧ leNat (u.rd (k + 72) 8) = r.startGtc.toNat ∧
      leNat (u.rd (k + 80) 8) = s.gtc.count.toNat ∧
      (∀ a, a < k ∨ k + 96 ≤ a → Memory.read 0 u.mem a = Memory.read 0 s.mem a) ∧
      (∀ c' ≠ c, u.cluster c' = s.cluster c') ∧ u.integ = s.integ := by
  obtain ⟨b, g, heq⟩ := State.serFinish_eq (c := c) (o := o) hrec hexp hsolved
  have hlen := s.serRecord_length r (o.orFlag b 0) (s.cluster c).step
  obtain ⟨hstatus, hopc, hstart, hnow⟩ := s.serRecord_fields r (o.orFlag b 0) (s.cluster c).step
  have hrd {i n : Nat} (h : i + n ≤ 96) := s.leNat_rd_wr k (h.trans_eq hlen.symm)
  rw [SerOut.orFlag_status] at hstatus
  dsimp only
  rw [heq, State.cluster_modCluster, State.cluster_wr, State.modCluster_integ, State.wr_integ]
  refine ⟨⟨g, rfl⟩, (hrd (i := 0) (by omega)).trans hstatus, (hrd (by omega)).trans hopc, (hrd (by omega)).trans hstart,
    (hrd (by omega)).trans hnow, fun a ha => s.read_wr_apart (by rwa [hlen]), fun c' hc' => ?_, rfl⟩
  rw [State.cluster_modCluster_ne _ _ hc', State.cluster_wr]

theorem Cluster.ending_running {x : Cluster} {q : SerRun} {g : Digest} (h : x.running = [q]) (hix : q.ix = r.ix) :
    (x.ending r o g).running = [] := by
  simp [Cluster.ending, h, hix]

theorem Cluster.ending_structs_self {x : Cluster} {g : Digest} {t : SerStruct} (h : x.structs[r.d.struct]? = some t) :
    (x.ending r o g).structs[r.d.struct]? = some (o.publishing (r.feeding t)) := by
  simp [Cluster.ending, Cluster.counting, Cluster.modStruct, modAt, h]

theorem Cluster.ending_structs_other {x : Cluster} {g : Digest} {i : Nat} (h : i ≠ r.d.struct) :
    (x.ending r o g).structs[i]? = x.structs[i]? := by
  simp [Cluster.ending, Cluster.counting, Cluster.modStruct, modAt, h.symm]

/-- Without a new W and a result every structure stays. -/
theorem Cluster.ending_structs_none {x : Cluster} {g : Digest} (hfeed : r.feed = none) (hres : o.result = none) :
    (x.ending r o g).structs = x.structs := by
  simp only [Cluster.ending, Cluster.counting, SerOut.publishing, SerRun.feeding, hfeed, hres, Cluster.modStruct_id]

/-- A command that stops keeps neither a new W nor a solution. -/
def SerRun.stopped (r : SerRun) : SerRun := { r with feed := none, solved := none }

/-- The outcome of a command that stops with a status. -/
def SerOut.stopped (o : SerOut) (status : Nat) : SerOut := { o with status := status, result := none, eOut := 0 }

theorem State.serStop_eq (s : State) (c : ClusterId) (r : SerRun) (status : Nat) :
    s.serStop c r status = s.serFinish c r.stopped (r.out.stopped status) := rfl

/-- What a stop does: the record says the status, and no structure changes (R175, R194). -/
theorem State.serStop_effect {status : Nat} (hrun : (s.cluster c).running = [r]) (hrec : s.recordAt r.d.recAddr k)
    (hexp : r.d.exp = false) :
    let u := s.serStop c r status
    (u.cluster c).running = [] ∧ leNat (u.rd k 2) = status % 2 ^ 16 ∧
      (u.cluster c).abandon = (if status = 3 then (s.cluster c).abandon + 1 else (s.cluster c).abandon) ∧
      (u.cluster c).cmds = (s.cluster c).cmds + 1 ∧ (u.cluster c).structs = (s.cluster c).structs ∧
      (u.cluster c).engFault = (s.cluster c).engFault ∧
      (∀ a, a < k ∨ k + 96 ≤ a → Memory.read 0 u.mem a = Memory.read 0 s.mem a) ∧ u.integ = s.integ := by
  dsimp only
  rw [State.serStop_eq]
  obtain ⟨⟨g, hcl⟩, hstatus, -, -, -, hmem, -, hinteg⟩ :=
    State.serFinish_effect (c := c) (r := r.stopped) (o := r.out.stopped status) hrec hexp rfl
  rw [hcl]
  exact ⟨Cluster.ending_running hrun rfl, hstatus, rfl, rfl, Cluster.ending_structs_none rfl rfl, rfl, hmem, hinteg⟩

/-! ### The three ends -/

/-- A running command that is no batch, iterates no more and has no deadline completes. -/
theorem execSeracCommandComplete_finishes (hrun : (s.cluster c).running = [r]) (hpaused : (s.cluster c).paused = false)
    (hbatch : r.batchIn = 0) (hiter : r.iterating = false) (hdl : r.d.deadline = 0xFFFFFFFF) :
    execSeracCommandComplete c r.ix s = .next (s.serFinish c r r.out) := by
  simp [execSeracCommandComplete, hrun, hpaused, State.dlNear, State.serDeadline, hdl, hbatch, hiter]

/-- A running command that observes its deadline stops, abandoned (R194). -/
theorem execSeracDeadline_stops (hrun : (s.cluster c).running = [r]) (hbatch : r.batchIn = 0)
    (hcur : s.serCurrent c r.ix) (hdesc : s.serDesc c r.ix = r.d) (hopc : r.d.opc ≠ 6) (hdl : r.d.deadline ≠ 0xFFFFFFFF)
    (hobs : s.observed (s.baseOf (s.cluster c).step.toNat + r.d.deadline) = true) :
    execSeracDeadline c r.ix s = .next (s.serStop c r 3) := by
  obtain ⟨hjob, hstep, hix, hdue, hended⟩ := hcur
  rw [hdesc] at hdue
  simp [execSeracDeadline, State.serSync_of_step hstep, hdesc, State.serDeadline, hdl, hjob, hix, hdue, hobs, hended,
    hrun, hbatch, hopc]

/-- The state in which a command ends whose engine has failed. -/
def State.engineFailed (s : State) (c : ClusterId) (e : Fin 4) : State :=
  s.modCluster c fun x => { x with engFault := x.engFault ||| BitVec.ofNat 4 (2 ^ e.val) }

theorem State.relayOut_frame (s : State) (f : LomFrame) : (s.relayOut f).clusters = s.clusters ∧
    (s.relayOut f).mem = s.mem ∧ (s.relayOut f).integ = s.integ := by
  unfold State.relayOut
  split
  · exact ⟨rfl, rfl, rfl⟩
  · dsimp only
    split <;> exact ⟨rfl, rfl, rfl⟩

/-- A report changes nothing of the clusters and of memory, and is counted (R530). -/
theorem State.report_frame (s : State) (code : BitVec 16) (kind : UnitKind) (ix : Nat) (d0 d1 : Word) :
    let u := (s.report code kind ix d0 d1).1
    u.clusters = s.clusters ∧ u.mem = s.mem ∧ u.integ.evreps = s.integ.evreps + 1 := by
  intro u
  obtain ⟨hclusters, hmem, hinteg⟩ := State.relayOut_frame _ _
  exact ⟨hclusters, hmem, congrArg (fun i => i.evreps + 1) hinteg⟩

theorem State.engineFailed_cluster (s : State) (c : ClusterId) (e : Fin 4) : (s.engineFailed c e).cluster c =
    { s.cluster c with engFault := (s.cluster c).engFault ||| BitVec.ofNat 4 (2 ^ e.val) } :=
  s.cluster_modCluster c _

/-- The failure of a physical engine reported, its event waiting (R531). -/
def State.engineReported (s : State) (c : ClusterId) (phys : Nat) : State :=
  let e := s.report 0x0032 .engine phys (BitVec.ofNat 64 c.val) (BitVec.ofNat 64 phys)
  { e.1 with integ := { e.1.integ with waiting := e.1.integ.waiting ++ [e.2] } }

theorem State.engineReported_frame (s : State) (c : ClusterId) (phys : Nat) :
    let u := s.engineReported c phys
    u.clusters = s.clusters ∧ u.mem = s.mem ∧ u.integ.evreps = s.integ.evreps + 1 :=
  s.report_frame 0x0032 .engine phys (BitVec.ofNat 64 c.val) (BitVec.ofNat 64 phys)

/-- A command whose engine fails stops, failed, and the failure is reported (R167, R531). -/
theorem execSeracEngineFault_stops {e : Fin 4} (hrun : (s.cluster c).running = [r]) (hbatch : r.batchIn = 0)
    (heng : r.d.engmask.getLsbD e.val = true) : execSeracEngineFault c e s =
      .next (((s.engineFailed c e).serStop c r 0xB).engineReported c (s.physEngine c e)) := by
  have hfind : (s.cluster c).running.find? (fun r => r.d.engmask.getLsbD e.val) = some r := by
    rw [hrun]
    exact List.find?_cons_of_pos heng
  unfold execSeracEngineFault State.engineReported State.engineFailed
  simp only [hfind, hbatch, ne_eq, not_true_eq_false, if_false]

end

/-! ### The obligation -/

/-- Settles O18: each of the three ends is the common end of a command with its outcome, read off the cluster, the record
and memory. -/
theorem seracCommandsRecordTheirEnd : Obligations.SeracCommandsRecordTheirEnd := by
  unfold Obligations.SeracCommandsRecordTheirEnd
  intro s c r k cl hrun hrec hbatch hiter hexp hsolved
  refine ⟨?complete, ?deadline, ?engine⟩
  case complete =>
    intro hpaused hdl hstatus hopc hexcl
    obtain ⟨⟨g, hcl⟩, h0, h2, h72, h80, hmem, hothers, -⟩ :=
      State.serFinish_effect (c := c) (o := r.out) hrec hexp hsolved
    refine ⟨_, execSeracCommandComplete_finishes hrun hpaused hbatch hiter hdl, ?_⟩
    rw [hcl]
    refine ⟨Cluster.ending_running hrun rfl, rfl, rfl, h0.trans (Nat.mod_eq_of_lt hstatus),
      h2.trans (Nat.mod_eq_of_lt hopc), h72, h80, hmem, fun w t hw ht => ?_, fun p t hfeed hp ht hrespub => ?_,
      fun i hi => Cluster.ending_structs_other hi, hothers⟩
    · rw [Cluster.ending_structs_self ht]
      simp only [SerOut.publishing, hexcl w hw, SerRun.feeding, hw]
    · rw [Cluster.ending_structs_self ht]
      simp only [SerOut.publishing, hp, SerRun.feeding, hfeed, hrespub, if_true]
  case deadline =>
    intro hcur hdesc hopc hdl hobs
    obtain ⟨hrunning, hstatus, habandon, hcmds, hstructs, -, hmem, -⟩ :=
      State.serStop_effect (status := 3) hrun hrec hexp
    exact ⟨_, execSeracDeadline_stops hrun hbatch hcur hdesc hopc hdl (decide_eq_true hobs), hrunning, hstatus, habandon,
      hcmds, hstructs, hmem⟩
  case engine =>
    intro e heng
    have hcl := s.engineFailed_cluster c e
    obtain ⟨hrunning, hstatus, -, hcmds, hstructs, hfault, hmem, hinteg⟩ :=
      State.serStop_effect (s := s.engineFailed c e) (c := c) (r := r) (k := k) (status := 0xB)
        (by rw [hcl]; exact hrun) hrec hexp
    obtain ⟨hclusters, humem, hevreps⟩ :=
      ((s.engineFailed c e).serStop c r 0xB).engineReported_frame c (s.physEngine c e)
    rw [hcl] at hcmds hstructs hfault
    refine ⟨_, execSeracEngineFault_stops hrun hbatch heng, ?_⟩
    rw [State.cluster, hclusters, State.rd, humem]
    refine ⟨hrunning, hstatus, ?_, hstructs, ?_, hcmds, hmem⟩
    · have hbit : (BitVec.ofNat 4 (2 ^ e.val)).getLsbD e.val = true := by
        rw [BitVec.getLsbD_ofNat, Nat.testBit_two_pow_self, decide_eq_true e.isLt, Bool.and_self]
      refine (congrArg (fun b => b.getLsbD e.val) hfault).trans ?_
      rw [BitVec.getLsbD_or, hbit, Bool.or_true]
    · rw [hevreps, hinteg]
      rfl

end Sys2Proof.Machine
end

section
/-!
SUPPORT. The vector queue (R243): how the vector instructions and VCHAIN join it, and the obligation about their issue.
-/
namespace Sys2Proof.Machine

/-! ### What an instruction takes with it -/

theorem getLsbD_foldl_or_bit {n : Nat} (l : List Nat) (w : BitVec n) (i : Nat) :
    (l.foldl (fun w k => w ||| BitVec.ofNat n (2 ^ k)) w).getLsbD i = (w.getLsbD i || decide (i < n ∧ i ∈ l)) := by
  induction l generalizing w with
  | nil => simp
  | cons k l ih =>
    have hbit : (w ||| BitVec.ofNat n (2 ^ k)).getLsbD i = (w.getLsbD i || decide (i < n ∧ i = k)) := by
      rw [BitVec.getLsbD_or, BitVec.getLsbD_ofNat, Nat.testBit_two_pow, Bool.decide_and, decide_eq_decide.2 eq_comm]
    rw [List.foldl_cons, ih, hbit]
    simp only [List.mem_cons, and_or_left, Bool.decide_or, Bool.or_assoc]

/-- The word of some bits has those bits. -/
theorem getLsbD_ofOnes {n : Nat} (l : List Nat) {i : Nat} (h : i < n) : (ofOnes n l).getLsbD i = decide (i ∈ l) := by
  rw [ofOnes, getLsbD_foldl_or_bit]
  simp [h]

theorem Seq.predBits_getLsbD (q : Seq) (p : BitVec 3) : q.predBits.getLsbD p.toNat = (q.pred p).val := by
  have hp : p.toNat < 8 := p.isLt
  rw [Seq.predBits, getLsbD_ofOnes _ hp]
  simp [hp]

/-- The operation that a vector instruction issued now makes (R205, R229). -/
def State.issuedVec (s : State) (t : TileId) (v : VInstr) (desc : Option ChainDesc) : VecOp :=
  let q := (s.tile t).seq
  ⟨q.hdr v.wait, v, q.regs, q.predBits, desc, false, [], 0, false⟩

/-- The fields of a chain-program descriptor as bit fields of its 64 bytes (R227). -/
theorem ChainDesc.ofBytes_eq (b : List Byte) :
    let n := leNat b
    ChainDesc.ofBytes b = ⟨fieldAt n 0 32, fieldAt n 32 8, fieldAt n 64 32, tab 12 fun i => fieldAt n (128 + 32 * i) 32,
      fieldAt n 40 24 != 0 || fieldAt n 96 32 != 0⟩ := by
  have hadv (i : Nat) : 8 * (16 + 4 * i) = 128 + 32 * i := by omega
  simp only [ChainDesc.ofBytes, leAt_eq_fieldAt, hadv]

/-! ### Joining the queue -/

/-- A vector instruction that has joined the queue and been retired. -/
theorem State.pushVec_passed (s : State) (t : TileId) (v : VInstr) (desc : Option ChainDesc) :
    let x := s.tile t
    ∃ r g, s.pushVec t v desc = s.setTile t { x with
        vec := { x.vec with queue := x.vec.queue ++ [s.issuedVec t v desc] }, seq := r, digests := g } ∧
      x.seq.passed r (x.seq.pc + 8) ∧ x.seq.likeBut r := by
  obtain ⟨r, g, heq, hpassed, hlike⟩ := (s.modTile t fun x =>
    { x with vec := { x.vec with queue := x.vec.queue ++ [s.issuedVec t v desc] } }).retireNext_passed t []
  rw [State.tile_modTile] at heq hpassed hlike
  exact ⟨r, g, heq.trans (by rw [State.modTile, State.setTile_setTile]), hpassed, hlike⟩

section
variable {s : State} {t : TileId} {w : Word} {v : VInstr} (h : s.issuesCop t w (.vec v))
  (hroom : (s.tile t).vec.waiting < 32)
include h hroom

/-- A vector instruction that issues and finds room joins the queue, and with `eager` an engine that has nothing
unfinished takes its step at once. -/
theorem State.vecOp_joins (hheld : (v.op = .st ∨ v.op = .xcvt) → (s.tile t).seq.branches = []) (eager : Bool) :
    s.vecOp t eager v.op = .next (if eager && (s.tile t).vec.next.isNone then (s.pushVec t v none).vecStep t
      else s.pushVec t v none) := by
  have hfree : ((v.op = .st || v.op = .xcvt) && (s.tile t).seq.tag.isSome) = false := by
    by_cases hop : v.op = .st ∨ v.op = .xcvt
    case pos => simp [Seq.tag, hheld hop]
    case neg => simpa using fun hor : v.op = .st ∨ v.op = .xcvt => absurd hor hop
  refine State.issueCop_of_issuesCop h (if_pos rfl) (decide_eq_false (Nat.not_le.2 hroom)) ?_
  simp only [hfree]
  rfl

/-- A VCHAIN that issues with no tag, finds room and reads its descriptor joins the queue with it (R227, R244). -/
theorem execVchain_joins (hop : v.op = .chain) (hbranches : (s.tile t).seq.branches = []) {b : List Byte}
    (hb : s.descriptor t ((s.tile t).seq.sreg v.va) 64 64 = .ok b) :
    exec (.vchain t) s = .next (s.pushVec t v (some (.ofBytes b))) := by
  change execVchain t s = _
  refine State.issueCop_of_issuesCop h (if_pos hop) (decide_eq_false (Nat.not_le.2 hroom)) ?_
  simp [Seq.tag, hbranches, hb]

end

/-! ### The obligation -/

/-- The rows of the table that issue a vector instruction, each beside its operation. -/
def vectorRows : List (VOp × (TileId → Bool → Instr)) :=
  [(.add, .vecAdd), (.sub, .vecSub), (.mul, .vecMul), (.fma, .vecFma), (.max, .vecMax),
    (.min, .vecMin), (.abs, .vecAbs), (.neg, .vecNeg), (.iadd, .iadd), (.isub, .isub), (.iand, .iand),
    (.ior, .ior), (.ixor, .ixor), (.ishl, .ishl), (.ishr, .ishr), (.isra, .isra), (.cmp, .vcmp),
    (.mand, .mand), (.mor, .mor), (.mxor, .mxor), (.mnot, .mnot), (.trans, .vtrans), (.bcr, .vbcr),
    (.bcc, .vbcc), (.perm, .vperm), (.cvt, .vcvt), (.rcp, .rcp), (.div, .vecDiv), (.sqrt, .vecSqrt),
    (.rsqrt, .rsqrt), (.exp, .exp), (.exp2, .exp2), (.log, .log), (.log2, .log2), (.sin, .sin), (.cos, .cos),
    (.tanh, .tanh), (.lgst, .lgst), (.erf, .erf), (.rsum, .vrsum), (.rssq, .vrssq), (.topk, .vtopk),
    (.ld, .vld), (.st, .vst), (.xcvt, .vxcvt)]

/-- Each row issues its operation. -/
theorem exec_vectorRow {r : VOp × (TileId → Bool → Instr)} (hr : r ∈ vectorRows) (t : TileId) (eager : Bool) (s : State) :
    exec (r.2 t eager) s = s.vecOp t eager r.1 := by
  fin_cases hr <;> rfl

/-- Settles O12: every row is an issue of its operation, which joins the queue as the instruction says; a step taken
at once is the step of completion on the queue it has joined. -/
theorem vectorInstructionsIssue : Obligations.VectorInstructionsIssue := by
  unfold Obligations.VectorInstructionsIssue
  constructor
  · intro row hrow v s t w x q hop h hroom hheld
    have hexec (eager : Bool) := (exec_vectorRow hrow t eager s).trans (hop ▸ State.vecOp_joins h hroom hheld eager)
    obtain ⟨r, g, hpush, hpassed, hlike⟩ := s.pushVec_passed t v none
    refine ⟨⟨_, s.issuedVec t v none, hexec false, ?_⟩, fun hidle => ⟨_, _, hexec false, rfl, ?_⟩⟩
    · rw [Bool.false_and, if_neg Bool.false_ne_true, hpush, State.tile_setTile]
      exact ⟨rfl, rfl, rfl, rfl, rfl, rfl, q.predBits_getLsbD, hpassed, hlike, rfl⟩
    · exact (hexec true).trans (by simp [x, hidle])
  · intro v s t w x q h hroom hop hbranches k hal hk hlo hhi
    let d : ChainDesc := .ofBytes (tab 64 fun j => s.loadByte t (k + j))
    obtain ⟨r, g, hpush, hpassed, hlike⟩ := s.pushVec_passed t v (some d)
    refine ⟨_, s.issuedVec t v (some d), execVchain_joins h hroom hop hbranches (State.descriptor_ok hal hk hlo hhi), ?_⟩
    rw [hpush, State.tile_setTile]
    exact ⟨rfl, congrArg some (ChainDesc.ofBytes_eq _), rfl, rfl, rfl, hpassed, hlike⟩

end Sys2Proof.Machine
end

section
/-!
SUPPORT. Vector instructions on 32-bit elements, lane by lane, and on masks (R200 to R203, R208 to R210, R627): when they
are refused for their TYPE, and what they write.
-/
namespace Sys2Proof.Machine

/-! ### Tables -/

theorem tab_map {α β : Type} (n : Nat) (f : Nat → α) (g : α → β) : (tab n f).map g = tab n fun i => g (f i) :=
  List.map_map ..

theorem tab_zip {α β : Type} (n : Nat) (f : Nat → α) (g : Nat → β) : (tab n f).zip (tab n g) = tab n fun i => (f i, g i) :=
  List.zip_map' ..

theorem tab_foldl {α β : Type} (n : Nat) (f : Nat → α) (g : β → α → β) (b : β) :
    (tab n f).foldl g b = (List.range n).foldl (fun b i => g b (f i)) b :=
  List.foldl_map

theorem range_eq_tab (n : Nat) : List.range n = tab n fun i => i := (List.map_id' _).symm

theorem vtab_getElem {α : Type} {n i : Nat} (f : Nat → α) (h : i < n) : (vtab n f)[i] = f i := by
  simp [vtab, tab]

theorem vtab_congr {α : Type} {n : Nat} {f g : Nat → α} (h : ∀ i < n, f i = g i) : vtab n f = vtab n g :=
  Vector.toList_inj.1 (show tab n f = tab n g from tab_congr h)

/-! ### Lanes (R200 to R202) -/

/-- Lane `i` of a register. -/
def VReg.lane (v : VReg) (i : Nat) : BitVec 32 := v.toList.getD i 0

theorem VReg.lane_eq (v : VReg) (i : Fin 256) : v.lane i = v[i] := by
  simp [VReg.lane]

/-- A TYPE under which each lane holds one element. -/
def LaneTy (ty : Nat) : Prop := ty = 1 ∨ ty = 4

theorem LaneTy.count {ty : Nat} (h : LaneTy ty) : tyCount ty = 256 := by
  rcases h with rfl | rfl <;> rfl

theorem VReg.elems_of_laneTy {ty : Nat} (h : LaneTy ty) (v : VReg) : v.elems ty = tab 256 fun i => (v.lane i).toNat := by
  have hlanes : v.toList = tab 256 v.lane := by
    refine List.ext_getElem (by simp [tab_length]) fun i hi _ => ?_
    simp [tab, VReg.lane, List.getElem?_eq_getElem hi]
  have hmap : v.toList.map (·.toNat) = tab 256 fun i => (v.lane i).toNat := by rw [hlanes, tab_map]
  rcases h with rfl | rfl <;> exact hmap

theorem VReg.ofElems_of_laneTy {ty : Nat} (h : LaneTy ty) (f : Nat → Nat) :
    VReg.ofElems ty (tab 256 f) = vtab 256 fun i => BitVec.ofNat 32 (f i) := by
  have hlanes : VReg.ofElems ty (tab 256 f) = vtab 256 fun i => BitVec.ofNat 32 ((tab 256 f).getD i 0) := by
    rcases h with rfl | rfl <;> rfl
  exact hlanes.trans (vtab_congr fun i hi => by rw [tab_getD f 0 hi])

theorem VecIn.active_of_laneTy {ty : Nat} (h : LaneTy ty) (x : VecIn) : x.active ty = tab 256 x.lane := by
  rcases h with rfl | rfl <;> rfl

theorem VecIn.lane_iff (x : VecIn) (i : Nat) : x.lane i = true ↔ x.v.active x.masks i := by
  rw [VecIn.lane, Bool.or_eq_true, Bool.not_eq_true']

/-- The destination register with `new` in its active lanes (R202). -/
def VecIn.laneReg (x : VecIn) (new : Nat → BitVec 32) : VReg :=
  vtab 256 fun i => if x.lane i then new i else if x.v.zm then 0 else x.regD.lane i

theorem VecIn.laneReg_getElem (x : VecIn) (new : Nat → BitVec 32) (i : Fin 256) :
    (x.laneReg new)[i] = if x.v.active x.masks i then new i else if x.v.zm then 0 else x.regD[i] := by
  rw [← VReg.lane_eq x.regD]
  simp only [← x.lane_iff]
  exact vtab_getElem _ i.isLt

theorem VecIn.laneReg_congr (x : VecIn) {f g : Nat → BitVec 32} (h : ∀ i < 256, x.lane i = true → f i = g i) :
    x.laneReg f = x.laneReg g :=
  vtab_congr fun i hi => by
    split
    next hact => exact h i hi hact
    next => rfl

/-- What an instruction does that writes `r` to its destination register and raises `fl`. -/
structure VecIn.Gives (x : VecIn) (o : VecOut) (r : VReg) (fl : Flags) : Prop where
  regs : o.regs = x.regs.set x.v.vd.toFin r
  masks : o.masks = x.masks
  flags : o.flags = fl
  writes : o.writes = []

theorem VecIn.outRegs_gives (x : VecIn) (r : VReg) (fl : Flags) : x.Gives (x.outRegs [(x.v.vd.toFin, r)] fl) r fl :=
  ⟨rfl, rfl, rfl, rfl⟩

theorem VecIn.Gives.vd {x : VecIn} {out : VecOut} {r : VReg} {fl : Flags} (h : x.Gives out r fl) :
    out.regs[x.v.vd.toFin] = r := by
  rw [h.regs]
  exact Vector.getElem_set_self ..

theorem VecIn.Gives.other {x : VecIn} {out : VecOut} {r : VReg} {fl : Flags} (h : x.Gives out r fl) {k : Fin 32}
    (hk : k ≠ x.v.vd.toFin) : out.regs[k] = x.regs[k] := by
  rw [h.regs]
  exact Vector.getElem_set_ne _ _ fun e => hk (Fin.ext e.symm)

/-- Elements that are lanes: the active ones get their new codes and raise their flags (R202, R203). -/
theorem VecIn.outElems_of_laneTy {ty : Nat} (h : LaneTy ty) (x : VecIn) (new : Nat → Nat × Flags) :
    x.Gives (x.outElems ty (tab 256 new)) (x.laneReg fun i => BitVec.ofNat 32 (new i).1)
      ((List.range 256).foldl (fun f i => if x.lane i then f ||| (new i).2 else f) 0) := by
  have hreg : VReg.ofElems ty ((tab 256 fun i => (x.lane i, (x.regD.lane i).toNat, new i)).map fun p =>
      if p.1 then p.2.2.1 else if x.v.zm then 0 else p.2.1) = x.laneReg fun i => BitVec.ofNat 32 (new i).1 := by
    rw [tab_map, VReg.ofElems_of_laneTy h, VecIn.laneReg]
    congr 1
    funext i
    split
    · rfl
    · split <;> simp
  rw [VecIn.outElems, x.active_of_laneTy h, VReg.elems_of_laneTy h, tab_zip, tab_zip, tab_zip, hreg, tab_foldl]
  exact x.outRegs_gives _ _

theorem foldl_or_flags_eq_zero {l : List Nat} {act : Nat → Bool} {fl : Nat → Flags}
    (h : ∀ i ∈ l, act i = true → fl i = 0) : l.foldl (fun f i => if act i then f ||| fl i else f) 0 = 0 := by
  induction l with
  | nil => rfl
  | cons i l ih =>
    have hi : (if act i then (0 : Flags) ||| fl i else 0) = 0 := by
      split
      next hact => rw [h i List.mem_cons_self hact]; rfl
      next => rfl
    rw [List.foldl_cons, hi]
    exact ih fun j hj => h j (List.mem_cons_of_mem i hj)

/-- An element-wise instruction whose active lanes get `new` and raise no flag. -/
theorem VecIn.elemwise_gives (x : VecIn) (h : LaneTy x.v.ty.toNat) {new : Nat → BitVec 32}
    (hop : ∀ i < 256, elemOp x.v.op x.v.ty.toNat x.rnd x.v.sat (x.regA.lane i).toNat (x.regB.lane i).toNat
      (x.regC.lane i).toNat = ((new i).toNat, 0)) :
    x.Gives x.elemwise (x.laneReg new) 0 := by
  let es (i : Nat) : Nat × Flags := if x.lane i then ((new i).toNat, 0) else (0, 0)
  have hes : (tab 256 fun i => if x.lane i then elemOp x.v.op x.v.ty.toNat x.rnd x.v.sat (x.regA.lane i).toNat
      (x.regB.lane i).toNat (x.regC.lane i).toNat else (0, 0)) = tab 256 es :=
    tab_congr fun i hi => by rw [hop i hi]
  have hout : x.elemwise = x.outElems x.v.ty.toNat (tab 256 es) := by
    simp only [VecIn.elemwise, x.active_of_laneTy h, VReg.elems_of_laneTy h, tab_zip, tab_map, ← hes]
  have hact (i : Nat) (h : x.lane i = true) : es i = ((new i).toNat, 0) := if_pos h
  have hreg : (x.laneReg fun i => BitVec.ofNat 32 (es i).1) = x.laneReg new :=
    x.laneReg_congr fun i _ h => by rw [hact i h, BitVec.ofNat_toNat, BitVec.setWidth_eq]
  obtain ⟨hregs, hmasks, hflags, hwrites⟩ := x.outElems_of_laneTy h es
  rw [hout]
  exact ⟨hreg ▸ hregs, hmasks, hflags.trans (foldl_or_flags_eq_zero fun i _ h => by rw [hact i h]), hwrites⟩

/-! ### Refusal for a TYPE (R230, R627) -/

/-- The operations beside VCHAIN that are refused for their TYPE alone (R230, R627). -/
def VOp.typeOnly : VOp → Bool
  | .cmp | .rsum | .rssq | .topk | .cvt | .ld | .st | .xcvt | .chain => false
  | _ => true

theorem VOp.ne_chain_of_typeOnly {op : VOp} (h : op.typeOnly = true) : op ≠ .chain := by
  rintro rfl
  cases h

theorem VecIn.fault_of_typeOnly {x : VecIn} (h : x.v.op.typeOnly = true) (lo len : Nat) :
    x.fault lo len = if x.v.op.tyOk x.v.ty.toNat = false then some 1 else none := by
  unfold VecIn.fault
  cases hop : x.v.op <;> simp only [hop, VOp.typeOnly, Bool.false_eq_true] at h ⊢ <;> simp

theorem VecIn.fault_of_tyOk {x : VecIn} (honly : x.v.op.typeOnly = true) (hty : x.v.op.tyOk x.v.ty.toNat = true)
    (lo len : Nat) : x.fault lo len = none :=
  (VecIn.fault_of_typeOnly honly lo len).trans (if_neg (by rw [hty]; decide))

theorem VecIn.fault_of_not_tyOk {x : VecIn} (honly : x.v.op.typeOnly = true) (hty : x.v.op.tyOk x.v.ty.toNat = false)
    (lo len : Nat) : x.fault lo len = some 1 :=
  (VecIn.fault_of_typeOnly honly lo len).trans (if_pos hty)

/-! ### The source va (R227) -/

theorem VecIn.regA_of_not_ch {x : VecIn} (h : x.v.ch = false) : x.regA = x.regs[x.v.va.toFin] := by
  unfold VecIn.regA
  cases x.v.op <;> simp [h]

theorem VecIn.regA_of_trans {x : VecIn} (h : x.v.op = .trans) : x.regA = x.regs[x.v.va.toFin] := by
  unfold VecIn.regA
  rw [h]
  rfl

/-! ### I32 operations (R210) -/

theorem VOp.isInt_iff (op : VOp) : op.isInt = true ↔
    op = .iadd ∨ op = .isub ∨ op = .iand ∨ op = .ior ∨ op = .ixor ∨ op = .ishl ∨ op = .ishr ∨ op = .isra := by
  cases op <;> decide

theorem VOp.typeOnly_of_isInt {op : VOp} (h : op.isInt = true) : op.typeOnly = true := by
  obtain rfl | rfl | rfl | rfl | rfl | rfl | rfl | rfl := op.isInt_iff.1 h <;> rfl

theorem VOp.tyOk_of_isInt {op : VOp} (h : op.isInt = true) (ty : Nat) : op.tyOk ty = (ty == 4) := by
  obtain rfl | rfl | rfl | rfl | rfl | rfl | rfl | rfl := op.isInt_iff.1 h <;> rfl

/-- Inside a chain program an I32 operation with CH reads the head chained row (R227). -/
theorem VecIn.regA_of_ch {x : VecIn} (hint : x.v.op.isInt = true) (h : x.v.ch = true) {r : VReg} (hr : x.ch = some r) :
    x.regA = r := by
  unfold VecIn.regA
  obtain hop | hop | hop | hop | hop | hop | hop | hop := x.v.op.isInt_iff.1 hint <;> simp [hop, h, hr]

theorem intOp_eq_ispec {op : VOp} (h : op.isInt = true) (a b : BitVec 32) : intOp op a b = op.ispec a b := by
  have hshr : a.toNat / 2 ^ (b.toNat % 32) % 4294967296 = a.toNat / 2 ^ (b.toNat % 32) :=
    Nat.mod_eq_of_lt ((Nat.div_le_self ..).trans_lt a.isLt)
  obtain rfl | rfl | rfl | rfl | rfl | rfl | rfl | rfl := op.isInt_iff.1 h
  · simp [intOp, VOp.ispec, BitVec.ofInt_add]
  · simp [intOp, VOp.ispec, sub_eq_add_neg, BitVec.ofInt_add, BitVec.ofInt_neg]
  · rfl
  · rfl
  · rfl
  · exact BitVec.eq_of_toNat_eq (by simp [intOp, VOp.ispec, Nat.shiftLeft_eq])
  · exact BitVec.eq_of_toNat_eq (by simp [intOp, VOp.ispec, Nat.shiftRight_eq_div_pow, hshr])
  · simp [intOp, VOp.ispec, BitVec.sshiftRight, Int.shiftRight_eq_div_pow]

theorem elemOp_of_isInt {op : VOp} (h : op.isInt = true) (ty : Nat) (r : Rnd) (sat : Bool) (a b : BitVec 32) (c : Nat) :
    elemOp op ty r sat a.toNat b.toNat c = ((op.ispec a b).toNat, 0) := by
  have hint : elemOp op ty r sat a.toNat b.toNat c =
      ((intOp op (BitVec.ofNat 32 a.toNat) (BitVec.ofNat 32 b.toNat)).toNat, 0) := by
    obtain rfl | rfl | rfl | rfl | rfl | rfl | rfl | rfl := op.isInt_iff.1 h <;> rfl
  rw [hint, intOp_eq_ispec h]
  simp

theorem VecIn.run_of_isInt {x : VecIn} (h : x.v.op.isInt = true) (rd : Nat → Nat → List Byte) : x.run rd = x.elemwise := by
  unfold VecIn.run
  obtain h | h | h | h | h | h | h | h := x.v.op.isInt_iff.1 h <;> rw [h]

/-- R210: an I32 operation gives its result in every active lane. -/
theorem VecIn.run_int {x : VecIn} (hint : x.v.op.isInt = true) (hty : x.v.ty = 4) (rd : Nat → Nat → List Byte) :
    x.Gives (x.run rd) (x.laneReg fun i => x.v.op.ispec (x.regA.lane i) (x.regB.lane i)) 0 := by
  rw [VecIn.run_of_isInt hint]
  exact x.elemwise_gives (.inr (congrArg BitVec.toNat hty)) fun i _ => elemOp_of_isInt hint ..

/-! ### The sign bit (R208) -/

/-- The magnitude of an F32 element under a sign. -/
def signedF32 (a : BitVec 32) (neg : Bool) : BitVec 32 := BitVec.ofNat 32 (a.toNat % 2 ^ 31 + fFP32.signOf neg)

theorem signedF32_getLsbD (a : BitVec 32) (neg : Bool) {i : Nat} (h : i < 32) :
    (signedF32 a neg).getLsbD i = if i < 31 then a.getLsbD i else neg := by
  have hsign : a.toNat % 2 ^ 31 + fFP32.signOf neg = 2 ^ 31 * neg.toNat + a.toNat % 2 ^ 31 := by
    cases neg <;> simp [FFmt.signOf, FFmt.magBits, fFP32, Nat.add_comm]
  rw [signedF32, BitVec.getLsbD_ofNat, decide_eq_true h, Bool.true_and, hsign,
    Nat.testBit_two_pow_mul_add _ (Nat.mod_lt _ (Nat.two_pow_pos 31))]
  split
  next hlow => rw [Nat.testBit_mod_two_pow, decide_eq_true hlow, Bool.true_and]; rfl
  next hhigh =>
    have hi : i = 31 := by omega
    cases neg <;> simp [hi]

/-- Without its sign bit. -/
theorem signedF32_false (a : BitVec 32) : signedF32 a false = a &&& 0x7FFFFFFF := by
  have hmask : ∀ i < 32, (0x7FFFFFFF : BitVec 32).getLsbD i = decide (i < 31) := by decide
  refine BitVec.eq_of_getLsbD_eq fun i hi => ?_
  rw [signedF32_getLsbD a false hi, BitVec.getLsbD_and, hmask i hi]
  by_cases hlow : i < 31 <;> simp [hlow]

/-- With its sign bit turned. -/
theorem signedF32_not (a : BitVec 32) : signedF32 a (!a.toNat.testBit 31) = a ^^^ 0x80000000 := by
  have hmask : ∀ i < 32, (0x80000000 : BitVec 32).getLsbD i = decide (i = 31) := by decide
  refine BitVec.eq_of_getLsbD_eq fun i hi => ?_
  rw [signedF32_getLsbD a _ hi, BitVec.getLsbD_xor, hmask i hi]
  split
  next hlow => simp [Nat.ne_of_lt hlow]
  next hhigh =>
    obtain rfl : i = 31 := by omega
    simp [BitVec.getLsbD]

/-- An F32 element that is no NaN keeps its magnitude, and its sign changes as `g` says. -/
theorem signOp_f32 (g : Bool → Bool) {a : BitVec 32} (h : a.toNat % 2 ^ 31 ≤ 0x7F800000) :
    signOp fFP32 g a.toNat = ((signedF32 a (g (a.toNat.testBit 31))).toNat, 0) := by
  have hnan : (fFP32.decode a.toNat).isNan = false := by
    by_cases hfin : a.toNat % 2 ^ fFP32.magBits ≤ fFP32.maxMag
    case pos =>
      rw [FFmt.decode, if_neg (not_lt.2 hfin)]
      split <;> rfl
    case neg =>
      have hfin' : ¬ a.toNat % 2 ^ 31 ≤ 0x7F7FFFFF := hfin
      rw [FFmt.decode_not_finite fFP32 hfin, if_pos ⟨rfl, show a.toNat % 2 ^ 23 = 0 by omega⟩]
      rfl
  have hsign (neg : Bool) : fFP32.signOf neg ≤ 2 ^ 31 := by cases neg <;> decide
  have hlt : a.toNat % 2 ^ 31 + fFP32.signOf (g (a.toNat.testBit 31)) < 2 ^ 32 := by
    have := hsign (g (a.toNat.testBit 31))
    omega
  rw [signOp, hnan, if_neg Bool.false_ne_true, signedF32, BitVec.toNat_ofNat, Nat.mod_eq_of_lt hlt]
  rfl

/-- R208: ABS and NEG of F32 elements that are no NaN act on the sign bit. -/
theorem VecIn.run_sign {x : VecIn} (hop : x.v.op = .abs ∨ x.v.op = .neg) (hty : x.v.ty = 1)
    (hnan : ∀ i < 256, (x.regA.lane i).toNat % 2 ^ 31 ≤ 0x7F800000) (rd : Nat → Nat → List Byte) :
    x.Gives (x.run rd) (x.laneReg fun i =>
      if x.v.op = .abs then x.regA.lane i &&& 0x7FFFFFFF else x.regA.lane i ^^^ 0x80000000) 0 := by
  have hrun : x.run rd = x.elemwise := by
    unfold VecIn.run
    rcases hop with h | h <;> rw [h]
  have hone : x.v.ty.toNat = 1 := congrArg BitVec.toNat hty
  rw [hrun]
  refine x.elemwise_gives (.inl hone) fun i hi => ?_
  rw [hone]
  rcases hop with h | h
  · rw [h, if_pos rfl, ← signedF32_false]
    exact signOp_f32 (fun _ => false) (hnan i hi)
  · rw [h, if_neg (by decide), ← signedF32_not]
    exact signOp_f32 _ (hnan i hi)

/-! ### Transposition (R627) -/

theorem VReg.lane_vtab (f : Nat → BitVec 32) {i : Nat} (h : i < 256) : VReg.lane (vtab 256 f) i = f i := by
  rw [VReg.lane_eq (vtab 256 f) ⟨i, h⟩]
  exact vtab_getElem f h

/-- VTRANS moves lane 16r + c to lane 16c + r. -/
theorem VecIn.run_trans {x : VecIn} (hop : x.v.op = .trans) (h : LaneTy x.v.ty.toNat) (rd : Nat → Nat → List Byte) :
    ∃ fl, x.Gives (x.run rd) (x.laneReg fun i => x.regA.lane (i % 16 * 16 + i / 16)) fl := by
  let src : VReg := vtab 256 fun i => x.regA.lane (i % 16 * 16 + i / 16)
  have hrun : x.run rd = x.outElems x.v.ty.toNat
      ((src.elems x.v.ty.toNat).map fun e => (e, flagIf (codeVal (tyCode x.v.ty.toNat) e 0).isNan fNanIn)) := by
    unfold VecIn.run VecIn.permute
    simp only [hop]
    rfl
  rw [hrun, VReg.elems_of_laneTy h, tab_map]
  obtain ⟨hregs, hmasks, -, hwrites⟩ := x.outElems_of_laneTy h _
  refine ⟨_, hregs.trans ?_, hmasks, rfl, hwrites⟩
  rw [x.laneReg_congr fun i hi _ => by rw [VReg.lane_vtab _ hi, BitVec.ofNat_toNat, BitVec.setWidth_eq]]

/-! ### Masks (R202, R209) -/

/-- The destination mask with `bit` in its active lanes. -/
def VecIn.laneMask (x : VecIn) (bit : Nat → Bool) : VMask :=
  ofOnes 256 ((List.range 256).filter fun i =>
    if x.lane i then bit i else !x.v.zm && (x.masks[(x.v.vd.setWidth 3).toFin]).getLsbD i)

theorem VecIn.laneMask_getLsbD (x : VecIn) (bit : Nat → Bool) {i : Nat} (h : i < 256) :
    (x.laneMask bit).getLsbD i =
      if x.v.active x.masks i then bit i else !x.v.zm && (x.masks[(x.v.vd.setWidth 3).toFin]).getLsbD i := by
  rw [VecIn.laneMask, getLsbD_ofOnes _ h]
  simp only [← x.lane_iff, List.mem_filter, List.mem_range, h, true_and]
  exact Bool.decide_eq_true

/-- Mask logic on one lane (R239). -/
def VOp.maskBit (op : VOp) (a b : Bool) : Bool :=
  match op with
  | .mand => a && b
  | .mor => a || b
  | .mxor => a ^^ b
  | _ => !a

/-- Mask logic gives its destination mask and nothing else. -/
theorem VecIn.run_mask {x : VecIn} (hop : x.v.op = .mand ∨ x.v.op = .mor ∨ x.v.op = .mxor ∨ x.v.op = .mnot)
    (rd : Nat → Nat → List Byte) :
    ∃ b, x.run rd = ⟨x.regs, x.masks.set (x.v.vd.setWidth 3).toFin (x.laneMask fun i =>
        x.v.op.maskBit ((x.masks[(x.v.va.setWidth 3).toFin]).getLsbD i) ((x.masks[(x.v.vb.setWidth 3).toFin]).getLsbD i)),
      0, b, []⟩ := by
  have hreg (r : BitVec 5) : BitVec.ofNat 3 r.toNat = r.setWidth 3 := BitVec.ofNat_toNat ..
  have hout {m : VMask} {bit : Nat → Bool} (h : ∀ i < 256, m.getLsbD i = bit i) :
      ∃ b, x.outMask x.lane m.getLsbD =
        ⟨x.regs, x.masks.set (x.v.vd.setWidth 3).toFin (x.laneMask bit), 0, b, []⟩ := by
    have hbits : x.laneMask m.getLsbD = x.laneMask bit :=
      congrArg (ofOnes 256) (List.filter_congr fun i hi => by rw [h i (List.mem_range.1 hi)])
    rw [← hbits]
    simp only [VecIn.outMask, hreg]
    exact ⟨_, rfl⟩
  have hrun : x.run rd = x.maskLogic := by
    unfold VecIn.run
    rcases hop with h | h | h | h <;> rw [h]
  rw [hrun]
  rcases hop with h | h | h | h <;> simp only [VecIn.maskLogic, h, hreg] <;> refine hout fun i hi => ?_
  · exact BitVec.getLsbD_and
  · exact BitVec.getLsbD_or
  · exact BitVec.getLsbD_xor
  · rw [BitVec.getLsbD_not, decide_eq_true hi, Bool.true_and]
    rfl

end Sys2Proof.Machine
end

section
/-!
SUPPORT. Words stored lane by lane: what memory holds after several writes, and VST of F32 as FP32 (R218, R219, R223).
-/
namespace Sys2Proof.Machine
open Host

/-! ### Memory after several writes -/

theorem Memory.readBytes_eq_tab (unl : Byte) (m : List Cell) (a n : Nat) :
    Memory.readBytes unl m a n = tab n fun i => Memory.read unl m (a + i) :=
  tab_congr fun i hi => Memory.read_window unl m a n (a + i) ⟨by omega, by omega⟩

/-- Bytes beside those written read as before. -/
theorem Memory.readBytes_writeBytes_apart (unl : Byte) (m : List Cell) {a b n : Nat} {bs : List Byte}
    (h : a + n ≤ b ∨ b + bs.length ≤ a) :
    Memory.readBytes unl (Memory.writeBytes unl m b bs) a n = Memory.readBytes unl m a n := by
  rw [Memory.readBytes_eq_tab, Memory.readBytes_eq_tab]
  exact tab_congr fun i hi => by rw [Memory.read_writeBytes, if_neg (by omega)]

section
variable {addr : Nat → Nat} {data : Nat → List Byte} {n : Nat} (hlen : ∀ i, (data i).length = n)
include hlen

/-- Of pieces written one after another at places apart, each reads back, and the places of the others stay. -/
theorem Memory.readBytes_foldl_writeBytes (hapart : ∀ i k, i ≠ k → addr i + n ≤ addr k ∨ addr k + n ≤ addr i)
    (is : List Nat) (m : List Cell) (i : Nat) :
    Memory.readBytes 0 (is.foldl (fun m k => Memory.writeBytes 0 m (addr k) (data k)) m) (addr i) n =
      if i ∈ is then data i else Memory.readBytes 0 m (addr i) n := by
  induction is generalizing m with
  | nil => rfl
  | cons k is ih =>
    rw [List.foldl_cons, ih]
    by_cases hrest : i ∈ is
    · rw [if_pos hrest, if_pos (List.mem_cons_of_mem k hrest)]
    · rw [if_neg hrest]
      by_cases hik : i = k
      · subst hik
        rw [if_pos List.mem_cons_self, ← hlen i, Memory.readBytes_writeBytes]
      · rw [if_neg (List.not_mem_cons_of_ne_of_not_mem hik hrest),
          Memory.readBytes_writeBytes_apart 0 m (by rw [hlen]; exact hapart i k hik)]

theorem Memory.read_foldl_writeBytes_apart {a : Nat} {is : List Nat} (h : ∀ i ∈ is, a < addr i ∨ addr i + n ≤ a)
    (m : List Cell) :
    Memory.read 0 (is.foldl (fun m k => Memory.writeBytes 0 m (addr k) (data k)) m) a = Memory.read 0 m a := by
  induction is generalizing m with
  | nil => rfl
  | cons k is ih =>
    have hk := h k List.mem_cons_self
    rw [List.foldl_cons, ih fun i hi => h i (List.mem_cons_of_mem k hi), Memory.read_writeBytes,
      if_neg (by rw [hlen]; omega)]

end

/-! ### VST of F32 as FP32, LINEAR (R218, R219, R223) -/

theorem filterMap_if_some {α β : Type} (p : α → Bool) (f : α → β) (l : List α) :
    (l.filterMap fun i => if p i then some (f i) else none) = (l.filter p).map f := by
  simp [← List.filterMap_eq_filter, List.map_filterMap, Option.guard]

section
variable {x : VecIn} (hxf : x.v.xf = 1)
include hxf

theorem VecIn.memFmt_f32 : x.memFmt = 1 := by
  rw [VecIn.memFmt, hxf]
  rfl

theorem VecIn.tiled_f32 : x.tiled = false := by
  rw [VecIn.tiled, hxf]
  rfl

theorem VecIn.elemAt_f32 (e : Nat) : x.elemAt e = (x.base + e * 4, 4) := by
  simp only [VecIn.elemAt, VecIn.memFmt_f32 hxf, VecIn.tiled_f32 hxf]
  rfl

variable (hop : x.v.op = .st) (hty : x.v.ty = 1)
include hop hty

/-- An aligned store within the tile store and off the stream region has no fault. -/
theorem VecIn.fault_store_f32 {lo len : Nat} (hal : x.base % 4 = 0) (hhi : x.base + 1024 ≤ storeSize)
    (hstream : lo + len ≤ x.base ∨ x.base + 1024 ≤ lo) : x.fault lo len = none := by
  have hfmt := VecIn.memFmt_f32 hxf
  have htype : x.v.ty.toNat = 1 := congrArg BitVec.toNat hty
  have hgood : ∀ e < 256, (!inStore (x.base + e * 4) 4 || hitsStream lo len (x.base + e * 4) 4) = false := by
    intro e he
    simp only [inStore, hitsStream, Bool.or_eq_false_iff, Bool.not_eq_false', decide_eq_true_eq, decide_eq_false_iff_not]
    omega
  have hany : ((((x.active 1).zip (List.range (tyCount 1))).filterMap fun p => if p.1 then some p.2 else none).any
      fun e => !inStore (x.base + e * 4) 4 || hitsStream lo len (x.base + e * 4) 4) = false := by
    rw [x.active_of_laneTy (.inl rfl), LaneTy.count (.inl rfl), range_eq_tab, tab_zip, tab, List.filterMap_map]
    simp only [Function.comp_def, filterMap_if_some, List.any_eq_false, List.mem_map, List.mem_filter, List.mem_range]
    rintro e ⟨i, ⟨hi, -⟩, rfl⟩
    simp only [hgood i hi, Bool.false_eq_true, not_false_iff]
  have hls : x.lsFault lo len true = none := by
    have hbytes : elemBits 1 / 8 = 4 := rfl
    unfold VecIn.lsFault
    simp only [hfmt, htype, VecIn.tiled_f32 hxf, VecIn.elemAt_f32 hxf, show isBlockFmt 1 = false from rfl]
    simp [hbytes, hal, hany]
  unfold VecIn.fault
  simp [hop, hfmt, htype, VOp.tyOk, hls]

/-- What the store writes: each active lane, 4 bytes at its element's place. -/
theorem VecIn.run_store_f32 (rd : Nat → Nat → List Byte) :
    ∃ fl, x.run rd = ⟨x.regs, x.masks, fl, [],
      ((List.range 256).filter x.lane).map fun i => (x.base + i * 4, leBytes 4 (x.regD.lane i).toNat)⟩ := by
  have hrun : x.run rd = x.store := by
    unfold VecIn.run
    rw [hop]
  have htype : x.v.ty.toNat = 1 := congrArg BitVec.toNat hty
  have hes : (x.active 1).zip ((x.regD.elems 1).zip (List.range (tyCount 1))) =
      tab 256 fun i => (x.lane i, (x.regD.lane i).toNat, i) := by
    rw [x.active_of_laneTy (.inl rfl), VReg.elems_of_laneTy (.inl rfl), LaneTy.count (.inl rfl), range_eq_tab, tab_zip,
      tab_zip]
  rw [hrun, VecIn.store]
  simp only [VecIn.memFmt_f32 hxf, htype, show isBlockFmt 1 = false from rfl, VecIn.elemAt_f32 hxf, hes, tab,
    Function.comp_def, filterMap_if_some, List.filter_map, List.map_map, Bool.false_eq_true, if_false]
  exact ⟨_, rfl⟩

end

end Sys2Proof.Machine
end

section
/-!
SUPPORT. The step of the one waiting vector operation (R205, R228 to R230, R233): what a finished operation leaves, what a
refused one does, and the obligations they settle.
-/
namespace Sys2Proof.Machine
open Host

/-! ### Writing the results -/

theorem State.tile_foldl_tsWr (s : State) (t t' : TileId) (l : List (Nat × List Byte)) :
    (l.foldl (fun s w => s.tsWr t w.1 w.2) s).tile t' = s.tile t' := by
  induction l generalizing s with
  | nil => rfl
  | cons w l ih => rw [List.foldl_cons, ih, State.tile_tsWr]

theorem State.mem_foldl_tsWr (s : State) (t : TileId) (l : List (Nat × List Byte)) :
    (l.foldl (fun s w => s.tsWr t w.1 w.2) s).mem =
      l.foldl (fun m w => Memory.writeBytes 0 m (poolBase t + w.1) w.2) s.mem := by
  induction l generalizing s with
  | nil => rfl
  | cons w l ih => rw [List.foldl_cons, List.foldl_cons, ih, State.mem_tsWr]

/-- With no tag an instruction's results are written at once (R229). -/
theorem State.vecWrite_none (s : State) (t : TileId) (o : VecOut) :
    (s.vecWrite t none o).tile t =
        { s.tile t with vec := { (s.tile t).vec with regs := o.regs, masks := o.masks } } ∧
      (s.vecWrite t none o).mem = o.writes.foldl (fun m w => Memory.writeBytes 0 m (poolBase t + w.1) w.2) s.mem := by
  let v := s.modTile t fun x => { x with vec := { x.vec with regs := o.regs, masks := o.masks } }
  exact ⟨(v.tile_foldl_tsWr t t o.writes).trans (s.tile_modTile t _), v.mem_foldl_tsWr t o.writes⟩

/-! ### The end of an operation -/

/-- A committed vector operation sets its flags, counts its instructions, and is carried into the tile's digest. -/
theorem State.emit_vec_none (s : State) (t : TileId) (b : List Byte) (flags : Flags) (n : Nat) :
    s.emit t none (.op .vec b flags n) = s.modTile t fun x =>
      { x with
        fpstat := x.fpstat ||| flags
        vec := { x.vec with vops := x.vec.vops + BitVec.ofNat 64 n }
        digests := if s.gtc.lsEn then x.digests.set TileUnit.vec.ix (x.digests[TileUnit.vec.ix].put none b)
          else x.digests } := by
  have hvops (v : Vec) : (if n == 0 then v else { v with vops := v.vops + BitVec.ofNat 64 n }) =
      { v with vops := v.vops + BitVec.ofNat 64 n } := by
    cases n with
    | zero => simp
    | succ n => rfl
  simp only [State.emit, State.commitEv, State.digestOp_eq, State.modTile_modTile, hvops]
  rfl

/-- The one operation of the queue, replaced by `o` and counted with `n` instructions, stays until it is done. -/
theorem State.vecCommit_effect {s : State} {t : TileId} {p : VecOp} (hq : (s.tile t).vec.queue = [p])
    (hrime : (s.tile t).rime.queue = []) (o : VecOp) (hhdr : o.hdr = p.hdr) (htag : o.hdr.tag = none) (b : List Byte)
    (fl : Flags) (n : Nat) :
    let x := s.tile t
    let u := (((s.setVec t o).emit t none (.op .vec b fl n)).modTile t Tile.settle).rimeGo t
    (u.tile t).vec = { x.vec with queue := if o.done then [] else [o], vops := x.vec.vops + BitVec.ofNat 64 n } ∧
      (u.tile t).fpstat = x.fpstat ||| fl ∧ (u.tile t).seq = x.seq ∧ u.mem = s.mem := by
  intro x u
  have hqueue : ((x.vec.queue.map fun p => if p.hdr.id = o.hdr.id then o else p).filter
      fun o => !(o.done && o.hdr.tag.isNone)) = if o.done then [] else [o] := by
    rw [hq, List.map_singleton, hhdr, if_pos rfl]
    cases hdone : o.done <;> simp [hdone, htag]
  have hgo : u = ((s.setVec t o).emit t none (.op .vec b fl n)).modTile t Tile.settle := by
    refine State.rimeGo_of_queue_nil ?_
    rw [State.setVec, State.emit_vec_none, State.modTile_modTile, State.modTile_modTile, State.tile_modTile]
    exact hrime
  rw [hgo, State.setVec, State.emit_vec_none, State.modTile_modTile, State.modTile_modTile, State.tile_modTile]
  exact ⟨congrArg (fun l => { x.vec with queue := l, vops := x.vec.vops + BitVec.ofNat 64 n }) hqueue, rfl, rfl, rfl⟩

/-! ### The step -/

/-- What the one waiting vector instruction leaves that has done `out`. -/
structure State.VecCompletes (s u : State) (t : TileId) (out : VecOut) : Prop where
  vec : (u.tile t).vec = { (s.tile t).vec with
    regs := out.regs, masks := out.masks, queue := [], vops := (s.tile t).vec.vops + 1 }
  fpstat : (u.tile t).fpstat = (s.tile t).fpstat ||| out.flags
  seq : (u.tile t).seq = (s.tile t).seq
  mem : u.mem = out.writes.foldl (fun m w => Memory.writeBytes 0 m (poolBase t + w.1) w.2) s.mem

section
variable {s : State} {t : TileId} {o : VecOp} (h : s.vecAlone t o)
include h

theorem State.vecNext_of_vecAlone : (s.tile t).vec.next = some o := by
  obtain ⟨hq, hdone, -⟩ := h
  simp [Vec.next, hq, hdone]

theorem State.vecMay_of_vecAlone : s.vecMay t o = true := by
  obtain ⟨-, -, -, hstores, hdeliver, -, hwaits⟩ := h
  rw [State.vecMay, Tile.mayStart_of_deliver_nil hdeliver hwaits, State.storesAllow_of_stores_nil hstores]
  rfl

theorem State.vecStep_of_vecRun (hop : o.v.op ≠ .chain) {v : State} {out : VecOut}
    (hrun : s.vecRun t o o.v none 0 = .ok (v, out)) : s.vecStep t = (((v.setVec t { o with done := true }).emit t
      o.hdr.tag (.op .vec out.written out.flags 1)).modTile t Tile.settle).rimeGo t := by
  obtain ⟨-, -, -, hstores, -⟩ := id h
  rw [State.vecStep, State.vecNext_of_vecAlone h]
  simp [hop, State.drainStores_of_stores_nil hstores, State.vecMay_of_vecAlone h, hrun]

theorem State.vecStep_of_refused (hop : o.v.op ≠ .chain) {bit : Nat} (hrun : s.vecRun t o o.v none 0 = .error bit) :
    s.vecStep t = s.vecFault t o bit := by
  obtain ⟨-, -, -, hstores, -⟩ := id h
  rw [State.vecStep, State.vecNext_of_vecAlone h]
  simp [hop, State.drainStores_of_stores_nil hstores, State.vecMay_of_vecAlone h, hrun]

/-- The one waiting instruction, no chain program and not refused, completes with what it does (R205). -/
theorem execVectorInstrComplete_runs (hop : o.v.op ≠ .chain)
    (hfault : (s.vecIn t o o.v none 0).fault (s.tile t).streamLo (s.tile t).streamLen = none) :
    ∃ u, exec (.vectorInstrComplete t) s = .next u ∧
      s.VecCompletes u t ((s.vecIn t o o.v none 0).run fun a n => s.tsRd t a n) := by
  obtain ⟨hq, -, htag, -, -, hrime, -⟩ := id h
  let out := (s.vecIn t o o.v none 0).run fun a n => s.tsRd t a n
  have hrun : s.vecRun t o o.v none 0 = .ok (s.vecWrite t none out, out) := by
    simp only [State.vecRun, hfault, htag, out]
  obtain ⟨htile, hmem⟩ := s.vecWrite_none t out
  obtain ⟨hvec, hfp, hseq, hmem'⟩ := State.vecCommit_effect (s := s.vecWrite t none out) (t := t) (p := o)
    (by rw [htile]; exact hq) (by rw [htile]; exact hrime) { o with done := true } rfl htag out.written out.flags 1
  rw [htile] at hvec hfp hseq
  refine ⟨_, congrArg Outcome.next (State.vecStep_of_vecRun h hop hrun), ?_⟩
  rw [htag]
  exact ⟨hvec, hfp, hseq, hmem'.trans hmem⟩

/-- A refused instruction leaves the queue and faults; nothing else of the engine changes (R230, R259). -/
theorem execVectorInstrComplete_refused (hop : o.v.op ≠ .chain) {bit : Nat}
    (hfault : (s.vecIn t o o.v none 0).fault (s.tile t).streamLo (s.tile t).streamLen = some bit) :
    ∃ u, exec (.vectorInstrComplete t) s = .next u ∧ u.mem = s.mem ∧
      u.tile t = { s.tile t with vec := { (s.tile t).vec with queue := [] } }.faulted .vec bit o.hdr.id o.hdr.pc := by
  obtain ⟨hq, -, htag, -, -, hrime, -⟩ := id h
  have hrun : s.vecRun t o o.v none 0 = .error bit := by
    simp only [State.vecRun, hfault]
  have hdrop : s.dropVec t o.hdr.id = s.modTile t fun x => { x with vec := { x.vec with queue := [] } } := by
    simp [State.dropVec, State.modTile, hq]
  obtain ⟨htile, hmem⟩ := (s.dropVec t o.hdr.id).copFault_tile t .vec bit o.hdr.id o.hdr.pc
  rw [hdrop, State.tile_modTile] at htile
  have hgo : s.vecFault t o bit = (s.dropVec t o.hdr.id).copFault t .vec bit o.hdr.id o.hdr.pc := by
    rw [State.vecFault, htag]
    refine State.rimeGo_of_queue_nil ?_
    rw [hdrop]
    refine (congrArg (·.rime.queue) htile).trans ?_
    exact Tile.faulted_rimeQueue (x := { s.tile t with vec := { (s.tile t).vec with queue := [] } }) hrime ..
  refine ⟨_, congrArg Outcome.next ((State.vecStep_of_refused h hop hrun).trans hgo), hmem.trans ?_, ?_⟩
  · rw [hdrop]
    rfl
  · rw [hdrop]
    exact htile

end

/-! ### Chain programs (R227, R228) -/

theorem State.setVec_self {s : State} {t : TileId} {o : VecOp} (hq : (s.tile t).vec.queue = [o]) : s.setVec t o = s := by
  have hsame : (s.tile t).vec.queue.map (fun p => if p.hdr.id = o.hdr.id then o else p) = (s.tile t).vec.queue := by
    simp [hq]
  rw [State.setVec, State.modTile, hsame]
  exact s.setTile_tile t

/-- A chain program after one more iteration, the last of which ends it. -/
def VecOp.iterated (o : VecOp) (d : ChainDesc) : VecOp :=
  { o with iter := o.iter + 1, done := decide (d.rows ≤ o.iter + 1) }

/-- An iteration of a started chain program of one instruction, which takes the head chained row as CH. -/
theorem execChainIteration_runs {s : State} {t : TileId} {o : VecOp} {d : ChainDesc} {v : VInstr} {adv : Nat} {c : ChainRow}
    {rest : List ChainRow} (h : s.vecAlone t o) (hdesc : o.desc = some d) (hstarted : o.started = true)
    (hprog : o.prog = [⟨v, true, adv⟩]) (hch : (s.tile t).vec.chainQ = c :: rest)
    (hfault : (s.vecIn t o v (some c.vals) (o.iter * adv)).fault (s.tile t).streamLo (s.tile t).streamLen = none) :
    let x := s.tile t
    let out := (s.vecIn t o v (some c.vals) (o.iter * adv)).run fun a n => s.tsRd t a n
    ∃ u, exec (.chainIteration t) s = .next u ∧ (u.tile t).vec = { x.vec with
        regs := out.regs, masks := out.masks, chainQ := rest
        queue := if (o.iterated d).done then [] else [o.iterated d]
        vops := x.vec.vops + BitVec.ofNat 64 d.ninst } ∧
      (u.tile t).seq = x.seq ∧ u.mem = out.writes.foldl (fun m w => Memory.writeBytes 0 m (poolBase t + w.1) w.2) s.mem := by
  intro x out
  obtain ⟨hq, -, htag, hstores, -, hrime, -⟩ := id h
  obtain ⟨htile, hmem⟩ := s.vecWrite_none t out
  let y := (s.vecWrite t none out).modTile t fun x => { x with vec := { x.vec with chainQ := rest } }
  have hy : y.tile t = { x with vec := { x.vec with regs := out.regs, masks := out.masks, chainQ := rest } } := by
    rw [State.tile_modTile, htile]
  obtain ⟨hvec, -, hseq, hmem'⟩ := State.vecCommit_effect (s := y) (t := t) (p := o) (by rw [hy]; exact hq)
    (by rw [hy]; exact hrime) (o.iterated d) rfl htag ([] ++ out.written) (0 ||| out.flags) d.ninst
  rw [hy] at hvec hseq
  refine ⟨_, ?_, hvec, hseq, hmem'.trans hmem⟩
  have hrun : State.chainRun t o c.vals o.prog s 0 [] = .ok (s.vecWrite t none out, 0 ||| out.flags, [] ++ out.written) := by
    simp only [hprog, State.chainRun, State.vecRun, hfault, htag, if_true, out]
  change execChainIteration t s = _
  rw [execChainIteration, State.vecNext_of_vecAlone h]
  simp only [hdesc, State.drainStores_of_stores_nil hstores, State.vecMay_of_vecAlone h, hstarted, Bool.not_true,
    Bool.false_eq_true, if_false, if_true, State.setVec_self hq, hch, hrun, VecOp.iterated, y]

/-! ### Results, read off -/

section
variable {s u : State} {t : TileId} {o : VecOp} {out : VecOut} {r : VReg} {fl : Flags}
  (hu : s.VecCompletes u t out) (hgives : (s.vecIn t o o.v none 0).Gives out r fl)
include hu hgives

/-- The destination register is the result, and the others are as before. -/
theorem State.VecCompletes.regs :
    (u.tile t).vec.regs[o.v.vd.toFin] = r ∧
      ∀ k : Fin 32, k ≠ o.v.vd.toFin → (u.tile t).vec.regs[k] = (s.tile t).vec.regs[k] := by
  have hregs : (u.tile t).vec.regs = out.regs := congrArg Vec.regs hu.vec
  rw [hregs]
  exact ⟨hgives.vd, fun k hk => hgives.other hk⟩

theorem State.VecCompletes.mem_eq : u.mem = s.mem := by
  rw [hu.mem, hgives.writes]
  rfl

theorem State.VecCompletes.fpstat_eq (hfl : fl = 0) : (u.tile t).fpstat = (s.tile t).fpstat := by
  rw [hu.fpstat, hgives.flags, hfl]
  exact BitVec.or_zero

end

/-- The destination mask is the result, and the others are as before. -/
theorem State.VecCompletes.masks {s u : State} {t : TileId} {out : VecOut} (hu : s.VecCompletes u t out) {k : Fin 8}
    {m : VMask} (hout : out.masks = (s.tile t).vec.masks.set k m) :
    (u.tile t).vec.masks[k] = m ∧ ∀ j : Fin 8, j ≠ k → (u.tile t).vec.masks[j] = (s.tile t).vec.masks[j] := by
  have hmasks : (u.tile t).vec.masks = (s.tile t).vec.masks.set k m := (congrArg Vec.masks hu.vec).trans hout
  rw [hmasks]
  exact ⟨Vector.getElem_set_self .., fun j hj => Vector.getElem_set_ne _ _ fun e => hj (Fin.ext e.symm)⟩

/-- After writes of words, one for each of some lanes, each word reads back and every other byte is as before. -/
theorem State.VecCompletes.stored {s u : State} {t : TileId} {out : VecOut} (hu : s.VecCompletes u t out) {b : Nat}
    {act : Nat → Bool} {val : Nat → BitVec 32}
    (hw : out.writes = ((List.range 256).filter act).map fun i => (b + i * 4, leBytes 4 (val i).toNat)) :
    (∀ i < 256, leNat (u.rd (poolBase t + b + 4 * i) 4) =
        if act i then (val i).toNat else leNat (s.rd (poolBase t + b + 4 * i) 4)) ∧
      ∀ a, a < poolBase t + b ∨ poolBase t + b + 1024 ≤ a → Memory.read 0 u.mem a = Memory.read 0 s.mem a := by
  have hlen (i : Nat) : (leBytes 4 (val i).toNat).length = 4 := leBytes_length ..
  have hmem : u.mem = ((List.range 256).filter act).foldl
      (fun m i => Memory.writeBytes 0 m (poolBase t + b + 4 * i) (leBytes 4 (val i).toNat)) s.mem := by
    rw [hu.mem, hw, List.foldl_map]
    simp only [Nat.add_assoc, Nat.mul_comm]
  refine ⟨fun i hi => ?_, fun a ha => ?_⟩
  · rw [State.rd, hmem, Memory.readBytes_foldl_writeBytes (addr := fun i => poolBase t + b + 4 * i) hlen (by omega)]
    simp only [List.mem_filter, List.mem_range, hi, true_and]
    split
    · exact leNat_leBytes_of_lt (val i).isLt
    · rfl
  · rw [hmem]
    exact Memory.read_foldl_writeBytes_apart (addr := fun i => poolBase t + b + 4 * i) hlen
      (fun i hi => by have := List.mem_range.1 (List.mem_of_mem_filter hi); omega) _

/-! ### The obligations -/

/-- Settles O14: the iteration runs the program's one instruction, whose CH is the head chained row. -/
theorem chainIterationConsumesARow : Obligations.ChainIterationConsumesARow := by
  unfold Obligations.ChainIterationConsumesARow
  intro s t o d v c rest x h hop hdesc hstarted hprog hint hty hch hmen hchain
  obtain ⟨-, hdone, -⟩ := id h
  let i := s.vecIn t o v (some c.vals) (o.iter * 0)
  have hfault := VecIn.fault_of_tyOk (x := i) (VOp.typeOnly_of_isInt hint)
    ((VOp.tyOk_of_isInt hint _).trans (hty ▸ rfl))
  have hgives := VecIn.run_int (x := i) hint hty fun a n => s.tsRd t a n
  obtain ⟨u, hexec, hvec, hseq, hmem⟩ := execChainIteration_runs h hdesc hstarted hprog hchain (hfault _ _)
  have hregs := congrArg Vec.regs hvec
  refine ⟨u, hexec, congrArg Vec.chainQ hvec, fun k => ?_, fun r hr => ?_, (congrArg Vec.masks hvec).trans hgives.masks,
    congrArg Vec.vops hvec, fun hmore => ?_, fun hlast => ?_, ?_, hseq⟩
  · refine (congrArg (fun l => l[v.vd.toFin][k]) hregs).trans ((congrArg (·[k]) hgives.vd).trans ?_)
    rw [VecIn.laneReg_getElem, if_pos (.inl hmen), VecIn.regA_of_ch (x := i) hint hch rfl, VReg.lane_eq, VReg.lane_eq]
    rfl
  · exact (congrArg (·[r]) hregs).trans (hgives.other hr)
  · exact (congrArg Vec.queue hvec).trans (by simp [VecOp.iterated, not_le.2 hmore, hdone])
  · exact (congrArg Vec.queue hvec).trans (by simp [VecOp.iterated, hlast])
  · rw [hmem, hgives.writes]
    rfl

/-- Settles O13: each instruction runs to the end with what it does to its lanes, its mask or the tile store, and a
reserved TYPE is refused. -/
theorem vectorInstructionsComplete : Obligations.VectorInstructionsComplete := by
  unfold Obligations.VectorInstructionsComplete
  intro s t o x v h
  let i := s.vecIn t o v none 0
  have hruns (honly : v.op.typeOnly = true) (hty : v.op.tyOk v.ty.toNat = true) :=
    execVectorInstrComplete_runs h (VOp.ne_chain_of_typeOnly honly)
      (VecIn.fault_of_tyOk (x := s.vecIn t o o.v none 0) honly hty x.streamLo x.streamLen)
  refine ⟨fun hint hty hch => ?int, fun hop => ?mask, fun hop hty hch hmen hnan => ?sign, fun hop hty hmen => ?trans,
    fun hop hty hxf => ?store, fun hint hty => ?refused⟩
  case int =>
    obtain ⟨u, hexec, hu⟩ := hruns (VOp.typeOnly_of_isInt hint) ((VOp.tyOk_of_isInt hint _).trans (hty ▸ rfl))
    have hgives := VecIn.run_int (x := i) hint hty fun a n => s.tsRd t a n
    obtain ⟨hvd, hother⟩ := hu.regs hgives
    refine ⟨u, hexec, fun k => (congrArg (·[k]) hvd).trans ?_, hother, (congrArg Vec.masks hu.vec).trans hgives.masks,
      hu.fpstat_eq hgives rfl, congrArg Vec.vops hu.vec, congrArg Vec.queue hu.vec, hu.seq, hu.mem_eq hgives⟩
    rw [VecIn.laneReg_getElem, VecIn.regA_of_not_ch (x := i) hch, VReg.lane_eq, VReg.lane_eq]
    rfl
  case mask =>
    have hplain : v.op.typeOnly = true ∧ v.op.tyOk v.ty.toNat = true := by
      rcases hop with e | e | e | e <;> rw [e] <;> exact ⟨rfl, rfl⟩
    obtain ⟨u, hexec, hu⟩ := hruns hplain.1 hplain.2
    obtain ⟨b, hout⟩ := VecIn.run_mask (x := i) hop fun a n => s.tsRd t a n
    rw [hout] at hu
    obtain ⟨hvd, hother⟩ := hu.masks rfl
    refine ⟨u, hexec, fun k hk => ?_, hother, (congrArg Vec.regs hu.vec).trans rfl, congrArg Vec.vops hu.vec,
      congrArg Vec.queue hu.vec, hu.fpstat.trans BitVec.or_zero, hu.mem⟩
    refine (congrArg (fun m => BitVec.getLsbD m k) hvd).trans ((i.laneMask_getLsbD _ hk).trans ?_)
    rcases hop with e | e | e | e <;> simp only [i, v, State.vecIn, e] <;> rfl
  case sign =>
    have hplain : v.op.typeOnly = true ∧ v.op.tyOk v.ty.toNat = true := by
      rcases hop with e | e <;> rw [e, hty] <;> exact ⟨rfl, rfl⟩
    obtain ⟨u, hexec, hu⟩ := hruns hplain.1 hplain.2
    have hgives := VecIn.run_sign (x := i) hop hty (fun k hk => by
      rw [VecIn.regA_of_not_ch (x := i) hch, VReg.lane_eq _ ⟨k, hk⟩]
      exact hnan ⟨k, hk⟩) fun a n => s.tsRd t a n
    obtain ⟨hvd, hother⟩ := hu.regs hgives
    refine ⟨u, hexec, fun k => (congrArg (·[k]) hvd).trans ?_, hother, hu.fpstat_eq hgives rfl⟩
    rw [VecIn.laneReg_getElem, if_pos (.inl hmen), VecIn.regA_of_not_ch (x := i) hch, VReg.lane_eq]
    rfl
  case trans =>
    obtain ⟨u, hexec, hu⟩ := hruns (congrArg VOp.typeOnly hop) (by rw [hop, hty]; rfl)
    obtain ⟨fl, hgives⟩ := VecIn.run_trans (x := i) hop (.inl (congrArg BitVec.toNat hty)) fun a n => s.tsRd t a n
    obtain ⟨hvd, hother⟩ := hu.regs hgives
    refine ⟨u, hexec, fun r c => ?_, hother⟩
    have hlane : (16 * c.val + r.val) % 16 * 16 + (16 * c.val + r.val) / 16 = 16 * r.val + c.val := by omega
    refine (congrArg (·[16 * c.val + r.val]) hvd).trans ?_
    refine (i.laneReg_getElem _ ⟨16 * c.val + r.val, by omega⟩).trans ((if_pos (.inl hmen)).trans ?_)
    rw [hlane, VecIn.regA_of_trans (x := i) hop]
    exact VReg.lane_eq _ ⟨16 * r.val + c.val, by omega⟩
  case store =>
    intro base hal hhi hstream
    have hbase : i.base = base := by
      have hlt : base < 2 ^ 64 := by
        have : storeSize < 2 ^ 64 := by decide
        omega
      exact Nat.mod_eq_of_lt hlt
    obtain ⟨u, hexec, hu⟩ := execVectorInstrComplete_runs h (by rw [hop]; decide)
      (VecIn.fault_store_f32 (x := i) hxf hop hty (hbase ▸ hal) (hbase ▸ hhi) (hbase ▸ hstream))
    obtain ⟨fl, hout⟩ := VecIn.run_store_f32 (x := i) hxf hop hty fun a n => s.tsRd t a n
    obtain ⟨hword, hframe⟩ := hu.stored (congrArg VecOut.writes hout)
    rw [hbase] at hword hframe
    refine ⟨u, hexec, fun k => ?_, hframe, (congrArg Vec.regs hu.vec).trans (congrArg VecOut.regs hout),
      (congrArg Vec.masks hu.vec).trans (congrArg VecOut.masks hout), congrArg Vec.vops hu.vec⟩
    rw [hword k k.isLt, VReg.lane_eq]
    simp only [VecIn.lane_iff]
    rfl
  case refused =>
    have hbad : v.op.tyOk v.ty.toNat = false := by
      rw [VOp.tyOk_of_isInt hint]
      exact beq_false_of_ne (by omega)
    have honly := VOp.typeOnly_of_isInt hint
    obtain ⟨u, hexec, hmem, htile⟩ := execVectorInstrComplete_refused h (VOp.ne_chain_of_typeOnly honly)
      (VecIn.fault_of_not_tyOk (x := i) honly hbad ..)
    refine ⟨u, hexec, ?_⟩
    rw [htile]
    exact ⟨rfl, rfl, rfl, hmem, rfl, rfl, rfl⟩

end Sys2Proof.Machine
end

section
/-!
SUPPORT. Steps of a tile's sequencer that touch nothing beside it (R234 to R240): how they compose, what retirement leaves,
and what reads of registers and predicates give after writes.
-/
namespace Sys2Proof.Machine
open Host

/-! ### Steps of one sequencer -/

/-- A tile with another sequencer and other digests. -/
def Tile.withSeq (x : Tile) (r : Seq) (g : Vector Digest 6) : Tile := { x with seq := r, digests := g }

theorem State.onlySeq_iff {s u : State} {t : TileId} :
    s.onlySeq u t ↔ ∃ r g, u = s.setTile t ((s.tile t).withSeq r g) ∧ (s.gtc.lsEn = false → g = (s.tile t).digests) := by
  constructor
  · intro ⟨heq, hdig⟩
    exact ⟨_, _, heq, hdig⟩
  · rintro ⟨r, g, rfl, hdig⟩
    rw [State.onlySeq, State.tile_setTile]
    exact ⟨rfl, hdig⟩

theorem State.onlySeq_refl (s : State) (t : TileId) : s.onlySeq s t :=
  ⟨(s.setTile_tile t).symm, fun _ => rfl⟩

theorem State.onlySeq.trans {s u v : State} {t : TileId} (h : s.onlySeq u t) (h' : u.onlySeq v t) : s.onlySeq v t := by
  obtain ⟨r, g, rfl, hdig⟩ := State.onlySeq_iff.1 h
  obtain ⟨r', g', rfl, hdig'⟩ := State.onlySeq_iff.1 h'
  rw [State.tile_setTile] at hdig' ⊢
  exact State.onlySeq_iff.2 ⟨r', g', s.setTile_setTile t _ _, fun hoff => (hdig' hoff).trans (hdig hoff)⟩

theorem State.onlySeq_withSeq (s : State) (t : TileId) (r : Seq) {g : Vector Digest 6}
    (hg : s.gtc.lsEn = false → g = (s.tile t).digests) : s.onlySeq (s.setTile t ((s.tile t).withSeq r g)) t :=
  State.onlySeq_iff.2 ⟨r, g, rfl, hg⟩

theorem State.onlySeq_modSeq (s : State) (t : TileId) (f : Seq → Seq) : s.onlySeq (s.modSeq t f) t :=
  s.onlySeq_withSeq t _ fun _ => rfl

theorem State.onlySeq_modDigest (s : State) (t : TileId) (u : TileUnit) (f : Digest → Digest) :
    s.onlySeq (s.modDigest t u f) t := by
  unfold State.modDigest
  split
  · exact s.onlySeq_withSeq t _ fun hoff => by simp_all
  · exact s.onlySeq_refl t

@[simp] theorem State.seq_modDigest (s : State) (t : TileId) (u : TileUnit) (f : Digest → Digest) :
    ((s.modDigest t u f).tile t).seq = (s.tile t).seq := by
  unfold State.modDigest
  split
  · simp
  · rfl

/-- An event that takes effect on the sequencer alone does so under a tag too, where it waits. -/
theorem State.onlySeq_emit {s : State} {t : TileId} {e : CommitEv} (h : s.onlySeq (s.commitEv t e) t) (tag : Option Nat) :
    s.onlySeq (s.emit t tag e) t := by
  cases tag with
  | none => exact h
  | some g => exact s.onlySeq_modSeq t fun q => { q with spec := q.spec ++ [⟨g, e⟩] }

/-! ### Retirement -/

/-- `r` is `q` after the instruction at PC has been done and PC has become `pc`, and nothing else. -/
def Seq.Retired (q r : Seq) (pc : Word) : Prop :=
  q.passed r pc ∧ { q with pc := r.pc, nextId := r.nextId, pcCom := r.pcCom, nInstr := r.nInstr, spec := r.spec } = r

section
variable {q r : Seq} {pc : Word} (h : q.Retired r pc)
include h

theorem Seq.Retired.regs : r.regs = q.regs := (congrArg Seq.regs h.2).symm

theorem Seq.Retired.preds : r.preds = q.preds := (congrArg Seq.preds h.2).symm

theorem Seq.Retired.likeBut : q.likeBut r := by
  obtain ⟨-, heq⟩ := h
  rw [← heq]

end

/-- Retirement touches the sequencer alone, and there does no more than pass the instruction. -/
theorem State.retire_retires (s : State) (t : TileId) (b : List Byte) (pc : Word) :
    s.onlySeq (s.retire t b pc) t ∧ (s.tile t).seq.Retired ((s.retire t b pc).tile t).seq pc := by
  rw [State.retire_eq]
  refine ⟨s.onlySeq_withSeq t _ fun hoff => ?_, ?_⟩
  · cases (s.tile t).seq.emitTag <;> simp [hoff]
  · rw [State.tile_setTile]
    refine ⟨⟨rfl, rfl, fun h => by simp [h], fun h => ?_⟩, rfl⟩
    obtain ⟨g, hg⟩ := Option.isSome_iff_exists.1 h
    simp [hg]

/-- Retirement after a change of the sequencer. -/
theorem State.modSeq_retire (s : State) (t : TileId) (f : Seq → Seq) (b : List Byte) (pc : Word) :
    let u := (s.modSeq t f).retire t b pc
    s.onlySeq u t ∧ (f (s.tile t).seq).Retired (u.tile t).seq pc := by
  obtain ⟨honly, hret⟩ := (s.modSeq t f).retire_retires t b pc
  refine ⟨(s.onlySeq_modSeq t f).trans honly, ?_⟩
  rwa [State.modSeq_eq, State.tile_modTile] at hret

theorem State.modSeq_retireNext (s : State) (t : TileId) (f : Seq → Seq) (b : List Byte)
    (hpc : (f (s.tile t).seq).pc = (s.tile t).seq.pc) :
    let u := (s.modSeq t f).retireNext t b
    s.onlySeq u t ∧ (f (s.tile t).seq).Retired (u.tile t).seq ((s.tile t).seq.pc + 8) := by
  have hnext : (s.modSeq t f).retireNext t b = (s.modSeq t f).retire t b ((s.tile t).seq.pc + 8) := by
    rw [State.retireNext, State.modSeq_eq, State.tile_modTile, hpc]
  rw [hnext]
  exact s.modSeq_retire t f b _

/-! ### Issue -/

section
variable {α : Type} {s : State} {t : TileId} {w : Word} {i : SInstr} {sel : SInstr → Option α}
  {f : State → α → Option State} {a : α} (h : s.issues t w i) (hsel : sel i = some a)
include h hsel

/-- An instruction that issues and that the command takes up leaves what `f` answers. -/
theorem State.issue_next {u : State} (hf : f s a = some u) : s.issue t sel f = .next u := by
  rw [State.issue_of_issues h sel f a hsel, hf]

/-- One that `f` holds waits. -/
theorem State.issue_waits (hf : f s a = none) : s.issue t sel f = .next s := by
  rw [State.issue_of_issues h sel f a hsel, hf]

end

/-- An instruction whose guard is false is passed over (R238). -/
theorem State.issue_of_skips {α : Type} {s : State} {t : TileId} {w : Word} {i : SInstr} {sel : SInstr → Option α}
    {f : State → α → Option State} {a : α} (h : s.skips t w i) (hsel : sel i = some a) :
    s.issue t sel f = .next (s.retireNext t []) := by
  obtain ⟨hrun, hslot, hheld, hcop, hfetch, hdec, hready, hval, hpend⟩ := h
  have hok : (s.tile t).ready = true := by simp [Tile.ready, Seq.ready, hrun, hslot, hheld, hcop]
  have hguard : (s.tile t).seq.guard (fPg w) (fPn w) = some false := by simp [Seq.guard, hready, hval]
  have hnone : i.scalars.any (s.tile t).seq.pending = false := by simpa using hpend
  simp [State.issue, hok, hfetch, hdec, hsel, hnone, hguard]

/-! ### Registers and predicates -/

theorem toFin_val_inj {n : Nat} {a b : BitVec n} : a.toFin.val = b.toFin.val ↔ a = b :=
  ⟨fun h => BitVec.eq_of_toNat_eq h, fun h => h ▸ rfl⟩

theorem Seq.sreg_zero (q : Seq) : q.sreg 0 = 0 := rfl

theorem Seq.pred_zero (q : Seq) : q.pred 0 = ⟨true, none⟩ := rfl

theorem Seq.sreg_eq_of_regs {q r : Seq} (h : r.regs = q.regs) (x : BitVec 5) : r.sreg x = q.sreg x := by
  rw [Seq.sreg, h]
  rfl

theorem Seq.pred_eq_of_preds {q r : Seq} (h : r.preds = q.preds) (x : BitVec 3) : r.pred x = q.pred x := by
  rw [Seq.pred, h]
  rfl

theorem Seq.setReg_frame (q : Seq) (r : BitVec 5) (v : Word) :
    q.setReg r v = { q with regs := (q.setReg r v).regs } := by
  unfold Seq.setReg
  split <;> rfl

theorem Seq.awaitReg_regPend (q : Seq) (r : BitVec 5) (id : Nat) :
    (q.awaitReg r id).regPend = if r = 0 then q.regPend else q.regPend.set r.toFin (some id) := by
  unfold Seq.awaitReg
  split <;> rfl

theorem Seq.setPred_frame (q : Seq) (p : BitVec 3) (v : Pred) :
    q.setPred p v = { q with preds := (q.setPred p v).preds } := by
  unfold Seq.setPred
  split <;> rfl

theorem Seq.sreg_of_regs_set {q r : Seq} {d : BitVec 5} {v : Word} (h : r.regs = q.regs.set d.toFin v) (x : BitVec 5) :
    r.sreg x = if x = d ∧ x ≠ 0 then v else q.sreg x := by
  unfold Seq.sreg
  rw [h]
  by_cases hx : x = 0
  · simp [hx]
  · simp only [hx, if_false, ne_eq, not_false_eq_true, and_true, Fin.getElem_fin, Vector.getElem_set,
      toFin_val_inj]
    exact if_congr eq_comm rfl rfl

theorem Seq.pred_of_preds_set {q r : Seq} {d : BitVec 3} {v : Pred} (h : r.preds = q.preds.set d.toFin v) (x : BitVec 3) :
    r.pred x = if x = d ∧ x ≠ 0 then v else q.pred x := by
  unfold Seq.pred
  rw [h]
  by_cases hx : x = 0
  · simp [hx]
  · simp only [hx, if_false, ne_eq, not_false_eq_true, and_true, Fin.getElem_fin, Vector.getElem_set,
      toFin_val_inj]
    exact if_congr eq_comm rfl rfl

theorem Seq.sreg_setReg (q : Seq) (d x : BitVec 5) (v : Word) :
    (q.setReg d v).sreg x = if x = d ∧ x ≠ 0 then v else q.sreg x := by
  unfold Seq.setReg
  split
  · next h => exact (if_neg fun hx => hx.2 (hx.1.trans h)).symm
  · exact Seq.sreg_of_regs_set rfl x

theorem Seq.pred_setPred (q : Seq) (d x : BitVec 3) (v : Pred) :
    (q.setPred d v).pred x = if x = d ∧ x ≠ 0 then v else q.pred x := by
  unfold Seq.setPred
  split
  · next h => exact (if_neg fun hx => hx.2 (hx.1.trans h)).symm
  · exact Seq.pred_of_preds_set rfl x

theorem Seq.pending_awaitReg (q : Seq) {d : BitVec 5} (h : d ≠ 0) (id : Nat) : (q.awaitReg d id).pending d = true := by
  have hset : (q.awaitReg d id).regPend[d.toFin] = some id := by
    rw [Seq.awaitReg, if_neg h]
    exact Vector.getElem_set_self ..
  rw [Seq.pending, hset, bne_iff_ne.2 h]
  rfl

end Sys2Proof.Machine
end

section
/-!
SUPPORT. Scalar arithmetic and predicates (R234, R235, R238, R239), and the obligation they settle.
-/
namespace Sys2Proof.Machine
open Host

/-! ### The operations in integers (R239) -/

theorem AluOp.eval_eq_spec (op : AluOp) (a b : Word) : op.eval a b = op.spec a b := by
  cases op with
  | add => exact BitVec.eq_of_toNat_eq (BitVec.toNat_add a b)
  | sub => exact BitVec.eq_of_toInt_eq (BitVec.toInt_sub.trans (BitVec.toInt_ofInt _).symm)
  | mul => simp [AluOp.eval, AluOp.spec, BitVec.ofInt_mul]
  | and | or | xor => rfl
  | shl => exact BitVec.eq_of_toNat_eq (by simp [AluOp.eval, AluOp.spec, Nat.shiftLeft_eq])
  | shr =>
    refine BitVec.eq_of_toNat_eq ?_
    have hlt : a.toNat / 2 ^ (b.toNat % 64) < 2 ^ 64 := lt_of_le_of_lt (Nat.div_le_self ..) a.isLt
    simpa [AluOp.eval, AluOp.spec, Nat.shiftRight_eq_div_pow] using (Nat.mod_eq_of_lt hlt).symm
  | sra => simp [AluOp.eval, AluOp.spec, BitVec.sshiftRight, Int.shiftRight_eq_div_pow]
  | min =>
    simp only [AluOp.eval, AluOp.spec, BitVec.slt, decide_eq_true_eq]
    split
    · rw [min_eq_left (by omega), BitVec.ofInt_toInt]
    · rw [min_eq_right (by omega), BitVec.ofInt_toInt]
  | max =>
    simp only [AluOp.eval, AluOp.spec, BitVec.slt, decide_eq_true_eq]
    split
    · rw [max_eq_right (by omega), BitVec.ofInt_toInt]
    · rw [max_eq_left (by omega), BitVec.ofInt_toInt]
  | minu =>
    simp only [AluOp.eval, AluOp.spec, BitVec.ult, decide_eq_true_eq]
    split
    · rw [min_eq_left (by omega), BitVec.ofNat_toNat, BitVec.setWidth_eq]
    · rw [min_eq_right (by omega), BitVec.ofNat_toNat, BitVec.setWidth_eq]
  | maxu =>
    simp only [AluOp.eval, AluOp.spec, BitVec.ult, decide_eq_true_eq]
    split
    · rw [max_eq_right (by omega), BitVec.ofNat_toNat, BitVec.setWidth_eq]
    · rw [max_eq_left (by omega), BitVec.ofNat_toNat, BitVec.setWidth_eq]

theorem CmpOp.holds_iff_spec (op : CmpOp) (a b : Word) : op.holds a b = true ↔ op.spec a b := by
  cases op <;> simp [CmpOp.holds, CmpOp.spec, BitVec.slt, BitVec.ult, BitVec.toNat_eq]

/-! ### The rows of the table -/

/-- The rows that issue a SALU operation, each beside it. -/
def aluRows : List (AluOp × (TileId → Instr)) :=
  [(.add, .saluAdd), (.sub, .saluSub), (.mul, .saluMul), (.and, .saluAnd), (.or, .saluOr), (.xor, .saluXor), (.shl, .saluShl),
    (.shr, .saluShr), (.sra, .saluSra), (.min, .saluMin), (.max, .saluMax), (.minu, .saluMinu), (.maxu, .saluMaxu)]

theorem exec_aluRow {r : AluOp × (TileId → Instr)} (hr : r ∈ aluRows) (t : TileId) (s : State) :
    exec (r.2 t) s = s.saluOp t r.1 := by
  fin_cases hr <;> rfl

/-- The rows that issue a PSET comparison, each beside it. -/
def psetRows : List (CmpOp × (TileId → Instr)) :=
  [(.eq, .psetEq), (.ne, .psetNe), (.lt, .psetLt), (.ge, .psetGe), (.ltu, .psetLtu), (.geu, .psetGeu)]

theorem exec_psetRow {r : CmpOp × (TileId → Instr)} (hr : r ∈ psetRows) (t : TileId) (s : State) :
    exec (r.2 t) s = s.psetOp t r.1 := by
  fin_cases hr <;> rfl

/-! ### Issue -/

section
variable {s : State} {t : TileId} {w : Word} {sa sb : BitVec 5} {i : Bool} {imm : BitVec 32}

/-- A SALU instruction that issues writes its register and is passed. -/
theorem State.saluOp_issues {op : AluOp} {sd : BitVec 5} (h : s.issues t w (.alu op sd sa sb i imm)) :
    let q := (s.tile t).seq
    ∃ u, s.saluOp t op = .next u ∧ s.onlySeq u t ∧
      (q.setReg sd (op.eval (q.sreg sa) (q.operandB sb i imm))).Retired (u.tile t).seq (q.pc + 8) :=
  ⟨_, State.issue_next h (if_pos rfl) rfl, s.modSeq_retireNext t _ _ (by rw [Seq.setReg_frame])⟩

/-- A PSET instruction that issues writes its predicate and is passed. -/
theorem State.psetOp_issues {op : CmpOp} {pd : BitVec 3} (h : s.issues t w (.pset op pd sa sb i imm)) :
    let q := (s.tile t).seq
    ∃ u, s.psetOp t op = .next u ∧ s.onlySeq u t ∧
      (q.setPred pd ⟨op.holds (q.sreg sa) (q.operandB sb i imm), none⟩).Retired (u.tile t).seq (q.pc + 8) :=
  ⟨_, State.issue_next h (if_pos rfl) rfl, s.modSeq_retireNext t _ _ (by rw [Seq.setPred_frame])⟩

end

/-- Settles O1: every row is an issue of its operation, whose result is the one in integers; a false guard retires it. -/
theorem scalarInstructionsWriteTheirResults : Obligations.ScalarInstructionsWriteTheirResults := by
  unfold Obligations.ScalarInstructionsWriteTheirResults
  constructor
  · intro r hr s t w sd sa sb i imm q b
    rw [exec_aluRow hr]
    refine ⟨fun h => ?issues, fun h => ?skips⟩
    case issues =>
      obtain ⟨u, hexec, honly, hret⟩ := State.saluOp_issues h
      have hframe := q.setReg_frame sd (r.1.eval (q.sreg sa) (q.operandB sb i imm))
      refine ⟨u, hexec, honly, fun x => ?_, q.sreg_zero, ?_, ?_, ?_⟩
      · rw [Seq.sreg_eq_of_regs hret.regs, Seq.sreg_setReg, AluOp.eval_eq_spec]
        rfl
      · rw [hret.preds, hframe]
      · rw [hframe] at hret
        exact hret.1
      · rw [hframe] at hret
        exact hret.likeBut
    case skips =>
      obtain ⟨honly, hret⟩ := s.retire_retires t [] (q.pc + 8)
      exact ⟨_, State.issue_of_skips h (if_pos rfl), honly, hret.regs, hret.preds, hret.1, hret.likeBut⟩
  · intro r hr s t w pd sa sb i imm q b
    rw [exec_psetRow hr]
    refine ⟨fun h => ?issues, fun h => ?skips⟩
    case issues =>
      obtain ⟨u, hexec, honly, hret⟩ := State.psetOp_issues h
      have hframe := q.setPred_frame pd ⟨r.1.holds (q.sreg sa) (q.operandB sb i imm), none⟩
      have hpred (x : BitVec 3) := (Seq.pred_eq_of_preds hret.preds x).trans (Seq.pred_setPred ..)
      refine ⟨u, hexec, honly, fun hpd => ?_, fun x hx => ?_, q.pred_zero, ?_, ?_, ?_⟩
      · rw [hpred, if_pos ⟨rfl, hpd⟩]
        exact ⟨r.1.holds_iff_spec .., rfl⟩
      · rw [hpred, if_neg fun hand => hx.elim (· hand.1) hand.2]
      · rw [hret.regs, hframe]
      · rw [hframe] at hret
        exact hret.1
      · rw [hframe] at hret
        exact hret.likeBut
    case skips =>
      obtain ⟨honly, hret⟩ := s.retire_retires t [] (q.pc + 8)
      exact ⟨_, State.issue_of_skips h (if_pos rfl), honly, hret.regs, hret.preds, hret.1, hret.likeBut⟩

end Sys2Proof.Machine
end

section
/-!
SUPPORT. Loads (R235, R236, R249, R261): which are performed, what LD and PLD leave, and what a returning load writes; and
the obligation they settle.
-/
namespace Sys2Proof.Machine
open Host

/-! ### Performing -/

theorem State.performUpTo_of_performed {s : State} {t : TileId}
    (h : ∀ l ∈ (s.tile t).seq.loads, l.value.isSome = true) (n : Nat) : State.performUpTo t n s = s := by
  have hnone : ((s.tile t).seq.loads.find? fun l => l.value.isNone) = none :=
    List.find?_eq_none.2 fun l hl => by simp [Option.isSome_iff_ne_none.1 (h l hl)]
  cases n with
  | zero => rfl
  | succ n => simp [State.performUpTo, hnone]

/-- With every load performed there is none to perform. -/
theorem State.performLoads_of_performed {s : State} {t : TileId}
    (h : ∀ l ∈ (s.tile t).seq.loads, l.value.isSome = true) : s.performLoads t = s :=
  State.performUpTo_of_performed h _

/-- The last load is performed, when it may be, behind others that have been. -/
theorem State.performLoads_last {s : State} {t : TileId} {ls : List Load} {l : Load}
    (hloads : (s.tile t).seq.loads = ls ++ [l]) (hls : ∀ m ∈ ls, m.value.isSome = true) (hl : l.value = none)
    (hreg : (s.locate (.seq t) l.addr.toNat).isReg = false)
    (hstores : ∀ e ∈ (s.tile t).seq.stores, s.storeIsReg t e = false) (hready : s.loadReady t l = true)
    (hdone : ∀ m ∈ ((s.performLoad t l).tile t).seq.loads, m.value.isSome = true) :
    s.performLoads t = s.performLoad t l := by
  have hfind : ((s.tile t).seq.loads.find? fun l => l.value.isNone) = some l := by
    have hnone : ls.find? (fun l => l.value.isNone) = none :=
      List.find?_eq_none.2 fun m hm => by simp [Option.isSome_iff_ne_none.1 (hls m hm)]
    simp [hloads, List.find?_append, hnone, hl]
  have hplain : (s.tile t).seq.stores.any (fun e => s.storeIsReg t e) = false := by simpa using hstores
  have hlen : (s.tile t).seq.loads.length = ls.length + 1 := by simp [hloads]
  simp [State.performLoads, hlen, State.performUpTo, hfind, hreg, hplain, hready, State.performUpTo_of_performed hdone]

/-- A known value is counted, and written to the digest (R450), by the sequencer alone. -/
theorem State.loadKnown_counts (s : State) (t : TileId) (id : Nat) (b : List Byte) :
    let u := s.loadKnown t id b
    s.onlySeq u t ∧ { (s.tile t).seq with spec := (u.tile t).seq.spec, nInstr := (u.tile t).seq.nInstr } = (u.tile t).seq := by
  intro u
  unfold u State.loadKnown
  split
  · exact ⟨s.onlySeq_modSeq t _, by simp⟩
  · exact ⟨(s.onlySeq_modSeq t _).trans (State.onlySeq_modDigest ..), by simp⟩

/-- The loads when load `id` has been performed with word `v`. -/
def performedLoads (id : Nat) (v : Word) (ls : List Load) : List Load :=
  ls.map fun m => if m.id = id then { m with value := some v } else m

theorem performedLoads_last {ls : List Load} {l : Load} (h : ∀ m ∈ ls, m.id ≠ l.id) (v : Word) :
    performedLoads l.id v (ls ++ [l]) = ls ++ [{ l with value := some v }] := by
  have hold : performedLoads l.id v ls = ls :=
    (List.map_congr_left fun m hm => if_neg (h m hm)).trans (List.map_id' _)
  rw [performedLoads, List.map_append, ← performedLoads, hold]
  simp

/-- A load of memory without an uncorrectable line takes the bytes it sees. -/
theorem State.performLoad_mem {s : State} {t : TileId} {l : Load} {k : Nat}
    (hloc : s.locate (.seq t) l.addr.toNat = .mem k) (hue : s.readUe k l.dst.size = none) :
    let v : Word := BitVec.ofNat 64 (leNat (s.seqView t l.id k l.dst.size))
    let u := s.performLoad t l
    s.onlySeq u t ∧ { (s.tile t).seq with
      loads := performedLoads l.id v (s.tile t).seq.loads
      spec := (u.tile t).seq.spec, nInstr := (u.tile t).seq.nInstr } = (u.tile t).seq := by
  intro v u
  let w := s.modLoads t (performedLoads l.id v)
  have hu : u = w.loadKnown t l.id (l.dst.bytes v) := by
    simp only [u, State.performLoad, hloc, hue]
    rfl
  have hw : (w.tile t).seq = { (s.tile t).seq with loads := performedLoads l.id v (s.tile t).seq.loads } := by
    simp [w, State.modLoads]
  obtain ⟨honly, hseq⟩ := w.loadKnown_counts t l.id (l.dst.bytes v)
  rw [hw, ← hu] at hseq
  exact ⟨hu ▸ (s.onlySeq_modSeq t _).trans honly, hseq⟩

/-! ### Issue -/

/-- The load that an instruction issued now enters. -/
def Seq.issuedLoad (q : Seq) (a : Word) (wait : BitVec 4) (dst : LoadDst) (value : Option Word) : Load :=
  ⟨q.nextId, q.emitTag, q.pc, a, wait, dst, value⟩

/-- A sequencer whose last load is `l`, which its destination awaits. -/
def Seq.entering (q : Seq) (l : Load) : Seq :=
  let q := { q with loads := q.loads ++ [l] }
  match l.dst with
  | .reg sd _ => q.awaitReg sd l.id
  | .pred pd _ => q.setPred pd ⟨(q.pred pd).val, some l.id⟩

theorem Seq.entering_reg (q : Seq) {l : Load} {sd : BitVec 5} {n : Nat} (h : l.dst = .reg sd n) :
    q.entering l = { q with regPend := (q.awaitReg sd l.id).regPend, loads := q.loads ++ [l] } := by
  unfold Seq.entering Seq.awaitReg
  rw [h]
  dsimp only
  split <;> rfl

theorem Seq.entering_pred (q : Seq) {l : Load} {pd : BitVec 3} {c : PldCond} (h : l.dst = .pred pd c) :
    q.entering l = { q with
      preds := (q.setPred pd ⟨(q.pred pd).val, some l.id⟩).preds, loads := q.loads ++ [l] } := by
  unfold Seq.entering Seq.setPred
  rw [h]
  dsimp only
  split <;> rfl

theorem Seq.entering_frame (q : Seq) (l : Load) :
    q.entering l = { q with
      regPend := (q.entering l).regPend, preds := (q.entering l).preds, loads := q.loads ++ [l] } := by
  cases hdst : l.dst with
  | reg sd n => rw [q.entering_reg hdst]
  | pred pd c => rw [q.entering_pred hdst]

/-- The commit of a load whose value is not known waits in the digest, or with its tag (R450). -/
theorem State.emit_load (s : State) (t : TileId) (tag : Option Nat) (id : Nat) :
    let u := s.emit t tag (.load id)
    s.onlySeq u t ∧ { (s.tile t).seq with spec := (u.tile t).seq.spec } = (u.tile t).seq := by
  refine ⟨State.onlySeq_emit (s.onlySeq_modDigest t .seq _) tag, ?_⟩
  cases tag with
  | none => rw [State.emit, State.commitEv, State.seq_modDigest]
  | some g => rw [State.emit_some, State.tile_modTile]

theorem State.onlySeq_advance (s : State) (t : TileId) (pc : Word) : s.onlySeq (s.advance t pc) t :=
  s.onlySeq_modSeq t _

/-- A load enters behind the others, its destination awaits it, and PC moves on. -/
theorem State.pushLoad_enters (s : State) (t : TileId) (a : Word) (wait : BitVec 4) (dst : LoadDst) (value : Option Word) :
    let q := (s.tile t).seq
    let u := s.pushLoad t a wait dst value
    s.onlySeq u t ∧ { q.entering (q.issuedLoad a wait dst value) with
      pc := q.pc + 8, nextId := q.nextId + 1, pcCom := (u.tile t).seq.pcCom, spec := (u.tile t).seq.spec } =
        (u.tile t).seq := by
  intro q u
  let l := q.issuedLoad a wait dst value
  let v := s.modSeq t fun q => q.entering l
  let w := if value.isNone then v.emit t l.tag (.load l.id) else v
  have hu : u = w.advance t (q.pc + 8) := by cases dst <;> rfl
  have hv : (v.tile t).seq = q.entering l := by simp [v, q]
  have hw : v.onlySeq w t ∧ { (v.tile t).seq with spec := (w.tile t).seq.spec } = (w.tile t).seq := by
    unfold w
    split
    · exact v.emit_load t l.tag l.id
    · exact ⟨v.onlySeq_refl t, rfl⟩
  obtain ⟨honly, hseq⟩ := hw
  rw [hu]
  refine ⟨((s.onlySeq_modSeq t _).trans honly).trans (w.onlySeq_advance t _), ?_⟩
  rw [State.advance, State.modSeq_eq, State.tile_modTile, ← hseq, hv, Seq.entering_frame]

/-! ### Memory beside the sequencer -/

section
variable {s u : State} {t : TileId} (h : s.onlySeq u t)
include h

/-- What an address maps to, and what its bytes are, does not depend on the sequencer. -/
theorem State.onlySeq.memory : u.locate = s.locate ∧ u.readUe = s.readUe ∧ u.writeUe = s.writeUe ∧ u.rd = s.rd ∧
    u.mem = s.mem := by
  obtain ⟨r, g, rfl, -⟩ := State.onlySeq_iff.1 h
  exact ⟨rfl, rfl, rfl, rfl, rfl⟩

/-- Nor do the operations that wait masks look at. -/
theorem State.onlySeq.waitsDone (mask : BitVec 4) (id : Nat) : (u.tile t).waitsDone mask id = (s.tile t).waitsDone mask id := by
  obtain ⟨r, g, rfl, -⟩ := State.onlySeq_iff.1 h
  rw [State.tile_setTile]
  rfl

theorem State.onlySeq.storeIsReg (e : SbEntry) : u.storeIsReg t e = s.storeIsReg t e := by
  rw [State.storeIsReg, h.memory.1]
  rfl

theorem State.onlySeq.seqView (hstores : (u.tile t).seq.stores = (s.tile t).seq.stores) (id k n : Nat) :
    u.seqView t id k n = s.seqView t id k n := by
  obtain ⟨hloc, -, -, hrd, -⟩ := h.memory
  have hkey : u.storeKey = s.storeKey := by
    funext t e
    rw [State.storeKey, hloc]
    rfl
  rw [State.seqView, hstores, hkey, hrd]
  rfl

end

/-! ### Issue and performance together -/

/-- A load of memory that may be performed now is performed in the step of its issue. -/
theorem State.pushLoad_performs {s : State} {t : TileId} {a : Word} {wait : BitVec 4} {dst : LoadDst} {k : Nat}
    (hnow : s.loadsNow t wait) (hloc : s.locate (.seq t) a.toNat = .mem k) (hue : s.readUe k dst.size = none) :
    let q := (s.tile t).seq
    let v : Word := BitVec.ofNat 64 (leNat (tab dst.size fun j => s.loadByte t (k + j)))
    let u := (s.pushLoad t a wait dst none).performLoads t
    s.onlySeq u t ∧ { q.entering (q.issuedLoad a wait dst none) with
      loads := q.loads ++ [q.issuedLoad a wait dst (some v)], pc := q.pc + 8, nextId := q.nextId + 1
      spec := (u.tile t).seq.spec, pcCom := (u.tile t).seq.pcCom, nInstr := (u.tile t).seq.nInstr } = (u.tile t).seq := by
  intro q v
  obtain ⟨hwait, hloads, hstores⟩ := hnow
  let l := q.issuedLoad a wait dst none
  let p := s.pushLoad t a wait dst none
  obtain ⟨honly, hseq⟩ := s.pushLoad_enters t a wait dst none
  rw [Seq.entering_frame] at hseq
  have hl : (p.tile t).seq.loads = q.loads ++ [l] := (congrArg Seq.loads hseq).symm
  have hst : (p.tile t).seq.stores = q.stores := (congrArg Seq.stores hseq).symm
  obtain ⟨hploc, hpue, -⟩ := honly.memory
  have hlocp : p.locate (.seq t) l.addr.toNat = .mem k := hploc ▸ hloc
  have hplain (e : SbEntry) (he : e ∈ (p.tile t).seq.stores) : p.storeIsReg t e = false :=
    (honly.storeIsReg e).trans (hstores e (hst ▸ he))
  have hready : p.loadReady t l = true := by
    have hw : (p.tile t).waitsDone wait q.nextId = true := (honly.waitsDone ..).trans hwait
    simp only [State.loadReady, hl, hlocp, Bool.and_eq_true, List.all_eq_true, List.mem_append, List.mem_singleton]
    refine ⟨⟨hw, fun m hm => ?_⟩, fun e he => ?_⟩
    · rcases hm with hm | rfl
      · simp [(hloads m hm).1]
      · simp
    · simp [hplain e he, Target.isReg]
  have hview : p.seqView t l.id k l.dst.size = tab dst.size fun j => s.loadByte t (k + j) :=
    (honly.seqView hst _ _ _).trans (s.seqView_eq t k dst.size)
  obtain ⟨honly', hseq'⟩ := State.performLoad_mem (l := l) hlocp (hpue ▸ hue)
  have hfinal : performedLoads l.id v (p.tile t).seq.loads = q.loads ++ [q.issuedLoad a wait dst (some v)] := by
    rw [hl]
    exact performedLoads_last (fun m hm => (hloads m hm).2.ne) v
  rw [hview, hfinal] at hseq'
  have hperf : p.performLoads t = p.performLoad t l := by
    refine State.performLoads_last hl (fun m hm => (hloads m hm).1) rfl (by rw [hlocp]; rfl) hplain hready ?_
    rw [← hseq']
    intro m hm
    rcases List.mem_append.1 hm with hm | hm
    · exact (hloads m hm).1
    · rw [List.mem_singleton.1 hm]
      rfl
  intro u
  rw [show u = p.performLoad t l from hperf]
  refine ⟨honly.trans honly', ?_⟩
  rw [← hseq', ← hseq, Seq.entering_frame]

/-- An aligned access to memory that need not write it has no fault (R258). -/
theorem State.accessFault_read {s : State} {t : TileId} {a n k : Nat} (hal : a % n = 0)
    (hloc : s.locate (.seq t) a = .mem k) : s.accessFault t a n false = none := by
  simp [State.accessFault, hal, hloc]

section
variable {s : State} {t : TileId} {w : Word} {sa : BitVec 5} {wait : BitVec 4} {off : BitVec 32} {k : Nat}
  (hnow : s.loadsNow t wait)
  (hloc : s.locate (.seq t) ((s.tile t).seq.sreg sa + off.signExtend 64).toNat = .mem k)
include hnow hloc

/-- An LD of memory that issues and may be performed now is performed. -/
theorem execLd_performs {sd : BitVec 5} {size : BitVec 2} (h : s.issues t w (.ld sd sa wait size off))
    (hal : ((s.tile t).seq.sreg sa + off.signExtend 64).toNat % 2 ^ size.toNat = 0)
    (hue : s.readUe k (2 ^ size.toNat) = none) :
    let q := (s.tile t).seq
    let a := q.sreg sa + off.signExtend 64
    let dst := LoadDst.reg sd (2 ^ size.toNat)
    let v : Word := BitVec.ofNat 64 (leNat (tab (2 ^ size.toNat) fun j => s.loadByte t (k + j)))
    ∃ u, exec (.ld t) s = .next u ∧ s.onlySeq u t ∧ { q.entering (q.issuedLoad a wait dst none) with
      loads := q.loads ++ [q.issuedLoad a wait dst (some v)], pc := q.pc + 8, nextId := q.nextId + 1
      spec := (u.tile t).seq.spec, pcCom := (u.tile t).seq.pcCom, nInstr := (u.tile t).seq.nInstr } = (u.tile t).seq := by
  intro q a dst v
  refine ⟨(s.pushLoad t a wait dst none).performLoads t, ?_, State.pushLoad_performs hnow hloc hue⟩
  change execLd t s = _
  refine State.issue_next (a := (sd, sa, wait, size, off)) h rfl ?_
  simp only [ext32, sizeOf2, State.accessFault_read hal hloc]
  rfl

/-- So is a PLD. -/
theorem State.pldOp_performs {c : PldCond} {pd : BitVec 3} {sel : PldCond → Bool} (hc : sel c = true)
    (h : s.issues t w (.pld c pd sa wait off)) (hal : ((s.tile t).seq.sreg sa + off.signExtend 64).toNat % 8 = 0)
    (hue : s.readUe k 8 = none) :
    let q := (s.tile t).seq
    let a := q.sreg sa + off.signExtend 64
    let dst := LoadDst.pred pd c
    let v : Word := BitVec.ofNat 64 (leNat (tab 8 fun j => s.loadByte t (k + j)))
    ∃ u, s.pldOp t sel = .next u ∧ s.onlySeq u t ∧ { q.entering (q.issuedLoad a wait dst none) with
      loads := q.loads ++ [q.issuedLoad a wait dst (some v)], pc := q.pc + 8, nextId := q.nextId + 1
      spec := (u.tile t).seq.spec, pcCom := (u.tile t).seq.pcCom, nInstr := (u.tile t).seq.nInstr } = (u.tile t).seq := by
  intro q a dst v
  refine ⟨(s.pushLoad t a wait dst none).performLoads t, State.issue_next h (if_pos hc) ?_,
    State.pushLoad_performs hnow hloc hue⟩
  simp only [ext32, State.accessFault_read hal hloc]
  rfl

end

/-! ### Return -/

theorem Seq.sreg_returnReg {q r : Seq} {id : Nat} {sd : BitVec 5} {v : Word}
    (h : r.regs = (returnReg id sd v q.regs q.regPend).1) (x : BitVec 5) :
    r.sreg x = if x = sd ∧ x ≠ 0 ∧ q.regPend[x.toFin] = some id then v else q.sreg x := by
  by_cases hawait : sd ≠ 0 ∧ q.regPend[sd.toFin] = some id
  case pos =>
    rw [returnReg, if_pos hawait] at h
    rw [Seq.sreg_of_regs_set h]
    refine if_congr ⟨fun hx => ⟨hx.1, hx.2, hx.1 ▸ hawait.2⟩, fun hx => ⟨hx.1, hx.2.1⟩⟩ rfl rfl
  case neg =>
    rw [returnReg, if_neg hawait] at h
    rw [Seq.sreg_eq_of_regs h, if_neg]
    rintro ⟨rfl, hand⟩
    exact hawait hand

theorem getElem_returnPred (id : Nat) (pd x : BitVec 3) (c : Bool) (preds : Vector Pred 8) :
    (returnPred id pd c preds)[x.toFin] =
      if x = pd ∧ preds[x.toFin].awaits = some id then ⟨c, none⟩ else preds[x.toFin] := by
  by_cases hawait : preds[pd.toFin].awaits = some id
  case pos =>
    rw [returnPred, if_pos hawait]
    by_cases hx : x = pd
    · subst hx
      exact (Vector.getElem_set_self ..).trans (if_pos ⟨rfl, hawait⟩).symm
    · exact (Vector.getElem_set_ne _ _ fun h => hx (toFin_val_inj.1 h).symm).trans (if_neg fun h => hx h.1).symm
  case neg =>
    rw [returnPred, if_neg hawait, if_neg]
    rintro ⟨rfl, hand⟩
    exact hawait hand

theorem Seq.pred_returnPred {q r : Seq} {id : Nat} {pd : BitVec 3} {c : Bool} (h : r.preds = returnPred id pd c q.preds)
    (x : BitVec 3) : r.pred x = if x = pd ∧ x ≠ 0 ∧ (q.pred x).awaits = some id then ⟨c, none⟩ else q.pred x := by
  by_cases hx : x = 0
  case pos => rw [if_neg fun hand => hand.2.1 hx, Seq.pred, Seq.pred, if_pos hx, if_pos hx]
  case neg =>
    rw [Seq.pred, Seq.pred, if_neg hx, if_neg hx, h, getElem_returnPred]
    exact if_congr ⟨fun hand => ⟨hand.1, hx, hand.2⟩, fun hand => ⟨hand.1, hand.2.2⟩⟩ rfl rfl

/-- The sequencer when load `k`, which is `l`, has returned with word `v`. -/
def Seq.returned (q : Seq) (k : Nat) (l : Load) (v : Word) : Seq := { q.returnValue l v with loads := q.loads.eraseIdx k }

/-- With no branch unresolved the return changes no other field. -/
theorem Seq.returned_frame (q : Seq) (h : q.branches = []) (k : Nat) (l : Load) (v : Word) :
    let r := q.returned k l v
    { q with regs := r.regs, regPend := r.regPend, preds := r.preds, loads := r.loads } = r := by
  simp only [Seq.returned, Seq.returnValue]
  cases l.dst <;> simp [h]

/-- A performed load that returns writes its destination and leaves, and then resolves the branches tied to it. -/
theorem execLoadReturn_returns {s : State} {t : TileId} {k : Nat} {l : Load} {v : Word}
    (hperf : ∀ m ∈ (s.tile t).seq.loads, m.value.isSome = true) (hl : (s.tile t).seq.loads[k]? = some l)
    (hv : l.value = some v) :
    exec (.loadReturn t k) s = .next (match l.dst with
      | .pred _ c => State.resolveLoad t l.id (c.holds v) 2 (s.modSeq t fun q => q.returned k l v)
      | .reg .. => s.modSeq t fun q => q.returned k l v) := by
  change execLoadReturn t k s = _
  simp only [execLoadReturn, State.performLoads_of_performed hperf, hl, hv]
  rfl

theorem State.resolveLoad_of_branches_nil {s : State} {t : TileId} (h : (s.tile t).seq.branches = []) (id : Nat) (c : Bool)
    (n : Nat) : State.resolveLoad t id c n s = s := by
  cases n with
  | zero => rfl
  | succ n => simp [State.resolveLoad, h]

/-- Settles O2: an LD or PLD is entered and performed in one step, and a return writes its destination where it is awaited. -/
theorem loadsReadMemoryAndReturn : Obligations.LoadsReadMemoryAndReturn := by
  unfold Obligations.LoadsReadMemoryAndReturn
  refine ⟨?ld, ?pld, ?ret⟩
  case ld =>
    intro s t w sd sa wait size off k h hnow q a n hal hloc hue
    obtain ⟨u, hexec, honly, hseq⟩ := execLd_performs hnow hloc h hal hue
    refine ⟨u, BitVec.ofNat 64 (leNat (tab n fun j => s.loadByte t (k + j))), hexec, honly, ?_⟩
    rw [← hseq, Seq.entering_reg _ rfl]
    exact ⟨rfl, rfl, fun hsd => q.pending_awaitReg hsd q.nextId, rfl, rfl, rfl⟩
  case pld =>
    intro c r hr hc s t w pd sa wait off k h hnow q a hal hloc hue
    obtain ⟨sel, hsel, hrow⟩ : ∃ sel : PldCond → Bool, sel c = true ∧ exec (r.2 t) s = s.pldOp t sel := by
      fin_cases hr
      · exact ⟨fun c => c == .eq0, by simpa using hc, rfl⟩
      · exact ⟨fun c => c == .ne0, by simpa using hc, rfl⟩
      · obtain ⟨n, rfl⟩ := hc
        exact ⟨fun c => match c with | .bit _ => true | _ => false, rfl, rfl⟩
    obtain ⟨u, hexec, honly, hseq⟩ := State.pldOp_performs hnow hloc hsel h hal hue
    refine ⟨u, BitVec.ofNat 64 (leNat (tab 8 fun j => s.loadByte t (k + j))), hrow.trans hexec, honly, ?_⟩
    have hpred (x : BitVec 3) := q.pred_setPred pd x ⟨(q.pred pd).val, some q.nextId⟩
    rw [← hseq, Seq.entering_pred _ rfl]
    refine ⟨rfl, rfl, fun hpd => ?_, fun x hx => ?_, rfl, rfl⟩
    · exact (congrArg Pred.awaits (hpred pd)).trans (by rw [if_pos ⟨rfl, hpd⟩])
    · exact (hpred x).trans (if_neg fun hand => hx hand.1)
  case ret =>
    intro s t k l v q hperf hbranches hl hv
    have hexec : exec (.loadReturn t k) s = .next (s.modSeq t fun q => q.returned k l v) := by
      rw [execLoadReturn_returns hperf hl hv]
      have hnone : ((s.modSeq t fun q => q.returned k l v).tile t).seq.branches = [] := by
        rw [State.modSeq_eq, State.tile_modTile]
        rw [← q.returned_frame hbranches]
        exact hbranches
      cases l.dst with
      | reg sd n => rfl
      | pred pd c => exact congrArg _ (State.resolveLoad_of_branches_nil hnone ..)
    refine ⟨_, hexec, ?_⟩
    rw [State.modSeq_eq, State.tile_modTile]
    refine ⟨rfl, ?_, rfl, ?_⟩
    · cases hdst : l.dst with
      | reg sd n =>
        refine ⟨Seq.sreg_returnReg ?_, ?_⟩ <;> simp only [Seq.returned, Seq.returnValue, hdst] <;> rfl
      | pred pd c =>
        refine ⟨?_, Seq.pred_returnPred ?_⟩ <;> simp only [Seq.returned, Seq.returnValue, hdst] <;> rfl
    · exact q.returned_frame hbranches k l v

end Sys2Proof.Machine
end

section
/-!
SUPPORT. Stores and atomics (R252, R254, R261, R262, R264, R276): how a store joins the waiting ones and becomes visible,
what an AMO does to memory and to its sequencer; and the obligation they settle.
-/
namespace Sys2Proof.Machine
open Host

/-! ### Bytes -/

theorem leBytes_getD {k j : Nat} (v : Nat) (h : j < k) : (leBytes k v).getD j 0 = BitVec.ofNat 8 (v / 2 ^ (8 * j)) := by
  induction k generalizing v j with
  | zero => omega
  | succ k ih =>
    cases j with
    | zero => simp [leBytes]
    | succ j =>
      have hpow : 256 * 2 ^ (8 * j) = 2 ^ (8 * (j + 1)) := (two_pow_bytes_succ j).symm
      rw [leBytes, List.getD_cons_succ, ih (v / 256) (by omega), Nat.div_div_eq_div_mul, hpow]

/-! ### A write of memory beside a step of the sequencer -/

section
variable {s v : State} {t : TileId} (h : s.onlySeq v t)
include h

theorem State.onlySeq.wr (k : Nat) (b : List Byte) : v.wr k b = (s.wr k b).setTile t (v.tile t) := by
  obtain ⟨r, g, rfl, -⟩ := State.onlySeq_iff.1 h
  rw [State.wr_setTile, State.tile_setTile]

theorem State.onlySeq.tile_ne {t' : TileId} (hne : t' ≠ t) : v.tile t' = s.tile t' := by
  obtain ⟨r, g, rfl, -⟩ := State.onlySeq_iff.1 h
  exact s.tile_setTile_ne _ hne

/-- After a write of memory the step changes no more than it and the tile. -/
theorem State.onlySeq.frame_memory {s' : State} (hs : s = { s' with mem := s.mem, hbm := s.hbm }) :
    v = { s' with tiles := v.tiles, mem := v.mem, hbm := v.hbm } := by
  obtain ⟨r, g, rfl, -⟩ := State.onlySeq_iff.1 h
  obtain ⟨m, b, rfl⟩ : ∃ m b, s = { s' with mem := m, hbm := b } := ⟨_, _, hs⟩
  rfl

end

theorem State.tile_setTile_wr_ne (s : State) {t t' : TileId} (x : Tile) (k : Nat) (b : List Byte) (hne : t' ≠ t) :
    ((s.wr k b).setTile t x).tile t' = s.tile t' :=
  ((s.wr k b).tile_setTile_ne x hne).trans (s.tile_wr k b t')

theorem State.wr_frame (s : State) (k : Nat) (b : List Byte) :
    s.wr k b = { s with mem := (s.wr k b).mem, hbm := (s.wr k b).hbm } := by
  unfold State.wr
  dsimp only
  split <;> rfl

/-! ### Stores -/

/-- The store that an instruction issued now enters. -/
def Seq.issuedStore (q : Seq) (a : Word) (wait : BitVec 4) (data : List Byte) : SbEntry :=
  ⟨q.nextId, q.emitTag, q.pc, a, wait, data⟩

theorem Seq.tag_of_branches_nil {q : Seq} (h : q.branches = []) : q.tag = none := by
  simp [Seq.tag, h]

/-- With no branch unresolved and no resolved tag on its way an instruction commits at once. -/
theorem Seq.emitTag_none {q : Seq} (hb : q.branches = []) (hd : q.deliver = []) : q.emitTag = none := by
  simp [Seq.emitTag, Seq.tag_of_branches_nil hb, hd]

/-- A store that issues without a fault and finds room joins the waiting stores, and with `visible` they then drain. -/
theorem execSt_joins {s : State} {t : TileId} {w : Word} {sd sa : BitVec 5} {wait : BitVec 4} {size : BitVec 2}
    {off : BitVec 32} (h : s.issues t w (.st sd sa wait size off))
    (hfault : s.accessFault t ((s.tile t).seq.sreg sa + off.signExtend 64).toNat (2 ^ size.toNat) true = none)
    (hroom : (s.tile t).seq.branches ≠ [] → ((s.tile t).seq.stores.filter fun e => e.tag.isSome).length < 16)
    (visible : Bool) :
    let q := (s.tile t).seq
    let e := q.issuedStore (q.sreg sa + off.signExtend 64) wait (leBytes (2 ^ size.toNat) (q.sreg sd).toNat)
    ∃ v, exec (.st t visible) s = .next (if visible then v.drainStores t else v) ∧ s.onlySeq v t ∧
      { q with stores := q.stores ++ [e] }.Retired (v.tile t).seq (q.pc + 8) := by
  intro q e
  refine ⟨_, ?_, s.modSeq_retireNext t (fun q => { q with stores := q.stores ++ [e] }) e.data rfl⟩
  change execSt t visible s = _
  have hfree : (q.tag.isSome && decide (16 ≤ (q.stores.filter fun e => e.tag.isSome).length)) = false := by
    by_cases hb : q.branches = []
    · simp [Seq.tag_of_branches_nil hb]
    · simpa using fun _ => hroom hb
  refine State.issue_next (a := (sd, sa, wait, size, off)) h rfl ?_
  simp only [ext32, sizeOf2, hfault, q, hfree]
  rfl

/-- One waiting store that may become visible does so. -/
theorem State.drainStores_single {s : State} {t : TileId} {e : SbEntry} (hst : (s.tile t).seq.stores = [e])
    (hready : (s.tile t).storeReady e = true) : s.drainStores t = s.performStore t e := by
  simp [State.drainStores, State.drainUpTo, hst, hready]

/-- A store to memory without an uncorrectable line in its way writes its bytes. -/
theorem State.performStore_mem {s : State} {t : TileId} {e : SbEntry} {k : Nat}
    (hloc : s.locate (.seq t) e.addr.toNat = .mem k) (hue : s.writeUe k e.data.length = none) :
    s.performStore t e = (s.modSeq t fun q => { q with stores := q.stores.drop 1 }).wr k e.data := by
  have honly := s.onlySeq_modSeq t fun q => { q with stores := q.stores.drop 1 }
  obtain ⟨hl, -, hw, -⟩ := honly.memory
  simp only [State.performStore, hl, hloc, hw, hue]
  rfl

/-- A store that may become visible at once, with none before it, is a write of its bytes. -/
theorem execSt_writes {s : State} {t : TileId} {w : Word} {sd sa : BitVec 5} {wait : BitVec 4} {size : BitVec 2}
    {off : BitVec 32} {k : Nat} (h : s.issues t w (.st sd sa wait size off))
    (hfault : s.accessFault t ((s.tile t).seq.sreg sa + off.signExtend 64).toNat (2 ^ size.toNat) true = none)
    (hloc : s.locate (.seq t) ((s.tile t).seq.sreg sa + off.signExtend 64).toNat = .mem k)
    (hue : s.writeUe k (2 ^ size.toNat) = none) (hb : (s.tile t).seq.branches = []) (hd : (s.tile t).seq.deliver = [])
    (hst : (s.tile t).seq.stores = []) (hwait : (s.tile t).waitsDone wait (s.tile t).seq.nextId = true)
    (hl : ∀ l ∈ (s.tile t).seq.loads, l.value.isSome = true) :
    let q := (s.tile t).seq
    ∃ y : Tile, exec (.st t true) s = .next ((s.wr k (leBytes (2 ^ size.toNat) (q.sreg sd).toNat)).setTile t y) ∧
      q.Retired y.seq (q.pc + 8) := by
  intro q
  let e := q.issuedStore (q.sreg sa + off.signExtend 64) wait (leBytes (2 ^ size.toNat) (q.sreg sd).toNat)
  obtain ⟨v, hexec, honly, hpassed, hseq⟩ := execSt_joins h hfault (fun hne => absurd hb hne) true
  obtain ⟨hvloc, -, hvue, -⟩ := honly.memory
  have hone : (v.tile t).seq.stores = [e] := by rw [← hseq, hst]; rfl
  have hready : (v.tile t).storeReady e = true := by
    have htag : e.tag = none := Seq.emitTag_none hb hd
    have hw : (v.tile t).waitsDone e.wait e.id = true := (honly.waitsDone ..).trans hwait
    have hloads : (v.tile t).seq.loads = q.loads := by rw [← hseq]
    simp only [Tile.storeReady, htag, hw, hloads, Option.isNone_none, Bool.and_self, Bool.true_and, List.all_eq_true]
    exact fun l hm => by rw [hl l hm]; rfl
  have hdata : e.data.length = 2 ^ size.toNat := leBytes_length ..
  have hdrain : v.drainStores t = (v.modSeq t fun q => { q with stores := q.stores.drop 1 }).wr k e.data :=
    (State.drainStores_single hone hready).trans (State.performStore_mem (hvloc ▸ hloc) (by rw [hdata, hvue]; exact hue))
  rw [if_pos rfl, hdrain, (honly.trans (v.onlySeq_modSeq t _)).wr] at hexec
  refine ⟨_, hexec, ?_⟩
  have hnone : (v.tile t).seq.stores.drop 1 = q.stores := by rw [hone, hst]; rfl
  rw [State.modSeq_eq, State.tile_modTile, hnone]
  refine ⟨hpassed, ?_⟩
  rw [← hseq]

/-! ### Atomics -/

/-- A fence that finds nothing of its sequencer waiting does nothing. -/
theorem State.fence_of_idle {s : State} {t : TileId} (hst : (s.tile t).seq.stores = [])
    (hl : ∀ l ∈ (s.tile t).seq.loads, l.value.isSome = true) : s.fence t = s := by
  rw [State.fence, State.performLoads_of_performed hl, State.drainStores_of_stores_nil hst, State.performLoads_of_performed hl]

theorem Seq.fenced_of_idle {q : Seq} (hst : q.stores = []) (hl : ∀ l ∈ q.loads, l.value.isSome = true) : q.fenced = true := by
  simpa [Seq.fenced, hst] using hl

/-- Memory after an atomic of operation `op` at key `k`, whose old value is `old` (R264). -/
def State.atomic (s : State) (k : Nat) (op : AmoOp) (old b c : Word) : State :=
  match op.result old b c with
  | some v => s.wr k (leBytes 8 v.toNat)
  | none => s

theorem State.atomic_frame (s : State) (k : Nat) (op : AmoOp) (old b c : Word) :
    let w := s.atomic k op old b c
    w = { s with mem := w.mem, hbm := w.hbm } := by
  unfold State.atomic
  cases op.result old b c with
  | some v => exact s.wr_frame k _
  | none => rfl

theorem State.atomic_word (s : State) (k : Nat) (op : AmoOp) {old : Word} (hold : old = BitVec.ofNat 64 (leNat (s.rd k 8)))
    (b c : Word) : BitVec.ofNat 64 (leNat ((s.atomic k op old b c).rd k 8)) = (op.result old b c).getD old := by
  unfold State.atomic
  cases op.result old b c with
  | none => exact hold.symm
  | some v =>
    have hback := Memory.readBytes_writeBytes 0 s.mem k (leBytes 8 v.toNat)
    rw [leBytes_length] at hback
    simp only [State.rd, s.wr_mem, hback, leNat_leBytes_of_lt (k := 8) v.isLt, BitVec.ofNat_toNat, BitVec.setWidth_eq,
      Option.getD_some]

theorem State.atomic_apart (s : State) (k : Nat) (op : AmoOp) (old b c : Word) {a : Nat} (h : a < k ∨ k + 8 ≤ a) :
    Memory.read 0 (s.atomic k op old b c).mem a = Memory.read 0 s.mem a := by
  unfold State.atomic
  cases op.result old b c with
  | none => rfl
  | some v => exact s.read_wr_apart (by simpa using h)

theorem State.tile_atomic (s : State) (k : Nat) (op : AmoOp) (old b c : Word) (t : TileId) :
    (s.atomic k op old b c).tile t = s.tile t := by
  unfold State.atomic
  cases op.result old b c with
  | none => rfl
  | some v => exact s.tile_wr ..

/-- A committed instruction of the sequencer is counted, by the sequencer alone. -/
theorem State.emit_seq_counts (s : State) (t : TileId) (b : List Byte) :
    let u := s.emit t none (.op .seq b 0 0)
    s.onlySeq u t ∧ (u.tile t).seq = { (s.tile t).seq with nInstr := (s.tile t).seq.nInstr + 1 } := by
  intro u
  rw [show u = _ from s.emit_seq_none t b]
  exact ⟨s.onlySeq_withSeq t _ fun hoff => by simp [hoff], by rw [State.tile_modTile]⟩

/-- An AMO on memory, with nothing of its sequencer waiting, is done at once: its location is changed, and the old value
returns as a load that has been performed. -/
theorem State.amoOp_runs {s : State} {t : TileId} {w : Word} {op : AmoOp} {sd sa sb sc : BitVec 5} {k : Nat}
    (h : s.issues t w (.amo op sd sa sb sc)) (hb : (s.tile t).seq.branches = []) (hd : (s.tile t).seq.deliver = [])
    (hst : (s.tile t).seq.stores = []) (hl : ∀ l ∈ (s.tile t).seq.loads, l.value.isSome = true)
    (hfault : s.accessFault t ((s.tile t).seq.sreg sa).toNat 8 true = none)
    (hloc : s.locate (.seq t) ((s.tile t).seq.sreg sa).toNat = .mem k) (hue : s.readUe k 8 = none) :
    let q := (s.tile t).seq
    let old : Word := BitVec.ofNat 64 (leNat (s.rd k 8))
    let l : Load := ⟨q.nextId, none, q.pc, q.sreg sa, 0, .reg sd 8, some old⟩
    let w := s.atomic k op old (q.sreg sb) (q.sreg sc)
    ∃ u, s.amoOp t op = .next u ∧ w.onlySeq u t ∧ { q.entering l with
      pc := q.pc + 8, nextId := q.nextId + 1, nInstr := q.nInstr + 1
      pcCom := (u.tile t).seq.pcCom, spec := (u.tile t).seq.spec } = (u.tile t).seq := by
  intro q old l w
  let bytes := (match op.result old (q.sreg sb) (q.sreg sc) with | some v => leBytes 8 v.toNat | none => []) ++
    (LoadDst.reg sd 8).bytes old
  let v := w.emit t none (.op .seq bytes 0 0)
  obtain ⟨hcount, hv⟩ := w.emit_seq_counts t bytes
  rw [State.tile_atomic] at hv
  obtain ⟨honly, hseq⟩ := v.pushLoad_enters t (q.sreg sa) 0 (.reg sd 8) (some old)
  refine ⟨v.pushLoad t (q.sreg sa) 0 (.reg sd 8) (some old), ?_, hcount.trans honly, ?_⟩
  · refine State.issue_next (a := (sd, sa, sb, sc)) h (if_pos rfl) ?_
    simp only [Seq.tag_of_branches_nil hb, hfault, State.fence_of_idle hst hl, Seq.fenced_of_idle hst hl, hloc, hue,
      Seq.emitTag_none hb hd, v, w, bytes, State.atomic, old, q, State.rdNat]
    cases op.result (BitVec.ofNat 64 (leNat (s.rd k 8))) ((s.tile t).seq.sreg sb) ((s.tile t).seq.sreg sc) <;> rfl
  · have hload : (v.tile t).seq.issuedLoad (q.sreg sa) 0 (.reg sd 8) (some old) = l := by
      rw [hv]
      exact congrArg (fun g => (⟨q.nextId, g, q.pc, q.sreg sa, 0, .reg sd 8, some old⟩ : Load)) (Seq.emitTag_none hb hd)
    rw [← hseq, hload, hv]
    rw [Seq.entering_reg _ rfl, Seq.entering_reg _ rfl, Seq.awaitReg_regPend, Seq.awaitReg_regPend]

/-- What an AMO leaves in its location. -/
theorem AmoOp.result_getD (op : AmoOp) (old b c : Word) :
    (op.result old b c).getD old = match op with
      | .add => old + b
      | .swp => b
      | .cas => if old = c then b else old := by
  cases op with
  | add | swp => rfl
  | cas =>
    rw [AmoOp.result]
    dsimp only
    split <;> rfl

/-- Settles O3: a store is passed with its entry, becomes visible by one write of its bytes, and an AMO is such a write
between a load and its return. -/
theorem storesAndAtomicsWriteTheirBytes : Obligations.StoresAndAtomicsWriteTheirBytes := by
  unfold Obligations.StoresAndAtomicsWriteTheirBytes
  refine ⟨?joins, ?visible, ?amo⟩
  case joins =>
    intro s t w sd sa wait size off h q a hfault hroom
    obtain ⟨v, hexec, honly, hpassed, hseq⟩ := execSt_joins h hfault hroom false
    refine ⟨v, hexec, honly, (congrArg Seq.stores hseq).symm, hpassed, ?_⟩
    rw [← hseq]
  case visible =>
    intro s t w sd sa wait size off k h q a n hfault hloc hue hb hd hst hwait hl
    obtain ⟨y, hexec, hpassed, hseq⟩ := execSt_writes h hfault hloc hue hb hd hst hwait hl
    let data := leBytes n (q.sreg sd).toNat
    have hlen : data.length = n := leBytes_length ..
    refine ⟨_, hexec, fun j hj => ?_, fun b hout => ?_, ?_⟩
    · rw [State.setTile_mem, s.wr_mem, Memory.read_writeBytes, if_pos ⟨Nat.le_add_right .., Nat.add_lt_add_left (hlen.symm ▸ hj) k⟩,
        Nat.add_sub_cancel_left]
      exact leBytes_getD _ hj
    · exact s.read_wr_apart (hlen.symm ▸ hout)
    · rw [State.tile_setTile]
      refine ⟨?_, ?_, ?_, hpassed.1, s.setTile_wr_frame t y k data, fun t' hne => s.tile_setTile_wr_ne y k data hne⟩ <;>
        rw [← hseq]
      exact hst
  case amo =>
    intro r hr s t w sd sa sb sc k h q a hb hd hst hl hfault hloc hue
    have hrow : exec (r.2 t) s = s.amoOp t r.1 := by fin_cases hr <;> rfl
    obtain ⟨u, hexec, honly, hseq⟩ := State.amoOp_runs h hb hd hst hl hfault hloc hue
    rw [Seq.entering_reg _ rfl] at hseq
    obtain ⟨-, -, -, hrd, hmem⟩ := honly.memory
    refine ⟨u, hrow.trans hexec, ?_⟩
    intro old new
    refine ⟨?_, fun b hout => ?_, ?_, fun hsd => ?_, ?_, ?_, ?_, ?_, ?_, fun t' hne => ?_⟩
    · rw [hrd]
      exact (s.atomic_word k r.1 rfl _ _).trans (r.1.result_getD ..)
    · rw [hmem]
      exact s.atomic_apart k r.1 _ _ _ hout
    · rw [← hseq]
    · rw [← hseq]
      exact q.pending_awaitReg hsd q.nextId
    · rw [← hseq]
    · rw [← hseq]
    · rw [← hseq]
    · rw [← hseq]
    · exact honly.frame_memory (s.atomic_frame ..)
    · exact (honly.tile_ne hne).trans (s.tile_atomic ..)

end Sys2Proof.Machine
end

section
/-!
SUPPORT. Precise faults (R242, R258): which accesses have one, what the stop of a sequencer records; and the obligation
they settle.
-/
namespace Sys2Proof.Machine
open Host

/-! ### The stop -/

/-- A sequencer that a fault of the instruction at PC has stopped. -/
def Seq.stopped (q : Seq) (f : ScalarFault) : Seq :=
  { q with run := false, faultPc := q.pc, pcCom := q.pc, stat := q.stat ||| BitVec.ofNat 4 (2 ^ f.bit) }

/-- A cause that ends the job changes the job alone, and is recorded where it is the first (R504). -/
theorem State.endJob_job (s : State) (status : Nat) (detail : Word) :
    let u := s.endJob status detail
    u = { s with job := u.job } ∧
      (s.job.image.isSome = true → s.job.pending = none → u.job.pending = some ⟨status, detail⟩) := by
  intro u
  unfold u State.endJob
  split
  · exact ⟨rfl, fun _ _ => rfl⟩
  · next h => exact ⟨rfl, fun him hp => absurd (by rw [him, hp]; rfl) h⟩

/-- With no branch unresolved a fault of the instruction at PC stops the sequencer at once, and may end the job. -/
theorem State.issueFault_stops {s : State} {t : TileId} (hb : (s.tile t).seq.branches = []) (f : ScalarFault) :
    let u := s.issueFault t f
    u = { s with tiles := u.tiles, job := u.job } ∧
      (s.job.image.isSome = true → s.job.pending = none → u.job.pending = some ⟨2, BitVec.ofNat 64 t.val⟩) ∧
      u.tiles = (s.setTile t { s.tile t with seq := (s.tile t).seq.stopped f }).tiles := by
  let v := s.setTile t { s.tile t with seq := (s.tile t).seq.stopped f }
  have hu : s.issueFault t f = v.endJob 2 (BitVec.ofNat 64 t.val) := by
    simp only [State.issueFault, Seq.tag_of_branches_nil hb, Option.isNone_none, if_true, State.scalarFault, State.faultNow,
      State.modSeq_eq, State.modTile_modTile, State.tileFault, Nat.zero_mul, Nat.add_zero]
    rfl
  obtain ⟨hframe, hpending⟩ := v.endJob_job 2 (BitVec.ofNat 64 t.val)
  intro u
  rw [show u = _ from hu]
  refine ⟨?_, hpending, State.endJob_tiles ..⟩
  rw [hframe]
  rfl

/-! ### The accesses that have a fault -/

/-- Misalignment goes first (the model's choice, log 15); otherwise the address decides. -/
theorem State.accessFault_of_bad {s : State} {t : TileId} {a n : Nat} {writes : Bool}
    (h : a % n ≠ 0 ∨ s.locate (.seq t) a = .nothing ∨ (writes = true ∧ ((∃ o, s.locate (.seq t) a = .cpReg o) ∨
      ∃ k, s.locate (.seq t) a = .mem k ∧ s.inStream k = true))) :
    s.accessFault t a n writes = some (if a % n ≠ 0 then .alignErr else .addrErr) := by
  by_cases hal : a % n = 0
  case neg => simp [State.accessFault, hal]
  case pos =>
    rcases h with h | h | ⟨rfl, ⟨o, h⟩ | ⟨k, h, hro⟩⟩
    · exact absurd hal h
    · simp [State.accessFault, hal, h]
    · simp [State.accessFault, hal, h]
    · simp [State.accessFault, hal, h, State.readOnly, hro]

section
variable {s : State} {t : TileId} {w : Word} {sd sa : BitVec 5} {wait : BitVec 4} {size : BitVec 2} {off : BitVec 32}
  {f : ScalarFault}

/-- An LD or ST that issues with a fault of its access raises it. -/
theorem exec_ld_st_faults {store : Bool} (visible : Bool)
    (h : s.issues t w (if store then .st sd sa wait size off else .ld sd sa wait size off))
    (hf : s.accessFault t ((s.tile t).seq.sreg sa + off.signExtend 64).toNat (2 ^ size.toNat) store = some f) :
    exec (if store then .st t visible else .ld t) s = .next (s.issueFault t f) := by
  cases store with
  | false =>
    change execLd t s = _
    refine State.issue_next (a := (sd, sa, wait, size, off)) h rfl ?_
    simp only [ext32, sizeOf2, hf]
  | true =>
    change execSt t visible s = _
    refine State.issue_next (a := (sd, sa, wait, size, off)) h rfl ?_
    simp only [ext32, sizeOf2, hf]

end

/-! ### Illegal instructions -/

section
variable {s : State} {t : TileId} (hready : (s.tile t).ready = true)
include hready

theorem execIllegalInstr_no_fetch (hfetch : s.fetch t = none) :
    exec (.illegalInstr t) s = .next (s.issueFault t .addrErr) := by
  change execIllegalInstr t s = _
  simp [execIllegalInstr, hready, hfetch]

theorem execIllegalInstr_illegal {w : Word} (hfetch : s.fetch t = some w) (hdec : decodeIns w = none)
    (hguard : (s.tile t).seq.guard (fPg w) (fPn w) = some true) :
    exec (.illegalInstr t) s = .next (s.issueFault t .illInstr) := by
  change execIllegalInstr t s = _
  simp [execIllegalInstr, hready, hfetch, hdec, hguard]

end

/-- Settles O4: each bad access and each bad fetch ends in the one stop of the sequencer. -/
theorem badInstructionsFaultPrecisely : Obligations.BadInstructionsFaultPrecisely := by
  unfold Obligations.BadInstructionsFaultPrecisely
  constructor
  · intro s t w sd sa wait size off store visible h q a hb hbad
    have hf := State.accessFault_of_bad (n := 2 ^ size.toNat) hbad
    obtain ⟨hframe, hpending, htiles⟩ := State.issueFault_stops hb (if a.toNat % 2 ^ size.toNat ≠ 0 then .alignErr else .addrErr)
    refine ⟨_, exec_ld_st_faults visible h hf, hframe, hpending, htiles.trans ?_⟩
    split <;> rfl
  · intro s t q hrun hslot hheld hcop hb hbad
    have hready : (s.tile t).ready = true := by simp [Tile.ready, Seq.ready, q, hrun, hslot, hheld, hcop]
    rcases hbad with ⟨w, hfetch, hdec, hawaits, hval⟩ | hfetch
    · have hguard : q.guard (fPg w) (fPn w) = some true := by simp [Seq.guard, hawaits, hval]
      obtain ⟨hframe, hpending, htiles⟩ := State.issueFault_stops hb .illInstr
      refine ⟨_, execIllegalInstr_illegal hready hfetch hdec hguard, hframe, htiles.trans ?_, hpending⟩
      rw [hfetch]
      rfl
    · obtain ⟨hframe, hpending, htiles⟩ := State.issueFault_stops hb .addrErr
      refine ⟨_, execIllegalInstr_no_fetch hready hfetch, hframe, htiles.trans ?_, hpending⟩
      rw [hfetch]
      rfl

end Sys2Proof.Machine
end

section
/-!
SUPPORT. Control flow (R240, R249, R250, R252), and the obligation it settles.
-/
namespace Sys2Proof.Machine
open Host

/-! ### Targets -/

theorem Seq.target_eq (q : Seq) (off : BitVec 32) : q.target off = q.pc + BitVec.ofInt 64 (8 * off.toInt) := by
  have hoff : ext32 off * 8 = BitVec.ofInt 64 (8 * off.toInt) := by
    rw [BitVec.mul_comm, BitVec.ofInt_mul]
    rfl
  rw [Seq.target, hoff]

/-! ### Issue -/

section
variable {s : State} {t : TileId} {w : Word}

/-- A branch on a READY predicate is passed to where its condition sends it. -/
theorem execBr_ready {pb : BitVec 3} {neg hint : Bool} {off : BitVec 32} (h : s.issues t w (.br pb neg hint off))
    (hready : ((s.tile t).seq.pred pb).awaits = none) :
    let q := (s.tile t).seq
    let pc := if ((q.pred pb).val ^^ neg) = true then q.pc + BitVec.ofInt 64 (8 * off.toInt) else q.pc + 8
    ∃ u, exec (.br t) s = .next u ∧ s.onlySeq u t ∧ q.Retired (u.tile t).seq pc := by
  intro q pc
  refine ⟨_, ?_, s.retire_retires t [] pc⟩
  change execBr t s = _
  refine State.issue_next (a := (pb, neg, hint, off)) h rfl ?_
  simp only [hready, Seq.target_eq]
  rfl

theorem execJal_jumps {sd : BitVec 5} {off : BitVec 32} (h : s.issues t w (.jal sd off)) :
    let q := (s.tile t).seq
    ∃ u, exec (.jal t) s = .next u ∧ s.onlySeq u t ∧
      (q.setReg sd (q.pc + 8)).Retired (u.tile t).seq (q.pc + BitVec.ofInt 64 (8 * off.toInt)) := by
  intro q
  refine ⟨_, ?_, s.modSeq_retire t (fun q => q.setReg sd (q.pc + 8)) (if sd = 0 then [] else leBytes 8 (q.pc + 8).toNat) _⟩
  change execJal t s = _
  refine State.issue_next (a := (sd, off)) h rfl ?_
  simp only [Seq.target_eq]
  rfl

theorem execJr_jumps {sa : BitVec 5} (h : s.issues t w (.jr sa)) :
    let q := (s.tile t).seq
    ∃ u, exec (.jr t) s = .next u ∧ s.onlySeq u t ∧ q.Retired (u.tile t).seq (q.sreg sa) := by
  intro q
  refine ⟨_, ?_, s.retire_retires t [] (q.sreg sa)⟩
  change execJr t s = _
  exact State.issue_next (a := sa) h rfl rfl

/-- END with no tag stops the fetch. -/
theorem execSeqEnd_ends (h : s.issues t w .stop) (hb : (s.tile t).seq.branches = []) (hd : (s.tile t).seq.deliver = []) :
    let q := (s.tile t).seq
    ∃ u, exec (.seqEnd t) s = .next u ∧ s.onlySeq u t ∧ (u.tile t).seq = { q with
      run := false, ended := true, pc := q.pc + 8, pcCom := q.pc + 8, nextId := q.nextId + 1, nInstr := q.nInstr + 1 } := by
  intro q
  let stop (r : Seq) : Seq := { r with run := false, ended := true }
  refine ⟨(s.retireNext t []).modSeq t stop, ?_, (s.retire_retires t [] _).1.trans (State.onlySeq_modSeq ..), ?_⟩
  · change execSeqEnd t s = _
    refine State.issue_next (a := ()) h rfl ?_
    simp only [Seq.tag_of_branches_nil hb]
    rfl
  · rw [State.modSeq_eq, State.tile_modTile, State.retireNext, State.retire_eq, State.tile_setTile]
    simp only [Seq.emitTag_none hb hd, hb, List.isEmpty_nil, if_true, stop, q]

/-- A predicted branch is counted, at once or with its tag, by the sequencer alone. -/
theorem State.emit_pred (s : State) (t : TileId) (tag : Option Nat) :
    let u := s.emit t tag .pred
    s.onlySeq u t ∧
      { (s.tile t).seq with nPred := (u.tile t).seq.nPred, spec := (u.tile t).seq.spec } = (u.tile t).seq := by
  refine ⟨State.onlySeq_emit (s.onlySeq_modSeq t fun q => { q with nPred := q.nPred + 1 }) tag, ?_⟩
  cases tag with
  | none => rw [State.emit, State.commitEv, State.modSeq_eq, State.tile_modTile]
  | some g => rw [State.emit_some, State.tile_modTile]

/-- The branch that BR on the pending predicate `pb` predicts. -/
def State.predicted (s : State) (t : TileId) (load : Nat) (neg hint : Bool) (off : BitVec 32) : Branch :=
  let q := (s.tile t).seq
  ⟨q.nextId, q.emitTag, load, q.pc, neg, hint, if !hint then q.target off else q.pc + 8, q.regs, q.regPend, q.preds,
    q.phase, (s.tile t).lastMat⟩

/-- A branch on a PENDING predicate goes where its hint says and is tied to the load awaited. -/
theorem execBr_predicts {pb : BitVec 3} {neg hint : Bool} {off : BitVec 32} {load : Nat}
    (h : s.issues t w (.br pb neg hint off)) (hpending : ((s.tile t).seq.pred pb).awaits = some load)
    (hroom : (s.tile t).seq.branches.length < 2) :
    let q := (s.tile t).seq
    ∃ u, exec (.br t) s = .next u ∧ s.onlySeq u t ∧
      let r := (u.tile t).seq
      r.pc = (if hint then q.target off else q.pc + 8) ∧ r.regs = q.regs ∧ r.preds = q.preds ∧
        r.branches = q.branches ++ [s.predicted t load neg hint off] := by
  intro q
  let pc := if hint then q.target off else q.pc + 8
  let b := s.predicted t load neg hint off
  let v := s.emit t q.emitTag .pred
  let f (r : Seq) : Seq := { r with branches := q.branches ++ [b], pcCom := q.pcUpTo b }
  obtain ⟨hcount, hv⟩ := s.emit_pred t q.emitTag
  obtain ⟨honly, hret⟩ := v.retire_retires t [] pc
  refine ⟨(v.retire t [] pc).modSeq t f, ?_, (hcount.trans honly).trans (State.onlySeq_modSeq ..), ?_⟩
  · change execBr t s = _
    refine State.issue_next (a := (pb, neg, hint, off)) h rfl ?_
    simp only [hpending, Nat.not_le.2 hroom, if_false]
    rfl
  · rw [State.modSeq_eq, State.tile_modTile]
    refine ⟨hret.1.1, hret.regs.trans ?_, hret.preds.trans ?_, rfl⟩ <;> rw [← hv]

theorem execBr_waits {pb : BitVec 3} {neg hint : Bool} {off : BitVec 32} {load : Nat}
    (h : s.issues t w (.br pb neg hint off)) (hpending : ((s.tile t).seq.pred pb).awaits = some load)
    (hfull : 2 ≤ (s.tile t).seq.branches.length) : exec (.br t) s = .next s := by
  change execBr t s = _
  refine State.issue_waits (a := (pb, neg, hint, off)) h rfl ?_
  simp only [hpending, hfull, if_true]

end

/-- Settles O5: a resolved branch, a jump and END are passed to where they go; a predicted branch goes where its hint says. -/
theorem branchesFollowConditionAndHint : Obligations.BranchesFollowConditionAndHint := by
  unfold Obligations.BranchesFollowConditionAndHint
  constructor
  · intro s t w q
    refine ⟨fun pb neg hint off h hready => ?br, fun sd off h => ?jal, fun sa h => ?jr, fun h hb hd => ?stop⟩
    case br =>
      obtain ⟨u, hexec, honly, hret⟩ := execBr_ready h hready
      exact ⟨u, hexec, honly, hret.regs, hret.preds, hret.1, hret.likeBut⟩
    case jal =>
      obtain ⟨u, hexec, honly, hret⟩ := execJal_jumps h
      have hreg (x : BitVec 5) := (Seq.sreg_eq_of_regs hret.regs x).trans (q.sreg_setReg sd x (q.pc + 8))
      rw [Seq.setReg_frame] at hret
      exact ⟨u, hexec, honly, hreg, hret.preds, hret.1, hret.likeBut⟩
    case jr =>
      obtain ⟨u, hexec, honly, hret⟩ := execJr_jumps h
      exact ⟨u, hexec, honly, hret.regs, hret.preds, hret.1, hret.likeBut⟩
    case stop =>
      obtain ⟨u, hexec, honly, hseq⟩ := execSeqEnd_ends h hb hd
      exact ⟨u, hexec, honly, congrArg Seq.run hseq, hseq⟩
  · intro s t w pb neg hint off load q h hpending
    refine ⟨fun hroom => ?predicted, fun hfull => execBr_waits h hpending hfull⟩
    case predicted =>
      obtain ⟨u, hexec, honly, hpc, hregs, hpreds, hbranches⟩ := execBr_predicts h hpending hroom
      have htag : (u.tile t).seq.tag = some q.nextId := by
        rw [Seq.tag, hbranches, List.getLast?_concat]
        rfl
      refine ⟨u, hexec, honly, ?_, hregs, hpreds, _, hbranches, rfl, rfl, rfl, rfl, htag, rfl, rfl, rfl, ?_⟩
      · rw [hpc, Seq.target_eq]
      · cases hint
        · exact q.target_eq off
        · rfl

end Sys2Proof.Machine
end

section
/-!
SUPPORT. Resolution of a branch by the return of its load (R250, R257), and the delivery of a tag's commit or squash
(R251, R252); and the obligation they settle.
-/
namespace Sys2Proof.Machine
open Host

/-! ### Resolution -/

section
variable {s : State} {t : TileId} {b : Branch} (hb : (s.tile t).seq.branches = [b])
include hb

/-- The one branch, resolved as predicted, leaves; its tag's commit is on its way. -/
theorem State.resolveBranch_right :
    s.resolveBranch t b true = s.modSeq t fun q => { q with branches := [], deliver := q.deliver ++ [(b.tag, true)] } := by
  simp [State.resolveBranch, hb]

/-- Against its prediction the sequencer returns to what the branch found; its tag's squash is on its way. -/
theorem State.resolveBranch_wrong (hown : b.own = none) :
    s.resolveBranch t b false = (s.modTile t fun x => x.restore b [b.tag]).modSeq t fun q => { q with
      branches := [], pcCom := b.other, deliver := q.deliver ++ [(b.tag, false)], nSquash := q.nSquash + 1 } := by
  simp [State.resolveBranch, hb, hown, State.emit, State.commitEv]

/-- The return of the load that the one branch is tied to resolves it. -/
theorem State.resolveLoad_single {id : Nat} (hid : b.loadId = id) (hown : b.own = none) (c : Bool) :
    State.resolveLoad t id c 2 s = s.resolveBranch t b ((c != b.neg) == b.taken) := by
  have hnone (right : Bool) : ((s.resolveBranch t b right).tile t).seq.branches = [] := by
    cases right with
    | true => simp [State.resolveBranch_right hb]
    | false => simp [State.resolveBranch_wrong hb hown]
  have hfind : (s.tile t).seq.branches.find? (fun b => b.loadId == id) = some b := by simp [hb, hid]
  rw [State.resolveLoad, hfind]
  exact State.resolveLoad_of_branches_nil (hnone _) id c 1

end

/-- A branch with what a returning predicate load makes of its saved predicates. -/
def Branch.returned (b : Branch) (id : Nat) (pd : BitVec 3) (c : Bool) : Branch :=
  { b with preds := returnPred id pd c b.preds }

theorem Seq.returned_pred (q : Seq) {l : Load} {pd : BitVec 3} {c : PldCond} (h : l.dst = .pred pd c) (k : Nat) (v : Word) :
    q.returned k l v = { q with
      preds := returnPred l.id pd (c.holds v) q.preds
      branches := q.branches.map fun b => b.returned l.id pd (c.holds v), loads := q.loads.eraseIdx k } := by
  simp only [Seq.returned, Seq.returnValue, h]
  rfl

/-- The return of the one load, to which the one branch is tied, resolves that branch. -/
theorem execLoadReturn_resolves {s : State} {t : TileId} {l : Load} {v : Word} {pd : BitVec 3} {c : PldCond} {b : Branch}
    (hl : (s.tile t).seq.loads = [l]) (hv : l.value = some v) (hdst : l.dst = .pred pd c)
    (hb : (s.tile t).seq.branches = [b]) (hid : b.loadId = l.id) (hown : b.own = none) :
    let u := s.modSeq t fun q => q.returned 0 l v
    exec (.loadReturn t 0) s =
      .next (u.resolveBranch t (b.returned l.id pd (c.holds v)) ((c.holds v != b.neg) == b.taken)) := by
  intro u
  have hperf : ∀ m ∈ (s.tile t).seq.loads, m.value.isSome = true := by simp [hl, hv]
  have hu : (u.tile t).seq.branches = [b.returned l.id pd (c.holds v)] := by
    simp [u, Seq.returned_pred _ hdst, hb]
  rw [execLoadReturn_returns hperf (by rw [hl]; rfl) hv, hdst]
  exact congrArg _ (State.resolveLoad_single hu hid hown (c.holds v))

/-! ### Commit -/

/-- Committed instructions of the sequencer are counted one by one, by the sequencer alone. -/
theorem State.foldl_commitEv_seq (t : TileId) {evs : List CommitEv} (h : ∀ e ∈ evs, ∃ b, e = .op .seq b 0 0) (s : State) :
    let u := evs.foldl (fun s e => s.commitEv t e) s
    s.onlySeq u t ∧
      (u.tile t).seq = { (s.tile t).seq with nInstr := (s.tile t).seq.nInstr + BitVec.ofNat 64 evs.length } := by
  induction evs generalizing s with
  | nil => exact ⟨s.onlySeq_refl t, by simp⟩
  | cons e evs ih =>
    obtain ⟨b, rfl⟩ := h e List.mem_cons_self
    obtain ⟨honly, hseq⟩ := s.emit_seq_counts t b
    obtain ⟨honly', hseq'⟩ := ih (fun e he => h e (List.mem_cons_of_mem _ he)) (s.emit t none (.op .seq b 0 0))
    refine ⟨honly.trans honly', hseq'.trans ?_⟩
    have hcount (n : Word) : n + 1 + BitVec.ofNat 64 evs.length = n + BitVec.ofNat 64 (evs.length + 1) := by
      rw [BitVec.add_assoc, BitVec.add_comm 1, BitVec.ofNat_add]
      rfl
    rw [hseq, List.length_cons, ← hcount]

/-- The delivery of a commit under which only instructions of the sequencer wait counts them. -/
theorem execTagCommit_counts {s : State} {t : TileId} {g : Nat} {rest : List (Nat × Bool)}
    (hd : (s.tile t).seq.deliver = (g, true) :: rest) (hheld : (s.tile t).seq.held = [])
    (hrime : (s.tile t).rime.queue = []) (hspec : ∀ r ∈ (s.tile t).seq.spec, ∃ b, r = ⟨g, .op .seq b 0 0⟩) :
    let q := (s.tile t).seq
    let c := (s.tile t).clearTag g
    ∃ r dg, exec (.tagCommit t) s = .next (s.setTile t (c.withSeq r dg).settle) ∧ r = { c.seq with
      deliver := rest, pcCom := c.seq.committedPc, nInstr := q.nInstr + BitVec.ofNat 64 q.spec.length } := by
  intro q c
  let y : Tile := { c with seq := { c.seq with deliver := rest, pcCom := c.seq.committedPc } }
  let evs := (q.spec.filter fun r => r.tag == g).map (·.ev)
  have hall : q.spec.filter (fun r => r.tag == g) = q.spec := List.filter_eq_self.2 fun r hr => by
    obtain ⟨b, rfl⟩ := hspec r hr
    simp
  have hevs : ∀ e ∈ evs, ∃ b, e = .op .seq b 0 0 := fun e he => by
    obtain ⟨r, hr, rfl⟩ := List.mem_map.1 he
    obtain ⟨b, rfl⟩ := hspec r (List.mem_of_mem_filter hr)
    exact ⟨b, rfl⟩
  have hlen : evs.length = q.spec.length := by simp only [evs, hall, List.length_map]
  obtain ⟨honly, hseq⟩ := State.foldl_commitEv_seq t hevs (s.setTile t y)
  obtain ⟨r, dg, heq, -⟩ := State.onlySeq_iff.1 honly
  rw [heq, State.tile_setTile, State.tile_setTile, hlen] at hseq
  rw [State.tile_setTile, State.setTile_setTile] at heq
  refine ⟨r, dg, ?_, hseq⟩
  have hrest : execTagCommit t s =
      .next (((evs.foldl (fun s e => s.commitEv t e) (s.setTile t y)).modTile t Tile.settle).rimeGo t) := by
    simp only [execTagCommit, hd, hheld, List.filter_nil]
    rfl
  refine hrest.trans (congrArg _ ?_)
  rw [heq, State.modTile, State.tile_setTile, State.setTile_setTile, State.rimeGo_of_queue_nil]
  · rfl
  · rw [State.tile_setTile]
    exact hrime

/-! ### Squash -/

/-- The delivery of a squash undoes and discards what carries its tag. -/
theorem execTagSquash_undoes {s : State} {t : TileId} {g : Nat} {rest : List (Nat × Bool)}
    (hd : (s.tile t).seq.deliver = (g, false) :: rest) (hrime : (s.tile t).rime.queue = [])
    (hundo : ∀ k : Fin 4, (s.tile t).rime.slots[k].undo = []) :
    let c := (s.tile t).squashTag g
    exec (.tagSquash t) s = .next (s.setTile t { c with seq := { c.seq with deliver := rest } }) := by
  intro c
  have hfree (k : Fin 4) : s.freeSamples t g k = s := by
    simp [State.freeSamples, hundo k, -Fin.getElem_fin]
  change execTagSquash t s = _
  simp only [execTagSquash, hd, List.foldl_cons, List.foldl_nil, hfree]
  refine congrArg _ (State.rimeGo_of_queue_nil ?_)
  rw [State.tile_modTile]
  exact hrime

theorem bne_eq_decide_ne {α : Type} [BEq α] [LawfulBEq α] [DecidableEq α] (a b : α) :
    (a != b) = decide (a ≠ b) := by
  by_cases h : a = b <;> simp [h]

theorem Vec.squash_of_undo {v : Vec} {g : Nat} {e : VecUndo} (h : v.undo.find? (fun e => e.tag == g) = some e) :
    (v.squash g).regs = e.regs ∧ (v.squash g).masks = e.masks := by
  rw [Vec.squash, h]
  exact ⟨rfl, rfl⟩

theorem Vec.squash_of_no_undo {v : Vec} {g : Nat} (h : v.undo.find? (fun e => e.tag == g) = none) :
    (v.squash g).regs = v.regs ∧ (v.squash g).masks = v.masks := by
  rw [Vec.squash, h]
  exact ⟨rfl, rfl⟩

theorem Tile.squashTag_acc (x : Tile) (g i : Nat) :
    (x.squashTag g).acc[i]? = (x.acc[i]?).map fun r => r.squash g := by
  refine (List.getElem?_map ..).trans (congrArg (Option.map · x.acc[i]?) (funext fun r => ?_))
  split
  · next h => simp [AccRow.squash, List.isEmpty_iff.1 h]
  · rfl

/-- Settles O6: a return resolves the one branch, and a delivered tag is cleared or undone in the tile alone. -/
theorem resolutionCommitsOrUndoes : Obligations.ResolutionCommitsOrUndoes := by
  unfold Obligations.ResolutionCommitsOrUndoes
  constructor
  · intro s t l v pd c b q hl hv hdst hb hid hown
    refine ⟨_, execLoadReturn_resolves hl hv hdst hb hid hown, ?_⟩
    let w := s.modSeq t fun q => q.returned 0 l v
    let b' := b.returned l.id pd (c.holds v)
    have hw : (w.tile t).seq = { q with
        preds := returnPred l.id pd (c.holds v) q.preds, branches := [b'], loads := q.loads.eraseIdx 0 } := by
      simp only [w, State.modSeq_eq, State.tile_modTile, Seq.returned_pred _ hdst, hb, List.map_singleton, q, b']
    have hbr : (w.tile t).seq.branches = [b'] := by rw [hw]
    by_cases hright : (c.holds v ^^ b.neg) = b.taken
    case pos =>
      have hu : w.resolveBranch t b' ((c.holds v != b.neg) == b.taken) = _ :=
        (congrArg (w.resolveBranch t b') (beq_iff_eq.2 hright)).trans (State.resolveBranch_right hbr)
      rw [hu, State.modSeq_eq, State.tile_modTile, hw]
      exact ⟨rfl, fun _ => ⟨rfl, rfl, rfl, rfl⟩, fun hwrong => absurd hright hwrong⟩
    case neg =>
      have hu : w.resolveBranch t b' ((c.holds v != b.neg) == b.taken) = _ :=
        (congrArg (w.resolveBranch t b') (beq_false_of_ne hright)).trans (State.resolveBranch_wrong hbr hown)
      rw [hu, State.modSeq_eq, State.tile_modTile, State.tile_modTile, Tile.restore, hw]
      refine ⟨rfl, fun h => absurd h hright, fun _ => ⟨rfl, rfl, rfl, rfl, rfl, fun x => ?_⟩⟩
      exact if_congr Iff.rfl rfl (getElem_returnPred ..)
  · intro s t g rest q x
    refine ⟨fun hd hheld hrime hspec => ?commit, fun hd hrime hundo => ?squash⟩
    case commit =>
      obtain ⟨r, dg, hexec, hr⟩ := execTagCommit_counts hd hheld hrime hspec
      have hgone (f : Option Nat) : clearOpt g f ≠ some g := by
        unfold clearOpt
        split
        · nofun
        · assumption
      have hspecs : q.spec.filter (fun r => r.tag != g) = [] := List.filter_eq_nil_iff.2 fun e he => by
        obtain ⟨b, rfl⟩ := hspec e he
        simp
      refine ⟨_, hexec, ?_⟩
      rw [State.tile_setTile]
      have hseq : ((x.clearTag g).withSeq r dg).settle.seq = r := rfl
      rw [hseq, hr]
      refine ⟨rfl, hspecs, rfl, fun e he => ?_, List.length_map .., rfl, rfl, rfl, rfl, rfl,
        fun t' hne => s.tile_setTile_ne _ hne⟩
      obtain ⟨e', -, rfl⟩ := List.mem_map.1 he
      exact hgone e'.tag
    case squash =>
      refine ⟨_, execTagSquash_undoes hd hrime hundo, ?_⟩
      rw [State.tile_setTile]
      refine ⟨rfl, List.filter_congr fun e _ => ?_, List.filter_congr fun e _ => ?_, List.filter_congr fun e _ => ?_,
        rfl, rfl, rfl, fun e he => ?_, fun he => ?_, fun i => ?_, rfl, fun t' hne => s.tile_setTile_ne _ hne⟩
      · exact bne_eq_decide_ne ..
      · exact bne_eq_decide_ne ..
      · exact bne_eq_decide_ne ..
      · exact Vec.squash_of_undo he
      · exact Vec.squash_of_no_undo he
      · exact (x.squashTag_acc g i).trans rfl

end Sys2Proof.Machine
end

section
/-!
SUPPORT. Fences, slot boundaries and PHASE (R132, R247, R262, R263, R335, R338), and the obligation they settle.
-/
namespace Sys2Proof.Machine
open Host

theorem Tile.waitsDone_iff (x : Tile) (mask : BitVec 4) (id : Nat) :
    x.waitsDone mask id = true ↔ ∀ c < 4, mask.getLsbD c = true → x.classBusy c id = false := by
  simp [Tile.waitsDone, onesOf, bitOf, BitVec.getLsbD, imp_iff_not_or]

theorem State.observed_iff (s : State) (n : Int) : s.observed n = true ↔ 64 * n ≤ (s.gtc.count.toNat : Int) :=
  decide_eq_true_iff

/-- A late WAITSLOT is counted, at once or with its tag, by the sequencer alone. -/
theorem State.emit_late (s : State) (t : TileId) (tag : Option Nat) :
    let u := s.emit t tag .late
    s.onlySeq u t ∧ { (s.tile t).seq with nLate := (u.tile t).seq.nLate, spec := (u.tile t).seq.spec } = (u.tile t).seq ∧
      (tag = none → (u.tile t).seq.nLate = (s.tile t).seq.nLate + 1) := by
  refine ⟨State.onlySeq_emit (s.onlySeq_modSeq t fun q => { q with nLate := q.nLate + 1 }) tag, ?_⟩
  cases tag with
  | none =>
    rw [State.emit, State.commitEv, State.modSeq_eq, State.tile_modTile]
    exact ⟨rfl, fun _ => rfl⟩
  | some g =>
    rw [State.emit_some, State.tile_modTile]
    exact ⟨rfl, nofun⟩

/-- What passes an instruction by leaves all else of its sequencer, and of the machine. -/
theorem State.retireNext_onlyPasses (s : State) (t : TileId) :
    let q := (s.tile t).seq
    let u := s.retireNext t []
    s.onlySeq u t ∧ q.passed (u.tile t).seq (q.pc + 8) ∧ q.likeBut (u.tile t).seq ∧ (u.tile t).seq.regs = q.regs ∧
      (u.tile t).seq.preds = q.preds := by
  obtain ⟨honly, hret⟩ := s.retire_retires t [] ((s.tile t).seq.pc + 8)
  exact ⟨honly, hret.1, hret.likeBut, hret.regs, hret.preds⟩

section
variable {s : State} {t : TileId} {w : Word}

/-- FENCE.SC that finds nothing of its sequencer waiting is passed. -/
theorem execFenceSc_passes (h : s.issues t w .fenceSc) (hst : (s.tile t).seq.stores = [])
    (hl : ∀ l ∈ (s.tile t).seq.loads, l.value.isSome = true) : exec (.fenceSc t) s = .next (s.retireNext t []) := by
  change execFenceSc t s = _
  refine State.issue_next (a := ()) h rfl ?_
  simp only [State.fence_of_idle hst hl, Seq.fenced_of_idle hst hl, if_true]

section
variable {wait : BitVec 4} (h : s.issues t w (.fenceCo wait))
include h

theorem execFenceCo_passes (hw : (s.tile t).waitsDone wait (s.tile t).seq.nextId = true) :
    exec (.fenceCo t) s = .next (s.retireNext t []) := by
  change execFenceCo t s = _
  refine State.issue_next (a := wait) h rfl ?_
  simp only [hw, if_true]

theorem execFenceCo_waits (hw : ¬ (s.tile t).waitsDone wait (s.tile t).seq.nextId = true) : exec (.fenceCo t) s = .next s := by
  change execFenceCo t s = _
  refine State.issue_waits (a := wait) h rfl ?_
  simp only [hw]
  rfl

end

/-- The slot whose boundary a WAITSLOT awaits (R247). -/
def State.awaitedSlot (s : State) (t : TileId) (sa : BitVec 5) (off : BitVec 32) : Word :=
  BitVec.ofInt 64 s.baseSlot + (s.tile t).seq.sreg sa + off.signExtend 64

section
variable {sa : BitVec 5} {off : BitVec 32} (h : s.issues t w (.waitslot sa off))
include h

theorem execWaitslot_done (hobs : s.observed (s.awaitedSlot t sa off).toInt = true) :
    let q := (s.tile t).seq
    let late := s.observed ((s.awaitedSlot t sa off).toInt + 1)
    ∃ u, exec (.waitslot t) s = .next u ∧ s.onlySeq u t ∧ (u.tile t).seq.pc = q.pc + 8 ∧ (u.tile t).seq.slotWait = q.slotWait ∧
      (q.emitTag = none → (u.tile t).seq.nInstr = q.nInstr + 1 ∧
        (u.tile t).seq.nLate = if late = true then q.nLate + 1 else q.nLate) := by
  intro q late
  let v := if late = true then s.emit t q.emitTag .late else s
  have hexec : exec (.waitslot t) s = .next (v.retireNext t []) := by
    change execWaitslot t s = _
    exact State.issue_next (a := (sa, off)) h rfl (if_pos hobs)
  obtain ⟨honly, hseq, hlate⟩ : s.onlySeq v t ∧
      { q with nLate := (v.tile t).seq.nLate, spec := (v.tile t).seq.spec } = (v.tile t).seq ∧
      (q.emitTag = none → (v.tile t).seq.nLate = if late = true then q.nLate + 1 else q.nLate) := by
    by_cases hl : late = true
    · simp only [v, hl, if_true]
      exact s.emit_late t q.emitTag
    · simp only [v, hl]
      exact ⟨s.onlySeq_refl t, rfl, fun _ => rfl⟩
  obtain ⟨honly', hpassed, hret⟩ := v.retire_retires t [] ((v.tile t).seq.pc + 8)
  obtain ⟨hpc, -, hcount, -⟩ := hpassed
  refine ⟨_, hexec, honly.trans honly', hpc.trans ?_, ?_, fun htag => ⟨?_, ?_⟩⟩
  · rw [← hseq]
  · rw [State.retireNext, ← hret, ← hseq]
  · have hnone : (v.tile t).seq.emitTag = none := by rw [← hseq]; exact htag
    exact (hcount hnone).1.trans (by rw [← hseq])
  · rw [State.retireNext, ← hret]
    exact hlate htag

theorem execWaitslot_waits (hobs : ¬ s.observed (s.awaitedSlot t sa off).toInt = true) :
    exec (.waitslot t) s = .next (s.modSeq t fun q => { q with slotWait := some (s.awaitedSlot t sa off) }) := by
  change execWaitslot t s = _
  exact State.issue_next (a := (sa, off)) h rfl (if_neg hobs)

end

end

/-- The boundary a sequencer awaits, once observed, completes its WAITSLOT. -/
theorem execWaitslotRelease_completes {s : State} {t : TileId} {n : Word} (hrun : (s.tile t).seq.run = true)
    (hslot : (s.tile t).seq.slotWait = some n) (hobs : s.observed n.toInt = true) :
    exec (.waitslotRelease t) s = .next ((s.modSeq t fun q => { q with slotWait := none }).retireNext t []) := by
  change execWaitslotRelease t s = _
  simp only [execWaitslotRelease, hrun, hslot, hobs, if_true]

/-! ### PHASE -/

/-- A sequencer whose PHASE to `id` commits at `gtc` (R335, R338). -/
def Seq.phaseCommitted (q : Seq) (id : BitVec 6) (gtc : Word) : Seq :=
  { q with phGtc := gtc, phRecs := q.phRecs + 1, phaseCom := id, stayFrom := gtc, stayLate := q.nLate }

/-- A sequencer whose PHASE to `id` issues and commits at `gtc`. -/
def Seq.phaseEntered (q : Seq) (id : BitVec 6) (gtc : Word) : Seq := { q with phase := id }.phaseCommitted id gtc

/-- The totals when `prev` is left for `id` after `stay` cycles (R338). -/
def CpRegs.phaseEntered (c : CpRegs) (prev id : Fin 64) (stay : Word) : CpRegs :=
  { c with
    phTot := c.phTot.set prev (c.phTot[prev] + stay)
    phMax := c.phMax.set prev (if c.phMax[prev] < stay then stay else c.phMax[prev])
    phCnt := c.phCnt.set id (c.phCnt[id] + 1) }

/-- The longest stay is at least what it was and at least the stay counted. -/
theorem CpRegs.phMax_phaseEntered (c : CpRegs) (prev id : Fin 64) (stay : Word) :
    c.phMax[prev].toNat ≤ (c.phaseEntered prev id stay).phMax[prev].toNat ∧
      stay.toNat ≤ (c.phaseEntered prev id stay).phMax[prev].toNat := by
  have hmax : (c.phaseEntered prev id stay).phMax[prev] = if c.phMax[prev] < stay then stay else c.phMax[prev] :=
    Vector.getElem_set_self ..
  rw [hmax]
  split
  · next hlt => exact ⟨(BitVec.lt_def.1 hlt).le, le_refl _⟩
  · next hge => exact ⟨le_refl _, not_lt.1 fun hlt => hge (BitVec.lt_def.2 hlt)⟩

/-- A PHASE that commits while no record buffer is set writes no memory. -/
theorem State.phaseRecord_unbuffered {s : State} {t : TileId} (h : (s.tile t).seq.phLen = 0) (id : BitVec 6) (gtc : Word)
    (step : BitVec 32) (pc : Word) :
    s.phaseRecord t id gtc step pc =
      { s.modSeq t fun q => q.phaseCommitted id gtc with
        cp := s.cp.phaseEntered (s.tile t).seq.phaseCom.toFin id.toFin (gtc - (s.tile t).seq.stayFrom) } := by
  simp only [State.phaseRecord, h]
  rfl

/-- The state after a PHASE that commits at its issue, before its retirement. -/
def State.phaseEntered (s : State) (t : TileId) (id : BitVec 6) : State :=
  { s.modSeq t fun q => q.phaseEntered id s.gtc.count with
    cp := s.cp.phaseEntered (s.tile t).seq.phaseCom.toFin id.toFin (s.gtc.count - (s.tile t).seq.stayFrom) }

theorem State.seq_phaseEntered (s : State) (t : TileId) (id : BitVec 6) :
    ((s.phaseEntered t id).tile t).seq = (s.tile t).seq.phaseEntered id s.gtc.count := by
  change ((s.modSeq t fun q => q.phaseEntered id s.gtc.count).tile t).seq = _
  rw [State.modSeq_eq, State.tile_modTile]

/-- A PHASE with no record buffer touches its sequencer and the totals alone. -/
theorem State.phaseEntered_frame (s : State) (t : TileId) (id : BitVec 6) :
    s.phaseEntered t id = { s with tiles := (s.phaseEntered t id).tiles, cp := (s.phaseEntered t id).cp } ∧
      ∀ t' ≠ t, (s.phaseEntered t id).tile t' = s.tile t' :=
  ⟨rfl, fun t' hne => by
    change (s.modSeq t fun q => q.phaseEntered id s.gtc.count).tile t' = _
    rw [State.modSeq_eq, State.tile_modTile_ne s _ hne]⟩

theorem execPhase_commits {s : State} {t : TileId} {w : Word} {id : BitVec 6} (h : s.issues t w (.phase id))
    (hused : s.phaseKind id.toNat ≠ some 0xFF) (htag : (s.tile t).seq.emitTag = none) (hlen : (s.tile t).seq.phLen = 0) :
    ∃ u, exec (.phase t) s = .next u ∧ (s.phaseEntered t id).onlySeq u t ∧
      ((s.tile t).seq.phaseEntered id s.gtc.count).Retired (u.tile t).seq ((s.tile t).seq.pc + 8) := by
  have hseq := s.seq_phaseEntered t id
  obtain ⟨honly, hret⟩ := (s.phaseEntered t id).retire_retires t (leBytes 1 id.toNat) ((s.tile t).seq.pc + 8)
  have hnext : (s.phaseEntered t id).retireNext t (leBytes 1 id.toNat) =
      (s.phaseEntered t id).retire t (leBytes 1 id.toNat) ((s.tile t).seq.pc + 8) := by
    rw [State.retireNext, hseq]
    rfl
  refine ⟨_, ?_, honly, hseq ▸ hret⟩
  rw [← hnext]
  change execPhase t s = _
  have huse : s.phaseUsed id = true := by simpa [State.phaseUsed] using hused
  refine State.issue_next (a := id) h (if_pos huse) ?_
  let v := s.modSeq t fun q => { q with phase := id }
  have hv : (v.tile t).seq = { (s.tile t).seq with phase := id } := by simp [v]
  have hrec : v.phaseRecord t id s.gtc.count s.step32 (v.tile t).seq.pc = s.phaseEntered t id := by
    rw [State.phaseRecord_unbuffered (by rw [hv]; exact hlen), hv]
    simp only [v, State.phaseEntered, State.modSeq_eq, State.modTile_modTile]
    rfl
  simp only [htag]
  exact congrArg (fun u : State => some (u.retireNext t (leBytes 1 id.toNat))) hrec

/-! ### The obligation -/

/-- Settles O7: each instruction's issue is the retirement of a state that differs from the one before in the sequencer alone,
and for PHASE in the totals too. -/
theorem synchronisingInstructionsComplete : Obligations.SynchronisingInstructionsComplete := by
  unfold Obligations.SynchronisingInstructionsComplete
  refine ⟨fun s t w => ⟨?_, fun wait h => ⟨?_, ?_⟩, fun sa off h => ?_, fun n hrun hslot hobs => ?_⟩,
    fun s t w id h hused hb hd hlen => ?_⟩
  · intro h hst hl
    exact ⟨_, execFenceSc_passes h hst hl, s.retireNext_onlyPasses t⟩
  · intro hw
    exact ⟨_, execFenceCo_passes h ((Tile.waitsDone_iff ..).2 hw), s.retireNext_onlyPasses t⟩
  · rintro ⟨c, hc, hbit, hbusy⟩
    refine execFenceCo_waits h fun hw => ?_
    simp [(Tile.waitsDone_iff ..).1 hw c hc hbit] at hbusy
  · intro n now
    by_cases hobs : s.observed n.toInt = true
    · obtain ⟨u, hu, honly, hpc, hslot, hcount⟩ := execWaitslot_done h hobs
      have hle := (s.observed_iff _).1 hobs
      refine ⟨u, hu, honly, fun _ => ⟨hpc, hslot.trans h.2.1, fun htag => ?_⟩, fun hlt => absurd hle (not_le.2 hlt)⟩
      obtain ⟨hn, hlate⟩ := hcount htag
      exact ⟨hn, hlate.trans (if_congr (s.observed_iff _) rfl rfl)⟩
    · refine ⟨_, execWaitslot_waits h hobs, s.onlySeq_modSeq t _, fun hle => absurd ((s.observed_iff _).2 hle) hobs, fun _ => ?_⟩
      rw [State.modSeq_eq, State.tile_modTile]
      rfl
  · obtain ⟨honly, hpassed, hret⟩ := s.modSeq_retireNext t (fun q => { q with slotWait := none }) [] rfl
    refine ⟨_, execWaitslotRelease_completes hrun hslot ((s.observed_iff _).2 hobs), honly, ?_, hpassed, ?_⟩
    · rw [← hret]
    · rw [← hret]
  · obtain ⟨u, hu, honly, hpassed, hret⟩ := execPhase_commits h hused (Seq.emitTag_none hb hd) hlen
    obtain ⟨hpc, -, hcount, -⟩ := hpassed
    have hcp : u.cp = s.cp.phaseEntered (s.tile t).seq.phaseCom.toFin id.toFin (s.gtc.count - (s.tile t).seq.stayFrom) :=
      congrArg State.cp honly.1
    refine ⟨u, hu, (congrArg Seq.phase hret).symm, (congrArg Seq.phaseCom hret).symm, hpc, (congrArg Seq.phGtc hret).symm,
      (congrArg Seq.phRecs hret).symm, (congrArg Seq.stayFrom hret).symm, (hcount (Seq.emitTag_none hb hd)).1,
      (congrArg Seq.regs hret).symm, (congrArg Seq.preds hret).symm, ?_⟩
    rw [hcp]
    obtain ⟨hold, hnew⟩ := s.cp.phMax_phaseEntered (s.tile t).seq.phaseCom.toFin id.toFin (s.gtc.count - (s.tile t).seq.stayFrom)
    obtain ⟨hframe, htiles⟩ := s.phaseEntered_frame t id
    refine ⟨Vector.getElem_set_self .., Vector.getElem_set_self .., hold, hnew, ?_,
      fun t' hne => (honly.tile_ne hne).trans (htiles t' hne)⟩
    rw [← hcp, honly.1, hframe]
    rfl

end Sys2Proof.Machine
end

section
/-!
SUPPORT. DMA instructions: their descriptor, and how they join the DMA queue (R243, R244, R284).
-/
namespace Sys2Proof.Machine
open Host

/-- The fields of a DMA descriptor as bit fields of its 64 bytes (R284). -/
theorem DmaDesc.ofBytes_eq (b : List Byte) :
    let n := leNat b
    DmaDesc.ofBytes b =
      { kind := fieldAt n 0 8, soft := n.testBit 8, idx64 := n.testBit 9, crec := n.testBit 10, fmt := fieldAt n 16 4
        tag := fieldAt n 20 2, len := fieldAt n 32 32, cnt1 := fieldAt n 64 32, cnt2 := fieldAt n 96 32
        src := fieldAt n 128 64, dst := fieldAt n 192 64, sstr1 := fieldAt n 256 32, sstr2 := fieldAt n 288 32
        dstr1 := fieldAt n 320 32, dstr2 := fieldAt n 352 32, idx := fieldAt n 384 64, start := fieldAt n 448 32
        caddr := fieldAt n 480 32, resv := fieldAt n 11 5 != 0 || fieldAt n 22 2 != 0 || fieldAt n 24 8 != 0 } := by
  intro n
  have hflag (i : Nat) (h : i < 8) : (fieldAt n 8 8).testBit i = n.testBit (8 + i) := testBit_fieldAt n 8 h
  have hfmt : fieldAt n 16 8 % 16 = fieldAt n 16 4 := fieldAt_mod n 16 (k := 4) (by omega)
  have htag : fieldAt n 16 8 / 16 % 4 = fieldAt n 20 2 :=
    (congrArg (· % 4) (fieldAt_div n 16 4 4)).trans (fieldAt_mod n 20 (k := 2) (by omega))
  have hresv : fieldAt n 8 8 / 8 = fieldAt n 11 5 := fieldAt_div n 8 3 5
  have hresv' : fieldAt n 16 8 / 64 = fieldAt n 22 2 := fieldAt_div n 16 6 2
  simp [DmaDesc.ofBytes, leAt_eq_fieldAt, n, hflag, ← hfmt, ← htag, ← hresv, ← hresv']

/-- The DMA engine with one more operation in its queue. -/
def Dma.join (x : Dma) (o : DmaOp) : Dma := { x with queue := x.queue ++ [.op o] }

/-- A DMA instruction that has joined the queue as `o` and been retired. -/
theorem State.joinDma_passed (s : State) (t : TileId) (o : DmaOp) :
    let x := s.tile t
    ∃ r g, (s.modTile t fun x => { x with dma := x.dma.join o }).retireNext t [] =
        s.setTile t { x with dma := x.dma.join o, seq := r, digests := g } ∧
      x.seq.passed r (x.seq.pc + 8) ∧ x.seq.likeBut r := by
  obtain ⟨r, g, heq, hpassed, hlike⟩ := (s.modTile t fun x => { x with dma := x.dma.join o }).retireNext_passed t []
  rw [State.tile_modTile] at heq hpassed hlike
  exact ⟨r, g, heq.trans (by rw [State.modTile, State.setTile_setTile]), hpassed, hlike⟩

/-- A DMA instruction that issues, finds room and is not held joins the queue; with `eager` an idle engine then performs it. -/
theorem State.dmaOp_joins {s : State} {t : TileId} {w : Word} {sa : BitVec 5} {wait : BitVec 4} {off : BitVec 32}
    {b : List Byte} {kinds : Nat → Bool} (h : s.issuesCop t w (.dma sa wait off)) (hroom : (s.tile t).dma.waiting < 16)
    (hb : s.descriptor t ((s.tile t).seq.sreg sa + off.signExtend 64) 64 64 = .ok b)
    (hheld : (s.tile t).dmaHeld t (DmaDesc.ofBytes b) = false) (hkind : kinds (DmaDesc.ofBytes b).kind = true) :
    let x := s.tile t
    let o : DmaOp := ⟨⟨x.seq.nextId, x.seq.tag, x.seq.pc, wait⟩, DmaDesc.ofBytes b, x.seq.sreg sa + off.signExtend 64, none⟩
    ∃ r g, (∀ eager, s.dmaOp t eager kinds =
        let u := s.setTile t { x with dma := x.dma.join o, seq := r, digests := g }
        .next (if eager && x.dma.queue.isEmpty then u.dmaStep t none else u)) ∧
      x.seq.passed r (x.seq.pc + 8) ∧ x.seq.likeBut r := by
  intro x o
  obtain ⟨r, g, hjoin, hpassed⟩ := s.joinDma_passed t o
  refine ⟨r, g, fun eager => ?_, hpassed⟩
  refine State.issueCop_of_issuesCop h rfl (decide_eq_false (Nat.not_le.2 hroom)) ?_
  simp only [ext32, hb, hheld, hkind]
  rw [← hjoin]
  rfl

end Sys2Proof.Machine
end

section
/-!
SUPPORT. What a DMA engine meets in its own tile's store (R270, R272, R276, R292): every byte is there, and only the stream
region of the tile refuses a write.
-/
namespace Sys2Proof.Machine
open Host

/-! ### The store of a tile -/

section
variable (s : State) (t : TileId) {a : Nat}

theorem poolBase_add_lt (h : a ≤ storeSize) : 0x1_0000_0000 ≤ poolBase t + a ∧ poolBase t + a < 0x1_2000_0000 := by
  have ht := t.isLt
  unfold poolBase storeSize at *
  omega

theorem isHbm_store (h : a ≤ storeSize) : isHbm (poolBase t + a) = false := by
  have hlt := poolBase_add_lt t h
  exact decide_eq_false (by omega)

theorem State.readUe_store (h : a ≤ storeSize) (n : Nat) : s.readUe (poolBase t + a) n = none := by
  simp [State.readUe, isHbm_store t h]

theorem State.writeUe_store (h : a ≤ storeSize) (n : Nat) : s.writeUe (poolBase t + a) n = none := by
  simp [State.writeUe, isHbm_store t h]

theorem State.wr_store (h : a ≤ storeSize) (bs : List Byte) :
    s.wr (poolBase t + a) bs = { s with mem := Memory.writeBytes 0 s.mem (poolBase t + a) bs } := by
  simp [State.wr, isHbm_store t h]

/-- A byte of a store may not be written exactly when it is in the tile's stream region. -/
theorem State.readOnly_store (h : a < storeSize) :
    s.readOnly (poolBase t + a) = decide ((s.tile t).streamLo ≤ a ∧ a < (s.tile t).streamLo + (s.tile t).streamLen) := by
  have hrange := poolBase_add_lt t h.le
  have hoff : (poolBase t + a - 0x1_0000_0000) / 0x80_0000 = t.val ∧ (poolBase t + a - 0x1_0000_0000) % 0x80_0000 = a := by
    unfold poolBase storeSize at *
    omega
  obtain ⟨htile, hrest⟩ := hoff
  simp only [State.readOnly, isHbm_store t h.le, Bool.false_and, Bool.or_false, State.inStream, dif_pos hrange, htile, hrest]

theorem State.dmaLoc_store (h : a < storeSize) (writes : Bool) : s.dmaLoc t writes a = some (.mem (poolBase t + a)) := by
  simp [State.dmaLoc, State.locate, h]

theorem State.dmaLoc_store_range {n i : Nat} (h : a + n ≤ storeSize) (hi : i < n) (writes : Bool) :
    s.dmaLoc t writes ((a + i) % 2 ^ 64) = some (.mem (poolBase t + (a + i))) := by
  have hlt : a + i < storeSize := by omega
  have hword : (a + i) % 2 ^ 64 = a + i := Nat.mod_eq_of_lt (hlt.trans (by decide))
  rw [hword, s.dmaLoc_store t hlt]

theorem State.dmaHole_store {n : Nat} (h : a + n ≤ storeSize) (writes : Bool) : s.dmaHole t writes (a, n) = none := by
  rw [State.dmaHole, List.find?_map, Option.map_eq_none_iff, List.find?_eq_none]
  intro i hi
  rw [Function.comp_apply, s.dmaLoc_store_range t h (List.mem_range.1 hi)]
  exact Bool.false_ne_true

theorem State.hostRefused_store {n : Nat} (h : a + n ≤ storeSize) (writes : Bool) : s.hostRefused t writes (a, n) = none := by
  rw [State.hostRefused, List.find?_map, Option.map_eq_none_iff, List.find?_eq_none]
  intro i hi
  rw [Function.comp_apply, s.dmaLoc_store_range t h (List.mem_range.1 hi)]
  exact Bool.false_ne_true

theorem State.dmaRead_store (h : a < storeSize) (n : Nat) : s.dmaRead t (a, n) = s.rd (poolBase t + a) n := by
  simp [State.dmaRead, s.dmaLoc_store t h]

theorem State.dmaPuts_store (h : a < storeSize) (bs : List Byte) : s.dmaPuts t a bs = [.mem (poolBase t + a) bs] := by
  simp [State.dmaPuts, s.dmaLoc_store t h]

theorem dmaOverlap_apart {n b m : Nat} (ha : a < storeSize) (hb : b < storeSize) (h : a + n ≤ b ∨ b + m ≤ a) :
    dmaOverlap t (a, n) (b, m) = none := by
  simp only [dmaOverlap, dmaPhys, ha, hb, if_true]
  refine if_neg ?_
  split <;> omega

end

/-! ### The faults of a unit -/

/-- A range of a store with at least one byte. -/
def storeRange (r : Nat × Nat) : Prop := 0 < r.2 ∧ r.1 + r.2 ≤ storeSize

theorem storeRange.lt {r : Nat × Nat} (h : storeRange r) : r.1 < storeSize := by
  obtain ⟨hpos, hin⟩ := h
  omega

/-- The first byte of a range of a store that is in a stream region, as the fault of a write there (R292). -/
def State.streamFault (s : State) (t : TileId) (r : Nat × Nat) : Option (Nat × Nat) :=
  ((List.range r.2).find? fun i => s.readOnly (poolBase t + r.1 + i)).map fun i => (5, r.1 + i)

theorem State.streamFault_eq_none {s : State} {t : TileId} {a n : Nat} (h : a + n ≤ storeSize)
    (hapart : a + n ≤ (s.tile t).streamLo ∨ (s.tile t).streamLo + (s.tile t).streamLen ≤ a) : s.streamFault t (a, n) = none := by
  rw [State.streamFault, Option.map_eq_none_iff, List.find?_eq_none]
  intro i hi
  have hi : i < n := List.mem_range.1 hi
  rw [Nat.add_assoc, s.readOnly_store t (by omega), decide_eq_true_iff]
  omega

theorem State.streamFault_first {s : State} {t : TileId} {a n : Nat} (hn : 0 < n) (h : a + n ≤ storeSize)
    (hlo : (s.tile t).streamLo ≤ a) (hhi : a < (s.tile t).streamLo + (s.tile t).streamLen) :
    s.streamFault t (a, n) = some (5, a) := by
  obtain ⟨m, rfl⟩ : ∃ m, n = m + 1 := ⟨n - 1, by omega⟩
  have hfirst : s.readOnly (poolBase t + a) = true := by
    rw [s.readOnly_store t (by omega), decide_eq_true_iff]
    exact ⟨hlo, hhi⟩
  simp [State.streamFault, List.range_succ_eq_map, hfirst]

/-- A unit within the tile's own store meets no fault but a stream region under what it writes. -/
theorem State.dmaFaults_store {s : State} {t : TileId} {d : DmaDesc} {j : Nat} {u : DmaUnit} (hbad : u.bad = [])
    (hsrcs : ∀ r ∈ u.srcs, storeRange r) (hdsts : ∀ r ∈ u.dsts, storeRange r)
    (hpair : ∀ p ∈ u.pair, dmaOverlap t p.1 p.2 = none)
    (htag : d.kind = 4 → ((s.tile t).accRow (d.src + j)).tag.code = d.tag) :
    s.dmaFaults t d none j u = u.dsts.filterMap (s.streamFault t) := by
  have hloc {r : Nat × Nat} (hr : storeRange r) (writes : Bool) : s.dmaLoc t writes r.1 = some (.mem (poolBase t + r.1)) :=
    s.dmaLoc_store t hr.lt writes
  have hnil {l : List (Nat × Nat)} {f : Nat × Nat → Option (Nat × Nat)} (hl : ∀ r ∈ l, storeRange r)
      (hf : ∀ r, storeRange r → f r = none) : l.filterMap f = [] :=
    List.filterMap_eq_nil_iff.2 fun r hr => hf r (hl r hr)
  have hhole (writes : Bool) (c : Nat) (r : Nat × Nat) (hr : storeRange r) :
      ((s.dmaHole t writes r).map fun a => (c, a)) = none := by rw [s.dmaHole_store t hr.2]; rfl
  have hrefused (writes : Bool) (r : Nat × Nat) (hr : storeRange r) :
      ((s.hostRefused t writes r).map fun a => (8, a)) = none := by rw [s.hostRefused_store t hr.2]; rfl
  have hoverlap : u.pair.filterMap (fun p => (dmaOverlap t p.1 p.2).map fun a => (6, a)) = [] :=
    List.filterMap_eq_nil_iff.2 fun p hp => by rw [hpair p hp]; rfl
  have hspill : (d.kind == 4 && ((s.tile t).accRow (d.src + j)).tag.code != d.tag) = false := by simpa using htag
  simp only [State.dmaFaults, hbad, hnil hsrcs (hhole false 1), hnil hdsts (hhole true 2), hoverlap,
    hnil hsrcs (hrefused false), hnil hdsts (hrefused true), hspill, HostErr.at, Option.map_none, List.filterMap_none,
    List.nil_append, List.append_nil, Bool.false_eq_true, if_false]
  refine (congrArg₂ (· ++ ·) (congrArg₂ (· ++ ·) (List.filterMap_congr (g := s.streamFault t) fun r hr => ?_)
    (hnil hsrcs fun r hr => ?_)) (hnil hdsts fun r hr => ?_)).trans (by simp)
  · rw [hloc (hdsts r hr)]
    rfl
  · rw [hloc hr]
    exact congrArg (Option.map fun l => (7, l)) (s.readUe_store t hr.lt.le r.2)
  · rw [hloc hr]
    exact congrArg (Option.map fun l => (7, l)) (s.writeUe_store t hr.lt.le r.2)

end Sys2Proof.Machine
end

section
/-!
SUPPORT. Completion of the one operation of a DMA queue (R282, R288, R291 to R293, R297), and the obligation it settles with the
issue of DMA instructions.
-/
namespace Sys2Proof.Machine
open Host

/-! ### The end of an operation -/

/-- A tile whose DMA operation has ended after `bytes` bytes, with the fault that stopped it. -/
def Tile.dmaEnded (x : Tile) (bytes : Nat) (f : Option DmaFault) : Tile :=
  let y := { x with dma := { x.dma with
    queue := x.dma.queue.drop 1, ops := x.dma.ops + 1, bytes := x.dma.bytes + BitVec.ofNat 64 bytes } }
  match f with
  | none => y
  | some f => (y.dmaRecord f).setStat .dma (dmaStatBit f.cause)

theorem State.emit_dma_setTile (s : State) (t : TileId) (x : Tile) (b : List Byte) :
    ∃ f g, (s.setTile t x).emit t none (.op .dma b 0 0) = s.setTile t { x with fpstat := f, digests := g } := by
  simp only [State.emit, State.commitEv, State.digestOp_eq, State.modTile_modTile]
  rw [State.modTile, State.tile_setTile, State.setTile_setTile]
  exact ⟨_, _, rfl⟩

/-- An operation without a completion record that meets no fault, or with SOFT, ends in its tile alone. -/
theorem State.dmaFinish_eq {s : State} {t : TileId} {o : DmaOp} (hcrec : o.d.crec = false)
    (hrime : (s.tile t).rime.queue = []) (puts : List DmaPut) (units : Nat) (f : Option DmaFault)
    (hsoft : f.isSome = true → o.d.soft = true) :
    ∃ fp g, s.dmaFinish t o puts units f =
      s.setTile t { (s.tile t).dmaEnded (puts.map DmaPut.size).sum f with fpstat := fp, digests := g } := by
  have hro : s.recordRo t o.d = none := by simp [State.recordRo, hcrec]
  let y := (s.tile t).dmaEnded (puts.map DmaPut.size).sum none
  obtain ⟨fp, g, hemit⟩ := s.emit_dma_setTile t y (if s.gtc.lsEn then putsBytes (puts ++ []) else [])
  refine ⟨fp, g, ?_⟩
  cases f with
  | none =>
    have hend : s.dmaFinish t o puts units none = (s.setTile t { y with fpstat := fp, digests := g }).rimeGo t := by
      rw [← hemit]
      simp only [State.dmaFinish, hro, hcrec, Bool.false_and, Bool.false_eq_true, if_false]
      rfl
    rw [hend, State.rimeGo_of_queue_nil (by rw [State.tile_setTile]; exact hrime)]
  | some f =>
    have hend : s.dmaFinish t o puts units (some f) =
        ((s.setTile t { y with fpstat := fp, digests := g }).modTile t fun x =>
          (x.dmaRecord f).setStat .dma (dmaStatBit f.cause)).rimeGo t := by
      rw [← hemit]
      simp only [State.dmaFinish, hro, hcrec, hsoft rfl, Bool.false_and, Bool.false_eq_true, if_false, if_true]
      rfl
    rw [hend, State.rimeGo_of_queue_nil (by rw [State.tile_modTile, State.tile_setTile]; exact hrime)]
    rw [State.modTile, State.tile_setTile, State.setTile_setTile]
    rfl

/-! ### An operation of one unit -/

section
variable {s : State} {t : TileId} {o : DmaOp} (hcheck : o.d.check = none) (hunits : o.d.units = 1) (hstart : o.d.start = 0)
include hcheck hunits hstart

theorem State.dmaPerform_unit_writes {k : Nat} {bs : List Byte}
    (hfaults : s.dmaFaults t o.d none 0 (s.dmaUnit t o.d none 0) = [])
    (hwrites : s.dmaWrites t o.d 0 (s.dmaUnit t o.d none 0) = [.mem k bs]) :
    s.dmaPerform t o none = ⟨s.wr k bs, [.mem k bs], 1, none⟩ := by
  simp [State.dmaPerform, State.dmaRun, hcheck, hunits, hstart, hfaults, hwrites, lowestFault, State.dmaPut]

theorem State.dmaPerform_unit_faults {f : Nat × Nat} (hfaults : s.dmaFaults t o.d none 0 (s.dmaUnit t o.d none 0) = [f]) :
    s.dmaPerform t o none = ⟨s, [], 0, some ⟨0, f.1, f.2⟩⟩ := by
  simp [State.dmaPerform, State.dmaRun, hcheck, hunits, hstart, hfaults, lowestFault]

end

/-- The one operation of the queue whose turn it is performs its units and ends. -/
theorem execDmaComplete_performs {s v : State} {t : TileId} {o : DmaOp} {puts : List DmaPut} {units : Nat}
    {f : Option DmaFault} (h : s.dmaAlone t o) (hspill : (s.tile t).spillMay o = true)
    (hperform : s.dmaPerform t o none = ⟨v, puts, units, f⟩) :
    exec (.dmaComplete t none) s = .next (v.dmaFinish t o puts units f) := by
  obtain ⟨hq, hbuf, htag, hstores, hdeliver, -, hwaits⟩ := h
  have hmay : s.dmaMay t o = true := by
    simp [State.dmaMay, Tile.mayStart_of_deliver_nil hdeliver hwaits, State.storesAllow_of_stores_nil hstores, hspill]
  change execDmaComplete t none s = _
  simp [execDmaComplete, State.dmaStep, State.drainStores_of_stores_nil hstores, hq, hbuf, htag, hmay, hperform]

/-! ### What it leaves -/

section
variable {s : State} {t : TileId} {o : DmaOp} (h : s.dmaAlone t o) (hspill : (s.tile t).spillMay o = true)
  (hcheck : o.d.check = none) (hunits : o.d.units = 1) (hstart : o.d.start = 0) (hcrec : o.d.crec = false)
include h hspill hcheck hunits hstart hcrec

/-- An operation of one unit that writes `bs` into the tile's own store. -/
theorem execDmaComplete_writes {a : Nat} {bs : List Byte} (ha : a ≤ storeSize)
    (hfaults : s.dmaFaults t o.d none 0 (s.dmaUnit t o.d none 0) = [])
    (hwrites : s.dmaWrites t o.d 0 (s.dmaUnit t o.d none 0) = [.mem (poolBase t + a) bs]) :
    ∃ fp g, exec (.dmaComplete t none) s = .next
      ({ s with mem := Memory.writeBytes 0 s.mem (poolBase t + a) bs }.setTile t
        { (s.tile t).dmaEnded bs.length none with fpstat := fp, digests := g }) := by
  have htile := s.tile_wr (poolBase t + a) bs t
  obtain ⟨-, -, -, -, -, hrime, -⟩ := id h
  obtain ⟨fp, g, hend⟩ := State.dmaFinish_eq (s := s.wr (poolBase t + a) bs) (t := t) hcrec (htile.symm ▸ hrime)
    [.mem (poolBase t + a) bs] 1 none nofun
  refine ⟨fp, g, ?_⟩
  rw [execDmaComplete_performs h hspill (State.dmaPerform_unit_writes hcheck hunits hstart hfaults hwrites), hend, htile,
    s.wr_store t ha]
  simp [DmaPut.size]

/-- An operation of one unit with SOFT whose unit faults. -/
theorem execDmaComplete_soft {f : Nat × Nat} (hsoft : o.d.soft = true)
    (hfaults : s.dmaFaults t o.d none 0 (s.dmaUnit t o.d none 0) = [f]) :
    ∃ fp g, exec (.dmaComplete t none) s = .next
      (s.setTile t { (s.tile t).dmaEnded 0 (some ⟨0, f.1, f.2⟩) with fpstat := fp, digests := g }) := by
  obtain ⟨-, -, -, -, -, hrime, -⟩ := id h
  obtain ⟨fp, g, hend⟩ := State.dmaFinish_eq hcrec hrime [] 0 (some ⟨0, f.1, f.2⟩) fun _ => hsoft
  exact ⟨fp, g, by
    rw [execDmaComplete_performs h hspill (State.dmaPerform_unit_faults hcheck hunits hstart hfaults), hend]; rfl⟩

end

/-! ### A COPY of one unit within the tile's store -/

/-- A COPY of one unit within one tile's store. -/
structure DmaDesc.StoreCopy (d : DmaDesc) : Prop where
  kind : d.kind = 0
  cnt1 : d.cnt1 = 1
  cnt2 : d.cnt2 = 1
  pos  : 1 ≤ d.len
  src  : d.src + d.len ≤ storeSize
  dst  : d.dst + d.len ≤ storeSize

section
variable {s : State} {t : TileId} {d : DmaDesc} (h : d.StoreCopy)
include h

theorem DmaDesc.StoreCopy.units : d.units = 1 := by
  simp [DmaDesc.units, h.kind, h.cnt1, h.cnt2]

theorem DmaDesc.StoreCopy.check (hresv : d.resv = false) (hcrec : d.crec = false) (hstart : d.start = 0) (hfmt : d.fmt = 0)
    (htag : d.tag = 0) (hlen : d.len ≤ 2 ^ 24) : d.check = none := by
  have hranges : d.rangesOk = true := by simpa [DmaDesc.rangesOk, h.kind, h.cnt1, h.cnt2, h.pos] using hlen
  simp [DmaDesc.check, hresv, hcrec, hstart, hfmt, htag, hranges, h.kind]

theorem DmaDesc.StoreCopy.dmaUnit : s.dmaUnit t d none 0 =
    ⟨[(d.src, d.len)], [(d.dst, d.len)], [((d.src, d.len), (d.dst, d.len))], []⟩ := by
  obtain ⟨hkind, hcnt1, hcnt2, hpos, hsrc, hdst⟩ := h
  have hsrc' : d.src % 2 ^ 64 = d.src := Nat.mod_eq_of_lt (by unfold storeSize at hsrc; omega)
  have hdst' : d.dst % 2 ^ 64 = d.dst := Nat.mod_eq_of_lt (by unfold storeSize at hdst; omega)
  simp [State.dmaUnit, DmaDesc.units, DmaDesc.copyDst, hkind, hcnt1, hcnt2, hsrc', hdst', -Nat.reducePow]

/-- It meets no fault but a stream region under its destination. -/
theorem DmaDesc.StoreCopy.dmaFaults (hapart : d.src + d.len ≤ d.dst ∨ d.dst + d.len ≤ d.src) :
    s.dmaFaults t d none 0 (s.dmaUnit t d none 0) = (s.streamFault t (d.dst, d.len)).toList := by
  have hkind := h.kind
  have hsrc : storeRange (d.src, d.len) := ⟨h.pos, h.src⟩
  have hdst : storeRange (d.dst, d.len) := ⟨h.pos, h.dst⟩
  rw [h.dmaUnit, State.dmaFaults_store rfl (by simpa using hsrc) (by simpa using hdst)
    (by simpa using dmaOverlap_apart t hsrc.lt hdst.lt hapart) (by omega)]
  cases hf : s.streamFault t (d.dst, d.len) <;> simp [hf]

theorem DmaDesc.StoreCopy.dmaWrites : s.dmaWrites t d 0 (s.dmaUnit t d none 0) =
    [.mem (poolBase t + d.dst) (s.rd (poolBase t + d.src) d.len)] := by
  obtain ⟨hkind, hcnt1, hcnt2, hpos, hsrc, hdst⟩ := id h
  rw [h.dmaUnit]
  simp only [State.dmaWrites, hkind]
  rw [s.dmaRead_store t (by omega), s.dmaPuts_store t (by omega)]

end

/-! ### An ACCOUT of one row -/

/-- An ACCOUT of one row into the tile's store. -/
structure DmaDesc.StoreSpill (d : DmaDesc) : Prop where
  kind : d.kind = 4
  cnt1 : d.cnt1 = 1
  dst  : d.dst + 1536 ≤ storeSize

/-- The bytes that an accumulator row is spilled as (R288). -/
def AccRow.spill (r : AccRow) : List Byte := r.ents.flatMap fun e => leBytes 6 e.toNat

theorem AccRow.length_spill (r : AccRow) : r.spill.length = 6 * r.ents.length := by
  rw [AccRow.spill, length_flatMap_leBytes]

/-- Each entry is spelled by six bytes. -/
theorem AccRow.leAt_spill (r : AccRow) {j : Nat} (h : j < r.ents.length) :
    leAt r.spill (6 * j) 6 = (r.ents.getD j 0).toNat := by
  rw [leAt, AccRow.spill, take_drop_flatMap (fun e => leBytes_length 6 _) h, leNat_leBytes_of_lt (r.ents[j].isLt),
    List.getD_eq_getElem _ _ h]

section
variable {s : State} {t : TileId} {d : DmaDesc} (h : d.StoreSpill)
include h

theorem DmaDesc.StoreSpill.units : d.units = 1 := by
  simp [DmaDesc.units, h.kind, h.cnt1]

theorem DmaDesc.StoreSpill.check (hresv : d.resv = false) (hcrec : d.crec = false) (hstart : d.start = 0) (hfmt : d.fmt = 12)
    (htag : d.tag ≠ 3) (hsrc : d.src < 2048) (hal : d.dst % 64 = 0) (hal' : d.dstr1 % 64 = 0) (hstride : 1536 ≤ d.dstr1) :
    d.check = none := by
  have hranges : d.rangesOk = true := by
    simp [DmaDesc.rangesOk, h.kind, h.cnt1, hal, hal', hstride]
    omega
  simp [DmaDesc.check, hresv, hcrec, hstart, hfmt, htag, hranges, h.kind]

theorem DmaDesc.StoreSpill.dmaUnit : s.dmaUnit t d none 0 = ⟨[], [(d.dst, 1536)], [], []⟩ := by
  obtain ⟨hkind, hcnt1, hdst⟩ := h
  have hdst' : d.dst % 2 ^ 64 = d.dst := Nat.mod_eq_of_lt (by unfold storeSize at hdst; omega)
  simp [State.dmaUnit, hkind, hdst', -Nat.reducePow]

/-- With the expected tag and no stream region under its destination it meets no fault. -/
theorem DmaDesc.StoreSpill.dmaFaults (htag : ((s.tile t).accRow d.src).tag.code = d.tag)
    (hapart : d.dst + 1536 ≤ (s.tile t).streamLo ∨ (s.tile t).streamLo + (s.tile t).streamLen ≤ d.dst) :
    s.dmaFaults t d none 0 (s.dmaUnit t d none 0) = [] := by
  have hdst : storeRange (d.dst, 1536) := ⟨Nat.succ_pos _, h.dst⟩
  rw [h.dmaUnit, State.dmaFaults_store rfl (by simp) (by simpa using hdst) (by simp) fun _ => htag]
  simp [State.streamFault_eq_none h.dst hapart]

theorem DmaDesc.StoreSpill.dmaWrites : s.dmaWrites t d 0 (s.dmaUnit t d none 0) =
    [.mem (poolBase t + d.dst) ((s.tile t).accRow d.src).spill] := by
  have hdst := h.dst
  rw [h.dmaUnit]
  simp only [State.dmaWrites, h.kind, List.flatMap_cons, List.flatMap_nil, List.append_nil, Nat.add_zero]
  exact s.dmaPuts_store t (by omega) _

end

/-- A spill of one row waits for no pass once each pass has delivered its sums (R93, R288). -/
theorem Tile.spillMay_of_arrived {x : Tile} {o : DmaOp} (hcnt : o.d.cnt1 = 1) (hundo : (x.accRow o.d.src).undo = [])
    (hpasses : ∀ p, MatOp.pass p ∈ x.matQ → p.arrived = true) : x.spillMay o = true := by
  simp only [Tile.spillMay, hcnt, List.range_one, List.all_cons, List.all_nil, Nat.add_zero, hundo, List.isEmpty_nil,
    Bool.true_and, Bool.and_true]
  rw [Bool.or_eq_true, List.all_eq_true]
  refine Or.inr fun m hm => ?_
  cases m with
  | pass p => simp [hpasses p hm]
  | epi e => rfl

end Sys2Proof.Machine
end

section
/-!
SUPPORT. What DMA instructions leave (R243, R244, R252, R284, R285, R288, R291 to R293, R297), and the obligation they settle.
-/
namespace Sys2Proof.Machine
open Host

/-- A DMA instruction of any kind joins the queue with its descriptor's fields; performing it in the same step is issuing it
and then completing it. -/
theorem State.dmaOp_issues {s : State} {t : TileId} {w : Word} {sa : BitVec 5} {wait : BitVec 4} {off : BitVec 32}
    {b : List Byte} {d : DmaDesc} {kinds : Nat → Bool} {i : TileId → Bool → Instr}
    (hexec : ∀ eager, exec (i t eager) s = s.dmaOp t eager kinds) (h : s.issuesCop t w (.dma sa wait off))
    (hroom : (s.tile t).dma.waiting < 16)
    (hb : s.descriptor t ((s.tile t).seq.sreg sa + off.signExtend 64) 64 64 = .ok b) (hd : DmaDesc.ofBytes b = d)
    (hheld : (s.tile t).dmaHeld t d = false) (hkind : kinds d.kind = true) :
    let x := s.tile t
    let q := x.seq
    ∃ u, exec (i t false) s = .next u ∧
      (u.tile t).dma = { x.dma with queue := x.dma.queue ++
        [.op ⟨⟨q.nextId, q.tag, q.pc, wait⟩, d, q.sreg sa + off.signExtend 64, none⟩] } ∧
      q.passed (u.tile t).seq (q.pc + 8) ∧ q.likeBut (u.tile t).seq ∧
      u = s.setTile t { x with dma := (u.tile t).dma, seq := (u.tile t).seq, digests := (u.tile t).digests } ∧
      (x.dma.queue = [] → ∃ u', exec (.dmaComplete t none) u = .next u' ∧ exec (i t true) s = .next u') := by
  intro x q
  subst hd
  obtain ⟨r, g, hjoin, hpassed, hlike⟩ := State.dmaOp_joins h hroom hb hheld hkind
  refine ⟨_, (hexec false).trans (hjoin false), ?_⟩
  simp only [Bool.false_and, Bool.false_eq_true, if_false, State.tile_setTile]
  refine ⟨rfl, hpassed, hlike, rfl, fun hidle => ⟨_, rfl, (hexec true).trans ((hjoin true).trans ?_)⟩⟩
  have hempty : (s.tile t).dma.queue.isEmpty = true := List.isEmpty_iff.2 hidle
  simp only [hempty, Bool.and_self, if_true]

/-! ### Memory after a COPY and after an ACCOUT -/

/-- Bytes copied read as their source did, and every other byte as before. -/
theorem State.read_copied (s : State) (k k' n : Nat) :
    let m := Memory.writeBytes 0 s.mem k (s.rd k' n)
    (∀ i < n, Memory.read 0 m (k + i) = Memory.read 0 s.mem (k' + i)) ∧
      ∀ a, a < k ∨ k + n ≤ a → Memory.read 0 m a = Memory.read 0 s.mem a := by
  have hlen : (s.rd k' n).length = n := Memory.readBytes_length ..
  refine ⟨fun i hi => ?_, fun a ha => ?_⟩
  · rw [Memory.read_writeBytes, hlen, if_pos (by omega), Nat.add_sub_cancel_left, State.rd_eq_tab, tab_getD _ _ hi]
  · rw [Memory.read_writeBytes, hlen, if_neg (by omega)]

/-- A row spilled into a store reads back entry by entry, and every other byte as before. -/
theorem State.read_spilled (s : State) (t : TileId) {a : Nat} (ha : a ≤ storeSize) {r : AccRow} (hents : r.ents.length = 256) :
    let m := Memory.writeBytes 0 s.mem (poolBase t + a) r.spill
    (∀ j < 256, leNat (Memory.readBytes 0 m (poolBase t + a + 6 * j) 6) = (r.ents.getD j 0).toNat) ∧
      ∀ k, k < poolBase t + a ∨ poolBase t + a + 1536 ≤ k → Memory.read 0 m k = Memory.read 0 s.mem k := by
  have hlen : r.spill.length = 1536 := by rw [AccRow.length_spill, hents]
  refine ⟨fun j hj => ?_, fun k hk => ?_⟩
  · have hback := s.leNat_rd_wr (poolBase t + a) (bs := r.spill) (o := 6 * j) (n := 6) (by omega)
    rw [s.wr_store t ha] at hback
    exact hback.trans (r.leAt_spill (by omega))
  · rw [Memory.read_writeBytes, hlen, if_neg (by omega)]

/-! ### The completion of the one waiting operation -/

section
variable {s : State} {t : TileId} {o : DmaOp} (h : s.dmaAlone t o) (hcheck : o.d.check = none) (hstart : o.d.start = 0)
  (hcrec : o.d.crec = false)
include h hcheck hstart hcrec

section
variable (hcopy : o.d.StoreCopy) (hapart : o.d.src + o.d.len ≤ o.d.dst ∨ o.d.dst + o.d.len ≤ o.d.src)
include hcopy hapart

/-- A COPY between places apart of one store, outside the stream region, moves its bytes. -/
theorem execDmaComplete_copies
    (hstream : o.d.dst + o.d.len ≤ (s.tile t).streamLo ∨ (s.tile t).streamLo + (s.tile t).streamLen ≤ o.d.dst) :
    ∃ fp g, exec (.dmaComplete t none) s = .next
      ({ s with mem := Memory.writeBytes 0 s.mem (poolBase t + o.d.dst) (s.rd (poolBase t + o.d.src) o.d.len) }.setTile t
        { (s.tile t).dmaEnded o.d.len none with fpstat := fp, digests := g }) := by
  have hspill : (s.tile t).spillMay o = true := by simp [Tile.spillMay, hcopy.kind]
  have hdst := hcopy.dst
  have hfaults := hcopy.dmaFaults hapart (s := s) (t := t)
  rw [State.streamFault_eq_none hcopy.dst hstream] at hfaults
  obtain ⟨fp, g, hexec⟩ := execDmaComplete_writes h hspill hcheck hcopy.units hstart hcrec (by omega) hfaults hcopy.dmaWrites
  refine ⟨fp, g, ?_⟩
  rw [hexec, State.rd, Memory.readBytes_length]

/-- With SOFT one into the stream region only records the fault of its first byte. -/
theorem execDmaComplete_refused (hlo : (s.tile t).streamLo ≤ o.d.dst)
    (hhi : o.d.dst < (s.tile t).streamLo + (s.tile t).streamLen) (hsoft : o.d.soft = true) :
    ∃ fp g, exec (.dmaComplete t none) s = .next
      (s.setTile t { (s.tile t).dmaEnded 0 (some ⟨0, 5, o.d.dst⟩) with fpstat := fp, digests := g }) := by
  have hspill : (s.tile t).spillMay o = true := by simp [Tile.spillMay, hcopy.kind]
  have hfaults := hcopy.dmaFaults hapart (s := s) (t := t)
  rw [State.streamFault_first hcopy.pos hcopy.dst hlo hhi] at hfaults
  exact execDmaComplete_soft (f := (5, o.d.dst)) h hspill hcheck hcopy.units hstart hcrec hsoft hfaults

end

/-- An ACCOUT of one row writes the row. -/
theorem execDmaComplete_spills (hrow : o.d.StoreSpill) (htag : ((s.tile t).accRow o.d.src).tag.code = o.d.tag)
    (hstream : o.d.dst + 1536 ≤ (s.tile t).streamLo ∨ (s.tile t).streamLo + (s.tile t).streamLen ≤ o.d.dst)
    (hundo : ((s.tile t).accRow o.d.src).undo = []) (hpasses : ∀ p, MatOp.pass p ∈ (s.tile t).matQ → p.arrived = true) :
    ∃ fp g, exec (.dmaComplete t none) s = .next
      ({ s with mem := Memory.writeBytes 0 s.mem (poolBase t + o.d.dst) ((s.tile t).accRow o.d.src).spill }.setTile t
        { (s.tile t).dmaEnded ((s.tile t).accRow o.d.src).spill.length none with fpstat := fp, digests := g }) := by
  have hdst := hrow.dst
  exact execDmaComplete_writes h (Tile.spillMay_of_arrived hrow.cnt1 hundo hpasses) hcheck hrow.units hstart hcrec (by omega)
    (hrow.dmaFaults htag hstream) hrow.dmaWrites

end

/-- Settles O15: an instruction's issue is its join of the queue, and the one waiting operation is its one unit, whose faults
and writes are those of the store it lies in. -/
theorem dmaInstructionsIssueAndComplete : Obligations.DmaInstructionsIssueAndComplete := by
  unfold Obligations.DmaInstructionsIssueAndComplete
  refine ⟨?issue, ?complete⟩
  case issue =>
    intro s t w sa wait off k x q a N d h hroom hal hk hlo hhi hheld
    have hb := State.descriptor_ok hal hk hlo hhi
    have hd : DmaDesc.ofBytes (tab 64 fun j => s.loadByte t (k + j)) = d := DmaDesc.ofBytes_eq _
    have hissues {i : TileId → Bool → Instr} (kinds : Nat → Bool) (hexec : ∀ eager, exec (i t eager) s = s.dmaOp t eager kinds)
        (hkind : kinds d.kind = true) := State.dmaOp_issues hexec h hroom hb hd hheld hkind
    simp only [List.forall_mem_cons, List.not_mem_nil, false_imp_iff, implies_true, and_true]
    refine ⟨fun hkind => ?copy, fun hkind => ?skew, fun hkind => ?gather, fun hkind => ?scatter, fun hkind => ?accout,
      fun hkind => ?accin⟩
    case copy => exact hissues (i := .dmaCopy) (fun k => k == 0 || decide (5 < k)) (fun _ => rfl) (by simpa using hkind)
    case skew => exact hissues (i := .dmaSkew) (fun k => k == 1) (fun _ => rfl) (by simpa using hkind)
    case gather => exact hissues (i := .dmaGather) (fun k => k == 2) (fun _ => rfl) (by simpa using hkind)
    case scatter => exact hissues (i := .dmaScatter) (fun k => k == 3) (fun _ => rfl) (by simpa using hkind)
    case accout => exact hissues (i := .dmaAccout) (fun k => k == 4) (fun _ => rfl) (by simpa using hkind)
    case accin => exact hissues (i := .dmaAccin) (fun k => k == 5) (fun _ => rfl) (by simpa using hkind)
  case complete =>
    intro s t o x d h hresv hcrec hstart
    obtain ⟨hq, -⟩ := id h
    refine ⟨fun hkind hfmt htag hcnt1 hcnt2 hpos hlen hsrc hdst hapart => ?_,
      fun hkind hfmt hcnt1 hsrc hal hal' hstride hdst hstream hundo hents htag hpasses => ?_⟩
    · have hcopy : d.StoreCopy := ⟨hkind, hcnt1, hcnt2, hpos, hsrc, hdst⟩
      have hcheck := hcopy.check hresv hcrec hstart hfmt htag hlen
      refine ⟨fun hstream => ?_, fun hin hin' hsoft => ?_⟩
      · obtain ⟨fp, g, hexec⟩ := execDmaComplete_copies h hcheck hstart hcrec hcopy hapart hstream
        refine ⟨_, hexec, ?_⟩
        rw [State.tile_setTile]
        obtain ⟨hmoved, hrest⟩ := s.read_copied (poolBase t + d.dst) (poolBase t + d.src) d.len
        exact ⟨by simp [Tile.dmaEnded, hq], hmoved, hrest, rfl, rfl, rfl, rfl, rfl, rfl⟩
      · obtain ⟨fp, g, hexec⟩ := execDmaComplete_refused h hcheck hstart hcrec hcopy hapart hin hin' hsoft
        refine ⟨_, hexec, ?_⟩
        rw [State.tile_setTile]
        refine ⟨by simp [Tile.dmaEnded, Tile.dmaRecord, Tile.setStat, hq], rfl, rfl, rfl, rfl, rfl, ?_, rfl⟩
        simp [Tile.dmaEnded, Tile.dmaRecord, Tile.setStat, x]
    · have hrow : d.StoreSpill := ⟨hkind, hcnt1, hdst⟩
      have hcode : (x.accRow d.src).tag.code = d.tag := by
        rw [htag]
        cases (x.accRow d.src).tag <;> rfl
      have htag3 : d.tag ≠ 3 := by
        rw [← hcode]
        cases (x.accRow d.src).tag <;> decide
      have hcheck := hrow.check hresv hcrec hstart hfmt htag3 hsrc hal hal' hstride
      obtain ⟨fp, g, hexec⟩ := execDmaComplete_spills h hcheck hstart hcrec hrow hcode hstream hundo hpasses
      refine ⟨_, hexec, ?_⟩
      rw [State.tile_setTile]
      obtain ⟨hspilled, hrest⟩ := s.read_spilled t (show d.dst ≤ storeSize by omega) hents
      refine ⟨by simp [Tile.dmaEnded, hq], rfl, hspilled, hrest, rfl, ?_⟩
      have hlen : (x.accRow d.src).spill.length = 1536 := by rw [AccRow.length_spill, hents]
      exact congrArg (fun n => x.dma.bytes + BitVec.ofNat 64 n) hlen

end Sys2Proof.Machine
end

section
/-!
SUPPORT. What a report sends (R530), what a patrol scrub finds (R275, R278, R279), and the obligation on refresh and scrub.
-/
namespace Sys2Proof.Machine
open Host

/-! ### Reports (R530, R593) -/

/-- A frame relayed leaves through a router. -/
theorem State.relayOut_eq (s : State) (f : LomFrame) : ∃ routers, s.relayOut f = { s with routers := routers } := by
  unfold State.relayOut
  split
  · exact ⟨_, rfl⟩
  · dsimp only
    split <;> exact ⟨_, rfl⟩

/-- A report takes the next event number, is sent and is counted; nothing else changes. -/
theorem State.report_eq (s : State) (code : BitVec 16) (kind : UnitKind) (ix : Nat) (d0 d1 : Word) :
    ∃ routers lom, (s.report code kind ix d0 d1).1 = { s with
        routers := routers, lom := lom
        integ := { s.integ with evSeq := s.integ.evSeq + 1, evreps := s.integ.evreps + 1 } } ∧
      lom.tx = s.lom.tx + 1 := by
  unfold State.report State.sendReport State.sendLom
  dsimp only
  obtain ⟨routers, hrelay⟩ := State.relayOut_eq _ _
  rw [hrelay]
  exact ⟨routers, _, rfl, rfl⟩

/-! ### The lines of a stack (R274, R275) -/

theorem popCount_le {n : Nat} (w : BitVec n) : popCount w ≤ n :=
  (List.length_filter_le ..).trans_eq List.length_range

/-- A stack's populated bytes lie within its window. -/
theorem Stack.capacity_lt (x : Stack) : x.capacity < 0x10_0000_0000 := by
  have hones := popCount_le x.enabled
  unfold Stack.capacity
  split <;> omega

/-- A stack with one more corrected error in its log. -/
def Stack.logged (x : Stack) (now : Word) (pc a : Nat) : Stack :=
  { x with ce := x.ce + 1, ceLog := (now, pc) :: x.ceLog, errLog := a :: x.errLog }

/-- A stack with one more line marked uncorrectable. -/
def Stack.struck (x : Stack) (pc a : Nat) : Stack :=
  { x with marked := x.marked ++ [a], ue := x.ue + 1, uePcs := x.uePcs ++ [pc] }

/-- One more corrected error in the log is at most one more within the last day. -/
theorem Stack.recentCe_logged_le (x : Stack) (now g : Word) (pc pc' a : Nat) :
    (x.logged g pc' a).recentCe now pc ≤ x.recentCe now pc + 1 := by
  unfold Stack.recentCe Stack.logged
  rw [List.filter_cons]
  split
  · exact le_rfl
  · exact Nat.le_succ _

/-- A line marked on a pseudo-channel that had one is at least its second. -/
theorem Stack.struck_twice (x : Stack) {pc : Nat} (a : Nat) (h : pc ∈ x.uePcs) :
    2 ≤ ((x.struck pc a).uePcs.filter (· == pc)).length := by
  have hold : 0 < (x.uePcs.filter (· == pc)).length :=
    List.length_pos_of_mem (List.mem_filter.2 ⟨h, beq_self_eq_true pc⟩)
  have hnew : ([pc].filter (· == pc)).length = 1 := by simp
  rw [Stack.struck, List.filter_append, List.length_append, hnew]
  omega

section
variable (k : StackId) (line : Nat)

theorem isHbm_line : isHbm (hbmBase k + 128 * line) = true := by
  unfold isHbm hbmBase
  exact decide_eq_true (by omega)

theorem lineOf_line : lineOf (hbmBase k + 128 * line) = hbmBase k + 128 * line := by
  simp only [lineOf, hbmBase]
  omega

variable {k line}

theorem stackOf_line (h : 128 * line < 0x10_0000_0000) : stackOf (hbmBase k + 128 * line) = k := by
  have hk := k.isLt
  apply Fin.ext
  simp only [stackOf, hbmBase]
  omega

variable {s : State} (h : 128 * line < (s.hbm[k]).capacity)
include h

theorem State.marked_line : s.marked (hbmBase k + 128 * line) = true ↔ hbmBase k + 128 * line ∈ (s.hbm[k]).marked := by
  rw [State.marked, isHbm_line, lineOf_line, stackOf_line (h.trans (Stack.capacity_lt _)), Bool.true_and]
  exact List.contains_iff_mem

/-- A line found uncorrectable that is not marked is marked, counted and reported, and its pseudo-channel noted. -/
theorem State.markUe_unmarked (hun : hbmBase k + 128 * line ∉ (s.hbm[k]).marked) :
    ∃ routers lom waiting, s.markUe (hbmBase k + 128 * line) = { s with
        hbm := s.hbm.set k ((s.hbm[k]).struck ((s.hbm[k]).pcOf (128 * line)) (hbmBase k + 128 * line))
        routers := routers, lom := lom
        integ := { s.integ with
          evSeq := s.integ.evSeq + 1, evreps := s.integ.evreps + 1, waiting := waiting } } ∧
      lom.tx = s.lom.tx + 1 := by
  unfold State.markUe
  rw [if_neg (mt (State.marked_line h).1 hun), lineOf_line, stackOf_line (h.trans (Stack.capacity_lt _))]
  dsimp only
  rw [Nat.add_sub_cancel_left]
  obtain ⟨routers, lom, hreport, htx⟩ := State.report_eq _ _ _ _ _ _
  rw [hreport]
  exact ⟨routers, lom, _, rfl, htx⟩

end

/-! ### Retirement (R278, R279) -/

/-- A retirement is a record of the repair journal. -/
theorem State.retirePc_eq (s : State) (k pc : Nat) :
    ∃ repairs, s.retirePc k pc = { s with integ := { s.integ with repairs := repairs } } := by
  unfold State.retirePc State.recordRepair
  split_ifs <;> exact ⟨_, rfl⟩

theorem State.mem_recordRepair (s : State) (r : Repair) : r ∈ (s.recordRepair r).integ.repairs := by
  unfold State.recordRepair
  split
  case isTrue h => exact List.contains_iff_mem.1 h
  case isFalse => exact List.mem_append_right _ (List.mem_singleton_self r)

/-- While fewer than two pseudo-channels of its stack are retired, a pseudo-channel to be retired is in the journal. -/
theorem State.mem_retirePc {s : State} {k : Nat} (pc : Nat) (h : (s.retiredPcs k).length < 2) :
    Repair.pseudo k pc ∈ (s.retirePc k pc).integ.repairs := by
  unfold State.retirePc
  split
  case isTrue hold => exact List.contains_iff_mem.1 hold
  case isFalse =>
    rw [if_neg (by omega)]
    exact s.mem_recordRepair _

/-! ### Refresh and scrub -/

/-- In fixed-frequency mode a thaw event counts in the total and under its cause, and changes no other part. -/
theorem State.thawEvent_fixed {s : State} (h : s.fixedFreq = true) (n : Fin 11) :
    ∃ gtc, s.thawEvent n = { s with gtc := gtc } ∧ gtc.thaw = s.gtc.thaw + 1 ∧
      gtc.thawN = s.gtc.thawN.set n (s.gtc.thawN[n] + 1) := by
  rw [State.thawEvent, if_pos h]
  exact ⟨_, rfl, rfl, rfl⟩

section
variable {s : State} {k : StackId} {line : Nat} (h : 128 * line < (s.hbm[k]).capacity)
include h

theorem execPatrolScrub_clean : exec (.patrolScrub k line .clean) s = .next s :=
  if_neg (Nat.not_le.2 h)

/-- A corrected error is logged; below 256 of them in a day nothing is retired. -/
theorem execPatrolScrub_corrected :
    let x := s.hbm[k]
    let pc := x.pcOf (128 * line)
    ∃ integ, exec (.patrolScrub k line .corrected) s = .next { s with
        hbm := s.hbm.set k (x.logged s.gtc.count pc (hbmBase k + 128 * line)), integ := integ } ∧
      (x.recentCe s.gtc.count pc < 255 → integ = s.integ) := by
  intro x pc
  let v := s.modStack k fun x => x.logged s.gtc.count pc (hbmBase k + 128 * line)
  have hexec : exec (.patrolScrub k line .corrected) s =
      .next (if 256 ≤ (v.stack k).recentCe s.gtc.count pc then v.retirePc k pc else v) := if_neg (Nat.not_le.2 h)
  have hcount : (v.stack k).recentCe s.gtc.count pc ≤ x.recentCe s.gtc.count pc + 1 := by
    rw [State.stack_modStack]
    exact Stack.recentCe_logged_le ..
  rw [hexec]
  split
  case isTrue hmany =>
    obtain ⟨repairs, hretire⟩ := v.retirePc_eq k pc
    rw [hretire]
    exact ⟨_, rfl, fun hfew => absurd (hmany.trans hcount) (by omega)⟩
  case isFalse => exact ⟨_, rfl, fun _ => rfl⟩

/-- The state of a scrub that found an uncorrectable error: the line's pseudo-channel is retired at its second. -/
theorem execPatrolScrub_uncorrectable :
    let v := s.markUe (hbmBase k + 128 * line)
    let pc := (s.hbm[k]).pcOf (128 * line)
    exec (.patrolScrub k line .uncorrectable) s =
      .next (if 2 ≤ ((v.stack k).uePcs.filter (· == pc)).length then v.retirePc k pc else v) :=
  if_neg (Nat.not_le.2 h)

/-- Once a pseudo-channel's second uncorrectable line is found, it is in the repair journal. -/
theorem execPatrolScrub_unmarked (hun : hbmBase k + 128 * line ∉ (s.hbm[k]).marked) :
    let x := s.hbm[k]
    let pc := x.pcOf (128 * line)
    ∃ routers lom integ, exec (.patrolScrub k line .uncorrectable) s = .next { s with
        hbm := s.hbm.set k (x.struck pc (hbmBase k + 128 * line)), routers := routers, lom := lom, integ := integ } ∧
      lom.tx = s.lom.tx + 1 ∧ integ.evreps = s.integ.evreps + 1 ∧
      (pc ∈ x.uePcs → (s.retiredPcs k).length < 2 → Repair.pseudo k pc ∈ integ.repairs) := by
  intro x pc
  obtain ⟨routers, lom, waiting, hmark, htx⟩ := State.markUe_unmarked h hun
  have hexec := execPatrolScrub_uncorrectable h
  rw [hmark] at hexec
  dsimp only at hexec
  generalize hv : ({ s with hbm := _, routers := _, lom := _, integ := _ } : State) = v at hexec
  have hretired : v.retiredPcs k = s.retiredPcs k := by rw [← hv]; rfl
  have hstack : v.stack k = x.struck pc (hbmBase k + 128 * line) := by
    rw [← hv]
    exact Vector.getElem_set_self _
  rw [hexec, hstack]
  split
  case isTrue =>
    obtain ⟨repairs, hretire⟩ := v.retirePc_eq k pc
    have hmem (hfew : (s.retiredPcs k).length < 2) := State.mem_retirePc pc (hretired ▸ hfew)
    rw [hretire] at hmem ⊢
    subst hv
    exact ⟨_, _, _, rfl, htx, rfl, fun _ hfew => hmem hfew⟩
  case isFalse hone =>
    subst hv
    exact ⟨_, _, _, rfl, htx, rfl, fun hpc => absurd (x.struck_twice _ hpc) hone⟩

/-- A line already marked is neither marked, counted nor reported again. -/
theorem execPatrolScrub_marked (hm : hbmBase k + 128 * line ∈ (s.hbm[k]).marked) :
    ∃ repairs, exec (.patrolScrub k line .uncorrectable) s =
      .next { s with integ := { s.integ with repairs := repairs } } := by
  have hsame : s.markUe (hbmBase k + 128 * line) = s := if_pos ((State.marked_line h).2 hm)
  have hexec := execPatrolScrub_uncorrectable h
  rw [hsame] at hexec
  rw [hexec]
  split
  · obtain ⟨repairs, hretire⟩ := s.retirePc_eq k ((s.hbm[k]).pcOf (128 * line))
    exact ⟨repairs, congrArg _ hretire⟩
  · exact ⟨_, rfl⟩

end

/-- Settles O16: a refresh is at most a thaw event, and a scrub by what it finds; what is retired is a record of the journal. -/
theorem hbmScrubMarksCountsAndRetires : Obligations.HbmScrubMarksCountsAndRetires := by
  unfold Obligations.HbmScrubMarksCountsAndRetires
  intro s k line x a pc
  refine ⟨rfl, fun hfixed => ?refresh, fun h => ⟨execPatrolScrub_clean h, ?corrected, fun hun => ?unmarked, fun hm => ?marked⟩⟩
  case refresh =>
    obtain ⟨gtc, hthaw, htotal, hcause⟩ := State.thawEvent_fixed hfixed 2
    have hexec : exec (.hbmRefresh k true) s = .next (s.thawEvent 2) := rfl
    exact ⟨_, hexec.trans (congrArg _ hthaw), htotal, hcause, rfl⟩
  case corrected =>
    obtain ⟨integ, hexec, hfew⟩ := execPatrolScrub_corrected h
    refine ⟨_, hexec, ?_⟩
    have hstack := Vector.getElem_set_self (xs := s.hbm) (x := x.logged s.gtc.count pc a) k.isLt
    exact ⟨(congrArg Stack.ce hstack :), (congrArg Stack.marked hstack :), (congrArg Stack.errLog hstack :), rfl, rfl, hfew⟩
  case unmarked =>
    obtain ⟨routers, lom, integ, hexec, htx, hreps, hrepair⟩ := execPatrolScrub_unmarked h hun
    refine ⟨_, hexec, ?_⟩
    have hstack := Vector.getElem_set_self (xs := s.hbm) (x := x.struck pc a) k.isLt
    exact ⟨(congrArg Stack.marked hstack :), (congrArg Stack.ue hstack :), hreps, htx, rfl, hrepair⟩
  case marked =>
    obtain ⟨repairs, hexec⟩ := execPatrolScrub_marked h hm
    exact ⟨_, hexec, rfl, rfl, rfl⟩

end Sys2Proof.Machine
end

section
/-!
SUPPORT. A port that goes at once (R502, R622) and BAR2 (R501, R507), and the obligation on Function Level Reset, link-down
and BAR2.
-/
namespace Sys2Proof.Machine
open Host

/-! ### The end of a port (R502) -/

/-- A function whose port has gone: its vectors masked, disabled. -/
def PciFn.dropped (f : PciFn) : PciFn :=
  { f.maskAll with en := false, rdy := false, mbbusy := false, disabled := true }

section
variable {s : State} {p : PciePort}

theorem State.flush_of_cmds_nil (h : s.ouvzu.cmds = []) : s.flush = s := by
  rw [State.flush, h]
  rfl

/-- Once a port's commands have ended and none is left, with no closing under way and no job on the port, its queue pairs and
grants go and its function is disabled. -/
theorem State.dropFn_of_ended {v : State} {written : Bool} (hend : s.endCommands p written = v) (hcmds : v.ouvzu.cmds = [])
    (hclosing : v.ouvzu.closing = []) (huse : v.usesPort p = false) :
    s.dropFn p written = (v.dropQueues p).modFn p PciFn.dropped := by
  have hnone : ({ v with ouvzu := { v.ouvzu with closing := [] } } : State) = v := by rw [← hclosing]
  unfold State.dropFn
  simp only [hend, hclosing, List.filter_nil, List.map_nil, hnone, huse, Bool.false_eq_true, if_false]
  change ((v.dropQueues p).modFn p PciFn.dropped).flush.settle = _
  rw [State.flush_of_cmds_nil, State.settle_of_closing_nil]
  exacts [hclosing, hcmds]

/-- With no command fetched none ends and none is counted. -/
theorem State.endCommands_of_cmds_nil (h : s.ouvzu.cmds = []) (written : Bool) : s.endCommands p written = s := by
  unfold State.endCommands
  simp only [h, List.filter_nil, List.foldl_nil]
  cases written
  case true => exact State.flush_of_cmds_nil h
  case false =>
    have hsame : ({ s with ouvzu := { s.ouvzu with cmds := [], nUndeliv := s.ouvzu.nUndeliv + 0#64 } } : State) = s := by
      rw [BitVec.add_zero, ← h]
    exact hsame

/-- The commit of a port's one waiting command, unwritten, leaves no command and no trace but in the Ouvzu's lists and counts. -/
theorem State.setCommitted_waiting {c : Cmd} (hcmds : s.ouvzu.cmds = [c]) (hstage : c.stage = .sequenced)
    (hab : c.aborter = []) (status : Nat) (r0 r1 : Word) :
    ∃ o : Ouvzu, s.setCommitted c.handle status r0 r1 = { s with ouvzu := o } ∧
      o.cmds = [c.done status r0 r1 s.gtc.count] ∧ o.closing = s.ouvzu.closing ∧ o.nUndeliv = s.ouvzu.nUndeliv := by
  have hstatus : c.status = none := by rw [Cmd.status, hstage]
  unfold State.setCommitted
  simp only [State.cmd_handle hcmds, hstatus, hcmds, hab]
  exact ⟨_, rfl, by simp [Cmd.done], rfl, rfl⟩

/-- A port's one waiting command, lost with its link, is counted as undelivered and reported. -/
theorem State.endCommands_undelivered {c : Cmd} (hcmds : s.ouvzu.cmds = [c]) (hport : c.port = some p) (hsqid : c.sqid < 16384)
    (hstage : c.stage = .sequenced) (hab : c.aborter = []) :
    let v := s.endCommands p false
    v.ouvzu.cmds = [] ∧ v.ouvzu.closing = s.ouvzu.closing ∧ v.ouvzu.nUndeliv = s.ouvzu.nUndeliv + 1 ∧ v.job = s.job ∧
      v.hostA = s.hostA ∧ v.hostB = s.hostB ∧ v.integ.evreps = s.integ.evreps + 1 := by
  obtain ⟨o, hcommit, hcmds', hclosing, hundeliv⟩ := State.setCommitted_waiting hcmds hstage hab 0x22 0 0
  have hundo : s.undoStarted c = s := by simp [State.undoStarted, hstage]
  have hstarted : (c.stage == .executing) = false := by rw [hstage]; rfl
  have hmine : s.ouvzu.cmds.filter (fun c => c.port == some p) = [c] := by simp [hcmds, hport]
  have hcounted : [c].filter (fun c => c.sqid != 0xFFFD) = [c] := by
    have hne : c.sqid ≠ 0xFFFD := by omega
    simp [hne]
  have hgone : o.cmds.filter (fun c => c.port != some p) = [] := by simp [hcmds', Cmd.done, hport]
  unfold State.endCommands
  simp only [hmine, List.foldl_cons, List.foldl_nil, hundo, hstarted, Bool.and_false, Bool.false_eq_true, if_false, hcommit,
    hcounted, hgone, List.length_singleton, Nat.one_pos, if_true]
  obtain ⟨routers, lom, hreport, -⟩ := State.report_eq _ _ _ _ _ _
  rw [hreport]
  exact ⟨rfl, hclosing, congrArg (· + 1) hundeliv, rfl, rfl, rfl, rfl⟩

end

/-! ### BAR2 (R501, R507) -/

section
variable {r : Region} {off n : Nat} (hn : 1 ≤ n)
include hn

/-- Bytes within the one region are one piece of it. -/
theorem bar2Pieces_within (h : off + n ≤ r.len) : bar2Pieces [r] off n = some [(r.base + off, n, r.write)] := by
  obtain ⟨m, rfl⟩ := Nat.exists_eq_add_of_le' hn
  rw [bar2Pieces, if_pos (by omega), Nat.min_eq_left (by omega)]
  dsimp only
  rw [Nat.sub_self]
  rfl

/-- Bytes beyond the one region are nowhere. -/
theorem bar2Pieces_beyond (h : r.len < off + n) : bar2Pieces [r] off n = none := by
  have hnowhere {o k : Nat} (hk : 1 ≤ k) : bar2Pieces [] o k = none := by
    obtain ⟨j, rfl⟩ := Nat.exists_eq_add_of_le' hk
    rfl
  obtain ⟨m, rfl⟩ := Nat.exists_eq_add_of_le' hn
  rw [bar2Pieces]
  split
  · dsimp only
    rw [hnowhere (by omega)]
    rfl
  · exact hnowhere hn

end

section
variable {s : State} {p : PciePort}

/-- A read of an enabled function gives the bytes of its pieces, or none where there is no piece. -/
theorem execBar2Access_read (hen : (s.fn p).disabled = false) (off n : Nat) :
    exec (.bar2Access p off (.read n)) s = .next (s.modFn p fun f =>
      { f with bar2 := (bar2Pieces s.hostVisible off n).map fun l => l.flatMap fun x => s.serRd x.1 x.2.1 }) := by
  have hexec : exec (.bar2Access p off (.read n)) s = execBar2Access p off (.read n) s := rfl
  rw [hexec, execBar2Access]
  simp only [hen, Bool.false_eq_true, if_false]
  cases bar2Pieces s.hostVisible off n <;> rfl

/-- A write within the one region of an enabled function writes its bytes where the region may be written. -/
theorem execBar2Access_write (hen : (s.fn p).disabled = false) {r : Region} (hvis : s.hostVisible = [r]) {off : Nat}
    {b : List Byte} (hb : 1 ≤ b.length) (hin : off + b.length ≤ r.len) :
    exec (.bar2Access p off (.write b)) s = .next (if r.write then s.hbmWr (r.base + off) b else s) := by
  have hexec : exec (.bar2Access p off (.write b)) s = execBar2Access p off (.write b) s := rfl
  rw [hexec, execBar2Access]
  simp only [hen, Bool.false_eq_true, if_false, hvis, bar2Pieces_within hb hin, List.foldl_cons, List.foldl_nil,
    List.take_length]

/-! ### The port's registers and lists -/

theorem State.dropQueues_lists (s : State) (p : PciePort) :
    (s.dropQueues p).ouvzu.queues = s.ouvzu.queues.filter (fun q => q.port ≠ p) ∧
      (s.dropQueues p).ouvzu.grants = s.ouvzu.grants.filter (fun g => g.port ≠ p) := by
  constructor <;> exact List.filter_congr fun x _ => by simp [bne, beq_eq_decide]

/-- A link that goes down takes its port with it. -/
theorem execPcieLinkDown_up (h : (s.fn p).linkUp = true) :
    exec (.pcieLinkDown p false) s = .next ((s.dropFn p false).modFn p fun f => { f with linkUp := false }) :=
  if_pos h

end

/-! ### The obligation -/

/-- Settles O40: a port's end at once is the end of its commands, the loss of its lists and a disabled function; a BAR2 access
is one of its pieces. -/
theorem portsResetAndBar2Accesses : Obligations.PortsResetAndBar2Accesses := by
  unfold Obligations.PortsResetAndBar2Accesses
  intro s p f
  refine ⟨fun hcmds hclosing huse => ?idle, fun c hcmds hport hsqid hstage hab hclosing huse hup => ?undelivered,
    fun hdis => ⟨fun off n => if_pos hdis, fun off b => if_pos hdis⟩, fun r off n k hen hvis hn => ?bar2⟩
  case idle =>
    have hdrop (written : Bool) : s.dropFn p written = (s.dropQueues p).modFn p PciFn.dropped :=
      State.dropFn_of_ended (State.endCommands_of_cmds_nil hcmds written) hcmds hclosing huse
    obtain ⟨hqueues, hgrants⟩ := s.dropQueues_lists p
    refine ⟨?reset, fun hup => ?down, fun hdown => if_neg (Bool.eq_false_iff.1 hdown)⟩
    case reset =>
      have hexec : exec (.functionLevelReset p) s = .next ((s.dropFn p true).modFn p fun f =>
        { PciFn.reset with linkUp := f.linkUp, perst := f.perst, irqs := f.irqs }) := rfl
      rw [hdrop] at hexec
      refine ⟨_, hexec, ?_, hqueues, hgrants, rfl⟩
      rw [State.fn_modFn, State.fn_modFn]
      rfl
    case down =>
      have hexec := execPcieLinkDown_up hup
      rw [hdrop] at hexec
      refine ⟨_, hexec, ?_⟩
      rw [State.fn_modFn, State.fn_modFn]
      exact ⟨rfl, rfl, rfl, hqueues, rfl, rfl⟩
  case undelivered =>
    obtain ⟨hcmds', hclosing', hundeliv, hjob, hhostA, hhostB, hreps⟩ :=
      State.endCommands_undelivered hcmds hport hsqid hstage hab
    generalize hend : s.endCommands p false = v at *
    have huse' : v.usesPort p = false := by rw [State.usesPort, hjob]; exact huse
    have hexec := execPcieLinkDown_up hup
    rw [State.dropFn_of_ended hend hcmds' (hclosing'.trans hclosing) huse'] at hexec
    exact ⟨_, hexec, hcmds', hundeliv, hhostA, hhostB, hreps⟩
  case bar2 =>
    refine ⟨fun hout => ?beyond, fun hin => ?within, fun b hb hin hwrite hloc hue => ?write, fun b hb hin hwrite => ?readOnly⟩
    case beyond => rw [execBar2Access_read hen, hvis, bar2Pieces_beyond hn hout]; rfl
    case within =>
      rw [execBar2Access_read hen, hvis, bar2Pieces_within hn hin]
      simp
    case write =>
      subst hb
      have hwr : s.hbmWr (r.base + off) b = s.wr k b := by simp [State.hbmWr, hloc, hue]
      have hexec := execBar2Access_write hen hvis hn hin
      rw [if_pos hwrite, hwr] at hexec
      refine ⟨_, hexec, ?_, fun a ha => s.read_wr_apart ha, s.wr_frame k b⟩
      rw [State.rd, s.wr_mem, Memory.readBytes_writeBytes]
    case readOnly =>
      subst hb
      rw [execBar2Access_write hen hvis hn hin, hwrite]
      rfl

end Sys2Proof.Machine
end

section
/-!
SUPPORT. Writes of HBM by the CP's engines (R272, R276) and records in host memory (R325): where a write lands, what it leaves
of the places of later writes, and the fields of a moraine record read back.
-/
namespace Sys2Proof.Machine
open Host

/-! ### Writes of HBM -/

/-- A CP engine's write that covers no part of an uncorrectable line is made. -/
theorem State.hbmWr_eq_wr {s : State} {a k : Nat} {bs : List Byte} (hloc : s.locate .serac a = .mem k)
    (hue : s.writeUe k bs.length = none) : s.hbmWr a bs = s.wr k bs := by
  simp [State.hbmWr, hloc, hue]

/-- A write clears marks of the stacks, and changes nothing else of them (R276). -/
theorem State.stack_wr (s : State) (k : Nat) (bs : List Byte) (i : StackId) :
    ∃ keep, (s.wr k bs).stack i = { s.stack i with marked := (s.stack i).marked.filter keep } := by
  have hsame : ∃ keep, s.stack i = { s.stack i with marked := (s.stack i).marked.filter keep } :=
    ⟨fun _ => true, by rw [List.filter_true]⟩
  unfold State.wr
  dsimp only
  split
  case isFalse => exact hsame
  case isTrue =>
    by_cases hi : stackOf k = i
    case pos =>
      subst hi
      exact ⟨fun l => !(k ≤ l && l + 128 ≤ k + bs.length), by simp [State.stack, State.modStack]⟩
    case neg =>
      have hne : (stackOf k).val ≠ i.val := fun e => hi (Fin.ext e)
      simpa [State.stack, State.modStack, hne] using hsame

theorem State.locate_wr (s : State) (k : Nat) (bs : List Byte) : (s.wr k bs).locate = s.locate := by
  have hcapacity (i : StackId) : ((s.wr k bs).stack i).capacity = (s.stack i).capacity := by
    obtain ⟨keep, hstack⟩ := s.stack_wr k bs i
    rw [hstack]
    rfl
  have hjob : (s.wr k bs).job = s.job := by rw [s.wr_frame]
  have hmapped : (s.wr k bs).hbmMapped = s.hbmMapped := by
    funext a
    simp only [State.hbmMapped, State.regionOf, hcapacity, hjob]
  funext g a
  simp only [State.locate, hmapped]

/-- No write adds to the uncorrectable lines that a later one would cover in part (R276). -/
theorem State.writeUe_wr {s : State} {a n : Nat} (h : s.writeUe a n = none) (k : Nat) (bs : List Byte) :
    (s.wr k bs).writeUe a n = none := by
  obtain ⟨keep, hstack⟩ := s.stack_wr k bs (stackOf a)
  unfold State.writeUe at h ⊢
  rw [hstack]
  split
  case isFalse => rfl
  case isTrue hhbm =>
    rw [if_pos hhbm] at h
    simp only [List.min?_eq_none_iff, List.filter_eq_nil_iff, List.mem_filter] at h ⊢
    exact fun l hl => h l hl.1

theorem State.rd_wr (s : State) (k : Nat) (bs : List Byte) : (s.wr k bs).rd k bs.length = bs := by
  rw [State.rd, s.wr_mem, Memory.readBytes_writeBytes]

theorem State.leNat_rd_wr_leBytes (s : State) (k n v : Nat) :
    leNat ((s.wr k (leBytes n v)).rd k n) = v % 2 ^ (8 * n) := by
  have hback := s.rd_wr k (leBytes n v)
  rw [leBytes_length] at hback
  rw [hback, leNat_leBytes]

theorem State.rd_wr_apart (s : State) {a n k : Nat} {bs : List Byte} (h : a + n ≤ k ∨ k + bs.length ≤ a) :
    (s.wr k bs).rd a n = s.rd a n := by
  rw [State.rd, s.wr_mem, Memory.readBytes_writeBytes_apart 0 s.mem h, State.rd]

/-- A write of bytes, if there are any. -/
def State.hbmWrSome (s : State) (a : Nat) (bs : List Byte) : State := if bs.isEmpty then s else s.hbmWr a bs

/-- It leaves those bytes, no others, and every place of a later write as it was. -/
theorem State.hbmWrSome_frame {s : State} {a k : Nat} {bs : List Byte} (hloc : s.locate .serac a = .mem k)
    (hue : s.writeUe k bs.length = none) :
    let v := s.hbmWrSome a bs
    v.rd k bs.length = bs ∧ (∀ x, x < k ∨ k + bs.length ≤ x → Memory.read 0 v.mem x = Memory.read 0 s.mem x) ∧
      v.locate = s.locate ∧ (∀ x n, s.writeUe x n = none → v.writeUe x n = none) ∧
      v = { s with mem := v.mem, hbm := v.hbm } := by
  unfold State.hbmWrSome
  cases bs with
  | nil => exact ⟨rfl, fun _ _ => rfl, rfl, fun _ _ h => h, rfl⟩
  | cons b bs =>
    rw [List.isEmpty_cons, if_neg Bool.false_ne_true, State.hbmWr_eq_wr hloc hue]
    exact ⟨s.rd_wr k _, fun x hx => s.read_wr_apart hx, s.locate_wr k _, fun x n h => State.writeUe_wr h k _, s.wr_frame k _⟩

/-! ### Records in host memory -/

/-- A number within the bytes written to host memory is read back. -/
theorem State.leNat_hostRd_hostWr (s : State) (p : PciePort) (a : Nat) {bs : List Byte} {o n : Nat} (h : o + n ≤ bs.length) :
    leNat ((s.hostWr p a bs).hostRd p (a + o) n) = leAt bs o n :=
  congrArg leNat (s.hostRd_hostWr_part p a h)

theorem State.hostWr_frame (s : State) (p : PciePort) (a : Nat) (bs : List Byte) :
    s.hostWr p a bs = { s with hostA := (s.hostWr p a bs).hostA, hostB := (s.hostWr p a bs).hostB } := by
  cases p <;> rfl

section
variable (kind m seq offset count fmt : Nat) (skip : Bool) (digest : Word) (chip : ChipAddr)

@[simp] theorem morHeader_length : (morHeader kind m seq offset count fmt skip digest chip).length = 64 := by
  simp [morHeader]

/-- The fields of a moraine record's header (R325). -/
theorem leAt_morHeader (payload : List Byte) :
    let b := morHeader kind m seq offset count fmt skip digest chip ++ payload
    leAt b 0 2 = kind % 2 ^ 16 ∧ leAt b 2 2 = skip.toNat ∧ leAt b 4 4 = m % 2 ^ 32 ∧ leAt b 8 8 = seq % 2 ^ 64 ∧
      leAt b 24 4 = count % 2 ^ 32 ∧ leAt b 32 8 = digest.toNat := by
  have hskip : skip.toNat < 65536 := skip.toNat_lt.trans (by decide)
  simp only [morHeader, List.append_assoc]
  refine ⟨?kind, ?skip, ?m, ?seq, ?count, ?digest⟩
  case skip => simp [leAt_leBytes_append_of_le, leAt_leBytes_append, hskip]
  case digest => simp [leAt_leBytes_append_of_le, leAt_leBytes_append, digest.isLt]
  all_goals simp [leAt_leBytes_append_of_le, leAt_leBytes_append]

end

end Sys2Proof.Machine
end

section
/-!
SUPPORT. The moraine engine (R324, R325, R327 to R329): the import of a declaration in progress, each instruction of the engine
by the case it meets, and the obligation they settle.
-/
namespace Sys2Proof.Machine
open Host

/-! ### The import in progress -/

theorem State.importOf_decl {s : State} {m : Nat} {i : MorImport} (h : s.importOf m = some i) : i.decl = m := by
  simpa using List.find?_some h

theorem State.importOf_setImport_some (s : State) {m : Nat} {i : MorImport} (h : i.decl = m) :
    (s.setImport m (some i)).importOf m = some i := by
  have hrest : (s.job.imports.filter fun x => x.decl != m).find? (fun i => i.decl == m) = none := by
    simp [List.find?_eq_none]
  simp [State.importOf, State.setImport, List.find?_append, hrest, h]

theorem State.importOf_setImport_none (s : State) (m : Nat) : (s.setImport m none).importOf m = none := by
  simp [State.importOf, State.setImport]

theorem State.image_isSome_of_morDecl {s : State} {m : Nat} {d : MorDecl} (h : s.morDecl m = some d) :
    s.job.image.isSome = true := by
  obtain ⟨im, him, -⟩ := Option.bind_eq_some_iff.1 h
  rw [him, Option.isSome_some]

/-- A read that the host does not answer finds nothing (R328). -/
theorem State.readReturn_unanswered (s : State) (d : MorDecl) (step : Nat) : s.readReturn d step false = .late := by
  unfold State.readReturn
  dsimp only
  split <;> rfl

/-- A thaw event changes the counters of the GTC block, and those in fixed-frequency mode alone (R442, R444). -/
theorem State.thawEvent_gtc (s : State) (n : Fin 11) : ∃ gtc, s.thawEvent n = { s with gtc := gtc } ∧
    (s.fixedFreq = true → gtc.thawN[n] = s.gtc.thawN[n] + 1) ∧ (s.fixedFreq = false → gtc = s.gtc) := by
  by_cases hfixed : s.fixedFreq = true
  case pos =>
    obtain ⟨gtc, heq, -, hcount⟩ := State.thawEvent_fixed hfixed n
    exact ⟨gtc, heq, fun _ => by simp [hcount], fun h => absurd hfixed (by simp [h])⟩
  case neg => exact ⟨s.gtc, if_neg hfixed, fun h => absurd h hfixed, fun _ => rfl⟩

/-- A report sent changes the links, the routers and the counters of the integrity block. -/
theorem State.sendReport_eq (s : State) (e : Event) (cls act : Nat) :
    ∃ routers lom integ, s.sendReport e cls act = { s with routers := routers, lom := lom, integ := integ } := by
  unfold State.sendReport State.sendLom
  dsimp only
  obtain ⟨routers, hrelay⟩ := State.relayOut_eq _ _
  rw [hrelay]
  exact ⟨routers, _, _, rfl⟩

/-! ### What an instruction writes and notes -/

/-- What the step in progress exports as payload: the gradient slice, or nothing of a skipped step (R325). -/
def State.exportPayload (s : State) (plan : MorPlan) : List Byte :=
  if s.skipped plan then [] else s.serRd plan.grad (4 * plan.count)

/-- The record that the step in progress exports (R325). -/
def State.exportRecord (s : State) (m : Fin 64) : List Byte :=
  let plan := Config.moraine m.val
  morHeader 1 m.val (s.job.step.toNat + 1) plan.offset (if s.skipped plan then 0 else plan.count) 1 (s.skipped plan)
    (crc64 (s.exportPayload plan)) (s.routers[0]).self ++ s.exportPayload plan

theorem State.exportRecord_length (s : State) (m : Fin 64) :
    (s.exportRecord m).length = 64 + (s.exportPayload (Config.moraine m.val)).length := by
  rw [State.exportRecord, List.length_append, morHeader_length]

/-- The fields and the payload of an exported record (R325). -/
theorem State.exportRecord_fields (s : State) (m : Fin 64) (hcount : (Config.moraine m.val).count < 2 ^ 32) :
    let plan := Config.moraine m.val
    let payload := s.exportPayload plan
    let b := s.exportRecord m
    leAt b 0 2 = 1 ∧ leAt b 2 2 = (s.skipped plan).toNat ∧ leAt b 4 4 = m.val ∧
      leAt b 8 8 = (s.job.step.toNat + 1) % 2 ^ 64 ∧ leAt b 24 4 = (if s.skipped plan then 0 else plan.count) ∧
      leAt b 32 8 = (crc64 payload).toNat ∧ (b.drop 64).take payload.length = payload := by
  intro plan payload b
  obtain ⟨hkind, hskip, hm, hseq, hcnt, hdigest⟩ := leAt_morHeader 1 m.val (s.job.step.toNat + 1) plan.offset
    (if s.skipped plan then 0 else plan.count) 1 (s.skipped plan) (crc64 payload) (s.routers[0]).self payload
  have hplaced : (if s.skipped plan then 0 else plan.count) < 2 ^ 32 := by
    split
    · decide
    · exact hcount
  refine ⟨hkind, hskip, hm.trans (Nat.mod_eq_of_lt (by omega)), hseq, hcnt.trans (Nat.mod_eq_of_lt hplaced), hdigest, ?_⟩
  rw [show b = _ ++ payload from rfl, List.drop_left' (morHeader_length ..), List.take_length]

/-- The job with the step in progress noted as exported. -/
def Job.noteExport (j : Job) (m : Fin 64) : Job :=
  { j with exports := (m.val, j.step) :: j.exports.filter fun e => e.1 != m.val }

/-- The import that the engine starts now and finds late (R328). -/
def State.lateImport (s : State) (m : Fin 64) : MorImport :=
  ⟨m.val, BitVec.ofNat 64 (s.job.nextImp.getD m.val 0).toNat,
    BitVec.ofInt 64 (64 * (s.baseSlot + (Config.moraine m.val).imSlot)), true, false, none⟩

/-- `s` with an import counted as late. -/
def State.countLate (s : State) : State :=
  { s with cp := { s.cp with mlate := s.cp.mlate + 1 } }.thawEvent 8

theorem State.countLate_eq (s : State) : ∃ gtc, s.countLate =
      { s with cp := { s.cp with mlate := s.cp.mlate + 1 }, gtc := gtc } ∧
    (s.fixedFreq = true → gtc.thawN[8] = s.gtc.thawN[8] + 1) ∧ (s.fixedFreq = false → gtc = s.gtc) :=
  State.thawEvent_gtc _ 8

/-- `s` with a digest error counted and reported (R328). -/
def State.countDigest (s : State) (m step : Word) : State :=
  let r := { s with cp := { s.cp with mdigest := s.cp.mdigest + 1 } }.report 0x0033 .chip 0 m step
  r.1.sendReport r.2 3 0

theorem State.countDigest_eq (s : State) (m step : Word) : ∃ routers lom integ, s.countDigest m step =
    { s with cp := { s.cp with mdigest := s.cp.mdigest + 1 }, routers := routers, lom := lom, integ := integ } := by
  unfold State.countDigest
  dsimp only
  obtain ⟨routers, lom, integ, hsend⟩ := State.sendReport_eq _ _ 3 0
  obtain ⟨routers', lom', hreport, -⟩ :=
    { s with cp := { s.cp with mdigest := s.cp.mdigest + 1 } }.report_eq 0x0033 .chip 0 m step
  rw [hsend, hreport]
  exact ⟨_, _, _, rfl⟩

/-- `s` with an import of a step done: none is in progress, and the next is that of the step after. -/
def State.noteImport (s : State) (m : Nat) (step : Word) : State :=
  let v := s.setImport m none
  { v with job := { v.job with
    impDone := (m, step) :: v.job.impDone.filter (fun e => e.1 != m)
    nextImp := v.job.nextImp.set m (step + 1) } }

/-! ### The instructions -/

section
variable {s : State} {m : Fin 64} {d : MorDecl} (hd : s.morDecl m.val = some d)

/-- Before the reduce-scatters of its slice are complete a declaration exports nothing (R324). -/
theorem execMoraineExport_waits (h : s.scattered (Config.moraine m.val) = false) (ok : Bool) :
    exec (.moraineExport m ok) s = .next s := by
  change execMoraineExport m ok s = _
  unfold execMoraineExport
  split
  · rfl
  · simp [h]

include hd

/-- Once they are, from its slot on the record is written to its ring entry (R324, R325, R327). -/
theorem execMoraineExport_writes {p : PciePort} {a : Nat}
    (hstart : s.mayStart (s.baseSlot + (Config.moraine m.val).exSlot) = true)
    (hslot : s.observed (s.baseSlot + (Config.moraine m.val).exSlot) = true)
    (hscat : s.scattered (Config.moraine m.val) = true) (hmaster : (s.fn p).masters = true)
    (hnew : (m.val, s.job.step) ∉ s.job.exports)
    (hwin : s.windowAt (d.exring + s.job.step.toNat % (d.lag + 1) * d.entry) (s.exportRecord m).length true = some (p, a)) :
    exec (.moraineExport m true) s = .next { s.hostWr p a (s.exportRecord m) with job := s.job.noteExport m } := by
  have hgate : (!true || !s.scattered (Config.moraine m.val) || !s.mayStart (s.baseSlot + (Config.moraine m.val).exSlot) ||
      !s.observed (s.baseSlot + (Config.moraine m.val).exSlot) || s.job.exports.contains (m.val, s.job.step)) = false := by
    simp [hstart, hslot, hscat, hnew]
  change execMoraineExport m true s = _
  unfold State.exportRecord State.exportPayload at *
  simp only [execMoraineExport, hd, hgate, hwin, hmaster]
  rfl

/-- At its slot an import whose read the host does not answer is late (R328, R329). -/
theorem execMoraineImport_late {k : Nat}
    (hstart : s.mayStart (s.baseSlot + (Config.moraine m.val).imSlot) = true)
    (hslot : s.observed (s.baseSlot + (Config.moraine m.val).imSlot) = true) (hnone : s.importOf m.val = none)
    (hstep : (s.job.nextImp.getD m.val 0).toNat + d.lag ≤ s.job.step.toNat + 1)
    (hloc : s.locate .serac d.importw = .mem k) (hue : s.writeUe k 8 = none) :
    exec (.moraineImport m false) s =
      .next ((s.wr k (leBytes 8 1)).countLate.setImport m.val (some (s.lateImport m))) := by
  have hwr : s.hbmWr d.importw (leBytes 8 1) = s.wr k (leBytes 8 1) := State.hbmWr_eq_wr hloc (by rwa [leBytes_length])
  have hgate : (!s.mayStart (s.baseSlot + (Config.moraine m.val).imSlot) ||
      !s.observed (s.baseSlot + (Config.moraine m.val).imSlot) || (s.importOf m.val).isSome ||
      decide (s.job.step.toNat + 1 < (s.job.nextImp.getD m.val 0).toNat + d.lag)) = false := by
    rw [hstart, hslot, hnone, decide_eq_false (Nat.not_lt.2 hstep)]
    rfl
  change execMoraineImport m false s = _
  simp only [execMoraineImport, hd, hgate, hwr, State.readReturn_unanswered]
  rfl

section
variable {i : MorImport} (hi : s.importOf m.val = some i)
include hi

theorem execMoraineRecheck_good (hready : i.ready = none) {ok : Bool} {b : List Byte}
    (hread : s.readReturn d i.step.toNat ok = .good b) :
    let v := s.setImport m.val (some { i with ready := some b })
    exec (.moraineRecheck m ok) s = .next (if i.reread then v.countDigest (BitVec.ofNat 64 m.val) i.step else v) := by
  change execMoraineRecheck m ok s = _
  simp only [execMoraineRecheck, hd, hi, hready, hread]
  cases i.reread <;> rfl

/-- A re-read that does not match ends the job (R328). -/
theorem execMoraineRecheck_ends (hready : i.ready = none) (hre : i.reread = true) {ok : Bool}
    (hread : s.readReturn d i.step.toNat ok = .bad ∨ s.readReturn d i.step.toNat ok = .late) :
    exec (.moraineRecheck m ok) s = .next (s.endJob 4 (BitVec.ofNat 64 m.val)) := by
  change execMoraineRecheck m ok s = _
  obtain hread | hread := hread <;> simp [execMoraineRecheck, hd, hi, hready, hread, hre]

/-- An import still late at its TIMEOUT ends the job (R328). -/
theorem execMoraineTimeout_ends (hready : i.ready = none) (hre : i.reread = false)
    (h : i.start.toNat + d.timeout * 1000000 ≤ s.gtc.count.toNat) :
    exec (.moraineTimeout m) s = .next (s.endJob 5 (BitVec.ofNat 64 m.val)) := by
  change execMoraineTimeout m s = _
  simp [execMoraineTimeout, hd, hi, hready, hre, h]

/-- Before its TIMEOUT an import is awaited (R328). -/
theorem execMoraineTimeout_waits (h : s.gtc.count.toNat < i.start.toNat + d.timeout * 1000000) :
    exec (.moraineTimeout m) s = .next s := by
  change execMoraineTimeout m s = _
  simp [execMoraineTimeout, hd, hi, h]

/-- A completed import writes its payload, if it has one, and then its import word (R328, R329). -/
theorem execMoraineImportComplete_done {im : Image} {b : List Byte} {r : Region} (him : s.job.image = some im)
    (hready : i.ready = some b) (hr : im.regions[d.region]? = some r) :
    exec (.moraineImportComplete m) s = .next
      (((s.hbmWrSome r.base b).hbmWr d.importw (leBytes 8 0)).noteImport m.val i.step) := by
  change execMoraineImportComplete m s = _
  simp only [execMoraineImportComplete, hd, hi, him, hready, hr]
  rfl

end
end

/-! ### The obligation -/

/-- Settles O28: each instruction of the engine, in the case it meets, is writes to host memory or HBM whose bytes read
back, and a note in the job. -/
theorem moraineExportsAndImports : Obligations.MoraineExportsAndImports := by
  unfold Obligations.MoraineExportsAndImports
  intro s m d plan hd
  have himage := State.image_isSome_of_morDecl hd
  refine ⟨fun p a => ?exports, fun ok hscat => execMoraineExport_waits hscat ok, fun k => ?imports,
    fun i b hi hready => ⟨fun hread => ?agrees, fun ok hread hre hpending => ?differs, fun hre htime hpending => ?timeout,
      fun _ htime => execMoraineTimeout_waits hd hi htime⟩,
    fun i im b r j k hi him hready hr hlocj huej hlock huek hapart => ?completes⟩
  case exports =>
    intro skip payload hstart hslot hscat hmaster hnew hcount hwin
    have hlen : (s.exportRecord m).length = 64 + payload.length := s.exportRecord_length m
    refine ⟨_, execMoraineExport_writes hd hstart ((s.observed_iff _).2 hslot) hscat hmaster hnew (hlen ▸ hwin), ?_⟩
    have hfield {o n : Nat} (h : o + n ≤ 64) :
        leNat ((s.hostWr p a (s.exportRecord m)).hostRd p (a + o) n) = leAt (s.exportRecord m) o n :=
      s.leNat_hostRd_hostWr p a (by omega)
    obtain ⟨hkind, hskip, hm, hseq, hcnt, hdigest, hpayload⟩ := s.exportRecord_fields m hcount
    refine ⟨(hfield (o := 0) (by decide)).trans hkind, (hfield (by decide)).trans hskip, (hfield (by decide)).trans hm,
      (hfield (by decide)).trans hseq, (hfield (by decide)).trans hcnt, (hfield (by decide)).trans hdigest, ?_,
      List.mem_cons_self, ?_⟩
    · exact (s.hostRd_hostWr_part p a hlen.ge).trans hpayload
    · rw [s.hostWr_frame]
  case imports =>
    intro step hstart hslot hnone hstep hloc hue
    refine ⟨_, execMoraineImport_late hd hstart ((s.observed_iff _).2 hslot) hnone hstep hloc hue, ?_⟩
    have hread := s.leNat_rd_wr_leBytes k 8 1
    have hothers (a : Nat) (ha : a < k ∨ k + 8 ≤ a) := s.read_wr_apart (k := k) (bs := leBytes 8 1) (by rwa [leBytes_length])
    have hframe := s.wr_frame k (leBytes 8 1)
    generalize s.wr k (leBytes 8 1) = v at *
    obtain ⟨gtc, hlate, hfixed, hfree⟩ := v.countLate_eq
    rw [hlate]
    refine ⟨hread, ?_, hothers, ⟨s.lateImport m, State.importOf_setImport_some _ rfl, rfl, rfl, ?_⟩, ?_, ?_⟩
    · rw [hframe]
      rfl
    · exact BitVec.toNat_ofNat ..
    · rw [hframe] at hfixed
      exact hfixed
    · rw [hframe] at hfree
      exact hfree
  case agrees =>
    refine ⟨_, execMoraineRecheck_good hd hi hready hread, ?_⟩
    have hdecl := State.importOf_decl hi
    have himport := s.importOf_setImport_some (i := { i with ready := some b }) hdecl
    by_cases hre : i.reread = true
    case pos =>
      obtain ⟨routers, lom, integ, hcount⟩ := (s.setImport m.val (some { i with ready := some b })).countDigest_eq
        (BitVec.ofNat 64 m.val) i.step
      rw [if_pos hre, if_pos hre, hcount]
      exact ⟨himport, rfl, rfl⟩
    case neg =>
      rw [if_neg hre, if_neg hre]
      exact ⟨himport, rfl, rfl⟩
  case differs =>
    obtain ⟨hframe, hpend⟩ := s.endJob_job 4 (BitVec.ofNat 64 m.val)
    exact ⟨_, execMoraineRecheck_ends hd hi hready hre hread, hpend himage hpending, hframe⟩
  case timeout =>
    obtain ⟨hframe, hpend⟩ := s.endJob_job 5 (BitVec.ofNat 64 m.val)
    exact ⟨_, execMoraineTimeout_ends hd hi hready hre htime, hpend himage hpending, hframe⟩
  case completes =>
    have hexec := execMoraineImportComplete_done hd hi him hready hr
    obtain ⟨hread, hothers, hlocate, hkeeps, hframe⟩ := State.hbmWrSome_frame hlocj huej
    generalize s.hbmWrSome r.base b = v at *
    have hwr : v.hbmWr d.importw (leBytes 8 0) = v.wr k (leBytes 8 0) :=
      State.hbmWr_eq_wr (by rw [hlocate, hlock]) (by rw [leBytes_length]; exact hkeeps k 8 huek)
    rw [hwr] at hexec
    refine ⟨_, hexec, ?_, ?_, fun a ha ha' => ?_, State.importOf_setImport_none _ _, List.mem_cons_self, ?_⟩
    · exact (v.rd_wr_apart (by rw [leBytes_length]; omega)).trans hread
    · exact v.leNat_rd_wr_leBytes k 8 0
    · exact (v.read_wr_apart (by rwa [leBytes_length])).trans (hothers a ha)
    · rw [v.wr_frame, hframe]
      rfl

end Sys2Proof.Machine
end

section
/-!
SUPPORT. Lane maps and lane masks (R371): what a map made of lane codes reads, and the mask of one lane.
-/
namespace Sys2Proof.Machine

theorem laneAt_eq (map : BitVec 32) (n : Nat) : laneAt map n = map.toNat / 16 ^ n % 16 := by
  rw [laneAt, bits, Nat.shiftRight_eq_div_pow, Nat.pow_mul]
  rfl

theorem laneAt_lt (map : BitVec 32) (n : Nat) : laneAt map n < 16 := by
  rw [laneAt_eq]
  exact Nat.mod_lt _ (by decide)

/-- Two digits to a byte, least significant first: digit `n` of the number the bytes spell. -/
theorem leNat_tab_digits (k : Nat) {f : Nat → Nat} (hf : ∀ i, f i < 16) {n : Nat} (hn : n < 2 * k) :
    leNat (tab k fun i => BitVec.ofNat 8 (f (2 * i) + 16 * f (2 * i + 1))) / 16 ^ n % 16 = f n := by
  induction k generalizing f n with
  | zero => omega
  | succ k ih =>
    have h0 : f (2 * 0) < 16 := hf 0
    have h1 : f (2 * 0 + 1) < 16 := hf 1
    have hrest := @ih (fun i => f (i + 2)) (fun i => hf (i + 2))
    rw [tab_succ, leNat, BitVec.toNat_ofNat]
    generalize leNat (tab k fun i => BitVec.ofNat 8 (f (2 * (i + 1)) + 16 * f (2 * (i + 1) + 1))) = v at *
    match n with
    | 0 => change _ % 16 = f (2 * 0); omega
    | 1 => change _ % 16 = f (2 * 0 + 1); omega
    | n + 2 =>
      have hsplit : ((f (2 * 0) + 16 * f (2 * 0 + 1)) % 2 ^ 8 + 256 * v) / 16 ^ (n + 2) = v / 16 ^ n := by
        rw [Nat.pow_add', ← Nat.div_div_eq_div_mul]
        congr 1
        omega
      rw [hsplit]
      exact hrest (by omega)

/-- A map made of lane codes gives each back, and 15 beyond them. -/
theorem laneAt_mapOf {l : List Nat} (h : ∀ c ∈ l, c < 16) {n : Nat} (hn : n < 8) : laneAt (mapOf l) n = l.getD n 15 := by
  have hcode (i : Nat) : l.getD i 15 < 16 := by
    rw [List.getD_eq_getElem?_getD]
    cases hi : l[i]? with
    | none => decide
    | some c => exact h c (List.mem_of_getElem? hi)
  have hlt := leNat_lt (tab 4 fun i => BitVec.ofNat 8 (l.getD (2 * i) 15 + 16 * l.getD (2 * i + 1) 15))
  rw [tab_length] at hlt
  rw [laneAt_eq, mapOf, BitVec.toNat_ofNat, Nat.mod_eq_of_lt hlt]
  exact leNat_tab_digits 4 hcode hn

theorem onesOf_lane : ∀ lane : Fin 8, onesOf (BitVec.ofNat 8 (2 ^ lane.val)) = [lane.val] := by decide

end Sys2Proof.Machine
end

section
/-!
SUPPORT. What a port does with frames (R346 to R353): the frames its transmitter makes, the header of a good frame, errors on
a lane, REPLAY_REQ and the frames it brings back, each as a change of one port.
-/
namespace Sys2Proof.Machine
open Host

/-! ### A change of one port -/

/-- A state that differs in one port differs in what that port has become. -/
theorem State.modPort_eq_const (s : State) (p : PortId) (f : LPort → LPort) :
    s.modPort p f = s.modPort p fun _ => (s.modPort p f).port p :=
  State.modPort_congr (s.port_modPort p f).symm

theorem State.modPort_of_fixed {s : State} {p : PortId} {f : LPort → LPort} (h : f (s.port p) = s.port p) :
    s.modPort p f = s := by
  rw [State.modPort_congr (g := fun x => x) h]
  simp [State.modPort]

/-! ### The transmitter (R348, R351) -/

/-- The transmitter makes frames of its stream, which join the replay buffer while it has room; nothing else of the port
changes. -/
theorem LPort.frames_eq (n : Nat) (x : LPort) : ∃ seq made stream first,
    LPort.frames n x = { x with
      txSeq := seq, replayBuf := x.replayBuf ++ made, outbox := x.outbox ++ made, txStream := stream, txFirst := first } ∧
    (x.replayBuf ++ made).length ≤ max 1024 x.replayBuf.length := by
  induction n generalizing x with
  | zero => exact ⟨x.txSeq, [], x.txStream, x.txFirst, by simp [LPort.frames], by simp⟩
  | succ n ih =>
    unfold LPort.frames
    split
    · exact ⟨x.txSeq, [], x.txStream, x.txFirst, by simp, by simp⟩
    next hroom =>
      dsimp only
      obtain ⟨seq, made, stream, first, heq, hlen⟩ := ih { x.emit .data
        (BitVec.ofNat 10 (match x.txFirst.find? fun o => o < 600 with | some o => o | none => 0x3FF)) (x.txStream.take 600) with
          txStream := x.txStream.drop 600
          txFirst := (x.txFirst.filter fun o => 600 ≤ o).map (· - 600) }
      simp only [LPort.emit, List.append_assoc] at heq hlen
      refine ⟨seq, _ :: made, stream, first, heq, hlen.trans ?_⟩
      rw [List.length_append, List.length_singleton]
      omega

theorem LPort.pump_eq (x : LPort) : ∃ seq made stream first,
    x.pump = { x with
      txSeq := seq, replayBuf := x.replayBuf ++ made, outbox := x.outbox ++ made, txStream := stream, txFirst := first } ∧
    (x.replayBuf ++ made).length ≤ max 1024 x.replayBuf.length := by
  unfold LPort.pump
  split
  · exact LPort.frames_eq _ x
  · exact ⟨x.txSeq, [], x.txStream, x.txFirst, by simp, by simp⟩

/-- With less than a frame's bytes in the stream no frame is made. -/
theorem LPort.pump_of_short {x : LPort} (h : x.txStream.length < 600) : x.pump = x := by
  rw [LPort.pump, Nat.div_eq_of_lt h]
  exact ite_self _

/-! ### The header of a good frame (R347, R348) -/

/-- What the header of a good frame changes before the transmitter goes on. -/
def LPort.acked (x : LPort) (ack : BitVec 20) (cvc : Fin 8) (ccnt : Nat) : LPort :=
  { x with
    replayBuf := x.replayBuf.filter fun f => !seqLe f.seq ack
    ctlPend := x.ctlPend.filter fun f => !seqLe f.seq ack
    credits := x.credits.set cvc (x.credits[cvc] + ccnt) }

/-- The header of a good frame takes away what it acknowledges and adds its credits; frames made meanwhile join the replay
buffer, and nothing else of the port changes. -/
theorem LPort.header_eq (x : LPort) (ack : BitVec 20) (cvc : Fin 8) (ccnt : Nat) : ∃ seq made stream first,
    x.header ack cvc ccnt = { x.acked ack cvc ccnt with
      txSeq := seq, replayBuf := (x.acked ack cvc ccnt).replayBuf ++ made, outbox := x.outbox ++ made
      txStream := stream, txFirst := first } ∧
    ((x.acked ack cvc ccnt).replayBuf ++ made).length ≤ max 1024 x.replayBuf.length := by
  obtain ⟨seq, made, stream, first, heq, hroom⟩ := (x.acked ack cvc ccnt).pump_eq
  exact ⟨seq, made, stream, first, heq, hroom.trans (max_le_max_left _ (List.length_filter_le ..))⟩

/-! ### Errors and replay requests (R346, R352) -/

/-- A note of an erroneous frame is kept with the port's others (R361). -/
theorem State.noteErr_eq (s : State) (p : PortId) (lane : Nat) (syms : Option Nat) : ∃ log,
    s.noteErr p lane syms = s.modPort p fun x => { x with errLog := log } :=
  ⟨((s.port p).errLog.filter fun e => decide (s.gtc.count.toNat ≤ e.time.toNat + 1000000)) ++ [⟨lane, s.gtc.count, syms⟩],
    State.modPort_congr rfl⟩

/-- Corrected symbols are counted, and their lane noted (R346, R361). -/
theorem State.corrected_eq (s : State) (p : PortId) (lane n : Nat) : ∃ log,
    s.corrected p lane n = s.modPort p fun x => { x with fecCorr := x.fecCorr + BitVec.ofNat 64 n, errLog := log } := by
  unfold State.corrected
  split
  next h =>
    subst h
    exact ⟨(s.port p).errLog, (State.modPort_of_fixed (by simp)).symm⟩
  next =>
    obtain ⟨log, hnote⟩ := (s.modPort p fun x => { x with fecCorr := x.fecCorr + BitVec.ofNat 64 n }).noteErr_eq p lane (some n)
    exact ⟨log, by rw [hnote, State.modPort_modPort]⟩

/-- A port that asks for a replay, once (R352). -/
def LPort.asking (x : LPort) : LPort :=
  if x.replayAsked then x else ({ x with replayAsked := true }).emitCtl (leBytes 1 1 ++ leBytes 3 x.rxSeq.toNat)

theorem State.askReplay_eq (s : State) (p : PortId) : s.askReplay p = s.modPort p LPort.asking := by
  unfold State.askReplay
  split
  next h => exact (State.modPort_of_fixed (f := LPort.asking) (if_pos h)).symm
  next h =>
    rw [State.sendCtl, State.modPort_modPort]
    exact State.modPort_congr (if_neg h).symm

/-- A port that has asked takes in no more of the stream for it, and sends REPLAY_REQ unless it had asked before. -/
theorem LPort.asking_frame (x : LPort) :
    x.asking.rxStream = x.rxStream ∧ x.asking.rxSeq = x.rxSeq ∧ x.asking.replayBuf = x.replayBuf ∧
      x.asking.credits = x.credits ∧ x.asking.fecUnc = x.fecUnc ∧ x.asking.replayAsked = true ∧
      (x.replayAsked = true → x.asking.outbox = x.outbox) ∧
      (x.replayAsked = false → ∃ g, x.asking.outbox = x.outbox ++ [g] ∧ g.ty = .ctrl ∧
        g.payload.take 4 = 1 :: leBytes 3 x.rxSeq.toNat) := by
  unfold LPort.asking
  split
  next h => exact ⟨rfl, rfl, rfl, rfl, rfl, h, fun _ => rfl, fun h' => by simp [h] at h'⟩
  next h => exact ⟨rfl, rfl, rfl, rfl, rfl, rfl, fun h' => absurd h' h, fun _ => ⟨_, rfl, rfl, rfl⟩⟩

/-- A frame beyond correction is counted, and a replay asked for (R346). -/
theorem State.uncorrectable_eq (s : State) (p : PortId) (lane : Nat) : ∃ log,
    s.uncorrectable p lane = s.modPort p fun x => LPort.asking { x with fecUnc := x.fecUnc + 1, errLog := log } := by
  obtain ⟨log, hnote⟩ := (s.modPort p fun x => { x with fecUnc := x.fecUnc + 1 }).noteErr_eq p lane none
  exact ⟨log, by rw [State.uncorrectable, hnote, State.askReplay_eq, State.modPort_modPort, State.modPort_modPort]⟩

/-! ### A frame arrives (R346 to R352) -/

/-- The lane a port hears is one of its width, on which it has declared no fault. -/
theorem LPort.hears_iff (x : LPort) (lane : Nat) :
    x.hears lane = true ↔ lane < x.width.toNat ∧ x.faultWait.getLsbD lane = false := by
  rw [LPort.hears, Bool.and_eq_true, decide_eq_true_iff, Bool.not_eq_true']

/-- A port in service takes what comes on a lane that it hears. -/
theorem LPort.takes_of_hears {x : LPort} {lane : Nat} (hactive : x.active = true) (hhears : x.hears lane = true) :
    ¬ (!x.active || decide (x.width.toNat ≤ lane) || x.faultWait.getLsbD lane) = true := by
  obtain ⟨hlane, hfault⟩ := (x.hears_iff lane).1 hhears
  rw [hactive, hfault, decide_eq_false (Nat.not_le.2 hlane)]
  exact Bool.false_ne_true

section
variable {s : State} {p : PortId} {f : Frame} {ty : Nat} (hactive : (s.port p).active = true)
  (hhears : (s.port p).hears f.lane.val = true)
include hactive hhears

/-- A codeword beyond correction, or a header that fails its check, is a frame lost (R346, R347). -/
theorem State.receive_unreadable (hbad : 12 < f.symErrs ∨ hdrOk f = false) :
    s.receive p f ty = .discarded (s.uncorrectable p f.lane.val) := by
  have hlost : (decide (12 < f.symErrs) || !hdrOk f) = true := by simpa using hbad
  exact (if_neg (LPort.takes_of_hears hactive hhears)).trans (if_pos hlost)

variable (herr : f.symErrs ≤ 12) (hok : hdrOk f = true) (hty : hdrType f.hdr = ty)
include herr hok hty

/-- A readable frame of the type is judged by its FSEQ, but for a DOWN frame (R352, R367). -/
theorem State.receive_readable : s.receive p f ty =
    let u := s.corrected p f.lane.val f.symErrs
    if ty = 4 then .accepted (u.modPort p fun x => x.header (hdrAck f.hdr) (hdrCvc f.hdr) (hdrCcnt f.hdr))
    else if hdrSeq f.hdr = (s.port p).rxSeq then
      .accepted (u.modPort p fun x => ({ x with rxSeq := x.rxSeq + 1, replayAsked := false }).header
        (hdrAck f.hdr) (hdrCvc f.hdr) (hdrCcnt f.hdr))
    else if seqLe (hdrSeq f.hdr) (s.port p).rxSeq then .discarded u
    else .discarded (u.askReplay p) := by
  have hread : ¬ (decide (12 < f.symErrs) || !hdrOk f) = true := by
    rw [hok, decide_eq_false (Nat.not_lt.2 herr)]
    exact Bool.false_ne_true
  exact (if_neg (LPort.takes_of_hears hactive hhears)).trans ((if_neg hread).trans (if_neg (not_not_intro hty)))

end

section
variable {s u : State} {p : PortId} {f : Frame} {ty : Nat} (name : String) (k : State → State)
  (hlen : f.payload.length = 600)
include hlen

theorem State.onFrame_of_length : s.onFrame p f ty name k = match s.receive p f ty with
    | .ignored => .next s
    | .discarded s => .next s
    | .accepted s => .next (k s) := by
  have hwf : f.WellFormed = true := by rw [Frame.WellFormed, hlen]; rfl
  rw [State.onFrame, hwf]
  rfl

theorem State.onFrame_accepted (h : s.receive p f ty = .accepted u) : s.onFrame p f ty name k = .next (k u) := by
  rw [State.onFrame_of_length name k hlen, h]

theorem State.onFrame_discarded (h : s.receive p f ty = .discarded u) : s.onFrame p f ty name k = .next u := by
  rw [State.onFrame_of_length name k hlen, h]

end

section
variable {s : State} {p : PortId} {f : Frame} (data : Bool) (hlen : f.payload.length = 600)
  (hactive : (s.port p).active = true) (hhears : (s.port p).hears f.lane.val = true)
include hlen hactive hhears

/-- The next DATA or IDLE frame is accepted: its header takes effect, and a DATA frame's payload joins the stream (R350). -/
theorem exec_frame_accepted (herr : f.symErrs ≤ 12) (hok : hdrOk f = true)
    (hty : hdrType f.hdr = if data then 0 else 1) (hseq : hdrSeq f.hdr = (s.port p).rxSeq) : ∃ log u,
    exec (if data then .frameData p f else .frameIdle p f) s = .next u ∧ u = s.modPort p (fun _ => u.port p) ∧
      let y := ({ s.port p with
        fecCorr := (s.port p).fecCorr + BitVec.ofNat 64 f.symErrs, errLog := log, rxSeq := (s.port p).rxSeq + 1
        replayAsked := false }).header (hdrAck f.hdr) (hdrCvc f.hdr) (hdrCcnt f.hdr)
      u.port p = { y with rxStream := if data then y.rxStream ++ f.payload else y.rxStream } := by
  obtain ⟨log, hcorrected⟩ := s.corrected_eq p f.lane.val f.symErrs
  have hreceive (ty : Nat) (hty : hdrType f.hdr = ty) (h4 : ty ≠ 4) :=
    (State.receive_readable hactive hhears herr hok hty).trans ((if_neg h4).trans (if_pos hseq))
  cases data with
  | true =>
    refine ⟨log, _, State.onFrame_accepted _ _ hlen (hreceive 0 hty (by decide)), ?_⟩
    rw [hcorrected, State.modPort_modPort, State.modPort_modPort]
    exact ⟨State.modPort_eq_const .., State.port_modPort ..⟩
  | false =>
    refine ⟨log, _, State.onFrame_accepted _ _ hlen (hreceive 1 hty (by decide)), ?_⟩
    rw [hcorrected, id, State.modPort_modPort]
    exact ⟨State.modPort_eq_const .., State.port_modPort ..⟩

/-- A DATA or IDLE frame beyond correction is counted, and a replay asked for (R346). -/
theorem exec_frame_unreadable (hbad : 12 < f.symErrs ∨ hdrOk f = false) : ∃ log,
    exec (if data then .frameData p f else .frameIdle p f) s =
      .next (s.modPort p fun x => LPort.asking { x with fecUnc := x.fecUnc + 1, errLog := log }) := by
  obtain ⟨log, hlost⟩ := s.uncorrectable_eq p f.lane.val
  refine ⟨log, ?_⟩
  rw [← hlost]
  cases data with
  | true => exact State.onFrame_discarded _ _ hlen (State.receive_unreadable hactive hhears hbad)
  | false => exact State.onFrame_discarded _ _ hlen (State.receive_unreadable hactive hhears hbad)

/-- A DATA or IDLE frame ahead of the FSEQ expected is discarded, and a replay asked for (R352). -/
theorem exec_frame_ahead (herr : f.symErrs ≤ 12) (hok : hdrOk f = true)
    (hty : hdrType f.hdr = if data then 0 else 1) (hahead : 2 ^ 19 ≤ ((s.port p).rxSeq - hdrSeq f.hdr).toNat) : ∃ log,
    exec (if data then .frameData p f else .frameIdle p f) s =
      .next (s.modPort p fun x => LPort.asking
        { x with fecCorr := x.fecCorr + BitVec.ofNat 64 f.symErrs, errLog := log }) := by
  obtain ⟨log, hcorrected⟩ := s.corrected_eq p f.lane.val f.symErrs
  have hne : hdrSeq f.hdr ≠ (s.port p).rxSeq := fun h => by
    rw [h, BitVec.sub_self] at hahead
    exact absurd hahead (by decide)
  have hafter : ¬ seqLe (hdrSeq f.hdr) (s.port p).rxSeq = true := by
    rw [seqLe, decide_eq_true_iff]
    exact Nat.not_lt.2 hahead
  have hreceive (ty : Nat) (hty : hdrType f.hdr = ty) (h4 : ty ≠ 4) :=
    (State.receive_readable hactive hhears herr hok hty).trans ((if_neg h4).trans ((if_neg hne).trans (if_neg hafter)))
  rw [hcorrected, State.askReplay_eq, State.modPort_modPort] at hreceive
  cases data with
  | true => exact ⟨log, State.onFrame_discarded _ _ hlen (hreceive 0 hty (by decide))⟩
  | false => exact ⟨log, State.onFrame_discarded _ _ hlen (hreceive 1 hty (by decide))⟩

end

end Sys2Proof.Machine
end

section
/-!
SUPPORT. Control messages and replay (R349, R352, R353): what a message that is heard does before its own effect, what is
resent and counted, and the obligation on frames.
-/
namespace Sys2Proof.Machine
open Host

/-! ### Control messages (R346, R349) -/

/-- A port that has heard a message: the symbols corrected in its frame are counted, and its header takes effect. -/
def LPort.told (x : LPort) (h : CtlHeader) (log : List LaneErr) : LPort :=
  ({ x with fecCorr := x.fecCorr + BitVec.ofNat 64 h.symErrs, errLog := log }).ctlHeader h

section
variable {s : State} {p : PortId} {h : CtlHeader} (hactive : (s.port p).active = true)
  (hhears : (s.port p).hears h.lane.val = true) (herr : h.symErrs ≤ 12)
include hactive hhears herr

/-- A message on a lane in service that can be read has its effect on the port that has heard it. -/
theorem State.onCtl_heard (k : State → State) : ∃ log, s.onCtl p h k = .next (k (s.modPort p fun x => x.told h log)) := by
  obtain ⟨log, hcorrected⟩ := s.corrected_eq p h.lane.val h.symErrs
  refine ⟨log, ?_⟩
  rw [State.onCtl, if_neg (LPort.takes_of_hears hactive hhears), if_neg (Nat.not_lt.2 herr), hcorrected,
    State.modPort_modPort]
  rfl

end

/-- With less than a frame's bytes in the stream, what a message changes of the port that hears it. -/
theorem LPort.told_of_short {x : LPort} (hshort : x.txStream.length < 600) (h : CtlHeader) (log : List LaneErr) :
    x.told h log = { x.acked h.ackseq h.cvc.toFin h.ccnt.toNat with
      fecCorr := x.fecCorr + BitVec.ofNat 64 h.symErrs, errLog := log } :=
  LPort.pump_of_short (x := { x.acked h.ackseq h.cvc.toFin h.ccnt.toNat with
    fecCorr := x.fecCorr + BitVec.ofNat 64 h.symErrs, errLog := log }) hshort

/-- What a message changes of the port that hears it, but for the frames made meanwhile. -/
theorem LPort.told_eq (x : LPort) (h : CtlHeader) (log : List LaneErr) : ∃ seq made stream first,
    x.told h log = { x.acked h.ackseq h.cvc.toFin h.ccnt.toNat with
      fecCorr := x.fecCorr + BitVec.ofNat 64 h.symErrs, errLog := log, txSeq := seq
      replayBuf := (x.acked h.ackseq h.cvc.toFin h.ccnt.toNat).replayBuf ++ made, outbox := x.outbox ++ made
      txStream := stream, txFirst := first } := by
  obtain ⟨seq, made, stream, first, heq, -⟩ := LPort.header_eq
    { x with fecCorr := x.fecCorr + BitVec.ofNat 64 h.symErrs, errLog := log } h.ackseq h.cvc.toFin h.ccnt.toNat
  exact ⟨seq, made, stream, first, heq⟩

/-! ### Replay (R352, R353) -/

/-- A port that sends frames of its replay buffer again, each on its logical lane with the FSEQ last accepted as its ACKSEQ,
counted when there are any. -/
def LPort.resend (x : LPort) (l : List TxFrame) : LPort :=
  { x with
    outbox := x.outbox ++ l.map fun f => { f with ack := x.rxSeq - 1, lanes := [f.seq.toNat % x.width.toNat] }
    replays := if l = [] then x.replays else x.replays + 1 }

theorem State.modPort_resend_nil (s : State) (p : PortId) : (s.modPort p fun x => x.resend []) = s :=
  State.modPort_of_fixed (by simp [LPort.resend])

/-- The GTC block after frames were sent again: a replay is a thaw event of cause 5 (R442). -/
abbrev State.replayCounted (s : State) (l : List TxFrame) (gtc : Gtc) : Prop :=
  (l ≠ [] → s.fixedFreq = true → gtc.thaw = s.gtc.thaw + 1 ∧ gtc.thawN[5] = s.gtc.thawN[5] + 1) ∧
    (l = [] ∨ s.fixedFreq = false → gtc = s.gtc)

/-- What is resent of the replay buffer, from a FSEQ on. -/
theorem State.replayFrom_eq (s : State) (p : PortId) (seq : BitVec 20) :
    let l := (s.port p).replayBuf.filter fun f => seqLe seq f.seq
    ∃ gtc, s.replayFrom p seq = { s.modPort p fun x => x.resend l with gtc := gtc } ∧ s.replayCounted l gtc := by
  intro l
  unfold State.replayFrom
  by_cases hl : l = []
  · refine ⟨s.gtc, ?_, fun h => absurd hl h, fun _ => rfl⟩
    rw [if_pos (List.isEmpty_iff.2 hl), hl, s.modPort_resend_nil p]
  · rw [if_neg (fun h => hl (List.isEmpty_iff.1 h))]
    have hport : (s.modPort p fun x => x.resend l) = s.modPort p fun x => { x with
        outbox := x.outbox ++ l.map fun f => { f with ack := x.rxSeq - 1, lanes := [f.seq.toNat % x.width.toNat] }
        replays := x.replays + 1 } := by simp [LPort.resend, hl]
    rw [← hport]
    by_cases hfixed : s.fixedFreq = true
    · obtain ⟨gtc, heq, hthaw, hcause⟩ := State.thawEvent_fixed (s := s.modPort p fun x => x.resend l) hfixed 5
      exact ⟨gtc, heq, fun _ _ => ⟨hthaw, by rw [hcause]; exact Vector.getElem_set_self ..⟩,
        fun h => absurd hfixed (by simpa [hl] using h)⟩
    · exact ⟨s.gtc, if_neg hfixed, fun _ h => absurd h hfixed, fun _ => rfl⟩

/-- Frames of which none is ahead of the first are all resent. -/
theorem State.replayAll_eq {s : State} {p : PortId}
    (h : ∀ g ∈ (s.port p).replayBuf, (g.seq - ((s.port p).replayBuf.headD g).seq).toNat < 2 ^ 19) :
    ∃ gtc, s.replayAll p = { s.modPort p fun x => x.resend (s.port p).replayBuf with gtc := gtc } ∧
      s.replayCounted (s.port p).replayBuf gtc := by
  unfold State.replayAll
  cases hbuf : (s.port p).replayBuf with
  | nil => exact ⟨s.gtc, by rw [s.modPort_resend_nil p], fun h => absurd rfl h, fun _ => rfl⟩
  | cons f rest =>
    rw [hbuf] at h
    have hall : ((s.port p).replayBuf.filter fun g => seqLe f.seq g.seq) = f :: rest := by
      rw [hbuf]
      exact List.filter_eq_self.2 fun g hg => decide_eq_true (h g hg)
    have hfrom := s.replayFrom_eq p f.seq
    rwa [hall] at hfrom

/-- The credits after a good frame's header, channel by channel. -/
theorem LPort.acked_credits (x : LPort) (ack : BitVec 20) (cvc : Fin 8) (ccnt : Nat) :
    (x.acked ack cvc ccnt).credits = vtab 8 fun i =>
      if Fin.ofNat 8 i = cvc then x.credits.toList.getD i 0 + ccnt else x.credits.toList.getD i 0 := by
  refine Vector.ext fun i hi => ?_
  have hix : Fin.ofNat 8 i = cvc ↔ cvc.val = i := by
    rw [Fin.ext_iff, Fin.val_ofNat, Nat.mod_eq_of_lt hi, eq_comm]
  rw [vtab_getElem _ hi]
  simp only [LPort.acked, Vector.getElem_set, hix]
  by_cases h : cvc.val = i
  · subst h
    simp
  · simp [h, hi]

/-- What a replay, or the header of a message, leaves of the machine: the frames `l` resent, `kept` and `ctl` waiting for
acknowledgement, `more` sent with them, the credits `c`, `fixed` symbols corrected. -/
def State.resends (s : State) (p : PortId) (l kept ctl more : List TxFrame) (c : Vector Nat 8) (fixed : Nat) (u : State) :
    Prop :=
  u = { s with ports := u.ports, gtc := u.gtc } ∧
    u.ports = (s.modPort p fun x => { x with
      replayBuf := kept, credits := c, ctlPend := ctl, errLog := (u.port p).errLog
      fecCorr := x.fecCorr + BitVec.ofNat 64 fixed
      outbox := x.outbox ++ (l.map fun f => { f with
        ack := (s.port p).rxSeq - 1, lanes := [f.seq.toNat % (s.port p).width.toNat] }) ++ more
      replays := if l = [] then x.replays else x.replays + 1 }).ports ∧
    s.replayCounted l u.gtc

/-- One port changed as a replay changes it, and the replay counted. -/
theorem State.resends_modPort {s : State} {p : PortId} {l kept ctl more : List TxFrame} {c : Vector Nat 8} {fixed : Nat}
    {gtc : Gtc} {f : LPort → LPort} (hcount : s.replayCounted l gtc)
    (hf : f (s.port p) = { (s.port p).resend l with
      replayBuf := kept, credits := c, ctlPend := ctl, errLog := (f (s.port p)).errLog
      fecCorr := (s.port p).fecCorr + BitVec.ofNat 64 fixed, outbox := ((s.port p).resend l).outbox ++ more }) :
    s.resends p l kept ctl more c fixed { s.modPort p f with gtc := gtc } := by
  refine ⟨rfl, ?_, hcount⟩
  have hport : State.port { s.modPort p f with gtc := gtc } p = f (s.port p) := s.port_modPort p f
  rw [hport]
  exact congrArg (fun x => s.ports.set p x) hf

/-- The same with nothing resent. -/
theorem State.resends_nil_modPort {s : State} {p : PortId} {kept ctl : List TxFrame} {c : Vector Nat 8} {fixed : Nat}
    {f : LPort → LPort} (hf : f (s.port p) = { s.port p with
      replayBuf := kept, credits := c, ctlPend := ctl, errLog := (f (s.port p)).errLog
      fecCorr := (s.port p).fecCorr + BitVec.ofNat 64 fixed }) :
    s.resends p [] kept ctl [] c fixed (s.modPort p f) := by
  refine State.resends_modPort (f := f) (gtc := s.gtc) ⟨fun h => absurd rfl h, fun _ => rfl⟩ (hf.trans ?_)
  simp [LPort.resend]

/-- Without progress for 4 µs all unacknowledged frames are resent, the CTRL frames after them (R349, R352). -/
theorem exec_replayTimeout_resends {s : State} {p : PortId}
    (hahead : ∀ g ∈ (s.port p).replayBuf, (g.seq - ((s.port p).replayBuf.headD g).seq).toNat < 2 ^ 19)
    (hcarries : (s.port p).carries = true) : ∃ u, exec (.replayTimeout p) s = .next u ∧
      s.resends p (s.port p).replayBuf (s.port p).replayBuf (s.port p).ctlPend (s.port p).ctlPend (s.port p).credits 0 u := by
  obtain ⟨gtc, hreplay, hcount⟩ := State.replayAll_eq hahead
  refine ⟨_, congrArg Outcome.next (if_pos hcarries), ?_⟩
  rw [hreplay]
  change s.resends p _ _ _ _ _ 0 { (s.modPort p fun x => x.resend (s.port p).replayBuf).modPort p fun x =>
    { x with outbox := x.outbox ++ x.ctlPend } with gtc := gtc }
  rw [State.modPort_modPort]
  refine State.resends_modPort hcount ?_
  rw [show (s.port p).fecCorr + BitVec.ofNat 64 0 = (s.port p).fecCorr from BitVec.add_zero _]
  rfl

section
variable {s : State} {p : PortId} {h : CtlHeader} (hactive : (s.port p).active = true)
  (hshort : (s.port p).txStream.length < 600) (hhears : (s.port p).hears h.lane.val = true) (herr : h.symErrs ≤ 12)
include hactive hshort hhears herr

/-- REPLAY_REQ brings back what is unacknowledged from its FSEQ on, from a transmitter that carries frames (R352). -/
theorem exec_replayReq_resends (fseq : BitVec 20) : ∃ u, exec (.replayReq p h fseq) s = .next u ∧
    let y := (s.port p).acked h.ackseq h.cvc.toFin h.ccnt.toNat
    s.resends p (if (s.port p).carries then y.replayBuf.filter fun g => seqLe fseq g.seq else []) y.replayBuf y.ctlPend []
      y.credits h.symErrs u := by
  obtain ⟨log, hctl⟩ := State.onCtl_heard hactive hhears herr
    fun s => if (s.port p).carries then s.replayFrom p fseq else s
  have htold := LPort.told_of_short hshort h log
  have hsame : ((s.port p).told h log).carries = (s.port p).carries := by rw [htold]; rfl
  rw [State.port_modPort, hsame] at hctl
  refine ⟨_, hctl, ?_⟩
  intro y
  by_cases hcarries : (s.port p).carries = true
  · obtain ⟨gtc, hreplay, hcount⟩ := (s.modPort p fun x => x.told h log).replayFrom_eq p fseq
    rw [State.port_modPort, htold] at hreplay hcount
    rw [if_pos hcarries, if_pos hcarries, hreplay, State.modPort_modPort]
    refine State.resends_modPort hcount ?_
    rw [htold, List.append_nil]
    rfl
  · rw [if_neg hcarries, if_neg hcarries]
    exact State.resends_nil_modPort (by rw [htold]; rfl)

/-- CREDIT returns its counts to the eight channels (R349). -/
theorem exec_credit_resends {counts : List Nat} (hcounts : counts.length = 8) : ∃ u, exec (.credit p h counts) s = .next u ∧
    let y := (s.port p).acked h.ackseq h.cvc.toFin h.ccnt.toNat
    s.resends p [] y.replayBuf y.ctlPend [] (vtab 8 fun i => y.credits.toList.getD i 0 + counts.getD i 0) h.symErrs u := by
  obtain ⟨log, hctl⟩ := State.onCtl_heard hactive hhears herr fun s => s.modPort p fun x =>
    { x with credits := vtab 8 fun i => x.credits.toList.getD i 0 + counts.getD i 0 }
  refine ⟨_, (if_neg (not_not_intro hcounts)).trans hctl, ?_⟩
  have htold := LPort.told_of_short hshort h log
  rw [State.modPort_modPort]
  exact State.resends_nil_modPort (by rw [htold]; rfl)

end

/-! ### The obligation -/

/-- Settles O20: a DATA or IDLE frame by what its reception finds, and each replay as the change of one port with its
count. -/
theorem framesArriveAndReplay : Obligations.FramesArriveAndReplay := by
  unfold Obligations.FramesArriveAndReplay
  constructor
  case left =>
    intro s p f data x c hlen hactive hhears
    refine ⟨fun herr hok hty hseq => ?_, fun hbad => ?_⟩
    case refine_1 =>
      obtain ⟨log, u, hexec, honly, hport⟩ := exec_frame_accepted data hlen hactive hhears herr hok hty hseq
      refine ⟨u, hexec, honly, ?_⟩
      obtain ⟨seq, made, stream, first, hheader, hroom⟩ := LPort.header_eq { x with
        fecCorr := x.fecCorr + BitVec.ofNat 64 f.symErrs, errLog := log, rxSeq := x.rxSeq + 1, replayAsked := false }
        (hdrAck f.hdr) (hdrCvc f.hdr) (hdrCcnt f.hdr)
      rw [hport, hheader]
      refine ⟨rfl, rfl, rfl, rfl, ?_, fun i hi => ?_, List.prefix_append .., hroom, rfl, rfl⟩
      · exact Vector.getElem_set_self (hdrCvc f.hdr).isLt
      · exact Vector.getElem_set_ne (hdrCvc f.hdr).isLt i.isLt fun h => hi (Fin.ext h.symm)
    case refine_2 =>
      by_cases hread : 12 < f.symErrs ∨ hdrOk f = false
      · obtain ⟨log, hexec⟩ := exec_frame_unreadable data hlen hactive hhears hread
        refine ⟨_, hexec, State.modPort_eq_const .., ?_⟩
        rw [State.port_modPort, if_pos hread]
        exact LPort.asking_frame { x with fecUnc := x.fecUnc + 1, errLog := log }
      · obtain ⟨hty, hahead⟩ := hbad.resolve_left hread
        obtain ⟨herr, hok⟩ := not_or.1 hread
        obtain ⟨log, hexec⟩ := exec_frame_ahead data hlen hactive hhears (Nat.not_lt.1 herr) (by simpa using hok) hty hahead
        refine ⟨_, hexec, State.modPort_eq_const .., ?_⟩
        rw [State.port_modPort, if_neg hread]
        exact LPort.asking_frame { x with fecCorr := x.fecCorr + BitVec.ofNat 64 f.symErrs, errLog := log }
  case right =>
    intro s p h x waits kept back resent hactive hshort
    refine ⟨fun hahead hcarries => exec_replayTimeout_resends hahead hcarries, fun hcarries => ?_, fun hhears herr => ?_⟩
    · exact congrArg Outcome.next (if_neg (by simp [show (s.port p).carries = false from hcarries]))
    have hcredits := (s.port p).acked_credits h.ackseq h.cvc.toFin h.ccnt.toNat
    refine ⟨fun fseq => ?_, fun counts hcounts => ?_⟩
    · obtain ⟨u, hexec, hresends⟩ := exec_replayReq_resends hactive hshort hhears herr fseq
      simp only [hcredits] at hresends
      exact ⟨u, hexec, hresends⟩
    · obtain ⟨u, hexec, hresends⟩ := exec_credit_resends hactive hshort hhears herr hcounts
      have heach : (vtab 8 fun i => ((s.port p).acked h.ackseq h.cvc.toFin h.ccnt.toNat).credits.toList.getD i 0 + counts.getD i 0) =
          vtab 8 fun i => back (x.credits.toList.getD i 0) (Fin.ofNat 8 i) + counts.getD i 0 :=
        vtab_congr fun i hi => by
          rw [hcredits]
          exact congrArg (· + counts.getD i 0) (tab_getD _ 0 hi)
      simp only [heach] at hresends
      exact ⟨u, hexec, hresends⟩

end Sys2Proof.Machine
end

section
/-!
SUPPORT. The spare lanes of a port (R342, R362, R365), and the training of a port (R354 to R358) with its obligation.
-/
namespace Sys2Proof.Machine
open Host

/-! ### Spares -/

theorem State.modSpare_eq (s : State) (g : Fin 4) (k : Nat) (f : Spare → Spare) :
    ∃ spares, s.modSpare g k f = { s with spares := spares } := by
  unfold State.modSpare
  split <;> exact ⟨_, rfl⟩

theorem State.spare_modSpare (s : State) (p : PortId) {k : Nat} (hk : k < 4) (f : Spare → Spare) :
    (s.modSpare (groupOf p) k f).spare p k = f (s.spare p k) := by
  simp [State.modSpare, State.spare, hk]

theorem State.spare_modSpare_ne (s : State) (p : PortId) {j k : Nat} (h : j ≠ k) (f : Spare → Spare) :
    (s.modSpare (groupOf p) k f).spare p j = s.spare p j := by
  by_cases hk : k < 4
  · simp [State.modSpare, State.spare, hk, Vector.getElem?_set_ne _ h.symm]
  · simp [State.modSpare, hk]

/-- Each of a port's spares that meets a condition, changed. -/
def State.mapSpares (s : State) (p : PortId) (c : Nat → Spare → Bool) (f : Nat → Spare → Spare) (n : Nat) : State :=
  (List.range n).foldl (fun s k => if c k (s.spare p k) then s.modSpare (groupOf p) k (f k) else s) s

section
variable (s : State) (p : PortId) (c : Nat → Spare → Bool) (f : Nat → Spare → Spare)

theorem State.mapSpares_succ (n : Nat) : s.mapSpares p c f (n + 1) =
    let u := s.mapSpares p c f n
    if c n (u.spare p n) then u.modSpare (groupOf p) n (f n) else u := by
  rw [State.mapSpares, List.range_succ, List.foldl_append]
  rfl

theorem State.mapSpares_eq (n : Nat) : ∃ spares, s.mapSpares p c f n = { s with spares := spares } := by
  induction n with
  | zero => exact ⟨s.spares, rfl⟩
  | succ n ih =>
    obtain ⟨spares, heq⟩ := ih
    rw [State.mapSpares_succ, heq]
    dsimp only
    split
    · exact State.modSpare_eq _ (groupOf p) n (f n)
    · exact ⟨spares, rfl⟩

/-- Each spare below the bound is changed by itself, and no other. -/
theorem State.spare_mapSpares {n : Nat} (hn : n ≤ 4) (k : Nat) : (s.mapSpares p c f n).spare p k =
    if k < n ∧ c k (s.spare p k) = true then f k (s.spare p k) else s.spare p k := by
  induction n with
  | zero => rfl
  | succ n ih =>
    have hbefore := ih (Nat.le_of_succ_le hn)
    rw [State.mapSpares_succ]
    dsimp only
    generalize s.mapSpares p c f n = u at *
    by_cases hkn : k = n
    · subst hkn
      rw [if_neg (fun h => Nat.lt_irrefl k h.1)] at hbefore
      rw [hbefore]
      by_cases hc : c k (s.spare p k) = true
      · rw [if_pos hc, if_pos ⟨Nat.lt_succ_self k, hc⟩, u.spare_modSpare p hn, hbefore]
      · rw [if_neg hc, if_neg (fun h => hc h.2), hbefore]
    · have hrest : (if c n (u.spare p n) then u.modSpare (groupOf p) n (f n) else u).spare p k = u.spare p k := by
        split
        · exact u.spare_modSpare_ne p hkn _
        · rfl
      rw [hrest, hbefore]
      have hlt : k < n + 1 ↔ k < n := by omega
      simp only [hlt]

end

theorem State.setSpares_eq_mapSpares (s : State) (p : PortId) (codes : List Nat) : s.setSpares p codes =
    s.mapSpares p (fun _ x => x.home.toNat == p.val % 5 && (x.state == .standby || x.state == .inUse))
      (fun k x => { x with state := if codes.contains (8 + k) then .inUse else .standby }) 4 := by
  unfold State.setSpares State.mapSpares
  rfl

theorem State.takeReturned_eq_mapSpares (s : State) (p : PortId) : s.takeReturned p =
    s.mapSpares p (fun _ x => x.home.toNat == p.val % 5) (fun _ x => { x with returned := false }) 4 := by
  unfold State.takeReturned State.mapSpares
  rfl

theorem State.freeUsed_eq_mapSpares (s : State) (p : PortId) : s.freeUsed p =
    s.mapSpares p (fun _ x => x.home.toNat == p.val % 5 && x.state == .inUse) (fun _ x => { x with state := .standby }) 4 := by
  unfold State.freeUsed State.mapSpares
  rfl

theorem State.setSpares_eq (s : State) (p : PortId) (codes : List Nat) :
    ∃ spares, s.setSpares p codes = { s with spares := spares } := by
  rw [State.setSpares_eq_mapSpares]
  exact s.mapSpares_eq p _ _ 4

theorem State.takeReturned_eq (s : State) (p : PortId) : ∃ spares, s.takeReturned p = { s with spares := spares } := by
  rw [State.takeReturned_eq_mapSpares]
  exact s.mapSpares_eq p _ _ 4

theorem State.freeUsed_eq (s : State) (p : PortId) : ∃ spares, s.freeUsed p = { s with spares := spares } := by
  rw [State.freeUsed_eq_mapSpares]
  exact s.mapSpares_eq p _ _ 4

/-- A map takes a wired spare into service, or leaves it standing by (R374). -/
theorem State.setSpares_state {s : State} {p : PortId} {k : Nat} (hk : k < 4) (hhome : s.spareHome p k = true)
    (hstate : (s.spare p k).state = .standby ∨ (s.spare p k).state = .inUse) (codes : List Nat) :
    ((s.setSpares p codes).spare p k).state = if 8 + k ∈ codes then .inUse else .standby := by
  have hc : ((s.spare p k).home.toNat == p.val % 5 &&
      ((s.spare p k).state == .standby || (s.spare p k).state == .inUse)) = true := by
    rw [show ((s.spare p k).home.toNat == p.val % 5) = true from hhome]
    simpa using hstate
  rw [State.setSpares_eq_mapSpares, State.spare_mapSpares _ _ _ _ (Nat.le_refl 4), if_pos ⟨hk, hc⟩]
  simp only [List.contains_iff_mem]

theorem State.takeReturned_spare (s : State) (p : PortId) (k : Nat) :
    ((s.takeReturned p).spare p k).state = (s.spare p k).state ∧ (s.takeReturned p).spareHome p k = s.spareHome p k := by
  rw [State.spareHome, State.takeReturned_eq_mapSpares, State.spare_mapSpares _ _ _ _ (Nat.le_refl 4)]
  split <;> exact ⟨rfl, rfl⟩

/-- A wired spare in use is left standing by (R366). -/
theorem State.freeUsed_state {s : State} {p : PortId} {k : Nat} (hk : k < 4) (hhome : s.spareHome p k = true)
    (hstate : (s.spare p k).state = .inUse) : ((s.freeUsed p).spare p k).state = .standby := by
  have hc : ((s.spare p k).home.toNat == p.val % 5 && (s.spare p k).state == .inUse) = true := by
    rw [show ((s.spare p k).home.toNat == p.val % 5) = true from hhome, hstate]
    rfl
  rw [State.freeUsed_eq_mapSpares, State.spare_mapSpares _ _ _ _ (Nat.le_refl 4), if_pos ⟨hk, hc⟩]

/-- A port's spares once it has trained: those returned may be taken again, those of the map are in use. -/
def State.fitted (s : State) (p : PortId) (codes : List Nat) : State := (s.takeReturned p).setSpares p codes

theorem State.fitted_eq (s : State) (p : PortId) (codes : List Nat) :
    ∃ spares, s.fitted p codes = { s with spares := spares } := by
  obtain ⟨returned, hreturned⟩ := s.takeReturned_eq p
  obtain ⟨spares, hspares⟩ := (s.takeReturned p).setSpares_eq p codes
  exact ⟨spares, by rw [State.fitted, hspares, hreturned]⟩

theorem State.fitted_port (s : State) (p q : PortId) (codes : List Nat) : (s.fitted p codes).port q = s.port q := by
  obtain ⟨spares, heq⟩ := s.fitted_eq p codes
  rw [heq]
  rfl

theorem State.fitted_state {s : State} {p : PortId} {k : Nat} (hk : k < 4) (hhome : s.spareHome p k = true)
    (hstate : (s.spare p k).state = .standby ∨ (s.spare p k).state = .inUse) (codes : List Nat) :
    ((s.fitted p codes).spare p k).state = if 8 + k ∈ codes then .inUse else .standby := by
  obtain ⟨hsame, hwired⟩ := s.takeReturned_spare p k
  exact State.setSpares_state hk (hwired.trans hhome) (by rwa [hsame]) codes

/-! ### Training (R354 to R358) -/

theorem State.replayAll_of_nil {s : State} {p : PortId} (h : (s.port p).replayBuf = []) : s.replayAll p = s := by
  rw [State.replayAll, h]

theorem onesOf_eq_filter {n : Nat} (w : BitVec n) : onesOf w = (List.range n).filter fun i => w.getLsbD i := rfl

/-- The lanes that both ends have brought through training. -/
theorem onesOf_and {n : Nat} (a b : BitVec n) :
    onesOf (a &&& b) = (List.range n).filter fun i => a.getLsbD i && b.getLsbD i := by
  rw [onesOf_eq_filter]
  exact List.filter_congr fun i _ => BitVec.getLsbD_and

section
variable {s : State} {p : PortId} (o : ConfigOffer) (h : (s.port p).state = .config)
include h

/-- The lanes that both ends offer in CONFIG, as many as both widths allow. -/
def LPort.agreed (x : LPort) (o : ConfigOffer) : List Nat :=
  let common := onesOf (x.cand &&& o.lanes)
  common.take (min (min 8 common.length) (min x.maxw.toNat o.maxw.toNat))

/-- A port that has trained (R355, R358, R372). -/
def State.trained (s : State) (x : LPort) (o : ConfigOffer) : LPort :=
  { x with
    partner := some (o.addr, o.port), state := .active, width := BitVec.ofNat 4 (x.agreed o).length
    laneMap := mapOf (x.agreed o), half := x.halfRate || o.half
    initiator := decide (o.addr.toNat < (s.routers[0]).self.toNat), held := s.job.image.isSome, faultWait := 0
    retrainSent := false, retraining := false, trainFails := 0
    time := { x.time with seq := 0, rxSeq := 0, depth := 0xFF, locked := false, master := false, sent := [] } }

omit h in
theorem LPort.length_agreed (x : LPort) (o : ConfigOffer) : (x.agreed o).length =
    min (min 8 (onesOf (x.cand &&& o.lanes)).length) (min x.maxw.toNat o.maxw.toNat) := by
  rw [LPort.agreed, List.length_take]
  omega

theorem exec_linkConfigEnd_fails (hw : (s.port p).agreed o = []) :
    exec (.linkConfigEnd p o) s = .next ((s.modPort p fun x => { x with partner := some (o.addr, o.port) }).trainFail p) := by
  have hzero := (s.port p).length_agreed o
  rw [hw] at hzero
  exact (if_neg (not_not_intro h)).trans (if_pos hzero.symm)

theorem exec_linkConfigEnd_trains (hw : (s.port p).agreed o ≠ []) (hbuf : (s.port p).replayBuf = []) :
    exec (.linkConfigEnd p o) s =
      .next (((s.modPort p fun x => { x with partner := some (o.addr, o.port) }).fitted p ((s.port p).agreed o)).modPort p
        fun _ => s.trained (s.port p) o) := by
  have hlen := (s.port p).length_agreed o
  have hpos : min (min 8 (onesOf ((s.port p).cand &&& o.lanes)).length) (min (s.port p).maxw.toNat o.maxw.toNat) ≠ 0 :=
    fun h0 => hw (List.length_eq_zero_iff.1 (hlen.trans h0))
  have hport := State.fitted_port (s.modPort p fun x => { x with partner := some (o.addr, o.port) }) p p ((s.port p).agreed o)
  rw [State.port_modPort] at hport
  change execLinkConfigEnd p o s = _
  unfold execLinkConfigEnd
  rw [State.fitted, LPort.agreed] at hport ⊢
  rw [LPort.agreed] at hlen
  dsimp only at *
  rw [if_neg (not_not_intro h), if_neg hpos]
  generalize ((s.modPort p fun x => { x with partner := some (o.addr, o.port) }).takeReturned p).setSpares p _ = u at *
  refine congrArg Outcome.next ((State.replayAll_of_nil ?_).trans (State.modPort_congr ?_))
  · rw [State.port_modPort, hport]
    exact hbuf
  · rw [State.trained, LPort.agreed, hlen, hport]
    rfl

end

theorem initCredits_by_class : ∀ i : Fin 8, (vtab 8 initCredits)[i] = [128, 64, 256, 32].getD (i.val / 2) 0 := by decide

/-- The lane codes agreed on are lanes of the port or its spares, at most eight. -/
theorem LPort.agreed_lt {x : LPort} {o : ConfigOffer} {c : Nat} (hc : c ∈ x.agreed o) : c < 12 :=
  List.mem_range.1 (List.mem_of_mem_filter (List.mem_of_mem_take hc))

/-- The width, the lane map and the roles that CONFIG fixes. -/
theorem State.trained_frame (s : State) (x : LPort) (o : ConfigOffer) :
    let y := s.trained x o
    y.width.toNat = (x.agreed o).length ∧ (∀ n < (x.agreed o).length, some (laneAt y.laneMap n) = (x.agreed o)[n]?) ∧
      (∀ n < 8, (x.agreed o).length ≤ n → laneAt y.laneMap n = 15) := by
  intro y
  have hlen : (x.agreed o).length ≤ 8 := by
    rw [LPort.length_agreed]
    omega
  have hlane {n : Nat} (hn : n < 8) : laneAt y.laneMap n = (x.agreed o).getD n 15 :=
    laneAt_mapOf (fun c hc => (LPort.agreed_lt hc).trans (by decide)) hn
  refine ⟨BitVec.toNat_ofNat .. |>.trans (Nat.mod_eq_of_lt (by omega)), fun n hn => ?_, fun n hn hle => ?_⟩
  · rw [hlane (hn.trans_le hlen), List.getD_eq_getElem?_getD, List.getElem?_eq_getElem hn]
    rfl
  · rw [hlane hn, List.getD_eq_getElem?_getD, List.getElem?_eq_none hle]
    rfl

/-! ### The obligation -/

/-- Settles O21: each state's event by its branch, and CONFIG by the lanes agreed on, the port they make and its spares. -/
theorem trainingFollowsItsStates : Obligations.TrainingFollowsItsStates := by
  unfold Obligations.TrainingFollowsItsStates
  intro s p x goes failed
  have hchange {f : LPort → LPort} {y : LPort} (h : f x = y) : s.modPort p f = s.modPort p fun _ => y :=
    State.modPort_congr h
  refine ⟨fun h => ?detect, fun h => ?retrain, fun h locked => ?poll, fun h l => ?equalize, fun h l => ?align,
    fun h o => ?config⟩
  case detect =>
    have hretrain : (s.port p).state ≠ .retrain := fun h' => nomatch h.symm.trans h'
    refine ⟨_, (if_neg hretrain).trans ((if_neg (not_not_intro h)).trans (congrArg Outcome.next (hchange rfl))),
      rfl, rfl, rfl, rfl, rfl, rfl, rfl, initCredits_by_class⟩
  case retrain => exact (if_pos h).trans (congrArg Outcome.next (hchange rfl))
  case poll =>
    refine (if_neg (not_not_intro h)).trans ?_
    split
    · exact congrArg Outcome.next (hchange rfl)
    · exact congrArg Outcome.next (hchange rfl)
  case equalize => exact (if_neg (not_not_intro h)).trans (congrArg Outcome.next (hchange rfl))
  case align => exact (if_neg (not_not_intro h)).trans (congrArg Outcome.next (hchange rfl))
  case config =>
    intro common w
    have hcommon : common = onesOf (x.cand &&& o.lanes) := (onesOf_and ..).symm
    have hagreed : common.take w = x.agreed o := by rw [LPort.agreed, ← hcommon]
    have hlen : (x.agreed o).length = w := by rw [LPort.length_agreed, ← hcommon]
    refine ⟨fun hw => ?_, fun hw hbuf => ?_⟩
    · have hfails := exec_linkConfigEnd_fails o h (List.length_eq_zero_iff.1 (hlen.trans hw))
      rw [State.trainFail, State.modPort_modPort] at hfails
      exact hfails.trans (congrArg Outcome.next (hchange rfl))
    · have hexec := exec_linkConfigEnd_trains o h (fun h0 => hw (hlen.symm.trans (congrArg List.length h0))) hbuf
      have hspares (k : Nat) (hk : k < 4) (hhome : s.spareHome p k = true) (hstate) :=
        State.fitted_state (s := s.modPort p fun x => { x with partner := some (o.addr, o.port) }) hk hhome hstate (x.agreed o)
      have hports := State.fitted_port (s.modPort p fun x => { x with partner := some (o.addr, o.port) }) p
        (codes := x.agreed o)
      obtain ⟨spares, hfitted⟩ :=
        State.fitted_eq (s.modPort p fun x => { x with partner := some (o.addr, o.port) }) p (x.agreed o)
      generalize (s.modPort p fun x => { x with partner := some (o.addr, o.port) }).fitted p (x.agreed o) = u at *
      obtain ⟨hwidth, hlanes, hunused⟩ := s.trained_frame x o
      rw [hlen, ← hagreed] at hlanes
      rw [hlen] at hwidth hunused
      refine ⟨_, hexec, by rw [hfitted]; rfl, fun q hq => ?_, ?_⟩
      · rw [State.port_modPort_ne _ _ hq, hports, State.port_modPort_ne _ _ hq]
      · rw [State.port_modPort]
        refine ⟨rfl, hwidth, fun n hn => ?_, hunused, rfl, decide_eq_true_iff, rfl, Iff.rfl, fun k hk hhome hstate => ?_⟩
        · rw [hlanes n hn, List.getElem?_take_of_lt hn]
        · rw [hagreed]
          exact hspares k hk hhome hstate

end Sys2Proof.Machine
end

section
/-!
SUPPORT. Retrains, loss of a partner and DISABLE of a port (R354, R358 to R360, R366 to R369), and their obligation.
-/
namespace Sys2Proof.Machine
open Host

/-! ### Reports and the time parent -/

/-- A frame relayed joins the packets that leave by the west router, and no router register changes (R593). -/
theorem State.relayOut_net (s : State) (f : LomFrame) :
    ∃ netQ, s.relayOut f = s.modRouter .west fun r => { r with netQ := netQ } := by
  have hsame : s = s.modRouter .west fun r => { r with netQ := (s.router .west).netQ } :=
    s.modRouter_id .west |>.symm.trans (State.modRouter_congr rfl)
  unfold State.relayOut
  split
  · exact ⟨_, hsame⟩
  · dsimp only
    split
    · exact ⟨_, hsame⟩
    · exact ⟨_, State.modRouter_congr rfl⟩

/-- A report takes the next event number, is sent and is counted; no router register changes. -/
theorem State.report_net (s : State) (code : BitVec 16) (kind : UnitKind) (ix : Nat) (d0 d1 : Word) :
    ∃ netQ lom, (s.report code kind ix d0 d1).1 = { s with
      routers := (s.modRouter .west fun r => { r with netQ := netQ }).routers, lom := lom
      integ := { s.integ with evSeq := s.integ.evSeq + 1, evreps := s.integ.evreps + 1 } } := by
  unfold State.report State.sendReport State.sendLom
  dsimp only
  obtain ⟨netQ, hrelay⟩ := State.relayOut_net _ _
  rw [hrelay]
  exact ⟨netQ, _, rfl⟩

/-- Routers that differ in the packets leaving by the west one alone have every register as it was. -/
theorem State.onlyNet_of_routers {s u : State} {netQ : List Packet}
    (h : u.routers = (s.modRouter .west fun r => { r with netQ := netQ }).routers) : s.onlyNet u := by
  have hnet : (u.router .west).netQ = netQ := by
    rw [State.router, h]
    exact congrArg Router.netQ (s.router_modRouter .west _)
  rw [State.onlyNet, hnet]
  exact h

/-- A port other than the time parent leaves no gap in the time tree (R435). -/
theorem State.portLeft_of_other {s : State} {p : PortId} (h : s.gtc.parent.toNat ≠ p.val ∨ s.gtc.master = true) :
    s.portLeft p = s := by
  refine if_neg fun hparent => ?_
  obtain ⟨hmaster, hparent⟩ := Bool.and_eq_true_iff.1 hparent
  exact h.elim (fun h => h (beq_iff_eq.1 hparent)) fun h => by simp [h] at hmaster

/-! ### Retrains (R358 to R360) -/

/-- The bytes of a RETRAIN_REQ. -/
def LPort.retrainMsg (x : LPort) : List Byte := leBytes 1 5 ++ (leBytes 1 x.maxw.toNat ++ leBytes 1 x.halfRate.toNat)

section
variable {s : State} {p : PortId}

theorem State.retrain_swap (h : (s.port p).state = .swap) :
    s.retrain p = s.modPort p fun x => { x with retrainRq := false, retrainWait := true } := by
  rw [State.retrain, h]
  exact s.modPort_modPort p _ _

theorem State.retrain_follower (h : (s.port p).state = .active) (hini : (s.port p).initiator = false) :
    s.retrain p = s.modPort p fun x =>
      ({ x with retrainRq := false, retrainWait := false, retrainSent := true }).emitCtl x.retrainMsg := by
  rw [State.retrain, h, hini]
  simp only [State.sendRetrain, State.sendCtl, State.modPort_modPort, State.port_modPort, Bool.false_eq_true, if_false]
  exact State.modPort_congr rfl

/-- A port in RETRAIN. -/
def LPort.retrained (x : LPort) : LPort :=
  { x with state := .retrain, initiator := false, retrainWait := false, retraining := true }

theorem State.enterRetrain_eq (hparent : s.gtc.parent.toNat ≠ p.val ∨ s.gtc.master = true) :
    s.enterRetrain p = s.modPort p LPort.retrained :=
  State.portLeft_of_other hparent

theorem State.retrain_initiator (h : (s.port p).state = .active) (hini : (s.port p).initiator = true)
    (hparent : s.gtc.parent.toNat ≠ p.val ∨ s.gtc.master = true) :
    s.retrain p = s.modPort p fun x => LPort.retrained (({ x with retrainRq := false }).emitCtl x.retrainMsg) := by
  rw [State.retrain, h, hini]
  simp only [State.sendRetrain, State.sendCtl, State.modPort_modPort, State.port_modPort, if_true]
  refine (State.enterRetrain_eq (s := s.modPort p _) hparent).trans ?_
  rw [State.modPort_modPort]
  exact State.modPort_congr rfl

/-- On a message of code 5 either end of an ACTIVE port enters RETRAIN, the initiator saying so (R358, R359). -/
theorem State.retrain_either (h : (s.port p).state = .active)
    (hparent : s.gtc.parent.toNat ≠ p.val ∨ s.gtc.master = true) : ∃ f : LPort → LPort,
    (if (s.port p).initiator then s.retrain p else s.enterRetrain p) = s.modPort p (fun x => (f x).retrained) ∧
      ∀ x, (f x).fecCorr = x.fecCorr := by
  split
  next hini => exact ⟨_, State.retrain_initiator h hini hparent, fun _ => rfl⟩
  next => exact ⟨fun x => x, State.enterRetrain_eq hparent, fun _ => rfl⟩

end

/-! ### Loss (R366 to R369) -/

/-- A port that has lost its partner. -/
def LPort.lost (x : LPort) (reason : BitVec 4) : LPort :=
  { x with
    state := .lost, lossBit := true, lossRsn := reason, losses := x.losses + 1, initiator := false, width := 0
    laneMap := 0xFFFFFFFF, faultWait := 0, ctlPend := [], retrainWait := false, retrainSent := false
    retraining := false, swapOp := none }

theorem State.collPortLost_of_none {s : State} (h : s.job.colls = []) (p : PortId) : s.collPortLost p = s := by
  rw [State.collPortLost, h]
  rfl

/-- Neither a collective nor the time tree notices the loss of a port that none of them uses. -/
theorem State.loss_unnoticed {s : State} {p : PortId} (hcolls : s.job.colls = [])
    (hparent : s.gtc.parent.toNat ≠ p.val ∨ s.gtc.master = true) : (s.collPortLost p).portLeft p = s := by
  rw [State.collPortLost_of_none hcolls]
  exact State.portLeft_of_other hparent

theorem State.enterLost_eq (s : State) (p : PortId) (reason : BitVec 4) : s.enterLost p reason =
    ((((s.freeUsed p).modPort p fun x => x.lost reason).report 0x0004 .port p.val (BitVec.ofNat 64 p.val)
      (reason.setWidth 64)).1.collPortLost p).portLeft p := rfl

/-- A loss with no collective on the way, of a port that is not the time parent: the port is lost, its spares stand by
again, and a report is on its way. -/
theorem State.enterLost_frame {s : State} {p : PortId} (hcolls : s.job.colls = [])
    (hparent : s.gtc.parent.toNat ≠ p.val ∨ s.gtc.master = true) (reason : BitVec 4) :
    let u := s.enterLost p reason
    u.port p = (s.port p).lost reason ∧ (∀ p' ≠ p, u.port p' = s.port p') ∧
      (∀ k < 4, s.spareHome p k = true → (s.spare p k).state = .inUse → (u.spare p k).state = .standby) ∧
      u.integ.evSeq = s.integ.evSeq + 1 ∧ u.integ.evreps = s.integ.evreps + 1 ∧
      u = { s with ports := u.ports, spares := u.spares, integ := u.integ, lom := u.lom, routers := u.routers } ∧
      s.onlyNet u := by
  intro u
  have hspares (k : Nat) (hk : k < 4) (hhome : s.spareHome p k = true) (huse) := State.freeUsed_state hk hhome huse
  obtain ⟨spares, hfree⟩ := s.freeUsed_eq p
  rw [hfree] at hspares
  obtain ⟨netQ, lom, hreport⟩ := State.report_net (State.modPort { s with spares := spares } p fun x => x.lost reason)
    0x0004 .port p.val (BitVec.ofNat 64 p.val) (reason.setWidth 64)
  have hu : u = { s.modPort p (fun x => x.lost reason) with
      spares := spares, routers := (s.modRouter .west fun r => { r with netQ := netQ }).routers, lom := lom
      integ := { s.integ with evSeq := s.integ.evSeq + 1, evreps := s.integ.evreps + 1 } } := by
    rw [show u = s.enterLost p reason from rfl, State.enterLost_eq, hfree, hreport]
    exact State.loss_unnoticed hcolls hparent
  rw [hu]
  refine ⟨s.port_modPort p (fun x => x.lost reason), fun q hq => s.port_modPort_ne (fun x => x.lost reason) hq, hspares, rfl, rfl, rfl, ?_⟩
  exact State.onlyNet_of_routers rfl

/-! ### DISABLE (R354, R367) -/

/-- DOWN frames go out on every lane of a port that carries frames, and on none of another (R367). -/
theorem State.sendDown_eq (s : State) (p : PortId) : ∃ l,
    s.sendDown p = s.modPort p (fun x => { x with outbox := x.outbox ++ l }) ∧ (∀ g ∈ l, g.ty = .down) ∧
      l.length = if (s.port p).active then (s.port p).width.toNat else 0 := by
  unfold State.sendDown
  split
  · refine ⟨_, State.modPort_congr rfl, fun g hg => ?_, (List.length_map _).trans List.length_range⟩
    obtain ⟨n, -, rfl⟩ := List.mem_map.1 hg
    rfl
  · exact ⟨[], (State.modPort_of_fixed (by simp)).symm, by simp, rfl⟩

/-- A port that DISABLE has quieted. -/
def LPort.quieted (x : LPort) : LPort :=
  { x with
    state := .disabled, initiator := false, width := 0, laneMap := 0xFFFFFFFF, swapOp := none, faultWait := 0
    ctlPend := [], retrainWait := false, retrainSent := false, retraining := false }

section
variable {s : State} {p : PortId}

/-- DISABLE sends DOWN, frees the port's spares and quiets it. -/
theorem State.applyDisable_quiets (hd : (s.port p).disable = true) (hs : (s.port p).state ≠ .disabled)
    (hparent : s.gtc.parent.toNat ≠ p.val ∨ s.gtc.master = true) : ∃ l spares,
    s.applyDisable p = { s.modPort p fun x => LPort.quieted { x with outbox := x.outbox ++ l } with spares := spares } ∧
      (∀ g ∈ l, g.ty = .down) ∧ l.length = if (s.port p).active then (s.port p).width.toNat else 0 := by
  obtain ⟨l, hdown, hty, hlen⟩ := s.sendDown_eq p
  obtain ⟨spares, hfree⟩ := (s.sendDown p).freeUsed_eq p
  refine ⟨l, spares, ?_, hty, hlen⟩
  have hquiet : ((s.sendDown p).freeUsed p).modPort p LPort.quieted =
      { s.modPort p fun x => LPort.quieted { x with outbox := x.outbox ++ l } with spares := spares } := by
    rw [hfree, hdown, ← State.modPort_modPort s p _ LPort.quieted]
    rfl
  have hleft (b : Bool) (w : State) (hw : w.gtc = s.gtc) : (if b then w.portLeft p else w) = w := by
    rw [State.portLeft_of_other (by rwa [hw]), ite_self]
  rw [← hquiet]
  unfold State.applyDisable
  dsimp only
  rw [if_pos hd, if_neg (by simpa using hs)]
  refine hleft _ _ ?_
  rw [hfree, hdown]
  rfl

/-- A port whose DISABLE has ended looks for its partner, once the dies are out of reset. -/
theorem State.applyDisable_ends (hd : (s.port p).disable = false) (hs : (s.port p).state = .disabled)
    (hreset : s.boot.inReset = false) : s.applyDisable p = s.modPort p fun x => { x with state := .detect } := by
  unfold State.applyDisable
  dsimp only
  rw [hd, hs, hreset]
  rfl

end

/-! ### The obligation -/

/-- Settles O22: each event of a port by its branch, and the two losses by the one entry into LOST. -/
theorem portsLoseRetrainAndDisable : Obligations.PortsLoseRetrainAndDisable := by
  unfold Obligations.PortsLoseRetrainAndDisable
  constructor
  case left =>
    intro s p x goes
    have hchange {f : LPort → LPort} {y : LPort} (h : f x = y) : s.modPort p f = s.modPort p fun _ => y :=
      State.modPort_congr h
    refine ⟨fun h => ?lost, fun h => ?partner, fun h => ?swap, fun h hini => ?follower, fun hparent =>
      ⟨fun h hini => ?initiator, fun h hdr m half hhears herr => ?request, fun h => ?disable⟩, fun h hreset => ?ends⟩
    case lost => exact (if_neg (not_not_intro h)).trans (congrArg Outcome.next (hchange rfl))
    case partner => exact (if_neg (not_not_intro h)).trans (congrArg Outcome.next (hchange rfl))
    case swap => exact congrArg Outcome.next ((State.retrain_swap h).trans (hchange rfl))
    case follower =>
      exact ⟨_, congrArg Outcome.next ((State.retrain_follower h hini).trans (hchange rfl)), rfl, rfl⟩
    case initiator =>
      exact ⟨_, congrArg Outcome.next ((State.retrain_initiator h hini hparent).trans (hchange rfl)), rfl, rfl⟩
    case request =>
      have hactive : (s.port p).active = true := by rw [LPort.active, h]; rfl
      obtain ⟨log, hctl⟩ := State.onCtl_heard hactive hhears herr
        fun s => if (s.port p).initiator then s.retrain p else s.enterRetrain p
      obtain ⟨seq, made, stream, first, htold⟩ := x.told_eq hdr log
      have hstate : (x.told hdr log).state = .active := by rw [htold]; exact h
      obtain ⟨g, heither, hkeeps⟩ := State.retrain_either (s := s.modPort p fun x => x.told hdr log) (p := p)
        (by rw [State.port_modPort]; exact hstate) hparent
      rw [heither, State.modPort_modPort] at hctl
      refine ⟨_, hctl, State.modPort_eq_const .., ?_⟩
      rw [State.port_modPort]
      exact ⟨rfl, rfl, rfl, (hkeeps _).trans (by rw [htold])⟩
    case disable =>
      obtain ⟨l, spares, hquiet, hty, hlen⟩ := State.applyDisable_quiets (s := s.modPort p fun x => { x with disable := true })
        (p := p) (by rw [State.port_modPort]) (by rw [State.port_modPort]; exact h) hparent
      rw [State.modPort_modPort] at hquiet
      rw [State.port_modPort] at hlen
      have hport := s.port_modPort p fun x => LPort.quieted { x with disable := true, outbox := x.outbox ++ l }
      refine ⟨_, congrArg Outcome.next hquiet, rfl, fun q hq => s.port_modPort_ne (fun x =>
        LPort.quieted { x with disable := true, outbox := x.outbox ++ l }) hq, ?_⟩
      exact ⟨congrArg LPort.state hport, congrArg LPort.width hport, congrArg LPort.disable hport, l,
        congrArg LPort.outbox hport, hty, hlen⟩
    case ends =>
      have hends := State.applyDisable_ends (s := s.modPort p fun x => { x with disable := false }) (p := p)
        (by rw [State.port_modPort]) (by rw [State.port_modPort]; exact h) hreset
      rw [State.modPort_modPort] at hends
      exact congrArg Outcome.next (hends.trans (hchange rfl))
  case right =>
    intro s p f cause down x hstate hcolls hparent hframe
    cases down with
    | false =>
      have hserves : ((s.port p).active || (s.port p).state == .retrain) = true := by
        rw [Bool.or_eq_true, beq_iff_eq]
        exact hstate.imp_right And.right
      refine ⟨_, congrArg Outcome.next (if_pos hserves), ?_⟩
      obtain ⟨hport, hothers, hspares, hseq, hreps, hframe, hnet⟩ := State.enterLost_frame hcolls hparent 1
      generalize s.enterLost p 1 = u at *
      rw [hport]
      exact ⟨rfl, rfl, rfl, rfl, rfl, rfl, rfl, rfl, rfl, List.prefix_rfl, fun _ => ⟨rfl, rfl⟩, hothers, hspares, hseq,
        hreps, hframe, hnet⟩
    | true =>
      obtain ⟨hlen, hhears, herr, hok, hty⟩ := hframe rfl
      have hactive : (s.port p).active = true := hstate.resolve_right fun h => nomatch h.1
      obtain ⟨log, hcorrected⟩ := s.corrected_eq p f.lane.val f.symErrs
      have hreceive := (State.receive_readable hactive hhears herr hok hty).trans (if_pos rfl)
      rw [hcorrected, State.modPort_modPort] at hreceive
      obtain ⟨seq, made, stream, first, hheader, -⟩ := LPort.header_eq
        { x with fecCorr := x.fecCorr + BitVec.ofNat 64 f.symErrs, errLog := log } (hdrAck f.hdr) (hdrCvc f.hdr) (hdrCcnt f.hdr)
      refine ⟨_, State.onFrame_accepted "FRAME_DOWN" (fun s => s.enterLost p 2) hlen hreceive, ?_⟩
      obtain ⟨hport, hothers, hspares, hseq, hreps, hframe, hnet⟩ := State.enterLost_frame (s := s.modPort p fun x =>
        ({ x with fecCorr := x.fecCorr + BitVec.ofNat 64 f.symErrs, errLog := log }).header (hdrAck f.hdr) (hdrCvc f.hdr)
          (hdrCcnt f.hdr)) hcolls hparent 2
      generalize State.enterLost _ p 2 = u at *
      rw [State.port_modPort, hheader] at hport
      rw [hport]
      exact ⟨rfl, rfl, rfl, rfl, rfl, rfl, rfl, rfl, rfl, List.prefix_append .., fun h => absurd h (by decide),
        fun q hq => (hothers q hq).trans (s.port_modPort_ne _ hq), hspares, hseq, hreps, hframe, hnet⟩

end Sys2Proof.Machine
end

section
/-!
SUPPORT. Lane maps as they change (R362, R363): a lane replaced, a lane taken out, and the map and the port that a
substitution or a width reduction leaves.
-/
namespace Sys2Proof.Machine
open Host

/-! ### Lists of lane codes -/

/-- Leaving out the entry of one index. -/
theorem filterMap_index_ne {α : Type} (l : List α) (start i : Nat) :
    (((List.range' start l.length).zip l).filterMap fun q => if q.1 = start + i then none else some q.2) = l.eraseIdx i := by
  induction l generalizing start i with
  | nil => rfl
  | cons a l ih =>
    rw [List.length_cons, List.range'_succ, List.zip_cons_cons, List.filterMap_cons]
    cases i with
    | zero =>
      have hrest : (((List.range' (start + 1) l.length).zip l).filterMap fun q =>
          if q.1 = start + 0 then none else some q.2) = ((List.range' (start + 1) l.length).zip l).map Prod.snd := by
        rw [← List.filterMap_eq_map]
        refine List.filterMap_congr fun q hq => ?_
        have hpast := (List.mem_range'_1.1 (List.of_mem_zip hq).1).1
        rw [if_neg (by omega)]
        rfl
      rw [if_pos (show (start, a).1 = start + 0 from rfl), hrest, List.map_snd_zip (by simp)]
      rfl
    | succ i =>
      have hrest := ih (start + 1) i
      rw [if_neg (by omega), List.eraseIdx_cons_succ, ← hrest]
      simp only [Nat.add_assoc, Nat.add_comm 1 i]

/-- Replacing the entry of one index. -/
theorem map_index_eq {α : Type} (l : List α) (i : Nat) (b : α) :
    (((List.range l.length).zip l).map fun q => if q.1 = i then b else q.2) = l.set i b := by
  refine List.ext_getElem (by simp) fun n hn _ => ?_
  simp only [List.getElem_map, List.getElem_zip, List.getElem_range, List.getElem_set, eq_comm (a := i)]

/-- A rising list below a bound is what a search of the numbers below the bound finds of it. -/
theorem range_filter_contains {l : List Nat} (hrise : l.Pairwise (· < ·)) {n : Nat} (hlt : ∀ c ∈ l, c < n) :
    (List.range n).filter l.contains = l := by
  refine List.Pairwise.eq_of_mem_iff (List.pairwise_lt_range.filter _) hrise fun c => ?_
  rw [List.mem_filter, List.mem_range, List.contains_iff_mem]
  exact ⟨And.right, fun h => ⟨hlt c h, h⟩⟩

/-! ### The lane codes of a port -/

theorem LPort.length_laneCodes (x : LPort) : x.laneCodes.length = x.width.toNat := tab_length ..

theorem LPort.laneCodes_getD {x : LPort} {n : Nat} (h : n < x.width.toNat) : x.laneCodes.getD n 15 = laneAt x.laneMap n :=
  tab_getD _ 15 h

theorem LPort.laneCodes_lt {x : LPort} {c : Nat} (h : c ∈ x.laneCodes) : c < 16 := by
  obtain ⟨n, -, rfl⟩ := List.mem_map.1 h
  exact laneAt_lt _ n

/-- The codes of a rising map rise. -/
theorem LPort.laneCodes_rise {x : LPort}
    (h : ∀ i j, i < j → j < x.width.toNat → laneAt x.laneMap i < laneAt x.laneMap j) : x.laneCodes.Pairwise (· < ·) := by
  refine List.pairwise_iff_getElem.2 fun i j _ hj hij => ?_
  simp only [LPort.laneCodes, tab, List.getElem_map, List.getElem_range]
  exact h i j hij (x.length_laneCodes ▸ hj)

/-- A map with one lane replaced. -/
theorem LPort.laneAt_set {x : LPort} (hwidth : x.width.toNat ≤ 8) {lane c : Nat} (hlane : lane < x.width.toNat) (hc : c < 16) :
    laneAt (mapOf (x.laneCodes.set lane c)) lane = c ∧
      ∀ n < x.width.toNat, n ≠ lane → laneAt (mapOf (x.laneCodes.set lane c)) n = laneAt x.laneMap n := by
  have hcodes : ∀ d ∈ x.laneCodes.set lane c, d < 16 := fun d hd =>
    (List.mem_or_eq_of_mem_set hd).elim LPort.laneCodes_lt fun h => h ▸ hc
  have hlen := x.length_laneCodes
  refine ⟨?_, fun n hn hne => ?_⟩
  · rw [laneAt_mapOf hcodes (by omega), List.getD_eq_getElem?_getD, List.getElem?_set_self (by omega)]
    rfl
  · rw [laneAt_mapOf hcodes (by omega), List.getD_eq_getElem?_getD, List.getElem?_set_ne (Ne.symm hne),
      ← List.getD_eq_getElem?_getD, LPort.laneCodes_getD hn]

/-- A map with one lane taken out. -/
theorem LPort.laneAt_eraseIdx {x : LPort} (hwidth : x.width.toNat ≤ 8) {lane n : Nat} (hn : n + 1 < x.width.toNat) :
    laneAt (mapOf (x.laneCodes.eraseIdx lane)) n = laneAt x.laneMap (if n < lane then n else n + 1) := by
  have hcodes : ∀ d ∈ x.laneCodes.eraseIdx lane, d < 16 := fun d hd =>
    LPort.laneCodes_lt ((List.eraseIdx_sublist ..).subset hd)
  rw [laneAt_mapOf hcodes (by omega), List.getD_eq_getElem?_getD, List.getElem?_eraseIdx, ← apply_ite (x.laneCodes[·]?),
    ← List.getD_eq_getElem?_getD]
  exact LPort.laneCodes_getD (by split <;> omega)

/-! ### Lanes retired (R363, R365) -/

theorem State.recordRepair_eq (s : State) (r : Repair) : ∃ integ, s.recordRepair r = { s with integ := integ } := by
  unfold State.recordRepair
  split <;> exact ⟨_, rfl⟩

/-- A lane in service that is retired: its condition alone changes, beside the journals and a report. -/
theorem State.retireLane_good {s : State} {p : PortId} {code : Nat} (hcode : code < 8)
    (hgood : (s.port p).lanes[code]? = some .good) :
    (s.retireLane p code).ports = (s.modPort p fun x => { x with lanes := x.lanes.set code .retired }).ports ∧
      (s.retireLane p code).spares = s.spares := by
  have hcond : (s.port p).lanes[code] = .good := by
    rw [Vector.getElem?_eq_getElem hcode] at hgood
    exact Option.some.inj hgood
  have hretire : s.retireLane p code = (State.report
      { s.modPort p fun x => { x with lanes := x.lanes.set code .retired } with
        integ := { s.integ with histLanes := s.integ.histLanes ++ [LaneRec.mk s.boot.ptime p.val code false] } }
      0x0003 .lane (p.val * 16 + code) (BitVec.ofNat 64 p.val) (BitVec.ofNat 64 code)).1 := by
    unfold State.retireLane
    simp only [hcode, hcond, dite_true, bne_self_eq_false, Bool.false_eq_true, if_false]
    rfl
  obtain ⟨routers, lom, hreport, -⟩ := State.report_eq
    { s.modPort p fun x => { x with lanes := x.lanes.set code .retired } with
      integ := { s.integ with histLanes := s.integ.histLanes ++ [LaneRec.mk s.boot.ptime p.val code false] } }
    0x0003 .lane (p.val * 16 + code) (BitVec.ofNat 64 p.val) (BitVec.ofNat 64 code)
  rw [hretire, hreport]
  exact ⟨rfl, rfl⟩

theorem State.port_of_ports {u v : State} (h : u.ports = v.ports) (q : PortId) : u.port q = v.port q := by
  rw [State.port, State.port, h]

theorem State.report_ports (s : State) (code : BitVec 16) (kind : UnitKind) (ix : Nat) (d0 d1 : Word) :
    (s.report code kind ix d0 d1).1.ports = s.ports := by
  obtain ⟨routers, lom, hreport, -⟩ := s.report_eq code kind ix d0 d1
  rw [hreport]

/-- The journal takes a permanent retirement without a change of any port. -/
theorem State.recordIf_ports (s : State) (b : Bool) (r : Repair) : (if b then s.recordRepair r else s).ports = s.ports := by
  obtain ⟨integ, hrecord⟩ := s.recordRepair_eq r
  split
  · rw [hrecord]
  · rfl

/-- Ports that differ at most in the condition of the lanes of one. -/
def State.onlyLanes (s u : State) (p : PortId) : Prop :=
  ∃ lanes, u.ports = (s.modPort p fun x => { x with lanes := lanes }).ports

theorem State.onlyLanes_of_ports {s u : State} (h : u.ports = s.ports) (p : PortId) : s.onlyLanes u p :=
  ⟨(s.port p).lanes, h.trans (congrArg State.ports (State.modPort_of_fixed (s := s) (p := p) rfl).symm)⟩

theorem State.onlyLanes_trans {s u v : State} {p : PortId} (h : s.onlyLanes u p) (h' : u.onlyLanes v p) : s.onlyLanes v p := by
  obtain ⟨lanes, hu⟩ := h
  obtain ⟨lanes', hv⟩ := h'
  refine ⟨lanes', hv.trans ?_⟩
  have hmod : (u.modPort p fun x => { x with lanes := lanes' }).ports =
      ((s.modPort p fun x => { x with lanes := lanes }).modPort p fun x => { x with lanes := lanes' }).ports := by
    simp only [State.modPort, hu]
  rw [hmod, State.modPort_modPort]

theorem State.spare_of_spares {u v : State} (h : u.spares = v.spares) (p : PortId) (k : Nat) : u.spare p k = v.spare p k := by
  rw [State.spare, State.spare, h]

/-- What retiring a lane changes of the ports is the condition of that port's lanes. -/
theorem State.retireLane_ports (s : State) (p : PortId) (code : Nat) : s.onlyLanes (s.retireLane p code) p := by
  unfold State.retireLane
  dsimp only
  generalize hperm : (if h : code < 8 then (s.port p).lanes[code] != .good else decide (0 < (s.spare p (code - 8)).times)) = perm
  by_cases hcode : code < 8
  · refine ⟨(s.port p).lanes.set code (if perm then .permanent else .retired), ?_⟩
    rw [State.report_ports]
    refine (State.recordIf_ports _ perm _).trans ?_
    rw [dif_pos hcode]
    exact congrArg State.ports (State.modPort_congr rfl)
  · refine State.onlyLanes_of_ports ?_ p
    rw [State.report_ports]
    refine (State.recordIf_ports _ perm _).trans ?_
    rw [dif_neg hcode]
    exact State.modSpare_ports ..

theorem State.foldl_retireLane_ports (s : State) (p : PortId) (gone : List Nat) :
    s.onlyLanes (gone.foldl (fun s c => s.retireLane p c) s) p := by
  induction gone generalizing s with
  | nil => exact State.onlyLanes_of_ports rfl p
  | cons c gone ih => exact State.onlyLanes_trans (s.retireLane_ports p c) (ih _)

/-! ### A map takes force (R362 to R364) -/

/-- A port whose new map has taken force. -/
def LPort.swapped (x : LPort) (codes spares : List Nat) (faulty : BitVec 8) (subs : Nat) (isWidth running : Bool) (now : Word) :
    LPort :=
  { x with
    state := .swap, width := BitVec.ofNat 4 codes.length, laneMap := mapOf codes, swapBit := true
    swaps := x.swaps + BitVec.ofNat 64 subs, wdrops := if isWidth then x.wdrops + 1 else x.wdrops
    degraded := x.degraded || (isWidth && running), faultWait := relane x.laneMap (mapOf codes) x.faultWait
    retrainWait := x.retrainWait || x.retrainSent, retrainSent := false
    swapOp := some {
      faulty := faulty, map := mapOf codes, width := BitVec.ofNat 4 codes.length, isWidth := isWidth
      resume := match x.replayBuf with | f :: _ => f.seq | [] => x.txSeq
      spares := ((match x.swapOp with | some o => o.spares | none => []) ++ spares).filter fun k => codes.contains (8 + k)
      selfDone := false, peerDone := false, oldMap := x.laneMap, since := now } }

theorem State.thawEvent_eq (s : State) (n : Fin 11) : ∃ gtc, s.thawEvent n = { s with gtc := gtc } := by
  obtain ⟨gtc, heq, -⟩ := s.thawEvent_gtc n
  exact ⟨gtc, heq⟩

theorem State.portLeft_eq (s : State) (p : PortId) : ∃ gtc, s.portLeft p = { s with gtc := gtc } := by
  unfold State.portLeft
  split
  · unfold State.newParent
    split
    · exact ⟨_, rfl⟩
    · obtain ⟨gtc, heq⟩ := State.thawEvent_eq { s with gtc := { s.gtc with parent := 0x1F, holdover := true, locked := false } } 9
      exact ⟨gtc, heq⟩
  · exact ⟨s.gtc, rfl⟩

section
variable (s : State) (p : PortId) (codes gone spares : List Nat) (faulty : BitVec 8) (subs : Nat) (isWidth : Bool)

/-- What a new map does, step by step: the lanes retired, the spares and the port changed, the time tree and the thaw events. -/
theorem State.startSwap_steps : s.startSwap p codes gone spares faulty subs isWidth =
    let r := gone.foldl (fun s c => s.retireLane p c) s
    let t := (r.setSpares p codes).modPort p
      fun x => x.swapped codes spares faulty subs isWidth r.job.running r.gtc.count
    let v := if (r.port p).state == .active then t.portLeft p else t
    if isWidth && v.job.running then v.thawEvent 6 else v := by
  unfold State.startSwap
  rfl

/-- What a new map does to the ports and the spares. -/
theorem State.startSwap_parts : ∃ running now,
    let t := (gone.foldl (fun s c => s.retireLane p c) s).setSpares p codes
    (s.startSwap p codes gone spares faulty subs isWidth).ports =
        (t.modPort p fun x => x.swapped codes spares faulty subs isWidth running now).ports ∧
      (s.startSwap p codes gone spares faulty subs isWidth).spares = t.spares := by
  rw [State.startSwap_steps]
  generalize gone.foldl (fun s c => s.retireLane p c) s = r
  dsimp only
  refine ⟨r.job.running, r.gtc.count, ?_⟩
  rw [← State.modPort_spares (r.setSpares p codes) p
    fun x => x.swapped codes spares faulty subs isWidth r.job.running r.gtc.count]
  generalize (r.setSpares p codes).modPort p
    (fun x => x.swapped codes spares faulty subs isWidth r.job.running r.gtc.count) = t
  have hleft : ∃ gtc, (if (r.port p).state == .active then t.portLeft p else t) = { t with gtc := gtc } := by
    split
    · exact t.portLeft_eq p
    · exact ⟨t.gtc, rfl⟩
  obtain ⟨gtc, hleft⟩ := hleft
  rw [hleft]
  split
  · obtain ⟨gtc', hthaw⟩ := State.thawEvent_eq { t with gtc := gtc } 6
    rw [hthaw]
    exact ⟨rfl, rfl⟩
  · exact ⟨rfl, rfl⟩

/-- The port itself, and the other ports. -/
theorem State.startSwap_port :
    (∃ lanes running now, (s.startSwap p codes gone spares faulty subs isWidth).port p =
      LPort.swapped { s.port p with lanes := lanes } codes spares faulty subs isWidth running now) ∧
    ∀ q ≠ p, (s.startSwap p codes gone spares faulty subs isWidth).port q = s.port q := by
  obtain ⟨running, now, hswap, -⟩ := s.startSwap_parts p codes gone spares faulty subs isWidth
  obtain ⟨lanes, hlanes⟩ := s.foldl_retireLane_ports p gone
  obtain ⟨after, hspares⟩ := (gone.foldl (fun s c => s.retireLane p c) s).setSpares_eq p codes
  generalize gone.foldl (fun s c => s.retireLane p c) s = r at *
  have hports (q : PortId) : (r.setSpares p codes).port q = (s.modPort p fun x => { x with lanes := lanes }).port q := by
    rw [hspares]
    exact State.port_of_ports hlanes q
  refine ⟨⟨lanes, running, now, (State.port_of_ports hswap p).trans ?_⟩, fun q hq => (State.port_of_ports hswap q).trans ?_⟩
  · rw [State.port_modPort, hports, State.port_modPort]
  · rw [State.port_modPort_ne _ _ hq, hports, State.port_modPort_ne _ _ hq]

end

end Sys2Proof.Machine
end

section
/-!
SUPPORT. What the loss of a port and the answer to a lane fault leave of the other ports (R362, R363, R366).
-/
namespace Sys2Proof.Machine
open Host

/-! ### Folds and writes of memory -/

/-- A fold of steps that each leave the ports leaves the ports. -/
theorem State.foldl_ports {α : Type} {f : State → α → State} (h : ∀ s a, (f s a).ports = s.ports) (l : List α) (s : State) :
    (l.foldl f s).ports = s.ports := by
  induction l generalizing s with
  | nil => rfl
  | cons a l ih => exact (ih _).trans (h s a)

theorem State.wr_ports (s : State) (k : Nat) (b : List Byte) : (s.wr k b).ports = s.ports := by
  rw [s.wr_frame]

theorem State.hbmWr_ports (s : State) (a : Nat) (bs : List Byte) : (s.hbmWr a bs).ports = s.ports := by
  unfold State.hbmWr
  split
  · split
    · rfl
    · exact s.wr_ports _ _
  · rfl

theorem State.serFree_ports (s : State) (a n : Nat) : (s.serFree a n).ports = s.ports := by
  unfold State.serFree State.wrFree
  split
  · exact State.wr_ports _ _ _
  · rfl

/-! ### A collective whose port is lost (R366, R405) -/

theorem State.sendAborts_ports (s : State) (c : CollInst) (d : CollDecl) (status : Nat) (except : List ChipAddr) :
    (s.sendAborts c d status except).ports = s.ports :=
  State.foldl_ports (fun _ _ => State.modRouter_ports ..) _ _

theorem State.endJob_ports (s : State) (status : Nat) (detail : Word) : (s.endJob status detail).ports = s.ports := by
  rw [(s.endJob_job status detail).1]

theorem State.collEnd_ports (s : State) (k : Nat) (c : CollInst) (d : CollDecl) (t : Topo) (status : Nat) :
    (s.collEnd k c d t status).ports = s.ports := by
  unfold State.collEnd
  dsimp only
  split
  · split
    · split <;> exact s.hbmWr_ports _ _
    · exact s.hbmWr_ports _ _
  · rw [State.endJob_ports]
    split
    · rw [State.foldl_ports (fun _ _ => State.hbmWr_ports ..), State.serFree_ports]
      exact s.hbmWr_ports _ _
    · exact s.hbmWr_ports _ _

theorem State.collPortLost_ports (s : State) (p : PortId) : (s.collPortLost p).ports = s.ports := by
  refine State.foldl_ports (fun u k => ?_) _ _
  unfold State.collLost
  split
  · rfl
  · split
    · rfl
    · split
      · exact (State.collEnd_ports ..).trans (State.sendAborts_ports ..)
      · rfl

/-! ### The other ports -/

/-- The loss of a port leaves the others. -/
theorem State.enterLost_others (s : State) {p q : PortId} (hq : q ≠ p) (reason : BitVec 4) :
    (s.enterLost p reason).port q = s.port q := by
  refine (State.port_of_ports ?_ q).trans (s.port_modPort_ne (fun x => x.lost reason) hq)
  rw [State.enterLost_eq, State.portLeft_ports, State.collPortLost_ports, State.report_ports]
  obtain ⟨spares, hfree⟩ := s.freeUsed_eq p
  rw [hfree]
  rfl

/-- Control frames sent on a port leave the others. -/
theorem State.foldl_sendCtl_others {α : Type} (s : State) {p q : PortId} (hq : q ≠ p) (msg : α → Nat) (body : α → List Byte)
    (l : List α) : (l.foldl (fun s a => s.sendCtl p (msg a) (body a)) s).port q = s.port q := by
  induction l generalizing s with
  | nil => rfl
  | cons a l ih => exact (ih _).trans (s.port_modPort_ne _ hq)

/-- The initiator's answer to a lane fault leaves the other ports. -/
theorem State.answerFault_others (s : State) {p q : PortId} (hq : q ≠ p) (mask noSpare : BitVec 8) :
    (s.answerFault p mask noSpare).port q = s.port q := by
  unfold State.answerFault
  dsimp only
  split
  · rfl
  · split
    · exact (State.foldl_sendCtl_others _ hq _ _ _).trans ((State.startSwap_port ..).2 q hq)
    · split
      · refine (State.enterLost_others _ hq 1).trans ?_
        obtain ⟨lanes, hlanes⟩ := s.foldl_retireLane_ports p _
        exact (State.port_of_ports hlanes q).trans (s.port_modPort_ne _ hq)
      · exact (State.port_modPort_ne _ _ hq).trans ((State.startSwap_port ..).2 q hq)

end Sys2Proof.Machine
end

section
/-!
SUPPORT. Lane faults (R361 to R365): how the initiator answers one lane, what ends a change, and the obligation on lane faults.
-/
namespace Sys2Proof.Machine
open Host

/-! ### A new map with one lane retired -/

/-- With one lane in service retired, its condition, the spares of the new map, and the other ports. -/
theorem State.startSwap_retires {s : State} {p : PortId} {code : Nat} (hcode : code < 8)
    (hgood : (s.port p).lanes[code]? = some .good) (codes spares : List Nat) (faulty : BitVec 8) (subs : Nat) (isWidth : Bool) :
    let u := s.startSwap p codes [code] spares faulty subs isWidth
    (∃ running now, u.port p = LPort.swapped { s.port p with lanes := (s.port p).lanes.set code .retired }
        codes spares faulty subs isWidth running now) ∧ (∀ q ≠ p, u.port q = s.port q) ∧
      ∀ k ∈ s.freeSpares p, 8 + k ∈ codes → (u.spare p k).state = .inUse := by
  intro u
  obtain ⟨running, now, hports, hspares⟩ := s.startSwap_parts p codes [code] spares faulty subs isWidth
  obtain ⟨hlanes, hkept⟩ := State.retireLane_good hcode hgood
  rw [List.foldl_cons, List.foldl_nil] at hports hspares
  generalize s.retireLane p code = r at *
  refine ⟨⟨running, now, (State.port_of_ports hports p).trans ?_⟩,
    (s.startSwap_port p codes [code] spares faulty subs isWidth).2, fun k hk hin => ?_⟩
  · obtain ⟨after, hset⟩ := r.setSpares_eq p codes
    have hport : (r.setSpares p codes).port p = { s.port p with lanes := (s.port p).lanes.set code .retired } := by
      rw [hset]
      exact (State.port_of_ports hlanes p).trans (s.port_modPort p _)
    rw [State.port_modPort, hport]
  · obtain ⟨hk4, hfree⟩ := List.mem_filter.1 hk
    obtain ⟨hwired, -⟩ := Bool.and_eq_true_iff.1 hfree
    obtain ⟨hhome, hstand⟩ := Bool.and_eq_true_iff.1 hwired
    have hsame := State.spare_of_spares hkept p k
    have hstate := State.setSpares_state (s := r) (List.mem_range.1 hk4) (by rw [State.spareHome, hsame]; exact hhome)
      (.inl (by rw [hsame]; exact beq_iff_eq.1 hstand)) codes
    rwa [if_pos hin, ← State.spare_of_spares hspares p k] at hstate

/-! ### The initiator's answer (R362, R363) -/

theorem or_zero_mask (m : BitVec 8) : m ||| 0 = m := BitVec.or_zero

theorem ofNat_toNat_self {n : Nat} (b : BitVec n) : BitVec.ofNat n b.toNat = b := by
  rw [BitVec.ofNat_toNat, BitVec.setWidth_eq]

section
variable {s : State} {p : PortId} {lane : Fin 8} (hlane : lane.val < (s.port p).width.toNat)
include hlane

/-- The lane of a fault is the one lane to be answered. -/
theorem State.faulty_lane :
    (onesOf (BitVec.ofNat 8 (2 ^ lane.val))).filter (· < (s.port p).width.toNat) = [lane.val] := by
  rw [onesOf_lane]
  exact List.filter_cons_of_pos (decide_eq_true hlane)

/-- With a spare free the lane is replaced by the lowest one, and SWAP goes out. -/
theorem State.answerFault_swaps {k : Nat} {rest : List Nat} (hfree : s.freeSpares p = k :: rest) : ∃ resume,
    s.answerFault p (BitVec.ofNat 8 (2 ^ lane.val)) 0 =
      (s.startSwap p ((s.port p).laneCodes.set lane.val (8 + k)) [laneAt (s.port p).laneMap lane.val] [k]
        (BitVec.ofNat 8 (2 ^ lane.val)) 1 false).sendCtl p 3 (leBytes 1 lane.val ++ leBytes 1 (8 + k) ++ leBytes 3 resume) := by
  have hwants : ([lane.val].filter fun n => !(0 : BitVec 8).getLsbD n) = [lane.val] := by simp
  unfold State.answerFault
  rw [or_zero_mask]
  dsimp only
  rw [State.faulty_lane hlane, hwants, hfree]
  simp only [List.zip_cons_cons, List.zip_nil_left, List.length_cons, List.length_nil, List.map_cons, List.map_nil,
    List.isEmpty_cons, Bool.false_eq_true, if_false, if_true, List.foldl_cons, List.foldl_nil]
  rw [LPort.laneCodes_getD hlane]
  generalize hmap : ((List.range (s.port p).laneCodes.length).zip (s.port p).laneCodes).map _ = codes
  have hcodes : codes = (s.port p).laneCodes.set lane.val (8 + k) := by
    rw [← hmap, ← map_index_eq]
    refine List.map_congr_left fun q _ => ?_
    by_cases h : q.1 = lane.val
    · simp [h]
    · simp [h, Ne.symm h]
  subst hcodes
  exact ⟨_, rfl⟩

/-- With none free the lane leaves a rising map of lanes, and WIDTH goes out. -/
theorem State.answerFault_narrows (hfree : s.freeSpares p = []) (hwidth : 1 < (s.port p).width.toNat)
    (hrise : ∀ i j, i < j → j < (s.port p).width.toNat → laneAt (s.port p).laneMap i < laneAt (s.port p).laneMap j)
    (hcodes : ∀ n < (s.port p).width.toNat, laneAt (s.port p).laneMap n < 12) : ∃ resume,
    s.answerFault p (BitVec.ofNat 8 (2 ^ lane.val)) 0 =
      (s.startSwap p ((s.port p).laneCodes.eraseIdx lane.val) [laneAt (s.port p).laneMap lane.val] []
        (BitVec.ofNat 8 (2 ^ lane.val)) 0 true).sendCtl p 4
          (leBytes 1 ((s.port p).laneCodes.eraseIdx lane.val).length ++
            leBytes 4 (mapOf ((s.port p).laneCodes.eraseIdx lane.val)).toNat ++ leBytes 3 resume) := by
  have hwants : ([lane.val].filter fun n => !(0 : BitVec 8).getLsbD n) = [lane.val] := by simp
  have hlen := (s.port p).length_laneCodes
  have hbelow : ∀ c ∈ (s.port p).laneCodes.eraseIdx lane.val, c < 12 := fun c hc => by
    obtain ⟨n, hn, rfl⟩ := List.mem_map.1 ((List.eraseIdx_sublist ..).subset hc)
    exact hcodes n (List.mem_range.1 hn)
  have hleft := range_filter_contains ((LPort.laneCodes_rise hrise).sublist (List.eraseIdx_sublist _ lane.val)) hbelow
  have hsome : ((s.port p).laneCodes.eraseIdx lane.val).isEmpty = false := by
    rw [List.isEmpty_eq_false_iff_exists_mem]
    exact List.exists_mem_of_length_pos (by rw [List.length_eraseIdx_of_lt (by omega)]; omega)
  unfold State.answerFault
  rw [or_zero_mask]
  dsimp only
  rw [State.faulty_lane hlane, hwants, hfree]
  simp only [List.zip_nil_right, List.length_cons, List.length_nil, List.map_cons, List.map_nil,
    List.isEmpty_cons, Bool.false_eq_true, if_false, List.foldl_cons, List.foldl_nil]
  rw [LPort.laneCodes_getD hlane]
  generalize hmap : ((List.range (s.port p).laneCodes.length).zip (s.port p).laneCodes).filterMap _ = left
  have hcodes : left = (s.port p).laneCodes.eraseIdx lane.val := by
    rw [← hmap, ← filterMap_index_ne _ 0, List.range_eq_range']
    refine List.filterMap_congr fun q _ => ?_
    by_cases h : q.1 = lane.val
    · simp [h]
    · simp [h]
  subst hcodes
  rw [hleft, hsome]
  exact ⟨_, rfl⟩

end

/-- What the answer to a fault of one lane leaves: the port in SWAP with the lane retired, on its lowest free spare and told
by SWAP, or one lane narrower and told by WIDTH; the other ports as they were. -/
def State.laneAnswered (s u : State) (p : PortId) (lane : Fin 8) : Prop :=
  let x := s.port p
  let code := laneAt x.laneMap lane.val
  let y := u.port p
  (∀ k rest, s.freeSpares p = k :: rest →
    y.state = .swap ∧ y.width = x.width ∧ laneAt y.laneMap lane.val = 8 + k ∧
      (∀ n < x.width.toNat, n ≠ lane.val → laneAt y.laneMap n = laneAt x.laneMap n) ∧
      y.swaps = x.swaps + 1 ∧ y.wdrops = x.wdrops ∧ y.lanes[code]? = some .retired ∧ (u.spare p k).state = .inUse ∧
      ∃ g l, y.outbox = l ++ [g] ∧ g.payload.take 3 = [3, BitVec.ofNat 8 lane.val, BitVec.ofNat 8 (8 + k)]) ∧
  (s.freeSpares p = [] → 1 < x.width.toNat →
    (∀ i j, i < j → j < x.width.toNat → laneAt x.laneMap i < laneAt x.laneMap j) →
    (∀ n < x.width.toNat, laneAt x.laneMap n < 12) →
    y.state = .swap ∧ y.lanes[code]? = some .retired ∧ y.width.toNat + 1 = x.width.toNat ∧ y.wdrops = x.wdrops + 1 ∧
      y.swaps = x.swaps ∧
      (∀ n, n + 1 < x.width.toNat → laneAt y.laneMap n = laneAt x.laneMap (if n < lane.val then n else n + 1)) ∧
      ∃ g l, y.outbox = l ++ [g] ∧ g.payload.take 2 = [4, BitVec.ofNat 8 y.width.toNat]) ∧
  ∀ p' ≠ p, u.port p' = s.port p'

/-- The initiator's answer to a fault of a lane in service. -/
theorem State.answerFault_answered {s : State} {p : PortId} {lane : Fin 8} (hlane : lane.val < (s.port p).width.toNat)
    (hwidth : (s.port p).width.toNat ≤ 8) (hcode : laneAt (s.port p).laneMap lane.val < 8)
    (hgood : (s.port p).lanes[laneAt (s.port p).laneMap lane.val]? = some .good) :
    s.laneAnswered (s.answerFault p (BitVec.ofNat 8 (2 ^ lane.val)) 0) p lane := by
  have hlen := (s.port p).length_laneCodes
  have hretired : ((s.port p).lanes.set (laneAt (s.port p).laneMap lane.val) .retired hcode)[laneAt (s.port p).laneMap
      lane.val]? = some .retired := Vector.getElem?_set_self hcode
  refine ⟨fun k rest hfree => ?swaps, fun hfree hone hrise hcodes => ?narrows,
    fun p' hp => s.answerFault_others hp _ 0⟩
  case swaps =>
    have hmem : k ∈ s.freeSpares p := by rw [hfree]; exact List.mem_cons_self
    have hk : k < 4 := List.mem_range.1 (List.mem_filter.1 hmem).1
    obtain ⟨resume, hanswer⟩ := State.answerFault_swaps hlane hfree
    obtain ⟨hlanes, hrest⟩ := LPort.laneAt_set hwidth hlane (show 8 + k < 16 by omega)
    obtain ⟨⟨running, now, hport⟩, -, hspares⟩ := State.startSwap_retires hcode hgood
      ((s.port p).laneCodes.set lane.val (8 + k)) [k] (BitVec.ofNat 8 (2 ^ lane.val)) 1 false
    have huse := hspares k hmem (List.mem_set (by omega) _)
    rw [hanswer, State.sendCtl, State.port_modPort, hport]
    have hsame : BitVec.ofNat 4 ((s.port p).laneCodes.set lane.val (8 + k)).length = (s.port p).width := by
      rw [List.length_set, hlen, ofNat_toNat_self]
    exact ⟨rfl, hsame, hlanes, hrest, rfl, rfl, hretired, huse, _, _, rfl, rfl⟩
  case narrows =>
    obtain ⟨resume, hanswer⟩ := State.answerFault_narrows hlane hfree hone hrise hcodes
    obtain ⟨⟨running, now, hport⟩, -, -⟩ := State.startSwap_retires hcode hgood
      ((s.port p).laneCodes.eraseIdx lane.val) [] (BitVec.ofNat 8 (2 ^ lane.val)) 0 true
    have hshort : ((s.port p).laneCodes.eraseIdx lane.val).length + 1 = (s.port p).width.toNat := by
      rw [List.length_eraseIdx_of_lt (by omega)]
      omega
    have hnew : (BitVec.ofNat 4 ((s.port p).laneCodes.eraseIdx lane.val).length).toNat =
        ((s.port p).laneCodes.eraseIdx lane.val).length := by
      rw [BitVec.toNat_ofNat]
      exact Nat.mod_eq_of_lt (by omega)
    rw [hanswer, State.sendCtl, State.port_modPort, hport]
    refine ⟨rfl, hretired, (congrArg (· + 1) hnew).trans hshort, rfl, BitVec.add_zero _, fun n hn =>
      LPort.laneAt_eraseIdx hwidth hn, _, _, rfl, ?_⟩
    exact (congrArg (fun n => [4, BitVec.ofNat 8 n]) hnew).symm

/-- A port whose lanes, map and counts of changes are as another's. -/
def LPort.sameLanes (x y : LPort) : Prop :=
  y.width = x.width ∧ y.laneMap = x.laneMap ∧ y.lanes = x.lanes ∧ y.swaps = x.swaps ∧ y.wdrops = x.wdrops

/-- The answer reads of the port its lanes, map and counts alone: a change of the rest before it does not show. -/
theorem State.answerFault_answered_after {s : State} {p : PortId} {lane : Fin 8} {f : LPort → LPort}
    (hsame : (s.port p).sameLanes (f (s.port p))) (hlane : lane.val < (s.port p).width.toNat)
    (hwidth : (s.port p).width.toNat ≤ 8) (hcode : laneAt (s.port p).laneMap lane.val < 8)
    (hgood : (s.port p).lanes[laneAt (s.port p).laneMap lane.val]? = some .good) :
    s.laneAnswered ((s.modPort p f).answerFault p (BitVec.ofNat 8 (2 ^ lane.val)) 0) p lane := by
  obtain ⟨hw, hmap, hlanes, hswaps, hdrops⟩ := hsame
  have hfree : (s.modPort p f).freeSpares p = s.freeSpares p := rfl
  have hport := s.port_modPort p f
  have hanswer := State.answerFault_answered (s := s.modPort p f) (p := p) (lane := lane)
    (by rw [hport, hw]; exact hlane) (by rw [hport, hw]; exact hwidth) (by rw [hport, hmap]; exact hcode)
    (by rw [hport, hmap, hlanes]; exact hgood)
  obtain ⟨hswap, hnarrow, hothers⟩ := hanswer
  rw [hport, hw, hmap, hswaps, hdrops, hfree] at hswap hnarrow
  exact ⟨hswap, hnarrow, fun q hq => (hothers q hq).trans (s.port_modPort_ne f hq)⟩

/-! ### The two ends of a fault (R361, R362) -/

section
variable {s : State} {p : PortId} (hactive : (s.port p).active = true) (hnone : (s.port p).faultWait = 0)
include hactive hnone

/-- A lane fault declared: the fault and its cause are noted, and the initiator acts or the follower says so. -/
theorem exec_laneFaultDetect {lane : Fin 8} {cause : LaneCause} (hlane : lane.val < (s.port p).width.toNat)
    (hcause : s.causeHolds p lane.val cause = true) (hop : (s.port p).swapOp = none) : ∃ causes,
    let t := s.modPort p fun x => { x with faultWait := BitVec.ofNat 8 (2 ^ lane.val), faultCause := causes }
    exec (.laneFaultDetect p ⟨lane, cause⟩) s = .next (if (s.port p).initiator
      then t.answerFault p (BitVec.ofNat 8 (2 ^ lane.val)) 0 else t.sendLaneFault p (BitVec.ofNat 8 (2 ^ lane.val))) := by
  have hserves : ¬ (!(s.port p).active || decide ((s.port p).width.toNat ≤ lane.val) ||
      !s.causeHolds p lane.val cause) = true := by
    simp [hactive, hcause, Nat.not_le.2 hlane]
  have hmask : (s.port p).faultWait ||| BitVec.ofNat 8 (2 ^ lane.val) = BitVec.ofNat 8 (2 ^ lane.val) := by
    rw [hnone]
    exact BitVec.zero_or
  have hnew : (s.port p).newSpares (BitVec.ofNat 8 (2 ^ lane.val)) = 0 := by rw [LPort.newSpares, hop]
  refine ⟨(s.port p).faultCause.set lane (causeCode cause), (if_neg hserves).trans (congrArg Outcome.next ?_)⟩
  dsimp only
  rw [hmask, hnew]
  rfl

/-- The partner's report of a lane, heard by an initiator with nothing of its own under way, is answered for that lane. -/
theorem exec_laneFault {h : CtlHeader} (hini : (s.port p).initiator = true) (hop : (s.port p).swapOp = none)
    (hhears : (s.port p).hears h.lane.val = true) (herr : h.symErrs ≤ 12) (mask : BitVec 8) : ∃ f : LPort → LPort, (s.port p).sameLanes (f (s.port p)) ∧
      exec (.laneFault p h mask) s = .next ((s.modPort p f).answerFault p mask 0) := by
  obtain ⟨log, hctl⟩ := State.onCtl_heard hactive hhears herr fun s =>
    let x := s.port p
    if !x.initiator then s
    else match x.swapOp with
      | some o =>
        if s.gtc.count.toNat < o.since.toNat + 600 then
          s.answerFault p (relane o.oldMap x.laneMap mask ||| x.faultWait) 0
        else s.answerFault p (mask ||| x.faultWait) (x.newSpares mask)
      | none => s.answerFault p (mask ||| x.faultWait) 0
  obtain ⟨seq, made, stream, first, htold⟩ := (s.port p).told_eq h log
  refine ⟨fun x => x.told h log, ?_, hctl.trans (congrArg Outcome.next ?_)⟩
  · dsimp only
    rw [htold]
    exact ⟨rfl, rfl, rfl, rfl, rfl⟩
  · have hini' : ((s.port p).told h log).initiator = true := by rw [htold]; exact hini
    have hop' : ((s.port p).told h log).swapOp = none := by rw [htold]; exact hop
    have hnone' : ((s.port p).told h log).faultWait = 0 := by rw [htold]; exact hnone
    dsimp only
    rw [State.port_modPort, hini', hop', hnone', or_zero_mask]
    rfl

end

/-! ### A change that ends (R362, R365) -/

/-- With nothing to send, no fault and no retrain that waited, a change ends when both ends have aligned. -/
theorem State.swapCheck_eq {s : State} {p : PortId} (hshort : (s.port p).txStream.length < 600)
    (hnone : (s.port p).faultWait = 0) (hretrain : (s.port p).retrainWait = false) {o : SwapOp}
    (hop : (s.port p).swapOp = some o) :
    s.swapCheck p = if o.selfDone && o.peerDone then s.modPort p fun x => { x with state := .active, swapOp := none }
      else s := by
  have hpump : ({ s.port p with state := .active, swapOp := none } : LPort).pump =
      { s.port p with state := .active, swapOp := none } := LPort.pump_of_short hshort
  have hmod : (s.modPort p fun x => ({ x with state := .active, swapOp := none } : LPort).pump) =
      s.modPort p fun x => { x with state := .active, swapOp := none } := State.modPort_congr hpump
  unfold State.swapCheck
  rw [hop]
  dsimp only
  rw [hmod, State.port_modPort, hnone, hretrain]
  rfl

/-- This end has aligned: ALIGN_DONE goes out with the mask of the lanes, and the change ends if the partner has too. -/
theorem exec_frameAlignmentFound {s : State} {p : PortId} (hswap : (s.port p).state = .swap)
    (hshort : (s.port p).txStream.length < 600) (hnone : (s.port p).faultWait = 0)
    (hretrain : (s.port p).retrainWait = false) {o : SwapOp} (hop : (s.port p).swapOp = some o) :
    exec (.frameAlignmentFound p) s = .next (s.modPort p fun x =>
      let y := ({ x with swapOp := some { o with selfDone := true } } : LPort).emitCtl
        (leBytes 1 6 ++ leBytes 1 (2 ^ x.width.toNat - 1))
      if o.peerDone then { y with state := .active, swapOp := none } else y) := by
  refine (if_neg (not_not_intro hswap)).trans (congrArg Outcome.next ?_)
  dsimp only
  have hsent : ((s.modPort p fun x => { x with swapOp := x.swapOp.map fun o => { o with selfDone := true } }).sendCtl p 6
      (leBytes 1 (2 ^ ((s.modPort p fun x => { x with swapOp := x.swapOp.map fun o =>
        { o with selfDone := true } }).port p).width.toNat - 1))) =
      s.modPort p fun x => ({ x with swapOp := some { o with selfDone := true } } : LPort).emitCtl
        (leBytes 1 6 ++ leBytes 1 (2 ^ x.width.toNat - 1)) := by
    rw [State.sendCtl, State.modPort_modPort, State.port_modPort]
    refine State.modPort_congr ?_
    rw [hop]
    rfl
  have hport := s.port_modPort p fun x => ({ x with swapOp := some { o with selfDone := true } } : LPort).emitCtl
    (leBytes 1 6 ++ leBytes 1 (2 ^ x.width.toNat - 1))
  rw [hsent, State.swapCheck_eq (o := { o with selfDone := true }) (by rw [hport]; exact hshort) (by rw [hport]; exact hnone)
    (by rw [hport]; exact hretrain) (by rw [hport]; rfl), State.modPort_modPort]
  cases o.peerDone <;> rfl

/-- A port that has heard ALIGN_DONE. -/
def LPort.peerAligned (x : LPort) (h : CtlHeader) (log : List LaneErr) (o : SwapOp) : LPort :=
  { x.told h log with swapOp := some { o with peerDone := true } }

theorem LPort.peerAligned_eq {x : LPort} (hshort : x.txStream.length < 600) (h : CtlHeader) (log : List LaneErr) (o : SwapOp) :
    x.peerAligned h log o = { x.acked h.ackseq h.cvc.toFin h.ccnt.toNat with
      fecCorr := x.fecCorr + BitVec.ofNat 64 h.symErrs, errLog := log, swapOp := some { o with peerDone := true } } := by
  rw [LPort.peerAligned, LPort.told_of_short hshort]

/-- A port that sends what it has not had acknowledged and whose change has ended if this end has aligned. -/
def LPort.resumed (x : LPort) (selfDone : Bool) : LPort :=
  let y := x.resend x.replayBuf
  if selfDone then { y with state := .active, swapOp := none } else y

/-- Once the partner has aligned, what is not acknowledged goes out again, and the change ends if this end has aligned. -/
theorem State.replayAll_swapCheck {s : State} {p : PortId} (hshort : (s.port p).txStream.length < 600)
    (hnone : (s.port p).faultWait = 0) (hretrain : (s.port p).retrainWait = false) {o : SwapOp}
    (hop : (s.port p).swapOp = some o) (hpeer : o.peerDone = true)
    (hahead : ∀ g ∈ (s.port p).replayBuf, (g.seq - ((s.port p).replayBuf.headD g).seq).toNat < 2 ^ 19) : ∃ gtc,
    ((s.replayAll p).modPort p LPort.pump).swapCheck p = { s.modPort p fun x => x.resumed o.selfDone with gtc := gtc } := by
  obtain ⟨gtc, hreplay, -⟩ := State.replayAll_eq hahead
  have hport := s.port_modPort p fun x => x.resend (s.port p).replayBuf
  have hpump : (s.replayAll p).modPort p LPort.pump = s.replayAll p := by
    rw [hreplay]
    exact State.modPort_of_fixed (LPort.pump_of_short ((congrArg (fun x => x.txStream.length) hport).trans_lt hshort))
  have hcheck := State.swapCheck_eq (s := { s.modPort p fun x => x.resend (s.port p).replayBuf with gtc := gtc }) (p := p)
    ((congrArg (fun x => x.txStream.length) hport).trans_lt hshort) ((congrArg LPort.faultWait hport).trans hnone)
    ((congrArg LPort.retrainWait hport).trans hretrain) ((congrArg LPort.swapOp hport).trans hop)
  refine ⟨gtc, ?_⟩
  rw [hpump, hreplay, hcheck, hpeer, Bool.and_true]
  cases hself : o.selfDone with
  | false => exact congrArg (fun t : State => { t with gtc := gtc }) (State.modPort_congr rfl)
  | true =>
    have hboth : ((s.modPort p fun x => x.resend (s.port p).replayBuf).modPort p fun x =>
        { x with state := .active, swapOp := none }) = s.modPort p fun x => x.resumed true := by
      rw [State.modPort_modPort]
      exact State.modPort_congr rfl
    exact congrArg (fun t : State => { t with gtc := gtc }) hboth

/-- The partner says it has aligned: the frames it has not accepted go out again, and the change ends if this end has
aligned too. -/
theorem exec_alignDone {s : State} {p : PortId} {h : CtlHeader} (hswap : (s.port p).state = .swap)
    (hshort : (s.port p).txStream.length < 600) (hnone : (s.port p).faultWait = 0)
    (hretrain : (s.port p).retrainWait = false) {o : SwapOp} (hop : (s.port p).swapOp = some o)
    (hpeer : o.peerDone = false) (hhears : (s.port p).hears h.lane.val = true) (herr : h.symErrs ≤ 12)
    (hahead : let kept := (s.port p).replayBuf.filter fun g => !seqLe g.seq h.ackseq
      ∀ g ∈ kept, (g.seq - (kept.headD g).seq).toNat < 2 ^ 19) : ∃ log gtc,
    exec (.alignDone p h) s =
      .next { s.modPort p fun x => (x.peerAligned h log o).resumed o.selfDone with gtc := gtc } := by
  have hactive : (s.port p).active = true := by rw [LPort.active, hswap]; rfl
  obtain ⟨log, hctl⟩ := State.onCtl_heard hactive hhears herr fun s =>
    match (s.port p).swapOp with
    | some o =>
      if o.peerDone then s
      else
        let s := (s.modPort p fun x => { x with swapOp := some { o with peerDone := true } }).replayAll p
        (s.modPort p LPort.pump).swapCheck p
    | none => s
  have htold : ((s.port p).told h log).swapOp = some o := by
    rw [LPort.told_of_short hshort]
    exact hop
  have hport : (s.modPort p fun x => x.peerAligned h log o).port p = _ :=
    (s.port_modPort p _).trans (LPort.peerAligned_eq hshort h log o)
  obtain ⟨gtc, hresumed⟩ := State.replayAll_swapCheck (s := s.modPort p fun x => x.peerAligned h log o) (p := p)
    (o := { o with peerDone := true }) (by rw [hport]; exact hshort) (by rw [hport]; exact hnone)
    (by rw [hport]; exact hretrain) (by rw [hport]) rfl (by rw [hport]; exact hahead)
  refine ⟨log, gtc, hctl.trans (congrArg Outcome.next ?_)⟩
  dsimp only
  rw [State.modPort_modPort] at hresumed
  rw [State.port_modPort, htold]
  dsimp only
  rw [hpeer, if_neg Bool.false_ne_true, State.modPort_modPort]
  exact hresumed

/-! ### The follower takes the map the initiator sends (R362 step 3) -/

/-- A port on a new map, with its substitutions and its width reductions counted. -/
def LPort.remapped (x y : LPort) (codes : List Nat) (subs : Nat) (isWidth : Bool) : Prop :=
  y.state = .swap ∧ y.width = BitVec.ofNat 4 codes.length ∧ y.laneMap = mapOf codes ∧
    y.swaps = x.swaps + BitVec.ofNat 64 subs ∧ y.wdrops = if isWidth then x.wdrops + 1 else x.wdrops

theorem State.startSwap_remaps (s : State) (p : PortId) (codes gone spares : List Nat) (faulty : BitVec 8) (subs : Nat)
    (isWidth : Bool) :
    (s.port p).remapped ((s.startSwap p codes gone spares faulty subs isWidth).port p) codes subs isWidth := by
  obtain ⟨⟨lanes, running, now, hport⟩, -⟩ := s.startSwap_port p codes gone spares faulty subs isWidth
  rw [hport]
  exact ⟨rfl, rfl, rfl, rfl, rfl⟩

theorem LPort.remapped_of_sameLanes {x y z : LPort} {codes : List Nat} {subs : Nat} {isWidth : Bool} (h : x.sameLanes y)
    (hz : y.remapped z codes subs isWidth) : x.remapped z codes subs isWidth := by
  obtain ⟨-, -, -, hswaps, hdrops⟩ := h
  rwa [LPort.remapped, hswaps, hdrops] at hz

section
variable {s : State} {p : PortId} {h : CtlHeader} (hactive : (s.port p).active = true) (hini : (s.port p).initiator = false)
  (hhears : (s.port p).hears h.lane.val = true) (herr : h.symErrs ≤ 12) (resume : BitVec 20)
include hactive hini hhears herr

/-- A message heard by a follower finds its lanes, its map and its counts as they were. -/
theorem State.onCtl_follower (k : State → State) : ∃ t, s.onCtl p h k = .next (k t) ∧ (t.port p).initiator = false ∧
    (s.port p).sameLanes (t.port p) := by
  obtain ⟨log, hctl⟩ := State.onCtl_heard hactive hhears herr k
  obtain ⟨seq, made, stream, first, htold⟩ := (s.port p).told_eq h log
  refine ⟨_, hctl, ?_⟩
  rw [State.port_modPort, htold]
  exact ⟨hini, rfl, rfl, rfl, rfl, rfl⟩

/-- SWAP names the new pair of one lane. -/
theorem exec_swap {lane : Fin 8} (hlane : lane.val < (s.port p).width.toNat) (phys : BitVec 4) : ∃ u,
    exec (.swap p h lane phys resume) s = .next u ∧
      (s.port p).remapped (u.port p) ((s.port p).laneCodes.set lane.val phys.toNat) 1 false := by
  obtain ⟨t, hctl, hini', hsame⟩ := State.onCtl_follower hactive hini hhears herr fun s =>
    let x := s.port p
    if x.initiator || x.width.toNat ≤ lane.val then s
    else
      let codes := x.laneCodes
      let codes' := codes.set lane.val phys.toNat
      let spares := if 8 ≤ phys.toNat then [phys.toNat - 8] else []
      s.startSwap p codes' [codes.getD lane.val 15] spares (BitVec.ofNat 8 (2 ^ lane.val)) 1 false
  obtain ⟨hwidth, hmap, -⟩ := id hsame
  have hcodes : (t.port p).laneCodes = (s.port p).laneCodes := by rw [LPort.laneCodes, hwidth, hmap, LPort.laneCodes]
  have hgoes : ¬ ((t.port p).initiator || decide ((t.port p).width.toNat ≤ lane.val)) = true := by
    simp [hini', hwidth, Nat.not_le.2 hlane]
  refine ⟨_, hctl.trans (congrArg Outcome.next (if_neg hgoes)), LPort.remapped_of_sameLanes hsame ?_⟩
  rw [← hcodes]
  exact t.startSwap_remaps ..

/-- WIDTH names the whole map of fewer lanes. -/
theorem exec_width {w : BitVec 4} (hw : w ≠ 0) (hw8 : w.toNat ≤ 8) (map : BitVec 32) : ∃ u subs,
    exec (.width p h w map resume) s = .next u ∧
      (s.port p).remapped (u.port p) (tab w.toNat (laneAt map)) subs true := by
  obtain ⟨t, hctl, hini', hsame⟩ := State.onCtl_follower hactive hini hhears herr fun s =>
    let x := s.port p
    if x.initiator || w = 0 || 8 < w.toNat then s
    else
      let codes := x.laneCodes
      let codes' := tab w.toNat (laneAt map)
      let spares := (codes'.filter fun c => 8 ≤ c && !codes.contains c).map (· - 8)
      s.startSwap p codes' (codes.filter fun c => !codes'.contains c) spares 0 spares.length true
  have hgoes : ¬ ((t.port p).initiator || decide (w = 0) || decide (8 < w.toNat)) = true := by
    rw [hini', decide_eq_false hw, decide_eq_false (Nat.not_lt.2 hw8)]
    exact Bool.false_ne_true
  exact ⟨_, _, hctl.trans (congrArg Outcome.next (if_neg hgoes)),
    LPort.remapped_of_sameLanes hsame (t.startSwap_remaps ..)⟩

end

/-! ### A spare that does not align, and the test of a retired lane (R362, R365) -/

/-- The follower names a lane whose new spare has not aligned. -/
theorem exec_spareAlignTimeout {s : State} {p : PortId} {lane : Fin 8} {o : SwapOp} (hswap : (s.port p).state = .swap)
    (hop : (s.port p).swapOp = some o) (hini : (s.port p).initiator = false)
    (hspare : 8 ≤ laneAt (s.port p).laneMap lane.val) (hnew : laneAt (s.port p).laneMap lane.val - 8 ∈ o.spares) :
    exec (.spareAlignTimeout p lane) s =
      .next ((s.modPort p fun x => { x with faultCause := x.faultCause.set lane 4 }).sendLaneFault p
        (BitVec.ofNat 8 (2 ^ lane.val))) := by
  have hfound : ([lane.val].filter fun n => 8 ≤ laneAt (s.port p).laneMap n && o.spares.contains
      (laneAt (s.port p).laneMap n - 8)) = [lane.val] :=
    List.filter_cons_of_pos (by simp [hspare, hnew])
  have hone : ∀ lane : Fin 8, ofOnes 8 [lane.val] ≠ 0 := by decide
  have hmask : ¬ ((s.port p).state ≠ .swap ∨ (s.port p).newSpares (BitVec.ofNat 8 (2 ^ lane.val)) = 0) := by
    rw [LPort.newSpares, hop]
    dsimp only
    rw [onesOf_lane, hfound]
    exact not_or.2 ⟨not_not_intro hswap, hone lane⟩
  exact (if_neg hmask).trans (congrArg Outcome.next (if_neg (by simp [hini])))

/-- A retired lane that passes its test returns to the pool; one that fails is retired for good, in the journal. -/
theorem exec_lanePrbsDone {s : State} {p : PortId} {lane : BitVec 4} {i : Fin 8} (hlane : lane.toNat = i.val)
    (hretired : (s.port p).lanes[i] = .retired) :
    exec (.lanePrbsDone p lane true) s =
        .next ((s.modPort p fun x => { x with lanes := x.lanes.set i .returned }).lanePassed p i) ∧
      exec (.lanePrbsDone p lane false) s =
        .next ((s.modPort p fun x => { x with lanes := x.lanes.set i .permanent }).recordRepair (.lane p.val i)) := by
  have hcode : lane.toNat < 8 := hlane ▸ i.isLt
  have htested : ¬ ((s.port p).lanes[lane.toNat] != .retired) = true := by
    have hcond : (s.port p).lanes[lane.toNat] = .retired := by
      simp only [hlane]
      exact hretired
    simp [hcond]
  constructor
  · refine (dif_pos hcode).trans ((if_neg htested).trans ?_)
    simp only [hlane]
    rfl
  · refine (dif_pos hcode).trans ((if_neg htested).trans ?_)
    simp only [hlane]
    rfl

/-! ### The obligation -/

/-- Settles O23: the initiator's answer to the one lane, then each event that ends a change by what it does to the port. -/
theorem laneFaultsTakeASpareOrNarrow : Obligations.LaneFaultsTakeASpareOrNarrow := by
  unfold Obligations.LaneFaultsTakeASpareOrNarrow
  constructor
  case left =>
    intro s p lane cause x code hactive hstate hlane hwidth hnone hop
    refine ⟨fun hini hcause => ?follower, fun hini hcode hgood _ _ h own hown hpartner => ?initiator⟩
    case follower =>
      obtain ⟨causes, hexec⟩ := exec_laneFaultDetect hactive hnone hlane hcause hop
      have hsent := hexec.trans (congrArg Outcome.next (if_neg (Bool.not_eq_true _ ▸ hini)))
      rw [State.sendLaneFault, State.sendCtl, State.modPort_modPort] at hsent
      refine ⟨_, hsent, State.modPort_eq_const .., ?_⟩
      rw [State.port_modPort]
      exact ⟨hstate, rfl, rfl, _, rfl, rfl, congrArg ([2, ·]) (ofNat_toNat_self _)⟩
    case initiator =>
      have hfault : ∃ f : LPort → LPort, (s.port p).sameLanes (f (s.port p)) ∧
          exec (if own then .laneFaultDetect p ⟨lane, cause⟩ else .laneFault p h (BitVec.ofNat 8 (2 ^ lane.val))) s =
            .next ((s.modPort p f).answerFault p (BitVec.ofNat 8 (2 ^ lane.val)) 0) := by
        cases own with
        | true =>
          obtain ⟨causes, hexec⟩ := exec_laneFaultDetect hactive hnone hlane (hown rfl) hop
          exact ⟨_, ⟨rfl, rfl, rfl, rfl, rfl⟩, hexec.trans (congrArg Outcome.next (if_pos hini))⟩
        | false =>
          obtain ⟨-, hhears, herr⟩ := hpartner rfl
          exact exec_laneFault hactive hnone hini hop hhears herr _
      obtain ⟨f, hsame, hexec⟩ := hfault
      exact ⟨_, hexec, State.answerFault_answered_after hsame hlane hwidth hcode hgood⟩
  case right =>
    intro s p h x hshort hretrain hnone
    refine ⟨fun o hswap hop hself => ?aligned, fun o hswap hop hpeer hhears herr => ?partner,
      fun lane phys resume hactive hini hhears herr hlane hwidth => ?swap,
      fun w map resume hactive hini hhears herr hw hw8 => ?width, fun lane o hswap hop hini hspare hnew => ?timeout,
      fun lane i hlane hretired => ?test⟩
    case aligned =>
      refine ⟨_, exec_frameAlignmentFound hswap hshort hnone hretrain hop, State.modPort_eq_const .., ?_⟩
      rw [State.port_modPort]
      cases o.peerDone
      · exact ⟨hswap, _, rfl, rfl⟩
      · exact ⟨rfl, _, rfl, rfl⟩
    case partner =>
      intro kept hahead
      obtain ⟨log, gtc, hexec⟩ := exec_alignDone hswap hshort hnone hretrain hop hpeer hhears herr hahead
      refine ⟨_, hexec, rfl, ?_⟩
      have hport := s.port_modPort p fun x => (x.peerAligned h log o).resumed o.selfDone
      rw [LPort.peerAligned_eq hshort] at hport
      generalize s.modPort p (fun x => (x.peerAligned h log o).resumed o.selfDone) = t at hport ⊢
      have hlinks : (({ t with gtc := gtc } : State).port p) = _ := hport
      rw [hlinks]
      cases o.selfDone
      · exact ⟨hswap, rfl, rfl⟩
      · exact ⟨rfl, rfl, rfl⟩
    case swap =>
      obtain ⟨u, hexec, hstate, hw, hmap, hswaps, -⟩ := exec_swap hactive hini hhears herr resume hlane phys
      obtain ⟨hthere, hrest⟩ := LPort.laneAt_set hwidth hlane phys.isLt
      refine ⟨u, hexec, hstate, ?_, by rw [hmap]; exact hthere, hswaps, by rw [hmap]; exact hrest⟩
      rw [hw, List.length_set, LPort.length_laneCodes, ofNat_toNat_self]
    case width =>
      obtain ⟨u, subs, hexec, hstate, hwidth, hmap, -, hdrops⟩ := exec_width hactive hini hhears herr resume hw hw8 map
      have hcodes : ∀ c ∈ tab w.toNat (laneAt map), c < 16 := fun c hc => by
        obtain ⟨n, -, rfl⟩ := List.mem_map.1 hc
        exact laneAt_lt map n
      refine ⟨u, hexec, hstate, ?_, hdrops, fun n hn => ?_⟩
      · rw [hwidth, tab_length, ofNat_toNat_self]
      · rw [hmap, laneAt_mapOf hcodes (by omega), tab_getD _ 15 hn]
    case timeout =>
      have hexec := exec_spareAlignTimeout hswap hop hini hspare hnew
      rw [State.sendLaneFault, State.sendCtl, State.modPort_modPort] at hexec
      refine ⟨_, hexec, State.modPort_eq_const .., ?_⟩
      rw [State.port_modPort]
      exact ⟨_, rfl, congrArg ([2, ·]) (ofNat_toNat_self _)⟩
    case test =>
      obtain ⟨hpass, hfail⟩ := exec_lanePrbsDone hlane hretired
      obtain ⟨integ, hrecord⟩ := State.recordRepair_eq (s.modPort p fun x => { x with lanes := x.lanes.set i .permanent })
        (.lane p.val i)
      rw [hrecord] at hfail
      refine ⟨⟨_, hpass, rfl, rfl, rfl⟩, _, hfail, ?_, rfl⟩
      have hport := s.port_modPort p fun x => { x with lanes := x.lanes.set i .permanent }
      exact (congrArg (fun x : LPort => x.lanes[i]) hport).trans (Vector.getElem_set_self ..)

end Sys2Proof.Machine
end

section
/-!
SUPPORT. Every branch of a command whose operands have the manual's lengths ends in a next state: the shared operations,
then the commands of the tiles and the clusters.
-/
namespace Sys2Proof.Machine
open Host

/-! ### Results that are a next state -/

/-- The command ends in a next state. -/
def Ends (r : Res) : Prop := ∃ u, r = .next u

theorem Ends.next (u : State) : Ends (.next u) := ⟨u, rfl⟩

/-- A test of which both branches end. -/
theorem Ends.ite {c : Prop} [Decidable c] {a b : Res} (ha : Ends a) (hb : Ends b) : Ends (if c then a else b) := by
  split
  · exact ha
  · exact hb

theorem Ends.dite {c : Prop} [Decidable c] {a : c → Res} {b : ¬ c → Res} (ha : ∀ h, Ends (a h)) (hb : ∀ h, Ends (b h)) :
    Ends (if h : c then a h else b h) := by
  split
  · exact ha _
  · exact hb _

/-- The check of operands that are well-formed. -/
theorem Ends.guard {b : Bool} {a r : Res} (hb : b = true) (hr : Ends r) : Ends (if !b then a else r) := by
  rwa [hb, if_neg (by decide)]

/-- The check of a length that is in bounds. -/
theorem Ends.unless {c : Prop} [Decidable c] {a r : Res} (hc : ¬ c) (hr : Ends r) : Ends (if c then a else r) := by
  rwa [if_neg hc]

variable (s : State)

/-! ### Operations that families of commands share -/

/-- The issue of a sequencer's instruction: not ready, no word, no decoding, another instruction, operands pending, a guard
that waits, is false or holds, and an effect that waits or takes place. -/
theorem issue_ends {α : Type} (t : TileId) (sel : SInstr → Option α) (f : State → α → Option State) :
    Ends (s.issue t sel f) := by
  unfold State.issue
  dsimp only
  refine .ite (.next _) ?_
  split
  · exact .next _
  split
  · exact .next _
  split
  · exact .next _
  refine .ite (.next _) ?_
  split
  · exact .next _
  · exact .next _
  · split <;> exact .next _

theorem issueCop_ends {α : Type} (t : TileId) (sel : SInstr → Option α) (full : Tile → Bool)
    (f : State → α → Option State) : Ends (s.issueCop t sel full f) := issue_ends ..

theorem issueRime_ends {α : Type} (t : TileId) (sel : SInstr → Option α) (f : State → α → Option State) :
    Ends (s.issueRime t sel f) := issueCop_ends ..

theorem saluOp_ends (t : TileId) (op : AluOp) : Ends (s.saluOp t op) := issue_ends ..

theorem psetOp_ends (t : TileId) (op : CmpOp) : Ends (s.psetOp t op) := issue_ends ..

theorem pldOp_ends (t : TileId) (sel : PldCond → Bool) : Ends (s.pldOp t sel) := issue_ends ..

theorem amoOp_ends (t : TileId) (op : AmoOp) : Ends (s.amoOp t op) := issue_ends ..

theorem dmaOp_ends (t : TileId) (eager : Bool) (kinds : Nat → Bool) : Ends (s.dmaOp t eager kinds) := issueCop_ends ..

theorem vecOp_ends (t : TileId) (eager : Bool) (op : VOp) : Ends (s.vecOp t eager op) := issueCop_ends ..

theorem serStart_ends (c : ClusterId) (ix : Nat) (sel : SerDesc → Bool) : Ends (s.serStart c ix sel) :=
  .ite (.next _) (.next _)

/-- A frame that is ignored, discarded or accepted. -/
theorem onFrame_ends (p : PortId) {f : Frame} (hf : f.WellFormed = true) (ty : Nat) (name : String) (k : State → State) :
    Ends (s.onFrame p f ty name k) := by
  refine .guard hf ?_
  split <;> exact .next _

/-- A host command that is not there, not its turn, not for its queue, malformed or run. -/
theorem runCmd_ends (h opc : Nat) (ok : Cmd → Bool) (f : State → Cmd → State) : Ends (s.runCmd h opc ok f) := by
  unfold State.runCmd
  split
  · exact .next _
  · exact .ite (.next _) (.ite (.next _) (.ite (.next _) (.next _)))

/-- A manager's order that is denied, repeated, old, not to be taken now or run. -/
theorem lomRun_ends (m : LomHeader) (opc : Nat) (f : State → State) : Ends (s.lomRun m opc f) :=
  .ite (.next _) (.ite (.next _) (.ite (.next _) (.ite (.next _) (.next _))))

/-! ### Sequencers -/

theorem waitslotRelease_ends (t : TileId) : Ends (execWaitslotRelease t s) := by
  unfold execWaitslotRelease
  dsimp only
  split
  · exact .ite (.next _) (.next _)
  · exact .next _

theorem illegalInstr_ends (t : TileId) : Ends (execIllegalInstr t s) := by
  refine .ite (.next _) ?_
  split
  · exact .next _
  dsimp only
  refine .ite (.next _) ?_
  split <;> exact .next _

theorem loadReturn_ends (t : TileId) (k : Nat) : Ends (execLoadReturn t k s) := by
  unfold execLoadReturn
  dsimp only
  split
  · exact .next _
  · split <;> exact .next _

theorem tagCommit_ends (t : TileId) : Ends (execTagCommit t s) := by
  unfold execTagCommit
  split <;> exact .next _

theorem tagSquash_ends (t : TileId) : Ends (execTagSquash t s) := by
  unfold execTagSquash
  split <;> exact .next _

/-! ### Rime units, matrix units and epilogues -/

theorem gramRow_ends (t : TileId) : Ends (execGramRow t s) := by
  unfold execGramRow
  split
  · exact .next _
  · exact .ite (.next _) (.next _)

theorem rimeDrainRead_ends (t : TileId) (slot : Fin 4) : Ends (execRimeDrainRead t slot s) := by
  unfold execRimeDrainRead
  dsimp only
  split
  · exact .next _
  · exact .ite (.next _) (.next _)

theorem rimeDrainDone_ends (t : TileId) (slot : Fin 4) : Ends (execRimeDrainDone t slot s) := by
  unfold execRimeDrainDone
  dsimp only
  split
  · split
    · exact .next _
    · refine .ite (.next _) ?_
      split <;> exact .next _
  · exact .next _

theorem passStart_ends (t : TileId) : Ends (execPassStart t s) := by
  unfold execPassStart
  dsimp only
  split
  · refine .ite (.next _) ?_
    split
    · exact .next _
    · exact .ite (.next _) (.next _)
  · exact .next _

theorem passComplete_ends (t : TileId) (stall : Word) : Ends (execPassComplete t stall s) := by
  unfold execPassComplete
  dsimp only
  split
  · exact .next _
  split
  · exact .next _
  · exact .ite (.next _) (.next _)

theorem epiStart_ends (t : TileId) : Ends (execEpiStart t s) := by
  unfold execEpiStart
  dsimp only
  split
  · refine .ite (.next _) ?_
    split
    · exact .next _
    · exact .ite (.next _) (.next _)
  · exact .next _

theorem epiRow_ends (t : TileId) (stall : Word) : Ends (execEpiRow t stall s) := by
  unfold execEpiRow
  dsimp only
  split
  · exact .next _
  refine .ite (.next _) (.ite (.next _) (.ite (.ite (.next _) ?_) (.next _)))
  split <;> exact .next _

/-! ### Chains, HBM and Serac -/

theorem chainIteration_ends (t : TileId) : Ends (execChainIteration t s) := by
  unfold execChainIteration
  dsimp only
  split
  · exact .next _
  split
  · exact .next _
  refine .ite (.next _) ?_
  split
  · exact .next _
  split
  · exact .next _
  · split <;> exact .next _

theorem patrolScrub_ends (k : StackId) (line : Nat) (finding : ScrubFinding) : Ends (execPatrolScrub k line finding s) := by
  refine .ite (.next _) ?_
  split <;> exact .next _

theorem seracCommandComplete_ends (c : ClusterId) (ix : Nat) : Ends (execSeracCommandComplete c ix s) := by
  unfold execSeracCommandComplete
  dsimp only
  split
  · exact .next _
  · exact .ite (.next _) (.ite (.next _) (.ite (.next _) (.next _)))

theorem seracDeadline_ends (c : ClusterId) (ix : Nat) : Ends (execSeracDeadline c ix s) := by
  unfold execSeracDeadline
  dsimp only
  split
  · exact .next _
  refine .ite (.next _) ?_
  split
  · exact .ite (.next _) (.next _)
  · exact .ite (.next _) (.ite (.next _) (.next _))

theorem exportSwitch_ends (c : ClusterId) : Ends (execExportSwitch c s) := by
  unfold execExportSwitch
  split
  · exact .next _
  · exact .ite (.next _) (.next _)

theorem seracEngineFault_ends (c : ClusterId) (engine : Fin 4) : Ends (execSeracEngineFault c engine s) := by
  unfold execSeracEngineFault
  dsimp only
  split <;> exact .next _

end Sys2Proof.Machine
end

section
/-!
SUPPORT. Every branch of a command ends in a next state: the network, the host's side and the management of the package.
-/
namespace Sys2Proof.Machine
open Host

variable (s : State)

/-! ### Ports and routers -/

theorem credit_ends (p : PortId) (h : CtlHeader) {counts : List Nat} (hc : counts.length = 8) :
    Ends (execCredit p h counts s) := .unless (not_not_intro hc) (.next _)

theorem lanePrbsDone_ends (p : PortId) (lane : BitVec 4) (pass : Bool) : Ends (execLanePrbsDone p lane pass s) :=
  .dite (fun _ => .ite (.next _) (.ite (.next _) (.next _))) fun _ => .ite (.next _) (.ite (.next _) (.next _))

/-- A packet from a port that is at the front of its stream or not; one from the network in its class's way. -/
theorem routerForward_ends (d : Die) (input : RouterInput) {pkt : Packet} (hp : pkt.WellFormed = true) :
    Ends (execRouterForward d input pkt s) := by
  refine .guard hp ?_
  split
  · exact .ite (.next _) (.next _)
  · exact .ite (.next _) (.ite (.ite (.next _) (.next _)) (.ite (.next _) (.ite (.next _) (.next _))))

theorem multicastInject_ends (d : Die) {pkt : Packet} (hp : pkt.WellFormed = true) : Ends (execMulticastInject d pkt s) :=
  .guard hp (.ite (.next _) (.ite (.next _) (.next _)))

theorem unschedInject_ends (d : Die) {pkt : Packet} (hp : pkt.WellFormed = true) : Ends (execUnschedInject d pkt s) :=
  .guard hp (.ite (.next _) (.ite (.next _) (.next _)))

theorem portArbitrate_ends (p : PortId) : Ends (execPortArbitrate p s) := by
  refine .ite (.next _) ?_
  split <;> exact .next _

/-! ### Collectives -/

section
variable (ix path : Nat)

theorem collStart_ends : Ends (execCollStart ix s) := by
  unfold execCollStart
  dsimp only
  split
  · refine .ite ?_ (.next _)
    split <;> exact .next _
  · exact .next _

theorem collData_ends {pkt : Packet} (hp : pkt.WellFormed = true) : Ends (execCollData ix path pkt s) := by
  refine .guard hp ?_
  split
  · exact .next _
  split
  · split
    · exact .ite (.next _) (.next _)
    · exact .next _
  · exact .next _

/-- A digest that answers a good segment, the first time or again, a bad one, or one that has failed too often. -/
theorem collDigest_ends {pkt : Packet} (hp : pkt.WellFormed = true) : Ends (execCollDigest ix path pkt s) := by
  refine .guard hp ?_
  split
  · exact .next _
  split
  · split
    · exact .next _
    · refine .ite (.next _) (.ite ?_ (.ite (.next _) (.next _)))
      split <;> exact .next _
  · exact .next _

theorem collAccept_ends (stream : BitVec 20) : Ends (execCollAccept ix path stream s) := by
  unfold execCollAccept
  dsimp only
  split
  · exact .next _
  split
  · split
    · exact .next _
    · exact .ite (.next _) (.next _)
  · exact .next _

theorem collRetxReq_ends (stream : BitVec 20) : Ends (execCollRetxReq ix path stream s) := by
  unfold execCollRetxReq
  dsimp only
  split
  · exact .next _
  split
  · split
    · exact .next _
    split
    · exact .next _
    · exact .ite (.next _) (.ite (.next _) (.next _))
  · exact .next _

theorem collAbort_ends {pkt : Packet} (hp : pkt.WellFormed = true) : Ends (execCollAbort ix path pkt s) := by
  refine .guard hp ?_
  split
  · exact .next _
  split
  · split
    · exact .next _
    · refine .ite (.next _) ?_
      dsimp only
      split <;> exact .next _
  · exact .next _

theorem collStall_ends : Ends (execCollStall ix s) := by
  unfold execCollStall
  split
  · exact .ite (.next _) (.next _)
  · exact .next _

end

/-! ### Moraine -/

section
variable (m : Fin 64) (hostOk : Bool)

theorem moraineExport_ends : Ends (execMoraineExport m hostOk s) := by
  unfold execMoraineExport
  dsimp only
  split
  · exact .next _
  refine .ite (.next _) ?_
  split
  · exact .next _
  · exact .ite (.next _) (.next _)

theorem moraineImport_ends : Ends (execMoraineImport m hostOk s) := by
  unfold execMoraineImport
  dsimp only
  split
  · exact .next _
  refine .ite (.next _) ?_
  split <;> exact .next _

theorem moraineRecheck_ends : Ends (execMoraineRecheck m hostOk s) := by
  unfold execMoraineRecheck
  split
  · refine .ite (.next _) ?_
    split <;> exact .ite (.next _) (.next _)
  · exact .next _

theorem moraineTimeout_ends : Ends (execMoraineTimeout m s) := by
  unfold execMoraineTimeout
  split
  · exact .ite (.next _) (.next _)
  · exact .next _

theorem moraineImportComplete_ends : Ends (execMoraineImportComplete m s) := by
  unfold execMoraineImportComplete
  split
  · split <;> exact .next _
  · exact .next _

end

/-! ### Time, tests and witnesses -/

theorem tickSyncInEdge_ends : Ends (execTickSyncInEdge s) := by
  refine .ite (.next _) ?_
  split
  · exact .next _
  · exact .ite (.next _) (.next _)

theorem lockstepSkew_ends : Ends (execLockstepSkew s) := by
  unfold execLockstepSkew
  split <;> exact .next _

theorem selftestInjob_ends (failed : List TestFailure) : Ends (execSelftestInjob failed s) := by
  unfold execSelftestInjob
  split
  · exact .ite (.next _) (.next _)
  · exact .next _

theorem testWindowStart_ends : Ends (execTestWindowStart s) := by
  unfold execTestWindowStart
  split
  · exact .ite (.next _) (.next _)
  · exact .next _

theorem testWindowEnd_ends : Ends (execTestWindowEnd s) := by
  unfold execTestWindowEnd
  split
  · exact .ite (.next _) (.next _)
  · exact .next _

theorem wdRecord_ends : Ends (execWdRecord s) := by
  unfold execWdRecord
  split
  · exact .ite (.next _) (.ite (.next _) (.next _))
  · exact .next _

/-- The digests of a gather that agree, that have a majority or that have none. -/
theorem wdCompare_ends : Ends (execWdCompare s) := by
  unfold execWdCompare
  dsimp only
  split
  · split
    · exact .next _
    · refine .ite (.next _) (.ite (.next _) ?_)
      split <;> exact .next _
  · exact .next _

/-! ### Host commands and the job -/

section
variable (h : Nat)

theorem deleteQpDone_ends : Ends (execDeleteQpDone h s) := by
  unfold execDeleteQpDone
  split
  · exact .next _
  · exact .ite (.next _) (.next _)

theorem ouvzuInvalidOpcode_ends : Ends (execOuvzuInvalidOpcode h s) := by
  unfold execOuvzuInvalidOpcode
  split
  · exact .next _
  · exact .ite (.next _) (.next _)

theorem admitImage_ends (hostOk : Bool) : Ends (execAdmitImage h hostOk s) := by
  unfold execAdmitImage
  split
  · exact .next _
  refine .ite ?_ (runCmd_ends ..)
  split
  · exact .ite (.next _) (.next _)
  · exact .next _

theorem quiesceDone_ends : Ends (execQuiesceDone h s) := by
  unfold execQuiesceDone
  split
  · exact .ite (.next _) (.next _)
  · exact .next _

theorem abortJobDone_ends : Ends (execAbortJobDone h s) := by
  unfold execAbortJobDone
  split
  · exact .next _
  · exact .ite (.next _) (.next _)

end

/-- A message that is not for this chip or its queue, one that a waiting command takes, and one that is stored if it fits. -/
theorem msgArrive_ends {msg : MsgIn} (hp : msg.pkt.WellFormed = true) : Ends (execMsgArrive msg s) := by
  refine .guard hp (.ite (.next _) (.ite (.next _) ?_))
  split
  · exact .next _
  · exact .ite (.next _) (.next _)

theorem arbiterRound_ends : Ends (execArbiterRound s) := by
  unfold execArbiterRound
  dsimp only
  split <;> exact .next _

theorem cqCoalesceTimeout_ends (q : BitVec 14) : Ends (execCqCoalesceTimeout q s) := by
  unfold execCqCoalesceTimeout
  split
  · exact .ite (.next _) (.next _)
  · exact .next _

theorem bar2Access_ends (p : PciePort) (off : Nat) (op : Bar2Op) : Ends (execBar2Access p off op s) := by
  unfold execBar2Access
  dsimp only
  split
  all_goals
    refine .ite (.next _) ?_
    split <;> exact .next _

theorem jobEnd_ends : Ends (execJobEnd s) := by
  unfold execJobEnd
  split
  · exact .next _
  · exact .ite (.next _) (.ite (.next _) (.next _))

theorem capturePoint_ends : Ends (execCapturePoint s) := by
  unfold execCapturePoint
  split
  · exact .ite (.next _) (.next _)
  · exact .next _

theorem captureDrainEnd_ends (hostOk : Bool) : Ends (execCaptureDrainEnd hostOk s) := by
  unfold execCaptureDrainEnd
  split
  · exact .ite (.next _) (.ite (.next _) (.ite (.next _) (.next _)))
  · exact .next _

/-! ### Power, heat and the package's management -/

theorem opRaiseDone_ends : Ends (execOpRaiseDone s) := by
  unfold execOpRaiseDone
  split <;> exact .next _

theorem dipCapExpire_ends : Ends (execDipCapExpire s) := by
  unfold execDipCapExpire
  split
  · exact .next _
  · exact .ite (.next _) (.next _)

theorem pwrbrkDiscrepancy_ends : Ends (execPwrbrkDiscrepancy s) := by
  unfold execPwrbrkDiscrepancy
  dsimp only
  split
  · exact .next _
  · exact .ite (.next _) (.next _)

theorem brakeRelease_ends : Ends (execBrakeRelease s) := by
  unfold execBrakeRelease
  dsimp only
  split
  · exact .next _
  · exact .ite (.next _) (.next _)

theorem thermalMaxTimeout_ends : Ends (execThermalMaxTimeout s) := by
  unfold execThermalMaxTimeout
  dsimp only
  split
  · exact .next _
  · exact .ite (.next _) (.next _)

theorem norOperationComplete_ends : Ends (execNorOperationComplete s) := by
  unfold execNorOperationComplete
  split <;> exact .next _

theorem ouvzuOrder_ends (m : LomHeader) {cmd : List Byte} (hc : cmd.length = 64) : Ends (execOuvzuOrder m cmd s) :=
  .unless (not_not_intro hc) (lomRun_ends ..)

theorem norWrite_ends (m : LomHeader) (off : BitVec 32) {data : List Byte} (hd : data.length ≤ 1014) :
    Ends (execNorWrite m off data s) := .unless (Nat.not_lt.2 hd) (lomRun_ends ..)

theorem lomRelay_ends {pkt : Packet} (hp : pkt.WellFormed = true) : Ends (execLomRelay pkt s) :=
  .guard hp (.ite (.next _) (.next _))

theorem i3cSetdasa_ends (static addr : BitVec 7) : Ends (execI3cSetdasa static addr s) := by
  unfold execI3cSetdasa
  split <;> exact .next _

theorem i3cPrivateWrite_ends (data : List Byte) : Ends (execI3cPrivateWrite data s) := by
  unfold execI3cPrivateWrite
  split <;> exact .next _

end Sys2Proof.Machine
end

section
/-!
SUPPORT. Every command whose operands have the manual's lengths ends in a next state, and any other is refused by name.
-/
namespace Sys2Proof.Machine
open Host

/-- Each command by the operation of its family, by its own branches above, or by the tests that its definition makes. -/
theorem exec_ends (s : State) {c : Instr} (hwf : c.WellFormed = true) : Ends (exec c s) := by
  unfold exec
  cases c with
  | saluAdd | saluSub | saluMul | saluAnd | saluOr | saluXor | saluShl | saluShr | saluSra | saluMin | saluMax
  | saluMinu | saluMaxu =>
    exact saluOp_ends ..
  | psetEq | psetNe | psetLt | psetGe | psetLtu | psetGeu => exact psetOp_ends ..
  | ld | st | br | jal | jr | seqEnd | fenceSc | fenceCo | waitslot | phase => exact issue_ends ..
  | pldEq0 | pldNe0 | pldBit => exact pldOp_ends ..
  | amoAdd | amoSwp | amoCas => exact amoOp_ends ..
  | waitslotRelease => exact waitslotRelease_ends ..
  | illegalInstr => exact illegalInstr_ends ..
  | loadReturn => exact loadReturn_ends ..
  | tagCommit => exact tagCommit_ends ..
  | tagSquash => exact tagSquash_ends ..
  | mpass | epi | vchain => exact issueCop_ends ..
  | passStart => exact passStart_ends ..
  | passComplete => exact passComplete_ends ..
  | epiStart => exact epiStart_ends ..
  | epiRow => exact epiRow_ends ..
  | rcfg | rbind | rdrain => exact issueRime_ends ..
  | gramRow => exact gramRow_ends ..
  | rimeDrainRead => exact rimeDrainRead_ends ..
  | rimeDrainDone => exact rimeDrainDone_ends ..
  | vecAdd | vecSub | vecMul | vecFma | vecMax | vecMin | vecAbs | vecNeg | iadd | isub | iand | ior | ixor | ishl
  | ishr | isra | vcmp | mand | mor | mxor | mnot | vtrans | vbcr | vbcc | vperm | vcvt | rcp | vecDiv | vecSqrt
  | rsqrt | exp | exp2 | log | log2 | sin | cos | tanh | lgst | erf | vrsum | vrssq | vtopk | vld | vst | vxcvt =>
    exact vecOp_ends ..
  | chainIteration => exact chainIteration_ends ..
  | dmaCopy | dmaSkew | dmaGather | dmaScatter | dmaAccout | dmaAccin => exact dmaOp_ends ..
  | dmaComplete | hbmRefresh | replayReq | laneFault | swap | width | retrainReq | alignDone | replayTimeout
  | partnerLoss | linkRetrain | linkDisable | mgmtBudgetWindow | selftestFull | sqTailDoorbell | cqHeadDoorbell
  | ouvzuEnSet | ouvzuEnClear | mboxGo | ingressWindowClose | functionLevelReset | perstRise | lomLinkUp
  | spiPartialWord | i3cEntdaa | i3cRstdaa | i3cGetpid | i3cGetbcr | i3cGetdcr | i3cGetstatus | i3cGetmwl | i3cGetmrl
  | i3cPrivateRead | opEval | droopStretch | stretchRelease | aonReset | resetNRelease | bootStepTimeout | ptimeJournal
  | lomLinkDown | vectorInstrComplete | tapInstructionLoad =>
    exact .next _
  | patrolScrub => exact patrolScrub_ends ..
  | seracFeed | seracChol | seracLdlt | seracSolve | seracInv | seracRoot | seracSqrt | seracBatch =>
    exact serStart_ends ..
  | seracDeadline => exact seracDeadline_ends ..
  | exportSwitch => exact exportSwitch_ends ..
  | seracEngineFault => exact seracEngineFault_ends ..
  | frameData | frameIdle | frameTime | frameDown => exact onFrame_ends _ _ hwf _ _ _
  | credit => exact credit_ends _ _ _ (beq_iff_eq.1 hwf)
  | laneFaultDetect | spareAlignTimeout | linkEqualizeEnd | linkAlignEnd | linkLostRetry | noPartner | timeFrameSend
  | throttleRelease | tickSyncOutPulse | launchBoundary | lockstepSend | lockstepReceive | probationExpire
  | pcieLinkDown | regWrite | telemetrySend | phasesSend | powerCapRelease | trimRaise | supplyDip | pwrbrkAssert
  | pwrbrkDeassert | thermalCapLower | thermalCapRaise | thermtrip | aonPwrgdRise | frameAlignmentFound =>
    dsimp only
    exact .ite (.next _) (.next _)
  | linkDetect | linkPollEnd | linkConfigEnd | powerFault | bootStepDone =>
    dsimp only
    exact .ite (.next _) (.ite (.next _) (.next _))
  | lanePrbsDone => exact lanePrbsDone_ends ..
  | routerForward => exact routerForward_ends _ _ _ hwf
  | multicastInject => exact multicastInject_ends _ _ hwf
  | unschedInject => exact unschedInject_ends _ _ hwf
  | portArbitrate => exact portArbitrate_ends ..
  | collStart => exact collStart_ends ..
  | collData => exact collData_ends _ _ _ hwf
  | collDigest => exact collDigest_ends _ _ _ hwf
  | collAccept => exact collAccept_ends ..
  | collRetxReq => exact collRetxReq_ends ..
  | collAbort => exact collAbort_ends _ _ _ hwf
  | collStall => exact collStall_ends ..
  | moraineExport => exact moraineExport_ends ..
  | moraineImport => exact moraineImport_ends ..
  | moraineRecheck => exact moraineRecheck_ends ..
  | moraineTimeout => exact moraineTimeout_ends ..
  | tickSyncInEdge => exact tickSyncInEdge_ends ..
  | lockstepSkew => exact lockstepSkew_ends ..
  | testWindowStart => exact testWindowStart_ends ..
  | testWindowEnd => exact testWindowEnd_ends ..
  | selftestInjob => exact selftestInjob_ends ..
  | wdRecord => exact wdRecord_ends ..
  | wdCompare => exact wdCompare_ends ..
  | capturePoint => exact capturePoint_ends ..
  | captureDrainEnd => exact captureDrainEnd_ends ..
  | identify | createQp | deleteQp | setarb | grantHost | revokeHost | enableFn | disableFn | abortCmd | launch
  | quiesce | abortJob | capture | restore | jobwait | regread | pivsearch | msgsend | msgrecv | nop =>
    exact runCmd_ends ..
  | deleteQpDone => exact deleteQpDone_ends ..
  | admitImage => exact admitImage_ends ..
  | quiesceDone => exact quiesceDone_ends ..
  | abortJobDone => exact abortJobDone_ends ..
  | jobEnd => exact jobEnd_ends ..
  | msgArrive => exact msgArrive_ends _ hwf
  | ouvzuInvalidOpcode => exact ouvzuInvalidOpcode_ends ..
  | arbiterRound => exact arbiterRound_ends ..
  | cqCoalesceTimeout => exact cqCoalesceTimeout_ends ..
  | bar2Access => exact bar2Access_ends ..
  | ouvzuOrder => exact ouvzuOrder_ends _ _ (beq_iff_eq.1 hwf)
  | setPlimit | setTdisc | clearWiring | setGtcEdge | clearDrain | resetDevice | norCommit | readReg | writeReg
  | journalRead | lomIdentify =>
    exact lomRun_ends ..
  | norWrite => exact norWrite_ends _ _ _ (of_decide_eq_true hwf)
  | lomRelay => exact lomRelay_ends _ hwf
  | spiTargetWrite | spiTargetRead => exact .unless (Nat.not_lt.2 (of_decide_eq_true hwf)) (.next _)
  | i3cSetdasa => exact i3cSetdasa_ends ..
  | i3cPrivateWrite => exact i3cPrivateWrite_ends ..
  | opRaiseDone => exact opRaiseDone_ends ..
  | dipCapExpire => exact dipCapExpire_ends ..
  | pwrbrkDiscrepancy => exact pwrbrkDiscrepancy_ends ..
  | brakeRelease => exact brakeRelease_ends ..
  | thermalSample => exact .guard hwf (.next _)
  | thermalMaxTimeout => exact thermalMaxTimeout_ends ..
  | resetNAssert =>
    dsimp only
    exact .ite (.ite (.next _) (.next _)) (.ite (.next _) (.next _))
  | seracCommandComplete => exact seracCommandComplete_ends ..
  | moraineImportComplete => exact moraineImportComplete_ends ..
  | norOperationComplete => exact norOperationComplete_ends ..

/-- The commands whose operands have a length of their own, each by its check. -/
theorem exec_refuses (s : State) {c : Instr} (hwf : c.WellFormed = false) : ∃ name, exec c s = .refused (.illFormed name) := by
  unfold exec
  cases c with
  | frameData | frameIdle | frameTime | frameDown | routerForward | multicastInject | unschedInject | collData
  | collDigest | collAbort | msgArrive | lomRelay | thermalSample =>
    exact ⟨_, if_pos (congrArg not hwf)⟩
  | credit | ouvzuOrder => exact ⟨_, if_pos (beq_eq_false_iff_ne.1 hwf)⟩
  | norWrite | spiTargetWrite | spiTargetRead => exact ⟨_, if_pos (Nat.not_le.1 (of_decide_eq_false hwf))⟩
  | _ => exact nomatch (show true = false from hwf)

/-- Settles O57: each command by its branches, of which the check of the operands alone refuses. -/
theorem everyWellFormedCommandCompletes : Obligations.EveryWellFormedCommandCompletes := by
  unfold Obligations.EveryWellFormedCommandCompletes
  exact fun s c => ⟨exec_ends s, exec_refuses s⟩

end Sys2Proof.Machine
end

section
/-!
SUPPORT. The operating point (R560 to R563): what an evaluation leaves, and the obligation on the point, the power cap and
the trim offsets.
-/
namespace Sys2Proof.Machine
-- One declaration at a time keeps the compile of the whole text within its memory.
set_option Elab.async false
open Host

/-! ### The lower of two operating points -/

theorem lowOp_toNat (a b : BitVec 3) : (lowOp a b).toNat = min a.toNat b.toNat := by
  unfold lowOp
  split <;> omega

theorem belowOp_toNat (op : BitVec 3) : (belowOp op).toNat = max 1 (op.toNat - 1) := by
  have := op.isLt
  rw [belowOp, BitVec.toNat_ofNat, Nat.mod_eq_of_lt (by omega)]

theorem trimmed_toNat (mv : Nat) (ofs : BitVec 8) : (trimmed mv ofs).toNat = min 850 (mv + ofs.toNat) := by
  rw [trimmed, BitVec.toNat_ofNat, Nat.mod_eq_of_lt (by omega)]

/-- The change of R560 ends at its goal, whichever way it goes. -/
theorem Power.goal_goto (p : Power) (n : BitVec 3) : (p.goto n).raising.getD (p.goto n).op = n := by
  unfold Power.goto lowOp
  by_cases h : p.op.toNat < n.toNat
  · simp [h]
  · have hn : p.op.toNat ≤ n.toNat → p.op = n := fun hle => BitVec.eq_of_toNat_eq (by omega)
    by_cases hle : p.op.toNat ≤ n.toNat
    · simp [hn hle]
    · simp [h, hle]

/-- R562's terms but the caps, as the target under the boost cap. -/
theorem State.opWanted_toNat (s : State) : s.opWanted.toNat = s.uncapped := by
  have hlt := s.opTarget.isLt
  rw [State.opWanted, lowOp_toNat, State.boostCap, State.uncapped]
  simp only [Bool.and_eq_true, Bool.not_eq_true', decide_eq_true_eq, and_assoc]
  split
  · exact min_eq_left (by simp; omega)
  · rfl

theorem State.opGoverned_braked {s : State} (h : s.power.brake = true ∨ s.power.wiring = true ∨ s.power.thmax = true) :
    s.opGoverned = 0 := by
  refine if_pos ?_
  simpa [Power.braked, or_assoc] using h

theorem State.opGoverned_free {s : State} (hbrake : s.power.brake = false) (hwiring : s.power.wiring = false)
    (hmax : s.power.thmax = false) : s.opGoverned.toNat =
      min s.uncapped (min s.power.powerCap.toNat (min s.power.dipCap.toNat s.power.thermCap.toNat)) := by
  simp only [State.opGoverned, Power.braked, hbrake, hwiring, hmax, Bool.or_self, Bool.false_eq_true, if_false, lowOp_toNat,
    s.opWanted_toNat, min_assoc]

/-! ### An evaluation (R562) -/

/-- Whether an evaluation lowers the point below OP5 for a brake or a cap. -/
def State.lowers (s : State) : Bool :=
  decide (s.opGoverned.toNat < s.power.op.toNat) && decide (s.opGoverned.toNat < 5) &&
    decide (s.opGoverned.toNat < s.opWanted.toNat)

/-- The power registers after an evaluation. -/
def State.evalPower (s : State) : Power :=
  { s.power.goto s.opGoverned with
    target := s.opTarget, opdown := if s.lowers then s.power.opdown + 1 else s.power.opdown }

theorem State.evalOp_eq (s : State) : ∃ gtc, s.evalOp = { s with power := s.evalPower, gtc := gtc } ∧
    (s.lowers = true → s.fixedFreq = true → gtc.thawN[4] = s.gtc.thawN[4] + 1) ∧
    (s.lowers = false ∨ s.fixedFreq = false → gtc = s.gtc) := by
  have heval : s.evalOp = if s.lowers then State.thawEvent { s with power := s.evalPower } 4
      else { s with power := s.evalPower } := rfl
  obtain ⟨gtc, hthaw, hcount, hsame⟩ := State.thawEvent_gtc { s with power := s.evalPower } 4
  rw [heval]
  cases hlow : s.lowers
  · exact ⟨s.gtc, rfl, by simp, fun _ => rfl⟩
  · exact ⟨gtc, hthaw, fun _ => hcount, fun h => hsame (h.resolve_left (by simp))⟩

/-- An evaluation of `v` settles the point from the one in force in `s`, when what R560 and R562 compare is still that
of `s`. -/
theorem State.settles_evalOp {s v : State} (hop : v.power.op = s.power.op) (hdown : v.power.opdown = s.power.opdown)
    (htarget : v.opTarget = s.opTarget) (hfixed : v.fixedFreq = s.fixedFreq) (hthaw : v.gtc.thawN[4] = s.gtc.thawN[4]) :
    s.settles v.evalOp := by
  obtain ⟨gtc, heval, hcount, hsame⟩ := v.evalOp_eq
  have hgoal : v.evalPower.raising.getD v.evalPower.op = v.opGoverned := v.power.goal_goto _
  have huncapped : State.uncapped { v with power := v.evalPower, gtc := gtc } = v.uncapped := rfl
  have hlow : v.lowers = true ↔ v.opGoverned.toNat < s.power.op.toNat ∧ v.opGoverned.toNat < 5 ∧
      v.opGoverned.toNat < v.uncapped := by
    simp only [State.lowers, Bool.and_eq_true, decide_eq_true_eq, v.opWanted_toNat, hop, and_assoc]
  rw [State.settles, heval]
  simp only [hgoal, huncapped]
  rw [← hlow]
  refine ⟨fun h => v.opGoverned_braked h, v.opGoverned_free, ?_, fun h => if_pos (hop ▸ h), fun h => if_neg (by rw [hop]; omega),
    htarget, trimmed_toNat .., trimmed_toNat .., fun h => ?_, fun h => ?_, fun h hf => ?_, fun h => ?_⟩
  · rw [← hop]; exact lowOp_toNat ..
  · rw [← hdown]; exact if_pos h
  · rw [← hdown]; exact if_neg h
  · rw [← hthaw]; exact hcount h (hfixed.trans hf)
  · rw [← hthaw, hsame (h.imp (by simp) hfixed.trans)]

/-- An evaluation changes the power registers and the thaw counters. -/
theorem State.evalOp_frame (s : State) : s.evalOp = { s with power := s.evalOp.power, gtc := s.evalOp.gtc } := by
  obtain ⟨gtc, heval, -, -⟩ := s.evalOp_eq
  rw [heval]

theorem State.evalOp_power (s : State) : s.evalOp.power = s.evalPower := by
  obtain ⟨gtc, heval, -, -⟩ := s.evalOp_eq
  rw [heval]

@[simp] theorem State.evalOp_powerCap (s : State) : s.evalOp.power.powerCap = s.power.powerCap := by rw [s.evalOp_power]; rfl
@[simp] theorem State.evalOp_dipCap (s : State) : s.evalOp.power.dipCap = s.power.dipCap := by rw [s.evalOp_power]; rfl
@[simp] theorem State.evalOp_dipUntil (s : State) : s.evalOp.power.dipUntil = s.power.dipUntil := by rw [s.evalOp_power]; rfl
@[simp] theorem State.evalOp_thermCap (s : State) : s.evalOp.power.thermCap = s.power.thermCap := by rw [s.evalOp_power]; rfl
@[simp] theorem State.evalOp_avg (s : State) : s.evalOp.power.avg = s.power.avg := by rw [s.evalOp_power]; rfl
@[simp] theorem State.evalOp_plimit (s : State) : s.evalOp.power.plimit = s.power.plimit := by rw [s.evalOp_power]; rfl
@[simp] theorem State.evalOp_tj (s : State) : s.evalOp.power.tj = s.power.tj := by rw [s.evalOp_power]; rfl
@[simp] theorem State.evalOp_peak (s : State) : s.evalOp.power.peak = s.power.peak := by rw [s.evalOp_power]; rfl
@[simp] theorem State.evalOp_sensor (s : State) : s.evalOp.power.sensor = s.power.sensor := by rw [s.evalOp_power]; rfl
@[simp] theorem State.evalOp_thmax (s : State) : s.evalOp.power.thmax = s.power.thmax := by rw [s.evalOp_power]; rfl
@[simp] theorem State.evalOp_maxSince (s : State) : s.evalOp.power.maxSince = s.power.maxSince := by rw [s.evalOp_power]; rfl
@[simp] theorem State.evalOp_brake (s : State) : s.evalOp.power.brake = s.power.brake := by rw [s.evalOp_power]; rfl
@[simp] theorem State.evalOp_brakes (s : State) : s.evalOp.power.brakes = s.power.brakes := by rw [s.evalOp_power]; rfl
@[simp] theorem State.evalOp_brakeFree (s : State) : s.evalOp.power.brakeFree = s.power.brakeFree := by rw [s.evalOp_power]; rfl
@[simp] theorem State.evalOp_wiring (s : State) : s.evalOp.power.wiring = s.power.wiring := by rw [s.evalOp_power]; rfl
@[simp] theorem State.evalOp_wirings (s : State) : s.evalOp.power.wirings = s.power.wirings := by rw [s.evalOp_power]; rfl
@[simp] theorem State.evalOp_wireA (s : State) : s.evalOp.power.wireA = s.power.wireA := by rw [s.evalOp_power]; rfl
@[simp] theorem State.evalOp_wireB (s : State) : s.evalOp.power.wireB = s.power.wireB := by rw [s.evalOp_power]; rfl
@[simp] theorem State.evalOp_disagree (s : State) : s.evalOp.power.disagree = s.power.disagree := by rw [s.evalOp_power]; rfl
@[simp] theorem State.evalOp_coreOfs (s : State) : s.evalOp.power.coreOfs = s.power.coreOfs := by rw [s.evalOp_power]; rfl
@[simp] theorem State.evalOp_dips (s : State) : s.evalOp.power.dips = s.power.dips := by rw [s.evalOp_power]; rfl
@[simp] theorem State.evalOp_dipLog (s : State) : s.evalOp.power.dipLog = s.power.dipLog := by rw [s.evalOp_power]; rfl
@[simp] theorem State.evalOp_engaged (s : State) : s.evalOp.power.engaged = s.power.engaged := by rw [s.evalOp_power]; rfl
@[simp] theorem State.evalOp_stretch (s : State) : s.evalOp.power.stretch = s.power.stretch := by rw [s.evalOp_power]; rfl

/-! ### The target -/

theorem foldl_max_le {l : List Nat} {b : Nat} (h : ∀ x ∈ l, x ≤ b) {a : Nat} (ha : a ≤ b) : l.foldl max a ≤ b := by
  induction l generalizing a with
  | nil => exact ha
  | cons x l ih =>
    exact ih (fun y hy => h y (List.mem_cons_of_mem _ hy)) (max_le ha (h x List.mem_cons_self))

theorem foldl_max_isGreatest (l : List Nat) (a : Nat) :
    a ≤ l.foldl max a ∧ (∀ x ∈ l, x ≤ l.foldl max a) ∧ (l.foldl max a = a ∨ l.foldl max a ∈ l) := by
  induction l generalizing a with
  | nil => exact ⟨le_rfl, by simp, .inl rfl⟩
  | cons x l ih =>
    obtain ⟨hle, hall, hmem⟩ := ih (max a x)
    refine ⟨(le_max_left a x).trans hle, ?_, ?_⟩
    · rintro y (_ | ⟨_, hy⟩)
      · exact (le_max_right a x).trans hle
      · exact hall y hy
    · rcases hmem with h | h
      · rcases le_total x a with hxa | hxa
        · exact .inl (h.trans (max_eq_left hxa))
        · exact .inr (List.mem_cons.2 (.inl (h.trans (max_eq_right hxa))))
      · exact .inr (List.mem_cons_of_mem _ h)

/-- The preferred points of the phases in force. -/
def State.preferred (s : State) (im : Image) : List Nat :=
  s.tiles.toList.filterMap fun x => (im.phases[x.seq.phaseCom.toNat]?).map Prod.snd

theorem State.mem_preferred {s : State} {im : Image} {n : Nat} :
    n ∈ s.preferred im ↔ ∃ t x, im.phases[(s.tile t).seq.phaseCom.toNat]? = some x ∧ x.2 = n := by
  simp only [State.preferred, List.mem_filterMap, Option.map_eq_some_iff, Vector.mem_toList_iff, Vector.mem_iff_getElem]
  constructor
  · rintro ⟨_, ⟨i, hi, rfl⟩, x, hx, hn⟩
    exact ⟨⟨i, hi⟩, x, hx, hn⟩
  · rintro ⟨t, x, hx, hn⟩
    exact ⟨_, ⟨t.val, t.isLt, rfl⟩, x, hx, hn⟩

theorem State.opTarget_toNat {s : State} {im : Image} (himage : s.job.image = some im) (hfixed : im.fixed = false)
    (hrun : s.job.running = true) (hphases : ∀ x ∈ im.phases, x.2 ≤ 7) :
    s.opTarget.toNat = (s.preferred im).foldl max 0 := by
  have hle : (s.preferred im).foldl max 0 ≤ 7 := foldl_max_le (fun n hn => by
    obtain ⟨t, x, hx, rfl⟩ := State.mem_preferred.1 hn
    exact hphases x (List.mem_of_getElem? hx)) (Nat.zero_le _)
  have htarget : s.opTarget = BitVec.ofNat 3 ((s.preferred im).foldl max 0) := by
    simp [State.opTarget, himage, hfixed, hrun, State.preferred]
  rw [htarget, BitVec.toNat_ofNat, Nat.mod_eq_of_lt (by omega)]

theorem State.opTarget_default {s : State} (h : s.job.image = none ∨ s.fixedFreq = true ∨ s.job.running = false) :
    s.opTarget = 5 := by
  unfold State.opTarget
  split
  · rfl
  · rename_i im himage
    have hfixed : s.fixedFreq = im.fixed := by simp [State.fixedFreq, himage]
    refine if_pos ?_
    rcases h with h | h | h
    · simp [himage] at h
    · simp [← hfixed, h]
    · simp [h]

/-! ### Trim (R563) -/

theorem exec_trimRaise_core (s : State) (h : s.power.coreOfs.toNat ≤ 45) :
    exec (.trimRaise .core) s = .next { s with power := ({ s.power with coreOfs := s.power.coreOfs + 5 } : Power).retrim } :=
  if_neg (Nat.not_lt.2 (Nat.add_le_add_right h 5))

theorem exec_trimRaise_serac (s : State) (h : s.power.seracOfs.toNat ≤ 45) :
    exec (.trimRaise .serac) s = .next { s with power := ({ s.power with seracOfs := s.power.seracOfs + 5 } : Power).retrim } :=
  if_neg (Nat.not_lt.2 (Nat.add_le_add_right h 5))

/-- `s` with MARGIN_LIMIT set and reported. -/
def State.marginReached (s : State) (ofs : BitVec 8) : State :=
  State.smcReport { s with power := { s.power with margin := true } } 0x100 (ofs.setWidth 64) 0

/-- What reaching the limit leaves, once the point is evaluated anew. -/
theorem State.marginReached_eq (s : State) (ofs : BitVec 8) : ∃ netQ lom, s.marginReached ofs = { s with
    power := { s.power with margin := true }
    routers := (s.modRouter .west fun r => { r with netQ := netQ }).routers, lom := lom
    integ := { s.integ with evSeq := s.integ.evSeq + 1, evreps := s.integ.evreps + 1 } } := by
  obtain ⟨netQ, lom, hreport⟩ := State.report_net { s with power := { s.power with margin := true } }
    (Config.smcEvent 0x100) .chip 0 (ofs.setWidth 64) 0
  exact ⟨netQ, lom, hreport⟩

theorem exec_trimRaise_limit (s : State) (r : Rail)
    (h : 45 < (match r with | .core => s.power.coreOfs | .serac => s.power.seracOfs).toNat) :
    ∃ ofs, exec (.trimRaise r) s = .next (s.marginReached ofs).evalOp :=
  ⟨_, if_pos (Nat.add_lt_add_right h 5)⟩

/-- Settles O49: evaluations through `settles_evalOp`, the target as the greatest preferred point, the rails one by one. -/
theorem operatingPointFollowsItsTerms : Obligations.OperatingPointFollowsItsTerms := by
  unfold Obligations.OperatingPointFollowsItsTerms
  intro s
  refine ⟨fun w => ?eval, State.opTarget_default, fun im himage hfixed hrun hphases => ?target, fun n hn => ?raised,
    fun hn => ?idle, fun hlow hcap => ?release, fun h => ?keep, fun r => ⟨fun h => ?raise, fun h => ?limit⟩⟩
  case eval =>
    refine ⟨_, rfl, State.settles_evalOp rfl rfl rfl rfl rfl, by simp, ?_, by simp, by simp, by simp, by simp, by simp, by simp,
      State.evalOp_frame _⟩
    have hlt := s.power.op.isLt
    rw [State.evalOp_powerCap]
    split
    · exact Nat.mod_eq_of_lt (by omega)
    · rfl
  case target =>
    obtain ⟨-, hall, hmem⟩ := foldl_max_isGreatest (s.preferred im) 0
    have htarget := State.opTarget_toNat himage hfixed hrun hphases
    rw [← htarget] at hall hmem
    exact ⟨fun t x hx => hall _ (State.mem_preferred.2 ⟨t, x, hx, rfl⟩),
      hmem.imp (fun h => BitVec.eq_of_toNat_eq h) State.mem_preferred.1⟩
  case raised => exact (by rw [execOpRaiseDone, hn] : execOpRaiseDone s = _)
  case idle => exact (by rw [execOpRaiseDone, hn] : execOpRaiseDone s = _)
  case release => exact if_pos ⟨hlow, by have := s.power.powerCap.isLt; have := BitVec.toNat_ne.1 hcap; simp at this; omega⟩
  case keep => exact if_neg fun ⟨hlow, hcap⟩ => h.elim (by omega) fun h => by simp [h] at hcap
  case raise =>
    cases r with
    | core =>
      exact ⟨_, exec_trimRaise_core s h, rfl, rfl, rfl, rfl, rfl, rfl, rfl, trimmed_toNat .., trimmed_toNat .., rfl⟩
    | serac =>
      exact ⟨_, exec_trimRaise_serac s h, rfl, rfl, rfl, rfl, rfl, rfl, rfl, trimmed_toNat .., trimmed_toNat .., rfl⟩
  case limit =>
    obtain ⟨ofs, hexec⟩ := exec_trimRaise_limit s r h
    obtain ⟨netQ, lom, hmargin⟩ := s.marginReached_eq ofs
    obtain ⟨gtc, heval, -, -⟩ := (s.marginReached ofs).evalOp_eq
    have hsettles : s.settles (s.marginReached ofs).evalOp := by
      rw [hmargin]
      exact State.settles_evalOp rfl rfl rfl rfl rfl
    rw [heval, hmargin] at hexec hsettles
    exact ⟨_, hexec, rfl, by cases r <;> rfl, by cases r <;> rfl, hsettles, rfl, State.onlyNet_of_routers rfl, rfl⟩

end Sys2Proof.Machine
end

section
/-!
SUPPORT. Stretchers, supply dips and the power brake (R564 to R566, R568 to R571), each command by what it leaves, and the
obligation they settle.
-/
namespace Sys2Proof.Machine
-- One declaration at a time keeps the compile of the whole text within its memory.
set_option Elab.async false
open Host

/-! ### Stretchers (R564) -/

/-- A stretch event leaves every other thaw count, and is one more thaw event in fixed-frequency mode. -/
theorem State.thawEvent_counts (s : State) (n : Fin 11) : ∃ gtc, s.thawEvent n = { s with gtc := gtc } ∧
    gtc.thaw = s.gtc.thaw + (if s.fixedFreq then 1 else 0) ∧ gtc.count = s.gtc.count ∧
    ∀ m ≠ n, gtc.thawN[m] = s.gtc.thawN[m] := by
  unfold State.thawEvent
  split
  · refine ⟨_, rfl, rfl, rfl, fun m hm => ?_⟩
    exact Vector.getElem_set_ne n.isLt m.isLt fun h => hm (Fin.ext h.symm)
  · exact ⟨s.gtc, rfl, (BitVec.add_zero _).symm, rfl, fun _ _ => rfl⟩

/-- The domains' bits. -/
theorem getLsbD_twoPow (d e : StretchDomain) : (BitVec.ofNat 6 (2 ^ d.val)).getLsbD e.val = decide (e = d) := by
  revert d e
  decide

/-- A stretcher that engages: its own bit and count, and one thaw event. -/
theorem State.engage_idle {s : State} {d : StretchDomain} (h : s.power.engaged.getLsbD d.val = false) :
    ∃ gtc, s.engage d = { s with
        gtc := gtc
        power := { s.power with
          engaged := s.power.engaged ||| BitVec.ofNat 6 (2 ^ d.val)
          stretch := s.power.stretch.set d (s.power.stretch[d] + 1) } } ∧
      gtc.thaw = s.gtc.thaw + (if s.fixedFreq then 1 else 0) ∧ gtc.count = s.gtc.count ∧
      gtc.thawN[4] = s.gtc.thawN[4] := by
  obtain ⟨gtc, hthaw, hcount, hgtc, hrest⟩ := State.thawEvent_counts { s with power := { s.power with
      engaged := s.power.engaged ||| BitVec.ofNat 6 (2 ^ d.val)
      stretch := s.power.stretch.set d (s.power.stretch[d] + 1) } } 3
  refine ⟨gtc, ?_, hcount, hgtc, hrest 4 (by decide)⟩
  rw [State.engage, h]
  exact hthaw

theorem State.engage_engaged {s : State} {d : StretchDomain} (h : s.power.engaged.getLsbD d.val = true) : s.engage d = s :=
  if_pos h

/-- A count at its own place goes up by one, and no other. -/
theorem getElem_set_succ (v : Vector Word 6) (d e : StretchDomain) :
    (v.set d (v[d] + 1))[e] = v[e] + (if e = d then 1 else 0) := by
  by_cases h : e = d
  · subst h; simp
  · have hne : d.val ≠ e.val := fun he => h (Fin.ext he.symm)
    simp [h, Fin.getElem_fin, Vector.getElem_set_ne _ _ hne]

/-- `u` is `s` with the stretchers of the domains in `l` engaged, each counted unless it was before. -/
structure State.Stretched (s u : State) (l : List StretchDomain) : Prop where
  frame : u = { s with gtc := u.gtc, power := { s.power with engaged := u.power.engaged, stretch := u.power.stretch } }
  bits : ∀ e : StretchDomain, u.power.engaged.getLsbD e.val = (s.power.engaged.getLsbD e.val || decide (e ∈ l))
  counts : ∀ e : StretchDomain, u.power.stretch[e] =
    s.power.stretch[e] + (if e ∈ l ∧ s.power.engaged.getLsbD e.val = false then 1 else 0)
  count : u.gtc.count = s.gtc.count
  thawN : u.gtc.thawN[4] = s.gtc.thawN[4]

theorem State.engage_stretched (s : State) (d : StretchDomain) : s.Stretched (s.engage d) [d] := by
  cases h : s.power.engaged.getLsbD d.val
  · obtain ⟨gtc, heq, -, hcount, hthaw⟩ := State.engage_idle h
    rw [heq]
    refine ⟨rfl, fun e => ?_, fun e => ?_, hcount, hthaw⟩
    · simp only [BitVec.getLsbD_or, getLsbD_twoPow, List.mem_singleton]
    · rw [getElem_set_succ]
      by_cases he : e = d
      · subst he; simpa using h
      · simp [he]
  · rw [State.engage_engaged h]
    refine ⟨rfl, fun e => ?_, fun e => ?_, rfl, rfl⟩
    · by_cases he : e = d
      · subst he; simp [h]
      · simp [he]
    · by_cases he : e = d
      · subst he; simp [h]
      · simp [he]

theorem State.Stretched.append {s u v : State} {l l' : List StretchDomain} (h : s.Stretched u l) (h' : u.Stretched v l')
    (hdisj : l.Disjoint l') : s.Stretched v (l ++ l') where
  frame := by
    have hv := h'.frame
    rw [h.frame] at hv
    exact hv
  bits e := by simp only [h'.bits, h.bits, List.mem_append, Bool.decide_or, Bool.or_assoc]
  counts e := by
    have hd : e ∈ l → e ∉ l' := fun h1 h2 => hdisj h1 h2
    rw [h'.counts, h.counts, h.bits]
    by_cases h1 : e ∈ l
    · simp [h1, hd h1]
    · simp [h1]
  count := h'.count.trans h.count
  thawN := h'.thawN.trans h.thawN

theorem State.foldl_engage_stretched (s : State) {l : List StretchDomain} (hl : l.Nodup) :
    s.Stretched (l.foldl (fun (s : State) (d : StretchDomain) => s.engage d) s) l := by
  induction l generalizing s with
  | nil => exact ⟨rfl, by simp, by simp, rfl, rfl⟩
  | cons d l ih =>
    obtain ⟨hd, hl⟩ := List.nodup_cons.1 hl
    exact (s.engage_stretched d).append (ih _ hl) (List.singleton_disjoint.2 hd)

/-- The stretchers of VDD_CORE's domains, engaged (R565). -/
def State.coreStretched (s : State) : State :=
  [0, 1, 2, 3, 5].foldl (fun (s : State) (d : StretchDomain) => s.engage d) s

theorem State.coreStretched_eq (s : State) : ∃ gtc engaged stretch,
    s.coreStretched = { s with gtc := gtc, power := { s.power with engaged := engaged, stretch := stretch } } ∧
      engaged.toNat = s.power.engaged.toNat ||| 0b101111 ∧
      (∀ d : StretchDomain, stretch[d] =
        s.power.stretch[d] + (if d ≠ 4 ∧ s.power.engaged.getLsbD d.val = false then 1 else 0)) ∧
      gtc.count = s.gtc.count ∧ gtc.thawN[4] = s.gtc.thawN[4] := by
  have hst : s.Stretched s.coreStretched [0, 1, 2, 3, 5] := s.foldl_engage_stretched (by decide)
  have hcore : ∀ e : StretchDomain, decide (e ∈ ([0, 1, 2, 3, 5] : List StretchDomain)) = (0b101111#6).getLsbD e.val := by
    decide
  have hmem : ∀ e : StretchDomain, e ∈ ([0, 1, 2, 3, 5] : List StretchDomain) ↔ e ≠ 4 := by decide
  have hor : s.coreStretched.power.engaged = s.power.engaged ||| 0b101111#6 := by
    refine BitVec.eq_of_getLsbD_eq fun i hi => ?_
    rw [BitVec.getLsbD_or, ← hcore ⟨i, hi⟩]
    exact hst.bits ⟨i, hi⟩
  refine ⟨_, _, _, hst.frame, ?_, fun d => ?_, hst.count, hst.thawN⟩
  · rw [hor]
    exact BitVec.toNat_or ..
  · rw [hst.counts]
    simp only [hmem]

/-! ### Dips (R565, R566) -/

/-- `s` with a dip of lowest sample `mv` logged and counted, and its cap set. -/
def State.dipped (s : State) (mv : BitVec 16) : State :=
  { s with power := { s.power with
    dips := s.power.dips + 1
    dipLog := (s.gtc.count, mv) :: s.power.dipLog
    dipCap := if s.power.dipUntil.isSome then belowOp s.power.dipCap else belowOp s.power.op
    dipUntil := some (s.gtc.count + 10000000) } }

theorem exec_supplyDip {s : State} {mv : BitVec 16} (h : mv.toNat < s.power.coreMv.toNat - 60) :
    exec (.supplyDip mv) s = .next (s.coreStretched.dipped mv).evalOp :=
  if_neg (Nat.not_le.2 h)

/-! ### The power brake (R568 to R570) -/

/-- `s` once wire `w` has been low for 20 ns: a brake, counted when none was in force. -/
def State.braked (s : State) (w : BrakeWire) : State :=
  let q : Power := match w with | .a => { s.power with wireA := true } | .b => { s.power with wireB := true }
  State.wiresMoved { s with power :=
    { q with brake := true, brakes := if s.power.brake then s.power.brakes else s.power.brakes + 1 } }

/-- `s` with a wiring fault held, counted and reported (R569). -/
def State.wiringFault (s : State) : State :=
  State.smcReport { s with power := { s.power with
    wiring := true, wirings := s.power.wirings + 1, disagree := none } } 0x101 0 0

theorem State.wiringFault_eq (s : State) : ∃ routers lom, s.wiringFault = { s with
    power := { s.power with wiring := true, wirings := s.power.wirings + 1, disagree := none }
    routers := routers, lom := lom
    integ := { s.integ with evSeq := s.integ.evSeq + 1, evreps := s.integ.evreps + 1 } } := by
  obtain ⟨routers, lom, hreport, -⟩ := State.report_eq { s with power := { s.power with
    wiring := true, wirings := s.power.wirings + 1, disagree := none } } (Config.smcEvent 0x101) .chip 0 0 0
  exact ⟨routers, lom, hreport⟩

theorem exec_pwrbrkDiscrepancy {s : State} {t : Word} (ht : s.power.disagree = some t)
    (h : t.toNat + 1000 * s.power.tdisc.toNat < s.gtc.count.toNat) :
    exec .pwrbrkDiscrepancy s = .next s.wiringFault.evalOp := by
  change execPwrbrkDiscrepancy s = _
  simp only [execPwrbrkDiscrepancy, ht, if_neg (Nat.not_le.2 h)]
  rfl

theorem State.settles_op_zero {s u : State} (h : s.settles u)
    (hbrake : u.power.brake = true ∨ u.power.wiring = true ∨ u.power.thmax = true) : u.power.op = 0 := by
  obtain ⟨hzero, -, hop, -⟩ := h
  rw [hzero hbrake] at hop
  exact BitVec.eq_of_toNat_eq (hop.trans (Nat.min_zero _))

/-- Settles O50: the stretchers by `Stretched`, every change of the operating point by `settles_evalOp`. -/
theorem dipsStretchesAndBrakes : Obligations.DipsStretchesAndBrakes := by
  unfold Obligations.DipsStretchesAndBrakes
  intro s
  refine ⟨fun d => ⟨fun h => ?stretch, fun h => ?stretched, ?relax⟩, fun mv h => ?nodip, fun mv h => ?dip,
    fun t ht => ⟨fun h => ?expire, fun h => ?capped⟩, fun h => ?uncapped,
    fun w => ⟨fun h => ?assert, fun h => ?asserted, fun h => ?deassert, fun h => ?deasserted⟩,
    fun t ht => ⟨fun h => ?wiring, fun h => ?brief⟩, fun h => ?agree,
    fun t ht hbrake ha hb => ⟨fun h hw => ?release, fun h => ?hold⟩, fun h => ?low⟩
  case stretch =>
    obtain ⟨gtc, heq, hthaw, -⟩ := State.engage_idle h
    have hst := s.engage_stretched d
    refine ⟨_, rfl, ?_, ?_, fun e => ?_, ?_, fun e he => ?_, ?_⟩
    · rw [heq]
    · rw [hst.bits]; simp
    · rw [hst.counts]
      by_cases he : e = d
      · subst he; simpa using h
      · simp [he]
    · rw [heq]
    · rw [hst.bits]; simp [he]
    · rw [heq]; exact hthaw
  case stretched => exact congrArg _ (State.engage_engaged h)
  case relax =>
    refine ⟨_, rfl, rfl, fun e => ?_⟩
    have hlt : e.val < 6 := e.isLt
    change (s.power.engaged &&& ~~~ BitVec.ofNat 6 (2 ^ d.val)).getLsbD e.val = _
    rw [BitVec.getLsbD_and, BitVec.getLsbD_not, getLsbD_twoPow, decide_eq_true hlt, Bool.true_and]
  case nodip => exact if_pos h
  case dip =>
    obtain ⟨gtc, engaged, stretch, heq, hengaged, hstretch, hcount, hthaw⟩ := s.coreStretched_eq
    rw [exec_supplyDip h, heq]
    refine ⟨_, rfl, State.evalOp_frame _, State.settles_evalOp rfl rfl rfl rfl hthaw, State.evalOp_dips _, ?_, ?_, ?_,
      ?_, State.evalOp_powerCap _, State.evalOp_thermCap _, fun d => ?_⟩
    · rw [State.evalOp_dipLog, ← hcount]
      rfl
    · rw [State.evalOp_dipUntil, ← hcount]
      rfl
    · rw [State.evalOp_dipCap, ← belowOp_toNat, apply_ite belowOp]
      rfl
    · rw [State.evalOp_engaged, ← hengaged]
      rfl
    · rw [State.evalOp_stretch, ← hstretch]
      rfl
  case expire =>
    refine ⟨{ s with power := { s.power with dipCap := 7, dipUntil := none } }.evalOp, ?_, State.evalOp_frame _,
      State.settles_evalOp rfl rfl rfl rfl rfl, State.evalOp_dipCap _, State.evalOp_dipUntil _⟩
    change execDipCapExpire s = _
    rw [execDipCapExpire, ht]
    exact if_neg (Nat.not_lt.2 h)
  case capped =>
    change execDipCapExpire s = _
    rw [execDipCapExpire, ht]
    exact if_pos h
  case uncapped =>
    change execDipCapExpire s = _
    rw [execDipCapExpire, h]
  case assert =>
    have hexec : exec (.pwrbrkAssert w) s = .next (s.braked w).evalOp := by
      cases w <;> exact if_neg (Bool.eq_false_iff.1 h)
    have hsettles : s.settles (s.braked w).evalOp := by
      cases w <;> exact State.settles_evalOp rfl rfl rfl rfl rfl
    have hbrake : (s.braked w).evalOp.power.brake = true := by rw [State.evalOp_brake]; cases w <;> rfl
    refine ⟨_, hexec, ?_, hsettles, ?_, ?_, hbrake, ?_, State.settles_op_zero hsettles (.inl hbrake), ?_, ?_⟩
    · refine (State.evalOp_frame _).trans ?_
      cases w <;> rfl
    · cases w
      · exact State.evalOp_wireA _
      · exact State.evalOp_wireB _
    · cases w
      · exact State.evalOp_wireB _
      · exact State.evalOp_wireA _
    · rw [State.evalOp_brakes]
      cases w <;> rfl
    · rw [State.evalOp_disagree]
      cases w
      · cases hb : s.power.wireB <;> simp [State.braked, State.wiresMoved, hb]
      · cases ha : s.power.wireA <;> simp [State.braked, State.wiresMoved, ha]
    · rw [State.evalOp_brakeFree]
      cases w <;> simp [State.braked, State.wiresMoved]
  case asserted => cases w <;> exact if_pos h
  case deassert =>
    cases w
    · refine ⟨_, if_neg (by simpa using h), rfl, rfl, ?_, ?_, rfl⟩ <;>
        cases hb : s.power.wireB <;> simp [State.wiresMoved, hb]
    · refine ⟨_, if_neg (by simpa using h), rfl, rfl, ?_, ?_, rfl⟩ <;>
        cases ha : s.power.wireA <;> simp [State.wiresMoved, ha]
  case deasserted => cases w <;> exact if_pos (by simpa using h)
  case wiring =>
    obtain ⟨netQ, lom, hreport⟩ := s.wiringFault_eq
    have hsettles : s.settles s.wiringFault.evalOp := by
      rw [hreport]
      exact State.settles_evalOp rfl rfl rfl rfl rfl
    have hwiring : s.wiringFault.evalOp.power.wiring = true := by rw [State.evalOp_wiring, hreport]
    refine ⟨_, exec_pwrbrkDiscrepancy ht h, hsettles, hwiring, ?_, State.settles_op_zero hsettles (.inr (.inl hwiring)), ?_⟩
    · rw [State.evalOp_wirings, hreport]
    · rw [State.evalOp_frame, hreport]
      exact ⟨rfl, rfl, rfl, rfl⟩
  case brief =>
    change execPwrbrkDiscrepancy s = _
    simp only [execPwrbrkDiscrepancy, ht, if_pos h]
  case agree =>
    change execPwrbrkDiscrepancy s = _
    simp only [execPwrbrkDiscrepancy, h]
  case release =>
    refine ⟨{ s with power := { s.power with brake := false, brakeFree := none } }.evalOp, ?_, State.evalOp_frame _,
      State.settles_evalOp rfl rfl rfl rfl rfl, State.evalOp_brake _, State.evalOp_dipCap _, State.evalOp_thermCap _⟩
    change execBrakeRelease s = _
    simp [execBrakeRelease, ht, hbrake, ha, hb, hw, h]
  case hold =>
    change execBrakeRelease s = _
    simp only [execBrakeRelease, ht]
    exact if_pos (by rcases h with h | h <;> simp [h])
  case low =>
    change execBrakeRelease s = _
    unfold execBrakeRelease
    dsimp only
    split
    · rfl
    · exact if_pos (by rcases h with h | h <;> simp [h])

end Sys2Proof.Machine
end

section
/-!
SUPPORT. Thermal control (R572, R573): what a sample finds, and the obligation on the thermal cap, THERMAL_MAX and THERMTRIP.
-/
namespace Sys2Proof.Machine
-- One declaration at a time keeps the compile of the whole text within its memory.
set_option Elab.async false
open Host

/-! ### The hottest reading -/

/-- The later of two readings when it is higher. -/
def hotter (b x : Nat × Nat) : Nat × Nat := if b.1 < x.1 then x else b

theorem foldl_hotter_isGreatest (l : List (Nat × Nat)) (b : Nat × Nat) :
    l.foldl hotter b ∈ b :: l ∧ ∀ x ∈ b :: l, x.1 ≤ (l.foldl hotter b).1 := by
  induction l generalizing b with
  | nil => simp
  | cons y l ih =>
    obtain ⟨hmem, hle⟩ := ih (hotter b y)
    have hstep : (hotter b y = b ∨ hotter b y = y) ∧ b.1 ≤ (hotter b y).1 ∧ y.1 ≤ (hotter b y).1 := by
      unfold hotter
      split <;> simp <;> omega
    obtain ⟨hor, hb, hy⟩ := hstep
    have hhead := hle _ List.mem_cons_self
    refine ⟨?_, ?_⟩
    · rcases List.mem_cons.1 hmem with h | h
      · rw [List.foldl_cons, h]
        rcases hor with h | h <;> simp [h]
      · exact List.mem_cons_of_mem _ (List.mem_cons_of_mem _ h)
    · rintro x (_ | ⟨_, _ | ⟨_, hx⟩⟩)
      · exact hb.trans hhead
      · exact hy.trans hhead
      · exact hle x (List.mem_cons_of_mem _ hx)

/-- The readings of the dies, each with its sensor. -/
def tempsDies (t : Temps) : List (Nat × Nat) := (t.die.map BitVec.toNat).zip (List.range 15)

/-- 100 °C for each stack at 95 °C or above, with its sensor. -/
def tempsHots (t : Temps) : List (Nat × Nat) :=
  ((t.hbm.map BitVec.toNat).zip (List.range 8)).filterMap fun x => if 95 ≤ x.1 then some (100, 16 + x.2) else none

theorem tempsTj_eq (t : Temps) : tempsTj t = (tempsDies t ++ tempsHots t).foldl hotter (0, 0) := rfl

/-- The highest reading of the dies. -/
def tempsDieMax (t : Temps) : Nat := t.die.foldl (fun m x => max m x.toNat) 0

theorem tempsDieMax_isGreatest (t : Temps) :
    (∀ x ∈ t.die, x.toNat ≤ tempsDieMax t) ∧ (tempsDieMax t = 0 ∨ ∃ x ∈ t.die, x.toNat = tempsDieMax t) := by
  have hmap : tempsDieMax t = (t.die.map BitVec.toNat).foldl max 0 := by rw [List.foldl_map]; rfl
  obtain ⟨-, hle, hmem⟩ := foldl_max_isGreatest (t.die.map BitVec.toNat) 0
  rw [← hmap] at hle hmem
  exact ⟨fun x hx => hle _ (List.mem_map_of_mem hx), hmem.imp_right List.mem_map.1⟩

theorem mem_tempsHots {t : Temps} {v i : Nat} (h : (v, i) ∈ tempsHots t) : v = 100 ∧ 16 ≤ i ∧ i < 24 ∧ ∃ x ∈ t.hbm, 95 ≤ x.toNat := by
  simp only [tempsHots, List.mem_filterMap] at h
  obtain ⟨⟨a, k⟩, hmem, hsome⟩ := h
  obtain ⟨x, hx, rfl⟩ := List.mem_map.1 (List.of_mem_zip hmem).1
  have hk := List.mem_range.1 (List.of_mem_zip hmem).2
  split at hsome
  · obtain ⟨rfl, rfl⟩ := Prod.mk.inj (Option.some.inj hsome)
    exact ⟨rfl, by omega, by omega, x, hx, ‹_›⟩
  · cases hsome

section
variable {t : Temps} (hwf : t.WellFormed = true)
include hwf

theorem temps_lengths : t.die.length = 15 ∧ t.hbm.length = 8 := by
  simpa [Temps.WellFormed] using hwf

theorem mem_tempsDies {v i : Nat} : (v, i) ∈ tempsDies t ↔ ∃ h : i < t.die.length, t.die[i].toNat = v := by
  obtain ⟨hdie, -⟩ := temps_lengths hwf
  simp only [tempsDies, List.mem_iff_getElem, List.getElem_zip, List.getElem_map, List.getElem_range, Prod.mk.injEq]
  constructor
  · rintro ⟨j, hj, hv, rfl⟩
    exact ⟨by simpa [hdie] using hj, hv⟩
  · rintro ⟨hi, hv⟩
    exact ⟨i, by simpa [hdie] using hi, hv, rfl⟩

theorem exists_mem_tempsHots (h : ∃ x ∈ t.hbm, 95 ≤ x.toNat) : ∃ i, (100, i) ∈ tempsHots t := by
  obtain ⟨-, hhbm⟩ := temps_lengths hwf
  obtain ⟨x, hx, h95⟩ := h
  obtain ⟨i, hi, rfl⟩ := List.getElem_of_mem hx
  refine ⟨16 + i, List.mem_filterMap.2 ⟨(t.hbm[i].toNat, i), List.mem_iff_getElem.2 ⟨i, by simp [hhbm] at hi ⊢; omega, by simp⟩,
    if_pos h95⟩⟩

/-- Tj as R572 gives it. -/
def tempsHottest (t : Temps) : Nat := if ∃ x ∈ t.hbm, 95 ≤ x.toNat then max (tempsDieMax t) 100 else tempsDieMax t

theorem tempsTj_fst : (tempsTj t).1 = tempsHottest t := by
  obtain ⟨hmem, hle⟩ := foldl_hotter_isGreatest (tempsDies t ++ tempsHots t) (0, 0)
  rw [← tempsTj_eq] at hmem hle
  obtain ⟨hdie, hdieMem⟩ := tempsDieMax_isGreatest t
  have hdieLe : tempsDieMax t ≤ (tempsTj t).1 := by
    rcases hdieMem with h | ⟨x, hx, h⟩
    · omega
    · obtain ⟨i, hi, rfl⟩ := List.getElem_of_mem hx
      rw [← h]
      exact hle _ (List.mem_cons_of_mem _ (List.mem_append_left _ ((mem_tempsDies hwf).2 ⟨hi, rfl⟩)))
  have hcases : (tempsTj t).1 ≤ tempsDieMax t ∨ (tempsTj t).1 = 100 ∧ ∃ x ∈ t.hbm, 95 ≤ x.toNat := by
    rcases List.mem_cons.1 hmem with h | h
    · exact .inl (by rw [h]; exact Nat.zero_le _)
    · rcases List.mem_append.1 h with h | h
      · obtain ⟨hi, hv⟩ := (mem_tempsDies hwf).1 h
        exact .inl (hv ▸ hdie _ (List.getElem_mem hi))
      · obtain ⟨hv, -, -, hhot⟩ := mem_tempsHots h
        exact .inr ⟨hv, hhot⟩
  unfold tempsHottest
  split
  case isTrue hhot =>
    obtain ⟨i, hi⟩ := exists_mem_tempsHots hwf hhot
    have h100 := hle _ (List.mem_cons_of_mem _ (List.mem_append_right _ hi))
    rcases hcases with h | ⟨h, -⟩ <;> simp only at h100 <;> omega
  case isFalse hcool =>
    rcases hcases with h | ⟨-, h⟩
    · omega
    · exact absurd h hcool

/-- The sensor that gives Tj: a die's, or a stack's as 100 °C. -/
theorem tempsTj_sensor : (∀ (i : Nat) (h : i < t.die.length), (tempsTj t).2 = i → tempsHottest t = t.die[i].toNat) ∧
    (∀ k, (tempsTj t).2 = 16 + k → tempsHottest t = 100) ∧ (tempsTj t).2 < 24 := by
  obtain ⟨hmem, hle⟩ := foldl_hotter_isGreatest (tempsDies t ++ tempsHots t) (0, 0)
  rw [← tempsTj_eq] at hmem hle
  obtain ⟨hdie, -⟩ := temps_lengths hwf
  rw [← tempsTj_fst hwf]
  generalize tempsTj t = j at hmem hle
  rcases List.mem_cons.1 hmem with rfl | h
  · refine ⟨fun i hi h0 => ?_, fun k hk => by simp only at hk; omega, by omega⟩
    have hle0 := hle _ (List.mem_cons_of_mem _ (List.mem_append_left _ ((mem_tempsDies hwf).2 ⟨hi, rfl⟩)))
    exact (Nat.le_zero.1 hle0).symm
  · rcases List.mem_append.1 h with h | h
    · obtain ⟨hj, hv⟩ := (mem_tempsDies hwf).1 h
      exact ⟨fun i hi he => by subst he; exact hv.symm, fun k hk => by omega, by omega⟩
    · obtain ⟨hv, h16, h24, -⟩ := mem_tempsHots h
      exact ⟨fun i hi he => by omega, fun k hk => hv, h24⟩
end

/-! ### A sample (R572) -/

/-- The power registers with a sample taken, before the point is evaluated anew. -/
def State.sampled (s : State) (t : Temps) : Power :=
  { s.power with
    tj := BitVec.ofNat 8 (tempsTj t).1
    sensor := BitVec.ofNat 8 (tempsTj t).2
    peak := BitVec.ofNat 8 (max s.power.peak.toNat (tempsTj t).1)
    thermCap := if decide (s.power.tj.toNat < 100) && decide (100 ≤ (tempsTj t).1) then
      lowOp s.power.thermCap (belowOp s.power.op) else s.power.thermCap
    thmax := decide (105 ≤ (tempsTj t).1)
    maxSince := if !decide (105 ≤ (tempsTj t).1) then none
      else if s.power.thmax then s.power.maxSince else some s.gtc.count }

/-- The samples that limit, counted, are no part of the operating point. -/
theorem exec_thermalSample {s : State} {t : Temps} (hwf : t.WellFormed = true) : ∃ n ms,
    let v : State := State.evalOp { s with power := s.sampled t }
    exec (.thermalSample t) s = .next { v with power := { v.power with throtN := n, throtms := ms } } := by
  let v : State := State.evalOp { s with power := s.sampled t }
  have hexec : exec (.thermalSample t) s = .next (if !v.power.throt then v
      else { v with power := { v.power with
        throtN := (v.power.throtN + 1) % 10
        throtms := if (v.power.throtN + 1) % 10 = 0 then v.power.throtms + 1 else v.power.throtms } }) :=
    if_neg (by simp [hwf])
  cases h : v.power.throt
  · exact ⟨v.power.throtN, v.power.throtms, hexec.trans (by rw [h]; rfl)⟩
  · exact ⟨_, _, hexec.trans (by rw [h]; rfl)⟩

theorem tempsHottest_lt {t : Temps} : tempsHottest t < 256 := by
  have hmax : tempsDieMax t < 256 := by
    rcases (tempsDieMax_isGreatest t).2 with h | ⟨x, -, h⟩ <;> omega
  unfold tempsHottest
  split <;> omega

/-- What a sample finds and what it leaves of the caps. -/
theorem thermalSample_spec (s : State) {t : Temps} (hwf : t.WellFormed = true) :
    ∃ u, exec (.thermalSample t) s = .next u ∧ u = { s with power := u.power, gtc := u.gtc } ∧ s.settles u ∧
      u.power.tj.toNat = tempsHottest t ∧ u.power.peak.toNat = max s.power.peak.toNat (tempsHottest t) ∧
      (∀ (i : Nat) (h : i < t.die.length), u.power.sensor.toNat = i → tempsHottest t = t.die[i].toNat) ∧
      (∀ k, u.power.sensor.toNat = 16 + k → tempsHottest t = 100) ∧ (u.power.thmax = true ↔ 105 ≤ tempsHottest t) ∧
      (s.power.tj.toNat < 100 → 100 ≤ tempsHottest t →
        u.power.thermCap.toNat = min s.power.thermCap.toNat (max 1 (s.power.op.toNat - 1))) ∧
      (100 ≤ s.power.tj.toNat ∨ tempsHottest t < 100 → u.power.thermCap = s.power.thermCap) ∧
      u.power.maxSince = (if tempsHottest t < 105 then none
        else if s.power.thmax then s.power.maxSince else some s.gtc.count) ∧
      u.power.dipCap = s.power.dipCap ∧ u.power.powerCap = s.power.powerCap ∧ u.power.brake = s.power.brake := by
  obtain ⟨n, ms, hexec⟩ := exec_thermalSample (s := s) hwf
  have hj : (tempsTj t).1 = tempsHottest t := tempsTj_fst hwf
  obtain ⟨hdie, hstack, hsensor⟩ := tempsTj_sensor hwf
  have hsensorNat : (BitVec.ofNat 8 (tempsTj t).2).toNat = (tempsTj t).2 := Nat.mod_eq_of_lt (by omega)
  have hlt : tempsHottest t < 256 := tempsHottest_lt
  have hpeak := s.power.peak.isLt
  have hsettles : s.settles (State.evalOp { s with power := s.sampled t }) := State.settles_evalOp rfl rfl rfl rfl rfl
  refine ⟨_, hexec, ?_, hsettles, ?_, ?_, fun i hi hs => ?_, fun k hk => ?_, ?_, fun h1 h2 => ?_, fun h1 => ?_, ?_,
    State.evalOp_dipCap _, State.evalOp_powerCap _, State.evalOp_brake _⟩
  · rw [State.evalOp_frame]
  · rw [State.evalOp_tj]
    exact (Nat.mod_eq_of_lt (by omega)).trans hj
  · rw [State.evalOp_peak, ← hj]
    exact Nat.mod_eq_of_lt (by omega)
  · rw [State.evalOp_sensor] at hs
    exact hdie i hi (hsensorNat.symm.trans hs)
  · rw [State.evalOp_sensor] at hk
    exact hstack k (hsensorNat.symm.trans hk)
  · rw [State.evalOp_thmax, ← hj]
    exact decide_eq_true_iff
  · rw [State.evalOp_thermCap, ← belowOp_toNat, ← lowOp_toNat]
    exact congrArg BitVec.toNat (if_pos (by simp [h1, hj, h2]))
  · rw [State.evalOp_thermCap]
    refine if_neg fun h => ?_
    obtain ⟨h2, h3⟩ := Bool.and_eq_true_iff.1 h
    rw [hj] at h3
    exact h1.elim (Nat.not_le.2 (of_decide_eq_true h2)) (Nat.not_lt.2 (of_decide_eq_true h3))
  · rw [State.evalOp_maxSince, ← hj]
    simp only [State.sampled, Bool.not_eq_true', decide_eq_false_iff_not, Nat.not_le]

/-! ### The trip (R573) -/

/-- `s` with THERMTRIP asserted, journalled and reported, its job ended. -/
def State.tripped (s : State) : State :=
  let v := State.smcReport { s with power := { s.power with
    thermtrip := true, trips := s.gtc.count :: s.power.trips } } 0x21 0x21 0
  { v with job := { v.job with last := if v.job.image.isSome then some ⟨8, 0x21⟩ else v.job.last } }

theorem State.tripped_eq (s : State) : ∃ routers lom, s.tripped = { s with
    power := { s.power with thermtrip := true, trips := s.gtc.count :: s.power.trips }
    job := { s.job with last := if s.job.image.isSome then some ⟨8, 0x21⟩ else s.job.last }
    routers := routers, lom := lom
    integ := { s.integ with evSeq := s.integ.evSeq + 1, evreps := s.integ.evreps + 1 } } := by
  obtain ⟨routers, lom, hreport, -⟩ := State.report_eq { s with power := { s.power with
    thermtrip := true, trips := s.gtc.count :: s.power.trips } } (Config.smcEvent 0x21) .chip 0 0x21 0
  refine ⟨routers, lom, ?_⟩
  rw [State.tripped, State.smcReport, hreport]

/-- Settles O51: a sample by the hottest reading, each change of a cap by `settles_evalOp`, the trip by what it holds. -/
theorem thermalLimitsHold : Obligations.ThermalLimitsHold := by
  unfold Obligations.ThermalLimitsHold
  intro s
  refine ⟨fun t hwf => ?sample, fun h => ?lower, fun h => if_pos h, fun h hcap => ?raise, fun h => if_pos h,
    fun t ht hmax => ⟨fun h himage => ?stop, fun h => ?wait⟩, fun h => ?cool, fun h => ?trip, fun h => if_pos h⟩
  case sample => exact thermalSample_spec s hwf
  case lower => exact ⟨_, if_neg (Nat.not_lt.2 h), State.evalOp_frame _, State.settles_evalOp rfl rfl rfl rfl rfl, by
      rw [State.evalOp_thermCap]; exact belowOp_toNat _⟩
  case raise =>
    refine ⟨_, if_neg (by rintro (h' | h'); exacts [absurd h' (Nat.not_lt.2 h), hcap h']), State.evalOp_frame _,
      State.settles_evalOp rfl rfl rfl rfl rfl, ?_⟩
    have hlt := s.power.thermCap.isLt
    have hne : s.power.thermCap.toNat ≠ 7 := fun he => hcap (BitVec.eq_of_toNat_eq he)
    have hsucc : (s.power.thermCap + 1).toNat = s.power.thermCap.toNat + 1 := by
      rw [BitVec.toNat_add]
      exact Nat.mod_eq_of_lt (by simp; omega)
    rw [State.evalOp_thermCap, ← s.opWanted_toNat, ← hsucc]
    exact apply_ite BitVec.toNat ..
  case stop =>
    have hexec : exec .thermalMaxTimeout s = .next (State.smcStop { s with power := { s.power with maxSince := none } } 0x20) := by
      change execThermalMaxTimeout s = _
      simp only [execThermalMaxTimeout, ht]
      exact if_neg (by simp [hmax]; omega)
    have himage' : s.job.image.isNone = false := by simpa [Option.isSome_iff_ne_none] using himage
    rw [hexec, State.smcStop, himage']
    exact ⟨_, _, rfl, rfl, rfl, rfl, rfl, rfl, rfl⟩
  case wait =>
    change execThermalMaxTimeout s = _
    simp only [execThermalMaxTimeout, ht]
    exact if_pos (by simp [h])
  case cool =>
    change execThermalMaxTimeout s = _
    simp only [execThermalMaxTimeout, h]
  case trip =>
    obtain ⟨routers, lom, htrip⟩ := s.tripped_eq
    have hexec : exec .thermtrip s = .next (s.tripped.holdDies false) := if_neg (by simp [h])
    rw [hexec, htrip]
    refine ⟨_, rfl, rfl, rfl, rfl, rfl, rfl, rfl, rfl, rfl, rfl, rfl, rfl, fun _ => rfl, fun himage => if_pos himage⟩

end Sys2Proof.Machine
end

section
/-!
SUPPORT. What commands keep (R592): the byte memories and the fuses, and what the management controller holds. An operation
that writes no memory leaves `kept` as it is.
-/
namespace Sys2Proof.Machine
-- One declaration at a time keeps the compile of the whole text within its memory.
set_option Elab.async false
open Host

/-- The byte memories and the fuses. -/
structure Stored where
  mem : List Cell
  hostA : List Cell
  hostB : List Cell
  nor : List Cell
  fuses : Fuses

/-- What an operation that is no memory write and no work of the SMC leaves: the memories and the fuses, the SMC's boot
state, its pins and power registers, the queue and the GTC's count. -/
structure Kept where
  stored : Stored
  boot : Boot
  power : Power
  side : Side
  pending : List Instr
  count : Word

def State.kept (s : State) : Kept :=
  ⟨⟨s.mem, s.hostA, s.hostB, s.nor, s.fuses⟩, s.boot, s.power, s.side, s.pending, s.gtc.count⟩

/-- A replacement of other parts leaves it. -/
@[simp] theorem State.kept_mk (s : State) {tiles clusters hbm ports spares routers cp gtc job ouvzu integ ckpt lom free}
    (hcount : gtc.count = s.gtc.count) :
    (State.mk tiles clusters hbm ports spares routers cp gtc job ouvzu integ ckpt s.power s.fuses s.boot lom s.side s.mem
      s.hostA s.hostB s.nor free s.pending).kept = s.kept := by
  simp [State.kept, hcount]

/-- A replacement of anything but memory and fuses leaves these. -/
@[simp] theorem State.stored_mk (s : State) {tiles clusters hbm ports spares routers cp gtc job ouvzu integ ckpt power boot
    lom side free pending} :
    (State.mk tiles clusters hbm ports spares routers cp gtc job ouvzu integ ckpt power s.fuses boot lom side s.mem
      s.hostA s.hostB s.nor free pending).kept.stored = s.kept.stored := by rfl

theorem foldl_kept {α : Type} {f : State → α → State} (h : ∀ s a, (f s a).kept = s.kept) (l : List α) (s : State) :
    (l.foldl f s).kept = s.kept := by
  induction l generalizing s with
  | nil => rfl
  | cons a l ih => exact (ih _).trans (h s a)

/-! ### Operations that write no memory -/

@[simp] theorem State.setTile_kept (s : State) (t : TileId) (x : Tile) : (s.setTile t x).kept = s.kept := by rfl
@[simp] theorem State.modTile_kept (s : State) (t : TileId) (f : Tile → Tile) : (s.modTile t f).kept = s.kept := by rfl
@[simp] theorem State.modCluster_kept (s : State) (c : ClusterId) (f : Cluster → Cluster) :
    (s.modCluster c f).kept = s.kept := by rfl
@[simp] theorem State.modPort_kept (s : State) (p : PortId) (f : LPort → LPort) : (s.modPort p f).kept = s.kept := by rfl
@[simp] theorem State.modRouter_kept (s : State) (d : Die) (f : Router → Router) :
    (s.modRouter d f).kept = s.kept := by rfl
@[simp] theorem State.modStack_kept (s : State) (k : StackId) (f : Stack → Stack) :
    (s.modStack k f).kept = s.kept := by rfl
@[simp] theorem State.modFn_kept (s : State) (p : PciePort) (f : PciFn → PciFn) : (s.modFn p f).kept = s.kept := by rfl
@[simp] theorem State.modSeq_kept (s : State) (t : TileId) (f : Seq → Seq) : (s.modSeq t f).kept = s.kept := by rfl
@[simp] theorem State.relayOut_kept (s : State) (f : LomFrame) : (s.relayOut f).kept = s.kept := by
  unfold State.relayOut
  dsimp only
  repeat' split
  all_goals simp
@[simp] theorem State.sendLom_kept (s : State) (ty : BitVec 8) (refseq : BitVec 32) (payload : List Byte) :
    (s.sendLom ty refseq payload).kept = s.kept := by
  simp [State.sendLom]
@[simp] theorem State.sendReport_kept (s : State) (e : Event) (cls act : Nat) :
    (s.sendReport e cls act).kept = s.kept := by
  simp [State.sendReport]
@[simp] theorem State.report_kept (s : State) (code : BitVec 16) (ukind : UnitKind) (uindex : Nat) (d0 d1 : Word) :
    (s.report code ukind uindex d0 d1).1.kept = s.kept := by
  simp [State.report]
@[simp] theorem State.thawEvent_kept (s : State) (n : Fin 11) : (s.thawEvent n).kept = s.kept := by
  unfold State.thawEvent
  split <;> rfl
@[simp] theorem State.markUe_kept (s : State) (key : Nat) : (s.markUe key).kept = s.kept := by
  unfold State.markUe
  split <;> simp
@[simp] theorem State.endJob_kept (s : State) (status : Nat) (detail : Word) :
    (s.endJob status detail).kept = s.kept := by
  unfold State.endJob
  split <;> rfl
@[simp] theorem State.tileFault_kept (s : State) (t : TileId) (funit : Nat) :
    (s.tileFault t funit).kept = s.kept := by
  simp [State.tileFault]
@[simp] theorem State.modDigest_kept (s : State) (t : TileId) (u : TileUnit) (f : Digest → Digest) :
    (s.modDigest t u f).kept = s.kept := by
  unfold State.modDigest
  split <;> rfl
@[simp] theorem State.digestOp_kept (s : State) (t : TileId) (u : TileUnit) (bytes : List Byte) :
    (s.digestOp t u bytes).kept = s.kept := by
  simp [State.digestOp]
@[simp] theorem cpRegWrite_kept (s : State) (o n v : Nat) : (cpRegWrite s o n v).kept = s.kept := by rfl
@[simp] theorem State.regWr_kept (s : State) (t : Target) (n v : Nat) : (s.regWr t n v).kept = s.kept := by
  unfold State.regWr
  split <;> rfl
@[simp] theorem State.recordRepair_kept (s : State) (r : Repair) : (s.recordRepair r).kept = s.kept := by
  unfold State.recordRepair
  split <;> rfl
@[simp] theorem State.serEnd_kept (s : State) (c : ClusterId) (ix : Nat) : (s.serEnd c ix).kept = s.kept := by rfl
@[simp] theorem State.setRun_kept (s : State) (c : ClusterId) (r : SerRun) : (s.setRun c r).kept = s.kept := by rfl
@[simp] theorem State.smcStop_kept (s : State) (cause : Nat) : (s.smcStop cause).kept = s.kept := by
  unfold State.smcStop
  split <;> rfl
@[simp] theorem State.enterProbation_kept (s : State) (seq : BitVec 32) : (s.enterProbation seq).kept = s.kept := by
  simp [State.enterProbation]
@[simp] theorem State.drain_kept (s : State) (seq : BitVec 32) : (s.drain seq).kept = s.kept := by
  simp [State.drain]
@[simp] theorem State.recordColumn_kept (s : State) (v : Verdict) : (s.recordColumn v).kept = s.kept := by
  unfold State.recordColumn
  split <;> simp
@[simp] theorem State.countTest_kept (s : State) : s.countTest.kept = s.kept := by rfl
@[simp] theorem State.pauseClusters_kept (s : State) (b : Bool) : (s.pauseClusters b).kept = s.kept := by rfl
@[simp] theorem State.setVerdict_kept (s : State) (v : BitVec 2) : (s.setVerdict v).kept = s.kept := by rfl
@[simp] theorem State.suspect_kept (s : State) (e : Event) : (s.suspect e).kept = s.kept := by rfl
@[simp] theorem State.returnCredits_kept (s : State) (p : PortId) (vc n : Nat) :
    (s.returnCredits p vc n).kept = s.kept := by rfl
@[simp] theorem State.enqueue_kept (s : State) (pkt : Packet) (input : RouterInput) (l : List (PortId × Bool)) :
    (s.enqueue pkt input l).kept = s.kept := by
  unfold State.enqueue
  exact foldl_kept (fun _ _ => by simp) _ _
@[simp] theorem State.dropPkt_kept (s : State) (d : Die) (f : Router → Router) : (s.dropPkt d f).kept = s.kept := by rfl
@[simp] theorem State.routeError_kept (s : State) (d : Die) (pkt : Packet) : (s.routeError d pkt).kept = s.kept := by
  simp [State.routeError]
@[simp] theorem State.deliverPkt_kept (s : State) (d : Die) (pkt : Packet) : (s.deliverPkt d pkt).kept = s.kept := by rfl
@[simp] theorem State.freeInput_kept (s : State) (input : RouterInput) (pkt : Packet) :
    (s.freeInput input pkt).kept = s.kept := by
  unfold State.freeInput
  split <;> rfl
@[simp] theorem State.sendOn_kept (s : State) (d : Die) (input : RouterInput) (pkt : Packet) (l : List (PortId × Bool)) :
    (s.sendOn d input pkt l).kept = s.kept := by
  unfold State.sendOn
  dsimp only
  repeat' split
  all_goals simp
@[simp] theorem State.routePkt_kept (s : State) (d : Die) (input : RouterInput) (pkt : Packet) :
    (s.routePkt d input pkt).kept = s.kept := by
  unfold State.routePkt
  dsimp only
  repeat' split
  all_goals simp
@[simp] theorem State.inject_kept (s : State) (d : Die) (pkt : Packet) : (s.inject d pkt).kept = s.kept := by rfl
@[simp] theorem State.mgmtInject_kept (s : State) (d : Die) (pkt : Packet) : (s.mgmtInject d pkt).kept = s.kept := by
  unfold State.mgmtInject
  dsimp only
  split <;> simp
@[simp] theorem State.modInst_kept (s : State) (k : Nat) (f : CollInst → CollInst) :
    (s.modInst k f).kept = s.kept := by rfl
@[simp] theorem State.modPath_kept (s : State) (k j : Nat) (f : CollPath → CollPath) :
    (s.modPath k j f).kept = s.kept := by rfl
@[simp] theorem State.collFlags_kept (s : State) (k fl : Nat) : (s.collFlags k fl).kept = s.kept := by rfl
@[simp] theorem State.sendSeg_kept (s : State) (die : Die) (d : CollDecl) (t : Topo) (p : CollPath) (g : SendSeg) (only : Option ChipAddr) :
    (s.sendSeg die d t p g only).kept = s.kept := by
  unfold State.sendSeg
  exact foldl_kept (fun _ _ => by simp) _ _
@[simp] theorem State.sendAborts_kept (s : State) (c : CollInst) (d : CollDecl) (status : Nat) (except : List ChipAddr) :
    (s.sendAborts c d status except).kept = s.kept := by
  unfold State.sendAborts
  exact foldl_kept (fun _ _ => by simp) _ _
@[simp] theorem State.takeDelivered_kept (s : State) (die : Die) (pkt : Packet) :
    (s.takeDelivered die pkt).kept = s.kept := by rfl
@[simp] theorem State.relayPkt_kept (s : State) (die : Die) (toH : Bool) (pkt : Packet) :
    (s.relayPkt die toH pkt).kept = s.kept := by rfl
@[simp] theorem State.answer_kept (s : State) (die : Die) (d : CollDecl) (p : CollPath) (i type : Nat) :
    (s.answer die d p i type).kept = s.kept := by rfl
@[simp] theorem State.reportClassified_kept (s : State) (code : BitVec 16) (die : Die) (d0 d1 : Word) (cls : Nat) :
    (s.reportClassified code die d0 d1 cls).kept = s.kept := by
  simp [State.reportClassified]
@[simp] theorem State.relayAnswer_kept (s : State) (die : Die) (toH : Bool) (d : CollDecl) (stream type : Nat) :
    (s.relayAnswer die toH d stream type).kept = s.kept := by
  unfold State.relayAnswer
  split <;> rfl
@[simp] theorem State.faultNow_kept (s : State) (t : TileId) (f : ScalarFault) (pc : Word) :
    (s.faultNow t f pc).kept = s.kept := by
  simp [State.faultNow]
@[simp] theorem State.copFault_kept (s : State) (t : TileId) (u : TileUnit) (bit id : Nat) (pc : Word) :
    (s.copFault t u bit id pc).kept = s.kept := by
  simp [State.copFault]
@[simp] theorem State.scalarFault_kept (s : State) (t : TileId) (tag : Option Nat) (id : Nat) (f : ScalarFault) (pc : Word) :
    (s.scalarFault t tag id f pc).kept = s.kept := by
  unfold State.scalarFault
  split <;> simp
@[simp] theorem State.modSlot_kept (s : State) (t : TileId) (k : Fin 4) (f : Slot → Slot) :
    (s.modSlot t k f).kept = s.kept := by rfl
@[simp] theorem State.rimeFault_kept (s : State) (t : TileId) (o : RimeOp) (bit : Nat) :
    (s.rimeFault t o bit).kept = s.kept := by
  simp [State.rimeFault]
@[simp] theorem State.rimeDrain_kept (s : State) (t : TileId) (o : RimeOp) (k : Fin 4) (a : Word) :
    (s.rimeDrain t o k a).kept = s.kept := by
  unfold State.rimeDrain
  dsimp only
  repeat' split
  all_goals simp
@[simp] theorem State.advance_kept (s : State) (t : TileId) (pc : Word) : (s.advance t pc).kept = s.kept := by rfl
@[simp] theorem State.issueFault_kept (s : State) (t : TileId) (f : ScalarFault) :
    (s.issueFault t f).kept = s.kept := by
  unfold State.issueFault
  dsimp only
  split <;> simp
@[simp] theorem State.modLoads_kept (s : State) (t : TileId) (f : List Load → List Load) :
    (s.modLoads t f).kept = s.kept := by rfl
@[simp] theorem State.loadKnown_kept (s : State) (t : TileId) (id : Nat) (bytes : List Byte) :
    (s.loadKnown t id bytes).kept = s.kept := by
  unfold State.loadKnown
  split <;> simp
@[simp] theorem State.loadFaulted_kept (s : State) (t : TileId) (id : Nat) : (s.loadFaulted t id).kept = s.kept := by
  simp [State.loadFaulted]
@[simp] theorem State.performLoad_kept (s : State) (t : TileId) (l : Load) : (s.performLoad t l).kept = s.kept := by
  unfold State.performLoad
  dsimp only
  repeat' split
  all_goals simp
@[simp] theorem State.modRow_kept (s : State) (t : TileId) (r : Nat) (f : AccRow → AccRow) :
    (s.modRow t r f).kept = s.kept := by rfl
@[simp] theorem State.putRow_kept (s : State) (t : TileId) (r : Nat) (g : Option Nat) (tag : RowTag) (cols : List (BitVec 48)) :
    (s.putRow t r g tag cols).kept = s.kept := by rfl
@[simp] theorem State.poisonRow_kept (s : State) (t : TileId) (r : Nat) (g : Option Nat) :
    (s.poisonRow t r g).kept = s.kept := by rfl
@[simp] theorem State.setPass_kept (s : State) (t : TileId) (p : PassOp) : (s.setPass t p).kept = s.kept := by rfl
@[simp] theorem State.dropMat_kept (s : State) (t : TileId) (id : Nat) : (s.dropMat t id).kept = s.kept := by rfl
@[simp] theorem State.setParent_kept (s : State) : s.setParent.kept = s.kept := by rfl
@[simp] theorem State.newParent_kept (s : State) : s.newParent.kept = s.kept := by
  unfold State.newParent
  split <;> simp
@[simp] theorem State.portLeft_kept (s : State) (p : PortId) : (s.portLeft p).kept = s.kept := by
  unfold State.portLeft
  split <;> simp
@[simp] theorem State.lockCheck_kept (s : State) (p : PortId) (theta : Int) :
    (s.lockCheck p theta).kept = s.kept := by
  unfold State.lockCheck
  dsimp only
  repeat' split
  all_goals simp
@[simp] theorem State.reissue_kept (s : State) (o : StoppedDma) : (s.reissue o).kept = s.kept := by rfl
@[simp] theorem State.endSlot_kept (s : State) : s.endSlot.kept = s.kept := by rfl
@[simp] theorem State.diverge_kept (s : State) (e : LsEntry) (slot : Word) (skew : Bool) :
    (s.diverge e slot skew).kept = s.kept := by
  unfold State.diverge
  dsimp only
  repeat' split
  all_goals simp
@[simp] theorem State.lsCompare_kept (s : State) : s.lsCompare.kept = s.kept := by
  unfold State.lsCompare
  dsimp only
  split <;> simp
@[simp] theorem State.stepOn_kept (s : State) : s.stepOn.kept = s.kept := by
  unfold State.stepOn
  dsimp only
  split <;> simp
@[simp] theorem State.modSpare_kept (s : State) (g : Fin 4) (k : Nat) (f : Spare → Spare) :
    (s.modSpare g k f).kept = s.kept := by
  unfold State.modSpare
  split <;> rfl
@[simp] theorem State.freeUsed_kept (s : State) (p : PortId) : (s.freeUsed p).kept = s.kept := by
  unfold State.freeUsed
  exact foldl_kept (fun _ _ => by split <;> simp) _ _
@[simp] theorem State.sendCtl_kept (s : State) (p : PortId) (code : Nat) (args : List Byte) :
    (s.sendCtl p code args).kept = s.kept := by rfl
@[simp] theorem State.sendDown_kept (s : State) (p : PortId) : (s.sendDown p).kept = s.kept := by
  unfold State.sendDown
  split <;> rfl
@[simp] theorem State.sendLaneFault_kept (s : State) (p : PortId) (mask : BitVec 8) :
    (s.sendLaneFault p mask).kept = s.kept := by rfl
@[simp] theorem State.replayFrom_kept (s : State) (p : PortId) (from_ : BitVec 20) :
    (s.replayFrom p from_).kept = s.kept := by
  unfold State.replayFrom
  dsimp only
  split <;> simp
@[simp] theorem State.replayAll_kept (s : State) (p : PortId) : (s.replayAll p).kept = s.kept := by
  unfold State.replayAll
  split <;> simp
@[simp] theorem State.askReplay_kept (s : State) (p : PortId) : (s.askReplay p).kept = s.kept := by
  unfold State.askReplay
  split <;> rfl
@[simp] theorem State.noteErr_kept (s : State) (p : PortId) (lane : Nat) (syms : Option Nat) :
    (s.noteErr p lane syms).kept = s.kept := by rfl
@[simp] theorem State.corrected_kept (s : State) (p : PortId) (lane n : Nat) :
    (s.corrected p lane n).kept = s.kept := by
  unfold State.corrected
  split <;> rfl
@[simp] theorem State.uncorrectable_kept (s : State) (p : PortId) (lane : Nat) :
    (s.uncorrectable p lane).kept = s.kept := by
  simp [State.uncorrectable]
@[simp] theorem State.trainFail_kept (s : State) (p : PortId) : (s.trainFail p).kept = s.kept := by rfl
@[simp] theorem State.setSpares_kept (s : State) (p : PortId) (codes : List Nat) :
    (s.setSpares p codes).kept = s.kept := by
  unfold State.setSpares
  exact foldl_kept (fun _ _ => by split <;> simp) _ _
@[simp] theorem State.takeReturned_kept (s : State) (p : PortId) : (s.takeReturned p).kept = s.kept := by
  unfold State.takeReturned
  exact foldl_kept (fun _ _ => by split <;> simp) _ _
@[simp] theorem State.sendRetrain_kept (s : State) (p : PortId) : (s.sendRetrain p).kept = s.kept := by rfl
@[simp] theorem State.enterRetrain_kept (s : State) (p : PortId) : (s.enterRetrain p).kept = s.kept := by
  simp [State.enterRetrain]
@[simp] theorem State.retrain_kept (s : State) (p : PortId) : (s.retrain p).kept = s.kept := by
  unfold State.retrain
  dsimp only
  repeat' split
  all_goals simp
@[simp] theorem State.applyDisable_kept (s : State) (p : PortId) : (s.applyDisable p).kept = s.kept := by
  unfold State.applyDisable
  dsimp only
  repeat' split
  all_goals simp
@[simp] theorem State.retireLane_kept (s : State) (p : PortId) (code : Nat) :
    (s.retireLane p code).kept = s.kept := by
  unfold State.retireLane
  dsimp only
  repeat' split
  all_goals simp
@[simp] theorem State.lanePassed_kept (s : State) (p : PortId) (code : Nat) :
    (s.lanePassed p code).kept = s.kept := by rfl
@[simp] theorem State.setEpi_kept (s : State) (t : TileId) (e : EpiOp) : (s.setEpi t e).kept = s.kept := by rfl
@[simp] theorem State.clearRow_kept (s : State) (t : TileId) (d : EpiDesc) (r : Nat) :
    (s.clearRow t d r).kept = s.kept := by
  unfold State.clearRow
  split <;> rfl
@[simp] theorem State.pushChain_kept (s : State) (t : TileId) (c : ChainRow) : (s.pushChain t c).kept = s.kept := by rfl
@[simp] theorem State.modCmd_kept (s : State) (h : Nat) (f : Cmd → Cmd) : (s.modCmd h f).kept = s.kept := by rfl
@[simp] theorem State.fetchCmd_kept (s : State) (sqid : Nat) (port : Option PciePort) (raw : List Byte) (sqhead : Nat) (lom : Option LomHeader) :
    (s.fetchCmd sqid port raw sqhead lom).kept = s.kept := by rfl
@[simp] theorem State.modQueue_kept (s : State) (q : Nat) (f : QPair → QPair) : (s.modQueue q f).kept = s.kept := by rfl
@[simp] theorem State.respond_kept (s : State) (m : LomHeader) (status opc : Nat) (result : List Byte) :
    (s.respond m status opc result).kept = s.kept := by
  simp [State.respond]
@[simp] theorem State.setCommitted_kept (s : State) (h status : Nat) (r0 r1 : Word) :
    (s.setCommitted h status r0 r1).kept = s.kept := by
  unfold State.setCommitted
  dsimp only
  repeat' split
  all_goals simp
@[simp] theorem State.dropCapture_kept (s : State) : s.dropCapture.kept = s.kept := by
  unfold State.dropCapture
  split <;> rfl
@[simp] theorem State.undoStarted_kept (s : State) (c : Cmd) : (s.undoStarted c).kept = s.kept := by
  unfold State.undoStarted
  dsimp only
  repeat' split
  all_goals simp
@[simp] theorem State.cancelCmd_kept (s : State) (h : Nat) (aborter : List Nat) :
    (s.cancelCmd h aborter).kept = s.kept := by
  unfold State.cancelCmd
  dsimp only
  repeat' split
  all_goals simp
@[simp] theorem State.cancelAll_kept (s : State) (p : Cmd → Bool) : (s.cancelAll p).kept = s.kept := by
  unfold State.cancelAll
  exact foldl_kept (fun _ _ => by simp) _ _
@[simp] theorem State.startClose_kept (s : State) (p : PciePort) (h : Option Nat) (clear : Bool) :
    (s.startClose p h clear).kept = s.kept := by
  simp [State.startClose]
@[simp] theorem State.adminPair_kept (s : State) (p : PciePort) : (s.adminPair p).kept = s.kept := by
  unfold State.adminPair
  dsimp only
  split <;> simp
@[simp] theorem State.dropQueues_kept (s : State) (p : PciePort) : (s.dropQueues p).kept = s.kept := by rfl
@[simp] theorem State.revokeClosed_kept (s : State) : s.revokeClosed.kept = s.kept := by rfl
@[simp] theorem State.executing_kept (s : State) (h : Nat) : (s.executing h).kept = s.kept := by rfl
@[simp] theorem State.doorbellError_kept (s : State) : s.doorbellError.kept = s.kept := by rfl
@[simp] theorem State.doorbell_kept (s : State) (p : PciePort) (q : Nat) (f : QPair → Option QPair) :
    (s.doorbell p q f).kept = s.kept := by
  unfold State.doorbell
  dsimp only
  repeat' split
  all_goals simp
@[simp] theorem State.enSet_kept (s : State) (p : PciePort) : (s.enSet p).kept = s.kept := by
  simp [State.enSet]
@[simp] theorem State.enClear_kept (s : State) (p : PciePort) : (s.enClear p).kept = s.kept := by
  unfold State.enClear
  split <;> rfl
@[simp] theorem State.mboxGo_kept (s : State) (p : PciePort) : (s.mboxGo p).kept = s.kept := by
  unfold State.mboxGo
  dsimp only
  repeat' split
  all_goals simp
@[simp] theorem State.fetchFrom_kept (s : State) (q : QPair) : (s.fetchFrom q).kept = s.kept := by rfl
@[simp] theorem State.fetchMbox_kept (s : State) (p : PciePort) : (s.fetchMbox p).kept = s.kept := by
  unfold State.fetchMbox
  dsimp only
  split <;> simp
@[simp] theorem State.takeMsg_kept (s : State) (pkt : Packet) : (s.takeMsg pkt).kept = s.kept := by
  unfold State.takeMsg
  dsimp only
  split <;> simp
@[simp] theorem State.setImport_kept (s : State) (m : Nat) (i : Option MorImport) :
    (s.setImport m i).kept = s.kept := by rfl
@[simp] theorem State.setLock_kept (s : State) (b : Bool) : (s.setLock b).kept = s.kept := by rfl
@[simp] theorem State.clearJob_kept (s : State) : s.clearJob.kept = s.kept := by rfl
@[simp] theorem State.cancelJobCmds_kept (s : State) : s.cancelJobCmds.kept = s.kept := by
  unfold State.cancelJobCmds
  exact foldl_kept (fun _ _ => by simp) _ _
@[simp] theorem State.setVec_kept (s : State) (t : TileId) (o : VecOp) : (s.setVec t o).kept = s.kept := by rfl
@[simp] theorem State.dropVec_kept (s : State) (t : TileId) (id : Nat) : (s.dropVec t id).kept = s.kept := by rfl
@[simp] theorem State.smcReport_kept (s : State) (cause : Nat) (d0 d1 : Word) :
    (s.smcReport cause d0 d1).kept = s.kept := by
  simp [State.smcReport]
@[simp] theorem State.sendIdentity_kept (s : State) : s.sendIdentity.kept = s.kept := by
  simp [State.sendIdentity]
@[simp] theorem State.seekLock_kept (s : State) : s.seekLock.kept = s.kept := by rfl
@[simp] theorem State.pcieUp_kept (s : State) (p : PciePort) (b : Bool) : (s.pcieUp p b).kept = s.kept := by
  unfold State.pcieUp
  split <;> rfl
@[simp] theorem State.pauseJob_kept (s : State) (a : Armed) : (s.pauseJob a).kept = s.kept := by
  unfold State.pauseJob
  exact foldl_kept (fun _ _ => by simp) _ _
@[simp] theorem State.countCopy_kept (s : State) (bad : Option Bool) : (s.countCopy bad).kept = s.kept := by
  unfold State.countCopy
  split <;> rfl
@[simp] theorem State.bellWrite_kept (s : State) (p : PciePort) (o n v : Nat) :
    (s.bellWrite p o n v).kept = s.kept := by
  unfold State.bellWrite
  dsimp only
  repeat' split
  all_goals simp
@[simp] theorem State.linkWrite_kept (s : State) (p : PortId) (o n v : Nat) :
    (s.linkWrite p o n v).kept = s.kept := by
  unfold State.linkWrite
  dsimp only
  split <;> simp
@[simp] theorem State.beginLom_kept (s : State) (m : LomHeader) : (s.beginLom m).kept = s.kept := by rfl
@[simp] theorem State.resend_kept (s : State) (mac : BitVec 48) : (s.resend mac).kept = s.kept := by
  unfold State.resend
  split <;> simp
@[simp] theorem State.lomAnswer_kept (s : State) (m : LomHeader) (opc : Nat) (st : LomStatus) :
    (s.lomAnswer m opc st).kept = s.kept := by
  simp [State.lomAnswer]
@[simp] theorem State.norStart_kept (s : State) (addr : Nat) (data : List Byte) :
    (s.norStart addr data).kept = s.kept := by rfl

@[simp] theorem State.takeFree_kept (s : State) : s.takeFree.2.kept = s.kept := by rfl
@[simp] theorem State.retirePc_kept (s : State) (k pc : Nat) : (s.retirePc k pc).kept = s.kept := by
  unfold State.retirePc
  split
  · rfl
  · split <;> exact State.recordRepair_kept ..
@[simp] theorem State.serAdvance_kept (c : ClusterId) (n : Nat) (s : State) : (State.serAdvance c n s).kept = s.kept := by
  induction n generalizing s with
  | zero => rfl
  | succ n ih =>
    unfold State.serAdvance
    split
    · exact ih _
    · rfl
@[simp] theorem State.serSync_kept (s : State) (c : ClusterId) : (s.serSync c).kept = s.kept := State.serAdvance_kept ..
@[simp] theorem State.dlNear_kept (s : State) (c : ClusterId) (r : SerRun) : (s.dlNear c r).1.kept = s.kept := by
  unfold State.dlNear
  split
  · rfl
  · split
    · exact State.thawEvent_kept ..
    · rfl
@[simp] theorem State.retireUnit_kept (s : State) (v : Verdict) : (s.retireUnit v).kept = s.kept := by
  unfold State.retireUnit
  split <;> simp
@[simp] theorem State.act_kept (s : State) (vs : List Verdict) : (s.act vs).kept = s.kept := by
  unfold State.act
  split
  · rfl
  · dsimp only
    have hreports (l : List Verdict) (row : Nat) (x : State) :
        (l.foldl (fun s v => s.sendReport v.ev (if v.perm then 2 else 1) row) x).kept = x.kept :=
      foldl_kept (fun s v => s.sendReport_kept ..) l x
    have hcolumns (l : List Verdict) (x : State) : (l.foldl State.recordColumn x).kept = x.kept :=
      foldl_kept State.recordColumn_kept l x
    have hunits (l : List Verdict) (x : State) : (l.foldl State.retireUnit x).kept = x.kept :=
      foldl_kept State.retireUnit_kept l x
    repeat' split
    all_goals simp only [State.drain_kept, State.enterProbation_kept, State.smcStop_kept, hunits, hcolumns, hreports]
    all_goals exact State.kept_mk s rfl
@[simp] theorem State.reportFailures_kept (s : State) (l : List TestFailure) : (s.reportFailures l).1.kept = s.kept := by
  suffices h : ∀ (vs : List Verdict) (x : State), (l.foldl (fun (a : State × List Verdict) f =>
      let s := { a.1 with integ := { a.1.integ with stfail := a.1.integ.stfail + if f.again then 2 else 1 } }
      let r := s.report 0x0030 f.kind f.index.toNat f.number (if f.again then 1 else 0)
      (r.1, a.2 ++ [⟨r.2, f.again, repairOf f.kind f.index.toNat⟩])) (x, vs)).1.kept = x.kept from h [] s
  induction l with
  | nil => exact fun _ _ => rfl
  | cons f l ih => exact fun _ _ => (ih _ _).trans (by simp)
@[simp] theorem State.pumpPath_kept (die : Die) (d : CollDecl) (t : Topo) (k j n : Nat) (s : State) :
    (State.pumpPath die d t k j n s).kept = s.kept := by
  induction n generalizing s with
  | zero => rfl
  | succ n ih =>
    unfold State.pumpPath
    repeat' split
    · exact (ih _).trans (by simp)
    all_goals rfl
@[simp] theorem State.collSend_kept (s : State) (k : Nat) (d : CollDecl) (t : Topo) (role : PathRole) (b : List Byte)
    (g : Nat) : (s.collSend k d t role b g).kept = s.kept := by
  unfold State.collSend
  split <;> simp
@[simp] theorem State.collAdd_kept (s : State) (k : Nat) (d : CollDecl) (t : Topo) (shard g : Nat) (b : List Byte) :
    (s.collAdd k d t shard g b).2.kept = s.kept := State.collFlags_kept ..
@[simp] theorem State.sumLevel_kept (s : State) (k : Nat) (d : CollDecl) (t : Topo) (self : ChipAddr) (l : Nat)
    (b : List Byte) : (s.sumLevel k d t self l b).2.kept = s.kept := by
  unfold State.sumLevel
  dsimp only
  repeat' split
  all_goals simp
@[simp] theorem State.senderFault_kept (s : State) (d : CollDecl) (stream : Nat) (peer : ChipAddr) :
    (s.senderFault d stream peer).kept = s.kept := State.act_kept ..
@[simp] theorem State.startSwap_kept (s : State) (p : PortId) (codes gone spares : List Nat) (faulty : BitVec 8)
    (subs : Nat) (isWidth : Bool) : (s.startSwap p codes gone spares faulty subs isWidth).kept = s.kept := by
  have hgone (x : State) : (gone.foldl (fun s c => s.retireLane p c) x).kept = x.kept :=
    foldl_kept (fun s c => s.retireLane_kept p c) gone x
  unfold State.startSwap
  dsimp only
  rw [apply_ite State.kept, State.thawEvent_kept, ite_self, apply_ite State.kept, State.portLeft_kept, ite_self,
    State.modPort_kept, State.setSpares_kept, hgone]
@[simp] theorem State.fetchAdmin_kept (id n : Nat) (s : State) : (State.fetchAdmin id n s).kept = s.kept := by
  induction n generalizing s with
  | zero => rfl
  | succ n ih =>
    unfold State.fetchAdmin
    split
    · split
      · exact (ih _).trans (State.fetchFrom_kept ..)
      · rfl
    · rfl
@[simp] theorem State.serveClass_kept (c : Fin 8) (n : Nat) (s : State) : (State.serveClass c n s).kept = s.kept := by
  induction n generalizing s with
  | zero => rfl
  | succ n ih =>
    unfold State.serveClass
    split
    · exact (ih _).trans (by simp)
    · rfl
@[simp] theorem State.journalLane_kept (s : State) (r : LaneRec) : (s.journalLane r).kept = s.kept := by
  unfold State.journalLane
  split
  · split <;> simp
  · rfl
@[simp] theorem State.journalLanes_kept (s : State) : s.journalLanes.kept = s.kept := by
  unfold State.journalLanes
  dsimp only
  refine (foldl_kept (fun s r => ?_) _ _).trans (foldl_kept State.journalLane_kept _ _)
  split
  · split
    · split <;> simp
    · rfl
  · rfl
@[simp] theorem State.startLinks_kept (s : State) (alt : Bool) : (s.startLinks alt).kept = s.kept := by
  unfold State.startLinks
  split <;> simp
@[simp] theorem State.onStart_kept (s : State) (step : Nat) (alt : Bool) : (s.onStart step alt).kept = s.kept := by
  unfold State.onStart
  repeat' split
  all_goals simp
@[simp] theorem State.retireFound_kept (s : State) (failed : List TestFailure) : (s.retireFound failed).kept = s.kept := by
  refine foldl_kept (fun s f => ?_) _ _
  split <;> simp
@[simp] theorem State.enWrite_kept (s : State) (p : PciePort) (o n v : Nat) : (s.enWrite p o n v).kept = s.kept := by
  unfold State.enWrite
  repeat' split
  all_goals simp
@[simp] theorem State.bar0Write_kept (s : State) (p : PciePort) (o n v : Nat) : (s.bar0Write p o n v).kept = s.kept := by
  unfold State.bar0Write
  dsimp only
  repeat' split
  all_goals simp
@[simp] theorem State.blockWrite_kept (s : State) (g : RegAgent) (sp : RegSpace) (o n v : Nat) :
    (s.blockWrite g sp o n v).kept = s.kept := by
  unfold State.blockWrite
  split <;> simp
/-- A packet that enters the injection queue writes no memory. -/
theorem State.unschedInject_kept {s u : State} {d : Die} {pkt : Packet} (h : s.unschedInject d pkt = some u) :
    u.kept = s.kept := by
  unfold State.unschedInject at h
  dsimp only at h
  repeat' split at h
  · cases h
  all_goals (cases h; simp)

/-! ### Work of the SMC: memories and fuses stay -/

@[simp] theorem State.evalOp_stored (s : State) : s.evalOp.kept.stored = s.kept.stored := by
  rw [s.evalOp_frame, State.stored_mk]
@[simp] theorem State.engage_stored (s : State) (d : StretchDomain) : (s.engage d).kept.stored = s.kept.stored := by
  unfold State.engage
  dsimp only
  split <;> simp
@[simp] theorem State.wiresMoved_stored (s : State) : s.wiresMoved.kept.stored = s.kept.stored := by rfl
@[simp] theorem State.align_stored (s : State) (p : PortId) (theta : Int) :
    (s.align p theta).kept.stored = s.kept.stored := by
  unfold State.align
  dsimp only
  split <;> simp
@[simp] theorem State.timeReceive_stored (s : State) (p : PortId) (b : List Byte) (arrival : Word) (frac : BitVec 4) :
    (s.timeReceive p b arrival frac).kept.stored = s.kept.stored := by
  unfold State.timeReceive
  dsimp only
  repeat' split
  all_goals simp
@[simp] theorem State.bootRec_stored (s : State) (step : Nat) (res : BootRes) (detail : BitVec 16) :
    (s.bootRec step res detail).kept.stored = s.kept.stored := by
  simp [State.bootRec]
@[simp] theorem State.loadIdentity_stored (s : State) : s.loadIdentity.kept.stored = s.kept.stored := by rfl
/-- Whether a step is passed over (R589, R591). -/
def State.passesOver (s : State) (step : Nat) : Bool :=
  isOptional step && s.boot.failedNormal step && !(step == 12 && s.boot.lostRepair)

/-- `s` once a step is passed over (R525, R587). -/
def State.passOver (s : State) (step : Nat) : State :=
  let s := s.bootRec step .skipped 0
  if step = 12 then s.enterProbation 0 else if step = 11 then s.seekLock else s

/-- `s` once a step begins, the alternate way or the normal one. -/
def State.startsStep (s : State) (step : Nat) : State :=
  let alt := hasAlternate step && s.boot.failedNormal step
  let s := { s with boot := { s.boot with
    step := BitVec.ofNat 4 step, alt := alt, state := if step ≤ 3 then .rom else .booting } }
  (s.bootRec step .started (if alt then 1 else 0)).onStart step alt

theorem State.startStep_zero (step : Nat) (s : State) : State.startStep 0 step s = s.startsStep step := by
  unfold State.startStep
  cases isOptional step && s.boot.failedNormal step && !(step == 12 && s.boot.lostRepair) <;> rfl

theorem State.startStep_succ (n step : Nat) (s : State) : State.startStep (n + 1) step s =
    if s.passesOver step then State.startStep n (step + 1) (s.passOver step) else s.startsStep step := by
  rw [State.startStep.eq_def]
  dsimp only
  cases h : s.passesOver step <;> rw [State.passesOver] at h <;> rw [h] <;> rfl

@[simp] theorem State.startsStep_stored (s : State) (step : Nat) : (s.startsStep step).kept.stored = s.kept.stored := by
  simp [State.startsStep]
@[simp] theorem State.passOver_stored (s : State) (step : Nat) : (s.passOver step).kept.stored = s.kept.stored := by
  unfold State.passOver
  dsimp only
  split
  · simp
  · split <;> simp
@[simp] theorem State.startStep_stored (n step : Nat) (s : State) : (State.startStep n step s).kept.stored = s.kept.stored := by
  induction n generalizing step s with
  | zero => rw [State.startStep_zero, State.startsStep_stored]
  | succ n ih =>
    rw [State.startStep_succ]
    split
    · exact (ih _ _).trans (State.passOver_stored ..)
    · exact State.startsStep_stored ..
@[simp] theorem State.nextStep_stored (s : State) (step : Nat) : (s.nextStep step).kept.stored = s.kept.stored :=
  State.startStep_stored ..
@[simp] theorem State.beginBoot_stored (s : State) : s.beginBoot.kept.stored = s.kept.stored := by simp [State.beginBoot]
@[simp] theorem State.deviceReset_stored (s : State) (cause : BitVec 3) :
    (s.deviceReset cause).kept.stored = s.kept.stored := by
  simp [State.deviceReset]
@[simp] theorem State.recovery_stored (s : State) : s.recovery.kept.stored = s.kept.stored := by rfl
@[simp] theorem State.loseJournals_stored (s : State) (detail : BitVec 16) (lost : List Nat) :
    (s.loseJournals detail lost).kept.stored = s.kept.stored := by
  unfold State.loseJournals
  dsimp only
  repeat' split
  all_goals rfl
@[simp] theorem State.readJournals_stored (s : State) : s.readJournals.kept.stored = s.kept.stored := by rfl
@[simp] theorem State.i3cAssign_stored (s : State) (addr : BitVec 7) : (s.i3cAssign addr).kept.stored = s.kept.stored := by
  unfold State.i3cAssign
  split <;> rfl
@[simp] theorem State.i3cGet_stored (s : State) (b : List Byte) : (s.i3cGet b).kept.stored = s.kept.stored := by
  unfold State.i3cGet
  split <;> rfl

end Sys2Proof.Machine
end

section
/-!
SUPPORT. What the writers of memory keep: the memories' canonical form and the fuses, and, unless the management controller
has a part in it, the rest of `kept`.
-/
namespace Sys2Proof.Machine
-- One declaration at a time keeps the compile of the whole text within its memory.
set_option Elab.async false
open Host

/-- Every memory in its canonical form. -/
def Stored.Wf (m : Stored) : Prop :=
  Memory.wf 0 m.mem = true ∧ Memory.wf 0 m.hostA = true ∧ Memory.wf 0 m.hostB = true ∧ Memory.wf 0xFF m.nor = true

/-- What no write of map-addressed or host memory touches. -/
def Kept.rest (k : Kept) : List Cell × Boot × Power × Side × List Instr × Word :=
  (k.stored.nor, k.boot, k.power, k.side, k.pending, k.count)

/-- From `a` to `b` canonical memories stay canonical, the fuses stay, and, in full, so does what only the SMC changes. -/
structure Kept.Keeps (full : Prop) (a b : Kept) : Prop where
  wf : a.stored.Wf → b.stored.Wf
  fuses : b.stored.fuses = a.stored.fuses
  rest : full → b.rest = a.rest

/-- A command that goes on keeps what `Keeps` says, the SMC's work apart. -/
def Kept.KeepsRes (k : Kept) (r : Res) : Prop := ∀ u, r = .next u → k.Keeps False u.kept

section
variable {full : Prop} {k : Kept} {s : State}

@[simp] theorem Kept.Keeps.refl (full : Prop) (k : Kept) : k.Keeps full k := ⟨id, rfl, fun _ => rfl⟩

theorem Kept.Keeps.trans {a b c : Kept} (h : a.Keeps full b) (h' : b.Keeps full c) : a.Keeps full c :=
  ⟨fun hw => h'.wf (h.wf hw), h'.fuses.trans h.fuses, fun hf => (h'.rest hf).trans (h.rest hf)⟩

/-- The SMC's work leaves memories and fuses. -/
theorem Kept.Keeps.stored {a b c : Kept} (h : a.Keeps False b) (hs : c.stored = b.stored) : a.Keeps False c :=
  ⟨hs ▸ h.wf, hs ▸ h.fuses, False.elim⟩

@[simp] theorem Kept.keepsRes_next {u : State} : k.KeepsRes (.next u) ↔ k.Keeps False u.kept :=
  ⟨fun h => h u rfl, fun h v hv => by cases hv; exact h⟩
@[simp] theorem Kept.keepsRes_refused (e : Refusal) : k.KeepsRes (.refused e) := fun _ h => nomatch h
@[simp] theorem Kept.keepsRes_fault (e : Fault) : k.KeepsRes (.fault e) := fun _ h => nomatch h

@[simp] theorem foldl_keeps {α : Type} {f : State → α → State} (hf : ∀ (s : State) a, s.kept.Keeps full (f s a).kept) (l : List α)
    (h : k.Keeps full s.kept) : k.Keeps full (l.foldl f s).kept := by
  induction l generalizing s with
  | nil => exact h
  | cons a l ih => exact ih (h.trans (hf s a))

@[simp] theorem Kept.keeps_ite {c : Prop} [Decidable c] {a b : State} (ha : k.Keeps full a.kept) (hb : k.Keeps full b.kept) :
    k.Keeps full (if c then a else b).kept := by
  split <;> assumption
@[simp] theorem Kept.keepsRes_ite {c : Prop} [Decidable c] {a b : Res} (ha : k.KeepsRes a) (hb : k.KeepsRes b) :
    k.KeepsRes (if c then a else b) := by
  split <;> assumption

/-- A replacement of anything but memory and fuses. -/
@[simp] theorem State.keeps_mk {tiles clusters hbm ports spares routers cp gtc job ouvzu integ ckpt power boot lom side free
    pending} (h : k.Keeps False s.kept) :
    k.Keeps False (State.mk tiles clusters hbm ports spares routers cp gtc job ouvzu integ ckpt power s.fuses boot lom side
      s.mem s.hostA s.hostB s.nor free pending).kept := h.stored (State.stored_mk s)

@[simp] theorem State.wr_keeps (h : k.Keeps full s.kept) (a : Nat) (bs : List Byte) : k.Keeps full (s.wr a bs).kept := by
  have hk : (s.wr a bs).kept = { s.kept with stored := { s.kept.stored with mem := Memory.writeBytes 0 s.mem a bs } } := by
    unfold State.wr
    dsimp only
    split <;> rfl
  refine h.trans ⟨fun hw => ?_, ?_, fun _ => ?_⟩
  · obtain ⟨hm, hrest⟩ := hw
    exact hk ▸ ⟨Memory.writeBytes_wf hm a bs, hrest⟩
  · rw [hk]
  · rw [hk]; rfl

@[simp] theorem State.hostWr_keeps (h : k.Keeps full s.kept) (p : PciePort) (a : Nat) (bs : List Byte) :
    k.Keeps full (s.hostWr p a bs).kept := by
  refine h.trans ⟨fun hw => State.hostWr_memWf hw p a bs, ?_, fun _ => ?_⟩ <;> cases p <;> rfl

/-! ### Work of the SMC -/

@[simp] theorem State.evalOp_keeps (h : k.Keeps False s.kept) : k.Keeps False s.evalOp.kept :=
  h.stored (State.evalOp_stored ..)
@[simp] theorem State.engage_keeps (h : k.Keeps False s.kept) (d : StretchDomain) : k.Keeps False (s.engage d).kept :=
  h.stored (State.engage_stored ..)
@[simp] theorem State.wiresMoved_keeps (h : k.Keeps False s.kept) : k.Keeps False s.wiresMoved.kept :=
  h.stored (State.wiresMoved_stored ..)
@[simp] theorem State.align_keeps (h : k.Keeps False s.kept) (p : PortId) (theta : Int) :
    k.Keeps False (s.align p theta).kept :=
  h.stored (State.align_stored ..)
@[simp] theorem State.timeReceive_keeps (h : k.Keeps False s.kept) (p : PortId) (b : List Byte) (arrival : Word) (frac : BitVec 4) :
    k.Keeps False (s.timeReceive p b arrival frac).kept :=
  h.stored (State.timeReceive_stored ..)
@[simp] theorem State.bootRec_keeps (h : k.Keeps False s.kept) (step : Nat) (res : BootRes) (detail : BitVec 16) :
    k.Keeps False (s.bootRec step res detail).kept :=
  h.stored (State.bootRec_stored ..)
@[simp] theorem State.loadIdentity_keeps (h : k.Keeps False s.kept) : k.Keeps False s.loadIdentity.kept :=
  h.stored (State.loadIdentity_stored ..)
@[simp] theorem State.nextStep_keeps (h : k.Keeps False s.kept) (step : Nat) : k.Keeps False (s.nextStep step).kept :=
  h.stored (State.nextStep_stored ..)
@[simp] theorem State.beginBoot_keeps (h : k.Keeps False s.kept) : k.Keeps False s.beginBoot.kept :=
  h.stored (State.beginBoot_stored ..)
@[simp] theorem State.deviceReset_keeps (h : k.Keeps False s.kept) (cause : BitVec 3) :
    k.Keeps False (s.deviceReset cause).kept :=
  h.stored (State.deviceReset_stored ..)
@[simp] theorem State.recovery_keeps (h : k.Keeps False s.kept) : k.Keeps False s.recovery.kept :=
  h.stored (State.recovery_stored ..)
@[simp] theorem State.loseJournals_keeps (h : k.Keeps False s.kept) (detail : BitVec 16) (lost : List Nat) :
    k.Keeps False (s.loseJournals detail lost).kept :=
  h.stored (State.loseJournals_stored ..)
@[simp] theorem State.readJournals_keeps (h : k.Keeps False s.kept) : k.Keeps False s.readJournals.kept :=
  h.stored (State.readJournals_stored ..)
@[simp] theorem State.i3cAssign_keeps (h : k.Keeps False s.kept) (addr : BitVec 7) :
    k.Keeps False (s.i3cAssign addr).kept :=
  h.stored (State.i3cAssign_stored ..)
@[simp] theorem State.i3cGet_keeps (h : k.Keeps False s.kept) (b : List Byte) : k.Keeps False (s.i3cGet b).kept :=
  h.stored (State.i3cGet_stored ..)

@[simp] theorem State.tsWr_keeps (h : k.Keeps full s.kept) (t : TileId) (a : Nat) (bs : List Byte) :
    k.Keeps full (s.tsWr t a bs).kept := State.wr_keeps h ..
@[simp] theorem State.wrFree_keeps (h : k.Keeps full s.kept) (a n : Nat) : k.Keeps full (s.wrFree a n).kept := by
  simp [State.wrFree, State.takeFree, h]
@[simp] theorem State.serWr_keeps (h : k.Keeps full s.kept) (a : Nat) (bs : List Byte) : k.Keeps full (s.serWr a bs).kept := by
  unfold State.serWr
  split <;> simp [h]
@[simp] theorem State.hbmWr_keeps (h : k.Keeps full s.kept) (a : Nat) (bs : List Byte) : k.Keeps full (s.hbmWr a bs).kept := by
  unfold State.hbmWr
  split <;> simp [h]
@[simp] theorem State.serFree_keeps (h : k.Keeps full s.kept) (a n : Nat) : k.Keeps full (s.serFree a n).kept := by
  unfold State.serFree
  split <;> simp [h]

/-! ### Serac -/

@[simp] theorem State.serPut_keeps (h : k.Keeps full s.kept) (c : ClusterId) (r : SerRun) (o : SerOut) (addr : Nat)
    (data : List (Nat × List Byte)) : k.Keeps full (s.serPut c r o addr data).kept := by
  simp [State.serPut, h]
@[simp] theorem State.serPublish_keeps (h : k.Keeps full s.kept) (c : ClusterId) (d : SerDesc) (o : SerOut) :
    k.Keeps full (s.serPublish c d o).1.kept := by
  unfold State.serPublish
  dsimp only
  repeat' split
  all_goals simp [h]
@[simp] theorem State.serFinish_keeps (h : k.Keeps full s.kept) (c : ClusterId) (r : SerRun) (o : SerOut) :
    k.Keeps full (s.serFinish c r o).kept := by
  unfold State.serFinish
  rw [State.serEnd_kept]
  refine State.serPut_keeps (State.serPublish_keeps (foldl_keeps (fun _ _ => by simp) _ ?_) ..) ..
  split <;> simp [h]
@[simp] theorem State.serStop_keeps (h : k.Keeps full s.kept) (c : ClusterId) (r : SerRun) (status : Nat) :
    k.Keeps full (s.serStop c r status).kept := State.serFinish_keeps h ..
@[simp] theorem State.batchNext_keeps (h : k.Keeps full s.kept) (c : ClusterId) (r : SerRun) (cut : Bool) :
    k.Keeps full (s.batchNext c r cut).1.kept := by
  unfold State.batchNext
  dsimp only
  split <;> simp [h]
@[simp] theorem State.batchCut_keeps {p : State × SerRun} (h : k.Keeps full p.1.kept) (c : ClusterId) (n : Nat) :
    k.Keeps full (State.batchCut c n p).1.kept := by
  induction n generalizing p with
  | zero => exact h
  | succ n ih => exact ih (State.batchNext_keeps h ..)
@[simp] theorem State.serCancel_keeps (h : k.Keeps full s.kept) (c : ClusterId) : k.Keeps full (s.serCancel c).kept :=
  foldl_keeps (fun s r => by
    refine Kept.keeps_ite ?_ (by simp)
    rw [State.serEnd_kept]
    exact foldl_keeps (fun _ _ => by simp) _ (.refl ..)) _ h
theorem State.serStart_keeps (h : k.Keeps False s.kept) (c : ClusterId) (ix : Nat) (sel : SerDesc → Bool) :
    k.KeepsRes (s.serStart c ix sel) := by
  unfold State.serStart
  dsimp only
  repeat' split
  all_goals simp [h]
theorem execSeracCommandComplete_keeps (h : k.Keeps False s.kept) (c : ClusterId) (ix : Nat) :
    k.KeepsRes (execSeracCommandComplete c ix s) := by
  unfold execSeracCommandComplete
  dsimp only
  split
  · simp [h]
  · refine Kept.keepsRes_ite (by simp [h]) (Kept.keepsRes_ite ?_ (Kept.keepsRes_ite ?_ ?_))
    · rw [Kept.keepsRes_next]
      split <;> simp [h]
    · rw [Kept.keepsRes_next]
      split <;> simp [h]
    · simp [h]
theorem execSeracDeadline_keeps (h : k.Keeps False s.kept) (c : ClusterId) (ix : Nat) :
    k.KeepsRes (execSeracDeadline c ix s) := by
  unfold execSeracDeadline
  dsimp only
  repeat' split
  all_goals simp [h]
theorem execExportSwitch_keeps (h : k.Keeps False s.kept) (c : ClusterId) : k.KeepsRes (execExportSwitch c s) := by
  unfold execExportSwitch
  split
  · simp [h]
  · split <;> simp [h]
theorem execSeracEngineFault_keeps (h : k.Keeps False s.kept) (c : ClusterId) (engine : Fin 4) :
    k.KeepsRes (execSeracEngineFault c engine s) := by
  unfold execSeracEngineFault
  dsimp only
  split
  · simp [h]
  · rw [Kept.keepsRes_next, State.kept_mk _ rfl, State.report_kept]
    refine Kept.keeps_ite ?_ (by simp [h])
    rw [State.serEnd_kept]
    exact foldl_keeps (fun _ _ => by simp) _ (by simpa using h)

/-! ### Integrity -/

@[simp] theorem State.rereadClean_keeps (h : k.Keeps full s.kept) (v : Verdict) : k.Keeps full (s.rereadClean v).kept := by
  simp [State.rereadClean, h]
@[simp] theorem State.fullTest_keeps (h : k.Keeps full s.kept) (failed : List TestFailure) :
    k.Keeps full (s.fullTest failed).kept := by
  unfold State.fullTest
  dsimp only
  rw [State.act_kept]
  exact foldl_keeps (fun _ _ => by simp) _ (by simpa using h)
theorem execSelftestInjob_keeps (h : k.Keeps False s.kept) (failed : List TestFailure) :
    k.KeepsRes (execSelftestInjob failed s) := by
  unfold execSelftestInjob
  dsimp only
  split
  · split <;> simp [h]
  · simp [h]

/-! ### The fabric -/

theorem execUnschedInject_keeps (h : k.Keeps False s.kept) (d : Die) (pkt : Packet) :
    k.KeepsRes (execUnschedInject d pkt s) := by
  unfold execUnschedInject
  refine Kept.keepsRes_ite (by simp) (Kept.keepsRes_ite (by simp [h]) (Kept.keepsRes_ite (by simp [h]) ?_))
  rw [Kept.keepsRes_next]
  cases hu : s.unschedInject d pkt with
  | none => exact h
  | some u => exact (State.unschedInject_kept hu).symm ▸ h

/-! ### Collectives -/

@[simp] theorem State.collEnd_keeps (h : k.Keeps full s.kept) (x : Nat) (c : CollInst) (d : CollDecl) (t : Topo)
    (status : Nat) : k.Keeps full (s.collEnd x c d t status).kept := by
  unfold State.collEnd
  dsimp only
  split
  · split
    · split <;> simp [h]
    · simp [h]
  · rw [State.endJob_kept]
    exact Kept.keeps_ite (foldl_keeps (fun _ _ => by simp) _ (State.serFree_keeps (by simp [h]) ..)) (by simp [h])
@[simp] theorem State.collCheck_keeps (h : k.Keeps full s.kept) (x : Nat) (d : CollDecl) (t : Topo) :
    k.Keeps full (s.collCheck x d t).kept := by
  unfold State.collCheck
  split <;> simp [h]
@[simp] theorem State.collWrite_keeps (h : k.Keeps full s.kept) (x : Nat) (d : CollDecl) (off : Nat) (b : List Byte) :
    k.Keeps full (s.collWrite x d off b).kept := by
  simp [State.collWrite, h]
@[simp] theorem State.collFinish_keeps (h : k.Keeps full s.kept) (x : Nat) (d : CollDecl) (g : Nat) (b : List Byte) :
    k.Keeps full (s.collFinish x d g b).kept := by
  simp [State.collFinish, h]
@[simp] theorem State.collPut_keeps (h : k.Keeps full s.kept) (x : Nat) (d : CollDecl) (t : Topo) (shard g : Nat)
    (b : List Byte) : k.Keeps full (s.collPut x d t shard g b).kept := State.collWrite_keeps h ..
@[simp] theorem State.nodeSum_keeps (h : k.Keeps full s.kept) (x : Nat) (d : CollDecl) (t : Topo) (me g : Nat) :
    k.Keeps full (s.nodeSum x d t me g).kept := by
  unfold State.nodeSum
  dsimp only
  repeat' split
  all_goals simp [h]
@[simp] theorem State.sumResult_keeps (h : k.Keeps full s.kept) (x : Nat) (d : CollDecl) (t : Topo) (self : ChipAddr)
    (b : List Byte) : k.Keeps full (s.sumResult x d t self b).kept := by
  unfold State.sumResult
  dsimp only
  split <;> split <;> simp [h]
/-- What one level brings to the sum so far writes no memory. -/
theorem foldl_sumLevel_kept (x : Nat) (d : CollDecl) (t : Topo) (self : ChipAddr) (l : List Nat)
    (a : Option (List Byte) × State) : (l.foldl (fun (a : Option (List Byte) × State) l =>
      match a.1 with
      | none => a
      | some b => if t.onLevel self l then a.2.sumLevel x d t self l b else (none, a.2)) a).2.kept = a.2.kept := by
  induction l generalizing a with
  | nil => rfl
  | cons l ls ih =>
    refine (ih _).trans ?_
    dsimp only
    split
    · rfl
    · split <;> simp
@[simp] theorem State.sumGo_keeps (h : k.Keeps full s.kept) (x : Nat) (d : CollDecl) (t : Topo) (self : ChipAddr) :
    k.Keeps full (s.sumGo x d t self).kept := by
  unfold State.sumGo
  dsimp only
  generalize hr : List.foldl _ _ (List.range 4) = r
  have hkept : r.2.kept = s.kept := hr ▸ foldl_sumLevel_kept x d t self (List.range 4) (some (s.contribution d t 0 0), s)
  split
  · split <;> simp [hkept, h]
  · simp [hkept, h]
@[simp] theorem State.collTake_keeps (h : k.Keeps full s.kept) (x j : Nat) (d : CollDecl) (t : Topo) (p : CollPath) (i : Nat)
    (b : List Byte) : k.Keeps full (s.collTake x j d t p i b).kept := by
  unfold State.collTake
  dsimp only
  repeat' split
  all_goals simp [h]
@[simp] theorem State.collBegin_keeps (h : k.Keeps full s.kept) (x : Nat) (d : CollDecl) (t : Topo) :
    k.Keeps full (s.collBegin x d t).kept := by
  have hown (l : List Nat) (me : Nat) {s : State} (h : k.Keeps full s.kept) : k.Keeps full (l.foldl (fun s g =>
      if d.gathers then s.collPut x d t me g (s.contribution d t me g)
      else s.collFinish x d g (s.contribution d t me g)) s).kept :=
    foldl_keeps (fun _ _ => Kept.keeps_ite (by simp) (by simp)) l h
  have hsend (l : List Nat) (me : Nat) (role : PathRole) (s : State) : (l.foldl (fun s i =>
      let y := d.item t me role true i
      s.collSend x d t role (s.contribution d t y.1 y.2) y.2) s).kept = s.kept :=
    foldl_kept (fun _ _ => State.collSend_kept ..) l s
  unfold State.collBegin
  dsimp only at hsend ⊢
  split
  · simp [h]
  · refine foldl_keeps (fun _ _ => Kept.keeps_ite (.refl ..) (by simp [hsend])) _ (Kept.keeps_ite (hown _ _ h) h)
  · refine foldl_keeps (fun _ _ => Kept.keeps_ite (.refl ..) (by simp [hsend])) _ (Kept.keeps_ite (hown _ _ h) h)
  · refine Kept.keeps_ite (hown _ _ h) (Kept.keeps_ite ?_ (Kept.keeps_ite ?_ ?_))
    · rw [hsend, hsend]
      exact Kept.keeps_ite (hown _ _ h) h
    all_goals
      split_ifs
      all_goals simp [hsend, h]
@[simp] theorem State.collLost_keeps (h : k.Keeps full s.kept) (x : Nat) (p : PortId) :
    k.Keeps full (s.collLost x p).kept := by
  unfold State.collLost
  repeat' split
  all_goals simp [h]
@[simp] theorem State.collPortLost_keeps (h : k.Keeps full s.kept) (p : PortId) : k.Keeps full (s.collPortLost p).kept :=
  foldl_keeps (fun _ _ => by simp) _ h
theorem execCollStart_keeps (h : k.Keeps False s.kept) (ix : Nat) : k.KeepsRes (execCollStart ix s) := by
  unfold execCollStart
  dsimp only
  repeat' split
  all_goals simp [h]
theorem execCollData_keeps (h : k.Keeps False s.kept) (ix path : Nat) (pkt : Packet) :
    k.KeepsRes (execCollData ix path pkt s) := by
  unfold execCollData
  repeat' split
  all_goals simp [h]
@[simp] theorem State.collAccept_keeps (h : k.Keeps full s.kept) (x j : Nat) (c : CollInst) (d : CollDecl) (t : Topo)
    (p : CollPath) (b : List Byte) : k.Keeps full (s.collAccept x j c d t p b).kept := by
  simp [State.collAccept, h]
theorem execCollDigest_keeps (h : k.Keeps False s.kept) (ix path : Nat) (pkt : Packet) :
    k.KeepsRes (execCollDigest ix path pkt s) := by
  unfold execCollDigest
  refine Kept.keepsRes_ite (by simp) ?_
  split
  · simp [h]
  · split
    · split
      · simp [h]
      · refine Kept.keepsRes_ite (by simp [h]) (Kept.keepsRes_ite ?_ (Kept.keepsRes_ite (by simp [h]) (by simp [h])))
        split
        · simp [h]
        · split <;> simp [h]
    · simp [h]
theorem execCollAccept_keeps (h : k.Keeps False s.kept) (ix path : Nat) (stream : BitVec 20) :
    k.KeepsRes (execCollAccept ix path stream s) := by
  unfold execCollAccept
  repeat' split
  all_goals simp [h]
theorem execCollRetxReq_keeps (h : k.Keeps False s.kept) (ix path : Nat) (stream : BitVec 20) :
    k.KeepsRes (execCollRetxReq ix path stream s) := by
  unfold execCollRetxReq
  dsimp only
  repeat' split
  all_goals simp [h]
theorem execCollAbort_keeps (h : k.Keeps False s.kept) (ix path : Nat) (pkt : Packet) :
    k.KeepsRes (execCollAbort ix path pkt s) := by
  unfold execCollAbort
  dsimp only
  repeat' split
  all_goals simp [h]
theorem execCollStall_keeps (h : k.Keeps False s.kept) (ix : Nat) : k.KeepsRes (execCollStall ix s) := by
  unfold execCollStall
  repeat' split
  all_goals simp [h]


/-! ### The sequencer -/

@[simp] theorem State.phaseRecord_keeps (h : k.Keeps full s.kept) (t : TileId) (id : BitVec 6) (gtc : Word) (step : BitVec 32)
    (pc : Word) : k.Keeps full (s.phaseRecord t id gtc step pc).kept := by
  unfold State.phaseRecord
  dsimp only
  rw [State.kept_mk _ rfl, State.modSeq_kept]
  split
  · exact h
  · split <;> simp [h]
@[simp] theorem State.commitEv_keeps (h : k.Keeps full s.kept) (t : TileId) (e : CommitEv) :
    k.Keeps full (s.commitEv t e).kept := by
  unfold State.commitEv
  split <;> simp [h]
@[simp] theorem State.emit_keeps (h : k.Keeps full s.kept) (t : TileId) (tag : Option Nat) (e : CommitEv) :
    k.Keeps full (s.emit t tag e).kept := by
  unfold State.emit
  split <;> simp [h]
@[simp] theorem State.performStore_keeps (h : k.Keeps full s.kept) (t : TileId) (e : SbEntry) :
    k.Keeps full (s.performStore t e).kept := by
  unfold State.performStore
  dsimp only
  split
  · split <;> simp [h]
  · simp [h]
@[simp] theorem State.drainUpTo_keeps (h : k.Keeps full s.kept) (t : TileId) (n : Nat) :
    k.Keeps full (State.drainUpTo t n s).kept := by
  induction n generalizing s with
  | zero => exact h
  | succ n ih =>
    unfold State.drainUpTo
    split
    · exact h
    · exact Kept.keeps_ite (ih (State.performStore_keeps h ..)) h
@[simp] theorem State.drainStores_keeps (h : k.Keeps full s.kept) (t : TileId) : k.Keeps full (s.drainStores t).kept :=
  State.drainUpTo_keeps h ..
@[simp] theorem State.retire_keeps (h : k.Keeps full s.kept) (t : TileId) (bytes : List Byte) (pc : Word) :
    k.Keeps full (s.retire t bytes pc).kept := by
  simp [State.retire, h]
@[simp] theorem State.retireNext_keeps (h : k.Keeps full s.kept) (t : TileId) (bytes : List Byte) :
    k.Keeps full (s.retireNext t bytes).kept := State.retire_keeps h ..
@[simp] theorem State.performUpTo_keeps (h : k.Keeps full s.kept) (t : TileId) (n : Nat) :
    k.Keeps full (State.performUpTo t n s).kept := by
  induction n generalizing s with
  | zero => exact h
  | succ n ih =>
    unfold State.performUpTo
    dsimp only
    split
    · exact h
    · have hdrained (c : Prop) [Decidable c] : k.Keeps full (if c then s.drainStores t else s).kept :=
        Kept.keeps_ite (State.drainStores_keeps h t) h
      exact Kept.keeps_ite (ih ((State.performLoad_kept ..).symm ▸ hdrained _)) (hdrained _)
@[simp] theorem State.performLoads_keeps (h : k.Keeps full s.kept) (t : TileId) : k.Keeps full (s.performLoads t).kept :=
  State.performUpTo_keeps h ..
@[simp] theorem State.pushLoad_keeps (h : k.Keeps full s.kept) (t : TileId) (addr : Word) (wait : BitVec 4) (dst : LoadDst)
    (value : Option Word) : k.Keeps full (s.pushLoad t addr wait dst value).kept := by
  simp [State.pushLoad, h]
@[simp] theorem State.fence_keeps (h : k.Keeps full s.kept) (t : TileId) : k.Keeps full (s.fence t).kept :=
  State.performLoads_keeps (State.drainStores_keeps (State.performLoads_keeps h ..) ..) ..

/-- What an issued instruction does, when it does anything, keeps what it is to keep. -/
def Kept.KeepsSome (k : Kept) (o : Option State) : Prop := ∀ u, o = some u → k.Keeps False u.kept

@[simp] theorem Kept.keepsSome_some {u : State} : k.KeepsSome (some u) ↔ k.Keeps False u.kept :=
  ⟨fun h => h u rfl, fun h v hv => by cases hv; exact h⟩
@[simp] theorem Kept.keepsSome_none : k.KeepsSome none := fun _ h => nomatch h
@[simp] theorem Kept.keepsSome_ite {c : Prop} [Decidable c] {a b : Option State} (ha : k.KeepsSome a) (hb : k.KeepsSome b) :
    k.KeepsSome (if c then a else b) := by
  split <;> assumption

theorem State.issue_keeps {α : Type} (h : k.Keeps False s.kept) (t : TileId) {sel : SInstr → Option α}
    {f : State → α → Option State} (hf : ∀ a, k.KeepsSome (f s a)) : k.KeepsRes (s.issue t sel f) := by
  unfold State.issue
  dsimp only
  repeat' split
  all_goals simp only [Kept.keepsRes_next, State.retireNext_keeps, h]
  exact hf _ _ ‹_›
theorem State.issueCop_keeps {α : Type} (h : k.Keeps False s.kept) (t : TileId) {sel : SInstr → Option α} {held : Tile → Bool}
    {f : State → α → Option State} (hf : ∀ a, k.KeepsSome (f s a)) : k.KeepsRes (s.issueCop t sel held f) :=
  State.issue_keeps h t fun a => Kept.keepsSome_ite (by simp [h]) (Kept.keepsSome_ite (by simp) (hf a))
theorem State.saluOp_keeps (h : k.Keeps False s.kept) (t : TileId) (op : AluOp) : k.KeepsRes (s.saluOp t op) :=
  State.issue_keeps h t fun _ => by simp [h]
theorem State.psetOp_keeps (h : k.Keeps False s.kept) (t : TileId) (op : CmpOp) : k.KeepsRes (s.psetOp t op) :=
  State.issue_keeps h t fun _ => by simp [h]
theorem execLd_keeps (h : k.Keeps False s.kept) (t : TileId) : k.KeepsRes (execLd t s) :=
  State.issue_keeps h t fun _ => by
    dsimp only
    split <;> simp [h]
theorem State.pldOp_keeps (h : k.Keeps False s.kept) (t : TileId) (sel : PldCond → Bool) : k.KeepsRes (s.pldOp t sel) :=
  State.issue_keeps h t fun _ => by
    dsimp only
    split <;> simp [h]
theorem execSt_keeps (h : k.Keeps False s.kept) (t : TileId) (visible : Bool) : k.KeepsRes (execSt t visible s) :=
  State.issue_keeps h t fun _ => by
    dsimp only
    split
    · simp [h]
    · exact Kept.keepsSome_ite (by simp) (Kept.keepsSome_some.2 (Kept.keeps_ite (by simp [h]) (by simp [h])))
theorem State.amoOp_keeps (h : k.Keeps False s.kept) (t : TileId) (op : AmoOp) : k.KeepsRes (s.amoOp t op) :=
  State.issue_keeps h t fun a => by
    have hf := State.fence_keeps h t
    refine Kept.keepsSome_ite (by simp) ?_
    split
    · simp [h]
    · refine Kept.keepsSome_ite (by simp [hf]) ?_
      dsimp only
      split
      · refine Kept.keepsSome_ite (by simp [hf]) ?_
        split <;> simp [State.wr_keeps hf, hf]
      · split <;> simp [hf]
theorem execBr_keeps (h : k.Keeps False s.kept) (t : TileId) : k.KeepsRes (execBr t s) :=
  State.issue_keeps h t fun _ => by
    dsimp only
    split
    · simp [h]
    · exact Kept.keepsSome_ite (by simp) (by simp [h])
theorem execJal_keeps (h : k.Keeps False s.kept) (t : TileId) : k.KeepsRes (execJal t s) :=
  State.issue_keeps h t fun _ => by simp [h]
theorem execJr_keeps (h : k.Keeps False s.kept) (t : TileId) : k.KeepsRes (execJr t s) :=
  State.issue_keeps h t fun _ => by simp [h]
theorem execSeqEnd_keeps (h : k.Keeps False s.kept) (t : TileId) : k.KeepsRes (execSeqEnd t s) :=
  State.issue_keeps h t fun _ => by simp [h]
theorem execFenceSc_keeps (h : k.Keeps False s.kept) (t : TileId) : k.KeepsRes (execFenceSc t s) :=
  State.issue_keeps h t fun _ => Kept.keepsSome_some.2
    (Kept.keeps_ite (State.retireNext_keeps (State.fence_keeps h t) ..) (State.fence_keeps h t))
theorem execFenceCo_keeps (h : k.Keeps False s.kept) (t : TileId) : k.KeepsRes (execFenceCo t s) :=
  State.issue_keeps h t fun _ => by simp [h]
theorem execWaitslot_keeps (h : k.Keeps False s.kept) (t : TileId) : k.KeepsRes (execWaitslot t s) :=
  State.issue_keeps h t fun _ => Kept.keepsSome_ite
    (Kept.keepsSome_some.2 (State.retireNext_keeps (Kept.keeps_ite (by simp [h]) h) ..)) (by simp [h])
theorem execWaitslotRelease_keeps (h : k.Keeps False s.kept) (t : TileId) : k.KeepsRes (execWaitslotRelease t s) := by
  unfold execWaitslotRelease
  dsimp only
  split <;> simp [h]
theorem execPhase_keeps (h : k.Keeps False s.kept) (t : TileId) : k.KeepsRes (execPhase t s) :=
  State.issue_keeps h t fun _ => by simp [h]
theorem execIllegalInstr_keeps (h : k.Keeps False s.kept) (t : TileId) : k.KeepsRes (execIllegalInstr t s) := by
  unfold execIllegalInstr
  dsimp only
  repeat' split
  all_goals simp [h]
@[simp] theorem State.resolveBranch_keeps (h : k.Keeps full s.kept) (t : TileId) (b : Branch) (right : Bool) :
    k.Keeps full (s.resolveBranch t b right).kept := by
  unfold State.resolveBranch
  dsimp only
  repeat' split
  all_goals simp [h]
@[simp] theorem State.resolveLoad_keeps (h : k.Keeps full s.kept) (t : TileId) (id : Nat) (c : Bool) (n : Nat) :
    k.Keeps full (State.resolveLoad t id c n s).kept := by
  induction n generalizing s with
  | zero => exact h
  | succ n ih =>
    unfold State.resolveLoad
    split
    · exact h
    · exact ih (State.resolveBranch_keeps h ..)
theorem execLoadReturn_keeps (h : k.Keeps False s.kept) (t : TileId) (n : Nat) : k.KeepsRes (execLoadReturn t n s) := by
  have hp := State.performLoads_keeps h t
  unfold execLoadReturn
  dsimp only
  split
  · exact Kept.keepsRes_next.2 hp
  · split
    · exact Kept.keepsRes_next.2 hp
    · rw [Kept.keepsRes_next]
      split <;> simp [hp]

/-! ### The rime unit -/

@[simp] theorem State.observeRow_keeps (h : k.Keeps full s.kept) (t : TileId) (slot : Fin 4) (no : Word) (g : Option Nat)
    (vals : List FV) : k.Keeps full (s.observeRow t slot no g vals).kept := by
  unfold State.observeRow
  dsimp only
  exact Kept.keeps_ite (Kept.keeps_ite (by simp [h]) (by simp [h])) (by simp [h])
@[simp] theorem State.observe_keeps (h : k.Keeps full s.kept) (t : TileId) (r : RimeRow) :
    k.Keeps full (s.observe t r).kept := foldl_keeps (fun _ _ => by simp) _ h
@[simp] theorem State.rimeRow_keeps (h : k.Keeps full s.kept) (t : TileId) (r : RimeRow) :
    k.Keeps full (s.rimeRow t r).kept := by
  simp [State.rimeRow, h]
@[simp] theorem State.rimeFlush_keeps (h : k.Keeps full s.kept) (t : TileId) : k.Keeps full (s.rimeFlush t).kept :=
  foldl_keeps (fun _ _ => by simp) _ (by simp [h])
@[simp] theorem State.rimeExec_keeps (h : k.Keeps full s.kept) (t : TileId) (o : RimeOp) :
    k.Keeps full (s.rimeExec t o).kept := by
  unfold State.rimeExec State.rimeCfg State.rimeBind
  dsimp only
  repeat' split
  all_goals simp [h]
@[simp] theorem State.rimeUpTo_keeps (h : k.Keeps full s.kept) (t : TileId) (n : Nat) :
    k.Keeps full (State.rimeUpTo t n s).kept := by
  induction n generalizing s with
  | zero => exact h
  | succ n ih =>
    have hd := State.drainStores_keeps h t
    unfold State.rimeUpTo
    split
    · exact h
    · exact Kept.keeps_ite (ih (State.rimeFlush_keeps (State.rimeExec_keeps (by simpa using hd) ..) ..)) hd
@[simp] theorem State.rimeGo_keeps (h : k.Keeps full s.kept) (t : TileId) : k.Keeps full (s.rimeGo t).kept :=
  State.rimeUpTo_keeps h ..
@[simp] theorem State.pushRime_keeps (h : k.Keeps full s.kept) (t : TileId) (wait : BitVec 4) (i : RimeIns) :
    k.Keeps full (s.pushRime t wait i).kept := by
  simp [State.pushRime, h]
theorem State.issueRime_keeps {α : Type} (h : k.Keeps False s.kept) (t : TileId) {sel : SInstr → Option α}
    {f : State → α → Option State} (hf : ∀ a, k.KeepsSome (f s a)) : k.KeepsRes (s.issueRime t sel f) :=
  State.issueCop_keeps h t fun a => Kept.keepsSome_ite (by simp) (hf a)
theorem execRcfg_keeps (h : k.Keeps False s.kept) (t : TileId) : k.KeepsRes (execRcfg t s) :=
  State.issueRime_keeps h t fun _ => by
    dsimp only
    split <;> simp [h]
theorem execRbind_keeps (h : k.Keeps False s.kept) (t : TileId) : k.KeepsRes (execRbind t s) :=
  State.issueRime_keeps h t fun _ => by simp [h]
theorem execRdrain_keeps (h : k.Keeps False s.kept) (t : TileId) : k.KeepsRes (execRdrain t s) :=
  State.issueRime_keeps h t fun _ => by simp [h]
theorem execGramRow_keeps (h : k.Keeps False s.kept) (t : TileId) : k.KeepsRes (execGramRow t s) := by
  unfold execGramRow
  dsimp only
  split
  · simp [h]
  · exact Kept.keepsRes_ite (by simp [h]) (by simp [h])
theorem execRimeDrainRead_keeps (h : k.Keeps False s.kept) (t : TileId) (slot : Fin 4) :
    k.KeepsRes (execRimeDrainRead t slot s) := by
  unfold execRimeDrainRead
  dsimp only
  repeat' split
  all_goals simpa only [Kept.keepsRes_next, State.modTile_kept, State.modSlot_kept] using h
theorem execRimeDrainDone_keeps (h : k.Keeps False s.kept) (t : TileId) (slot : Fin 4) :
    k.KeepsRes (execRimeDrainDone t slot s) := by
  unfold execRimeDrainDone
  dsimp only
  split
  · split
    · simp [h]
    · refine Kept.keepsRes_ite (by simp [h]) ?_
      split
      · simp [h]
      · exact Kept.keepsRes_next.2 (State.rimeGo_keeps (State.emit_keeps (by simp [h]) ..) ..)
  · simp [h]
theorem execTagCommit_keeps (h : k.Keeps False s.kept) (t : TileId) : k.KeepsRes (execTagCommit t s) := by
  unfold execTagCommit
  dsimp only
  split
  · refine Kept.keepsRes_next.2 (State.rimeGo_keeps ?_ t)
    have hc (l : List CommitEv) {s : State} (h : k.Keeps False s.kept) :
        k.Keeps False (l.foldl (fun s e => s.commitEv t e) s).kept := foldl_keeps (fun _ _ => by simp) l h
    split <;> simp [hc, h]
  · simp [h]
@[simp] theorem State.freeSamples_keeps (h : k.Keeps full s.kept) (t : TileId) (g : Nat) (slot : Fin 4) :
    k.Keeps full (s.freeSamples t g slot).kept := by
  unfold State.freeSamples
  dsimp only
  split <;> simp [h]
theorem execTagSquash_keeps (h : k.Keeps False s.kept) (t : TileId) : k.KeepsRes (execTagSquash t s) := by
  unfold execTagSquash
  dsimp only
  split
  · refine Kept.keepsRes_next.2 (State.rimeGo_keeps ?_ t)
    exact (State.modTile_kept ..).symm ▸ foldl_keeps (fun _ _ => by simp) _ h
  · simp [h]


/-! ### The matrix unit -/

@[simp] theorem State.rimeObserve_keeps (h : k.Keeps full s.kept) (t : TileId) (p : PassOp) (row : List FV) :
    k.Keeps full (s.rimeObserve t p row).kept := by
  simp [State.rimeObserve, h]
@[simp] theorem State.passRow_keeps (h : k.Keeps full s.kept) (t : TileId) (p : PassOp) :
    k.Keeps full (s.passRow t p).kept := by
  unfold State.passRow
  dsimp only
  rw [State.setPass_kept, apply_ite State.kept, State.poisonRow_kept, State.putRow_kept, ite_self]
  split <;> simp [State.takeFree, h]
@[simp] theorem State.streamTo_keeps (h : k.Keeps full s.kept) (t : TileId) (id goal n : Nat) :
    k.Keeps full (State.streamTo t id goal n s).kept := by
  induction n generalizing s with
  | zero => exact h
  | succ n ih =>
    unfold State.streamTo
    split
    · exact h
    · exact Kept.keeps_ite (ih (State.passRow_keeps h ..)) h
@[simp] theorem State.streamAll_keeps (h : k.Keeps full s.kept) (t : TileId) (id : Nat) :
    k.Keeps full (s.streamAll t id).kept := by
  unfold State.streamAll
  split <;> simp [h]
theorem execMpass_keeps (h : k.Keeps False s.kept) (t : TileId) : k.KeepsRes (execMpass t s) :=
  State.issueCop_keeps h t fun _ => by
    dsimp only
    split <;> simp [h]
theorem execPassStart_keeps (h : k.Keeps False s.kept) (t : TileId) : k.KeepsRes (execPassStart t s) := by
  unfold execPassStart
  split
  · dsimp only
    have hs (l : List MatOp) : k.Keeps False (l.foldl (fun (s : State) o =>
        if o.started then s.streamAll t o.hdr.id else s) (s.drainStores t)).kept :=
      foldl_keeps (fun _ _ => Kept.keeps_ite (by simp) (.refl ..)) l (State.drainStores_keeps h t)
    refine Kept.keepsRes_ite (by simp [hs]) ?_
    split
    · simp [hs]
    · exact Kept.keepsRes_ite (by simp [hs]) (by simp [hs])
  · simp [h]
theorem execPassComplete_keeps (h : k.Keeps False s.kept) (t : TileId) (stall : Word) :
    k.KeepsRes (execPassComplete t stall s) := by
  unfold execPassComplete
  dsimp only
  generalize (s.tile t).matQ.findSome? _ = first
  cases first with
  | none => simp [h]
  | some id =>
    have hs := State.streamAll_keeps h t id
    dsimp only
    split
    · simp [hs]
    · exact Kept.keepsRes_ite (by simp [hs]) (by simp [hs])

/-! ### The DMA engine -/

@[simp] theorem State.dmaPut_keeps (h : k.Keeps full s.kept) (t : TileId) (d : DmaDesc) (p : DmaPut) :
    k.Keeps full (s.dmaPut t d p).kept := by
  unfold State.dmaPut
  split <;> simp [h]
theorem State.dmaRun_keeps {r : DmaRun} (h : k.Keeps full r.s.kept) (t : TileId) (d : DmaDesc) (err : HostErr) (n : Nat) :
    k.Keeps full (State.dmaRun t d err n r).s.kept := by
  induction n generalizing r with
  | zero => exact h
  | succ n ih =>
    unfold State.dmaRun
    dsimp only
    split
    · exact h
    · exact ih (foldl_keeps (fun _ _ => by simp) _ h)
@[simp] theorem State.dmaPerform_keeps (h : k.Keeps full s.kept) (t : TileId) (o : DmaOp) (err : HostErr) :
    k.Keeps full (s.dmaPerform t o err).s.kept := by
  unfold State.dmaPerform
  split
  · exact h
  · exact State.dmaRun_keeps h ..
@[simp] theorem State.dmaFinish_keeps (h : k.Keeps full s.kept) (t : TileId) (o : DmaOp) (puts : List DmaPut) (units : Nat)
    (f : Option DmaFault) : k.Keeps full (s.dmaFinish t o puts units f).kept := by
  have hp (l : List DmaPut) : k.Keeps full (l.foldl (fun s p => s.dmaPut t o.d p) s).kept :=
    foldl_keeps (fun _ _ => by simp) l h
  unfold State.dmaFinish
  dsimp only
  refine State.rimeGo_keeps ?_ t
  split
  · simp [hp]
  · exact Kept.keeps_ite (by simp [hp]) (by simp [hp])
@[simp] theorem State.dmaView_keeps (h : k.Keeps full s.kept) (t : TileId) (before : List DmaItem) :
    k.Keeps full (s.dmaView t before).kept := by
  refine foldl_keeps (fun s i => ?_) _ h
  split
  · split
    · exact foldl_keeps (fun _ _ => by simp) _ (.refl ..)
    · simp
  · simp
@[simp] theorem State.dmaStep_keeps (h : k.Keeps full s.kept) (t : TileId) (err : HostErr) :
    k.Keeps full (s.dmaStep t err).kept := by
  have hd := State.drainStores_keeps h t
  unfold State.dmaStep
  dsimp only
  split
  · split
    · exact State.dmaFinish_keeps (foldl_keeps (fun _ _ => by simp) _ hd) ..
    · exact Kept.keeps_ite (by simp [hd]) hd
  · split
    · exact Kept.keeps_ite (by simp [hd]) hd
    · exact hd
theorem State.dmaOp_keeps (h : k.Keeps False s.kept) (t : TileId) (eager : Bool) (kinds : Nat → Bool) :
    k.KeepsRes (s.dmaOp t eager kinds) :=
  State.issueCop_keeps h t fun _ => by
    dsimp only
    split
    · simp [h]
    · exact Kept.keepsSome_ite (by simp) (Kept.keepsSome_some.2 (Kept.keeps_ite (by simp [h]) (by simp [h])))


/-! ### The links -/

@[simp] theorem State.enterLost_keeps (h : k.Keeps full s.kept) (p : PortId) (reason : BitVec 4) :
    k.Keeps full (s.enterLost p reason).kept := by
  simp [State.enterLost, h]
@[simp] theorem State.answerFault_keeps (h : k.Keeps full s.kept) (p : PortId) (mask noSpare : BitVec 8) :
    k.Keeps full (s.answerFault p mask noSpare).kept := by
  have hctl (f : State → Nat × Nat → State) (hf : ∀ s q, (f s q).kept = s.kept) (l : List (Nat × Nat)) (s : State) :
      (l.foldl f s).kept = s.kept := foldl_kept hf l s
  unfold State.answerFault
  dsimp only
  refine Kept.keeps_ite h (Kept.keeps_ite ?_ (Kept.keeps_ite ?_ ?_))
  · rw [hctl _ fun _ _ => State.sendCtl_kept .., State.startSwap_kept]
    exact h
  · exact State.enterLost_keeps ((foldl_kept (fun _ _ => State.retireLane_kept ..) _ _).symm ▸ h) ..
  · simp [h]
@[simp] theorem State.swapCheck_keeps (h : k.Keeps full s.kept) (p : PortId) : k.Keeps full (s.swapCheck p).kept := by
  unfold State.swapCheck
  dsimp only
  repeat' split
  all_goals simp [h]
theorem execPartnerLoss_keeps (h : k.Keeps False s.kept) (p : PortId) (cause : LossCause) :
    k.KeepsRes (execPartnerLoss p cause s) := by
  simp [execPartnerLoss, h]
/-- What a frame's reception leaves. -/
def Kept.KeepsReception (k : Kept) : Reception → Prop
  | .ignored => True
  | .discarded u | .accepted u => k.Keeps False u.kept

theorem Kept.keepsReception_ite {c : Prop} [Decidable c] {a b : Reception} (ha : k.KeepsReception a)
    (hb : k.KeepsReception b) : k.KeepsReception (if c then a else b) := by
  split <;> assumption

theorem State.receive_keeps (h : k.Keeps False s.kept) (p : PortId) (f : Frame) (ty : Nat) :
    k.KeepsReception (s.receive p f ty) := by
  unfold State.receive
  refine Kept.keepsReception_ite trivial (Kept.keepsReception_ite ?_ (Kept.keepsReception_ite trivial
    (Kept.keepsReception_ite ?_ (Kept.keepsReception_ite ?_ (Kept.keepsReception_ite ?_ ?_)))))
  all_goals simp [Kept.KeepsReception, h]
theorem State.onFrame_keeps (h : k.Keeps False s.kept) (p : PortId) (f : Frame) (ty : Nat) (name : String)
    {g : State → State} (hg : ∀ u : State, k.Keeps False u.kept → k.Keeps False (g u).kept) :
    k.KeepsRes (s.onFrame p f ty name g) := by
  have hr := s.receive_keeps h p f ty
  refine Kept.keepsRes_ite (by simp) ?_
  split
  next => simp [h]
  next u hu => exact Kept.keepsRes_next.2 (by rwa [hu] at hr)
  next u hu => exact Kept.keepsRes_next.2 (hg u (by rwa [hu] at hr))
theorem State.onCtl_keeps (h : k.Keeps False s.kept) (p : PortId) (m : CtlHeader) {g : State → State}
    (hg : ∀ u : State, k.Keeps False u.kept → k.Keeps False (g u).kept) : k.KeepsRes (s.onCtl p m g) := by
  unfold State.onCtl
  exact Kept.keepsRes_next.2 (Kept.keeps_ite h (Kept.keeps_ite (by simp [h]) (hg _ (by simp [h]))))
theorem execFrameData_keeps (h : k.Keeps False s.kept) (p : PortId) (f : Frame) : k.KeepsRes (execFrameData p f s) :=
  s.onFrame_keeps h p f _ _ fun _ hu => by simp [hu]
theorem execFrameIdle_keeps (h : k.Keeps False s.kept) (p : PortId) (f : Frame) : k.KeepsRes (execFrameIdle p f s) :=
  s.onFrame_keeps h p f _ _ fun _ hu => hu
theorem execFrameTime_keeps (h : k.Keeps False s.kept) (p : PortId) (f : Frame) (arrival : Word) (frac : BitVec 4) :
    k.KeepsRes (execFrameTime p f arrival frac s) :=
  s.onFrame_keeps h p f _ _ fun _ hu => by simp [hu]
theorem execFrameDown_keeps (h : k.Keeps False s.kept) (p : PortId) (f : Frame) : k.KeepsRes (execFrameDown p f s) :=
  s.onFrame_keeps h p f _ _ fun _ hu => by simp [hu]
theorem execReplayReq_keeps (h : k.Keeps False s.kept) (p : PortId) (m : CtlHeader) (fseq : BitVec 20) :
    k.KeepsRes (execReplayReq p m fseq s) :=
  s.onCtl_keeps h p m fun _ hu => by simp [hu]
theorem execCredit_keeps (h : k.Keeps False s.kept) (p : PortId) (m : CtlHeader) (counts : List Nat) :
    k.KeepsRes (execCredit p m counts s) :=
  Kept.keepsRes_ite (by simp) (s.onCtl_keeps h p m fun _ hu => by simp [hu])
theorem execRetrainReq_keeps (h : k.Keeps False s.kept) (p : PortId) (m : CtlHeader) (maxw : BitVec 4) (half : Bool) :
    k.KeepsRes (execRetrainReq p m maxw half s) :=
  s.onCtl_keeps h p m fun _ hu => by simp [hu]
theorem execLaneFault_keeps (h : k.Keeps False s.kept) (p : PortId) (m : CtlHeader) (mask : BitVec 8) :
    k.KeepsRes (execLaneFault p m mask s) :=
  s.onCtl_keeps h p m fun u hu => by
    dsimp only
    split
    · exact hu
    · split
      · exact Kept.keeps_ite (by simp [hu]) (by simp [hu])
      · simp [hu]
theorem execSwap_keeps (h : k.Keeps False s.kept) (p : PortId) (m : CtlHeader) (lane : Fin 8) (phys : BitVec 4)
    (resume : BitVec 20) : k.KeepsRes (execSwap p m lane phys resume s) :=
  s.onCtl_keeps h p m fun _ hu => by simp [hu]
theorem execWidth_keeps (h : k.Keeps False s.kept) (p : PortId) (m : CtlHeader) (w : BitVec 4) (map : BitVec 32)
    (resume : BitVec 20) : k.KeepsRes (execWidth p m w map resume s) :=
  s.onCtl_keeps h p m fun _ hu => by simp [hu]
theorem execAlignDone_keeps (h : k.Keeps False s.kept) (p : PortId) (m : CtlHeader) : k.KeepsRes (execAlignDone p m s) :=
  s.onCtl_keeps h p m fun u hu => by
    dsimp only
    split
    · split <;> simp [hu]
    · exact hu
theorem execLaneFaultDetect_keeps (h : k.Keeps False s.kept) (p : PortId) (loss : LaneLoss) :
    k.KeepsRes (execLaneFaultDetect p loss s) :=
  Kept.keepsRes_ite (by simp [h]) (Kept.keepsRes_next.2 (Kept.keeps_ite (by simp [h]) (by simp [h])))
theorem execSpareAlignTimeout_keeps (h : k.Keeps False s.kept) (p : PortId) (lane : Fin 8) :
    k.KeepsRes (execSpareAlignTimeout p lane s) :=
  Kept.keepsRes_ite (by simp [h]) (Kept.keepsRes_next.2 (Kept.keeps_ite (by simp [h]) (by simp [h])))
theorem execFrameAlignmentFound_keeps (h : k.Keeps False s.kept) (p : PortId) :
    k.KeepsRes (execFrameAlignmentFound p s) := by
  simp [execFrameAlignmentFound, h]
theorem execReplayTimeout_keeps (h : k.Keeps False s.kept) (p : PortId) : k.KeepsRes (execReplayTimeout p s) := by
  unfold execReplayTimeout
  split <;> simp [h]
theorem execLinkDetect_keeps (h : k.Keeps False s.kept) (p : PortId) : k.KeepsRes (execLinkDetect p s) := by
  unfold execLinkDetect
  repeat' split
  all_goals simp [h]
theorem execLinkPollEnd_keeps (h : k.Keeps False s.kept) (p : PortId) (locked : BitVec 12) :
    k.KeepsRes (execLinkPollEnd p locked s) := by
  unfold execLinkPollEnd
  dsimp only
  repeat' split
  all_goals simp [h]
theorem execLinkEqualizeEnd_keeps (h : k.Keeps False s.kept) (p : PortId) (converged : BitVec 12) :
    k.KeepsRes (execLinkEqualizeEnd p converged s) := by
  unfold execLinkEqualizeEnd
  split <;> simp [h]
theorem execLinkAlignEnd_keeps (h : k.Keeps False s.kept) (p : PortId) (aligned : BitVec 12) :
    k.KeepsRes (execLinkAlignEnd p aligned s) := by
  unfold execLinkAlignEnd
  split <;> simp [h]
theorem execLinkConfigEnd_keeps (h : k.Keeps False s.kept) (p : PortId) (offer : ConfigOffer) :
    k.KeepsRes (execLinkConfigEnd p offer s) := by
  unfold execLinkConfigEnd
  dsimp only
  repeat' split
  all_goals simp [h]
theorem execLinkLostRetry_keeps (h : k.Keeps False s.kept) (p : PortId) : k.KeepsRes (execLinkLostRetry p s) := by
  unfold execLinkLostRetry
  split <;> simp [h]
theorem execNoPartner_keeps (h : k.Keeps False s.kept) (p : PortId) : k.KeepsRes (execNoPartner p s) := by
  unfold execNoPartner
  split <;> simp [h]
theorem execLinkRetrain_keeps (h : k.Keeps False s.kept) (p : PortId) :
    k.KeepsRes (execLinkRetrain p s) := by simp [execLinkRetrain, h]
theorem execLinkDisable_keeps (h : k.Keeps False s.kept) (p : PortId) (hold : Bool) :
    k.KeepsRes (execLinkDisable p hold s) := by simp [execLinkDisable, h]
theorem execLanePrbsDone_keeps (h : k.Keeps False s.kept) (p : PortId) (lane : BitVec 4) (pass : Bool) :
    k.KeepsRes (execLanePrbsDone p lane pass s) := by
  unfold execLanePrbsDone
  dsimp only
  repeat' split
  all_goals simp [h]

/-! ### Epilogues -/

theorem execEpi_keeps (h : k.Keeps False s.kept) (t : TileId) : k.KeepsRes (execEpi t s) :=
  State.issueCop_keeps h t fun _ => by
    dsimp only
    split <;> simp [h]
@[simp] theorem State.epiFault_keeps (h : k.Keeps full s.kept) (t : TileId) (e : EpiOp) (bit : Nat) :
    k.Keeps full (s.epiFault t e bit).kept := by
  refine State.rimeGo_keeps ?_ t
  rw [State.copFault_kept]
  exact Kept.keeps_ite (by simp [h]) (by simp [h])
theorem execEpiStart_keeps (h : k.Keeps False s.kept) (t : TileId) : k.KeepsRes (execEpiStart t s) := by
  have hd := State.drainStores_keeps h t
  unfold execEpiStart
  dsimp only
  split
  · refine Kept.keepsRes_ite (by simp [hd]) ?_
    split <;> simp [hd]
  · simp [h]
@[simp] theorem State.rowDone_keeps (h : k.Keeps full s.kept) (t : TileId) (e : EpiOp) (bytes : List Byte) (fl : Flags) :
    k.Keeps full (s.rowDone t e bytes fl).kept :=
  Kept.keeps_ite (by simp [h]) (by simp [h])
theorem execEpiRow_keeps (h : k.Keeps False s.kept) (t : TileId) (stall : Word) : k.KeepsRes (execEpiRow t stall s) := by
  have hs := State.streamTo_keeps h t
  have hf {u : State} (hu : k.Keeps False u.kept) (c : Prop) [Decidable c] :
      k.Keeps False (if c then u.takeFree.2 else u).kept := Kept.keeps_ite (by simpa [State.takeFree] using hu) hu
  have hw {u : State} (hu : k.Keeps False u.kept) (a b : Nat) (l m : List Byte) (c : Prop) [Decidable c] :
      k.Keeps False (if c then (u.tsWr t a l).tsWr t b m else u.tsWr t a l).kept :=
    Kept.keeps_ite (by simp [hu]) (by simp [hu])
  unfold execEpiRow
  dsimp only
  split
  · simp [h]
  · split
    all_goals
      refine Kept.keepsRes_ite (by simp [hs, h]) (Kept.keepsRes_ite (by simp [hs, h]) (Kept.keepsRes_ite
        (Kept.keepsRes_ite (by simp [hf, hs, h]) ?_) ?_))
      · repeat' split
        all_goals simp [State.takeFree, hs, h]
      · refine Kept.keepsRes_next.2 (State.rowDone_keeps ((State.clearRow_kept ..).symm ▸ hw (hf ?_ _) ..) ..)
        simp [hs, h]


/-! ### The routers, integrity and time -/

@[simp] theorem cpRegWrite_keeps (h : k.Keeps full s.kept) (o n v : Nat) : k.Keeps full (cpRegWrite s o n v).kept := by
  rw [cpRegWrite_kept]
  exact h
theorem execHbmRefresh_keeps (h : k.Keeps False s.kept) (_s : StackId) (delayed : Bool) :
    k.KeepsRes (execHbmRefresh _s delayed s) := by
  unfold execHbmRefresh
  split <;> simp [h]
theorem execPatrolScrub_keeps (h : k.Keeps False s.kept) (x0 : StackId) (line : Nat) (finding : ScrubFinding) :
    k.KeepsRes (execPatrolScrub x0 line finding s) := by
  unfold execPatrolScrub
  dsimp only
  repeat' split
  all_goals simp [h]
theorem execRouterForward_keeps (h : k.Keeps False s.kept) (d : Die) (input : RouterInput) (pkt : Packet) :
    k.KeepsRes (execRouterForward d input pkt s) := by
  unfold execRouterForward
  dsimp only
  repeat' split
  all_goals simp [h]
theorem execMulticastInject_keeps (h : k.Keeps False s.kept) (d : Die) (pkt : Packet) :
    k.KeepsRes (execMulticastInject d pkt s) := by
  unfold execMulticastInject
  dsimp only
  repeat' split
  all_goals simp [h]
theorem execThrottleRelease_keeps (h : k.Keeps False s.kept) (d : Die) : k.KeepsRes (execThrottleRelease d s) := by
  unfold execThrottleRelease
  dsimp only
  split <;> simp [h]
theorem execPortArbitrate_keeps (h : k.Keeps False s.kept) (p : PortId) : k.KeepsRes (execPortArbitrate p s) := by
  unfold execPortArbitrate
  dsimp only
  repeat' split
  all_goals simp [h]
theorem execTestWindowStart_keeps (h : k.Keeps False s.kept) : k.KeepsRes (execTestWindowStart s) := by
  unfold execTestWindowStart
  dsimp only
  repeat' split
  all_goals simp [h]
theorem execTestWindowEnd_keeps (h : k.Keeps False s.kept) : k.KeepsRes (execTestWindowEnd s) := by
  unfold execTestWindowEnd
  repeat' split
  all_goals simp [h]
theorem execProbationExpire_keeps (h : k.Keeps False s.kept) : k.KeepsRes (execProbationExpire s) := by
  unfold execProbationExpire
  split <;> simp [h]
theorem execWdRecord_keeps (h : k.Keeps False s.kept) : k.KeepsRes (execWdRecord s) := by
  unfold execWdRecord
  dsimp only
  repeat' split
  all_goals simp [h]
theorem execWdCompare_keeps (h : k.Keeps False s.kept) : k.KeepsRes (execWdCompare s) := by
  unfold execWdCompare
  dsimp only
  repeat' split
  all_goals simp [h]
theorem execTimeFrameSend_keeps (h : k.Keeps False s.kept) (p : PortId) : k.KeepsRes (execTimeFrameSend p s) := by
  unfold execTimeFrameSend
  split <;> simp [h]
theorem execTickSyncOutPulse_keeps (h : k.Keeps False s.kept) : k.KeepsRes (execTickSyncOutPulse s) := by
  unfold execTickSyncOutPulse
  split <;> simp [h]
theorem execTickSyncInEdge_keeps (h : k.Keeps False s.kept) : k.KeepsRes (execTickSyncInEdge s) := by
  unfold execTickSyncInEdge
  dsimp only
  repeat' split
  all_goals simp [h]
theorem execLockstepReceive_keeps (h : k.Keeps False s.kept) (slot : Word) (entries : List LsEntry) :
    k.KeepsRes (execLockstepReceive slot entries s) := by
  unfold execLockstepReceive
  split <;> simp [h]
theorem execLockstepSkew_keeps (h : k.Keeps False s.kept) : k.KeepsRes (execLockstepSkew s) := by
  unfold execLockstepSkew
  split <;> simp [h]
theorem execMgmtBudgetWindow_keeps (h : k.Keeps False s.kept) (d : Die) : k.KeepsRes (execMgmtBudgetWindow d s) :=
  Kept.keepsRes_next.2 (foldl_keeps (fun _ _ => by simp) _ (by simp [h]))
theorem execLaunchBoundary_keeps (h : k.Keeps False s.kept) : k.KeepsRes (execLaunchBoundary s) := by
  unfold execLaunchBoundary
  refine Kept.keepsRes_ite (Kept.keepsRes_next.2 ?_) (by simp [h])
  rw [State.kept_mk _ rfl]
  exact (foldl_kept (fun s o => State.reissue_kept ..) _ _).symm ▸ (by simp [h])
theorem execLockstepSend_keeps (h : k.Keeps False s.kept) : k.KeepsRes (execLockstepSend s) := by
  unfold execLockstepSend
  refine Kept.keepsRes_ite (by simp [h]) (Kept.keepsRes_next.2 ?_)
  rw [State.lsCompare_kept]
  refine Kept.keeps_ite (Kept.keeps_ite (by simp [h]) (foldl_keeps (fun _ _ => by simp) _ (by simp [h]))) (by simp [h])

/-! ### Ouvzu -/

@[simp] theorem State.cqWrite_keeps (h : k.Keeps full s.kept) (q : QPair) (c : Cmd) :
    k.Keeps full (s.cqWrite q c).kept := by
  unfold State.cqWrite
  dsimp only
  split <;> simp [h]
@[simp] theorem State.writeRecord_keeps (h : k.Keeps full s.kept) (c : Cmd) : k.Keeps full (s.writeRecord c).kept := by
  unfold State.writeRecord
  dsimp only
  repeat' split
  all_goals simp [h]
@[simp] theorem State.flushUpTo_keeps (h : k.Keeps full s.kept) (n : Nat) : k.Keeps full (State.flushUpTo n s).kept := by
  induction n generalizing s with
  | zero => exact h
  | succ n ih =>
    unfold State.flushUpTo
    split
    · exact ih (State.writeRecord_keeps h _)
    · exact h
@[simp] theorem State.flush_keeps (h : k.Keeps full s.kept) : k.Keeps full s.flush.kept := State.flushUpTo_keeps h _
@[simp] theorem State.cancelAdmit_keeps (h : k.Keeps full s.kept) : k.Keeps full s.cancelAdmit.kept := by
  simp [State.cancelAdmit, h]
@[simp] theorem State.finishClose_keeps (h : k.Keeps full s.kept) (c : Closing) (p : PciePort) :
    k.Keeps full (s.finishClose c p).kept := by
  unfold State.finishClose
  dsimp only
  split <;> split
  · exact Kept.keeps_ite (by simp [h]) (by simp [h])
  all_goals simp [h]
@[simp] theorem State.settleUpTo_keeps (h : k.Keeps full s.kept) (n : Nat) : k.Keeps full (State.settleUpTo n s).kept := by
  induction n generalizing s with
  | zero => exact h
  | succ n ih =>
    unfold State.settleUpTo
    split
    · split
      · exact Kept.keeps_ite (ih (by simp [h])) (ih (State.finishClose_keeps h ..))
      · exact h
    · exact h
@[simp] theorem State.settle_keeps (h : k.Keeps full s.kept) : k.Keeps full s.settle.kept :=
  State.settleUpTo_keeps (by simp [h]) _
@[simp] theorem State.commitCmd_keeps (h : k.Keeps full s.kept) (x status : Nat) (r0 r1 : Word) :
    k.Keeps full (s.commitCmd x status r0 r1).kept := by
  simp [State.commitCmd, h]
theorem State.runCmd_keeps (h : k.Keeps False s.kept) (x opc : Nat) (ok : Cmd → Bool) {f : State → Cmd → State}
    (hf : ∀ c, k.Keeps False (f s c).kept) : k.KeepsRes (s.runCmd x opc ok f) := by
  unfold State.runCmd
  split
  · simp [h]
  · exact Kept.keepsRes_ite (by simp [h]) (Kept.keepsRes_ite (by simp [h]) (Kept.keepsRes_ite (by simp [h]) (by simp [hf])))
theorem State.onPort_keeps (h : k.Keeps False s.kept) (c : Cmd) {f : PciePort → State}
    (hf : ∀ p, k.Keeps False (f p).kept) : k.Keeps False (s.onPort c f).kept := by
  unfold State.onPort
  split <;> simp [h, hf]
@[simp] theorem State.supersede_keeps (h : k.Keeps full s.kept) (c : Cmd) : k.Keeps full (s.supersede c).kept := by
  unfold State.supersede
  dsimp only
  split <;> simp [h]
/-- An order of the window is sequenced, or superseded. -/
theorem foldl_sequence_keeps (l : List Cmd) {r : State × List Cmd} (h : k.Keeps full r.1.kept) :
    k.Keeps full (l.foldl (fun (r : State × List Cmd) c =>
      if r.2.any fun d => d.contradicts c then (r.1.supersede c, r.2)
      else if c.sqid = 0xFFFD then
        match c.port with
        | some p => (((r.1.executing c.handle).startClose p (some c.handle) true).flush.settle, c :: r.2)
        | none => (r.1, r.2)
      else (r.1, c :: r.2)) r).1.kept := by
  induction l generalizing r with
  | nil => exact h
  | cons c l ih =>
    refine ih ?_
    dsimp only
    repeat' split
    all_goals simp [h]
theorem execIngressWindowClose_keeps (h : k.Keeps False s.kept) : k.KeepsRes (execIngressWindowClose s) :=
  Kept.keepsRes_next.2 (foldl_sequence_keeps _ (by simpa using h))
@[simp] theorem State.endCommands_keeps (h : k.Keeps full s.kept) (p : PciePort) (written : Bool) :
    k.Keeps full (s.endCommands p written).kept := by
  have hc (l : List Cmd) : k.Keeps full (l.foldl (fun s c =>
      let s := s.undoStarted c
      let s := if c.opc = 0x12 && c.stage == .executing then { s with job := { s.job with quiesce := none } } else s
      s.setCommitted c.handle 0x22 0 0) s).kept :=
    foldl_keeps (fun _ _ => by
      rw [State.setCommitted_kept]
      exact Kept.keeps_ite (by simp) (by simp)) l h
  unfold State.endCommands
  exact Kept.keeps_ite (State.flush_keeps (hc _)) (Kept.keeps_ite (by simpa using hc _) (by simpa using hc _))
@[simp] theorem State.dropFn_keeps (h : k.Keeps full s.kept) (p : PciePort) (written : Bool) :
    k.Keeps full (s.dropFn p written).kept := by
  have he := State.endCommands_keeps h p written
  unfold State.dropFn
  dsimp only
  refine State.settle_keeps (State.flush_keeps ?_)
  rw [State.modFn_kept, State.dropQueues_kept]
  exact Kept.keeps_ite (by simp [he]) (by simp [he])
theorem execFunctionLevelReset_keeps (h : k.Keeps False s.kept) (p : PciePort) :
    k.KeepsRes (execFunctionLevelReset p s) := by
  simp [execFunctionLevelReset, h]
theorem execPcieLinkDown_keeps (h : k.Keeps False s.kept) (p : PciePort) (perst : Bool) :
    k.KeepsRes (execPcieLinkDown p perst s) := by
  unfold execPcieLinkDown
  dsimp only
  split <;> simp [h]
theorem execSqTailDoorbell_keeps (h : k.Keeps False s.kept) (p : PciePort) (q : BitVec 14) (value : BitVec 32) :
    k.KeepsRes (execSqTailDoorbell p q value s) := by simp [execSqTailDoorbell, h]
theorem execCqHeadDoorbell_keeps (h : k.Keeps False s.kept) (p : PciePort) (q : BitVec 14) (value : BitVec 32) :
    k.KeepsRes (execCqHeadDoorbell p q value s) := by simp [execCqHeadDoorbell, h]
theorem execOuvzuEnSet_keeps (h : k.Keeps False s.kept) (p : PciePort) :
    k.KeepsRes (execOuvzuEnSet p s) := by simp [execOuvzuEnSet, h]
theorem execOuvzuEnClear_keeps (h : k.Keeps False s.kept) (p : PciePort) :
    k.KeepsRes (execOuvzuEnClear p s) := by simp [execOuvzuEnClear, h]
theorem execMboxGo_keeps (h : k.Keeps False s.kept) (p : PciePort) :
    k.KeepsRes (execMboxGo p s) := by simp [execMboxGo, h]
theorem execArbiterRound_keeps (h : k.Keeps False s.kept) : k.KeepsRes (execArbiterRound s) := by
  unfold execArbiterRound
  dsimp only
  split <;> simp [h]
theorem execCqCoalesceTimeout_keeps (h : k.Keeps False s.kept) (q : BitVec 14) :
    k.KeepsRes (execCqCoalesceTimeout q s) := by
  unfold execCqCoalesceTimeout
  repeat' split
  all_goals simp [h]

/-! ### Commands -/

theorem execIdentify_keeps (h : k.Keeps False s.kept) (x : Nat) (hostOk : Bool) : k.KeepsRes (execIdentify x hostOk s) :=
  State.runCmd_keeps h _ _ _ fun c => State.onPort_keeps h c fun _ =>
    Kept.keeps_ite (by simp [h]) (by simp [h])
theorem execCreateQp_keeps (h : k.Keeps False s.kept) (x : Nat) : k.KeepsRes (execCreateQp x s) :=
  State.runCmd_keeps h _ _ _ fun c => State.onPort_keeps h c fun _ =>
    Kept.keeps_ite (by simp [h]) (by simp [h])
theorem execDeleteQp_keeps (h : k.Keeps False s.kept) (x : Nat) : k.KeepsRes (execDeleteQp x s) :=
  State.runCmd_keeps h _ _ _ fun c => by
    dsimp only
    split
    · simp [h]
    · exact Kept.keeps_ite (by simp [h]) (State.settle_keeps (State.flush_keeps (by simp [h])))
theorem execDeleteQpDone_keeps (h : k.Keeps False s.kept) (x : Nat) : k.KeepsRes (execDeleteQpDone x s) := by
  unfold execDeleteQpDone
  split
  · simp [h]
  · exact Kept.keepsRes_ite (by simp [h]) (by simp [h])
theorem execSetarb_keeps (h : k.Keeps False s.kept) (x : Nat) : k.KeepsRes (execSetarb x s) :=
  State.runCmd_keeps h _ _ _ fun c => by simp [h]
theorem execGrantHost_keeps (h : k.Keeps False s.kept) (x : Nat) : k.KeepsRes (execGrantHost x s) :=
  State.runCmd_keeps h _ _ _ fun c => State.onPort_keeps h c fun _ =>
    Kept.keeps_ite (by simp [h]) (by simp [h])
theorem execRevokeHost_keeps (h : k.Keeps False s.kept) (x : Nat) : k.KeepsRes (execRevokeHost x s) :=
  State.runCmd_keeps h _ _ _ fun c => by
    dsimp only
    split
    · simp [h]
    · exact Kept.keeps_ite (by simp [h]) (by simp [h])
theorem execEnableFn_keeps (h : k.Keeps False s.kept) (x : Nat) : k.KeepsRes (execEnableFn x s) :=
  State.runCmd_keeps h _ _ _ fun c => by
    split <;> simp [h]
theorem execDisableFn_keeps (h : k.Keeps False s.kept) (x : Nat) : k.KeepsRes (execDisableFn x s) :=
  State.runCmd_keeps h _ _ _ fun c => by
    split <;> simp [h]
theorem execAbortCmd_keeps (h : k.Keeps False s.kept) (x : Nat) : k.KeepsRes (execAbortCmd x s) :=
  State.runCmd_keeps h _ _ _ fun c => by
    dsimp only
    split
    · exact Kept.keeps_ite (by simp [h]) (by simp [h])
    all_goals simp [h]
theorem execRegread_keeps (h : k.Keeps False s.kept) (x : Nat) (hostOk : Bool) : k.KeepsRes (execRegread x hostOk s) :=
  State.runCmd_keeps h _ _ _ fun c => State.onPort_keeps h c fun _ =>
    Kept.keeps_ite (by simp [h]) (Kept.keeps_ite (by simp [h]) (by simp [h]))
theorem execPivsearch_keeps (h : k.Keeps False s.kept) (x : Nat) : k.KeepsRes (execPivsearch x s) :=
  State.runCmd_keeps h _ _ _ fun c => by
    dsimp only
    refine Kept.keeps_ite (by simp [h]) ?_
    split <;> simp [h]
theorem execMsgsend_keeps (h : k.Keeps False s.kept) (x : Nat) (hostOk : Bool) : k.KeepsRes (execMsgsend x hostOk s) :=
  State.runCmd_keeps h _ _ _ fun c => State.onPort_keeps h c fun p => by
    dsimp only
    refine Kept.keeps_ite (by simp [h]) ?_
    split
    next => exact h
    next u hu => exact State.commitCmd_keeps (by simpa [State.unschedInject_kept hu] using h) ..
@[simp] theorem State.deliverMsg_keeps (h : k.Keeps full s.kept) (c : Cmd) (m : HeldMsg) (hostOk : Bool) :
    k.Keeps full (s.deliverMsg c m hostOk).kept := by
  unfold State.deliverMsg
  split
  · exact h
  · exact Kept.keeps_ite (by simp [h]) (by simp [h])
theorem execMsgrecv_keeps (h : k.Keeps False s.kept) (x : HostCmd) : k.KeepsRes (execMsgrecv x s) :=
  State.runCmd_keeps h _ _ _ fun c => State.onPort_keeps h c fun p => by
    dsimp only
    split <;> simp [h]
theorem execMsgArrive_keeps (h : k.Keeps False s.kept) (msg : MsgIn) : k.KeepsRes (execMsgArrive msg s) := by
  unfold execMsgArrive
  dsimp only
  refine Kept.keepsRes_ite (by simp) (Kept.keepsRes_ite (by simp [h]) (Kept.keepsRes_ite (by simp [h]) ?_))
  split <;> simp [h]
theorem execNop_keeps (h : k.Keeps False s.kept) (x : Nat) : k.KeepsRes (execNop x s) :=
  State.runCmd_keeps h _ _ _ fun c => by simp [h]
theorem execOuvzuInvalidOpcode_keeps (h : k.Keeps False s.kept) (x : Nat) : k.KeepsRes (execOuvzuInvalidOpcode x s) := by
  unfold execOuvzuInvalidOpcode
  split <;> simp [h]
/-- What BAR2 writes. -/
theorem foldl_hbmWr_keeps (l : List (Nat × Nat × Bool)) {r : State × List Byte} (h : k.Keeps full r.1.kept) :
    k.Keeps full (l.foldl (fun (r : State × List Byte) x =>
      (if x.2.2 then r.1.hbmWr x.1 (r.2.take x.2.1) else r.1, r.2.drop x.2.1)) r).1.kept := by
  induction l generalizing r with
  | nil => exact h
  | cons x l ih => exact ih (Kept.keeps_ite (by simp [h]) h)
theorem execBar2Access_keeps (h : k.Keeps False s.kept) (p : PciePort) (off : Nat) (op : Bar2Op) :
    k.KeepsRes (execBar2Access p off op s) := by
  unfold execBar2Access
  dsimp only
  split
  · refine Kept.keepsRes_ite (by simp [h]) ?_
    split <;> simp [h]
  · refine Kept.keepsRes_ite (by simp [h]) ?_
    split
    · simp [h]
    · exact Kept.keepsRes_next.2 (foldl_hbmWr_keeps _ h)
theorem execMoraineExport_keeps (h : k.Keeps False s.kept) (m : Fin 64) (hostOk : Bool) :
    k.KeepsRes (execMoraineExport m hostOk s) := by
  unfold execMoraineExport
  dsimp only
  repeat' split
  all_goals simp [h]
theorem execMoraineImport_keeps (h : k.Keeps False s.kept) (m : Fin 64) (hostOk : Bool) :
    k.KeepsRes (execMoraineImport m hostOk s) := by
  unfold execMoraineImport
  dsimp only
  repeat' split
  all_goals simp [h]
theorem execMoraineRecheck_keeps (h : k.Keeps False s.kept) (m : Fin 64) (hostOk : Bool) :
    k.KeepsRes (execMoraineRecheck m hostOk s) := by
  unfold execMoraineRecheck
  repeat' split
  all_goals simp [h]
theorem execMoraineTimeout_keeps (h : k.Keeps False s.kept) (m : Fin 64) : k.KeepsRes (execMoraineTimeout m s) := by
  unfold execMoraineTimeout
  repeat' split
  all_goals simp [h]
theorem execMoraineImportComplete_keeps (h : k.Keeps False s.kept) (m : Fin 64) :
    k.KeepsRes (execMoraineImportComplete m s) := by
  unfold execMoraineImportComplete
  repeat' split
  all_goals simp [h]

/-! ### Jobs -/

@[simp] theorem State.cancelColls_keeps (h : k.Keeps full s.kept) : k.Keeps full s.cancelColls.kept :=
  foldl_keeps (fun s x => by
    split
    · simp
    · split <;> simp) _ h
@[simp] theorem State.stopUnits_keeps (h : k.Keeps full s.kept) : k.Keeps full s.stopUnits.kept := by
  unfold State.stopUnits
  rw [State.kept_mk _ rfl]
  exact State.cancelColls_keeps (foldl_keeps (fun _ _ => by simp) _ h)
@[simp] theorem State.completeWaits_keeps (h : k.Keeps full s.kept) (e : JobEnd) : k.Keeps full (s.completeWaits e).kept :=
  State.settle_keeps (State.flush_keeps (foldl_keeps (fun _ _ => by simp) _ h))
@[simp] theorem State.endNow_keeps (h : k.Keeps full s.kept) (e : JobEnd) : k.Keeps full (s.endNow e).kept := by
  refine State.completeWaits_keeps ?_ e
  simp [h]
theorem execLaunch_keeps (h : k.Keeps False s.kept) (x : Nat) : k.KeepsRes (execLaunch x s) :=
  State.runCmd_keeps h _ _ _ fun c => by
    have hl : k.Keeps False (s.setLock true).kept := by simp [h]
    refine Kept.keeps_ite (by simp [h]) (Kept.keeps_ite (by simp [h]) (Kept.keeps_ite (by simp [h])
      (Kept.keeps_ite (by simp [h]) ?_)))
    dsimp only
    generalize (s.setLock true) = u at hl ⊢
    repeat' split
    all_goals simp [h, hl]
theorem execQuiesce_keeps (h : k.Keeps False s.kept) (x : Nat) : k.KeepsRes (execQuiesce x s) :=
  State.runCmd_keeps h _ _ _ fun c => Kept.keeps_ite (by simp [h]) (by simp [h])
theorem execQuiesceDone_keeps (h : k.Keeps False s.kept) (x : Nat) : k.KeepsRes (execQuiesceDone x s) := by
  unfold execQuiesceDone
  dsimp only
  split
  · refine Kept.keepsRes_ite (Kept.keepsRes_next.2 (State.settle_keeps (State.flush_keeps ?_))) (by simp [h])
    refine foldl_keeps (fun _ _ => by simp) _ (foldl_keeps (fun _ _ => by simp) _ (by simp [h]))
  · simp [h]
theorem execAbortJob_keeps (h : k.Keeps False s.kept) (x : Nat) : k.KeepsRes (execAbortJob x s) :=
  State.runCmd_keeps h _ _ _ fun c => Kept.keeps_ite (by simp [h]) (Kept.keeps_ite (by simp [h]) (by simp [h]))
theorem execAbortJobDone_keeps (h : k.Keeps False s.kept) (x : Nat) : k.KeepsRes (execAbortJobDone x s) := by
  unfold execAbortJobDone
  dsimp only
  split
  · simp [h]
  · exact Kept.keepsRes_ite (Kept.keepsRes_next.2 (State.commitCmd_keeps (Kept.keeps_ite (by simp [h]) h) ..)) (by simp [h])
theorem execJobwait_keeps (h : k.Keeps False s.kept) (x : Nat) : k.KeepsRes (execJobwait x s) :=
  State.runCmd_keeps h _ _ _ fun c => Kept.keeps_ite (by simp [h]) (by simp [h])
theorem execJobEnd_keeps (h : k.Keeps False s.kept) : k.KeepsRes (execJobEnd s) := by
  unfold execJobEnd
  split
  · simp [h]
  · exact Kept.keepsRes_ite (by simp [h]) (Kept.keepsRes_ite (by simp [h]) (by simp [h]))


/-! ### The vector unit -/

@[simp] theorem State.vecWrite_keeps (h : k.Keeps full s.kept) (t : TileId) (g : Option Nat) (o : VecOut) :
    k.Keeps full (s.vecWrite t g o).kept := by
  unfold State.vecWrite
  rw [State.kept_mk _ rfl]
  exact foldl_keeps (fun _ _ => by simp) _ (by simp [h])
theorem State.vecRun_keeps (h : k.Keeps full s.kept) {t : TileId} {o : VecOp} {v : VInstr} {ch : Option VReg} {adv : Nat}
    {u : State × VecOut} (hu : s.vecRun t o v ch adv = .ok u) : k.Keeps full u.1.kept := by
  unfold State.vecRun at hu
  dsimp only at hu
  split at hu <;> cases hu
  exact State.vecWrite_keeps h ..
@[simp] theorem State.vecFault_keeps (h : k.Keeps full s.kept) (t : TileId) (o : VecOp) (bit : Nat) :
    k.Keeps full (s.vecFault t o bit).kept := by
  simp [State.vecFault, h]
@[simp] theorem State.vecStep_keeps (h : k.Keeps full s.kept) (t : TileId) : k.Keeps full (s.vecStep t).kept := by
  have hd := State.drainStores_keeps h t
  unfold State.vecStep
  split
  · exact h
  · refine Kept.keeps_ite h (Kept.keeps_ite hd ?_)
    split
    next => simp [hd]
    next u out hu => simp [State.vecRun_keeps hd hu]
@[simp] theorem State.pushVec_keeps (h : k.Keeps full s.kept) (t : TileId) (v : VInstr) (desc : Option ChainDesc) :
    k.Keeps full (s.pushVec t v desc).kept := by
  simp [State.pushVec, h]
theorem State.vecOp_keeps (h : k.Keeps False s.kept) (t : TileId) (eager : Bool) (op : VOp) : k.KeepsRes (s.vecOp t eager op) :=
  State.issueCop_keeps h t fun _ =>
    Kept.keepsSome_ite (by simp) (Kept.keepsSome_some.2 (Kept.keeps_ite (by simp [h]) (by simp [h])))
theorem execVchain_keeps (h : k.Keeps False s.kept) (t : TileId) : k.KeepsRes (execVchain t s) :=
  State.issueCop_keeps h t fun _ => by
    refine Kept.keepsSome_ite (by simp) ?_
    split <;> simp [h]
theorem State.chainRun_keeps (h : k.Keeps full s.kept) {t : TileId} {o : VecOp} {ch : VReg} {l : List ChainIns} {fl : Flags}
    {bs : List Byte} {u : State × Flags × List Byte} (hu : State.chainRun t o ch l s fl bs = .ok u) :
    k.Keeps full u.1.kept := by
  induction l generalizing s fl bs with
  | nil =>
    cases hu
    exact h
  | cons i l ih =>
    unfold State.chainRun at hu
    split at hu
    · split at hu
      next => cases hu
      next v out hv => exact ih (State.vecRun_keeps h hv) hu
    · exact ih h hu
theorem execChainIteration_keeps (h : k.Keeps False s.kept) (t : TileId) : k.KeepsRes (execChainIteration t s) := by
  have hd := State.drainStores_keeps h t
  unfold execChainIteration
  dsimp only
  split
  · simp [h]
  · split
    · simp [h]
    · refine Kept.keepsRes_ite (by simp [hd]) ?_
      split
      · simp [hd]
      · split
        · simp [hd]
        · split
          next => simp [hd]
          next u hu =>
            have hk := State.chainRun_keeps (by simpa using hd) hu
            simp [hk]


/-! ### Admission -/

/-- Leaving out cells of the pools keeps their form. -/
theorem Kept.Keeps.filterMem {a b : Kept} (h : a.Keeps full b) (p : Cell → Bool) :
    a.Keeps full { b with stored := { b.stored with mem := b.stored.mem.filter p } } :=
  h.trans ⟨fun ⟨hm, hrest⟩ => ⟨Memory.filter_wf hm p, hrest⟩, rfl, fun _ => rfl⟩
@[simp] theorem State.applyRepairs_keeps (h : k.Keeps full s.kept) : k.Keeps full s.applyRepairs.kept := h.filterMem _
@[simp] theorem State.admitPrepare_keeps (h : k.Keeps full s.kept) : k.Keeps full s.admitPrepare.kept :=
  foldl_keeps (fun _ _ => by simp) _ (by simp [h])
@[simp] theorem Img.load_keeps (h : k.Keeps full s.kept) (g : Img) : k.Keeps full (g.load s).kept := by
  unfold Img.load
  dsimp only
  rw [State.kept_mk]
  · exact foldl_keeps (fun _ _ => by simp) _ h
  · rfl
@[simp] theorem State.admitEnd_keeps (h : k.Keeps full s.kept) (c : Cmd) (p : PciePort) (f : Fail) (digest : List Byte)
    (st : BitVec 2) : k.Keeps full (s.admitEnd c p f digest st).kept :=
  State.commitCmd_keeps (State.hostWr_keeps (by simp [h]) ..) ..
@[simp] theorem State.admitRest_keeps (h : k.Keeps full s.kept) (c : Cmd) (p : PciePort) (hostOk : Bool)
    (image : List Byte) : k.Keeps full (s.admitRest c p hostOk image).kept := by
  unfold State.admitRest
  refine Kept.keeps_ite (by simp [h]) ?_
  dsimp only
  split
  · simp [h]
  · split
    · simp [h]
    · exact State.admitEnd_keeps (Img.load_keeps (by simp [h]) _) ..
theorem execAdmitImage_keeps (h : k.Keeps False s.kept) (x : Nat) (hostOk : Bool) : k.KeepsRes (execAdmitImage x hostOk s) := by
  unfold execAdmitImage
  split
  · simp [h]
  · refine Kept.keepsRes_ite ?_ (State.runCmd_keeps h _ _ _ fun c => State.onPort_keeps h c fun p =>
      Kept.keeps_ite (by simp [h]) (Kept.keeps_ite (by simp [State.takeFree, h])
        (Kept.keeps_ite (by simp [h]) (by simp [h]))))
    split
    · exact Kept.keepsRes_ite (by simp [h]) (by simp [h])
    · simp [h]

/-! ### Power and boot -/

theorem execOpEval_keeps (h : k.Keeps False s.kept) (power : BitVec 16) :
    k.KeepsRes (execOpEval power s) := by simp [execOpEval, h]
theorem execOpRaiseDone_keeps (h : k.Keeps False s.kept) : k.KeepsRes (execOpRaiseDone s) := by
  unfold execOpRaiseDone
  split <;> simp [h]
theorem execPowerCapRelease_keeps (h : k.Keeps False s.kept) : k.KeepsRes (execPowerCapRelease s) := by
  unfold execPowerCapRelease
  dsimp only
  split <;> simp [h]
theorem execTrimRaise_keeps (h : k.Keeps False s.kept) (r : Rail) : k.KeepsRes (execTrimRaise r s) := by
  unfold execTrimRaise
  dsimp only
  repeat' split
  all_goals simp [h]
theorem execDroopStretch_keeps (h : k.Keeps False s.kept) (d : StretchDomain) :
    k.KeepsRes (execDroopStretch d s) := by simp [execDroopStretch, h]
theorem execStretchRelease_keeps (h : k.Keeps False s.kept) (d : StretchDomain) :
    k.KeepsRes (execStretchRelease d s) := by simp [execStretchRelease, h]
theorem execDipCapExpire_keeps (h : k.Keeps False s.kept) : k.KeepsRes (execDipCapExpire s) := by
  unfold execDipCapExpire
  repeat' split
  all_goals simp [h]
theorem execPwrbrkDeassert_keeps (h : k.Keeps False s.kept) (w : BrakeWire) : k.KeepsRes (execPwrbrkDeassert w s) := by
  unfold execPwrbrkDeassert
  dsimp only
  repeat' split
  all_goals simp [h]
theorem execPwrbrkDiscrepancy_keeps (h : k.Keeps False s.kept) : k.KeepsRes (execPwrbrkDiscrepancy s) := by
  unfold execPwrbrkDiscrepancy
  dsimp only
  repeat' split
  all_goals simp [h]
theorem execBrakeRelease_keeps (h : k.Keeps False s.kept) : k.KeepsRes (execBrakeRelease s) := by
  unfold execBrakeRelease
  dsimp only
  repeat' split
  all_goals simp [h]
theorem execThermalCapLower_keeps (h : k.Keeps False s.kept) : k.KeepsRes (execThermalCapLower s) := by
  unfold execThermalCapLower
  dsimp only
  split <;> simp [h]
theorem execThermalCapRaise_keeps (h : k.Keeps False s.kept) : k.KeepsRes (execThermalCapRaise s) := by
  unfold execThermalCapRaise
  dsimp only
  split <;> simp [h]
theorem execThermalMaxTimeout_keeps (h : k.Keeps False s.kept) : k.KeepsRes (execThermalMaxTimeout s) := by
  unfold execThermalMaxTimeout
  dsimp only
  repeat' split
  all_goals simp [h]
/-- The dies lose their pools, and nothing else that is stored. -/
@[simp] theorem State.holdDies_keeps (h : k.Keeps False s.kept) (down : Bool) : k.Keeps False (s.holdDies down).kept :=
  h.trans ⟨fun ⟨_, hrest⟩ => ⟨Memory.wf_nil _, hrest⟩, rfl, False.elim⟩
@[simp] theorem State.smcReset_keeps (h : k.Keeps False s.kept) (cause : Nat) : k.Keeps False (s.smcReset cause).kept := by
  refine State.holdDies_keeps (foldl_keeps (fun _ _ => by simp) _ ?_) true
  exact Kept.keeps_ite (by simp [h]) h
theorem execSupplyDip_keeps (h : k.Keeps False s.kept) (millivolts : BitVec 16) :
    k.KeepsRes (execSupplyDip millivolts s) :=
  Kept.keepsRes_ite (by simp [h]) (Kept.keepsRes_next.2 (State.evalOp_keeps (State.keeps_mk
    (foldl_keeps (fun _ _ => by simp) _ h))))
theorem execPwrbrkAssert_keeps (h : k.Keeps False s.kept) (w : BrakeWire) : k.KeepsRes (execPwrbrkAssert w s) :=
  Kept.keepsRes_ite (by simp [h]) (Kept.keepsRes_next.2 (State.evalOp_keeps (State.wiresMoved_keeps (State.keeps_mk h))))
theorem execThermalSample_keeps (h : k.Keeps False s.kept) (temps : Temps) : k.KeepsRes (execThermalSample temps s) := by
  unfold execThermalSample
  refine Kept.keepsRes_ite (by simp) (Kept.keepsRes_next.2 (Kept.keeps_ite ?_ (State.keeps_mk ?_)))
  all_goals exact State.evalOp_keeps (State.keeps_mk h)
theorem execThermtrip_keeps (h : k.Keeps False s.kept) : k.KeepsRes (execThermtrip s) := by
  unfold execThermtrip
  refine Kept.keepsRes_ite (by simp [h]) (Kept.keepsRes_next.2 (State.holdDies_keeps (State.keeps_mk ?_) false))
  simp [h]
@[simp] theorem State.attemptFailed_keeps (h : k.Keeps False s.kept) : k.Keeps False s.attemptFailed.kept := by
  have hs : k.Keeps False (({ s with boot := { s.boot with fails := s.boot.fails + 1 } } : State).smcReset 2).kept :=
    State.smcReset_keeps (State.keeps_mk h) 2
  unfold State.attemptFailed
  dsimp only at hs ⊢
  split
  · rw [State.smcReport_kept]
    exact State.keeps_mk hs
  · exact State.deviceReset_keeps hs _
@[simp] theorem State.stepFailed_keeps (h : k.Keeps False s.kept) (detail : BitVec 16) (lost : List Nat) :
    k.Keeps False (s.stepFailed detail lost).kept := by
  unfold State.stepFailed
  dsimp only
  refine Kept.keeps_ite ?_ (Kept.keeps_ite (Kept.keeps_ite ?_ (Kept.keeps_ite ?_ ?_)) (Kept.keeps_ite ?_ (Kept.keeps_ite h
    (Kept.keeps_ite (State.attemptFailed_keeps (State.bootRec_keeps h ..)) (Kept.keeps_ite ?_ h)))))
  all_goals exact h.stored (by simp)
@[simp] theorem State.onDone_keeps (h : k.Keeps False s.kept) (r : StepResult) : k.Keeps False (s.onDone r).kept := by
  unfold State.onDone
  dsimp only
  split
  case h_7 =>
    exact Kept.keeps_ite (State.keeps_mk (by simp [h])) (by simp [h])
  all_goals simp [h]
@[simp] theorem State.stepDone_keeps (h : k.Keeps False s.kept) (r : StepResult) : k.Keeps False (s.stepDone r).kept := by
  have hs (res : BootRes) (d : BitVec 16) : k.Keeps False ((s.onDone r).bootRec s.boot.step.toNat res d).kept := by simp [h]
  unfold State.stepDone
  exact Kept.keeps_ite (hs ..) (State.nextStep_keeps (hs ..) _)
theorem execBootStepDone_keeps (h : k.Keeps False s.kept) (r : StepResult) : k.KeepsRes (execBootStepDone r s) :=
  Kept.keepsRes_ite (by simp [h]) (Kept.keepsRes_ite (by simp [h]) (by simp [h]))
theorem execBootStepTimeout_keeps (h : k.Keeps False s.kept) (detail : BitVec 16) :
    k.KeepsRes (execBootStepTimeout detail s) := by
  simp [execBootStepTimeout, h]
theorem execResetNAssert_keeps (h : k.Keeps False s.kept) : k.KeepsRes (execResetNAssert s) := by
  have hs : k.Keeps False ({ s with side := { s.side with resetN := false } } : State).kept := by simp [h]
  refine Kept.keepsRes_ite (Kept.keepsRes_ite (Kept.keepsRes_next.2 hs) ?_) (Kept.keepsRes_ite ?_ (Kept.keepsRes_next.2 hs))
  · exact Kept.keepsRes_next.2 (State.nextStep_keeps (State.bootRec_keeps (State.keeps_mk (State.holdDies_keeps hs _)) ..) _)
  · exact Kept.keepsRes_next.2 (State.deviceReset_keeps (State.holdDies_keeps hs _) _)
theorem execResetNRelease_keeps (h : k.Keeps False s.kept) : k.KeepsRes (execResetNRelease s) :=
  Kept.keepsRes_next.2 (Kept.keeps_ite (State.stepDone_keeps (State.keeps_mk h) _) (State.keeps_mk h))
theorem execPowerFault_keeps (h : k.Keeps False s.kept) : k.KeepsRes (execPowerFault s) := by
  have hs : k.Keeps False ((s.smcReport 0x22 0x22 0).smcReset 0x22).kept := State.smcReset_keeps (by simp [h]) _
  unfold execPowerFault
  refine Kept.keepsRes_ite (by simp [h]) (Kept.keepsRes_ite (Kept.keepsRes_next.2 (State.keeps_mk hs)) ?_)
  exact Kept.keepsRes_next.2 (State.deviceReset_keeps (State.keeps_mk hs) 3)
/-- The NOR's bytes are written. -/
theorem Kept.Keeps.writeNor {a b : Kept} (h : a.Keeps False b) (addr : Nat) (bs : List Byte) :
    a.Keeps False { b with stored := { b.stored with nor := Memory.writeBytes 0xFF b.stored.nor addr bs } } :=
  h.trans ⟨fun ⟨hm, ha, hb, hn⟩ => ⟨hm, ha, hb, Memory.writeBytes_wf hn addr bs⟩, rfl, False.elim⟩
@[simp] theorem State.cutNorOp_keeps (h : k.Keeps False s.kept) : k.Keeps False s.cutNorOp.kept := by
  unfold State.cutNorOp
  split
  · exact h
  · exact h.writeNor ..
theorem execAonReset_keeps (h : k.Keeps False s.kept) : k.KeepsRes (execAonReset s) :=
  Kept.keepsRes_next.2 ((State.cutNorOp_keeps h).trans ⟨fun ⟨_, hrest⟩ => ⟨Memory.wf_nil _, hrest⟩, rfl, False.elim⟩)
theorem execAonPwrgdRise_keeps (h : k.Keeps False s.kept) : k.KeepsRes (execAonPwrgdRise s) := by
  unfold execAonPwrgdRise
  split <;> simp [h]
theorem execPtimeJournal_keeps (h : k.Keeps False s.kept) : k.KeepsRes (execPtimeJournal s) := by
  unfold execPtimeJournal
  split <;> simp [h]
theorem execPerstRise_keeps (h : k.Keeps False s.kept) (p : PciePort) :
    k.KeepsRes (execPerstRise p s) := by simp [execPerstRise, h]

/-! ### Checkpoints -/

theorem execCapture_keeps (h : k.Keeps False s.kept) (x : Nat) : k.KeepsRes (execCapture x s) :=
  State.runCmd_keeps h _ _ _ fun c => by
    dsimp only
    split
    · simp [h]
    · split_ifs
      all_goals simp [h]
theorem execCapturePoint_keeps (h : k.Keeps False s.kept) : k.KeepsRes (execCapturePoint s) := by
  unfold execCapturePoint
  dsimp only
  repeat' split
  all_goals simp [h]
@[simp] theorem State.stopDma_keeps (h : k.Keeps full s.kept) (n : Nat) (t : TileId) :
    k.Keeps full (State.stopDma n s t).kept := by
  unfold State.stopDma
  dsimp only
  split
  · exact Kept.keeps_ite ((State.modTile_kept ..).symm ▸ State.dmaRun_keeps h ..) h
  · exact h
theorem execCaptureDrainEnd_keeps (h : k.Keeps False s.kept) (hostOk : Bool) : k.KeepsRes (execCaptureDrainEnd hostOk s) := by
  unfold execCaptureDrainEnd
  split
  · next a im _ _ =>
    have hp : k.Keeps False ((allTiles.foldl (State.stopDma s.takeFree.1) s.takeFree.2).pauseJob a).kept :=
      (State.pauseJob_kept ..).symm ▸ foldl_keeps (fun _ _ => by simp) _ (by simpa [State.takeFree] using h)
    dsimp only
    generalize (allTiles.foldl (State.stopDma s.takeFree.1) s.takeFree.2).pauseJob a = u at hp ⊢
    refine Kept.keepsRes_ite (by simp [h]) (Kept.keepsRes_ite (Kept.keepsRes_next.2 (State.settle_keeps (State.flush_keeps hp)))
      (Kept.keepsRes_ite (Kept.keepsRes_next.2 (State.commitCmd_keeps hp ..)) (Kept.keepsRes_next.2 (State.commitCmd_keeps ?_ ..))))
    rw [State.kept_mk _ rfl]
    split
    · exact State.hostWr_keeps (State.hostWr_keeps (by simpa [State.takeFree] using hp) ..) ..
    · simpa [State.takeFree] using hp
  · simp [h]
@[simp] theorem State.putTensor_keeps (h : k.Keeps full s.kept) (d : TensDecl) (codes scales : List Nat) :
    k.Keeps full (s.putTensor d codes scales).kept := by
  unfold State.putTensor
  dsimp only
  split
  · exact Kept.keeps_ite (by simp [h]) (by simp [h])
  · split <;> simp [h]
@[simp] theorem State.restoreUnits_keeps (h : k.Keeps full s.kept) (im : Image) (u : UnitSnap) :
    k.Keeps full (s.restoreUnits im u).kept :=
  h.trans ⟨fun ⟨hm, hrest⟩ => ⟨Memory.foldl_write_wf _ (Memory.filter_wf hm _), hrest⟩, rfl, fun _ => rfl⟩
@[simp] theorem State.putShard_keeps (h : k.Keeps full s.kept) (im : Image) (tid : Nat) (b : List Byte) :
    k.Keeps full (s.putShard im tid b).kept := by
  unfold State.putShard
  dsimp only
  repeat' split
  all_goals simp [h]
/-- What comes of a bind that goes well. -/
theorem exists_of_bind_ok {ε α β : Type} {x : Except ε α} {f : α → Except ε β} {b : β} (h : (x >>= f) = .ok b) :
    ∃ a, x = .ok a ∧ f a = .ok b := by
  cases x with
  | error e => cases h
  | ok a => exact ⟨a, rfl, h⟩
theorem State.restoreFull_keeps (h : k.Keeps full s.kept) {im : Image} {g : Grant} {m : Manifest} {u : State}
    (hu : s.restoreFull im g m = .ok u) : k.Keeps full u.kept := by
  unfold State.restoreFull at hu
  dsimp only at hu
  split at hu
  · cases hu
  · obtain ⟨ents, -, hu⟩ := exists_of_bind_ok hu
    obtain ⟨got, -, hu⟩ := exists_of_bind_ok hu
    cases hu
    exact foldl_keeps (fun _ _ => by simp) _ h
theorem State.resliceTensor_keeps (h : k.Keeps full s.kept) {im : Image} {g : Grant} {m : Manifest} {d : TensDecl} {u : State}
    (hu : s.resliceTensor im g m d = .ok u) : k.Keeps full u.kept := by
  unfold State.resliceTensor at hu
  dsimp only at hu
  split at hu
  · cases hu
  · split_ifs at hu
    · cases hu
      exact h
    · obtain ⟨r, -, hu⟩ := exists_of_bind_ok hu
      cases hu
      exact State.putTensor_keeps (foldl_keeps (fun _ _ => by simp) _ h) ..
theorem State.restoreReslice_keeps (h : k.Keeps full s.kept) {im : Image} {g : Grant} {m : Manifest} {step : Word} {u : State}
    (hu : s.restoreReslice im g m step = .ok u) : k.Keeps full u.kept := by
  have hfold (l : List TensDecl) {v w : State} (hv : k.Keeps full v.kept)
      (hw : l.foldlM (fun s d => s.resliceTensor im g m d) v = .ok w) : k.Keeps full w.kept := by
    induction l generalizing v with
    | nil =>
      cases hw
      exact hv
    | cons d l ih =>
      obtain ⟨x, hx, hw⟩ := exists_of_bind_ok hw
      exact ih (State.resliceTensor_keeps hv hx) hw
  obtain ⟨w, hw, hu⟩ := exists_of_bind_ok hu
  cases hu
  exact (State.kept_mk w rfl).symm ▸ hfold _ h hw
theorem State.restoreFrom_keeps (h : k.Keeps full s.kept) {im : Image} {g : Grant} {m : Manifest} {u : State}
    (hu : s.restoreFrom im g m = .ok u) : k.Keeps full u.kept := by
  unfold State.restoreFrom at hu
  dsimp only at hu
  split_ifs at hu
  · cases hr : s.restoreFull im g m <;> rw [hr] at hu <;> cases hu
    exact (State.kept_mk _ rfl).symm ▸ State.restoreFull_keeps h hr
  · cases hu
  · cases hr : s.restoreReslice im g m (BitVec.ofNat 64 (leAt m.head 48 8)) <;> rw [hr] at hu <;> cases hu
    exact (State.kept_mk _ rfl).symm ▸ State.restoreReslice_keeps h hr
theorem execRestore_keeps (h : k.Keeps False s.kept) (x : Nat) (hostOk : Bool) : k.KeepsRes (execRestore x hostOk s) :=
  State.runCmd_keeps h _ _ _ fun c => State.onPort_keeps h c fun p => by
    have hn : k.Keeps False s.takeFree.2.kept := by simpa [State.takeFree] using h
    have hf (a : Nat) (bs : List Byte) : k.Keeps False ((s.takeFree.2.hostWr p a bs).commitCmd x 0x30 0 0).kept :=
      State.commitCmd_keeps (State.hostWr_keeps hn ..) ..
    dsimp only
    split
    · simp [h]
    · refine Kept.keeps_ite (by simp [h]) (Kept.keeps_ite (hf ..) ?_)
      split
      · exact hf ..
      · split
        · exact hf ..
        · split
          next => exact hf ..
          next u hu => exact State.commitCmd_keeps (State.restoreFrom_keeps hn hu) ..


/-! ### Lomtirel, the side band and the rest -/

theorem State.lomRun_keeps (h : k.Keeps False s.kept) (m : LomHeader) (opc : Nat) {f : State → State}
    (hf : ∀ u : State, k.Keeps False u.kept → k.Keeps False (f u).kept) : k.KeepsRes (s.lomRun m opc f) := by
  unfold State.lomRun
  dsimp only
  refine Kept.keepsRes_ite (by simp [h]) (Kept.keepsRes_ite (by simp [h]) (Kept.keepsRes_ite (by simp [h])
    (Kept.keepsRes_ite (by simp [h]) (Kept.keepsRes_next.2 (hf _ (by simp [h]))))))
theorem execOuvzuOrder_keeps (h : k.Keeps False s.kept) (m : LomHeader) (cmd : List Byte) :
    k.KeepsRes (execOuvzuOrder m cmd s) :=
  Kept.keepsRes_ite (by simp) (s.lomRun_keeps h m _ fun _ hu => by simp [hu])
theorem execSetPlimit_keeps (h : k.Keeps False s.kept) (m : LomHeader) (w : BitVec 16) : k.KeepsRes (execSetPlimit m w s) :=
  s.lomRun_keeps h m _ fun _ hu => by simp [hu]
theorem execSetTdisc_keeps (h : k.Keeps False s.kept) (m : LomHeader) (us : BitVec 8) : k.KeepsRes (execSetTdisc m us s) :=
  s.lomRun_keeps h m _ fun _ hu => by simp [hu]
theorem execClearWiring_keeps (h : k.Keeps False s.kept) (m : LomHeader) : k.KeepsRes (execClearWiring m s) :=
  s.lomRun_keeps h m _ fun _ hu => Kept.keeps_ite (by simp [hu]) (by simp [hu])
theorem execSetGtcEdge_keeps (h : k.Keeps False s.kept) (m : LomHeader) (v : Word) : k.KeepsRes (execSetGtcEdge m v s) :=
  s.lomRun_keeps h m _ fun _ hu => Kept.keeps_ite (by simp [hu]) (by simp [hu])
theorem execClearDrain_keeps (h : k.Keeps False s.kept) (m : LomHeader) : k.KeepsRes (execClearDrain m s) :=
  s.lomRun_keeps h m _ fun _ hu => by simp [hu]
theorem execResetDevice_keeps (h : k.Keeps False s.kept) (m : LomHeader) (reload : Bool) :
    k.KeepsRes (execResetDevice m reload s) :=
  s.lomRun_keeps h m _ fun _ hu => State.deviceReset_keeps (State.keeps_mk (State.smcReset_keeps (by simp [hu]) 2)) 2
theorem execNorWrite_keeps (h : k.Keeps False s.kept) (m : LomHeader) (off : BitVec 32) (data : List Byte) :
    k.KeepsRes (execNorWrite m off data s) :=
  Kept.keepsRes_ite (by simp) (s.lomRun_keeps h m _ fun _ hu => by split <;> simp [hu])
theorem execNorCommit_keeps (h : k.Keeps False s.kept) (m : LomHeader) (seq : BitVec 32) : k.KeepsRes (execNorCommit m seq s) :=
  s.lomRun_keeps h m _ fun _ hu => by split <;> simp [hu]
theorem execNorOperationComplete_keeps (h : k.Keeps False s.kept) : k.KeepsRes (execNorOperationComplete s) := by
  unfold execNorOperationComplete
  split
  · simp [h]
  · exact Kept.keepsRes_next.2 (h.writeNor ..)
theorem execReadReg_keeps (h : k.Keeps False s.kept) (m : LomHeader) (entry : Word) : k.KeepsRes (execReadReg m entry s) :=
  s.lomRun_keeps h m _ fun _ hu => by
    refine Kept.keeps_ite (by simp [hu]) ?_
    split <;> simp [hu]
theorem execWriteReg_keeps (h : k.Keeps False s.kept) (m : LomHeader) (entry value : Word) :
    k.KeepsRes (execWriteReg m entry value s) :=
  s.lomRun_keeps h m _ fun _ hu => by
    dsimp only
    refine Kept.keeps_ite (by simp [hu]) ?_
    split <;> simp [hu]
theorem execJournalRead_keeps (h : k.Keeps False s.kept) (m : LomHeader) (journal : BitVec 8) (index : BitVec 32)
    (count : BitVec 16) : k.KeepsRes (execJournalRead m journal index count s) :=
  s.lomRun_keeps h m _ fun _ hu => by simp [hu]
theorem execLomIdentify_keeps (h : k.Keeps False s.kept) (m : LomHeader) : k.KeepsRes (execLomIdentify m s) :=
  s.lomRun_keeps h m _ fun _ hu => by simp [hu]
theorem execTelemetrySend_keeps (h : k.Keeps False s.kept) : k.KeepsRes (execTelemetrySend s) := by
  unfold execTelemetrySend
  split <;> simp [h]
theorem execPhasesSend_keeps (h : k.Keeps False s.kept) : k.KeepsRes (execPhasesSend s) := by
  unfold execPhasesSend
  split <;> simp [h]
theorem execLomLinkUp_keeps (h : k.Keeps False s.kept) (l : Fin 2) :
    k.KeepsRes (execLomLinkUp l s) := by simp [execLomLinkUp, h]
theorem execLomLinkDown_keeps (h : k.Keeps False s.kept) (l : Fin 2) :
    k.KeepsRes (execLomLinkDown l s) := by simp [execLomLinkDown, h]
theorem execLomRelay_keeps (h : k.Keeps False s.kept) (pkt : Packet) : k.KeepsRes (execLomRelay pkt s) := by
  unfold execLomRelay
  repeat' split
  all_goals simp [h]
theorem execSpiTargetWrite_keeps (h : k.Keeps False s.kept) (addr : BitVec 16) (words : List (BitVec 32))
    (extra : Nat) : k.KeepsRes (execSpiTargetWrite addr words extra s) := by
  unfold execSpiTargetWrite
  split <;> simp [h]
theorem execSpiTargetRead_keeps (h : k.Keeps False s.kept) (addr : BitVec 16) (count extra : Nat) :
    k.KeepsRes (execSpiTargetRead addr count extra s) := by
  unfold execSpiTargetRead
  split <;> simp [h]
theorem execSpiPartialWord_keeps (h : k.Keeps False s.kept) :
    k.KeepsRes (execSpiPartialWord s) := by simp [execSpiPartialWord, h]
theorem execI3cEntdaa_keeps (h : k.Keeps False s.kept) (addr : BitVec 7) :
    k.KeepsRes (execI3cEntdaa addr s) := by simp [execI3cEntdaa, h]
theorem execI3cSetdasa_keeps (h : k.Keeps False s.kept) (static addr : BitVec 7) :
    k.KeepsRes (execI3cSetdasa static addr s) := by
  unfold execI3cSetdasa
  repeat' split
  all_goals simp [h]
theorem execI3cRstdaa_keeps (h : k.Keeps False s.kept) : k.KeepsRes (execI3cRstdaa s) := by simp [execI3cRstdaa, h]
theorem execI3cGetpid_keeps (h : k.Keeps False s.kept) : k.KeepsRes (execI3cGetpid s) := by simp [execI3cGetpid, h]
theorem execI3cGetbcr_keeps (h : k.Keeps False s.kept) : k.KeepsRes (execI3cGetbcr s) := by simp [execI3cGetbcr, h]
theorem execI3cGetdcr_keeps (h : k.Keeps False s.kept) : k.KeepsRes (execI3cGetdcr s) := by simp [execI3cGetdcr, h]
theorem execI3cGetmwl_keeps (h : k.Keeps False s.kept) : k.KeepsRes (execI3cGetmwl s) := by simp [execI3cGetmwl, h]
theorem execI3cGetmrl_keeps (h : k.Keeps False s.kept) : k.KeepsRes (execI3cGetmrl s) := by simp [execI3cGetmrl, h]
theorem execI3cPrivateWrite_keeps (h : k.Keeps False s.kept) (data : List Byte) :
    k.KeepsRes (execI3cPrivateWrite data s) := by
  unfold execI3cPrivateWrite
  split <;> simp [h]
theorem execI3cPrivateRead_keeps (h : k.Keeps False s.kept) (count : Nat) :
    k.KeepsRes (execI3cPrivateRead count s) := by simp [execI3cPrivateRead, h]
theorem execTapInstructionLoad_keeps (h : k.Keeps False s.kept) (ir : BitVec 8) :
    k.KeepsRes (execTapInstructionLoad ir s) := by simp [execTapInstructionLoad, h]
theorem execRegWrite_keeps (h : k.Keeps False s.kept) (agent : RegAgent) (space : RegSpace) (off : BitVec 24)
    (size : BitVec 2) (value : Word) : k.KeepsRes (execRegWrite agent space off size value s) := by
  unfold execRegWrite
  dsimp only
  split <;> simp [h]
theorem execI3cGetstatus_keeps (h : k.Keeps False s.kept) : k.KeepsRes (execI3cGetstatus s) :=
  Kept.keepsRes_next.2 (State.i3cGet_keeps (by simpa [State.takeFree] using h) _)

end
end Sys2Proof.Machine
end

section
/-!
SUPPORT. What every command, the tick and a step keep.
-/
namespace Sys2Proof.Machine
-- One declaration at a time keeps the compile of the whole text within its memory.
set_option Elab.async false
open Host

section
variable {full : Prop} {k : Kept} {s : State}

/-- Each command by the operation of its family, or by its own lemma above. -/
theorem exec_keeps (h : k.Keeps False s.kept) (c : Instr) : k.KeepsRes (exec c s) := by
  unfold exec
  cases c with
  | saluAdd | saluSub | saluMul | saluAnd | saluOr | saluXor | saluShl | saluShr | saluSra | saluMin | saluMax
  | saluMinu | saluMaxu => exact State.saluOp_keeps h _ _
  | psetEq | psetNe | psetLt | psetGe | psetLtu | psetGeu => exact State.psetOp_keeps h _ _
  | pldEq0 | pldNe0 | pldBit => exact State.pldOp_keeps h _ _
  | amoAdd | amoSwp | amoCas => exact State.amoOp_keeps h _ _
  | vecAdd | vecSub | vecMul | vecFma | vecMax | vecMin | vecAbs | vecNeg | iadd | isub | iand | ior | ixor
  | ishl | ishr | isra | vcmp | mand | mor | mxor | mnot | vtrans | vbcr | vbcc | vperm | vcvt | rcp | vecDiv
  | vecSqrt | rsqrt | exp | exp2 | log | log2 | sin | cos | tanh | lgst | erf | vrsum | vrssq | vtopk | vld
  | vst | vxcvt => exact State.vecOp_keeps h _ _ _
  | dmaCopy | dmaSkew | dmaGather | dmaScatter | dmaAccout | dmaAccin => exact State.dmaOp_keeps h _ _ _
  | seracFeed | seracChol | seracLdlt | seracSolve | seracInv | seracRoot | seracSqrt | seracBatch => exact State.serStart_keeps h _ _ _
  | ld => exact execLd_keeps h _
  | st => exact execSt_keeps h _ _
  | br => exact execBr_keeps h _
  | jal => exact execJal_keeps h _
  | jr => exact execJr_keeps h _
  | seqEnd => exact execSeqEnd_keeps h _
  | fenceSc => exact execFenceSc_keeps h _
  | fenceCo => exact execFenceCo_keeps h _
  | waitslot => exact execWaitslot_keeps h _
  | waitslotRelease => exact execWaitslotRelease_keeps h _
  | phase => exact execPhase_keeps h _
  | illegalInstr => exact execIllegalInstr_keeps h _
  | loadReturn => exact execLoadReturn_keeps h _ _
  | tagCommit => exact execTagCommit_keeps h _
  | tagSquash => exact execTagSquash_keeps h _
  | mpass => exact execMpass_keeps h _
  | passStart => exact execPassStart_keeps h _
  | passComplete => exact execPassComplete_keeps h _ _
  | epi => exact execEpi_keeps h _
  | epiStart => exact execEpiStart_keeps h _
  | epiRow => exact execEpiRow_keeps h _ _
  | rcfg => exact execRcfg_keeps h _
  | rbind => exact execRbind_keeps h _
  | rdrain => exact execRdrain_keeps h _
  | gramRow => exact execGramRow_keeps h _
  | rimeDrainRead => exact execRimeDrainRead_keeps h _ _
  | rimeDrainDone => exact execRimeDrainDone_keeps h _ _
  | vchain => exact execVchain_keeps h _
  | chainIteration => exact execChainIteration_keeps h _
  | dmaComplete => exact Kept.keepsRes_next.2 (State.dmaStep_keeps h ..)
  | hbmRefresh => exact execHbmRefresh_keeps h _ _
  | patrolScrub => exact execPatrolScrub_keeps h _ _ _
  | seracDeadline => exact execSeracDeadline_keeps h _ _
  | exportSwitch => exact execExportSwitch_keeps h _
  | seracEngineFault => exact execSeracEngineFault_keeps h _ _
  | frameData => exact execFrameData_keeps h _ _
  | frameIdle => exact execFrameIdle_keeps h _ _
  | frameTime => exact execFrameTime_keeps h _ _ _ _
  | frameDown => exact execFrameDown_keeps h _ _
  | replayReq => exact execReplayReq_keeps h _ _ _
  | laneFault => exact execLaneFault_keeps h _ _ _
  | swap => exact execSwap_keeps h _ _ _ _ _
  | width => exact execWidth_keeps h _ _ _ _ _
  | retrainReq => exact execRetrainReq_keeps h _ _ _ _
  | alignDone => exact execAlignDone_keeps h _ _
  | credit => exact execCredit_keeps h _ _ _
  | laneFaultDetect => exact execLaneFaultDetect_keeps h _ _
  | spareAlignTimeout => exact execSpareAlignTimeout_keeps h _ _
  | replayTimeout => exact execReplayTimeout_keeps h _
  | partnerLoss => exact execPartnerLoss_keeps h _ _
  | linkDetect => exact execLinkDetect_keeps h _
  | linkPollEnd => exact execLinkPollEnd_keeps h _ _
  | linkEqualizeEnd => exact execLinkEqualizeEnd_keeps h _ _
  | linkAlignEnd => exact execLinkAlignEnd_keeps h _ _
  | linkConfigEnd => exact execLinkConfigEnd_keeps h _ _
  | linkLostRetry => exact execLinkLostRetry_keeps h _
  | noPartner => exact execNoPartner_keeps h _
  | linkRetrain => exact execLinkRetrain_keeps h _
  | linkDisable => exact execLinkDisable_keeps h _ _
  | lanePrbsDone => exact execLanePrbsDone_keeps h _ _ _
  | timeFrameSend => exact execTimeFrameSend_keeps h _
  | routerForward => exact execRouterForward_keeps h _ _ _
  | multicastInject => exact execMulticastInject_keeps h _ _
  | unschedInject => exact execUnschedInject_keeps h _ _
  | throttleRelease => exact execThrottleRelease_keeps h _
  | mgmtBudgetWindow => exact execMgmtBudgetWindow_keeps h _
  | portArbitrate => exact execPortArbitrate_keeps h _
  | collStart => exact execCollStart_keeps h _
  | collData => exact execCollData_keeps h _ _ _
  | collDigest => exact execCollDigest_keeps h _ _ _
  | collAccept => exact execCollAccept_keeps h _ _ _
  | collRetxReq => exact execCollRetxReq_keeps h _ _ _
  | collAbort => exact execCollAbort_keeps h _ _ _
  | collStall => exact execCollStall_keeps h _
  | moraineExport => exact execMoraineExport_keeps h _ _
  | moraineImport => exact execMoraineImport_keeps h _ _
  | moraineRecheck => exact execMoraineRecheck_keeps h _ _
  | moraineTimeout => exact execMoraineTimeout_keeps h _
  | tickSyncOutPulse => exact execTickSyncOutPulse_keeps h
  | tickSyncInEdge => exact execTickSyncInEdge_keeps h
  | launchBoundary => exact execLaunchBoundary_keeps h
  | lockstepSend => exact execLockstepSend_keeps h
  | lockstepReceive => exact execLockstepReceive_keeps h _ _
  | lockstepSkew => exact execLockstepSkew_keeps h
  | testWindowStart => exact execTestWindowStart_keeps h
  | testWindowEnd => exact execTestWindowEnd_keeps h
  | selftestInjob => exact execSelftestInjob_keeps h _
  | selftestFull => exact Kept.keepsRes_next.2 (Kept.keeps_ite (State.fullTest_keeps h _) h)
  | probationExpire => exact execProbationExpire_keeps h
  | wdRecord => exact execWdRecord_keeps h
  | wdCompare => exact execWdCompare_keeps h
  | capturePoint => exact execCapturePoint_keeps h
  | captureDrainEnd => exact execCaptureDrainEnd_keeps h _
  | identify => exact execIdentify_keeps h _ _
  | createQp => exact execCreateQp_keeps h _
  | deleteQp => exact execDeleteQp_keeps h _
  | deleteQpDone => exact execDeleteQpDone_keeps h _
  | setarb => exact execSetarb_keeps h _
  | grantHost => exact execGrantHost_keeps h _
  | revokeHost => exact execRevokeHost_keeps h _
  | enableFn => exact execEnableFn_keeps h _
  | disableFn => exact execDisableFn_keeps h _
  | abortCmd => exact execAbortCmd_keeps h _
  | admitImage => exact execAdmitImage_keeps h _ _
  | launch => exact execLaunch_keeps h _
  | quiesce => exact execQuiesce_keeps h _
  | quiesceDone => exact execQuiesceDone_keeps h _
  | abortJob => exact execAbortJob_keeps h _
  | abortJobDone => exact execAbortJobDone_keeps h _
  | capture => exact execCapture_keeps h _
  | restore => exact execRestore_keeps h _ _
  | jobwait => exact execJobwait_keeps h _
  | jobEnd => exact execJobEnd_keeps h
  | regread => exact execRegread_keeps h _ _
  | pivsearch => exact execPivsearch_keeps h _
  | msgsend => exact execMsgsend_keeps h _ _
  | msgrecv => exact execMsgrecv_keeps h _
  | msgArrive => exact execMsgArrive_keeps h _
  | nop => exact execNop_keeps h _
  | ouvzuInvalidOpcode => exact execOuvzuInvalidOpcode_keeps h _
  | sqTailDoorbell => exact execSqTailDoorbell_keeps h _ _ _
  | cqHeadDoorbell => exact execCqHeadDoorbell_keeps h _ _ _
  | ouvzuEnSet => exact execOuvzuEnSet_keeps h _
  | ouvzuEnClear => exact execOuvzuEnClear_keeps h _
  | mboxGo => exact execMboxGo_keeps h _
  | ingressWindowClose => exact execIngressWindowClose_keeps h
  | arbiterRound => exact execArbiterRound_keeps h
  | cqCoalesceTimeout => exact execCqCoalesceTimeout_keeps h _
  | functionLevelReset => exact execFunctionLevelReset_keeps h _
  | pcieLinkDown => exact execPcieLinkDown_keeps h _ _
  | perstRise => exact execPerstRise_keeps h _
  | bar2Access => exact execBar2Access_keeps h _ _ _
  | regWrite => exact execRegWrite_keeps h _ _ _ _ _
  | ouvzuOrder => exact execOuvzuOrder_keeps h _ _
  | setPlimit => exact execSetPlimit_keeps h _ _
  | setTdisc => exact execSetTdisc_keeps h _ _
  | clearWiring => exact execClearWiring_keeps h _
  | setGtcEdge => exact execSetGtcEdge_keeps h _ _
  | clearDrain => exact execClearDrain_keeps h _
  | resetDevice => exact execResetDevice_keeps h _ _
  | norWrite => exact execNorWrite_keeps h _ _ _
  | norCommit => exact execNorCommit_keeps h _ _
  | readReg => exact execReadReg_keeps h _ _
  | writeReg => exact execWriteReg_keeps h _ _ _
  | journalRead => exact execJournalRead_keeps h _ _ _ _
  | lomIdentify => exact execLomIdentify_keeps h _
  | telemetrySend => exact execTelemetrySend_keeps h
  | phasesSend => exact execPhasesSend_keeps h
  | lomLinkUp => exact execLomLinkUp_keeps h _
  | lomRelay => exact execLomRelay_keeps h _
  | spiTargetWrite => exact execSpiTargetWrite_keeps h _ _ _
  | spiTargetRead => exact execSpiTargetRead_keeps h _ _ _
  | spiPartialWord => exact execSpiPartialWord_keeps h
  | i3cEntdaa => exact execI3cEntdaa_keeps h _
  | i3cSetdasa => exact execI3cSetdasa_keeps h _ _
  | i3cRstdaa => exact execI3cRstdaa_keeps h
  | i3cGetpid => exact execI3cGetpid_keeps h
  | i3cGetbcr => exact execI3cGetbcr_keeps h
  | i3cGetdcr => exact execI3cGetdcr_keeps h
  | i3cGetstatus => exact execI3cGetstatus_keeps h
  | i3cGetmwl => exact execI3cGetmwl_keeps h
  | i3cGetmrl => exact execI3cGetmrl_keeps h
  | i3cPrivateWrite => exact execI3cPrivateWrite_keeps h _
  | i3cPrivateRead => exact execI3cPrivateRead_keeps h _
  | opEval => exact execOpEval_keeps h _
  | opRaiseDone => exact execOpRaiseDone_keeps h
  | powerCapRelease => exact execPowerCapRelease_keeps h
  | trimRaise => exact execTrimRaise_keeps h _
  | droopStretch => exact execDroopStretch_keeps h _
  | stretchRelease => exact execStretchRelease_keeps h _
  | supplyDip => exact execSupplyDip_keeps h _
  | dipCapExpire => exact execDipCapExpire_keeps h
  | powerFault => exact execPowerFault_keeps h
  | pwrbrkAssert => exact execPwrbrkAssert_keeps h _
  | pwrbrkDeassert => exact execPwrbrkDeassert_keeps h _
  | pwrbrkDiscrepancy => exact execPwrbrkDiscrepancy_keeps h
  | brakeRelease => exact execBrakeRelease_keeps h
  | thermalSample => exact execThermalSample_keeps h _
  | thermalCapLower => exact execThermalCapLower_keeps h
  | thermalCapRaise => exact execThermalCapRaise_keeps h
  | thermalMaxTimeout => exact execThermalMaxTimeout_keeps h
  | thermtrip => exact execThermtrip_keeps h
  | aonReset => exact execAonReset_keeps h
  | resetNAssert => exact execResetNAssert_keeps h
  | resetNRelease => exact execResetNRelease_keeps h
  | bootStepDone => exact execBootStepDone_keeps h _
  | bootStepTimeout => exact execBootStepTimeout_keeps h _
  | ptimeJournal => exact execPtimeJournal_keeps h
  | aonPwrgdRise => exact execAonPwrgdRise_keeps h
  | frameAlignmentFound => exact execFrameAlignmentFound_keeps h _
  | lomLinkDown => exact execLomLinkDown_keeps h _
  | seracCommandComplete => exact execSeracCommandComplete_keeps h _ _
  | vectorInstrComplete => exact Kept.keepsRes_next.2 (State.vecStep_keeps h _)
  | moraineImportComplete => exact execMoraineImportComplete_keeps h _
  | norOperationComplete => exact execNorOperationComplete_keeps h
  | tapInstructionLoad => exact execTapInstructionLoad_keeps h _

/-- A tick keeps the memories' form, writing the pools through the store queues alone. -/
theorem State.tick_keeps (h : k.Keeps False s.kept) : k.Keeps False s.tick.kept := by
  unfold State.tick
  refine Kept.keeps_ite h (foldl_keeps (fun u i => ?_) _ ?_)
  · split <;> simp
  · rw [State.stepOn_kept]
    exact State.keeps_mk h
end

/-- So every step keeps the memories' form and the fuses. -/
theorem step_keeps {s t : State} (h : step s = .next t) : s.kept.Keeps False t.kept := by
  unfold step at h
  split at h
  next =>
    cases h
    exact State.tick_keeps (.refl ..)
  next c rest hp => exact (exec_keeps (k := s.kept) (s := { s with pending := rest }) ⟨id, rfl, False.elim⟩ c) t h

/-- The fused fields of the identity record come from the fuses. -/
theorem State.identity_take {s t : State} (h : t.fuses = s.fuses) : t.identity.take 20 = s.identity.take 20 := by
  simp [State.identity, h, List.take_append]

/-- Settles O58: every command keeps each memory's form, writing it only through the writers of `Memory`, and no command
writes a fuse. -/
theorem stepsKeepMemoriesAndIdentity : Obligations.StepsKeepMemoriesAndIdentity := by
  unfold Obligations.StepsKeepMemoriesAndIdentity
  exact ⟨fun s t hwf h => (step_keeps h).wf hwf, fun s t h => ⟨(step_keeps h).fuses, State.identity_take (step_keeps h).fuses⟩⟩

/-! ### A step -/

/-- What the store queues leave: all but the pools. -/
def Kept.noMem (k : Kept) : Kept := { k with stored := { k.stored with mem := [] } }

@[simp] theorem State.wr_noMem (s : State) (a : Nat) (bs : List Byte) : (s.wr a bs).kept.noMem = s.kept.noMem := by
  unfold State.wr
  dsimp only
  split <;> rfl
theorem State.performStore_noMem (s : State) (t : TileId) (e : SbEntry) :
    (s.performStore t e).kept.noMem = s.kept.noMem := by
  unfold State.performStore
  dsimp only
  split
  · split <;> simp
  · simp
theorem State.drainUpTo_noMem (t : TileId) (n : Nat) (s : State) : (State.drainUpTo t n s).kept.noMem = s.kept.noMem := by
  induction n generalizing s with
  | zero => rfl
  | succ n ih =>
    unfold State.drainUpTo
    split
    · rfl
    · split
      · exact (ih _).trans (State.performStore_noMem ..)
      · rfl
theorem foldl_drainStores_noMem (l : List Nat) (s : State) :
    (l.foldl (fun (s : State) i => if h : i < 64 then s.drainStores ⟨i, h⟩ else s) s).kept.noMem = s.kept.noMem := by
  induction l generalizing s with
  | nil => rfl
  | cons i l ih =>
    refine (ih _).trans ?_
    dsimp only
    split
    · exact State.drainUpTo_noMem ..
    · rfl

/-- A tick of a chip with power moves the count and TICK_SYNC_OUT; what it writes beside goes to the pools. -/
theorem State.tick_noMem {s : State} (hup : s.side.aonPwrgd = true) : s.tick.kept.noMem = { s.kept.noMem with
    side := { s.side with tickOut := s.side.tickOut && decide ((s.gtc.count.toNat + 1) % syncPeriod < 100) }
    count := s.gtc.tick.count } := by
  unfold State.tick
  rw [if_neg (by simp [hup])]
  refine (foldl_drainStores_noMem ..).trans ?_
  rw [State.stepOn_kept]
  rfl
theorem State.tick_eq_self {s : State} (hdown : s.side.aonPwrgd = false) : s.tick = s := by
  unfold State.tick
  rw [if_pos (by simp [hdown])]

/-- A GTC that slews nothing counts on (R428). -/
theorem Gtc.tick_count {g : Gtc} (hslew : g.slew = 0) : g.tick.count = g.count + 1 := by
  have hv : g.tick.count = BitVec.ofNat 64 ((16 * g.count.toNat + g.frac.toNat + 16) / 16) := by
    unfold Gtc.tick
    rw [if_pos hslew]
    rfl
  have hfrac := g.frac.isLt
  rw [hv, show (16 * g.count.toNat + g.frac.toNat + 16) / 16 = g.count.toNat + 1 by omega]
  simp [BitVec.ofNat_add]

/-- Settles O56: a step with a command at the front is `exec` by definition, and one without is the tick, whose writes of
memory are those of the store queues. -/
theorem stepRunsTheFrontCommand : Obligations.StepRunsTheFrontCommand := by
  unfold Obligations.StepRunsTheFrontCommand
  refine ⟨fun s c rest => rfl, fun s hp => ⟨s.tick, by rw [step, hp], State.tick_eq_self, ?_⟩⟩
  cases hup : s.side.aonPwrgd with
  | false =>
    rw [State.tick_eq_self hup]
    exact ⟨nofun, hp, rfl, rfl, rfl, rfl⟩
  | true =>
    have hk := State.tick_noMem hup
    have hrest {α : Type} (f : Kept → α) := congrArg f hk
    exact ⟨fun _ hslew _ => (hrest Kept.count).trans (Gtc.tick_count hslew), (hrest Kept.pending).trans hp,
      hrest (·.stored.fuses), hrest (·.stored.nor), hrest (·.stored.hostA), hrest (·.stored.hostB)⟩

end Sys2Proof.Machine
end


section
/-!
SUPPORT. What the one fetched command of a queue pair does when R488, R490 or R510 refuses it; and the obligation about
the records of NOPs and refused commands.
-/
namespace Sys2Proof.Machine
-- One declaration at a time keeps the compile of the whole text within its memory.
set_option Elab.async false
open Host

section
variable {s : State} {c : Cmd} {q : QPair} {opc : Nat}

theorem State.holds.sole (h : s.holds c q opc) : s.Sole c q := by
  obtain ⟨hcmds, hstage, hab, hsqid, hlt, hq, hport, hclosing, -⟩ := h
  exact ⟨hcmds, by simp [Cmd.status, hstage], hab, hsqid, hlt, hq, hport, hclosing⟩

/-- The one fetched command may start, whatever its opcode. -/
theorem State.mayRun_of_holds (h : s.holds c q opc) : s.mayRun c = true := by
  obtain ⟨hcmds, hstage, -⟩ := h
  by_cases hopc : c.opc = 0x09
  · simp [State.mayRun, hcmds, hstage, hopc, actsAtOnce]
  · exact State.mayRun_of_sequenced hcmds hstage hopc

/-- Only the two admin queue pairs are admin queues. -/
theorem State.holds.admin (h : s.holds c q opc) : c.admin = decide (q.id < 2) := by
  have hlt := h.sole.lt
  have hfar : ¬ 0xFFFD ≤ q.id := by omega
  simp [Cmd.admin, h.sole.sqid, hfar]

theorem State.runCmd_invalid (h : s.holds c q opc) (hadmin : isAdmin opc = true → q.id < 2) (hres : c.reservedOk = false)
    (ok : Cmd → Bool) (f : State → Cmd → State) :
    s.runCmd c.handle opc ok f = .next (s.commitCmd c.handle 0x11 0 0) := by
  have hadm : (isAdmin opc && !c.admin) = false := by
    cases hi : isAdmin opc
    · rfl
    · simp [h.admin, hadmin hi]
  obtain ⟨hcmds, -, -, -, -, -, -, -, hopc⟩ := id h
  simp [State.runCmd, State.cmd_handle hcmds, hopc, State.mayRun_of_holds h, hadm, hres]

theorem State.runCmd_noAccess (h : s.holds c q opc) (hadmin : isAdmin opc = true) (hid : 2 ≤ q.id)
    (ok : Cmd → Bool) (f : State → Cmd → State) :
    s.runCmd c.handle opc ok f = .next (s.commitCmd c.handle 0x12 0 0) := by
  have hadm : c.admin = false := by simp [h.admin]; omega
  obtain ⟨hcmds, -, -, -, -, -, -, -, hopc⟩ := id h
  simp [State.runCmd, State.cmd_handle hcmds, hopc, State.mayRun_of_holds h, hadmin, hadm]

/-- An ADMIT not yet executing is started as any other command is. -/
theorem execAdmitImage_invalid (h : s.holds c q 0x10) (hres : c.reservedOk = false) (hostOk : Bool) :
    exec (.admitImage c.handle hostOk) s = .next (s.commitCmd c.handle 0x11 0 0) := by
  have hrun := State.runCmd_invalid h (fun hi => absurd hi (by decide)) hres
  obtain ⟨hcmds, hstage, -⟩ := h
  have hadmitting : c.admitting = false := by simp [Cmd.admitting, hstage]
  change execAdmitImage c.handle hostOk s = _
  rw [execAdmitImage, State.cmd_handle hcmds]
  simp only [hadmitting, Bool.false_eq_true, if_false]
  exact hrun ..

theorem execOuvzuInvalidOpcode_takes (h : s.takes c q opc) (hopc : knownOpc opc = false) :
    exec (.ouvzuInvalidOpcode c.handle) s = .next (s.commitCmd c.handle 0x10 0 0) := by
  obtain ⟨hcmds, -, -, -, -, -, -, -, rfl⟩ := id h.1
  change execOuvzuInvalidOpcode c.handle s = _
  simp [execOuvzuInvalidOpcode, State.cmd_handle hcmds, hopc, State.mayRun_of_holds h.1]

/-- A commit with no results leaves its record and nothing else. -/
theorem State.commitCmd_only (h : s.Sole c q) {status : Nat} (hstatus : status < 2 ^ 16) {i : Instr}
    (hexec : exec i s = .next (s.commitCmd c.handle status 0 0)) :
    ∃ u, exec i s = .next u ∧ s.records u c q status 0 0 ∧ s.onlyRecord u q ∧
      u = { s with ouvzu := u.ouvzu, hostA := u.hostA, hostB := u.hostB } :=
  ⟨_, hexec, State.commitCmd_records h hstatus 0 0, State.commitCmd_onlyRecord h status 0 0,
    (State.commitCmd_frame h status 0 0).1⟩

end

/-- Settles O34: each command ends in one commit, with the status its first failing check has. -/
theorem commandsCompleteWithTheirRecords : Obligations.CommandsCompleteWithTheirRecords := by
  unfold Obligations.CommandsCompleteWithTheirRecords
  intro s c q only handle
  have invalid {opc : Nat} (h : s.holds c q opc) (hadmin : isAdmin opc = true → q.id < 2) (hres : c.reservedOk = false)
      {i : Instr} (hi : ∃ ok f, exec i s = s.runCmd c.handle opc ok f) : only i 0x11 := by
    obtain ⟨ok, f, hi⟩ := hi
    exact State.commitCmd_only h.sole (by norm_num) (hi.trans (State.runCmd_invalid h hadmin hres ok f))
  have access {opc : Nat} (h : s.holds c q opc) (hadmin : isAdmin opc = true) (hid : 2 ≤ q.id)
      {i : Instr} (hi : ∃ ok f, exec i s = s.runCmd c.handle opc ok f) : only i 0x12 := by
    obtain ⟨ok, f, hi⟩ := hi
    exact State.commitCmd_only h.sole (by norm_num) (hi.trans (State.runCmd_noAccess h hadmin hid ok f))
  refine ⟨fun h => ?nop, fun opc hopc h => ?unknown, ?reserved, ?admin⟩
  case nop =>
    have hrun := State.runCmd_takes h (by decide) (ok := fun _ => true) rfl fun s _ => s.commitCmd c.handle 0 0 0
    exact State.commitCmd_only h.sole (by norm_num) hrun
  case unknown => exact State.commitCmd_only h.sole (by norm_num) (execOuvzuInvalidOpcode_takes h hopc)
  case reserved =>
    simp only [List.forall_mem_cons]
    refine ⟨?_, ?_, ?_, ?_, ?_, ?_, ?_, ?_, ?_, ?_, ?_, ?_, ?_,
      fun h hres => State.commitCmd_only h.sole (by norm_num) (execAdmitImage_invalid h hres true),
      List.forall_mem_nil _⟩ <;> exact fun h hres => invalid h (fun hi => absurd hi (by decide)) hres ⟨_, _, by rfl⟩
  case admin =>
    simp only [List.forall_mem_cons]
    refine ⟨?_, ?_, ?_, ?_, ?_, ?_, ?_, List.forall_mem_nil _⟩ <;>
      exact fun h => ⟨fun hid => access h (by decide) hid ⟨_, _, by rfl⟩, fun hid hres => invalid h (fun _ => hid) hres ⟨_, _, by rfl⟩⟩

end Sys2Proof.Machine
end


section
/-!
SUPPORT. Doorbells (R485), EN and the admin pair (R482), the mailbox (R483) and coalesced interrupts (R487), each by the
case of its model function; and the obligation they settle.
-/
namespace Sys2Proof.Machine
-- One declaration at a time keeps the compile of the whole text within its memory.
set_option Elab.async false
open Host

/-! ### Doorbells -/

/-- Round a ring, the entries from `a` to `b` wrap when `b` lies before `a`. -/
theorem ringDist_of_lt {a b n : Nat} (ha : a < n) (hb : b < n) :
    ringDist a b n = if a ≤ b then b - a else b + n - a := by
  rw [ringDist, Nat.mod_eq_of_lt ha]
  split
  case isTrue h =>
    have hwrap : b + n - a = b - a + n := by omega
    rw [hwrap, Nat.add_mod_right, Nat.mod_eq_of_lt (by omega)]
  case isFalse h => exact Nat.mod_eq_of_lt (by omega)

section
variable {s : State} {p : PciePort} {n : Nat}

theorem State.doorbell_disabled (h : (s.fn p).disabled = true) (f : QPair → Option QPair) : s.doorbell p n f = s := by
  simp [State.doorbell, h]

/-- A doorbell of a port that has no such live queue is ignored and counted. -/
theorem State.doorbell_foreign (hdis : (s.fn p).disabled = false) (hclosing : s.ouvzu.closing = [])
    (h : (s.fn p).en = false ∨ s.queue n = none ∨ ∃ x, s.queue n = some x ∧ x.port ≠ p) (f : QPair → Option QPair) :
    s.doorbell p n f = s.doorbellError := by
  obtain hen | hq | ⟨x, hq, hport⟩ := h
  · simp [State.doorbell, hdis, hclosing, hen]
  · simp [State.doorbell, hdis, hclosing, hq]
  · simp [State.doorbell, hdis, hclosing, hq, hport]

/-- A doorbell of a live queue of the port does what its index allows. -/
theorem State.doorbell_live (hdis : (s.fn p).disabled = false) (hclosing : s.ouvzu.closing = [])
    (hen : (s.fn p).en = true) {x : QPair} (hq : s.queue n = some x) (hport : x.port = p) (f : QPair → Option QPair) :
    s.doorbell p n f = (f x).elim s.doorbellError fun y => s.modQueue n fun _ => y := by
  simp only [State.doorbell, hdis, hclosing, hen, hq, hport, List.any_nil, Bool.or_self, Bool.not_true, bne_self_eq_false,
    Bool.false_eq_true, if_false]
  cases f x <;> rfl

end

theorem QPair.setTail_of_ahead {x : QPair} {v : Nat} (hv : v < x.sqSize)
    (hd : ringDist x.sqHead x.sqTail x.sqSize ≤ ringDist x.sqHead v x.sqSize) :
    x.setTail v = some { x with sqTail := v } := if_pos ⟨hv, hd⟩

theorem QPair.setTail_refused {x : QPair} {v : Nat}
    (h : x.sqSize ≤ v ∨ ringDist x.sqHead v x.sqSize < ringDist x.sqHead x.sqTail x.sqSize) : x.setTail v = none :=
  if_neg fun hok => h.elim (Nat.not_le.2 hok.1) (Nat.not_lt.2 hok.2)

theorem QPair.setHead_of_ahead {x : QPair} {v : Nat} (hv : v < x.cqSize)
    (hd : ringDist x.cqHead v x.cqSize ≤ ringDist x.cqHead x.cqTail x.cqSize) :
    x.setHead v = some { x with cqHead := v } := if_pos ⟨hv, hd⟩

theorem QPair.setHead_refused {x : QPair} {v : Nat}
    (h : x.cqSize ≤ v ∨ ringDist x.cqHead x.cqTail x.cqSize < ringDist x.cqHead v x.cqSize) : x.setHead v = none :=
  if_neg fun hok => h.elim (Nat.not_le.2 hok.1) (Nat.not_lt.2 hok.2)

/-! ### EN and the mailbox -/

section
variable {s : State} {p : PciePort}

/-- The admin pair that a port's registers describe (R482). -/
def State.adminOf (s : State) (p : PciePort) : QPair :=
  let f := s.fn p
  { id := portNo p, port := p, sqBase := f.aqsq.toNat, cqBase := f.aqcq.toNat, sqSize := bits f.aqsize 0 16 + 1
    cqSize := bits f.aqsize 16 16 + 1, cls := 0, ien := true, vector := 0, coalN := 1, coalT := 0, sqHead := 0
    sqTail := 0, cqHead := 0, cqTail := 0, phase := true, since := 0, hold := false }

theorem State.adminPair_created (hrdy : (s.fn p).rdy = false) (hdis : (s.fn p).disabled = false)
    (hsq : (s.fn p).aqsq.toNat % 4096 = 0) (hcq : (s.fn p).aqcq.toNat % 4096 = 0)
    (hsqn : 1 ≤ bits (s.fn p).aqsize 0 16 ∧ bits (s.fn p).aqsize 0 16 < 4096)
    (hcqn : 1 ≤ bits (s.fn p).aqsize 16 16 ∧ bits (s.fn p).aqsize 16 16 < 4096) (hclosing : s.ouvzu.closing = [])
    (hfresh : ∀ x ∈ s.ouvzu.queues, x.id ≠ portNo p) :
    s.adminPair p = { s.modFn p (fun f => { f with rdy := true }) with ouvzu :=
      { (s.modFn p fun f => { f with rdy := true }).ouvzu with queues := s.ouvzu.queues ++ [s.adminOf p] } } := by
  have hkeep : (s.ouvzu.queues.filter fun x => x.id != portNo p) = s.ouvzu.queues :=
    List.filter_eq_self.2 fun x hx => by simpa using hfresh x hx
  have hstopped : s.portStopped p = false := by simp [State.portStopped, hclosing]
  have hsq0 : (bits (s.fn p).aqsize 0 16 == 0) = false := by simp; omega
  have hcq0 : (bits (s.fn p).aqsize 16 16 == 0) = false := by simp; omega
  have hsqm : ¬ 4095 < bits (s.fn p).aqsize 0 16 := by omega
  have hcqm : ¬ 4095 < bits (s.fn p).aqsize 16 16 := by omega
  rw [State.adminPair]
  simp only [hrdy, hdis, hsq, hcq, hsq0, hcq0, hsqm, hcqm, hstopped, bne_self_eq_false, decide_false, Bool.or_self,
    Bool.false_eq_true, if_false]
  rw [State.modFn, hkeep, State.adminOf]

theorem State.adminPair_misaligned (h : (s.fn p).aqsq.toNat % 4096 ≠ 0 ∨ (s.fn p).aqcq.toNat % 4096 ≠ 0) :
    s.adminPair p = s := by
  obtain h | h := h <;> simp [State.adminPair, h]

theorem State.enClear_of_en (hen : (s.fn p).en = true) : ∃ c : Cmd, s.enClear p =
    let t := s.modFn p fun f => { f with en := false, rdy := false }
    { t with ouvzu := { t.ouvzu with cmds := s.ouvzu.cmds ++ [c], nextCmd := s.ouvzu.nextCmd + 1 } } := by
  rw [State.enClear, if_pos hen]
  exact ⟨_, rfl⟩

theorem State.mboxGo_disabled (h : (s.fn p).disabled = true) : s.mboxGo p = s := by simp [State.mboxGo, h]

theorem State.mboxGo_live (hdis : (s.fn p).disabled = false) (hclosing : s.ouvzu.closing = []) :
    s.mboxGo p = if (s.fn p).mbbusy then s.doorbellError else s.modFn p fun f => { f with mbbusy := true } := by
  simp [State.mboxGo, hdis, hclosing]

end

/-! ### Coalesced interrupts -/

theorem State.queue_id {s : State} {n : Nat} {x : QPair} (h : s.queue n = some x) : x.id = n := by
  simpa using List.find?_some h

/-- A queue pair changed in place is found with its change. -/
theorem State.queue_modQueue {s : State} {n : Nat} {f : QPair → QPair} (hf : ∀ x, (f x).id = x.id) :
    (s.modQueue n f).queue n = (s.queue n).map f := by
  unfold State.queue State.modQueue
  dsimp only
  induction s.ouvzu.queues with
  | nil => rfl
  | cons x l ih =>
    by_cases hx : x.id = n
    · simp [hx, hf]
    · simp [hx, ih]

/-- Settles O38: each write by the case of its model function; an index passes nothing exactly when the ring distances
say so. -/
theorem doorbellsEnableAndMailbox : Obligations.DoorbellsEnableAndMailbox := by
  unfold Obligations.DoorbellsEnableAndMailbox
  intro s p f counted
  refine ⟨fun hdis hclosing => ⟨fun n v => ⟨fun h => ⟨?_, ?_⟩, fun x hen hq hport hsh hst hch hct => ?live⟩,
    ?go, ?busy, ?enSet, ?enSetMisaligned, ?enClear, ?enCleared⟩, ?disabled, fun n x hq => ?coalesce⟩
  · exact congrArg _ (State.doorbell_foreign hdis hclosing h _)
  · exact congrArg _ (State.doorbell_foreign hdis hclosing h _)
  case live =>
    intro ahead
    have hdist {a b size : Nat} (ha : a < size) (hb : b < size) : ahead a b size = ringDist a b size :=
      (ringDist_of_lt ha hb).symm
    have htail : exec (.sqTailDoorbell p n v) s = .next _ :=
      congrArg Outcome.next (State.doorbell_live hdis hclosing hen hq hport fun x => x.setTail v.toNat)
    have hhead : exec (.cqHeadDoorbell p n v) s = .next _ :=
      congrArg Outcome.next (State.doorbell_live hdis hclosing hen hq hport fun x => x.setHead v.toNat)
    refine ⟨fun hv hd => ?_, fun h => ?_, fun hv hd => ?_, fun h => ?_⟩
    · rw [hdist hsh hst, hdist hsh hv] at hd
      rw [htail, QPair.setTail_of_ahead hv hd, Option.elim_some]
    · have hno : x.setTail v.toNat = none := QPair.setTail_refused <| (Nat.lt_or_ge v.toNat x.sqSize).elim
        (fun hv => by rwa [hdist hsh hv, hdist hsh hst] at h) .inl
      rw [htail, hno]
      rfl
    · rw [hdist hch hct, hdist hch hv] at hd
      rw [hhead, QPair.setHead_of_ahead hv hd, Option.elim_some]
    · have hno : x.setHead v.toNat = none := QPair.setHead_refused <| (Nat.lt_or_ge v.toNat x.cqSize).elim
        (fun hv => by rwa [hdist hch hct, hdist hch hv] at h) .inl
      rw [hhead, hno]
      rfl
  case go => exact fun hb => congrArg _ ((State.mboxGo_live hdis hclosing).trans (if_neg (by simpa using hb)))
  case busy => exact fun hb => congrArg _ ((State.mboxGo_live hdis hclosing).trans (if_pos hb))
  case enSet =>
    intro hen hrdy hsq hcq hsq1 hsq2 hcq1 hcq2 hfresh
    have hcreated := State.adminPair_created (s := s.modFn p fun f => { f with en := true }) (p := p)
      (by rw [State.fn_modFn]; exact hrdy) (by rw [State.fn_modFn]; exact hdis) (by rw [State.fn_modFn]; exact hsq)
      (by rw [State.fn_modFn]; exact hcq) (by rw [State.fn_modFn, bits_eq_fieldAt]; exact ⟨hsq1, hsq2⟩)
      (by rw [State.fn_modFn, bits_eq_fieldAt]; exact ⟨hcq1, hcq2⟩) hclosing hfresh
    refine ⟨_, _, congrArg Outcome.next hcreated, ?_, rfl, rfl, rfl, ?_, ?_, ?_, ?_, rfl, rfl, rfl, rfl⟩
    · exact (State.fn_modFn _ p fun f => { f with rdy := true }).trans (congrArg (fun f : PciFn => { f with rdy := true }) (s.fn_modFn p _))
    all_goals
      simp only [State.adminOf, State.fn_modFn, bits_eq_fieldAt]
      rfl
  case enSetMisaligned =>
    exact fun hen h => congrArg _ (State.adminPair_misaligned (by simpa only [State.fn_modFn] using h))
  case enClear =>
    intro hen
    obtain ⟨c, hc⟩ := State.enClear_of_en hen
    have hfn : (s.modFn p fun f => { f with en := false, rdy := false }).fn p = { f with en := false, rdy := false } :=
      s.fn_modFn p _
    refine ⟨_, congrArg Outcome.next hc, congrArg PciFn.en hfn, congrArg PciFn.rdy hfn, (congrArg PciFn.disabled hfn).trans hdis, rfl,
      ?_, rfl⟩
    simp
  case enCleared => exact fun hen => congrArg _ (if_neg (by simpa using hen))
  case disabled =>
    exact fun hdis n v => ⟨congrArg _ (State.doorbell_disabled hdis _), congrArg _ (State.doorbell_disabled hdis _),
      congrArg _ (State.mboxGo_disabled hdis)⟩
  case coalesce =>
    have hid := State.queue_id hq
    have hexec : exec (.cqCoalesceTimeout n) s = execCqCoalesceTimeout n s := rfl
    simp only [hexec, execCqCoalesceTimeout, hq]
    refine ⟨fun hien hsince hcoal => ?_, fun h => if_neg fun hc => ?_⟩
    · refine ⟨_, if_pos (by simp [hien, hsince, hcoal]), ?_, State.fn_modFn .., rfl⟩
      have hzero := State.queue_modQueue (s := s) (n := n.toNat) (f := fun x => { x with since := 0 }) fun _ => rfl
      rw [hq] at hzero
      rw [hid]
      exact congrArg _ hzero
    · simp only [Bool.and_eq_true, decide_eq_true_eq, bne_iff_ne] at hc
      obtain ⟨⟨hien, hsince⟩, hcoal⟩ := hc
      simp [hien, hcoal] at h
      omega

end Sys2Proof.Machine
end


section
/-!
SUPPORT. Weight digests: the record of an interval (R513, R515), the comparison of gathered records and the stop of the job
by the SMC (R516, R528, R532); and the obligation they settle.
-/
namespace Sys2Proof.Machine
-- One declaration at a time keeps the compile of the whole text within its memory.
set_option Elab.async false
open Host

section
variable {s : State} {i : IntegDecl}

/-! ### The interval's record -/

theorem State.rd_part (s : State) (a : Nat) {m o n : Nat} (h : o + n ≤ m) :
    ((s.rd a m).drop o).take n = s.rd (a + o) n := by
  rw [s.rd_eq_tab, s.rd_eq_tab, tab_drop_take _ h]
  simp only [Nat.add_assoc]

/-- Bytes of memory are read back from within what was written. -/
theorem State.rd_wr_part (s : State) (a : Nat) {bs : List Byte} {o n : Nat} (h : o + n ≤ bs.length) :
    (s.wr a bs).rd (a + o) n = (bs.drop o).take n := by
  rw [← State.rd_part _ _ h, s.rd_wr]

/-- The last step of the last whole interval. -/
def State.wdStep (s : State) (i : IntegDecl) : Nat := (s.job.step.toNat + 1) / i.interval * i.interval - 1

/-- The 32 bytes of a digest record. -/
def State.wdBlock (s : State) (i : IntegDecl) : List Byte :=
  leBytes 8 (s.wdStep i) ++ leBytes 8 (crc64 (s.wdBytes i (s.wdStep i))).toNat ++
    leBytes 4 s.routers[0].self.toNat ++ List.replicate 12 0

theorem State.wdBlock_length (s : State) (i : IntegDecl) : (s.wdBlock i).length = 32 := by
  simp only [State.wdBlock, List.length_append, leBytes_length, List.length_replicate]

theorem execWdRecord_writes (hi : s.integDecl = some i) (hw : i.interval ≤ s.job.step.toNat + 1)
    (hfresh : ∀ l, s.integ.wdLast = some l → l.1.toNat ≠ s.wdStep i)
    (hall : ∀ id ∈ i.digids, (s.integ.rdigest (s.wdStep i) id).isSome = true) :
    let v := s.hbmWr i.wdaddr (s.wdBlock i)
    exec .wdRecord s = .next { v with integ := { v.integ with
      wdLast := some (BitVec.ofNat 64 (s.wdStep i), crc64 (s.wdBytes i (s.wdStep i)))
      wdLog := v.integ.wdLog.filter fun e => s.wdStep i < e.1.toNat } } := by
  have hpos : 0 < i.interval := by unfold IntegDecl.interval; split <;> omega
  have hn : (s.job.step.toNat + 1) / i.interval * i.interval ≠ 0 :=
    (Nat.mul_pos (Nat.div_pos hw hpos) hpos).ne'
  have hnew : (match s.integ.wdLast with | some l => l.1.toNat != s.wdStep i | none => true) = true := by
    cases hl : s.integ.wdLast with
    | none => rfl
    | some l => simpa using hfresh l hl
  have hdigs : (i.digids.all fun id => (s.integ.rdigest (s.wdStep i) id).isSome) = true := by simpa using hall
  change execWdRecord s = _
  rw [execWdRecord, hi]
  dsimp only
  rw [if_neg hn]
  exact if_pos (Bool.and_eq_true_iff.2 ⟨hnew, hdigs⟩)

/-! ### The comparison -/

/-- The SMC's stop order for an admitted job stands behind the fetched commands, with its cause. -/
theorem State.smcStop_queues (h : s.job.image.isSome = true) {cause : Nat} (hcause : cause < 2 ^ 16) :
    ∃ o : Ouvzu, s.smcStop cause = { s with ouvzu := o } ∧
      ∃ q, o.cmds = s.ouvzu.cmds ++ [q] ∧ q.raw.take 1 = [0x13] ∧ leAt q.raw 8 2 = cause := by
  rw [State.smcStop, if_neg (by simpa using Option.isSome_iff_ne_none.1 h)]
  exact ⟨_, rfl, _, rfl, rfl, leNat_of_eq_leBytes (k := 2) rfl hcause⟩

/-- `v` is `s` after reports, with what awaits a self-test. -/
def State.told (s v : State) : Prop :=
  ∃ routers lom evSeq evreps waiting, v = { s with
    routers := routers, lom := lom
    integ := { s.integ with evSeq := evSeq, evreps := evreps, waiting := waiting } }

theorem State.told_refl (s : State) : s.told s := ⟨_, _, _, _, _, rfl⟩

theorem State.told_report (s : State) (code : BitVec 16) (kind : UnitKind) (ix : Nat) (d0 d1 : Word) :
    s.told (s.report code kind ix d0 d1).1 := by
  obtain ⟨routers, lom, he, -⟩ := s.report_eq code kind ix d0 d1
  exact ⟨_, _, _, _, _, he⟩

theorem State.told.suspect {v : State} (h : s.told v) (e : Event) : s.told (v.suspect e) := by
  obtain ⟨routers, lom, evSeq, evreps, waiting, rfl⟩ := h
  exact ⟨_, _, _, _, _, rfl⟩

theorem State.told_ite {v w : State} {p : Prop} [Decidable p] (hv : s.told v) (hw : s.told w) :
    s.told (if p then v else w) := by
  split
  · exact hv
  · exact hw

/-- The digests gathered from every chip. -/
def State.gathered (s : State) (im : Image) (d : CollDecl) : List Nat :=
  tab (im.topo.pods.length * im.topo.dx) fun k => leNat (s.serRd (d.dst + 32 * k + 8) 8)

theorem majority_isSome (l : List Nat) : (majority l).isSome = true ↔ ∃ v ∈ l, l.length < 2 * l.count v := by
  simp [majority]

section
variable {im : Image} {t own : Word} {ix : Nat} {d : CollDecl} {c : CollInst}
  (himage : s.job.image = some im) (hi : s.integDecl = some i) (hlast : s.integ.wdLast = some (t, own))
  (hgather : im.gatherDecl i = some (ix, d)) (hc : c ∈ s.job.colls) (hix : c.ix = ix) (hended : c.ended = some 0)
  (hstep : c.step = t + 1)
include himage hi hlast hgather hc hix hended hstep

theorem execWdCompare_agrees (hall : ∀ v ∈ s.gathered im d, v = (s.gathered im d).headD 0) :
    exec .wdCompare s = .next (s.setVerdict 1) := by
  have hdone : (s.job.colls.any fun c => c.ix == ix && c.ended == some 0 && c.step == t + 1) = true :=
    List.any_eq_true.2 ⟨c, hc, by simp [hix, hended, hstep]⟩
  have hsame : ((s.gathered im d).all fun v => v == (s.gathered im d).headD 0) = true := by simpa using hall
  rw [State.gathered] at hsame
  change execWdCompare s = _
  simp only [execWdCompare, himage, hi, hlast, hgather, hdone, hsame, Bool.not_true, Bool.false_eq_true, if_false, if_true]

/-- Whatever is reported of a mismatch, the job is stopped. -/
theorem execWdCompare_differs (hdiff : ∃ v ∈ s.gathered im d, v ≠ (s.gathered im d).headD 0) :
    ∃ v, (s.setVerdict (if (majority (s.gathered im d)).isSome then 2 else 3)).told v ∧
      exec .wdCompare s = .next (v.smcStop 0x30) := by
  have hdone : (s.job.colls.any fun c => c.ix == ix && c.ended == some 0 && c.step == t + 1) = true :=
    List.any_eq_true.2 ⟨c, hc, by simp [hix, hended, hstep]⟩
  have hsame : ((s.gathered im d).all fun v => v == (s.gathered im d).headD 0) = false := by simpa using hdiff
  change ∃ v, _ ∧ execWdCompare s = _
  rw [State.gathered] at hsame ⊢
  simp only [execWdCompare, himage, hi, hlast, hgather, hdone, hsame, Bool.not_true, Bool.false_eq_true, if_false]
  cases majority (tab (im.topo.pods.length * im.topo.dx) fun k => leNat (s.serRd (d.dst + 32 * k + 8) 8)) with
  | some m =>
    exact ⟨_, State.told_ite ((State.told_report (s.setVerdict 2) ..).suspect _)
      (State.told_ite (State.told_report ..) (State.told_refl _)), rfl⟩
  | none =>
    exact ⟨_, State.told_ite ((State.told_report (s.setVerdict 3) ..).suspect _) (State.told_report ..), rfl⟩

end
end

/-- Settles O33: the record is one write of 32 bytes; the verdict depends on the gathered digests only, and every mismatch
ends in the SMC's order. -/
theorem weightDigestsAreRecordedAndCompared : Obligations.WeightDigestsAreRecordedAndCompared := by
  unfold Obligations.WeightDigestsAreRecordedAndCompared
  intro s i hi
  refine ⟨fun k => ?record, fun im t own ix d c => ?compare⟩
  case record =>
    intro w t hw hfresh hall ht hloc hue
    have hexec := execWdRecord_writes hi hw hfresh hall
    rw [State.hbmWr_eq_wr hloc (by rwa [State.wdBlock_length])] at hexec
    have hfield {o n v : Nat} (hon : o + n ≤ 32) (hv : v < 2 ^ (8 * n))
        (hpart : ((s.wdBlock i).drop o).take n = leBytes n v) : leNat ((s.wr k (s.wdBlock i)).rd (k + o) n) = v :=
      leNat_of_eq_leBytes ((s.rd_wr_part k (by rwa [State.wdBlock_length])).trans hpart) hv
    refine ⟨_, hexec, hfield (o := 0) (by norm_num) ht rfl, hfield (by norm_num) (BitVec.isLt _) rfl,
      hfield (by norm_num) (s.routers[0].self.isLt.trans (by norm_num)) rfl, fun a ha => ?_, rfl, ?_⟩
    · exact s.read_wr_apart (by rwa [State.wdBlock_length])
    · rw [s.wr_frame]
  case compare =>
    intro wds himage hlast hgather hc hix hended hstep
    refine ⟨execWdCompare_agrees himage hi hlast hgather hc hix hended hstep, fun hdiff => ?_⟩
    obtain ⟨v, htold, hexec⟩ := execWdCompare_differs himage hi hlast hgather hc hix hended hstep hdiff
    have hverdict : (if (majority (s.gathered im d)).isSome then 2 else 3) ≠ (1 : BitVec 2) := by split <;> decide
    generalize hlv : (if (majority (s.gathered im d)).isSome then 2 else 3 : BitVec 2) = lv at htold hverdict
    have hjob : v.job = s.job := by obtain ⟨_, _, _, _, _, rfl⟩ := htold; rfl
    obtain ⟨o, hstop, q, hcmds, hraw, hcause⟩ := State.smcStop_queues (s := v) (cause := 0x30)
      (by rw [hjob, himage, Option.isSome_some]) (by norm_num)
    rw [hstop] at hexec
    obtain ⟨routers, lom, evSeq, evreps, waiting, rfl⟩ := htold
    refine ⟨_, hexec, if_neg hverdict, if_neg hverdict, ?_, rfl, ?_, q, hcmds, hraw, hcause⟩
    · rw [← hlv]
      split
      · exact .inl rfl
      · exact .inr rfl
    · refine Iff.trans ?_ (majority_isSome (s.gathered im d))
      change lv = 2 ↔ _
      rw [← hlv]
      split <;> simp [*]

end Sys2Proof.Machine
end


section
/-!
SUPPORT. The test window (R521), in-job and full self-tests (R519, R520, R522), the drain of a chip that failed twice (R525,
R527) and the end of probation (R525); and the obligation they settle.
-/
namespace Sys2Proof.Machine
-- One declaration at a time keeps the compile of the whole text within its memory.
set_option Elab.async false
open Host

section
variable {s : State} {i : IntegDecl}

/-! ### The test window -/

theorem State.cluster_pauseClusters (s : State) (b : Bool) (c : ClusterId) :
    (s.pauseClusters b).cluster c = { s.cluster c with paused := b } := by
  simp [State.cluster, State.pauseClusters]

theorem execTestWindowStart_begins (hi : s.integDecl = some i) (hrun : s.job.running = true) (hlen : 0 < i.testlen)
    (hon : s.integ.testOn = false) (hfrom : s.observed (s.baseSlot + i.teststart) = true)
    (hto : s.observed (s.baseSlot + i.teststart + i.testlen) = false) : exec .testWindowStart s =
      .next (({ s with integ := { s.integ with testOn := true } } : State).pauseClusters true) := by
  change execTestWindowStart s = _
  simp only [execTestWindowStart, hi, hrun, hlen, hon, hfrom, hto, decide_true, Bool.not_false, Bool.and_self, if_true]

theorem execTestWindowEnd_ends (hi : s.integDecl = some i) (hon : s.integ.testOn = true)
    (hto : s.observed (s.baseSlot + i.teststart + i.testlen) = true) (hcapture : s.ckpt.state.toNat < 2) :
    exec .testWindowEnd s =
      .next (({ s with integ := { s.integ with testOn := false, testRun := false } } : State).pauseClusters false) := by
  have hnone : decide (2 ≤ s.ckpt.state.toNat) = false := by simpa using hcapture
  change execTestWindowEnd s = _
  simp only [execTestWindowEnd, hi, hon, hto, hnone, Bool.and_self, if_true]

/-- An in-job self-test that finds nothing writes its save area, and is counted. -/
theorem execSelftestInjob_clean (hi : s.integDecl = some i) (hrun : s.job.running = true) (hon : s.integ.testOn = true)
    (hfirst : s.integ.testRun = false) (hdue : s.job.step.toNat % s.integ.inttest.toNat = 0) :
    ∃ bs : List Byte, bs.length = 0x400_0000 ∧
      let v := ({ s with free := s.free + 1 } : State).wr i.testsave bs
      exec (.selftestInjob []) s = .next { v with integ := { v.integ with struns := v.integ.struns + 1, testRun := true } } := by
  refine ⟨tab 0x400_0000 fun j => Config.freeByte s.free j, tab_length .., ?_⟩
  change execSelftestInjob [] s = _
  simp only [execSelftestInjob, hi, hrun, hon, hfirst, hdue, Bool.not_false, Bool.and_self, beq_self_eq_true, if_true]
  rfl

/-! ### Full self-tests -/

theorem State.mayTest_of_no_image (h : s.job.image = none) : s.mayTest = true := by simp [State.mayTest, h]

theorem State.mayTest_of_probation (hstate : s.integ.state = 1) (hlaunch : s.job.launched = false)
    (hpend : s.job.pending = none) (hno : ∀ i, s.integDecl = some i → i.testlen = 0) : s.mayTest = true := by
  have hlen : (match s.integDecl with | some i => i.testlen == 0 | none => true) = true := by
    cases hi : s.integDecl with
    | none => rfl
    | some i => simpa using hno i hi
  rw [State.mayTest, hstate, hlaunch, hpend]
  exact Bool.or_eq_true_iff.2 (.inr hlen)

theorem State.mayTest_refused (himage : s.job.image.isSome = true) (h : s.integ.state ≠ 1 ∨ s.job.launched = true ∨
    s.job.pending.isSome = true ∨ ∃ i, s.integDecl = some i ∧ i.testlen ≠ 0) : s.mayTest = false := by
  have hnone : s.job.image.isNone = false := by rw [← Option.not_isSome, himage]; rfl
  obtain h | h | h | ⟨i, hi, hlen⟩ := h
  · simp only [State.mayTest, hnone, beq_eq_false_iff_ne.2 h, Bool.false_and, Bool.or_self]
  · simp [State.mayTest, hnone, h]
  · obtain ⟨e, he⟩ := Option.isSome_iff_exists.1 h
    simp [State.mayTest, hnone, he]
  · simp [State.mayTest, hnone, hi, hlen]

/-- A full self-test that finds nothing, with nothing waiting for it, is counted. -/
theorem State.fullTest_clean (hwait : s.integ.waiting = []) (hlost : s.integ.lost = []) : s.fullTest [] = s.countTest := by
  simp only [State.fullTest, State.reportFailures, State.countTest, List.foldl_nil, hwait, hlost, List.map_nil,
    List.append_nil, State.act]

/-! ### A failure that drains the chip -/

theorem State.smcStop_integ (s : State) (cause : Nat) : (s.smcStop cause).integ = s.integ := by
  unfold State.smcStop
  split <;> rfl

theorem State.recordRepair_mem (s : State) (r : Repair) : r ∈ (s.recordRepair r).integ.repairs := by
  unfold State.recordRepair
  split
  case isTrue h => simpa [State.journalled] using h
  case isFalse => exact List.mem_append_right _ (List.mem_singleton_self r)

theorem State.recordRepair_counts (s : State) (r : Repair) :
    (s.recordRepair r).integ.struns = s.integ.struns ∧ (s.recordRepair r).integ.stfail = s.integ.stfail := by
  unfold State.recordRepair
  split <;> exact ⟨rfl, rfl⟩

/-- A drain (R527) records itself and changes no count of self-tests. -/
theorem State.drain_integ (s : State) (seq : BitVec 32) : let u := s.drain seq
    u.integ.struns = s.integ.struns ∧ u.integ.stfail = s.integ.stfail ∧ u.integ.state = 2 ∧ .drained ∈ u.integ.repairs := by
  intro u
  obtain ⟨routers, lom, hu, -⟩ := State.report_eq { (s.smcStop 0x32).recordRepair .drained with
    integ := { ((s.smcStop 0x32).recordRepair .drained).integ with state := 2 } } 0x0042 .chip 0 (seq.setWidth 64) 0
  obtain ⟨hruns, hfail⟩ := (s.smcStop 0x32).recordRepair_counts .drained
  have hinteg : u.integ = _ := congrArg State.integ hu
  rw [hinteg]
  rw [s.smcStop_integ] at hruns hfail
  exact ⟨hruns, hfail, rfl, State.recordRepair_mem ..⟩

theorem State.sendReport_integ (s : State) (e : Event) (cls act : Nat) :
    (s.sendReport e cls act).integ = { s.integ with evreps := s.integ.evreps + 1 } := by
  unfold State.sendReport State.sendLom
  dsimp only
  obtain ⟨routers, hrelay⟩ := State.relayOut_eq _ _
  rw [hrelay]

/-- Outside probation a permanent verdict with no unit to blame drains the chip. -/
theorem State.act_drains (hstate : s.integ.state = 0) (e : Event) : let u := s.act [⟨e, true, none⟩]
    u.integ.struns = s.integ.struns ∧ u.integ.stfail = s.integ.stfail ∧ u.integ.state = 2 ∧ .drained ∈ u.integ.repairs := by
  have hrow : s.actionRow ⟨e, true, none⟩ = 3 := by simp [State.actionRow]
  have hact : s.act [⟨e, true, none⟩] = (({ s with integ := { s.integ with
      confirmed := s.integ.confirmed ++ [⟨s.boot.ptime, e.code⟩] } } : State).sendReport e 2 3).drain e.seq := by
    simp [State.act, State.journalVerdict, hstate, hrow, State.recordColumn]
  rw [hact]
  have hdrain := State.drain_integ (({ s with integ := { s.integ with
    confirmed := s.integ.confirmed ++ [⟨s.boot.ptime, e.code⟩] } } : State).sendReport e 2 3) e.seq
  rw [State.sendReport_integ] at hdrain
  exact hdrain

/-- The first half of a full self-test: one unit failed twice, with nothing waiting. -/
theorem State.fullTest_failed (hwait : s.integ.waiting = []) (hlost : s.integ.lost = []) {f : TestFailure}
    (hagain : f.again = true) (hrep : repairOf f.kind f.index.toNat = none) :
    ∃ (v : State) (e : Event), s.fullTest [f] = v.act [⟨e, true, none⟩] ∧ v.integ.state = s.integ.state ∧ v.mem = s.mem ∧
      v.integ.struns = s.integ.struns + 1 ∧ v.integ.stfail = s.integ.stfail + 2 := by
  obtain ⟨routers, lom, hu, -⟩ := State.report_eq { s.countTest with integ := { s.countTest.integ with
    stfail := s.countTest.integ.stfail + 2 } } 0x0030 f.kind f.index.toNat f.number 1
  simp only [State.fullTest, State.reportFailures, List.foldl_cons, List.foldl_nil, hagain, hrep, if_true, List.nil_append]
  rw [hu]
  simp only [State.countTest, hwait, hlost, List.map_nil, List.foldl_nil, List.nil_append]
  exact ⟨_, _, rfl, rfl, rfl, rfl, rfl⟩

/-! ### The end of probation -/

theorem execProbationExpire_ends (hstate : s.integ.state = 1)
    (hlate : s.integ.probstart.toNat + 259200 < s.boot.ptime.toNat) : exec .probationExpire s =
      .next (({ s with integ := { s.integ with state := 0, inttest := 10000, histProb := none } } : State).report
        0x0041 .chip 0 0 0).1 := by
  change execProbationExpire s = _
  simp [execProbationExpire, State.inProbation, hstate, hlate]

theorem execProbationExpire_stays (hstate : s.integ.state = 1)
    (hin : s.boot.ptime.toNat ≤ s.integ.probstart.toNat + 259200) : exec .probationExpire s = .next s := by
  change execProbationExpire s = _
  simp [execProbationExpire, State.inProbation, hstate, hin]

end

/-- Settles O32: the window and the in-job test by their conditions, a full self-test by what it finds, and a failure
without a spare by the drain it ends in. -/
theorem selfTestsWindowsAndProbation : Obligations.SelfTestsWindowsAndProbation := by
  unfold Obligations.SelfTestsWindowsAndProbation
  intro s i first now
  refine ⟨fun hi => ⟨fun hrun hlen hon hfrom hto => ?start, fun hon hto hcapture => ?stop,
      fun hrun hon hfirst hdue => ?injob⟩, fun himage h l => ?refused, fun hstate hlaunch hpend hno hwait hlost => ?probation,
    fun himage hwait hlost => ⟨?clean, fun f hagain hrep hstate => ?drains⟩, fun hstate => ⟨fun hlate => ?ends, ?stays⟩⟩
  case start =>
    refine ⟨_, execTestWindowStart_begins hi hrun hlen hon (decide_eq_true hfrom) (decide_eq_false ?_), rfl, fun c =>
      State.cluster_pauseClusters _ true c⟩
    rw [Int.add_assoc, not_le]
    simpa only [first, Int.add_assoc] using hto
  case stop =>
    refine ⟨_, execTestWindowEnd_ends hi hon (decide_eq_true hto) hcapture, rfl, fun c =>
      State.cluster_pauseClusters _ false c⟩
  case injob =>
    obtain ⟨bs, hlen, hexec⟩ := execSelftestInjob_clean hi hrun hon hfirst hdue
    refine ⟨_, hexec, ?_, fun a ha => ?_, ?_, ?_⟩
    · exact congrArg (fun g : Integ => { g with struns := g.struns + 1, testRun := true }) (State.wr_integ ..)
    · exact State.read_wr_apart _ (by rwa [hlen])
    · exact (congrArg State.tiles (State.wr_frame { s with free := s.free + 1 } i.testsave bs)).trans rfl
    · exact State.wr_clusters ..
  case refused => exact congrArg _ (if_neg (by simp [State.mayTest_refused himage h]))
  case probation =>
    have hmay := State.mayTest_of_probation hstate hlaunch hpend hno
    exact congrArg Outcome.next ((if_pos hmay).trans (State.fullTest_clean hwait hlost))
  case clean =>
    exact congrArg Outcome.next ((if_pos (State.mayTest_of_no_image himage)).trans (State.fullTest_clean hwait hlost))
  case drains =>
    obtain ⟨v, e, htest, hvstate, hmem, hruns, hfail⟩ := State.fullTest_failed hwait hlost hagain hrep
    obtain ⟨hruns', hfail', hstate', hrepairs⟩ := State.act_drains (hvstate.trans hstate) e
    refine ⟨_, congrArg Outcome.next ((if_pos (State.mayTest_of_no_image himage)).trans htest), hruns'.trans hruns,
      hfail'.trans hfail, hstate', hrepairs, ?_⟩
    exact (congrArg (fun k => k.stored.mem) (State.act_kept v _)).trans hmem
  case ends =>
    obtain ⟨routers, lom, hu, -⟩ := State.report_eq { s with integ := { s.integ with
      state := 0, inttest := 10000, histProb := none } } 0x0041 .chip 0 0 0
    refine ⟨_, execProbationExpire_ends hstate hlate, ?_⟩
    rw [hu]
    exact ⟨rfl, rfl, rfl, rfl⟩
  case stays => exact execProbationExpire_stays hstate

end Sys2Proof.Machine
end


section
/-!
SUPPORT. The injection queue and its throttle (R394), the management budget (R395), and what an output port sends at a packet
boundary (R348, R392, R396); and the obligation they settle.
-/
namespace Sys2Proof.Machine
-- One declaration at a time keeps the compile of the whole text within its memory.
set_option Elab.async false
open Host

section
variable {s : State} {d : Die} {pkt : Packet}

/-! ### The injection queue -/

theorem inTurn_nil (pkt : Packet) : inTurn [] pkt = true := rfl

/-- A thaw event changes the GTC only. -/
theorem State.thawEvent_onlyGtc (s : State) (n : Fin 11) : ∃ gtc, s.thawEvent n = { s with gtc := gtc } := by
  unfold State.thawEvent
  split
  · exact ⟨_, rfl⟩
  · exact ⟨_, rfl⟩

theorem execUnschedInject_unicast (hwf : pkt.WellFormed = true) (hclass : pktClass pkt = 1) (haxm : pktAxm pkt = 0)
    (hturn : inTurn (s.router d).netQ pkt = true) :
    exec (.unschedInject d pkt) s = .next ((s.unschedInject d pkt).getD s) := by
  change execUnschedInject d pkt s = _
  simp [execUnschedInject, hwf, hclass, haxm, hturn]

theorem execUnschedInject_throttled (hwf : pkt.WellFormed = true) (hclass : pktClass pkt = 1) (haxm : pktAxm pkt = 0)
    (hthr : (s.router d).throttling = true) : exec (.unschedInject d pkt) s = .next s := by
  change execUnschedInject d pkt s = _
  simp [execUnschedInject, State.unschedInject, hwf, hclass, haxm, hthr]

/-- A packet that does not fill the queue past THR / 16 joins it. -/
theorem State.unschedInject_below (hthr : (s.router d).throttling = false)
    (hroom : (s.router d).occupancy + pktCredits pkt ≤ 256)
    (hfill : (s.router d).occupancy + pktCredits pkt ≤ 16 * (s.router d).thr.toNat) :
    s.unschedInject d pkt =
      some (s.modRouter d fun r => { r.takeNet pkt with injQ := (s.router d).injQ ++ [pkt] }) := by
  rw [State.unschedInject, hthr]
  simp only [decide_eq_false (Nat.not_lt.2 hroom), if_neg (Nat.not_lt.2 hfill), Bool.or_self, Bool.false_eq_true, if_false]
  rfl

/-- One that does engages the throttle. -/
theorem State.unschedInject_above (hthr : (s.router d).throttling = false)
    (hroom : (s.router d).occupancy + pktCredits pkt ≤ 256)
    (hfill : 16 * (s.router d).thr.toNat < (s.router d).occupancy + pktCredits pkt) :
    s.unschedInject d pkt = some (((s.modRouter d fun r => { r.takeNet pkt with injQ := (s.router d).injQ ++ [pkt] }).modRouter d
      fun r => { r with throttling := true, throttles := r.throttles + 1 }).thawEvent 1) := by
  rw [State.unschedInject, hthr]
  simp only [decide_eq_false (Nat.not_lt.2 hroom), if_pos hfill, Bool.or_self, Bool.false_eq_true, if_false]
  rfl

theorem execThrottleRelease_releases (hthr : (s.router d).throttling = true)
    (h : (s.router d).occupancy ≤ 16 * ((s.router d).thr.toNat - 2)) :
    exec (.throttleRelease d) s = .next (s.modRouter d fun r => { r with throttling := false }) :=
  if_pos (by simp [hthr, h])

theorem execThrottleRelease_holds (h : 16 * ((s.router d).thr.toNat - 2) < (s.router d).occupancy) :
    exec (.throttleRelease d) s = .next s :=
  if_neg (by simp [h])

theorem execMgmtBudgetWindow_renews (h : (s.router d).mgmtWait = []) :
    exec (.mgmtBudgetWindow d) s = .next (s.modRouter d fun r => { r with mgmtUsed := 0 }) := by
  have hsame : s.modRouter d (fun r => { r with mgmtUsed := 0, mgmtWait := [] }) =
      s.modRouter d fun r => { r with mgmtUsed := 0 } := State.modRouter_congr (by rw [← h])
  change execMgmtBudgetWindow d s = _
  simp only [execMgmtBudgetWindow, h, List.foldl_nil, hsame]

end

/-! ### What a port chooses -/

section
variable {x : LPort} {q : QPkt} {vc : Fin 8}

theorem LPort.ready_nil (h : x.queues[vc] = []) : x.ready vc = [] := by
  simp only [LPort.ready, h, List.find?_nil]
  rfl

/-- The one packet of a channel, which came from the on-die network, may be sent when there are credits for it. -/
theorem LPort.ready_one (h : x.queues[vc] = [q]) (hinput : q.input = 20) (hcredits : pktCredits q.pkt ≤ x.credits[vc]) :
    x.ready vc = [q] := by
  have hheads : ((List.range 21).filterMap fun i => [q].find? fun q => q.input == i) = [q] := by
    simp [List.range_succ, hinput]
  rw [LPort.ready, h, hheads]
  simpa using hcredits

/-- The channel of a class with a VCB. -/
def classVc (c : Fin 4) (b : Bool) : Fin 8 := ⟨2 * c.val + b.toNat, by cases b <;> simp <;> omega⟩

theorem LPort.pick_none {c : Fin 4} (h : ∀ b, x.queues[classVc c b] = []) : x.pick c = none := by
  have hready (b : Bool) : x.ready (classVc c b) = [] := LPort.ready_nil (h b)
  have hnext (b : Bool) : (nextInput x.rrInput[c] (x.ready (classVc c b))).map (fun q => (classVc c b, q)) = none := by
    rw [hready b]
    rfl
  unfold LPort.pick
  dsimp only
  split
  case h_1 e he => exact absurd (he.symm.trans (hnext _)) (Option.some_ne_none _)
  case h_2 => exact hnext _

theorem nextInput_singleton (last : Nat) (q : QPkt) : nextInput last [q] = some q := by
  by_cases h : last < q.input <;> simp [nextInput, h]

theorem LPort.pick_one {c : Fin 4} {b : Bool} (hb : x.ready (classVc c b) = [q]) (hno : x.ready (classVc c !b) = []) :
    x.pick c = some (classVc c b, q) := by
  have hb' : (nextInput x.rrInput[c] (x.ready (classVc c b))).map (fun q => (classVc c b, q)) = some (classVc c b, q) := by
    rw [hb, nextInput_singleton]
    rfl
  have hno' : (nextInput x.rrInput[c] (x.ready (classVc c !b))).map (fun q => (classVc c !b, q)) = none := by
    rw [hno]
    rfl
  unfold LPort.pick
  dsimp only
  by_cases hfirst : (!x.rrVc[c]) = b
  case pos =>
    rw [hfirst]
    split
    case h_1 e he => exact he.symm.trans hb'
    case h_2 he => exact absurd (he.symm.trans hb') (Option.some_ne_none _).symm
  case neg =>
    have hother : (!x.rrVc[c]) = !b := by cases b <;> cases hr : x.rrVc[c] <;> simp_all
    rw [hother, Bool.not_not]
    split
    case h_1 e he => exact absurd (he.symm.trans hno') (Option.some_ne_none _)
    case h_2 => exact hb'

theorem LPort.choose_none (h : ∀ w : Fin 8, x.queues[w] = []) (inService : Bool) : x.choose inService = none := by
  have hpick (c : Fin 4) : x.pick c = none := LPort.pick_none fun _ => h _
  unfold LPort.choose
  simp only [hpick, Option.map_none]
  cases x.mgmtTurn <;> simp

/-- A scheduled packet goes before any other. -/
theorem LPort.choose_scheduled (hheld : x.held = false) (hpick : x.pick 0 = some (vc, q)) :
    x.choose true = some (0, vc, q) := by
  simp [LPort.choose, hheld, hpick]

theorem LPort.carries_of_active (h : x.state = .active) : x.carries = true := by simp [LPort.carries, h]

end

/-! ### What it sends -/

section
variable (x : LPort) (cls : Fin 4) (q : QPkt) {vc w : Fin 8} (h : w ≠ vc)
include h

theorem LPort.sendPkt_credits_ne : (x.sendPkt cls vc q).credits[w] = x.credits[w] :=
  Vector.getElem_set_ne vc.isLt w.isLt fun e => h (Fin.ext e.symm)

theorem LPort.sendPkt_queues_ne : (x.sendPkt cls vc q).queues[w] = x.queues[w] :=
  Vector.getElem_set_ne vc.isLt w.isLt fun e => h (Fin.ext e.symm)

end

section
variable {s : State} {p : PortId} {q : QPkt} {vc : Fin 8}

theorem execPortArbitrate_idles (hactive : (s.port p).state = .active) (h : ∀ w : Fin 8, (s.port p).queues[w] = []) :
    exec (.portArbitrate p) s = .next (s.modPort p LPort.idle) := by
  change execPortArbitrate p s = _
  simp [execPortArbitrate, LPort.carries_of_active hactive, LPort.choose_none h]

/-- A scheduled packet of the on-die network is sent, and noted when another class had one too. -/
theorem execPortArbitrate_sends (hactive : (s.port p).state = .active)
    (hchoose : (s.port p).choose (s.inService p) = some (0, vc, q)) (hinput : q.input = 20)
    (hshort : ((s.port p).sendPkt 0 vc q).txStream.length < 600) :
    let contend := ((s.port p).pick 1).isSome || ((s.port p).pick 3).isSome
    let t := (s.modPort p fun x => x.sendPkt 0 vc q).modRouter (portDie p) fun r => { r with
      pkts := r.pkts + 1
      contend := if contend then r.contend + 1 else r.contend }
    exec (.portArbitrate p) s = .next (if contend then t.thawEvent 0 else t) := by
  have hpump : (s.modPort p fun x => (x.sendPkt 0 vc q).pump) = s.modPort p fun x => x.sendPkt 0 vc q :=
    State.modPort_congr (LPort.pump_of_short hshort)
  have hfar : ¬ q.input < 20 := by omega
  intro contend t
  change execPortArbitrate p s = _
  simp only [execPortArbitrate, LPort.carries_of_active hactive, hchoose, hpump, dif_neg hfar, Bool.not_true,
    Bool.false_eq_true, if_false, beq_self_eq_true, Bool.true_or, Bool.true_and]
  rfl

end

/-- Settles O25: the queue by its occupancy against THR, and a port by what it chooses among the heads of its channels. -/
theorem queuesThrottlesAndArbitration : Obligations.QueuesThrottlesAndArbitration := by
  unfold Obligations.QueuesThrottlesAndArbitration
  intro s d r
  refine ⟨fun pkt hwf hclass haxm hnet hthr hroom => ?inject, fun pkt hwf hclass haxm hthr => ?throttled,
    fun hthr _ => ⟨fun h => execThrottleRelease_releases hthr h, fun h => execThrottleRelease_holds h⟩,
    fun h => execMgmtBudgetWindow_renews h, fun p hactive hempty hshort hroom => ?idle,
    fun p q vc hdie hin hactive hheld hvc hone hinput hvcb hothers hcredits hshort => ?send⟩
  case inject =>
    have hexec := execUnschedInject_unicast hwf hclass haxm (s := s) (d := d) (by rw [hnet]; exact inTurn_nil pkt)
    obtain hfill | hfill := Nat.lt_or_ge (16 * r.thr.toNat) ((r.injQ.map pktCredits).sum + pktCredits pkt)
    · rw [State.unschedInject_above hthr hroom hfill, Option.getD_some] at hexec
      obtain ⟨gtc, hthaw⟩ := State.thawEvent_onlyGtc ((s.modRouter d fun r => { r.takeNet pkt with
        injQ := (s.router d).injQ ++ [pkt] }).modRouter d fun r => { r with
          throttling := true, throttles := r.throttles + 1 }) 1
      rw [hthaw] at hexec
      refine ⟨_, hexec, ?_, rfl, fun h => absurd h (Nat.not_le.2 hfill), fun _ => ⟨?_, ?_⟩⟩
      all_goals
        simp only [State.router, State.modRouter]
        simp [Router.takeNet, r, State.router]
    · rw [State.unschedInject_below hthr hroom hfill, Option.getD_some] at hexec
      refine ⟨_, hexec, ?_, rfl, fun _ => ⟨?_, ?_, rfl⟩, fun h => absurd h (Nat.not_lt.2 hfill)⟩
      · rw [State.router_modRouter]
      · rw [State.router_modRouter]; exact hthr
      · rw [State.router_modRouter]; rfl
  case throttled => exact execUnschedInject_throttled hwf hclass haxm hthr
  case idle =>
    have hidle : (s.port p).idle = (s.port p).emit .idle 0x3FF (List.replicate 600 0) :=
      if_pos (by simp [hshort, hroom])
    rw [execPortArbitrate_idles hactive hempty]
    exact ⟨⟨.idle, (s.port p).txSeq, 0x3FF, 0, 0, List.replicate 600 0, (s.port p).rxSeq - 1,
      [(s.port p).txSeq.toNat % (s.port p).width.toNat]⟩, congrArg _ (State.modPort_congr hidle), rfl, rfl, rfl, rfl⟩
  case send =>
    have hvc' : classVc 0 q.vcb = vc := Fin.ext (by simpa [classVc] using hvcb)
    have hother : classVc 0 (!q.vcb) ≠ vc := by
      rw [← hvc']
      cases q.vcb <;> decide
    have hready : (s.port p).ready (classVc 0 q.vcb) = [q] := by
      rw [hvc']
      exact LPort.ready_one hone hinput hcredits
    have hpick := LPort.pick_one hready
      (LPort.ready_nil (hothers _ hother (by cases q.vcb <;> decide)))
    rw [hvc'] at hpick
    have hchoose : (s.port p).choose (s.inService p) = some (0, vc, q) := by
      rw [hin]
      exact LPort.choose_scheduled hheld hpick
    have hexec := execPortArbitrate_sends hactive hchoose hinput (by rw [LPort.sendPkt, List.length_append]; exact hshort)
    dsimp only at hexec
    generalize hc : (((s.port p).pick 1).isSome || ((s.port p).pick 3).isSome) = contend at hexec
    set t := (s.modPort p fun x => x.sendPkt 0 vc q).modRouter (portDie p) fun r => { r with
      pkts := r.pkts + 1, contend := if contend then r.contend + 1 else r.contend } with ht
    have hsent : ∃ gtc, (if contend then t.thawEvent 0 else t) = { t with gtc := gtc } ∧ (contend = false → gtc = s.gtc) := by
      cases contend
      · exact ⟨_, rfl, fun _ => rfl⟩
      · obtain ⟨gtc, h⟩ := t.thawEvent_eq 0
        exact ⟨gtc, h, fun h => absurd h (by decide)⟩
    obtain ⟨gtc, hsent, hgtc⟩ := hsent
    rw [hsent] at hexec
    have hport : t.port p = (s.port p).sendPkt 0 vc q := s.port_modPort p fun x => x.sendPkt 0 vc q
    have hrouter : t.router d = { r with pkts := r.pkts + 1, contend := if contend then r.contend + 1 else r.contend } := by
      rw [ht, hdie]
      exact State.router_modRouter (s.modPort p fun x => x.sendPkt 0 vc q) d _
    refine ⟨_, hexec, ?_, ?_, ?_, fun w hw => ⟨?_, ?_⟩, ?_, fun hno => ?_, rfl, fun p' hp' => ?_⟩
    · change (t.port p).queues[vc] = []
      rw [hport, LPort.sendPkt, hone]
      simp
    · change (t.port p).txStream = _
      rw [hport, LPort.sendPkt]
    · change (t.port p).credits[vc] + _ = _
      rw [hport, LPort.sendPkt]
      simpa using Nat.sub_add_cancel hcredits
    · change (t.port p).credits[w] = _
      rw [hport]
      exact LPort.sendPkt_credits_ne _ 0 q hw
    · change (t.port p).queues[w] = _
      rw [hport]
      exact LPort.sendPkt_queues_ne _ 0 q hw
    · exact congrArg Router.pkts hrouter
    · have hpicks : contend = false := by
        rw [← hc, LPort.pick_none fun b => hno _ (by cases b <;> decide), LPort.pick_none fun b => hno _ (by cases b <;> decide)]
        rfl
      refine ⟨(congrArg Router.contend hrouter).trans ?_, hgtc hpicks⟩
      simp [hpicks]
    · exact s.port_modPort_ne (fun x => x.sendPkt 0 vc q) hp'

end Sys2Proof.Machine
end


section
/-!
SUPPORT. The SPI target (R600 to R602), the I3C target (R603) and the TAP (R623), each by what it leaves in the sideband's
state; and the obligation they settle.
-/
namespace Sys2Proof.Machine
-- One declaration at a time keeps the compile of the whole text within its memory.
set_option Elab.async false
open Host

section
variable {s : State}

/-! ### The SPI target -/

theorem satAdd_zero {n : Nat} (w : BitVec n) : satAdd w 0 = w := by
  have hw : w.toNat ≤ 2 ^ n - 1 := Nat.le_sub_one_of_lt w.isLt
  rw [satAdd, Nat.add_zero, Nat.min_eq_left hw, BitVec.ofNat_toNat, BitVec.setWidth_eq]

theorem execSpiTargetWrite_words {words : List (BitVec 32)} (h : words.length ≤ 64) (addr : BitVec 16) (n : Nat) :
    exec (.spiTargetWrite addr words n) s = .next { s with side := (s.side.spiPutAll addr.toNat words).edges n } :=
  if_neg (Nat.not_lt.2 h)

/-- A transaction of several words does what its first word does, and then the rest. -/
theorem execSpiTargetWrite_cons {w : BitVec 32} {ws : List (BitVec 32)} {t : State} (hlen : ws.length < 64)
    {addr : BitVec 16} (h : exec (.spiTargetWrite addr [w] 0) s = .next t) (n : Nat) :
    exec (.spiTargetWrite addr (w :: ws) n) s = exec (.spiTargetWrite (addr + 1) ws n) t := by
  have hnext : (addr.toNat + 1) % 65536 = (addr + 1).toNat := by simp [BitVec.toNat_add]
  rw [execSpiTargetWrite_words (by simp)] at h
  have ht : t = { s with side := s.side.spiPut addr.toNat w } := by
    rw [← Outcome.next.inj h, Side.edges, satAdd_zero]
    rfl
  rw [execSpiTargetWrite_words (by rw [List.length_cons]; exact hlen), execSpiTargetWrite_words hlen.le, Side.spiPutAll,
    hnext, ht]

theorem execSpiTargetRead_words {k : Nat} (h : k ≤ 64) (addr : BitVec 16) (n : Nat) :
    exec (.spiTargetRead addr k n) s = .next { s with side := ({ s.side with
      spiOut := tab k fun i => s.spiWord ((addr.toNat + i) % 65536) } : Side).edges n } :=
  if_neg (Nat.not_lt.2 h)

theorem State.spiStat_toNat (s : State) : s.spiStat.toNat =
    flagBit 0 (s.boot.state == .ready) + flagBit 1 s.side.frameErr + flagBit 2 s.side.accErr := by
  simp only [State.spiStat, BitVec.toNat_ofNat, flagBit]
  split <;> split <;> split <;> rfl

theorem flagBits_three : ∀ a b c : Bool, let n := flagBit 0 a + flagBit 1 b + flagBit 2 c
    n.testBit 0 = a ∧ n.testBit 1 = b ∧ n.testBit 2 = c ∧ n < 8 := by decide

/-- SPI_STAT's three bits. -/
theorem State.spiStat_bits (s : State) : (s.spiStat.toNat.testBit 0 = true ↔ s.boot.state = .ready) ∧
    s.spiStat.toNat.testBit 1 = s.side.frameErr ∧ s.spiStat.toNat.testBit 2 = s.side.accErr ∧ s.spiStat.toNat < 8 := by
  obtain ⟨hready, hframe, hacc, hlt⟩ := flagBits_three (s.boot.state == .ready) s.side.frameErr s.side.accErr
  rw [s.spiStat_toNat]
  exact ⟨by rw [hready, beq_iff_eq], hframe, hacc, hlt⟩

theorem State.spiWord_identity {a : Nat} (hlo : 4 ≤ a) (hhi : a < 0xC) :
    (s.spiWord a).toNat = leAt s.identity (4 * (a - 4)) 4 := by
  rw [State.spiWord, if_neg (by omega), if_neg (by omega), if_neg (by omega), if_pos ⟨hlo, hhi⟩, BitVec.toNat_ofNat]
  exact Nat.mod_eq_of_lt (leAt_lt _ _ 4)

theorem State.spiWord_telemetry {a : Nat} (hlo : 0x10 ≤ a) (hhi : a < 0x20) :
    (s.spiWord a).toNat = leAt s.side.telem (4 * (a - 0x10)) 4 := by
  rw [State.spiWord, if_neg (by omega), if_neg (by omega), if_neg (by omega), if_neg (by omega), if_pos ⟨hlo, hhi⟩,
    BitVec.toNat_ofNat]
  exact Nat.mod_eq_of_lt (leAt_lt _ _ 4)

/-! ### The I3C target -/

theorem State.i3cAssign_free (h : s.side.i3cDyn = none) (addr : BitVec 7) :
    s.i3cAssign addr = { s with side := { s.side with i3cDyn := some addr } } := if_neg (by simp [h])

theorem State.i3cAssign_taken (h : s.side.i3cDyn.isSome = true) (addr : BitVec 7) : s.i3cAssign addr = s := if_pos h

theorem State.i3cGet_addressed (h : s.side.i3cDyn.isSome = true) (b : List Byte) :
    s.i3cGet b = { s with side := { s.side with i3cOut := b } } := if_pos h

theorem State.i3cGet_silent (h : s.side.i3cDyn = none) (b : List Byte) : s.i3cGet b = s := if_neg (by simp [h])

theorem execI3cSetdasa_named {c : CfgBlock} (hc : s.boot.cfg = some c) (st addr : BitVec 7) :
    exec (.i3cSetdasa st addr) s = .next (if c.i3cStatic = st then s.i3cAssign addr else s) := by
  change execI3cSetdasa st addr s = _
  rw [execI3cSetdasa, hc]

end

/-- Settles O47: every transaction changes the sideband's state only, by the words or bytes its place selects. -/
theorem sidebandTargetsAnswer : Obligations.SidebandTargetsAnswer := by
  unfold Obligations.SidebandTargetsAnswer
  intro s d put
  refine ⟨fun addr n => ?spi, rfl, fun a st => ⟨fun hdyn => ⟨?entdaa, fun c hc hst => ?setdasa⟩,
      fun hdyn => ⟨?entdaaTaken, ?setdasaTaken⟩, fun c hc hst => ?setdasaOther⟩, rfl,
    fun hdyn => ⟨?gets, ?getStatus⟩, fun hdyn => ⟨?silent, ?silentStatus⟩,
    fun a b l => ⟨?offset, rfl, rfl⟩, fun n => ?read, fun ir => ?tap⟩
  case spi =>
    intro e
    refine ⟨execSpiTargetWrite_words (by simp) addr n, fun w => ⟨fun haddr => ?_, fun haddr => ?_⟩,
      fun w ws t hlen h => execSpiTargetWrite_cons hlen h n, fun k hk => ?_⟩
    · refine (execSpiTargetWrite_words (by simp) addr n).trans ?_
      rw [haddr]
      rfl
    · have hne : addr.toNat ≠ 0 := fun h => haddr (BitVec.eq_of_toNat_eq h)
      refine (execSpiTargetWrite_words (by simp) addr n).trans ?_
      rw [Side.spiPutAll, Side.spiPut, if_neg hne]
      rfl
    · refine ⟨_, execSpiTargetRead_words hk addr n, tab_length .., fun j hj => ?_⟩
      rw [tab_getD _ _ hj]
      refine ⟨fun h => ?_, fun h => ?_, fun hlo hhi => State.spiWord_identity hlo hhi,
        fun hlo hhi => State.spiWord_telemetry hlo hhi⟩
      · have hword : s.spiWord ((addr.toNat + j) % 65536) = s.spiStat := if_pos h
        rw [hword]
        exact s.spiStat_bits
      · rw [show (addr.toNat + j) % 65536 = 1 from h]
        rfl
  case entdaa => exact congrArg _ (State.i3cAssign_free hdyn a)
  case setdasa => exact (execI3cSetdasa_named hc st a).trans (by rw [if_pos hst, State.i3cAssign_free hdyn])
  case entdaaTaken => exact congrArg _ (State.i3cAssign_taken hdyn a)
  case setdasaTaken =>
    change execI3cSetdasa st a s = _
    unfold execI3cSetdasa
    split
    · rw [State.i3cAssign_taken hdyn, ite_self]
    · rfl
  case setdasaOther => exact (execI3cSetdasa_named hc st a).trans (by rw [if_neg hst])
  case gets =>
    simp only [List.forall_mem_cons]
    exact ⟨⟨_, congrArg _ (State.i3cGet_addressed hdyn _)⟩, ⟨_, congrArg _ (State.i3cGet_addressed hdyn _)⟩,
      ⟨_, congrArg _ (State.i3cGet_addressed hdyn _)⟩, ⟨_, congrArg _ (State.i3cGet_addressed hdyn _)⟩,
      ⟨_, congrArg _ (State.i3cGet_addressed hdyn _)⟩, List.forall_mem_nil _⟩
  case getStatus => exact ⟨_, congrArg _ (State.i3cGet_addressed (s := s.takeFree.2) hdyn _)⟩
  case silent =>
    simp only [List.forall_mem_cons]
    exact ⟨congrArg _ (State.i3cGet_silent hdyn _), congrArg _ (State.i3cGet_silent hdyn _),
      congrArg _ (State.i3cGet_silent hdyn _), congrArg _ (State.i3cGet_silent hdyn _),
      congrArg _ (State.i3cGet_silent hdyn _), List.forall_mem_nil _⟩
  case silentStatus => exact congrArg _ (State.i3cGet_silent (s := s.takeFree.2) hdyn _)
  case offset => rfl
  case read =>
    refine ⟨_, rfl, tab_length .., fun j hj => ?_⟩
    have hj' : (tab n fun i => s.i3cByte ((d.i3cOff.toNat + i) % 4096))[j]? =
        some (s.i3cByte ((d.i3cOff.toNat + j) % 4096)) := by simp [tab, hj]
    rw [hj']
    refine ⟨fun hlo => ?_, fun hlo hhi => ?_, fun c hlo hc => ?_⟩
    · exact congrArg _ (if_pos hlo)
    · exact congrArg _ ((if_neg (by omega)).trans (if_pos hhi))
    · rw [State.i3cByte, if_neg (by omega), if_neg (by omega), hc]
  case tap =>
    refine ⟨_, rfl, rfl, rfl, fun h => ?_, fun himage hb hi hs => ?_⟩
    · have hgo : (s.job.image.isSome && !(ir == tapBypass || ir == Config.tapIdcode || ir == Config.tapSample)) = false := by
        obtain h | h | h := h <;> simp [h]
      exact ⟨if_neg (Bool.eq_false_iff.1 hgo), if_neg (Bool.eq_false_iff.1 hgo)⟩
    · have hstop : (s.job.image.isSome && !(ir == tapBypass || ir == Config.tapIdcode || ir == Config.tapSample)) = true := by
        simp only [himage, tapBypass, beq_eq_false_iff_ne.2 hb, beq_eq_false_iff_ne.2 hi, beq_eq_false_iff_ne.2 hs,
          Bool.or_self, Bool.not_false, Bool.and_self]
      exact ⟨if_pos hstop, if_pos hstop⟩

end Sys2Proof.Machine
end


section
/-!
SUPPORT. A manager's command that is executed and answered (R595, R598), the update of the copy that was not selected
(R585), and the obligation on NOR updates.
-/
namespace Sys2Proof.Machine
-- One declaration at a time keeps the compile of the whole text within its memory.
set_option Elab.async false
open Host

section
variable {s : State} {m : LomHeader}

/-! ### Commands executed and answered -/

/-- A command that is accepted is executed. -/
theorem State.lomRun_accepted (h : s.accepts m) (opc : Nat) (f : State → State) :
    s.lomRun m opc f = .next (f (s.beginLom m)) := by
  obtain ⟨hmanager, hseq, hopen, hstate⟩ := h
  have hnew : m.seq ≠ (s.manager m.mac).last := fun e => absurd hseq (by rw [e]; exact Nat.lt_irrefl _)
  have hlive : (s.boot.state == .recovery) = false := beq_eq_false_iff_ne.2 hstate
  simp [State.lomRun, hmanager, hnew, Nat.not_lt.2 hseq.le, hopen, hlive]

/-- A frame sent is the newest one originated; no router register changes. -/
theorem State.sendLom_net (s : State) (ty : BitVec 8) (refseq : BitVec 32) (payload : List Byte) :
    ∃ netQ, s.sendLom ty refseq payload = { s with
      routers := (s.modRouter .west fun r => { r with netQ := netQ }).routers
      lom := { s.lom with
        sent := ⟨ty, s.lom.seq, refseq, s.gtc.count, payload⟩ :: s.lom.sent, seq := s.lom.seq + 1, tx := s.lom.tx + 1 } } := by
  unfold State.sendLom
  obtain ⟨netQ, hrelay⟩ := State.relayOut_net { s with lom := { s.lom with
    sent := ⟨ty, s.lom.seq, refseq, s.gtc.count, payload⟩ :: s.lom.sent, seq := s.lom.seq + 1, tx := s.lom.tx + 1 } }
    ⟨ty, s.lom.seq, refseq, s.gtc.count, payload⟩
  exact ⟨netQ, hrelay⟩

/-- What is kept of a sender is not what is kept of another. -/
theorem find?_manager_other {a x : BitVec 48} (hx : x ≠ a) (r : Option LomFrame) (l : List Manager) :
    (((l.filter fun y => y.mac != a).map fun y => if y.mac = a then { y with resp := r } else y).find? fun y => y.mac == x) =
      l.find? fun y => y.mac == x := by
  induction l with
  | nil => rfl
  | cons y l ih =>
    by_cases hy : y.mac = a
    · have hyx : (y.mac == x) = false := beq_eq_false_iff_ne.2 (hy ▸ hx.symm)
      rw [List.filter_cons_of_neg (by simpa using hy), List.find?_cons_of_neg (by simp [hyx]), ih]
    · rw [List.filter_cons_of_pos (by simpa using hy), List.map_cons, if_neg hy]
      simp only [List.find?_cons, ih]

/-- A command begun, with a NOR operation `op` in progress. -/
def State.begun (s : State) (m : LomHeader) (op : Option NorOp) : State :=
  { s.beginLom m with lom := { (s.beginLom m).lom with norOp := op } }

/-- The RESPONSE to a command begun is the one frame originated, and is kept. -/
theorem State.respond_begun (s : State) (m : LomHeader) (op : Option NorOp) (status opc : Nat) (result : List Byte) :
    let u := (s.begun m op).respond m status opc result
    s.answers u m opc status result ∧ u.lom.norOp = op ∧ u = { s with lom := u.lom, routers := u.routers } := by
  obtain ⟨netQ, hsent⟩ := (s.begun m op).sendLom_net 0x11 m.seq
    (leBytes 2 status ++ leBytes 2 opc ++ List.replicate 4 0 ++ result)
  intro u
  have hu : u = _ := congrArg (fun v : State => { v with lom := { v.lom with managers := v.lom.managers.map fun (x : Manager) =>
    if x.mac = m.mac then { x with resp := some ⟨0x11, s.lom.seq, m.seq, s.gtc.count,
      leBytes 2 status ++ leBytes 2 opc ++ List.replicate 4 0 ++ result⟩ } else x } }) hsent
  rw [hu]
  refine ⟨⟨⟨rfl, rfl, rfl, rfl, rfl, rfl, rfl, ?_, fun x hx => ?_⟩, State.onlyNet_of_routers rfl⟩, rfl, rfl⟩
  · simp [State.manager, State.begun, State.beginLom]
  · have hne : (m.mac == x) = false := beq_eq_false_iff_ne.2 hx.symm
    simp only [State.manager, State.begun, State.beginLom, List.map_cons, if_true, List.find?_cons, hne,
      find?_manager_other hx]

/-! ### NOR updates -/

theorem State.norBar_busy (h : s.lom.norOp.isSome = true) : s.norBar = some .busy := if_pos h

theorem State.norBar_state (hop : s.lom.norOp = none) (himage : s.job.image.isSome = true) : s.norBar = some .state := by
  simp [State.norBar, hop, himage]

theorem State.norBar_none (hop : s.lom.norOp = none) (himage : s.job.image = none) : s.norBar = none := by
  simp [State.norBar, hop, himage]

theorem execNorWrite_barred (h : s.accepts m) {d : List Byte} (hd : d.length ≤ 1014) {st : LomStatus}
    (hbar : s.norBar = some st) (off : BitVec 32) :
    exec (.norWrite m off d) s = .next ((s.begun m s.lom.norOp).lomAnswer m 8 st) := by
  have hbar' : (s.beginLom m).norBar = some st := hbar
  refine (if_neg (Nat.not_lt.2 hd)).trans ((State.lomRun_accepted h 8 _).trans ?_)
  simp only [hbar']
  rfl

theorem execNorWrite_free (h : s.accepts m) {d : List Byte} (hd : d.length ≤ 1014) (hbar : s.norBar = none)
    (off : BitVec 32) : exec (.norWrite m off d) s = .next (
      if 0x100_0000 < off.toNat + d.length then (s.begun m s.lom.norOp).lomAnswer m 8 .invalid
      else (s.begun m (some ⟨s.updateBase + off.toNat, d⟩)).lomAnswer m 8 .ok) := by
  have hbar' : (s.beginLom m).norBar = none := hbar
  refine (if_neg (Nat.not_lt.2 hd)).trans ((State.lomRun_accepted h 8 _).trans ?_)
  simp only [hbar']
  rfl

theorem execNorCommit_barred (h : s.accepts m) {st : LomStatus} (hbar : s.norBar = some st) (seq : BitVec 32) :
    exec (.norCommit m seq) s = .next ((s.begun m s.lom.norOp).lomAnswer m 9 st) := by
  have hbar' : (s.beginLom m).norBar = some st := hbar
  change execNorCommit m seq s = _
  rw [execNorCommit, State.lomRun_accepted h]
  simp only [hbar']
  rfl

theorem execNorCommit_free (h : s.accepts m) (hbar : s.norBar = none) (hcfg : s.boot.cfg.isSome = true) (seq : BitVec 32) :
    exec (.norCommit m seq) s = .next (
      if seq.toNat = s.copySeq s.boot.copyB + 1 then
        (s.begun m (some ⟨s.updateBase, s.newHeader seq⟩)).lomAnswer m 9 .ok
      else (s.begun m s.lom.norOp).lomAnswer m 9 .invalid) := by
  have hbar' : (s.beginLom m).norBar = none := hbar
  obtain ⟨c, hc⟩ := Option.isSome_iff_exists.1 hcfg
  have hok : (s.beginLom m).seqOk seq = (seq.toNat == s.copySeq s.boot.copyB + 1) := by
    have hc' : (s.beginLom m).boot.cfg = some c := hc
    rw [State.seqOk, hc']
    rfl
  change execNorCommit m seq s = _
  rw [execNorCommit, State.lomRun_accepted h]
  simp only [hbar', hok]
  by_cases hseq : seq.toNat = s.copySeq s.boot.copyB + 1
  · simp only [hseq, beq_self_eq_true, Bool.not_true, Bool.false_eq_true, if_false, if_true]
    rfl
  · simp only [beq_eq_false_iff_ne.2 hseq, Bool.not_false, if_true, if_neg hseq]
    rfl

/-- The part of the new header that CHECK covers. -/
def State.headerBody (s : State) (seq : BitVec 32) : List Byte :=
  copyMagic ++ leBytes 4 seq.toNat ++ ((s.copyHeader (!s.boot.copyB)).drop 12).take 28 ++ List.replicate 16 0

theorem State.headerBody_length (s : State) (seq : BitVec 32) : (s.headerBody seq).length = 56 := by
  simp [State.headerBody, State.copyHeader, State.norRd, copyMagic]

theorem State.newHeader_eq (s : State) (seq : BitVec 32) : s.newHeader seq =
    s.headerBody seq ++ leBytes 8 (s.copyCheck (!s.boot.copyB) (s.headerBody seq)).toNat := rfl

/-- The header that NOR_COMMIT writes: MAGIC, SEQ, and a CHECK of what it says the copy holds. -/
theorem State.newHeader_fields (s : State) (seq : BitVec 32) :
    let h := s.newHeader seq
    h.length = 64 ∧ h.take 8 = copyMagic ∧ leAt h 8 4 = seq.toNat ∧
      leAt h 56 8 = (crc64 (h.take 56 ++ s.norRd (s.updateBase + 64) (leAt h 12 4))).toNat := by
  have hlen := s.headerBody_length seq
  intro h
  have htake : h.take 56 = s.headerBody seq := by
    rw [show h = _ from s.newHeader_eq seq, List.take_append_of_le_length hlen.ge, List.take_of_length_le hlen.le]
  have hsize : leAt h 12 4 = leAt (s.headerBody seq) 12 4 := by
    rw [leAt, show h = _ from s.newHeader_eq seq, List.drop_append_of_le_length (by omega),
      List.take_append_of_le_length (by rw [List.length_drop]; omega), leAt]
  have hcheck : (h.drop 56).take 8 = leBytes 8 (s.copyCheck (!s.boot.copyB) (s.headerBody seq)).toNat := by
    rw [show h = _ from s.newHeader_eq seq, List.drop_left' hlen, List.take_of_length_le (leBytes_length ..).le]
  refine ⟨?_, rfl, ?_, ?_⟩
  · rw [show h = _ from s.newHeader_eq seq, List.length_append, hlen, leBytes_length]
  · exact leNat_of_eq_leBytes (k := 4) rfl seq.isLt
  · rw [htake, hsize]
    refine (leNat_of_eq_leBytes hcheck (BitVec.isLt _)).trans ?_
    rw [State.copyCheck, List.take_of_length_le hlen.le]
    rfl

theorem execNorOperationComplete_ends {o : NorOp} (h : s.lom.norOp = some o) : exec .norOperationComplete s =
    .next { s with nor := Memory.writeBytes 0xFF s.nor o.addr o.data, lom := { s.lom with norOp := none } } := by
  change execNorOperationComplete s = _
  rw [execNorOperationComplete, h]

end

/-- Settles O45: what bars an update is tested before its arguments, and every answer is one RESPONSE. -/
theorem norUpdatesWriteTheOtherCopy : Obligations.NorUpdatesWriteTheOtherCopy := by
  unfold Obligations.NorUpdatesWriteTheOtherCopy
  intro s m base same
  have hbase : s.updateBase = base := by
    simp only [State.updateBase, copyBase, base]
    cases s.boot.copyB <;> rfl
  have answered {i : Instr} {opc : Nat} {st : LomStatus}
      (hexec : exec i s = .next ((s.begun m s.lom.norOp).lomAnswer m opc st)) : same i opc st.code :=
    ⟨_, hexec, s.respond_begun m s.lom.norOp st.code opc []⟩
  refine ⟨fun h => ⟨fun off d hd => ⟨fun hop => ?_, fun hop himage => ?_, fun hop himage hout => ?_,
      fun hop himage hin => ?writes⟩, fun seq => ⟨fun hop => ?_, fun hop himage => ?_, fun hop himage hcfg =>
      ⟨fun hseq => ?_, fun hseq => ?commits⟩⟩⟩, fun o ho => ?completes, fun ho => ?idle⟩
  · exact answered (execNorWrite_barred h hd (State.norBar_busy hop) off)
  · exact answered (execNorWrite_barred h hd (State.norBar_state hop himage) off)
  · exact answered (st := .invalid) ((execNorWrite_free h hd (State.norBar_none hop himage) off).trans (by rw [if_pos hout]))
  case writes =>
    obtain ⟨hans, hop', hu⟩ := s.respond_begun m (some ⟨s.updateBase + off.toNat, d⟩) 0 8 []
    exact ⟨_, (execNorWrite_free h hd (State.norBar_none hop himage) off).trans (by rw [if_neg (Nat.not_lt.2 hin)]; rfl),
      hans, hbase ▸ hop', hu⟩
  · exact answered (execNorCommit_barred h (State.norBar_busy hop) seq)
  · exact answered (execNorCommit_barred h (State.norBar_state hop himage) seq)
  · exact answered (st := .invalid)
      ((execNorCommit_free h (State.norBar_none hop himage) hcfg seq).trans (by rw [if_neg hseq]))
  case commits =>
    obtain ⟨hans, hop', hu⟩ := s.respond_begun m (some ⟨s.updateBase, s.newHeader seq⟩) 0 9 []
    obtain ⟨hlen, hmagic, hno, hcheck⟩ := s.newHeader_fields seq
    refine ⟨_, s.newHeader seq, (execNorCommit_free h (State.norBar_none hop himage) hcfg seq).trans
      (by rw [if_pos hseq]; rfl), hans, hbase ▸ hop', hlen, hmagic, hno, ?_, hu⟩
    rw [hcheck, hbase]
  case completes =>
    refine ⟨_, execNorOperationComplete_ends ho, rfl, Memory.readBytes_writeBytes .., fun a ha => ?_, rfl⟩
    rw [Memory.read_writeBytes, if_neg (by omega)]
  case idle =>
    change execNorOperationComplete s = _
    rw [execNorOperationComplete, ho]

end Sys2Proof.Machine
end


section
/-!
SUPPORT. The boot journal (R583, R588) and the beginning of a step (R587, R589): what each leaves of the SMC's boot state.
-/
namespace Sys2Proof.Machine
-- One declaration at a time keeps the compile of the whole text within its memory.
set_option Elab.async false
open Host

/-! ### Records -/

/-- The record that a boot writes of a step (R588). -/
def Boot.entry (b : Boot) (step : Nat) (res : BootRes) (detail : BitVec 16) : BootRec :=
  ⟨b.bootno, BitVec.ofNat 8 step, res, detail, b.ptime.setWidth 32⟩

/-- The boot state once that record is written, a sector erased first when the journal is full (R583). -/
def Boot.logged (b : Boot) (step : Nat) (res : BootRes) (detail : BitVec 16) : Boot :=
  let full := decide (4096 ≤ b.journal.length)
  { b with
    journal := (if full then b.journal.drop 256 else b.journal) ++ [b.entry step res detail]
    first := if full then (b.first + 256) % 4096 else b.first }

section
variable {s : State} {b : Boot}

/-- A record changes the boot journal, and is sent (R595). -/
theorem State.bootRec_eq (s : State) (step : Nat) (res : BootRes) (detail : BitVec 16) :
    ∃ netQ f, s.bootRec step res detail = { s with
      boot := s.boot.logged step res detail
      routers := (s.modRouter .west fun r => { r with netQ := netQ }).routers
      lom := { s.lom with sent := f :: s.lom.sent, seq := s.lom.seq + 1, tx := s.lom.tx + 1 } } := by
  obtain ⟨netQ, hsent⟩ := State.sendLom_net { s with boot := s.boot.logged step res detail } 0x05 0
    (s.boot.entry step res detail).bytes
  exact ⟨netQ, _, hsent⟩

@[simp] theorem State.bootRec_kept (s : State) (step : Nat) (res : BootRes) (detail : BitVec 16) :
    (s.bootRec step res detail).kept = { s.kept with boot := s.boot.logged step res detail } := by
  obtain ⟨netQ, f, h⟩ := s.bootRec_eq step res detail
  rw [h]
  rfl

@[simp] theorem State.bootRec_boot (s : State) (step : Nat) (res : BootRes) (detail : BitVec 16) :
    (s.bootRec step res detail).boot = s.boot.logged step res detail := congrArg Kept.boot (s.bootRec_kept step res detail)

theorem Boot.logged_journal_of_room (h : b.journal.length < 4096) (step : Nat) (res : BootRes) (detail : BitVec 16) :
    (b.logged step res detail).journal = b.journal ++ [b.entry step res detail] := by
  simp [Boot.logged, Nat.not_le.2 h]

theorem Boot.logged_journal_of_full (h : 4096 ≤ b.journal.length) (step : Nat) (res : BootRes) (detail : BitVec 16) :
    (b.logged step res detail).journal = b.journal.drop 256 ++ [b.entry step res detail] := by
  simp [Boot.logged, h]

/-! ### How the previous boot left a step -/

/-- It depends on the journal, its readability and the boot's number only. -/
theorem Boot.failedNormal_congr {b c : Boot} (hno : c.noPrev = b.noPrev) (hboot : c.bootno = b.bootno)
    (hbefore : (c.journal.filter fun r => decide (r.bootno.toNat < b.bootno.toNat)) =
      b.journal.filter fun r => decide (r.bootno.toNat < b.bootno.toNat)) (step : Nat) :
    c.failedNormal step = b.failedNormal step := by
  simp only [Boot.failedNormal, Boot.previous, hno, hboot, hbefore]

/-- A boot's own records do not change it. -/
theorem Boot.failedNormal_logged (h : b.journal.length < 4096) (step : Nat) (res : BootRes) (detail : BitVec 16) (k : Nat) :
    (b.logged step res detail).failedNormal k = b.failedNormal k := by
  refine Boot.failedNormal_congr (b := b) (c := b.logged step res detail) rfl rfl ?_ k
  have hself : ¬ (b.entry step res detail).bootno.toNat < b.bootno.toNat := lt_irrefl _
  rw [Boot.logged_journal_of_room h, List.filter_append, List.filter_cons_of_neg (by simpa using hself), List.filter_nil,
    List.append_nil]

/-! ### Beginning a step -/

/-- The boot state once a step begins. -/
def Boot.started (b : Boot) (step : Nat) : Boot :=
  let alt := hasAlternate step && b.failedNormal step
  ({ b with step := BitVec.ofNat 4 step, alt := alt, state := if step ≤ 3 then .rom else .booting } : Boot).logged step .started
    (if alt then 1 else 0)

@[simp] theorem State.startsStep_kept (s : State) (step : Nat) :
    (s.startsStep step).kept = { s.kept with boot := s.boot.started step } := by
  rw [State.startsStep, State.onStart_kept, State.bootRec_kept]
  rfl

@[simp] theorem State.startsStep_boot (s : State) (step : Nat) : (s.startsStep step).boot = s.boot.started step :=
  congrArg Kept.boot (s.startsStep_kept step)

@[simp] theorem State.passOver_kept (s : State) (step : Nat) :
    (s.passOver step).kept = { s.kept with boot := s.boot.logged step .skipped 0 } := by
  unfold State.passOver
  dsimp only
  split
  · rw [State.enterProbation_kept, State.bootRec_kept]
  · split
    · rw [State.seekLock_kept, State.bootRec_kept]
    · exact State.bootRec_kept ..

@[simp] theorem State.passOver_boot (s : State) (step : Nat) : (s.passOver step).boot = s.boot.logged step .skipped 0 :=
  congrArg Kept.boot (s.passOver_kept step)

/-- A step that is not passed over begins. -/
theorem State.nextStep_starts {step : Nat} (h : s.passesOver step = false) : s.nextStep step = s.startsStep step := by
  rw [State.nextStep, State.startStep_succ, h]
  rfl

/-- One that is makes way for the next. -/
theorem State.nextStep_passes {step : Nat} (h : s.passesOver step = true) (h' : (s.passOver step).passesOver (step + 1) = false) :
    s.nextStep step = (s.passOver step).startsStep (step + 1) := by
  rw [State.nextStep, State.startStep_succ, h, State.startStep_succ, h']
  rfl

theorem State.passesOver_required {step : Nat} (h : isOptional step = false) : s.passesOver step = false := by
  rw [State.passesOver, h]
  rfl

theorem State.passesOver_unfailed {step : Nat} (h : s.boot.failedNormal step = false) : s.passesOver step = false := by
  rw [State.passesOver, h, Bool.and_false]
  rfl

end
end Sys2Proof.Machine
end

section
/-!
SUPPORT. A boot whose full journal forgets, with its oldest sector, the one record of the previous boot, so that an older
boot counts as the previous one (R583, R589); and the obligation that this refutes.
-/
namespace Sys2Proof.Machine
open Host

/-- The oldest record: of boot 4, of another step. -/
def lastOfPrevious : BootRec := ⟨4, 1, .done, 0, 0⟩

/-- The others: of boot 3, which failed step 13. -/
def failedBefore : BootRec := ⟨3, 13, .failed, 0, 0⟩

/-- Boot 5, in step 12, with `n` records of boot 3 in its journal. -/
def forgetful (n : Nat) : State :=
  { State.reset with
    boot := { State.reset.boot with
      state := .booting, step := 12, bootno := 5, journal := lastOfPrevious :: List.replicate n failedBefore }
    side := { State.reset.side with aonPwrgd := true } }

/-- The highest boot of records of one boot, and of a higher one before them. -/
theorem foldl_max_replicate {r : BootRec} {n m : Nat} :
    (List.replicate (n + 1) r).foldl (fun m r => max m r.bootno.toNat) m = max m r.bootno.toNat := by
  induction n generalizing m with
  | zero => rfl
  | succ n ih => rw [List.replicate_succ, List.foldl_cons, ih, max_assoc, max_self]

section
variable {n : Nat}

/-- Step 13 of the previous boot has no record. -/
theorem forgetful_unfailed : (forgetful (n + 1)).boot.failedNormal 13 = false := by
  have hbefore : ((forgetful (n + 1)).boot.journal.filter fun r =>
      decide (r.bootno.toNat < (forgetful (n + 1)).boot.bootno.toNat)) = lastOfPrevious :: List.replicate (n + 1) failedBefore := by
    refine List.filter_eq_self.2 fun r hr => ?_
    obtain rfl | hr := List.mem_cons.1 hr
    · rfl
    · rw [List.eq_of_mem_replicate hr]
      rfl
  have hno : (lastOfPrevious :: List.replicate (n + 1) failedBefore).foldl (fun m r => max m r.bootno.toNat) 0 = 4 := by
    rw [List.foldl_cons, foldl_max_replicate]
    rfl
  have hnone : ((lastOfPrevious :: List.replicate (n + 1) failedBefore).filter fun r =>
      r.bootno.toNat == 4 && r.step.toNat == 13) = [] := by
    rw [List.filter_cons_of_neg (by decide), List.filter_replicate_of_neg (by decide)]
  have hprev : (forgetful (n + 1)).boot.previous 13 = none := by
    unfold Boot.previous
    simp only [hbefore, hno, hnone]
    rfl
  rw [Boot.failedNormal, hprev]

/-- Once step 12's record has taken the oldest sector's place, an older boot counts as the previous one, and it failed
step 13. -/
theorem forgetful_logged_failed (d : BitVec 16) (h : 4095 ≤ n) :
    ((forgetful n).boot.logged 12 .failed d).failedNormal 13 = true := by
  obtain ⟨k, hk⟩ : ∃ k, n = k + 1 + 255 := ⟨n - 256, by omega⟩
  have hjournal : ((forgetful n).boot.logged 12 .failed d).journal =
      List.replicate (k + 1) failedBefore ++ [(forgetful n).boot.entry 12 .failed d] := by
    rw [Boot.logged_journal_of_full (by rw [forgetful, List.length_cons, List.length_replicate]; omega), forgetful,
      List.drop_succ_cons, List.drop_replicate, hk, Nat.add_sub_cancel]
  have hbefore : (((forgetful n).boot.logged 12 .failed d).journal.filter fun r =>
      decide (r.bootno.toNat < ((forgetful n).boot.logged 12 .failed d).bootno.toNat)) = List.replicate (k + 1) failedBefore := by
    rw [hjournal, List.filter_append, List.filter_replicate_of_pos (by rfl), List.filter_cons_of_neg (by simp [Boot.entry, Boot.logged]),
      List.filter_nil, List.append_nil]
  have hno : (List.replicate (k + 1) failedBefore).foldl (fun m r => max m r.bootno.toNat) 0 = 3 := foldl_max_replicate
  have hall : ((List.replicate (k + 1) failedBefore).filter fun r => r.bootno.toNat == 3 && r.step.toNat == 13) =
      List.replicate (k + 1) failedBefore := List.filter_replicate_of_pos (by decide)
  have hprev : ((forgetful n).boot.logged 12 .failed d).previous 13 = some failedBefore := by
    unfold Boot.previous
    simp only [hbefore, hno, hall, List.getLast?_replicate]
    rfl
  rw [Boot.failedNormal, hprev]
  rfl

/-- Step 12 exceeds its limit; step 13 is passed over, and step 14 begins. -/
theorem forgetful_passes (h : 4095 ≤ n) :
    ∃ u, exec (.bootStepTimeout 0) (forgetful n) = .next u ∧ u.boot.step = 14 := by
  have hexec : exec (.bootStepTimeout 0) (forgetful n) = .next (((forgetful n).bootRec 12 .failed 0).nextStep 13) := rfl
  have hpass : ((forgetful n).bootRec 12 .failed 0).passesOver 13 = true := by
    rw [State.passesOver, State.bootRec_boot, forgetful_logged_failed 0 h]
    rfl
  refine ⟨_, hexec, ?_⟩
  rw [State.nextStep_passes hpass (State.passesOver_required rfl), State.startsStep_boot]
  rfl

end

/-- Refutes O53: in `forgetful 4095` step 12 exceeds its limit, and step 13, which the previous boot did not fail, is passed
over: its failure's record drops the sector that held the previous boot's only record. -/
theorem not_bootFailuresAreHandled : ¬ Obligations.BootFailuresAreHandled := by
  unfold Obligations.BootFailuresAreHandled
  intro h
  obtain ⟨n, hn⟩ : ∃ n, n + 1 = 4095 := ⟨4094, rfl⟩
  have hstep : (forgetful (n + 1)).boot.step.toNat = 12 := rfl
  obtain ⟨-, -, -, hfails⟩ := h (forgetful (n + 1)) 0
  obtain ⟨-, u, hu, -, -, -, -, -, -, -, -, hlate⟩ := hfails rfl (by rw [hstep]; decide)
  obtain ⟨hstep', -⟩ := hlate (by rw [hstep]; decide) (by rw [hstep]; decide) (by rw [hstep]; exact forgetful_unfailed)
  obtain ⟨v, hv, hvstep⟩ := forgetful_passes hn.ge
  rw [hu] at hv
  rw [Outcome.next.inj hv, hvstep, hstep] at hstep'
  exact absurd hstep' (by decide)

end Sys2Proof.Machine
end


section
/-!
SUPPORT. The end of a boot step (R587): what its effect leaves of the boot's own records, what the beginning of the next step
leaves, and the obligation on the order of boot steps.
-/
namespace Sys2Proof.Machine
-- One declaration at a time keeps the compile of the whole text within its memory.
set_option Elab.async false
open Host

section
variable {s : State} {b : Boot}

/-! ### With room in the journal -/

theorem Boot.logged_of_room (h : b.journal.length < 4096) (step : Nat) (res : BootRes) (detail : BitVec 16) :
    b.logged step res detail = { b with journal := b.journal ++ [b.entry step res detail] } := by
  simp [Boot.logged, Nat.not_le.2 h]

theorem Boot.started_of_room (h : b.journal.length < 4096) (step : Nat) :
    let alt := hasAlternate step && b.failedNormal step
    b.started step = { b with
      step := BitVec.ofNat 4 step, alt := alt, state := if step ≤ 3 then .rom else .booting
      journal := b.journal ++ [b.entry step .started (if alt then 1 else 0)] } :=
  Boot.logged_of_room (b := { b with
    step := BitVec.ofNat 4 step, alt := hasAlternate step && b.failedNormal step
    state := if step ≤ 3 then .rom else .booting }) h step .started _

/-- Beginning a step, whatever is passed over, adds records and changes of the boot what is in progress. -/
theorem State.startStep_kept (n step : Nat) (h : s.boot.journal.length + n < 4096) : ∃ l no alt state,
    (State.startStep n step s).kept = { s.kept with boot := { s.boot with
      journal := s.boot.journal ++ l, step := no, alt := alt, state := state } } := by
  have starts (s : State) (step : Nat) (h : s.boot.journal.length < 4096) : ∃ l no alt state,
      (s.startsStep step).kept = { s.kept with boot := { s.boot with
        journal := s.boot.journal ++ l, step := no, alt := alt, state := state } } := by
    rw [State.startsStep_kept, Boot.started_of_room h]
    exact ⟨_, _, _, _, rfl⟩
  induction n generalizing s step with
  | zero =>
    rw [State.startStep_zero]
    exact starts s step h
  | succ n ih =>
    rw [State.startStep_succ]
    split
    · have hboot := (s.passOver_boot step).trans (Boot.logged_of_room (by omega) step .skipped 0)
      obtain ⟨l, no, alt, state, hl⟩ := ih (s := s.passOver step) (step + 1)
        (by rw [hboot, List.length_append, List.length_singleton]; omega)
      rw [hl, s.passOver_kept, ← s.passOver_boot, hboot]
      exact ⟨s.boot.entry step .skipped 0 :: l, no, alt, state, by simp⟩
    · exact starts s step (by omega)

/-! ### What a step's end leaves -/

/-- The part of the boot state that no step's effect touches. -/
def Boot.sameRun (b c : Boot) : Prop :=
  c.journal = b.journal ∧ c.bootno = b.bootno ∧ c.noPrev = b.noPrev ∧ c.fails = b.fails ∧ c.step = b.step

theorem Boot.sameRun.refl (b : Boot) : b.sameRun b := ⟨rfl, rfl, rfl, rfl, rfl⟩

theorem Boot.sameRun.failedNormal {c : Boot} (h : b.sameRun c) (k : Nat) : c.failedNormal k = b.failedNormal k := by
  obtain ⟨hjournal, hbootno, hno, -⟩ := h
  exact Boot.failedNormal_congr hno hbootno (by rw [hjournal]) k

theorem State.boot_of_keeps {u : State} (h : s.kept.Keeps True u.kept) : u.boot = s.boot :=
  congrArg (fun r => r.2.1) (h.rest trivial)

theorem State.onDone_sameRun (s : State) (r : StepResult) : s.boot.sameRun (s.onDone r).boot ∧ (s.onDone r).fuses = s.fuses ∧
    (s.boot.lostRepair = false → (s.onDone r).boot.lostRepair = false) := by
  have same {u : State} (hboot : u.boot = s.boot) (hfuses : u.fuses = s.fuses) : s.boot.sameRun u.boot ∧ u.fuses = s.fuses ∧
      (s.boot.lostRepair = false → u.boot.lostRepair = false) := ⟨hboot ▸ .refl _, hfuses, fun h => by rw [hboot, h]⟩
  unfold State.onDone
  dsimp only
  split
  case h_5 =>
    have hkeep := State.applyRepairs_keeps (.refl True s.kept)
    exact same (State.boot_of_keeps hkeep) hkeep.fuses
  case h_6 =>
    have hkeep := (State.pcieUp_kept (s.pcieUp .a (r.pcieA && s.wantsPcie .a)) .b (r.pcieB && s.wantsPcie .b)).trans
      (s.pcieUp_kept .a (r.pcieA && s.wantsPcie .a))
    exact same (congrArg Kept.boot hkeep) (congrArg (fun k => k.stored.fuses) hkeep)
  case h_7 =>
    have hkeep := State.fullTest_keeps (.refl True s.kept) r.failed
    have hretire := State.retireFound_kept (s.fullTest r.failed) r.failed
    split
    · have hboot : ((s.fullTest r.failed).retireFound r.failed).boot = s.boot :=
        (congrArg Kept.boot hretire).trans (State.boot_of_keeps hkeep)
      refine ⟨?_, (congrArg (fun k => k.stored.fuses) hretire).trans hkeep.fuses, fun _ => rfl⟩
      change s.boot.sameRun { ((s.fullTest r.failed).retireFound r.failed).boot with lostRepair := false, unfit := false }
      rw [hboot]
      exact ⟨rfl, rfl, rfl, rfl, rfl⟩
    · exact same (State.boot_of_keeps hkeep) hkeep.fuses
  case h_9 =>
    have hkeep := State.sendIdentity_kept { s with boot := { s.boot with state := .ready } }
    have hboot : (State.sendIdentity { s with boot := { s.boot with state := .ready } }).boot = { s.boot with state := .ready } :=
      congrArg Kept.boot hkeep
    rw [hboot]
    exact ⟨⟨rfl, rfl, rfl, rfl, rfl⟩, congrArg (fun k => k.stored.fuses) hkeep, id⟩
  all_goals exact ⟨⟨rfl, rfl, rfl, rfl, rfl⟩, rfl, id⟩

/-! ### How the next step begins -/

/-- How step `m` begins, or is passed over, after a boot state: the records written, the step in progress, and how it is
done (R587, R589). -/
structure Boot.Begins (b : Boot) (m : Nat) (l : List BootRec) (no : BitVec 4) (alt : Bool) : Prop where
  normal : b.failedNormal m = false → ∃ f, l = [f] ∧ f.bootno = b.bootno ∧ f.step.toNat = m ∧ f.res = .started ∧
    f.detail = 0 ∧ no.toNat = m ∧ alt = false
  alternate : m ∈ [3, 8, 9, 10] → b.failedNormal m = true → ∃ f, l = [f] ∧ f.step.toNat = m ∧ f.res = .started ∧
    f.detail = 1 ∧ no.toNat = m ∧ alt = true
  skipped : m ∈ [11, 12, 13] → b.failedNormal m = true → b.failedNormal (m + 1) = false → b.lostRepair = false →
    ∃ f g, l = [f, g] ∧ f.step.toNat = m ∧ f.res = .skipped ∧ g.step.toNat = m + 1 ∧ g.res = .started ∧ g.detail = 0 ∧
      no.toNat = m + 1
  required : m ∈ [1, 2, 4, 5, 6, 7, 14] → no.toNat = m

theorem toNat_ofNat_step {n m : Nat} (hn : 4 ≤ n) (h : m ≤ 15) : (BitVec.ofNat n m).toNat = m := by
  have hpow : 2 ^ 4 ≤ 2 ^ n := Nat.pow_le_pow_right (by decide) hn
  rw [BitVec.toNat_ofNat, Nat.mod_eq_of_lt (by omega)]

theorem State.nextStep_begins {m : Nat} (hm : m ≤ 14) (h : s.boot.journal.length + 3 < 4096) : ∃ l no alt state,
    (s.nextStep m).kept = { s.kept with boot := { s.boot with
      journal := s.boot.journal ++ l, step := no, alt := alt, state := state } } ∧ s.boot.Begins m l no alt := by
  cases hp : s.passesOver m with
  | false =>
    rw [State.nextStep_starts hp, State.startsStep_kept, Boot.started_of_room (by omega)]
    refine ⟨_, _, _, _, rfl, fun hf => ?_, fun hmem hf => ?_, fun hmem hf hf' hlost => ?_, fun _ => toNat_ofNat_step le_rfl (by omega)⟩
    · rw [hf, Bool.and_false]
      exact ⟨_, rfl, rfl, toNat_ofNat_step (by decide) (by omega), rfl, rfl, toNat_ofNat_step le_rfl (by omega), rfl⟩
    · have halt : hasAlternate m = true := by
        simp only [List.mem_cons, List.not_mem_nil, or_false] at hmem
        obtain rfl | rfl | rfl | rfl := hmem <;> rfl
      rw [hf, halt]
      exact ⟨_, rfl, toNat_ofNat_step (by decide) (by omega), rfl, rfl, toNat_ofNat_step le_rfl (by omega), rfl⟩
    · have hopt : isOptional m = true := by
        simp only [List.mem_cons, List.not_mem_nil, or_false] at hmem
        obtain rfl | rfl | rfl := hmem <;> rfl
      rw [State.passesOver, hopt, hf, hlost, Bool.and_false] at hp
      exact absurd hp (by decide)
  | true =>
    have hfailed : s.boot.failedNormal m = true := by
      cases hf : s.boot.failedNormal m with
      | true => rfl
      | false => exact (hp.symm.trans (State.passesOver_unfailed hf)).symm
    have hoptional : m ∉ [3, 8, 9, 10] ∧ m ∉ [1, 2, 4, 5, 6, 7, 14] := by
      have hopt : isOptional m = true := by
        cases ho : isOptional m with
        | true => rfl
        | false => exact (hp.symm.trans (State.passesOver_required ho)).symm
      simp only [isOptional, Bool.or_eq_true, beq_iff_eq] at hopt
      obtain (rfl | rfl) | rfl := hopt <;> decide
    have hboot : (s.passOver m).boot = { s.boot with journal := s.boot.journal ++ [s.boot.entry m .skipped 0] } :=
      (s.passOver_boot m).trans (Boot.logged_of_room (by omega) m .skipped 0)
    have hroom : (s.passOver m).boot.journal.length = s.boot.journal.length + 1 := by
      rw [hboot, List.length_append, List.length_singleton]
    have hnext : (s.passOver m).boot.failedNormal (m + 1) = s.boot.failedNormal (m + 1) := by
      rw [s.passOver_boot, Boot.failedNormal_logged (by omega)]
    have hskip : s.nextStep m = State.startStep 2 (m + 1) (s.passOver m) := by
      rw [State.nextStep, State.startStep_succ, hp]
      rfl
    cases hq : (s.passOver m).passesOver (m + 1) with
    | false =>
      rw [State.nextStep_passes hp hq, State.startsStep_kept, Boot.started_of_room (by omega), s.passOver_kept,
        ← s.passOver_boot, hnext, hboot]
      refine ⟨[s.boot.entry m .skipped 0, _], _, _, _, by rw [List.append_assoc]; rfl,
        fun hf => absurd (hfailed.symm.trans hf) (by decide), fun hmem => absurd hmem hoptional.1, fun hmem _ hf' _ => ?_,
        fun hmem => absurd hmem hoptional.2⟩
      rw [hf', Bool.and_false]
      exact ⟨_, _, rfl, toNat_ofNat_step (by decide) (by omega), rfl, toNat_ofNat_step (by decide) (by omega), rfl, rfl,
        toNat_ofNat_step le_rfl (by omega)⟩
    | true =>
      obtain ⟨l, no, alt, state, hl⟩ := State.startStep_kept (s := s.passOver m) 2 (m + 1) (by omega)
      rw [hskip, hl, s.passOver_kept, ← s.passOver_boot, hboot]
      refine ⟨s.boot.entry m .skipped 0 :: l, no, alt, state, by rw [List.append_assoc]; rfl,
        fun hf => absurd (hfailed.symm.trans hf) (by decide), fun hmem => absurd hmem hoptional.1, fun _ _ hf' _ => ?_,
        fun hmem => absurd hmem hoptional.2⟩
      have hunskipped := State.passesOver_unfailed (s := s.passOver m) (hnext.trans hf')
      exact absurd (hq.symm.trans hunskipped) (by decide)

/-- It depends on the boot's own run only. -/
theorem Boot.Begins.congr {c : Boot} (hf : ∀ k, c.failedNormal k = b.failedNormal k) (hno : c.bootno = b.bootno)
    (hlost : b.lostRepair = false → c.lostRepair = false) {m : Nat} {l : List BootRec} {no : BitVec 4} {alt : Bool}
    (h : c.Begins m l no alt) : b.Begins m l no alt where
  normal := by simpa only [hf, hno] using h.normal
  alternate := by simpa only [hf] using h.alternate
  skipped := fun hm h1 h2 h3 => h.skipped hm ((hf m).trans h1) ((hf (m + 1)).trans h2) (hlost h3)
  required := h.required

/-! ### The step in progress ends well -/

/-- The record of the step that ends. -/
def State.doneEntry (s : State) (r : StepResult) : BootRec :=
  (s.onDone r).boot.entry s.boot.step.toNat (if s.boot.alt then .doneAlt else .done) r.detail

/-- The state once that record is written. -/
def State.ended (s : State) (r : StepResult) : State :=
  (s.onDone r).bootRec s.boot.step.toNat (if s.boot.alt then .doneAlt else .done) r.detail

theorem State.ended_kept {r : StepResult} (h : s.boot.journal.length < 4096) :
    (s.ended r).kept = { (s.onDone r).kept with boot := { (s.onDone r).boot with
      journal := s.boot.journal ++ [s.doneEntry r] } } := by
  obtain ⟨⟨hjournal, -⟩, -⟩ := s.onDone_sameRun r
  rw [State.ended, State.bootRec_kept, Boot.logged_of_room (by rwa [hjournal]), hjournal]
  rfl

theorem State.stepDone_kept {r : StepResult} (h : s.boot.journal.length + 5 ≤ 4096) (hn : s.boot.step.toNat < 14) :
    ∃ l no alt state, (s.stepDone r).kept = { (s.onDone r).kept with boot := { (s.onDone r).boot with
      journal := s.boot.journal ++ s.doneEntry r :: l, step := no, alt := alt, state := state } } ∧
      s.boot.Begins (s.boot.step.toNat + 1) l no alt := by
  obtain ⟨hrun, -, hlost⟩ := s.onDone_sameRun r
  obtain ⟨hjournal, hbootno, -⟩ := id hrun
  have hkept := State.ended_kept (s := s) (r := r) (by omega)
  have hboot : (s.ended r).boot = { (s.onDone r).boot with journal := s.boot.journal ++ [s.doneEntry r] } :=
    congrArg Kept.boot hkept
  have hfailed (k : Nat) : (s.ended r).boot.failedNormal k = s.boot.failedNormal k := by
    rw [State.ended, State.bootRec_boot, Boot.failedNormal_logged (by rw [hjournal]; omega), hrun.failedNormal]
  have hstep : s.stepDone r = (s.ended r).nextStep (s.boot.step.toNat + 1) := if_neg hn.ne
  obtain ⟨l, no, alt, state, hnext, hbegins⟩ := State.nextStep_begins (s := s.ended r) (m := s.boot.step.toNat + 1) (by omega)
    (by rw [hboot, List.length_append, List.length_singleton]; omega)
  refine ⟨l, no, alt, state, ?_, hbegins.congr hfailed (by rw [hboot]; exact hbootno) (by rw [hboot]; exact hlost)⟩
  rw [hstep, hnext, hkept, hboot, List.append_assoc]
  rfl

/-- Which copy step 2 selects (R584). -/
theorem State.selectCopy_valid {sel : Bool} (h : s.selectCopy = some sel) : s.copyValid sel = true ∧
    (sel = true → s.copyValid false = true → s.copySeq false < s.copySeq true) ∧
    (sel = false → s.copyValid true = true → s.copySeq true ≤ s.copySeq false) := by
  unfold State.selectCopy at h
  cases hA : s.copyValid false <;> cases hB : s.copyValid true <;> simp only [hA, hB] at h
  · cases h
  · cases h
    exact ⟨hB, fun _ h => absurd h (by decide), fun h => absurd h (by decide)⟩
  · cases h
    exact ⟨hA, fun h => absurd h (by decide), fun _ h => absurd h (by decide)⟩
  · cases h
    refine ⟨?_, fun hs _ => of_decide_eq_true hs, fun hs _ => Nat.le_of_not_lt (of_decide_eq_false hs)⟩
    cases decide (s.copySeq false < s.copySeq true)
    · exact hA
    · exact hB

theorem State.stepDone_last {r : StepResult} (h : s.boot.step.toNat = 14) : s.stepDone r = s.ended r := if_pos h

/-- Any step that ends well: its record, and how the next begins. -/
theorem State.stepDone_ends {r : StepResult} (h : s.boot.journal.length + 5 ≤ 4096) (hn : s.boot.step.toNat ≤ 14) :
    ∃ l no alt state, (s.stepDone r).kept = { (s.onDone r).kept with boot := { (s.onDone r).boot with
      journal := s.boot.journal ++ s.doneEntry r :: l, step := no, alt := alt, state := state } } ∧
      (s.boot.step.toNat = 14 → l = [] ∧ no = s.boot.step ∧ state = (s.onDone r).boot.state) ∧
      (s.boot.step.toNat ≠ 14 → s.boot.Begins (s.boot.step.toNat + 1) l no alt) := by
  by_cases h14 : s.boot.step.toNat = 14
  · obtain ⟨⟨-, -, -, -, hstep⟩, -⟩ := s.onDone_sameRun r
    rw [State.stepDone_last h14, State.ended_kept (by omega)]
    exact ⟨[], _, _, _, rfl, fun _ => ⟨rfl, hstep, rfl⟩, fun hne => absurd h14 hne⟩
  · obtain ⟨l, no, alt, state, hkept, hbegins⟩ := State.stepDone_kept (r := r) h (by omega)
    exact ⟨l, no, alt, state, hkept, fun h => absurd h h14, fun _ => hbegins⟩

theorem execBootStepDone_ends {r : StepResult} (hboot : s.booting = true)
    (hpin : s.boot.step.toNat = 5 → s.side.resetN = true) (hok : s.stepOk r = true) :
    exec (.bootStepDone r) s = .next (s.stepDone r) := by
  have hcan : s.stepCanEnd = true := by
    by_cases h5 : s.boot.step = 5
    · simp [State.stepCanEnd, hboot, hpin (by rw [h5]; rfl)]
    · rw [State.stepCanEnd, hboot, bne_iff_ne.2 h5]; rfl
  change execBootStepDone r s = _
  simp [execBootStepDone, hcan, hok]

/-- What step 2 needs: a copy to select, where one is to be selected. -/
theorem State.stepOk_two {r : StepResult} (hok : s.stepOk r = true) (hn : s.boot.step.toNat = 2)
    (hsel : s.boot.reselect = true) : ∃ sel, s.selectCopy = some sel := by
  rw [State.stepOk, hn, hsel] at hok
  exact Option.isSome_iff_exists.1 (by simpa using (Bool.and_eq_true_iff.1 hok).2)

/-! ### The effects of single steps -/

theorem State.onDone_select (h : s.boot.step.toNat = 2) (r : StepResult) :
    let sel := if s.boot.reselect then s.selectCopy.getD s.boot.copyB else s.boot.copyB
    (s.onDone r).boot = { s.boot with copyB := sel, reselect := false, cfg := some (s.copyCfg sel) } := by
  simp only [State.onDone, h]

theorem State.onDone_journals (h : s.boot.step.toNat = 4) (r : StepResult) : s.onDone r = s.readJournals := by
  simp only [State.onDone, h]

theorem State.onDone_release (h : s.boot.step.toNat = 6) (r : StepResult) :
    s.onDone r = { s with boot := { s.boot with inReset := false } }.loadIdentity := by
  simp only [State.onDone, h]

theorem State.onDone_telemetry (h : s.boot.step.toNat = 13) (r : StepResult) :
    s.onDone r = { s with boot := { s.boot with telemOn := true } } := by
  simp only [State.onDone, h]

theorem State.onDone_ready (h : s.boot.step.toNat = 14) (r : StepResult) :
    s.onDone r = { s with boot := { s.boot with state := .ready } }.sendIdentity := by
  simp only [State.onDone, h]

/-- The fields of the die's identity register (R605). -/
theorem dieFields {w x y : Nat} (hw : w < 32) (hx : x < 256) (hy : y < 256) :
    let die := (BitVec.ofNat 32 (w + x * 2 ^ 8 + y * 2 ^ 16 + stepping * 2 ^ 24)).toNat
    fieldAt die 0 5 = w ∧ fieldAt die 5 3 = 0 ∧ fieldAt die 8 8 = x ∧ fieldAt die 16 8 = y ∧ fieldAt die 24 8 = 0xB1 := by
  simp only [BitVec.toNat_ofNat, fieldAt, stepping]
  omega

end

/-- Settles O52: the step's effect leaves the boot's own records, the end adds one, and the next step begins by what the
previous boot left of it. -/
theorem bootStepsRunInOrder : Obligations.BootStepsRunInOrder := by
  unfold Obligations.BootStepsRunInOrder
  intro s r b n hboot hpin hok hroom hn
  obtain ⟨⟨-, hbootno, -, hfails, -⟩, hfuses, -⟩ := s.onDone_sameRun r
  obtain ⟨l, no, alt, state, hkept, hlast, hbegins⟩ := State.stepDone_ends (r := r) hroom hn
  have hu : (s.stepDone r).boot = { (s.onDone r).boot with
      journal := s.boot.journal ++ s.doneEntry r :: l, step := no, alt := alt, state := state } := congrArg Kept.boot hkept
  have begins {k : List Nat} (hmem : n + 1 ∈ k) (hk : 15 ∉ k) : s.boot.Begins (n + 1) l no alt :=
    hbegins fun (h14 : n = 14) => hk (by rwa [h14] at hmem)
  refine ⟨_, execBootStepDone_ends hboot hpin hok, (congrArg (fun k => k.stored.fuses) hkept).trans hfuses,
    by rw [hu]; exact hbootno, by rw [hu]; exact hfails,
    ⟨l, s.doneEntry r, by rw [hu], hbootno, toNat_ofNat_step (by decide) (by omega), rfl, rfl, fun h14 => ?last, fun hne hf => ?_,
      fun hmem hf => ?_, fun hmem hf hf' hlost => ?_, fun hmem => ?_⟩, fun h2 hsel => ?selects, fun h2 hsel => ?keeps, fun h6 => ?releases,
    fun h4 => ?reads, fun h13 => ?_, fun h14 => ?ready⟩
  case last =>
    obtain ⟨hl, hno, -⟩ := hlast h14
    exact ⟨hl, by rw [hu]; exact hno⟩
  · rw [hu]
    exact (hbegins hne).normal hf
  · rw [hu]
    exact (begins hmem (by decide)).alternate hmem hf
  · rw [hu]
    exact (begins hmem (by decide)).skipped hmem hf hf' hlost
  · rw [hu]
    exact (begins hmem (by decide)).required hmem
  case selects =>
    obtain ⟨sel, hcopy⟩ := State.stepOk_two hok h2 hsel
    have hB : (s.stepDone r).boot.copyB = sel := by
      rw [hu, State.onDone_select h2, hcopy]
      exact if_pos hsel
    refine ⟨⟨_, by rw [hu, State.onDone_select h2]⟩, ?_⟩
    rw [hB]
    exact State.selectCopy_valid hcopy
  case keeps =>
    rw [hu, State.onDone_select h2]
    exact if_neg (by rw [hsel]; decide)
  case releases =>
    rw [hu, State.onDone_release h6]
    exact ⟨rfl, rfl, rfl, dieFields (Nat.mod_lt _ (by decide)) s.fuses.diex.isLt s.fuses.diey.isLt⟩
  case reads =>
    have hpower : (s.stepDone r).power = (s.onDone r).power := congrArg Kept.power hkept
    rw [hu, hpower, State.onDone_journals h4]
    exact ⟨rfl, rfl, rfl⟩
  · rw [hu, State.onDone_telemetry h13]
  case ready =>
    obtain ⟨netQ, hsent⟩ := State.sendLom_net { s with boot := { s.boot with state := .ready } } 0x04 0 s.identity
    obtain ⟨netQ', f, hrec⟩ := (s.onDone r).bootRec_eq s.boot.step.toNat (if s.boot.alt then .doneAlt else .done) r.detail
    have hdone : s.onDone r = _ := (State.onDone_ready h14 r).trans hsent
    obtain ⟨-, -, hstate⟩ := hlast h14
    rw [hu, State.stepDone_last h14, State.ended, hrec, hdone]
    refine ⟨?_, _, List.mem_cons_of_mem _ (List.mem_cons_self ..), rfl, rfl⟩
    rw [hstate, hdone]

end Sys2Proof.Machine
end


section
/-!
SUPPORT. What the end of a job leaves of the journals of repairs and confirmed events, of the count of Lomtirel commands, and of
the status of the last job: memory writes, records of commands and of collectives touch none of them.
-/
namespace Sys2Proof.Machine
-- One declaration at a time keeps the compile of the whole text within its memory.
set_option Elab.async false
open Host

/-- The repair journal, the confirmed events, the count of Lomtirel commands and the end of the last job. -/
def State.ledger (s : State) : List Repair × List Confirmed × Word × Option JobEnd :=
  (s.integ.repairs, s.integ.confirmed, s.lom.rx, s.job.last)

theorem State.ledger_eq (s : State) : s.ledger = (s.integ.repairs, s.integ.confirmed, s.lom.rx, s.job.last) := rfl

theorem foldl_ledger {α : Type} {f : State → α → State} (h : ∀ s a, (f s a).ledger = s.ledger) (l : List α) (s : State) :
    (l.foldl f s).ledger = s.ledger := by
  induction l generalizing s with
  | nil => rfl
  | cons a l ih => exact (ih _).trans (h s a)

section
variable (s : State)

/-! ### Memory -/

@[simp] theorem State.wr_ledger (k : Nat) (bs : List Byte) : (s.wr k bs).ledger = s.ledger := by
  rw [s.wr_frame]
  rfl
@[simp] theorem State.wrFree_ledger (a n : Nat) : (s.wrFree a n).ledger = s.ledger := State.wr_ledger ..
@[simp] theorem State.serWr_ledger (a : Nat) (bs : List Byte) : (s.serWr a bs).ledger = s.ledger := by
  unfold State.serWr
  split
  · split
    · rfl
    · exact s.wr_ledger ..
  · rfl
@[simp] theorem State.hbmWr_ledger (a : Nat) (bs : List Byte) : (s.hbmWr a bs).ledger = s.ledger := by
  unfold State.hbmWr
  split
  · split
    · rfl
    · exact s.wr_ledger ..
  · rfl
@[simp] theorem State.serFree_ledger (a n : Nat) : (s.serFree a n).ledger = s.ledger := by
  unfold State.serFree
  split
  · exact s.wrFree_ledger ..
  · rfl
@[simp] theorem State.hostWr_ledger (p : PciePort) (a : Nat) (bs : List Byte) : (s.hostWr p a bs).ledger = s.ledger := by
  cases p <;> rfl
@[simp] theorem State.modCluster_ledger (c : ClusterId) (f : Cluster → Cluster) : (s.modCluster c f).ledger = s.ledger := rfl
@[simp] theorem State.modRouter_ledger (d : Die) (f : Router → Router) : (s.modRouter d f).ledger = s.ledger := rfl
@[simp] theorem State.modInst_ledger (k : Nat) (f : CollInst → CollInst) : (s.modInst k f).ledger = s.ledger := rfl
@[simp] theorem State.modFn_ledger (p : PciePort) (f : PciFn → PciFn) : (s.modFn p f).ledger = s.ledger := rfl
@[simp] theorem State.modQueue_ledger (q : Nat) (f : QPair → QPair) : (s.modQueue q f).ledger = s.ledger := rfl

/-! ### Serac commands and collectives -/

@[simp] theorem State.serPut_ledger (c : ClusterId) (r : SerRun) (o : SerOut) (addr : Nat) (data : List (Nat × List Byte)) :
    (s.serPut c r o addr data).ledger = s.ledger := by
  unfold State.serPut
  dsimp only
  split
  · rfl
  · rw [State.modCluster_ledger, State.serWr_ledger]
@[simp] theorem State.serPublish_ledger (c : ClusterId) (d : SerDesc) (o : SerOut) :
    (s.serPublish c d o).1.ledger = s.ledger := by
  unfold State.serPublish
  dsimp only
  repeat' split
  all_goals simp
@[simp] theorem State.serFinish_ledger (c : ClusterId) (r : SerRun) (o : SerOut) :
    (s.serFinish c r o).ledger = s.ledger := by
  have hrows (l : List (Nat × List Byte)) (s : State) : (l.foldl (fun s p => s.serWr p.1 p.2) s).ledger = s.ledger :=
    foldl_ledger (fun s p => s.serWr_ledger ..) l s
  unfold State.serFinish State.serEnd
  rw [State.modCluster_ledger, State.serPut_ledger, State.serPublish_ledger, hrows]
  split <;> rfl
@[simp] theorem State.serCancel_ledger (c : ClusterId) : (s.serCancel c).ledger = s.ledger := by
  refine foldl_ledger (fun s r => ?_) _ s
  split
  · exact foldl_ledger (fun s i => s.serPut_ledger ..) _ s
  · exact s.serFinish_ledger ..

@[simp] theorem State.endJob_ledger (status : Nat) (detail : Word) : (s.endJob status detail).ledger = s.ledger := by
  unfold State.endJob
  split <;> rfl

@[simp] theorem State.collEnd_ledger (k : Nat) (c : CollInst) (d : CollDecl) (t : Topo) (status : Nat) :
    (s.collEnd k c d t status).ledger = s.ledger := by
  have kept (l : List (Nat × List Byte)) (s : State) : (l.foldl (fun s w => s.hbmWr w.1 w.2) s).ledger = s.ledger :=
    foldl_ledger (fun s w => s.hbmWr_ledger ..) l s
  unfold State.collEnd
  dsimp only
  split
  · split
    · split
      · rw [State.ledger_eq]
        dsimp only
        rw [← State.ledger_eq]
        simp
      · simp
    · simp
  · rw [State.endJob_ledger]
    split
    · simp [kept]
    · simp

@[simp] theorem State.cancelColls_ledger : s.cancelColls.ledger = s.ledger := by
  refine foldl_ledger (fun s k => ?_) _ s
  split
  · rfl
  · split
    · split
      · exact s.collEnd_ledger ..
      · rfl
    · rfl

/-- Halting the units touches neither the journals nor the last end. -/
theorem State.halted_ledger (f : Tile → Tile) (g : Cluster → Cluster) :
    ({ s with
      tiles := s.tiles.map f
      clusters := s.clusters.map g
      integ := { s.integ with testOn := false, testRun := false }
      job := { s.job with running := false, launched := false, imports := [] } } : State).ledger = s.ledger := rfl

@[simp] theorem State.stopUnits_ledger : s.stopUnits.ledger = s.ledger := by
  have hcancel := foldl_ledger (fun (s : State) (c : ClusterId) => s.serCancel_ledger c) [0, 1, 2, 3, 4, 5, 6, 7] s
  exact (State.halted_ledger _ _ _).trans ((State.cancelColls_ledger _).trans hcancel)

/-! ### Commands -/

theorem State.setCommitted_ouvzu (h status : Nat) (r0 r1 : Word) : ∃ o, s.setCommitted h status r0 r1 = { s with ouvzu := o } := by
  unfold State.setCommitted
  split
  · exact ⟨_, rfl⟩
  · split
    · exact ⟨_, rfl⟩
    · exact ⟨_, rfl⟩

@[simp] theorem State.setCommitted_ledger (h status : Nat) (r0 r1 : Word) : (s.setCommitted h status r0 r1).ledger = s.ledger := by
  obtain ⟨o, ho⟩ := s.setCommitted_ouvzu h status r0 r1
  rw [ho]
  rfl

@[simp] theorem State.sendLom_ledger (ty : BitVec 8) (refseq : BitVec 32) (payload : List Byte) :
    (s.sendLom ty refseq payload).ledger = s.ledger := by
  obtain ⟨netQ, h⟩ := s.sendLom_net ty refseq payload
  rw [h]
  rfl

@[simp] theorem State.cqWrite_ledger (q : QPair) (c : Cmd) : (s.cqWrite q c).ledger = s.ledger := by
  obtain ⟨o, h, -⟩ := s.cqWrite_eq q c
  rw [h]
  exact s.hostWr_ledger ..

@[simp] theorem State.writeRecord_ledger (c : Cmd) : (s.writeRecord c).ledger = s.ledger := by
  unfold State.writeRecord
  dsimp only
  split
  · split
    · exact State.sendLom_ledger ..
    · rfl
  · split
    · rfl
    · split
      · split <;> rfl
      · split
        · exact State.cqWrite_ledger ..
        · rfl

theorem State.flushUpTo_ledger (n : Nat) : (State.flushUpTo n s).ledger = s.ledger := by
  induction n generalizing s with
  | zero => rfl
  | succ n ih =>
    rw [State.flushUpTo]
    split
    · exact (ih _).trans (s.writeRecord_ledger _)
    · rfl

@[simp] theorem State.flush_ledger : s.flush.ledger = s.ledger := s.flushUpTo_ledger _

@[simp] theorem State.ouvzu_ledger (o : Ouvzu) : ({ s with ouvzu := o } : State).ledger = s.ledger := rfl

@[simp] theorem State.dropQueues_ledger (p : PciePort) : (s.dropQueues p).ledger = s.ledger := rfl

@[simp] theorem State.adminPair_ledger (p : PciePort) : (s.adminPair p).ledger = s.ledger := by
  unfold State.adminPair
  dsimp only
  split <;> rfl

@[simp] theorem State.finishClose_ledger (k : Closing) (p : PciePort) : (s.finishClose k p).ledger = s.ledger := by
  obtain ⟨handle, port, qid, clear, count⟩ := k
  unfold State.finishClose
  dsimp only
  cases handle <;> cases clear
  · simp
  · dsimp only
    split
    · split <;> simp
    · simp
  · simp
  · dsimp only
    split
    · split <;> simp
    · simp

theorem State.settleUpTo_ledger (n : Nat) : (State.settleUpTo n s).ledger = s.ledger := by
  induction n generalizing s with
  | zero => rfl
  | succ n ih =>
    rw [State.settleUpTo]
    split
    · split
      · split
        · exact (ih _).trans (s.endJob_ledger ..)
        · exact (ih _).trans (s.finishClose_ledger ..)
      · rfl
    · rfl

@[simp] theorem State.settle_ledger : s.settle.ledger = s.ledger := (State.settleUpTo_ledger _ _).trans rfl

/-! ### The end of a job -/

theorem State.clearJob_lom : s.clearJob.lom = s.lom := rfl

theorem State.clearJob_integ : s.clearJob.integ = s.integ := rfl

theorem State.completeWaits_ledger (e : JobEnd) : (s.completeWaits e).ledger = s.ledger := by
  rw [State.completeWaits, State.settle_ledger, State.flush_ledger]
  exact foldl_ledger (fun s c => s.setCommitted_ledger ..) _ s

theorem State.last_ledger (e : JobEnd) :
    ({ s with job := { s.job with last := some e } } : State).ledger = (s.integ.repairs, s.integ.confirmed, s.lom.rx, some e) := rfl

/-- The end of a job is the last one's; the journals stay. -/
theorem State.endNow_ledger (e : JobEnd) : (s.endNow e).ledger = (s.integ.repairs, s.integ.confirmed, s.lom.rx, some e) := by
  have hcancel : s.stopUnits.cancelJobCmds.ledger = s.ledger :=
    (foldl_ledger (fun s c => State.setCommitted_ledger ..) _ _).trans s.stopUnits_ledger
  rw [State.ledger_eq, State.ledger_eq, Prod.mk.injEq, Prod.mk.injEq, Prod.mk.injEq] at hcancel
  obtain ⟨hrep, hconf, hrx, -⟩ := hcancel
  rw [State.endNow, State.completeWaits_ledger, State.last_ledger, State.clearJob_integ, State.clearJob_lom, hrep, hconf, hrx]

end
end Sys2Proof.Machine
end


section
/-!
SUPPORT. What a reset of the dies leaves (R581, R582), and the obligation on resets and power-on.
-/
namespace Sys2Proof.Machine
-- One declaration at a time keeps the compile of the whole text within its memory.
set_option Elab.async false
open Host

/-- The routers' queues, the boot and the frames the SMC sent apart, one state is the other. -/
def State.onlySmc (s u : State) : Prop := u = { s with
  routers := u.routers, boot := u.boot, lom := { s.lom with sent := u.lom.sent, seq := u.lom.seq, tx := u.lom.tx } }

/-- What a reset of the dies leaves, and what it empties (R581). -/
abbrev State.survives (s u : State) : Prop := u.boot.inReset = true ∧ u.gtc.count = s.gtc.count ∧ u.nor = s.nor ∧ u.fuses = s.fuses ∧
  u.power.coreOfs = s.power.coreOfs ∧ u.integ.repairs = s.integ.repairs ∧ u.integ.confirmed = s.integ.confirmed ∧
  u.mem = [] ∧ u.job.image = none ∧ (∀ t, u.tile t = State.reset.tile t) ∧ (∀ c, u.cluster c = State.reset.cluster c)

section
variable {s u v : State}

theorem State.onlySmc.eq (h : s.onlySmc u) : u = { s with
    routers := u.routers, boot := u.boot, lom := { s.lom with sent := u.lom.sent, seq := u.lom.seq, tx := u.lom.tx } } := h

theorem State.onlySmc.trans (h : s.onlySmc u) (h' : u.onlySmc v) : s.onlySmc v := by
  unfold State.onlySmc at *
  rw [h', h]

theorem State.onlySmc.of_eq {r : Vector Router 2} {b : Boot} {sent : List LomFrame} {seq : BitVec 32} {tx : Word}
    (h : u = { s with routers := r, boot := b, lom := { s.lom with sent := sent, seq := seq, tx := tx } }) : s.onlySmc u := by
  subst h
  rfl

theorem State.onlySmc.integ (h : s.onlySmc u) : u.integ = s.integ := by rw [h.eq]
theorem State.onlySmc.job (h : s.onlySmc u) : u.job = s.job := by rw [h.eq]
theorem State.onlySmc.power (h : s.onlySmc u) : u.power = s.power := by rw [h.eq]
theorem State.onlySmc.rx (h : s.onlySmc u) : u.lom.rx = s.lom.rx := by rw [h.eq]
theorem State.onlySmc.port (h : s.onlySmc u) (p : PortId) : u.port p = s.port p := by
  rw [h.eq]
  rfl

/-! ### Boot steps and device resets -/

theorem State.bootRec_onlySmc (s : State) (step : Nat) (res : BootRes) (detail : BitVec 16) : s.onlySmc (s.bootRec step res detail) := by
  obtain ⟨netQ, f, h⟩ := s.bootRec_eq step res detail
  exact .of_eq h

/-- Steps 9, 11 and 14 do something as they begin; the others do not. -/
theorem State.nextStep_quiet {step : Nat} (h : isOptional step = false) (h9 : step ≠ 9) (h14 : step ≠ 14) :
    s.onlySmc (s.nextStep step) ∧ (s.nextStep step).boot = s.boot.started step := by
  have h11 : step ≠ 11 := by
    rintro rfl
    exact absurd h (by decide)
  rw [State.nextStep_starts (State.passesOver_required h)]
  refine ⟨?_, s.startsStep_boot step⟩
  rw [State.startsStep, State.onStart, if_neg h9, if_neg h11, if_neg h14]
  obtain ⟨netQ, f, hrec⟩ := State.bootRec_eq { s with boot := { s.boot with
    step := BitVec.ofNat 4 step, alt := hasAlternate step && s.boot.failedNormal step
    state := if step ≤ 3 then .rom else .booting } } step .started (if hasAlternate step && s.boot.failedNormal step then 1 else 0)
  exact .of_eq hrec

/-- A device reset begins a boot at step 1 (R581, R604). -/
theorem State.deviceReset_begins (s : State) (cause : BitVec 3) :
    s.onlySmc (s.deviceReset cause) ∧ (s.deviceReset cause).boot.step = 1 ∧ (s.deviceReset cause).boot.state = .rom ∧
      (s.deviceReset cause).boot.rstcause = cause ∧ (s.deviceReset cause).boot.inReset = s.boot.inReset ∧
      (s.deviceReset cause).boot.reselect = s.boot.reselect := by
  obtain ⟨honly, hboot⟩ := State.nextStep_quiet (step := 1)
    (s := { s with boot := { s.boot with
      rstcause := cause
      bootno := BitVec.ofNat 32 (highestBoot s.boot.journal + 1)
      attempt := BitVec.ofNat 8 (min 4 (s.boot.attempt.toNat + 1))
      jlost := false, noPrev := false, lostHist := false, telemOn := false } }) rfl (by decide) (by decide)
  have hb : (s.deviceReset cause).boot = _ := hboot
  rw [hb]
  exact ⟨.of_eq honly, rfl, rfl, rfl, rfl, rfl⟩

/-! ### The dies in reset -/

theorem State.holdDies_survives (s : State) (down : Bool) : s.survives (s.holdDies down) :=
  ⟨rfl, rfl, rfl, rfl, rfl, rfl, rfl, rfl, rfl, fun _ => rfl, fun _ => rfl⟩

theorem State.survives.onlySmc (h : s.survives u) (hs : u.onlySmc v) (hb : v.boot.inReset = u.boot.inReset) : s.survives v := by
  unfold State.onlySmc at hs
  obtain ⟨hreset, hrest⟩ := h
  exact ⟨hb.trans hreset, by rw [hs]; exact hrest⟩

theorem State.survives.powerFlt (h : s.survives u) : s.survives { u with power := { u.power with powerFlt := true } } := h

/-- What is left of a later state is left of an earlier one. -/
theorem State.survives.of_kept (h : s.survives u) (hkept : v.kept.rest = s.kept.rest) (hfuses : v.fuses = s.fuses)
    (hrep : s.integ.repairs = v.integ.repairs) (hconf : s.integ.confirmed = v.integ.confirmed) : v.survives u := by
  obtain ⟨h1, h2, h3, h4, h5, h6, h7, hrest⟩ := h
  have hnor : v.nor = s.nor := congrArg Prod.fst hkept
  have hpower : v.power = s.power := congrArg (fun r => r.2.2.1) hkept
  have hcount : v.gtc.count = s.gtc.count := congrArg (fun r => r.2.2.2.2.2) hkept
  exact ⟨h1, by rw [hcount, h2], by rw [hnor, h3], by rw [hfuses, h4], by rw [hpower, h5], by rw [← hrep, h6], by rw [← hconf, h7],
    hrest⟩

theorem State.holdDies_outbox (s : State) (p : PortId) : ((s.holdDies false).port p).outbox = [] := by
  have hport : (s.holdDies false).port p = (s.port p).held_ false := Vector.getElem_map ..
  rw [hport]
  rfl

/-! ### The SMC ends the job and resets the dies -/

/-- The job ended, where one runs. -/
def State.jobStopped (s : State) (cause : Nat) : State :=
  if s.job.image.isSome then
    s.endNow ((s.endJob 8 (BitVec.ofNat 64 cause)).job.pending.getD ⟨8, BitVec.ofNat 64 cause⟩)
  else s

/-- DOWN frames sent on every port. -/
def State.sentDown (s : State) : State :=
  [0, 1, 2, 3, 4, 5, 6, 7, 8, 9, 10, 11, 12, 13, 14, 15, 16, 17, 18, 19].foldl (fun (s : State) (p : PortId) => s.sendDown p) s

theorem State.smcReset_eq (s : State) (cause : Nat) : s.smcReset cause = ((s.jobStopped cause).sentDown).holdDies true := rfl

theorem foldl_sendDown_ports (l : List PortId) (s : State) :
    ∃ ports, l.foldl (fun (s : State) (p : PortId) => s.sendDown p) s = { s with ports := ports } := by
  induction l generalizing s with
  | nil => exact ⟨s.ports, rfl⟩
  | cons p l ih =>
    obtain ⟨f, hsend, -⟩ := s.sendDown_eq p
    obtain ⟨ports, hrest⟩ := ih (s.sendDown p)
    exact ⟨ports, by rw [List.foldl_cons, hrest, hsend]; rfl⟩

theorem State.sentDown_ports (s : State) : ∃ ports, s.sentDown = { s with ports := ports } := foldl_sendDown_ports _ s

theorem State.jobStopped_idle (h : s.job.image = none) (cause : Nat) : s.jobStopped cause = s := by
  rw [State.jobStopped, h]
  rfl

theorem State.jobStopped_keeps (s : State) (cause : Nat) :
    s.kept.Keeps True (s.jobStopped cause).kept ∧ (s.jobStopped cause).integ.repairs = s.integ.repairs ∧
      (s.jobStopped cause).integ.confirmed = s.integ.confirmed ∧ (s.jobStopped cause).lom.rx = s.lom.rx := by
  unfold State.jobStopped
  split
  · have hled := s.endNow_ledger ((s.endJob 8 (BitVec.ofNat 64 cause)).job.pending.getD ⟨8, BitVec.ofNat 64 cause⟩)
    rw [State.ledger_eq, Prod.mk.injEq, Prod.mk.injEq, Prod.mk.injEq] at hled
    obtain ⟨hrep, hconf, hrx, -⟩ := hled
    exact ⟨State.endNow_keeps (.refl True s.kept) _, hrep, hconf, hrx⟩
  · exact ⟨.refl True s.kept, rfl, rfl, rfl⟩

/-- A job that no end is noted of ends with the SMC's cause. -/
theorem State.jobStopped_last (himage : s.job.image.isSome = true) (hpending : s.job.pending = none) (cause : Nat) :
    (s.jobStopped cause).job.last = some ⟨8, BitVec.ofNat 64 cause⟩ := by
  have hend : (s.endJob 8 (BitVec.ofNat 64 cause)).job.pending.getD ⟨8, BitVec.ofNat 64 cause⟩ = ⟨8, BitVec.ofNat 64 cause⟩ := by
    rw [State.endJob, himage, hpending]
    rfl
  have hled := s.endNow_ledger ⟨8, BitVec.ofNat 64 cause⟩
  rw [State.ledger_eq, Prod.mk.injEq, Prod.mk.injEq, Prod.mk.injEq] at hled
  obtain ⟨-, -, -, hlast⟩ := hled
  rw [State.jobStopped, if_pos himage, hend, hlast]

theorem State.smcReset_survives (s : State) (cause : Nat) : s.survives (s.smcReset cause) := by
  obtain ⟨ports, hdown⟩ := (s.jobStopped cause).sentDown_ports
  obtain ⟨hkeep, hrep, hconf, -⟩ := s.jobStopped_keeps cause
  have hkept : (s.jobStopped cause).sentDown.kept = (s.jobStopped cause).kept := by
    rw [hdown]
    rfl
  have hinteg : (s.jobStopped cause).sentDown.integ = (s.jobStopped cause).integ := by rw [hdown]
  have hfuses : (s.jobStopped cause).sentDown.fuses = (s.jobStopped cause).fuses := by rw [hdown]
  rw [State.smcReset_eq]
  refine (State.holdDies_survives _ true).of_kept ?_ ?_ ?_ ?_
  · rw [hkept, hkeep.rest trivial]
  · exact (hfuses.trans hkeep.fuses).symm
  · rw [hinteg, hrep]
  · rw [hinteg, hconf]

/-- The SMC's own state but for the reset. -/
theorem State.smcReset_boot (s : State) (cause : Nat) :
    (s.smcReset cause).boot = { s.boot with inReset := true, telemOn := false } ∧ (s.smcReset cause).side = s.side := by
  obtain ⟨ports, hdown⟩ := (s.jobStopped cause).sentDown_ports
  obtain ⟨hkeep, -⟩ := s.jobStopped_keeps cause
  have hrest := hkeep.rest trivial
  have hboot : (s.jobStopped cause).boot = s.boot := congrArg (fun r => r.2.1) hrest
  have hside : (s.jobStopped cause).side = s.side := congrArg (fun r => r.2.2.2.1) hrest
  rw [State.smcReset_eq, hdown, ← hboot, ← hside]
  exact ⟨rfl, rfl⟩

theorem State.smcReset_last (himage : s.job.image.isSome = true) (hpending : s.job.pending = none) (cause : Nat) :
    (s.smcReset cause).job.last = some ⟨8, BitVec.ofNat 64 cause⟩ := by
  obtain ⟨ports, hdown⟩ := (s.jobStopped cause).sentDown_ports
  rw [State.smcReset_eq, hdown, ← State.jobStopped_last himage hpending cause]
  rfl

theorem State.smcReset_idle (h : s.job.image = none) (cause : Nat) :
    ∃ ports, s.smcReset cause = State.holdDies { s with ports := ports } true := by
  obtain ⟨ports, hdown⟩ := s.sentDown_ports
  exact ⟨ports, by rw [State.smcReset_eq, State.jobStopped_idle h, hdown]⟩

/-! ### RESET_N and power faults -/

/-- The state once RESET_N is low. -/
abbrev State.pinned (s : State) (x : Bool) : State := { s with side := { s.side with resetN := x } }

/-- The records of a step aborted and of step 5 begun. -/
theorem State.aborted_only (s : State) (n : Nat) (hroom : s.boot.journal.length + 2 ≤ 4096) :
    let u := (s.bootRec n .aborted 0).nextStep 5
    s.onlySmc u ∧ u.boot = { s.boot with
        step := 5, alt := false, state := .booting
        journal := s.boot.journal ++ [s.boot.entry n .aborted 0, s.boot.entry 5 .started 0] } := by
  obtain ⟨honly, hboot⟩ := State.nextStep_quiet (s := s.bootRec n .aborted 0) (step := 5) rfl (by decide) (by decide)
  refine ⟨(s.bootRec_onlySmc ..).trans honly, hboot.trans ?_⟩
  have hrec := (s.bootRec_boot n .aborted 0).trans (Boot.logged_of_room (by omega) n .aborted 0)
  rw [hrec, Boot.started_of_room (by rw [List.length_append, List.length_singleton]; omega), List.append_assoc]
  rfl


/-- The dies held in reset by RESET_N, which sends no DOWN frames. -/
def State.heldByPin (s : State) : State :=
  { (s.pinned false).holdDies false with boot := { ((s.pinned false).holdDies false).boot with rstcause := 1 } }

theorem State.heldByPin_survives (s : State) : s.survives s.heldByPin :=
  (State.holdDies_survives (s.pinned false) false).onlySmc (.of_eq rfl) rfl

theorem State.heldByPin_outbox (s : State) (p : PortId) : (s.heldByPin.port p).outbox = [] :=
  (s.pinned false).holdDies_outbox p

/-- A step from 6 on is aborted, and the boot resumes at step 5 (R582). -/
theorem execResetNAssert_aborts (h : s.booting = true) (hn : 6 ≤ s.boot.step.toNat) (hroom : s.boot.journal.length + 2 ≤ 4096) :
    ∃ u, exec .resetNAssert s = .next u ∧ s.heldByPin.onlySmc u ∧ u.boot = { s.heldByPin.boot with
      step := 5, alt := false, state := .booting
      journal := s.boot.journal ++ [s.boot.entry s.boot.step.toNat .aborted 0, s.boot.entry 5 .started 0] } := by
  have hpin : (s.pinned false).booting = true := h
  refine ⟨_, ?_, s.heldByPin.aborted_only s.boot.step.toNat hroom⟩
  exact (if_pos hpin).trans (if_neg (show ¬ s.boot.step.toNat ≤ 5 by omega))

theorem State.not_booting_of_ready (h : s.boot.state = .ready) : s.booting = false := by
  rw [State.booting, h]
  rfl

/-- A READY device boots anew (R582). -/
theorem execResetNAssert_restarts (h : s.boot.state = .ready) (hup : s.side.aonPwrgd = true) :
    exec .resetNAssert s = .next (((s.pinned false).holdDies false).deviceReset 1) := by
  have hpin : (s.pinned false).booting = false := State.not_booting_of_ready h
  have hready : ((s.pinned false).boot.state == .ready && (s.pinned false).side.aonPwrgd) = true := by
    change (s.boot.state == .ready && s.side.aonPwrgd) = true
    rw [h, hup]
    rfl
  exact (if_neg (by rw [hpin]; decide)).trans (if_pos hready)

/-- Nothing to reset: no boot beyond its ROM, and no READY device. -/
theorem execResetNAssert_ignored (h : s.boot.state = .bootFail ∨ s.boot.state = .recovery ∨ s.side.aonPwrgd = false) :
    exec .resetNAssert s = .next (s.pinned false) := by
  have hboot : s.booting = false := by
    rw [State.booting]
    obtain h | h | h := h <;> rw [h]
    · rfl
    · rfl
    · rw [Bool.and_false]
  have hready : (s.boot.state == .ready && s.side.aonPwrgd) = false := by
    obtain h | h | h := h <;> rw [h]
    · rfl
    · rfl
    · rw [Bool.and_false]
  have hpin : ¬ (s.pinned false).booting = true := by
    change ¬ s.booting = true
    rw [hboot]
    decide
  exact (if_neg hpin).trans (if_neg (show ¬ (s.boot.state == .ready && s.side.aonPwrgd) = true by rw [hready]; decide))

/-- Step 5 ends: no power fault is left, and step 6 begins (R587). -/
theorem State.stepDone_five (h : s.boot.step.toNat = 5) (r : StepResult) :
    let x : State := { s with power := { s.power with powerFlt := false } }
    x.onlySmc (s.stepDone r) ∧ (s.stepDone r).boot.step = 6 ∧ (s.stepDone r).boot.bootno = s.boot.bootno := by
  intro x
  have hdone : s.onDone r = x := by simp only [State.onDone, h]; rfl
  have hstep : s.stepDone r = (x.bootRec s.boot.step.toNat (if s.boot.alt then .doneAlt else .done) r.detail).nextStep 6 := by
    rw [State.stepDone, hdone, h]
    rfl
  obtain ⟨honly, hu⟩ := State.nextStep_quiet (step := 6)
    (s := x.bootRec s.boot.step.toNat (if s.boot.alt then .doneAlt else .done) r.detail) rfl (by decide) (by decide)
  rw [hstep, hu, State.bootRec_boot]
  exact ⟨(x.bootRec_onlySmc ..).trans honly, rfl, rfl⟩

/-- A boot that waits in step 5 goes on to step 6. -/
theorem execResetNRelease_goesOn (hboot : s.booting = true) (h5 : s.boot.step = 5) : ∃ u, exec .resetNRelease s = .next u ∧
    u.side.resetN = true ∧ u.boot.step = 6 ∧ u.power.powerFlt = false ∧ u.boot.bootno = s.boot.bootno := by
  obtain ⟨honly, hstep, hno⟩ := State.stepDone_five (s := s.pinned true) (show s.boot.step.toNat = 5 by rw [h5]; rfl)
    ⟨true, 0, [], false, false, []⟩
  have hwaits : ((s.pinned true).booting && (s.pinned true).boot.step == 5) = true := by
    change (s.booting && s.boot.step == 5) = true
    rw [hboot, h5]
    rfl
  exact ⟨_, congrArg Outcome.next (if_pos hwaits), by rw [honly], hstep, by rw [honly], hno⟩

theorem execResetNRelease_rises (h : s.booting = false ∨ s.boot.step ≠ 5) : exec .resetNRelease s = .next (s.pinned true) := by
  have hwaits : ¬ ((s.pinned true).booting && (s.pinned true).boot.step == 5) = true := by
    change ¬ (s.booting && s.boot.step == 5) = true
    rw [Bool.and_eq_true, beq_iff_eq]
    rintro ⟨hboot, h5⟩
    exact h.elim (fun h => absurd (hboot.symm.trans h) (by decide)) fun h => h h5
  exact congrArg Outcome.next (if_neg hwaits)

/-- A power fault stops the job and resets the dies (R567). -/
def State.faulted (s : State) : State :=
  let u := (s.smcReport 0x22 0x22 0).smcReset 0x22
  { u with power := { u.power with powerFlt := true } }

theorem execPowerFault_eq (hup : s.side.aonPwrgd = true) : exec .powerFault s = .next
    (if s.faulted.boot.state == .recovery || s.faulted.boot.state == .bootFail then s.faulted else s.faulted.deviceReset 3) := by
  refine (if_neg (by rw [hup]; decide)).trans ?_
  exact (apply_ite Outcome.next ..).symm

theorem State.smcReport_net (s : State) (cause : Nat) (d0 d1 : Word) : ∃ netQ lom, s.smcReport cause d0 d1 = { s with
    routers := (s.modRouter .west fun r => { r with netQ := netQ }).routers, lom := lom
    integ := { s.integ with evSeq := s.integ.evSeq + 1, evreps := s.integ.evreps + 1 } } := State.report_net ..

theorem State.faulted_survives (s : State) : s.survives s.faulted := by
  obtain ⟨netQ, lom, hrep⟩ := s.smcReport_net 0x22 0x22 0
  have hreset := (s.smcReport 0x22 0x22 0).smcReset_survives 0x22
  exact (hreset.of_kept (by rw [hrep]; rfl) (by rw [hrep]) (by rw [hrep]) (by rw [hrep])).powerFlt

theorem State.faulted_evSeq (h : s.job.image = none) : s.faulted.integ.evSeq = s.integ.evSeq + 1 := by
  obtain ⟨netQ, lom, hrep⟩ := s.smcReport_net 0x22 0x22 0
  obtain ⟨ports, hreset⟩ := State.smcReset_idle (s := s.smcReport 0x22 0x22 0) (by rw [hrep]; exact h) 0x22
  rw [State.faulted, hreset, hrep]
  rfl

theorem State.faulted_last (himage : s.job.image.isSome = true) (hpending : s.job.pending = none) :
    s.faulted.job.last = some ⟨8, 0x22⟩ := by
  obtain ⟨netQ, lom, hrep⟩ := s.smcReport_net 0x22 0x22 0
  exact State.smcReset_last (s := s.smcReport 0x22 0x22 0) (by rw [hrep]; exact himage) (by rw [hrep]; exact hpending) 0x22

theorem State.faulted_state (s : State) : s.faulted.boot.state = s.boot.state := by
  obtain ⟨netQ, lom, hrep⟩ := s.smcReport_net 0x22 0x22 0
  obtain ⟨hboot, -⟩ := (s.smcReport 0x22 0x22 0).smcReset_boot 0x22
  have hb : s.faulted.boot = ((s.smcReport 0x22 0x22 0).smcReset 0x22).boot := rfl
  rw [hb, hboot, hrep]

/-! ### AON resets and powered time -/

/-- An AON reset cuts a NOR operation short, where it writes and nowhere else. -/
theorem State.cutNorOp_outside (s : State) {o : NorOp} (ho : s.lom.norOp = some o) {a : Nat} (h : a < o.addr ∨ o.addr + o.data.length ≤ a) :
    Memory.read 0xFF s.cutNorOp.nor a = Memory.read 0xFF s.nor a := by
  have hcut : s.cutNorOp.nor = Memory.writeBytes 0xFF s.nor o.addr (tab o.data.length fun i => Config.freeByte s.takeFree.1 i) := by
    rw [State.cutNorOp, ho]
  rw [hcut, Memory.read_writeBytes, tab_length, if_neg (by omega)]

/-- It touches nothing but NOR and the model's own supply of unspecified values. -/
theorem State.cutNorOp_only (s : State) : ∃ nor free, s.cutNorOp = { s with nor := nor, free := free } := by
  unfold State.cutNorOp
  split
  · exact ⟨s.nor, s.free, rfl⟩
  · exact ⟨_, _, rfl⟩

theorem State.cutNorOp_none (h : s.lom.norOp = none) : s.cutNorOp = s := by
  rw [State.cutNorOp, h]

/-! ### PERST -/

/-- The state once a PERST line is high. -/
def State.perstUp (s : State) (p : PciePort) : State := s.modFn p fun f => { f with perst := true }

/-- Whether the port is then trained. -/
def State.trains (s : State) (p : PciePort) : Bool :=
  (s.boot.state == .ready || (s.booting && decide (10 ≤ s.boot.step.toNat))) && !s.boot.inReset && (s.perstUp p).wantsPcie p

theorem State.perstUp_fn (s : State) (p : PciePort) : (s.perstUp p).fn p = { s.fn p with perst := true } := s.fn_modFn p _

theorem State.fn_modFn_pcieOther (s : State) (p : PciePort) (f : PciFn → PciFn) : (s.modFn p f).fn (pcieOther p) = s.fn (pcieOther p) := by
  cases p <;> simp [State.fn, State.modFn, pcieOther, pcieIx]

theorem State.trains_connected {p : PciePort} {c : CfgBlock} (hcfg : s.boot.cfg = some c)
    (hconn : (match p with | .a => c.connA | .b => c.connB) = true) (hready : s.boot.state = .ready) (hup : s.boot.inReset = false) :
    s.trains p = true := by
  have hwants : (s.perstUp p).wantsPcie p = true := by
    have hcfg' : (s.perstUp p).boot.cfg = some c := hcfg
    unfold State.wantsPcie
    rw [hcfg', s.perstUp_fn]
    cases p <;> exact Bool.and_eq_true_iff.2 ⟨hconn, rfl⟩
  rw [State.trains, hready, hup, hwants]
  rfl

theorem State.trains_unconnected {p : PciePort} (h : s.boot.cfg = none ∨ s.boot.inReset = true) : s.trains p = false := by
  obtain h | h := h
  · have hcfg : (s.perstUp p).boot.cfg = none := h
    have hwants : (s.perstUp p).wantsPcie p = false := by
      unfold State.wantsPcie
      rw [hcfg]
      rfl
    rw [State.trains, hwants, Bool.and_false]
  · rw [State.trains, h, Bool.not_true, Bool.and_false, Bool.false_and]

end

/-- Settles O54: the dies in reset lose what they hold and nothing more, and what follows is the SMC's own work. -/
theorem resetsLeaveWhatTheyMust : Obligations.ResetsLeaveWhatTheyMust := by
  unfold Obligations.ResetsLeaveWhatTheyMust
  intro s pin kept
  refine ⟨fun hboot hn => ?early, fun hboot hn hroom => ?aborts, fun hready hup => ?restarts, fun hno => ?ignored, fun hboot h5 => ?goesOn,
    fun hno => ?rises, fun hup => ?fault, fun hdown => ?noFault, ?aon, fun hdown => ?power, fun hup => ?powered, fun hup => ?ptime,
    fun p => ?perst⟩
  case early =>
    have hpin : (s.pinned false).booting = true := hboot
    exact (if_pos hpin).trans (if_pos hn)
  case aborts =>
    obtain ⟨u, hexec, honly, hu⟩ := execResetNAssert_aborts hboot hn hroom
    have hsurv := s.heldByPin_survives.onlySmc honly (by rw [hu])
    have hbox (p : PortId) : (u.port p).outbox = [] := by
      rw [show u.port p = s.heldByPin.port p by rw [honly]; rfl]
      exact s.heldByPin_outbox p
    refine ⟨u, _, _, hexec, hsurv, by rw [honly]; rfl, by rw [honly]; rfl, by rw [honly]; rfl, by rw [hu], by rw [hu]; rfl, by rw [hu]; rfl,
      by rw [hu], rfl, toNat_ofNat_step (n := 8) (m := s.boot.step.toNat) (by decide) (by omega), rfl, rfl, hbox⟩
  case restarts =>
    obtain ⟨honly, hstep, hstate, hcause, hreset, -⟩ := State.deviceReset_begins ((s.pinned false).holdDies false) 1
    have hsurv : s.survives _ := (State.holdDies_survives (s.pinned false) false).onlySmc honly hreset
    refine ⟨_, execResetNAssert_restarts hready hup, hsurv, by rw [honly]; rfl, hstep, hstate, hcause, fun p => ?_⟩
    rw [show (((s.pinned false).holdDies false).deviceReset 1).port p = ((s.pinned false).holdDies false).port p by rw [honly]; rfl]
    exact State.holdDies_outbox _ p
  case ignored => exact execResetNAssert_ignored hno
  case goesOn => exact execResetNRelease_goesOn hboot h5
  case rises => exact execResetNRelease_rises hno
  case fault =>
    rw [execPowerFault_eq hup]
    split
    next hwait =>
      rw [s.faulted_state] at hwait
      refine ⟨_, rfl, s.faulted_survives, rfl, State.faulted_evSeq, State.faulted_last, fun h h' => ?_⟩
      rw [beq_false_of_ne h, beq_false_of_ne h'] at hwait
      exact absurd hwait (by decide)
    next =>
      obtain ⟨honly, hstep, -, hcause, hreset, -⟩ := s.faulted.deviceReset_begins 3
      refine ⟨_, rfl, s.faulted_survives.onlySmc honly hreset, ?_, fun h => ?_, fun h h' => ?_, fun _ _ => ⟨hstep, hcause⟩⟩
      · rw [honly.power]
        rfl
      · rw [honly.integ]
        exact State.faulted_evSeq h
      · rw [honly.job]
        exact State.faulted_last h h'
  case noFault =>
    exact if_pos (by rw [hdown]; rfl)
  case aon =>
    obtain ⟨nor, free, hcut⟩ := s.cutNorOp_only
    have hnor : s.cutNorOp.nor = nor := by rw [hcut]
    change ∃ u, execAonReset s = .next u ∧ _
    rw [execAonReset, hcut]
    exact ⟨_, rfl, rfl, rfl, rfl, rfl, rfl, rfl, rfl, rfl, rfl, rfl, rfl, rfl, rfl, rfl, rfl, rfl, rfl, rfl, rfl, rfl, rfl,
      fun h => hnor.symm.trans (by rw [State.cutNorOp_none h]), fun o ho a h => hnor ▸ s.cutNorOp_outside ho h⟩
  case power =>
    obtain ⟨honly, hstep, hstate, hcause, -⟩ := State.deviceReset_begins { s with
      side := { s.side with aonPwrgd := true }, gtc := { s.gtc with count := 0, frac := 0 } } 0
    exact ⟨_, if_neg (by rw [hdown]; decide), by rw [honly], by rw [honly], hstep, hcause, hstate, by rw [honly]⟩
  case powered => exact if_pos hup
  case ptime => exact congrArg Outcome.next (if_pos hup)
  case perst =>
    change ∃ u, Outcome.next ((s.perstUp p).pcieUp p (s.trains p)) = .next u ∧ _
    cases ht : s.trains p with
    | false =>
      change ∃ u, Outcome.next (s.perstUp p) = .next u ∧ _
      refine ⟨_, rfl, congrArg PciFn.perst (s.perstUp_fn p), rfl, s.fn_modFn_pcieOther p _, fun c hcfg hconn hready hup => ?_,
        fun _ => s.perstUp_fn p⟩
      exact absurd ((State.trains_connected hcfg hconn hready hup).symm.trans ht) (by decide)
    | true =>
      change ∃ u, Outcome.next ((s.perstUp p).modFn p fun f => { f with linkUp := true }) = .next u ∧ _
      have hfn : ((s.perstUp p).modFn p fun f => { f with linkUp := true }).fn p = { s.fn p with perst := true, linkUp := true } :=
        ((s.perstUp p).fn_modFn p _).trans (congrArg (fun f : PciFn => { f with linkUp := true }) (s.perstUp_fn p))
      refine ⟨_, rfl, congrArg PciFn.perst hfn, rfl, ((s.perstUp p).fn_modFn_pcieOther p _).trans (s.fn_modFn_pcieOther p _),
        fun _ _ _ _ _ => hfn, fun h => ?_⟩
      exact absurd ((State.trains_unconnected h).symm.trans ht) (by decide)

end Sys2Proof.Machine
end


section
/-!
SUPPORT. Command frames that are not executed, the payloads the SMC sends by itself (R595, R596, R598), RESET_DEVICE (R582),
and the obligation on Lomtirel frames.
-/
namespace Sys2Proof.Machine
-- One declaration at a time keeps the compile of the whole text within its memory.
set_option Elab.async false
open Host

section
variable {s : State} {m : LomHeader}

/-! ### Commands that are not executed (R598) -/

/-- What the SMC does with a frame that it does not execute: counted when it comes from no manager, discarded when it is
older than the last, answered with the stored RESPONSE when it repeats it. -/
abbrev State.turnsAway (s : State) (m : LomHeader) (r : Res) : Prop :=
  (s.isManager m.mac = false → r = .next { s with lom := { s.lom with deny := s.lom.deny + 1 } }) ∧
  (s.isManager m.mac = true → m.seq.toNat < (s.manager m.mac).last.toNat → r = .next s) ∧
  (s.isManager m.mac = true → m.seq = (s.manager m.mac).last →
    ((s.manager m.mac).resp = none → r = .next s) ∧
    ∀ f, (s.manager m.mac).resp = some f →
      ∃ u, r = .next u ∧ u.lom = { s.lom with sent := f :: s.lom.sent } ∧ s.onlyNet u ∧
        u = { s with lom := u.lom, routers := u.routers })

theorem State.lomRun_turnsAway (s : State) (m : LomHeader) (opc : Nat) (f : State → State) : s.turnsAway m (s.lomRun m opc f) := by
  refine ⟨fun hno => ?stranger, fun hyes hold => ?older, fun hyes hsame => ?again⟩
  case stranger =>
    rw [State.lomRun, hno]
    rfl
  case older =>
    have hne : m.seq ≠ (s.manager m.mac).last := fun e => absurd hold (by rw [e]; exact Nat.lt_irrefl _)
    simp [State.lomRun, hyes, hne, hold]
  case again =>
    have hrun : s.lomRun m opc f = .next (s.resend m.mac) := by
      simp [State.lomRun, hyes, hsame]
    refine ⟨fun hresp => ?_, fun g hresp => ?_⟩
    · rw [hrun, State.resend, hresp]
    · obtain ⟨netQ, hrelay⟩ := State.relayOut_net { s with lom := { s.lom with sent := g :: s.lom.sent } } g
      refine ⟨_, hrun, ?_⟩
      rw [State.resend, hresp]
      dsimp only
      rw [hrelay]
      exact ⟨rfl, State.onlyNet_of_routers rfl, rfl⟩

/-- Each of a manager's commands is taken or turned away by the same rule. -/
theorem execLom_turnsAway (s : State) (m : LomHeader) (w : BitVec 16) (us : BitVec 8) (v e : Word) (b : Bool) (off q ix : BitVec 32)
    {d cmd : List Byte} (j : BitVec 8) (n : BitVec 16) (hd : d.length ≤ 1014) (hcmd : cmd.length = 64) :
    ∀ i ∈ [Instr.ouvzuOrder m cmd, .setPlimit m w, .setTdisc m us, .clearWiring m, .setGtcEdge m v, .clearDrain m, .resetDevice m b,
      .norWrite m off d, .norCommit m q, .readReg m e, .writeReg m e v, .journalRead m j ix n, .lomIdentify m],
    s.turnsAway m (exec i s) := by
  have run {r : Res} (h : ∃ opc f, r = s.lomRun m opc f) : s.turnsAway m r := by
    obtain ⟨opc, f, rfl⟩ := h
    exact s.lomRun_turnsAway m opc f
  simp only [List.forall_mem_cons, List.not_mem_nil, false_imp_iff, implies_true, and_true]
  have horder : ∃ opc f, exec (.ouvzuOrder m cmd) s = s.lomRun m opc f := ⟨1, fun s =>
    if s.boot.inReset then s.lomAnswer m 0x01 .state else s.fetchCmd 0xFFFF none cmd 0 (some m), if_neg (not_not.2 hcmd)⟩
  have hwrite : ∃ opc f, exec (.norWrite m off d) s = s.lomRun m opc f := ⟨8, _, if_neg (Nat.not_lt.2 hd)⟩
  exact ⟨run horder, run ⟨_, _, execSetPlimit.eq_1 m w s⟩, run ⟨_, _, execSetTdisc.eq_1 m us s⟩, run ⟨_, _, execClearWiring.eq_1 m s⟩,
    run ⟨_, _, execSetGtcEdge.eq_1 m v s⟩, run ⟨_, _, execClearDrain.eq_1 m s⟩, run ⟨_, _, execResetDevice.eq_1 m b s⟩, run hwrite,
    run ⟨_, _, execNorCommit.eq_1 m q s⟩, run ⟨_, _, execReadReg.eq_1 m e s⟩, run ⟨_, _, execWriteReg.eq_1 m e v s⟩,
    run ⟨_, _, execJournalRead.eq_1 m j ix n s⟩, run ⟨_, _, execLomIdentify.eq_1 m s⟩⟩

/-! ### Payloads -/

/-- A field of the `i`-th of equally long records. -/
theorem leAt_flatMap {α : Type} {f : α → List Byte} {k : Nat} (hf : ∀ a, (f a).length = k) {l : List α} {i : Nat}
    (h : i < l.length) {j n : Nat} (hj : j + n ≤ k) : leAt (l.flatMap f) (k * i + j) n = leAt (f l[i]) j n := by
  rw [leAt, leAt, ← take_drop_flatMap hf h, List.drop_take, List.take_take, Nat.min_eq_left (by omega), List.drop_drop]

theorem State.telemetry_length (s : State) : s.telemetry.length = 64 := by
  simp [State.telemetry]

theorem byte_eq_leBytes (x : Byte) : [x] = leBytes 1 x.toNat := by
  rw [leBytes, BitVec.ofNat_toNat, BitVec.setWidth_eq, leBytes]

/-- The fields of a TELEMETRY payload (R596). -/
theorem State.telemetry_fields (s : State) :
    let t := s.telemetry
    leAt t 0 1 = s.power.op.toNat ∧ leAt t 1 1 = s.power.target.toNat ∧ leAt t 2 1 = s.power.tj.toNat ∧
      leAt t 3 1 = s.power.peak.toNat ∧ leAt t 4 2 = s.power.avg.toNat ∧ leAt t 6 2 = s.power.coreMv.toNat ∧
      leAt t 8 2 = s.power.seracMv.toNat ∧ leAt t 10 2 = s.power.plimit.toNat ∧ leAt t 24 8 = s.job.step.toNat ∧
      leAt t 32 8 = s.gtc.thaw.toNat ∧ leAt t 40 8 = s.boot.ptime.toNat ∧ leAt t 52 12 = 0 := by
  have hpair : [s.power.tj, s.power.peak] = leBytes 1 s.power.tj.toNat ++ leBytes 1 s.power.peak.toNat := by
    rw [← byte_eq_leBytes, ← byte_eq_leBytes]
    rfl
  simp only [State.telemetry, hpair, List.append_assoc]
  refine ⟨?_, ?_, ?_, ?_, ?_, ?_, ?_, ?_, ?_, ?_, ?_, ?reserved⟩
  case reserved =>
    simp only [leAt_leBytes_append_of_le, Nat.reduceLeDiff, Nat.reduceSub]
    rfl
  all_goals
    simp only [leAt_leBytes_append_of_le, leAt_leBytes_append, Nat.reduceLeDiff, Nat.reduceSub, Nat.reduceMul, Nat.reducePow, le_refl, Nat.sub_self]
    omega

/-- The record of one phase (R596). -/
def State.phaseBytes (s : State) (i : Nat) : List Byte :=
  leBytes 8 (s.cp.phTot.toList.getD i 0).toNat ++ (leBytes 8 (s.cp.phCnt.toList.getD i 0).toNat ++
    leBytes 8 (s.cp.phMax.toList.getD i 0).toNat)

theorem State.phaseBytes_length (s : State) (i : Nat) : (s.phaseBytes i).length = 24 := by
  simp [State.phaseBytes]

theorem State.phasesBytes_eq (s : State) (first : Nat) : s.phasesBytes first = leBytes 1 first ++ (leBytes 1 32 ++
    (leBytes 6 0 ++ (List.range 32).flatMap fun i => s.phaseBytes (first + i))) := by
  simp only [State.phasesBytes, State.phaseBytes, List.append_assoc]
  rfl

/-- One half of the phase counters (R596). -/
theorem State.phasesBytes_fields (s : State) {first : Nat} (hfirst : first < 256) :
    let b := s.phasesBytes first
    b.length = 776 ∧ leAt b 0 1 = first ∧ leAt b 1 1 = 32 ∧ ∀ i < 32, leAt b (8 + 24 * i) 8 = (s.cp.phTot.toList.getD (first + i) 0).toNat ∧
      leAt b (16 + 24 * i) 8 = (s.cp.phCnt.toList.getD (first + i) 0).toNat ∧
      leAt b (24 + 24 * i) 8 = (s.cp.phMax.toList.getD (first + i) 0).toNat := by
  have record (i j : Nat) (hi : i < 32) (hj : j + 8 ≤ 24) :
      leAt (s.phasesBytes first) (8 + (24 * i + j)) 8 = leAt (s.phaseBytes (first + i)) j 8 := by
    have hrange : i < (List.range 32).length := by rwa [List.length_range]
    rw [s.phasesBytes_eq, leAt_leBytes_append_of_le (by omega), leAt_leBytes_append_of_le (by omega), leAt_leBytes_append_of_le (by omega),
      show 8 + (24 * i + j) - 1 - 1 - 6 = 24 * i + j by omega,
      leAt_flatMap (fun i => s.phaseBytes_length (first + i)) hrange hj, List.getElem_range]
  have small (x : Word) : x.toNat < 2 ^ (8 * 8) := x.isLt
  refine ⟨?_, ?_, ?_, fun i hi => ⟨(record i 0 hi (by decide)).trans ?_, ?_, ?_⟩⟩
  · simp [s.phasesBytes_eq, List.length_flatMap, State.phaseBytes_length]
  · rw [s.phasesBytes_eq, leAt_leBytes_append_of_lt hfirst]
  · rw [s.phasesBytes_eq, leAt_leBytes_append_of_le le_rfl]
    exact leAt_leBytes_append_of_lt (by decide) _
  · exact leAt_leBytes_append_of_lt (small _) _
  · rw [show 16 + 24 * i = 8 + (24 * i + 8) by omega, record i 8 hi (by decide), State.phaseBytes, leAt_leBytes_append_of_le le_rfl]
    exact leAt_leBytes_append_of_lt (small _) _
  · rw [show 24 + 24 * i = 8 + (24 * i + 16) by omega, record i 16 hi (by decide), State.phaseBytes, leAt_leBytes_append_of_le (by decide),
      leAt_leBytes_append_of_le le_rfl, ← List.append_nil (leBytes 8 (s.cp.phMax.toList.getD (first + i) 0).toNat)]
    exact leAt_leBytes_append_of_lt (small _) _

/-! ### RESET_DEVICE (R582) -/

/-- The SMC's own state as it resets the device on a manager's order. -/
theorem State.smcReset_rx (s : State) (cause : Nat) : (s.smcReset cause).lom.rx = s.lom.rx := by
  obtain ⟨ports, hdown⟩ := (s.jobStopped cause).sentDown_ports
  obtain ⟨-, -, -, hrx⟩ := s.jobStopped_keeps cause
  rw [State.smcReset_eq, hdown, ← hrx]
  rfl

/-- DOWN frames of one port add to what it and the others are to transmit, and leave the condition of each. -/
theorem State.sendDown_port (s : State) (p q : PortId) : ∃ l,
    (s.sendDown p).port q = { s.port q with outbox := (s.port q).outbox ++ l } ∧ (∀ g ∈ l, g.ty = .down) ∧
      (p = q → (s.port q).active = true → l.length = (s.port q).width.toNat) := by
  obtain ⟨l, hsend, hty, hlen⟩ := s.sendDown_eq p
  rw [hsend]
  by_cases hpq : q = p
  · subst hpq
    rw [State.port_modPort]
    exact ⟨l, rfl, hty, fun _ h => hlen.trans (if_pos h)⟩
  · rw [State.port_modPort_ne s _ hpq]
    exact ⟨[], by rw [List.append_nil], by simp, fun h => absurd h.symm hpq⟩

/-- What a port is to transmit stays while others send DOWN frames. -/
theorem foldl_sendDown_outbox (q : PortId) {f : TxFrame} (l : List PortId) {s : State} (h : f ∈ (s.port q).outbox) :
    f ∈ ((l.foldl (fun (s : State) (p : PortId) => s.sendDown p) s).port q).outbox := by
  induction l generalizing s with
  | nil => exact h
  | cons p l ih =>
    obtain ⟨new, hport, -⟩ := s.sendDown_port p q
    exact ih (by rw [hport]; exact List.mem_append_left _ h)

/-- A port that carries frames sends some. -/
theorem foldl_sendDown_down {q : PortId} {l : List PortId} (hq : q ∈ l) (hactive : (s.port q).active = true)
    (hwidth : 0 < (s.port q).width.toNat) :
    ∃ f ∈ ((l.foldl (fun (s : State) (p : PortId) => s.sendDown p) s).port q).outbox, f.ty = .down := by
  induction l generalizing s with
  | nil => cases hq
  | cons p l ih =>
    obtain ⟨new, hport, hty, hlen⟩ := s.sendDown_port p q
    by_cases hpq : p = q
    · obtain ⟨f, hf⟩ := List.exists_mem_of_length_pos (hwidth.trans_eq (hlen hpq hactive).symm)
      exact ⟨f, foldl_sendDown_outbox q l (by rw [hport]; exact List.mem_append_right _ hf), hty f hf⟩
    · exact ih ((List.mem_cons.1 hq).resolve_left (Ne.symm hpq)) (by rw [hport]; exact hactive) (by rw [hport]; exact hwidth)

theorem State.sentDown_down {p : PortId} (hactive : (s.port p).active = true) (hwidth : 0 < (s.port p).width.toNat) :
    ∃ f ∈ (s.sentDown.port p).outbox, f.ty = .down := by
  have hmem : p ∈ ([0, 1, 2, 3, 4, 5, 6, 7, 8, 9, 10, 11, 12, 13, 14, 15, 16, 17, 18, 19] : List PortId) := by
    clear hactive hwidth
    decide +revert
  exact foldl_sendDown_down hmem hactive hwidth

theorem LPort.held_outbox (x : LPort) : (x.held_ true).outbox = x.outbox.filter fun f => f.ty == .down := rfl

/-- They are still to be transmitted when the dies are in reset. -/
theorem State.smcReset_down {p : PortId} (himage : s.job.image = none) (hactive : (s.port p).active = true)
    (hwidth : 0 < (s.port p).width.toNat) (cause : Nat) : ∃ f ∈ ((s.smcReset cause).port p).outbox, f.ty = .down := by
  obtain ⟨f, hf, hty⟩ := State.sentDown_down hactive hwidth
  have hport : (s.sentDown.holdDies true).port p = (s.sentDown.port p).held_ true := Vector.getElem_map ..
  rw [State.smcReset_eq, State.jobStopped_idle himage, hport, LPort.held_outbox]
  exact ⟨f, List.mem_filter.2 ⟨hf, beq_iff_eq.2 hty⟩, hty⟩

/-- The RESPONSE to RESET_DEVICE. -/
def State.resetAnswered (s : State) (m : LomHeader) : State := (s.begun m s.lom.norOp).lomAnswer m 7 .ok

/-- Whether the next boot selects the copy anew. -/
def State.reloads (s : State) (reload : Bool) : State :=
  { s with boot := { s.boot with reselect := s.boot.reselect || reload } }

theorem State.reloads_reselect (s : State) : (s.reloads true).boot.reselect = true := Bool.or_true _

theorem State.reloads_only (s : State) (reload : Bool) : s.onlySmc (s.reloads reload) := .of_eq rfl

/-- RESET_DEVICE once accepted: its RESPONSE, the reset of the dies, the choice of the copy, and the boot (R582, R585). -/
theorem execResetDevice_accepted (h : s.accepts m) (reload : Bool) :
    exec (.resetDevice m reload) s = .next ((((s.resetAnswered m).smcReset 2).reloads reload).deviceReset 2) := by
  have hbegun : s.begun m s.lom.norOp = s.beginLom m := rfl
  rw [State.resetAnswered, hbegun]
  exact (execResetDevice.eq_1 m reload s).trans (State.lomRun_accepted h 7 _)

theorem State.resetAnswered_only (s : State) (m : LomHeader) : ∃ lom routers,
    s.resetAnswered m = { s with lom := lom, routers := routers } ∧ lom.rx = s.lom.rx + 1 := by
  obtain ⟨⟨⟨-, -, -, hrx, -⟩, -⟩, -, hanswer⟩ := s.respond_begun m s.lom.norOp 0 7 []
  exact ⟨_, _, hanswer, hrx⟩

theorem State.resets_device (h : s.accepts m) (reload : Bool) :
    ∃ u, exec (.resetDevice m reload) s = .next u ∧ u.boot.rstcause = 2 ∧ u.boot.step = 1 ∧ u.boot.state = .rom ∧
      u.boot.inReset = true ∧ (reload = true → u.boot.reselect = true) ∧ u.lom.rx = s.lom.rx + 1 ∧ u.job.image = none ∧
      u.gtc.count = s.gtc.count ∧ u.nor = s.nor ∧ u.fuses = s.fuses ∧ u.power.coreOfs = s.power.coreOfs ∧
      (∀ t, u.tile t = State.reset.tile t) ∧
      (∀ p, s.job.image = none → (s.port p).active = true → 0 < (s.port p).width.toNat → ∃ f ∈ (u.port p).outbox, f.ty = .down) ∧
      (s.job.image.isSome = true → s.job.pending = none → u.job.last = some ⟨8, 2⟩) := by
  obtain ⟨lom, routers, hanswer, hrx⟩ := s.resetAnswered_only m
  have hsurv : s.survives ((s.resetAnswered m).smcReset 2) :=
    ((s.resetAnswered m).smcReset_survives 2).of_kept (by rw [hanswer]; rfl) (by rw [hanswer]) (by rw [hanswer]) (by rw [hanswer])
  obtain ⟨honly, hstep, hstate, hcause, hreset, hsel⟩ := (((s.resetAnswered m).smcReset 2).reloads reload).deviceReset_begins 2
  have honly : ((s.resetAnswered m).smcReset 2).onlySmc _ := (State.reloads_only _ reload).trans honly
  obtain ⟨hin, hcount, hnor, hfuses, hofs, -, -, -, himage, htiles, -⟩ := hsurv.onlySmc honly hreset
  refine ⟨_, execResetDevice_accepted h reload, hcause, hstep, hstate, hin, ?_, ?_, himage, hcount, hnor, hfuses, hofs, htiles,
    fun p hidle hactive hwidth => ?_, fun hjob hpending => ?_⟩
  · intro hreload
    rw [hsel, hreload, State.reloads_reselect]
  · rw [honly.rx, State.smcReset_rx, hanswer, hrx]
  · rw [honly.port p]
    exact State.smcReset_down (s := s.resetAnswered m) (by rw [hanswer]; exact hidle) (by rw [hanswer]; exact hactive)
      (by rw [hanswer]; exact hwidth) 2
  · rw [honly.job]
    exact State.smcReset_last (s := s.resetAnswered m) (by rw [hanswer]; exact hjob) (by rw [hanswer]; exact hpending) 2

/-! ### Frames the SMC sends by itself -/

/-- With a link up no frame is relayed. -/
theorem State.sendLom_up (h : (s.lom.up[0] || s.lom.up[1]) = true) (ty : BitVec 8) (refseq : BitVec 32) (payload : List Byte) :
    s.sendLom ty refseq payload = { s with lom := { s.lom with
      sent := ⟨ty, s.lom.seq, refseq, s.gtc.count, payload⟩ :: s.lom.sent, seq := s.lom.seq + 1, tx := s.lom.tx + 1 } } := by
  unfold State.sendLom State.relayOut
  dsimp only
  split
  · rfl
  · rw [h]
    rfl

theorem toList_getD {α : Type} {n : Nat} (v : Vector α n) {i : Nat} (h : i < n) (d : α) : v.toList.getD i d = v[i] := by
  rw [List.getD_eq_getElem?_getD, List.getElem?_eq_getElem (by simpa using h), Option.getD_some, Vector.getElem_toList]

/-- Two frames in a row, one PHASES frame for each half of the phases. -/
theorem State.sendLom_twice (s : State) (ty : BitVec 8) (p q : List Byte) : ∃ netQ, (s.sendLom ty 0 p).sendLom ty 0 q = { s with
    routers := (s.modRouter .west fun r => { r with netQ := netQ }).routers
    lom := { s.lom with
      sent := ⟨ty, s.lom.seq + 1, 0, s.gtc.count, q⟩ :: ⟨ty, s.lom.seq, 0, s.gtc.count, p⟩ :: s.lom.sent
      seq := s.lom.seq + 1 + 1, tx := s.lom.tx + 1 + 1 } } := by
  obtain ⟨netQ, hp⟩ := s.sendLom_net ty 0 p
  obtain ⟨netQ', hq⟩ := (s.sendLom ty 0 p).sendLom_net ty 0 q
  refine ⟨netQ', ?_⟩
  have hset : ((s.modRouter .west fun r => { r with netQ := netQ }).modRouter .west fun r => { r with netQ := netQ' }).routers =
      (s.modRouter .west fun r => { r with netQ := netQ' }).routers := by
    simp [State.modRouter]
  rw [hq, hp, ← hset]
  rfl

/-! ### The relay (R593) -/

end

/-- Settles O46: one rule turns a command away, and each frame the SMC originates is the one effect but its own. -/
theorem lomtirelFramesAreExchanged : Obligations.LomtirelFramesAreExchanged := by
  unfold Obligations.LomtirelFramesAreExchanged
  intro s m
  refine ⟨fun w us v e b off q ix d cmd j n hd hcmd => execLom_turnsAway s m w us v e b off q ix j n hd hcmd,
    fun h => ⟨?identify, State.resets_device h⟩, fun l => ⟨?up, rfl⟩, fun hon => ?telemetry, fun hoff => if_neg (by rw [hoff]; decide),
    fun hup => ?phases, fun pkt hwf => ⟨fun hcls hdst => ?relayed, fun hno => ?notRelayed⟩⟩
  case identify =>
    obtain ⟨netQ, hsent⟩ := (s.beginLom m).sendLom_net 0x04 0 s.identity
    refine ⟨_, (execLomIdentify.eq_1 m s).trans (State.lomRun_accepted h 13 _), ?_⟩
    rw [show (s.beginLom m).sendIdentity = _ from hsent]
    exact ⟨rfl, rfl, rfl, by simp [State.manager, State.beginLom], State.onlyNet_of_routers rfl, rfl⟩
  case up =>
    have hup : ((s.lom.up.set l true)[0] || (s.lom.up.set l true)[1]) = true := by
      obtain rfl | rfl : l = 0 ∨ l = 1 := by omega
      · simp
      · simp
    refine ⟨_, rfl, ?_⟩
    rw [State.sendIdentity, State.sendLom_up (s := { s with lom := { s.lom with up := s.lom.up.set l true } }) hup]
    exact ⟨rfl, rfl⟩
  case telemetry =>
    obtain ⟨netQ, hsent⟩ := State.sendLom_net { s with side := { s.side with telem := s.telemetry } } 0x02 0 s.telemetry
    obtain ⟨hop, htarget, htj, hpeak, havg, hcore, hserac, hlimit, hstep, hthaw, htime, hzero⟩ := s.telemetry_fields
    refine ⟨_, s.telemetry, if_pos hon, ?_⟩
    rw [hsent]
    exact ⟨rfl, s.telemetry_length, rfl, hop, htarget, htj, hpeak, havg, hcore, hserac, hlimit, hstep, hthaw, htime, hzero,
      State.onlyNet_of_routers rfl, rfl⟩
  case phases =>
    obtain ⟨netQ, hsent⟩ := s.sendLom_twice 0x03 (s.phasesBytes 0) (s.phasesBytes 32)
    obtain ⟨hlen, hfirst, hcount, hphase⟩ := s.phasesBytes_fields (first := 0) (by decide)
    obtain ⟨hlen', hfirst', hcount', hphase'⟩ := s.phasesBytes_fields (first := 32) (by decide)
    have hexec : exec .phasesSend s = .next ((s.sendLom 0x03 0 (s.phasesBytes 0)).sendLom 0x03 0 (s.phasesBytes 32)) :=
      if_neg (by rw [hup]; decide)
    rw [hexec, hsent]
    refine ⟨_, _, _, rfl, rfl, rfl, rfl, rfl, rfl, BitVec.add_assoc .., hfirst, hfirst', hcount, hcount', hlen, hlen', fun i hi => ?_,
      State.onlyNet_of_routers rfl, rfl⟩
    obtain ⟨htot, hcnt, hmax⟩ := hphase i hi
    obtain ⟨htot', hcnt', hmax'⟩ := hphase' i hi
    rw [htot, hcnt, hmax, htot', hcnt', hmax']
    simp only [Nat.zero_add, toList_getD _ (show i < 64 by omega), toList_getD _ (show 32 + i < 64 by omega), and_self]
  case relayed =>
    exact ⟨_, (if_neg (by rw [hwf]; decide)).trans (if_neg (by simp [hcls, hdst])), rfl, rfl⟩
  case notRelayed =>
    exact (if_neg (by rw [hwf]; decide)).trans (if_pos hno)

end Sys2Proof.Machine
end


section
/-!
SUPPORT. The end of a job whose Serac commands and collectives have ended (R503, R504): what its units, its image and its
waiting commands are left as; and the obligation on ABORT_JOB and JOBWAIT.
-/
namespace Sys2Proof.Machine
-- One declaration at a time keeps the compile of the whole text within its memory.
set_option Elab.async false
open Host

section
variable {s : State} {c : Cmd} {q : QPair}

/-! ### Units stopped -/

/-- The tiles and clusters stopped, with nothing of a collective or a Serac command to cancel. -/
def State.halted (s : State) : State :=
  { s with
    tiles := s.tiles.map Tile.halt
    clusters := s.clusters.map fun c => { c with running := [], switches := [], paused := false }
    integ := { s.integ with testOn := false, testRun := false }
    job := { s.job with running := false, launched := false, imports := [] } }

theorem State.serCancel_idle {k : ClusterId} (h : (s.cluster k).running = []) : s.serCancel k = s := by
  rw [State.serCancel, h]
  rfl

theorem foldl_serCancel_idle (h : ∀ k : ClusterId, (s.cluster k).running = []) (l : List ClusterId) :
    l.foldl (fun (s : State) (k : ClusterId) => s.serCancel k) s = s := by
  induction l with
  | nil => rfl
  | cons k l ih => rw [List.foldl_cons, State.serCancel_idle (h k), ih]

theorem State.cancelColls_idle (h : s.job.colls = []) : s.cancelColls = s := by
  rw [State.cancelColls, h]
  rfl

/-- No collective and no Serac command runs. -/
def State.unitsIdle (s : State) : Prop := s.job.colls = [] ∧ ∀ k : ClusterId, (s.cluster k).running = []

theorem State.stopUnits_idle (h : s.unitsIdle) : s.stopUnits = s.halted := by
  obtain ⟨hcolls, hrunning⟩ := h
  have hcancel := foldl_serCancel_idle hrunning [0, 1, 2, 3, 4, 5, 6, 7]
  unfold State.stopUnits
  rw [hcancel]
  dsimp only
  rw [State.cancelColls_idle hcolls]
  rfl

theorem State.halted_idle (h : s.unitsIdle) : s.halted.unitsIdle := by
  refine ⟨h.1, fun k => ?_⟩
  have hk : s.halted.cluster k = { s.cluster k with running := [], switches := [], paused := false } := Vector.getElem_map ..
  rw [hk]

theorem State.halted_tile (s : State) (t : TileId) : s.halted.tile t = (s.tile t).halt := Vector.getElem_map ..

/-! ### The image gone -/

/-- With the units stopped, the image goes and the end is noted. -/
def State.jobCleared (s : State) (e : JobEnd) : State := { s.clearJob with job := { s.clearJob.job with last := some e } }

/-- No command that the end of a job cancels is executing. -/
theorem State.endNow_idle (hidle : s.unitsIdle)
    (hcmds : (s.ouvzu.cmds.filter fun c => (c.opc == 0x12 || c.opc == 0x14) && c.stage == .executing) = []) (e : JobEnd) :
    s.endNow e = (s.halted.jobCleared e).completeWaits e := by
  have hcancel : s.halted.cancelJobCmds = s.halted := by
    rw [State.cancelJobCmds, show s.halted.ouvzu.cmds = s.ouvzu.cmds from rfl, hcmds]
    rfl
  rw [State.endNow, State.stopUnits_idle hidle, hcancel]
  rfl

theorem State.Sole.jobCleared (h : s.Sole c q) (e : JobEnd) : (s.halted.jobCleared e).Sole c q := h.congr rfl rfl rfl

theorem State.jobCleared_run (s : State) (e : JobEnd) (t : TileId) : ((s.jobCleared e).tile t).seq.run = (s.tile t).seq.run := by
  have ht : (s.jobCleared e).tile t = (s.tile t).forget (64 * s.takeFree.1 + t.val) := Vector.getElem_mapIdx ..
  rw [ht]
  rfl

theorem State.jobCleared_lock (s : State) (e : JobEnd) (d : Die) : ((s.jobCleared e).router d).lock = false := by
  have hd : (s.jobCleared e).router d = { s.router d with lock := false } := Vector.getElem_map ..
  rw [hd]

theorem State.router_congr {u v : State} (h : u.routers = v.routers) (d : Die) : u.router d = v.router d := by
  rw [State.router, State.router, h]

theorem State.tile_congr {u v : State} (h : u.tiles = v.tiles) (t : TileId) : u.tile t = v.tile t := by
  rw [State.tile, State.tile, h]

/-- What is left of a job whose units were idle. -/
theorem State.jobCleared_left (s : State) (e : JobEnd) :
    let u := s.halted.jobCleared e
    u.job.image = none ∧ u.job.last = some e ∧ u.job.pending = none ∧ u.job.admState = 0 ∧ u.job.running = false ∧
      u.mem = s.mem ∧ (∀ d, (u.router d).lock = false) ∧ ∀ t : TileId, (u.tile t).seq.run = false := by
  refine ⟨rfl, rfl, rfl, rfl, rfl, rfl, fun d => s.halted.jobCleared_lock e d, fun t => ?_⟩
  rw [State.jobCleared_run, State.halted_tile]
  rfl

/-! ### The commands that wait for the end -/

theorem State.flush_none (h : ∀ c ∈ s.ouvzu.cmds, c.status = none) : s.flush = s := by
  have hfind : s.ouvzu.cmds.find? s.recordable = none := by
    rw [List.find?_eq_none]
    intro c hc
    rw [State.recordable, h c hc]
    exact Bool.false_ne_true
  have hup (n : Nat) : State.flushUpTo n s = s := by
    cases n with
    | zero => rfl
    | succ n => rw [State.flushUpTo, hfind]
  exact hup _

/-- No JOBWAIT is executing. -/
theorem State.completeWaits_none (hsole : s.Sole c q) (hopc : c.opc ≠ 0x16) (e : JobEnd) : s.completeWaits e = s := by
  have hwaits : (s.ouvzu.cmds.filter fun c => c.opc == 0x16 && c.stage == .executing) = [] := by
    rw [hsole.cmds, List.filter_cons_of_neg (by simp [hopc]), List.filter_nil]
  have hflush : s.flush = s := State.flush_none fun d hd => by
    rw [hsole.cmds, List.mem_singleton] at hd
    rw [hd, hsole.status]
  rw [State.completeWaits, hwaits, List.foldl_nil, hflush, State.settle_of_closing_nil hsole.closing]

/-- One is: it commits with the status, the step and the detail (R504). -/
theorem State.completeWaits_one (hsole : s.Sole c q) (hopc : c.opc = 0x16) (hstage : c.stage = .executing) (e : JobEnd) :
    s.completeWaits e = s.commitCmd c.handle 0x40 (BitVec.ofNat 64 (e.status % 65536 + s.step32.toNat * 2 ^ 32)) e.detail := by
  have hwaits : (s.ouvzu.cmds.filter fun c => c.opc == 0x16 && c.stage == .executing) = [c] := by
    rw [hsole.cmds, List.filter_cons_of_pos (by rw [hopc, hstage]; rfl), List.filter_nil]
  rw [State.completeWaits, hwaits, List.foldl_cons, List.foldl_nil, State.commitCmd]

/-! ### What a commit leaves -/

theorem State.commitCmd_left (h : s.Sole c q) (status : Nat) (r0 r1 : Word) :
    let u := s.commitCmd c.handle status r0 r1
    u.job = s.job ∧ u.mem = s.mem ∧ u.tiles = s.tiles ∧ u.routers = s.routers := by
  obtain ⟨hframe, -⟩ := State.commitCmd_frame h status r0 r1
  refine ⟨?_, ?_, ?_, ?_⟩ <;> rw [hframe]

/-! ### ABORT_JOB (R503) -/

theorem State.takes.opc {opc : Nat} (h : s.takes c q opc) : c.opc = opc := by
  obtain ⟨⟨-, -, -, -, -, -, -, -, hopc⟩, -⟩ := h
  exact hopc

theorem abortCause_port (hsole : s.Sole c q) : abortCause c = ⟨1, 0⟩ := by
  have hsqid : c.sqid ≠ 0xFFFF := by
    have := hsole.lt
    rw [hsole.sqid]
    omega
  exact if_pos hsqid

/-- The state once an ABORT_JOB has stopped the units. -/
def State.aborting (s : State) (c : Cmd) : State :=
  State.halted { s with
    ouvzu := { s.ouvzu with cmds := [{ c with stage := .executing }] }, job := { s.job with pending := some ⟨1, 0⟩ } }

theorem execAbortJob_idle (h : s.takes c q 0x13) (himage : s.job.image = none) :
    exec (.abortJob c.handle) s = .next (s.commitCmd c.handle 0x16 0 0) := by
  have hrun := State.runCmd_takes h (by decide) (ok := fun _ => true) rfl
  obtain ⟨⟨hcmds, hstage, -⟩, -⟩ := h
  have hadmit : s.ouvzu.cmds.any Cmd.admitting = false := by simp [hcmds, Cmd.admitting, hstage]
  change execAbortJob c.handle s = _
  rw [execAbortJob, hrun, hadmit, himage]
  rfl

theorem State.executing_sole (h : s.ouvzu.cmds = [c]) : s.executing c.handle =
    { s with ouvzu := { s.ouvzu with cmds := [{ c with stage := .executing }] } } := by
  rw [State.executing, State.modCmd, h]
  simp

theorem execAbortJob_stops (h : s.takes c q 0x13) (himage : s.job.image.isSome = true) (hpending : s.job.pending = none)
    (hidle : s.unitsIdle) : exec (.abortJob c.handle) s = .next (s.aborting c) := by
  have hrun := State.runCmd_takes h (by decide) (ok := fun _ => true) rfl
  have hcause := abortCause_port h.1.sole
  obtain ⟨⟨hcmds, hstage, -⟩, -⟩ := h
  have hadmit : s.ouvzu.cmds.any Cmd.admitting = false := by simp [hcmds, Cmd.admitting, hstage]
  have hend : s.endJob 1 0 = { s with job := { s.job with pending := some ⟨1, 0⟩ } } := by
    rw [State.endJob, himage, hpending]
    rfl
  have hstop : ({ s with job := { s.job with pending := some ⟨1, 0⟩ } } : State).stopUnits = _ := State.stopUnits_idle hidle
  have himage' : s.job.image.isNone = false := by
    rw [Option.isNone_eq_false_iff, himage]
  change execAbortJob c.handle s = _
  rw [execAbortJob, hrun, hadmit, himage', hcause]
  dsimp only
  have hexec := State.executing_sole (s := State.halted { s with job := { s.job with pending := some ⟨1, 0⟩ } }) hcmds
  rw [if_neg Bool.false_ne_true, if_neg Bool.false_ne_true, hend, hstop, hexec]
  rfl

/-- The ABORT_JOB that stopped the units, executing. -/
theorem State.aborting_sole (h : s.Sole c q) : (s.aborting c).Sole { c with stage := .executing } q where
  cmds := rfl
  status := rfl
  aborter := h.aborter
  sqid := h.sqid
  lt := h.lt
  queue := h.queue
  port := h.port
  closing := h.closing

/-- ABORT_JOB done: the image is gone, and the command commits. -/
theorem execAbortJobDone_ends {v : State} (hsole : v.Sole c q) (hopc : c.opc = 0x13) (hstage : c.stage = .executing)
    (himage : v.job.image.isSome = true) {e : JobEnd} (hpending : v.job.pending = some e) (hidle : v.unitsIdle) :
    exec (.abortJobDone c.handle) v = .next ((v.halted.jobCleared e).commitCmd c.handle 0 0 0) := by
  have hcmds : (v.ouvzu.cmds.filter fun c => (c.opc == 0x12 || c.opc == 0x14) && c.stage == .executing) = [] := by
    rw [hsole.cmds, List.filter_cons_of_neg (by simp [hopc]), List.filter_nil]
  have hwaits : (v.halted.jobCleared e).completeWaits e = v.halted.jobCleared e :=
    State.completeWaits_none (hsole.jobCleared e) (by rw [hopc]; decide) e
  have hmine : (c.opc == 0x13 && c.stage == .executing) = true := by
    rw [hopc, hstage]
    rfl
  change execAbortJobDone c.handle v = _
  rw [execAbortJobDone, State.cmd_handle hsole.cmds]
  dsimp only
  rw [if_pos hmine, if_pos himage, hpending, Option.getD_some, State.endNow_idle hidle hcmds, hwaits]

/-! ### JOBWAIT and the end of a job (R504) -/

theorem execJobwait_idle (h : s.takes c q 0x16) (himage : s.job.image = none) :
    exec (.jobwait c.handle) s = .next (s.commitCmd c.handle 0x16 0 0) := by
  have hrun := State.runCmd_takes h (by decide) (ok := fun _ => true) rfl
  change execJobwait c.handle s = _
  rw [execJobwait, hrun, himage]
  rfl

theorem execJobwait_waits (h : s.takes c q 0x16) (himage : s.job.image.isSome = true) : exec (.jobwait c.handle) s =
    .next { s with ouvzu := { s.ouvzu with cmds := [{ c with stage := .executing }] } } := by
  have hrun := State.runCmd_takes h (by decide) (ok := fun _ => true) rfl
  change execJobwait c.handle s = _
  rw [execJobwait, hrun, Option.isNone_eq_false_iff.2 himage, if_neg Bool.false_ne_true, State.executing_sole h.1.1]

/-- The end of a job that QUIESCE stopped: its image stays. -/
def State.quiesced (s : State) (e : JobEnd) : State := { s with job := { s.job with pending := none, last := some e } }

theorem execJobEnd_quiesced (hsole : s.Sole c q) (hopc : c.opc = 0x16) (hstage : c.stage = .executing) {e : JobEnd}
    (hpending : s.job.pending = some e) (hstatus : e.status = 0) : exec .jobEnd s = .next
      ((s.quiesced e).commitCmd c.handle 0x40
        (BitVec.ofNat 64 (e.status % 65536 + s.step32.toNat * 2 ^ 32)) e.detail) := by
  have hnone : (s.ouvzu.cmds.any fun c => c.opc == 0x13 && c.stage == .executing) = false := by simp [hsole.cmds, hopc]
  have hsole' : (s.quiesced e).Sole c q := hsole.congr rfl rfl rfl
  have hwaits := State.completeWaits_one hsole' hopc hstage e
  change execJobEnd s = _
  rw [execJobEnd, hpending]
  dsimp only
  rw [hnone, if_neg Bool.false_ne_true, if_pos hstatus]
  exact congrArg Outcome.next hwaits

theorem execJobEnd_ended (hsole : s.Sole c q) (hopc : c.opc = 0x16) (hstage : c.stage = .executing) {e : JobEnd}
    (hpending : s.job.pending = some e) (hstatus : e.status ≠ 0) (hidle : s.unitsIdle) : exec .jobEnd s = .next
      ((s.halted.jobCleared e).commitCmd c.handle 0x40 (BitVec.ofNat 64 (e.status % 65536 + s.step32.toNat * 2 ^ 32)) e.detail) := by
  have hnone : (s.ouvzu.cmds.any fun c => c.opc == 0x13 && c.stage == .executing) = false := by simp [hsole.cmds, hopc]
  have hcmds : (s.ouvzu.cmds.filter fun c => (c.opc == 0x12 || c.opc == 0x14) && c.stage == .executing) = [] := by
    rw [hsole.cmds, List.filter_cons_of_neg (by simp [hopc]), List.filter_nil]
  have hwaits := State.completeWaits_one (hsole.jobCleared e) hopc hstage e
  change execJobEnd s = _
  rw [execJobEnd, hpending]
  dsimp only
  rw [hnone, if_neg Bool.false_ne_true, if_neg hstatus, State.endNow_idle hidle hcmds, hwaits]
  rfl

end

/-- Settles O41: with its Serac commands and collectives ended a job's end is a halt of the units, the loss of the image, and
the commit of the one command that ends it or waits for it. -/
theorem abortsAndJobEnds : Obligations.AbortsAndJobEnds := by
  unfold Obligations.AbortsAndJobEnds
  intro s c q h
  refine ⟨fun htakes => ⟨fun himage => ?idle, fun himage hpending hcolls hrunning => ?aborts⟩,
    fun htakes => ⟨fun himage => ?noWait, fun himage => ?waits⟩,
    fun e hpending hstatus hexec hcolls hrunning => ?ends, fun hpending => ?notYet⟩
  case idle =>
    obtain ⟨u, hu, hrec, honly, -⟩ := State.commitCmd_only htakes.1.sole (by norm_num) (execAbortJob_idle htakes himage)
    exact ⟨u, hu, hrec, honly⟩
  case aborts =>
    have hsole := State.aborting_sole (s := s) htakes.1.sole
    have hidle : (s.aborting c).unitsIdle := State.halted_idle ⟨hcolls, hrunning⟩
    have hdone := execAbortJobDone_ends hsole htakes.opc rfl himage rfl hidle
    have hlast := hsole.jobCleared ⟨1, 0⟩
    obtain ⟨hjob, hbytes, htiles, hrouters⟩ := State.commitCmd_left hlast 0 0 0
    have hrec := State.commitCmd_records hlast (status := 0) (by norm_num) 0 0
    have honly := State.commitCmd_onlyRecord hlast 0 0 0
    refine ⟨_, _, execAbortJob_stops htakes himage hpending ⟨hcolls, hrunning⟩, rfl, rfl, fun t => State.halted_tile _ t, rfl, rfl, hdone,
      hrec, honly, ?_⟩
    obtain ⟨hlost, hended, hpend, hadm, -, hmem, hlock, hstopped⟩ := (s.aborting c).jobCleared_left ⟨1, 0⟩
    exact ⟨by rw [hjob]; exact hlost, by rw [hjob]; exact hended, by rw [hjob]; exact hpend, by rw [hjob]; exact hadm,
      hbytes.trans hmem, fun d => by rw [State.router_congr hrouters]; exact hlock d,
      fun t => by rw [State.tile_congr htiles]; exact hstopped t⟩
  case noWait =>
    obtain ⟨u, hu, hrec, honly, -⟩ := State.commitCmd_only htakes.1.sole (by norm_num) (execJobwait_idle htakes himage)
    exact ⟨u, hu, hrec, honly⟩
  case waits => exact execJobwait_waits htakes himage
  case ends =>
    have hsole := hexec.sole
    obtain ⟨-, hstage, -, -, -, -, -, -, hopc⟩ := hexec
    have hres : BitVec.ofNat 64 (e.status % 65536 + s.step32.toNat * 2 ^ 32) =
        BitVec.ofNat 64 (e.status + s.job.step.toNat % 2 ^ 32 * 2 ^ 32) := by
      rw [show e.status % 65536 = e.status from Nat.mod_eq_of_lt hstatus, State.step32, BitVec.toNat_setWidth]
    by_cases hzero : e.status = 0
    · have hdone := execJobEnd_quiesced hsole hopc hstage hpending hzero
      rw [hres] at hdone
      have hlast : (s.quiesced e).Sole c q := hsole.congr rfl rfl rfl
      obtain ⟨hjob, hbytes, htiles, -⟩ := State.commitCmd_left hlast 0x40
        (BitVec.ofNat 64 (e.status + s.job.step.toNat % 2 ^ 32 * 2 ^ 32)) e.detail
      refine ⟨_, hdone, State.commitCmd_records hlast (by norm_num) .., State.commitCmd_onlyRecord hlast _ _ _, ?_⟩
      exact ⟨by rw [hjob]; rfl, by rw [hjob]; rfl, hbytes,
        fun _ => ⟨by rw [hjob]; rfl, htiles⟩, fun hne => absurd hzero hne⟩
    · have hdone := execJobEnd_ended hsole hopc hstage hpending hzero ⟨hcolls, hrunning⟩
      rw [hres] at hdone
      have hlast := hsole.jobCleared e
      obtain ⟨hjob, hbytes, htiles, -⟩ := State.commitCmd_left hlast 0x40
        (BitVec.ofNat 64 (e.status + s.job.step.toNat % 2 ^ 32 * 2 ^ 32)) e.detail
      refine ⟨_, hdone, State.commitCmd_records hlast (by norm_num) .., State.commitCmd_onlyRecord hlast _ _ _, ?_⟩
      obtain ⟨hlost, hended, hpend, -, hstopped, hmem, -⟩ := s.jobCleared_left e
      exact ⟨by rw [hjob]; exact hpend, by rw [hjob]; exact hended, hbytes.trans hmem, fun h => absurd h hzero,
        fun _ => ⟨by rw [hjob]; exact hlost, by rw [hjob]; exact hstopped⟩⟩
  case notYet =>
    change execJobEnd s = _
    rw [execJobEnd, hpending]

end Sys2Proof.Machine
end


section
/-!
SUPPORT. What the commit of the one fetched command leaves of the other queue pairs, the weights, the grants and the other
port's function; the deletion of a queue pair and the closing of a port (R499, R500); and the obligation on the admin commands.
-/
namespace Sys2Proof.Machine
-- One declaration at a time keeps the compile of the whole text within its memory.
set_option Elab.async false
open Host

section
variable {s : State} {c : Cmd} {q : QPair}

/-! ### What a commit leaves of the Ouvzu -/

theorem State.fn_modFn_ne (s : State) {p p' : PciePort} (h : p' ≠ p) (f : PciFn → PciFn) : (s.modFn p f).fn p' = s.fn p' := by
  have hother : p' = pcieOther p := by
    cases p <;> cases p'
    · exact absurd rfl h
    · rfl
    · rfl
    · exact absurd rfl h
  rw [hother, State.fn_modFn_pcieOther]

theorem State.queue_modQueue_ne (s : State) {n m : Nat} (h : m ≠ n) {f : QPair → QPair} (hf : ∀ x, (f x).id = x.id) :
    (s.modQueue n f).queue m = s.queue m := by
  unfold State.queue State.modQueue
  dsimp only
  induction s.ouvzu.queues with
  | nil => rfl
  | cons x l ih =>
    by_cases hx : x.id = n
    · simp [hx, hf, h.symm, ih]
    · simp [hx, ih, List.find?_cons]

/-- What a record written to one queue pair leaves of the Ouvzu. -/
structure State.SameElse (s u : State) (q : QPair) : Prop where
  weights : u.ouvzu.weights = s.ouvzu.weights
  grants : u.ouvzu.grants = s.ouvzu.grants
  fn : ∀ p ≠ q.port, u.fn p = s.fn p
  queue : ∀ n ≠ q.id, u.queue n = s.queue n

theorem State.SameElse.trans {u v : State} (h : s.SameElse u q) (h' : u.SameElse v q) : s.SameElse v q where
  weights := h'.weights.trans h.weights
  grants := h'.grants.trans h.grants
  fn := fun p hp => (h'.fn p hp).trans (h.fn p hp)
  queue := fun n hn => (h'.queue n hn).trans (h.queue n hn)

theorem State.hostWr_sameElse (s : State) (q : QPair) (p : PciePort) (a : Nat) (bs : List Byte) : s.SameElse (s.hostWr p a bs) q := by
  cases p <;> exact ⟨rfl, rfl, fun _ _ => rfl, fun _ _ => rfl⟩

theorem State.cqWrite_sameElse (s : State) (q : QPair) (d : Cmd) : s.SameElse (s.cqWrite q d) q := by
  refine (s.hostWr_sameElse q q.port (q.cqBase + 32 * q.cqTail) (d.record q.phase)).trans ?_
  have hqueue (n : Nat) (hn : n ≠ q.id) (v : State) (tail since : Nat) (phase : QPair → Bool) :
      (v.modQueue q.id fun q => { q with cqTail := tail, phase := phase q, since := since }).queue n = v.queue n :=
    v.queue_modQueue_ne hn fun _ => rfl
  unfold State.cqWrite
  dsimp only
  split
  · exact ⟨rfl, rfl, fun p hp => State.fn_modFn_ne _ hp _, fun n hn => State.queue_modQueue_ne _ hn fun _ => rfl⟩
  · exact ⟨rfl, rfl, fun p hp => rfl, fun n hn => State.queue_modQueue_ne _ hn fun _ => rfl⟩

theorem State.setCommitted_sameElse (s : State) (q : QPair) (h status : Nat) (r0 r1 : Word) : s.SameElse (s.setCommitted h status r0 r1) q := by
  unfold State.setCommitted
  split
  · exact ⟨rfl, rfl, fun _ _ => rfl, fun _ _ => rfl⟩
  · split
    · exact ⟨rfl, rfl, fun _ _ => rfl, fun _ _ => rfl⟩
    · exact ⟨rfl, rfl, fun _ _ => rfl, fun _ _ => rfl⟩

/-- The one fetched command committed and recorded. -/
theorem State.flushed_eq (h : s.Sole c q) (status : Nat) (r0 r1 : Word) : ∃ o,
    (s.setCommitted c.handle status r0 r1).flush = ({ s with ouvzu := o } : State).cqWrite q (c.done status r0 r1 s.gtc.count) ∧
      o.cmds = [] ∧ o.closing = [] ∧ s.SameElse { s with ouvzu := o } q := by
  obtain ⟨o, he, hcmds, -, hqs, hcl, -⟩ := State.setCommitted_sole h status r0 r1
  have hq : ({ s with ouvzu := o } : State).queue q.id = some q := by
    rw [State.queue, hqs]
    exact h.queue
  have hset := s.setCommitted_sameElse q c.handle status r0 r1
  rw [he] at hset ⊢
  rw [State.flush_sole (s := { s with ouvzu := o }) (q := q) hcmds rfl h.sqid h.lt hq hcl]
  exact ⟨_, rfl, rfl, rfl, hset.weights, hset.grants, hset.fn, hset.queue⟩

theorem State.cqWrite_closing (s : State) (q : QPair) (d : Cmd) : (s.cqWrite q d).ouvzu.closing = s.ouvzu.closing := by
  obtain ⟨o, he, -, -, -, hcl, -⟩ := s.cqWrite_eq q d
  rw [he]
  exact hcl

theorem State.commitCmd_flushed (h : s.Sole c q) (status : Nat) (r0 r1 : Word) :
    s.commitCmd c.handle status r0 r1 = (s.setCommitted c.handle status r0 r1).flush := by
  obtain ⟨o, he, -, hcl, -⟩ := State.flushed_eq h status r0 r1
  rw [State.commitCmd, he, State.settle_of_closing_nil ((State.cqWrite_closing ..).trans hcl)]

theorem State.commitCmd_closing (h : s.Sole c q) (status : Nat) (r0 r1 : Word) :
    (s.commitCmd c.handle status r0 r1).ouvzu.closing = [] := by
  obtain ⟨o, he, -, hcl, -⟩ := State.flushed_eq h status r0 r1
  rw [State.commitCmd_flushed h, he, State.cqWrite_closing]
  exact hcl

theorem State.commitCmd_sameElse (h : s.Sole c q) (status : Nat) (r0 r1 : Word) :
    s.SameElse (s.commitCmd c.handle status r0 r1) q := by
  obtain ⟨o, he, -, -, hsame⟩ := State.flushed_eq h status r0 r1
  rw [State.commitCmd_flushed h, he]
  exact hsame.trans (State.cqWrite_sameElse ..)

/-- A commit with no results after a change of the Ouvzu that leaves the fetched command and its queue pair. -/
theorem State.commitCmd_after {o : Ouvzu} (h : s.Sole c q) (hcmds : o.cmds = s.ouvzu.cmds) (hqueue : ({ s with ouvzu := o } : State).queue q.id = some q)
    (hclosing : o.closing = s.ouvzu.closing) {status : Nat} (hstatus : status < 2 ^ 16) (r0 : Word) :
    let v : State := { s with ouvzu := o }
    let u := v.commitCmd c.handle status r0 0
    v.records u c q status r0 0 ∧ s.onlyRecord u q ∧ v.SameElse u q ∧ u = { s with ouvzu := u.ouvzu, hostA := u.hostA, hostB := u.hostB } := by
  have hsole : ({ s with ouvzu := o } : State).Sole c q :=
    { cmds := hcmds.trans h.cmds, status := h.status, aborter := h.aborter, sqid := h.sqid, lt := h.lt, queue := hqueue, port := h.port
      closing := hclosing.trans h.closing }
  exact ⟨State.commitCmd_records hsole hstatus r0 0, State.commitCmd_onlyRecord hsole status r0 0, State.commitCmd_sameElse hsole status r0 0,
    (State.commitCmd_frame hsole status r0 0).1⟩

/-! ### Commands that change the Ouvzu's lists -/

theorem State.takes.port {opc : Nat} (h : s.takes c q opc) : c.port = some q.port := h.1.sole.port

theorem within_iff (lo hi v : Nat) : within lo hi v = true ↔ lo ≤ v ∧ v ≤ hi := decide_eq_true_iff

/-- The state once the pair that a CREATE_QP describes is there. -/
def State.withPair (s : State) (c : Cmd) (p : PciePort) : State :=
  { s with ouvzu := { s.ouvzu with
    queues := s.ouvzu.queues ++ [newPair c p], done := s.ouvzu.done.filter fun e => e.1 != c.arg 24 2 } }

theorem State.withPair_queue_old {n : Nat} {x : QPair} (h : s.queue n = some x) {p : PciePort} : (s.withPair c p).queue n = some x := by
  rw [State.queue] at h ⊢
  exact List.find?_append.trans (by rw [h]; rfl)

theorem State.withPair_queue_new {p : PciePort} (h : s.queue (c.arg 24 2) = none) :
    (s.withPair c p).queue (c.arg 24 2) = some (newPair c p) := by
  rw [State.queue] at h ⊢
  refine List.find?_append.trans ?_
  rw [h, List.find?_cons_of_pos (by exact beq_iff_eq.2 rfl)]
  rfl

theorem execCreateQp_takes (h : s.takes c q 0x02) (hok : createOk c = true) : exec (.createQp c.handle) s = .next
    (if (s.queue (c.arg 24 2)).isSome then s.commitCmd c.handle 0x14 0 0 else (s.withPair c q.port).commitCmd c.handle 0 0 0) := by
  change execCreateQp c.handle s = _
  rw [execCreateQp, State.runCmd_takes h (by decide) hok, State.onPort_some h.port]
  rfl

theorem execSetarb_takes (h : s.takes c q 0x04) (hok : ∀ i < 8, 1 ≤ c.arg (8 + i) 1 ∧ c.arg (8 + i) 1 ≤ 64) :
    exec (.setarb c.handle) s = .next
      (State.commitCmd { s with ouvzu := { s.ouvzu with weights := vtab 8 fun i => c.arg (8 + i) 1 } } c.handle 0 0 0) := by
  have hall : ((List.range 8).all fun i => within 1 64 (c.arg (8 + i) 1)) = true :=
    List.all_eq_true.2 fun i hi => decide_eq_true (hok i (List.mem_range.1 hi))
  change execSetarb c.handle s = _
  rw [execSetarb, State.runCmd_takes h (by decide) hall]

theorem execGrantHost_takes (h : s.takes c q 0x05) (hok : grantOk c = true)
    (hfree : ∀ g ∈ s.ouvzu.grants, g.gid ≠ c.arg 32 1 ∧ (c.arg 16 8 + c.arg 24 8 ≤ g.win ∨ g.win + g.len ≤ c.arg 16 8)) :
    exec (.grantHost c.handle) s = .next (State.commitCmd { s with ouvzu := { s.ouvzu with grants := s.ouvzu.grants ++
      [⟨c.arg 32 1, q.port, c.arg 8 8, c.arg 16 8, c.arg 24 8, c.arg 33 1 == 1⟩] } } c.handle 0 0 0) := by
  have hany : ¬ (s.ouvzu.grants.any fun o => o.gid == c.arg 32 1 ||
      (o.win < c.arg 16 8 + c.arg 24 8 && c.arg 16 8 < o.win + o.len)) = true := by
    rw [List.any_eq_true]
    rintro ⟨g, hg, hmeets⟩
    obtain ⟨hgid, hapart⟩ := hfree g hg
    simp only [Bool.or_eq_true, beq_iff_eq, Bool.and_eq_true, decide_eq_true_eq] at hmeets
    omega
  change execGrantHost c.handle s = _
  rw [execGrantHost, State.runCmd_takes h (by decide) hok, State.onPort_some h.port]
  exact congrArg Outcome.next (if_neg hany)

theorem execRevokeHost_takes (h : s.takes c q 0x06) {g : Grant} (hg : g ∈ s.ouvzu.grants) (hgid : g.gid = c.arg 8 1)
    (hfree : ∀ o ∈ s.ouvzu.grants, s.ringsUse o = false) : exec (.revokeHost c.handle) s = .next (State.commitCmd { s with
      ouvzu := { s.ouvzu with grants := s.ouvzu.grants.filter fun o => o.gid != c.arg 8 1 } } c.handle 0 0 0) := by
  obtain ⟨o, ho⟩ : ∃ o, s.ouvzu.grants.find? (fun g => g.gid == c.arg 8 1) = some o :=
    Option.isSome_iff_exists.1 (List.find?_isSome.2 ⟨g, hg, by simpa using hgid⟩)
  have hmem := List.mem_of_find?_eq_some ho
  have hid : o.gid = c.arg 8 1 := by simpa using List.find?_some ho
  change execRevokeHost c.handle s = _
  rw [execRevokeHost, State.runCmd_takes h (by decide) rfl, ho]
  simp [hfree o hmem, hid]

theorem execEnableFn_takes (h : s.takes c q 0x07) {p : PciePort} (hp : portArg (c.arg 8 1) = some p) :
    exec (.enableFn c.handle) s = .next ((s.modFn p fun f => { f with disabled := false }).commitCmd c.handle 0 0 0) := by
  change execEnableFn c.handle s = _
  rw [execEnableFn, State.runCmd_takes h (by decide) (by rw [hp]; rfl)]
  simp only [hp]

theorem filter_bne_eq {α β : Type} [DecidableEq β] (l : List α) (f : α → β) (b : β) :
    (l.filter fun a => f a != b) = l.filter fun a => f a ≠ b :=
  List.filter_congr fun a _ => by by_cases h : f a = b <;> simp [h]

/-! ### DELETE_QP (R499) -/

/-- A queue pair taken from the list is not found, and the others are. -/
theorem find?_filter_id (l : List QPair) (n m : Nat) :
    (l.filter fun q => q.id != n).find? (fun q => q.id == m) = if m = n then none else l.find? fun q => q.id == m := by
  induction l with
  | nil => simp
  | cons x l ih =>
    by_cases hx : x.id = n
    · rw [List.filter_cons_of_neg (by simpa using hx), ih]
      split
      · rfl
      next hne => rw [List.find?_cons_of_neg (by simpa using fun e => hne (e.symm.trans hx))]
    · rw [List.filter_cons_of_pos (by simpa using hx), List.find?_cons, List.find?_cons, ih]
      split
      next hm =>
        have hmn : m ≠ n := fun e => hx ((beq_iff_eq.1 hm).trans e)
        rw [if_neg hmn]
      next => rfl

/-- The state while DELETE_QP waits for the queue's commands. -/
def State.deleting (s : State) (c : Cmd) (n : Nat) : State :=
  { s with ouvzu := { s.ouvzu with
    cmds := [{ c with stage := .executing }]
    queues := (s.modQueue n fun x => { x with hold := true }).ouvzu.queues
    closing := [⟨some c.handle, none, n, false, 0⟩] } }

/-- Nothing is being closed but queue pairs. -/
theorem State.settle_of_portless (h : ∀ k ∈ s.ouvzu.closing, k.port = none) : s.settle = s := by
  have hgrants : (s.ouvzu.grants.filter fun g => !(s.portStopped g.port && s.closeQuiet g.port)) = s.ouvzu.grants := by
    refine List.filter_eq_self.2 fun g _ => ?_
    have hstopped : s.portStopped g.port = false := List.any_eq_false.2 fun k hk => by rw [h k hk]; exact Bool.false_ne_true
    rw [hstopped]
    rfl
  have hrevoke : s.revokeClosed = s := by
    rw [State.revokeClosed, hgrants]
  have hfind (P : PciePort → Bool) : (s.ouvzu.closing.find? fun k => match k.port with | some p => P p | none => false) = none := by
    rw [List.find?_eq_none]
    intro k hk
    rw [h k hk]
    exact Bool.false_ne_true
  have hup (n : Nat) : State.settleUpTo n s = s := by
    cases n with
    | zero => rfl
    | succ n =>
      rw [State.settleUpTo]
      split
      next k hk => exact absurd ((hfind _).symm.trans hk) (by simp)
      next => rfl
  rw [State.settle, hrevoke, hup]

theorem State.cancelAll_none {p : Cmd → Bool} (h : ∀ c ∈ s.ouvzu.cmds, p c = false) : s.cancelAll p = s := by
  rw [State.cancelAll, List.filter_eq_nil_iff.2 fun c hc => by rw [h c hc]; exact Bool.false_ne_true]
  rfl

theorem execDeleteQp_takes (h : s.takes c q 0x03) {x : QPair} (hx : s.queue (c.arg 8 2) = some x) (hport : x.port = q.port)
    (hother : c.arg 8 2 ≠ q.id) (hid : 2 ≤ c.arg 8 2) : exec (.deleteQp c.handle) s = .next (s.deleting c (c.arg 8 2)) := by
  have hsole := h.1.sole
  have hmine : ¬ ((c.port.isSome && c.port != some x.port) || c.arg 8 2 == c.sqid || decide (c.arg 8 2 < 2)) = true := by
    rw [hsole.port, hport, hsole.sqid, bne_self_eq_false, beq_eq_false_iff_ne.2 hother, decide_eq_false (Nat.not_lt.2 hid)]
    exact Bool.false_ne_true
  have hstate : ({ (s.executing c.handle).modQueue (c.arg 8 2) (fun x => { x with hold := true }) with
      ouvzu := { ((s.executing c.handle).modQueue (c.arg 8 2) fun x => { x with hold := true }).ouvzu with
        closing := ((s.executing c.handle).modQueue (c.arg 8 2) fun x => { x with hold := true }).ouvzu.closing ++
          [⟨some c.handle, none, c.arg 8 2, false, 0⟩] } } : State) = s.deleting c (c.arg 8 2) := by
    rw [State.executing_sole hsole.cmds]
    simp only [State.modQueue, State.deleting, hsole.closing, List.nil_append]
  have hcancel : (s.deleting c (c.arg 8 2)).cancelAll (fun d => d.sqid == c.arg 8 2) = s.deleting c (c.arg 8 2) :=
    State.cancelAll_none fun d hd => by
      rw [List.mem_singleton.1 hd, beq_eq_false_iff_ne]
      exact fun e => hother (e.symm.trans hsole.sqid)
  have hflush : (s.deleting c (c.arg 8 2)).flush = s.deleting c (c.arg 8 2) :=
    State.flush_none fun d hd => by rw [List.mem_singleton.1 hd]; rfl
  have hsettle : (s.deleting c (c.arg 8 2)).settle = s.deleting c (c.arg 8 2) :=
    State.settle_of_portless fun k hk => by rw [List.mem_singleton.1 hk]
  change execDeleteQp c.handle s = _
  rw [execDeleteQp, State.runCmd_takes h (by decide) rfl]
  dsimp only
  rw [hx]
  dsimp only
  rw [if_neg hmine, hstate, hcancel, hflush, hsettle]

/-- The state once its pair is gone. -/
def State.deleted (s : State) (n : Nat) : State :=
  { s with ouvzu := { s.ouvzu with closing := [], queues := s.ouvzu.queues.filter fun q => q.id != n } }

theorem State.deleted_queue (s : State) (n m : Nat) : (s.deleted n).queue m = if m = n then none else s.queue m :=
  find?_filter_id ..

theorem State.deleting_queue_ne (s : State) (c : Cmd) {n m : Nat} (h : m ≠ n) : (s.deleting c n).queue m = s.queue m :=
  s.queue_modQueue_ne h fun _ => rfl

theorem State.deleting_queue (s : State) (c : Cmd) (n : Nat) :
    (s.deleting c n).queue n = (s.queue n).map fun x => { x with hold := true } :=
  State.queue_modQueue fun _ => rfl

theorem State.deleted_sole (h : s.Sole c q) {n : Nat} (hn : n ≠ q.id) :
    ((s.deleting c n).deleted n).Sole { c with stage := .executing } q where
  cmds := rfl
  status := rfl
  aborter := h.aborter
  sqid := h.sqid
  lt := h.lt
  queue := by rw [State.deleted_queue, if_neg hn.symm, State.deleting_queue_ne _ _ hn.symm]; exact h.queue
  port := h.port
  closing := rfl

theorem execDeleteQpDone_deleting (h : s.Sole c q) {n : Nat} (hn : n ≠ q.id) :
    exec (.deleteQpDone c.handle) (s.deleting c n) = .next (((s.deleting c n).deleted n).commitCmd c.handle 0 0 0) := by
  have hclosing : (s.deleting c n).ouvzu.closing = [⟨some c.handle, none, n, false, 0⟩] := rfl
  have hcmds : (s.deleting c n).ouvzu.cmds = [{ c with stage := .executing }] := rfl
  have hsqid : (c.sqid == n) = false := beq_eq_false_iff_ne.2 fun e => hn (e.symm.trans h.sqid)
  change execDeleteQpDone c.handle (s.deleting c n) = _
  rw [execDeleteQpDone, State.deleted, hclosing, hcmds]
  simp [hsqid]

/-! ### DISABLE_FN (R500) -/

/-- The state while DISABLE_FN has its command executing and its port's grants revoked. -/
def State.disabling (s : State) (c : Cmd) (p : PciePort) : State :=
  { s with ouvzu := { s.ouvzu with
    cmds := [{ c with stage := .executing }], closing := [], grants := s.ouvzu.grants.filter fun g => g.port != p } }

theorem State.settleUpTo_ends {k : Closing} {p : PciePort} (hk : s.ouvzu.closing = [k]) (hport : k.port = some p)
    (hquiet : s.closeQuiet p = true) (huses : s.usesPort p = false) (n : Nat) :
    State.settleUpTo (n + 1) s = State.settleUpTo n (s.finishClose k p) := by
  rw [State.settleUpTo, hk]
  simp [hport, hquiet, huses]

/-- The state with a port's grants revoked. -/
def State.revoked (s : State) (p : PciePort) : State :=
  { s with ouvzu := { s.ouvzu with grants := s.ouvzu.grants.filter fun g => g.port != p } }

/-- The one closing, of a port whose commands have ended and that no job uses, ends. -/
theorem State.settle_one {k : Closing} {p : PciePort} (hk : s.ouvzu.closing = [k]) (hport : k.port = some p)
    (hquiet : s.closeQuiet p = true) (huses : s.usesPort p = false) :
    s.settle = State.settleUpTo 1 ((s.revoked p).finishClose k p) := by
  have hrevoke : s.revokeClosed = s.revoked p := by
    have hgone (g : Grant) : (!(s.portStopped g.port && s.closeQuiet g.port)) = (g.port != p) := by
      rw [State.portStopped, hk, List.any_cons, List.any_nil, Bool.or_false, hport]
      by_cases hg : g.port = p
      · rw [hg, hquiet]
        simp
      · rw [beq_eq_false_iff_ne.2 fun e => hg (Option.some.inj e).symm, bne_iff_ne.2 hg]
        rfl
    simp only [State.revokeClosed, State.revoked, hgone]
  rw [State.settle, hrevoke, hk]
  exact State.settleUpTo_ends (s := s.revoked p) hk hport hquiet huses 1

theorem State.disabling_sole (h : s.Sole c q) (p : PciePort) : (s.disabling c p).Sole { c with stage := .executing } q where
  cmds := rfl
  status := rfl
  aborter := h.aborter
  sqid := h.sqid
  lt := h.lt
  queue := h.queue
  port := h.port
  closing := rfl

/-- The port's function, queue pairs and grants once its closing ends. -/
def State.disabled (s : State) (p : PciePort) : State :=
  (s.dropQueues p).modFn p fun f => { f.maskAll with en := false, rdy := false, mbbusy := false, disabled := true }

theorem State.disabled_fn (s : State) (p : PciePort) : (s.disabled p).fn p =
    { (s.fn p).maskAll with en := false, rdy := false, mbbusy := false, disabled := true } := State.fn_modFn (s.dropQueues p) p _

theorem State.onlyRecord_disabled {u : State} (h : s.onlyRecord u q) (p : PciePort) : s.onlyRecord (u.disabled p) q := h

theorem State.disabled_left (s : State) (p : PciePort) : (s.disabled p).ouvzu.cmds = s.ouvzu.cmds ∧
    (s.disabled p).ouvzu.grants = s.ouvzu.grants.filter (fun g => g.port != p) ∧
    (s.disabled p).ouvzu.queues = s.ouvzu.queues.filter (fun q => q.port != p) ∧ (s.disabled p).mem = s.mem ∧ (s.disabled p).job = s.job :=
  ⟨rfl, rfl, rfl, rfl, rfl⟩

theorem PciFn.maskAll_masked (f : PciFn) : ∀ e ∈ f.maskAll.msix, e.ctrl.getLsbD 0 = true := by
  intro e he
  obtain ⟨d, -, rfl⟩ := List.mem_map.1 he
  simp

theorem State.disabled_closing (s : State) (p : PciePort) : (s.disabled p).ouvzu.closing = s.ouvzu.closing := rfl

theorem execDisableFn_takes (h : s.takes c q 0x08) {p : PciePort} (hp : portArg (c.arg 8 1) = some p) (hother : p ≠ q.port)
    (huses : s.usesPort p = false) :
    exec (.disableFn c.handle) s = .next (((s.disabling c p).commitCmd c.handle 0 0 0).disabled p) := by
  have hsole := h.1.sole
  let k : Closing := ⟨some c.handle, some p, 0, false, 0⟩
  let v : State := { s with ouvzu := { s.ouvzu with cmds := [{ c with stage := .executing }], closing := [k] } }
  have hclose : (s.executing c.handle).startClose p (some c.handle) false = v := by
    rw [State.executing_sole hsole.cmds, State.startClose, hsole.closing]
    refine State.cancelAll_none fun d hd => ?_
    have hport : (d.port == some p) = false := by
      rw [List.mem_singleton.1 hd]
      change (c.port == some p) = false
      rw [hsole.port, beq_eq_false_iff_ne]
      exact fun e => hother (Option.some.inj e).symm
    rw [hport]
    rfl
  have hflush : v.flush = v := State.flush_none fun d hd => by rw [List.mem_singleton.1 hd]; rfl
  have hquiet : v.closeQuiet p = true := by
    have hmine : (c.port == some p) = false := by
      rw [hsole.port, beq_eq_false_iff_ne]
      exact fun e => hother (Option.some.inj e).symm
    simp [State.closeQuiet, v, hmine]
  have hsettle := State.settle_one (s := v) rfl (show k.port = some p from rfl) hquiet huses
  have hdone : (v.revoked p).finishClose k p = ((s.disabling c p).commitCmd c.handle 0 0 0).disabled p := by
    have hclosed : ({ v.revoked p with ouvzu := { (v.revoked p).ouvzu with
        closing := (v.revoked p).ouvzu.closing.filter fun j => !(j.port == some p && j.handle == k.handle) } } : State) =
        s.disabling c p := by
      simp [State.revoked, State.disabling, v, k]
    unfold State.finishClose
    rw [hclosed, State.commitCmd_flushed (State.disabling_sole hsole p)]
    rfl
  have hopen : (((s.disabling c p).commitCmd c.handle 0 0 0).disabled p).ouvzu.closing = [] :=
    (State.disabled_closing _ p).trans (State.commitCmd_closing (State.disabling_sole hsole p) 0 0 0)
  change execDisableFn c.handle s = _
  rw [execDisableFn, State.runCmd_takes h (by decide) (by rw [hp]; rfl)]
  simp only [hp]
  rw [hclose, hflush, hsettle, hdone, State.settleUpTo, hopen]
  rfl

end

/-- Settles O35: each admin command changes the Ouvzu's lists once and commits, and nothing but the record is written. -/
theorem adminCommandsSetUpTheQueues : Obligations.AdminCommandsSetUpTheQueues := by
  unfold Obligations.AdminCommandsSetUpTheQueues
  intro s c q h
  refine ⟨fun htakes h1 h2 h3 h4 h5 h6 h7 h8 h9 h10 => ?create, fun x htakes hx hxid hport hother hid => ?delete,
    fun htakes hok => ?weights, fun htakes h1 h2 h3 h4 h5 h6 hfree => ?grant, fun g hg htakes hgid hfree => ?revoke,
    fun p hp => ⟨fun htakes hother => ?enable, fun htakes hother huses => ?disable⟩⟩
  case create =>
    have hok : createOk c = true := by
      have hsq := leAt_lt c.raw 26 2
      have hcq := leAt_lt c.raw 28 2
      simp only [createOk, Cmd.arg, Bool.and_eq_true, beq_iff_eq, within_iff] at *
      omega
    have hexec := execCreateQp_takes htakes hok
    refine ⟨fun hfree => ?_, fun hlive => ?_⟩
    · rw [hfree] at hexec
      have hne : c.arg 24 2 ≠ q.id := fun e => by
        rw [e, htakes.1.sole.queue] at hfree
        cases hfree
      obtain ⟨⟨hcmds, -⟩, honly, hsame, hframe⟩ := State.commitCmd_after (o := (s.withPair c q.port).ouvzu) htakes.1.sole rfl
        (State.withPair_queue_old htakes.1.sole.queue) rfl (status := 0) (by norm_num) 0
      exact ⟨_, newPair c q.port, hexec, hcmds, honly, (hsame.queue _ hne).trans (State.withPair_queue_new hfree), rfl, rfl, rfl, rfl, rfl,
        rfl, beq_iff_eq, rfl, rfl, rfl, rfl, rfl, rfl, rfl, rfl, hframe⟩
    · rw [if_pos hlive] at hexec
      exact ⟨_, hexec, State.commitCmd_records htakes.1.sole (by norm_num) 0 0⟩
  case delete =>
    have hsole := State.deleted_sole htakes.1.sole hother
    obtain ⟨hcmds, -, -, -, -, hres, -⟩ := State.commitCmd_records hsole (status := 0) (by norm_num) 0 0
    refine ⟨_, _, execDeleteQp_takes htakes hx hport hother hid, ?_, rfl, execDeleteQpDone_deleting htakes.1.sole hother, ?_, hcmds,
      State.commitCmd_onlyRecord hsole 0 0 0, hres, (State.commitCmd_frame hsole 0 0 0).1⟩
    · rw [State.deleting_queue, hx]
      rfl
    · rw [(State.commitCmd_sameElse hsole 0 0 0).queue _ hother, State.deleted_queue, if_pos rfl]
  case weights =>
    obtain ⟨hrec, honly, hsame, hframe⟩ := State.commitCmd_after
      (o := { s.ouvzu with weights := vtab 8 fun i => c.arg (8 + i) 1 }) htakes.1.sole rfl htakes.1.sole.queue rfl (status := 0) (by norm_num) 0
    refine ⟨_, execSetarb_takes htakes hok, hrec, honly, fun i => ?_, hframe⟩
    rw [hsame.weights]
    exact vtab_getElem _ i.isLt
  case grant =>
    have hok : grantOk c = true := by
      simp only [grantOk, Bool.and_eq_true, beq_iff_eq, within_iff, decide_eq_true_eq]
      omega
    obtain ⟨hrec, honly, hsame, hframe⟩ := State.commitCmd_after (o := { s.ouvzu with grants := s.ouvzu.grants ++
      [⟨c.arg 32 1, q.port, c.arg 8 8, c.arg 16 8, c.arg 24 8, c.arg 33 1 == 1⟩] }) htakes.1.sole rfl htakes.1.sole.queue rfl
      (status := 0) (by norm_num) 0
    exact ⟨_, execGrantHost_takes htakes hok hfree, hrec, honly, hsame.grants, hframe⟩
  case revoke =>
    obtain ⟨hrec, honly, hsame, hframe⟩ := State.commitCmd_after (o := { s.ouvzu with
      grants := s.ouvzu.grants.filter fun o => o.gid != c.arg 8 1 }) htakes.1.sole rfl htakes.1.sole.queue rfl (status := 0) (by norm_num) 0
    exact ⟨_, execRevokeHost_takes htakes hg hgid hfree, hrec, honly, hsame.grants.trans (filter_bne_eq _ Grant.gid _), hframe⟩
  case enable =>
    obtain ⟨hrec, honly, hsame, hframe⟩ := State.commitCmd_after (o := (s.modFn p fun f => { f with disabled := false }).ouvzu) htakes.1.sole rfl
      htakes.1.sole.queue rfl (status := 0) (by norm_num) 0
    exact ⟨_, execEnableFn_takes htakes hp, hrec, honly, (hsame.fn p hother).trans (s.fn_modFn p fun f => { f with disabled := false })⟩
  case disable =>
    have hsole := State.disabling_sole htakes.1.sole p
    obtain ⟨hcmds, -⟩ := State.commitCmd_records hsole (status := 0) (by norm_num) 0 0
    have honly := State.commitCmd_onlyRecord hsole 0 0 0
    have hsame := State.commitCmd_sameElse hsole 0 0 0
    obtain ⟨hjob, hmem, -⟩ := State.commitCmd_left hsole 0 0 0
    have hfn := ((s.disabling c p).commitCmd c.handle 0 0 0).disabled_fn p
    obtain ⟨hcmds', hgrants, hqueues, hmem', hjob'⟩ := ((s.disabling c p).commitCmd c.handle 0 0 0).disabled_left p
    refine ⟨_, execDisableFn_takes htakes hp hother huses, hcmds'.trans hcmds, State.onlyRecord_disabled honly p, by rw [hfn], by rw [hfn],
      by rw [hfn], ?_, ?_, ?_, hmem'.trans hmem, hjob'.trans hjob⟩
    · rw [hfn]
      exact PciFn.maskAll_masked _
    · rw [hgrants, hsame.grants]
      exact (List.filter_filter ..).trans ((List.filter_congr fun g _ => Bool.and_self _).trans (filter_bne_eq _ Grant.port p))
    · rw [hqueues]
      intro k hk
      simpa using (List.mem_filter.1 hk).2

end Sys2Proof.Machine
end


section
/-!
SUPPORT. TIME frames (R432, R433), the alignment of the GTC by the offset that they give (R435, R436), the edges of TICK_SYNC_IN
(R430); and the obligation on the clock.
-/
namespace Sys2Proof.Machine
-- One declaration at a time keeps the compile of the whole text within its memory.
set_option Elab.async false
open Host

/-! ### A TIME frame sent (R432) -/

section
variable {s : State} {p : PortId}

/-- IDLE frames take the next FSEQs in turn. -/
theorem LPort.idles_eq (n : Nat) (x : LPort) : ∃ l, LPort.idles n x = { x with
      txSeq := x.txSeq + BitVec.ofNat 20 n, replayBuf := x.replayBuf ++ l, outbox := x.outbox ++ l } ∧
    l.length = n ∧ ∀ g ∈ l, g.ty = .idle := by
  induction n generalizing x with
  | zero => exact ⟨[], by simp [LPort.idles], rfl, by simp⟩
  | succ n ih =>
    obtain ⟨l, hl, hlen, hty⟩ := ih (x.emit .idle 0x3FF (List.replicate 600 0))
    have hseq : x.txSeq + 1 + BitVec.ofNat 20 n = x.txSeq + BitVec.ofNat 20 (n + 1) := by
      rw [BitVec.add_assoc, BitVec.add_comm 1, BitVec.ofNat_add]
      rfl
    refine ⟨⟨.idle, x.txSeq, 0x3FF, 0, 0, List.replicate 600 0, x.rxSeq - 1, [x.txSeq.toNat % x.width.toNat]⟩ :: l, ?_,
      by rw [List.length_cons, hlen], ?_⟩
    · rw [LPort.idles, hl, LPort.emit, ← hseq, List.append_assoc, List.append_assoc, List.singleton_append]
    · rintro g (_ | ⟨_, hg⟩)
      · rfl
      · exact hty g hg

/-- As many as come before logical lane 0. -/
theorem LPort.lanePad_eq {x : LPort} {n : Nat} (hn : n < 16) (hzero : (x.txSeq + BitVec.ofNat 20 n).toNat % x.width.toNat = 0)
    (hbefore : ∀ m < n, (x.txSeq + BitVec.ofNat 20 m).toNat % x.width.toNat ≠ 0) : x.lanePad = n := by
  have hfind : ((List.range 16).find? fun n => (x.txSeq + BitVec.ofNat 20 n).toNat % x.width.toNat == 0) = some n :=
    List.find?_range_eq_some.2 ⟨by simpa using hzero, List.mem_range.2 hn, fun m hm => by simpa using hbefore m hm⟩
  rw [LPort.lanePad, hfind, Option.getD_some]

/-- What a TIME frame carries (R432). -/
theorem State.timePayload_fields (s : State) (x : LPort) (seq : BitVec 32) :
    let b := s.timePayload x seq
    leAt b 0 8 = s.gtc.count.toNat ∧ leAt b 8 1 = s.gtc.frac.toNat ∧ leAt b 12 4 = seq.toNat ∧
      leAt b 16 8 = x.time.rxGtc.toNat ∧ leAt b 28 4 = x.time.rxSeq.toNat := by
  simp only [State.timePayload, List.append_assoc]
  refine ⟨?_, ?_, ?_, ?_, ?_⟩
  all_goals
    simp only [leAt_leBytes_append_of_le, leAt_leBytes_append, Nat.reduceLeDiff, Nat.reduceSub, Nat.reduceMul, Nat.reducePow, le_refl,
      Nat.sub_self]
    omega

theorem execTimeFrameSend_active (hactive : (s.port p).state = .active) (hp : p ≠ hPort)
    (hroom : (s.port p).replayBuf.length + (s.port p).lanePad < 1024) : exec (.timeFrameSend p) s = .next (s.modPort p fun x =>
      { (LPort.idles x.lanePad x).emit .time 0x3FF (s.timePayload x (x.time.seq + 1)) with time := { x.time with
        seq := x.time.seq + 1, t1 := s.gtc.count, t1Frac := s.gtc.frac
        sent := x.time.sent ++ [(x.time.seq + 1, s.gtc.count, s.gtc.frac)] } }) :=
  if_neg (by rw [not_or, not_or, not_not]; exact ⟨hactive, hp, Nat.not_le.2 hroom⟩)

/-! ### The alignment (R435, R436) -/

/-- LOCKED follows the offsets, and of the GTC only it, HOLDOVER and the thaw counters change. -/
theorem State.lockCheck_eq (s : State) (p : PortId) (theta : Int) : ∃ locked holdover thaw first n,
    s.lockCheck p theta = { s with gtc := { s.gtc with
      locked := locked, holdover := holdover, thaw := thaw, thawFirst := first, thawN := n } } ∧
    (8 < theta.natAbs → locked = false) ∧
    (theta.natAbs ≤ 8 → ((s.port p).time.locked || (s.port p).time.master) = true → s.gtc.lastFour.length = 4 →
      (∀ o ∈ s.gtc.lastFour, o.natAbs ≤ 4) → locked = true) := by
  unfold State.lockCheck
  dsimp only
  split
  next hfar =>
    split
    · unfold State.thawEvent
      split
      · exact ⟨_, _, _, _, _, rfl, fun _ => rfl, fun h => absurd h (Nat.not_le.2 hfar)⟩
      · exact ⟨_, _, _, _, _, rfl, fun _ => rfl, fun h => absurd h (Nat.not_le.2 hfar)⟩
    next hlocked => exact ⟨_, _, _, _, _, rfl, fun _ => by simpa using hlocked, fun h => absurd h (Nat.not_le.2 hfar)⟩
  next hnear =>
    split
    · exact ⟨_, _, _, _, _, rfl, fun h => absurd h hnear, fun _ _ _ _ => rfl⟩
    next hno =>
      refine ⟨_, _, _, _, _, rfl, fun h => absurd h hnear, fun _ hsure hfour hall => absurd ?_ hno⟩
      rw [hsure, hfour, List.all_eq_true.2 fun o ho => decide_eq_true (hall o ho)]
      rfl

/-- The GTC as an offset is computed, before it is applied (R433). -/
def Gtc.offsetBy (g : Gtc) (theta : Int) (depth : BitVec 8) : Gtc :=
  { g with
    offset := BitVec.ofInt 15 theta
    lastFour := (theta :: g.lastFour).take 4
    ratio := match g.lastFour with | o :: _ => g.ratio + (theta - o) | [] => g.ratio
    depth := if depth == 0xFF then g.depth else BitVec.ofNat 6 (depth.toNat + 1) }

/-- The GTC as the offset is applied: by a step once, while no image is admitted, and otherwise by slewing (R436). -/
def State.offsetApplied (s : State) (p : PortId) (theta : Int) : Gtc :=
  let t := (s.port p).time
  if s.job.image.isNone && !s.gtc.stepped && (t.locked || t.master) then (s.gtc.offsetBy theta t.depth).step theta
  else { s.gtc.offsetBy theta t.depth with slew := theta }

theorem State.align_eq (s : State) (p : PortId) (theta : Int) :
    s.align p theta = ({ s with gtc := s.offsetApplied p theta } : State).lockCheck p theta := by
  unfold State.align State.offsetApplied
  dsimp only
  split
  · rfl
  · rfl

theorem Gtc.setSixteenths_sixteenths (g : Gtc) {v : Nat} (h : v < 2 ^ 68) : (g.setSixteenths v).sixteenths = v := by
  simp only [Gtc.sixteenths, Gtc.setSixteenths, BitVec.toNat_ofNat]
  omega

theorem State.offsetApplied_kept (s : State) (p : PortId) (theta : Int) :
    (s.offsetApplied p theta).offset = BitVec.ofInt 15 theta ∧
      (s.offsetApplied p theta).lastFour = (theta :: s.gtc.lastFour).take 4 := by
  unfold State.offsetApplied
  dsimp only
  split
  · exact ⟨rfl, rfl⟩
  · exact ⟨rfl, rfl⟩

theorem State.offsetApplied_steps {theta : Int} (himage : s.job.image = none) (hstepped : s.gtc.stepped = false)
    (hsure : ((s.port p).time.locked || (s.port p).time.master) = true) (hpos : 0 ≤ (s.gtc.sixteenths : Int) + theta)
    (hlt : (s.gtc.sixteenths : Int) + theta < 2 ^ 68) :
    ((s.offsetApplied p theta).sixteenths : Int) = s.gtc.sixteenths + theta ∧ (s.offsetApplied p theta).stepped = true := by
  have hgo : (s.job.image.isNone && !s.gtc.stepped && ((s.port p).time.locked || (s.port p).time.master)) = true := by
    rw [himage, hstepped, hsure]
    rfl
  have hval : ((s.gtc.sixteenths : Int) + theta).toNat < 2 ^ 68 := by omega
  rw [State.offsetApplied, if_pos hgo]
  refine ⟨?_, rfl⟩
  change (((s.gtc.offsetBy theta (s.port p).time.depth).setSixteenths ((s.gtc.sixteenths : Int) + theta).toNat).sixteenths : Int) = _
  rw [Gtc.setSixteenths_sixteenths _ hval, Int.toNat_of_nonneg hpos]

theorem State.offsetApplied_slews (theta : Int) (h : s.job.image.isSome = true ∨ s.gtc.stepped = true) :
    (s.offsetApplied p theta).slew = theta ∧ (s.offsetApplied p theta).sixteenths = s.gtc.sixteenths := by
  have hno : ¬ (s.job.image.isNone && !s.gtc.stepped && ((s.port p).time.locked || (s.port p).time.master)) = true := by
    obtain h | h := h
    · rw [Option.isNone_eq_false_iff.2 h]
      exact Bool.false_ne_true
    · rw [h, Bool.not_true, Bool.and_false]
      exact Bool.false_ne_true
  rw [State.offsetApplied, if_neg hno]
  exact ⟨rfl, rfl⟩

/-! ### A TIME frame from the parent (R433) -/

/-- The offset that a TIME frame gives for the exchange it answers, in sixteenths of a nanosecond (R433). -/
def timeOffset (b : List Byte) (arrival : Word) (frac : BitVec 4) (e : BitVec 32 × Word × BitVec 4) : Int :=
  ((16 * (leAt b 16 8 : Int) + leAt b 24 1 % 16 - (16 * e.2.1.toNat + e.2.2.toNat)) -
    (16 * (arrival.toNat : Int) + frac.toNat - (16 * leAt b 0 8 + leAt b 8 1 % 16))) / 2

theorem State.timeReceive_parent {b : List Byte} (arrival : Word) (frac : BitVec 4) {e : BitVec 32 × Word × BitVec 4}
    (hmaster : s.gtc.master = false) (hhold : s.gtc.holdover = false) (hparent : s.gtc.parent.toNat = p.val)
    (hsent : (s.port p).time.sent.find? (fun e => e.1.toNat == leAt b 28 4) = some e) :
    ∃ t : TimeLink, s.timeReceive p b arrival frac =
        (s.modPort p fun x => { x with time := t }).align p (timeOffset b arrival frac e) ∧
      t.locked = (leAt b 10 1).testBit 0 ∧ t.master = (leAt b 10 1).testBit 1 := by
  refine ⟨{ (s.port p).time with
    rxGtc := arrival, rxFrac := frac, rxSeq := BitVec.ofNat 32 (leAt b 12 4), depth := BitVec.ofNat 8 (leAt b 9 1)
    locked := (leAt b 10 1).testBit 0, master := (leAt b 10 1).testBit 1
    sent := ((s.port p).time.sent.dropWhile fun o => o != e).drop 1 }, ?_, rfl, rfl⟩
  have hfrom : ¬ (s.gtc.master || s.gtc.parent.toNat != p.val) = true := by
    rw [hmaster, hparent, bne_self_eq_false]
    exact Bool.false_ne_true
  unfold State.timeReceive
  dsimp only
  rw [State.modPort_gtc, hhold, Bool.false_and, if_neg Bool.false_ne_true, hsent]
  dsimp only
  rw [State.modPort_gtc, State.modPort_gtc, if_neg hfrom, State.modPort_modPort]
  exact congrArg (fun v : State => v.align p (timeOffset b arrival frac e)) (State.modPort_congr rfl)

/-- A TIME frame in order on logical lane 0 is taken by the clock once its header has taken effect. -/
theorem execFrameTime_accepted {f : Frame} (arrival : Word) (frac : BitVec 4) (hlen : f.payload.length = 600)
    (hactive : (s.port p).active = true) (hlane : f.lane = 0) (hhears : (s.port p).hears 0 = true) (herr : f.symErrs ≤ 12)
    (hok : hdrOk f = true) (hty : hdrType f.hdr = 3) (hseq : hdrSeq f.hdr = (s.port p).rxSeq) :
    ∃ x, exec (.frameTime p f arrival frac) s =
        .next ((s.modPort p fun _ => x).timeReceive p f.payload arrival frac) ∧
      x.time = (s.port p).time ∧ x.rxSeq = (s.port p).rxSeq + 1 ∧ x.rxStream = (s.port p).rxStream := by
  have hhears' : (s.port p).hears f.lane.val = true := by rw [hlane]; exact hhears
  obtain ⟨log, hcorrected⟩ := s.corrected_eq p f.lane.val f.symErrs
  have hreceive := (State.receive_readable hactive hhears' herr hok hty).trans ((if_neg (by decide)).trans (if_pos hseq))
  rw [hcorrected, State.modPort_modPort, State.modPort_eq_const, State.port_modPort] at hreceive
  refine ⟨_, (State.onFrame_accepted _ _ hlen hreceive).trans (congrArg Outcome.next (if_pos hlane)), ?_⟩
  obtain ⟨seq, made, stream, first, hheader, -⟩ := LPort.header_eq { s.port p with
    fecCorr := (s.port p).fecCorr + BitVec.ofNat 64 f.symErrs, errLog := log, rxSeq := (s.port p).rxSeq + 1
    replayAsked := false } (hdrAck f.hdr) (hdrCvc f.hdr) (hdrCcnt f.hdr)
  rw [hheader]
  exact ⟨rfl, rfl, rfl⟩

/-- A TIME frame that gives the chip its offset (R433, R435, R436). -/
theorem State.align_gives (s : State) (p : PortId) (theta : Int) : ∃ g, s.align p theta = { s with gtc := g } ∧
    g.offset = BitVec.ofInt 15 theta ∧ g.sixteenths = (s.offsetApplied p theta).sixteenths ∧
    g.stepped = (s.offsetApplied p theta).stepped ∧ g.slew = (s.offsetApplied p theta).slew ∧
    (8 < theta.natAbs → g.locked = false) ∧
    (theta.natAbs ≤ 4 → ((s.port p).time.locked || (s.port p).time.master) = true → 3 ≤ s.gtc.lastFour.length →
      (∀ o ∈ s.gtc.lastFour.take 3, o.natAbs ≤ 4) → g.locked = true) := by
  obtain ⟨hoffset, hfour⟩ := s.offsetApplied_kept p theta
  rw [s.align_eq]
  generalize s.offsetApplied p theta = a at *
  obtain ⟨locked, holdover, thaw, first, n, hcheck, hfar, hnear⟩ := ({ s with gtc := a } : State).lockCheck_eq p theta
  refine ⟨_, hcheck, hoffset, rfl, rfl, rfl, hfar, fun hsmall hsure hthree hall => ?_⟩
  refine hnear (hsmall.trans (by decide)) hsure ?_ ?_
  · change a.lastFour.length = 4
    rw [hfour, List.length_take, List.length_cons]
    omega
  · change ∀ o ∈ a.lastFour, _
    rw [hfour, List.take_succ_cons]
    rintro o (_ | ⟨_, ho⟩)
    · exact hsmall
    · exact hall o ho

/-! ### TICK_SYNC (R430) -/

/-- An edge for which no value is set, or with an image, is judged by its distance from a multiple of 2^20. -/
theorem execTickSyncInEdge_judged (hmaster : s.gtc.master = true) (h : s.gtc.nextEdge = none ∨ s.job.image.isSome = true) :
    exec .tickSyncInEdge s =
      let off : Int := 16 * ((s.gtc.count.toNat + 524288) / 1048576 * 1048576 : Nat) - s.gtc.sixteenths
      if off.natAbs ≤ 16000 then
        .next { s with gtc := { s.gtc with nextEdge := none, slew := off, syncSeen := true } }
      else .next { s with
        gtc := { s.gtc with nextEdge := none }, side := { s.side with tickIgn := s.gtc.count :: s.side.tickIgn } } := by
  change execTickSyncInEdge s = _
  unfold execTickSyncInEdge
  rw [hmaster, Bool.not_true, if_neg Bool.false_ne_true]
  split
  next hedge himage =>
    rw [hedge, himage] at h
    simp at h
  · rfl

end

/-! ### The obligation -/

/-- Settles O29: the IDLE frames before a TIME frame are those that bring the FSEQ to logical lane 0, and its payload is read field
by field; a TIME frame from the parent is accepted, leaves the partner's report, and aligns the GTC by the offset of the exchange
that it answers; an edge of TICK_SYNC_IN is measured against the only multiple of 2^20 that can lie within 1 µs. -/
theorem timeFramesAndPulsesAlignTheClock : Obligations.TimeFramesAndPulsesAlignTheClock := by
  unfold Obligations.TimeFramesAndPulsesAlignTheClock
  intro s p
  dsimp only
  refine ⟨?sent, ?taken, ?pulse, ?other, ?edge, ?set⟩
  case sent =>
    intro n hn hactive hp hroom _ hzero hbefore
    have hpad := LPort.lanePad_eq hn hzero hbefore
    obtain ⟨l, hidles, hlen, hidle⟩ := LPort.idles_eq n (s.port p)
    refine ⟨_, ⟨.time, (s.port p).txSeq + BitVec.ofNat 20 n, 0x3FF, 0, 0, s.timePayload (s.port p) ((s.port p).time.seq + 1),
      (s.port p).rxSeq - 1, [0]⟩, l, execTimeFrameSend_active hactive hp (hpad ▸ hroom), State.modPort_eq_const .., hlen, hidle, ?_⟩
    obtain ⟨hcount, hfrac, hseq, hgtc, hrx⟩ := s.timePayload_fields (s.port p) ((s.port p).time.seq + 1)
    rw [State.port_modPort, hpad, hidles]
    simp only [LPort.emit, hzero]
    exact ⟨trivial, trivial, trivial, trivial, trivial, trivial, hcount, hfrac, hseq, hgtc, hrx, trivial⟩
  case taken =>
    intro f arrival frac e hlen hactive hlane hhears herr hok hty hseq hmaster hhold hparent hsent
    obtain ⟨x, hexec, htime, hrxSeq, hrxStream⟩ :=
      execFrameTime_accepted arrival frac hlen hactive hlane hhears herr hok hty hseq
    obtain ⟨t, hreceive, hlocked, hmasterBit⟩ := State.timeReceive_parent (s := s.modPort p fun _ => x) (p := p)
      arrival frac hmaster hhold hparent (by rw [State.port_modPort, htime]; exact hsent)
    rw [hreceive, State.modPort_modPort] at hexec
    obtain ⟨g, halign, hoffset, hsix, hstepped, hslew, hfar, hnear⟩ :=
      (s.modPort p fun _ => { x with time := t }).align_gives p (timeOffset f.payload arrival frac e)
    have hport : ((s.modPort p fun _ => { x with time := t }).port p) = { x with time := t } := State.port_modPort ..
    rw [hport] at hnear
    dsimp only at hnear
    rw [hlocked, hmasterBit] at hnear
    rw [halign] at hexec
    refine ⟨_, hexec, rfl, hoffset, (congrArg LPort.rxSeq hport).trans hrxSeq, (congrArg LPort.rxStream hport).trans hrxStream,
      fun himage hnot hsure hpos hlt => ?_, fun h => ?_, hfar, hnear⟩
    · obtain ⟨hval, hdone⟩ := State.offsetApplied_steps (s := s.modPort p fun _ => { x with time := t }) (p := p) himage hnot
        (by rw [hport]; dsimp only; rw [hlocked, hmasterBit]; exact hsure) hpos hlt
      exact ⟨(congrArg Nat.cast hsix).trans hval, hstepped.trans hdone⟩
    · obtain ⟨hslewed, hval⟩ := State.offsetApplied_slews (s := s.modPort p fun _ => { x with time := t }) (p := p) _ h
      exact ⟨hslew.trans hslewed, hsix.trans hval⟩
  case pulse =>
    intro hmaster hcount
    have hdue : (s.gtc.master && s.gtc.count.toNat % syncPeriod == 0) = true := by
      rw [hmaster, Bool.true_and, beq_iff_eq]
      exact hcount
    exact if_pos hdue
  case other =>
    intro hmaster
    have hnot : ¬ (s.gtc.master && s.gtc.count.toNat % syncPeriod == 0) = true := by
      rw [hmaster]
      exact Bool.false_ne_true
    have hslave : (!s.gtc.master) = true := by rw [hmaster]; rfl
    exact ⟨if_neg hnot, if_pos hslave⟩
  case edge =>
    intro hmaster h
    rw [execTickSyncInEdge_judged hmaster h]
    dsimp only
    unfold Gtc.sixteenths
    refine ⟨fun n hn => ?_, fun hall => if_neg (Nat.not_le.2 ?_)⟩
    · have hnear : (s.gtc.count.toNat + 524288) / 1048576 = n := by omega
      rw [hnear, Nat.cast_mul]
      exact if_pos hn
    · have hone := hall ((s.gtc.count.toNat + 524288) / 1048576)
      rw [Nat.cast_mul]
      exact hone
  case set =>
    intro v hmaster hedge himage
    have hmaster' : ¬ (!s.gtc.master) = true := by rw [hmaster]; exact Bool.false_ne_true
    refine ⟨_, (if_neg hmaster').trans (by rw [hedge, himage]), rfl, rfl, rfl, rfl⟩

end Sys2Proof.Machine
end


section
/-!
SUPPORT. Lock-step (R451, R452, R454): what a slot boundary sends to the partner, and what becomes of the partner's entries; and
the obligation on it.
-/
namespace Sys2Proof.Machine
-- One declaration at a time keeps the compile of the whole text within its memory.
set_option Elab.async false
open Host

section
variable {s : State}

/-! ### Divergences (R452, R454) -/

/-- The first divergence as the GTC's registers record it. -/
def Gtc.diverged (g : Gtc) (e : LsEntry) (slot now : Word) (skew : Bool) : Gtc :=
  { g with
    lsValid := true, lsSkew := skew, lsUnit := e.unit.setWidth 3, lsTile := e.tile
    lsSlot := slot, lsCount := e.count, lsFound := some now }

/-- An event reported, and kept for its classification. -/
theorem State.report_suspect (s : State) (code : BitVec 16) (kind : UnitKind) (ix : Nat) (d0 d1 : Word) :
    ∃ routers lom integ, (s.report code kind ix d0 d1).1.suspect (s.report code kind ix d0 d1).2 =
      { s with routers := routers, lom := lom, integ := integ } ∧ integ.evreps = s.integ.evreps + 1 := by
  obtain ⟨routers, lom, hreport, -⟩ := s.report_eq code kind ix d0 d1
  rw [hreport]
  exact ⟨_, _, _, rfl, rfl⟩

/-- The first divergence is recorded and reported, and with HALT it ends the job. -/
theorem State.diverge_first (hvalid : s.gtc.lsValid = false) (e : LsEntry) (slot : Word) (skew : Bool) :
    let u := s.diverge e slot skew
    u.gtc = s.gtc.diverged e slot (BitVec.ofNat 64 s.slot) skew ∧ u.integ.evreps = s.integ.evreps + 1 ∧
      (s.job.image.isSome = true → s.job.pending = none →
        u.job.pending = if s.gtc.lsHalt then some ⟨6, slot⟩ else none) ∧ u.tiles = s.tiles ∧ u.mem = s.mem := by
  obtain ⟨routers, lom, integ, hreport, hcount⟩ :=
    ({ s with gtc := s.gtc.diverged e slot (BitVec.ofNat 64 s.slot) skew } : State).report_suspect 0x0031 .chip 0 slot
      (BitVec.ofNat 64 (e.tile.toNat * 256 + e.unit.toNat % 8 * 2 ^ 16 + flagBit 30 skew + flagBit 31 true))
  have hdiverge : s.diverge e slot skew = _ := (if_neg (ne_true_of_eq_false hvalid)).trans
    (congrArg (fun v : State => if v.gtc.lsHalt then v.endJob 6 slot else v) hreport)
  intro u
  rw [show u = _ from hdiverge]
  split
  next hhalt =>
    obtain ⟨hframe, hpending⟩ := State.endJob_job { s with
      gtc := s.gtc.diverged e slot (BitVec.ofNat 64 s.slot) skew, routers := routers, lom := lom, integ := integ } 6 slot
    rw [hframe]
    exact ⟨rfl, hcount, fun himage hnone => (hpending himage hnone).trans (if_pos hhalt).symm, rfl, rfl⟩
  next hhalt => exact ⟨rfl, hcount, fun _ hnone => hnone.trans (if_neg hhalt).symm, rfl, rfl⟩

/-! ### The partner's entries (R452) -/

/-- The state with these entries of the partner held. -/
def State.holding (s : State) (l : List LsHeld) : State := { s with gtc := { s.gtc with lsHeld := l } }

theorem State.holding_self {l : List LsHeld} (h : s.gtc.lsHeld = l) : s.holding l = s := by
  subst h
  rfl

theorem State.lsCompare_of_none_held (h : s.gtc.lsHeld = []) : s.lsCompare = s := by
  unfold State.lsCompare
  dsimp only
  rw [h]
  exact State.holding_self h

theorem State.lsCompare_of_one_held {h : LsHeld} (hheld : s.gtc.lsHeld = [h]) : s.lsCompare =
    match s.lsOwn h.entry with
    | none => s
    | some k => if k.d = h.entry.digest then s.holding [] else (s.holding []).diverge h.entry k.slot false := by
  unfold State.lsCompare
  dsimp only
  rw [hheld, List.filter_singleton, List.filter_singleton]
  cases hown : s.lsOwn h.entry with
  | none => exact State.holding_self hheld
  | some k =>
    dsimp only
    by_cases hd : k.d = h.entry.digest
    · rw [if_pos hd, hd, bne_self_eq_false]
      rfl
    · rw [if_neg hd, bne_iff_ne.2 hd]
      change ((s.holding []).diverge h.entry (match s.lsOwn h.entry with | some k => k.slot | none => 0) false) = _
      rw [hown]

/-- An entry comes in while none is held. -/
theorem execLockstepReceive_one (hen : s.gtc.lsEn = true) (hheld : s.gtc.lsHeld = []) (slot : Word) (e : LsEntry) :
    exec (.lockstepReceive slot [e]) s = .next (match s.lsOwn e with
      | none => s.holding [⟨e, BitVec.ofNat 64 s.slot⟩]
      | some k => if k.d = e.digest then s else s.diverge e k.slot false) := by
  have hon : ¬ (!s.gtc.lsEn) = true := by rw [hen]; exact Bool.false_ne_true
  have hexec : exec (.lockstepReceive slot [e]) s = .next (s.holding [⟨e, BitVec.ofNat 64 s.slot⟩]).lsCompare := by
    refine (if_neg hon).trans ?_
    rw [hheld]
    rfl
  have hcompare := State.lsCompare_of_one_held (s := s.holding [⟨e, BitVec.ofNat 64 s.slot⟩]) rfl
  have hempty : (s.holding [⟨e, BitVec.ofNat 64 s.slot⟩]).holding [] = s := State.holding_self hheld
  rw [hexec, hcompare, hempty]
  rfl

theorem execLockstepSkew_late {h : LsHeld} (hheld : s.gtc.lsHeld = [h]) (hlate : h.since.toNat + 1024 ≤ s.slot) :
    exec .lockstepSkew s = .next ((s.holding []).diverge h.entry (BitVec.ofNat 64 s.slot) true) := by
  change execLockstepSkew s = _
  unfold execLockstepSkew
  rw [hheld, List.filter_singleton, decide_eq_true hlate, List.filter_singleton, decide_eq_false (Nat.not_lt.2 hlate)]
  rfl

theorem execLockstepSkew_early {h : LsHeld} (hheld : s.gtc.lsHeld = [h]) (hearly : s.slot < h.since.toNat + 1024) :
    exec .lockstepSkew s = .next s := by
  change execLockstepSkew s = _
  unfold execLockstepSkew
  rw [hheld, List.filter_singleton, decide_eq_false (Nat.not_le.2 hearly)]
  rfl

/-! ### What goes to the partner (R451) -/

theorem flatten_chunks {α : Type} {k : Nat} (n : Nat) (l : List α) (h : l.length ≤ n * k) :
    (chunks n k l).flatten = l := by
  induction n generalizing l with
  | zero => simpa [chunks, tab] using (List.eq_nil_of_length_eq_zero (by omega)).symm
  | succ n ih =>
    have hrest := ih (l.drop k) (by rw [List.length_drop, Nat.succ_mul] at *; omega)
    have hnext : (fun i => (l.drop ((i + 1) * k)).take k) = fun i => ((l.drop k).drop (i * k)).take k := by
      funext i
      rw [List.drop_drop, Nat.succ_mul, Nat.add_comm]
    rw [chunks, tab_succ, hnext, List.flatten_cons, Nat.zero_mul, List.drop_zero]
    exact (congrArg (l.take k ++ ·) hrest).trans (List.take_append_drop k l)

/-- Packets joined to the first queue of a port. -/
def State.queued (s : State) (p : PortId) (l : List QPkt) (free : Nat) : State :=
  { (s.modPort p fun x => { x with queues := x.queues.set 0 (x.queues[0] ++ l) }) with free := free }

theorem State.queued_port (s : State) (p : PortId) (l : List QPkt) (free : Nat) : ((s.queued p l free).port p).queues =
    (s.port p).queues.set 0 ((s.port p).queues[0] ++ l) :=
  congrArg LPort.queues (s.port_modPort p fun x => { x with queues := x.queues.set 0 (x.queues[0] ++ l) })

theorem State.queued_port_ne (s : State) {p p' : PortId} (l : List QPkt) (free : Nat) (h : p' ≠ p) :
    (s.queued p l free).port p' = s.port p' :=
  s.port_modPort_ne (fun x => { x with queues := x.queues.set 0 (x.queues[0] ++ l) }) h

theorem State.queued_nil (s : State) (p : PortId) : s.queued p [] s.free = s := by
  have hsame : (s.modPort p fun x => { x with queues := x.queues.set 0 (x.queues[0] ++ []) }) = s :=
    State.modPort_of_fixed (by rw [List.append_nil, Vector.set_getElem_self])
  rw [State.queued, hsame]

theorem State.queued_queued (s : State) (p : PortId) (l m : List QPkt) (free free' : Nat) :
    (s.queued p l free).queued p m free' = s.queued p (l ++ m) free' := by
  have htwice : ((s.modPort p fun x => { x with queues := x.queues.set 0 (x.queues[0] ++ l) }).modPort p fun x =>
      { x with queues := x.queues.set 0 (x.queues[0] ++ m) }) =
      s.modPort p fun x => { x with queues := x.queues.set 0 (x.queues[0] ++ (l ++ m)) } := by
    rw [State.modPort_modPort]
    exact State.modPort_congr (by simp)
  exact congrArg (fun v : State => { v with free := free' }) htwice

/-- A packet of class 0 from this chip joins the first queue of the one port it leaves by. -/
theorem State.enqueue_one (s : State) (p : PortId) {pkt : Packet} (hclass : pktClass pkt = 0) :
    s.enqueue pkt .network [(p, false)] = s.queued p [⟨pkt, false, 20, arrivalVc pkt, s.free⟩] (s.free + 1) := by
  have hbound : 2 * pktClass pkt + false.toNat < 8 := by
    rw [hclass]
    decide
  have hvc : (⟨2 * pktClass pkt + false.toNat, hbound⟩ : Fin 8) = 0 := Fin.ext (show 2 * pktClass pkt + 0 = 0 by rw [hclass])
  exact congrArg (fun vc : Fin 8 => s.takeFree.2.modPort p fun x =>
    { x with queues := x.queues.set vc (x.queues[vc] ++ [⟨pkt, false, 20, arrivalVc pkt, s.free⟩]) }) hvc

/-- A packet put into the queue of the lock-step port. -/
def State.lsEnqueue (s : State) (pkt : Packet) : State :=
  s.enqueue pkt .network [(⟨s.gtc.lsPort.toNat % 20, Nat.mod_lt _ (by decide)⟩, false)]

theorem State.lsEnqueue_eq {p : PortId} (hp : p.val = s.gtc.lsPort.toNat) {pkt : Packet} (hclass : pktClass pkt = 0) :
    s.lsEnqueue pkt = s.queued p [⟨pkt, false, 20, arrivalVc pkt, s.free⟩] (s.free + 1) := by
  have hport : (⟨s.gtc.lsPort.toNat % 20, Nat.mod_lt _ (by decide)⟩ : PortId) = p :=
    Fin.ext (show s.gtc.lsPort.toNat % 20 = p.val by rw [← hp, Nat.mod_eq_of_lt p.isLt])
  rw [State.lsEnqueue, hport, State.enqueue_one s p hclass]

theorem State.lsEnqueue_each {p : PortId} {pkt : List Byte → Packet} (hclass : ∀ b, pktClass (pkt b) = 0)
    (l : List (List Byte)) (s : State) (hp : p.val = s.gtc.lsPort.toNat) : ∃ m free,
    l.foldl (fun s b => s.lsEnqueue (pkt b)) s = s.queued p m free ∧ m.map (·.pkt) = l.map pkt ∧ ∀ q ∈ m, q.vcb = false := by
  induction l generalizing s with
  | nil => exact ⟨[], s.free, s.queued_nil p |>.symm, rfl, by simp⟩
  | cons b l ih =>
    have hone := State.lsEnqueue_eq hp (hclass b)
    obtain ⟨m, free, hrest, hpkts, hvcb⟩ := ih (s.lsEnqueue (pkt b)) (by rw [hone]; exact hp)
    refine ⟨⟨pkt b, false, 20, arrivalVc (pkt b), s.free⟩ :: m, free, ?_, by rw [List.map_cons, hpkts, List.map_cons], ?_⟩
    · rw [List.foldl_cons, hrest, hone, State.queued_queued, List.singleton_append]
    · rintro q (_ | ⟨_, hq⟩)
      · rfl
      · exact hvcb q hq

/-- What the entries that changed in a slot come to in bytes (R451). -/
def lsBody (slot : Word) (l : List LsEntry) : List Byte :=
  leBytes 8 slot.toNat ++ List.replicate 8 0 ++ l.flatMap fun e =>
    [e.unit, e.tile, 0, 0] ++ leBytes 4 e.count.toNat ++ leBytes 8 e.digest.toNat

/-- A packet to the partner (R451). -/
def State.lsPacket (s : State) (b : List Byte) : Packet :=
  { dst := s.lsPartner.setWidth 32, src := s.routers[0].self.setWidth 32, ctl := 0
    ept := 0xF0#8 ||| s.routers[0].epoch.setWidth 8, tag := 0, masks := [], payload := b }

theorem State.lsPacket_class (s : State) (b : List Byte) : pktClass (s.lsPacket b) = 0 := rfl

theorem State.lsPacket_type (s : State) (b : List Byte) : pktType (s.lsPacket b) = 15 := by
  have hhigh : ∀ e : BitVec 4, (0xF0#8 ||| e.setWidth 8).toNat / 16 = 15 := by decide
  exact hhigh s.routers[0].epoch

theorem lsBody_drop (slot : Word) (l : List LsEntry) : (lsBody slot l).drop 16 = l.flatMap fun e =>
    [e.unit, e.tile, 0, 0] ++ leBytes 4 e.count.toNat ++ leBytes 8 e.digest.toNat := by
  have hhead : (leBytes 8 slot.toNat ++ List.replicate 8 (0 : Byte)).length = 16 := by
    rw [List.length_append, leBytes_length, List.length_replicate]
  exact List.drop_left' hhead

/-- The body in packets of at most 1,024 bytes. -/
theorem lsBody_chunks (slot : Word) (l : List LsEntry) :
    let b := chunks (cdiv (lsBody slot l).length 1024) 1024 (lsBody slot l)
    b.flatten = lsBody slot l ∧ b ≠ [] := by
  intro b
  have hflat : b.flatten = lsBody slot l := flatten_chunks _ _ (by unfold cdiv; omega)
  refine ⟨hflat, fun h => ?_⟩
  rw [h] at hflat
  have hlen := congrArg List.length hflat
  simp only [lsBody, List.length_append, leBytes_length, List.flatten_nil, List.length_nil] at hlen
  omega

/-! ### A slot boundary (R451, R452) -/

/-- The slot that ends. -/
def State.lsSlot (s : State) : Word := BitVec.ofNat 64 (s.slot - 1)

/-- The entries that changed in it. -/
def State.lsChanged (s : State) : List LsEntry :=
  (s.digested.filter fun e => !s.gtc.lsSent.contains e && e.count != 0).take 394

/-- The counts that this chip reached in it. -/
def State.lsReached (s : State) : List LsHist := s.slotHist.map fun k => { k with slot := s.lsSlot }

/-- The changed entries as the history keeps them. -/
def State.lsNew (s : State) : List LsHist := s.lsChanged.map fun e => ⟨e.unit, e.tile, e.count, e.digest, s.lsSlot⟩

/-- The state once the slot has ended, before anything is sent. -/
def State.lsPassed (s : State) : State :=
  { s.endSlot with gtc := { s.gtc with
    lsSent := (s.gtc.lsSent.filter fun o => !s.lsChanged.any fun e => e.unit == o.unit && e.tile == o.tile) ++ s.lsChanged
    lsHist := (s.gtc.lsHist ++ s.lsReached ++ s.lsNew.filter fun k => !s.lsReached.contains k).filter fun k =>
      s.lsSlot.toNat < k.slot.toNat + 1024 } }

theorem execLockstepSend_active {p : PortId} (hen : s.gtc.lsEn = true) (hheld : s.gtc.lsHeld = [])
    (hp : p.val = s.gtc.lsPort.toNat) : ∃ m free, exec .lockstepSend s = .next (s.lsPassed.queued p m free) ∧
      (m = [] ↔ s.lsChanged = []) ∧ (∀ q ∈ m, pktClass q.pkt = 0 ∧ pktType q.pkt = 15 ∧ q.vcb = false) ∧
      (m.flatMap (·.pkt.payload)).drop 16 = s.lsChanged.flatMap fun e =>
        [e.unit, e.tile, 0, 0] ++ leBytes 4 e.count.toNat ++ leBytes 8 e.digest.toNat := by
  have hon : ¬ (!s.gtc.lsEn) = true := by rw [hen]; exact Bool.false_ne_true
  have hlt : s.gtc.lsPort.toNat < 20 := hp ▸ p.isLt
  have hexec : exec .lockstepSend s = .next (if s.lsChanged.isEmpty then s.lsPassed else
      (chunks (cdiv (lsBody s.lsSlot s.lsChanged).length 1024) 1024 (lsBody s.lsSlot s.lsChanged)).foldl
        (fun u b => u.lsEnqueue (s.lsPacket b)) s.lsPassed).lsCompare :=
    (if_neg hon).trans (congrArg (fun u : State => Outcome.next u.lsCompare) (if_pos hlt))
  cases hnew : s.lsChanged with
  | nil =>
    refine ⟨[], s.lsPassed.free, ?_, by simp, by simp, rfl⟩
    rw [hexec, hnew, State.queued_nil]
    exact congrArg Outcome.next (State.lsCompare_of_none_held hheld)
  | cons e l =>
    obtain ⟨hflat, hsome⟩ := lsBody_chunks s.lsSlot s.lsChanged
    obtain ⟨m, free, hsent, hpkts, hvcb⟩ := State.lsEnqueue_each s.lsPacket_class
      (chunks (cdiv (lsBody s.lsSlot s.lsChanged).length 1024) 1024 (lsBody s.lsSlot s.lsChanged)) s.lsPassed hp
    have hfull : ¬ s.lsChanged.isEmpty = true := by rw [hnew]; exact Bool.false_ne_true
    rw [if_neg hfull, hsent] at hexec
    rw [← hnew]
    refine ⟨m, free, hexec.trans (congrArg Outcome.next (State.lsCompare_of_none_held hheld)), ?_, fun q hq => ?_, ?_⟩
    · rw [hnew]
      refine iff_of_false (fun h => hsome ?_) (List.cons_ne_nil e l)
      rw [h] at hpkts
      exact List.map_eq_nil_iff.1 hpkts.symm
    · obtain ⟨b, -, hb⟩ := List.mem_map.1 (hpkts ▸ List.mem_map_of_mem hq)
      rw [← hb]
      exact ⟨s.lsPacket_class b, s.lsPacket_type b, hvcb q hq⟩
    · have hpayload : m.flatMap (·.pkt.payload) = lsBody s.lsSlot s.lsChanged := by
        rw [← hflat, ← List.flatMap_map (fun q : QPkt => q.pkt) (fun k : Packet => k.payload), hpkts, List.flatMap_map]
        exact List.flatMap_id
      rw [hpayload, lsBody_drop]

theorem State.endSlot_tile (s : State) (t : TileId) :
    s.endSlot.tile t = { s.tile t with digests := (s.tile t).digests.map Digest.endSlot } :=
  Vector.getElem_map ..

theorem State.endSlot_cluster (s : State) (c : ClusterId) :
    s.endSlot.cluster c = { s.cluster c with digest := (s.cluster c).digest.endSlot } :=
  Vector.getElem_map ..

theorem State.endSlot_router (s : State) (d : Die) :
    s.endSlot.router d = { s.router d with digest := (s.router d).digest.endSlot } :=
  Vector.getElem_map ..

/-- What a slot's changed entries leave in the history. -/
theorem State.lsPassed_hist {e : LsEntry} (he : e ∈ s.lsChanged) :
    ⟨e.unit, e.tile, e.count, e.digest, s.lsSlot⟩ ∈ s.lsPassed.gtc.lsHist := by
  have hnew : (⟨e.unit, e.tile, e.count, e.digest, s.lsSlot⟩ : LsHist) ∈ s.lsNew := List.mem_map.2 ⟨e, he, rfl⟩
  refine List.mem_filter.2 ⟨List.mem_append.2 ?_, decide_eq_true (Nat.lt_add_of_pos_right (by decide))⟩
  by_cases hold : s.lsReached.contains ⟨e.unit, e.tile, e.count, e.digest, s.lsSlot⟩ = true
  · exact .inl (List.mem_append_right _ (by simpa using hold))
  · exact .inr (List.mem_filter.2 ⟨hnew, by simpa using hold⟩)

end

/-! ### The obligation -/

/-- Settles O31: a slot boundary cuts the changed entries into packets that join one queue of the lock-step port; an entry that
comes in is compared at once with this chip's own of equal count, and held when there is none; one held too long is a divergence. -/
theorem lockstepComparesDigests : Obligations.LockstepComparesDigests := by
  unfold Obligations.LockstepComparesDigests
  intro s
  dsimp only
  refine ⟨fun hoff => ?off, fun hen hheld => ⟨fun p hp => ?sent, fun slot e => ?taken⟩, fun h hheld hvalid => ?skew⟩
  case off =>
    have hoff' : (!s.gtc.lsEn) = true := by rw [hoff]; rfl
    exact ⟨if_pos hoff', fun _ _ => if_pos hoff'⟩
  case sent =>
    obtain ⟨m, free, hexec, hempty, hkind, hbytes⟩ := execLockstepSend_active hen hheld hp
    refine ⟨_, m, hexec, rfl, fun t => ?_, fun c => ?_, fun d => ?_, 
      fun p' hne => s.lsPassed.queued_port_ne m free hne, s.lsPassed.queued_port p m free, hempty, hkind, hbytes,
       fun e he => ⟨List.mem_append_right _ he, _, State.lsPassed_hist he, rfl, rfl, rfl, rfl⟩⟩
    · change s.endSlot.tile t = { s.tile t with digests := (s.endSlot.tile t).digests }
      rw [s.endSlot_tile]
    · change s.endSlot.cluster c = { s.cluster c with digest := (s.endSlot.cluster c).digest }
      rw [s.endSlot_cluster]
    · change s.endSlot.router d = { s.router d with digest := (s.endSlot.router d).digest }
      rw [s.endSlot_router]
  case taken =>
    rw [execLockstepReceive_one hen hheld]
    refine ⟨fun hown => ?_, fun k hown hd => ?_, fun k hown hd hvalid => ?_⟩
    · rw [show s.lsOwn e = none from hown]
      rfl
    · rw [show s.lsOwn e = some k from hown]
      exact congrArg Outcome.next (if_pos hd)
    · rw [show s.lsOwn e = some k from hown]
      obtain ⟨hgtc, hcount, hpending, htiles, hmem⟩ := State.diverge_first hvalid e k.slot false
      exact ⟨_, congrArg Outcome.next (if_neg hd), hgtc, hcount, hpending, htiles, hmem⟩
  case skew =>
    refine ⟨fun hlate => ?_, fun hearly => ?_⟩
    · obtain ⟨hgtc, hcount, -⟩ := (s.holding []).diverge_first hvalid h.entry (BitVec.ofNat 64 s.slot) true
      refine ⟨_, execLockstepSkew_late hheld hlate, ?_⟩
      rw [hgtc]
      exact ⟨rfl, rfl, rfl, rfl, hcount⟩
    · exact execLockstepSkew_early hheld hearly

end Sys2Proof.Machine
end


section
/-!
SUPPORT. LAUNCH and QUIESCE (R437, R491, R503) and the boundary at which a launched job begins (R438, R439); and the obligation
on them.
-/
namespace Sys2Proof.Machine
-- One declaration at a time keeps the compile of the whole text within its memory.
set_option Elab.async false
open Host

section
variable {s : State} {c : Cmd} {q : QPair}

theorem State.commitCmd_gtc (h : s.Sole c q) (status : Nat) (r0 r1 : Word) :
    (s.commitCmd c.handle status r0 r1).gtc = s.gtc := by
  obtain ⟨hframe, -⟩ := State.commitCmd_frame h status r0 r1
  rw [hframe]

theorem State.setLock_router (s : State) (b : Bool) (d : Die) : (s.setLock b).router d = { s.router d with lock := b } :=
  Vector.getElem_map ..

/-! ### LAUNCH -/

/-- The job launched at a count. -/
def State.launchedAt (s : State) (l : Nat) : State :=
  { s.setLock true with
    gtc := { s.gtc with launch := BitVec.ofNat 64 l }
    job := { s.job with
      launched := true, stepL := s.job.step, base := ((l / 64 : Nat) : Int) - s.job.resume.slotOff } }

section
variable (h : s.takes c q 0x11)
include h

theorem execLaunch_misaligned (hmod : c.arg 8 8 % 64 ≠ 0) :
    exec (.launch c.handle) s = .next (s.commitCmd c.handle 0x31 0 0) := by
  change execLaunch c.handle s = _
  rw [execLaunch, State.runCmd_takes h (by decide) rfl]
  exact congrArg Outcome.next (if_pos hmod)

variable (hmod : c.arg 8 8 % 64 = 0)
include hmod

theorem execLaunch_tooNear (hnear : c.arg 8 8 < s.gtc.count.toNat + 200000) :
    exec (.launch c.handle) s = .next (s.commitCmd c.handle 0x32 0 0) := by
  change execLaunch c.handle s = _
  rw [execLaunch, State.runCmd_takes h (by decide) rfl]
  exact congrArg Outcome.next ((if_neg (not_not_intro hmod)).trans (if_pos hnear))

variable (hfar : s.gtc.count.toNat + 200000 ≤ c.arg 8 8)
include hfar

theorem execLaunch_unlocked (hlocked : s.gtc.locked = false) (hmaster : s.gtc.master = false) :
    exec (.launch c.handle) s = .next (s.commitCmd c.handle 0x33 0 0) := by
  have hno : (!(s.gtc.locked || s.gtc.master)) = true := by
    rw [hlocked, hmaster]
    rfl
  change execLaunch c.handle s = _
  rw [execLaunch, State.runCmd_takes h (by decide) rfl]
  exact congrArg Outcome.next ((if_neg (not_not_intro hmod)).trans ((if_neg (Nat.not_lt.2 hfar)).trans (if_pos hno)))

variable (htimed : s.gtc.locked = true ∨ s.gtc.master = true)
include htimed

/-- In time and with a clock, LAUNCH turns on the image that waits. -/
theorem execLaunch_timed : exec (.launch c.handle) s = .next (if !s.waitsToLaunch then s.commitCmd c.handle 0x34 0 0 else
    match (match s.job.image with
      | some im => if s.routers[0].lock then none else s.portFault im.portmin
      | none => none) with
    | some f => ({ s with job := { s.job with reason := BitVec.ofNat 16 f.1 } } : State).commitCmd c.handle 0x30 0 0
    | none => (s.launchedAt (c.arg 8 8)).commitCmd c.handle 0 s.job.step 0) := by
  have hok : ¬ (!(s.gtc.locked || s.gtc.master)) = true := by
    rw [Bool.or_eq_true_iff.2 htimed]
    exact Bool.false_ne_true
  change execLaunch c.handle s = _
  rw [execLaunch, State.runCmd_takes h (by decide) rfl]
  exact congrArg Outcome.next ((if_neg (not_not_intro hmod)).trans ((if_neg (Nat.not_lt.2 hfar)).trans (if_neg hok)))

theorem execLaunch_noImage (hnone : s.job.image = none ∨ s.job.launched = true) :
    exec (.launch c.handle) s = .next (s.commitCmd c.handle 0x34 0 0) := by
  have hno : (!s.waitsToLaunch) = true := by
    obtain hnone | hnone := hnone <;> simp [State.waitsToLaunch, hnone]
  exact (execLaunch_timed h hmod hfar htimed).trans (congrArg Outcome.next (if_pos hno))

theorem execLaunch_accepted {im : Image} (himage : s.job.image = some im) (hlaunched : s.job.launched = false)
    (hpending : s.job.pending = none) (hports : s.routers[0].lock = true ∨ s.portFault im.portmin = none) :
    exec (.launch c.handle) s = .next ((s.launchedAt (c.arg 8 8)).commitCmd c.handle 0 s.job.step 0) := by
  have hwaits : ¬ (!s.waitsToLaunch) = true := by simp [State.waitsToLaunch, himage, hlaunched, hpending]
  have hfault : (if s.routers[0].lock then none else s.portFault im.portmin) = none := by
    obtain hlock | hnone := hports
    · rw [if_pos hlock]
    · rw [hnone, ite_self]
  rw [execLaunch_timed h hmod hfar htimed, if_neg hwaits, himage]
  dsimp only
  rw [hfault]

end

theorem State.launchedAt_sole (h : s.Sole c q) (l : Nat) : (s.launchedAt l).Sole c q := h.congr rfl rfl rfl

/-! ### QUIESCE -/

theorem execQuiesce_idle (h : s.takes c q 0x12) (hidle : s.job.running = false) :
    exec (.quiesce c.handle) s = .next (s.commitCmd c.handle 0x16 0 0) := by
  have hnone : s.cancelAdmit = s := by
    obtain ⟨⟨hcmds, hstage, -⟩, -⟩ := h
    rw [State.cancelAdmit, State.cancelAll_none fun d hd => ?_, State.flush_none fun d hd => ?_]
    · rw [hcmds, List.mem_singleton] at hd
      rw [hd, Cmd.status, hstage]
    · rw [hcmds, List.mem_singleton] at hd
      rw [hd, Cmd.admitting, hstage]
      exact Bool.and_false _
  have hrunning : ¬ (s.job.running && s.job.pending.isNone) = true := by
    rw [hidle]
    exact Bool.false_ne_true
  change execQuiesce c.handle s = _
  rw [execQuiesce, State.runCmd_takes h (by decide) rfl, if_neg hrunning, hnone]

theorem execQuiesce_waits (h : s.takes c q 0x12) (hrunning : s.job.running = true) (hpending : s.job.pending = none)
    (hquiesce : s.job.quiesce = none) : exec (.quiesce c.handle) s = .next { s with
      job := { s.job with quiesce := some s.job.step }
      ouvzu := { s.ouvzu with cmds := [{ c with stage := .executing }] } } := by
  have hgo : (s.job.running && s.job.pending.isNone) = true := by
    rw [hrunning, hpending]
    rfl
  change execQuiesce c.handle s = _
  rw [execQuiesce, State.runCmd_takes h (by decide) rfl, if_pos hgo, hquiesce, Option.getD_none]
  exact congrArg Outcome.next (State.executing_sole (s := { s with job := { s.job with quiesce := some s.job.step } }) h.1.1)

/-- A tile held for the next launch: what a WAITSLOT waits for counts from the boundary. -/
def Tile.heldAt (x : Tile) (slot : Int) : Tile :=
  { x with seq := { x.seq with run := false, slotWait := x.seq.slotWait.map fun n => n - BitVec.ofInt 64 slot } }

/-- The job stopped at the end of a step, its image waiting to launch at the next. -/
def State.heldAfter (s : State) (v : Word) : State :=
  { s.setLock false with
    tiles := s.tiles.map fun x => x.heldAt (s.baseOf (v.toNat + 1))
    gtc := { s.gtc with launch := 0 }
    job := { s.job with
      running := false, launched := false, quiesce := none, admState := 2, step := v + 1
      resume := ⟨v + 1, 0⟩, colls := [], pending := some ⟨0, 0⟩ } }

theorem State.heldAfter_tile (s : State) (v : Word) (t : TileId) :
    (s.heldAfter v).tile t = (s.tile t).heldAt (s.baseOf (v.toNat + 1)) := Vector.getElem_map ..

theorem State.heldAfter_router (s : State) (v : Word) (d : Die) : (s.heldAfter v).router d = { s.router d with lock := false } :=
  s.setLock_router false d

theorem execQuiesceDone_done {v : Word} (h : s.executes c q 0x12) (hquiesce : s.job.quiesce = some v)
    (hrunning : s.job.running = true) (hslot : 64 * s.baseOf (v.toNat + 1) ≤ (s.gtc.count.toNat : Int))
    (htiles : ∀ t : TileId, (s.tile t).idleAt (s.baseOf (v.toNat + 1)) = true)
    (hserac : ∀ k : ClusterId, s.seracDone k v.toNat = true) (hcolls : ∀ i ∈ s.job.colls, i.ended.isSome = true)
    (hmoraine : s.moraineDone v = true) :
    exec (.quiesceDone c.handle) s = .next ((s.heldAfter v).commitCmd c.handle 0 v 0) := by
  obtain ⟨hcmds, hstage, -, -, -, -, -, -, hopc⟩ := h
  have hall : s.tiles.toList.all (fun x => x.idleAt (s.baseOf (v.toNat + 1))) = true := by
    rw [List.all_eq_true]
    intro x hx
    obtain ⟨i, hi, rfl⟩ := Vector.mem_iff_getElem.1 (Vector.mem_toList_iff.1 hx)
    exact htiles ⟨i, hi⟩
  have hserac' : ([0, 1, 2, 3, 4, 5, 6, 7] : List ClusterId).all (fun c => s.seracDone c v.toNat) = true :=
    List.all_eq_true.2 fun k _ => hserac k
  have hcolls' : s.job.colls.all (fun c => c.ended.isSome) = true := List.all_eq_true.2 hcolls
  have hseen : s.observed (s.baseOf (v.toNat + 1)) = true := decide_eq_true hslot
  have hcapture : (s.ouvzu.cmds.filter fun c => c.opc == 0x14 && c.stage == .executing) = [] := by
    rw [hcmds, List.filter_cons_of_neg (by simp [hopc]), List.filter_nil]
  have hmine : (s.ouvzu.cmds.filter fun c => c.opc == 0x12 && c.stage == .executing) = [c] := by
    rw [hcmds, List.filter_cons_of_pos (by rw [hopc, hstage]; rfl), List.filter_nil]
  change execQuiesceDone c.handle s = _
  unfold execQuiesceDone
  rw [State.cmd_handle hcmds, hquiesce]
  dsimp only
  rw [hopc, hstage, hrunning, hseen, hall, hserac', hcolls', hmoraine]
  refine (if_pos rfl).trans (congrArg Outcome.next ?_)
  change State.settle (State.flush (((((s.ouvzu.cmds.filter fun c => c.opc == 0x14 && c.stage == .executing).foldl
    (fun s c => s.dropCapture.setCommitted c.handle 0x22 0 0) (s.heldAfter v)).ouvzu.cmds.filter
      fun c => c.opc == 0x12 && c.stage == .executing).foldl (fun s c => s.setCommitted c.handle 0 v 0)
    ((s.ouvzu.cmds.filter fun c => c.opc == 0x14 && c.stage == .executing).foldl
      (fun s c => s.dropCapture.setCommitted c.handle 0x22 0 0) (s.heldAfter v))))) = _
  rw [hcapture, List.foldl_nil, show (s.heldAfter v).ouvzu.cmds = s.ouvzu.cmds from rfl, hmine]
  rfl

/-! ### The boundary (R438, R439) -/

/-- A tile as a launch for the first time starts it. -/
def Tile.startAt (x : Tile) (l : Word) : Tile :=
  { x with seq := { x.seq with
    run := !x.seq.ended, phase := 0, phaseCom := 0, slotWait := x.seq.slotWait.map fun n => n + l / 64
    stayFrom := l, stayLate := x.seq.nLate } }

/-- The job begun for the first time, with no collective of its own yet. -/
def State.jobBegun (s : State) : State :=
  { s with
    job := { s.job with
      running := true, admState := 3, restored := false, stopped := [], resume := ⟨0, 0⟩
      colls := s.newInstances s.job.step }
    ckpt := { s.ckpt with state := 0 }
    tiles := s.tiles.map fun x => x.startAt s.gtc.launch
    clusters := s.clusters.map fun c => { c with paused := false, step := s.job.step, ended := [] } }

theorem State.jobBegun_tile (s : State) (t : TileId) : s.jobBegun.tile t = (s.tile t).startAt s.gtc.launch := Vector.getElem_map ..

theorem State.jobBegun_cluster (s : State) (k : ClusterId) :
    s.jobBegun.cluster k = { s.cluster k with paused := false, step := s.job.step, ended := [] } := Vector.getElem_map ..

theorem zip_range_fst {α : Type} (l : List α) : ((List.range l.length).zip l).map Prod.fst = List.range l.length :=
  List.map_fst_zip (by rw [List.length_range])

/-- The instances of a step stand for the image's declarations in turn, none started. -/
theorem State.newInstances_of_image {im : Image} (himage : s.job.image = some im) (n : Word) :
    (s.newInstances n).map (·.ix) = List.range im.colls.length ∧
      ∀ i ∈ s.newInstances n, i.step = n ∧ i.started = false ∧ i.ended = none := by
  unfold State.newInstances
  rw [himage]
  refine ⟨?_, fun i hi => ?_⟩
  · rw [List.map_map]
    exact zip_range_fst im.colls
  · obtain ⟨k, -, rfl⟩ := List.mem_map.1 hi
    exact ⟨rfl, rfl, rfl⟩

/-- Each has a declaration. -/
theorem State.newInstances_declared (n : Word) : ∀ i ∈ s.newInstances n, (s.collDecl i.ix).isSome = true := by
  cases himage : s.job.image with
  | none =>
    intro i hi
    rw [State.newInstances, himage] at hi
    exact absurd hi List.not_mem_nil
  | some im =>
    intro i hi
    have hix := (s.newInstances_of_image himage n).1 ▸ List.mem_map_of_mem (f := fun i : CollInst => i.ix) hi
    have hlt : i.ix < im.colls.length := List.mem_range.1 hix
    simp [State.collDecl, himage, hlt]

theorem execLaunchBoundary_early (hearly : s.gtc.count.toNat < 64 * (s.gtc.launch.toNat / 64)) :
    exec .launchBoundary s = .next s := by
  have hno : s.observed (s.gtc.launch.toNat / 64 : Nat) = false :=
    decide_eq_false (Int.not_le.2 (by exact_mod_cast hearly))
  refine if_neg ?_
  rw [show s.observed (s.gtc.launch.toNat / 64) = s.observed (s.gtc.launch.toNat / 64 : Nat) from rfl, hno, Bool.and_false]
  exact Bool.false_ne_true

theorem execLaunchBoundary_begins (hlaunched : s.job.launched = true) (hnot : s.job.running = false)
    (hslot : 64 * (s.gtc.launch.toNat / 64) ≤ s.gtc.count.toNat) (hrestored : s.job.restored = false)
    (hckpt : s.ckpt.state ≠ 4) (hstopped : s.job.stopped = []) (hoff : s.job.resume.slotOff = 0) (hcolls : s.job.colls = []) :
    exec .launchBoundary s = .next s.jobBegun := by
  have hgo : (s.job.launched && !s.job.running && s.observed (s.gtc.launch.toNat / 64 : Nat)) = true := by
    rw [hlaunched, hnot, State.observed, decide_eq_true (by exact_mod_cast hslot)]
    rfl
  have hkept : (s.job.restored || s.ckpt.state == 4) = false := by
    rw [hrestored, beq_eq_false_iff_ne.2 hckpt]
    rfl
  have hdue : (s.newInstances s.job.step).filter (fun c => match s.collDecl c.ix with
      | some (d, _) => decide (0 ≤ d.start)
      | none => false) = s.newInstances s.job.step := by
    refine List.filter_eq_self.2 fun i hi => ?_
    obtain ⟨⟨d, t⟩, hdecl⟩ := Option.isSome_iff_exists.1 (State.newInstances_declared _ i hi)
    rw [hdecl]
    exact decide_eq_true (Nat.zero_le _)
  refine (if_pos hgo).trans ?_
  dsimp only
  rw [hkept, hstopped, hoff, hcolls, List.filter_nil, List.foldl_nil, List.nil_append]
  exact congrArg (fun l => Outcome.next { s.jobBegun with job := { s.jobBegun.job with colls := l } }) hdue

end

/-! ### The obligation -/

/-- Settles O30: LAUNCH's checks are taken in the order of their codes, QUIESCE holds the job at the boundary where every unit is
idle, and at boundary L each tile, each cluster and each declared collective starts. -/
theorem launchStartsAndQuiesceEnds : Obligations.LaunchStartsAndQuiesceEnds := by
  unfold Obligations.LaunchStartsAndQuiesceEnds
  refine ⟨fun s c q => ⟨fun h => ?launch, fun h => ⟨fun hidle => ?idle, fun hrunning hpending hquiesce => ?waits⟩, ?done⟩,
    fun s hlaunched hnot => ⟨execLaunchBoundary_early, fun hslot hrestored hckpt hstopped hoff hcolls => ?begins⟩⟩
  case launch =>
    have hsole := h.1.sole
    refine ⟨fun hmod => State.commitCmd_only hsole (by norm_num) (execLaunch_misaligned h hmod),
      fun hmod hnear => State.commitCmd_only hsole (by norm_num) (execLaunch_tooNear h hmod hnear),
      fun hmod hfar => ⟨fun hlocked hmaster =>
        State.commitCmd_only hsole (by norm_num) (execLaunch_unlocked h hmod hfar hlocked hmaster), fun htimed =>
        ⟨fun hnone => State.commitCmd_only hsole (by norm_num) (execLaunch_noImage h hmod hfar htimed hnone),
          fun im himage hlaunched hpending hports => ?_⟩⟩⟩
    have hlast := State.launchedAt_sole hsole (c.arg 8 8)
    obtain ⟨hjob, -, -, hrouters⟩ := State.commitCmd_left hlast 0 s.job.step 0
    refine ⟨_, execLaunch_accepted h hmod hfar htimed himage hlaunched hpending hports,
      State.commitCmd_records hlast (by norm_num) _ _, State.commitCmd_onlyRecord hlast _ _ _,
      State.commitCmd_gtc hlast _ _ _, hjob, fun d => ?_, ?_⟩
    · rw [State.router_congr hrouters]
      exact s.setLock_router true d
    · obtain ⟨hframe, -⟩ := State.commitCmd_frame hlast 0 s.job.step 0
      rw [hframe]
      rfl
  case idle =>
    obtain ⟨u, hu, hrec, -⟩ := State.commitCmd_only h.1.sole (by norm_num) (execQuiesce_idle h hidle)
    exact ⟨u, hu, hrec⟩
  case waits => exact execQuiesce_waits h hrunning hpending hquiesce
  case done =>
    intro v slot h hquiesce hrunning hslot htiles hserac hcolls hmoraine
    have hbase : slot = s.baseOf (v.toNat + 1) := by
      rw [State.baseOf, Nat.cast_add_one]
    rw [hbase] at hslot htiles
    have hlast : (s.heldAfter v).Sole c q := h.sole.congr rfl rfl rfl
    obtain ⟨hjob, hmem, htile, hrouters⟩ := State.commitCmd_left hlast 0 v 0
    refine ⟨_, execQuiesceDone_done h hquiesce hrunning hslot htiles hserac hcolls hmoraine,
      State.commitCmd_records hlast (by norm_num) _ _, State.commitCmd_onlyRecord hlast _ _ _, by rw [hjob]; rfl, by rw [hjob]; rfl,
      by rw [hjob]; rfl, by rw [hjob]; rfl, by rw [hjob]; rfl, State.commitCmd_gtc hlast _ _ _, fun d => ?_, fun t => ?_, hmem⟩
    · rw [State.router_congr hrouters, State.heldAfter_router]
    · rw [State.tile_congr htile, State.heldAfter_tile]
      exact ⟨rfl, rfl, rfl⟩
  case begins =>
    refine ⟨_, execLaunchBoundary_begins hlaunched hnot hslot hrestored hckpt hstopped hoff hcolls, rfl, rfl, rfl, fun t => ?_,
      s.jobBegun_cluster, fun im himage => s.newInstances_of_image himage s.job.step, rfl⟩
    rw [s.jobBegun_tile]
    rfl

end Sys2Proof.Machine
end


section
/-!
SUPPORT. Fetching, sequencing and aborting commands (R492 to R497): a round of the arbiter with one queue pair, the close of a
window, a commit among two fetched commands; and the obligation on them.
-/
namespace Sys2Proof.Machine
-- One declaration at a time keeps the compile of the whole text within its memory.
set_option Elab.async false
open Host

/-! ### A fold that acts once -/

theorem foldl_of_fixed {α β : Type} {f : β → α → β} {b : β} : ∀ {l : List α}, (∀ a ∈ l, f b a = b) → l.foldl f b = b
  | [], _ => rfl
  | a :: l, h => by
    rw [List.foldl_cons, h a List.mem_cons_self, foldl_of_fixed fun a ha => h a (List.mem_cons_of_mem _ ha)]

theorem foldl_once {α β : Type} {f : β → α → β} {b b' : β} {k : α} (hk : f b k = b') (hbefore : ∀ a ≠ k, f b a = b)
    (hafter : ∀ a ≠ k, f b' a = b') : ∀ {l : List α}, l.Nodup → k ∈ l → l.foldl f b = b'
  | a :: l, hnodup, hmem => by
    obtain ⟨hnot, hnodup⟩ := List.nodup_cons.1 hnodup
    by_cases ha : a = k
    · rw [List.foldl_cons, ha, hk]
      exact foldl_of_fixed fun x hx => hafter x fun e => hnot (ha ▸ e ▸ hx)
    · rw [List.foldl_cons, hbefore a ha]
      exact foldl_once hk hbefore hafter hnodup ((List.mem_cons.1 hmem).resolve_left (Ne.symm ha))

section
variable {s : State} {q : QPair}

/-! ### The arbiter (R492, R493) -/

theorem State.fetchMbox_idle {p : PciePort} (h : (s.fn p).mbbusy = false) : s.fetchMbox p = s := by
  refine if_neg ?_
  rw [h]
  exact Bool.false_ne_true

theorem State.fetchAdmin_none {id : Nat} (h : s.queue id = none) (n : Nat) : State.fetchAdmin id n s = s := by
  cases n with
  | zero => rfl
  | succ n => rw [State.fetchAdmin, h]

/-- Of one queue pair, the arbiter fetches for its own class and where R493 allows it. -/
theorem State.nextOf_one (hq : s.ouvzu.queues = [q]) (k : Fin 8) : s.nextOf k =
    if decide (2 ≤ q.id) && q.cls == k.val && s.nonEmpty q && s.roomFor q then some q else none := by
  unfold State.nextOf
  dsimp only
  rw [hq, List.filter_singleton]
  cases decide (2 ≤ q.id) && q.cls == k.val && s.nonEmpty q && s.roomFor q with
  | false => rfl
  | true =>
    rw [cond_true, List.filter_singleton, if_pos rfl]
    cases decide (s.ouvzu.lastServed[k] < q.id) with
    | false => rfl
    | true => rfl

theorem eight_mem : ∀ k : Fin 8, k ∈ ([0, 1, 2, 3, 4, 5, 6, 7] : List (Fin 8)) := by decide

theorem State.serveClass_none {k : Fin 8} (h : s.nextOf k = none) (n : Nat) : State.serveClass k n s = s := by
  cases n with
  | zero => rfl
  | succ n => rw [State.serveClass, h]

/-- The state once the one queue pair has been served. -/
def State.served (s : State) (q : QPair) (k : Fin 8) : State :=
  { s.fetchFrom q with ouvzu := { (s.fetchFrom q).ouvzu with lastServed := (s.fetchFrom q).ouvzu.lastServed.set k q.id } }

theorem State.serveClass_one {k : Fin 8} (h : s.nextOf k = some q) : State.serveClass k 1 s = s.served q k := by
  rw [State.serveClass, h]
  rfl

theorem ringDist_self {a n : Nat} (hn : 0 < n) : ringDist a a n = 0 := by
  have hmod := Nat.mod_le a n
  have hdiv : a + n - a % n = n * (a / n + 1) := by
    have := Nat.div_add_mod a n
    rw [Nat.mul_succ]
    omega
  rw [ringDist, hdiv, Nat.mul_mod_right]

/-- The fetches of a round from the classes. -/
def State.serveClasses (s : State) : State :=
  ([0, 1, 2, 3, 4, 5, 6, 7] : List (Fin 8)).foldl (fun s c => State.serveClass c s.ouvzu.weights[c] s) s

/-- A round, when no mailbox and no admin queue has anything. -/
theorem execArbiterRound_classes (hmbox : ∀ p, (s.fn p).mbbusy = false) (hq : s.ouvzu.queues = [q]) (hid : 2 ≤ q.id) {u : State}
    (hu : s.serveClasses = u) : exec .arbiterRound s =
      if u.ouvzu.queues.any fun q => u.nonEmpty q && !u.roomFor q then
        .next { u with ouvzu := { u.ouvzu with nCqhold := u.ouvzu.nCqhold + 1 } }
      else .next u := by
  unfold State.serveClasses at hu
  have hadmin (n : Nat) (hn : n < 2) : s.queue n = none := by
    rw [State.queue, hq, List.find?_cons_of_neg (by simp; omega), List.find?_nil]
  change execArbiterRound s = _
  unfold execArbiterRound
  dsimp only
  rw [State.fetchMbox_idle (hmbox .a), State.fetchMbox_idle (hmbox .b), State.fetchAdmin_none (hadmin 0 (by decide)),
    State.fetchAdmin_none (hadmin 1 (by decide)), hu]

/-- No room in the completion queue of the one queue pair. -/
theorem execArbiterRound_held (hmbox : ∀ p, (s.fn p).mbbusy = false) (hq : s.ouvzu.queues = [q]) (hid : 2 ≤ q.id)
    (hsome : s.nonEmpty q = true) (hroom : s.roomFor q = false) :
    exec .arbiterRound s = .next { s with ouvzu := { s.ouvzu with nCqhold := s.ouvzu.nCqhold + 1 } } := by
  have hnone (k : Fin 8) : s.nextOf k = none := by
    rw [State.nextOf_one hq, hroom, Bool.and_false]
    rfl
  have hheld : (s.ouvzu.queues.any fun q => s.nonEmpty q && !s.roomFor q) = true := by simp [hq, hsome, hroom]
  have hfold : s.serveClasses = s := foldl_of_fixed fun k _ => State.serveClass_none (hnone k) _
  rw [execArbiterRound_classes hmbox hq hid hfold, if_pos hheld]

/-- Room, and the one queue pair is served. -/
theorem execArbiterRound_served {k : Fin 8} (hmbox : ∀ p, (s.fn p).mbbusy = false) (hq : s.ouvzu.queues = [q]) (hid : 2 ≤ q.id)
    (hcls : q.cls = k.val) (hweight : s.ouvzu.weights[k] = 1) (hsome : s.nonEmpty q = true) (hroom : s.roomFor q = true)
    (hqueues : (s.served q k).ouvzu.queues = [{ q with sqHead := (q.sqHead + 1) % q.sqSize }])
    (hfree : ((s.served q k).nonEmpty { q with sqHead := (q.sqHead + 1) % q.sqSize } &&
      !(s.served q k).roomFor { q with sqHead := (q.sqHead + 1) % q.sqSize }) = false) :
    exec .arbiterRound s = .next (s.served q k) := by
  have hother {a : Fin 8} (ha : a ≠ k) : (q.cls == a.val) = false := by
    rw [beq_eq_false_iff_ne, hcls]
    exact fun e => ha (Fin.ext e.symm)
  have hbefore (a : Fin 8) (ha : a ≠ k) : s.nextOf a = none := by
    rw [State.nextOf_one hq, hother ha, Bool.and_false]
    rfl
  have hmine : s.nextOf k = some q := by
    rw [State.nextOf_one hq, hsome, hroom, hcls, decide_eq_true hid, beq_self_eq_true]
    rfl
  have hafter (a : Fin 8) (ha : a ≠ k) : (s.served q k).nextOf a = none := by
    rw [State.nextOf_one hqueues, show ({ q with sqHead := (q.sqHead + 1) % q.sqSize } : QPair).cls = q.cls from rfl, hother ha, Bool.and_false]
    rfl
  have hfold : s.serveClasses = s.served q k := foldl_once (f := fun (s : State) (c : Fin 8) => State.serveClass c s.ouvzu.weights[c] s) (b := s) (k := k)
    (b' := s.served q k) (by rw [hweight]; exact State.serveClass_one hmine) (fun a ha => State.serveClass_none (hbefore a ha) _)
    (fun a ha => State.serveClass_none (hafter a ha) _) (l := [0, 1, 2, 3, 4, 5, 6, 7]) (by decide)
    (eight_mem k)
  have hno : ¬ ((s.served q k).ouvzu.queues.any fun x => (s.served q k).nonEmpty x && !(s.served q k).roomFor x) = true := by
    rw [hqueues, List.any_cons, hfree]
    exact Bool.false_ne_true
  rw [execArbiterRound_classes hmbox hq hid hfold, if_neg hno]

section
variable {m : Nat} (hq : s.ouvzu.queues = [q]) (hcmds : s.ouvzu.cmds = []) (hclosing : s.ouvzu.closing = []) (hhold : q.hold = false)
  (hends : q.sqHead ≠ q.sqTail) (hring : q.cqHead = q.cqTail) (hsize : q.cqSize = m + 1)

include hclosing hhold hends in
theorem State.nonEmpty_one : s.nonEmpty q = true := by
  rw [State.nonEmpty, State.portStopped, hclosing, hhold, bne_iff_ne.2 hends]
  rfl

include hcmds hring hsize in
/-- With nothing fetched, room is what the completion queue leaves (R493). -/
theorem State.roomFor_one : s.roomFor q = decide (0 < m) := by
  rw [State.roomFor, State.outstanding, State.outstandingAll, hcmds, hring, hsize, ringDist_self (Nat.succ_pos m)]
  simp

include hq in
theorem State.served_queues (k : Fin 8) : (s.served q k).ouvzu.queues = [{ q with sqHead := (q.sqHead + 1) % q.sqSize }] := by
  change (s.modQueue q.id fun x => { x with sqHead := (q.sqHead + 1) % q.sqSize }).ouvzu.queues = _
  rw [State.modQueue, hq]
  simp

include hcmds in
/-- The command that a queue pair's next entry becomes. -/
theorem State.served_cmds (k : Fin 8) : (s.served q k).ouvzu.cmds = [⟨s.ouvzu.nextCmd, q.id, some q.port,
    s.hostRd q.port (q.sqBase + 64 * q.sqHead) 64, (q.sqHead + 1) % q.sqSize, s.gtc.count, .fetched, false, [], none⟩] := by
  change s.ouvzu.cmds ++ [_] = _
  rw [hcmds]
  rfl

include hcmds hring hsize in
/-- After the fetch the queue pair is empty, or there is room for one more. -/
theorem State.served_settled (k : Fin 8) (h : (q.sqHead + 1) % q.sqSize = q.sqTail ∨ 2 ≤ m) :
    ((s.served q k).nonEmpty { q with sqHead := (q.sqHead + 1) % q.sqSize } &&
      !(s.served q k).roomFor { q with sqHead := (q.sqHead + 1) % q.sqSize }) = false := by
  obtain hempty | hm := h
  · simp [State.nonEmpty, hempty]
  · have hroom : (s.served q k).roomFor { q with sqHead := (q.sqHead + 1) % q.sqSize } = true := by
      rw [State.roomFor, State.outstanding, State.outstandingAll, State.served_cmds hcmds]
      simp only [hring, hsize, ringDist_self (Nat.succ_pos m)]
      have hone (p : Cmd → Bool) (c : Cmd) : ([c].filter p).length ≤ 1 := List.length_filter_le ..
      rw [Bool.and_eq_true_iff, Bool.and_eq_true_iff, decide_eq_true_iff, decide_eq_true_iff, decide_eq_true_iff]
      exact ⟨⟨(hone _ _).trans_lt (by omega), (hone _ _).trans_lt (by decide)⟩, (hone _ _).trans_lt (by decide)⟩
    rw [hroom, Bool.not_true, Bool.and_false]

end

end

/-! ### A commit among two fetched commands -/

section
variable {s : State} {c d : Cmd} {q r : QPair}

theorem State.flushUpTo_none (h : ∀ c ∈ s.ouvzu.cmds, c.status = none) (n : Nat) : State.flushUpTo n s = s := by
  cases n with
  | zero => rfl
  | succ n =>
    have hfind : s.ouvzu.cmds.find? s.recordable = none := by
      rw [List.find?_eq_none]
      intro c hc
      rw [State.recordable, h c hc]
      exact Bool.false_ne_true
    rw [State.flushUpTo, hfind]

/-- A command of a queue pair leaves, and its record goes to the pair's ring. -/
theorem State.writeRecord_queue (hsqid : c.sqid = q.id) (hlt : q.id < 16384) (hq : s.queue q.id = some q)
    (hclosing : s.ouvzu.closing = []) : s.writeRecord c = ({ s with ouvzu := { s.ouvzu with
      cmds := s.ouvzu.cmds.filter fun d => d.handle != c.handle, closing := [] } } : State).cqWrite q c := by
  have hids : c.sqid ≠ 0xFFFF ∧ c.sqid ≠ 0xFFFD ∧ c.sqid ≠ 0xFFFE := by rw [hsqid]; omega
  obtain ⟨h1, h2, h3⟩ := hids
  have hq' : ({ s with ouvzu := { s.ouvzu with
      cmds := s.ouvzu.cmds.filter fun d => d.handle != c.handle, closing := [] } } : State).queue c.sqid = some q := by
    rw [hsqid]
    exact hq
  unfold State.writeRecord
  simp only [hclosing, List.map_nil, if_neg h1, if_neg h2, if_neg h3]
  rw [hq']

theorem State.cqWrite_counts (s : State) (q : QPair) (d : Cmd) : (s.cqWrite q d).ouvzu.nSuper = s.ouvzu.nSuper ∧
    (s.cqWrite q d).ouvzu.nCancel = s.ouvzu.nCancel ∧ (s.cqWrite q d).ouvzu.nCmds = s.ouvzu.nCmds ∧
    (s.cqWrite q d).ouvzu.cmds = s.ouvzu.cmds := by
  have h := s.hostWr_ouvzu q.port (q.cqBase + 32 * q.cqTail) (d.record q.phase)
  have hsuper := congrArg Ouvzu.nSuper h
  have hcancel := congrArg Ouvzu.nCancel h
  have hcount := congrArg Ouvzu.nCmds h
  have hcmds := congrArg Ouvzu.cmds h
  unfold State.cqWrite
  dsimp only
  split
  · exact ⟨hsuper, hcancel, hcount, hcmds⟩
  · exact ⟨hsuper, hcancel, hcount, hcmds⟩

/-- The record as host memory then holds it, and nothing else changed there. -/
theorem State.cqWrite_record (s : State) (q : QPair) (c : Cmd) {status : Nat} (hstatus : status < 2 ^ 16) (r0 r1 now : Word) :
    let u := s.cqWrite q (c.done status r0 r1 now)
    leNat (u.hostRd q.port (q.cqBase + 32 * q.cqTail + 2) 2) = status ∧ s.onlyRecord u q := by
  obtain ⟨o, he, -⟩ := s.cqWrite_eq q (c.done status r0 r1 now)
  have hlen := c.record_done_length status r0 r1 now q.phase
  intro u
  rw [show u = _ from he]
  refine ⟨leNat_of_eq_leBytes (k := 2) (Eq.trans (s.hostRd_hostWr_part q.port _ (o := 2) (n := 2) (by omega)) rfl) hstatus, ?_⟩
  intro p a hpa
  change Memory.read 0 ((s.hostWr q.port _ _).hostMem p) a = Memory.read 0 (s.hostMem p) a
  rw [State.hostWr_hostMem]
  split
  case isTrue hp =>
    have hapart := hpa.resolve_left (not_not.2 hp)
    rw [Memory.read_writeBytes, hlen, if_neg (by omega), hp]
  case isFalse => rfl

/-! ### The close of a window (R495) -/

theorem execIngressWindowClose_one (hcmds : s.ouvzu.cmds = [c]) (hstage : c.stage = .fetched) (hlt : c.sqid < 16384) :
    exec .ingressWindowClose s = .next { s with ouvzu := { s.ouvzu with
      cmds := [{ c with stage := .sequenced }], window := s.ouvzu.window + 1 } } := by
  have hport : c.sqid ≠ 0xFFFD := by omega
  change execIngressWindowClose s = _
  unfold execIngressWindowClose
  rw [hcmds]
  simp [hstage, insertCmd, hport]

/-- The window as it stands when a Reduce order that came later goes first. -/
def State.sequencedTwo (s : State) (c d : Cmd) : State :=
  { s with ouvzu := { s.ouvzu with
    cmds := [{ d with stage := .sequenced }, { c with stage := .sequenced }], window := s.ouvzu.window + 1 } }

theorem Cmd.contradicts_comm (c d : Cmd) : c.contradicts d = d.contradicts c := by
  unfold Cmd.contradicts
  by_cases h : c.target = d.target
  · rw [h]
  · rw [beq_eq_false_iff_ne.2 h, beq_eq_false_iff_ne.2 (Ne.symm h), Bool.and_false, Bool.and_false]

theorem execIngressWindowClose_two (hcmds : s.ouvzu.cmds = [c, d]) (hc : c.stage = .fetched) (hd : d.stage = .fetched)
    (hclt : c.sqid < 16384) (hdlt : d.sqid < 16384) (hcontra : c.contradicts d = true) (hcr : isReduce c.opc = false)
    (hdr : isReduce d.opc = true) :
    exec .ingressWindowClose s = .next ((s.sequencedTwo c d).commitCmd c.handle 0x20 0 0) := by
  have hcid : c.sqid ≠ 0xFFFF ∧ c.sqid ≠ 0xFFFD := by omega
  have hdid : d.sqid ≠ 0xFFFF ∧ d.sqid ≠ 0xFFFD := by omega
  have hfirst (odd : Bool) : rankLt (d.rank odd) (c.rank odd) = true := by
    simp [rankLt, Cmd.rank, hcid.1, hdid.1, hcr, hdr]
  have hsup : (s.sequencedTwo c d).supersede c = (s.sequencedTwo c d).commitCmd c.handle 0x20 0 0 := by
    rw [State.supersede, beq_eq_false_iff_ne.2 hcid.2]
  rw [← hsup]
  change execIngressWindowClose s = _
  unfold execIngressWindowClose
  rw [hcmds]
  simp [hc, hd, insertCmd, hfirst, hdid.2, Cmd.contradicts_comm d c, hcontra, State.sequencedTwo]

/-- The second of two fetched commands marked committed. -/
theorem State.setCommitted_second (hcmds : s.ouvzu.cmds = [d, c]) (hne : d.handle ≠ c.handle) (hstatus : c.status = none)
    (hab : c.aborter = []) (hlt : c.sqid < 16384) (status : Nat) (r0 r1 : Word) : ∃ o,
    s.setCommitted c.handle status r0 r1 = { s with ouvzu := o } ∧ o.cmds = [d, c.done status r0 r1 s.gtc.count] ∧
      o.queues = s.ouvzu.queues ∧ o.closing = s.ouvzu.closing ∧
      o.nSuper = s.ouvzu.nSuper + if status = 0x20 then 1 else 0 := by
  have hcmd : s.cmd c.handle = some c := by simp [State.cmd, hcmds, hne]
  have hid : c.sqid ≠ 0xFFFD := by omega
  unfold State.setCommitted
  rw [hcmd]
  dsimp only
  rw [hstatus, hab, hcmds]
  refine ⟨_, rfl, ?_, rfl, rfl, ?_⟩
  · simp [hne, Cmd.done]
  · simp [hid]

/-- Its commit, the first still to run. -/
theorem State.commitCmd_second (hcmds : s.ouvzu.cmds = [d, c]) (hne : d.handle ≠ c.handle) (hd : d.status = none)
    (hc : c.status = none) (hab : c.aborter = []) (hsqid : c.sqid = q.id) (hother : d.sqid ≠ q.id) (hlt : q.id < 16384)
    (hq : s.queue q.id = some q) (hclosing : s.ouvzu.closing = []) {status : Nat} (hstatus : status < 2 ^ 16) :
    let u := s.commitCmd c.handle status 0 0
    u.ouvzu.cmds = [d] ∧ leNat (u.hostRd q.port (q.cqBase + 32 * q.cqTail + 2) 2) = status ∧
      u.ouvzu.nSuper = s.ouvzu.nSuper + (if status = 0x20 then 1 else 0) ∧ s.onlyRecord u q := by
  obtain ⟨o, he, hcmds', hqs, hcl, hsuper⟩ := State.setCommitted_second hcmds hne hc hab (hsqid ▸ hlt) status 0 0
  have hwait : State.recordable { s with ouvzu := o } d = false := by
    rw [State.recordable, hd]
    rfl
  have hgo : State.recordable { s with ouvzu := o } (c.done status 0 0 s.gtc.count) = true := by
    have hapart : d.sqid ≠ c.sqid := hsqid ▸ hother
    simp [State.recordable, hcmds', Cmd.sameQueue, Cmd.done, Cmd.status, hapart]
  have hwrite := State.writeRecord_queue (s := { s with ouvzu := o }) (c := c.done status 0 0 s.gtc.count) hsqid hlt
    (by rw [State.queue, hqs]; exact hq) (hcl.trans hclosing)
  have hleft : (o.cmds.filter fun d => d.handle != (c.done status 0 0 s.gtc.count).handle) = [d] := by
    rw [hcmds']
    simp [Cmd.done, hne]
  rw [show ({ s with ouvzu := o } : State).ouvzu.cmds = o.cmds from rfl, hleft] at hwrite
  have hflush : ({ s with ouvzu := o } : State).flush = ({ s with ouvzu := { o with cmds := [d], closing := [] } } : State).cqWrite q
      (c.done status 0 0 s.gtc.count) := by
    rw [State.flush, show ({ s with ouvzu := o } : State).ouvzu.cmds = o.cmds from rfl, hcmds']
    change State.flushUpTo (1 + 1) _ = _
    rw [State.flushUpTo, show ({ s with ouvzu := o } : State).ouvzu.cmds = o.cmds from rfl, hcmds', List.find?_cons_of_neg (by rw [hwait]; decide),
      List.find?_cons_of_pos hgo]
    dsimp only
    rw [hwrite, State.flushUpTo_none]
    intro e he
    rw [(State.cqWrite_counts ..).2.2.2, List.mem_singleton] at he
    rw [he, hd]
  obtain ⟨hsup, -, -, hcmds''⟩ := State.cqWrite_counts { s with ouvzu := { o with cmds := [d], closing := [] } } q (c.done status 0 0 s.gtc.count)
  obtain ⟨hrec, honly⟩ := State.cqWrite_record { s with ouvzu := { o with cmds := [d], closing := [] } } q c hstatus 0 0 s.gtc.count
  have hcommit : s.commitCmd c.handle status 0 0 = ({ s with ouvzu := { o with cmds := [d], closing := [] } } : State).cqWrite q
      (c.done status 0 0 s.gtc.count) := by
    rw [State.commitCmd, he, hflush, State.settle_of_closing_nil (State.cqWrite_closing ..)]
  intro u
  rw [show u = _ from hcommit]
  exact ⟨hcmds'', hrec, hsup.trans hsuper, honly⟩

/-! ### ABORT_CMD (R497) -/

/-- A command that may start and that needs no admin queue does what `f` says. -/
theorem State.runCmd_sequenced {opc : Nat} (hcmd : s.cmd c.handle = some c) (hmay : s.mayRun c = true) (hopc : c.opc = opc)
    (hadmin : isAdmin opc = false) (hres : c.reservedOk = true) (f : State → Cmd → State) :
    s.runCmd c.handle opc (fun _ => true) f = .next (f s c) := by
  rw [State.runCmd, hcmd]
  dsimp only
  rw [hopc, hmay, hadmin, hres, bne_self_eq_false]
  rfl

theorem execAbortCmd_takes (h : s.takes c q 0x09) : exec (.abortCmd c.handle) s = .next
    (match s.ouvzu.cmds.find? fun d => c.names d && d.status.isNone,
      s.ouvzu.done.find? fun e => e.1 == c.arg 8 2 && e.2.1 == c.arg 10 2 with
    | some d, _ =>
      if d.opc = 0x09 then s.commitCmd c.handle 0x11 0 0
      else ((s.executing c.handle).cancelCmd d.handle [c.handle]).flush.settle
    | none, some e => s.commitCmd c.handle (if e.2.2 = 0x09 then 0x11 else 0x21) 0 0
    | none, none => s.commitCmd c.handle 0x23 0 0) := by
  change execAbortCmd c.handle s = _
  rw [execAbortCmd]
  exact State.runCmd_sequenced (State.cmd_handle h.1.1) (State.mayRun_of_holds h.1) h.opc (by decide) h.2.1 _

/-- The one fetched command aborts none that is fetched. -/
theorem execAbortCmd_finds (h : s.takes c q 0x09) (hother : (c.arg 8 2, c.arg 10 2) ≠ (c.sqid, c.cid)) :
    exec (.abortCmd c.handle) s = .next (s.commitCmd c.handle
      (match s.ouvzu.done.find? fun e => e.1 == c.arg 8 2 && e.2.1 == c.arg 10 2 with
        | some e => if e.2.2 = 0x09 then 0x11 else 0x21
        | none => 0x23) 0 0) := by
  have hlive : (s.ouvzu.cmds.find? fun d => c.names d && d.status.isNone) = none := by
    have hself : c.names c = false := by
      have hpair : ¬ (c.sqid = c.arg 8 2 ∧ c.cid = c.arg 10 2) := fun e => hother (Prod.ext e.1.symm e.2.symm)
      have hnames : (c.sqid == c.arg 8 2 && c.cid == c.arg 10 2) = false := by
        rwa [← Bool.not_eq_true, Bool.and_eq_true, beq_iff_eq, beq_iff_eq]
      rw [Cmd.names, hnames, Bool.false_and]
    have hnot : ¬ (c.names c && c.status.isNone) = true := by
      rw [hself]
      exact Bool.false_ne_true
    refine List.find?_eq_none.2 fun d hd => ?_
    rw [h.1.1, List.mem_singleton] at hd
    rw [hd]
    exact hnot
  rw [execAbortCmd_takes h, hlive]
  cases s.ouvzu.done.find? fun e => e.1 == c.arg 8 2 && e.2.1 == c.arg 10 2 with
  | none => rfl
  | some e => rfl

section
variable (hcmds : s.ouvzu.cmds = [d, c]) (hne : c.handle ≠ d.handle) (hc : c.stage = .sequenced) (hd : d.stage = .sequenced)
  (hclt : c.sqid < 16384) (hdlt : d.sqid < 16384) (hab : c.aborter = []) (hdab : d.aborter = [])
include hcmds hne

theorem State.cmd_second : s.cmd c.handle = some c := by
  simp [State.cmd, hcmds, Ne.symm hne]

theorem State.executing_second : s.executing c.handle =
    { s with ouvzu := { s.ouvzu with cmds := [d, { c with stage := .executing }] } } := by
  rw [State.executing, State.modCmd, hcmds]
  simp [Ne.symm hne]

include hd hclt hdlt hdab in
/-- A command that has not started is cancelled, and with it commits the ABORT_CMD that names it. -/
theorem State.cancelCmd_first : ∃ o, (s.executing c.handle).cancelCmd d.handle [c.handle] = { s with ouvzu := o } ∧
    o.cmds = [{ d with aborter := [c.handle] }.done 0x22 0 0 s.gtc.count, c.done 0 0 0 s.gtc.count] ∧
    o.queues = s.ouvzu.queues ∧ o.closing = s.ouvzu.closing ∧ o.nCancel = s.ouvzu.nCancel + 1 ∧ o.nCmds = s.ouvzu.nCmds + 2 := by
  have hwaiting : d.waiting = true := by rw [Cmd.waiting, hd]; rfl
  have hcid : c.sqid ≠ 0xFFFD := by omega
  have hdid : d.sqid ≠ 0xFFFD := by omega
  have hcmd : (s.executing c.handle).cmd d.handle = some d := by
    simp [State.executing_second hcmds hne, State.cmd]
  have hnamed : (s.executing c.handle).modCmd d.handle (fun d => { d with aborter := d.aborter ++ [c.handle] }) =
      { s with ouvzu := { s.ouvzu with cmds := [{ d with aborter := [c.handle] }, { c with stage := .executing }] } } := by
    simp [State.executing_second hcmds hne, State.modCmd, hne, hdab]
  have hfound : State.cmd { s with ouvzu := { s.ouvzu with
      cmds := [{ d with aborter := [c.handle] }, { c with stage := .executing }] } } d.handle =
      some { d with aborter := [c.handle] } := by
    simp [State.cmd]
  rw [State.cancelCmd, hcmd]
  dsimp only
  rw [if_pos hwaiting, hnamed]
  unfold State.setCommitted
  rw [hfound]
  dsimp only
  rw [if_neg (by rw [Cmd.status, hd]; decide)]
  refine ⟨_, rfl, ?_, rfl, rfl, ?_, ?_⟩
  · simp [Cmd.done, Cmd.status, hne]
  · simp [hdid]
  · simp [Cmd.status, hcid, hdid]

end

/-- The state without its fetched commands but these. -/
def State.leftWith (s : State) (l : List Cmd) : State := { s with ouvzu := { s.ouvzu with cmds := l, closing := [] } }

/-- Two committed commands of different queue pairs: both records are written, the first fetched first. -/
theorem State.flush_two (hcmds : s.ouvzu.cmds = [d, c]) (hc : c.status.isSome = true) (hd : d.status.isSome = true)
    (hne : c.handle ≠ d.handle) (hsqid : c.sqid = q.id) (hdsqid : d.sqid = r.id) (hids : q.id ≠ r.id) (hlt : q.id < 16384)
    (hrlt : r.id < 16384) (hq : s.queue q.id = some q) (hr : s.queue r.id = some r) (hclosing : s.ouvzu.closing = []) :
    s.flush = (((s.leftWith [c]).cqWrite r d).leftWith []).cqWrite q c := by
  have happart : d.sqid ≠ c.sqid := by rw [hsqid, hdsqid]; exact Ne.symm hids
  have hfirst : s.recordable d = true := by simp [State.recordable, hd, hcmds, Cmd.sameQueue, Ne.symm happart]
  have hleft : (s.ouvzu.cmds.filter fun e => e.handle != d.handle) = [c] := by simp [hcmds, hne]
  have hwrite : s.writeRecord d = (s.leftWith [c]).cqWrite r d := by
    rw [State.writeRecord_queue hdsqid hrlt hr hclosing, hleft]
    rfl
  have hcmds' : ((s.leftWith [c]).cqWrite r d).ouvzu.cmds = [c] := (State.cqWrite_counts ..).2.2.2
  have hsecond : ((s.leftWith [c]).cqWrite r d).recordable c = true := by
    simp [State.recordable, hc, hcmds']
  have hwrite' : ((s.leftWith [c]).cqWrite r d).writeRecord c = (((s.leftWith [c]).cqWrite r d).leftWith []).cqWrite q c := by
    rw [State.writeRecord_queue hsqid hlt (((State.cqWrite_sameElse (s.leftWith [c]) r d).queue q.id hids).trans hq)
      (State.cqWrite_closing ..), hcmds', List.filter_cons_of_neg (by simp), List.filter_nil]
    rfl
  rw [State.flush, hcmds]
  change State.flushUpTo (1 + 1) s = _
  rw [State.flushUpTo, hcmds, List.find?_cons_of_pos hfirst]
  dsimp only
  rw [hwrite, State.flushUpTo, hcmds', List.find?_cons_of_pos hsecond]
  exact hwrite'

theorem execAbortCmd_cancels (hcmds : s.ouvzu.cmds = [d, c]) (hne : c.handle ≠ d.handle) (hc : c.stage = .sequenced)
    (hd : d.stage = .sequenced) (hsqid : c.sqid = q.id) (hdsqid : d.sqid = r.id) (hids : q.id ≠ r.id) (hlt : q.id < 16384)
    (hrlt : r.id < 16384) (hq : s.queue q.id = some q) (hr : s.queue r.id = some r) (hdab : d.aborter = [])
    (hclosing : s.ouvzu.closing = []) (hopc : c.opc = 0x09) (hres : c.reservedOk = true) (hdopc : d.opc = 0x1F)
    (hnames : c.arg 8 2 = d.sqid) (hcid : c.arg 10 2 = d.cid) : ∃ o,
    exec (.abortCmd c.handle) s = .next (((({ s with ouvzu := o } : State).cqWrite r
      ({ d with aborter := [c.handle] }.done 0x22 0 0 s.gtc.count)).leftWith []).cqWrite q (c.done 0 0 0 s.gtc.count)) ∧
      o.nCancel = s.ouvzu.nCancel + 1 ∧ o.nCmds = s.ouvzu.nCmds + 2 := by
  have hmay : s.mayRun c = true := by
    have htarget : d.target = none := by rw [Cmd.target, hdopc]; rfl
    have hcontra : d.contradicts c = false := by rw [Cmd.contradicts, htarget]; rfl
    have hends : d.endsQueueOf c = false := by simp [Cmd.endsQueueOf, hdopc]
    simp [State.mayRun, hcmds, hc, hopc, actsAtOnce, Ne.symm hne, hcontra, hends]
  have hlive : (s.ouvzu.cmds.find? fun e => c.names e && e.status.isNone) = some d := by
    have hd' : d.sqid ≠ 0xFFFE := by omega
    simp [hcmds, Cmd.names, hnames, hcid, Cmd.status, hd, hd']
  obtain ⟨o, hcancel, hcmds', hqs, hcl, hcount, hboth⟩ := State.cancelCmd_first hcmds hne hd (hsqid ▸ hlt) (hdsqid ▸ hrlt) hdab
  have hqueue (n : Nat) : ({ s with ouvzu := o } : State).queue n = s.queue n := by rw [State.queue, State.queue, hqs]
  have hflush := State.flush_two (s := { s with ouvzu := o }) hcmds' rfl rfl hne hsqid hdsqid hids hlt hrlt ((hqueue _).trans hq)
    ((hqueue _).trans hr) (hcl.trans hclosing)
  refine ⟨{ o with cmds := [c.done 0 0 0 s.gtc.count], closing := [] }, ?_, hcount, hboth⟩
  change execAbortCmd c.handle s = _
  rw [execAbortCmd, State.runCmd_sequenced (State.cmd_second hcmds hne) hmay hopc (by decide) hres]
  dsimp only
  rw [hlive]
  dsimp only
  rw [if_neg (by rw [hdopc]; decide), hcancel, hflush, State.settle_of_closing_nil (State.cqWrite_closing ..)]
  rfl

end

/-- Settles O39: the arbiter serves the one queue pair in its class's turn, a window puts a Reduce order first and supersedes
the order that contradicts it, and ABORT_CMD commits the command that it cancels together with itself. -/
theorem commandsAreFetchedSequencedAndAborted : Obligations.CommandsAreFetchedSequencedAndAborted := by
  unfold Obligations.CommandsAreFetchedSequencedAndAborted
  intro s q
  refine ⟨?round, fun c hcmds hstage hlt => execIngressWindowClose_one hcmds hstage hlt, ?superseded, fun c h hother =>
    ⟨fun hnone => ?notFound, fun e hdone hsqid hcid hopc => ?complete⟩, ?cancelled⟩
  case round =>
    intro m hq hid _ hcls hcmds hclosing hhold hmbox hweights _ _ hends hring hsize
    have hsome := State.nonEmpty_one hclosing hhold hends
    have hroom := State.roomFor_one hcmds hring hsize
    refine ⟨fun hm hfree => ?_, fun hm => execArbiterRound_held hmbox hq hid hsome (by rw [hroom, hm]; rfl)⟩
    exact ⟨_, _, execArbiterRound_served (k := ⟨q.cls, hcls⟩) hmbox hq hid rfl (hweights _) hsome (hroom.trans (decide_eq_true hm))
      (State.served_queues hq _) (State.served_settled hcmds hring hsize _ hfree), State.served_cmds hcmds _, rfl, rfl, rfl, rfl, rfl,
      State.served_queues hq _, rfl, rfl⟩
  case superseded =>
    intro c d r hcmds hc hd hne hsqid hdsqid hids hlt hrlt hq hr hport hdport hab hdab hclosing hcontra hcr hdr
    have hcommit := State.commitCmd_second (s := s.sequencedTwo c d) (c := { c with stage := .sequenced })
      (d := { d with stage := .sequenced }) rfl (Ne.symm hne) rfl rfl hab hsqid (fun e => hids (e.symm.trans hdsqid)) hlt hq hclosing
      (status := 0x20) (by norm_num)
    obtain ⟨hleft, hrec, hsuper, honly⟩ := hcommit
    exact ⟨_, execIngressWindowClose_two hcmds hc hd (hsqid ▸ hlt) (hdsqid ▸ hrlt) hcontra hcr hdr, hleft, hrec, hsuper, honly⟩
  case notFound =>
    have hfind : (s.ouvzu.done.find? fun e => e.1 == c.arg 8 2 && e.2.1 == c.arg 10 2) = none :=
      List.find?_eq_none.2 fun e he => by simpa using hnone e he
    have hexec := execAbortCmd_finds h hother
    rw [hfind] at hexec
    exact ⟨_, hexec, State.commitCmd_records h.1.sole (by norm_num) _ _, State.commitCmd_onlyRecord h.1.sole _ _ _⟩
  case complete =>
    have hfind : (s.ouvzu.done.find? fun e => e.1 == c.arg 8 2 && e.2.1 == c.arg 10 2) = some e := by
      simp [hdone, hsqid, hcid]
    have hexec := execAbortCmd_finds h hother
    rw [hfind] at hexec
    dsimp only at hexec
    rw [if_neg hopc] at hexec
    exact ⟨_, hexec, State.commitCmd_records h.1.sole (by norm_num) _ _, State.commitCmd_onlyRecord h.1.sole _ _ _⟩
  case cancelled =>
    intro c d r hcmds hc hd hne hsqid hdsqid hids hlt hrlt hq hr _ _ hrport _ hdab hclosing hopc hres hdopc hnames hcid hapart
    obtain ⟨o, hexec, hcancel, hcount⟩ :=
      execAbortCmd_cancels hcmds hne hc hd hsqid hdsqid hids hlt hrlt hq hr hdab hclosing hopc hres hdopc hnames hcid
    obtain ⟨hfirst, -⟩ := State.cqWrite_record { s with ouvzu := o } r { d with aborter := [c.handle] } (status := 0x22) (by norm_num) 0 0
      s.gtc.count
    obtain ⟨-, hcancel₁, hcount₁, -⟩ := State.cqWrite_counts { s with ouvzu := o } r ({ d with aborter := [c.handle] }.done 0x22 0 0 s.gtc.count)
    obtain ⟨hsecond, honly⟩ := State.cqWrite_record ((({ s with ouvzu := o } : State).cqWrite r
      ({ d with aborter := [c.handle] }.done 0x22 0 0 s.gtc.count)).leftWith []) q c (status := 0) (by norm_num) 0 0 s.gtc.count
    obtain ⟨-, hcancel₂, hcount₂, hleft⟩ := State.cqWrite_counts ((({ s with ouvzu := o } : State).cqWrite r
      ({ d with aborter := [c.handle] }.done 0x22 0 0 s.gtc.count)).leftWith []) q (c.done 0 0 0 s.gtc.count)
    refine ⟨_, hexec, hleft, ?_, hsecond, (hcancel₂.trans hcancel₁).trans hcancel, (hcount₂.trans hcount₁).trans hcount⟩
    rw [State.hostRd_of_onlyRecord honly (by omega)]
    rw [hrport] at hfirst
    exact hfirst

end Sys2Proof.Machine
end


section
/-!
SUPPORT. Admission (R469, R471, R473, R474, R476): what the preparation changes, the report and the record of its end, and the
state that a load leaves; and the obligation on ADMIT.
-/
namespace Sys2Proof.Machine
-- One declaration at a time keeps the compile of the whole text within its memory.
set_option Elab.async false
open Host

/-! ### A digest has 32 bytes -/

theorem shaRound_length (h : List (BitVec 32)) (kw : BitVec 32 × BitVec 32) : (shaRound h kw).length = h.length := by
  unfold shaRound
  split
  · rfl
  · rfl

theorem shaBlock_length (h : List (BitVec 32)) (blk : List Byte) : (shaBlock h blk).length = h.length := by
  have hrounds (l : List (BitVec 32 × BitVec 32)) (r : List (BitVec 32)) : (l.foldl shaRound r).length = r.length := by
    induction l generalizing r with
    | nil => rfl
    | cons kw l ih => rw [List.foldl_cons, ih, shaRound_length]
  rw [shaBlock, List.length_zipWith, hrounds, min_self]

theorem sha256_length (l : List Byte) : (sha256 l).length = 32 := by
  have hblocks (bs : List (List Byte)) (h : List (BitVec 32)) : (bs.foldl shaBlock h).length = h.length := by
    induction bs generalizing h with
    | nil => rfl
    | cons b bs ih => rw [List.foldl_cons, ih, shaBlock_length]
  have hword (w : BitVec 32) : (beBytes 4 w.toNat).length = 4 := by simp [beBytes]
  unfold sha256
  rw [List.length_flatMap, List.map_congr_left fun w _ => hword w, List.map_const', List.sum_replicate, hblocks]
  rfl

theorem Fail.report_length (f : Fail) {digest : List Byte} (h : digest.length = 32) : (f.report digest).length = 64 := by
  simp only [Fail.report, List.length_append, leBytes_length, h]

theorem Fail.report_parts (f : Fail) {digest : List Byte} (h : digest.length = 32) :
    ((f.report digest).drop 0).take 2 = leBytes 2 f.code ∧ ((f.report digest).drop 32).take 32 = digest := by
  refine ⟨rfl, ?_⟩
  have hhead : (leBytes 2 f.code ++ leBytes 2 f.sect ++ leBytes 4 f.entry ++ leBytes 1 f.tile ++ leBytes 1 f.port ++
    leBytes 1 f.stack ++ leBytes 1 f.cluster ++ leBytes 4 0 ++ leBytes 8 f.value ++ leBytes 8 f.limit).length = 32 := by
    simp only [List.length_append, leBytes_length]
  rw [Fail.report, List.drop_left' hhead, List.take_of_length_le h.le]

section
variable {s : State} {c : Cmd} {q : QPair}

/-! ### The preparation (R469 step 3) -/

/-- Only ports and the GTC differ, and no count passes. -/
structure State.OnlyLinks (s u : State) : Prop where
  frame : u = { s with ports := u.ports, gtc := u.gtc }
  count : u.gtc.count = s.gtc.count

theorem State.OnlyLinks.trans {u v : State} (h : s.OnlyLinks u) (h' : u.OnlyLinks v) : s.OnlyLinks v where
  frame := by
    rw [h'.frame, h.frame]
  count := h'.count.trans h.count

theorem State.thawEvent_onlyLinks (s : State) (n : Fin 11) : s.OnlyLinks (s.thawEvent n) := by
  unfold State.thawEvent
  split
  · exact ⟨rfl, rfl⟩
  · exact ⟨rfl, rfl⟩

theorem State.newParent_onlyLinks (s : State) : s.OnlyLinks s.newParent := by
  unfold State.newParent
  split
  · exact ⟨rfl, rfl⟩
  · exact (⟨rfl, rfl⟩ : s.OnlyLinks { s with gtc := { s.gtc with parent := 0x1F, holdover := true, locked := false } }).trans
      (State.thawEvent_onlyLinks _ 9)

theorem State.portLeft_onlyLinks (s : State) (p : PortId) : s.OnlyLinks (s.portLeft p) := by
  unfold State.portLeft
  split
  · exact s.newParent_onlyLinks
  · exact ⟨rfl, rfl⟩

theorem State.modPort_onlyLinks (s : State) (p : PortId) (f : LPort → LPort) : s.OnlyLinks (s.modPort p f) := ⟨rfl, rfl⟩

theorem State.retrain_onlyLinks (s : State) (p : PortId) : s.OnlyLinks (s.retrain p) := by
  have hsend (u : State) (h : s.OnlyLinks u) : s.OnlyLinks (u.sendRetrain p) := by
    unfold State.sendRetrain State.sendCtl
    exact h.trans (u.modPort_onlyLinks p _)
  have hstart := s.modPort_onlyLinks p fun x => { x with retrainRq := false }
  unfold State.retrain
  dsimp only
  split
  · split
    · exact ((hsend _ hstart).trans (State.modPort_onlyLinks _ p _)).trans (State.portLeft_onlyLinks _ p)
    · exact hsend _ (hstart.trans (State.modPort_onlyLinks _ p _))
  · exact hstart.trans (State.modPort_onlyLinks _ p _)
  · exact hstart

theorem foldl_retrain_onlyLinks (l : List PortId) (s : State) : s.OnlyLinks (l.foldl (fun s p => s.retrain p) s) := by
  induction l generalizing s with
  | nil => exact ⟨rfl, rfl⟩
  | cons p l ih => exact (s.retrain_onlyLinks p).trans (ih _)

theorem State.admitPrepare_onlyLinks (s : State) : s.applyRepairs.OnlyLinks s.admitPrepare := foldl_retrain_onlyLinks _ _

/-- What the preparation leaves. -/
theorem State.admitPrepare_left (s : State) : s.admitPrepare.ouvzu = s.ouvzu ∧ s.admitPrepare.job = s.job ∧
    s.admitPrepare.gtc.count = s.gtc.count := by
  obtain ⟨hframe, hcount⟩ := s.admitPrepare_onlyLinks
  refine ⟨?_, ?_, hcount⟩
  · rw [hframe]
    rfl
  · rw [hframe]
    rfl

/-! ### The end of an admission (R474) -/

/-- The state as an admission's outcome is noted. -/
def State.admitNoted (s : State) (f : Fail) (st : BitVec 2) : State :=
  { s with job := { s.job with
    admState := st
    reason := BitVec.ofNat 16 f.code
    admits := if f.code == 0 then s.job.admits + 1 else s.job.admits
    rejects := if f.code == 0 then s.job.rejects else s.job.rejects + 1 } }

/-- A command's record speaks of the counts and the pairs there were before it. -/
theorem State.records_congr {u v : State} (h : v.records u c q n r0 r1) (hcmds : v.ouvzu.nCmds = s.ouvzu.nCmds)
    (hqueues : v.ouvzu.queues = s.ouvzu.queues) (hcount : v.gtc.count = s.gtc.count) : s.records u c q n r0 r1 := by
  rw [State.records, hcmds, hqueues, hcount] at h
  exact h

/-- The report stands where ADMIT asks for it, and the record says how the admission ended. -/
theorem State.admitEnd_reports {v : State} (hsole : s.Sole c q) (hcmds : v.ouvzu = s.ouvzu) (hcount : v.gtc.count = s.gtc.count)
    {f : Fail} (hcode : f.code < 2 ^ 16) {digest : List Byte} (hdigest : digest.length = 32) (st : BitVec 2)
    (hapart : c.arg 24 8 + 64 ≤ q.cqBase + 32 * q.cqTail ∨ q.cqBase + 32 * q.cqTail + 32 ≤ c.arg 24 8) :
    let u := v.admitEnd c q.port f digest st
    s.records u c q (if f.code == 0 then 0 else 0x30) (BitVec.ofNat 64 f.code) 0 ∧ leNat (u.hostRd q.port (c.arg 24 8) 2) = f.code ∧
      u.hostRd q.port (c.arg 24 8 + 32) 32 = digest ∧
      u.job = (v.admitNoted f st).job ∧ u.gtc = v.gtc ∧ u.tiles = v.tiles ∧ u.mem = v.mem ∧ u.routers = v.routers ∧
      u.ports = v.ports := by
  have hlen := f.report_length hdigest
  obtain ⟨hhead, htail⟩ := f.report_parts hdigest
  have hlast : (v.admitNoted f st).Sole c q := hsole.congr (congrArg Ouvzu.cmds hcmds) (congrArg Ouvzu.queues hcmds)
    (congrArg Ouvzu.closing hcmds)
  have hstatus : (if f.code == 0 then 0 else 0x30) < 2 ^ 16 := by split <;> norm_num
  obtain ⟨hrec, hread, hframe, -⟩ := State.commitCmd_hostWr hlast hstatus (BitVec.ofNat 64 f.code) 0
    (a := c.arg 24 8) (bs := f.report digest) (by rw [hlen]; exact hapart)
  intro u
  refine ⟨State.records_congr hrec (congrArg Ouvzu.nCmds hcmds) (congrArg Ouvzu.queues hcmds) hcount, ?_, ?_, ?_⟩
  · exact leNat_of_eq_leBytes (k := 2) ((hread 0 2 (by omega)).trans hhead) hcode
  · exact (hread 32 32 (by omega)).trans htail
  · rw [show u = _ from hframe]
    exact ⟨rfl, rfl, rfl, rfl, rfl, rfl⟩

/-! ### ADMIT (R469) -/

theorem any_retrains (s : State) : s.ports.toList.any LPort.retrains = true ↔ ∃ k : PortId, (s.port k).retrains = true := by
  rw [List.any_eq_true]
  refine ⟨fun ⟨x, hx, h⟩ => ?_, fun ⟨k, h⟩ => ⟨_, Vector.mem_toList_iff.2 (Vector.getElem_mem k.isLt), h⟩⟩
  obtain ⟨i, hi, rfl⟩ := Vector.mem_iff_getElem.1 (Vector.mem_toList_iff.1 hx)
  exact ⟨⟨i, hi⟩, h⟩

/-- An admission that waits for ports to be retrained. -/
def State.awaiting (s : State) (image : List Byte) (since : Word) : State :=
  { s with job := { s.job with admState := 1, admWait := some ⟨image, since⟩ } }

/-- A sequenced ADMIT takes step 1. -/
theorem execAdmitImage_takes (h : s.takes c q 0x10) : exec (.admitImage c.handle true) s = .next
    (if s.job.image.isSome || s.job.admState == 1 then
      s.takeFree.2.admitEnd c q.port { code := 1 } (tab 32 fun i => Config.freeByte s.takeFree.1 i) s.job.admState
    else if s.admitPrepare.ports.toList.any LPort.retrains then
      (s.admitPrepare.awaiting (s.hostRd q.port (c.arg 8 8) (c.arg 16 8)) s.admitPrepare.gtc.count).executing c.handle
    else s.admitPrepare.admitRest c q.port true (s.hostRd q.port (c.arg 8 8) (c.arg 16 8))) := by
  have hport := h.1.sole.port
  have hadmitting : c.admitting = false := by
    obtain ⟨⟨-, hstage, -⟩, -⟩ := h
    rw [Cmd.admitting, hstage]
    exact Bool.and_false _
  change execAdmitImage c.handle true s = _
  rw [execAdmitImage, State.cmd_handle h.1.1]
  dsimp only
  rw [hadmitting, if_neg Bool.false_ne_true, State.runCmd_takes h (by decide) rfl, State.onPort_some hport]
  rfl

/-- With no image, none in progress and no port to wait for, step 2 is followed by the rest at once. -/
theorem execAdmitImage_rest (h : s.takes c q 0x10) (himage : s.job.image = none) (hstate : s.job.admState ≠ 1)
    (hports : ∀ k : PortId, (s.admitPrepare.port k).retrains = false) : exec (.admitImage c.handle true) s = .next
      (s.admitPrepare.admitRest c q.port true (s.hostRd q.port (c.arg 8 8) (c.arg 16 8))) := by
  have hfree : ¬ (s.job.image.isSome || s.job.admState == 1) = true := by
    rw [himage, beq_eq_false_iff_ne.2 hstate]
    exact Bool.false_ne_true
  have hquiet : ¬ s.admitPrepare.ports.toList.any LPort.retrains = true := by
    rw [any_retrains]
    rintro ⟨k, hk⟩
    rw [hports k] at hk
    exact Bool.false_ne_true hk
  rw [execAdmitImage_takes h, if_neg hfree, if_neg hquiet]

/-- Ports to be retrained keep the command executing. -/
theorem execAdmitImage_waits (h : s.takes c q 0x10) (himage : s.job.image = none) (hstate : s.job.admState ≠ 1)
    (hports : ∃ k : PortId, (s.admitPrepare.port k).retrains = true) : exec (.admitImage c.handle true) s = .next
      { s.admitPrepare with
        job := { s.admitPrepare.job with admState := 1, admWait := some ⟨s.hostRd q.port (c.arg 8 8) (c.arg 16 8), s.gtc.count⟩ }
        ouvzu := { s.admitPrepare.ouvzu with cmds := [{ c with stage := .executing }] } } := by
  have hfree : ¬ (s.job.image.isSome || s.job.admState == 1) = true := by
    rw [himage, beq_eq_false_iff_ne.2 hstate]
    exact Bool.false_ne_true
  obtain ⟨hleft, -, hcount⟩ := s.admitPrepare_left
  rw [execAdmitImage_takes h, if_neg hfree, if_pos ((any_retrains _).2 hports), hcount]
  exact congrArg Outcome.next (State.executing_sole 
    (s := s.admitPrepare.awaiting (s.hostRd q.port (c.arg 8 8) (c.arg 16 8)) s.gtc.count) ((congrArg Ouvzu.cmds hleft).trans h.1.1))

theorem execAdmitImage_refused (h : s.takes c q 0x10) (himage : s.job.image.isSome = true) : exec (.admitImage c.handle true) s =
    .next (s.takeFree.2.admitEnd c q.port { code := 1 } (tab 32 fun i => Config.freeByte s.takeFree.1 i) s.job.admState) := by
  have hbusy : (s.job.image.isSome || s.job.admState == 1) = true := by rw [himage]; rfl
  rw [execAdmitImage_takes h, if_pos hbusy]

/-- The state that the checks see. -/
def State.unwaited (s : State) : State := { s with job := { s.job with admWait := none } }

section
variable {p : PciePort} {image : List Byte}

theorem State.admitRest_rejected {f : Fail} (h : (Img.read image).check s.unwaited = some f) :
    s.admitRest c p true image = s.unwaited.admitEnd c p f (Img.read image).digest 0 := by
  unfold State.unwaited at h
  unfold State.admitRest
  dsimp only
  rw [h]
  rfl

theorem State.admitRest_faulted {w : LoadWrite} (h : (Img.read image).check s.unwaited = none)
    (hw : (Img.read image).firstFault (Img.read image).writes s.unwaited = some w) : s.admitRest c p true image =
      s.unwaited.admitEnd c p { code := 0x701, sect := w.sect, value := w.addr } (Img.read image).digest 0 := by
  unfold State.unwaited at h hw
  unfold State.admitRest
  dsimp only
  rw [h, hw]
  rfl

theorem State.admitRest_loaded (h : (Img.read image).check s.unwaited = none)
    (hw : (Img.read image).firstFault (Img.read image).writes s.unwaited = none) : s.admitRest c p true image =
      ((Img.read image).load s.unwaited).admitEnd c p { code := 0 } (Img.read image).digest 2 := by
  unfold State.unwaited at h hw
  unfold State.admitRest
  dsimp only
  rw [h, hw]
  rfl

end

/-! ### What a load leaves (R469 step 7, R473, R476) -/

theorem foldl_wr_frame (l : List LoadWrite) (s : State) : ∃ mem hbm,
    l.foldl (fun (s : State) w => s.wr w.addr w.bytes) s = { s with mem := mem, hbm := hbm } := by
  induction l generalizing s with
  | nil => exact ⟨s.mem, s.hbm, rfl⟩
  | cons w l ih =>
    obtain ⟨mem, hbm, hrest⟩ := ih (s.wr w.addr w.bytes)
    rw [List.foldl_cons, hrest, s.wr_frame]
    exact ⟨_, _, rfl⟩

theorem Img.load_left (g : Img) (s : State) :
    let u := g.load s
    u.ouvzu = s.ouvzu ∧ u.gtc = s.gtc.admitted (g.hdr 40 4) g.image.lockstep ∧ u.job.image = some g.image ∧
      u.job.admits = s.job.admits ∧ u.job.step = 0 ∧ u.job.launched = false ∧ (∀ d, (u.router d).lock = true) ∧
      (∀ t : TileId, u.tile t = g.tile t.val (s.tile t)) ∧ ∀ k : PortId, (u.port k).held = false := by
  obtain ⟨mem, hbm, hwrites⟩ := foldl_wr_frame g.writes s
  intro u
  have hu : u = g.load s := rfl
  unfold Img.load at hu
  rw [hwrites] at hu
  rw [hu]
  refine ⟨rfl, rfl, rfl, rfl, rfl, rfl, fun d => ?_, fun t => Vector.getElem_mapIdx .., fun k => ?_⟩
  · exact congrArg Router.lock (Vector.getElem_map ..)
  · exact congrArg LPort.held (Vector.getElem_map ..)

/-- A tile under an admitted image: its registers and accumulators are 0, and its sequencer has not begun. -/
theorem Img.tile_zero (g : Img) (l : Nat) (x : Tile) : (∀ r, (g.tile l x).seq.sreg r = 0) ∧
    (g.tile l x).acc = List.replicate 2048 .zero ∧ (g.tile l x).seq.run = false := by
  refine ⟨fun r => ?_, rfl, rfl⟩
  change (if r = 0 then 0 else (Vector.replicate 32 (0 : Word))[r.toFin]) = 0
  rw [Fin.getElem_fin, Vector.getElem_replicate, ite_self]

end

/-! ### The obligation -/

/-- Settles O42: the preparation leaves the command, its queue and the job as they were; every end of an admission writes the report
and commits with it, and what differs between the ends is the state that they note. -/
theorem admissionChecksThenLoads : Obligations.AdmissionChecksThenLoads := by
  unfold Obligations.AdmissionChecksThenLoads
  intro s c q
  dsimp only
  intro h hapart
  have hsole := h.1.sole
  obtain ⟨houvzu, hjob, hcount⟩ := s.admitPrepare_left
  have hrejects : s.admitPrepare.unwaited.job.rejects = s.job.rejects := by
    change s.admitPrepare.job.rejects = _
    rw [hjob]
  have hadmits : s.admitPrepare.unwaited.job.admits = s.job.admits := by
    change s.admitPrepare.job.admits = _
    rw [hjob]
  have hkept : s.admitPrepare.unwaited.job.image = s.job.image := by
    change s.admitPrepare.job.image = _
    rw [hjob]
  refine ⟨execAdmitImage_waits h, fun himage hstate hports => ⟨fun f hcheck hcode hne => ?rejected,
    fun w hcheck hfault => ?faulted, fun hcheck hfault => ?loaded⟩, fun himage => ?refused⟩
  case rejected =>
    have hexec := execAdmitImage_rest h himage hstate hports
    rw [State.admitRest_rejected hcheck] at hexec
    obtain ⟨hrec, hrpt, hdigest, hend, -, htiles, hmem, -⟩ := State.admitEnd_reports (v := s.admitPrepare.unwaited) hsole houvzu hcount
      hcode (digest := (Img.read (s.hostRd q.port (c.arg 8 8) (c.arg 16 8))).digest) (sha256_length _) 0 hapart
    have hfail : (f.code == 0) = false := beq_eq_false_iff_ne.2 hne
    rw [State.admitNoted, hfail] at hend
    rw [hfail] at hrec
    have hreason : (BitVec.ofNat 16 f.code).toNat = f.code := Nat.mod_eq_of_lt hcode
    refine ⟨_, hexec, hrec, hrpt, hdigest, ?_, ?_, ?_, ?_, ?_, htiles, hmem⟩
    all_goals rw [hend]
    · exact hkept.trans himage
    · exact hreason
    · exact congrArg (· + 1) hrejects
    · exact hadmits
  case faulted =>
    have hexec := execAdmitImage_rest h himage hstate hports
    rw [State.admitRest_faulted hcheck hfault] at hexec
    obtain ⟨hrec, hrpt, -, hend, -, htiles, hmem, -⟩ := State.admitEnd_reports (v := s.admitPrepare.unwaited) hsole houvzu hcount
      (f := { code := 0x701, sect := w.sect, value := w.addr }) (by norm_num)
      (digest := (Img.read (s.hostRd q.port (c.arg 8 8) (c.arg 16 8))).digest) (sha256_length _) 0 hapart
    refine ⟨_, hexec, hrec, hrpt, ?_, ?_, ?_, ?_, htiles, hmem⟩
    all_goals rw [hend]
    · exact hkept.trans himage
    · rfl
    · rfl
    · exact congrArg (· + 1) hrejects
  case loaded =>
    have hexec := execAdmitImage_rest h himage hstate hports
    rw [State.admitRest_loaded hcheck hfault] at hexec
    obtain ⟨houvzu', hgtc', himage', hadmits', hstep', hlaunched', hlock', htile', hheld'⟩ :=
      (Img.read (s.hostRd q.port (c.arg 8 8) (c.arg 16 8))).load_left s.admitPrepare.unwaited
    obtain ⟨hrec, hrpt, -, hend, hgtc, htiles, -, hrouters, hports'⟩ := State.admitEnd_reports
      (v := (Img.read (s.hostRd q.port (c.arg 8 8) (c.arg 16 8))).load s.admitPrepare.unwaited) hsole (houvzu'.trans houvzu)
      ((congrArg Gtc.count hgtc').trans hcount) (f := { code := 0 }) (by norm_num)
      (digest := (Img.read (s.hostRd q.port (c.arg 8 8) (c.arg 16 8))).digest) (sha256_length _) 2 hapart
    rw [hgtc'] at hgtc
    refine ⟨_, hexec, hrec, hrpt, ?_, ?_, ?_, ?_, ?_, ?_, fun d => ?_, ?_, fun n => ?_, ?_, fun t => ?_, fun k => ?_⟩
    · rw [hend]
      exact himage'
    · rw [hend]
      rfl
    · rw [hend]
      rfl
    · rw [hend]
      exact congrArg (· + 1) (hadmits'.trans hadmits)
    · rw [hend]
      exact hstep'
    · rw [hend]
      exact hlaunched'
    · rw [State.router_congr hrouters]
      exact hlock' d
    · rw [hgtc]
      rfl
    · rw [hgtc]
      exact Vector.getElem_replicate ..
    · rw [hgtc]
      rfl
    · rw [State.tile_congr htiles, htile']
      exact Img.tile_zero ..
    · rw [State.port, hports']
      exact hheld' k
  case refused =>
    obtain ⟨hrec, hrpt, -, hend, -, htiles, hmem, hrouters, -⟩ := State.admitEnd_reports (v := s.takeFree.2) hsole rfl rfl
      (f := { code := 1 }) (by norm_num) (digest := tab 32 fun i => Config.freeByte s.takeFree.1 i) (tab_length ..)
      s.job.admState hapart
    refine ⟨_, execAdmitImage_refused h himage, hrec, hrpt, ?_, ?_, htiles, hmem, hrouters⟩
    all_goals rw [hend]
    · rfl
    · rfl

end Sys2Proof.Machine
end


section
/-!
SUPPORT. Checkpoints (R535 to R538, R545 to R548): CAPTURE armed, its point and the end of its drain, and what a restore leaves
of the chip; and the obligation on them.
-/
namespace Sys2Proof.Machine
-- One declaration at a time keeps the compile of the whole text within its memory.
set_option Elab.async false
open Host

section
variable {s : State} {c : Cmd} {q : QPair} {im : Image}

/-! ### CAPTURE (R535) -/

/-- The capture that a CAPTURE asks for. -/
def Cmd.armed (c : Cmd) : Armed :=
  ⟨c.handle, BitVec.ofNat 64 (c.arg 8 8), c.arg 16 4, BitVec.ofNat 64 (c.arg 24 8), BitVec.ofNat 64 (c.arg 32 8)⟩

/-- The state once it is armed. -/
def State.capturing (s : State) (c : Cmd) : State := { s with ckpt := { s.ckpt with state := 1, armed := some c.armed } }

/-- CAPTURE in range, with an image admitted. -/
theorem execCapture_takes (h : s.takes c q 0x14) (himage : s.job.image = some im) (hoff : c.arg 16 4 < s.gtc.slen.toNat)
    (hpage : c.arg 24 8 % 4096 = 0) : exec (.capture c.handle) s = .next
    (if !s.job.running || s.job.pending.isSome then s.commitCmd c.handle 0x16 0 0
      else if 64 * s.capturePoint (c.arg 8 8) (c.arg 16 4) < s.gtc.count.toNat + 200000 then s.commitCmd c.handle 0x16 0 0
      else if s.ckpt.armed.isSome then s.commitCmd c.handle 0x16 0 0
      else if (s.windowAt (0x4000_0000_0000 + c.arg 24 8) (c.arg 32 8) true).isNone then s.commitCmd c.handle 0x12 0 0
      else if c.arg 32 8 < im.captureSize s.routers[0].self then s.commitCmd c.handle 0x15 0 0
      else (s.capturing c).executing c.handle) := by
  have hok : (decide (c.arg 16 4 < s.gtc.slen.toNat ∨ s.job.image.isNone) && c.arg 24 8 % 4096 == 0) = true := by
    rw [decide_eq_true (.inl hoff), hpage]
    rfl
  change execCapture c.handle s = _
  rw [execCapture, State.runCmd_takes h (by decide) hok, himage]
  exact rfl

/-- CAPTURE accepted waits for its point. -/
theorem execCapture_armed (h : s.takes c q 0x14) (himage : s.job.image = some im) (hoff : c.arg 16 4 < s.gtc.slen.toNat)
    (hpage : c.arg 24 8 % 4096 = 0) (hrunning : s.job.running = true) (hpending : s.job.pending = none)
    (harmed : s.ckpt.armed = none) (hpoint : (s.gtc.count.toNat : Int) + 200000 ≤ 64 * s.capturePoint (c.arg 8 8) (c.arg 16 4))
    (hwindow : (s.windowAt (0x4000_0000_0000 + c.arg 24 8) (c.arg 32 8) true).isSome = true)
    (hsize : im.captureSize s.routers[0].self ≤ c.arg 32 8) : exec (.capture c.handle) s = .next { s with
      ckpt := { s.ckpt with state := 1, armed := some c.armed }
      ouvzu := { s.ouvzu with cmds := [{ c with stage := .executing }] } } := by
  have hstate : ¬ (!s.job.running || s.job.pending.isSome) = true := by simp [hrunning, hpending]
  have hnone : ¬ s.ckpt.armed.isSome = true := by simp [harmed]
  have hin : ¬ (s.windowAt (0x4000_0000_0000 + c.arg 24 8) (c.arg 32 8) true).isNone = true := by
    rw [Option.isNone_eq_false_iff.2 hwindow]
    exact Bool.false_ne_true
  rw [execCapture_takes h himage hoff hpage, if_neg hstate, if_neg (Int.not_lt.2 hpoint), if_neg hnone, if_neg hin,
    if_neg (Nat.not_lt.2 hsize)]
  exact congrArg Outcome.next (State.executing_sole (s := s.capturing c) h.1.1)

theorem execCapture_idle (h : s.takes c q 0x14) (himage : s.job.image = some im) (hoff : c.arg 16 4 < s.gtc.slen.toNat)
    (hpage : c.arg 24 8 % 4096 = 0) (hidle : s.job.running = false) :
    exec (.capture c.handle) s = .next (s.commitCmd c.handle 0x16 0 0) := by
  have hstate : (!s.job.running || s.job.pending.isSome) = true := by simp [hidle]
  rw [execCapture_takes h himage hoff hpage, if_pos hstate]

/-! ### The point (R536) -/

/-- Every sequencer and cluster stopped for the capture. -/
def State.captureStopped (s : State) : State :=
  { s with
    tiles := s.tiles.map fun x => { x with seq := { x.seq with run := false, slotWait := none } }
    clusters := s.clusters.map fun c => { c with paused := true }
    ckpt := { s.ckpt with state := 2 } }

section
variable {a : Armed} (harmed : s.ckpt.armed = some a)
include harmed

theorem execCapturePoint_reached (hstate : s.ckpt.state = 1) (hrunning : s.job.running = true)
    (hpoint : 64 * s.capturePoint a.step.toNat a.slotOff ≤ (s.gtc.count.toNat : Int)) :
    exec .capturePoint s = .next s.captureStopped := by
  have hgo : (s.ckpt.state == 1 && s.job.running && s.observed (s.capturePoint a.step.toNat a.slotOff)) = true := by
    rw [hstate, hrunning, State.observed, decide_eq_true hpoint]
    rfl
  change execCapturePoint s = _
  rw [execCapturePoint, harmed]
  exact if_pos hgo

theorem execCapturePoint_early (hpoint : (s.gtc.count.toNat : Int) < 64 * s.capturePoint a.step.toNat a.slotOff) :
    exec .capturePoint s = .next s := by
  have hno : ¬ (s.ckpt.state == 1 && s.job.running && s.observed (s.capturePoint a.step.toNat a.slotOff)) = true := by
    rw [State.observed, decide_eq_false (Int.not_le.2 hpoint), Bool.and_false]
    exact Bool.false_ne_true
  change execCapturePoint s = _
  rw [execCapturePoint, harmed]
  exact if_neg hno

end

/-! ### DMA operations stopped (R536 step 4) -/

/-- Only tiles and memories differ. -/
def State.OnlyData (s u : State) : Prop :=
  u = { s with tiles := u.tiles, mem := u.mem, hbm := u.hbm, hostA := u.hostA, hostB := u.hostB }

theorem State.OnlyData.trans {u v : State} (h : s.OnlyData u) (h' : u.OnlyData v) : s.OnlyData v := by
  unfold State.OnlyData at *
  rw [h', h]

theorem State.dmaPut_onlyData (s : State) (t : TileId) (d : DmaDesc) (p : DmaPut) : s.OnlyData (s.dmaPut t d p) := by
  cases p with
  | mem k bs =>
    unfold State.OnlyData State.dmaPut
    dsimp only
    rw [s.wr_frame k bs]
  | host p a bs => cases p <;> rfl
  | row r ents => rfl

theorem foldl_dmaPut_onlyData (t : TileId) (d : DmaDesc) (l : List DmaPut) (s : State) :
    s.OnlyData (l.foldl (fun s p => s.dmaPut t d p) s) := by
  induction l generalizing s with
  | nil => rfl
  | cons p l ih => exact (s.dmaPut_onlyData t d p).trans (ih _)

theorem State.dmaRun_onlyData (t : TileId) (d : DmaDesc) (err : HostErr) (n : Nat) (r : DmaRun) :
    r.s.OnlyData (State.dmaRun t d err n r).s := by
  induction n generalizing r with
  | zero => rfl
  | succ n ih =>
    unfold State.dmaRun
    dsimp only
    split
    · rfl
    · exact (foldl_dmaPut_onlyData t d _ _).trans (ih _)

theorem State.stopDma_onlyData (s : State) (n : Nat) (t : TileId) : s.OnlyData (s.stopDma n t) := by
  unfold State.stopDma
  split
  · split
    · exact (State.dmaRun_onlyData t _ none _ ⟨s, [], 0, none⟩).trans rfl
    · rfl
  · rfl

theorem foldl_stopDma_onlyData (n : Nat) (l : List TileId) (s : State) : s.OnlyData (l.foldl (State.stopDma n) s) := by
  induction l generalizing s with
  | nil => rfl
  | cons t l ih => exact (s.stopDma_onlyData n t).trans (ih _)

/-! ### The drain's end (R537) -/

/-- What pausing a job leaves when no QUIESCE is executing. -/
theorem State.pauseJob_left (hcmds : (s.ouvzu.cmds.filter fun c => c.opc == 0x12 && c.stage == .executing) = []) (a : Armed) :
    let u := s.pauseJob a
    u.ouvzu = s.ouvzu ∧ u.routers = s.routers ∧ u.gtc = { s.gtc with launch := 0 } ∧ u.job.running = false ∧
      u.job.launched = false ∧ u.job.admState = 2 ∧ u.job.image = s.job.image ∧ u.job.resume = ⟨a.step, a.slotOff⟩ ∧
      u.ckpt.state = 4 ∧ u.ckpt.armed = none ∧ u.ckpt.bytes = s.ckpt.bytes := by
  intro u
  have hu : u = s.pauseJob a := rfl
  unfold State.pauseJob at hu
  rw [hcmds, List.foldl_nil] at hu
  rw [hu]
  exact ⟨rfl, rfl, rfl, rfl, rfl, rfl, rfl, rfl, rfl, rfl, rfl⟩

/-- The job paused at the capture point, its DMA operations stopped. -/
def State.drained (s : State) (a : Armed) : State :=
  (allTiles.foldl (State.stopDma s.takeFree.1) s.takeFree.2).pauseJob a

/-- The bytes of a capture's shards. -/
def State.captureBytes (s : State) (im : Image) (a : Armed) : List Byte :=
  (s.takeFree.2.shards im a s.takeFree.1).1.flatMap fun x => x.bytes

/-- The part manifest behind them. -/
def State.captureManifest (s : State) (im : Image) (a : Armed) : List Byte :=
  partManifest (im.topo.role s.routers[0].self) a.winOff.toNat (s.takeFree.2.shards im a s.takeFree.1).1

/-- The capture's bytes written through a window. -/
def State.captureWritten (s : State) (im : Image) (a : Armed) (p : PciePort) (b : Nat) : State :=
  (s.takeFree.2.hostWr p b (s.captureBytes im a)).hostWr p (b + (s.captureBytes im a).length) (s.captureManifest im a)

/-- The capture written and counted. -/
def State.captured (s : State) (im : Image) (a : Armed) (p : PciePort) (b : Nat) : State :=
  { s.captureWritten im a p b with ckpt := { (s.captureWritten im a p b).ckpt with
    bytes := (s.captureWritten im a p b).ckpt.bytes +
      BitVec.ofNat 64 ((s.captureBytes im a).length + (s.captureManifest im a).length)
    shards := (s.takeFree.2.shards im a s.takeFree.1).2 :: (s.captureWritten im a p b).ckpt.shards } }

theorem State.hostWr_left (s : State) (p : PciePort) (a : Nat) (bs : List Byte) : (s.hostWr p a bs).job = s.job ∧
    (s.hostWr p a bs).mem = s.mem ∧ (s.hostWr p a bs).ckpt = s.ckpt ∧ (s.hostWr p a bs).tiles = s.tiles ∧
    (s.hostWr p a bs).clusters = s.clusters := by
  cases p with
  | a => exact ⟨rfl, rfl, rfl, rfl, rfl⟩
  | b => exact ⟨rfl, rfl, rfl, rfl, rfl⟩

/-- Writes to host memory touch nothing else. -/
theorem State.captureWritten_left (s : State) (im : Image) (a : Armed) (p : PciePort) (b : Nat) :
    let u := s.captureWritten im a p b
    u.ouvzu = s.ouvzu ∧ u.gtc = s.gtc ∧ u.job = s.job ∧ u.mem = s.mem ∧ u.ckpt = s.ckpt := by
  intro u
  obtain ⟨hjob, hmem, hckpt, -⟩ := s.takeFree.2.hostWr_left p b (s.captureBytes im a)
  obtain ⟨hjob', hmem', hckpt', -⟩ := (s.takeFree.2.hostWr p b (s.captureBytes im a)).hostWr_left p
    (b + (s.captureBytes im a).length) (s.captureManifest im a)
  exact ⟨(State.hostWr_ouvzu ..).trans (State.hostWr_ouvzu ..), (State.hostWr_gtc ..).trans (State.hostWr_gtc ..), hjob'.trans hjob,
    hmem'.trans hmem, hckpt'.trans hckpt⟩

theorem State.captured_left (s : State) (im : Image) (a : Armed) (p : PciePort) (b : Nat) :
    let u := s.captured im a p b
    u.ouvzu = s.ouvzu ∧ u.gtc = s.gtc ∧ u.job = s.job ∧ u.mem = s.mem ∧ u.ckpt.state = s.ckpt.state ∧
      u.ckpt.armed = s.ckpt.armed ∧ u.ckpt.bytes = s.ckpt.bytes +
        BitVec.ofNat 64 ((s.captureBytes im a).length + (s.captureManifest im a).length) := by
  intro u
  obtain ⟨houvzu, hgtc, hjob, hmem, hckpt⟩ := s.captureWritten_left im a p b
  have hstate := congrArg Ckpt.state hckpt
  have harmed := congrArg Ckpt.armed hckpt
  have hbytes := congrArg (fun k : Ckpt => k.bytes +
    BitVec.ofNat 64 ((s.captureBytes im a).length + (s.captureManifest im a).length)) hckpt
  unfold u State.captured
  generalize s.captureWritten im a p b = w at houvzu hgtc hjob hmem hstate harmed hbytes
  exact ⟨houvzu, hgtc, hjob, hmem, hstate, harmed, hbytes⟩

theorem State.windowAt_congr {u v : State} (h : u.ouvzu.grants = v.ouvzu.grants) (a n : Nat) (w : Bool) :
    u.windowAt a n w = v.windowAt a n w := by
  unfold State.windowAt
  rw [h]

theorem State.windowAt_takeFree (s : State) (a n : Nat) (w : Bool) : s.takeFree.2.windowAt a n w = s.windowAt a n w := rfl

theorem State.hostRd_hostWr_behind (s : State) (p : PciePort) {a n b : Nat} (h : a + n ≤ b) (bs : List Byte) :
    (s.hostWr p b bs).hostRd p a n = s.hostRd p a n := by
  rw [State.hostRd_eq_tab, State.hostRd_eq_tab, State.hostWr_hostMem, if_pos rfl]
  refine tab_congr fun i hi => ?_
  rw [Memory.read_writeBytes, if_neg (by omega)]

theorem State.captured_reads (s : State) (im : Image) (a : Armed) (p : PciePort) (b : Nat) :
    let u := s.captured im a p b
    u.hostRd p b (s.captureBytes im a).length = s.captureBytes im a ∧
      u.hostRd p (b + (s.captureBytes im a).length) (s.captureManifest im a).length = s.captureManifest im a := by
  have hwhole (v : State) (a : Nat) (bs : List Byte) : (v.hostWr p a bs).hostRd p a bs.length = bs := by
    have hpart := v.hostRd_hostWr_part p a (bs := bs) (o := 0) (n := bs.length) (by omega)
    rwa [Nat.add_zero, List.drop_zero, List.take_length] at hpart
  constructor
  · change ((s.takeFree.2.hostWr p b (s.captureBytes im a)).hostWr p _ _).hostRd p b _ = _
    rw [State.hostRd_hostWr_behind _ p le_rfl]
    exact hwhole _ b _
  · exact hwhole _ (b + (s.captureBytes im a).length) _

theorem State.hostRd_of_onlyRecord_apart {w u : State} (h : w.onlyRecord u q) {p : PciePort} {a n : Nat}
    (hapart : p ≠ q.port ∨ a + n ≤ q.cqBase + 32 * q.cqTail ∨ q.cqBase + 32 * q.cqTail + 32 ≤ a) :
    u.hostRd p a n = w.hostRd p a n := by
  rw [u.hostRd_eq_tab, w.hostRd_eq_tab]
  refine tab_congr fun i hi => h p (a + i) ?_
  obtain hp | hbefore | hbehind := hapart
  · exact .inl hp
  · exact .inr (.inl (by omega))
  · exact .inr (.inr (by omega))

/-- The record of a capture leaves what the capture left. -/
theorem State.commitCaptured_left {s : State} {a : Armed} {p : PciePort} {b : Nat} (hlast : (s.captured im a p b).Sole c q)
    (r0 r1 : Word) :
    let u := (s.captured im a p b).commitCmd c.handle 0 r0 r1
    u.job = s.job ∧ u.mem = s.mem ∧ u.gtc = s.gtc ∧ u.ckpt.state = s.ckpt.state ∧ u.ckpt.armed = s.ckpt.armed ∧
      u.ckpt.bytes = s.ckpt.bytes + BitVec.ofNat 64 ((s.captureBytes im a).length + (s.captureManifest im a).length) := by
  obtain ⟨-, hgtc, hjob, hmem, hstate, harmed, hbytes⟩ := s.captured_left im a p b
  obtain ⟨hframe, -⟩ := State.commitCmd_frame hlast 0 r0 r1
  have hckpt := congrArg State.ckpt hframe
  intro u
  exact ⟨(congrArg State.job hframe).trans hjob, (congrArg State.mem hframe).trans hmem, (congrArg State.gtc hframe).trans hgtc,
    (congrArg Ckpt.state hckpt).trans hstate, (congrArg Ckpt.armed hckpt).trans harmed, (congrArg Ckpt.bytes hckpt).trans hbytes⟩

theorem State.commitCaptured_reads {s : State} {a : Armed} {p : PciePort} {b : Nat} (hlast : (s.captured im a p b).Sole c q)
    (r0 r1 : Word) (hapart : p ≠ q.port ∨
      b + (s.captureBytes im a).length + (s.captureManifest im a).length ≤ q.cqBase + 32 * q.cqTail ∨
      q.cqBase + 32 * q.cqTail + 32 ≤ b) :
    let u := (s.captured im a p b).commitCmd c.handle 0 r0 r1
    u.hostRd p b (s.captureBytes im a).length = s.captureBytes im a ∧
      u.hostRd p (b + (s.captureBytes im a).length) (s.captureManifest im a).length = s.captureManifest im a := by
  obtain ⟨hread, hreadMan⟩ := s.captured_reads im a p b
  have honly := State.commitCmd_onlyRecord hlast 0 r0 r1
  exact ⟨(State.hostRd_of_onlyRecord_apart honly (hapart.imp_right fun h => by omega)).trans hread,
    (State.hostRd_of_onlyRecord_apart honly (hapart.imp_right fun h => by omega)).trans hreadMan⟩

section
variable {a : Armed} (harmed : s.ckpt.armed = some a) (himage : s.job.image = some im) (hexec : s.executes c q 0x14)
include hexec

/-- What the stop of the job at its capture point leaves. -/
theorem State.drained_left :
    let u := s.drained a
    u.ouvzu = s.ouvzu ∧ u.routers = s.routers ∧ u.gtc = { s.gtc with launch := 0 } ∧ u.job.running = false ∧
      u.job.launched = false ∧ u.job.admState = 2 ∧ u.job.image = s.job.image ∧ u.job.resume = ⟨a.step, a.slotOff⟩ ∧
      u.ckpt.state = 4 ∧ u.ckpt.armed = none ∧ u.ckpt.bytes = s.ckpt.bytes := by
  have hstop := foldl_stopDma_onlyData s.takeFree.1 allTiles s.takeFree.2
  obtain ⟨hcmds, -, -, -, -, -, -, -, hopc⟩ := hexec
  unfold State.drained
  rw [show allTiles.foldl (State.stopDma s.takeFree.1) s.takeFree.2 = _ from hstop]
  refine State.pauseJob_left ?_ a
  change (s.ouvzu.cmds.filter _) = []
  rw [hcmds, List.filter_cons_of_neg (by simp [hopc]), List.filter_nil]

include harmed himage in
theorem execCaptureDrainEnd_ends (hstate : s.ckpt.state = 2) (hpending : s.job.pending = none)
    (hdrained : ∀ t : TileId, (s.tile t).drained = true) (hdone : s.transfersDone a = true) (hhandle : a.handle = c.handle)
    {p : PciePort} {b : Nat} (hwindow : s.windowAt (0x4000_0000_0000 + a.winOff.toNat) a.winLen.toNat true = some (p, b)) :
    exec (.captureDrainEnd true) s = .next (((s.drained a).captured im a p b).commitCmd c.handle 0
      (BitVec.ofNat 64 (((s.drained a).captureBytes im a).length + ((s.drained a).captureManifest im a).length))
      (a.winOff + BitVec.ofNat 64 ((s.drained a).captureBytes im a).length)) := by
  obtain ⟨houvzu, -⟩ := State.drained_left (a := a) hexec
  obtain ⟨hcmds, hstage, -⟩ := hexec
  have hall : s.tiles.toList.all Tile.drained = true := by
    rw [List.all_eq_true]
    intro x hx
    obtain ⟨i, hi, rfl⟩ := Vector.mem_iff_getElem.1 (Vector.mem_toList_iff.1 hx)
    exact hdrained ⟨i, hi⟩
  have hgo : ¬ (s.ckpt.state != 2 || s.job.pending.isSome || !s.tiles.toList.all Tile.drained || !s.transfersDone a) = true := by
    rw [hstate, hpending, hall, hdone]
    exact Bool.false_ne_true
  have hlive : (match s.cmd a.handle with | some c => c.stage == .executing | none => false) = true := by
    rw [hhandle, State.cmd_handle hcmds]
    dsimp only
    rw [hstage]
    rfl
  have hwindow' : (s.drained a).takeFree.2.windowAt (0x4000_0000_0000 + a.winOff.toNat) a.winLen.toNat true = some (p, b) := by
    have hgrants := congrArg Ouvzu.grants houvzu
    rw [State.windowAt_takeFree, State.windowAt_congr hgrants, hwindow]
  have hgoes : ¬ (!(match s.cmd a.handle with | some c => c.stage == .executing | none => false)) = true := by
    rw [hlive]
    exact Bool.false_ne_true
  change execCaptureDrainEnd true s = _
  unfold execCaptureDrainEnd
  rw [harmed, himage]
  refine (if_neg hgo).trans ((if_neg hgoes).trans ((if_neg Bool.false_ne_true).trans ?_))
  extract_lets n out bytes man v w total x u
  have hw : w = (s.drained a).captureWritten im a p b := by
    simp only [w]
    rw [show v.windowAt (0x4000_0000_0000 + a.winOff.toNat) a.winLen.toNat true = some (p, b) from hwindow']
    exact rfl
  have hu : u = (s.drained a).captured im a p b := by
    simp only [u, x]
    rw [hw]
    exact rfl
  rw [hu, hhandle]
  exact rfl

end

/-! ### Restores (R545 to R548) -/

/-- What no step of a restore changes. -/
structure State.RestoreKeeps (s u : State) : Prop where
  ouvzu : u.ouvzu = s.ouvzu
  gtc : u.gtc = s.gtc
  image : u.job.image = s.job.image

theorem State.RestoreKeeps.refl (s : State) : s.RestoreKeeps s := ⟨rfl, rfl, rfl⟩

theorem State.RestoreKeeps.trans {u v : State} (h : s.RestoreKeeps u) (h' : u.RestoreKeeps v) : s.RestoreKeeps v where
  ouvzu := h'.ouvzu.trans h.ouvzu
  gtc := h'.gtc.trans h.gtc
  image := h'.image.trans h.image

theorem foldl_restoreKeeps {α : Type} {f : State → α → State} (h : ∀ (s : State) a, s.RestoreKeeps (f s a)) (l : List α) (s : State) :
    s.RestoreKeeps (l.foldl f s) := by
  induction l generalizing s with
  | nil => exact .refl s
  | cons a l ih => exact (h s a).trans (ih _)

theorem State.wr_restoreKeeps (s : State) (k : Nat) (bs : List Byte) : s.RestoreKeeps (s.wr k bs) := by
  rw [s.wr_frame]
  exact ⟨rfl, rfl, rfl⟩

theorem State.putTensor_restoreKeeps (s : State) (d : TensDecl) (codes scales : List Nat) :
    s.RestoreKeeps (s.putTensor d codes scales) := by
  unfold State.putTensor
  dsimp only
  split
  · split
    · exact (s.wr_restoreKeeps _ _).trans (State.wr_restoreKeeps _ _ _)
    · exact s.wr_restoreKeeps _ _
  · split
    · exact ⟨rfl, rfl, rfl⟩
    · exact .refl s

theorem State.putShard_restoreKeeps (s : State) (im : Image) (tid : Nat) (b : List Byte) : s.RestoreKeeps (s.putShard im tid b) := by
  unfold State.putShard
  dsimp only
  split
  · exact ⟨rfl, rfl, rfl⟩
  · split
    · split
      · exact s.putTensor_restoreKeeps _ _ _
      · exact .refl s
    · exact .refl s

theorem State.countCopy_restoreKeeps (s : State) (bad : Option Bool) : s.RestoreKeeps (s.countCopy bad) := by
  cases bad with
  | none => exact .refl s
  | some header => exact ⟨rfl, rfl, rfl⟩

theorem Except.of_bind_ok {ε α β : Type} {x : Except ε α} {f : α → Except ε β} {b : β} (h : (x >>= f) = .ok b) :
    ∃ a, x = .ok a ∧ f a = .ok b := by
  cases x with
  | error e => cases h
  | ok a => exact ⟨a, rfl, h⟩

section
variable {g : Grant} {m : Manifest} {u : State}

theorem State.restoreFull_restoreKeeps (h : s.restoreFull im g m = .ok u) : s.RestoreKeeps u := by
  unfold State.restoreFull at h
  dsimp only at h
  split at h
  · cases h
  · obtain ⟨ents, -, h⟩ := Except.of_bind_ok h
    obtain ⟨got, -, h⟩ := Except.of_bind_ok h
    cases h
    exact foldl_restoreKeeps (fun s r => (s.putShard_restoreKeeps im _ _).trans (State.countCopy_restoreKeeps _ _)) got s

theorem State.resliceTensor_restoreKeeps {d : TensDecl} (h : s.resliceTensor im g m d = .ok u) : s.RestoreKeeps u := by
  unfold State.resliceTensor at h
  dsimp only at h
  split at h
  · cases h
  · split at h
    · cases h
    · split at h
      · cases h
      · split at h
        · cases h
          exact .refl s
        · obtain ⟨r, -, h⟩ := Except.of_bind_ok h
          cases h
          exact (foldl_restoreKeeps State.countCopy_restoreKeeps r.2 s).trans (State.putTensor_restoreKeeps _ _ _ _)

theorem foldlM_resliceTensor_keeps (l : List TensDecl) {s : State} (h : l.foldlM (fun s d => s.resliceTensor im g m d) s = .ok u) :
    s.RestoreKeeps u := by
  induction l generalizing s with
  | nil =>
    cases h
    exact .refl _
  | cons d l ih =>
    rw [List.foldlM_cons] at h
    obtain ⟨v, hv, h⟩ := Except.of_bind_ok h
    exact (State.resliceTensor_restoreKeeps hv).trans (ih h)

theorem State.restoreReslice_restoreKeeps {step : Word} (h : s.restoreReslice im g m step = .ok u) : s.RestoreKeeps u := by
  unfold State.restoreReslice at h
  obtain ⟨v, hv, h⟩ := Except.of_bind_ok h
  cases h
  exact (foldlM_resliceTensor_keeps _ hv).trans ⟨rfl, rfl, rfl⟩

/-- A restore that succeeds: the job stands at the manifest's step and slot offset, and the rest is in place (R545). -/
theorem State.restoreFrom_ok (h : s.restoreFrom im g m = .ok u) : s.RestoreKeeps u ∧ u.job.restored = true ∧
    u.job.step = BitVec.ofNat 64 (leAt m.head 48 8) ∧ u.job.resume.slotOff = leAt m.head 56 4 := by
  unfold State.restoreFrom at h
  dsimp only at h
  generalize hfull : ((m.head.drop 16).take 32 == im.digest && (m.head.drop 64).take 8 == im.topo.shape) = full at h
  have hdone {r : Except Fail State} (hkeeps : ∀ v, r = .ok v → s.RestoreKeeps v) (h : (r.map fun s => { s with
      job := { s.job with
        step := BitVec.ofNat 64 (leAt m.head 48 8), resume := ⟨BitVec.ofNat 64 (leAt m.head 48 8), leAt m.head 56 4⟩, restored := true }
      ckpt := { s.ckpt with
        reslice := !full, step := BitVec.ofNat 64 (leAt m.head 48 8), slotOff := BitVec.ofNat 32 (leAt m.head 56 4), state := 0 } }) =
      .ok u) : s.RestoreKeeps u ∧ u.job.restored = true ∧ u.job.step = BitVec.ofNat 64 (leAt m.head 48 8) ∧
        u.job.resume.slotOff = leAt m.head 56 4 := by
    cases r with
    | error e => cases h
    | ok v =>
      cases h
      exact ⟨(hkeeps v rfl).trans ⟨rfl, rfl, rfl⟩, rfl, rfl, rfl⟩
  refine hdone (fun v hv => ?_) h
  split at hv
  · exact State.restoreFull_restoreKeeps hv
  · split at hv
    · cases hv
    · exact State.restoreReslice_restoreKeeps hv

end

/-- RESTORE of an image that has not been launched. -/
theorem execRestore_takes (h : s.takes c q 0x15) (himage : s.job.image = some im) (hrestorable : s.restorable = true) :
    exec (.restore c.handle true) s = .next
      (let fail (f : Fail) (d : Option (List Byte)) : State :=
        (s.takeFree.2.hostWr q.port (c.arg 16 8) (f.report (d.getD (tab 32 fun i => Config.freeByte s.takeFree.1 i)))).commitCmd
          c.handle 0x30 0 0
       match s.takeFree.2.grantAt (c.arg 8 8) with
        | none => fail (restoreFail 0x802 0xFFFFFFFF 0 0) none
        | some g => match s.takeFree.2.readManifest g (c.arg 8 8) with
          | .error e => fail e.1 e.2
          | .ok (m, d) => match s.takeFree.2.restoreFrom im g m with
            | .error f => fail f (some d)
            | .ok s => s.commitCmd c.handle 0 s.job.step (BitVec.ofNat 64 s.job.resume.slotOff)) := by
  have hgo : ¬ (!s.restorable) = true := by rw [hrestorable]; exact Bool.false_ne_true
  change execRestore c.handle true s = _
  rw [execRestore, State.runCmd_takes h (by decide) rfl, State.onPort_some h.1.sole.port, himage]
  exact congrArg Outcome.next (if_neg hgo)

theorem execRestore_ok {g : Grant} {m : Manifest} {d : List Byte} {u : State} (h : s.takes c q 0x15)
    (himage : s.job.image = some im) (hrestorable : s.restorable = true) (hgrant : s.takeFree.2.grantAt (c.arg 8 8) = some g)
    (hread : s.takeFree.2.readManifest g (c.arg 8 8) = .ok (m, d)) (hfrom : s.takeFree.2.restoreFrom im g m = .ok u) :
    exec (.restore c.handle true) s = .next (u.commitCmd c.handle 0 u.job.step (BitVec.ofNat 64 u.job.resume.slotOff)) := by
  rw [execRestore_takes h himage hrestorable]
  dsimp only
  rw [hgrant]
  dsimp only
  rw [hread]
  dsimp only
  rw [hfrom]

theorem execRestore_noGrant (h : s.takes c q 0x15) (himage : s.job.image = some im) (hrestorable : s.restorable = true)
    (hgrant : s.takeFree.2.grantAt (c.arg 8 8) = none) : exec (.restore c.handle true) s = .next
      ((s.takeFree.2.hostWr q.port (c.arg 16 8) ((restoreFail 0x802 0xFFFFFFFF 0 0).report
        (tab 32 fun i => Config.freeByte s.takeFree.1 i))).commitCmd c.handle 0x30 0 0) := by
  rw [execRestore_takes h himage hrestorable]
  dsimp only
  rw [hgrant]
  rfl

end

/-! ### The obligation -/

/-- Settles O43: CAPTURE is armed, stops everything at its point, and at the end of the drain commits with what it wrote through its
window; a RESTORE commits with the manifest's step and slot offset, and one outside every grant leaves its report alone. -/
theorem captureAndRestore : Obligations.CaptureAndRestore := by
  unfold Obligations.CaptureAndRestore
  intro s c q im h himage
  refine ⟨fun htakes hoff hpage hrunning hpending harmed hpoint hwindow hsize =>
    execCapture_armed htakes himage hoff hpage hrunning hpending harmed hpoint hwindow hsize,
    fun htakes hoff hpage hidle => ?idle, fun a harmed hstate hrunning => ⟨fun hpoint => ?point, execCapturePoint_early harmed⟩,
    ?drained, fun htakes hrestorable => ⟨fun g m d u hgrant hread hfrom => ?restored, fun hgrant => ?noGrant⟩⟩
  case idle =>
    obtain ⟨u, hu, hrec, honly, -⟩ := State.commitCmd_only htakes.1.sole (by norm_num) (execCapture_idle htakes himage hoff hpage hidle)
    exact ⟨u, hu, hrec, honly⟩
  case point =>
    exact ⟨_, execCapturePoint_reached harmed hstate hrunning hpoint, rfl, fun t => Vector.getElem_map .., fun d => Vector.getElem_map ..,
      rfl⟩
  case drained =>
    intro a harmed hstate hpending hdrained hdone hhandle hexec s1 r out bytes man p b hwindow
    obtain ⟨houvzu, hrouters, hgtc, hrunning, hlaunched, hadm, himage', hresume, hckpt, harmed', hbytes'⟩ := State.drained_left (a := a) hexec
    obtain ⟨houvzu₂, hgtc₂, -⟩ := (s.drained a).captured_left im a p b
    have hbytes : (s.drained a).captureBytes im a = bytes := rfl
    have hman : (s.drained a).captureManifest im a = man := by
      rw [State.captureManifest, hrouters]
      exact rfl
    have hends := execCaptureDrainEnd_ends harmed himage hexec hstate hpending hdrained hdone hhandle hwindow
    have hlast : ((s.drained a).captured im a p b).Sole c q := hexec.sole.congr (congrArg Ouvzu.cmds (houvzu₂.trans houvzu))
      (congrArg Ouvzu.queues (houvzu₂.trans houvzu)) (congrArg Ouvzu.closing (houvzu₂.trans houvzu))
    have hreads := State.commitCaptured_reads hlast (BitVec.ofNat 64 (bytes.length + man.length)) (a.winOff + BitVec.ofNat 64 bytes.length)
    obtain ⟨hjob, hmem, hgtc', hstate', harmed₂, hbytes₂⟩ := State.commitCaptured_left hlast
      (BitVec.ofNat 64 (bytes.length + man.length)) (a.winOff + BitVec.ofNat 64 bytes.length)
    rw [hbytes, hman] at hends hbytes₂ hreads
    refine ⟨_, hends, State.records_congr (State.commitCmd_records hlast (by norm_num) _ _) (congrArg Ouvzu.nCmds (houvzu₂.trans houvzu))
      (congrArg Ouvzu.queues (houvzu₂.trans houvzu)) (by rw [hgtc₂, hgtc]), hreads, ?_⟩
    rw [hjob, hmem, hgtc', hgtc]
    exact ⟨hrunning, hlaunched, hadm, himage'.trans himage, hresume, hstate'.trans hckpt, harmed₂.trans harmed',
      hbytes₂.trans (by rw [hbytes']), rfl, rfl⟩
  case restored =>
    obtain ⟨⟨houvzu, hgtc, himage'⟩, hrestored, hstep, hoff⟩ := State.restoreFrom_ok hfrom
    have hlast : u.Sole c q := htakes.1.sole.congr (congrArg Ouvzu.cmds houvzu) (congrArg Ouvzu.queues houvzu)
      (congrArg Ouvzu.closing houvzu)
    have hexec := execRestore_ok htakes himage hrestorable hgrant hread hfrom
    rw [hstep, hoff] at hexec
    obtain ⟨hjob, hmem, htiles, -⟩ := State.commitCmd_left hlast 0 (BitVec.ofNat 64 (leAt m.head 48 8)) (BitVec.ofNat 64 (leAt m.head 56 4))
    refine ⟨_, hexec, State.records_congr (State.commitCmd_records hlast (by norm_num) _ _) (congrArg Ouvzu.nCmds houvzu)
      (congrArg Ouvzu.queues houvzu) (congrArg Gtc.count hgtc), ?_⟩
    rw [hjob]
    exact ⟨hrestored, hstep, himage'.trans himage, htiles, hmem⟩
  case noGrant =>
    have hlast : (s.takeFree.2.hostWr q.port (c.arg 16 8) ((restoreFail 0x802 0xFFFFFFFF 0 0).report
        (tab 32 fun i => Config.freeByte s.takeFree.1 i))).Sole c q :=
      htakes.1.sole.congr (by rw [State.hostWr_ouvzu]; rfl) (by rw [State.hostWr_ouvzu]; rfl) (by rw [State.hostWr_ouvzu]; rfl)
    obtain ⟨hcmds, -, -, hstatus, -⟩ := State.commitCmd_records hlast (status := 0x30) (by norm_num) 0 0
    obtain ⟨hframe, -⟩ := State.commitCmd_frame hlast 0x30 0 0
    refine ⟨_, execRestore_noGrant htakes himage hrestorable hgrant, hcmds, hstatus, ?_⟩
    rw [hframe]
    cases q.port with
    | a => exact ⟨rfl, rfl, rfl, rfl⟩
    | b => exact ⟨rfl, rfl, rfl, rfl⟩

end Sys2Proof.Machine
end


section
/-!
SUPPORT. Routing (R380 to R391, R398): the queues a packet joins, what each route of a unicast packet leaves, and the tree of a
multicast packet at its source; and the obligation on routes.
-/
namespace Sys2Proof.Machine
-- One declaration at a time keeps the compile of the whole text within its memory.
set_option Elab.async false
open Host

/-! ### What a change of one part leaves of the others -/

theorem State.port_modPort_field {α : Type} (g : LPort → α) (f : LPort → LPort) (h : ∀ x, g (f x) = g x) (s : State)
    (p k : PortId) : g ((s.modPort p f).port k) = g (s.port k) := by
  by_cases hk : k = p
  · rw [hk, s.port_modPort, h]
  · rw [s.port_modPort_ne f hk]

theorem State.router_modRouter_field {α : Type} (g : Router → α) (f : Router → Router) (h : ∀ r, g (f r) = g r) (s : State)
    (d e : Die) : g ((s.modRouter d f).router e) = g (s.router e) := by
  cases d <;> cases e <;> simp [State.modRouter, State.router, dieIx, h]

theorem State.modRouter_modRouter (s : State) (d : Die) (f g : Router → Router) :
    (s.modRouter d f).modRouter d g = s.modRouter d fun r => g (f r) := by simp [State.modRouter]

/-! ### The queues a packet joins -/

/-- The virtual channel of a hop: the packet's class, and the hop's VCB (R386). -/
def hopVc (pkt : Packet) (v : Bool) : Fin 8 := ⟨2 * pktClass pkt + v.toNat, by
  have := Nat.mod_lt pkt.ctl.toNat (show 0 < 4 by decide)
  have := Bool.toNat_le v
  unfold pktClass
  omega⟩

/-- The number of an input in the queues: its port, or 20 for the on-die network. -/
def inputIx (input : RouterInput) : Nat :=
  match input with
  | .port p => p.val
  | .network => 20

/-- A packet joins the queue of one port. -/
def State.joins (pkt : Packet) (ix grp : Nat) (s : State) (h : PortId × Bool) : State :=
  s.modPort h.1 fun x => { x with
    queues := x.queues.set (hopVc pkt h.2) (x.queues[hopVc pkt h.2] ++ [⟨pkt, h.2, ix, arrivalVc pkt, grp⟩]) }

theorem State.enqueue_eq (s : State) (pkt : Packet) (input : RouterInput) (l : List (PortId × Bool)) :
    s.enqueue pkt input l = l.foldl (State.joins pkt (inputIx input) s.free) s.takeFree.2 := by
  cases input with
  | port p => exact rfl
  | network => exact rfl

section
variable (pkt : Packet) (ix grp : Nat)

theorem foldl_joins_frame (l : List (PortId × Bool)) (s : State) :
    l.foldl (State.joins pkt ix grp) s = { s with ports := (l.foldl (State.joins pkt ix grp) s).ports } := by
  induction l generalizing s with
  | nil => rfl
  | cons h l ih => exact (ih (s.joins pkt ix grp h)).trans rfl

theorem State.joins_rx (s : State) (h : PortId × Bool) (k : PortId) : ((s.joins pkt ix grp h).port k).rxStream = (s.port k).rxStream :=
  State.port_modPort_field LPort.rxStream (fun x => { x with
    queues := x.queues.set (hopVc pkt h.2) (x.queues[hopVc pkt h.2] ++ [⟨pkt, h.2, ix, arrivalVc pkt, grp⟩]) }) (fun _ => rfl) s h.1 k

theorem foldl_joins_rx (l : List (PortId × Bool)) (s : State) (k : PortId) :
    ((l.foldl (State.joins pkt ix grp) s).port k).rxStream = (s.port k).rxStream := by
  induction l generalizing s with
  | nil => rfl
  | cons h l ih => exact (ih (s.joins pkt ix grp h)).trans (State.joins_rx pkt ix grp s h k)

/-- A port that is not one of those a packet goes to stays as it is. -/
theorem foldl_joins_absent {l : List (PortId × Bool)} {k : PortId} (hk : k ∉ l.map Prod.fst) (s : State) :
    (l.foldl (State.joins pkt ix grp) s).port k = s.port k := by
  induction l generalizing s with
  | nil => rfl
  | cons h l ih =>
    rw [List.map_cons, List.mem_cons, not_or] at hk
    exact (ih hk.2 (s.joins pkt ix grp h)).trans (s.port_modPort_ne _ hk.1)

/-- One it goes to once has it at the end of one queue. -/
theorem foldl_joins_present {l : List (PortId × Bool)} {h : PortId × Bool} (hl : (l.map Prod.fst).Nodup) (hh : h ∈ l) (s : State) :
    ((l.foldl (State.joins pkt ix grp) s).port h.1).queues = (s.port h.1).queues.set (hopVc pkt h.2)
      ((s.port h.1).queues[hopVc pkt h.2] ++ [⟨pkt, h.2, ix, arrivalVc pkt, grp⟩]) := by
  induction l generalizing s with
  | nil => cases hh
  | cons g l ih =>
    rw [List.map_cons, List.nodup_cons] at hl
    obtain rfl | hh := List.mem_cons.1 hh
    · rw [List.foldl_cons, foldl_joins_absent pkt ix grp hl.1]
      exact congrArg LPort.queues (s.port_modPort h.1 _)
    · have hne : h.1 ≠ g.1 := fun e => hl.1 (e ▸ List.mem_map_of_mem hh)
      rw [List.foldl_cons, ih hl.2 hh]
      rw [show (s.joins pkt ix grp g).port h.1 = s.port h.1 from s.port_modPort_ne _ hne]

end

/-! ### The parts of a router's step -/

section
variable (s : State) (d : Die) (pkt : Packet)

theorem State.freeInput_frame (input : RouterInput) :
    s.freeInput input pkt = { s with ports := (s.freeInput input pkt).ports } := by
  cases input with
  | port p => exact rfl
  | network => exact rfl

/-- Returning credits sends a CTRL frame and touches neither the queues nor what came in. -/
theorem State.freeInput_port_field {α : Type} (g : LPort → α) (h : ∀ x m, g (x.emitCtl m) = g x) (input : RouterInput) (k : PortId) :
    g ((s.freeInput input pkt).port k) = g (s.port k) := by
  cases input with
  | port p =>
    exact State.port_modPort_field g
      (fun x => x.emitCtl (0x07#8 :: tab 8 fun i => if i = arrivalVc pkt then BitVec.ofNat 8 (pktCredits pkt) else 0))
      (fun x => h x _) s p k
  | network => exact rfl

/-- A route error: counted, its bit set, and reported (R384). -/
theorem State.routeError_left : ∃ netQ lom, s.routeError d pkt = { s with
    routers := ((s.modRouter d fun r => { r with routeErr := true, drops := r.drops + 1 }).modRouter .west fun r =>
      { r with netQ := netQ }).routers
    lom := lom, integ := { s.integ with evSeq := s.integ.evSeq + 1, evreps := s.integ.evreps + 1 } } := by
  obtain ⟨netQ, lom, hreport⟩ := (s.dropPkt d fun r => { r with routeErr := true }).report_net Config.routeEvent .chip 0
    (BitVec.ofNat 64 (leAt (pktBytes pkt) 0 8)) (BitVec.ofNat 64 (leAt (pktBytes pkt) 8 8))
  exact ⟨netQ, lom, hreport⟩

/-- Where the routers that carry the ports accept a packet, it joins the queues of them all (R398). -/
theorem State.sendOn_accepted {l : List (PortId × Bool)}
    (h : ∀ x ∈ l, portDie x.1 ≠ d → (s.router (otherDie d)).accepts pkt = true) (input : RouterInput) :
    s.sendOn d input pkt l = s.enqueue pkt input l := by
  refine if_neg fun hfar => ?_
  obtain ⟨hany, hrefused⟩ := Bool.and_eq_true_iff.1 hfar
  obtain ⟨x, hx, hdie⟩ := List.any_eq_true.1 hany
  rw [h x hx (by simpa using hdie)] at hrefused
  cases hrefused

theorem State.enqueue_rx (input : RouterInput) (l : List (PortId × Bool)) (k : PortId) :
    ((s.enqueue pkt input l).port k).rxStream = (s.port k).rxStream := by
  rw [s.enqueue_eq]
  exact foldl_joins_rx pkt _ _ l s.takeFree.2 k

theorem State.freeInput_rx (input : RouterInput) (k : PortId) :
    ((s.freeInput input pkt).port k).rxStream = (s.port k).rxStream :=
  s.freeInput_port_field pkt LPort.rxStream (fun _ _ => rfl) input k

theorem State.routeError_port (k : PortId) : (s.routeError d pkt).port k = s.port k := by
  obtain ⟨netQ, lom, herror⟩ := s.routeError_left d pkt
  rw [herror]
  exact rfl

theorem State.sendOn_rx (input : RouterInput) (l : List (PortId × Bool)) (k : PortId) :
    ((s.sendOn d input pkt l).port k).rxStream = (s.port k).rxStream := by
  unfold State.sendOn
  dsimp only
  split
  · split
    · exact State.freeInput_rx _ pkt input k
    · exact State.enqueue_rx _ pkt input _ k
  · exact s.enqueue_rx pkt input l k

/-- Wherever a unicast packet goes, no port's input changes. -/
theorem State.routePkt_rx (haxm : pktAxm pkt = 0) (p k : PortId) :
    ((s.routePkt d (.port p) pkt).port k).rxStream = (s.port k).rxStream := by
  unfold State.routePkt
  dsimp only
  simp only [haxm, bne_self_eq_false, Bool.false_and, Bool.false_eq_true, if_false]
  split
  · exact State.freeInput_rx _ pkt _ k
  · split
    · split
      · exact rfl
      · exact State.freeInput_rx _ pkt _ k
    · exact s.sendOn_rx d pkt _ _ k
    · rw [State.freeInput_rx, s.routeError_port]

end

/-! ### A unicast packet (R380 to R384, R398) -/

section
variable {s : State} {d : Die} {pkt : Packet}

/-- The port's stream without the packet that is taken from it. -/
def State.taken (s : State) (p : PortId) (pkt : Packet) : State :=
  s.modPort p fun x => { x with rxStream := x.rxStream.drop (pktBytes pkt).length }

theorem State.taken_queues (s : State) (p k : PortId) (pkt : Packet) : ((s.taken p pkt).port k).queues = (s.port k).queues :=
  State.port_modPort_field LPort.queues
    (fun x => { x with rxStream := x.rxStream.drop (pktBytes pkt).length }) (fun _ => rfl) s p k

theorem execRouterForward_port {p : PortId} (hwf : pkt.WellFormed = true) (hdie : portDie p = d)
    (hfirst : (pktBytes pkt).isPrefixOf (s.port p).rxStream = true) :
    exec (.routerForward d (.port p) pkt) s = .next ((s.taken p pkt).routePkt d (.port p) pkt) := by
  have hformed : ¬ (!pkt.WellFormed) = true := by rw [hwf]; exact Bool.false_ne_true
  change execRouterForward d (.port p) pkt s = _
  exact (if_neg hformed).trans (if_pos ⟨hdie, hfirst⟩)

theorem Router.accepts_iff (r : Router) : r.accepts pkt = true ↔ pktClass pkt = 3 ∨ pktEpoch pkt = r.epoch := by
  simp [Router.accepts]

theorem State.routePkt_refused (h : ¬ (s.router d).accepts pkt = true) (p : PortId) : ∃ ports,
    s.routePkt d (.port p) pkt =
      { (s.modRouter d fun r => { r with epochErr := true, drops := r.drops + 1 }) with ports := ports } ∧
      ∀ k : PortId, ports[k].queues = (s.port k).queues :=
  ⟨_, (if_pos (by rw [Bool.eq_false_iff.2 h]; rfl)).trans (State.freeInput_frame _ pkt (.port p)), fun k =>
    State.freeInput_port_field (s.modRouter d fun r => { r with epochErr := true, drops := r.drops + 1 }) pkt LPort.queues
      (fun _ _ => rfl) (.port p) k⟩

section
variable (haxm : pktAxm pkt = 0) (haccepts : (s.router d).accepts pkt = true) {p : PortId}
include haxm haccepts

theorem State.routePkt_deliver (hroute : s.unicast (s.router d) pkt (.port p) = .deliver) : s.routePkt d (.port p) pkt =
    if pktClass pkt = 1 then (s.deliverPkt d pkt).modRouter d fun r => { r with unsched := r.unsched ++ [(pkt, p)] }
    else (s.deliverPkt d pkt).freeInput (.port p) pkt := by
  unfold State.routePkt
  dsimp only
  rw [haxm, haccepts, hroute]
  by_cases hone : pktClass pkt = 1
  · rw [decide_eq_true hone, if_pos hone]
    exact rfl
  · rw [decide_eq_false hone, if_neg hone]
    exact rfl

theorem State.routePkt_send {l : List (PortId × Bool)} (hroute : s.unicast (s.router d) pkt (.port p) = .send l) :
    s.routePkt d (.port p) pkt = s.sendOn d (.port p) pkt l := by
  unfold State.routePkt
  dsimp only
  rw [haxm, haccepts, hroute]
  exact rfl

theorem State.routePkt_drop (hroute : s.unicast (s.router d) pkt (.port p) = .drop) :
    s.routePkt d (.port p) pkt = (s.routeError d pkt).freeInput (.port p) pkt := by
  unfold State.routePkt
  dsimp only
  rw [haxm, haccepts, hroute]
  exact rfl

end

/-- A packet for this chip is delivered (R380). -/
theorem State.routePkt_delivers (haxm : pktAxm pkt = 0) (haccepts : (s.router d).accepts pkt = true)
    (hdst : pktDst pkt = (s.router d).self) (p : PortId) : ∃ ports unsched, s.routePkt d (.port p) pkt =
      { (s.modRouter d fun r => { r with delivered := r.delivered ++ [pkt], pkts := r.pkts + 1, unsched := unsched }) with
        ports := ports } ∧ ∀ k : PortId, ports[k].queues = (s.port k).queues := by
  have hroute : s.unicast (s.router d) pkt (.port p) = .deliver := if_pos (beq_iff_eq.2 hdst)
  rw [State.routePkt_deliver haxm haccepts hroute]
  split
  · refine ⟨s.ports, (s.router d).unsched ++ [(pkt, p)], ?_, fun k => rfl⟩
    rw [State.deliverPkt, State.modRouter_modRouter]
    exact State.modRouter_congr rfl
  · refine ⟨_, (s.router d).unsched, ?_, fun k =>
      State.freeInput_port_field (s.deliverPkt d pkt) pkt LPort.queues (fun _ _ => rfl) (.port p) k⟩
    rw [State.freeInput_frame]
    exact congrArg (fun v : State => { v with ports := ((s.deliverPkt d pkt).freeInput (.port p) pkt).ports })
      (State.modRouter_congr rfl)

/-- A packet that has no route is counted, marked and reported (R384). -/
theorem State.routePkt_drops (haxm : pktAxm pkt = 0) (haccepts : (s.router d).accepts pkt = true) {p : PortId}
    (hroute : s.unicast (s.router d) pkt (.port p) = .drop) : ∃ ports netQ lom, s.routePkt d (.port p) pkt = { s with
      routers := ((s.modRouter d fun r => { r with routeErr := true, drops := r.drops + 1 }).modRouter .west fun r =>
        { r with netQ := netQ }).routers
      ports := ports, lom := lom
      integ := { s.integ with evSeq := s.integ.evSeq + 1, evreps := s.integ.evreps + 1 } } ∧
      ∀ k : PortId, ports[k].queues = (s.port k).queues := by
  obtain ⟨netQ, lom, herror⟩ := s.routeError_left d pkt
  rw [State.routePkt_drop haxm haccepts hroute]
  refine ⟨((s.routeError d pkt).freeInput (.port p) pkt).ports, netQ, lom, ?_, fun k => ?_⟩
  · rw [State.freeInput_frame]
    exact congrArg (fun v : State => { v with ports := ((s.routeError d pkt).freeInput (.port p) pkt).ports }) herror
  · exact (State.freeInput_port_field (s.routeError d pkt) pkt LPort.queues (fun _ _ => rfl) (.port p) k).trans
      (congrArg LPort.queues (s.routeError_port d pkt k))

theorem Router.extent_pos (r : Router) (i : Nat) : 0 < r.extent i := Nat.succ_pos _

/-- The shorter way round, with the tie by the parity of the coordinate; along an open axis the only way (R381). -/
theorem Router.plus_iff (r : Router) (i a b : Nat) : r.plus i a b = true ↔ if r.isOpen i then a < b else
    2 * ((b + r.extent i - a) % r.extent i) < r.extent i ∨
      (2 * ((b + r.extent i - a) % r.extent i) = r.extent i ∧ a % 2 = 0) := by
  have hlt := Nat.mod_lt (b + r.extent i - a) (r.extent_pos i)
  unfold Router.plus
  generalize hd : (b + r.extent i - a) % r.extent i = ahead at hlt ⊢
  cases r.isOpen i with
  | true => simp
  | false =>
    dsimp only
    simp only [hd, Bool.false_eq_true, if_false]
    split
    · simp only [true_iff]
      omega
    · split
      · simp only [Bool.false_eq_true, false_iff]
        omega
      · rw [beq_iff_eq]
        omega

theorem Router.crosses_iff (r : Router) (i a : Nat) (plus : Bool) : r.crosses i a plus = true ↔ r.isOpen i = false ∧
    (plus = true ∧ (a + 1) % r.extent i = r.dateLine i ∨ ¬ plus = true ∧ a = r.dateLine i) := by
  cases plus <;> simp [Router.crosses]

/-- A hop's VCB: kept along the axis it came on, or set as it crosses the date line (R386, R387). -/
theorem Router.hopVcb_port (r : Router) (p : PortId) (i : Nat) (plus : Bool) : r.hopVcb pkt (.port p) i plus = true ↔
    r.crosses i (coord r.self i) plus = true ∨ ((∃ g, portAxis p = some (i, g)) ∧ pktVcb pkt = true) := by
  unfold Router.hopVcb
  dsimp only
  cases haxis : portAxis p with
  | none => simp
  | some x =>
    obtain ⟨j, g⟩ := x
    simp [or_comm]

/-- The first axis on which two addresses differ. -/
theorem find_axis {f : Nat → Bool} {i : Nat} (hi : i < 3) (h : f i = true) (hfirst : ∀ j < i, f j = false) :
    [0, 1, 2].find? f = some i := by
  interval_cases i
  · simp [h]
  · simp [h, hfirst 0]
  · simp [h, hfirst 0, hfirst 1]

/-- In the chip's pod, out of its node and within the extents, a scheduled or collective packet goes to the port of the first axis
that differs (R380, R381). -/
theorem State.unicast_torus {r : Router} {input : RouterInput} (hpod : podOf (pktDst pkt) = podOf r.self)
    (hin : ∀ i < 3, coord (pktDst pkt) i < r.extent i) (hnode : ∃ i < 3, coord (pktDst pkt) i / 2 ≠ coord r.self i / 2)
    (hclass : pktClass pkt = 0 ∨ pktClass pkt = 2) {i : Nat} (hi : i < 3) (hne : coord (pktDst pkt) i ≠ coord r.self i)
    (hfirst : ∀ j < i, coord (pktDst pkt) j = coord r.self j) {sign : Bool}
    (hsign : r.plus i (coord r.self i) (coord (pktDst pkt) i) = sign)
    (hservice : s.inService (torusPort i sign (pktPsel pkt)) = true) :
    s.unicast r pkt input = .send [(torusPort i sign (pktPsel pkt), r.hopVcb pkt input i sign)] := by
  have hother : ¬ (pktDst pkt == r.self) = true := fun h => hne (by rw [beq_iff_eq.1 h])
  have hinside : ¬ (podOf (pktDst pkt) != podOf r.self) = true := by simp [hpod]
  have hextents : ¬ (!r.inExtents (pktDst pkt)) = true := by
    simp [Router.inExtents, hin 0, hin 1, hin 2]
  have haway : ¬ ([0, 1, 2].all fun i => coord (pktDst pkt) i / 2 == coord r.self i / 2) = true := by
    obtain ⟨j, hj, hne⟩ := hnode
    intro hall
    exact hne (beq_iff_eq.1 (List.all_eq_true.1 hall j (by interval_cases j <;> simp)))
  have hthree : ¬ (pktClass pkt == 3) = true := by obtain h | h := hclass <;> simp [h]
  have hone : ¬ (pktClass pkt == 1) = true := by obtain h | h := hclass <;> simp [h]
  have haxis : ([0, 1, 2].find? fun i => coord (pktDst pkt) i != coord r.self i) = some i :=
    find_axis hi (by simpa using hne) fun j hj => by simp [hfirst j hj]
  refine (if_neg hother).trans ((if_neg hinside).trans ((if_neg hextents).trans ((if_neg haway).trans ?_)))
  unfold State.torusRoute
  rw [haxis]
  dsimp only
  rw [hsign, if_neg hthree, if_neg hone, if_pos hservice]

theorem State.unicast_none {r : Router} {input : RouterInput} (hother : pktDst pkt ≠ r.self)
    (h : (podOf (pktDst pkt) = podOf r.self ∧ ¬ ∀ i < 3, coord (pktDst pkt) i < r.extent i) ∨
      podOf (pktDst pkt) ≠ podOf r.self ∧ r.hpeer ≠ some (pktDst pkt)) : s.unicast r pkt input = .drop := by
  have hother : ¬ (pktDst pkt == r.self) = true := fun h => hother (beq_iff_eq.1 h)
  obtain ⟨hpod, hout⟩ | ⟨hpod, hpeer⟩ := h
  · have hinside : ¬ (podOf (pktDst pkt) != podOf r.self) = true := by simp [hpod]
    have hextents : (!r.inExtents (pktDst pkt)) = true := by
      rw [Bool.not_eq_true', Bool.eq_false_iff]
      intro hin
      refine hout fun i hi => of_decide_eq_true (List.all_eq_true.1 hin i ?_)
      interval_cases i <;> simp
    exact (if_neg hother).trans ((if_neg hinside).trans (if_pos hextents))
  · have hpod' : (podOf (pktDst pkt) != podOf r.self) = true := by simpa using hpod
    refine (if_neg hother).trans ((if_pos hpod').trans (if_neg ?_))
    simp [hpeer]

/-- A packet with one hop joins the queue of its port. -/
theorem State.routePkt_sends (haxm : pktAxm pkt = 0) (haccepts : (s.router d).accepts pkt = true) {p o : PortId} {v : Bool}
    (hroute : s.unicast (s.router d) pkt (.port p) = .send [(o, v)])
    (hfar : portDie o ≠ d → (s.router (otherDie d)).accepts pkt = true) :
    s.routePkt d (.port p) pkt = s.takeFree.2.joins pkt p.val s.free (o, v) := by
  rw [State.routePkt_send haxm haccepts hroute, s.sendOn_accepted d pkt (by simpa using hfar), s.enqueue_eq]
  exact rfl

end

/-! ### A multicast packet at its source (R389, R390) -/

section
variable {pkt : Packet} {r : Router}

/-- The mask of each axis whose bit of AXM is set is there (R379). -/
theorem pktMask_some (hwf : pkt.WellFormed = true) {i : Nat} (hi : i < 3) (hbit : (pktAxm pkt).testBit i = true) :
    ∃ m, pktMask pkt i = some m := by
  have hbits (j : Nat) (hj : j < 3) : (pktAxm pkt).testBit j = pkt.ctl.getLsbD (4 + j) := by
    rw [pktAxm, bits, Nat.testBit_mod_two_pow, Nat.testBit_shiftRight, decide_eq_true hj, Bool.true_and]
    rfl
  have hmasks : pkt.masks.length = (if pkt.ctl.getLsbD 4 then 1 else 0) + (if pkt.ctl.getLsbD 5 then 1 else 0) +
      (if pkt.ctl.getLsbD 6 then 1 else 0) := by
    simp only [Packet.WellFormed, Bool.and_eq_true, beq_iff_eq] at hwf
    exact hwf.2
  have hahead : ((List.range i).filter fun a => (pktAxm pkt).testBit a).length < pkt.masks.length := by
    rw [hmasks]
    rw [hbits i hi] at hbit
    have h0 := hbits 0 (by decide)
    have h1 := hbits 1 (by decide)
    interval_cases i
    · simp [hbit]
    · generalize (if pkt.ctl.getLsbD 6 = true then 1 else 0) = c
      rw [List.range_one, List.filter_singleton, h0, hbit]
      cases pkt.ctl.getLsbD 4 with
      | true => exact show 1 < 1 + 1 + c by omega
      | false => exact show 0 < 0 + 1 + c by omega
    · rw [show List.range 2 = [0, 1] from rfl, List.filter_cons, List.filter_singleton, h0, h1, hbit]
      cases pkt.ctl.getLsbD 4 <;> cases pkt.ctl.getLsbD 5 <;> decide
  exact ⟨_, (if_pos hbit).trans (List.getElem?_eq_getElem hahead)⟩

theorem pktMask_none (hwf : pkt.WellFormed = true) {i : Nat} (hi : i < 3) :
    pktMask pkt i = none ↔ (pktAxm pkt).testBit i = false := by
  constructor
  · intro hnone
    rw [Bool.eq_false_iff]
    intro hbit
    obtain ⟨m, hm⟩ := pktMask_some hwf hi hbit
    rw [hnone] at hm
    cases hm
  · intro hbit
    exact if_neg (by rw [hbit]; exact Bool.false_ne_true)

theorem toNat_lt_two_pow_iff (m : BitVec 32) (n : Nat) : m.toNat < 2 ^ n ↔ ∀ k, m.getLsbD k = true → k < n := by
  constructor
  · intro hlt k hk
    by_contra hge
    have hclear : m.toNat.testBit k = false :=
      Nat.testBit_lt_two_pow (hlt.trans_le (Nat.pow_le_pow_right (by decide) (Nat.le_of_not_lt hge)))
    rw [BitVec.getLsbD, hclear] at hk
    cases hk
  · intro h
    refine Nat.lt_pow_two_of_testBit _ fun k hk => Bool.eq_false_iff.2 fun hbit => ?_
    exact absurd (h k hbit) (Nat.not_lt.2 hk)

/-- What R389 asks of a packet that is injected. -/
theorem Router.mcastOk_iff (r : Router) (hwf : pkt.WellFormed = true) : r.mcastOk pkt = true ↔
    (pktClass pkt = 0 ∨ pktClass pkt = 2) ∧ podOf (pktDst pkt) = podOf (pktSrc pkt) ∧
      ∀ i < 3, ∀ m, pktMask pkt i = some m → ∀ k, m.getLsbD k = true → k < r.extent i := by
  have haxis (i : Nat) (hi : i < 3) : (match pktMask pkt i with
      | some m => decide (m.toNat < 2 ^ r.extent i)
      | none => !(pktAxm pkt).testBit i) = true ↔ ∀ m, pktMask pkt i = some m → ∀ k, m.getLsbD k = true → k < r.extent i := by
    cases hmask : pktMask pkt i with
    | none => simp [(pktMask_none hwf hi).1 hmask]
    | some m => simp [toNat_lt_two_pow_iff]
  have hall : ([0, 1, 2].all fun i => match pktMask pkt i with
      | some m => decide (m.toNat < 2 ^ r.extent i)
      | none => !(pktAxm pkt).testBit i) = true ↔
      ∀ i < 3, ∀ m, pktMask pkt i = some m → ∀ k, m.getLsbD k = true → k < r.extent i := by
    rw [List.all_eq_true]
    constructor
    · intro h i hi
      exact (haxis i hi).1 (h i (by interval_cases i <;> simp))
    · intro h i hmem
      have hi : i < 3 := by
        simp only [List.mem_cons, List.not_mem_nil, or_false] at hmem
        omega
      exact (haxis i hi).2 (h i hi)
  rw [Router.mcastOk, Bool.and_eq_true, Bool.and_eq_true, Bool.or_eq_true, beq_iff_eq, beq_iff_eq, beq_iff_eq, and_assoc]
  exact and_congr_right fun _ => and_congr_right fun _ => hall

theorem Router.mem_targets_some {i t : Nat} {m : BitVec 32} (hmask : pktMask pkt i = some m) :
    t ∈ r.targets pkt i ↔ t < r.extent i ∧ m.getLsbD t = true := by
  rw [Router.targets, hmask]
  exact List.mem_filter.trans (and_congr List.mem_range Iff.rfl)

theorem Router.mem_targets_none {i t : Nat} (hmask : pktMask pkt i = none) :
    t ∈ r.targets pkt i ↔ t = coord (pktDst pkt) i := by
  rw [Router.targets, hmask]
  exact List.mem_singleton

theorem Router.target_lt (hin : ∀ i < 3, pktMask pkt i = none → coord (pktDst pkt) i < r.extent i) {i t : Nat} (hi : i < 3)
    (ht : t ∈ r.targets pkt i) : t < r.extent i := by
  cases hmask : pktMask pkt i with
  | none =>
    rw [(Router.mem_targets_none hmask).1 ht]
    exact hin i hi hmask
  | some m => exact ((Router.mem_targets_some hmask).1 ht).1

/-- A coordinate other than this one lies further along than this one does. -/
theorem Router.dist_lt (r : Router) {i a t : Nat} (plus : Bool) (ha : a < r.extent i) (ht : t < r.extent i) (hne : t ≠ a) :
    r.dist i a a plus < r.dist i a t plus := by
  have hzero : r.dist i a a plus = 0 := by cases plus <;> simp [Router.dist]
  have hfar {x y : Nat} (hx : x < r.extent i) (hy : y < r.extent i) (hxy : x ≠ y) : 0 < (x + r.extent i - y) % r.extent i := by
    refine Nat.pos_of_ne_zero fun h => ?_
    obtain ⟨k, hk⟩ := Nat.dvd_of_mod_eq_zero h
    have hk1 : k < 2 := by
      by_contra hge
      have := Nat.mul_le_mul_left (r.extent i) (Nat.le_of_not_lt hge)
      omega
    interval_cases k
    · omega
    · omega
  rw [hzero]
  cases plus with
  | true => exact hfar ht ha hne
  | false => exact hfar ha ht hne.symm

/-- A branch leaves this chip in a direction exactly when a target other than this chip lies that way (R390). -/
theorem Router.branchOn_iff (hin : ∀ i < 3, pktMask pkt i = none → coord (pktDst pkt) i < r.extent i) {i a : Nat} (hi : i < 3)
    (ha : a < r.extent i) (sign : Bool) : r.branchOn pkt i a a sign = true ↔
      ∃ t, t ∈ r.targets pkt i ∧ t ≠ a ∧ r.plus i a t = sign := by
  rw [Router.branchOn, List.any_eq_true]
  refine exists_congr fun t => and_congr_right fun ht => ?_
  rw [Bool.and_eq_true, Bool.and_eq_true, bne_iff_ne, beq_iff_eq, decide_eq_true_eq, and_assoc]
  exact ⟨fun ⟨hne, hsign, _⟩ => ⟨hne, hsign⟩, fun ⟨hne, hsign⟩ =>
    ⟨hne, hsign, r.dist_lt sign ha (Router.target_lt hin hi ht) hne⟩⟩

/-- This chip's place on an axis is among the targets. -/
def Router.onAxis (r : Router) (pkt : Packet) (i : Nat) : Bool := (r.targets pkt i).contains (coord r.self i)

/-- The hops from this chip along an axis. -/
def Router.hopsAt (r : Router) (pkt : Packet) (i : Nat) : List (PortId × Bool) :=
  [true, false].filterMap fun plus =>
    if r.branchOn pkt i (coord r.self i) (coord r.self i) plus then some (r.branchHop pkt .network i plus) else none

/-- The tree of a packet at its source: the hops of each axis whose earlier axes this chip is on (R390). -/
theorem Router.tree_network (r : Router) (pkt : Packet) : r.tree pkt .network =
    (r.hopsAt pkt 0 ++ (if r.onAxis pkt 0 then r.hopsAt pkt 1 ++ (if r.onAxis pkt 1 then r.hopsAt pkt 2 else []) else []),
      r.onAxis pkt 0 && r.onAxis pkt 1 && r.onAxis pkt 2) := by
  have hfold (hops : Nat → List (PortId × Bool)) (on : Nat → Bool) :
      [0, 1, 2].foldl (fun a i => if !a.2 then a else (a.1 ++ hops i, on i)) ([], true) =
        (hops 0 ++ (if on 0 then hops 1 ++ (if on 1 then hops 2 else []) else []), on 0 && on 1 && on 2) := by
    cases h0 : on 0 <;> cases h1 : on 1 <;> simp [h0, h1]
  exact hfold (r.hopsAt pkt) (r.onAxis pkt)

theorem Router.mem_hopsAt {i : Nat} {h : PortId × Bool} : h ∈ r.hopsAt pkt i ↔
    ∃ sign, r.branchOn pkt i (coord r.self i) (coord r.self i) sign = true ∧ h = r.branchHop pkt .network i sign := by
  rw [Router.hopsAt, List.mem_filterMap]
  constructor
  · rintro ⟨sign, -, h⟩
    split at h
    · next hon => exact ⟨sign, hon, (Option.some.inj h).symm⟩
    · cases h
  · rintro ⟨sign, hon, rfl⟩
    exact ⟨sign, by cases sign <;> simp, if_pos hon⟩

theorem Router.mem_tree {h : PortId × Bool} : h ∈ (r.tree pkt .network).1 ↔
    ∃ i < 3, (∀ j < i, r.onAxis pkt j = true) ∧ h ∈ r.hopsAt pkt i := by
  have hlater {P : Prop} {b : Bool} {l : List (PortId × Bool)} (hP : h ∈ l ↔ P) : (h ∈ if b then l else []) ↔ b = true ∧ P := by
    cases b <;> simp [hP]
  rw [Router.tree_network]
  dsimp only
  rw [List.mem_append, hlater (List.mem_append.trans (or_congr_right (hlater Iff.rfl)))]
  constructor
  · rintro (h0 | ⟨hon, h1 | ⟨hon', h2⟩⟩)
    · exact ⟨0, by decide, by simp, h0⟩
    · exact ⟨1, by decide, fun j hj => (show j = 0 by omega) ▸ hon, h1⟩
    · refine ⟨2, by decide, fun j hj => ?_, h2⟩
      interval_cases j
      · exact hon
      · exact hon'
  · rintro ⟨i, hi, hon, hmem⟩
    interval_cases i
    · exact .inl hmem
    · exact .inr ⟨hon 0 (by decide), .inl hmem⟩
    · exact .inr ⟨hon 0 (by decide), .inr ⟨hon 1 (by decide), hmem⟩⟩

theorem Router.tree_delivers : (r.tree pkt .network).2 = true ↔ ∀ i < 3, coord r.self i ∈ r.targets pkt i := by
  rw [Router.tree_network]
  dsimp only
  simp only [Bool.and_eq_true, Router.onAxis, List.contains_iff_mem]
  constructor
  · rintro ⟨⟨h0, h1⟩, h2⟩ i hi
    interval_cases i
    · exact h0
    · exact h1
    · exact h2
  · intro h
    exact ⟨⟨h 0 (by decide), h 1 (by decide)⟩, h 2 (by decide)⟩

/-- The six torus ports of one PSEL are different ports. -/
theorem torusPort_inj : ∀ (i j : Fin 3) (a b psel : Bool), torusPort i a psel = torusPort j b psel → i = j ∧ a = b := by
  decide

/-- A tree uses each port once. -/
theorem Router.tree_nodup : ((r.tree pkt .network).1.map Prod.fst).Nodup := by
  have hports : (([0, 1, 2].flatMap fun i => [true, false].map fun sign => torusPort i sign (pktPsel pkt))).Nodup := by
    cases pktPsel pkt <;> decide
  have hsome {α β : Type} (on : α → Bool) (f : α → β) (l : List α) :
      (l.filterMap fun x => if on x then some (f x) else none).Sublist (l.map f) := by
    induction l with
    | nil => exact List.nil_sublist _
    | cons x l ih =>
      rw [List.filterMap_cons, List.map_cons]
      cases on x with
      | true => exact ih.cons_cons _
      | false => exact ih.cons _
  have hat (i : Nat) : ((r.hopsAt pkt i).map Prod.fst).Sublist ([true, false].map fun sign => torusPort i sign (pktPsel pkt)) :=
    (hsome _ _ _).map Prod.fst
  have hif {b : Bool} {l m : List PortId} (h : l.Sublist m) : (if b then l else []).Sublist m := by
    cases b
    · exact List.nil_sublist _
    · exact h
  have hmap {b : Bool} {l : List (PortId × Bool)} : (if b then l else []).map Prod.fst = if b then l.map Prod.fst else [] := by
    cases b <;> rfl
  refine hports.sublist ?_
  rw [Router.tree_network]
  dsimp only
  rw [List.map_append, hmap, List.map_append, hmap]
  exact (hat 0).append (hif ((hat 1).append (hif ((hat 2).trans (by simp)))))

end

section
variable {s : State} {d : Die} {pkt : Packet}

/-- A chip's own multicast packet as its router takes it from the network. -/
theorem execMulticastInject_eq (hwf : pkt.WellFormed = true) (haxm : pktAxm pkt ≠ 0) (hempty : (s.router d).netQ = []) :
    exec (.multicastInject d pkt) s = .next (if (s.router d).mcastOk pkt then s.routePkt d .network pkt
      else s.modRouter d fun r => { r with mcastErr := true, drops := r.drops + 1 }) := by
  have hformed : ¬ (!pkt.WellFormed) = true := by rw [hwf]; exact Bool.false_ne_true
  have hturn : ¬ (decide (pktAxm pkt = 0) || !inTurn (s.router d).netQ pkt) = true := by
    rw [hempty, decide_eq_false haxm]
    exact Bool.false_ne_true
  have htake : (s.modRouter d fun r => r.takeNet pkt) = s := by
    refine (State.modRouter_congr ?_).trans (s.modRouter_id d)
    rw [Router.takeNet, hempty, List.erase_nil, ← hempty]
  change execMulticastInject d pkt s = _
  refine (if_neg hformed).trans ((if_neg hturn).trans ?_)
  rw [htake]
  dsimp only
  split
  · exact rfl
  · exact rfl

/-- The copy for this chip, if it is a target. -/
def State.deliveredIf (s : State) (d : Die) (pkt : Packet) (b : Bool) : State := if b then s.deliverPkt d pkt else s

theorem State.deliveredIf_frame (b : Bool) : s.deliveredIf d pkt b = { s with routers := (s.deliveredIf d pkt b).routers } := by
  cases b <;> exact rfl

theorem State.deliveredIf_router (b : Bool) : ((s.deliveredIf d pkt b).router d).delivered =
    (if b then (s.router d).delivered ++ [pkt] else (s.router d).delivered) ∧
      ((s.deliveredIf d pkt b).router d).drops = (s.router d).drops := by
  cases b with
  | true =>
    have hrouter : (s.deliverPkt d pkt).router d = { s.router d with
        delivered := (s.router d).delivered ++ [pkt], pkts := (s.router d).pkts + 1 } := s.router_modRouter d _
    exact ⟨(congrArg Router.delivered hrouter).trans rfl, (congrArg Router.drops hrouter).trans rfl⟩
  | false => exact ⟨rfl, rfl⟩

/-- With every port in service and the epoch that of both routers, a packet takes all the hops of its tree (R390). -/
theorem State.routePkt_tree (haxm : pktAxm pkt ≠ 0) (hepoch : ∀ d', pktEpoch pkt = (s.router d').epoch)
    (hservice : ∀ k, s.inService k = true) (hin : (s.router d).mcastIn pkt = true) : ∃ grp free,
      s.routePkt d .network pkt = ((s.router d).tree pkt .network).1.foldl (State.joins pkt 20 grp)
        { s.deliveredIf d pkt ((s.router d).tree pkt .network).2 with free := free } := by
  have haccepts (d' : Die) : (s.router d').accepts pkt = true := Router.accepts_iff _ |>.2 (.inr (hepoch d'))
  have hrefused : ¬ (!(s.router d).accepts pkt) = true := by rw [haccepts]; exact Bool.false_ne_true
  have houtside : ¬ (pktAxm pkt != 0 && !(s.router d).mcastIn pkt) = true := by rw [hin]; simp
  have hmulti : (pktAxm pkt != 0) = true := bne_iff_ne.2 haxm
  have hup : (((s.router d).tree pkt .network).1.filter fun h => s.inService h.1) = ((s.router d).tree pkt .network).1 :=
    List.filter_eq_self.2 fun h _ => hservice h.1
  have hnone : ¬ ((s.router d).tree pkt .network).1.length < ((s.router d).tree pkt .network).1.length := Nat.lt_irrefl _
  have hother (b : Bool) : ((s.deliveredIf d pkt b).router (otherDie d)).accepts pkt = true := by
    rw [← haccepts (otherDie d)]
    cases b with
    | true =>
      exact State.router_modRouter_field (fun r => r.accepts pkt)
        (fun r => { r with delivered := r.delivered ++ [pkt], pkts := r.pkts + 1 }) (fun _ => rfl) s d (otherDie d)
    | false => rfl
  have hroute : s.routePkt d .network pkt = if ((s.router d).tree pkt .network).1.isEmpty
      then s.deliveredIf d pkt ((s.router d).tree pkt .network).2
      else (s.deliveredIf d pkt ((s.router d).tree pkt .network).2).sendOn d .network pkt ((s.router d).tree pkt .network).1 := by
    refine (if_neg hrefused).trans ((if_neg houtside).trans ((if_pos hmulti).trans ?_))
    dsimp only
    rw [hup, if_neg hnone]
    exact rfl
  rw [hroute]
  split
  · next hempty =>
    refine ⟨0, s.free, ?_⟩
    rw [List.isEmpty_iff.1 hempty, List.foldl_nil, State.deliveredIf_frame]
  · refine ⟨s.free, s.free + 1, ?_⟩
    rw [State.sendOn_accepted _ d pkt (fun _ _ _ => hother _), State.enqueue_eq, State.deliveredIf_frame]
    exact rfl

end

/-! ### The obligation -/

/-- Settles O24: a unicast packet is refused, delivered, queued at the port of the first axis that differs, or reported; a multicast
packet takes the hops of its tree, each port once. -/
theorem packetsFollowTheirRoute : Obligations.PacketsFollowTheirRoute := by
  unfold Obligations.PacketsFollowTheirRoute
  refine ⟨?unicast, ?multicast⟩
  case unicast =>
    intro s d p pkt r a b e ahead plus crosses inExt hwf hdie hbytes haxm
    have hqueues (k : PortId) := s.taken_queues p k pkt
    refine ⟨_, execRouterForward_port hwf hdie hbytes, ?rx, fun hclass hepoch => ?refused, fun hok => ⟨fun hdst => ?delivered,
      fun hpod hin hnode hclass i hi hne hfirst sign hsign hservice hfar => ?sent, fun hother hnone => ?dropped⟩⟩
    case rx =>
      rw [State.routePkt_rx _ d pkt haxm]
      exact congrArg LPort.rxStream (s.port_modPort p _)
    case refused =>
      obtain ⟨ports, hroute, hkept⟩ := State.routePkt_refused (s := s.taken p pkt) (d := d)
        (fun h => ((Router.accepts_iff r).1 h).elim hclass hepoch) p
      have hrouter := (s.taken p pkt).router_modRouter d fun r => { r with epochErr := true, drops := r.drops + 1 }
      rw [hroute]
      exact ⟨(congrArg Router.drops hrouter).trans rfl, (congrArg Router.epochErr hrouter).trans rfl,
        (congrArg Router.delivered hrouter).trans rfl, rfl, fun k => (hkept k).trans (hqueues k)⟩
    case delivered =>
      obtain ⟨ports, unsched, hroute, hkept⟩ := State.routePkt_delivers (s := s.taken p pkt) haxm ((Router.accepts_iff r).2 hok) hdst p
      have hrouter := (s.taken p pkt).router_modRouter d fun r => { r with
        delivered := r.delivered ++ [pkt], pkts := r.pkts + 1, unsched := unsched }
      rw [hroute]
      exact ⟨(congrArg Router.delivered hrouter).trans rfl, (congrArg Router.pkts hrouter).trans rfl,
        (congrArg Router.drops hrouter).trans rfl, rfl, fun k => (hkept k).trans (hqueues k)⟩
    case sent =>
      have hplus : r.plus i (a i) (b i) = sign := Bool.eq_iff_iff.2 ((r.plus_iff i (a i) (b i)).trans hsign.symm)
      have hroute := State.unicast_torus (s := s.taken p pkt) (input := .port p) hpod hin hnode hclass hi hne hfirst hplus hservice
      rw [State.routePkt_sends (s := s.taken p pkt) (d := d) haxm ((Router.accepts_iff r).2 hok) hroute fun hdie =>
        (Router.accepts_iff _).2 (.inr (hfar hdie))]
      refine ⟨⟨pkt, r.hopVcb pkt (.port p) i sign, p.val, arrivalVc pkt, s.free⟩, hopVc pkt (r.hopVcb pkt (.port p) i sign), rfl, rfl,
        rfl, (r.hopVcb_port p i sign).trans (or_congr_left ((r.crosses_iff i (a i) sign).trans
          (and_congr_right fun _ => or_congr (and_congr_left fun _ => hsign) (and_congr_left fun _ => not_congr hsign)))),
        ?_, fun k hk => ?_, rfl, rfl⟩
      · rw [← hqueues]
        exact congrArg LPort.queues ((s.taken p pkt).takeFree.2.port_modPort _ _)
      · exact (congrArg LPort.queues ((s.taken p pkt).takeFree.2.port_modPort_ne _ hk)).trans (hqueues k)
    case dropped =>
      obtain ⟨ports, netQ, lom, hroute, hkept⟩ := State.routePkt_drops (s := s.taken p pkt) (d := d) haxm
        ((Router.accepts_iff r).2 hok) (p := p) (State.unicast_none hother hnone)
      have hfield {α : Type} (g : Router → α) (hg : ∀ r q, g { r with netQ := q } = g r) :
          g ((((s.taken p pkt).modRouter d fun r => { r with routeErr := true, drops := r.drops + 1 }).modRouter .west fun r =>
            { r with netQ := netQ }).router d) = g { s.router d with routeErr := true, drops := (s.router d).drops + 1 } :=
        (State.router_modRouter_field g (fun r => { r with netQ := netQ }) (fun r => hg r netQ) _ .west d).trans
          (congrArg g (State.router_modRouter _ d _))
      rw [hroute]
      exact ⟨hfield Router.drops fun _ _ => rfl, hfield Router.routeErr fun _ _ => rfl, hfield Router.delivered fun _ _ => rfl, rfl,
        fun k => (hkept k).trans (hqueues k), rfl⟩
  case multicast =>
    intro s d pkt r here targets ok hwf haxm hempty hepoch hservice hin hhere
    have htargets (i t : Nat) : targets i t ↔ t ∈ r.targets pkt i := by
      simp only [targets]
      cases hmask : pktMask pkt i with
      | none => exact (Router.mem_targets_none hmask).symm
      | some m => exact (Router.mem_targets_some hmask).symm
    have hok : r.mcastOk pkt = true ↔ ok := r.mcastOk_iff hwf
    have hinside : r.mcastIn pkt = true := by
      refine List.all_eq_true.2 fun i hi => ?_
      have hi : i < 3 := by
        simp only [List.mem_cons, List.not_mem_nil, or_false] at hi
        omega
      cases hbit : (pktAxm pkt).testBit i with
      | true => rfl
      | false => exact decide_eq_true (hin i hi ((pktMask_none hwf hi).2 hbit))
    refine ⟨_, execMulticastInject_eq hwf haxm hempty, fun hno => ?refused, fun hyes => ?tree⟩
    case refused =>
      rw [if_neg (mt hok.1 hno)]
      exact ⟨congrArg Router.mcastErr (s.router_modRouter d _), congrArg Router.drops (s.router_modRouter d _), rfl⟩
    case tree =>
      obtain ⟨grp, free, hroute⟩ := State.routePkt_tree haxm hepoch hservice hinside
      obtain ⟨hdelivered, hdrops⟩ := State.deliveredIf_router (s := s) (d := d) (pkt := pkt) (r.tree pkt .network).2
      have hframe := foldl_joins_frame pkt 20 grp (r.tree pkt .network).1
        { s.deliveredIf d pkt (r.tree pkt .network).2 with free := free }
      have hport (k : PortId) : (State.port { s.deliveredIf d pkt (r.tree pkt .network).2 with free := free } k) = s.port k := by
        cases (r.tree pkt .network).2 <;> rfl
      have hrouter := congrArg (fun u : State => u.router d) hframe
      have honAxis (i : Nat) : r.onAxis pkt i = true ↔ targets i (here i) := List.contains_iff_mem.trans (htargets i (here i)).symm
      have hbranch (i : Nat) (hi : i < 3) (sign : Bool) : r.branchOn pkt i (here i) (here i) sign = true ↔
          ∃ t, targets i t ∧ t ≠ here i ∧ r.plus i (here i) t = sign :=
        (Router.branchOn_iff hin hi (hhere i hi) sign).trans (exists_congr fun t => and_congr_left fun _ => (htargets i t).symm)
      rw [if_pos (hok.2 hyes), hroute]
      refine ⟨fun hall => ?_, fun ⟨i, hi, hnot⟩ => ?_, (congrArg Router.drops hrouter).trans hdrops, ?_,
        fun i hi sign => ⟨fun ⟨hon, hsome⟩ => ?_, fun hnot => ?_⟩⟩
      · have hhere := Router.tree_delivers.2 fun i hi => (htargets i _).1 (hall i hi)
        exact (congrArg Router.delivered hrouter).trans (hdelivered.trans (if_pos hhere))
      · have hnot : ¬ (r.tree pkt .network).2 = true := fun h => hnot ((htargets i _).2 (Router.tree_delivers.1 h i hi))
        exact (congrArg Router.delivered hrouter).trans (hdelivered.trans (if_neg hnot))
      · rw [hframe]
        cases (r.tree pkt .network).2 <;> rfl
      · have hmem : r.branchHop pkt .network i sign ∈ (r.tree pkt .network).1 :=
          Router.mem_tree.2 ⟨i, hi, fun j hj => (honAxis j).2 (hon j hj), Router.mem_hopsAt.2 ⟨sign, (hbranch i hi sign).2 hsome, rfl⟩⟩
        have hjoined := foldl_joins_present pkt 20 grp Router.tree_nodup hmem
          { s.deliveredIf d pkt (r.tree pkt .network).2 with free := free }
        rw [hport] at hjoined
        exact ⟨hopVc pkt (r.hopVcb pkt .network i sign), ⟨pkt, r.hopVcb pkt .network i sign, 20, arrivalVc pkt, grp⟩, rfl, rfl, rfl,
          Bool.false_or _, hjoined⟩
      · have habsent : torusPort i sign (pktPsel pkt) ∉ (r.tree pkt .network).1.map Prod.fst := by
          rw [List.mem_map]
          rintro ⟨h, hmem, hport⟩
          obtain ⟨j, hj, hon, hat⟩ := Router.mem_tree.1 hmem
          obtain ⟨sign', hbr, rfl⟩ := Router.mem_hopsAt.1 hat
          obtain ⟨hij, rfl⟩ := torusPort_inj ⟨j, hj⟩ ⟨i, hi⟩ sign' sign (pktPsel pkt) hport
          obtain rfl : j = i := congrArg Fin.val hij
          exact hnot ⟨fun k hk => (honAxis k).1 (hon k hk), (hbranch j hi sign').1 hbr⟩
        rw [foldl_joins_absent pkt 20 grp habsent, hport]

end Sys2Proof.Machine
end


section
/-!
SUPPORT. Collectives (R404 to R427): the running ones and their paths in the state, the packets of this chip, and what it sends of a
segment.
-/
namespace Sys2Proof.Machine
-- One declaration at a time keeps the compile of the whole text within its memory.
set_option Elab.async false
open Host

/-! ### One member of a list changed -/

section
variable {α : Type} {l : List α} {k : Nat} {a : α}

theorem modify_of_getElem? (h : l[k]? = some a) (f : α → α) : l.modify k f = l.set k (f a) := by
  rw [List.modify_eq_set_getElem?, h]
  rfl

theorem getElem?_modify_same (h : l[k]? = some a) (f : α → α) : (l.modify k f)[k]? = some (f a) := by
  rw [List.getElem?_modify, h]
  exact congrArg some (if_pos rfl)

theorem getElem?_modify_ne {j : Nat} (h : j ≠ k) (f : α → α) : (l.modify k f)[j]? = l[j]? := by
  rw [List.getElem?_modify]
  cases l[j]? with
  | none => rfl
  | some b => exact congrArg some (if_neg (Ne.symm h))

end

/-! ### The collectives that run -/

section
variable {s : State} {k : Nat} {c : CollInst}

theorem State.findInst_some {ix : Nat} {p : CollInst → Bool} (h : s.findInst ix p = some (k, c)) :
    s.job.colls[k]? = some c ∧ p c = true := by
  unfold State.findInst at h
  have hfound := List.find?_some h
  have hp := (Bool.and_eq_true_iff.1 hfound).2
  obtain ⟨i, hi, hget⟩ := List.mem_iff_getElem.1 (List.mem_of_find?_eq_some h)
  rw [List.getElem_zip, List.getElem_range, Prod.mk.injEq] at hget
  obtain ⟨rfl, hget⟩ := hget
  exact ⟨List.getElem?_eq_some_iff.2 ⟨_, hget⟩, hp⟩

theorem State.running_some {ix : Nat} (h : s.running ix = some (k, c)) :
    s.job.colls[k]? = some c ∧ c.started = true ∧ c.ended = none := by
  obtain ⟨hc, hp⟩ := State.findInst_some h
  obtain ⟨hstarted, hended⟩ := Bool.and_eq_true_iff.1 hp
  exact ⟨hc, hstarted, Option.isNone_iff_eq_none.1 hended⟩

/-- Entry `k` of the collectives replaced. -/
def State.put (s : State) (k : Nat) (c : CollInst) : State := { s with job := { s.job with colls := s.job.colls.set k c } }

theorem State.put_coll {c' : CollInst} (hc : s.job.colls[k]? = some c) : (s.put k c').job.colls[k]? = some c' :=
  List.getElem?_set_self (List.getElem?_eq_some_iff.1 hc).1

theorem State.modInst_eq (hc : s.job.colls[k]? = some c) (f : CollInst → CollInst) : s.modInst k f = s.put k (f c) :=
  congrArg (fun l => { s with job := { s.job with colls := l } }) (modify_of_getElem? hc f)

theorem State.put_put (s : State) (k : Nat) (c c' : CollInst) : (s.put k c).put k c' = s.put k c' :=
  congrArg (fun l => { s with job := { s.job with colls := l } }) (List.set_set ..)

theorem State.put_same (hc : s.job.colls[k]? = some c) : s.put k c = s := by
  obtain ⟨hlt, rfl⟩ := List.getElem?_eq_some_iff.1 hc
  exact congrArg (fun l => { s with job := { s.job with colls := l } }) (List.set_getElem_self hlt)

end

/-! ### What a chip sends -/

/-- Packets join the ones that wait for the routers. -/
def State.sends (s : State) (die : Die) (l : List Packet) : State := s.modRouter die fun r => { r with netQ := r.netQ ++ l }

theorem State.sends_nil (s : State) (die : Die) : s.sends die [] = s :=
  (State.modRouter_congr (by rw [List.append_nil])).trans (s.modRouter_id die)

theorem State.sends_sends (s : State) (die : Die) (l m : List Packet) : (s.sends die l).sends die m = s.sends die (l ++ m) :=
  (s.modRouter_modRouter die _ _).trans (State.modRouter_congr (by rw [List.append_assoc]))

theorem foldl_inject (die : Die) (l : List Packet) (s : State) : l.foldl (fun s q => s.inject die q) s = s.sends die l := by
  induction l generalizing s with
  | nil => exact (s.sends_nil die).symm
  | cons q l ih => exact (ih _).trans (s.sends_sends die [q] l)

theorem State.sends_netQ (s : State) (die : Die) (l : List Packet) : ((s.sends die l).router die).netQ = (s.router die).netQ ++ l :=
  congrArg Router.netQ (s.router_modRouter die _)

/-- What a chip's packets say of it is left. -/
def State.SameChip (s u : State) : Prop := u.routers[0].self = s.routers[0].self ∧ u.routers[0].hpeer = s.routers[0].hpeer

theorem State.modRouter_sameChip (s : State) (die : Die) (f : Router → Router) (hself : ∀ r, (f r).self = r.self)
    (hpeer : ∀ r, (f r).hpeer = r.hpeer) : s.SameChip (s.modRouter die f) :=
  ⟨State.router_modRouter_field Router.self f hself s die .west, State.router_modRouter_field Router.hpeer f hpeer s die .west⟩

theorem State.SameChip.trans {s u v : State} (h : s.SameChip u) (h' : u.SameChip v) : s.SameChip v :=
  ⟨h'.1.trans h.1, h'.2.trans h.2⟩

theorem State.SameChip.hopTo {s u : State} (h : s.SameChip u) (peer : ChipAddr) : u.hopTo peer = s.hopTo peer := by
  obtain ⟨hself, hpeer⟩ := h
  unfold State.hopTo
  dsimp only
  rw [hself, hpeer]

theorem collCtl_fields : ∀ psel : Bool, (BitVec.ofNat 8 (2 + 8 * psel.toNat)).toNat % 4 = 2 ∧
    bits (BitVec.ofNat 8 (2 + 8 * psel.toNat)) 4 3 = 0 := by
  decide

/-- A collective packet is of class 2, has the type, tag and destination it was made with, and no mask (R418). -/
theorem State.collPkt_fields (s : State) (id stream : Nat) {type : Nat} (htype : type < 16) (dst : ChipAddr) (psel : Bool)
    (payload : List Byte) :
    let q := s.collPkt id stream type dst psel payload
    pktClass q = 2 ∧ pktType q = type ∧ q.tag.toNat = (id * 2 ^ 20 + stream % 2 ^ 20) % 2 ^ 32 ∧ pktDst q = dst ∧ pktAxm q = 0 := by
  have hepoch := s.routers[0].epoch.isLt
  have htypes : (BitVec.ofNat 8 (s.routers[0].epoch.toNat + 16 * type)).toNat / 16 = type := by
    rw [BitVec.toNat_ofNat]
    omega
  have hdst : (dst.setWidth 32).setWidth 27 = dst := by simp
  exact ⟨(collCtl_fields psel).1, htypes, BitVec.toNat_ofNat .., hdst, (collCtl_fields psel).2⟩

/-- The packets of a segment: its data, then its digest. -/
def State.segPackets (s : State) (d : CollDecl) (t : Topo) (p : CollPath) (g : SendSeg) (only : Option ChipAddr) : List Packet :=
  let mk (type : Nat) (b : List Byte) : Packet :=
    let q := s.collPkt d.id g.stream type (s.hopTo (only.getD p.peer)) g.psel b
    if p.role == .result && only.isNone then
      { q with ctl := q.ctl ||| 0x70, masks := [t.ex, t.ey, t.ez].map fun e => BitVec.ofNat 32 (2 ^ e - 1) }
    else q
  (chunks (cdiv g.bytes.length 1024) 1024 g.bytes).map (mk 0) ++ [mk 1 (digestPayload g.bytes g.attempt)]

theorem State.sendSeg_eq (s : State) (die : Die) (d : CollDecl) (t : Topo) (p : CollPath) (g : SendSeg) (only : Option ChipAddr) :
    s.sendSeg die d t p g only = s.sends die (s.segPackets d t p g only) := foldl_inject die _ s

theorem digestPayload_length (b : List Byte) (n : Nat) : (digestPayload b n).length = 16 := by
  simp [digestPayload]

/-- A segment sent to one chip alone: no packet has a mask, the last is the digest's, the others are data. -/
theorem State.segPackets_only (s : State) (d : CollDecl) (t : Topo) (p : CollPath) (g : SendSeg) (a : ChipAddr) : ∃ l q,
    s.segPackets d t p g (some a) = l ++ [q] ∧ pktType q = 1 ∧ q.payload = digestPayload g.bytes g.attempt ∧
      (∀ x ∈ l, pktType x = 0) ∧ ∀ x ∈ q :: l, pktDst x = s.hopTo a ∧ pktAxm x = 0 := by
  have hplain (type : Nat) (b : List Byte) : (if p.role == .result && (some a).isNone then
      { s.collPkt d.id g.stream type (s.hopTo a) g.psel b with
        ctl := (s.collPkt d.id g.stream type (s.hopTo a) g.psel b).ctl ||| 0x70
        masks := [t.ex, t.ey, t.ez].map fun e => BitVec.ofNat 32 (2 ^ e - 1) }
      else s.collPkt d.id g.stream type (s.hopTo a) g.psel b) = s.collPkt d.id g.stream type (s.hopTo a) g.psel b :=
    if_neg (by rw [Option.isNone_some, Bool.and_false]; exact Bool.false_ne_true)
  refine ⟨(chunks (cdiv g.bytes.length 1024) 1024 g.bytes).map (s.collPkt d.id g.stream 0 (s.hopTo a) g.psel),
    s.collPkt d.id g.stream 1 (s.hopTo a) g.psel (digestPayload g.bytes g.attempt), ?_, ?_, ?_, ?_, ?_⟩
  · exact congrArg₂ (fun (f : List Byte → Packet) q => (chunks (cdiv g.bytes.length 1024) 1024 g.bytes).map f ++ [q])
      (funext fun b => hplain 0 b) (hplain 1 _)
  · obtain ⟨-, htype, -⟩ := s.collPkt_fields d.id g.stream (type := 1) (by decide) (s.hopTo a) g.psel
      (digestPayload g.bytes g.attempt)
    exact htype
  · rw [State.collPkt, digestPayload_length]
    exact List.append_nil _
  · intro x hx
    obtain ⟨b, -, rfl⟩ := List.mem_map.1 hx
    obtain ⟨-, htype, -⟩ := s.collPkt_fields d.id g.stream (type := 0) (by decide) (s.hopTo a) g.psel b
    exact htype
  · have hto {type : Nat} (htype : type < 16) (b : List Byte) : pktDst (s.collPkt d.id g.stream type (s.hopTo a) g.psel b) =
        s.hopTo a ∧ pktAxm (s.collPkt d.id g.stream type (s.hopTo a) g.psel b) = 0 := by
      obtain ⟨-, -, -, hdst, haxm⟩ := s.collPkt_fields d.id g.stream htype (s.hopTo a) g.psel b
      exact ⟨hdst, haxm⟩
    intro x hx
    obtain rfl | hx := List.mem_cons.1 hx
    · exact hto (by decide) _
    · obtain ⟨b, -, rfl⟩ := List.mem_map.1 hx
      exact hto (by decide) b

/-! ### A segment put on its way -/

/-- What a path is for: whether it sends, and its role. -/
def CollPath.kind (p : CollPath) : Bool × PathRole := (p.tx, p.role)

/-- The segments a path holds, on their way or waiting. -/
def CollPath.load (p : CollPath) : Nat := p.unacked.length + p.waiting.length

/-- Path `j` has taken `n` segments more, and no other path has changed. -/
structure Advanced (n j : Nat) (ps qs : List CollPath) : Prop where
  kinds : qs.map CollPath.kind = ps.map CollPath.kind
  others : ∀ i ≠ j, qs[i]? = ps[i]?
  taken : ∀ p, ps[j]? = some p → ∃ q, qs[j]? = some q ∧ q.next = p.next + n ∧ q.load = p.load + n

theorem Advanced.refl (j : Nat) (ps : List CollPath) : Advanced 0 j ps ps := ⟨rfl, fun _ _ => rfl, fun p hp => ⟨p, hp, rfl, rfl⟩⟩

theorem Advanced.trans {m n j : Nat} {ps qs rs : List CollPath} (h : Advanced m j ps qs) (h' : Advanced n j qs rs) :
    Advanced (m + n) j ps rs where
  kinds := h'.kinds.trans h.kinds
  others i hi := (h'.others i hi).trans (h.others i hi)
  taken p hp := by
    obtain ⟨q, hq, hnext, hload⟩ := h.taken p hp
    obtain ⟨r, hr, hnext', hload'⟩ := h'.taken q hq
    exact ⟨r, hr, by rw [hnext', hnext, Nat.add_assoc], by rw [hload', hload, Nat.add_assoc]⟩

theorem Advanced.modify {n j : Nat} {ps : List CollPath} {f : CollPath → CollPath} (h : ∀ p, ps[j]? = some p →
    (f p).kind = p.kind ∧ (f p).next = p.next + n ∧ (f p).load = p.load + n) : Advanced n j ps (ps.modify j f) where
  kinds := by
    refine List.ext_getElem? fun i => ?_
    rw [List.getElem?_map, List.getElem?_map]
    by_cases hi : i = j
    · subst hi
      cases hp : ps[i]? with
      | none => rw [List.getElem?_modify, hp]; rfl
      | some p =>
        rw [getElem?_modify_same hp]
        exact congrArg some (h p hp).1
    · rw [getElem?_modify_ne hi]
  others i hi := getElem?_modify_ne hi f
  taken p hp := ⟨f p, getElem?_modify_same hp f, (h p hp).2⟩

section
variable {s : State} {k : Nat} {c : CollInst} (hc : s.job.colls[k]? = some c) (d : CollDecl) (t : Topo)
include hc

theorem State.modPath_eq (j : Nat) (f : CollPath → CollPath) : s.modPath k j f = s.put k { c with paths := c.paths.modify j f } :=
  State.modInst_eq hc _

/-- A segment that waits may go out (R420). -/
theorem State.pumpPath_one (die : Die) (j : Nat) : ∃ ps l,
    s.pumpPath die d t k j 1 = (s.put k { c with paths := ps }).sends die l ∧ Advanced 0 j c.paths ps := by
  have hstay : ∃ ps l, s = (s.put k { c with paths := ps }).sends die l ∧ Advanced 0 j c.paths ps :=
    ⟨c.paths, [], by rw [State.sends_nil, State.put_same hc], .refl j c.paths⟩
  have hpath : (s.job.colls[k]?.bind fun c => c.paths[j]?) = c.paths[j]? := by rw [hc]; rfl
  unfold State.pumpPath
  rw [hpath]
  cases hp : c.paths[j]? with
  | none => exact hstay
  | some p =>
    dsimp only
    cases hwaiting : p.waiting with
    | nil => exact hstay
    | cons g rest =>
      dsimp only
      split
      · have hout : s.modPath k j (fun p => { p with waiting := rest, unacked := p.unacked ++ [g] }) = _ := State.modPath_eq hc j _
        refine ⟨_, _, (State.sendSeg_eq _ die d t p g none).trans (congrArg (fun u => State.sends u die _) hout),
          .modify (f := fun p => { p with waiting := rest, unacked := p.unacked ++ [g] }) fun q hq => ?_⟩
        · obtain rfl : p = q := Option.some.inj (hp.symm.trans hq)
          refine ⟨rfl, rfl, ?_⟩
          simp only [CollPath.load, hwaiting, List.length_append, List.length_cons, List.length_nil]
          omega
      · exact hstay

/-- The place of the path that sends in a role. -/
def CollInst.sender (c : CollInst) (role : PathRole) : Nat := c.paths.findIdx fun p => p.tx && p.role == role

/-- A segment taken up by the path that sends in its role: at once on its way, or waiting there. -/
theorem State.collSend_eq (role : PathRole) (b : List Byte) (g : Nat) : ∃ c' l,
    s.collSend k d t role b g = (s.put k c').sends c.die l ∧ Advanced 1 (c.sender role) c.paths c'.paths ∧
      c'.started = c.started ∧ c'.ended = c.ended ∧ c'.segs = c.segs ∧ c'.die = c.die := by
  unfold State.collSend
  rw [hc]
  dsimp only
  generalize (if role == PathRole.result then t.podChips - 1 else 1) = acks
  have htaken : Advanced 1 (c.sender role) c.paths (c.paths.modify (c.sender role) fun p => { p with
      next := p.next + 1, waiting := p.waiting ++ [⟨p.next, b, d.psel g, 0, acks, []⟩] }) :=
    .modify fun p _ => ⟨rfl, rfl, by simp only [CollPath.load, List.length_append, List.length_singleton]; omega⟩
  rw [State.modPath_eq hc, State.collFlags, State.modInst_eq (State.put_coll hc), State.put_put]
  obtain ⟨ps, l, hpump, hadvanced⟩ := State.pumpPath_one (State.put_coll (c' := { c with
    paths := c.paths.modify (c.sender role) fun p => { p with
      next := p.next + 1, waiting := p.waiting ++ [⟨p.next, b, d.psel g, 0, acks, []⟩] }
    flags := c.flags ||| d.passedFlags b }) hc) d t c.die (c.sender role)
  refine ⟨{ c with paths := ps, flags := c.flags ||| d.passedFlags b }, l, hpump.trans ?_, htaken.trans hadvanced, rfl, rfl, rfl,
    rfl⟩
  rw [State.put_put]

end

end Sys2Proof.Machine
end


section
/-!
SUPPORT. What a collective's segment leads to as it arrives (R408 to R412, R418 to R420), and the obligation on it.
-/
namespace Sys2Proof.Machine
-- One declaration at a time keeps the compile of the whole text within its memory.
set_option Elab.async false
open Host

/-- A path whose copy did not match: the first one is kept. -/
def CollPath.failed (p : CollPath) : CollPath := { p with fails := p.fails + 1, rxBuf := [], first := some (p.first.getD p.rxBuf) }

section
variable {s : State} {ix path k : Nat} {pkt : Packet} {c : CollInst} {d : CollDecl} {t : Topo} {p : CollPath}

/-! ### A packet of the segment now arriving -/

section
variable (hwf : pkt.WellFormed = true) (hrelay : s.relayAt ix path = none) (hrun : s.running ix = some (k, c))
  (hdecl : s.collDecl ix = some (d, t)) (hpath : c.paths[path]? = some p) (htx : p.tx = false) (hnext : p.next < p.total)
include hwf hrelay hrun hdecl hpath htx hnext

theorem execCollData_joins (hcoll : isColl pkt d.id p.next 0 = true) : exec (.collData ix path pkt) s = .next
    ((s.takeDelivered c.die pkt).modPath k path fun p => { p with rxBuf := p.rxBuf ++ pkt.payload }) := by
  have hformed : ¬ (!pkt.WellFormed) = true := by rw [hwf]; exact Bool.false_ne_true
  have hgo : (!p.tx && decide (p.next < p.total) && isColl pkt d.id p.next 0) = true := by
    rw [htx, decide_eq_true hnext, hcoll]
    rfl
  change execCollData ix path pkt s = _
  unfold execCollData
  rw [if_neg hformed, hrelay]
  dsimp only
  rw [hrun, hdecl]
  dsimp only
  rw [hpath]
  exact if_pos hgo

/-- A copy that does not match its digest, up to twice: a further one is asked for (R420). -/
theorem execCollDigest_bad (hcoll : isColl pkt d.id p.next 1 = true) (hbad : ¬ ((p.rxBuf.take (leAt pkt.payload 8 4)).length =
    leAt pkt.payload 8 4 ∧ (crc64 (p.rxBuf.take (leAt pkt.payload 8 4))).toNat = leAt pkt.payload 0 8)) (hfails : p.fails < 2) :
    exec (.collDigest ix path pkt) s = .next ((((((s.takeDelivered c.die pkt).modPath k path CollPath.failed).modRouter c.die fun r =>
        { r with cretx := r.cretx + 1 }).thawEvent 7).collFlags k 8).answer c.die d p p.next 3) := by
  have hformed : ¬ (!pkt.WellFormed) = true := by rw [hwf]; exact Bool.false_ne_true
  have hgo : ¬ (p.tx || decide (p.total ≤ p.next) || !isColl pkt d.id p.next 1) = true := by
    rw [htx, decide_eq_false (Nat.not_le.2 hnext), hcoll]
    exact Bool.false_ne_true
  have hno : ¬ ((p.rxBuf.take (leAt pkt.payload 8 4)).length == leAt pkt.payload 8 4 &&
      (crc64 (p.rxBuf.take (leAt pkt.payload 8 4))).toNat == leAt pkt.payload 0 8) = true := by
    rwa [Bool.and_eq_true, beq_iff_eq, beq_iff_eq]
  have hfirst (q : CollPath) : (match q.first with | some f => some f | none => some q.rxBuf) = some (q.first.getD q.rxBuf) := by
    cases q.first with
    | none => rfl
    | some f => rfl
  change execCollDigest ix path pkt s = _
  unfold execCollDigest
  rw [if_neg hformed, hrelay]
  dsimp only
  rw [hrun, hdecl]
  dsimp only
  rw [hpath]
  refine (if_neg hgo).trans ((if_neg hno).trans ((if_pos hfails).trans ?_))
  exact congrArg (fun f : CollPath → CollPath => Outcome.next ((((((s.takeDelivered c.die pkt).modPath k path f).modRouter c.die fun r =>
    { r with cretx := r.cretx + 1 }).thawEvent 7).collFlags k 8).answer c.die d p p.next 3))
    (funext fun q => congrArg (fun o => { q with fails := q.fails + 1, rxBuf := [], first := o }) (hfirst q))

/-- A first copy that matches its digest is accepted (R420). -/
theorem execCollDigest_good (hcoll : isColl pkt d.id p.next 1 = true)
    (hlen : (p.rxBuf.take (leAt pkt.payload 8 4)).length = leAt pkt.payload 8 4)
    (hcrc : (crc64 (p.rxBuf.take (leAt pkt.payload 8 4))).toNat = leAt pkt.payload 0 8) (hfirst : p.first = none) :
    exec (.collDigest ix path pkt) s =
      .next ((s.takeDelivered c.die pkt).collAccept k path c d t p (p.rxBuf.take (leAt pkt.payload 8 4))) := by
  have hformed : ¬ (!pkt.WellFormed) = true := by rw [hwf]; exact Bool.false_ne_true
  have hgo : ¬ (p.tx || decide (p.total ≤ p.next) || !isColl pkt d.id p.next 1) = true := by
    rw [htx, decide_eq_false (Nat.not_le.2 hnext), hcoll]
    exact Bool.false_ne_true
  have hok : ((p.rxBuf.take (leAt pkt.payload 8 4)).length == leAt pkt.payload 8 4 &&
      (crc64 (p.rxBuf.take (leAt pkt.payload 8 4))).toNat == leAt pkt.payload 0 8) = true := by
    rw [Bool.and_eq_true, beq_iff_eq, beq_iff_eq]
    exact ⟨hlen, hcrc⟩
  change execCollDigest ix path pkt s = _
  unfold execCollDigest
  rw [if_neg hformed, hrelay]
  dsimp only
  rw [hrun, hdecl]
  dsimp only
  rw [hpath]
  refine (if_neg hgo).trans ((if_pos hok).trans ?_)
  rw [hfirst]

end

/-! ### A copy that did not match -/

theorem State.thawEvent_thaw (s : State) (n : Fin 11) : ∃ gtc, s.thawEvent n = { s with gtc := gtc } ∧
    (s.fixedFreq = true → gtc.thaw = s.gtc.thaw + 1) ∧ (s.fixedFreq = false → gtc = s.gtc) := by
  unfold State.thawEvent
  split
  · next hfixed => exact ⟨_, rfl, fun _ => rfl, fun h => absurd hfixed (by rw [h]; exact Bool.false_ne_true)⟩
  · next hfixed => exact ⟨s.gtc, rfl, fun h => absurd h hfixed, fun _ => rfl⟩

/-- An answer is one packet of its type for the segment, to the member or its node partner (R415, R419). -/
theorem State.answer_eq (s : State) (die : Die) (d : CollDecl) (p : CollPath) (i : Nat) {type : Nat} (htype : type < 16) :
    ∃ q, s.answer die d p i type = s.sends die [q] ∧ pktClass q = 2 ∧ pktType q = type ∧
      q.tag.toNat = (d.id * 2 ^ 20 + i % 2 ^ 20) % 2 ^ 32 ∧ pktDst q = s.hopTo p.peer := by
  obtain ⟨hclass, htype, htag, hdst, -⟩ := s.collPkt_fields d.id i htype (s.hopTo p.peer) false []
  exact ⟨_, rfl, hclass, htype, htag, hdst⟩

/-- The chip's state with a delivered packet taken and a segment asked for again. -/
def Router.asksAgain (r : Router) (pkt : Packet) : Router :=
  { r with delivered := r.delivered.erase pkt, cretx := r.cretx + 1 }

/-- What the answer to a bad copy leaves (R420). -/
theorem State.badCopy_left (hc : s.job.colls[k]? = some c) : ∃ gtc q,
    (((((s.takeDelivered c.die pkt).modPath k path CollPath.failed).modRouter c.die fun r =>
        { r with cretx := r.cretx + 1 }).thawEvent 7).collFlags k 8).answer c.die d p p.next 3 =
      State.sends { (s.modRouter c.die fun r => r.asksAgain pkt).put k { c with
        paths := c.paths.modify path CollPath.failed, flags := c.flags ||| 8 } with gtc := gtc } c.die [q] ∧
      (s.fixedFreq = true → gtc.thaw = s.gtc.thaw + 1) ∧ (s.fixedFreq = false → gtc = s.gtc) ∧
      pktClass q = 2 ∧ pktType q = 3 ∧ q.tag.toNat = (d.id * 2 ^ 20 + p.next % 2 ^ 20) % 2 ^ 32 ∧ pktDst q = s.hopTo p.peer := by
  have hcopy : (((s.takeDelivered c.die pkt).modPath k path CollPath.failed).modRouter c.die fun r => { r with cretx := r.cretx + 1 }) =
      (s.modRouter c.die fun r => r.asksAgain pkt).put k { c with paths := c.paths.modify path CollPath.failed } := by
    rw [State.modPath_eq (s := s.takeDelivered c.die pkt) hc]
    exact congrArg (fun u => State.put u k { c with paths := c.paths.modify path CollPath.failed })
      (s.modRouter_modRouter c.die (fun r => { r with delivered := r.delivered.erase pkt }) fun r => { r with cretx := r.cretx + 1 })
  obtain ⟨gtc, hthaw, hfixed, hfree⟩ := State.thawEvent_thaw ((s.modRouter c.die fun r => r.asksAgain pkt).put k { c with
    paths := c.paths.modify path CollPath.failed }) 7
  have hflags : State.collFlags { (s.modRouter c.die fun r => r.asksAgain pkt).put k { c with
      paths := c.paths.modify path CollPath.failed } with gtc := gtc } k 8 =
      { (s.modRouter c.die fun r => r.asksAgain pkt).put k { c with
        paths := c.paths.modify path CollPath.failed, flags := c.flags ||| 8 } with gtc := gtc } :=
    (State.modInst_eq (State.put_coll (s := { s.modRouter c.die fun r => r.asksAgain pkt with gtc := gtc }) hc) _).trans
      (State.put_put { s.modRouter c.die fun r => r.asksAgain pkt with gtc := gtc } k _ _)
  obtain ⟨q, hsent, hclass, htype, htag, hdst⟩ := State.answer_eq { (s.modRouter c.die fun r => r.asksAgain pkt).put k { c with
    paths := c.paths.modify path CollPath.failed, flags := c.flags ||| 8 } with gtc := gtc } c.die d p p.next (type := 3) (by decide)
  have hchip : s.SameChip { (s.modRouter c.die fun r => r.asksAgain pkt).put k { c with
      paths := c.paths.modify path CollPath.failed, flags := c.flags ||| 8 } with gtc := gtc } :=
    s.modRouter_sameChip c.die (fun r => r.asksAgain pkt) (fun _ => rfl) fun _ => rfl
  rw [hcopy, hthaw, hflags]
  exact ⟨gtc, q, hsent, hfixed, hfree, hclass, htype, htag, hdst.trans (hchip.hopTo p.peer)⟩

/-! ### A segment accepted -/

/-- The path that receives is not one that sends. -/
theorem CollInst.sender_ne {j : Nat} {q : CollPath} (hq : c.paths[j]? = some q) (hrx : q.tx = false) (role : PathRole) :
    j ≠ c.sender role := by
  rintro rfl
  obtain ⟨hlt, hget⟩ := List.getElem?_eq_some_iff.1 hq
  have hfound : (fun p : CollPath => p.tx && p.role == role) (c.paths[c.sender role]'hlt) = true :=
    List.findIdx_getElem (p := fun p : CollPath => p.tx && p.role == role) (xs := c.paths) (w := hlt)
  rw [hget] at hfound
  dsimp only at hfound
  rw [hrx] at hfound
  cases hfound

/-- A collective with a path that has not carried everything goes on. -/
theorem State.collCheck_open (hc : s.job.colls[k]? = some c) {j : Nat} {q : CollPath} (hq : c.paths[j]? = some q)
    (hopen : q.next ≠ q.total) (d : CollDecl) (t : Topo) : s.collCheck k d t = s := by
  have hnot : ¬ (c.started && c.ended.isNone && c.paths.all CollPath.done) = true := by
    intro h
    have hdone := List.all_eq_true.1 (Bool.and_eq_true_iff.1 h).2 q (List.mem_of_getElem? hq)
    rw [CollPath.done, Bool.and_eq_true, Bool.and_eq_true, beq_iff_eq] at hdone
    exact hopen hdone.1.1
  unfold State.collCheck
  rw [hc]
  exact if_neg hnot

/-- A collective that has written a segment. -/
def CollInst.wrote (c : CollInst) (off n : Nat) : CollInst := { c with segs := c.segs + 1, written := c.written ++ [(off, n)] }

/-- The bytes a segment gives stand in memory, and the collective has counted it (R411, R412). -/
theorem State.collWrite_eq (hc : s.job.colls[k]? = some c) {off m : Nat} {b : List Byte}
    (hloc : s.locate .serac (d.dst + off) = .mem m) (hue : s.writeUe m b.length = none) : s.collWrite k d off b =
      (s.wr m b).put k (c.wrote off b.length) := by
  rw [State.collWrite, State.hbmWr_eq_wr hloc hue]
  exact State.modInst_eq ((congrArg (fun u : State => u.job.colls[k]?) (s.wr_frame m b)).trans hc) _

/-- A router that has accepted a segment. -/
def Router.acceptsSegment (r : Router) (pkt : Packet) : Router :=
  { r with delivered := r.delivered.erase pkt, csegs := r.csegs + 1 }

/-- A path that has accepted a segment. -/
def CollPath.accepted (p : CollPath) : CollPath := { p with next := p.next + 1, rxBuf := [], first := none, fails := 0 }

/-- The state in which an accepted segment is taken up: its path is ready for the next, and ACCEPT is on its way. -/
theorem State.collAccept_eq (hc : s.job.colls[k]? = some c) (b : List Byte) : ∃ q,
    (s.takeDelivered c.die pkt).collAccept k path c d t p b =
      ((((s.modRouter c.die fun r => r.acceptsSegment pkt).put k { c with paths := c.paths.modify path CollPath.accepted }).sends c.die
        [q]).collTake k path d t p p.next b).collCheck k d t := by
  have hstep : (((s.takeDelivered c.die pkt).modPath k path CollPath.accepted).modRouter c.die fun r => { r with csegs := r.csegs + 1 }) =
      (s.modRouter c.die fun r => r.acceptsSegment pkt).put k { c with paths := c.paths.modify path CollPath.accepted } := by
    rw [State.modPath_eq (s := s.takeDelivered c.die pkt) hc]
    exact congrArg (fun u => State.put u k { c with paths := c.paths.modify path CollPath.accepted })
      (s.modRouter_modRouter c.die (fun r => { r with delivered := r.delivered.erase pkt }) fun r => { r with csegs := r.csegs + 1 })
  obtain ⟨q, hsent, -⟩ := State.answer_eq ((s.modRouter c.die fun r => r.acceptsSegment pkt).put k { c with
    paths := c.paths.modify path CollPath.accepted }) c.die d p p.next (type := 2) (by decide)
  exact ⟨q, congrArg (fun u : State => (u.collTake k path d t p p.next b).collCheck k d t)
    ((congrArg (fun u : State => u.answer c.die d p p.next 2) hstep).trans hsent)⟩

/-- What is passed on, if anything is, leaves the path it came by. -/
theorem State.passesOn (hc : s.job.colls[k]? = some c) {q : CollPath} (hq : c.paths[path]? = some q) (hrx : q.tx = false)
    (role : PathRole) (b : List Byte) (g : Nat) (go : Prop) [Decidable go] : ∃ c' l,
    (if go then s.collSend k d t role b g else s) = (s.put k c').sends c.die l ∧ c'.paths[path]? = some q ∧ c'.segs = c.segs ∧
      c'.ended = c.ended := by
  split
  · obtain ⟨c', l, hsend, hadvanced, -, hended, hsegs, -⟩ := State.collSend_eq hc d t role b g
    exact ⟨c', l, hsend, (hadvanced.others path (CollInst.sender_ne hq hrx role)).trans hq, hsegs, hended⟩
  · exact ⟨c, [], by rw [State.sends_nil, State.put_same hc], hq, rfl, rfl⟩

section
variable {sign : Bool} {q : CollPath} {m : Nat} {b : List Byte} (hc : s.job.colls[k]? = some c) (hrole : p.role = .ring sign)
  (hq : c.paths[path]? = some q) (hrx : q.tx = false)
include hc hrole hq

/-- The shard and segment of stream index `i` as it arrives at a chip. -/
def State.itemAt (s : State) (d : CollDecl) (t : Topo) (p : CollPath) (i : Nat) : Nat × Nat :=
  d.item t (d.me t s.routers[0].self) p.role false i

include hrx in
/-- A gathered segment is written at its shard's place, and goes on round the ring unless it has gone all the way (R412). -/
theorem State.collTake_gathered (hgather : d.gathers = true) {i : Nat}
    (hloc : s.locate .serac (d.dst + ((s.itemAt d t p i).1 * d.shardLen t + 2048 * (s.itemAt d t p i).2)) = .mem m)
    (hue : s.writeUe m b.length = none) : ∃ c' c'' l,
      s.collTake k path d t p i b = (((s.put k c').wr m b).put k c'').sends c.die l ∧ c''.paths[path]? = some q ∧
        c''.segs = c.segs + 1 ∧ c''.ended = c.ended := by
  have htake : s.collTake k path d t p i b = if i / d.dirSegs t sign + 2 < d.members t then
      (s.collPut k d t (s.itemAt d t p i).1 (s.itemAt d t p i).2 b).collSend k d t (.ring sign) b (s.itemAt d t p i).2
      else s.collPut k d t (s.itemAt d t p i).1 (s.itemAt d t p i).2 b := by
    unfold State.collTake State.itemAt
    rw [hrole]
    exact if_pos hgather
  have hput : s.collPut k d t (s.itemAt d t p i).1 (s.itemAt d t p i).2 b = _ := State.collWrite_eq hc hloc hue
  have hc' : (s.wr m b).job.colls[k]? = some c := (congrArg (fun u : State => u.job.colls[k]?) (s.wr_frame m b)).trans hc
  rw [htake, hput]
  obtain ⟨c'', l, hsent, hpath, hsegs, hended⟩ := State.passesOn (State.put_coll (c' := c.wrote
    ((s.itemAt d t p i).1 * d.shardLen t + 2048 * (s.itemAt d t p i).2) b.length) hc') (d := d) (t := t) (path := path) hq hrx
    (.ring sign) b (s.itemAt d t p i).2 (i / d.dirSegs t sign + 2 < d.members t)
  refine ⟨c, c'', l, hsent.trans ?_, hpath, hsegs, hended⟩
  rw [State.put_put, State.put_same hc]
  exact rfl

/-- The owner of a reduced shard adds its own contribution last and writes the finished values (R409, R411). -/
theorem State.collTake_reduced (hgather : d.gathers = false) {i : Nat} (howner : (s.itemAt d t p i).1 = d.me t s.routers[0].self)
    {sum : List Byte × Nat} (hsum : sum = addSegs d.afmt b (s.contribution d t (s.itemAt d t p i).1 (s.itemAt d t p i).2))
    (hloc : s.locate .serac (d.dst + 2048 * (s.itemAt d t p i).2 * elemBytes d.dfmt 1) = .mem m)
    (hue : s.writeUe m (d.finish sum.1).1.length = none) : ∃ c' c'' l,
      s.collTake k path d t p i b = (((s.put k c').wr m (d.finish sum.1).1).put k c'').sends c.die l ∧ c''.paths[path]? = some q ∧
        c''.segs = c.segs + 1 ∧ c''.ended = c.ended := by
  have hnot : ¬ d.gathers = true := by rw [hgather]; exact Bool.false_ne_true
  have htake : s.collTake k path d t p i b = ((s.collFlags k sum.2).collFlags k (d.finish sum.1).2).collWrite k d
      (2048 * (s.itemAt d t p i).2 * elemBytes d.dfmt 1) (d.finish sum.1).1 := by
    rw [hsum]
    unfold State.itemAt at howner
    unfold State.collTake State.itemAt
    rw [hrole] at howner ⊢
    exact (if_neg hnot).trans (if_pos howner)
  have hflags : (s.collFlags k sum.2).collFlags k (d.finish sum.1).2 =
      s.put k { c with flags := c.flags ||| sum.2 ||| (d.finish sum.1).2 } := by
    rw [State.collFlags, State.collFlags, State.modInst_eq hc, State.modInst_eq (State.put_coll hc), State.put_put]
  refine ⟨{ c with flags := c.flags ||| sum.2 ||| (d.finish sum.1).2 },
    CollInst.wrote { c with flags := c.flags ||| sum.2 ||| (d.finish sum.1).2 } (2048 * (s.itemAt d t p i).2 * elemBytes d.dfmt 1)
      (d.finish sum.1).1.length, [], ?_, hq, rfl, rfl⟩
  rw [htake, hflags, State.sends_nil]
  exact State.collWrite_eq (s := s.put k { c with flags := c.flags ||| sum.2 ||| (d.finish sum.1).2 }) (State.put_coll hc) hloc hue

end

/-! ### The obligation -/

/-- Settles O26: a data packet joins the buffer of its segment; a bad copy is asked for again, and a good one is accepted, added or
kept as it is, and written. -/
theorem collectiveSegmentsAreCheckedBeforeUse : Obligations.CollectiveSegmentsAreCheckedBeforeUse := by
  unfold Obligations.CollectiveSegmentsAreCheckedBeforeUse
  intro s ix path k pkt c d t p r n b put answered hwf hrelay hrun hdecl hpath htx hnext
  obtain ⟨hc, -, hended⟩ := State.running_some hrun
  refine ⟨fun hcoll => ?data, fun hcoll hbad hfails => ?bad,
    fun hcoll hlen hcrc hfirst hmore hkind sign hrole => ?good⟩
  case data =>
    refine ⟨_, execCollData_joins hwf hrelay hrun hdecl hpath htx hnext hcoll, rfl, ?_, rfl⟩
    rw [State.modPath_eq (s := s.takeDelivered c.die pkt) hc, modify_of_getElem? hpath]
    exact rfl
  case bad =>
    obtain ⟨gtc, q, hleft, hfixed, hfree, hclass, htype, htag, hdst⟩ :=
      State.badCopy_left (path := path) (pkt := pkt) (d := d) (p := p) hc
    have hrouter : ((s.modRouter c.die fun r => r.asksAgain pkt).router c.die) = r.asksAgain pkt := s.router_modRouter c.die _
    have hcoll' := State.put_coll (s := s.modRouter c.die fun r => r.asksAgain pkt) (c' := { c with
      paths := c.paths.modify path CollPath.failed, flags := c.flags ||| 8 }) hc
    have hsent (u : State) := State.router_modRouter u c.die fun r => { r with netQ := r.netQ ++ [q] }
    refine ⟨_, (execCollDigest_bad hwf hrelay hrun hdecl hpath htx hnext hcoll hbad hfails).trans (congrArg Outcome.next hleft), rfl,
      ?_, ?_, ⟨q, ?_, hclass, htype, htag, hdst⟩, ?_, ?_, hfixed, hfree⟩
    · exact (congrArg Router.cretx (hsent _)).trans (congrArg Router.cretx hrouter |>.trans rfl)
    · exact (congrArg Router.csegs (hsent _)).trans (congrArg Router.csegs hrouter |>.trans rfl)
    · exact (congrArg Router.netQ (hsent _)).trans (congrArg (fun r : Router => r.netQ ++ [q]) hrouter |>.trans rfl)
    · exact (congrArg (fun o : Option CollInst => o.bind fun c => c.paths[path]?) hcoll').trans (getElem?_modify_same hpath _)
    · refine (congrArg (fun o : Option CollInst => o.map fun c => c.flags.testBit 3) hcoll').trans (congrArg some ?_)
      exact (Nat.testBit_or ..).trans (Bool.or_true _)
  case good =>
    intro me x bytes off howner m hloc hue
    have hself : ((s.modRouter c.die fun r => r.acceptsSegment pkt)).routers[0].self = s.routers[0].self :=
      (s.modRouter_sameChip c.die (fun r => r.acceptsSegment pkt) (fun _ => rfl) fun _ => rfl).1
    obtain ⟨q, haccept⟩ := State.collAccept_eq (path := path) (pkt := pkt) (d := d) (t := t) (p := p) hc b
    generalize hw : ((s.modRouter c.die fun r => r.acceptsSegment pkt).put k { c with
      paths := c.paths.modify path CollPath.accepted }).sends c.die [q] = w at haccept
    have hcw : w.job.colls[k]? = some { c with paths := c.paths.modify path CollPath.accepted } := by
      rw [← hw]
      exact State.put_coll (s := s.modRouter c.die fun r => r.acceptsSegment pkt) hc
    have hselfw : w.routers[0].self = s.routers[0].self := by
      rw [← hw]
      exact (State.modRouter_sameChip _ c.die (fun r => { r with netQ := r.netQ ++ [q] }) (fun _ => rfl) fun _ => rfl).1.trans hself
    have hmem : w.locate = s.locate ∧ w.writeUe = s.writeUe ∧ w.contribution = s.contribution ∧ w.mem = s.mem := by
      rw [← hw]
      exact ⟨rfl, rfl, rfl, rfl⟩
    obtain ⟨hlocate, hwriteUe, hcontribution, hsame⟩ := hmem
    have hme : d.me t w.routers[0].self = me := by rw [hselfw, CollDecl.me, if_pos hkind]
    have hitem : w.itemAt d t p p.next = x := congrArg (fun i => d.item t i p.role false p.next) hme
    have hpath' : (c.paths.modify path CollPath.accepted)[path]? = some p.accepted := getElem?_modify_same hpath _
    have hwritten : ∃ c' c'' l, w.collTake k path d t p p.next b = (((w.put k c').wr m bytes).put k c'').sends c.die l ∧
        c''.paths[path]? = some p.accepted ∧ c''.segs = c.segs + 1 ∧ c''.ended = c.ended := by
      obtain hzero | hone : d.kind = 0 ∨ d.kind = 1 := by omega
      · have hnot : ¬ d.kind = 1 := by omega
        have hbytes : bytes = (d.finish (addSegs d.afmt b (w.contribution d t x.1 x.2)).1).1 := (if_neg hnot).trans (by rw [hcontribution])
        have hoff : off = 2048 * x.2 * elemBytes d.dfmt 1 := if_neg hnot
        rw [hbytes] at hue ⊢
        rw [hoff] at hloc
        exact State.collTake_reduced hcw hrole hpath' (by simp [CollDecl.gathers, hzero]) (by rw [hitem, hme]; exact howner hzero)
          (by rw [hitem]) (by rw [hitem, hlocate]; exact hloc) (by rw [hwriteUe]; exact hue)
      · have hbytes : bytes = b := if_pos hone
        have hoff : off = x.1 * d.shardLen t + 2048 * x.2 := if_pos hone
        rw [hbytes] at hue ⊢
        rw [hoff] at hloc
        exact State.collTake_gathered hcw hrole hpath' htx (by simp [CollDecl.gathers, hone]) (by rw [hitem, hlocate]; exact hloc)
          (by rw [hwriteUe]; exact hue)
    obtain ⟨c', c'', l, htake, hat, hsegs, hended'⟩ := hwritten
    have hframe := (w.put k c').wr_frame m bytes
    have hcoll' : ((((w.put k c').wr m bytes).put k c'').sends c.die l).job.colls[k]? = some c'' := by
      refine State.put_coll (s := (w.put k c').wr m bytes) (c := c') ?_
      exact (congrArg (fun u : State => u.job.colls[k]?) hframe).trans (State.put_coll hcw)
    have hopen : p.accepted.next ≠ p.accepted.total := Nat.ne_of_lt hmore
    rw [htake, State.collCheck_open hcoll' hat hopen] at haccept
    refine ⟨_, (execCollDigest_good hwf hrelay hrun hdecl hpath htx hnext hcoll hlen hcrc hfirst).trans (congrArg Outcome.next haccept),
      ?_, (w.put k c').rd_wr m bytes, fun a ha => ((w.put k c').read_wr_apart ha).trans (by rw [← hsame]; rfl), ?_, ?_, ?_⟩
    · have hrouter : (w.router c.die).csegs = r.csegs + 1 := by
        rw [← hw]
        exact (congrArg Router.csegs (State.router_modRouter _ c.die fun r => { r with netQ := r.netQ ++ [q] })).trans
          ((congrArg Router.csegs (s.router_modRouter c.die fun r => r.acceptsSegment pkt)).trans rfl)
      exact (congrArg Router.csegs (State.router_modRouter _ c.die fun r => { r with netQ := r.netQ ++ l })).trans
        ((congrArg (fun u : State => (u.router c.die).csegs) hframe).trans hrouter)
    · rw [hcoll']
      exact congrArg some (Prod.ext hsegs (hended'.trans hended))
    · rw [hcoll']
      exact congrArg (Option.map fun q : CollPath => (q.next, q.rxBuf, q.fails)) hat
    · rw [hframe, ← hw]
      exact rfl

end
end Sys2Proof.Machine
end


section
/-!
SUPPORT. The answers a sender takes and how a collective ends (R420 to R424), and how a ring reduction starts (R406); and
the obligation on them.
-/
namespace Sys2Proof.Machine
-- One declaration at a time keeps the compile of the whole text within its memory.
set_option Elab.async false
open Host

/-! ### The sender's side -/

section
variable {s : State} {ix path k : Nat} {c : CollInst} {d : CollDecl} {t : Topo} {p : CollPath} {stream : BitVec 20} {g : SendSeg}

/-- An answer of a type to a segment taken from those the routers have delivered. -/
def State.answerTaken (s : State) (die : Die) (d : CollDecl) (stream type : Nat) : State :=
  s.modRouter die fun r => { r with delivered := r.delivered.eraseP fun q => isColl q d.id stream type }

theorem State.answerTaken_sameChip (s : State) (die : Die) (d : CollDecl) (stream type : Nat) :
    s.SameChip (s.answerTaken die d stream type) :=
  s.modRouter_sameChip die (fun r => { r with delivered := r.delivered.eraseP fun q => isColl q d.id stream type }) (fun _ => rfl)
    fun _ => rfl

theorem State.answerTaken_netQ (s : State) (die : Die) (d : CollDecl) (stream type : Nat) :
    ((s.answerTaken die d stream type).router die).netQ = (s.router die).netQ :=
  State.router_modRouter_field Router.netQ (fun r => { r with
    delivered := r.delivered.eraseP fun q => isColl q d.id stream type }) (fun _ => rfl) s die die

/-- The segments that still wait for an ACCEPT once one has come for a stream index. -/
def released (stream : BitVec 20) (l : List SendSeg) : List SendSeg :=
  (l.map fun g => if g.stream % 2 ^ 20 == stream.toNat then { g with acks := g.acks - 1 } else g).filter fun g => g.acks != 0

/-- The path without the segments that have all their ACCEPTs. -/
def CollPath.acked (p : CollPath) (stream : BitVec 20) : CollPath := { p with unacked := released stream p.unacked }

section
variable (hdecl : s.collDecl ix = some (d, t)) (hrun : s.running ix = some (k, c)) (hpath : c.paths[path]? = some p)
  (hrelay : s.relayAt ix path = none) (htx : p.tx = true)
  (hfound : (p.unacked.find? fun g => g.stream % 2 ^ 20 == stream.toNat) = some g)
include hdecl hrun hpath hrelay htx hfound

/-- An ACCEPT releases its segment (R420). -/
theorem execCollAccept_releases (hwaiting : p.waiting = []) (hnext : p.next < p.total) : exec (.collAccept ix path stream) s = .next
    ((s.answerTaken c.die d stream.toNat 2).put k
      { c with paths := c.paths.modify path fun p => p.acked stream }) := by
  obtain ⟨hc, -⟩ := State.running_some hrun
  have hgo : (p.tx && p.unacked.any fun g => g.stream % 2 ^ 20 == stream.toNat) = true := by
    have hone := List.find?_some hfound
    rw [htx, Bool.true_and, List.any_eq_true]
    exact ⟨g, List.mem_of_find?_eq_some hfound, hone⟩
  have hstep : (s.answerTaken c.die d stream.toNat 2).modPath k
      path (fun p => p.acked stream) = _ := State.modPath_eq (s := s.answerTaken c.die d stream.toNat 2) hc path _
  have hcheck := State.collCheck_open (State.put_coll (s := s.answerTaken c.die d stream.toNat 2) (c' := { c with
    paths := c.paths.modify path fun p => p.acked stream }) hc) (getElem?_modify_same hpath fun p => p.acked stream)
    (show p.next ≠ p.total from Nat.ne_of_lt hnext) d t
  change execCollAccept ix path stream s = _
  unfold execCollAccept
  rw [hrelay]
  dsimp only
  rw [hrun, hdecl]
  dsimp only
  rw [hpath]
  refine (if_pos hgo).trans ?_
  rw [hwaiting]
  exact congrArg Outcome.next ((congrArg (fun u : State => u.collCheck k d t) hstep).trans hcheck)

/-- The path with one of its segments replaced. -/
def CollPath.resent (p : CollPath) (g g' : SendSeg) : CollPath :=
  { p with unacked := p.unacked.map fun x => if x.stream == g.stream then g' else x }

/-- The collective with such a path. -/
def CollInst.resends (c : CollInst) (path : Nat) (g g' : SendSeg) : CollInst :=
  { c with paths := c.paths.modify path fun p => p.resent g g' }

/-- A RETX_REQ has its segment sent again with the next ATTEMPT, to the chip it is for (R420). -/
theorem execCollRetxReq_resends {a : ChipAddr} (hasked : ∀ q,
    ((s.router c.die).delivered.find? fun q => isColl q d.id stream.toNat 3) = some q →
      (if p.role == .result then pktSrc q else p.peer) = a)
    (hnone : ((s.router c.die).delivered.find? fun q => isColl q d.id stream.toNat 3) = none → p.peer = a)
    (htried : g.tried p a < 2) : exec (.collRetxReq ix path stream) s = .next
      (((s.answerTaken c.die d stream.toNat 3).put k (c.resends path g (g.again p a))).sendSeg c.die d t p (g.again p a)
        (some a)) := by
  obtain ⟨hc, -⟩ := State.running_some hrun
  have hgo : (p.tx && decide (g.tried p a < 2)) = true := by
    rw [htx, decide_eq_true htried]
    rfl
  have hstep : (s.answerTaken c.die d stream.toNat 3).modPath k
      path (fun q => q.resent g (g.again p a)) = _ := State.modPath_eq (s := s.answerTaken c.die d stream.toNat 3) hc path _
  have hsent := congrArg (fun u : State => Outcome.next (φ := Fault) (ρ := Refusal) (u.sendSeg c.die d t p (g.again p a) (some a))) hstep
  change execCollRetxReq ix path stream s = _
  unfold execCollRetxReq
  rw [hrelay]
  dsimp only
  rw [hrun, hdecl]
  dsimp only
  rw [hpath]
  dsimp only
  rw [hfound]
  dsimp only
  cases hreq : (s.router c.die).delivered.find? fun q => isColl q d.id stream.toNat 3 with
  | none =>
    dsimp only
    rw [hnone hreq]
    exact (if_pos hgo).trans hsent
  | some q =>
    dsimp only
    simp only [hasked q hreq]
    exact (if_pos hgo).trans hsent

end
end

theorem State.sendAborts_eq (s : State) (c : CollInst) (d : CollDecl) (status : Nat) (except : List ChipAddr) :
    ∃ l, s.sendAborts c d status except = s.sends c.die l := by
  have hfold (body : List Byte) (peers : List ChipAddr) (s : State) : ∃ l,
      peers.foldl (fun s a => s.inject c.die (s.collPkt d.id 0 4 (s.hopTo a) false body)) s = s.sends c.die l := by
    induction peers generalizing s with
    | nil => exact ⟨[], (s.sends_nil c.die).symm⟩
    | cons a peers ih =>
      obtain ⟨l, hl⟩ := ih (s.inject c.die (s.collPkt d.id 0 4 (s.hopTo a) false body))
      exact ⟨s.collPkt d.id 0 4 (s.hopTo a) false body :: l, hl.trans (s.sends_sends c.die [_] l)⟩
  exact hfold _ _ s

section
variable {s : State} {ix path k : Nat} {c : CollInst} {d : CollDecl} {t : Topo} {p : CollPath} {stream : BitVec 20} {g : SendSeg}
  (hdecl : s.collDecl ix = some (d, t)) (hrun : s.running ix = some (k, c)) (hpath : c.paths[path]? = some p)
  (hrelay : s.relayAt ix path = none)
include hdecl hrun hpath hrelay

/-- What a segment sent again leaves: its packets wait for the routers, the last of them its digest's, and its path counts the copy. -/
theorem execCollRetxReq_sends (htx : p.tx = true) (hfound : (p.unacked.find? fun g => g.stream % 2 ^ 20 == stream.toNat) = some g)
    {a : ChipAddr} (hasked : ∀ q, ((s.router c.die).delivered.find? fun q => isColl q d.id stream.toNat 3) = some q →
      (if p.role == .result then pktSrc q else p.peer) = a)
    (hnone : ((s.router c.die).delivered.find? fun q => isColl q d.id stream.toNat 3) = none → p.peer = a) (htried : g.tried p a < 2) :
    ∃ u l q, exec (.collRetxReq ix path stream) s = .next u ∧ u = { s with routers := u.routers, job := u.job } ∧
      (u.router c.die).netQ = (s.router c.die).netQ ++ l ++ [q] ∧ pktType q = 1 ∧
      q.payload = digestPayload (g.again p a).bytes (g.again p a).attempt ∧ (∀ x ∈ l, pktType x = 0) ∧
      (∀ x ∈ q :: l, pktDst x = s.hopTo a ∧ pktAxm x = 0) ∧
      (u.job.colls[k]?.bind fun c => c.paths[path]?) = some (p.resent g (g.again p a)) := by
  obtain ⟨hc, -⟩ := State.running_some hrun
  have hexec := execCollRetxReq_resends hdecl hrun hpath hrelay htx hfound hasked hnone htried
  rw [State.sendSeg_eq] at hexec
  have hchip : s.SameChip ((s.answerTaken c.die d stream.toNat 3).put k (c.resends path g (g.again p a))) :=
    s.answerTaken_sameChip c.die d stream.toNat 3
  have hcoll := State.put_coll (s := s.answerTaken c.die d stream.toNat 3)
    (c' := c.resends path g (g.again p a)) hc
  obtain ⟨l, q, hpackets, htype, hpayload, hdata, hto⟩ := State.segPackets_only ((s.answerTaken c.die d stream.toNat 3).put k
        (c.resends path g (g.again p a))) d t p (g.again p a) a
  rw [hpackets] at hexec
  refine ⟨_, l, q, hexec, rfl, ?_, htype, hpayload, hdata, fun x hx => ?_,
    (congrArg (fun o : Option CollInst => o.bind fun c => c.paths[path]?) hcoll).trans (getElem?_modify_same hpath _)⟩
  · rw [State.sends_netQ, List.append_assoc]
    exact congrArg (· ++ (l ++ [q])) (s.answerTaken_netQ c.die d stream.toNat 3)
  · rw [← hchip.hopTo]
    exact hto x hx

omit hrelay in
/-- A receiver that waits for a segment stalls (R422). -/
theorem execCollStall_ends (hrx : p.tx = false) (hmore : p.next < p.total) :
    exec (.collStall ix) s = .next (s.collEnd k c d t 3) := by
  have hgo : (c.paths.any fun p => !p.tx && decide (p.next < p.total)) = true := by
    rw [List.any_eq_true]
    exact ⟨p, List.mem_of_getElem? hpath, by rw [hrx, decide_eq_true hmore]; rfl⟩
  change execCollStall ix s = _
  unfold execCollStall
  rw [hrun, hdecl]
  exact if_pos hgo

/-- An ABORT ends the collective and is passed on (R423). -/
theorem execCollAbort_ends {pkt : Packet} (hwf : pkt.WellFormed = true) (hclass : pktClass pkt = 2) (htype : pktType pkt = 4)
    (hid : leAt pkt.payload 0 2 = d.id) (hunacked : p.unacked = []) : ∃ l,
      exec (.collAbort ix path pkt) s = .next (((s.takeDelivered c.die pkt).sends c.die l).collEnd k c d t 2) := by
  have hformed : ¬ (!pkt.WellFormed) = true := by rw [hwf]; exact Bool.false_ne_true
  have hgo : ¬ (pktClass pkt != 2 || pktType pkt != 4 || leAt pkt.payload 0 2 != d.id) = true := by
    rw [hclass, htype, hid]
    simp
  obtain ⟨l, hl⟩ := (s.takeDelivered c.die pkt).sendAborts_eq c d (leAt pkt.payload 2 2)
    [p.peer, BitVec.ofNat 27 (leAt pkt.payload 4 4)]
  refine ⟨l, ?_⟩
  change execCollAbort ix path pkt s = _
  unfold execCollAbort
  rw [if_neg hformed, hrelay]
  dsimp only
  rw [hrun, hdecl]
  dsimp only
  rw [hpath]
  refine (if_neg hgo).trans ?_
  rw [hunacked]
  exact congrArg (fun u : State => Outcome.next (u.collEnd k c d t 2)) hl

end

/-! ### A collective that ends otherwise than OK (R421 to R424) -/

/-- A collective's record (R421). -/
def endRecord (status flags id step segs count digest : Nat) : List Byte :=
  leBytes 2 status ++ leBytes 2 flags ++ leBytes 4 id ++ leBytes 4 step ++ leBytes 4 segs ++ leBytes 8 count ++ leBytes 8 digest

section
variable (status flags id step segs count digest : Nat)

theorem endRecord_length : (endRecord status flags id step segs count digest).length = 32 := by
  simp [endRecord]

theorem endRecord_status (h : status < 2 ^ 16) : leAt (endRecord status flags id step segs count digest) 0 2 = status :=
  leNat_of_eq_leBytes (k := 2) (by simp [endRecord]) h

theorem endRecord_id (h : id < 2 ^ 32) : leAt (endRecord status flags id step segs count digest) 4 4 = id :=
  leNat_of_eq_leBytes (k := 4) (by simp [endRecord, List.take_append, List.drop_append]) h

end

/-- A collective that has ended: none of its segments waits. -/
def CollInst.over (c : CollInst) (status : Nat) : CollInst :=
  { c with ended := some status, paths := c.paths.map fun p => { p with unacked := [], waiting := [], rxBuf := [], held := [] } }

theorem CollInst.over_empty {c : CollInst} {status : Nat} {q : CollPath} (h : q ∈ (c.over status).paths) :
    q.unacked = [] ∧ q.waiting = [] := by
  obtain ⟨p, -, rfl⟩ := List.mem_map.1 h
  exact ⟨rfl, rfl⟩

theorem State.endJob_colls (s : State) (status : Nat) (detail : Word) : (s.endJob status detail).job.colls = s.job.colls := by
  unfold State.endJob
  split
  · rfl
  · rfl

theorem State.serFree_eq {s : State} {a x : Nat} (h : s.locate .serac a = .mem x) (n : Nat) : ∃ bs : List Byte, bs.length = n ∧
    s.serFree a n = State.wr { s with free := s.free + 1 } x bs := by
  unfold State.serFree
  rw [h]
  exact ⟨tab n fun i => Config.freeByte s.free i, by simp [tab], rfl⟩

section
variable {s : State} {k : Nat} {c : CollInst} {d : CollDecl} {t : Topo} {status : Nat}

theorem State.collEnd_eq (hstarted : c.started = true) (hwritten : c.written = []) (hstatus : status ≠ 0) : ∃ flags count f,
    s.collEnd k c d t status = ((((s.hbmWr d.recAddr (endRecord status flags d.id c.step.toNat c.segs count 0)).modInst k fun c =>
      c.over status).modRouter c.die f).serFree d.dst (d.dstLen t)).endJob 3 (BitVec.ofNat 64 (status + d.id * 2 ^ 16)) := by
  have hdigest : (if status = 0 then crc64 (s.serRd d.dst (d.dstLen t)) else 0) = 0 := if_neg hstatus
  unfold State.collEnd
  dsimp only
  rw [if_neg hstatus, hdigest, hwritten, if_pos hstarted]
  exact ⟨_, _, _, rfl⟩

/-- STATUS and ID stand in the record, the destination's bytes are unspecified, no segment waits, and the job's end is the
collective's. -/
theorem State.collEnd_fails (hc : s.job.colls[k]? = some c) (hstarted : c.started = true) (hwritten : c.written = [])
    (himage : s.job.image.isSome = true) {m x : Nat} (hrec : s.locate .serac d.recAddr = .mem m) (hue : s.writeUe m 32 = none)
    (hdst : s.locate .serac d.dst = .mem x) (hapart : m + 32 ≤ x ∨ x + d.dstLen t ≤ m) (hid : d.id < 4096) (hstatus : status ≠ 0)
    (hlt : status < 2 ^ 16) :
    let u := s.collEnd k c d t status
    leNat (u.rd m 2) = status ∧ leNat (u.rd (m + 4) 4) = d.id ∧
      (∀ a, a < m ∨ m + 32 ≤ a → a < x ∨ x + d.dstLen t ≤ a → Memory.read 0 u.mem a = Memory.read 0 s.mem a) ∧
      u.job.colls[k]? = some (c.over status) ∧
      (s.job.pending = none → u.job.pending = some ⟨3, BitVec.ofNat 64 (status + d.id * 2 ^ 16)⟩) := by
  obtain ⟨flags, count, f, hend⟩ := State.collEnd_eq (s := s) (k := k) (d := d) (t := t) hstarted hwritten hstatus
  intro u
  have hlen := endRecord_length status flags d.id c.step.toNat c.segs count 0
  have hwr : s.hbmWr d.recAddr (endRecord status flags d.id c.step.toNat c.segs count 0) = _ :=
    State.hbmWr_eq_wr hrec (by rw [hlen]; exact hue)
  have hfr := s.wr_frame m (endRecord status flags d.id c.step.toNat c.segs count 0)
  have hloc := s.locate_wr m (endRecord status flags d.id c.step.toNat c.segs count 0)
  have hst := s.leNat_rd_wr m (bs := endRecord status flags d.id c.step.toNat c.segs count 0) (o := 0) (n := 2) (by rw [hlen]; decide)
  have hidr := s.leNat_rd_wr m (bs := endRecord status flags d.id c.step.toNat c.segs count 0) (o := 4) (n := 4) (by rw [hlen]; decide)
  have hkeep {a : Nat} (h : a < m ∨ m + 32 ≤ a) : Memory.read 0 (s.wr m (endRecord status flags d.id c.step.toNat c.segs count 0)).mem a =
      Memory.read 0 s.mem a := s.read_wr_apart (by rwa [hlen])
  rw [endRecord_status _ _ _ _ _ _ _ hlt] at hst
  rw [endRecord_id _ _ _ _ _ _ _ (hid.trans (by norm_num))] at hidr
  generalize s.wr m (endRecord status flags d.id c.step.toNat c.segs count 0) = w at hwr hfr hloc hst hidr hkeep
  have hcw : w.job.colls[k]? = some c := (congrArg (fun u : State => u.job.colls[k]?) hfr).trans hc
  rw [hwr, State.modInst_eq hcw] at hend
  have hdst' : ((w.put k (c.over status)).modRouter c.die f).locate .serac d.dst = .mem x :=
    (congrFun (congrFun hloc .serac) d.dst).trans hdst
  obtain ⟨bs, hbs, hfree⟩ := State.serFree_eq hdst' (d.dstLen t)
  rw [hfree] at hend
  generalize hv : ({ (w.put k (c.over status)).modRouter c.die f with free := ((w.put k (c.over status)).modRouter c.die f).free + 1 } :
    State) = v at hend
  have hvmem : v.mem = w.mem := by rw [← hv]; rfl
  have hjob : (v.wr x bs).job = (w.put k (c.over status)).job := by rw [v.wr_frame, ← hv]; rfl
  have hmem : u.mem = (v.wr x bs).mem := (congrArg State.mem hend).trans (State.endJob_mem ..)
  have hrd {a n : Nat} (h : a + n ≤ x ∨ x + d.dstLen t ≤ a) : u.rd a n = w.rd a n := by
    rw [State.rd, hmem]
    exact (v.rd_wr_apart (by rwa [hbs])).trans (by rw [State.rd, hvmem, State.rd])
  refine ⟨?_, ?_, fun a ha ha' => ?_, ?_, fun hpending => ?_⟩
  · rw [hrd (by omega)]
    exact hst
  · rw [hrd (by omega)]
    exact hidr
  · rw [hmem, v.read_wr_apart (by rwa [hbs]), hvmem]
    exact hkeep ha
  · refine (congrArg (fun u : State => u.job.colls[k]?) hend).trans ?_
    rw [State.endJob_colls, hjob]
    exact State.put_coll hcw
  · refine (congrArg (fun u : State => u.job.pending) hend).trans (((v.wr x bs).endJob_job 3 _).2 ?_ ?_)
    · rw [hjob]
      exact (congrArg (fun u : State => u.job.image.isSome) hfr).trans himage
    · rw [hjob]
      exact (congrArg (fun u : State => u.job.pending) hfr).trans hpending

end
/-! ### How a ring reduction starts (R406) -/

theorem CollInst.sender_congr {c c' : CollInst} (h : c'.paths.map CollPath.kind = c.paths.map CollPath.kind) (role : PathRole) :
    c'.sender role = c.sender role := by
  have hkinds (c : CollInst) : c.sender role = (c.paths.map CollPath.kind).findIdx fun x => x.1 && x.2 == role :=
    (List.findIdx_map c.paths CollPath.kind fun x => x.1 && x.2 == role).symm
  rw [hkinds, hkinds, h]

/-- The path at the sender's place sends in its role. -/
theorem CollInst.sender_role {c : CollInst} {role : PathRole} {q : CollPath} (hq : c.paths[c.sender role]? = some q) :
    q.role = role := by
  obtain ⟨hlt, hget⟩ := List.getElem?_eq_some_iff.1 hq
  have hfound : (fun p : CollPath => p.tx && p.role == role) (c.paths[c.sender role]'hlt) = true :=
    List.findIdx_getElem (p := fun p : CollPath => p.tx && p.role == role) (xs := c.paths) (w := hlt)
  rw [hget] at hfound
  exact beq_iff_eq.1 (Bool.and_eq_true_iff.1 hfound).2

/-- The segments of some stream indices put on their way in a role. -/
def State.sendsAll (k : Nat) (d : CollDecl) (t : Topo) (me : Nat) (role : PathRole) (l : List Nat) (s : State) : State :=
  l.foldl (fun s i => s.collSend k d t role (s.contribution d t (d.item t me role true i).1 (d.item t me role true i).2)
    (d.item t me role true i).2) s

section
variable {s : State} {k : Nat} {c : CollInst}

theorem State.sendsAll_eq (hc : s.job.colls[k]? = some c) (d : CollDecl) (t : Topo) (me : Nat) (role : PathRole) (l : List Nat) :
    ∃ c' m, State.sendsAll k d t me role l s = (s.put k c').sends c.die m ∧
      Advanced l.length (c.sender role) c.paths c'.paths ∧ c'.started = c.started ∧ c'.ended = c.ended ∧ c'.die = c.die := by
  induction l generalizing s c with
  | nil => exact ⟨c, [], by rw [State.sends_nil, State.put_same hc]; rfl, .refl _ _, rfl, rfl, rfl⟩
  | cons i l ih =>
    obtain ⟨c₁, m₁, hsend, hadvanced, hstarted, hended, -, hdie⟩ := State.collSend_eq hc d t role
      (s.contribution d t (d.item t me role true i).1 (d.item t me role true i).2) (d.item t me role true i).2
    obtain ⟨c₂, m₂, hrest, hadvanced', hstarted', hended', hdie'⟩ := ih (s := (s.put k c₁).sends c.die m₁) (c := c₁) (State.put_coll hc)
    rw [CollInst.sender_congr hadvanced.kinds] at hadvanced'
    refine ⟨c₂, m₁ ++ m₂, ?_, ?_, hstarted'.trans hstarted, hended'.trans hended, hdie'.trans hdie⟩
    · refine (congrArg (State.sendsAll k d t me role l) hsend).trans (hrest.trans ?_)
      rw [hdie, ← State.sends_sends, ← State.put_put s k c₁ c₂]
      exact rfl
    · rw [List.length_cons, Nat.add_comm]
      exact hadvanced.trans hadvanced'

theorem State.collBegin_ring {d : CollDecl} {t : Topo} (hkind : d.kind = 0) (haxis : d.axis < 3) (hsize : 1 < t.ringSize d.axis) :
    s.collBegin k d t = State.sendsAll k d t (d.me t s.routers[0].self) (.ring false) (List.range (d.dirSegs t false))
      (State.sendsAll k d t (d.me t s.routers[0].self) (.ring true) (List.range (d.dirSegs t true)) s) := by
  have hmembers : ¬ d.members t = 1 := by
    rw [CollDecl.members, hkind]
    exact Nat.ne_of_gt hsize
  have hgather : ¬ d.gathers = true := by simp [CollDecl.gathers, hkind]
  unfold State.collBegin
  dsimp only
  rw [hkind]
  refine (if_neg hmembers).trans ((if_pos haxis).trans ?_)
  rw [if_neg hgather]
  exact rfl

/-- The paths of a direction: one that sends and one that receives, where there is anything to carry (R407, R408). -/
theorem CollDecl.ringPaths_shape (d : CollDecl) (t : Topo) (self : ChipAddr) (plus : Bool) :
    d.ringPaths t self plus = [] ∧ (t.ringSize d.axis - 1) * d.dirSegs t plus = 0 ∨
      ∃ a b total, d.ringPaths t self plus = [newPath (.ring plus) true a total, newPath (.ring plus) false b total] ∧ total ≠ 0 := by
  unfold CollDecl.ringPaths
  dsimp only
  split
  · next hzero => exact .inl ⟨rfl, hzero⟩
  · next hsome => exact .inr ⟨_, _, _, rfl, hsome⟩

/-- The kinds of a direction's paths. -/
def ringKinds (plus b : Bool) : List (Bool × PathRole) := if b then [(true, .ring plus), (false, .ring plus)] else []

theorem CollDecl.ringPaths_kinds (d : CollDecl) (t : Topo) (self : ChipAddr) (plus : Bool) :
    ∃ b, (d.ringPaths t self plus).map CollPath.kind = ringKinds plus b := by
  obtain ⟨hnone, -⟩ | ⟨a, b, total, hsome, -⟩ := d.ringPaths_shape t self plus
  · exact ⟨false, by rw [hnone]; rfl⟩
  · exact ⟨true, by rw [hsome]; rfl⟩

theorem ringKinds_sender : ∀ (b b' sign : Bool) (j : Fin 4),
    (ringKinds true b ++ ringKinds false b')[j.val]? = some (true, .ring sign) →
      j.val = (ringKinds true b ++ ringKinds false b').findIdx fun x => x.1 && x.2 == .ring sign := by
  decide

theorem CollDecl.dirSegs_pos {d : CollDecl} {t : Topo} (h : 1 ≤ d.segs t) : 0 < d.dirSegs t true ∨ 0 < d.dirSegs t false := by
  unfold CollDecl.dirSegs
  split
  · exact .inl h
  · exact .inr h
  · refine .inl ?_
    simp only [if_true, cdiv]
    omega

section
variable {d : CollDecl} {t : Topo} {self : ChipAddr} (hpaths : c.paths = d.ringPaths t self true ++ d.ringPaths t self false)
include hpaths

/-- The paths of a ring that has not started have carried nothing, and one at most sends in each direction. -/
theorem ringPaths_fresh {j : Nat} {q : CollPath} (hq : c.paths[j]? = some q) : q.next = 0 ∧ q.load = 0 := by
  have hmem := List.mem_of_getElem? hq
  have hnew (plus : Bool) (h : q ∈ d.ringPaths t self plus) : q.next = 0 ∧ q.load = 0 := by
    obtain ⟨hnone, -⟩ | ⟨a, b, total, hsome, -⟩ := d.ringPaths_shape t self plus
    · rw [hnone] at h
      cases h
    · rw [hsome, List.mem_pair] at h
      obtain rfl | rfl := h
      · exact ⟨rfl, rfl⟩
      · exact ⟨rfl, rfl⟩
  rw [hpaths, List.mem_append] at hmem
  exact hmem.elim (hnew true) (hnew false)

theorem ringPaths_sender {j : Nat} {q : CollPath} {sign : Bool} (hq : c.paths[j]? = some q) (htx : q.tx = true)
    (hrole : q.role = .ring sign) : j = c.sender (.ring sign) := by
  have hkind : (c.paths.map CollPath.kind)[j]? = some (true, .ring sign) := by
    rw [List.getElem?_map, hq]
    exact congrArg some (Prod.ext htx hrole)
  have hsender : c.sender (.ring sign) = (c.paths.map CollPath.kind).findIdx fun x => x.1 && x.2 == .ring sign :=
    (List.findIdx_map c.paths CollPath.kind fun x => x.1 && x.2 == .ring sign).symm
  obtain ⟨b, hplus⟩ := d.ringPaths_kinds t self true
  obtain ⟨b', hminus⟩ := d.ringPaths_kinds t self false
  have hkinds : c.paths.map CollPath.kind = ringKinds true b ++ ringKinds false b' := by rw [hpaths, List.map_append, hplus, hminus]
  rw [hkinds] at hkind hsender
  rw [hsender]
  have hlt : j < 4 := (List.getElem?_eq_some_iff.1 hkind).1.trans_le (by cases b <;> cases b' <;> decide)
  exact ringKinds_sender b b' sign ⟨j, hlt⟩ hkind

theorem ringPaths_open (hsize : 1 < t.ringSize d.axis) (hsegs : 1 ≤ d.segs t) :
    ∃ (j : Nat) (q : CollPath), c.paths[j]? = some q ∧ q.tx = false ∧ q.next ≠ q.total := by
  have hopen (plus : Bool) (h : 0 < d.dirSegs t plus) : ∃ q ∈ d.ringPaths t self plus, q.tx = false ∧ q.next ≠ q.total := by
    obtain ⟨-, hzero⟩ | ⟨a, b, total, hsome, htotal⟩ := d.ringPaths_shape t self plus
    · exact absurd hzero (Nat.mul_ne_zero (by omega) (by omega))
    · exact ⟨newPath (.ring plus) false b total, by rw [hsome]; simp, rfl, htotal.symm⟩
  obtain ⟨q, hmem, hq⟩ : ∃ q ∈ c.paths, q.tx = false ∧ q.next ≠ q.total := by
    rw [hpaths]
    obtain h | h := CollDecl.dirSegs_pos hsegs
    · obtain ⟨q, hmem, hq⟩ := hopen true h
      exact ⟨q, List.mem_append_left _ hmem, hq⟩
    · obtain ⟨q, hmem, hq⟩ := hopen false h
      exact ⟨q, List.mem_append_right _ hmem, hq⟩
  obtain ⟨j, hj⟩ := List.mem_iff_getElem?.1 hmem
  exact ⟨j, q, hj, hq⟩

end
end

section
variable {s : State} {ix k : Nat} {c : CollInst} {d : CollDecl} {t : Topo}

/-- A collective that has started. -/
def CollInst.begun (c : CollInst) : CollInst := { c with started := true }

section
variable (hfind : s.findInst ix (fun c => !c.started && c.ended.isNone) = some (k, c)) (hdecl : s.collDecl ix = some (d, t))
include hfind hdecl

/-- Before its slot is observed, or while its gate word is not 0, a collective does not start. -/
theorem execCollStart_stays (h : ¬ 64 * (s.baseOf c.step.toNat + d.start) ≤ s.gtc.count.toNat ∨
    ¬ (d.gate = 0 ∨ leNat (s.serRd d.gate 8) = 0)) : exec (.collStart ix) s = .next s := by
  have hno : ¬ (s.mayStart (s.baseOf c.step.toNat + d.start) && s.observed (s.baseOf c.step.toNat + d.start) &&
      (d.gate == 0 || leNat (s.serRd d.gate 8) == 0)) = true := by
    rw [Bool.and_eq_true, Bool.and_eq_true, Bool.or_eq_true, beq_iff_eq, beq_iff_eq]
    rintro ⟨⟨-, hobserved⟩, hgate⟩
    exact h.elim (fun h => h (of_decide_eq_true hobserved)) fun h => h hgate
  change execCollStart ix s = _
  unfold execCollStart
  rw [hfind, hdecl]
  exact if_neg hno

/-- With no port lost it begins. -/
theorem execCollStart_begins (hmay : s.mayStart (s.baseOf c.step.toNat + d.start) = true)
    (hobserved : 64 * (s.baseOf c.step.toNat + d.start) ≤ s.gtc.count.toNat) (hgate : d.gate = 0 ∨ leNat (s.serRd d.gate 8) = 0)
    (hlost : ∀ p : PortId, (s.port p).state ≠ .lost) :
    exec (.collStart ix) s = .next (((s.put k c.begun).collBegin k d t).collCheck k d t) := by
  obtain ⟨hc, -⟩ := State.findInst_some hfind
  have hgo : (s.mayStart (s.baseOf c.step.toNat + d.start) && s.observed (s.baseOf c.step.toNat + d.start) &&
      (d.gate == 0 || leNat (s.serRd d.gate 8) == 0)) = true := by
    rw [Bool.and_eq_true, Bool.and_eq_true, Bool.or_eq_true, beq_iff_eq, beq_iff_eq]
    exact ⟨⟨hmay, decide_eq_true hobserved⟩, hgate⟩
  have hbegun : s.modInst k (fun c => { c with started := true }) = s.put k c.begun := State.modInst_eq hc _
  have hnone : ((List.range 20).find? fun p =>
      if h : p < 20 then ((s.put k c.begun).port ⟨p, h⟩).state == .lost && (s.put k c.begun).instUses c d t ⟨p, h⟩
      else false) = none := by
    rw [List.find?_eq_none]
    intro p _
    split
    · next hp =>
      rw [Bool.and_eq_true, beq_iff_eq]
      exact fun h => hlost ⟨p, hp⟩ h.1
    · exact Bool.false_ne_true
  change execCollStart ix s = _
  unfold execCollStart
  rw [hfind, hdecl]
  refine (if_pos hgo).trans ?_
  dsimp only
  rw [hbegun, hnone]

end

/-- The segments of both directions are on their way, or wait for it, and nothing has ended. -/
theorem State.collBegin_carries (hc : s.job.colls[k]? = some c) (hkind : d.kind = 0) (haxis : d.axis < 3)
    (hsize : 1 < t.ringSize d.axis) (hsegs : 1 ≤ d.segs t) {self : ChipAddr}
    (hpaths : c.paths = d.ringPaths t self true ++ d.ringPaths t self false) : ∃ c' l,
      (s.collBegin k d t).collCheck k d t = (s.put k c').sends c.die l ∧ c'.started = c.started ∧ c'.ended = c.ended ∧
        ∀ q ∈ c'.paths, ∀ sign, q.tx = true → q.role = .ring sign → q.next = d.dirSegs t sign ∧ q.load = d.dirSegs t sign := by
  obtain ⟨c₁, m₁, hplus, hadvanced₁, hstarted₁, hended₁, hdie⟩ := State.sendsAll_eq hc d t (d.me t s.routers[0].self) (.ring true)
    (List.range (d.dirSegs t true))
  obtain ⟨c₂, m₂, hminus, hadvanced₂, hstarted₂, hended₂, -⟩ := State.sendsAll_eq (s := (s.put k c₁).sends c.die m₁) (State.put_coll hc) d t
    (d.me t s.routers[0].self) (.ring false) (List.range (d.dirSegs t false))
  have hsame (role : PathRole) := CollInst.sender_congr hadvanced₁.kinds role
  rw [List.length_range] at hadvanced₁ hadvanced₂
  rw [hsame] at hadvanced₂
  have hbegin : s.collBegin k d t = (s.put k c₂).sends c.die (m₁ ++ m₂) := by
    rw [State.collBegin_ring hkind haxis hsize, hplus, hminus, hdie, ← State.sends_sends, ← State.put_put s k c₁ c₂]
    exact rfl
  have hopen : ∃ (j : Nat) (q : CollPath), c₂.paths[j]? = some q ∧ q.next ≠ q.total := by
    obtain ⟨j, q, hq, hrx, hmore⟩ := ringPaths_open hpaths hsize hsegs
    exact ⟨j, q, (hadvanced₂.others j (CollInst.sender_ne hq hrx _)).trans
      ((hadvanced₁.others j (CollInst.sender_ne hq hrx _)).trans hq), hmore⟩
  obtain ⟨j, q, hq, hmore⟩ := hopen
  have hcheck := State.collCheck_open (s := (s.put k c₂).sends c.die (m₁ ++ m₂)) (State.put_coll hc) hq hmore d t
  refine ⟨c₂, m₁ ++ m₂, (congrArg (fun u : State => u.collCheck k d t) hbegin).trans hcheck, hstarted₂.trans hstarted₁,
    hended₂.trans hended₁, fun q hmem sign htx hrole => ?_⟩
  obtain ⟨j, hj⟩ := List.mem_iff_getElem?.1 hmem
  have hkinds : (c.paths[j]?).map CollPath.kind = some (true, .ring sign) := by
    rw [← List.getElem?_map, ← hadvanced₁.kinds, ← hadvanced₂.kinds, List.getElem?_map, hj]
    exact congrArg some (Prod.ext htx hrole)
  obtain ⟨p, hp, hkind⟩ := Option.map_eq_some_iff.1 hkinds
  obtain ⟨hptx, hprole⟩ := Prod.mk.inj hkind
  obtain rfl := ringPaths_sender hpaths hp hptx hprole
  obtain ⟨hnext, hload⟩ := ringPaths_fresh hpaths hp
  have hne {sign' : Bool} (h : sign' ≠ sign) : c.sender (.ring sign) ≠ c.sender (.ring sign') := fun heq => by
    rw [heq] at hp
    exact h (PathRole.ring.inj ((CollInst.sender_role hp).symm.trans hprole))
  have htaken {n : Nat} {ps qs : List CollPath} (hadvanced : Advanced n (c.sender (.ring sign)) ps qs)
      (hbefore : ps[c.sender (.ring sign)]? = some p) (hafter : qs[c.sender (.ring sign)]? = some q) : q.next = n ∧ q.load = n := by
    obtain ⟨q', hq', hnext', hload'⟩ := hadvanced.taken p hbefore
    obtain rfl : q' = q := Option.some.inj (hq'.symm.trans hafter)
    rw [hnext', hload', hnext, hload, Nat.zero_add]
    exact ⟨rfl, rfl⟩
  cases sign with
  | true => exact htaken hadvanced₁ hp ((hadvanced₂.others _ (hne (by decide))).symm.trans hj)
  | false => exact htaken hadvanced₂ ((hadvanced₁.others _ (hne (by decide))).trans hp) hj

end

/-! ### The obligation -/

/-- Settles O27: ACCEPT releases, RETX_REQ sends again, ABORT and a stall end the collective with its record, and a ring reduction
starts with every segment of its first shard taken up. -/
theorem collectivesStartResendAndEnd : Obligations.CollectivesStartResendAndEnd := by
  unfold Obligations.CollectivesStartResendAndEnd
  intro s ix path k c d t r hdecl
  refine ⟨fun p stream g hrun hpath hrelay htx hfound => ⟨fun hwaiting hnext => ?accept, fun hrole hattempt => ?again,
    fun req hrole hreq htries => ?result⟩, fun stall pkt p m x hrun hpath hrelay hrec hue hdst hapart hwritten hid hstall habort => ?ends,
    fun hfind => ?start⟩
  case accept =>
    obtain ⟨hc, -⟩ := State.running_some hrun
    have hcoll := State.put_coll (s := s.answerTaken c.die d stream.toNat 2)
      (c' := { c with paths := c.paths.modify path fun p => p.acked stream }) hc
    refine ⟨_, execCollAccept_releases hdecl hrun hpath hrelay htx hfound hwaiting hnext, rfl,
      s.answerTaken_netQ c.die d stream.toNat 2,
      (congrArg (fun o : Option CollInst => o.bind fun c => c.paths[path]?) hcoll).trans ((getElem?_modify_same hpath _).trans ?_)⟩
    have hreleased : released stream p.unacked = (p.unacked.map fun h =>
        if h.stream % 2 ^ 20 = stream.toNat then { h with acks := h.acks - 1 } else h).filter fun h => h.acks ≠ 0 := by
      simp only [released, beq_iff_eq]
      exact List.filter_congr fun g _ => Bool.eq_iff_iff.2 (by simp)
    rw [CollPath.acked, hreleased]
  case again =>
    have hnot : ¬ (p.role == .result) = true := by simpa using hrole
    have htried : g.tried p p.peer = g.attempt := if_neg hnot
    have hagain : g.again p p.peer = { g with attempt := g.attempt + 1 } := by
      rw [SendSeg.again, htried, if_neg hnot]
    obtain ⟨u, l, q, hexec, hframe, hnet, htype, hpayload, hdata, -, hat⟩ := execCollRetxReq_sends (a := p.peer) hdecl hrun hpath hrelay
      htx hfound (fun q _ => if_neg hnot) (fun _ => rfl) (by rw [htried]; exact hattempt)
    rw [hagain] at hpayload hat
    refine ⟨u, l, q, hexec, hframe, hnet, htype, hpayload, hdata, hat.trans ?_⟩
    simp [CollPath.resent]
  case result =>
    have his : (p.role == .result) = true := by simpa using hrole
    have htried : g.tried p (pktSrc req) < 2 := by
      rw [SendSeg.tried, if_pos his]
      cases hlast : g.tries.find? fun e => e.1 == pktSrc req with
      | none => decide
      | some e => exact htries e (List.mem_of_find?_eq_some hlast) (by simpa using List.find?_some hlast)
    obtain ⟨u, l, q, hexec, hframe, hnet, htype, -, -, hto, -⟩ := execCollRetxReq_sends (a := pktSrc req) hdecl hrun hpath hrelay htx
      hfound (fun q hq => by rw [if_pos his, Option.some.inj (hq.symm.trans hreq)]) (fun h => by rw [hreq] at h; cases h) htried
    exact ⟨u, l, q, hexec, hframe, hnet, htype, hto⟩
  case ends =>
    obtain ⟨hc, hstarted, -⟩ := State.running_some hrun
    have himage : s.job.image.isSome = true := by
      obtain ⟨im, himage, -⟩ := Option.bind_eq_some_iff.1 hdecl
      rw [himage]
      rfl
    cases stall with
    | true =>
      obtain ⟨hrx, hmore⟩ := hstall rfl
      obtain ⟨hst, hidr, hkept, hcoll, hjob⟩ := State.collEnd_fails (t := t) hc hstarted hwritten himage hrec hue hdst hapart hid
        (status := 3) (by decide) (by decide)
      refine ⟨_, execCollStall_ends hdecl hrun hpath hrx hmore, hst, hidr, hkept, by rw [hcoll]; rfl, fun c' hc' q hq => ?_, hjob⟩
      obtain rfl := Option.some.inj (hcoll.symm.trans hc')
      exact CollInst.over_empty hq
    | false =>
      obtain ⟨hwf, hclass, htype, hids, hunacked⟩ := habort rfl
      obtain ⟨l, hexec⟩ := execCollAbort_ends hdecl hrun hpath hrelay hwf hclass htype hids hunacked
      obtain ⟨hst, hidr, hkept, hcoll, hjob⟩ := State.collEnd_fails (s := (s.takeDelivered c.die pkt).sends c.die l) (t := t) hc hstarted
        hwritten himage hrec hue hdst hapart hid (status := 2) (by decide) (by decide)
      refine ⟨_, hexec, hst, hidr, hkept, by rw [hcoll]; rfl, fun c' hc' q hq => ?_, hjob⟩
      obtain rfl := Option.some.inj (hcoll.symm.trans hc')
      exact CollInst.over_empty hq
  case start =>
    obtain ⟨hc, hfresh⟩ := State.findInst_some hfind
    intro slot now hmay
    refine ⟨fun _ hgate hword => execCollStart_stays hfind hdecl (.inr fun h => h.elim hgate hword),
      fun hearly => execCollStart_stays hfind hdecl (.inl (not_le.2 hearly)),
      fun hobserved hgate hkind haxis hsize hsegs hpaths hlost => ?_⟩
    obtain ⟨c', l, hbegin, hstarted, hended, hcarries⟩ := State.collBegin_carries (s := s.put k c.begun) (State.put_coll hc) hkind haxis
      hsize hsegs hpaths
    have hcoll : (((s.put k c.begun).put k c').sends c.begun.die l).job.colls[k]? = some c' :=
      State.put_coll (s := s.put k c.begun) (c := c.begun) (State.put_coll hc)
    have hnone : c.ended = none := Option.isNone_iff_eq_none.1 (Bool.and_eq_true_iff.1 hfresh).2
    refine ⟨_, (execCollStart_begins hfind hdecl hmay hobserved hgate hlost).trans (congrArg Outcome.next hbegin), rfl, ?_, ?_⟩
    · rw [hcoll]
      exact congrArg some (Prod.ext hstarted (hended.trans hnone))
    · intro c'' hc'' q hq sign htx hrole
      obtain rfl : c' = c'' := Option.some.inj (hcoll.symm.trans hc'')
      exact hcarries q hq sign htx hrole

end Sys2Proof.Machine
end
